-- ==== Sys2Proof/Word.lean ====
section
/-! DEFINITION. The word types of the part and their plainest arithmetic (R3, R4). -/
namespace Sys2Proof

/-- One byte. -/
abbrev Byte := BitVec 8
/-- A program-memory word (R64). -/
abbrev PWord := BitVec 14
/-- A 32-bit word. -/
abbrev Word := BitVec 32
/-- A 64-bit word, an A register or a CSR. -/
abbrev DWord := BitVec 64
/-- A vector register (R42). -/
abbrev VWord := BitVec 512
/-- A virtual address (R43). -/
abbrev VAddr := BitVec 48
/-- A physical address (R276). -/
abbrev PAddr := BitVec 46
/-- A tile ID: Cob, row and column, four bits each. -/
abbrev TileId := BitVec 12
/-- A thread index within a tile. -/
abbrev Thr := BitVec 2
/-- A register number (R68). -/
abbrev Reg := BitVec 3
/-- A seed address (R49). -/
abbrev Seed := BitVec 13
/-- A queue index within a tile. -/
abbrev QIx := BitVec 4
/-- A function number (R440). -/
abbrev FuncNo := BitVec 5
/-- A Cob number (R10). -/
abbrev CobNo := BitVec 4
/-- A Tamore Link port number (R432). -/
abbrev PortNo := BitVec 2
/-- A die link number, 0 to 53 (R523). -/
abbrev DLink := BitVec 6

end Sys2Proof
end

