-- ==== Sys2Proof/Syntax.lean ====
section
/-! DEFINITION. The commands of the part: the operand types, and `Instr`, one constructor for each row of the
opcode table. Where a row stands for a tile instruction its first operands name the tile and the thread. -/
namespace Sys2Proof

/-- Vector lane type, field TY (R70). -/
inductive Ty | fp32 | fp16 | bf16 | int32
  deriving DecidableEq, Repr
/-- Element code of VCVT and TCVT (R70). -/
inductive Elem | fp32 | fp16 | bf16 | int32 | e4m3 | e5m2 | fp4 | int8
  deriving DecidableEq, Repr
/-- Branch condition (R70). -/
inductive BrCond | al | eq | ne | lt | ge | cs | cc | vs
  deriving DecidableEq, Repr
/-- Lane comparison of VCMP (R70). -/
inductive VCond | eq | ne | lt | le | gt | ge
  deriving DecidableEq, Repr
/-- Scope of REL and ACQ, narrowest first (R337). -/
inductive Scope | thread | tile | cob | package | system
  deriving DecidableEq, Repr
/-- String element size (R70). -/
inductive ESize | b8 | b16 | b32 | b64
  deriving DecidableEq, Repr
/-- Pattern of the A operand, field SP (R70). -/
inductive Sp | dense | s24 | s14
  deriving DecidableEq, Repr
/-- Matrix operand types, field MT (R70). -/
inductive Mt | e4e4 | e5e5 | e4e5 | e5e4 | fp4 | int8 | bf16 | fp16
  deriving DecidableEq, Repr
/-- Lane mask of layout VW: none for M = 0, else bits [12:5] of the mask's seed address (R69). -/
abbrev Mask := Option (BitVec 8)
/-- Element mask of layout VX: none for M = 0, else bits [12:8] of the mask's seed address (R69). -/
abbrev Mask5 := Option (BitVec 5)
/-- Who makes a register access: a thread, the management controller or the JTAG debugger (R55). -/
inductive Src
  | thread (t : TileId) (h : Thr)
  | mgmt
  | jtag
  deriving DecidableEq, Repr
/-- Who writes a ring register: a source of `Src`, or the adapter through CFGWR (R454). -/
inductive RegSrc
  | src (r : Src)
  | adapter
  deriving DecidableEq, Repr
/-- A copy engine: a tile's own, or Husk engine e (R327). -/
inductive Eng
  | tile (t : TileId)
  | husk (e : BitVec 2)
  deriving DecidableEq, Repr
/-- A message source with a credit cache: a tile, the command engine of a Husk, or the management controller
(R241). -/
inductive Sender
  | tile (t : TileId)
  | cmd (husk1 : Bool)
  | mgmt
  deriving DecidableEq, Repr
/-- A switched power domain (R15). -/
inductive Domain
  | half (c : CobNo) (south : Bool)
  | memif (c : CobNo)
  | kiln1
  deriving DecidableEq, Repr
/-- What an error-correcting code finds on an access. -/
inductive Ecc | none | corrected | uncorrectable
  deriving DecidableEq, Repr
/-- What the host code finds on the slice reads of one command: an outcome for each address, within one 32-byte burst, that
does not read clean (R285). -/
abbrev SliceEcc := List (BitVec 46 × Ecc)
/-- Kind of an inbound window request: WR, ACC with its ATYPE, or CLM (R437). -/
inductive WinKind
  | write
  | acc (atype : BitVec 2)
  | claim
  deriving DecidableEq, Repr
/-- A request of a remote part for an inbound window (R325, R436). -/
structure WinReq where
  srcId : BitVec 16
  func : FuncNo
  win : BitVec 6
  kind : WinKind
  offset : BitVec 64
  bytes : List (BitVec 8)
  tag : BitVec 16
  /-- what the slices' codes find on the reads that it needs -/
  ecc : SliceEcc
  deriving DecidableEq, Repr
/-- An uncorrectable error, as the block that met it reports it (R366, R377). -/
structure McReport where
  /-- source code 0x01 to 0x09 -/
  src : BitVec 8
  /-- the tile concerned; none when no single tile is -/
  tile : Option TileId
  /-- the function failed (ignored for the part-wide sources 0x08 and 0x09) -/
  func : FuncNo
  pa : BitVec 46
  va : Option (BitVec 48)
  /-- the thread whose own load, string read or fetch met the error, when there is one -/
  reader : Option (TileId × Thr)
  deriving DecidableEq, Repr
/-- Sampled levels of QA and QB of a quadrature input, each with how many consecutive equal samples it has had (R404). -/
structure QuadIn where
  a : Bool
  b : Bool
  na : Nat
  nb : Nat
  deriving DecidableEq, Repr
/-- A transfer on the management port (R546, R547). -/
structure SbXfer where
  /-- an I3C SDR private transfer, or an SMBus transaction -/
  i3c : Bool
  addr : BitVec 7
  /-- the bytes written after the address, from the command byte on; a write under SMBus ends with its PEC -/
  bytes : List (BitVec 8)
  /-- rails within tolerance as the supply monitor finds them: bit 0–15 VCORE, 16–17 VKILN, 18 VHUSK, 19 VSERDES, 20 VHBM,
  21 VHBMQ, 22 VPP, 23 VIO33, 24 VIO18, 25 VSTBY -/
  rails : BitVec 26
  deriving DecidableEq, Repr
/-- What CXL training and enumeration find on the eight links, link l of port n at 2n + l (R299). -/
structure CxlReport where
  trained : BitVec 8
  flit68 : BitVec 8
  /-- capacity of each link's device, in 256 MiB units -/
  capacity : List Nat
  deriving DecidableEq, Repr


/-- The commands of the part: one constructor for each row of the opcode table. -/
inductive Instr
  /-- NOP (R104). -/
  | nop (t : TileId) (h : Thr)
  /-- STOP (R104). -/
  | stop (t : TileId) (h : Thr)
  /-- LIFT (R104). -/
  | lift (t : TileId) (h : Thr)
  /-- BRKPT (R104). -/
  | brkpt (t : TileId) (h : Thr)
  /-- RTNS (R362). -/
  | rtns (t : TileId) (h : Thr)
  /-- RTNM (R362). -/
  | rtnm (t : TileId) (h : Thr)
  /-- MFS (R86). -/
  | mfs (t : TileId) (h : Thr) (d : Reg) (ix : BitVec 8)
  /-- MTS (R86). -/
  | mts (t : TileId) (h : Thr) (x : Reg) (ix : BitVec 8)
  /-- ADD (R97). -/
  | add (t : TileId) (h : Thr) (d : Reg) (x : Reg)
  /-- SUB (R97). -/
  | sub (t : TileId) (h : Thr) (d : Reg) (x : Reg)
  /-- AND (R97). -/
  | and_ (t : TileId) (h : Thr) (d : Reg) (x : Reg)
  /-- OR (R97). -/
  | or_ (t : TileId) (h : Thr) (d : Reg) (x : Reg)
  /-- XOR (R97). -/
  | xor (t : TileId) (h : Thr) (d : Reg) (x : Reg)
  /-- SHL (R98). -/
  | shl (t : TileId) (h : Thr) (d : Reg) (x : Reg)
  /-- SHR (R98). -/
  | shr (t : TileId) (h : Thr) (d : Reg) (x : Reg)
  /-- SAR (R98). -/
  | sar (t : TileId) (h : Thr) (d : Reg) (x : Reg)
  /-- MUL (R97). -/
  | mul (t : TileId) (h : Thr) (d : Reg) (x : Reg)
  /-- CMP (R97). -/
  | cmp (t : TileId) (h : Thr) (d : Reg) (x : Reg)
  /-- MOV (R97). -/
  | mov (t : TileId) (h : Thr) (d : Reg) (x : Reg)
  /-- ADDI (R97). -/
  | addi (t : TileId) (h : Thr) (d : Reg) (x : Reg) (imm : BitVec 14)
  /-- ANDI (R97). -/
  | andi (t : TileId) (h : Thr) (d : Reg) (x : Reg) (imm : BitVec 14)
  /-- CMPI (R97). -/
  | cmpi (t : TileId) (h : Thr) (x : Reg) (imm : BitVec 14)
  /-- LDI (R74). -/
  | ldi (t : TileId) (h : Thr) (d : Reg) (imm : BitVec 32)
  /-- MOVA (R75). -/
  | mova (t : TileId) (h : Thr) (ad : Reg) (x : Reg)
  /-- ADDA (R75). -/
  | adda (t : TileId) (h : Thr) (ad : Reg) (x : Reg)
  /-- LAI (R75). -/
  | lai (t : TileId) (h : Thr) (ad : Reg) (imm : BitVec 28)
  /-- LAH (R75). -/
  | lah (t : TileId) (h : Thr) (ad : Reg) (imm : BitVec 20)
  /-- LD (R99). -/
  | ld (t : TileId) (h : Thr) (r : Reg) (an : Reg) (dsp : BitVec 14)
  /-- ST (R99). -/
  | st (t : TileId) (h : Thr) (r : Reg) (an : Reg) (dsp : BitVec 14)
  /-- LDA (R99). -/
  | lda (t : TileId) (h : Thr) (r : Reg) (an : Reg) (dsp : BitVec 14)
  /-- STA (R99). -/
  | sta (t : TileId) (h : Thr) (r : Reg) (an : Reg) (dsp : BitVec 14)
  /-- ZLINE (R195). -/
  | zline (t : TileId) (h : Thr) (an : Reg) (dsp : BitVec 14)
  /-- BR (R104). -/
  | br (t : TileId) (h : Thr) (cond : BrCond) (po : BitVec 14)
  /-- CALL (R104). -/
  | call (t : TileId) (h : Thr) (d : Reg) (po : BitVec 14)
  /-- JR (R104). -/
  | jr (t : TileId) (h : Thr) (x : Reg)
  /-- REP (R118). -/
  | rep (t : TileId) (h : Thr) (dc : Reg) (po : BitVec 14)
  /-- SMOV (R122). -/
  | smov (t : TileId) (h : Thr) (ad : Reg) (x : Reg) (mode : Bool) (sz : ESize) (dc : Reg)
  /-- SSCN (R122). -/
  | sscn (t : TileId) (h : Thr) (ad : Reg) (dv : Reg) (mode : Bool) (sz : ESize) (dc : Reg)
  /-- SFIL (R122). -/
  | sfil (t : TileId) (h : Thr) (ad : Reg) (dv : Reg) (mode : Bool) (sz : ESize) (dc : Reg)
  /-- BPUT (R105). -/
  | bput (t : TileId) (h : Thr) (v : Bool) (a : Seed)
  /-- BMOV (R105). -/
  | bmov (t : TileId) (h : Thr) (dst : Seed) (n : Bool) (src : Seed)
  /-- BAND (R105). -/
  | band (t : TileId) (h : Thr) (dst : Seed) (n : Bool) (src : Seed)
  /-- BOR (R105). -/
  | bor (t : TileId) (h : Thr) (dst : Seed) (n : Bool) (src : Seed)
  /-- BXOR (R105). -/
  | bxor (t : TileId) (h : Thr) (dst : Seed) (n : Bool) (src : Seed)
  /-- BWAIT (R105). -/
  | bwait (t : TileId) (h : Thr) (v : Bool) (a : Seed)
  /-- BSKP (R84). -/
  | bskp (t : TileId) (h : Thr) (v : Bool) (a : Seed)
  /-- BRD (R105). -/
  | brd (t : TileId) (h : Thr) (d : Reg) (sa : Seed)
  /-- BWR (R105). -/
  | bwr (t : TileId) (h : Thr) (x : Reg) (sa : Seed)
  /-- VLD (R108). -/
  | vld (t : TileId) (h : Thr) (vd : Reg) (an : Reg) (m : Mask) (ty : Ty) (dsp : BitVec 14)
  /-- VST (R108). -/
  | vst (t : TileId) (h : Thr) (vs : Reg) (an : Reg) (m : Mask) (ty : Ty) (dsp : BitVec 14)
  /-- VBC (R109). -/
  | vbc (t : TileId) (h : Thr) (vd : Reg) (x : Reg) (m : Mask) (ty : Ty)
  /-- VEXT (R109). -/
  | vext (t : TileId) (h : Thr) (d : Reg) (va : Reg) (lane : BitVec 5) (ty : Ty)
  /-- VPERM (R109). -/
  | vperm (t : TileId) (h : Thr) (vd : Reg) (va : Reg) (vb : Reg) (m : Mask) (ty : Ty)
  /-- VSEL (R109). -/
  | vsel (t : TileId) (h : Thr) (vd : Reg) (va : Reg) (vb : Reg) (m : Mask) (ty : Ty)
  /-- VCMP (R109). -/
  | vcmp (t : TileId) (h : Thr) (cond : VCond) (va : Reg) (vb : Reg) (m : Mask) (ty : Ty)
  /-- VCVT (R112). -/
  | vcvt (t : TileId) (h : Thr) (vd : Reg) (va : Reg) (se : Elem) (de : Elem)
  /-- VXS (R113). -/
  | vxs (t : TileId) (h : Thr) (vd : Reg) (va : Reg) (dk : Reg) (ac : Reg) (m : Mask5) (ty : Ty)
  /-- VXCK (R116). -/
  | vxck (t : TileId) (h : Thr) (va : Reg) (ac : Reg) (m : Mask5)
  /-- VROUTE (R172). -/
  | vroute (t : TileId) (h : Thr) (dt : Reg) (va : Reg) (an : Reg) (k : BitVec 3) (ty : Ty)
  /-- VADD (R110). -/
  | vadd (t : TileId) (h : Thr) (vd : Reg) (va : Reg) (vb : Reg) (m : Mask) (ty : Ty)
  /-- VSUB (R110). -/
  | vsub (t : TileId) (h : Thr) (vd : Reg) (va : Reg) (vb : Reg) (m : Mask) (ty : Ty)
  /-- VMUL (R110). -/
  | vmul (t : TileId) (h : Thr) (vd : Reg) (va : Reg) (vb : Reg) (m : Mask) (ty : Ty)
  /-- VFMA (R110). -/
  | vfma (t : TileId) (h : Thr) (vd : Reg) (va : Reg) (vb : Reg) (m : Mask) (ty : Ty)
  /-- VMAX (R110). -/
  | vmax (t : TileId) (h : Thr) (vd : Reg) (va : Reg) (vb : Reg) (m : Mask) (ty : Ty)
  /-- VMIN (R110). -/
  | vmin (t : TileId) (h : Thr) (vd : Reg) (va : Reg) (vb : Reg) (m : Mask) (ty : Ty)
  /-- VAND (R110). -/
  | vand (t : TileId) (h : Thr) (vd : Reg) (va : Reg) (vb : Reg) (m : Mask) (ty : Ty)
  /-- VOR (R110). -/
  | vor (t : TileId) (h : Thr) (vd : Reg) (va : Reg) (vb : Reg) (m : Mask) (ty : Ty)
  /-- VXOR (R110). -/
  | vxor (t : TileId) (h : Thr) (vd : Reg) (va : Reg) (vb : Reg) (m : Mask) (ty : Ty)
  /-- VRSUM (R110). -/
  | vrsum (t : TileId) (h : Thr) (vd : Reg) (va : Reg) (m : Mask) (ty : Ty)
  /-- VRMAX (R110). -/
  | vrmax (t : TileId) (h : Thr) (vd : Reg) (va : Reg) (m : Mask) (ty : Ty)
  /-- VEXP (R110). -/
  | vexp (t : TileId) (h : Thr) (vd : Reg) (va : Reg) (m : Mask) (ty : Ty)
  /-- VRCP (R110). -/
  | vrcp (t : TileId) (h : Thr) (vd : Reg) (va : Reg) (m : Mask) (ty : Ty)
  /-- TCFG (R126). -/
  | tcfg (t : TileId) (h : Thr) (k : Reg) (sh : BitVec 14)
  /-- TLD (R131). -/
  | tld (t : TileId) (h : Thr) (k : Reg) (an : Reg) (x : Reg)
  /-- TST (R131). -/
  | tst (t : TileId) (h : Thr) (k : Reg) (an : Reg) (x : Reg)
  /-- TZERO (R128). -/
  | tzero (t : TileId) (h : Thr) (k : Reg)
  /-- TFREE (R128). -/
  | tfree (t : TileId) (h : Thr) (k : Reg)
  /-- TMOV (R128). -/
  | tmov (t : TileId) (h : Thr) (d : Reg) (x : Reg)
  /-- TRDV (R128). -/
  | trdv (t : TileId) (h : Thr) (vd : Reg) (k : Reg) (row : BitVec 6)
  /-- TWRV (R128). -/
  | twrv (t : TileId) (h : Thr) (k : Reg) (vs : Reg) (row : BitVec 6)
  /-- TTRN (R128). -/
  | ttrn (t : TileId) (h : Thr) (d : Reg) (x : Reg)
  /-- TCVT (R128). -/
  | tcvt (t : TileId) (h : Thr) (d : Reg) (x : Reg) (ec : Elem)
  /-- TSKIP (R158). -/
  | tskip (t : TileId) (h : Thr) (dk : Reg) (v : Bool) (a : Seed)
  /-- MSCL (R128). -/
  | mscl (t : TileId) (h : Thr) (k : Reg) (role : Bool)
  /-- MMA (R135). -/
  | mma (t : TileId) (h : Thr) (c : Reg) (a : Reg) (b : Reg) (sp : Sp) (tm : Reg) (mt : Mt)
  /-- MMAZ (R135). -/
  | mmaz (t : TileId) (h : Thr) (c : Reg) (a : Reg) (b : Reg) (sp : Sp) (tm : Reg) (mt : Mt)
  /-- MMAS (R156). -/
  | mmas (t : TileId) (h : Thr) (c : Reg) (a : Reg) (b : Reg) (sp : Sp) (mt : Mt) (sa : Seed)
  /-- MWAIT (R129). -/
  | mwait (t : TileId) (h : Thr) (k : Reg)
  /-- QPUT (R215). -/
  | qput (t : TileId) (h : Thr) (x : Reg)
  /-- QCMT (R216). -/
  | qcmt (t : TileId) (h : Thr) (dt : Reg) (dh : Reg)
  /-- QMCST (R216). -/
  | qmcst (t : TileId) (h : Thr) (dt : Reg) (dg : Reg)
  /-- QRICK (R216). -/
  | qrick (t : TileId) (h : Thr) (dt : Reg) (dh : Reg)
  /-- QRD (R228). -/
  | qrd (t : TileId) (h : Thr) (vd : Reg) (q : QIx)
  /-- QTRY (R228). -/
  | qtry (t : TileId) (h : Thr) (vd : Reg) (q : QIx)
  /-- QDROP (R228). -/
  | qdrop (t : TileId) (h : Thr) (q : QIx)
  /-- QCLOSE (R228). -/
  | qclose (t : TileId) (h : Thr) (q : QIx)
  /-- QARM (R234). -/
  | qarm (t : TileId) (h : Thr) (dc : Reg) (dt : Reg) (q : QIx)
  /-- REL (R339). -/
  | rel (t : TileId) (h : Thr) (scope : Scope)
  /-- ACQ (R340). -/
  | acq (t : TileId) (h : Thr) (scope : Scope)
  /-- CEPUT (R302). -/
  | ceput (t : TileId) (h : Thr) (an : Reg)
  /-- CERES (R303). -/
  | ceres (t : TileId) (h : Thr)
  /-- CEQRY (R303). -/
  | ceqry (t : TileId) (h : Thr) (d : Reg)
  /-- RESERVED_ENCODING (R92). -/
  | reservedEncoding (t : TileId) (h : Thr) (w : BitVec 14)
  /-- ASYNC_EVENT_TAKEN (R360). -/
  | asyncEventTaken (t : TileId) (h : Thr)
  /-- TIMER (R376). -/
  | timer (t : TileId) (h : Thr)
  /-- BLOCKED_WAKE (R37). -/
  | blockedWake (t : TileId) (h : Thr)
  /-- LOAD_DATA_ARRIVAL (R30). -/
  | loadDataArrival (t : TileId) (h : Thr)
  /-- VECTOR_RESULT (R107). -/
  | vectorResult (t : TileId) (h : Thr) (vd : Reg)
  /-- STORE_ACK (R338). -/
  | storeAck (t : TileId) (i : BitVec 3)
  /-- STORE_REFUSAL (R365). -/
  | storeRefusal (t : TileId) (i : BitVec 3)
  /-- SECTOR_FILL (R191). -/
  | sectorFill (t : TileId) (id : Nat)
  /-- TRANSLATION_WALK (R318). -/
  | translationWalk (t : TileId) (h : Thr) (ecc : SliceEcc)
  /-- MATRIX_START (R137). -/
  | matrixStart (t : TileId)
  /-- MATRIX_COMMIT (R138). -/
  | matrixCommit (t : TileId)
  /-- CORD_GRANT (R494). -/
  | cordGrant (t : TileId)
  /-- THREAD_START (R41). -/
  | threadStart (src : Src) (t : TileId) (h : Thr)
  /-- THREAD_STOP (R39). -/
  | threadStop (src : Src) (t : TileId) (h : Thr)
  /-- THREAD_HALT (R40). -/
  | threadHalt (src : Src) (t : TileId) (h : Thr)
  /-- THREAD_UNHALT (R40). -/
  | threadUnhalt (src : Src) (t : TileId) (h : Thr)
  /-- SWS (R375). -/
  | sws (src : Src) (t : TileId) (h : Thr)
  /-- SWM (R375). -/
  | swm (src : Src) (t : TileId) (h : Thr)
  /-- STEP (R521). -/
  | step (src : Src) (t : TileId) (h : Thr)
  /-- HALTALL (R520). -/
  | haltall (src : Src) (t : TileId)
  /-- INV (R202). -/
  | inv (src : Src) (t : TileId)
  /-- CSIZE_WRITE (R194). -/
  | csizeWrite (src : Src) (t : TileId) (v : BitVec 32)
  /-- MESSAGE_ARRIVAL (R225). -/
  | messageArrival (id : Nat)
  /-- WAITING_MESSAGE_PLACED (R222). -/
  | waitingMessagePlaced (t : TileId) (q : QIx)
  /-- RICK_CONTRIBUTION_ARRIVAL (R235). -/
  | rickContributionArrival (id : Nat)
  /-- ROUTER_COMBINE (R235). -/
  | routerCombine (r : TileId) (id : Nat) (other : Nat)
  /-- RICK_HOLD_EXPIRY (R260). -/
  | rickHoldExpiry (r : TileId) (id : Nat)
  /-- CREDIT_REQUEST_ARRIVAL (R552). -/
  | creditRequestArrival (id : Nat)
  /-- HELD_REQUEST_GRANT (R219). -/
  | heldRequestGrant (t : TileId) (q : QIx)
  /-- GRANT_ARRIVAL (R220). -/
  | grantArrival (id : Nat)
  /-- CREDIT_RETURN_ARRIVAL (R220). -/
  | creditReturnArrival (id : Nat)
  /-- CREDIT_IDLE_RETURN (R220). -/
  | creditIdleReturn (u : Sender) (e : BitVec 4)
  /-- FLUSH (R220). -/
  | flush (src : Src) (t : TileId)
  /-- RESPONSE_ARRIVAL (R227). -/
  | responseArrival (id : Nat)
  /-- QUEUE_ENABLE (R231). -/
  | queueEnable (src : Src) (t : TileId) (q : QIx) (w : BitVec 32)
  /-- QUEUE_DISABLE (R553). -/
  | queueDisable (src : Src) (t : TileId) (q : QIx)
  /-- REASSIGN (R231). -/
  | reassign (src : Src) (t : TileId) (q : QIx)
  /-- CLOSE (R244). -/
  | close (src : Src) (t : TileId) (q : QIx)
  /-- DISARM (R238). -/
  | disarm (src : Src) (t : TileId) (q : QIx)
  /-- DESCRIPTOR_START (R307). -/
  | descriptorStart (e : Eng)
  /-- CHUNK_START (R309). -/
  | chunkStart (e : Eng) (ecc : SliceEcc)
  /-- CHUNK_FINISH (R309). -/
  | chunkFinish (e : Eng) (ecc : SliceEcc)
  /-- COMPLETION_MESSAGE_SEND (R310). -/
  | completionMessageSend (e : Eng)
  /-- LATE_ERROR (R314). -/
  | lateError (e : Eng) (cause : BitVec 4) (va : BitVec 48) (side : Bool) (moved : Nat) (ecc : SliceEcc)
  /-- PAUSE (R312). -/
  | pause (src : Src) (t : TileId)
  /-- GO (R312). -/
  | go (src : Src) (t : TileId)
  /-- RESUME (R315). -/
  | resume (src : Src) (t : TileId)
  /-- ABORT (R312). -/
  | abort (src : Src) (t : TileId)
  /-- WINV (R319). -/
  | winv (src : Src) (c : CobNo) (vpn : BitVec 36) (f : FuncNo) (all : Bool)
  /-- WINV_DONE (R319). -/
  | winvDone (c : CobNo)
  /-- SWEEP (R387). -/
  | sweep (src : Src) (c : CobNo) (f : FuncNo) (cksel : Bool)
  /-- SWEEP_DONE (R387). -/
  | sweepDone (c : CobNo)
  /-- INBOUND_WINDOW_REQUEST (R325). -/
  | inboundWindowRequest (rq : WinReq)
  /-- INBOUND_WRITE (R260). -/
  | inboundWrite (t : TileId) (ecc : Ecc)
  /-- REMOTE_ACCESS_ARRIVAL (R187). -/
  | remoteAccessArrival (id : Nat) (ecc : Ecc)
  /-- LMEM_ZERO_DONE (R178). -/
  | lmemZeroDone (t : TileId)
  /-- SLICE_REQUEST (R281). -/
  | sliceRequest (id : Nat) (ecc : SliceEcc)
  /-- ADD_I32 (R288). -/
  | addI32 (src : Option TileId) (f : FuncNo) (pa : BitVec 46) (mask : BitVec 16) (x : BitVec 512) (ecc : SliceEcc)
  /-- ADD_F32 (R288). -/
  | addF32 (src : Option TileId) (f : FuncNo) (pa : BitVec 46) (mask : BitVec 16) (x : BitVec 512) (ecc : SliceEcc)
  /-- ADD_XS (R288). -/
  | addXs (src : Option TileId) (f : FuncNo) (cksel : Bool) (pa : BitVec 46) (mask : BitVec 8) (x : BitVec 512) (ecc : SliceEcc)
  /-- CKADD (R293). -/
  | ckadd (f : FuncNo) (cksel : Bool) (pa : BitVec 46) (claim : BitVec 64)
  /-- CKRD (R292). -/
  | ckrd (f : FuncNo) (cksel : Bool) (pa : BitVec 46)
  /-- CXL_COMPLETION (R300). -/
  | cxlCompletion (e : Eng) (ok : Bool)
  /-- CXL_LINK_DOWN (R300). -/
  | cxlLinkDown (l : BitVec 3)
  /-- CSR_ACCESS_COMPLETE (R550). -/
  | csrAccessComplete (id : Nat)
  /-- DIE_LINK_FRAME (R272). -/
  | dieLinkFrame (l : DLink) (up : Bool) (slots : List (BitVec 8)) (carries : List (Nat × Bool)) (noise : List (BitVec 8))
  /-- DIE_LINK_REPLAY (R272). -/
  | dieLinkReplay (l : DLink) (up : Bool)
  /-- DIE_LINK_RETRAIN (R273). -/
  | dieLinkRetrain (l : DLink)
  /-- DIE_LINK_RETRAIN_END (R273). -/
  | dieLinkRetrainEnd (l : DLink) (ok : Bool)
  /-- MACHINE_CHECK (R367). -/
  | machineCheck (mc : McReport)
  /-- CENSUS_START (R371). -/
  | censusStart (f : FuncNo)
  /-- CENSUS_PROBE (R371). -/
  | censusProbe (f : FuncNo)
  /-- CENSUS_REPORT (R371). -/
  | censusReport (f : FuncNo)
  /-- TL_FRAME (R434). -/
  | tlFrame (p : PortNo) (fec : Bool) (bytes : List (BitVec 8)) (ecc : SliceEcc)
  /-- NAK (R434). -/
  | nak (p : PortNo) (sq : BitVec 12)
  /-- ASSIGN (R435). -/
  | assign (p : PortNo) (dev : BitVec 16) (peer : BitVec 16)
  /-- RETRAIN (R435). -/
  | retrain (p : PortNo)
  /-- TL_RETRAIN_END (R434). -/
  | tlRetrainEnd (p : PortNo) (ok : Bool)
  /-- DOORBELL (R441). -/
  | doorbell (p : PortNo) (f : FuncNo) (tail : BitVec 16) (head : BitVec 16)
  /-- CFGWR (R454). -/
  | cfgwr (p : PortNo) (f : FuncNo) (off : BitVec 64) (w : BitVec 64)
  /-- CFGRD (R454). -/
  | cfgrd (p : PortNo) (f : FuncNo) (off : BitVec 64)
  /-- WR (R438). -/
  | wr (p : PortNo) (rq : WinReq)
  /-- ACC (R438). -/
  | acc (p : PortNo) (rq : WinReq)
  /-- CLM (R438). -/
  | clm (p : PortNo) (rq : WinReq)
  /-- RSP (R437). -/
  | rsp (p : PortNo) (tag : BitVec 16) (status : BitVec 8)
  /-- RDC (R437). -/
  | rdc (p : PortNo) (tag : BitVec 16) (status : BitVec 8) (bytes : List (BitVec 8))
  /-- CMD_NOP (R447). -/
  | cmdNop (f : FuncNo)
  /-- CMD_STATUS (R447). -/
  | cmdStatus (f : FuncNo)
  /-- PMEM (R447). -/
  | pmem (f : FuncNo)
  /-- TCTL (R447). -/
  | tctl (f : FuncNo)
  /-- START (R447). -/
  | start (f : FuncNo)
  /-- COPY (R447). -/
  | copy (f : FuncNo)
  /-- MSG (R447). -/
  | msg (f : FuncNo)
  /-- SETPT (R447). -/
  | setpt (f : FuncNo)
  /-- QUIESCE (R449). -/
  | quiesce (f : FuncNo)
  /-- QUIESCE_DONE (R449). -/
  | quiesceDone (f : FuncNo)
  /-- QUIESCE_TIMEOUT (R449). -/
  | quiesceTimeout (f : FuncNo)
  /-- RESET (R450). -/
  | reset (f : FuncNo)
  /-- FN_CTL_RESET (R450). -/
  | fnCtlReset (src : Src) (f : FuncNo)
  /-- RESET_STOP_THREADS (R450). -/
  | resetStopThreads (f : FuncNo)
  /-- RESET_DRAIN_END (R450). -/
  | resetDrainEnd (f : FuncNo)
  /-- RESET_CLEAR (R450). -/
  | resetClear (f : FuncNo)
  /-- RESET_END (R450). -/
  | resetEnd (f : FuncNo)
  /-- POST (R446). -/
  | post (src : Src) (f : FuncNo) (w : BitVec 64)
  /-- COMPLETION_ENTRY_WRITE (R442). -/
  | completionEntryWrite (f : FuncNo)
  /-- RING_ENABLE (R456). -/
  | ringEnable (src : RegSrc) (f : FuncNo) (cq : Bool) (w : BitVec 64)
  /-- QUAD_EDGE (R405). -/
  | quadEdge (i : BitVec 1) (x : QuadIn) (other : Option QuadIn)
  /-- INDEX_LATCH (R407). -/
  | indexLatch (i : BitVec 1) (n : Nat)
  /-- SSI_FRAME (R408). -/
  | ssiFrame (sdat : Bool)
  /-- SSI_UPDATE (R409). -/
  | ssiUpdate (raw : BitVec 32)
  /-- COUNTER_UPDATE (R412). -/
  | counterUpdate (c : BitVec 1) (d : BitVec 48)
  /-- PULSE_END (R415). -/
  | pulseEnd (j : BitVec 3)
  /-- POSITION_EVENT_SEND (R418). -/
  | positionEventSend
  /-- COUNTER_LOAD (R410). -/
  | counterLoad (src : Src) (c : BitVec 1) (w : BitVec 64)
  /-- EVENT_ENTRY_ENABLE (R411). -/
  | eventEntryEnable (src : Src) (e : BitVec 10) (w : BitVec 64)
  /-- PIN_WRITE (R428). -/
  | pinWrite (src : Src) (w : BitVec 32)
  /-- SLOT_WRITE (R421). -/
  | slotWrite (src : Src) (i : BitVec 8) (ans : Bool) (w : BitVec 32)
  /-- SLOT_VALID (R421). -/
  | slotValid (src : Src) (i : BitVec 8)
  /-- SLOT_FREE (R421). -/
  | slotFree (src : Src) (i : BitVec 8)
  /-- QUERY (R422). -/
  | query (bytes : List (BitVec 8))
  /-- PING (R424). -/
  | ping (bytes : List (BitVec 8))
  /-- OTHER_OP (R424). -/
  | otherOp (bytes : List (BitVec 8))
  /-- BAD_FRAME (R419). -/
  | badFrame (framing : Bool) (bytes : List (BitVec 8))
  /-- ANSWER_START (R423). -/
  | answerStart
  /-- COLD_START (R469). -/
  | coldStart
  /-- IDENTITY (R476). -/
  | identity (sfdp0 : Bool) (sfdp1 : Bool) (puf : List (BitVec 8))
  /-- FABRIC_PHASE (R469). -/
  | fabricPhase (ok : Bool)
  /-- HBM_PHASE (R284). -/
  | hbmPhase (ok : Bool)
  /-- IMAGE_READ (R467). -/
  | imageRead (dev : Bool) (answers : Bool)
  /-- IMAGE_APPLY (R470). -/
  | imageApply (cxl : CxlReport)
  /-- RELEASE (R470). -/
  | release
  /-- HELD_ACCESS_RELEASE (R554). -/
  | heldAccessRelease
  /-- FLASH_READ (R474). -/
  | flashRead (src : Src) (dev : Bool) (addr : BitVec 32)
  /-- FLASH_PROGRAM (R474). -/
  | flashProgram (src : Src) (dev : Bool) (addr : BitVec 32)
  /-- FLASH_ERASE (R474). -/
  | flashErase (src : Src) (dev : Bool) (addr : BitVec 32)
  /-- FLASH_CHECK (R474). -/
  | flashCheck (src : Src) (dev : Bool) (addr : BitVec 32) (answers : Bool)
  /-- FLASH_OP_DONE (R474). -/
  | flashOpDone (timeout : Bool)
  /-- ATTESTATION_REQUEST (R477). -/
  | attestationRequest (src : Src)
  /-- REPORT_SIGNED (R477). -/
  | reportSigned (sig : List (BitVec 8))
  /-- HALF_SWITCH_OFF (R485). -/
  | halfSwitchOff (c : CobNo) (south : Bool)
  /-- MEMIF_SWITCH_OFF (R282). -/
  | memifSwitchOff (c : CobNo)
  /-- DOMAIN_WAKE (R488). -/
  | domainWake (d : Domain)
  /-- DOMAIN_ON (R486). -/
  | domainOn (d : Domain)
  /-- KILN1_SWITCH_OFF (R490). -/
  | kiln1SwitchOff (windows : List (List (BitVec 8 × BitVec 8)))
  /-- KILN1_SWITCH_ON (R490). -/
  | kiln1SwitchOn (loads : List (BitVec 8))
  /-- KILN_ROUTE_CHANGE (R267). -/
  | kilnRouteChange
  /-- SAG (R495). -/
  | sag (c : CobNo)
  /-- SAG_PERSIST (R495). -/
  | sagPersist (c : CobNo)
  /-- CLEAN_STEP_UP (R496). -/
  | cleanStepUp (c : CobNo)
  /-- TEMPERATURE_READ (R499). -/
  | temperatureRead (dies : List (BitVec 8)) (stk : List (BitVec 8))
  /-- THERMAL_PERIOD (R500). -/
  | thermalPeriod
  /-- COLDRST_ASSERT (R541). -/
  | coldrstAssert
  /-- RAIL_FAULT (R541). -/
  | railFault (rail : BitVec 5)
  /-- CSRADDR (R518). -/
  | csraddr (x : BitVec 48)
  /-- CSRDATA (R518). -/
  | csrdata (x : BitVec 65)
  /-- IDCODE (R519). -/
  | idcode
  /-- BYPASS (R518). -/
  | bypass
  /-- SAMPLE_PRELOAD (R518). -/
  | samplePreload (bits : List Bool)
  /-- EXTEST (R518). -/
  | extest
  /-- CSR_READ (R547). -/
  | csrRead (x : SbXfer)
  /-- CSR_WRITE (R547). -/
  | csrWrite (x : SbXfer)
  /-- SIDEBAND_STATUS (R547). -/
  | sidebandStatus (x : SbXfer)
  /-- DYNAMIC_ADDRESS (R546). -/
  | dynamicAddress (a : BitVec 7)
  /-- REGISTER_WRITE (R9). -/
  | registerWrite (src : Src) (pa : BitVec 46) (width : BitVec 8) (x : BitVec 64)
  /-- LADE_RELEASE (R423). -/
  | ladeRelease
  /-- SWITCH_OFF_SEQUENCE_END (R489). -/
  | switchOffSequenceEnd (d : Domain)
  /-- RAIL_OFF (R541). -/
  | railOff (rail : BitVec 5)
  /-- STACK_SCRUB (R286). -/
  | stackScrub (pa : BitVec 46) (ecc : Ecc)
  deriving DecidableEq, Repr

end Sys2Proof
end

