-- ==== Sys2Proof/WellFormed.lean ====
section
/-! DEFINITION. Which commands spell an assigned encoding: the cases of R90 that the operand types leave open, and
the range of a die link number (R523). -/
namespace Sys2Proof

/-- The special-register indices that R85 and R117 name. -/
def specialIndex (ix : BitVec 8) : Bool := ix.toNat < 8 || (16 ≤ ix.toNat && ix.toNat < 19)

/-- A 32-bit lane type. -/
def tyWide : Ty → Bool
  | .fp32 => true
  | .fp16 => false
  | .bf16 => false
  | .int32 => true

/-- False exactly for a tile instruction that R90 makes a reserved encoding, and for a die link that is not there. -/
def WellFormed : Instr → Bool
  | .mfs _ _ _ ix => specialIndex ix
  | .mts _ _ _ ix => specialIndex ix
  | .smov _ _ _ _ mode _ _ => !mode
  | .sfil _ _ _ _ mode _ _ => !mode
  | .brd _ _ _ sa => sa.toNat % 32 = 0
  | .bwr _ _ _ sa => sa.toNat % 32 = 0
  | .vext _ _ _ _ lane ty => !(tyWide ty && decide (16 ≤ lane.toNat))
  | .vexp _ _ _ _ _ ty => ty ≠ .int32
  | .vrcp _ _ _ _ _ ty => ty ≠ .int32
  | .vroute _ _ _ _ _ _ ty => ty ≠ .int32
  | .vand _ _ _ _ _ _ ty => ty = .int32
  | .vor _ _ _ _ _ _ ty => ty = .int32
  | .vxor _ _ _ _ _ _ ty => ty = .int32
  | .vsel _ _ _ _ _ m _ => m.isSome
  | .vcmp _ _ _ _ _ m _ => m.isSome
  | .vxs _ _ vd _ _ _ _ _ => vd.toNat % 2 = 0
  | .mma _ _ _ _ _ sp tm _ => !(sp = .dense && tm ≠ 0)
  | .mmaz _ _ _ _ _ sp tm _ => !(sp = .dense && tm ≠ 0)
  | .mmas _ _ _ _ _ sp _ sa => sp ≠ .dense && sa.toNat % 32 = 0
  | .reservedEncoding _ _ _ => false
  | .dieLinkFrame l _ _ _ _ => l.toNat < 54
  | .dieLinkReplay l _ => l.toNat < 54
  | .dieLinkRetrain l => l.toNat < 54
  | .dieLinkRetrainEnd l _ => l.toNat < 54
  | _ => true

end Sys2Proof
end

