-- ==== Sys2Proof/Decode.lean ====
section
/-! DEFINITION. The 14-bit encoding of the tile instructions (R64–R90): the length of a cell, an encoder and a decoder.
The rows of the opcode table give no bits, so `decodeTableWord` spells no command. -/
namespace Sys2Proof

/-- The command that a word of the opcode table spells: no row gives bits. -/
def decodeTableWord (_nbits _w : Nat) : Option Instr := none

/-- Words of the instruction whose first word is `w`; a reserved cell counts as one word (R65, R72–R84). -/
def cellLen (w : PWord) : Nat :=
  let mn := w.toNat / 64 % 16
  match w.toNat / 1024 % 16 with
  | 0 => if mn = 7 || mn = 8 then 2 else 1
  | 2 => if mn ≤ 2 then 2 else if 14 ≤ mn then 3 else 1
  | 3 => if mn = 2 || mn = 3 then 3 else if 4 ≤ mn && mn ≤ 8 then 2 else 1
  | 4 => if mn ≤ 6 && mn ≠ 2 then 2 else 1
  | 5 => if 1 ≤ mn && mn ≤ 4 then 3 else if mn ≤ 8 then 2 else 1
  | 6 => if mn ≤ 1 then 3 else if mn ≤ 10 then 2 else 1
  | 7 => if mn ≤ 12 then 2 else 1
  | 8 => if mn ≤ 2 || mn = 6 || mn = 7 || mn = 9 || mn = 10 then 2 else 1
  | 9 => if mn ≤ 1 then 2 else if mn = 2 then 3 else 1
  | 10 => if 4 ≤ mn && mn ≤ 8 then 2 else 1
  | _ => 1

/-! ## Coded fields (R70) -/

def tyEnc : Ty → BitVec 2
  | .fp32 => 0 | .fp16 => 1 | .bf16 => 2 | .int32 => 3
def tyDec (x : BitVec 2) : Ty :=
  if x = 0 then .fp32 else if x = 1 then .fp16 else if x = 2 then .bf16 else .int32
def elemEnc : Elem → BitVec 3
  | .fp32 => 0 | .fp16 => 1 | .bf16 => 2 | .int32 => 3 | .e4m3 => 4 | .e5m2 => 5 | .fp4 => 6 | .int8 => 7
def elemDec (x : BitVec 3) : Elem :=
  match x.toNat with
  | 0 => .fp32 | 1 => .fp16 | 2 => .bf16 | 3 => .int32 | 4 => .e4m3 | 5 => .e5m2 | 6 => .fp4 | _ => .int8
def brEnc : BrCond → BitVec 3
  | .al => 0 | .eq => 1 | .ne => 2 | .lt => 3 | .ge => 4 | .cs => 5 | .cc => 6 | .vs => 7
def brDec (x : BitVec 3) : BrCond :=
  match x.toNat with
  | 0 => .al | 1 => .eq | 2 => .ne | 3 => .lt | 4 => .ge | 5 => .cs | 6 => .cc | _ => .vs
def vcEnc : VCond → BitVec 3
  | .eq => 0 | .ne => 1 | .lt => 2 | .le => 3 | .gt => 4 | .ge => 5
def vcDec (x : BitVec 3) : Option VCond :=
  match x.toNat with
  | 0 => some .eq | 1 => some .ne | 2 => some .lt | 3 => some .le | 4 => some .gt | 5 => some .ge | _ => none
def scopeEnc : Scope → BitVec 3
  | .thread => 0 | .tile => 1 | .cob => 2 | .package => 3 | .system => 4
def scopeDec (x : BitVec 3) : Option Scope :=
  match x.toNat with
  | 0 => some .thread | 1 => some .tile | 2 => some .cob | 3 => some .package | 4 => some .system | _ => none
def sizeEnc : ESize → BitVec 2
  | .b8 => 0 | .b16 => 1 | .b32 => 2 | .b64 => 3
def sizeDec (x : BitVec 2) : ESize :=
  match x.toNat with
  | 0 => .b8 | 1 => .b16 | 2 => .b32 | _ => .b64
def spEnc : Sp → BitVec 2
  | .dense => 0 | .s24 => 1 | .s14 => 2
def spDec (x : BitVec 2) : Option Sp :=
  match x.toNat with
  | 0 => some .dense | 1 => some .s24 | 2 => some .s14 | _ => none
def mtEnc : Mt → BitVec 4
  | .e4e4 => 0 | .e5e5 => 1 | .e4e5 => 2 | .e5e4 => 3 | .fp4 => 4 | .int8 => 5 | .bf16 => 6 | .fp16 => 7
def mtDec (x : BitVec 4) : Option Mt :=
  match x.toNat with
  | 0 => some .e4e4 | 1 => some .e5e5 | 2 => some .e4e5 | 3 => some .e5e4 | 4 => some .fp4 | 5 => some .int8
  | 6 => some .bf16 | 7 => some .fp16 | _ => none
def oneBit (b : Bool) : BitVec 1 := if b then 1 else 0

/-! ## Words and layouts (R64, R69) -/

/-- A first word: MAJ, MIN, X, Y. -/
def word1 (maj mn : BitVec 4) (x y : BitVec 3) : PWord := maj ++ mn ++ x ++ y
/-- Layout VW. -/
def layVW (m : Mask) (vb : Reg) (ty : Ty) : PWord := oneBit m.isSome ++ vb ++ m.getD 0 ++ tyEnc ty
/-- Layout VX. -/
def layVX (m : Mask5) (dk ac : Reg) (ty : Ty) : PWord := oneBit m.isSome ++ dk ++ ac ++ m.getD 0 ++ tyEnc ty
/-- Layout SB, and SZ and SN with their leading bit. -/
def laySB (v : Bool) (a : Seed) : PWord := oneBit v ++ a
/-- Layout STR. -/
def laySTR (mode : Bool) (sz : ESize) (dc : Reg) : PWord := (0#8) ++ oneBit mode ++ sizeEnc sz ++ dc
/-- Layout MW. -/
def layMW (tb : Reg) (sp : Sp) (tm : Reg) (mt : Mt) : PWord := tb ++ spEnc sp ++ tm ++ (0#2) ++ mtEnc mt
/-- Layout VR. -/
def layVR (an : Reg) (k : BitVec 3) (ty : Ty) : PWord := (0#1) ++ an ++ k ++ (0#5) ++ tyEnc ty

/-- The words of a tile instruction (R72–R83); none for a command that is no instruction. -/
def encode : Instr → List PWord
  | .nop _ _ => [word1 0 1 0 0]
  | .stop _ _ => [word1 0 2 0 0]
  | .lift _ _ => [word1 0 3 0 0]
  | .brkpt _ _ => [word1 0 4 0 0]
  | .rtns _ _ => [word1 0 5 0 0]
  | .rtnm _ _ => [word1 0 6 0 0]
  | .mfs _ _ d ix => [word1 0 7 d 0, (0#6) ++ ix]
  | .mts _ _ x ix => [word1 0 8 0 x, (0#6) ++ ix]
  | .add _ _ d x => [word1 1 0 d x]
  | .sub _ _ d x => [word1 1 1 d x]
  | .and_ _ _ d x => [word1 1 2 d x]
  | .or_ _ _ d x => [word1 1 3 d x]
  | .xor _ _ d x => [word1 1 4 d x]
  | .shl _ _ d x => [word1 1 5 d x]
  | .shr _ _ d x => [word1 1 6 d x]
  | .sar _ _ d x => [word1 1 7 d x]
  | .mul _ _ d x => [word1 1 8 d x]
  | .cmp _ _ d x => [word1 1 9 d x]
  | .mov _ _ d x => [word1 1 10 d x]
  | .addi _ _ d x imm => [word1 2 0 d x, imm]
  | .andi _ _ d x imm => [word1 2 1 d x, imm]
  | .cmpi _ _ x imm => [word1 2 2 0 x, imm]
  | .ldi _ _ d imm => [word1 2 (0b111#3 ++ imm.extractLsb' 31 1) d (imm.extractLsb' 28 3), imm.extractLsb' 14 14, imm.extractLsb' 0 14]
  | .mova _ _ ad x => [word1 3 0 ad x]
  | .adda _ _ ad x => [word1 3 1 ad x]
  | .lai _ _ ad imm => [word1 3 2 ad 0, imm.extractLsb' 14 14, imm.extractLsb' 0 14]
  | .lah _ _ ad imm => [word1 3 3 ad 0, ((0#8) ++ (imm.extractLsb' 14 6)), imm.extractLsb' 0 14]
  | .ld _ _ r an dsp => [word1 3 4 r an, dsp]
  | .st _ _ r an dsp => [word1 3 5 r an, dsp]
  | .lda _ _ r an dsp => [word1 3 6 r an, dsp]
  | .sta _ _ r an dsp => [word1 3 7 r an, dsp]
  | .zline _ _ an dsp => [word1 3 8 0 an, dsp]
  | .br _ _ cond po => [word1 4 0 (brEnc cond) 0, po]
  | .call _ _ d po => [word1 4 1 d 0, po]
  | .jr _ _ x => [word1 4 2 0 x]
  | .rep _ _ dc po => [word1 4 3 0 dc, po]
  | .smov _ _ ad x mode sz dc => [word1 4 4 ad x, laySTR mode sz dc]
  | .sscn _ _ ad dv mode sz dc => [word1 4 5 ad dv, laySTR mode sz dc]
  | .sfil _ _ ad dv mode sz dc => [word1 4 6 ad dv, laySTR mode sz dc]
  | .bput _ _ v a => [word1 5 0 0 0, laySB v a]
  | .bmov _ _ dst n src => [word1 5 1 0 0, laySB false dst, laySB n src]
  | .band _ _ dst n src => [word1 5 2 0 0, laySB false dst, laySB n src]
  | .bor _ _ dst n src => [word1 5 3 0 0, laySB false dst, laySB n src]
  | .bxor _ _ dst n src => [word1 5 4 0 0, laySB false dst, laySB n src]
  | .bwait _ _ v a => [word1 5 5 0 0, laySB v a]
  | .bskp _ _ v a => [word1 5 6 0 0, laySB v a]
  | .brd _ _ d sa => [word1 5 7 d 0, laySB false sa]
  | .bwr _ _ x sa => [word1 5 8 0 x, laySB false sa]
  | .vld _ _ vd an m ty dsp => [word1 6 0 vd an, layVW m 0 ty, dsp]
  | .vst _ _ vs an m ty dsp => [word1 6 1 vs an, layVW m 0 ty, dsp]
  | .vbc _ _ vd x m ty => [word1 6 2 vd x, layVW m 0 ty]
  | .vext _ _ d va lane ty => [word1 6 3 d va, ((0#7) ++ lane ++ tyEnc ty)]
  | .vperm _ _ vd va vb m ty => [word1 6 4 vd va, layVW m vb ty]
  | .vsel _ _ vd va vb m ty => [word1 6 5 vd va, layVW m vb ty]
  | .vcmp _ _ cond va vb m ty => [word1 6 6 (vcEnc cond) va, layVW m vb ty]
  | .vcvt _ _ vd va se de => [word1 6 7 vd va, ((0#1) ++ elemEnc se ++ elemEnc de ++ (0#7))]
  | .vxs _ _ vd va dk ac m ty => [word1 6 8 vd va, layVX m dk ac ty]
  | .vxck _ _ va ac m => [word1 6 9 0 va, layVX m 0 ac .fp32]
  | .vroute _ _ dt va an k ty => [word1 6 10 dt va, layVR an k ty]
  | .vadd _ _ vd va vb m ty => [word1 7 0 vd va, layVW m vb ty]
  | .vsub _ _ vd va vb m ty => [word1 7 1 vd va, layVW m vb ty]
  | .vmul _ _ vd va vb m ty => [word1 7 2 vd va, layVW m vb ty]
  | .vfma _ _ vd va vb m ty => [word1 7 3 vd va, layVW m vb ty]
  | .vmax _ _ vd va vb m ty => [word1 7 4 vd va, layVW m vb ty]
  | .vmin _ _ vd va vb m ty => [word1 7 5 vd va, layVW m vb ty]
  | .vand _ _ vd va vb m ty => [word1 7 6 vd va, layVW m vb ty]
  | .vor _ _ vd va vb m ty => [word1 7 7 vd va, layVW m vb ty]
  | .vxor _ _ vd va vb m ty => [word1 7 8 vd va, layVW m vb ty]
  | .vrsum _ _ vd va m ty => [word1 7 9 vd va, layVW m 0 ty]
  | .vrmax _ _ vd va m ty => [word1 7 10 vd va, layVW m 0 ty]
  | .vexp _ _ vd va m ty => [word1 7 11 vd va, layVW m 0 ty]
  | .vrcp _ _ vd va m ty => [word1 7 12 vd va, layVW m 0 ty]
  | .tcfg _ _ k sh => [word1 8 0 k 0, sh]
  | .tld _ _ k an x => [word1 8 1 k an, ((0#11) ++ x)]
  | .tst _ _ k an x => [word1 8 2 k an, ((0#11) ++ x)]
  | .tzero _ _ k => [word1 8 3 k 0]
  | .tfree _ _ k => [word1 8 4 k 0]
  | .tmov _ _ d x => [word1 8 5 d x]
  | .trdv _ _ vd k row => [word1 8 6 vd k, ((0#8) ++ row)]
  | .twrv _ _ k vs row => [word1 8 7 k vs, ((0#8) ++ row)]
  | .ttrn _ _ d x => [word1 8 8 d x]
  | .tcvt _ _ d x ec => [word1 8 9 d x, ((0#11) ++ elemEnc ec)]
  | .tskip _ _ dk v a => [word1 8 10 0 dk, laySB v a]
  | .mscl _ _ k role => [word1 8 11 k ((0#2) ++ oneBit role)]
  | .mma _ _ c a b sp tm mt => [word1 9 0 c a, layMW b sp tm mt]
  | .mmaz _ _ c a b sp tm mt => [word1 9 1 c a, layMW b sp tm mt]
  | .mmas _ _ c a b sp mt sa => [word1 9 2 c a, layMW b sp 0 mt, laySB false sa]
  | .mwait _ _ k => [word1 9 3 k 0]
  | .qput _ _ x => [word1 10 0 0 x]
  | .qcmt _ _ dt dh => [word1 10 1 dt dh]
  | .qmcst _ _ dt dg => [word1 10 2 dt dg]
  | .qrick _ _ dt dh => [word1 10 3 dt dh]
  | .qrd _ _ vd q => [word1 10 4 vd 0, ((0#10) ++ q)]
  | .qtry _ _ vd q => [word1 10 5 vd 0, ((0#10) ++ q)]
  | .qdrop _ _ q => [word1 10 6 0 0, ((0#10) ++ q)]
  | .qclose _ _ q => [word1 10 7 0 0, ((0#10) ++ q)]
  | .qarm _ _ dc dt q => [word1 10 8 dc dt, ((0#10) ++ q)]
  | .rel _ _ scope => [word1 11 0 0 (scopeEnc scope)]
  | .acq _ _ scope => [word1 11 1 0 (scopeEnc scope)]
  | .ceput _ _ an => [word1 11 2 0 an]
  | .ceres _ _ => [word1 11 3 0 0]
  | .ceqry _ _ d => [word1 11 4 d 0]
  | .reservedEncoding _ _ w => [w]
  | _ => []

/-! ## Decoding -/

/-- A field of a word. -/
def fld (w : PWord) (lo n : Nat) : BitVec n := BitVec.extractLsb' lo n w

/-- The mask of a layout VW word: bits [9:2] must be 0 when M is 0. -/
def maskOf (w : PWord) : Option Mask :=
  if w.getLsbD 13 then some (some (fld w 2 8)) else if fld w 2 8 = 0 then some none else none
/-- The mask of a layout VX word. -/
def mask5Of (w : PWord) : Option Mask5 :=
  if w.getLsbD 13 then some (some (fld w 2 5)) else if fld w 2 5 = 0 then some none else none

/-- A condition on fields that must be zero. -/
def zero {α : Type} (c : Bool) (v : Option α) : Option α := if c then v else none

/-- Major 0x0 (R72). -/
def decodeControl (t : TileId) (h : Thr) (w0 w1 _w2 : PWord) : Option Instr :=
  match w0.toNat / 64 % 16 with
  | 1 => zero (decide ((fld w0 3 3) = 0) && decide ((fld w0 0 3) = 0)) (some (.nop t h))
  | 2 => zero (decide ((fld w0 3 3) = 0) && decide ((fld w0 0 3) = 0)) (some (.stop t h))
  | 3 => zero (decide ((fld w0 3 3) = 0) && decide ((fld w0 0 3) = 0)) (some (.lift t h))
  | 4 => zero (decide ((fld w0 3 3) = 0) && decide ((fld w0 0 3) = 0)) (some (.brkpt t h))
  | 5 => zero (decide ((fld w0 3 3) = 0) && decide ((fld w0 0 3) = 0)) (some (.rtns t h))
  | 6 => zero (decide ((fld w0 3 3) = 0) && decide ((fld w0 0 3) = 0)) (some (.rtnm t h))
  | 7 => zero (decide ((fld w0 0 3) = 0) && decide (fld w1 8 6 = 0)) (some (.mfs t h (fld w0 3 3) (fld w1 0 8)))
  | 8 => zero (decide ((fld w0 3 3) = 0) && decide (fld w1 8 6 = 0)) (some (.mts t h (fld w0 0 3) (fld w1 0 8)))
  | _ => none

/-- Major 0x1 (R73). -/
def decodeInteger (t : TileId) (h : Thr) (w0 _w1 _w2 : PWord) : Option Instr :=
  match w0.toNat / 64 % 16 with
  | 0 => some (.add t h (fld w0 3 3) (fld w0 0 3))
  | 1 => some (.sub t h (fld w0 3 3) (fld w0 0 3))
  | 2 => some (.and_ t h (fld w0 3 3) (fld w0 0 3))
  | 3 => some (.or_ t h (fld w0 3 3) (fld w0 0 3))
  | 4 => some (.xor t h (fld w0 3 3) (fld w0 0 3))
  | 5 => some (.shl t h (fld w0 3 3) (fld w0 0 3))
  | 6 => some (.shr t h (fld w0 3 3) (fld w0 0 3))
  | 7 => some (.sar t h (fld w0 3 3) (fld w0 0 3))
  | 8 => some (.mul t h (fld w0 3 3) (fld w0 0 3))
  | 9 => some (.cmp t h (fld w0 3 3) (fld w0 0 3))
  | 10 => some (.mov t h (fld w0 3 3) (fld w0 0 3))
  | _ => none

/-- Major 0x2 (R74). -/
def decodeImmediate (t : TileId) (h : Thr) (w0 w1 w2 : PWord) : Option Instr :=
  match w0.toNat / 64 % 16 with
  | 0 => some (.addi t h (fld w0 3 3) (fld w0 0 3) w1)
  | 1 => some (.andi t h (fld w0 3 3) (fld w0 0 3) w1)
  | 2 => zero (decide ((fld w0 3 3) = 0)) (some (.cmpi t h (fld w0 0 3) w1))
  | 14 => some (.ldi t h (fld w0 3 3) ((0#1) ++ fld w0 0 3 ++ w1 ++ w2))
  | 15 => some (.ldi t h (fld w0 3 3) ((1#1) ++ fld w0 0 3 ++ w1 ++ w2))
  | _ => none

/-- Major 0x3 (R75). -/
def decodeAddress (t : TileId) (h : Thr) (w0 w1 w2 : PWord) : Option Instr :=
  match w0.toNat / 64 % 16 with
  | 0 => some (.mova t h (fld w0 3 3) (fld w0 0 3))
  | 1 => some (.adda t h (fld w0 3 3) (fld w0 0 3))
  | 2 => zero (decide ((fld w0 0 3) = 0)) (some (.lai t h (fld w0 3 3) (w1 ++ w2)))
  | 3 => zero (decide ((fld w0 0 3) = 0) && decide (fld w1 6 8 = 0)) (some (.lah t h (fld w0 3 3) (fld w1 0 6 ++ w2)))
  | 4 => some (.ld t h (fld w0 3 3) (fld w0 0 3) w1)
  | 5 => some (.st t h (fld w0 3 3) (fld w0 0 3) w1)
  | 6 => some (.lda t h (fld w0 3 3) (fld w0 0 3) w1)
  | 7 => some (.sta t h (fld w0 3 3) (fld w0 0 3) w1)
  | 8 => zero (decide ((fld w0 3 3) = 0)) (some (.zline t h (fld w0 0 3) w1))
  | _ => none

/-- Major 0x4 (R76). -/
def decodeFlow (t : TileId) (h : Thr) (w0 w1 _w2 : PWord) : Option Instr :=
  match w0.toNat / 64 % 16 with
  | 0 => zero (decide ((fld w0 0 3) = 0)) (some (.br t h (brDec (fld w0 3 3)) w1))
  | 1 => zero (decide ((fld w0 0 3) = 0)) (some (.call t h (fld w0 3 3) w1))
  | 2 => zero (decide ((fld w0 3 3) = 0)) (some (.jr t h (fld w0 0 3)))
  | 3 => zero (decide ((fld w0 3 3) = 0)) (some (.rep t h (fld w0 0 3) w1))
  | 4 => zero (decide (fld w1 6 8 = 0)) (some (.smov t h (fld w0 3 3) (fld w0 0 3) (w1.getLsbD 5) (sizeDec (fld w1 3 2)) (fld w1 0 3)))
  | 5 => zero (decide (fld w1 6 8 = 0)) (some (.sscn t h (fld w0 3 3) (fld w0 0 3) (w1.getLsbD 5) (sizeDec (fld w1 3 2)) (fld w1 0 3)))
  | 6 => zero (decide (fld w1 6 8 = 0)) (some (.sfil t h (fld w0 3 3) (fld w0 0 3) (w1.getLsbD 5) (sizeDec (fld w1 3 2)) (fld w1 0 3)))
  | _ => none

/-- Major 0x5 (R77). -/
def decodeSeed (t : TileId) (h : Thr) (w0 w1 w2 : PWord) : Option Instr :=
  match w0.toNat / 64 % 16 with
  | 0 => zero (decide ((fld w0 3 3) = 0) && decide ((fld w0 0 3) = 0)) (some (.bput t h (w1.getLsbD 13) (fld w1 0 13)))
  | 1 => zero (decide ((fld w0 3 3) = 0) && decide ((fld w0 0 3) = 0) && decide (fld w1 13 1 = 0)) (some (.bmov t h (fld w1 0 13) (w2.getLsbD 13) (fld w2 0 13)))
  | 2 => zero (decide ((fld w0 3 3) = 0) && decide ((fld w0 0 3) = 0) && decide (fld w1 13 1 = 0)) (some (.band t h (fld w1 0 13) (w2.getLsbD 13) (fld w2 0 13)))
  | 3 => zero (decide ((fld w0 3 3) = 0) && decide ((fld w0 0 3) = 0) && decide (fld w1 13 1 = 0)) (some (.bor t h (fld w1 0 13) (w2.getLsbD 13) (fld w2 0 13)))
  | 4 => zero (decide ((fld w0 3 3) = 0) && decide ((fld w0 0 3) = 0) && decide (fld w1 13 1 = 0)) (some (.bxor t h (fld w1 0 13) (w2.getLsbD 13) (fld w2 0 13)))
  | 5 => zero (decide ((fld w0 3 3) = 0) && decide ((fld w0 0 3) = 0)) (some (.bwait t h (w1.getLsbD 13) (fld w1 0 13)))
  | 6 => zero (decide ((fld w0 3 3) = 0) && decide ((fld w0 0 3) = 0)) (some (.bskp t h (w1.getLsbD 13) (fld w1 0 13)))
  | 7 => zero (decide ((fld w0 0 3) = 0) && decide (fld w1 13 1 = 0)) (some (.brd t h (fld w0 3 3) (fld w1 0 13)))
  | 8 => zero (decide ((fld w0 3 3) = 0) && decide (fld w1 13 1 = 0)) (some (.bwr t h (fld w0 0 3) (fld w1 0 13)))
  | _ => none

/-- Major 0x6 (R78). -/
def decodeVector (t : TileId) (h : Thr) (w0 w1 w2 : PWord) : Option Instr :=
  match w0.toNat / 64 % 16 with
  | 0 => zero (decide (fld w1 10 3 = 0)) ((maskOf w1).bind (fun m => some (.vld t h (fld w0 3 3) (fld w0 0 3) m (tyDec (fld w1 0 2)) w2)))
  | 1 => zero (decide (fld w1 10 3 = 0)) ((maskOf w1).bind (fun m => some (.vst t h (fld w0 3 3) (fld w0 0 3) m (tyDec (fld w1 0 2)) w2)))
  | 2 => zero (decide (fld w1 10 3 = 0)) ((maskOf w1).bind (fun m => some (.vbc t h (fld w0 3 3) (fld w0 0 3) m (tyDec (fld w1 0 2)))))
  | 3 => zero (decide (fld w1 7 7 = 0)) (some (.vext t h (fld w0 3 3) (fld w0 0 3) (fld w1 2 5) (tyDec (fld w1 0 2))))
  | 4 => (maskOf w1).bind (fun m => some (.vperm t h (fld w0 3 3) (fld w0 0 3) (fld w1 10 3) m (tyDec (fld w1 0 2))))
  | 5 => (maskOf w1).bind (fun m => some (.vsel t h (fld w0 3 3) (fld w0 0 3) (fld w1 10 3) m (tyDec (fld w1 0 2))))
  | 6 => (vcDec (fld w0 3 3)).bind (fun cond => (maskOf w1).bind (fun m => some (.vcmp t h cond (fld w0 0 3) (fld w1 10 3) m (tyDec (fld w1 0 2)))))
  | 7 => zero (decide (fld w1 13 1 = 0) && decide (fld w1 0 7 = 0)) (some (.vcvt t h (fld w0 3 3) (fld w0 0 3) (elemDec (fld w1 10 3)) (elemDec (fld w1 7 3))))
  | 8 => (mask5Of w1).bind (fun m => some (.vxs t h (fld w0 3 3) (fld w0 0 3) (fld w1 10 3) (fld w1 7 3) m (tyDec (fld w1 0 2))))
  | 9 => zero (decide ((fld w0 3 3) = 0) && decide (fld w1 10 3 = 0) && decide (fld w1 0 2 = 0)) ((mask5Of w1).bind (fun m => some (.vxck t h (fld w0 0 3) (fld w1 7 3) m)))
  | 10 => zero (decide (fld w1 13 1 = 0) && decide (fld w1 2 5 = 0)) (some (.vroute t h (fld w0 3 3) (fld w0 0 3) (fld w1 10 3) (fld w1 7 3) (tyDec (fld w1 0 2))))
  | _ => none

/-- Major 0x7 (R79). -/
def decodeArith (t : TileId) (h : Thr) (w0 w1 _w2 : PWord) : Option Instr :=
  match w0.toNat / 64 % 16 with
  | 0 => (maskOf w1).bind (fun m => some (.vadd t h (fld w0 3 3) (fld w0 0 3) (fld w1 10 3) m (tyDec (fld w1 0 2))))
  | 1 => (maskOf w1).bind (fun m => some (.vsub t h (fld w0 3 3) (fld w0 0 3) (fld w1 10 3) m (tyDec (fld w1 0 2))))
  | 2 => (maskOf w1).bind (fun m => some (.vmul t h (fld w0 3 3) (fld w0 0 3) (fld w1 10 3) m (tyDec (fld w1 0 2))))
  | 3 => (maskOf w1).bind (fun m => some (.vfma t h (fld w0 3 3) (fld w0 0 3) (fld w1 10 3) m (tyDec (fld w1 0 2))))
  | 4 => (maskOf w1).bind (fun m => some (.vmax t h (fld w0 3 3) (fld w0 0 3) (fld w1 10 3) m (tyDec (fld w1 0 2))))
  | 5 => (maskOf w1).bind (fun m => some (.vmin t h (fld w0 3 3) (fld w0 0 3) (fld w1 10 3) m (tyDec (fld w1 0 2))))
  | 6 => (maskOf w1).bind (fun m => some (.vand t h (fld w0 3 3) (fld w0 0 3) (fld w1 10 3) m (tyDec (fld w1 0 2))))
  | 7 => (maskOf w1).bind (fun m => some (.vor t h (fld w0 3 3) (fld w0 0 3) (fld w1 10 3) m (tyDec (fld w1 0 2))))
  | 8 => (maskOf w1).bind (fun m => some (.vxor t h (fld w0 3 3) (fld w0 0 3) (fld w1 10 3) m (tyDec (fld w1 0 2))))
  | 9 => zero (decide (fld w1 10 3 = 0)) ((maskOf w1).bind (fun m => some (.vrsum t h (fld w0 3 3) (fld w0 0 3) m (tyDec (fld w1 0 2)))))
  | 10 => zero (decide (fld w1 10 3 = 0)) ((maskOf w1).bind (fun m => some (.vrmax t h (fld w0 3 3) (fld w0 0 3) m (tyDec (fld w1 0 2)))))
  | 11 => zero (decide (fld w1 10 3 = 0)) ((maskOf w1).bind (fun m => some (.vexp t h (fld w0 3 3) (fld w0 0 3) m (tyDec (fld w1 0 2)))))
  | 12 => zero (decide (fld w1 10 3 = 0)) ((maskOf w1).bind (fun m => some (.vrcp t h (fld w0 3 3) (fld w0 0 3) m (tyDec (fld w1 0 2)))))
  | _ => none

/-- Major 0x8 (R80). -/
def decodeTile (t : TileId) (h : Thr) (w0 w1 _w2 : PWord) : Option Instr :=
  match w0.toNat / 64 % 16 with
  | 0 => zero (decide ((fld w0 0 3) = 0)) (some (.tcfg t h (fld w0 3 3) w1))
  | 1 => zero (decide (fld w1 3 11 = 0)) (some (.tld t h (fld w0 3 3) (fld w0 0 3) (fld w1 0 3)))
  | 2 => zero (decide (fld w1 3 11 = 0)) (some (.tst t h (fld w0 3 3) (fld w0 0 3) (fld w1 0 3)))
  | 3 => zero (decide ((fld w0 0 3) = 0)) (some (.tzero t h (fld w0 3 3)))
  | 4 => zero (decide ((fld w0 0 3) = 0)) (some (.tfree t h (fld w0 3 3)))
  | 5 => some (.tmov t h (fld w0 3 3) (fld w0 0 3))
  | 6 => zero (decide (fld w1 6 8 = 0)) (some (.trdv t h (fld w0 3 3) (fld w0 0 3) (fld w1 0 6)))
  | 7 => zero (decide (fld w1 6 8 = 0)) (some (.twrv t h (fld w0 3 3) (fld w0 0 3) (fld w1 0 6)))
  | 8 => some (.ttrn t h (fld w0 3 3) (fld w0 0 3))
  | 9 => zero (decide (fld w1 3 11 = 0)) (some (.tcvt t h (fld w0 3 3) (fld w0 0 3) (elemDec (fld w1 0 3))))
  | 10 => zero (decide ((fld w0 3 3) = 0)) (some (.tskip t h (fld w0 0 3) (w1.getLsbD 13) (fld w1 0 13)))
  | 11 => zero (decide (fld w0 1 2 = 0)) (some (.mscl t h (fld w0 3 3) (w0.getLsbD 0)))
  | _ => none

/-- Major 0x9 (R81). -/
def decodeMatrix (t : TileId) (h : Thr) (w0 w1 w2 : PWord) : Option Instr :=
  match w0.toNat / 64 % 16 with
  | 0 => zero (decide (fld w1 4 2 = 0)) ((spDec (fld w1 9 2)).bind (fun sp => (mtDec (fld w1 0 4)).bind (fun mt => some (.mma t h (fld w0 3 3) (fld w0 0 3) (fld w1 11 3) sp (fld w1 6 3) mt))))
  | 1 => zero (decide (fld w1 4 2 = 0)) ((spDec (fld w1 9 2)).bind (fun sp => (mtDec (fld w1 0 4)).bind (fun mt => some (.mmaz t h (fld w0 3 3) (fld w0 0 3) (fld w1 11 3) sp (fld w1 6 3) mt))))
  | 2 => zero (decide (fld w1 4 2 = 0) && decide (fld w1 6 3 = 0) && decide (fld w2 13 1 = 0)) ((spDec (fld w1 9 2)).bind (fun sp => (mtDec (fld w1 0 4)).bind (fun mt => some (.mmas t h (fld w0 3 3) (fld w0 0 3) (fld w1 11 3) sp mt (fld w2 0 13)))))
  | 3 => zero (decide ((fld w0 0 3) = 0)) (some (.mwait t h (fld w0 3 3)))
  | _ => none

/-- Major 0xA (R82). -/
def decodeQueue (t : TileId) (h : Thr) (w0 w1 _w2 : PWord) : Option Instr :=
  match w0.toNat / 64 % 16 with
  | 0 => zero (decide ((fld w0 3 3) = 0)) (some (.qput t h (fld w0 0 3)))
  | 1 => some (.qcmt t h (fld w0 3 3) (fld w0 0 3))
  | 2 => some (.qmcst t h (fld w0 3 3) (fld w0 0 3))
  | 3 => some (.qrick t h (fld w0 3 3) (fld w0 0 3))
  | 4 => zero (decide ((fld w0 0 3) = 0) && decide (fld w1 4 10 = 0)) (some (.qrd t h (fld w0 3 3) (fld w1 0 4)))
  | 5 => zero (decide ((fld w0 0 3) = 0) && decide (fld w1 4 10 = 0)) (some (.qtry t h (fld w0 3 3) (fld w1 0 4)))
  | 6 => zero (decide ((fld w0 3 3) = 0) && decide ((fld w0 0 3) = 0) && decide (fld w1 4 10 = 0)) (some (.qdrop t h (fld w1 0 4)))
  | 7 => zero (decide ((fld w0 3 3) = 0) && decide ((fld w0 0 3) = 0) && decide (fld w1 4 10 = 0)) (some (.qclose t h (fld w1 0 4)))
  | 8 => zero (decide (fld w1 4 10 = 0)) (some (.qarm t h (fld w0 3 3) (fld w0 0 3) (fld w1 0 4)))
  | _ => none

/-- Major 0xB (R83). -/
def decodeOrder (t : TileId) (h : Thr) (w0 _w1 _w2 : PWord) : Option Instr :=
  match w0.toNat / 64 % 16 with
  | 0 => zero (decide ((fld w0 3 3) = 0)) ((scopeDec (fld w0 0 3)).bind (fun scope => some (.rel t h scope)))
  | 1 => zero (decide ((fld w0 3 3) = 0)) ((scopeDec (fld w0 0 3)).bind (fun scope => some (.acq t h scope)))
  | 2 => zero (decide ((fld w0 3 3) = 0)) (some (.ceput t h (fld w0 0 3)))
  | 3 => zero (decide ((fld w0 3 3) = 0) && decide ((fld w0 0 3) = 0)) (some (.ceres t h))
  | 4 => zero (decide ((fld w0 0 3) = 0)) (some (.ceqry t h (fld w0 3 3)))
  | _ => none

/-- The instruction of thread `h` of tile `t` that three program words spell, from their cells and fields alone. -/
def decodeCell (t : TileId) (h : Thr) (w0 w1 w2 : PWord) : Option Instr :=
  match w0.toNat / 1024 % 16 with
  | 0 => decodeControl t h w0 w1 w2
  | 1 => decodeInteger t h w0 w1 w2
  | 2 => decodeImmediate t h w0 w1 w2
  | 3 => decodeAddress t h w0 w1 w2
  | 4 => decodeFlow t h w0 w1 w2
  | 5 => decodeSeed t h w0 w1 w2
  | 6 => decodeVector t h w0 w1 w2
  | 7 => decodeArith t h w0 w1 w2
  | 8 => decodeTile t h w0 w1 w2
  | 9 => decodeMatrix t h w0 w1 w2
  | 10 => decodeQueue t h w0 w1 w2
  | 11 => decodeOrder t h w0 w1 w2
  | _ => none

/-- The instruction that three program words spell, none for a reserved encoding (R90). -/
def decodeInstr (t : TileId) (h : Thr) (w0 w1 w2 : PWord) : Option Instr :=
  match decodeCell t h w0 w1 w2 with
  | some i => if WellFormed i then some i else none
  | none => none

end Sys2Proof
end

