-- ==== Sys2Proof/Config.lean ====
section
/-! DEFINITION. The free values: what the spec leaves undefined while the part goes on. Each is an opaque constant
with no body, so nothing can be proved of its value and a theorem holds for every value. -/
namespace Sys2Proof

/-- An undefined value: number `n` of the run (the counter `State.free` gives it), place `i`, width `w`. Used for a
reserved encoding outside debug mode (R92) and for state that a domain switch-on leaves undefined (R486). -/
opaque Config.free : Nat → Nat → (w : Nat) → BitVec w

/-- Which value within 2 ulp VEXP gives for a lane type and an input (R111): the same on every tile. -/
opaque Config.expPick : Nat → Nat → Nat

/-- Which value within 1 ulp VRCP gives for a lane type and an input (R111): the same on every tile. -/
opaque Config.rcpPick : Nat → Nat → Nat

/-- VROOT, the SHA3-256 digest of Skovsa's public key, which mask ROM holds (R467). -/
opaque Config.vroot : List Byte

/-- ML-DSA-44 verification of a signature over a message under a public key, with an empty context string (R462). -/
opaque Config.mlDsaVerify : List Byte → List Byte → List Byte → Bool

/-- The 32-byte seed that helper data recovers from a PUF read-out (R476). -/
opaque Config.pufSeed : List Byte → List Byte → List Byte

/-- The public key of ML-DSA-44 key generation from a seed (R476). -/
opaque Config.mlDsaKey : List Byte → List Byte

end Sys2Proof
end

