-- ==== Sys2Proof/Machine/Bits.lean ====
section
/-! DEFINITION. Bit-field, byte-order, counting and check-sum helpers (R3, R4, R420). -/
namespace Sys2Proof.Machine

/-- Bits [lo + w - 1 : lo] of `x`. -/
def bits {n : Nat} (x : BitVec n) (lo w : Nat) : BitVec w := BitVec.extractLsb' lo w x

/-- Bit `i` of `x`. -/
def bit {n : Nat} (x : BitVec n) (i : Nat) : Bool := x.getLsbD i

/-- `x` with bits [lo + w - 1 : lo] replaced by `v`. -/
def setBits {n : Nat} (x : BitVec n) (lo w : Nat) (v : BitVec w) : BitVec n :=
  (x &&& ~~~(BitVec.ofNat n ((2 ^ w - 1) <<< lo))) ||| (v.setWidth n <<< lo)

/-- `x` with bit `i` set to `b`. -/
def setBit {n : Nat} (x : BitVec n) (i : Nat) (b : Bool) : BitVec n :=
  if b then x ||| BitVec.ofNat n (2 ^ i) else x &&& ~~~(BitVec.ofNat n (2 ^ i))

/-- `b` as a number. -/
def b2n (b : Bool) : Nat := if b then 1 else 0

/-- `b` as one bit. -/
def b2v (b : Bool) : BitVec 1 := if b then 1#1 else 0#1

/-- A count that holds at its largest value (R60 and the RC counts). -/
def satAdd {n : Nat} (x : BitVec n) (k : Nat) : BitVec n :=
  if x.toNat + k < 2 ^ n then BitVec.ofNat n (x.toNat + k) else BitVec.allOnes n

/-- The number a list of bytes stands for, least significant byte first (R4). -/
def leNat : List Byte → Nat
  | [] => 0
  | b :: r => b.toNat + 256 * leNat r

/-- `n` bytes of a number, least significant first (R4). -/
def leBytes : Nat → Nat → List Byte
  | 0, _ => []
  | n + 1, x => BitVec.ofNat 8 x :: leBytes n (x / 256)

/-- A word from bytes, least significant first. -/
def leBits (w : Nat) (l : List Byte) : BitVec w := BitVec.ofNat w (leNat l)

/-- The bytes of a bit vector, least significant first. -/
def bytesOf {n : Nat} (x : BitVec n) (k : Nat) : List Byte := leBytes k x.toNat

/-- The four bytes of a word list, least significant first. -/
def wordBytes (l : List Word) : List Byte := l.flatMap (fun w => bytesOf w 4)

/-- Words of a byte list. -/
def toWords : Nat → List Byte → List Word
  | 0, _ => []
  | n + 1, l => leBits 32 (l.take 4) :: toWords n (l.drop 4)

/-- One bit of a CRC with generator 0x1021, most significant bit first. -/
def crc16Bit (c : Nat) : Nat := if c / 32768 % 2 = 1 then (c * 2 % 65536) ^^^ 0x1021 else c * 2 % 65536

/-- CRC-16 with generator 0x1021, no reflection and no final XOR, over bytes from a running value (R420). -/
def crc16From (c : Nat) : List Byte → Nat
  | [] => c
  | b :: r =>
    crc16From (crc16Bit (crc16Bit (crc16Bit (crc16Bit (crc16Bit (crc16Bit (crc16Bit (crc16Bit
      (c ^^^ (b.toNat * 256)))))))))) r

/-- The CRC of a line frame: initial value 0xFFFF (R420). -/
def crc16 (l : List Byte) : BitVec 16 := BitVec.ofNat 16 (crc16From 0xFFFF l)

/-- One bit of the CRC of IEEE 802.3, generator 0x04C1_1DB7, least significant bit first. -/
def crc32Bit (c : Nat) : Nat := if c % 2 = 1 then (c / 2) ^^^ 0xEDB88320 else c / 2

/-- CRC-32 of bytes from a running value. -/
def crc32From (c : Nat) : List Byte → Nat
  | [] => c
  | b :: r =>
    crc32From (crc32Bit (crc32Bit (crc32Bit (crc32Bit (crc32Bit (crc32Bit (crc32Bit (crc32Bit
      (c ^^^ b.toNat))))))))) r

/-- The CRC-32 of IEEE 802.3, reflected, with initial value and final XOR 0xFFFF_FFFF (R271, R433). -/
def crc32 (l : List Byte) : BitVec 32 := BitVec.ofNat 32 (crc32From 0xFFFFFFFF l ^^^ 0xFFFFFFFF)

/-- The largest number of a list, 0 for none. -/
def maxNat (l : List Nat) : Nat := l.foldl max 0

/-- Element `i` of a list, or a default. -/
def nth {α : Type} (l : List α) (i : Nat) (d : α) : α := l.getD i d

/-- `l` with element `i` replaced. -/
def setNth {α : Type} : List α → Nat → α → List α
  | [], _, _ => []
  | _ :: r, 0, v => v :: r
  | x :: r, i + 1, v => x :: setNth r i v

/-- Round a division up. -/
def ceilDiv (a b : Nat) : Nat := (a + b - 1) / b

/-- The Mersenne prime 2^61 - 1 of the checksums (R115). -/
def mersenne : Nat := 2305843009213693951

/-- The residue of an integer modulo 2^61 - 1 (R115). -/
def residue (n : Int) : Nat := (n % (mersenne : Int)).toNat

end Sys2Proof.Machine
end

