-- ==== Sys2Proof/Machine/SMap.lean ====
section
/-! DEFINITION. A sparse map from numbers to values in one canonical form: keys strictly rising, and no entry equal
to what an unlisted key reads as. Memories, register files and arrays of blocks are held in this form. -/
namespace Sys2Proof.Machine

/-- A list of (key, value) pairs. For bytes it is a list of `Host.Cell`. -/
abbrev SMap (α : Type) := List (Nat × α)

/-- The value at `k`; an unlisted key reads as `d`. -/
def SMap.get {α : Type} (d : α) (m : SMap α) (k : Nat) : α :=
  match m with
  | [] => d
  | (j, v) :: r => if j = k then v else SMap.get d r k

/-- `m` without the entries of key `k`. -/
def SMap.erase {α : Type} (m : SMap α) (k : Nat) : SMap α :=
  match m with
  | [] => []
  | (j, v) :: r => if j = k then SMap.erase r k else (j, v) :: SMap.erase r k

/-- `m` with a new entry before the first larger key. -/
def SMap.insert {α : Type} (m : SMap α) (k : Nat) (v : α) : SMap α :=
  match m with
  | [] => [(k, v)]
  | (j, w) :: r => if k < j then (k, v) :: (j, w) :: r else (j, w) :: SMap.insert r k v

/-- `m` with `v` at `k`; writing what an unlisted key reads as removes the entry. -/
def SMap.set {α : Type} [DecidableEq α] (d : α) (m : SMap α) (k : Nat) (v : α) : SMap α :=
  if v = d then SMap.erase m k else SMap.insert (SMap.erase m k) k v

/-- `m` with `f` applied at `k`. -/
def SMap.modify {α : Type} [DecidableEq α] (d : α) (m : SMap α) (k : Nat) (f : α → α) : SMap α :=
  SMap.set d m k (f (SMap.get d m k))

/-- `m` with `f` applied to every listed value. -/
def SMap.mapVals {α : Type} [DecidableEq α] (d : α) (m : SMap α) (f : α → α) : SMap α :=
  (m.map (fun p => (p.1, f p.2))).filter (fun p => p.2 ≠ d)

/-- The canonical form: keys strictly rising and every value different from `d`. -/
def SMap.wf {α : Type} [DecidableEq α] (d : α) (m : SMap α) : Bool :=
  match m with
  | [] => true
  | [(_, v)] => v ≠ d
  | (j, v) :: (k, w) :: r => j < k && v ≠ d && SMap.wf d ((k, w) :: r)

/-- A byte memory. -/
abbrev Memory := SMap Byte

/-- The byte at `a`; an unlisted address reads 0. -/
def Memory.byte (m : Memory) (a : Nat) : Byte := SMap.get 0#8 m a

/-- `m` with byte `b` at `a`. -/
def Memory.setByte (m : Memory) (a : Nat) (b : Byte) : Memory := SMap.set 0#8 m a b

/-- `n` bytes from `a` upward. -/
def Memory.bytes (m : Memory) (a : Nat) : Nat → List Byte
  | 0 => []
  | n + 1 => m.byte a :: m.bytes (a + 1) n

/-- `m` with the bytes of a list from `a` upward. -/
def Memory.setBytes (m : Memory) (a : Nat) : List Byte → Memory
  | [] => m
  | b :: r => (m.setByte a b).setBytes (a + 1) r

/-- `m` with no entry at the addresses `a` to `a + n - 1`: they read 0. -/
def Memory.clear (m : Memory) (a n : Nat) : Memory :=
  m.filter (fun c => !(decide (a ≤ c.1) && decide (c.1 < a + n)))

/-- The canonical form of a memory. -/
def Memory.wf (m : Memory) : Bool := SMap.wf 0#8 m

end Sys2Proof.Machine
end

