-- ==== Sys2Proof/Machine/State.lean ====
section
/-! DEFINITION. The state of the part as plain data, the reasons a step can stop, and the state after reset. Arrays
of blocks and register files are sparse maps (`SMap`) with a named default; every default is the reset value. -/
namespace Sys2Proof.Machine

/-- Why the part stops with a fault. No meaning of this model raises one: the spec gives every command an effect, and
an access it refuses raises an exception, a response code or a Store Error inside the part. -/
inductive Fault
  /-- Raised by no meaning. Safe: a machine that stops proves nothing about one that goes on. -/
  | none
  deriving DecidableEq, Repr

/-- Why a command is refused. -/
inductive Refusal
  /-- Raised by an arm of the dispatch whose command has no meaning yet. Safe. -/
  | notModelled (mnemonic : String)
  deriving DecidableEq, Repr

/-! ## Threads (R22, R35, R42) -/

/-- The fields of a status word (R44); TID is the thread's own index and is not stored. PL 0b00 is never held (R354). -/
structure Status where
  pl : BitVec 2 := 2
  ie : Bool := false
  ss : Bool := false
  z : Bool := false
  n : Bool := false
  c : Bool := false
  v : Bool := false
  rep : Bool := false
  deriving DecidableEq, Repr

/-- Thread states (R35). -/
inductive RunSt | stopped | running | blocked | halted
  deriving DecidableEq, Repr

/-- The blocking instruction of a blocked thread, which is performed afresh when its condition is met (R36, R37). -/
inductive BlockOp
  | qrd (vd : Reg) (q : QIx)
  | bwait (v : Bool) (a : Seed)
  | qcmt (dt dh : Reg)
  | qrick (dt dh : Reg)
  | qmcst (dt dg : Reg)
  | ceput (an : Reg)
  | vroute (dt va an : Reg) (k : BitVec 3) (ty : Ty)
  deriving DecidableEq, Repr

/-- A send staging: words 0 to 3 and how many are staged (R215, R249). -/
structure Staging where
  count : BitVec 3 := 0
  words : BitVec 128 := 0
  deriving DecidableEq, Repr

/-- A pending Store Error record (R365). -/
structure SeRec where
  pc : PWord
  va : VAddr
  detail : BitVec 4
  deriving DecidableEq, Repr

/-- Where the bytes of an access lie, after the checks made in its slot. -/
inductive Target
  /-- the executing tile's own scratchpad, at a local offset -/
  | own (off : Nat)
  /-- another tile's scratchpad: the holding tile, the window offset, and for a handle window the offset of the
  buffer and no bound (R184, R185) -/
  | remote (t : TileId) (off : Nat) (handle : Option (BitVec 14))
  | hbm (pa : Nat)
  | csr (pa : Nat)
  deriving DecidableEq, Repr

/-- What a late load does when its data arrives (R99, R123). -/
inductive LoadDest
  | d (r : Reg)
  | a (r : Reg)
  /-- a run of SMOV: `cnt` elements, with the target of its stores -/
  | smov (ad asrc dc : Reg) (sz : ESize) (cnt : Nat) (dst : Target)
  /-- a run of SSCN -/
  | sscn (ad dv dc : Reg) (mode : Bool) (sz : ESize) (cnt : Nat)
  deriving DecidableEq, Repr

/-- What a late load waits for. -/
inductive WaitFor
  /-- the reply to request `id` -/
  | req (id : Nat)
  /-- the sector fill `id` -/
  | fill (id : Nat)
  /-- a store of the buffer that overlaps it in part (R103), or a free place among the 16 fills (R191) -/
  | again
  deriving DecidableEq, Repr

/-- A load whose data has not arrived: stall cause 0 (R30). -/
structure Wait where
  dest : LoadDest
  va : VAddr
  src : Target
  n : Nat
  on : WaitFor
  deriving DecidableEq, Repr

/-- A stride detector (R196, R197). -/
structure Detector where
  last : Option VAddr := none
  stride : Int := 0
  active : Bool := false
  deriving DecidableEq, Repr

/-- A pending release and acquire pair of the hazard detector (R516): the scope needed, whether every message was
covered, and the sender (none for a Husk source). -/
structure Pair where
  needed : Scope
  covered : Bool
  sender : Option TileId
  deriving DecidableEq, Repr

/-- One hardware thread. -/
structure Thread where
  run : RunSt := .stopped
  blk : Option BlockOp := none
  slv : Bool := false
  pc : PWord := 0
  st : Status := {}
  d : SMap Word := []
  a : SMap DWord := []
  v : SMap VWord := []
  /-- vector results whose latency has not run, oldest first (R107) -/
  vpend : List (Reg × VWord) := []
  rcnt : Word := 0
  rstart : PWord := 0
  rend : PWord := 0
  stgU : Staging := {}
  stgS : Staging := {}
  stgM : Staging := {}
  /-- the private seed bits 0x0000 to 0x01FF -/
  priv : BitVec 512 := 0
  sepc : PWord := 0
  mepc : PWord := 0
  sestat : Word := 0
  mestat : Word := 0
  sxc : Word := 0
  mxc : Word := 0
  sxa : VAddr := 0
  mxa : VAddr := 0
  sws : Bool := false
  swm : Bool := false
  sts : Bool := false
  dlk : Bool := false
  mcp : Bool := false
  seovf : Bool := false
  /-- pending Store Errors, oldest first; SECNT is their number -/
  se : List SeRec := []
  /-- CT_TMR: CMP in [62:0], TEN in [63] -/
  tmr : DWord := 0
  stex : Bool := false
  cntStale : BitVec 16 := 0
  cntClosed : BitVec 16 := 0
  cntDropped : BitVec 16 := 0
  /-- stores that a REL of this thread waits for (R339) -/
  hold : List Nat := []
  /-- a load whose data is late -/
  wait : Option Wait := none
  /-- a translation walk in flight for this thread -/
  walk : Option VAddr := none
  /-- bytes of a TLD or TST already moved, and those of the row begun and not completed (R131) -/
  moved : Nat := 0
  part : List Byte := []
  det : Detector := {}
  /-- a stop, and a halt with its CT_DBG cause, that wait for the thread's next slot -/
  stopReq : Bool := false
  haltReq : Option (BitVec 3) := none
  dbgCause : BitVec 3 := 0
  /-- a STEP is in progress (R521) -/
  stepping : Bool := false
  /-- the slot has taken an asynchronous exception with SS = 1, and halts once its instruction has issued (R33, R521) -/
  owed : Bool := false
  /-- release scope and pending pair of the hazard detector (R516) -/
  relScope : Option Scope := none
  pair : Option Pair := none
  deriving DecidableEq, Repr

/-! ## Queues, messages and credit -/

/-- A party that sends or receives packets. -/
inductive Party
  | tile (t : TileId)
  | cmd (husk1 : Bool)
  | mgmt
  | husk (e : BitVec 2)
  | timebase
  deriving DecidableEq, Repr

/-- Which sender of a tile a response acts on: a thread, or the copy engine's completion or fault message. -/
inductive Owner
  | thread (h : Thr)
  | engDone
  | engFault
  /-- a MSG command of function f -/
  | command (f : FuncNo)
  /-- a thread of a function that has been reset since: the response is discarded (R233) -/
  | gone
  deriving DecidableEq, Repr

/-- One contributor of a rick contribution: who gets a response, under which tag. -/
structure Contrib where
  src : Party
  tag : Nat
  covered : Bool
  needed : Scope
  deriving DecidableEq, Repr

/-- A queue message in flight (R212). -/
structure Msg where
  kind : BitVec 2
  sender : TileId
  origin : BitVec 4
  func : Option FuncNo
  tag : BitVec 16
  payload : List Word
  handle : Word
  credited : Bool
  /-- response tag at the sender -/
  rtag : Nat
  relScope : Option Scope
  deriving DecidableEq, Repr

/-- Outcomes a response carries (R225). -/
inductive Resp | accepted | stale | closed | dropped
  deriving DecidableEq, Repr

/-- What a packet carries. -/
inductive Body
  | msg (m : Msg)
  /-- a rick contribution, its contributors, and the last router of its route that it is known to have come to, with
  whether it has left it (R260) -/
  | rick (m : Msg) (who : List Contrib) (place : Option (TileId × Bool))
  | credReq (handle : Word) (bytes : Nat) (func : Option FuncNo)
  | grant (handle : Word) (bytes : Nat) (refused : Bool)
  | credRet (handle : Word) (bytes : Nat)
  | resp (rtag : Nat) (r : Resp)
  deriving DecidableEq, Repr

/-- A packet in flight on the control network or the data mesh. -/
structure Pkt where
  id : Nat
  src : Party
  dst : Party
  /-- 0 control class 0, 1 control class 1, 2 control class 2, 3 data mesh (R255, R262) -/
  net : BitVec 2
  body : Body
  /-- stores a REL holds it behind (R339) -/
  hold : List Nat
  /-- response tags of earlier messages to the same queue on the other network (R226) -/
  after : List Nat
  deriving DecidableEq, Repr

/-- A message in a ring (R211): skip bytes before it, its message size, its origin word, and whether its last byte has been
written (R223). -/
structure QMsg where
  skip : Nat
  size : Nat
  origin : BitVec 4
  sender : TileId
  relScope : Option Scope
  needed : Scope
  coveredAll : Bool
  seen : Bool := true
  deriving DecidableEq, Repr

/-- An armed round (R234). -/
structure Rick where
  tag : BitVec 16
  len : BitVec 2
  expect : Nat
  count : Nat
  acc : List Word
  covered : Bool
  needed : Scope
  deriving DecidableEq, Repr

/-- A hardware queue and its QT_ registers. -/
structure Queue where
  en : Bool := false
  mode : Bool := false
  ext : Bool := false
  rsize : BitVec 4 := 0
  rbase : BitVec 14 := 0
  grain : BitVec 3 := 0
  rd : Nat := 0
  wr : Nat := 0
  used : Nat := 0
  closed : Bool := false
  cfgerr : Bool := false
  epoch : Byte := 0
  msgs : List QMsg := []
  rick : Option Rick := none
  /-- the last round, which QT_RARM keeps showing once it is over (R246) -/
  last : Option Rick := none
  granted : Nat := 0
  /-- held credit requests: requester, bytes, handle, function -/
  held : List (Party × Nat × Word × Option FuncNo) := []
  /-- credited messages that wait for contiguous room (R222) -/
  waiting : List (Msg × Party) := []
  drop : BitVec 16 := 0
  deriving DecidableEq, Repr

/-- A credit cache entry (R218). -/
structure Cred where
  valid : Bool := false
  qid : BitVec 16 := 0
  epoch : Byte := 0
  bytes : Nat := 0
  req : Bool := false
  refused : Bool := false
  lastUse : Nat := 0
  deriving DecidableEq, Repr

/-- A response tag in use (R217). -/
structure Sent where
  tag : Nat
  owner : Owner
  /-- handles of the destination queues: one, or one for each member of a multicast -/
  handles : List Word
  /-- 0 control network, 1 data mesh -/
  mesh : Bool
  /-- members that have not answered -/
  left : Nat
  /-- outcomes that a member has answered, whose seed bit has been set (R227) -/
  stale : Bool := false
  closed : Bool := false
  deriving DecidableEq, Repr

/-- The sending side of a tile or a Husk source: credit cache and response tags. -/
structure SendSide where
  cred : SMap Cred := []
  sent : List Sent := []
  useCtr : Nat := 0
  deriving DecidableEq, Repr

/-! ## Core tiles -/

/-- A tile register: shape, bytes and in-use flag (R124). -/
structure TileReg where
  rows : Nat := 16
  len : Nat := 64
  bytes : BitVec 16384 := 0
  tuse : Bool := false
  deriving DecidableEq, Repr

/-- Where a sparse operation finds its mask. -/
inductive MaskSrc
  | none
  | tile (k : Reg)
  | seed (a : Seed)
  deriving DecidableEq, Repr

/-- A matrix operation in the unit (R137). -/
structure MxOp where
  c : Reg
  a : Reg
  b : Reg
  sp : Sp
  mt : Mt
  acc : Bool
  mask : MaskSrc
  scaleA : Option Reg
  scaleB : Option Reg
  thr : Thr
  pc : PWord
  /-- none while it waits; the staged result once it has started -/
  result : Option (BitVec 16384)
  deriving DecidableEq, Repr

/-- A leaf translation (R318): function, level 2 to 4, page number at that level, page address, W and U. -/
structure Leaf where
  func : FuncNo
  lvl : Nat
  vpn : Nat
  pa : Nat
  w : Bool
  u : Bool
  deriving DecidableEq, Repr

/-- A non-leaf entry that a walk read: function, level 1 to 3, index prefix and the next table. -/
structure NonLeaf where
  func : FuncNo
  lvl : Nat
  vpn : Nat
  pa : Nat
  deriving DecidableEq, Repr

/-- A line of the cache partition (R190): tag VA[47:8] and sector valid bits; its data lies in local memory. -/
structure Line where
  tag : BitVec 40 := 0
  valid : BitVec 4 := 0
  deriving DecidableEq, Repr

/-- A sector fill in flight (R191): its line, whether it only delivers (R192, R193), and the bytes once read. -/
structure Fill where
  id : Nat
  line : Nat
  sector : BitVec 2
  va : VAddr
  pa : Nat
  dead : Bool
  data : Option (List Byte)
  deriving DecidableEq, Repr

/-- A store-buffer entry (R102). -/
structure SBuf where
  id : Nat
  thr : Thr
  pc : PWord
  va : VAddr
  dst : Target
  bytes : List Byte
  /-- stores of an earlier REL that it waits for (R339) -/
  hold : List Nat
  /-- the release scope condition of R516 is kept by the thread; `done` once the target has taken the write -/
  done : Bool
  /-- the DETAIL of a refusal that is on its way back (R365) -/
  refused : Option (BitVec 4)
  deriving DecidableEq, Repr

/-- What an inbound write is for: a store to acknowledge at its tile, a message of ring `q` that its last byte makes visible
(R223), or nothing any more. -/
inductive InFor
  | store (t : TileId) (id : Nat)
  | ring (q : QIx)
  | none
  deriving DecidableEq, Repr

/-- A write in the inbound write buffer (R180). -/
structure InWrite where
  off : Nat
  bytes : List Byte
  what : InFor
  deriving DecidableEq, Repr

/-- States of a copy engine (R312). -/
inductive EngSt | idle | running | halted | paused
  deriving DecidableEq, Repr

/-- A message the engine waits to send: a completion or a fault message (R310, R313). -/
structure EngMsg where
  fault : Bool
  handle : Word
  tag : BitVec 16
  payload : List Word
  deriving DecidableEq, Repr

/-- A COPY command on a Husk engine (R447). -/
structure CopyJob where
  func : FuncNo
  cid : Word
  host : DWord
  dev : DWord
  len : Word
  toHost : Bool
  deriving DecidableEq, Repr

/-- Where one piece of a chunk lies, after step 2 of R309 (R306). -/
inductive EngTo
  | own (off : Nat)
  | remote (t : TileId) (off : Nat) (handle : Option (BitVec 14))
  | hbm (pa : Nat)
  | cxl (pa : Nat)
  /-- outbound route r of the engine's function, at an offset (R324) -/
  | route (r : BitVec 4) (off : Nat)
  /-- host memory of a COPY command, at an offset of the transfer -/
  | host (off : Nat)
  deriving DecidableEq, Repr

/-- A run of bytes of a chunk, within one 4 KiB page on each side. -/
structure Piece where
  src : EngTo
  dst : EngTo
  /-- virtual address of its first destination byte -/
  dva : VAddr
  n : Nat
  /-- source bytes that detector 4 has fetched into the engine's buffers (R311) -/
  got : Option (List Byte) := none
  deriving DecidableEq, Repr

/-- A chunk that has passed step 2 of R309: its pieces, its claim with the place it goes to, and whether a CXL
completion is awaited (R300). -/
structure Chunk where
  id : Nat
  no : Nat
  /-- the function it acts for, and for an accumulate its ATYPE and CKSEL -/
  func : FuncNo
  acc : Option (BitVec 2 × Bool)
  pieces : List Piece
  claim : Option (EngTo × DWord)
  cxl : Bool
  /-- the host bytes of a COPY to a remote window have gone on to their route (R324, R326) -/
  fwd : Bool := false
  deriving DecidableEq, Repr

/-- A copy engine (R302–R315, R326). -/
structure Engine where
  st : EngSt := .idle
  /-- held descriptors; entry 0 is the active one; LV in bits [1:0] of doubleword 7 -/
  qd : SMap (BitVec 512) := []
  qcnt : Nat := 0
  next : Nat := 0
  /-- the head descriptor has been validated and runs -/
  active : Bool := false
  /-- chunks that have passed step 2 and are not finished -/
  inflight : List Chunk := []
  part : Bool := false
  cause : BitVec 4 := 0
  fva : VAddr := 0
  fqh : Word := 0
  cqerr : BitVec 16 := 0
  fqerr : BitVec 16 := 0
  /-- messages that wait for credit, oldest first -/
  out : List EngMsg := []
  /-- status of a descriptor that has ended and whose completion message has not left -/
  ending : Bool := false
  /-- a PAUSE that waits for the chunks in flight -/
  pausing : Bool := false
  /-- a halt that waits for earlier chunks: chunk, cause, address, side and PART -/
  halting : Option (Nat × BitVec 4 × VAddr × Bool × Bool) := none
  /-- stores that a REL holds each held descriptor behind (R339) -/
  hold : SMap (List Nat) := []
  /-- Husk engines: the command in progress and those handed over after it -/
  jobs : List CopyJob := []
  /-- Husk engines: host bytes received for the job, by offset -/
  hostBytes : Memory := []
  /-- detector 4 of R196 -/
  det : Detector := {}
  deriving DecidableEq, Repr

/-- A core tile (R22). -/
structure Tile where
  /-- CT_ID: owner function -/
  func : Option FuncNo := none
  thr : SMap Thread := []
  mvbase : PWord := 0
  svbase : PWord := 0
  pmem : SMap PWord := []
  /-- program words with a parity error (R47) -/
  pbad : SMap Bool := []
  seedsel : BitVec 2 := 0
  /-- shared seed bits 0x0200 to 0x1EFF -/
  shared : BitVec 7424 := 0
  /-- sticky bits PEV -/
  pev : BitVec 16 := 0
  stale : BitVec 4 := 0
  closedS : BitVec 4 := 0
  cedone : Bool := false
  ceflt : Bool := false
  lmce : Bool := false
  /-- core cycle at which the domain switched on -/
  onAt : Nat := 0
  stall : DWord := 0
  stallc : SMap Word := []
  /-- active stall causes, bit k for cause k (R30) -/
  causes : BitVec 8 := 0
  /-- cycles left of cause 7, the tile register of cause 4 and the vector register of cause 6 -/
  c7 : Nat := 0
  c4 : Reg := 0
  c6 : Thr × Reg := (0, 0)
  /-- cycles left of a stall that a reserved encoding began, and its cause (R92) -/
  spell : Nat := 0
  spellK : BitVec 3 := 0
  /-- the thread whose slot the stall holds -/
  slotOwner : Thr := 0
  /-- the present slot has issued an instruction (R25) -/
  slotUsed : Bool := false
  /-- zeroing of local memory has ended (R178) -/
  zeroed : Bool := false
  lmem : Memory := []
  /-- 64-bit words with an error: true for a double-bit error (R177) -/
  lerr : SMap (Option Bool) := []
  csize : BitVec 2 := 0
  pfd : BitVec 3 := 0
  lmerr : Word := 0
  lmcec : BitVec 16 := 0
  place : Word := 0
  pbb : Word := 0
  memb : SMap TileId := []
  htab : SMap DWord := []
  lines : SMap Line := []
  plru : BitVec 896 := 0
  fills : List Fill := []
  sbuf : List SBuf := []
  inbuf : List InWrite := []
  tlb : List Leaf := []
  treg : SMap TileReg := []
  scaleA : Option Reg := none
  scaleB : Option Reg := none
  mx : List MxOp := []
  cord : Bool := false
  q : SMap Queue := []
  send : SendSide := {}
  mgrp : SMap DWord := []
  eng : Engine := {}
  mcrec0 : DWord := 0
  mcrec1 : DWord := 0
  mcrec2 : DWord := 0
  mcrec3 : DWord := 0
  quietCnt : Word := 0
  quietAct : Byte := 0
  quietWin : BitVec 16 := 0
  hzHaltk : BitVec 4 := 0
  hzrec : DWord := 0
  hzcnt : DWord := 0
  pmsel : Word := 0
  pmc : SMap DWord := []
  deriving DecidableEq, Repr

/-! ## Cobs -/

/-- A power domain: on, switching off (with a wake held), off, or switching on (R489). -/
inductive Power
  | on
  | goingOff (wake : Bool)
  | off
  | goingOn
  deriving DecidableEq, Repr

/-- A Cob's blocks outside its tiles. -/
structure Cob where
  north : Power := .off
  south : Power := .off
  memif : Power := .off
  /-- core cycles since cold start, and ninths of a core cycle -/
  cyc : Nat := 0
  phase : Nat := 0
  droop : BitVec 2 := 0
  therm : BitVec 2 := 0
  sags : Word := 0
  /-- waiting cord claims, each with the core cycle in which it was first made, oldest first (R494) -/
  claims : List (Nat × TileId) := []
  refuse : Word := 0
  tlb : SMap (List Leaf) := []
  walker : List NonLeaf := []
  winv : BitVec 42 := 0
  winvBusy : Bool := false
  /-- stores and chunks in flight when the removal began, which hold BUSY (R319) -/
  winvWait : List Nat := []
  ckcmd : BitVec 6 := 0
  ckBusy : Bool := false
  ckRecv : DWord := 0
  ckClaim : DWord := 0
  ckNelem : DWord := 0
  ckNclm : DWord := 0
  ckMiss : DWord := 0
  ckOvf : DWord := 0
  /-- queue epochs recorded at switch-off, by tile-in-Cob × 16 + queue (R487) -/
  epochs : SMap Byte := []
  /-- ACT of CT_QUIET recorded at switch-off, by tile in the Cob (R489) -/
  acts : SMap Byte := []
  /-- a sensor shows a sag (R495) -/
  sagging : Bool := false
  /-- consecutive idle core cycles of the north and the south half (R485) -/
  idleN : Nat := 0
  idleS : Nat := 0
  deriving DecidableEq, Repr

/-- A collier's accumulator (R292). -/
structure Accum where
  recv : Nat := 0
  claim : Nat := 0
  ovf : Bool := false
  nelem : Word := 0
  nclaim : Word := 0
  deriving DecidableEq, Repr

/-- A slice: blocks held by its collier, most recently used first, its accumulators, and corrected errors. -/
structure Slice where
  held : List Nat := []
  acc : SMap Accum := []
  corr : BitVec 16 := 0
  deriving DecidableEq, Repr

/-- A request of a thread in flight to a slice, another tile or a CSR (R100, R550). -/
structure Req where
  id : Nat
  tile : TileId
  thr : Thr
  /-- a store-buffer entry of the same id when true, a sector fill or a load otherwise -/
  write : Bool
  fill : Bool
  dst : Target
  va : VAddr
  n : Nat
  /-- bytes of one element: 4 for LD and ST, 8 for LDA and STA, the element size for a string run -/
  esz : Nat
  data : List Byte
  /-- the source's level, function and partition, as it was sent -/
  pl : BitVec 2
  pid : Byte
  func : Option FuncNo
  /-- none while it travels; then the bytes read, or a refusal -/
  ans : Option (Option (List Byte))
  deriving DecidableEq, Repr

/-! ## Husk, host and package blocks -/

/-- Function states (R448). -/
inductive FnSt | absent | idle | running | quiescing | failed | resetting
  deriving DecidableEq, Repr

/-- A completion or event entry that waits for the ring (R443). -/
structure Comp where
  cid : Word
  status : Byte
  op : Byte
  result : DWord
  /-- a post of a thread (R446) -/
  post : Bool := false
  deriving DecidableEq, Repr

/-- A command read from the ring and not complete: its 64 bytes as sixteen words. -/
structure Cmd where
  words : List Word
  /-- it has started and waits for something: a MSG response, host data of PMEM, a QUIESCE or RESET -/
  started : Bool
  /-- program words that PMEM has copied, and host bytes that wait for a tile that is off (R488) -/
  got : Nat := 0
  data : Option (List Byte) := none
  deriving DecidableEq, Repr

/-- Where a per-function reset stands (R450). -/
inductive ResetStage | begun | stopped | drained | cleared
  deriving DecidableEq, Repr

/-- A per-function reset in progress: its stage, and the CID of a RESET command or none for FN_CTL. -/
structure ResetRun where
  stage : ResetStage
  cid : Option Word
  deriving DecidableEq, Repr

/-- One census in progress (R371): the ACT replies of the first round, and how many replies the round has had. -/
structure Census where
  round : Bool
  acts : SMap Byte
  asked : Nat
  active : Bool
  deriving DecidableEq, Repr

/-- A function and its FN_ registers. -/
structure Func where
  st : FnSt := .absent
  mgmt : Bool := false
  qreq : Bool := false
  mcr : Bool := false
  crb : DWord := 0
  cqb : DWord := 0
  ptr : DWord := 0
  chead : BitVec 16 := 0
  ctail : BitVec 16 := 0
  qhead : BitVec 16 := 0
  qtail : BitVec 16 := 0
  phase : Bool := true
  /-- completions of commands and posts that wait to be written, oldest first (R442, R446) -/
  comps : List Comp := []
  /-- event codes that wait (R444), with RESULT -/
  events : List (Byte × DWord) := []
  cmds : List Cmd := []
  rst : Option ResetRun := none
  errFormat : BitVec 16 := 0
  errPost : BitVec 16 := 0
  errOrphan : BitVec 16 := 0
  cnsEn : Bool := false
  cnsFound : Bool := false
  cnsRuns : Word := 0
  cns : Option Census := none
  /-- Husk-cycle time at which the last census began -/
  cnsAt : Option DWord := none
  /-- RESULT of event 0x80: CT_MCREC0 as recorded (R369), with CT_MCREC1 and CT_MCREC2 until the clearing of a reset at
  1 µs lets the record be written (R367) -/
  mcrec0 : DWord := 0
  mcrec1 : DWord := 0
  mcrec2 : DWord := 0
  /-- handling thread of the failure: tile and thread -/
  handler : Option (TileId × Thr) := none
  deriving DecidableEq, Repr

/-- A Tamore Link packet that the part sends (R436). -/
structure TxPkt where
  type : Byte
  func : FuncNo
  dst : BitVec 16
  tag : BitVec 16
  status : Byte
  attr : Byte
  addr : DWord
  /-- payload bytes; for an RD, which has none, the length asked is `len` -/
  data : List Byte
  len : Nat
  deriving DecidableEq, Repr

/-- A frame that the part sends (R433): TYPE 0 data, 1 control, 2 idle; SEQ (0 in an idle frame); ACK, none for ACKV 0; the
240 bytes of its payload; and the credit that it returns for virtual channels 0 to 3. -/
structure TxFrame where
  kind : BitVec 2
  seq : BitVec 12
  ack : Option (BitVec 12)
  payload : List Byte
  credit : List Nat
  deriving DecidableEq, Repr

/-- What an outstanding request on a port is for. -/
inductive OutFor
  /-- host data for chunk `id` of a COPY job on Husk engine e, at this offset of the transfer -/
  | copyRead (e : BitVec 2) (id off : Nat)
  /-- host data that chunk `id` writes -/
  | copyWrite (e : BitVec 2) (id : Nat)
  /-- commands of function f from its ring -/
  | ring (f : FuncNo)
  /-- program words of a PMEM command of function f -/
  | pmem (f : FuncNo)
  | compWrite (f : FuncNo)
  /-- a write, accumulate or claim of chunk `id` of an engine, at this destination address -/
  | chunk (e : Eng) (id : Nat) (va : VAddr)
  /-- a request whose answer is discarded (R450) -/
  | orphan
  deriving DecidableEq, Repr

/-- A Tamore Link port (R432–R435, R459). -/
structure Port where
  /-- 0 DOWN, 1 TRAIN, 2 ACTIVE, 3 RETRAIN -/
  st : BitVec 2 := 0
  retrain : Byte := 0
  replay : BitVec 16 := 0
  crcerr : BitVec 16 := 0
  peer : BitVec 16 := 0
  assigned : Bool := false
  /-- next SEQ to send, next SEQ expected, and the last SEQ received in order when there is one -/
  txSeq : BitVec 12 := 0
  rxSeq : BitVec 12 := 0
  rxAny : Bool := false
  /-- replay buffer, oldest first (R434) -/
  buf : List TxFrame := []
  /-- frames the part has begun to send, newest first: what a receiver on the link sees -/
  wire : List TxFrame := []
  /-- SEQ named by the last NAK received and how often in a row -/
  nakSeq : BitVec 12 := 0
  nakCnt : Nat := 0
  /-- Husk-cycle times of the last two retrains, latest first -/
  recent : List DWord := []
  /-- SEQ named by the part's own last NAK and how often in a row (R434) -/
  ownNakSeq : BitVec 12 := 0
  ownNakCnt : Nat := 0
  /-- TYPE and payload of frames that wait for room in the replay buffer, oldest first (R434) -/
  txq : List (BitVec 2 × List Byte) := []
  /-- by virtual channel: packets that wait for credit, oldest first; units sent and not returned; units to return (R437) -/
  vcq : SMap (List (List Byte)) := []
  used : SMap Nat := []
  back : SMap Nat := []
  /-- bytes received of a packet that spans frames -/
  rxBuf : List Byte := []
  /-- outstanding requests by TAG -/
  out : List (BitVec 16 × OutFor) := []
  deriving DecidableEq, Repr

/-- A transfer in flight between blocks: the number of its packet, request or chunk, and whether it is the reply. -/
abbrev Xid := Nat × Bool

/-- A frame of a die link: its sequence number, the bytes of its four flit slots with their headers, and the transfers whose
flits it carries (R271). -/
structure DieFrame where
  seq : BitVec 10
  slots : List Byte
  carries : List Xid
  deriving DecidableEq, Repr

/-- One direction of a die link: its sender and its receiver (R271–R273). -/
structure DieDir where
  txSeq : BitVec 10 := 0
  /-- the replay buffer: frames that are not acknowledged, oldest first -/
  buf : List DieFrame := []
  /-- how many of them have reached the receiver since the last replay began -/
  sent : Nat := 0
  rxSeq : BitVec 10 := 0
  /-- failures in a row of the frame that is awaited -/
  fails : Nat := 0
  /-- a replay has been asked for -/
  asked : Bool := false
  deriving DecidableEq, Repr

/-- A die link: the direction towards the Kiln and the one away from it, with its counters (R271–R273, R523). -/
structure DieLnk where
  up : DieDir := {}
  down : DieDir := {}
  crcerr : BitVec 16 := 0
  replay : BitVec 16 := 0
  retrain : Byte := 0
  retraining : Bool := false
  /-- Husk-cycle times of the last two retrains, latest first -/
  recent : List DWord := []
  deriving DecidableEq, Repr

/-- An answer slot (R421). -/
structure Slot where
  item : Word := 0
  ans : Word := 0
  valid : Bool := false
  armed : Bool := false
  served : Bool := false
  late : Bool := false
  deriving DecidableEq, Repr

/-- An event-table entry (R430). -/
structure EvtEntry where
  w0 : DWord := 0
  w1 : DWord := 0
  w2 : DWord := 0
  seq : Word := 0
  skip : BitVec 16 := 0
  cfgerr : Bool := false
  deriving DecidableEq, Repr

/-- The position timebase and the line answer port (R404–R431). -/
structure Pt where
  cfg : BitVec 6 := 0
  time : DWord := 0
  cnt : SMap VAddr := []
  ccfg : SMap (BitVec 15) := []
  zlat : SMap VAddr := []
  /-- levels of QA and QB that the filter of each counter has accepted from its input (R404) -/
  qa : BitVec 2 := 0
  qb : BitVec 2 := 0
  /-- time at which the pulse of each pin ends (R415) -/
  pulseEnd : SMap DWord := []
  /-- Husk cycle of the last actions and how many they have been, and the cycles of recent actions 0 and 4 (R414, R418) -/
  actAt : DWord := 0
  actN : Nat := 0
  sentAt : List DWord := []
  /-- entries written in the Husk cycle of `wasAt`, with their old words (R414) -/
  wasAt : DWord := 0
  was : SMap (Option EvtEntry) := []
  ssicfg : BitVec 32 := 0
  ssiRef : Option Word := none
  ssiBusy : Bool := false
  oe : Byte := 0
  pol : Byte := 0
  level : Byte := 0
  pulse : Byte := 0
  qerr0 : BitVec 16 := 0
  qerr1 : BitVec 16 := 0
  ssierr : BitVec 16 := 0
  slow : BitVec 16 := 0
  evStale : BitVec 16 := 0
  evClosed : BitVec 16 := 0
  evDropped : BitVec 16 := 0
  latewr : BitVec 16 := 0
  evt : SMap EvtEntry := []
  slot : SMap Slot := []
  /-- the class-0 send buffer, oldest first (R418) -/
  sendBuf : List Msg := []
  lacfg : BitVec 15 := 0
  laQuery : BitVec 16 := 0
  laAnswer : BitVec 16 := 0
  laNrdy : BitVec 16 := 0
  laBadcrc : BitVec 16 := 0
  laFraming : BitVec 16 := 0
  laReject : BitVec 16 := 0
  laNrarm : BitVec 16 := 0
  /-- the answer frame fixed by the lookup, the frame on the line, and LADE -/
  answer : Option (List Byte) := none
  line : List Byte := []
  lade : Bool := false
  deriving DecidableEq, Repr

/-- A parsed section-table entry (R463). -/
structure Section where
  type : Nat
  offset : Nat
  length : Nat
  digest : List Byte
  deriving DecidableEq, Repr

/-- The configuration loader, security engine and boot flash (R460–R483). -/
structure Loader where
  phase : BitVec 3 := 0
  slotv : Bool := false
  slot : Bool := false
  debug : Bool := false
  idv : Bool := false
  hlpb : Bool := false
  version : Word := 0
  erra : DWord := 0
  errb : DWord := 0
  chk : DWord := 0
  woff : Byte := 0
  ldown : Byte := 0
  fop : BitVec 3 := 0
  fdev : Bool := false
  fbusy : Bool := false
  fstatus : BitVec 3 := 0
  faddr : Word := 0
  /-- the device answers every read of the CHECK in progress within 10 ms -/
  fquick : Bool := true
  abusy : Bool := false
  aresult : BitVec 2 := 2
  nonce : BitVec 256 := 0
  meas : BitVec 512 := 0
  fwin : Memory := []
  idpk : List Byte := []
  arep : List Byte := []
  /-- reports signed since cold start -/
  aseq : Nat := 0
  idkh : List Byte := []
  okh : List Byte := []
  /-- flash contents of device 0 and 1; an unlisted byte reads 0xFF -/
  flash0 : SMap Byte := []
  flash1 : SMap Byte := []
  /-- which devices answer SFDP with the required features (R460) -/
  present0 : Bool := true
  present1 : Bool := true
  /-- sections of the image that passed R467, and the image as it is staged in Cob 15 -/
  secs : List Section := []
  staged : SMap Byte := []
  identityDone : Bool := false
  fabricDone : Bool := false
  hbmDone : Bool := false
  applied : Bool := false
  deriving DecidableEq, Repr

/-- What the applied image fixed (R472, R487, R491). -/
structure Plan where
  k1mode : Bool := false
  k1off : Byte := 0
  k1on : Byte := 0
  dthr : Byte := 0
  thot : Byte := 0
  nmode : SMap Byte := []
  smode : SMap Byte := []
  mmode : SMap Byte := []
  dwin : SMap Byte := []
  ceil : SMap (BitVec 2) := []
  budget : SMap Nat := []
  /-- RES of function f on Cob c at 16f + c -/
  res : SMap (BitVec 9) := []
  pinmux : SMap Byte := []
  /-- CXL port widths, and the eight windows: BASE, SIZE, WAYS, GRAN and targets, with its enable -/
  cxlUse : SMap Byte := []
  cxlWin : List (Nat × Nat × Nat × Nat × List Nat) := []
  cxlEn : Byte := 0
  cxlDown : Byte := 0
  /-- the restore store: SETTINGS records of tiles in mode-2 halves, oldest first: address and value (R487) -/
  restore : List (Nat × DWord) := []
  /-- image PC and SLV of each thread, at tile × 4 + thread, for R450 -/
  imgPc : SMap PWord := []
  imgSlv : SMap Bool := []
  imgRun : SMap Bool := []
  /-- functions that the image defines: bit f for function f -/
  defs : Word := 0
  deriving DecidableEq, Repr

/-- A temperature sensor register (R505). -/
structure Temp where
  cur : Byte := 0
  max : Byte := 0
  deriving DecidableEq, Repr

/-- The power and thermal manager and the Kilns (R484–R505). -/
structure Pw where
  kiln0 : Bool := false
  kiln1 : Power := .off
  /-- new traffic for the Kilns is held until both are empty: the transfers that were in them when the hold began (R267) -/
  routeHold : Option (List Xid) := none
  /-- routes lead through Kiln 1 (R267) -/
  viaK1 : Bool := false
  trip : Bool := false
  tdie : SMap Temp := []
  tstk : SMap Temp := []
  /-- stack scrub: uncorrectable bursts recorded in the telemetry (R286) -/
  scrub : List Nat := []
  deriving DecidableEq, Repr

/-- A register access held until its domain is on (R488, R554). -/
structure HeldAcc where
  src : Src
  write : Bool
  pa : Nat
  width : Nat
  data : DWord
  deriving DecidableEq, Repr

/-- JTAG and the management sideband (R518, R519, R546, R547, R554). -/
structure Side where
  addr : BitVec 48 := 0
  data : DWord := 0
  done : Bool := false
  ir : Byte := 0x01
  dr : Word := 0
  boundary : List Bool := []
  dynAddr : Option (BitVec 7) := none
  /-- bytes the last management read returned -/
  reply : List Byte := []
  /-- under SMBus, the bytes of that transfer that its PEC covers ahead of the reply (R546) -/
  head : Option (List Byte) := none
  held : List HeldAcc := []
  deriving DecidableEq, Repr

/-- The reset, rail and status lands (R537–R541). -/
structure Lands where
  /-- COLDRST_N is high -/
  coldrst : Bool := false
  /-- the supply monitor holds the part after a rail fault -/
  railHold : Bool := false
  /-- rails below 10 % of nominal: bit 0–15 VCORE, 16–17 VKILN, 18 VHUSK, 19 VSERDES, 20 VHBM, 21 VHBMQ, 22 VPP,
  23 VIO33, 24 VIO18, 25 VSTBY -/
  railOff : BitVec 26 := 0
  /-- rails out of tolerance -/
  railBad : BitVec 26 := 0
  thermtrip : Bool := false
  svcflt : Bool := false
  deriving DecidableEq, Repr

/-- The state of the part and the queue of waiting commands. -/
structure State where
  pending : List Instr := []
  tiles : SMap Tile := []
  cobs : SMap Cob := []
  hbm : Memory := []
  /-- 32-byte bursts, by PA / 32, that hold an uncorrectable error (R287) -/
  hbmBad : SMap Bool := []
  slices : SMap Slice := []
  cxl : Memory := []
  net : List Pkt := []
  reqs : List Req := []
  /-- replies that have been sent, by the number of their request, oldest first (R263) -/
  replies : List Nat := []
  /-- next number for a request, packet, fill or store -/
  nextId : Nat := 1
  /-- sending sides of the command engines of Husk 0 and 1 and of the management controller -/
  husk : SMap SendSide := []
  heng : SMap Engine := []
  /-- Husk engine caches (by engine) and Husk walkers (by Husk) -/
  hengTlb : SMap (List Leaf) := []
  huskWalker : SMap (List NonLeaf) := []
  funcs : SMap Func := []
  iwin : SMap DWord := []
  ort : SMap DWord := []
  ports : SMap Port := []
  unrec : Bool := false
  reason : Byte := 0
  devid : BitVec 16 := 0
  devv : Bool := false
  links : SMap DieLnk := []
  pt : Pt := {}
  ld : Loader := {}
  plan : Plan := {}
  pw : Pw := {}
  side : Side := {}
  lands : Lands := {}
  /-- window requests that wait for a memory interface or for the Kilns, oldest first, each with its port (R267, R282) -/
  winHeld : List (Option PortNo × WinReq) := []
  /-- answer of the last inbound window request and of the last CKRD (R325, R292) -/
  winAns : Byte := 0
  ckRecord : List DWord := []
  /-- the model's own: how many free values have been drawn -/
  free : Nat := 1
  deriving DecidableEq, Repr

/-- The part as reset leaves it: COLDRST_N low, nothing on, nothing held (R541). -/
def State.reset : State := {}

end Sys2Proof.Machine
end

