-- ==== Sys2Proof/Machine/Flags.lean ====
section
/-! DEFINITION. Status word layout and every flag computation of the scalar instructions (R44, R97, R98, R105). -/
namespace Sys2Proof.Machine

/-- The status word as thread `h` reads it (R44). -/
def statusWord (h : Thr) (x : Status) : Word :=
  (0#14) ++ h ++ (0#7) ++ b2v x.rep ++ b2v x.v ++ b2v x.c ++ b2v x.n ++ b2v x.z ++ b2v x.ss ++ b2v x.ie ++ x.pl

/-- The fields of a saved status word; TID and reserved bits are not fields (R44, R362). -/
def statusOf (w : Word) : Status :=
  { pl := bits w 0 2, ie := bit w 2, ss := bit w 3, z := bit w 4, n := bit w 5, c := bit w 6, v := bit w 7,
    rep := bit w 8 }

/-- What a write of the status word by an instruction changes: Z, N, C, V always, IE and SS at S or M (R45). -/
def writeStatus (x : Status) (w : Word) : Status :=
  let y := { x with z := bit w 4, n := bit w 5, c := bit w 6, v := bit w 7 }
  if x.pl = 1 then y else { y with ie := bit w 2, ss := bit w 3 }

/-- Z and N of a 32-bit result (R97). -/
def flagsZN (x : Status) (r : Word) : Status := { x with z := r = 0, n := bit r 31 }

/-- ADD and ADDI: result and flags (R97). -/
def addFlags (x : Status) (a b : Word) : Word × Status :=
  (a + b, { flagsZN x (a + b) with
    c := 2 ^ 32 ≤ a.toNat + b.toNat
    v := a.toInt + b.toInt ≠ (a + b).toInt })

/-- SUB, CMP and CMPI: result and flags; C is 1 when there is no borrow (R97). -/
def subFlags (x : Status) (a b : Word) : Word × Status :=
  (a - b, { flagsZN x (a - b) with
    c := b.toNat ≤ a.toNat
    v := a.toInt - b.toInt ≠ (a - b).toInt })

/-- AND, OR, XOR and ANDI: Z and N only (R97). -/
def logicFlags (x : Status) (r : Word) : Word × Status := (r, flagsZN x r)

/-- MUL: the low 32 bits of the signed product; V when the product does not fit (R97). -/
def mulFlags (x : Status) (a b : Word) : Word × Status :=
  let r := a * b
  (r, { flagsZN x r with v := a.toInt * b.toInt ≠ r.toInt })

/-- SHL by an unsigned amount (R98). -/
def shlFlags (x : Status) (a n : Word) : Word × Status :=
  let r := if n.toNat ≤ 32 then a <<< n.toNat else 0
  (r, { flagsZN x r with
    c := if n = 0 then x.c else if n.toNat ≤ 32 then bit a (32 - n.toNat) else false })

/-- SHR by an unsigned amount (R98). -/
def shrFlags (x : Status) (a n : Word) : Word × Status :=
  let r := if n.toNat ≤ 32 then a >>> n.toNat else 0
  (r, { flagsZN x r with
    c := if n = 0 then x.c else if n.toNat ≤ 32 then bit a (n.toNat - 1) else false })

/-- SAR by an unsigned amount (R98). -/
def sarFlags (x : Status) (a n : Word) : Word × Status :=
  let r := if n.toNat ≤ 32 then a.sshiftRight n.toNat else if bit a 31 then BitVec.allOnes 32 else 0
  (r, { flagsZN x r with
    c := if n = 0 then x.c else if n.toNat ≤ 32 then bit a (n.toNat - 1) else bit a 31 })

/-- BRD: Z and N of the bits read (R105). -/
def brdFlags (x : Status) (r : Word) : Status := flagsZN x r

/-- The condition of BR (R70). -/
def brHolds (c : BrCond) (x : Status) : Bool :=
  match c with
  | .al => true
  | .eq => x.z
  | .ne => !x.z
  | .lt => x.n != x.v
  | .ge => x.n == x.v
  | .cs => x.c
  | .cc => !x.c
  | .vs => x.v

end Sys2Proof.Machine
end

