-- ==== Sys2Proof/Machine/Operands.lean ====
section
/-! DEFINITION. Operand access: blocks of the part by number, register files, seed bits, lanes and masks (R42, R49,
R52, R53, R68, R69, R106). -/
namespace Sys2Proof.Machine

/-! ## Blocks by number -/

def State.tile (s : State) (t : TileId) : Tile := SMap.get {} s.tiles t.toNat
def State.modTile (s : State) (t : TileId) (f : Tile → Tile) : State :=
  { s with tiles := SMap.modify {} s.tiles t.toNat f }
def Tile.th (tl : Tile) (h : Thr) : Thread := SMap.get {} tl.thr h.toNat
def Tile.modTh (tl : Tile) (h : Thr) (f : Thread → Thread) : Tile :=
  { tl with thr := SMap.modify {} tl.thr h.toNat f }
def State.th (s : State) (t : TileId) (h : Thr) : Thread := (s.tile t).th h
def State.modTh (s : State) (t : TileId) (h : Thr) (f : Thread → Thread) : State :=
  s.modTile t (fun tl => tl.modTh h f)
def State.cob (s : State) (c : CobNo) : Cob := SMap.get {} s.cobs c.toNat
def State.modCob (s : State) (c : CobNo) (f : Cob → Cob) : State :=
  { s with cobs := SMap.modify {} s.cobs c.toNat f }
def State.func (s : State) (f : FuncNo) : Func := SMap.get {} s.funcs f.toNat
def State.modFunc (s : State) (f : FuncNo) (g : Func → Func) : State :=
  { s with funcs := SMap.modify {} s.funcs f.toNat g }
def State.port (s : State) (p : PortNo) : Port := SMap.get {} s.ports p.toNat
def State.modPort (s : State) (p : PortNo) (f : Port → Port) : State :=
  { s with ports := SMap.modify {} s.ports p.toNat f }
def State.slice (s : State) (i : Nat) : Slice := SMap.get {} s.slices i
def State.modSlice (s : State) (i : Nat) (f : Slice → Slice) : State :=
  { s with slices := SMap.modify {} s.slices i f }
def State.link (s : State) (l : DLink) : DieLnk := SMap.get {} s.links l.toNat
def State.modLink (s : State) (l : DLink) (f : DieLnk → DieLnk) : State :=
  { s with links := SMap.modify {} s.links l.toNat f }
def Tile.queue (tl : Tile) (q : QIx) : Queue := SMap.get {} tl.q q.toNat
def Tile.modQueue (tl : Tile) (q : QIx) (f : Queue → Queue) : Tile :=
  { tl with q := SMap.modify {} tl.q q.toNat f }
def Tile.reg (tl : Tile) (k : Reg) : TileReg := SMap.get {} tl.treg k.toNat
def Tile.modReg (tl : Tile) (k : Reg) (f : TileReg → TileReg) : Tile :=
  { tl with treg := SMap.modify {} tl.treg k.toNat f }

/-- A copy engine of a tile or a Husk. -/
def State.eng (s : State) (e : Eng) : Engine :=
  match e with
  | .tile t => (s.tile t).eng
  | .husk i => SMap.get {} s.heng i.toNat
def State.modEng (s : State) (e : Eng) (f : Engine → Engine) : State :=
  match e with
  | .tile t => s.modTile t (fun tl => { tl with eng := f tl.eng })
  | .husk i => { s with heng := SMap.modify {} s.heng i.toNat f }

/-- The sending side of a tile or Husk source. -/
def State.sendSide (s : State) (p : Sender) : SendSide :=
  match p with
  | .tile t => (s.tile t).send
  | .cmd b => SMap.get {} s.husk (b2n b)
  | .mgmt => SMap.get {} s.husk 2
def State.modSend (s : State) (p : Sender) (f : SendSide → SendSide) : State :=
  match p with
  | .tile t => s.modTile t (fun tl => { tl with send := f tl.send })
  | .cmd b => { s with husk := SMap.modify {} s.husk (b2n b) f }
  | .mgmt => { s with husk := SMap.modify {} s.husk 2 f }

/-! ## Slices (R278, R282, R290) -/

/-- The slice of an HBM address (R278). -/
def sliceOf (pa : Nat) : Nat := (pa / 4096 % 1024) ^^^ (pa / 2 ^ 22 % 1024)
/-- A slice's Cob (R278). -/
def sliceCob (i : Nat) : Nat := i % 32 / 2
/-- The Cob whose memory interface serves an address. -/
def slicePaCob (pa : Nat) : CobNo := BitVec.ofNat 4 (sliceCob (sliceOf pa))
/-- The memory interface of an address is on. -/
def State.sliceOn (s : State) (pa : Nat) : Bool := (s.cob (slicePaCob pa)).memif = .on
/-- A collier holds the block of an address (R290). -/
def State.held (s : State) (pa : Nat) : Bool := (s.slice (sliceOf pa)).held.contains (pa / 64)

/-! ## Tile identity and power -/

/-- The Cob of a tile: bits [11:8] of its ID. -/
def tileCob (t : TileId) : CobNo := bits t 8 4
/-- The tile lies in the south half of its Cob: rows 8 to 15 (R15). -/
def tileSouth (t : TileId) : Bool := bit t 7
def Cob.half (c : Cob) (south : Bool) : Power := if south then c.south else c.north
/-- The domain that holds a tile is on. -/
def State.tileOn (s : State) (t : TileId) : Bool := (s.cob (tileCob t)).half (tileSouth t) = .on
/-- CT_CYC: core cycles since the tile's domain switched on (R29, R59). -/
def State.cyc (s : State) (t : TileId) : Nat := (s.cob (tileCob t)).cyc - (s.tile t).onAt
/-- CT_ROT, the rotation count (R24, R29). -/
def State.rot (s : State) (t : TileId) : Nat := s.cyc t - (s.tile t).stall.toNat
/-- Tiles of a function, in ascending tile ID. -/
def State.tilesOf (s : State) (f : FuncNo) : List TileId :=
  (s.tiles.filter (fun p => p.2.func = some f)).map (fun p => BitVec.ofNat 12 p.1)
/-- The part runs: COLDRST_N is high and the supply monitor does not hold it (R541, R547). -/
def State.alive (s : State) : Bool := s.lands.coldrst && !s.lands.railHold
/-- Debug mode (R513). -/
def State.debug (s : State) : Bool := s.ld.debug

/-! ## Register files (R42) -/

def Thread.getD (x : Thread) (r : Reg) : Word := SMap.get 0 x.d r.toNat
def Thread.setD (x : Thread) (r : Reg) (v : Word) : Thread := { x with d := SMap.set 0 x.d r.toNat v }
def Thread.getA (x : Thread) (r : Reg) : DWord := SMap.get 0 x.a r.toNat
def Thread.setA (x : Thread) (r : Reg) (v : DWord) : Thread := { x with a := SMap.set 0 x.a r.toNat v }
def Thread.getV (x : Thread) (r : Reg) : VWord := SMap.get 0 x.v r.toNat
def Thread.setV (x : Thread) (r : Reg) (v : VWord) : Thread := { x with v := SMap.set 0 x.v r.toNat v }
/-- A vector result that lands after its latency (R107). -/
def Thread.pendV (x : Thread) (r : Reg) (v : VWord) : Thread := { x with vpend := x.vpend ++ [(r, v)] }
def Thread.vBusy (x : Thread) (r : Reg) : Bool := x.vpend.any (fun p => p.1 = r)
/-- The staging of the current level (R215). -/
def Thread.stg (x : Thread) : Staging := if x.st.pl = 3 then x.stgM else if x.st.pl = 2 then x.stgS else x.stgU
def Thread.setStg (x : Thread) (g : Staging) : Thread :=
  if x.st.pl = 3 then { x with stgM := g } else if x.st.pl = 2 then { x with stgS := g } else { x with stgU := g }
def Staging.list (g : Staging) : List Word := (List.range g.count.toNat).map (fun i => bits g.words (32 * i) 32)
/-- The timer's compare has been reached: TMR of CT_IRQ (R375). -/
def timerDue (cyc : Nat) (x : Thread) : Bool := bit x.tmr 63 && decide ((bits x.tmr 0 63).toNat ≤ cyc)

/-! ## Seed bits (R49–R54) -/

/-- The oldest message of a ring, once its last byte has been written (R223, R228). -/
def Queue.oldest (k : Queue) : Option QMsg := k.msgs.head?.filter (fun m => m.seen)

/-- A matrix operation that writes Tk has not committed (R52). -/
def Tile.tpnd (tl : Tile) (k : Reg) : Bool := tl.mx.any (fun o => o.c = k)

/-- A bit of the status region, by its offset from 0x1F00 (R52). -/
def Tile.statusBit (tl : Tile) (o : Nat) : Bool :=
  if o < 16 then (tl.queue (BitVec.ofNat 4 o)).oldest.isSome
  else if o < 32 then (tl.queue (BitVec.ofNat 4 o)).closed
  else if o < 48 then bit tl.pev (o - 32)
  else if o < 52 then bit tl.stale (o - 48)
  else if o < 56 then bit tl.closedS (o - 52)
  else if o = 64 then tl.eng.st = .running
  else if o = 65 then tl.cedone
  else if o = 66 then tl.ceflt
  else if o = 67 then tl.eng.qcnt = 8
  else if 72 ≤ o && o < 80 then tl.tpnd (BitVec.ofNat 3 o)
  else if 80 ≤ o && o < 88 then (tl.reg (BitVec.ofNat 3 o)).tuse
  else if o = 88 then tl.mx.any (fun m => m.result.isSome)
  else if o = 89 then tl.mx.any (fun m => m.result.isSome) && tl.mx.length = 2
  else if o = 90 then tl.cord
  else if o = 96 then tl.lmce
  else o = 127

/-- A seed bit as thread `h` sees it (R49). -/
def Tile.seed (tl : Tile) (h : Thr) (a : Seed) : Bool :=
  if a.toNat < 0x200 then bit (tl.th h).priv a.toNat
  else if a.toNat < 0x1F00 then bit tl.shared (a.toNat - 0x200)
  else tl.statusBit (a.toNat - 0x1F00)

/-- A write of 0 to a sticky bit clears it; nothing else in the status region is written (R53). -/
def Tile.clearSticky (tl : Tile) (o : Nat) : Tile :=
  if 32 ≤ o && o < 48 then { tl with pev := setBit tl.pev (o - 32) false }
  else if 48 ≤ o && o < 52 then { tl with stale := setBit tl.stale (o - 48) false }
  else if 52 ≤ o && o < 56 then { tl with closedS := setBit tl.closedS (o - 52) false }
  else if o = 65 then { tl with cedone := false }
  else if o = 66 then { tl with ceflt := false }
  else if o = 96 then { tl with lmce := false }
  else tl

/-- Thread `h` writes a seed bit (R49, R51, R53). -/
def Tile.setSeed (tl : Tile) (h : Thr) (a : Seed) (v : Bool) : Tile :=
  if a.toNat < 0x200 then tl.modTh h (fun x => { x with priv := setBit x.priv a.toNat v })
  else if a.toNat < 0x1F00 then { tl with shared := setBit tl.shared (a.toNat - 0x200) v }
  else if v then tl else tl.clearSticky (a.toNat - 0x1F00)

/-- `n` seed bits from `a` upward, bit i of the number from a + i. -/
def Tile.seedRun (tl : Tile) (h : Thr) (a : Seed) : Nat → Nat
  | 0 => 0
  | n + 1 => b2n (tl.seed h a) + 2 * tl.seedRun h (a + 1) n

/-- Writes `n` seed bits from `a` upward from a number. -/
def Tile.setSeedRun (tl : Tile) (h : Thr) (a : Seed) (v : Nat) : Nat → Tile
  | 0 => tl
  | n + 1 => (tl.setSeed h a (decide (v % 2 = 1))).setSeedRun h (a + 1) (v / 2) n

/-! ## Lanes and masks (R69, R106) -/

/-- Lanes of a lane type. -/
def lanes (ty : Ty) : Nat :=
  match ty with
  | .fp32 => 16
  | .int32 => 16
  | .fp16 => 32
  | .bf16 => 32
/-- Width of a lane. -/
def laneW (ty : Ty) : Nat := 512 / lanes ty
/-- Lane `i` of a register, as a number. -/
def lane (ty : Ty) (v : VWord) (i : Nat) : Nat := v.toNat / 2 ^ (laneW ty * i) % 2 ^ laneW ty
/-- A register from its lanes, lane 0 first. -/
def ofLanes (w : Nat) : List Nat → Nat
  | [] => 0
  | x :: r => x % 2 ^ w + 2 ^ w * ofLanes w r
/-- The lane mask: bit i is 1 when lane i is active (R106). -/
def maskBits (tl : Tile) (h : Thr) (m : Mask) (n : Nat) : Nat :=
  match m with
  | none => 2 ^ n - 1
  | some a => tl.seedRun h (a ++ (0#5)) n
/-- The element mask of layout VX (R69). -/
def maskBits5 (tl : Tile) (h : Thr) (m : Mask5) (n : Nat) : Nat :=
  match m with
  | none => 2 ^ n - 1
  | some a => tl.seedRun h (a ++ (0#8)) n
/-- Lane i is active. -/
def active (mask i : Nat) : Bool := mask / 2 ^ i % 2 = 1
/-- A register whose active lanes are `f i` and whose other lanes keep `old` (R106). -/
def mergeLanes (ty : Ty) (mask : Nat) (old : VWord) (f : Nat → Nat) : VWord :=
  BitVec.ofNat 512 (ofLanes (laneW ty)
    ((List.range (lanes ty)).map (fun i => if active mask i then f i else lane ty old i)))

end Sys2Proof.Machine
end

