-- ==== Sys2Proof/Machine/Frames.lean ====
section
/-! DEFINITION. Tamore Link output: the layout of frames and packets, virtual channels and their credit, the replay buffer,
and the port that a packet leaves on (R433, R434, R436–R438). -/
namespace Sys2Proof.Machine

/-! ## Packets (R436) -/

/-- The bytes of a packet: its 24-byte header and its payload, padded to a multiple of 8. -/
def TxPkt.bytes (k : TxPkt) (src : BitVec 16) : List Byte :=
  let pad := (8 - k.data.length % 8) % 8
  leBytes 4 (k.type.toNat + 256 * k.func.toNat + 65536 * k.len) ++ bytesOf src 2 ++ bytesOf k.dst 2 ++ bytesOf k.tag 2
    ++ [k.status, k.attr] ++ bytesOf k.addr 8 ++ leBytes 4 0 ++ k.data ++ List.replicate pad 0
/-- The virtual channel of a packet type (R437). -/
def pktVc (ty : Nat) : Nat :=
  if ty < 0x10 then 0 else if ty < 0x13 then 1 else if ty = 0x20 then 2 else 3
/-- Credit units of 64 bytes that a packet takes (R433, R437). -/
def pktUnits (b : List Byte) : Nat := ceilDiv b.length 64
/-- Credit units of a virtual channel's receive buffer (R437). -/
def vcUnits : Nat := 512

/-! ## Frames (R433, R434) -/

/-- Bytes of a payload, filled with zeros to 240. -/
def framePad (b : List Byte) : List Byte := b ++ List.replicate (240 - b.length) 0
/-- The 256 bytes of a frame. -/
def TxFrame.bytes (f : TxFrame) : List Byte :=
  let ack := match f.ack with
    | some a => 64 * a.toNat + 32
    | none => 0
  let b := leBytes 4 (2 ^ 30 * f.kind.toNat + 2 ^ 18 * f.seq.toNat + ack) ++ f.payload
    ++ (List.range 4).flatMap (fun v => leBytes 2 (f.credit.getD v 0))
  b ++ bytesOf (crc32 b) 4
/-- Frames that the sender keeps for replay (R434). -/
def replayFrames : Nat := 2048

/-- The ACK field of a frame that begins now: the last SEQ received in order (R433). -/
def Port.ack (p : Port) : Option (BitVec 12) := if p.rxAny then some (p.rxSeq - 1) else none
/-- The credit that a frame returns now. -/
def Port.credits (p : Port) : List Nat := (List.range 4).map (fun v => SMap.get 0 p.back v)
/-- A port begins to send a frame: it takes the next SEQ and stays in the replay buffer; while that is full, it waits
(R434). -/
def Port.begin (p : Port) (kind : BitVec 2) (payload : List Byte) : Port :=
  if replayFrames ≤ p.buf.length then { p with txq := p.txq ++ [(kind, payload)] }
  else
    let fr : TxFrame := { kind := kind, seq := p.txSeq, ack := p.ack, payload := payload, credit := p.credits }
    { p with txSeq := p.txSeq + 1, buf := p.buf ++ [fr], wire := fr :: p.wire, back := [] }
/-- A control frame with its bytes from byte 4 on (R435). -/
def Port.control (p : Port) (b : List Byte) : Port := p.begin 1 (framePad b)
/-- An idle frame carries the acknowledgement and returned credit (R434). -/
def Port.idleFrame (p : Port) : Port :=
  { p with wire := { kind := 2, seq := 0, ack := p.ack, payload := framePad [], credit := p.credits } :: p.wire, back := [] }
/-- Frames that waited for the replay buffer begin (R434). -/
def Port.flush (p : Port) : Port := p.txq.foldl (fun a f => a.begin f.1 f.2) { p with txq := [] }

/-- The data frames of a packet's bytes: a packet may span frames (R436). -/
def Port.frames (p : Port) : Nat → List Byte → Port
  | 0, _ => p
  | n + 1, b => if b = [] then p else (p.begin 0 (framePad (b.take 240))).frames n (b.drop 240)
/-- A packet leaves against credit of its virtual channel, or waits behind those that wait for it (R437). -/
def Port.packet (p : Port) (vc : Nat) (b : List Byte) : Port :=
  if SMap.get [] p.vcq vc = [] && decide (SMap.get 0 p.used vc + pktUnits b ≤ vcUnits) then
    Port.frames { p with used := SMap.modify 0 p.used vc (fun n => n + pktUnits b) } 18 b
  else { p with vcq := SMap.modify [] p.vcq vc (fun l => l ++ [b]) }
/-- Credit of a virtual channel returns, and packets that waited for it leave, oldest first (R433, R437). -/
def Port.credit (p : Port) (vc n : Nat) : Port :=
  let l := SMap.get [] p.vcq vc
  l.foldl (fun a b => a.packet vc b)
    { p with used := SMap.modify 0 p.used vc (fun m => m - n), vcq := SMap.set [] p.vcq vc [] }

/-- A packet leaves on port `p`, with the part's device ID as its source (R436). -/
def State.sendOn (s : State) (p : PortNo) (k : TxPkt) : State :=
  s.modPort p (fun x => x.packet (pktVc k.type.toNat) (k.bytes s.devid))

/-! ## Ports (R438) -/

/-- Active ports, in ascending order. -/
def State.activePorts (s : State) : List PortNo := ([0, 1, 2, 3] : List PortNo).filter (fun p => (s.port p).st = 2)

/-- The port that packets to a device leave on (R438). -/
def State.portFor (s : State) (dst : BitVec 16) : Option PortNo :=
  match s.activePorts.filter (fun p => (s.port p).assigned && (s.port p).peer = dst) with
  | p :: _ => some p
  | [] =>
    let b : PortNo := bits dst 0 2
    (([b, b + 1, b + 2, b + 3] : List PortNo).filter (fun p => (s.port p).st = 2)).head?

/-- An answer to the adapter of port `p`, on the port that its ID chooses (R438). -/
def State.replyOn (s : State) (p : PortNo) (k : TxPkt) : State :=
  match s.portFor (s.port p).peer with
  | some q => s.sendOn q { k with dst := (s.port p).peer }
  | none => s

end Sys2Proof.Machine
end

