-- ==== Sys2Proof/Machine/Ops.lean ====
section
/-! DEFINITION. The shared operations of threads and functions: sending on Tamore Link, events, stopping, failing a
function, machine checks, taking an exception and returning from one, stalls, hazard reports, the issue gate and the
completion of an instruction (R30–R41, R95, R96, R119, R120, R354–R369, R444, R452, R513–R522). -/
namespace Sys2Proof.Machine

/-! ## Events (R444) -/

/-- An EVENT packet on the lowest-numbered ACTIVE port (R444). -/
def State.sendEvent (s : State) (f : FuncNo) (code : Byte) : State :=
  match s.activePorts with
  | [] => s
  | p :: _ =>
    s.replyOn p { type := 3, func := f, dst := 0, tag := 0, status := 0, attr := 0, addr := 0, data := code :: leBytes 3 0, len := 4 }

/-- An event of function `f`: its entry waits unless the completion ring is disabled or one of its code waits, and
its packet is sent (R444). -/
def State.event (s : State) (f : FuncNo) (code : Byte) (result : DWord) : State :=
  (s.modFunc f (fun x =>
    if bit x.cqb 5 && !(x.events.any (fun e => e.1 = code)) then { x with events := x.events ++ [(code, result)] }
    else x)).sendEvent f code

/-! ## Counters (R522) -/

/-- `n` events of a code reach the four counters that select it. -/
def Tile.pm (tl : Tile) (code : Nat) (n : Nat) : Tile :=
  if tl.pmsel = 0 then tl
  else
    let step (m : SMap DWord) (k : Nat) : SMap DWord :=
      if (bits tl.pmsel (8 * k) 8).toNat = code then SMap.modify 0 m k (fun x => x + BitVec.ofNat 64 n) else m
    { tl with pmc := step (step (step (step tl.pmc 0) 1) 2) 3 }

/-- Quiet is broken in a cycle that is not quiet: COUNT returns to 0 and ACT rises (R370). -/
def Tile.touch (tl : Tile) : Tile :=
  if tl.quietCnt = 0 then tl else { tl with quietCnt := 0, quietAct := tl.quietAct + 1 }

/-- The present slot is spent (R25). -/
def Tile.spend (tl : Tile) : Tile := { tl with slotUsed := true }
/-- An instruction of thread `h` has issued: counters 0x01 and 0x02 + h (R522); the tile is not quiet (R370) and the slot
is spent (R25). -/
def Tile.issued (tl : Tile) (h : Thr) : Tile := ((tl.pm 1 1).pm (2 + h.toNat) 1).touch.spend

/-! ## Stopping threads and emptying engines (R39, R140, R312) -/

/-- A thread enters STOPPED: a blocked instruction is abandoned and the three stagings are discarded (R39). -/
def Thread.stop (x : Thread) : Thread :=
  { x with run := .stopped, blk := none, stgU := { x.stgU with count := 0 }, stgS := { x.stgS with count := 0 },
           stgM := { x.stgM with count := 0 }, wait := none, walk := none, moved := 0, part := [], stopReq := false,
           haltReq := none, stepping := false, owed := false }

/-- A thread enters HALTED with a cause of CT_DBG; its stagings are kept (R40, R528). A tile load or store begun is
kept only by a step (R132, R521). -/
def Thread.halt (x : Thread) (cause : BitVec 3) : Thread :=
  let keep := cause = 2 || cause = 3
  { x with moved := if keep then x.moved else 0, part := if keep then x.part else [], run := .halted, blk := none,
           haltReq := none, stepping := false, owed := false, dbgCause := cause }

/-- Uncommitted matrix operations are abandoned and the cord is released (R140). -/
def Tile.abandon (tl : Tile) : Tile := { tl with mx := [], cord := false }

/-- A tile's cord claim is withdrawn. -/
def State.dropClaim (s : State) (t : TileId) : State :=
  s.modCob (tileCob t) (fun c => { c with claims := c.claims.filter (fun u => u.2 ≠ t) })

/-- A tile copy engine as a per-function reset leaves it: chunks in flight finish (R312). -/
def Engine.reset (e : Engine) : Engine :=
  { e with st := .idle, qcnt := 0, next := 0, active := false, part := false, cause := 0, out := [], ending := false,
           pausing := false, halting := none, hold := [], jobs := [] }

/-- What a failing or reset function's tile loses: operations, engine work; the stall ends with them. -/
def Tile.quell (tl : Tile) : Tile :=
  { tl.abandon with eng := tl.eng.reset, ceflt := false, causes := 0, c7 := 0, spell := 0 }

/-- Threads of a tile that `keep` does not name stop. -/
def Tile.stopThreads (tl : Tile) (keep : Option Thr) : Tile :=
  ([0, 1, 2, 3] : List Thr).foldl (fun a h => if keep = some h then a else a.modTh h Thread.stop) tl

/-! ## Failing a function (R366–R369, R449, R452) -/

/-- A QUIESCE in progress completes with a status: its command is dropped and its completion waits (R449). -/
def Func.endQuiesce (x : Func) (status : Byte) : Func :=
  match x.cmds with
  | c :: r =>
    if bits (nth c.words 0 0) 0 8 = 0x50 && c.started then
      { x with qreq := false, cmds := r,
               comps := x.comps ++ [{ cid := nth c.words 1 0, status := status, op := 0x50, result := 0 }] }
    else { x with qreq := false }
  | [] => { x with qreq := false }

/-- Function `f` fails in this cycle (R368); `h` is the handling thread, `rec` the record (R369). -/
def State.failFunc (s : State) (f : FuncNo) (h : Option (TileId × Thr)) (rec0 : DWord) : State :=
  let s1 := (s.tilesOf f).foldl (fun a t =>
    (a.modTile t (fun tl =>
      (tl.stopThreads (match h with | some (u, k) => if u = t then some k else none | none => none)).quell)).dropClaim t) s
  let s2 := s1.modFunc f (fun x => { x.endQuiesce 5 with st := .failed, mcrec0 := rec0, handler := h })
  s2.event f 0x80 rec0

/-- CT_MCREC0 of a machine check (R377). -/
def mcWord (r : McReport) (f : FuncNo) (part sync : Bool) (h : Thr) : DWord :=
  (0#32) ++ b2v r.tile.isNone ++ h ++ f ++ (0#1) ++ (1#1) ++ b2v sync ++ b2v part ++ r.tile.getD 0xFFF ++ r.src

/-- CT_MCREC2 of a machine check: the virtual address when it is known (R377). -/
def mcVa (r : McReport) : DWord :=
  match r.va with
  | some v => setBit (v.setWidth 64) 63 true
  | none => 0

/-- A machine check that is not recorded: only OVF is set (R367, R368). -/
def Tile.mcOvf (tl : Tile) : Tile := { tl with mcrec0 := setBit tl.mcrec0 23 true }

/-- The record is written unless one is held; then only OVF is set (R367). -/
def Tile.mcRecord (tl : Tile) (r : McReport) (w0 : DWord) (pc : PWord) (sync : Bool) : Tile :=
  if bit tl.mcrec0 22 then tl.mcOvf
  else { tl with mcrec0 := w0, mcrec1 := r.pa.setWidth 64, mcrec2 := mcVa r, mcrec3 := if sync then pc.setWidth 64 else 0 }

/-- A machine check of a function that is RESETTING: MCR and the record; a later one adds OVF (R367, R369). -/
def Func.mcReset (x : Func) (r : McReport) (w0 : DWord) : Func :=
  if x.mcr then { x with mcrec0 := setBit x.mcrec0 23 true }
  else { x with mcr := true, mcrec0 := w0, mcrec1 := r.pa.setWidth 64, mcrec2 := mcVa r }

/-- The clearing of records at 1 µs of the function's reset has yet to come (R450). -/
def Func.beforeClearing (x : Func) : Bool :=
  match x.rst with
  | some r => r.stage = .begun
  | none => false

/-- Saved and vectored: taking an exception at S or M in one slot (R356). `ret` is the saved return address, `ipc` the
instruction of the record; with `save` false the saved registers stay (R363). A parity error in the table word is the
caller's concern (R357), as is the choice of the level. -/
def Tile.enter (tl : Tile) (h : Thr) (toM : Bool) (cause : BitVec 5) (ret ipc : PWord) (detail : BitVec 4)
    (va : VAddr) (save : Bool) : Tile :=
  let base := if toM then tl.mvbase else tl.svbase
  let vec : PWord := SMap.get 0 tl.pmem (base + cause.setWidth 14).toNat
  tl.modTh h (fun x =>
    let r : Word := (0#4) ++ detail ++ (0#2) ++ ipc ++ (0#1) ++ x.st.pl ++ cause
    let y := { x with st := { x.st with pl := if toM then 3 else 2, ie := false, ss := false, rep := false },
                      pc := vec, run := .running, blk := none, moved := 0, part := [], walk := none,
                      wait := none }
    if toM then
      { y with mxc := r, mxa := va, mepc := if save then ret else x.mepc,
               mestat := if save then statusWord h x.st else x.mestat }
    else
      { y with sxc := r, sxa := va, sepc := if save then ret else x.sepc,
               sestat := if save then statusWord h x.st else x.sestat })

/-- The vector-table word of cause `c` at a level has a parity error (R357). -/
def Tile.vectorBad (tl : Tile) (toM : Bool) (c : BitVec 5) : Bool :=
  SMap.get false tl.pbad ((if toM then tl.mvbase else tl.svbase) + c.setWidth 14).toNat

/-- Delivery of a machine check of one function (R367–R369). A record made while the function is RESETTING is written at
once or, before the clearing at 1 µs, with that clearing. DEDUCED (log 37): where the word of cause 0x00 itself has a parity error,
the machine check of R357 that comes in place of the entry is one of a failed function, so OVF is set and the thread does
not enter. -/
def State.mcFunc (s : State) (r : McReport) (f : FuncNo) (part : Bool) : State :=
  let x := s.func f
  let first := (s.tilesOf f).head?
  match x.st with
  | .absent => s
  | .failed =>
    match x.handler, first with
    | some (t, _), _ => s.modTile t Tile.mcOvf
    | none, some t => s.modTile t Tile.mcOvf
    | none, none => s
  | .resetting =>
    let w := mcWord r f part false 0
    let s1 := s.modFunc f (fun x => x.mcReset r w)
    match first with
    | some t => if x.beforeClearing then s1 else s1.modTile t (fun tl => tl.mcRecord r w 0 false)
    | none => s1
  | _ =>
    match first with
    | none => s.failFunc f none (mcWord r f part false 0)
    | some t0 =>
      let own := r.reader.filter (fun p => (s.tile p.1).func = some f)
      let hd := own.getD (t0, 0)
      let sync := own.isSome
      let w := mcWord r f part sync hd.2
      let pc := (s.th hd.1 hd.2).pc
      let s1 := s.modTile hd.1 (fun tl => tl.mcRecord r w pc sync)
      let s2 := s1.failFunc f (some hd) w
      if sync then
        s2.modTile hd.1 (fun tl =>
          if tl.vectorBad true 0 then tl.mcOvf else (tl.enter hd.2 true 0 pc pc 0 0 true).spend)
      else s2.modTh hd.1 hd.2 (fun x =>
        { x with mcp := true, run := if x.run = .halted then .halted else if x.run = .stopped then .running else x.run })

/-- The FAULT control frame of a part that leaves service (R435). -/
def State.sendFault (s : State) (reason : Byte) : State :=
  s.activePorts.foldl (fun a p => a.modPort p (fun x => x.control [0x04, reason])) s

/-- Functions the image defines. -/
def State.defined (s : State) : List FuncNo :=
  ((List.range 32).map (fun i => BitVec.ofNat 5 i)).filter (fun f => (s.func f).st ≠ .absent)

/-- The part leaves service (R452): UNREC and REASON, every defined function fails, FAULT frames and event 0x82; the line answer
port lets go of the line (R536). A later part-wide machine check is one of every function, which has failed already (R366, R368). -/
def State.leaveService (s : State) (reason : Byte) (r : Option McReport) : State :=
  let fs := s.defined
  if s.unrec then
    match r with
    | some m => fs.foldl (fun a f => a.mcFunc m f true) s
    | none => s
  else
    let s1 := { s with unrec := true, reason := reason, lands := { s.lands with svcflt := true }
                       pt := { s.pt with answer := none, line := [], lade := false } }
    let s2 := fs.foldl (fun a f =>
      match r with
      | some m => a.mcFunc m f true
      | none => if (a.func f).st = .resetting || (a.func f).st = .failed then a else a.failFunc f none 0) s1
    fs.foldl (fun a f => a.event f 0x82 0) (s2.sendFault reason)

/-- A machine check (R366): one function, or the whole part for sources 0x08 and 0x09. -/
def State.machineCheck (s : State) (r : McReport) : State :=
  if r.src = 8 then s.leaveService 3 (some r)
  else if r.src = 9 then s.leaveService 2 (some r)
  else s.mcFunc r r.func false

/-! ## Slot ends, halts and stalls -/

/-- A halt request that waits for the end of an instruction charged with a hazard (R515). -/
def haltAfter : BitVec 3 := 6

/-- What a thread does at the end of a slot in debug mode (R521): a hazard halt, STEP and SS, in that order; SS as it stood
when the slot began. DEDUCED (log 103): a step that is owed ends with the instruction that completes. -/
def Thread.slotEnd (dbg ss : Bool) (x : Thread) : Thread :=
  if !dbg || x.run ≠ .running then x
  else if x.haltReq = some haltAfter then x.halt 5
  else if x.stepping then x.halt 3
  else if ss || x.owed then x.halt 2
  else x

/-- Stops and halts that waited for the thread's next slot (R39, R40, R520). -/
def Thread.settle (x : Thread) : Thread :=
  if x.wait.isSome then x
  else if x.stopReq then x.stop
  else match x.haltReq with
    | some c => if c = haltAfter then x else if x.run = .running || x.run = .blocked then x.halt c else { x with haltReq := none }
    | none => x

/-- All four threads settle once no stall is active. -/
def Tile.settle (tl : Tile) : Tile :=
  if tl.causes ≠ 0 then tl
  else ([0, 1, 2, 3] : List Thr).foldl (fun a h => a.modTh h Thread.settle) tl

/-- A stall begins in the slot of thread `h` with cause `k` (R30). -/
def Tile.stallOn (tl : Tile) (h : Thr) (k : Nat) : Tile := { tl with causes := setBit tl.causes k true, slotOwner := h }

/-- A stall of cause `k` that lasts `n` cycles (R92). -/
def Tile.spellOn (tl : Tile) (h : Thr) (k : BitVec 3) (n : Nat) : Tile :=
  if n = 0 then tl else { tl.stallOn h k.toNat with spell := n, spellK := k }

/-- A stall cause clears; when none is left the tile settles (R31). -/
def Tile.stallOff (tl : Tile) (k : Nat) : Tile := { tl with causes := setBit tl.causes k false }.settle

/-- A hazard report of KIND 1 to 5 (R515, R526, R527): counted and recorded in debug mode. -/
def Tile.hazard (tl : Tile) (dbg : Bool) (kind : Nat) (h : Thr) (pc : PWord) (detail : BitVec 6)
    (word : BitVec 14) : Tile :=
  if !dbg then tl
  else
    let cnt := setBits tl.hzcnt (12 * (kind - 1)) 12 (satAdd (bits tl.hzcnt (12 * (kind - 1)) 12) 1)
    let r := if bit tl.hzrec 5 then setBit tl.hzrec 6 true
      else (0#18) ++ word ++ (0#2) ++ detail ++ (0#2) ++ pc ++ (0#1) ++ (0#1) ++ (1#1) ++ h ++ BitVec.ofNat 3 kind
    let t1 := { tl with hzcnt := cnt, hzrec := r }
    if kind ≠ 1 && bit tl.hzHaltk (kind - 2) then
      t1.modTh h (fun x => { x with haltReq := some (if kind = 3 then 5 else haltAfter) })
    else t1

/-! ## Exceptions of an instruction -/

/-- The machine check of a parity error in program memory, met by a fetch of thread `h` (R47). -/
def State.parity (s : State) (t : TileId) (h : Thr) : State :=
  s.machineCheck { src := 1, tile := some t, func := (s.tile t).func.getD 0, pa := 0, va := none, reader := some (t, h) }

/-- The thread's handler entry followed by `g`, or the machine check of a parity error in the table word (R357). -/
def State.enterThen (s : State) (t : TileId) (h : Thr) (toM : Bool) (cause : BitVec 5) (ret ipc : PWord)
    (detail : BitVec 4) (va : VAddr) (save : Bool) (g : Thread → Thread) : State :=
  if (s.tile t).vectorBad toM cause then s.parity t h
  else s.modTile t (fun tl => (tl.enter h toM cause ret ipc detail va save).modTh h g)

/-- An entry that ends its slot (R356, R521). -/
def State.enter (s : State) (t : TileId) (h : Thr) (toM : Bool) (cause : BitVec 5) (ret ipc : PWord)
    (detail : BitVec 4) (va : VAddr) (save : Bool) : State :=
  s.enterThen t h toM cause ret ipc detail va save (Thread.slotEnd s.debug (s.th t h).st.ss)

/-- A synchronous exception of the instruction in the slot (R95, R355): at S when raised at U, else at M. -/
def State.raise (s : State) (t : TileId) (h : Thr) (cause : BitVec 5) (detail : BitVec 4) (va : VAddr) : State :=
  let x := s.th t h
  (s.modTile t (fun tl => tl.issued h)).enter t h (x.st.pl ≠ 1) cause x.pc x.pc detail va true

/-- Cause codes (R355). -/
def cPriv : BitVec 5 := 3
def cOperand : BitVec 5 := 4
def cForm : BitVec 5 := 5
def cAlign : BitVec 5 := 6
def cFault : BitVec 5 := 7
def cAccess : BitVec 5 := 8

/-- An Illegal Return (R363): taken at M; an RTNM leaves MEPC and MESTAT. -/
def State.illegalReturn (s : State) (t : TileId) (h : Thr) (savedPl : BitVec 2) (rtnm : Bool) : State :=
  let pc := (s.th t h).pc
  (s.modTile t (fun tl => tl.issued h)).enter t h true 1 pc pc ((0#1) ++ b2v rtnm ++ savedPl) 0 (!rtnm)

/-! ## Asynchronous events (R359, R360) -/

/-- The event that thread `h` takes in its slot, if one can be taken (R359, R360). -/
def State.asyncDue (s : State) (t : TileId) (h : Thr) : Option (BitVec 5) :=
  let x := s.th t h
  if x.run ≠ .running && x.run ≠ .blocked then none
  else if x.mcp then some 0x00
  else if x.st.pl = 3 then none
  else if x.se ≠ [] then some 0x02
  else if x.swm then some 0x14
  else if !x.st.ie then none
  else if x.dlk then some 0x13
  else if x.sts then some 0x12
  else if timerDue (s.cyc t) x then some 0x10
  else if x.sws then some 0x11
  else none

/-- Taking an event clears its pending state (R360). -/
def Thread.clearEvent (x : Thread) (cause : BitVec 5) : Thread :=
  if cause = 0x00 then { x with mcp := false }
  else if cause = 0x02 then { x with se := x.se.tail }
  else if cause = 0x14 then { x with swm := false }
  else if cause = 0x13 then { x with dlk := false }
  else if cause = 0x12 then { x with sts := false }
  else if cause = 0x10 then { x with tmr := setBit x.tmr 63 false }
  else { x with sws := false }

/-- The thread takes the event: a blocked instruction is abandoned, the handler is entered (R38, R356, R360). The slot is
left for the handler's first instruction (R33), so a single step is owed at that instruction's end. An event whose table
word has a parity error is not taken and stays pending (R357). DEDUCED (log 97). -/
def State.takeEvent (s : State) (t : TileId) (h : Thr) (cause : BitVec 5) : State :=
  let x := s.th t h
  let toM := cause = 0x00 || cause = 0x02 || cause = 0x14
  let r : SeRec := if cause = 0x02 then x.se.headD ⟨x.pc, 0, 0⟩ else ⟨x.pc, 0, 0⟩
  s.enterThen t h toM cause x.pc r.pc r.detail r.va true
    (fun y => { y.clearEvent cause with owed := s.debug && (x.st.ss || x.owed) })

/-! ## Issue and completion -/

/-- The first of the fetched words with a parity error (R47, R91). -/
def Tile.badWord (tl : Tile) (pc : PWord) : Nat → Bool
  | 0 => false
  | n + 1 => SMap.get false tl.pbad pc.toNat || tl.badWord (pc + 1) n

/-- What the thread's slot brings (R25, R30, R33, R47, R360). -/
inductive Gate
  /-- the thread does not issue: off, not RUNNING, a stall, another thread's slot, or an event that wins the slot -/
  | hold
  /-- its own load is late: stall cause 0 begins -/
  | late
  /-- a fetched word has a parity error -/
  | parity
  | run
  deriving DecidableEq, Repr

/-- The present slot belongs to thread `h` and has issued nothing (R24, R25). -/
def State.slotNow (s : State) (t : TileId) (h : Thr) : Bool := s.rot t % 4 = h.toNat && !(s.tile t).slotUsed

/-- The gate of an instruction of `len` words in the present slot. -/
def State.gate (s : State) (t : TileId) (h : Thr) (len : Nat) : Gate :=
  let tl := s.tile t
  let x := tl.th h
  if !(s.tileOn t) || !tl.zeroed || tl.causes ≠ 0 || x.run ≠ .running || !(s.slotNow t h) then .hold
  else if x.wait.isSome then .late
  else if (s.asyncDue t h).isSome then .hold
  else if tl.badWord x.pc len then .parity
  else .run


/-- The next PC and the end check of a block repeat (R119). -/
def Thread.advance (x : Thread) (len : Nat) : Thread :=
  let nxt := x.pc + BitVec.ofNat 14 len
  if x.st.rep && nxt = x.rend then
    if x.rcnt.toNat > 1 then { x with rcnt := x.rcnt - 1, pc := x.rstart }
    else { x with rcnt := 0, st := { x.st with rep := false }, pc := x.rend }
  else { x with pc := nxt }

/-- A taken branch: the repeat ends unless the target lies in its body (R120). -/
def Thread.jump (x : Thread) (target : PWord) : Thread :=
  let inBody := (target - x.rstart).toNat < (x.rend - x.rstart).toNat
  { x with pc := target, st := { x.st with rep := x.st.rep && inBody } }

/-- End of an instruction's slot: its thread's new state by `f`, the counters, and debug halts (R521, R522). -/
def State.finish (s : State) (t : TileId) (h : Thr) (f : Thread → Thread) : State :=
  let ss := (s.th t h).st.ss
  s.modTile t (fun tl => (tl.issued h).modTh h (fun x => (f x).slotEnd s.debug ss))

/-- Completion of an instruction of `len` words. -/
def State.complete (s : State) (t : TileId) (h : Thr) (len : Nat) : State := s.finish t h (fun x => x.advance len)

/-- The thread blocks in an instruction that it performs afresh later (R36); the slot is spent (R25). A thread that blocks
owes its single step until its instruction completes (R521). -/
def State.block (s : State) (t : TileId) (h : Thr) (b : BlockOp) : State :=
  s.modTile t (fun tl => tl.spend.modTh h (fun x => { x with run := .blocked, blk := some b }))

/-- Stall cause 6 while a named vector register waits for its result, else `k` (R30, R107). -/
def withV (t : TileId) (h : Thr) (rs : List Reg) (k : State → State) (s : State) : State :=
  match rs.filter (fun r => (s.th t h).vBusy r) with
  | r :: _ => s.modTile t (fun tl => { tl.stallOn h 6 with c6 := (h, r) })
  | [] => k s

/-- Stall cause 4 while a matrix operation that writes Tk has not committed, else `f` (R129); the hazard detector
reports it except for MWAIT (R514). -/
def withT (t : TileId) (h : Thr) (k : Reg) (report : Bool) (f : State → State) (s : State) : State :=
  if (s.tile t).tpnd k then
    s.modTile t (fun tl =>
      ({ tl.stallOn h 4 with c4 := k }).hazard (s.debug && report) 2 h (tl.th h).pc (k.setWidth 6) 0)
  else f s

/-! ## Reserved encodings (R92, R94) -/

/-- Free values of a register file. -/
def freeFile (n base w : Nat) : SMap (BitVec w) :=
  (List.range 8).foldl (fun m i => SMap.set 0 m i (Config.free n (base + i) w)) []

/-- Causes a reserved encoding may raise: those of R355 (R92). -/
def reservedCauses : List (BitVec 5) := [0, 1, 2, 3, 4, 5, 6, 7, 8, 9, 10, 0x10, 0x11, 0x12, 0x13, 0x14]
/-- The executing level can take a cause (R355, R359, R362): at M no event but the machine check, at U no Illegal Return. -/
def canTake (pl : BitVec 2) (c : BitVec 5) : Bool :=
  if pl = 3 then !(c = 2 || 0x10 ≤ c.toNat) else !(pl = 1 && c = 1)
/-- DETAIL as R374 gives it for a cause, from a free value. -/
def detailFor (c : BitVec 5) (x : BitVec 4) : BitVec 4 :=
  if c = cFault then (0#2 ++ bits x 0 2) + 1
  else if c = 2 then (if bit x 0 then 1 else 2)
  else if c = 1 then x &&& 7
  else 0
/-- VA of a record: 0 for a cause that names no address (R374). -/
def vaFor (c : BitVec 5) (va : VAddr) : VAddr := if c = 2 || (5 ≤ c.toNat && c.toNat ≤ 8) then va else 0

/-- A reserved encoding reaches issue: a hazard report and a halt in debug mode; otherwise any change within the
bounds of R92, every changed value a free value: registers, flags and PC, an exception or none, a stall of some cycles or
none. -/
def State.reserved (s : State) (t : TileId) (h : Thr) (w : PWord) : State :=
  if s.debug then
    s.modTile t (fun tl => (tl.hazard true 1 h (tl.th h).pc 0 w).modTh h (fun x => x.halt 5))
  else
    let n := s.free
    let fr (i w : Nat) : BitVec w := Config.free n i w
    let s1 := { s with free := n + 1 }.modTile t (fun tl =>
      ({ tl.issued h with shared := fr 0 7424 }).modTh h (fun x =>
        { x with d := freeFile n 10 32, a := freeFile n 20 64, v := freeFile n 30 512, vpend := [],
                 priv := fr 1 512, pc := fr 2 14,
                 st := { x.st with z := bit (fr 3 4) 0, n := bit (fr 3 4) 1, c := bit (fr 3 4) 2, v := bit (fr 3 4) 3 } }))
    let c := nth reservedCauses (fr 5 4).toNat 0
    let pl := (s.th t h).st.pl
    let s2 :=
      if bit (fr 4 2) 0 && canTake pl c then
        s1.enter t h (c = 0 || c = 1 || c = 2 || c = 0x14 || (c.toNat < 0x10 && pl ≠ 1)) c (fr 6 14) (fr 7 14)
          (detailFor c (fr 8 4)) (vaFor c (fr 9 48)) true
      else s1
    if bit (fr 4 2) 1 then s2.modTile t (fun tl => tl.spellOn h (fr 40 3) (fr 41 32).toNat) else s2

/-- An instruction whose words may be a reserved encoding. -/
def checked (t : TileId) (h : Thr) (ok : Bool) (w : PWord) (k : State → State) (s : State) : State :=
  if ok then k s else s.reserved t h w

/-! ## Time (R24, R29–R31, R59, R60, R370, R427) -/

/-- A tile is quiet (R370). -/
def Tile.quiet (tl : Tile) (cyc : Nat) : Bool :=
  ([0, 1, 2, 3] : List Thr).all (fun h =>
    let x := tl.th h
    let blkOk := match x.blk with
      | some (.ceput _) => false
      | _ => true
    (x.run = .stopped || (x.run = .blocked && blkOk))
    && (x.run = .stopped || !(bit x.tmr 63 || timerDue cyc x || x.sws || x.swm || x.sts || x.dlk || x.mcp || x.se ≠ [])))
  && tl.send.sent = [] && tl.sbuf = [] && tl.inbuf = [] && tl.mx = []
  && (tl.eng.st ≠ .running) && tl.eng.inflight = [] && tl.eng.out = []

/-- `n` core cycles pass on a tile with no other event, of which a stall that has a known end holds at most all. A cycle
that is not stalled begins a new slot (R24, R25). -/
def Tile.pass (tl : Tile) (cyc n : Nat) : Tile :=
  let timed : Bool := bit tl.causes 7 && tl.c7 ≠ 0 || tl.spell ≠ 0 && bit tl.causes tl.spellK.toNat
  let open_ : Bool := ([0, 1, 2, 3, 4, 5, 6, 7] : List Nat).any (fun k =>
    bit tl.causes k && !(k = 7 && tl.c7 ≠ 0) && !(tl.spell ≠ 0 && tl.spellK.toNat = k))
  let m := if open_ then n else if timed then min n (max (if bit tl.causes 7 then tl.c7 else 0) tl.spell) else 0
  let low := (([0, 1, 2, 3, 4, 5, 6, 7] : List Nat).filter (fun k => bit tl.causes k)).headD 0
  let t1 := if m = 0 then tl
    else { tl with stall := tl.stall + BitVec.ofNat 64 m,
                   stallc := SMap.modify 0 tl.stallc low (fun x => satAdd x m) }
  let t2 := if bit t1.causes 7 && t1.c7 ≠ 0 then
      (if t1.c7 ≤ n then { t1 with c7 := 0 }.stallOff 7 else { t1 with c7 := t1.c7 - n }) else t1
  let t3 := if t2.spell = 0 then t2
    else if t2.spell ≤ n then { t2 with spell := 0 }.stallOff t2.spellK.toNat else { t2 with spell := t2.spell - n }
  let t4 := if t3.quiet (cyc + n) then { t3 with quietCnt := satAdd t3.quietCnt n }
    else if t3.quietCnt = 0 then t3 else { t3 with quietCnt := 0, quietAct := t3.quietAct + 1 }
  ({ t4 with slotUsed := t4.slotUsed && n = m }.pm 6 (n - m)).pm 0x11 (if tl.mx.any (fun o => o.result.isSome) then n else 0)

/-- `n` core cycles pass on a tile: first those of a reserved encoding's stall, then the others (R31). -/
def Tile.elapse (tl : Tile) (cyc n : Nat) : Tile :=
  if tl.spell = 0 || n ≤ tl.spell then tl.pass cyc n
  else (tl.pass cyc tl.spell).pass (cyc + tl.spell) (n - tl.spell)

/-- The step of a Cob's clock (R498). -/
def State.clkStep (s : State) (c : CobNo) : Nat :=
  max (s.cob c).droop.toNat (max (SMap.get 0 s.plan.ceil c.toNat).toNat (s.cob c).therm.toNat)

/-- Core cycles of a Cob in `n` Husk cycles, and the ninths left over (R495). -/
def State.coreCycles (s : State) (c : CobNo) (n : Nat) : Nat :=
  ((s.cob c).phase + n * (9 - s.clkStep c)) / 9

/-- The tile whose CT_, QT_ or CE_ block holds a physical address (R55, R242, R327). -/
def csrTile (pa : Nat) : Option TileId :=
  let o := pa - 0x3F0000000000
  if pa < 0x3F0000000000 then none
  else if o < 0x40000000 then some (BitVec.ofNat 12 (o / 0x40000))
  else if 0x100000000 ≤ o && o < 0x110000000 then some (BitVec.ofNat 12 ((o - 0x100000000) / 0x10000))
  else if 0x200000000 ≤ o && o < 0x210000000 then some (BitVec.ofNat 12 ((o - 0x200000000) / 0x10000))
  else none

/-- A half is idle: every tile of it belongs to no function or to an IDLE one, is quiet, and no CSR access to it is in
progress (R485). -/
def State.halfIdle (s : State) (c : CobNo) (south : Bool) : Bool :=
  let inHalf (t : TileId) : Bool := tileCob t = c && tileSouth t = south
  s.tiles.all (fun p =>
    let t : TileId := BitVec.ofNat 12 p.1
    !(inHalf t) || ((match p.2.func with
      | some f => (s.func f).st = .idle
      | none => true) && p.2.quiet (s.cyc t)))
  && !((s.reqs.filterMap (fun r => match r.dst, r.ans with
      | .csr pa, none => csrTile pa
      | _, _ => none)
    ++ s.side.held.filterMap (fun a => csrTile a.pa)).any inHalf)
/-- A CSR access is made at an address: the half of its tile is not idle in that cycle (R485). -/
def State.touchHalf (s : State) (pa : Nat) : State :=
  match csrTile pa with
  | some t => s.modCob (tileCob t) (fun x => if tileSouth t then { x with idleS := 0 } else { x with idleN := 0 })
  | none => s

/-- The mode that PLAN gives a half (R484). -/
def State.halfMode (s : State) (c : CobNo) (south : Bool) : Byte :=
  SMap.get 0 (if south then s.plan.smode else s.plan.nmode) c.toNat

/-- The idle count of a half after `n` core cycles (R485). -/
def State.idleAfter (s : State) (c : CobNo) (south : Bool) (old n : Nat) : Nat :=
  if s.halfMode c south = 2 && (s.cob c).half south = .on && s.halfIdle c south then old + n else 0

/-- `n` Husk cycles pass with no other event. -/
def State.elapse (s : State) (n : Nat) : State :=
  if !s.lands.coldrst || s.lands.railHold then s
  else
    let ts : SMap Tile := (s.tiles.map (fun p =>
      let t : TileId := BitVec.ofNat 12 p.1
      if s.tileOn t then (p.1, p.2.elapse (s.cyc t) (s.coreCycles (tileCob t) n)) else p))
    let cs : SMap Cob := ((List.range 16).foldl (fun (m : SMap Cob) (i : Nat) =>
      let c : CobNo := BitVec.ofNat 4 i
      SMap.modify {} m i (fun (x : Cob) => { x with
        cyc := x.cyc + s.coreCycles c n
        idleN := s.idleAfter c false x.idleN (s.coreCycles c n)
        idleS := s.idleAfter c true x.idleS (s.coreCycles c n)
        phase := (x.phase + n * (9 - s.clkStep c)) % 9 })) s.cobs)
    { s with tiles := ts, cobs := cs, pt := { s.pt with time := s.pt.time + BitVec.ofNat 64 n } }

/-! ## Issue (R24–R26, R33, R47) -/

/-- Husk cycles until the tile's CT_CYC reaches a value (R59, R495). -/
def State.cyclesTo (s : State) (t : TileId) (v : Nat) : Nat :=
  let c := tileCob t
  ceilDiv (9 * (v - s.cyc t) - (s.cob c).phase) (9 - s.clkStep c)

/-- The part at the next slot of thread `h` that has issued nothing: the least time passes that brings the rotation there
(R24, R25, R28). A tile that is off, or stalled, keeps the time it has. -/
def State.toSlot (s : State) (t : TileId) (h : Thr) : State :=
  if !(s.tileOn t) || (s.tile t).causes ≠ 0 || s.slotNow t h then s
  else
    let k := (h.toNat + 4 - s.rot t % 4) % 4
    s.elapse (s.cyclesTo t (s.cyc t + (if k = 0 then 4 else k)))

/-- Issue of an instruction of `len` words in its thread's next slot (R25, R26, R33, R47). -/
def issue (t : TileId) (h : Thr) (len : Nat) (body : State → State) (s : State) : State :=
  let u := s.toSlot t h
  match u.gate t h len with
  | .hold => s
  | .late => u.modTile t (fun tl => tl.stallOn h 0)
  | .parity => u.parity t h
  | .run => body u

end Sys2Proof.Machine
end

