-- ==== Sys2Proof/Machine/Integer.lean ====
section
/-! DEFINITION. The integer instructions (R74, R97, R98). -/
namespace Sys2Proof.Machine

/-- Dd and the flags from a flag operation on two values. -/
def Thread.alu (x : Thread) (d : Reg) (r : Word × Status) : Thread := { x.setD d r.1 with st := r.2 }

/-- An integer instruction of `len` words: its effect on the thread, then completion. -/
def scalarOp (t : TileId) (h : Thr) (len : Nat) (f : Thread → Thread) (s : State) : State :=
  issue t h len (fun s => s.finish t h (fun x => (f x).advance len)) s

/-- ADD (R97). -/
def execAdd (t : TileId) (h : Thr) (d x : Reg) (s : State) : Host.Outcome State Fault Refusal :=
  .next (scalarOp t h 1 (fun k => k.alu d (addFlags k.st (k.getD d) (k.getD x))) s)
/-- SUB (R97). -/
def execSub (t : TileId) (h : Thr) (d x : Reg) (s : State) : Host.Outcome State Fault Refusal :=
  .next (scalarOp t h 1 (fun k => k.alu d (subFlags k.st (k.getD d) (k.getD x))) s)
/-- AND (R97). -/
def execAnd (t : TileId) (h : Thr) (d x : Reg) (s : State) : Host.Outcome State Fault Refusal :=
  .next (scalarOp t h 1 (fun k => k.alu d (logicFlags k.st (k.getD d &&& k.getD x))) s)
/-- OR (R97). -/
def execOr (t : TileId) (h : Thr) (d x : Reg) (s : State) : Host.Outcome State Fault Refusal :=
  .next (scalarOp t h 1 (fun k => k.alu d (logicFlags k.st (k.getD d ||| k.getD x))) s)
/-- XOR (R97). -/
def execXor (t : TileId) (h : Thr) (d x : Reg) (s : State) : Host.Outcome State Fault Refusal :=
  .next (scalarOp t h 1 (fun k => k.alu d (logicFlags k.st (k.getD d ^^^ k.getD x))) s)
/-- SHL (R98). -/
def execShl (t : TileId) (h : Thr) (d x : Reg) (s : State) : Host.Outcome State Fault Refusal :=
  .next (scalarOp t h 1 (fun k => k.alu d (shlFlags k.st (k.getD d) (k.getD x))) s)
/-- SHR (R98). -/
def execShr (t : TileId) (h : Thr) (d x : Reg) (s : State) : Host.Outcome State Fault Refusal :=
  .next (scalarOp t h 1 (fun k => k.alu d (shrFlags k.st (k.getD d) (k.getD x))) s)
/-- SAR (R98). -/
def execSar (t : TileId) (h : Thr) (d x : Reg) (s : State) : Host.Outcome State Fault Refusal :=
  .next (scalarOp t h 1 (fun k => k.alu d (sarFlags k.st (k.getD d) (k.getD x))) s)
/-- MUL (R97). -/
def execMul (t : TileId) (h : Thr) (d x : Reg) (s : State) : Host.Outcome State Fault Refusal :=
  .next (scalarOp t h 1 (fun k => k.alu d (mulFlags k.st (k.getD d) (k.getD x))) s)
/-- CMP: the flags of SUB; Dd is not written (R97). -/
def execCmp (t : TileId) (h : Thr) (d x : Reg) (s : State) : Host.Outcome State Fault Refusal :=
  .next (scalarOp t h 1 (fun k => { k with st := (subFlags k.st (k.getD d) (k.getD x)).2 }) s)
/-- MOV (R97). -/
def execMov (t : TileId) (h : Thr) (d x : Reg) (s : State) : Host.Outcome State Fault Refusal :=
  .next (scalarOp t h 1 (fun k => k.setD d (k.getD x)) s)
/-- ADDI with its sign-extended immediate (R74, R97). -/
def execAddi (t : TileId) (h : Thr) (d x : Reg) (imm : BitVec 14) (s : State) : Host.Outcome State Fault Refusal :=
  .next (scalarOp t h 2 (fun k => k.alu d (addFlags k.st (k.getD x) (imm.signExtend 32))) s)
/-- ANDI with its sign-extended immediate (R74, R97). -/
def execAndi (t : TileId) (h : Thr) (d x : Reg) (imm : BitVec 14) (s : State) : Host.Outcome State Fault Refusal :=
  .next (scalarOp t h 2 (fun k => k.alu d (logicFlags k.st (k.getD x &&& imm.signExtend 32))) s)
/-- CMPI with its sign-extended immediate (R74, R97). -/
def execCmpi (t : TileId) (h : Thr) (x : Reg) (imm : BitVec 14) (s : State) : Host.Outcome State Fault Refusal :=
  .next (scalarOp t h 2 (fun k => { k with st := (subFlags k.st (k.getD x) (imm.signExtend 32)).2 }) s)
/-- LDI (R74, R97). -/
def execLdi (t : TileId) (h : Thr) (d : Reg) (imm : BitVec 32) (s : State) : Host.Outcome State Fault Refusal :=
  .next (scalarOp t h 3 (fun k => k.setD d imm) s)

end Sys2Proof.Machine
end

