-- ==== Sys2Proof/Machine/Address.lean ====
section
/-! DEFINITION. The address instructions (R43, R75). They leave the flags as they are. -/
namespace Sys2Proof.Machine

/-- MOVA: As into Ad, all 64 bits. -/
def execMova (t : TileId) (h : Thr) (ad x : Reg) (s : State) : Host.Outcome State Fault Refusal :=
  .next (scalarOp t h 1 (fun k => k.setA ad (k.getA x)) s)
/-- ADDA: Ds, sign-extended to 64 bits, added to Ad. -/
def execAdda (t : TileId) (h : Thr) (ad x : Reg) (s : State) : Host.Outcome State Fault Refusal :=
  .next (scalarOp t h 1 (fun k => k.setA ad (k.getA ad + (k.getD x).signExtend 64)) s)
/-- LAI: the immediate into bits [27:0]; bits [63:28] are cleared (R75). -/
def execLai (t : TileId) (h : Thr) (ad : Reg) (imm : BitVec 28) (s : State) : Host.Outcome State Fault Refusal :=
  .next (scalarOp t h 3 (fun k => k.setA ad (imm.setWidth 64)) s)
/-- LAH: the immediate into bits [47:28]; bits [63:48] are cleared and bits [27:0] kept (R75). -/
def execLah (t : TileId) (h : Thr) (ad : Reg) (imm : BitVec 20) (s : State) : Host.Outcome State Fault Refusal :=
  .next (scalarOp t h 3 (fun k => k.setA ad ((0#16) ++ imm ++ bits (k.getA ad) 0 28)) s)

end Sys2Proof.Machine
end

