-- ==== Sys2Proof/Machine/Control.lean ====
section
/-! DEFINITION. Control, special registers, branches and block repeats (R84–R86, R104, R117–R120, R362, R363). -/
namespace Sys2Proof.Machine

/-- NOP (R104). -/
def execNop (t : TileId) (h : Thr) (s : State) : Host.Outcome State Fault Refusal :=
  .next (scalarOp t h 1 id s)

/-- STOP: no end check; the PC holds the address of the next word (R104). -/
def execStop (t : TileId) (h : Thr) (s : State) : Host.Outcome State Fault Refusal :=
  .next (issue t h 1 (fun s => s.finish t h (fun x => { x.stop with pc := x.pc + 1 })) s)

/-- LIFT: a System Call whose return address is the next word (R104, R355). -/
def execLift (t : TileId) (h : Thr) (s : State) : Host.Outcome State Fault Refusal :=
  .next (issue t h 1 (fun s =>
    let x := s.th t h
    (s.modTile t (fun tl => tl.issued h)).enter t h (x.st.pl ≠ 1) 9 (x.pc + 1) x.pc 0 0 true) s)

/-- BRKPT: a halt in debug mode, else a Breakpoint exception (R104, R521). -/
def execBrkpt (t : TileId) (h : Thr) (s : State) : Host.Outcome State Fault Refusal :=
  .next (issue t h 1 (fun s =>
    if s.debug then s.modTile t (fun tl => (tl.issued h).modTh h (fun x => x.halt 4))
    else s.raise t h 10 0 0) s)

/-- A return through a saved PC and status (R362). -/
def Thread.ret (x : Thread) (epc : PWord) (estat : Word) : Thread := { x with pc := epc, st := statusOf estat }

/-- RTNS (R362, R363). -/
def execRtns (t : TileId) (h : Thr) (s : State) : Host.Outcome State Fault Refusal :=
  .next (issue t h 1 (fun s =>
    let x := s.th t h
    let pl : BitVec 2 := bits x.sestat 0 2
    if x.st.pl = 1 then s.raise t h cPriv 0 0
    else if pl = 0 || (pl = 3 && x.st.pl ≠ 3) then s.illegalReturn t h pl false
    else s.finish t h (fun x => x.ret x.sepc x.sestat)) s)

/-- RTNM (R362, R363); the handling thread of a FAILED function stops instead (R368). -/
def execRtnm (t : TileId) (h : Thr) (s : State) : Host.Outcome State Fault Refusal :=
  .next (issue t h 1 (fun s =>
    let x := s.th t h
    let pl : BitVec 2 := bits x.mestat 0 2
    let stuck : Bool := match (s.tile t).func with
      | some f => decide ((s.func f).st = .failed ∧ (s.func f).handler = some (t, h))
      | none => false
    if x.st.pl ≠ 3 then s.raise t h cPriv 0 0
    else if stuck then s.finish t h Thread.stop
    else if pl = 0 then s.illegalReturn t h pl true
    else s.finish t h (fun x => x.ret x.mepc x.mestat)) s)

/-- The lowest level that reaches a special register (R85). -/
def specialLevel (ix : BitVec 8) : BitVec 2 :=
  if 2 ≤ ix.toNat && ix.toNat ≤ 4 then 2 else if 5 ≤ ix.toNat && ix.toNat ≤ 7 then 3 else 1

/-- A special register as MFS reads it (R85–R87, R117). -/
def Tile.special (tl : Tile) (t : TileId) (h : Thr) (ix : BitVec 8) : Word :=
  let x := tl.th h
  match ix.toNat with
  | 0 => statusWord h x.st
  | 1 => (0#12) ++ t ++ (1#8)
  | 2 => x.sepc.setWidth 32
  | 3 => x.sestat
  | 4 => tl.svbase.setWidth 32
  | 5 => x.mepc.setWidth 32
  | 6 => x.mestat
  | 7 => tl.mvbase.setWidth 32
  | 16 => x.rcnt
  | 17 => x.rstart.setWidth 32
  | 18 => x.rend.setWidth 32
  | _ => 0

/-- What MTS writes (R45, R85, R86, R117). -/
def Thread.setSpecial (x : Thread) (ix : BitVec 8) (w : Word) : Thread :=
  match ix.toNat with
  | 0 => { x with st := writeStatus x.st w }
  | 2 => { x with sepc := bits w 0 14 }
  | 3 => { x with sestat := w }
  | 5 => { x with mepc := bits w 0 14 }
  | 6 => { x with mestat := w }
  | 16 => { x with rcnt := w }
  | 17 => { x with rstart := bits w 0 14 }
  | 18 => { x with rend := bits w 0 14 }
  | _ => x

/-- MFS (R85, R86). -/
def execMfs (t : TileId) (h : Thr) (d : Reg) (ix : BitVec 8) (s : State) : Host.Outcome State Fault Refusal :=
  .next (issue t h 2 (checked t h (specialIndex ix) (word1 0 7 d 0) (fun s =>
    if (s.th t h).st.pl < specialLevel ix then s.raise t h cPriv 0 0
    else
      let w := (s.tile t).special t h ix
      s.finish t h (fun x => (x.setD d w).advance 2))) s)

/-- MTS (R85, R86); a write of block-repeat state during a repeat is a hazard of KIND 5 (R514). -/
def execMts (t : TileId) (h : Thr) (x : Reg) (ix : BitVec 8) (s : State) : Host.Outcome State Fault Refusal :=
  .next (issue t h 2 (checked t h (specialIndex ix) (word1 0 8 0 x) (fun s =>
    if (s.th t h).st.pl < specialLevel ix then s.raise t h cPriv 0 0
    else
      let k := s.th t h
      let s1 := if 16 ≤ ix.toNat && k.st.rep then
          s.modTile t (fun tl => tl.hazard s.debug 5 h k.pc (bits ix 0 2 |>.setWidth 6) 0) else s
      s1.finish t h (fun y => (y.setSpecial ix (y.getD x)).advance 2))) s)

/-- BR: the target is relative to the branch (R69, R70, R104). -/
def execBr (t : TileId) (h : Thr) (cond : BrCond) (po : BitVec 14) (s : State) : Host.Outcome State Fault Refusal :=
  .next (issue t h 2 (fun s =>
    s.finish t h (fun x => if brHolds cond x.st then x.jump (x.pc + po) else x.advance 2)) s)

/-- CALL: Dd receives the address of the next instruction (R104). -/
def execCall (t : TileId) (h : Thr) (d : Reg) (po : BitVec 14) (s : State) : Host.Outcome State Fault Refusal :=
  .next (issue t h 2 (fun s =>
    s.finish t h (fun x => (x.setD d ((x.pc + 2).setWidth 32)).jump (x.pc + po))) s)

/-- JR: PC := Ds[13:0] (R104). -/
def execJr (t : TileId) (h : Thr) (x : Reg) (s : State) : Host.Outcome State Fault Refusal :=
  .next (issue t h 1 (fun s => s.finish t h (fun k => k.jump (bits (k.getD x) 0 14))) s)

/-- REP's own effect (R118). -/
def Thread.startRep (x : Thread) (dc : Reg) (po : BitVec 14) : Thread :=
  if x.getD dc = 0 || po = 2 then { x with rcnt := 0, pc := x.pc + po }
  else { x with rcnt := x.getD dc, rstart := x.pc + 2, rend := x.pc + po, st := { x.st with rep := true },
                pc := x.pc + 2 }

/-- REP (R118). -/
def execRep (t : TileId) (h : Thr) (dc : Reg) (po : BitVec 14) (s : State) : Host.Outcome State Fault Refusal :=
  .next (issue t h 2 (fun s =>
    if (s.th t h).st.rep || po = 0 || po = 1 then s.raise t h cOperand 0 0
    else s.finish t h (fun x => x.startRep dc po)) s)

/-- The thread completes a skip instruction of two words with effect `f`, and skips one instruction when `take`
(R84). -/
def State.skipOp (s : State) (t : TileId) (h : Thr) (f : Thread → Thread) (take : Bool) : State :=
  if !take then s.finish t h (fun x => (f x).advance 2)
  else
    let tl := s.tile t
    let p := ((f (tl.th h)).advance 2).pc
    let n := cellLen (SMap.get 0 tl.pmem p.toNat)
    if tl.badWord p n then s.parity t h
    else s.finish t h (fun x => ((f x).advance 2).advance n)

end Sys2Proof.Machine
end

