-- ==== Sys2Proof/Machine/CsrMap.lean ====
section
/-! DEFINITION. The blocks of CSR space and who may reach them (R9, R55, R242, R277, R327, R328, R373, R379, R402,
R426, R453, R454, R481, R482, R502, R503). -/
namespace Sys2Proof.Machine

/-- A block of CSR space with the offset of an address in it. -/
inductive Blk
  | ct (t : TileId) (o : Nat)
  | qt (t : TileId) (o : Nat)
  | ce (t : TileId) (o : Nat)
  | winv (c : CobNo) (o : Nat)
  | win (o : Nat)
  | hce (e : BitVec 2) (o : Nat)
  | fn (f : FuncNo) (o : Nat)
  | part (o : Nat)
  | cns (f : FuncNo) (o : Nat)
  | pt (o : Nat)
  | ld (o : Nat)
  | cd (c : CobNo) (o : Nat)
  | pw (o : Nat)
  deriving DecidableEq, Repr

/-- The block that holds a physical address; none for an address in no block (R277). -/
def csrBlk (pa : Nat) : Option Blk :=
  let o := pa - 0x3F0000000000
  if pa < 0x3F0000000000 then none
  else if o < 0x40000000 then some (.ct (BitVec.ofNat 12 (o / 0x40000)) (o % 0x40000))
  else if 0x100000000 ≤ o && o < 0x110000000 then
    some (.qt (BitVec.ofNat 12 ((o - 0x100000000) / 0x10000)) (o % 0x10000))
  else if 0x200000000 ≤ o && o < 0x210000000 then
    some (.ce (BitVec.ofNat 12 ((o - 0x200000000) / 0x10000)) (o % 0x10000))
  else if 0x300000000 ≤ o && o < 0x300100000 then
    some (.winv (BitVec.ofNat 4 ((o - 0x300000000) / 0x10000)) (o % 0x10000))
  else if 0x400000000 ≤ o && o < 0x400020000 then some (.win (o - 0x400000000))
  else if 0x400100000 ≤ o && o < 0x400140000 then
    some (.hce (BitVec.ofNat 2 ((o - 0x400100000) / 0x10000)) (o % 0x10000))
  else if 0x500000000 ≤ o && o < 0x500010000 then some (.ld (o - 0x500000000))
  else if 0x600000000 ≤ o && o < 0x600020000 then
    some (.fn (BitVec.ofNat 5 ((o - 0x600000000) / 0x1000)) (o % 0x1000))
  else if 0x600020000 ≤ o && o < 0x600021000 then some (.part (o - 0x600020000))
  else if 0x700000000 ≤ o && o < 0x700000100 then
    some (.cns (BitVec.ofNat 5 ((o - 0x700000000) / 8)) (o % 8))
  else if 0x800000000 ≤ o && o < 0x800040000 then some (.pt (o - 0x800000000))
  else if 0x900000000 ≤ o && o < 0x900100000 then
    some (.cd (BitVec.ofNat 4 ((o - 0x900000000) / 0x10000)) (o % 0x10000))
  else if 0xA00000000 ≤ o && o < 0xA00010000 then some (.pw (o - 0xA00000000))
  else none

/-- What a check answers: permitted, a Privilege Violation, or an Access Violation. -/
inductive Perm | ok | priv | av
  deriving DecidableEq, Repr

/-- Function `f` holds a tile of Cob `c`. -/
def State.holdsOn (s : State) (f : FuncNo) (c : CobNo) : Bool := (s.tilesOf f).any (fun t => tileCob t = c)

/-- What a thread at S of function `f` may do; `w` is the value of a write (R55, R328, R379, R402, R454, R482,
R503). -/
def State.superMay (s : State) (f : Option FuncNo) (b : Blk) (w : Option DWord) : Bool :=
  match f with
  | none => false
  | some f =>
    match b with
    | .ct t _ => (s.tile t).func = some f
    | .qt t _ => (s.tile t).func = some f
    | .ce t _ => (s.tile t).func = some f
    | .winv c o =>
      if o < 0x100 then
        match w with
        | some v => bits v 36 5 = f
        | none => false
      else if o = 0x100 && w.isSome then bits (w.getD 0) 0 5 = f
      else bits (s.cob c).ckcmd 0 5 = f
    | .win o => if o < 0x10000 then o / 0x800 = f.toNat else o < 0x12000 && (o - 0x10000) / 0x100 = f.toNat
    | .hce _ _ => false
    | .fn g o => g = f && (w.isNone || o = 0x028)
    | .part _ => false
    | .cns g _ => g = f
    | .pt o => s.pt.cfg.getLsbD 5 && bits s.pt.cfg 0 5 = f && (w.isNone || o ≠ 0)
    | .ld o => (s.func f).mgmt || (w.isNone && (o < 8 || (0x80 ≤ o && o < 0xC0) || (0x2000 ≤ o && o < 0x2520)))
    | .cd c _ => w.isNone && s.holdsOn f c
    | .pw _ => w.isNone

/-- The source and level check of a thread's access, made before width and alignment (R9). -/
def State.csrPerm (s : State) (pl : BitVec 2) (f : Option FuncNo) (b : Blk) (w : Option DWord) : Perm :=
  if pl = 3 then .ok else if pl = 1 then .priv else if s.superMay f b w then .ok else .av

/-- The check of a thread's load of `n` bytes at a CSR address: every element's block must permit it, and the first refusal
is the answer (R9, R55, R123). Permission changes only between aligned doublewords. -/
def State.csrMayLoad (s : State) (pl : BitVec 2) (f : Option FuncNo) (pa n : Nat) : Perm :=
  (((List.range ((pa + n - 1) / 8 - pa / 8 + 1)).map (fun i =>
    match csrBlk (if i = 0 then pa else (pa / 8 + i) * 8) with
    | none => .av
    | some b => s.csrPerm pl f b none)).filter (fun p => p ≠ .ok)).headD .ok

end Sys2Proof.Machine
end

