-- ==== Sys2Proof/Machine/Access.lean ====
section
/-! DEFINITION. How a thread's access reaches memory: local-memory errors, placement, translation, the cache partition,
the store buffer, late loads and prefetch (R100–R103, R175–R198, R276, R277, R316–R318). -/
namespace Sys2Proof.Machine

/-! ## Errors of local memory (R176, R177, R203, R204) -/

/-- Words of a range that hold an error, with whether it is a double-bit one. -/
def Tile.errWords (tl : Tile) (off n : Nat) : List (Nat × Bool) :=
  tl.lerr.filterMap (fun p =>
    match p.2 with
    | some d => if off / 8 ≤ p.1 && p.1 * 8 < off + n then some (p.1, d) else none
    | none => none)

/-- CT_LMERR after an error at a word; a record of an uncorrectable error is kept (R203). -/
def Tile.errRecord (tl : Tile) (src word : Nat) (ue : Bool) : Tile :=
  if bit tl.lmerr 0 && bit tl.lmerr 20 then tl
  else { tl with lmerr := BitVec.ofNat 32 (1 + 2 * src + 8 * word + (if ue then 2 ^ 20 else 0)) }

/-- A corrected error at a word: written back, counted, shown by LMCE and recorded (R177). -/
def Tile.corrected (tl : Tile) (src word : Nat) : Tile :=
  { tl with lerr := SMap.erase tl.lerr word, lmcec := satAdd tl.lmcec 1, lmce := true }.errRecord src word false

/-- Every single-bit error of a list of words is corrected. -/
def Tile.fixWords (tl : Tile) (src : Nat) (ws : List (Nat × Bool)) : Tile :=
  ws.foldl (fun a p => if p.2 then a else a.corrected src p.1) tl

/-- The first word of a list with a double-bit error. -/
def firstBad (ws : List (Nat × Bool)) : Option Nat := ((ws.filter (fun p => p.2)).map (fun p => p.1)).head?

/-- Bytes of the word `w` that a masked write at `off` covers. -/
def coverOf (off : Nat) (bs : List (Option Byte)) (w : Nat) : Nat :=
  ((List.range 8).filter (fun i => decide (off ≤ 8 * w + i) && (nth bs (8 * w + i - off) none).isSome)).length

/-- Bytes written under a mask. -/
def Memory.setMasked (m : Memory) (a : Nat) : List (Option Byte) → Memory
  | [] => m
  | some b :: r => (m.setByte a b).setMasked (a + 1) r
  | none :: r => m.setMasked (a + 1) r

/-- A write into local memory: partly covered words are read and corrected, wholly covered ones repaired (R176,
R177). -/
def Tile.lmWrite (tl : Tile) (src off : Nat) (bs : List (Option Byte)) : Tile :=
  let ws := tl.errWords off bs.length
  let part := ws.filter (fun p => let c := coverOf off bs p.1; 0 < c && c < 8)
  let t1 := tl.fixWords src part
  let whole := ws.filter (fun p => coverOf off bs p.1 = 8)
  { t1 with lerr := whole.foldl (fun m p => SMap.erase m p.1) t1.lerr, lmem := t1.lmem.setMasked off bs }

/-- The word whose double-bit error stops a write: the read half of a partial write meets it (R177). -/
def Tile.writeBad (tl : Tile) (off : Nat) (bs : List (Option Byte)) : Option Nat :=
  firstBad ((tl.errWords off bs.length).filter (fun p => let c := coverOf off bs p.1; 0 < c && c < 8))

/-- A machine check of a tile's function met at a tile; a tile of no function fails none. -/
def State.tileMc (s : State) (src : Byte) (t : TileId) (reader : Option (TileId × Thr)) (pa : Nat) (va : Option VAddr) : State :=
  match (s.tile t).func with
  | none => s
  | some f =>
    s.machineCheck { src := src, tile := some t, func := f, pa := BitVec.ofNat 46 pa, va := va, reader := reader }

/-- Physical address of a local offset (R276). -/
def localPa (t : TileId) (off : Nat) : Nat := 0x300000000000 + t.toNat * 0x100000 + off

/-- A double-bit error at a word of local memory (R177). -/
def State.lmFail (s : State) (t : TileId) (src word : Nat) (reader : Option (TileId × Thr)) (va : Option VAddr) :
    State :=
  (s.modTile t (fun tl => tl.errRecord src word true)).tileMc 2 t reader (localPa t (word * 8)) va

/-- The reply to request `id` is sent (R262, R263). -/
def State.reply (s : State) (id : Nat) : State := { s with replies := s.replies ++ [id] }

/-- A store-buffer entry is acknowledged by its target (R338). -/
def State.ackStore (s : State) (t : TileId) (id : Nat) : State :=
  (s.reply id).modTile t (fun tl => { tl with sbuf := tl.sbuf.map (fun b => if b.id = id then { b with done := true } else b) })

/-- The oldest message that is not visible becomes visible. -/
def revealFirst : List QMsg → List QMsg
  | [] => []
  | m :: r => if m.seen then m :: revealFirst r else { m with seen := true } :: r
/-- The last byte of a ring's next message has been written (R223). -/
def Queue.reveal (k : Queue) : Queue := { k with msgs := revealFirst k.msgs }

/-- The head of the inbound write buffer goes into local memory, with what the code finds on the read half of a
partial write (R177, R180). -/
def State.drainInbound (s : State) (t : TileId) (ecc : Ecc) : State :=
  match (s.tile t).inbuf with
  | [] => s
  | w :: r =>
    let bs := w.bytes.map some
    let s1 := s.modTile t (fun tl =>
      let t0 := { tl with inbuf := r }
      let part := w.off % 8 ≠ 0 || (w.off + w.bytes.length) % 8 ≠ 0
      let k := if w.off % 8 ≠ 0 then w.off / 8 else (w.off + w.bytes.length) / 8
      if part && ecc ≠ .none then { t0 with lerr := SMap.set none t0.lerr k (some (ecc = .uncorrectable)) } else t0)
    match (s1.tile t).writeBad w.off bs with
    | some k => s1.lmFail t 1 k none none
    | none =>
      let s2 := s1.modTile t (fun tl => tl.lmWrite 1 w.off bs)
      match w.what with
      | .store u id => s2.ackStore u id
      | .ring q => s2.modTile t (fun tl => tl.modQueue q Queue.reveal)
      | .none => s2

/-- Every write of the inbound write buffer goes into local memory, as those do that a later write of the buffer follows
(R180). -/
def State.drainAll (s : State) (t : TileId) : State :=
  (List.range (s.tile t).inbuf.length).foldl (fun a _ => a.drainInbound t .none) s

/-- A thread's use of its local memory's port, for its scratchpad or its cache partition: stall cause 7 for a full inbound buffer, else `k` (R30, R180). -/
def withPort (t : TileId) (h : Thr) (k : State → State) (s : State) : State :=
  if (s.tile t).inbuf.length = 16 then (s.drainInbound t .none).modTile t (fun tl => { tl.stallOn h 7 with c7 := 1 })
  else k s

/-- A thread's read of its own scratchpad: stall cause 7 for a correction, the machine check of a double-bit error,
taken precisely, else `k` (R30, R177, R367). -/
def withRead (t : TileId) (h : Thr) (va : VAddr) (off n : Nat) (k : State → State) (s : State) : State :=
  withPort t h (fun s =>
    let ws := (s.tile t).errWords off n
    if ws.any (fun p => !p.2) then s.modTile t (fun tl => { (tl.fixWords 0 ws).stallOn h 7 with c7 := 2 })
    else match firstBad ws with
      | some w => s.lmFail t 0 w (some (t, h)) (some va)
      | none => k s) s

/-- A thread's write of its own scratchpad. DEDUCED (log 36): a double-bit error that the read half of a partial write meets is
not met by a load, so the write does not take place, the instruction completes, and the function's first thread takes
the machine check (R177, R367). -/
def withWrite (t : TileId) (h : Thr) (va : VAddr) (off : Nat) (bs : List (Option Byte)) (k : State → State) (s : State) :
    State :=
  withPort t h (fun s =>
    match (s.tile t).writeBad off bs with
    | some w => (k s).lmFail t 0 w none (some va)
    | none => k (s.modTile t (fun tl => tl.lmWrite 0 off bs))) s

/-! ## Placement (R175, R182–R187) -/

/-- Bytes of the cache partition (R190). -/
def cacheBytes (c : BitVec 2) : Nat := if c = 0 then 0 else 32768 * 2 ^ c.toNat
/-- The scratchpad limit (R175). -/
def Tile.limit (tl : Tile) : Nat := 0x100000 - cacheBytes tl.csize

/-- Placement of a window offset by CT_PBB of the holding tile (R184). -/
def Tile.placeBase (tl : Tile) (o n : Nat) : Option Nat :=
  let base := (bits tl.pbb 0 14).toNat * 64
  if o + n ≤ min (bits tl.pbb 16 15).toNat 16384 * 64 && base + o + n ≤ tl.limit then some (base + o) else none

/-- Placement of a handle buffer by the holding tile (R185). -/
def Tile.placeHandle (tl : Tile) (off : BitVec 14) (o n : Nat) : Option Nat :=
  if off.toNat * 64 + o + n ≤ tl.limit then some (off.toNat * 64 + o) else none

/-- Placement of a remote access by the holding tile. -/
def Tile.placeAt (tl : Tile) (hd : Option (BitVec 14)) (o n : Nat) : Option Nat :=
  match hd with
  | none => tl.placeBase o n
  | some off => tl.placeHandle off o n

/-- An access in the local window as tile `t` resolves it; none is an Access Violation (R182–R187). -/
def State.resolveLocal (s : State) (t : TileId) (va n : Nat) (write : Bool) : Option Target :=
  let tl := s.tile t
  if va + n ≤ 0x100000 then (tl.placeBase va n).map Target.own
  else if 0x1000000 ≤ va && va < 0x2000000 then
    let m := (va - 0x1000000) / 0x100000
    let o := va % 0x100000
    if bit tl.place 0 || (bits tl.place 4 4).toNat < m || 0x100000 < o + n then none
    else
      let u := SMap.get 0 tl.memb m
      if u = t then (tl.placeBase o n).map Target.own else some (.remote u o none)
  else if 0x40000000 ≤ va && va < 0x50000000 then
    let o := va % 0x100000
    let e := SMap.get 0 tl.htab ((va - 0x40000000) / 0x100000)
    if !(bit tl.place 0) || 0x100000 < o + n || !(bit e 12) || (write && bit e 13)
        || min (bits e 32 15).toNat 16384 * 64 < o + n then none
    else
      let u : TileId := bits e 0 12
      let off : BitVec 14 := bits e 16 14
      if u = t then (tl.placeHandle off o n).map Target.own else some (.remote u o (some off))
  else none

/-! ## Translation (R316–R318) -/

/-- Page-offset bits of a leaf of a level. -/
def pageBits (lvl : Nat) : Nat := if lvl = 2 then 30 else if lvl = 3 then 21 else 12
/-- The leaf covers a virtual address of a function. -/
def Leaf.covers (l : Leaf) (f : FuncNo) (va : Nat) : Bool := l.func = f && l.vpn = va / 2 ^ pageBits l.lvl
/-- The physical address of a virtual address through a leaf. -/
def Leaf.addr (l : Leaf) (va : Nat) : Nat := l.pa + va % 2 ^ pageBits l.lvl

/-- The leaf that covers an address, and the cache with it moved to the front; caches list the most recently used
entry first. -/
def tlbFind (c : List Leaf) (f : FuncNo) (va : Nat) : Option (Leaf × List Leaf) :=
  match c.filter (fun l => l.covers f va) with
  | l :: _ => some (l, l :: c.filter (fun x => !(x.covers f va)))
  | [] => none

/-- A leaf installed at the front of a cache of `n` entries. -/
def tlbInstall (c : List Leaf) (n : Nat) (l : Leaf) : List Leaf :=
  (l :: c.filter (fun x => !(x.func = l.func && x.lvl = l.lvl && x.vpn = l.vpn))).take n

/-- The set of the Cob shared cache that holds a leaf (R318). -/
def Leaf.set (l : Leaf) : Nat := l.vpn % 512

/-- End of HBM (R276). -/
def hbmEnd : Nat := 0x28000000000

/-- How a walk ends. -/
inductive WalkEnd
  | leaf (l : Leaf) (read : List NonLeaf)
  /-- cause 0x01 or 0x04 of R313 -/
  | fault (cause : BitVec 4)
  /-- an entry lies in a burst with an uncorrectable error -/
  | bad (pa : Nat)
  /-- an entry lies in a slice whose memory interface is not on: the walk waits for it (R282) -/
  | off (pa : Nat)
  deriving DecidableEq, Repr

/-- A walk from a table at level `5 - n` (R316). -/
def State.walkFrom (s : State) (f : FuncNo) (va : Nat) : Nat → Nat → List NonLeaf → WalkEnd
  | 0, _, _ => .fault 4
  | n + 1, table, acc =>
    let lvl := 4 - n
    let a := table + 8 * (va / 2 ^ (12 + 9 * n) % 512)
    if hbmEnd ≤ table then .fault 4
    else if !(s.sliceOn a) then .off a
    else if SMap.get false s.hbmBad (a / 32) && !(s.held a) then .bad a
    else
      let e : DWord := leBits 64 (s.hbm.bytes a 8)
      let pa := (bits e 12 34).toNat * 4096
      let large := bit e 3 && (lvl = 2 || lvl = 3)
      if !(bit e 0) then .fault 1
      else if bits e 4 8 ≠ 0 || bits e 46 18 ≠ 0 || (lvl = 1 && bit e 3)
          || (large && pa % 2 ^ pageBits lvl ≠ 0) then .fault 4
      else if lvl = 4 || large then
        .leaf { func := f, lvl := lvl, vpn := va / 2 ^ pageBits lvl, pa := pa, w := bit e 1, u := bit e 2 } acc
      else if hbmEnd ≤ pa then .fault 4
      else s.walkFrom f va n pa ({ func := f, lvl := lvl, vpn := va / 2 ^ (12 + 9 * n), pa := pa } :: acc)

/-- A walk that starts at the deepest held non-leaf entry of a walker. -/
def State.walk (s : State) (held : List NonLeaf) (f : FuncNo) (va : Nat) : WalkEnd :=
  let at_ (lvl : Nat) : Option NonLeaf :=
    (held.filter (fun e => e.func = f && e.lvl = lvl && e.vpn = va / 2 ^ (48 - 9 * lvl))).head?
  match at_ 3, at_ 2, at_ 1 with
  | some e, _, _ => s.walkFrom f va 1 e.pa []
  | none, some e, _ => s.walkFrom f va 2 e.pa []
  | none, none, some e => s.walkFrom f va 3 e.pa []
  | none, none, none => s.walkFrom f va 4 (s.func f).ptr.toNat []

/-- The entries that a walk from a table reads, each 8 bytes: as far as it goes. -/
def State.readsFrom (s : State) (va : Nat) : Nat → Nat → List (Nat × Nat)
  | 0, _ => []
  | n + 1, table =>
    let lvl := 4 - n
    let a := table + 8 * (va / 2 ^ (12 + 9 * n) % 512)
    if hbmEnd ≤ table || !(s.sliceOn a) then []
    else
      let e : DWord := leBits 64 (s.hbm.bytes a 8)
      let pa := (bits e 12 34).toNat * 4096
      if !(bit e 0) || (SMap.get false s.hbmBad (a / 32) && !(s.held a)) || lvl = 4 || bit e 3 || hbmEnd ≤ pa then [(a, 8)]
      else (a, 8) :: s.readsFrom va n pa
/-- The entries that a walk reads. -/
def State.walkReads (s : State) (held : List NonLeaf) (f : FuncNo) (va : Nat) : List (Nat × Nat) :=
  let at_ (lvl : Nat) : Option NonLeaf :=
    (held.filter (fun e => e.func = f && e.lvl = lvl && e.vpn = va / 2 ^ (48 - 9 * lvl))).head?
  match at_ 3, at_ 2, at_ 1 with
  | some e, _, _ => s.readsFrom va 1 e.pa
  | none, some e, _ => s.readsFrom va 2 e.pa
  | none, none, some e => s.readsFrom va 3 e.pa
  | none, none, none => s.readsFrom va 4 (s.func f).ptr.toNat

/-- Non-leaf entries kept by a walker: at most 256, the latest first. -/
def keepNonLeaf (held new : List NonLeaf) : List NonLeaf := (new ++ held.filter (fun e => !(new.contains e))).take 256

/-- The level check of a leaf: write and user permission (R317); the answer is the DETAIL of the fault. -/
def Leaf.refuses (l : Leaf) (write user : Bool) : Option (BitVec 4) :=
  if write && !l.w then some 2 else if user && !l.u then some 3 else none

/-- What the checks of an access find. -/
inductive Res
  | at (g : Target)
  | fault (cause : BitVec 5) (detail : BitVec 4)
  | walk
  deriving DecidableEq, Repr

/-- The target of a physical address for a thread's access of `n` bytes (R100, R188, R277). A load that the register's block
refuses, in any element of a string run, takes the exception in its slot (R55, R123). DEDUCED (log 33): a store leaves through the
store buffer and its refusal comes back as a Store Error of DETAIL 2 (R365, R374). -/
def State.classify (s : State) (pl : BitVec 2) (f : FuncNo) (pa n : Nat) (write : Bool) : Res :=
  if pa < hbmEnd then .at (.hbm pa)
  else match csrBlk pa with
    | none => .fault cAccess 0
    | some _ =>
      if write then .at (.csr pa)
      else match s.csrMayLoad pl (some f) pa n with
        | .ok => .at (.csr pa)
        | .priv => .fault cPriv 0
        | .av => .fault cAccess 0

/-- A load at U whose address translates into CSR space: its Privilege Violation comes before the alignment and the
translation checks (R55, R96). DEDUCED (log 31): where the tile's translation cache has no entry, only the page tables can tell. -/
def State.uCsr (s : State) (t : TileId) (h : Thr) (va : Nat) (write : Bool) : Bool :=
  let f := (s.tile t).func.getD 0
  let at_ : Option Nat := match tlbFind (s.tile t).tlb f va with
    | some (l, _) => some (l.addr va)
    | none => if va % 4 = 0 then none else match s.walk [] f va with
      | .leaf l _ => some (l.addr va)
      | _ => none
  (s.th t h).st.pl = 1 && !write && (match at_ with
    | some pa => (csrBlk pa).isSome
    | none => false)

/-- The checks of a scalar access of thread `h` of `n` bytes at a 64-bit address, in the order of R96; `al` is the
alignment. -/
def State.resolve (s : State) (t : TileId) (h : Thr) (a : DWord) (n al : Nat) (write : Bool) : Res :=
  let x := s.th t h
  let va := a.toNat
  if 2 ^ 48 ≤ va then .fault cForm 0
  else if 0x100000000 ≤ va && s.uCsr t h va write then .fault cPriv 0
  else if va % al ≠ 0 then .fault cAlign 0
  else if va < 0x100000000 then
    match s.resolveLocal t va n write with
    | some g => .at g
    | none => .fault cAccess 0
  else
    let f := (s.tile t).func.getD 0
    match tlbFind (s.tile t).tlb f va with
    | none => .walk
    | some (l, _) => match l.refuses write (x.st.pl = 1) with
      | some d => .fault cFault d
      | none => s.classify x.st.pl f (l.addr va) n write

/-- The translation that an access used becomes the most recently used. -/
def Tile.tlbTouch (tl : Tile) (va : Nat) : Tile :=
  match tlbFind tl.tlb (tl.func.getD 0) va with
  | some (_, c) => { tl with tlb := c }
  | none => tl

/-- A walk starts: stall cause 1 (R30, R318). -/
def Tile.startWalk (tl : Tile) (h : Thr) (va : VAddr) : Tile :=
  ((tl.pm 0x0C 1).stallOn h 1).modTh h (fun x => { x with walk := some va })

/-- An access after its checks: a precise exception, a walk, or `k` with the target. An address below 4 GiB uses no
translation (R182, R316). -/
def withTarget (t : TileId) (h : Thr) (a : DWord) (n al : Nat) (write : Bool)
    (k : Target → State → State) (s : State) : State :=
  match s.resolve t h a n al write with
  | .fault c d => s.raise t h c d (vaFor c (bits a 0 48))
  | .walk => s.modTile t (fun tl => tl.startWalk h (bits a 0 48))
  | .at g => k g (if a.toNat < 0x100000000 then s else s.modTile t (fun tl => tl.tlbTouch a.toNat))

/-- What the checks of the two pointers of an SMOV run find together, by the order of R96: the read's privilege, then a
translation that either lacks or refuses, then an access that either refuses; of one class the read's comes first. -/
def State.resolveBoth (s : State) (t : TileId) (h : Thr) (ps pd : DWord) (n : Nat) :
    Sum (Target × Target) (DWord × Res) :=
  let rs := s.resolve t h ps n 1 false
  let rd := s.resolve t h pd n 1 true
  let late (r : Res) : Bool := match r with
    | .fault c _ => c ≠ cAccess
    | .walk => true
    | .at _ => false
  match rs, rd with
  | .at g, .at k => .inl (g, k)
  | .at _, _ => .inr (pd, rd)
  | _, .at _ => .inr (ps, rs)
  | _, _ => if late rs || !(late rd) then .inr (ps, rs) else .inr (pd, rd)

/-- The two accesses of an SMOV run after their checks (R96, R123). DESIGN CHOICE (log 90): where both meet a fault of one class, the
address recorded is that of As; the spec names neither. -/
def withTargets (t : TileId) (h : Thr) (ps pd : DWord) (n : Nat) (k : Target → Target → State → State) (s : State) : State :=
  match s.resolveBoth t h ps pd n with
  | .inl (g, gd) =>
    let touch (a : DWord) (s : State) : State :=
      if a.toNat < 0x100000000 then s else s.modTile t (fun tl => tl.tlbTouch a.toNat)
    k g gd (touch pd (touch ps s))
  | .inr (a, .fault c d) => s.raise t h c d (vaFor c (bits a 0 48))
  | .inr (a, _) => s.modTile t (fun tl => tl.startWalk h (bits a 0 48))

/-! ## The cache partition (R190–R194) -/

/-- Sets of the partition (R190). -/
def Tile.sets (tl : Tile) : Nat := 16 * 2 ^ tl.csize.toNat
/-- The set of an address. -/
def Tile.setOf (tl : Tile) (va : Nat) : Nat := va / 256 % tl.sets
/-- A line by its index, set × 8 + way. -/
def Tile.line (tl : Tile) (i : Nat) : Line := SMap.get {} tl.lines i
/-- An invalid way: no valid sector and no fill in flight (R191). DESIGN CHOICE (log 93): a way whose line has been cleared while its
fill is in flight is no invalid way until that fill completes, across a change of CSIZE too; R191 calls a cleared line an
invalid way without naming such a fill. -/
def Tile.invalidWay (tl : Tile) (i : Nat) : Bool := (tl.line i).valid = 0 && !(tl.fills.any (fun f => f.line = i))
/-- The line that holds an address's tag. DESIGN CHOICE (log 93): the tag of an invalid way matches no load; R191 does not say. -/
def Tile.findLine (tl : Tile) (va : Nat) : Option Nat :=
  (((List.range 8).map (fun w => tl.setOf va * 8 + w)).filter
    (fun i => !(tl.invalidWay i) && (tl.line i).tag.toNat = va / 256)).head?
/-- Local offset of a sector's data. DESIGN CHOICE (log 92): sector k of way w of set s lies at limit + (8s + w) × 256 + 64k; the spec
gives no layout of the partition, which decides the stale bytes that a smaller CSIZE leaves in the scratchpad (R194). -/
def Tile.sectorOff (tl : Tile) (i k : Nat) : Nat := tl.limit + i * 256 + k * 64
/-- The line index of a valid sector. -/
def Tile.hit (tl : Tile) (va : Nat) : Option Nat :=
  if tl.csize = 0 then none
  else match tl.findLine va with
    | some i => if bit (tl.line i).valid (va / 64 % 4) then some i else none
    | none => none

/-- A tree bit of a set. -/
def Tile.tree (tl : Tile) (set k : Nat) : Bool := bit tl.plru (set * 7 + k)
/-- The way that the tree names (R191). -/
def Tile.victim (tl : Tile) (set : Nat) : Nat :=
  if tl.tree set 0 then
    (if tl.tree set 2 then (if tl.tree set 6 then 7 else 6) else (if tl.tree set 5 then 5 else 4))
  else (if tl.tree set 1 then (if tl.tree set 4 then 3 else 2) else (if tl.tree set 3 then 1 else 0))
/-- A touch of a line: each bit on its path names the other half (R191). -/
def Tile.touchLine (tl : Tile) (i : Nat) : Tile :=
  let b := i / 8 * 7
  let w := i % 8
  let p := setBit (setBit tl.plru b (w < 4)) (b + (if w < 4 then 1 else 2)) (w % 4 < 2)
  { tl with plru := setBit p (b + 3 + w / 2) (w % 2 = 0) }

/-- A line allocated for an address; fills of the evicted line only deliver. -/
def Tile.allocLine (tl : Tile) (va : Nat) : Nat × Tile :=
  let set := tl.setOf va
  let i := match ((List.range 8).filter (fun w => tl.invalidWay (set * 8 + w))).head? with
    | some w => set * 8 + w
    | none => set * 8 + tl.victim set
  (i, { tl with lines := SMap.set {} tl.lines i { tag := BitVec.ofNat 40 (va / 256), valid := 0 },
                fills := tl.fills.map (fun f => if f.line = i then { f with dead := true } else f) })

/-- The line for an address, found or allocated, and touched. -/
def Tile.lineFor (tl : Tile) (va : Nat) : Nat × Tile :=
  match tl.findLine va with
  | some i => (i, tl.touchLine i)
  | none => let r := tl.allocLine va; (r.1, r.2.touchLine r.1)

/-- The fill in flight that will validate an address's sector. -/
def Tile.fillFor (tl : Tile) (va : Nat) : Option Fill :=
  (tl.fills.filter (fun f => !f.dead && f.va.toNat / 64 = va / 64)).head?

/-- Every valid bit is cleared, fills in flight only deliver, and the detectors are reset (R193, R196). DESIGN CHOICE (log 94): the
stride of a reset detector is 0; R196 resets its activity and its last address only. -/
def Tile.clearCache (tl : Tile) : Tile :=
  let t1 := { tl with lines := [], fills := tl.fills.map (fun f => { f with dead := true }), eng := { tl.eng with det := {} } }
  ([0, 1, 2, 3] : List Thr).foldl (fun a h => a.modTh h (fun x => { x with det := {} })) t1

/-! ## Requests -/

/-- A request leaves thread `h`; its number is `s.nextId`. -/
def State.request (s : State) (t : TileId) (h : Thr) (write fill : Bool) (g : Target) (va : VAddr) (n esz : Nat)
    (data : List Byte) : State :=
  let x := s.th t h
  let tl := s.tile t
  { s with
    nextId := s.nextId + 1
    reqs := s.reqs ++ [{ id := s.nextId, tile := t, thr := h, write := write, fill := fill, dst := g, va := va, n := n,
                         esz := esz, data := data, pl := x.st.pl, pid := bits tl.place 8 8, func := tl.func,
                         ans := none }] }

/-- A sector fill is started for an address whose sector is not valid: its line is found or allocated (R191). -/
def State.startFill (s : State) (t : TileId) (h : Thr) (va pa : Nat) : State :=
  let v : VAddr := BitVec.ofNat 48 (va / 64 * 64)
  let s1 := s.modTile t (fun tl =>
    let r := tl.lineFor va
    { r.2 with fills := r.2.fills ++ [{ id := s.nextId, line := r.1, sector := BitVec.ofNat 2 (va / 64), va := v,
                                        pa := pa / 64 * 64, dead := false, data := none }] })
  s1.request t h false true (.hbm (pa / 64 * 64)) v 64 64 []

/-- Whether two targets lie in one space of bytes, and where each starts in it (R103). -/
def State.locOf (s : State) (t : TileId) (g : Target) : Nat × Nat :=
  match g with
  | .own off => (t.toNat, off)
  | .remote u o none => (u.toNat, (bits (s.tile u).pbb 0 14).toNat * 64 + o)
  | .remote u o (some off) => (u.toNat, off.toNat * 64 + o)
  | .hbm pa => (0x1000, pa)
  | .csr pa => (0x1001, pa)

/-- What the store buffer gives a load (R103). -/
inductive Fwd
  | none
  /-- every element from a store that covers it -/
  | all (bytes : List Byte)
  /-- some elements from stores that cover them, the others from memory -/
  | some (es : List (Option (List Byte)))
  /-- an element that its latest store covers only in part -/
  | part
  deriving DecidableEq, Repr

/-- The latest held store that overlaps `n` bytes at a location: its bytes there, or nothing for a partial overlap. -/
def State.fwdOne (s : State) (t : TileId) (sp a n : Nat) : Option (Option (List Byte)) :=
  match (s.tile t).sbuf.reverse.filter (fun b =>
      let l := s.locOf t b.dst
      l.1 = sp && decide (l.2 < a + n) && decide (a < l.2 + b.bytes.length)) with
  | [] => .none
  | b :: _ =>
    let l := s.locOf t b.dst
    if l.2 ≤ a && a + n ≤ l.2 + b.bytes.length then some (some ((b.bytes.drop (a - l.2)).take n)) else some .none

/-- Forwarding for a load of `cnt` elements of `esz` bytes. -/
def State.forward (s : State) (t : TileId) (g : Target) (esz cnt : Nat) : Fwd :=
  let l := s.locOf t g
  let rs := (List.range cnt).map (fun i => s.fwdOne t l.1 (l.2 + i * esz) esz)
  if rs.all (fun r => r.isNone) then .none
  else if rs.any (fun r => r = some none) then .part
  else
    let es := rs.map (fun r => r.join)
    if es.all (fun e => e.isSome) then .all (es.flatMap (fun e => e.getD [])) else .some es

/-- Elements that stores give, over the bytes of the others. -/
def overlay (esz : Nat) : List (Option (List Byte)) → List Byte → List Byte
  | [], b => b
  | none :: r, b => b.take esz ++ overlay esz r (b.drop esz)
  | some e :: r, b => e ++ overlay esz r (b.drop esz)

/-! ## Stride detectors and prefetch (R196–R198) -/

/-- A detector's update on a load: its new state and whether it triggers (R197). -/
def Detector.update (d : Detector) (a : VAddr) : Detector × Bool :=
  match d.last with
  | none => ({ d with last := some a }, false)
  | some l =>
    let diff : Int := (a.toNat : Int) - l.toNat
    if diff ≠ 0 && diff.natAbs ≤ 4096 && diff = d.stride then
      ({ d with last := some a, active := true }, !d.active || a.toNat / 64 ≠ l.toNat / 64)
    else ({ last := some a, stride := diff, active := false }, false)

/-- One prefetch request, or its drop (R198). -/
def State.prefetchOne (s : State) (t : TileId) (h : Thr) (a : Nat) (x : Int) : State :=
  let tl := s.tile t
  let drop := s.modTile t (fun tl => tl.pm 0x0B 1)
  if x < 0 then drop
  else
    let va := x.toNat
    match tlbFind tl.tlb (tl.func.getD 0) va with
    | none => drop
    | some (l, _) =>
      if va / 4096 ≠ a / 4096 || (tl.hit va).isSome || (tl.fillFor va).isSome || 16 ≤ tl.fills.length
          || hbmEnd ≤ l.addr va then drop
      else (s.modTile t (fun tl => tl.pm 0x0A 1)).startFill t h va (l.addr va)

/-- A thread's load from HBM at address `a` as its detector sees it (R190, R196). -/
def State.detect (s : State) (t : TileId) (h : Thr) (a : VAddr) : State :=
  let tl := s.tile t
  if tl.csize = 0 || tl.pfd = 0 then s
  else
    let r := (tl.th h).det.update a
    let s1 := s.modTh t h (fun x => { x with det := r.1 })
    if !r.2 then s1
    else
      let st := r.1.stride
      let step : Int := if 64 ≤ st.natAbs then st else if st < 0 then -64 else 64
      (List.range tl.pfd.toNat).foldl (fun b j => b.prefetchOne t h a.toNat ((a.toNat : Int) + (j + 1) * step)) s1

/-! ## Stores (R102, R176, R192, R339) -/

/-- The sector of line `i` that holds an address becomes invalid after a double-bit error at a word (R177). -/
def Tile.dropSector (tl : Tile) (i va word : Nat) : Tile :=
  { tl.errRecord 2 word true with
    lines := SMap.modify {} tl.lines i (fun l => { l with valid := setBit l.valid (va / 64 % 4) false }) }

/-- A store's effect on the cache partition, then `k`: a valid sector is updated, with the words that it covers in part read
and corrected and those that it covers whole repaired; a fill in flight only delivers (R102, R176, R177, R192). The sector is
local memory, so its port can stall (R30, R180). -/
def withCache (t : TileId) (h : Thr) (va : Nat) (bytes : List Byte) (k : State → State) (s : State) : State :=
  let tl := s.tile t
  let missed (s : State) : State := s.modTile t (fun tl =>
    { tl with fills := tl.fills.map (fun f => if f.va.toNat / 64 = va / 64 then { f with dead := true } else f) })
  match tl.hit va with
  | none => k (missed s)
  | some i =>
    let off := tl.sectorOff i (va / 64 % 4) + va % 64
    let bs := bytes.map some
    let part := (tl.errWords off bs.length).filter (fun p => let c := coverOf off bs p.1; 0 < c && c < 8)
    withPort t h (fun s =>
      if part.any (fun p => !p.2) then s.modTile t (fun tl => { (tl.fixWords 2 part).stallOn h 7 with c7 := 2 })
      else match firstBad part with
        | some w => k (missed (s.modTile t (fun tl => tl.dropSector i va w)))
        | none => k (s.modTile t (fun tl => (tl.touchLine i).lmWrite 2 off bs))) s

/-- A store enters the store buffer and leaves for its target (R102). -/
def State.bufferStore (s : State) (t : TileId) (h : Thr) (va : VAddr) (g : Target) (esz : Nat) (bytes : List Byte) :
    State :=
  let x := s.th t h
  let s1 := s.modTile t (fun tl =>
    Tile.modTh { tl with sbuf := tl.sbuf ++ [{ id := s.nextId, thr := h, pc := x.pc, va := va, dst := g,
                                               bytes := bytes, hold := x.hold, done := false, refused := none }] } h
      (fun x => { x with relScope := none }))
  s1.request t h true false g va bytes.length esz bytes

/-- The store buffer has no free entry. -/
def Tile.sbufFull (tl : Tile) : Bool := 8 ≤ tl.sbuf.length

/-- A store of bytes at a target: stall cause 2 for a full buffer, else it is made and `k` follows. -/
def storeAt (t : TileId) (h : Thr) (va : VAddr) (g : Target) (esz : Nat) (bytes : List Byte) (k : State → State)
    (s : State) : State :=
  match g with
  | .own off =>
    withWrite t h va off (bytes.map some) k s
  | .hbm _ =>
    if (s.tile t).sbufFull then s.modTile t (fun tl => tl.stallOn h 2)
    else withCache t h va.toNat bytes (fun s => k (s.bufferStore t h va g esz bytes)) s
  | _ =>
    if (s.tile t).sbufFull then s.modTile t (fun tl => tl.stallOn h 2)
    else k (s.bufferStore t h va g esz bytes)

/-! ## Loads (R100–R103, R123) -/

/-- Bytes of a string element. -/
def esBytes : ESize → Nat
  | .b8 => 1
  | .b16 => 2
  | .b32 => 4
  | .b64 => 8

/-- A string value: Dv zero-extended or truncated to an element (R122). -/
def elemOf (n : Nat) (v : Word) : List Byte := leBytes n v.toNat

/-- The elements of a byte list. -/
def elems (n : Nat) : Nat → List Byte → List (List Byte)
  | 0, _ => []
  | c + 1, l => l.take n :: elems n c (l.drop n)

/-- A slot of a string ends: pointers and count moved, the PC on the next instruction when it has finished. -/
def Thread.stringEnd (x : Thread) (fin : Bool) : Thread := if fin then x.advance 2 else x

/-- SSCN on a run of elements: how many are passed, and whether one met the condition (R122). -/
def scanRun (mode : Bool) (v : List Byte) : List (List Byte) → Nat × Bool
  | [] => (0, false)
  | e :: r => if (e = v) = !mode then (0, true) else let q := scanRun mode v r; (q.1 + 1, q.2)

/-- The end of a slot that an earlier slot's instruction holds: debug halts, no new issue. -/
def State.land (s : State) (t : TileId) (h : Thr) (f : Thread → Thread) : State :=
  let ss := (s.th t h).st.ss
  s.modTh t h (fun x => (f x).slotEnd s.debug ss)

/-- The bytes of a load reach their destination and the instruction completes (R99, R122, R123). -/
def State.deliver (s : State) (t : TileId) (h : Thr) (dest : LoadDest) (b : List Byte) : State :=
  match dest with
  | .d r => s.land t h (fun x => (Thread.setD { x with wait := none } r (leBits 32 b)).advance 2)
  | .a r => s.land t h (fun x => (Thread.setA { x with wait := none } r (leBits 64 b)).advance 2)
  | .smov ad asrc dc sz cnt dst =>
    let x := s.th t h
    storeAt t h (bits (x.getA ad) 0 48) dst (esBytes sz) b (fun s =>
      s.land t h (fun x =>
        let left := x.getD dc - BitVec.ofNat 32 cnt
        let step : DWord := BitVec.ofNat 64 (cnt * (esBytes sz))
        let y := ((Thread.setA { x with wait := none } ad (x.getA ad + step)).setA asrc (x.getA asrc + step)).setD dc left
        y.stringEnd (left = 0))) s
  | .sscn ad dv dc mode sz cnt =>
    s.land t h (fun x =>
      let r := scanRun mode (elemOf (esBytes sz) (x.getD dv)) (elems (esBytes sz) cnt b)
      let left := x.getD dc - BitVec.ofNat 32 r.1
      let y := (Thread.setA { x with wait := none } ad (x.getA ad + BitVec.ofNat 64 (r.1 * (esBytes sz)))).setD dc left
      if r.2 then { y with st := { y.st with z := true } }.advance 2
      else if left = 0 then { y with st := { y.st with z := false } }.advance 2
      else y)

/-- The thread waits for late data. -/
def State.waitOn (s : State) (t : TileId) (h : Thr) (dest : LoadDest) (va : VAddr) (g : Target) (n : Nat)
    (on : WaitFor) : State :=
  s.modTh t h (fun x => { x with wait := some { dest := dest, va := va, src := g, n := n, on := on } })

/-- A load from HBM that the store buffer does not answer whole: hit with the elements `es` that it gives, miss or the path without a partition (R101, R191). -/
def State.loadHbm (s : State) (t : TileId) (h : Thr) (va : VAddr) (pa n esz : Nat) (es : List (Option (List Byte)))
    (dest : LoadDest) : State :=
  let tl := s.tile t
  if tl.csize = 0 then
    (s.request t h false false (.hbm pa) va n esz []).waitOn t h dest va (.hbm pa) n (.req s.nextId)
  else
    let miss (s : State) : State :=
      match (s.tile t).fillFor va.toNat with
      | some f => s.waitOn t h dest va (.hbm pa) n (.fill f.id)
      | none =>
        if 16 ≤ (s.tile t).fills.length then s.waitOn t h dest va (.hbm pa) n .again
        else (s.startFill t h va.toNat pa).waitOn t h dest va (.hbm pa) n (.fill s.nextId)
    match tl.hit va.toNat with
    | none => miss s
    | some i =>
      let off := tl.sectorOff i (va.toNat / 64 % 4) + va.toNat % 64
      let ws := tl.errWords off n
      withPort t h (fun s =>
        if ws.any (fun p => !p.2) then s.modTile t (fun tl => { (tl.fixWords 2 ws).stallOn h 7 with c7 := 2 })
        else match firstBad ws with
          | some w => miss (s.modTile t (fun tl => tl.dropSector i va.toNat w))
          | none =>
            (s.modTile t (fun tl => (tl.touchLine i).pm 8 1)).deliver t h dest (overlay esz es (tl.lmem.bytes off n))) s

/-- A load by its target, without the issue count and the detector (R100, R103). DESIGN CHOICE (log 93): a load that the store buffer
answers whole does not look up the partition and touches no way; R191 does not say whether it counts as a load hit. -/
def State.loadFrom (s : State) (t : TileId) (h : Thr) (va : VAddr) (g : Target) (n esz : Nat) (dest : LoadDest) :
    State :=
  match g with
  | .own off => withRead t h va off n (fun s => s.deliver t h dest ((s.tile t).lmem.bytes off n)) s
  | _ =>
    match s.forward t g esz (n / esz) with
    | .all b => s.deliver t h dest b
    | .part => s.waitOn t h dest va g n .again
    | .some es =>
      match g with
      | .hbm pa => if ((s.tile t).hit va.toNat).isSome then s.loadHbm t h va pa n esz es dest
                   else s.waitOn t h dest va g n .again
      | _ => s.waitOn t h dest va g n .again
    | .none =>
      match g with
      | .hbm pa => s.loadHbm t h va pa n esz [] dest
      | _ => (s.request t h false false g va n esz []).waitOn t h dest va g n (.req s.nextId)

/-- A load issues: counted, seen by the detector when it reads HBM, then taken by its target. A stall that its slot
meets leaves the instruction to issue again. -/
def State.loadAt (s : State) (t : TileId) (h : Thr) (va : VAddr) (g : Target) (n esz : Nat) (dest : LoadDest) : State :=
  let r := s.loadFrom t h va g n esz dest
  if (r.tile t).causes ≠ 0 then r
  else
    let s1 := r.modTile t (fun tl => tl.issued h)
    match g with
    | .hbm _ => s1.detect t h va
    | _ => s1

end Sys2Proof.Machine
end

