-- ==== Sys2Proof/Machine/Memory.lean ====
section
/-! DEFINITION. Scalar loads and stores and ZLINE (R75, R99, R100, R195). -/
namespace Sys2Proof.Machine

/-- The effective address An + DSP × scale, in 64 bits (R99). -/
def Thread.ea (x : Thread) (an : Reg) (dsp : BitVec 14) (scale : Nat) : DWord :=
  x.getA an + dsp.signExtend 64 * BitVec.ofNat 64 scale

/-- A scalar load of `n` bytes. -/
def scalarLoad (t : TileId) (h : Thr) (an : Reg) (dsp : BitVec 14) (n : Nat) (dest : LoadDest) (s : State) : State :=
  issue t h 2 (fun s =>
    let a := (s.th t h).ea an dsp n
    withTarget t h a n n false (fun g s => s.loadAt t h (bits a 0 48) g n n dest) s) s

/-- A scalar store of `n` bytes. -/
def scalarStore (t : TileId) (h : Thr) (an : Reg) (dsp : BitVec 14) (n : Nat) (v : Thread → DWord) (s : State) : State :=
  issue t h 2 (fun s =>
    let x := s.th t h
    let a := x.ea an dsp n
    withTarget t h a n n true (fun g s =>
      storeAt t h (bits a 0 48) g n (bytesOf (v x) n) (fun s => s.complete t h 2) s) s) s

/-- LD (R99). -/
def execLd (t : TileId) (h : Thr) (r an : Reg) (dsp : BitVec 14) (s : State) : Host.Outcome State Fault Refusal :=
  .next (scalarLoad t h an dsp 4 (.d r) s)
/-- ST (R99). -/
def execSt (t : TileId) (h : Thr) (r an : Reg) (dsp : BitVec 14) (s : State) : Host.Outcome State Fault Refusal :=
  .next (scalarStore t h an dsp 4 (fun x => (x.getD r).setWidth 64) s)
/-- LDA (R99). -/
def execLda (t : TileId) (h : Thr) (r an : Reg) (dsp : BitVec 14) (s : State) : Host.Outcome State Fault Refusal :=
  .next (scalarLoad t h an dsp 8 (.a r) s)
/-- STA (R99). -/
def execSta (t : TileId) (h : Thr) (r an : Reg) (dsp : BitVec 14) (s : State) : Host.Outcome State Fault Refusal :=
  .next (scalarStore t h an dsp 8 (fun x => x.getA r) s)

/-- The line of a ZLINE: found or allocated, all four sectors valid and zero (R195). -/
def Tile.zeroLine (tl : Tile) (va : Nat) : Tile :=
  if tl.csize = 0 then tl
  else
    let r := tl.lineFor va
    let t1 := r.2.lmWrite 2 (r.2.sectorOff r.1 0) (List.replicate 256 (some 0))
    { t1 with lines := SMap.modify {} t1.lines r.1 (fun l => { l with valid := 0xF }),
              fills := t1.fills.map (fun f => if f.va.toNat / 256 = va / 256 then { f with dead := true } else f) }

/-- ZLINE (R195). -/
def execZline (t : TileId) (h : Thr) (an : Reg) (dsp : BitVec 14) (s : State) : Host.Outcome State Fault Refusal :=
  .next (issue t h 2 (fun s =>
    let a := (s.th t h).ea an dsp 256
    let va : VAddr := bits a 0 48
    withTarget t h a 256 256 true (fun g s =>
      match g with
      | .own _ => storeAt t h va g 256 (List.replicate 256 0) (fun s => s.complete t h 2) s
      | .hbm _ =>
        if (s.tile t).sbufFull then s.modTile t (fun tl => tl.stallOn h 2)
        else
          let go (s : State) : State :=
            ((s.modTile t (fun tl => tl.zeroLine va.toNat)).bufferStore t h va g 256 (List.replicate 256 0)).complete t h 2
          if (s.tile t).csize = 0 then go s else withPort t h go s
      | _ => s.raise t h cAccess 0 va) s) s)

end Sys2Proof.Machine
end

