-- ==== Sys2Proof/Machine/Float.lean ====
section
/-! DEFINITION. The number formats and their exact arithmetic with one rounding (R111, R112, R148–R151). A finite
value is held as a sign, an integer and a power of two; every operation is exact and rounds once at the end. -/
namespace Sys2Proof.Machine

/-- A floating-point value: NaN, an infinity by sign, or (-1)^neg × m × 2^e. -/
inductive FVal
  | nan
  | inf (neg : Bool)
  | fin (neg : Bool) (m : Nat) (e : Int)
  deriving DecidableEq, Repr

/-- A format: exponent bits, fraction bits, and whether it has IEEE infinities and NaNs. -/
structure Fmt where
  ebits : Nat
  mbits : Nat
  ieee : Bool
  deriving DecidableEq, Repr

def fmtF32 : Fmt := ⟨8, 23, true⟩
def fmtF16 : Fmt := ⟨5, 10, true⟩
def fmtBf16 : Fmt := ⟨8, 7, true⟩
def fmtE5m2 : Fmt := ⟨5, 2, true⟩
def fmtE4m3 : Fmt := ⟨4, 3, false⟩
def fmtFp4 : Fmt := ⟨2, 1, false⟩

/-- Width in bits. -/
def Fmt.width (f : Fmt) : Nat := 1 + f.ebits + f.mbits
/-- Exponent bias. -/
def Fmt.bias (f : Fmt) : Int := 2 ^ (f.ebits - 1) - 1
/-- Power of two of the last place of a subnormal. -/
def Fmt.lsb (f : Fmt) : Int := 1 - f.bias - f.mbits
/-- Magnitude bits of an infinity. -/
def Fmt.infBits (f : Fmt) : Nat := (2 ^ f.ebits - 1) * 2 ^ f.mbits
/-- Magnitude bits of the largest finite value (R112). -/
def Fmt.maxBits (f : Fmt) : Nat :=
  if f.ieee then f.infBits - 1 else if f.mbits = 3 then 0x7E else 7
/-- The canonical NaN (R111, R112); FP4 has none, and gives +0. -/
def Fmt.nanBits (f : Fmt) : Nat :=
  if f.mbits = 1 then 0 else if f.ieee then f.infBits + (if f.mbits = 2 then 3 else 2 ^ (f.mbits - 1)) else 0x7F

/-- The value of a bit pattern. -/
def decodeF (f : Fmt) (x : Nat) : FVal :=
  let neg := x / 2 ^ (f.ebits + f.mbits) % 2 = 1
  let e := x / 2 ^ f.mbits % 2 ^ f.ebits
  let m := x % 2 ^ f.mbits
  if f.ieee && e = 2 ^ f.ebits - 1 then (if m = 0 then .inf neg else .nan)
  else if f.mbits = 3 && !f.ieee && e = 15 && m = 7 then .nan
  else if e = 0 then .fin neg m f.lsb
  else .fin neg (2 ^ f.mbits + m) (f.lsb + e - 1)

/-- `m × 2^e` rounded to an integer multiple of `2^q`, nearest even: the multiplier. -/
def rneAt (m : Nat) (e q : Int) : Nat :=
  if q ≤ e then m * 2 ^ (e - q).toNat
  else
    let s := (q - e).toNat
    if s > Nat.log2 m + 2 then 0
    else
      let lo := m / 2 ^ s
      let rem := m % 2 ^ s
      let half := 2 ^ (s - 1)
      if rem > half || (rem = half && lo % 2 = 1) then lo + 1 else lo

/-- Magnitude bits of `m × 2^e` rounded to nearest even in a format whose exponent has no upper limit. -/
def roundMag (f : Fmt) (m : Nat) (e : Int) : Nat :=
  if m = 0 then 0
  else
    let q := max (e + (Nat.log2 m : Int) - f.mbits) f.lsb
    if q - f.lsb > 4096 then 2 ^ (f.ebits + f.mbits)
    else (q - f.lsb).toNat * 2 ^ f.mbits + rneAt m e q

/-- The sign bit of a format. -/
def signBits (f : Fmt) (neg : Bool) : Nat := if neg then 2 ^ (f.ebits + f.mbits) else 0

/-- Encode with one rounding; a magnitude above the largest becomes an infinity (R111). -/
def encodeF (f : Fmt) (v : FVal) : Nat :=
  match v with
  | .nan => f.nanBits
  | .inf neg => signBits f neg + f.infBits
  | .fin neg m e => signBits f neg + min (roundMag f m e) f.infBits

/-- Encode with one rounding, then saturate (R112). -/
def encodeSat (f : Fmt) (v : FVal) : Nat :=
  match v with
  | .nan => f.nanBits
  | .inf neg => signBits f neg + f.maxBits
  | .fin neg m e => signBits f neg + min (roundMag f m e) f.maxBits

/-- The signed integer of a finite value at a power of two no larger than its own. -/
def scaled (neg : Bool) (m : Nat) (e lo : Int) : Int :=
  let k : Int := (m : Int) * 2 ^ (e - lo).toNat
  if neg then -k else k

/-- The value of an integer times a power of two; an exact zero is +0 unless `negz`. -/
def ofScaled (k : Int) (lo : Int) (negz : Bool) : FVal :=
  if k = 0 then .fin negz 0 lo else .fin (k < 0) k.natAbs lo

def FVal.neg : FVal → FVal
  | .nan => .nan
  | .inf s => .inf !s
  | .fin s m e => .fin (!s) m e

/-- Exact sum (R111): an exact zero of unlike signs is +0. -/
def FVal.add (x y : FVal) : FVal :=
  match x, y with
  | .nan, _ => .nan
  | _, .nan => .nan
  | .inf s, .inf t => if s = t then .inf s else .nan
  | .inf s, _ => .inf s
  | _, .inf t => .inf t
  | .fin s m e, .fin t n g =>
    let lo := min e g
    ofScaled (scaled s m e lo + scaled t n g lo) lo (m = 0 && n = 0 && s && t)

/-- Exact product. -/
def FVal.mul (x y : FVal) : FVal :=
  match x, y with
  | .nan, _ => .nan
  | _, .nan => .nan
  | .inf s, .inf t => .inf (s ^^ t)
  | .inf s, .fin t n _ => if n = 0 then .nan else .inf (s ^^ t)
  | .fin s m _, .inf t => if m = 0 then .nan else .inf (s ^^ t)
  | .fin s m e, .fin t n g => .fin (s ^^ t) (m * n) (e + g)

/-- Exact `x × y + z`. -/
def FVal.fma (x y z : FVal) : FVal := (x.mul y).add z

/-- A quotient of magnitudes to more bits than any format holds, with a sticky last bit. -/
def divMag (n d : Nat) : Nat × Int :=
  let k := Nat.log2 d + 64
  let q := n * 2 ^ k / d
  (2 * q + b2n (decide (n * 2 ^ k % d ≠ 0)), -(k : Int) - 1)

/-- Quotient, rounded correctly when it is encoded. -/
def FVal.div (x y : FVal) : FVal :=
  match x, y with
  | .nan, _ => .nan
  | _, .nan => .nan
  | .inf _, .inf _ => .nan
  | .inf s, .fin t _ _ => .inf (s ^^ t)
  | .fin s _ e, .inf t => .fin (s ^^ t) 0 e
  | .fin s m e, .fin t n g =>
    if n = 0 then (if m = 0 then .nan else .inf (s ^^ t))
    else
      let r := divMag m n
      .fin (s ^^ t) r.1 (r.2 + e - g)

/-- x < y; false with a NaN. -0 and +0 are equal. -/
def FVal.lt (x y : FVal) : Bool :=
  match x, y with
  | .nan, _ => false
  | _, .nan => false
  | .inf s, .inf t => s && !t
  | .inf s, _ => s
  | _, .inf t => !t
  | .fin s m e, .fin t n g => let lo := min e g; scaled s m e lo < scaled t n g lo

/-- x = y as numbers; false with a NaN. -/
def FVal.feq (x y : FVal) : Bool :=
  match x, y with
  | .nan, _ => false
  | _, .nan => false
  | .inf s, .inf t => s = t
  | .fin s m e, .fin t n g => let lo := min e g; scaled s m e lo = scaled t n g lo
  | _, _ => false

def FVal.isNan : FVal → Bool
  | .nan => true
  | _ => false

def FVal.signBit : FVal → Bool
  | .nan => false
  | .inf s => s
  | .fin s _ _ => s

/-- The order of VMAX and VMIN: as numbers, with -0 below +0 (R110). -/
def FVal.below (x y : FVal) : Bool := x.lt y || (x.feq y && x.signBit && !y.signBit)

/-- Round to an integer, nearest even, as an unbounded integer; 2^80 stands for anything larger. -/
def toIntRne (neg : Bool) (m : Nat) (e : Int) : Int :=
  let k : Nat := if m = 0 then 0 else if e + (Nat.log2 m : Int) > 79 then 2 ^ 80 else rneAt m e 0
  if neg then -(k : Int) else k

/-- Round to a signed integer of `w` bits with saturation; NaN gives 0 (R112). -/
def encodeInt (w : Nat) (v : FVal) : Nat :=
  let hi : Int := 2 ^ (w - 1) - 1
  let lo : Int := -(2 ^ (w - 1))
  let n : Int := match v with
    | .nan => 0
    | .inf s => if s then lo else hi
    | .fin s m e => max lo (min hi (toIntRne s m e))
  (n % (2 ^ w : Int)).toNat

/-- The value of a signed integer of `w` bits. -/
def decodeInt (w : Nat) (x : Nat) : FVal :=
  if x % 2 ^ w < 2 ^ (w - 1) then .fin false (x % 2 ^ w) 0 else .fin true (2 ^ w - x % 2 ^ w) 0

/-- Width of an element code (R70). -/
def elemWidth : Elem → Nat
  | .fp32 => 32
  | .fp16 => 16
  | .bf16 => 16
  | .int32 => 32
  | .e4m3 => 8
  | .e5m2 => 8
  | .fp4 => 4
  | .int8 => 8

/-- The value of an element. -/
def decodeElem (c : Elem) (x : Nat) : FVal :=
  match c with
  | .fp32 => decodeF fmtF32 x
  | .fp16 => decodeF fmtF16 x
  | .bf16 => decodeF fmtBf16 x
  | .int32 => decodeInt 32 x
  | .e4m3 => decodeF fmtE4m3 x
  | .e5m2 => decodeF fmtE5m2 x
  | .fp4 => decodeF fmtFp4 x
  | .int8 => decodeInt 8 x

/-- An element rounded and saturated as its destination row of R112 gives. -/
def encodeElem (c : Elem) (v : FVal) : Nat :=
  match c with
  | .fp32 => encodeF fmtF32 v
  | .fp16 => encodeF fmtF16 v
  | .bf16 => encodeF fmtBf16 v
  | .int32 => encodeInt 32 v
  | .e4m3 => encodeSat fmtE4m3 v
  | .e5m2 => encodeSat fmtE5m2 v
  | .fp4 => match v with
    | .nan => 0
    | v => encodeSat fmtFp4 v
  | .int8 => encodeInt 8 v

/-- The format of a vector lane type; INT32 lanes do not use it. -/
def tyFmt : Ty → Fmt
  | .fp32 => fmtF32
  | .fp16 => fmtF16
  | .bf16 => fmtBf16
  | .int32 => fmtF32

/-- Width of a lane (R70). -/
def tyWidth : Ty → Nat
  | .fp32 => 32
  | .fp16 => 16
  | .bf16 => 16
  | .int32 => 32

/-- A number for a lane type, for the free picks. -/
def tyCode : Ty → Nat
  | .fp32 => 0
  | .fp16 => 1
  | .bf16 => 2
  | .int32 => 3

/-- ln 2 × 2^128, rounded down. -/
def ln2Fix : Int := 235865763225513294137944142764154484399

/-- Terms of the exponential series in fixed point with 128 fraction bits. -/
def expSeries (r : Int) : Nat → Int → Int → Int → Int
  | 0, _, _, s => s
  | n + 1, i, t, s =>
    let t' := t * r / 2 ^ 128 / i
    expSeries r n (i + 1) t' (s + t')

/-- e to the power of a finite value, to about 120 bits. -/
def expVal (neg : Bool) (m : Nat) (e : Int) : FVal :=
  if m = 0 then .fin false 1 0
  else if e + (Nat.log2 m : Int) > 10 then (if neg then .fin false 0 0 else .inf false)
  else
    let x : Int := scaled neg (if e + 128 < 0 then rneAt m e (-128) else m * 2 ^ (e + 128).toNat) 0 0
    let k := (2 * x + ln2Fix) / (2 * ln2Fix)
    let s := expSeries (x - k * ln2Fix) 40 1 (2 ^ 128) (2 ^ 128)
    .fin false (2 * s.toNat + 1) (k - 129)

/-- The value of magnitude bits `c`: an integer and a power of two. The bits of the infinity stand for the power of two above
the largest finite value. -/
def magVal (f : Fmt) (c : Nat) : Nat × Int :=
  let e := c / 2 ^ f.mbits
  if e = 0 then (c, f.lsb) else (2 ^ f.mbits + c % 2 ^ f.mbits, f.lsb + e - 1)
/-- Power of two of the last place at `m × 2^e`. -/
def ulpAt (f : Fmt) (m : Nat) (e : Int) : Int := if m = 0 then f.lsb else max (e + (Nat.log2 m : Int) - f.mbits) f.lsb
/-- Magnitude bits of the value of a format at or next below `m × 2^e`. -/
def floorMag (f : Fmt) (m : Nat) (e : Int) : Nat :=
  let q := ulpAt f m e
  if q - f.lsb > 4096 then f.infBits
  else (q - f.lsb).toNat * 2 ^ f.mbits + (if q ≤ e then m * 2 ^ (e - q).toNat
    else if (q - e).toNat > Nat.log2 m + 2 then 0 else m / 2 ^ (q - e).toNat)
/-- The value of magnitude bits `c` lies within `n` units in the last place of `m × 2^e`. -/
def within (f : Fmt) (n m : Nat) (e : Int) (c : Nat) : Bool :=
  let v := magVal f c
  let q := ulpAt f m e
  let lo := min v.2 (min e q)
  decide ((scaled false v.1 v.2 lo - scaled false m e lo).natAbs ≤ n * 2 ^ (q - lo).toNat)
/-- The magnitudes of a format within `n` units in the last place of `m × 2^e`, in ascending order; the infinity alone from the
power of two above the largest finite value on. -/
def nearMags (f : Fmt) (n m : Nat) (e : Int) : List Nat :=
  let b := floorMag f m e
  if f.infBits ≤ b then [f.infBits]
  else ((List.range (3 * n + 2)).filter (fun i =>
    decide (2 * n ≤ b + i) && decide (b + i - 2 * n ≤ f.infBits) && within f n m e (b + i - 2 * n))).map (fun i => b + i - 2 * n)
/-- The member of a list that a free number picks. -/
def pickOf (l : List Nat) (k : Nat) : Nat := l.getD (k % l.length) 0

/-- VEXP of one lane (R110, R111): a free choice of the values within 2 ulp of the exact result. -/
def expLane (ty : Ty) (x : Nat) : Nat :=
  let f := tyFmt ty
  match decodeF f x with
  | .nan => f.nanBits
  | .inf neg => if neg then 0 else f.infBits
  | .fin neg m e =>
    match expVal neg m e with
    | .fin _ k g => pickOf (nearMags f 2 k g) (Config.expPick (tyCode ty) x)
    | _ => f.infBits

/-- VRCP of one lane (R110, R111): a free choice of the values within 1 ulp of the exact result. -/
def rcpLane (ty : Ty) (x : Nat) : Nat :=
  let f := tyFmt ty
  match decodeF f x with
  | .nan => f.nanBits
  | .inf neg => signBits f neg
  | .fin neg m e =>
    if m = 0 then signBits f neg + f.infBits
    else
      let q := divMag 1 m
      signBits f neg + pickOf (nearMags f 1 q.1 (q.2 - e)) (Config.rcpPick (tyCode ty) x)

/-- Sum of two FP32 words under R111. -/
def f32add (x y : Word) : Word :=
  BitVec.ofNat 32 (encodeF fmtF32 ((decodeF fmtF32 x.toNat).add (decodeF fmtF32 y.toNat)))

end Sys2Proof.Machine
end

