-- ==== Sys2Proof/Machine/VectorArith.lean ====
section
/-! DEFINITION. Lane arithmetic and the vector arithmetic instructions (R106, R107, R110, R111). -/
namespace Sys2Proof.Machine

/-! ## Lane functions (R110, R111) -/

/-- A binary operation of floating-point values, rounded once to the lane type. -/
def fBin (ty : Ty) (f : FVal → FVal → FVal) (a b : Nat) : Nat :=
  encodeF (tyFmt ty) (f (decodeF (tyFmt ty) a) (decodeF (tyFmt ty) b))

def laneAdd (ty : Ty) (a b : Nat) : Nat := if ty = .int32 then (a + b) % 2 ^ 32 else fBin ty FVal.add a b
def laneSub (ty : Ty) (a b : Nat) : Nat :=
  if ty = .int32 then (a + (2 ^ 32 - b % 2 ^ 32)) % 2 ^ 32 else fBin ty (fun x y => x.add y.neg) a b
def laneMul (ty : Ty) (a b : Nat) : Nat := if ty = .int32 then a * b % 2 ^ 32 else fBin ty FVal.mul a b
def laneFma (ty : Ty) (a b c : Nat) : Nat :=
  if ty = .int32 then (a * b + c) % 2 ^ 32
  else encodeF (tyFmt ty) ((decodeF (tyFmt ty) a).fma (decodeF (tyFmt ty) b) (decodeF (tyFmt ty) c))
/-- The value of a lane as a number or NaN. -/
def laneVal (ty : Ty) (a : Nat) : FVal := if ty = .int32 then decodeInt 32 a else decodeF (tyFmt ty) a
/-- VMAX and VMIN of one lane: `pick x y` holds when y wins. -/
def lanePick (ty : Ty) (pick : FVal → FVal → Bool) (a b : Nat) : Nat :=
  let x := laneVal ty a
  let y := laneVal ty b
  if x.isNan then (if y.isNan then (tyFmt ty).nanBits else b)
  else if y.isNan then a
  else if pick x y then b else a
def laneMax (ty : Ty) (a b : Nat) : Nat := lanePick ty (fun x y => x.below y) a b
def laneMin (ty : Ty) (a b : Nat) : Nat := lanePick ty (fun x y => y.below x) a b

/-- The pairwise tree of VRSUM over a list whose length is a power of two. -/
def treeSum (f : Nat → Nat → Nat) : Nat → List Nat → Nat
  | 0, l => l.headD 0
  | n + 1, l => f (treeSum f n (l.take (2 ^ n))) (treeSum f n (l.drop (2 ^ n)))

/-- VRSUM of a register under a mask. -/
def rsum (ty : Ty) (mask : Nat) (v : VWord) : Nat :=
  treeSum (laneAdd ty) (Nat.log2 (lanes ty))
    ((List.range (lanes ty)).map (fun i => if active mask i then lane ty v i else 0))

/-- VRMAX of a register under a mask: NaN lanes are passed over. -/
def rmax (ty : Ty) (mask : Nat) (v : VWord) : Nat :=
  let l := ((List.range (lanes ty)).filter (fun i => active mask i)).map (fun i => lane ty v i)
  match l with
  | [] => if ty = .int32 then 2 ^ 31 else signBits (tyFmt ty) true + (tyFmt ty).infBits
  | x :: r => r.foldl (laneMax ty) (laneMax ty x x)

/-! ## Issue of a vector instruction (R107) -/

/-- A vector instruction of `len` words that writes Vd after its latency: stall cause 6 while a register it reads,
or Vd, waits for a result. -/
def vecOp (t : TileId) (h : Thr) (len : Nat) (vd : Reg) (reads : List Reg) (f : Tile → Thread → VWord)
    (s : State) : State :=
  withV t h (vd :: reads) (fun s =>
    let r := f (s.tile t) (s.th t h)
    s.finish t h (fun x => (x.pendV vd r).advance len)) s

/-- An arithmetic instruction of layout VW: `f` gives the lane result from lanes of Va, Vb and Vd. -/
def vArith (t : TileId) (h : Thr) (w : PWord) (ok : Bool) (vd va vb : Reg) (m : Mask) (ty : Ty)
    (f : Nat → Nat → Nat → Nat) (s : State) : State :=
  issue t h 2 (checked t h ok w (vecOp t h 2 vd [va, vb] (fun tl x =>
    let mask := maskBits tl h m (lanes ty)
    mergeLanes ty mask (x.getV vd)
      (fun i => f (lane ty (x.getV va) i) (lane ty (x.getV vb) i) (lane ty (x.getV vd) i))))) s

/-- An instruction that writes every lane of Vd from Va and the mask (R110). -/
def vWhole (t : TileId) (h : Thr) (w : PWord) (ok : Bool) (vd va : Reg) (m : Mask) (ty : Ty)
    (f : Nat → VWord → List Nat) (s : State) : State :=
  issue t h 2 (checked t h ok w (vecOp t h 2 vd [va] (fun tl x =>
    BitVec.ofNat 512 (ofLanes (laneW ty) (f (maskBits tl h m (lanes ty)) (x.getV va)))))) s

/-- A result in lane 0 and 0 in every other lane. -/
def laneZero (ty : Ty) (r : Nat) : List Nat := (List.range (lanes ty)).map (fun i => if i = 0 then r else 0)

/-- VADD (R110). -/
def execVadd (t : TileId) (h : Thr) (vd va vb : Reg) (m : Mask) (ty : Ty) (s : State) :
    Host.Outcome State Fault Refusal :=
  .next (vArith t h 0 true vd va vb m ty (fun a b _ => laneAdd ty a b) s)
/-- VSUB (R110). -/
def execVsub (t : TileId) (h : Thr) (vd va vb : Reg) (m : Mask) (ty : Ty) (s : State) :
    Host.Outcome State Fault Refusal :=
  .next (vArith t h 0 true vd va vb m ty (fun a b _ => laneSub ty a b) s)
/-- VMUL (R110). -/
def execVmul (t : TileId) (h : Thr) (vd va vb : Reg) (m : Mask) (ty : Ty) (s : State) :
    Host.Outcome State Fault Refusal :=
  .next (vArith t h 0 true vd va vb m ty (fun a b _ => laneMul ty a b) s)
/-- VFMA, rounded once (R110). -/
def execVfma (t : TileId) (h : Thr) (vd va vb : Reg) (m : Mask) (ty : Ty) (s : State) :
    Host.Outcome State Fault Refusal :=
  .next (vArith t h 0 true vd va vb m ty (fun a b c => laneFma ty a b c) s)
/-- VMAX (R110). -/
def execVmax (t : TileId) (h : Thr) (vd va vb : Reg) (m : Mask) (ty : Ty) (s : State) :
    Host.Outcome State Fault Refusal :=
  .next (vArith t h 0 true vd va vb m ty (fun a b _ => laneMax ty a b) s)
/-- VMIN (R110). -/
def execVmin (t : TileId) (h : Thr) (vd va vb : Reg) (m : Mask) (ty : Ty) (s : State) :
    Host.Outcome State Fault Refusal :=
  .next (vArith t h 0 true vd va vb m ty (fun a b _ => laneMin ty a b) s)
/-- VAND, INT32 only (R90, R110). -/
def execVand (t : TileId) (h : Thr) (vd va vb : Reg) (m : Mask) (ty : Ty) (s : State) :
    Host.Outcome State Fault Refusal :=
  .next (vArith t h (word1 7 6 vd va) (ty = .int32) vd va vb m ty (fun a b _ => a &&& b) s)
/-- VOR, INT32 only (R90, R110). -/
def execVor (t : TileId) (h : Thr) (vd va vb : Reg) (m : Mask) (ty : Ty) (s : State) :
    Host.Outcome State Fault Refusal :=
  .next (vArith t h (word1 7 7 vd va) (ty = .int32) vd va vb m ty (fun a b _ => a ||| b) s)
/-- VXOR, INT32 only (R90, R110). -/
def execVxor (t : TileId) (h : Thr) (vd va vb : Reg) (m : Mask) (ty : Ty) (s : State) :
    Host.Outcome State Fault Refusal :=
  .next (vArith t h (word1 7 8 vd va) (ty = .int32) vd va vb m ty (fun a b _ => a ^^^ b) s)
/-- VRSUM (R110). -/
def execVrsum (t : TileId) (h : Thr) (vd va : Reg) (m : Mask) (ty : Ty) (s : State) :
    Host.Outcome State Fault Refusal :=
  .next (vWhole t h 0 true vd va m ty (fun mask v => laneZero ty (rsum ty mask v)) s)
/-- VRMAX (R110). -/
def execVrmax (t : TileId) (h : Thr) (vd va : Reg) (m : Mask) (ty : Ty) (s : State) :
    Host.Outcome State Fault Refusal :=
  .next (vWhole t h 0 true vd va m ty (fun mask v => laneZero ty (rmax ty mask v)) s)
/-- VEXP (R110, R111). -/
def execVexp (t : TileId) (h : Thr) (vd va : Reg) (m : Mask) (ty : Ty) (s : State) :
    Host.Outcome State Fault Refusal :=
  .next (vWhole t h (word1 7 11 vd va) (ty ≠ .int32) vd va m ty (fun mask v =>
    (List.range (lanes ty)).map (fun i => if active mask i then expLane ty (lane ty v i) else 0)) s)
/-- VRCP (R110, R111). -/
def execVrcp (t : TileId) (h : Thr) (vd va : Reg) (m : Mask) (ty : Ty) (s : State) :
    Host.Outcome State Fault Refusal :=
  .next (vWhole t h (word1 7 12 vd va) (ty ≠ .int32) vd va m ty (fun mask v =>
    (List.range (lanes ty)).map (fun i => if active mask i then rcpLane ty (lane ty v i) else 0)) s)

end Sys2Proof.Machine
end

