-- ==== Sys2Proof/Machine/VectorMove.lean ====
section
/-! DEFINITION. Vector memory, lane movement, conversion and XS64 instructions (R106–R109, R112–R116). -/
namespace Sys2Proof.Machine

/-! ## Vector memory (R108) -/

/-- An access that must lie in the executing tile's own scratchpad: alignment and access checks, then `k` with the
local offset (R96, R183). -/
def ownAccess (t : TileId) (h : Thr) (a : DWord) (n al : Nat) (write : Bool) (k : Nat → State → State) (s : State) :
    State :=
  let va : VAddr := bits a 0 48
  if va.toNat % al ≠ 0 then s.raise t h cAlign 0 va
  else if 0x100000000 ≤ va.toNat then s.raise t h cAccess 0 va
  else match s.resolveLocal t va.toNat n write with
    | some (.own off) => k off s
    | _ => s.raise t h cAccess 0 va

/-- The common part of VLD and VST: Address Form, the empty mask, then the access. -/
def vecAccess (t : TileId) (h : Thr) (r an : Reg) (m : Mask) (ty : Ty) (dsp : BitVec 14) (write : Bool)
    (k : Nat → Nat → State → State) (s : State) : State :=
  issue t h 3 (withV t h [r] (fun s =>
    let a := (s.th t h).ea an dsp 64
    let mask := maskBits (s.tile t) h m (lanes ty)
    if 2 ^ 48 ≤ a.toNat then s.raise t h cForm 0 (bits a 0 48)
    else if mask = 0 then s.complete t h 3
    else ownAccess t h a 64 64 write (fun off s => k off mask s) s)) s

/-- VLD (R108). -/
def execVld (t : TileId) (h : Thr) (vd an : Reg) (m : Mask) (ty : Ty) (dsp : BitVec 14) (s : State) :
    Host.Outcome State Fault Refusal :=
  .next (vecAccess t h vd an m ty dsp false (fun off mask s =>
    withRead t h (bits ((s.th t h).ea an dsp 64) 0 48) off 64 (fun s =>
      let v : VWord := leBits 512 ((s.tile t).lmem.bytes off 64)
      s.finish t h (fun x =>
        (x.pendV vd (mergeLanes ty mask (x.getV vd) (fun i => lane ty v i))).advance 3)) s) s)

/-- The bytes of a register under a lane mask. -/
def maskedBytes (ty : Ty) (mask : Nat) (v : VWord) : List (Option Byte) :=
  (List.range 64).map (fun i => if active mask (i / (laneW ty / 8)) then some (bits v (8 * i) 8) else none)

/-- VST (R108). -/
def execVst (t : TileId) (h : Thr) (vs an : Reg) (m : Mask) (ty : Ty) (dsp : BitVec 14) (s : State) :
    Host.Outcome State Fault Refusal :=
  .next (vecAccess t h vs an m ty dsp true (fun off mask s =>
    let bs := maskedBytes ty mask ((s.th t h).getV vs)
    withWrite t h (bits ((s.th t h).ea an dsp 64) 0 48) off bs (fun s => s.complete t h 3) s) s)

/-! ## Lane movement (R109) -/

/-- VBC (R109). -/
def execVbc (t : TileId) (h : Thr) (vd x : Reg) (m : Mask) (ty : Ty) (s : State) : Host.Outcome State Fault Refusal :=
  .next (issue t h 2 (vecOp t h 2 vd [] (fun tl k =>
    mergeLanes ty (maskBits tl h m (lanes ty)) (k.getV vd) (fun _ => (k.getD x).toNat % 2 ^ laneW ty))) s)

/-- VEXT (R109). -/
def execVext (t : TileId) (h : Thr) (d va : Reg) (ln : BitVec 5) (ty : Ty) (s : State) :
    Host.Outcome State Fault Refusal :=
  .next (issue t h 2 (checked t h (!(tyWide ty && decide (16 ≤ ln.toNat))) (word1 6 3 d va) (withV t h [va] (fun s =>
    s.finish t h (fun x => (x.setD d (BitVec.ofNat 32 (lane ty (x.getV va) ln.toNat))).advance 2)))) s)

/-- VPERM (R109). -/
def execVperm (t : TileId) (h : Thr) (vd va vb : Reg) (m : Mask) (ty : Ty) (s : State) :
    Host.Outcome State Fault Refusal :=
  .next (issue t h 2 (vecOp t h 2 vd [va, vb] (fun tl k =>
    mergeLanes ty (maskBits tl h m (lanes ty)) (k.getV vd)
      (fun i => lane ty (k.getV va) (lane ty (k.getV vb) i % lanes ty)))) s)

/-- VSEL (R109). -/
def execVsel (t : TileId) (h : Thr) (vd va vb : Reg) (m : Mask) (ty : Ty) (s : State) :
    Host.Outcome State Fault Refusal :=
  .next (issue t h 2 (checked t h m.isSome (word1 6 5 vd va) (vecOp t h 2 vd [va, vb] (fun tl k =>
    mergeLanes ty (maskBits tl h m (lanes ty)) (k.getV vb) (fun i => lane ty (k.getV va) i)))) s)

/-- The condition of VCMP between two lanes (R70, R109). -/
def laneCmp (ty : Ty) (c : VCond) (a b : Nat) : Bool :=
  let x := laneVal ty a
  let y := laneVal ty b
  match c with
  | .eq => x.feq y
  | .ne => !(x.feq y)
  | .lt => x.lt y
  | .le => x.lt y || x.feq y
  | .gt => y.lt x
  | .ge => y.lt x || x.feq y

/-- The 32 result bits of VCMP, bit i for lane i. -/
def cmpBits (ty : Ty) (c : VCond) (va vb : VWord) : Nat :=
  ofLanes 1 ((List.range 32).map (fun i =>
    if i < lanes ty then b2n (laneCmp ty c (lane ty va i) (lane ty vb i)) else 0))

/-- VCMP: its result bits go to the run at the mask address (R109). -/
def execVcmp (t : TileId) (h : Thr) (cond : VCond) (va vb : Reg) (m : Mask) (ty : Ty) (s : State) :
    Host.Outcome State Fault Refusal :=
  .next (issue t h 2 (checked t h m.isSome (word1 6 6 (vcEnc cond) va) (withV t h [va, vb] (fun s =>
    let x := s.th t h
    (s.modTile t (fun tl => tl.setSeedRun h (m.getD 0 ++ (0#5)) (cmpBits ty cond (x.getV va) (x.getV vb)) 32)).complete
      t h 2))) s)

/-! ## Conversion (R112) -/

/-- VCVT of a packed register. -/
def convert (se de : Elem) (v : VWord) : VWord :=
  let ws := elemWidth se
  let wd := elemWidth de
  let n := 512 / max ws wd
  BitVec.ofNat 512 (ofLanes wd ((List.range n).map (fun i =>
    encodeElem de (decodeElem se (v.toNat / 2 ^ (ws * i) % 2 ^ ws)))))

/-- VCVT (R112). -/
def execVcvt (t : TileId) (h : Thr) (vd va : Reg) (se de : Elem) (s : State) : Host.Outcome State Fault Refusal :=
  .next (issue t h 2 (vecOp t h 2 vd [va] (fun _ k => convert se de (k.getV va))) s)

/-! ## XS64 (R113–R116) -/

/-- The largest magnitude of a converted element, 2^47 - 1 (R114). -/
def xsMax : Int := 140737488355327

/-- A value converted at exponent E: the stored element and whether it overflows (R113, R114). -/
def xsConvert (v : FVal) (e : Int) : Int × Bool :=
  match v with
  | .nan => (0, true)
  | .inf neg => (if neg then -xsMax else xsMax, true)
  | .fin neg m x =>
    let n := toIntRne neg m (x - e)
    if xsMax < n.natAbs then (if neg then -xsMax else xsMax, true) else (n, false)

/-- The sixteen elements of VXS; an inactive one is 0. -/
def xsElems (ty : Ty) (mask : Nat) (v : VWord) (e : Int) : List (Int × Bool) :=
  (List.range 16).map (fun i => if active mask i then xsConvert (laneVal ty (lane ty v i)) e else (0, false))

/-- A checksum register after residues are added (R115). -/
def addResidues (a : DWord) (l : List Int) : DWord :=
  BitVec.ofNat 64 ((a.toNat + (l.map residue).foldl (· + ·) 0) % mersenne)

/-- VXS (R113–R115). -/
def execVxs (t : TileId) (h : Thr) (vd va dk ac : Reg) (m : Mask5) (ty : Ty) (s : State) :
    Host.Outcome State Fault Refusal :=
  .next (issue t h 2 (checked t h (vd.toNat % 2 = 0) (word1 6 8 vd va) (withV t h [vd, vd + 1, va] (fun s =>
    let mask := maskBits5 (s.tile t) h m 16
    s.finish t h (fun x =>
      let es := xsElems ty mask (x.getV va) (x.getD dk).toInt
      let pair : BitVec 1024 := BitVec.ofNat 1024 (ofLanes 64 (es.map (fun p => (p.1 % 2 ^ 64).toNat)))
      let y := x.setA ac (addResidues (x.getA ac) (es.map (fun p => p.1)))
      let z := { y with st := { y.st with v := y.st.v || es.any (fun p => p.2) } }
      ((z.pendV vd (bits pair 0 512)).pendV (vd + 1) (bits pair 512 512)).advance 2)))) s)

/-- VXCK (R116). -/
def execVxck (t : TileId) (h : Thr) (va ac : Reg) (m : Mask5) (s : State) : Host.Outcome State Fault Refusal :=
  .next (issue t h 2 (withV t h [va] (fun s =>
    let mask := maskBits5 (s.tile t) h m 8
    s.finish t h (fun x =>
      let es := ((List.range 8).filter (fun i => active mask i)).map (fun i => (bits (x.getV va) (64 * i) 64).toInt)
      (x.setA ac (addResidues (x.getA ac) es)).advance 2))) s)

end Sys2Proof.Machine
end

