-- ==== Sys2Proof/Machine/TileReg.lean ====
section
/-! DEFINITION. Tile registers: shapes, movement, loads and stores (R124–R132, R144). -/
namespace Sys2Proof.Machine

/-- Bytes in use: R × L. -/
def TileReg.size (r : TileReg) : Nat := r.rows * r.len
/-- `n` bytes of a tile register from byte `o`. -/
def TileReg.get (r : TileReg) (o n : Nat) : Nat := r.bytes.toNat / 2 ^ (8 * o) % 2 ^ (8 * n)
/-- The register with `n` bytes from byte `o` replaced. -/
def TileReg.put (r : TileReg) (o n : Nat) (v : Nat) : TileReg :=
  { r with bytes := setBits r.bytes (8 * o) (8 * n) (BitVec.ofNat (8 * n) v) }
/-- Element `m` of width `w` in row `i` (R133). -/
def TileReg.elem (r : TileReg) (i m w : Nat) : Nat := r.bytes.toNat / 2 ^ (8 * (i * r.len) + w * m) % 2 ^ w

/-- An operation names a tile register: as C, A, B, mask tile or scale tile it uses (R127). -/
def MxOp.names (o : MxOp) (k : Reg) : Bool :=
  o.c = k || o.a = k || o.b = k || o.mask = .tile k || o.scaleA = some k || o.scaleB = some k
/-- An uncommitted operation names Tk. -/
def Tile.named (tl : Tile) (k : Reg) : Bool := tl.mx.any (fun o => o.names k)

/-- Any scale binding to Tk ends (R126, R128). -/
def Tile.unbind (tl : Tile) (k : Reg) : Tile :=
  { tl with scaleA := if tl.scaleA = some k then none else tl.scaleA,
            scaleB := if tl.scaleB = some k then none else tl.scaleB }

/-- A tile instruction in its slot: an Illegal Operand exception, or its effect on the tile. -/
def tileOp (t : TileId) (h : Thr) (len : Nat) (ill : Tile → Bool) (f : Tile → Tile) (s : State) : State :=
  if ill (s.tile t) then s.raise t h cOperand 0 0 else (s.modTile t f).complete t h len

/-- TCFG (R126, R127). -/
def execTcfg (t : TileId) (h : Thr) (k : Reg) (sh : BitVec 14) (s : State) : Host.Outcome State Fault Refusal :=
  .next (issue t h 2 (fun s =>
    let rows := (bits sh 8 6).toNat + 1
    let len := 4 * ((bits sh 0 8).toNat + 1)
    tileOp t h 2 (fun tl => decide (2048 < rows * len) || tl.named k)
      (fun tl => (tl.unbind k).modReg k (fun r => { r with rows := rows, len := len, tuse := false })) s) s)

/-- TZERO (R128). -/
def execTzero (t : TileId) (h : Thr) (k : Reg) (s : State) : Host.Outcome State Fault Refusal :=
  .next (issue t h 1 (tileOp t h 1 (fun _ => false)
    (fun tl => tl.modReg k (fun r => { r.put 0 r.size 0 with tuse := true }))) s)

/-- TFREE (R128). -/
def execTfree (t : TileId) (h : Thr) (k : Reg) (s : State) : Host.Outcome State Fault Refusal :=
  .next (issue t h 1 (tileOp t h 1 (fun tl => tl.named k)
    (fun tl => (tl.unbind k).modReg k (fun r => { r with tuse := false }))) s)

/-- An instruction that makes Td from Ts: its check, stall cause 4, then the bytes (R128, R129). -/
def tileFrom (t : TileId) (h : Thr) (len : Nat) (d x : Reg) (ill : TileReg → TileReg → Bool)
    (f : TileReg → TileReg → TileReg) (s : State) : State :=
  let tl := s.tile t
  if ill (tl.reg d) (tl.reg x) then s.raise t h cOperand 0 0
  else withT t h x true (fun s =>
    (s.modTile t (fun tl => tl.modReg d (fun r => { f r (tl.reg x) with tuse := true }))).complete t h len) s

/-- TMOV (R128). -/
def execTmov (t : TileId) (h : Thr) (d x : Reg) (s : State) : Host.Outcome State Fault Refusal :=
  .next (issue t h 1 (tileFrom t h 1 d x (fun rd rs => rd.rows ≠ rs.rows || rd.len ≠ rs.len)
    (fun rd rs => rd.put 0 rs.size (rs.get 0 rs.size))) s)

/-- A register with element (i, j) of width `w` given by a function, over its own shape. -/
def TileReg.fill (r : TileReg) (w : Nat) (f : Nat → Nat → Nat) : TileReg :=
  let n := 8 * r.len / w
  r.put 0 r.size (ofLanes w ((List.range (r.rows * n)).map (fun p => f (p / n) (p % n))))

/-- TTRN (R128). -/
def execTtrn (t : TileId) (h : Thr) (d x : Reg) (s : State) : Host.Outcome State Fault Refusal :=
  .next (issue t h 1 (tileFrom t h 1 d x
    (fun rd rs => d = x || rd.rows * 4 ≠ rs.len || rd.len ≠ 4 * rs.rows)
    (fun rd rs => rd.fill 32 (fun i j => rs.elem j i 32))) s)

/-- The source element type of TCVT (R128). -/
def cvtSource (ec : Elem) : Elem := if ec = .int32 || ec = .int8 then .int32 else .fp32

/-- TCVT (R128). -/
def execTcvt (t : TileId) (h : Thr) (d x : Reg) (ec : Elem) (s : State) : Host.Outcome State Fault Refusal :=
  .next (issue t h 2 (tileFrom t h 2 d x
    (fun rd rs => d = x || rd.rows ≠ rs.rows || rd.len * 32 ≠ rs.len * elemWidth ec)
    (fun rd rs => rd.fill (elemWidth ec) (fun i j => encodeElem ec (decodeElem (cvtSource ec) (rs.elem i j 32))))) s)

/-- TRDV (R128). -/
def execTrdv (t : TileId) (h : Thr) (vd k : Reg) (row : BitVec 6) (s : State) : Host.Outcome State Fault Refusal :=
  .next (issue t h 2 (fun s =>
    let r := (s.tile t).reg k
    if r.rows ≤ row.toNat then s.raise t h cOperand 0 0
    else withT t h k true (withV t h [vd] (fun s =>
      let v : VWord := BitVec.ofNat 512 (r.get (row.toNat * r.len) (min r.len 64))
      s.finish t h (fun x => (x.pendV vd v).advance 2))) s) s)

/-- TWRV (R128). -/
def execTwrv (t : TileId) (h : Thr) (k vs : Reg) (row : BitVec 6) (s : State) : Host.Outcome State Fault Refusal :=
  .next (issue t h 2 (fun s =>
    if ((s.tile t).reg k).rows ≤ row.toNat then s.raise t h cOperand 0 0
    else withV t h [vs] (fun s =>
      (s.modTile t (fun tl => tl.modReg k (fun r =>
        { r.put (row.toNat * r.len) (min r.len 64) ((tl.th h).getV vs).toNat with tuse := true }))).complete t h 2) s) s)

/-- MSCL: role false for A, true for B (R128). -/
def execMscl (t : TileId) (h : Thr) (k : Reg) (role : Bool) (s : State) : Host.Outcome State Fault Refusal :=
  .next (issue t h 1 (tileOp t h 1 (fun _ => false)
    (fun tl => if role then { tl with scaleB := some k } else { tl with scaleA := some k })) s)

/-! ## Tile loads and stores (R130–R132) -/

/-- The 64-bit address of row `r`. -/
def rowAddr (base : DWord) (stride : Word) (r : Nat) : DWord := base + stride.signExtend 64 * BitVec.ofNat 64 r

/-- The contiguous stretches of bytes `m` to `m + n - 1` of a transfer of rows of `len` bytes: address and length. -/
def stretches (base : DWord) (stride : Word) (len m n : Nat) : List (DWord × Nat) :=
  ((List.range (n / len + 2)).map (fun i =>
    let r := m / len + i
    let lo := max m (r * len)
    let hi := min (m + n) ((r + 1) * len)
    (rowAddr base stride r + BitVec.ofNat 64 (lo - r * len), hi - lo))).filter (fun p => 0 < p.2)

/-- The local offset of a stretch, in the own scratchpad. -/
def State.ownOff (s : State) (t : TileId) (a : DWord) (n : Nat) (write : Bool) : Option Nat :=
  if 0x100000000 ≤ a.toNat then none
  else match s.resolveLocal t a.toNat n write with
    | some (.own off) => some off
    | _ => none

/-- The checks of TLD and TST (R130): form and alignment of the transfer, then access of this slot's piece. -/
def State.pieceFault (s : State) (t : TileId) (base : DWord) (stride : Word) (rows : Nat)
    (st : List (DWord × Nat)) (write : Bool) : Option (BitVec 5 × DWord) :=
  let last := rowAddr base stride (rows - 1)
  if 2 ^ 48 ≤ base.toNat then some (cForm, base)
  else if 2 ^ 48 ≤ last.toNat then some (cForm, last)
  else if base.toNat % 4 ≠ 0 || stride.toNat % 4 ≠ 0 then some (cAlign, base)
  else match st.filter (fun p => (s.ownOff t p.1 p.2 write).isNone) with
    | p :: _ => some (cAccess, p.1)
    | [] => none

/-- The end of a slot of TLD or TST. -/
def Thread.pieceEnd (x : Thread) (moved total : Nat) (part : List Byte) : Thread :=
  if total ≤ moved then { x with moved := 0, part := [] }.advance 2 else { x with moved := moved, part := part }

/-- The slot of TLD (R131). DESIGN CHOICE (log 91): where a TCFG of another thread changes the shape of Tk between two pieces, the
transfer keeps the count of bytes that it has moved and goes on with the new row length and size; R132 names no outcome. -/
def execTld (t : TileId) (h : Thr) (k an x : Reg) (s : State) : Host.Outcome State Fault Refusal :=
  .next (issue t h 2 (fun s =>
    let th := s.th t h
    let r := (s.tile t).reg k
    let n := min 256 (r.size - th.moved)
    let st := stretches (th.getA an) (th.getD x) r.len th.moved n
    match s.pieceFault t (th.getA an) (th.getD x) r.rows st false with
    | some (c, a) => s.raise t h c 0 (bits a 0 48)
    | none =>
      let offs := st.map (fun p => ((s.ownOff t p.1 p.2 false).getD 0, p.2))
      let ws := offs.flatMap (fun p => (s.tile t).errWords p.1 p.2)
      withPort t h (fun s =>
        if ws.any (fun p => !p.2) then s.modTile t (fun tl => { (tl.fixWords 0 ws).stallOn h 7 with c7 := 2 })
        else match firstBad ws with
          | some w => s.lmFail t 0 w (some (t, h)) (some (bits (th.getA an) 0 48))
          | none =>
            let buf := th.part ++ offs.flatMap (fun p => (s.tile t).lmem.bytes p.1 p.2)
            let cnt := buf.length / r.len
            let r0 := (th.moved - th.part.length) / r.len
            let s1 := if cnt = 0 then s
              else s.modTile t (fun tl => tl.modReg k (fun r =>
                { r.put (r0 * r.len) (cnt * r.len) (leNat (buf.take (cnt * r.len))) with tuse := true }))
            s1.finish t h (fun y => y.pieceEnd (th.moved + n) r.size (buf.drop (cnt * r.len)))) s) s)

/-- The stretches of bytes `lo` to `hi - 1` of a transfer, cut also where its pieces of 256 bytes end (R131). -/
def pieceCuts (base : DWord) (stride : Word) (len lo hi : Nat) : List (DWord × Nat) :=
  (List.range (hi / 256 + 1 - lo / 256)).flatMap (fun i =>
    let a := max lo ((lo / 256 + i) * 256)
    let b := min hi ((lo / 256 + i + 1) * 256)
    stretches base stride len a (b - a))
/-- Each stretch with its bytes. -/
def withBytes : List (DWord × Nat) → List Byte → List (DWord × List Byte)
  | [], _ => []
  | p :: r, b => (p.1, b.take p.2) :: withBytes r (b.drop p.2)
/-- Stretches of a TST's completed rows, written to local memory; one whose partly covered word holds a double-bit error is
not written (R177). -/
def State.storeCuts (s : State) (t : TileId) : List (DWord × List Byte) → State
  | [] => s
  | (a, b) :: r =>
    let s1 := match s.ownOff t a b.length true with
      | some off =>
        if ((s.tile t).writeBad off (b.map some)).isSome then s
        else s.modTile t (fun tl => tl.lmWrite 0 off (b.map some))
      | none => s
    s1.storeCuts t r

/-- The slot of TST (R129, R131): the rows that it completes are stored. The stretches of such a row that earlier slots have
moved are checked again with this slot's piece. What a change of Tk's shape by another thread between two pieces does is the
choice that `execTld` names. -/
def execTst (t : TileId) (h : Thr) (k an x : Reg) (s : State) : Host.Outcome State Fault Refusal :=
  .next (issue t h 2 (fun s =>
    let th := s.th t h
    let r := (s.tile t).reg k
    let n := min 256 (r.size - th.moved)
    let buf := th.part ++ leBytes n (r.get th.moved n)
    let cnt := buf.length / r.len
    let r0 := (th.moved - th.part.length) / r.len
    let cuts := pieceCuts (th.getA an) (th.getD x) r.len (r0 * r.len) ((r0 + cnt) * r.len)
    let st := stretches (th.getA an) (th.getD x) r.len th.moved n ++ cuts
    let go (s : State) : State :=
      let out := withBytes cuts buf
      let bad := out.filterMap (fun p =>
        match s.ownOff t p.1 p.2.length true with
        | some off => (s.tile t).writeBad off (p.2.map some)
        | none => none)
      let s1 := (s.storeCuts t out).finish t h
        (fun y => y.pieceEnd (th.moved + n) r.size (buf.drop (cnt * r.len)))
      match bad with
      | w :: _ => s1.lmFail t 0 w none (some (bits (th.getA an) 0 48))
      | [] => s1
    match s.pieceFault t (th.getA an) (th.getD x) r.rows st true with
    | some (c, a) => if c = cAccess && th.moved = 0 && (s.tile t).tpnd k then withT t h k true go s
                     else s.raise t h c 0 (bits a 0 48)
    | none =>
      if th.moved = 0 then withT t h k true (withPort t h go) s else withPort t h go s) s)

end Sys2Proof.Machine
end

