-- ==== Sys2Proof/Machine/Matrix.lean ====
section
/-! DEFINITION. Matrix operations: shape checks, arithmetic, issue, start, commit and cords (R129, R133–R143,
R147–R157, R493, R494). -/
namespace Sys2Proof.Machine

/-! ## Types and shapes (R133, R134, R147) -/

/-- Element types of A and B. -/
def mtElems : Mt → Elem × Elem
  | .e4e4 => (.e4m3, .e4m3)
  | .e5e5 => (.e5m2, .e5m2)
  | .e4e5 => (.e4m3, .e5m2)
  | .e5e4 => (.e5m2, .e4m3)
  | .fp4 => (.fp4, .fp4)
  | .int8 => (.int8, .int8)
  | .bf16 => (.bf16, .bf16)
  | .fp16 => (.fp16, .fp16)

/-- Width of an element. -/
def mtWidth (m : Mt) : Nat := elemWidth (mtElems m).1
/-- Block scales act on FP8 and FP4 types (R147). -/
def mtScaled (m : Mt) : Bool := m ≠ .int8 && m ≠ .bf16 && m ≠ .fp16
/-- Logical elements per stored element. -/
def spFactor : Sp → Nat
  | .dense => 1
  | .s24 => 2
  | .s14 => 4

/-- Stored elements of a row of A. -/
def storedOf (mt : Mt) (len : Nat) : Nat := 8 * len / mtWidth mt
/-- Bytes of a mask row, whole 4-byte units. -/
def maskRow (ks : Nat) : Nat := ceilDiv (2 * ks) 32 * 4
/-- Bytes of a scale row. -/
def scaleRow (k : Nat) : Nat := ceilDiv (ceilDiv k 32) 4 * 4

/-- The shapes of R134 hold and the registers are distinct as R135 asks. -/
def Tile.mxOk (tl : Tile) (o : MxOp) : Bool :=
  let rc := tl.reg o.c
  let ra := tl.reg o.a
  let rb := tl.reg o.b
  let f := spFactor o.sp
  let ks := storedOf o.mt ra.len
  let k := f * ks
  let maskOk := match o.mask with
    | .none => true
    | .tile m =>
      let rm := tl.reg m
      rm.rows = rc.rows && rm.len = maskRow ks && m ≠ o.c && m ≠ o.a && m ≠ o.b
    | .seed a =>
      let n := rc.rows * (8 * maskRow ks)
      decide (a.toNat + n ≤ 0x200) || (decide (0x200 ≤ a.toNat) && decide (a.toNat + n ≤ 0x1F00))
  let scOk (sc : Option Reg) (rows : Nat) : Bool := match sc with
    | none => true
    | some r => (tl.reg r).rows = rows && (tl.reg r).len = scaleRow k && r ≠ o.c
  decide (rc.rows ≤ 16) && decide (rc.len / 4 ≤ 16) && rc.len % 4 = 0
    && ra.rows = rc.rows && ra.len % 16 = 0 && decide (ra.len * f ≤ 128)
    && rb.rows = rc.len / 4 && rb.len = f * ra.len && o.c ≠ o.a && o.c ≠ o.b
    && maskOk && scOk o.scaleA rc.rows && scOk o.scaleB (rc.len / 4)

/-! ## Arithmetic (R148–R151, R154–R157) -/

/-- The 2-bit index of stored element `s` of row `i` (R154, R156). -/
def Tile.maskIdx (tl : Tile) (o : MxOp) (ks i s : Nat) : Nat :=
  match o.mask with
  | .none => 0
  | .tile m => (tl.reg m).elem i s 2
  | .seed a =>
    let p := i * (8 * maskRow ks) + 2 * s
    tl.seedRun o.thr (a + BitVec.ofNat 13 p) 2

/-- The logical element of a stored one. -/
def logicalOf (sp : Sp) (idx s : Nat) : Nat :=
  match sp with
  | .dense => s
  | .s24 => 4 * (s / 2) + idx
  | .s14 => 4 * s + idx

/-- The value of an E8M0 scale byte; 0xFF is a NaN (R150). -/
def scaleVal (x : Nat) : FVal := if x = 255 then .nan else .fin false 1 ((x : Int) - 127)

/-- The scale of a row's block, 1 without a binding. -/
def Tile.scaleOf (tl : Tile) (sc : Option Reg) (row k : Nat) : FVal :=
  match sc with
  | none => .fin false 1 0
  | some r => scaleVal ((tl.reg r).elem row (k / 32) 8)

/-- Element (i, j) of the result, as 32 bits. -/
def Tile.mxElem (tl : Tile) (o : MxOp) (i j : Nat) : Nat :=
  let ra := tl.reg o.a
  let rb := tl.reg o.b
  let w := mtWidth o.mt
  let ks := storedOf o.mt ra.len
  let c := (tl.reg o.c).elem i j 32
  let e := mtElems o.mt
  let idx (s : Nat) : Nat := logicalOf o.sp (tl.maskIdx o ks i s) s
  if o.mt = .int8 then
    let sum := (List.range ks).foldl (fun (acc : Int) s =>
      acc + (BitVec.ofNat 8 (ra.elem i s w)).toInt * (BitVec.ofNat 8 (rb.elem j (idx s) w)).toInt)
      (if o.acc then (c : Int) else 0)
    (sum % 2 ^ 32).toNat
  else
    let start : FVal := if o.acc then decodeF fmtF32 c else .fin false 0 0
    let r := (List.range ks).foldl (fun (acc : FVal) s =>
      let k := idx s
      let p := (decodeElem e.1 (ra.elem i s w)).mul (decodeElem e.2 (rb.elem j k w))
      acc.add ((p.mul (tl.scaleOf o.scaleA i k)).mul (tl.scaleOf o.scaleB j k))) start
    match r with
    | .fin neg m x => if m = 0 then 0 else encodeF fmtF32 (.fin neg m x)
    | v => encodeF fmtF32 v

/-- The staged result: M rows of N elements, packed from bit 0 (R138). -/
def Tile.mxResult (tl : Tile) (o : MxOp) : BitVec 16384 :=
  let rc := tl.reg o.c
  let n := rc.len / 4
  BitVec.ofNat 16384 (ofLanes 32 ((List.range (rc.rows * n)).map (fun p => tl.mxElem o (p / n) (p % n))))

/-! ## Issue (R135, R137) -/

/-- A matrix instruction in its slot: Illegal Operand, stall cause 5, or entry into the unit. -/
def State.mxIssue (s : State) (t : TileId) (h : Thr) (len : Nat) (o : MxOp) : State :=
  let tl := s.tile t
  if !(tl.mxOk o) then s.raise t h cOperand 0 0
  else if 2 ≤ tl.mx.length then s.modTile t (fun tl => tl.stallOn h 5)
  else
    (s.modTile t (fun tl =>
      { tl with mx := tl.mx ++ [o] }.modReg o.c (fun r => { r with tuse := true }))).complete t h len

/-- The operation of an instruction, with the scale tiles in force. -/
def State.mxOp (s : State) (t : TileId) (h : Thr) (c a b : Reg) (sp : Sp) (mt : Mt) (acc : Bool) (mask : MaskSrc) :
    MxOp :=
  let tl := s.tile t
  let sc := mtScaled mt
  { c := c, a := a, b := b, sp := sp, mt := mt, acc := acc, mask := mask,
    scaleA := if sc then tl.scaleA else none, scaleB := if sc then tl.scaleB else none,
    thr := h, pc := (tl.th h).pc, result := none }

/-- MMA (R133, R135). -/
def execMma (t : TileId) (h : Thr) (c a b : Reg) (sp : Sp) (tm : Reg) (mt : Mt) (s : State) :
    Host.Outcome State Fault Refusal :=
  .next (issue t h 2 (checked t h (!(sp = .dense && tm ≠ 0)) (word1 9 0 c a) (fun s =>
    s.mxIssue t h 2 (s.mxOp t h c a b sp mt true (if sp = .dense then .none else .tile tm)))) s)
/-- MMAZ (R133, R135). -/
def execMmaz (t : TileId) (h : Thr) (c a b : Reg) (sp : Sp) (tm : Reg) (mt : Mt) (s : State) :
    Host.Outcome State Fault Refusal :=
  .next (issue t h 2 (checked t h (!(sp = .dense && tm ≠ 0)) (word1 9 1 c a) (fun s =>
    s.mxIssue t h 2 (s.mxOp t h c a b sp mt false (if sp = .dense then .none else .tile tm)))) s)
/-- MMAS (R133, R135, R156). -/
def execMmas (t : TileId) (h : Thr) (c a b : Reg) (sp : Sp) (mt : Mt) (sa : Seed) (s : State) :
    Host.Outcome State Fault Refusal :=
  .next (issue t h 3 (checked t h (sp ≠ .dense && sa.toNat % 32 = 0) (word1 9 2 c a) (fun s =>
    s.mxIssue t h 3 (s.mxOp t h c a b sp mt true (.seed sa)))) s)
/-- MWAIT: only stall cause 4 (R81, R129). -/
def execMwait (t : TileId) (h : Thr) (k : Reg) (s : State) : Host.Outcome State Fault Refusal :=
  .next (issue t h 1 (withT t h k false (fun s => s.complete t h 1)) s)

/-! ## Cords (R141–R143, R493, R494) -/

/-- Cords held by tiles of function `f` on Cob `c`. -/
def State.heldBy (s : State) (c : CobNo) (f : FuncNo) : Nat :=
  ((s.tilesOf f).filter (fun t => tileCob t = c && (s.tile t).cord)).length
/-- RES of a function on a Cob. -/
def State.resOf (s : State) (c : CobNo) (f : FuncNo) : Nat := (SMap.get 0 s.plan.res (16 * f.toNat + c.toNat)).toNat
/-- Every function number. -/
def allFuncs : List FuncNo := (List.range 32).map (fun i => BitVec.ofNat 5 i)
/-- Free cords of the common pool (R493). -/
def State.poolFree (s : State) (c : CobNo) : Int :=
  ((SMap.get 0 s.plan.budget c.toNat : Nat) : Int)
    - (allFuncs.map (fun f => ((max (s.resOf c f) (s.heldBy c f) : Nat) : Int))).foldl (· + ·) 0
/-- A claim by a tile can be granted (R493). -/
def State.canGrant (s : State) (t : TileId) : Bool :=
  match (s.tile t).func with
  | none => decide (0 < s.poolFree (tileCob t))
  | some f => decide (s.heldBy (tileCob t) f < s.resOf (tileCob t) f) || decide (0 < s.poolFree (tileCob t))

/-- The head operation starts: it reads its operands and stages its result (R138). -/
def Tile.mxStart (tl : Tile) : Tile :=
  match tl.mx with
  | o :: r => { tl with mx := { o with result := some (tl.mxResult o) } :: r }
  | [] => tl

/-- A claim among those that wait, in order of the cycle in which each was first made and then of tile ID (R494). -/
def insertClaim (x : Nat × TileId) : List (Nat × TileId) → List (Nat × TileId)
  | [] => [x]
  | y :: r => if y.1 < x.1 || (y.1 = x.1 && decide (y.2.toNat < x.2.toNat)) then y :: insertClaim x r else x :: y :: r
/-- A claim is granted: the tile holds a cord and its operation starts (R142). -/
def State.grantCord (s : State) (u : TileId) : State :=
  (s.dropClaim u).modTile u (fun tl =>
    let t1 := { tl.mxStart with cord := true }
    if bit t1.causes 3 then t1.stallOff 3 else t1)
/-- The controller's pass over claims in their order: each that can be granted is (R494). DEDUCED (log 104): rows of one core
cycle come one after another. -/
def State.grantPass (s : State) : List TileId → State
  | [] => s
  | u :: r => (if s.canGrant u then s.grantCord u else s).grantPass r

/-- MATRIX_START: a due operation starts on the tile's cord, or claims one. The new claim is considered after the older
ones; a refused claim waits under stall cause 3 (R137, R141, R142, R494, R514). -/
def execMatrixStart (t : TileId) (s : State) : Host.Outcome State Fault Refusal :=
  .next (match (s.tile t).mx with
    | [] => s
    | o :: _ =>
      let c := tileCob t
      if o.result.isSome || (s.cob c).claims.any (fun u => u.2 = t) then s
      else if (s.tile t).cord then s.modTile t (fun tl => tl.mxStart.touch)
      else
        let s1 := (s.modTile t (fun tl => tl.pm 0x12 1)).modCob c (fun x => { x with claims := insertClaim (x.cyc, t) x.claims })
        let s2 := s1.grantPass ((s1.cob c).claims.map (fun u => u.2))
        if (s2.tile t).cord then s2
        else
          (s2.modCob c (fun x => { x with refuse := satAdd x.refuse 1 })).modTile t
            (fun tl =>
              ({ tl with causes := setBit tl.causes 3 true, slotOwner := if tl.causes = 0 then o.thr else tl.slotOwner
                }).hazard s.debug 3 o.thr o.pc 0 0))

/-- CORD_GRANT: the first waiting claim that can be granted gets its cord, and its operation starts (R142, R494). -/
def execCordGrant (t : TileId) (s : State) : Host.Outcome State Fault Refusal :=
  .next (match ((s.cob (tileCob t)).claims.filter (fun u => s.canGrant u.2)).head? with
    | some u => if u.2 = t then s.grantCord t else s
    | none => s)

/-- MATRIX_COMMIT: Tc is written at once, TPND clears, and the cord is released or passed on (R138, R141). -/
def execMatrixCommit (t : TileId) (s : State) : Host.Outcome State Fault Refusal :=
  .next (match (s.tile t).mx with
    | o :: r => match o.result with
      | some v => s.modTile t (fun tl =>
          let t1 := { (tl.pm 0x10 1).modReg o.c (fun x => x.put 0 x.size v.toNat) with mx := r, cord := !r.isEmpty }
          let t2 := if bit t1.causes 5 then t1.stallOff 5 else t1
          if bit t2.causes 4 && !(t2.tpnd t2.c4) then t2.stallOff 4 else t2)
      | none => s
    | [] => s)

end Sys2Proof.Machine
end

