-- ==== Sys2Proof/Machine/Fabric.lean ====
section
/-! DEFINITION. The routes of the control network, the data mesh and the Kilns, and the die links that they cross
(R11–R13, R254, R261, R263, R267, R271–R273, R523). -/
namespace Sys2Proof.Machine

/-! ## Routes (R254, R261) -/

/-- An end of a transfer: a tile, a slice in its memory interface, a Cob's control port, or a Husk. -/
inductive FabEnd
  | tile (t : TileId)
  | slice (i : Nat)
  | port (c : CobNo)
  | husk (second : Bool)
  deriving DecidableEq, Repr

/-- Row and column of a tile in its Cob (R3). -/
def tileRow (t : TileId) : Nat := t.toNat / 16 % 16
def tileCol (t : TileId) : Nat := t.toNat % 16
/-- The tile of a Cob at a row and a column. -/
def tileAt (c : CobNo) (row col : Nat) : TileId := BitVec.ofNat 12 (256 * c.toNat + 16 * row + col)

/-- The die of an end: Cob c as c, Husk h as 16 + h. -/
def FabEnd.die : FabEnd → Nat
  | .tile t => (tileCob t).toNat
  | .slice i => sliceCob i
  | .port c => c.toNat
  | .husk b => 16 + b2n b
/-- The data link of a die to a Kiln, and its control link to Kiln 0 (R523). -/
def dataLink (d : Nat) (kiln1 : Bool) : Nat := if d < 16 then d + 16 * b2n kiln1 else 48 + 2 * (d - 16) + b2n kiln1
def ctlLink (d : Nat) : Nat := if d < 16 then 32 + d else 52 + (d - 16)

/-- The Kiln that a request from `a` to `b` crosses while both carry traffic (R261). -/
def viaKiln1 : FabEnd → FabEnd → Bool
  | .tile x, .tile y => 14 < tileCol x + tileCol y
  | .tile x, _ => 7 < tileCol x
  | _, .tile y => 7 < tileCol y
  | _, .slice i => i % 2 = 1
  | _, _ => false

/-- The die links of a route in order, each with true towards the Kiln; none inside one die (R11, R13, R261). -/
def crossing (data kiln1 : Bool) (a b : FabEnd) : List (Nat × Bool) :=
  if a.die = b.die then []
  else if data then
    let k := kiln1 && viaKiln1 a b
    [(dataLink a.die k, true), (dataLink b.die k, false)]
  else [(ctlLink a.die, true), (ctlLink b.die, false)]
/-- A reply takes the reverse of the request's route (R261). -/
def crossBack (l : List (Nat × Bool)) : List (Nat × Bool) := (l.map (fun p => (p.1, !p.2))).reverse

/-- Numbers from `a` to `b`, in either direction. -/
def walkTo (a b : Nat) : List Nat :=
  if a ≤ b then (List.range (b + 1 - a)).map (fun i => a + i) else (List.range (a + 1 - b)).map (fun i => a - i)
/-- The data-mesh routers of a transfer between tiles, in order: row first and then column in one Cob, else along the
source row to an edge and along the destination row from the same edge (R261). -/
def meshPath (x y : TileId) : List TileId :=
  if tileCob x = tileCob y then
    (walkTo (tileCol x) (tileCol y)).map (fun c => tileAt (tileCob x) (tileRow x) c)
      ++ ((walkTo (tileRow x) (tileRow y)).tail).map (fun r => tileAt (tileCob x) r (tileCol y))
  else
    let e := if 14 < tileCol x + tileCol y then 15 else 0
    (walkTo (tileCol x) e).map (fun c => tileAt (tileCob x) (tileRow x) c)
      ++ (walkTo e (tileCol y)).map (fun c => tileAt (tileCob y) (tileRow y) c)

/-- The end at which a party lies: engines 0 and 1, the timebase and the management controller are on Husk 0 (R10, R327). -/
def Party.fabEnd : Party → FabEnd
  | .tile t => .tile t
  | .cmd b => .husk b
  | .mgmt => .husk false
  | .husk e => .husk (bit e 1)
  | .timebase => .husk false
/-- The end at which a register lies (R327, R550). -/
def blkEnd : Blk → FabEnd
  | .ct t _ => .tile t
  | .qt t _ => .tile t
  | .ce t _ => .tile t
  | .winv c _ => .port c
  | .cd c _ => .port c
  | .hce e _ => .husk (bit e 1)
  | _ => .husk false
/-- The end of a thread's access, and whether it uses the data network; a tile's own blocks use none (R550). -/
def Target.fabEnd (t : TileId) : Target → Bool × FabEnd
  | .own _ => (true, .tile t)
  | .remote u _ _ => (true, .tile u)
  | .hbm pa => (true, .slice (sliceOf pa))
  | .csr pa => match csrBlk pa with
    | some b => (false, blkEnd b)
    | none => (false, .tile t)
/-- The end of one side of a chunk; a CXL link and a port lie on the Husk of their number (R299, R435). -/
def EngTo.fabEnd (own : FabEnd) (cxl : Nat → Option Nat) (route : Option PortNo) : EngTo → FabEnd
  | .own _ => own
  | .remote u _ _ => .tile u
  | .hbm pa => .slice (sliceOf pa)
  | .cxl pa => match cxl pa with
    | some l => .husk (decide (4 ≤ l))
    | none => own
  | .route _ _ => match route with
    | some p => .husk (bit p 1)
    | none => own
  | .host _ => match route with
    | some p => .husk (bit p 1)
    | none => own

/-! ## Transfers in flight -/

/-- The die links that a packet's route crosses. -/
def State.pktRoute (s : State) (p : Pkt) : List (Nat × Bool) := crossing (p.net = 3) s.pw.viaK1 p.src.fabEnd p.dst.fabEnd
/-- Those of a thread's request to a target. -/
def State.reqRoute (s : State) (t : TileId) (g : Target) : List (Nat × Bool) :=
  let e := g.fabEnd t
  crossing e.1 s.pw.viaK1 (.tile t) e.2
/-- The end of an engine. -/
def engEnd : Eng → FabEnd
  | .tile t => .tile t
  | .husk e => .husk (bit e 1)

/-! ## Frames and their check (R271) -/

/-- Links of the part (R523), and those of the control network. -/
def isLink (l : DLink) : Bool := l.toNat < 54
def isControl (l : Nat) : Bool := (decide (32 ≤ l) && decide (l < 48)) || l = 52 || l = 53
/-- Sequence numbers of a link, and the frames of its replay buffer (R271). -/
def linkSeqs (l : Nat) : Nat := if isControl l then 256 else 1024
def linkBuffer (l : Nat) : Nat := if isControl l then 32 else 64

/-- The check of a frame's bytes (R271). -/
def frameCheck (control : Bool) (b : List Byte) : List Byte := if control then bytesOf (crc16 b) 2 else bytesOf (crc32 b) 4
/-- A frame on the wire: sequence number, slots and check, in an order that R271 does not state. DESIGN CHOICE (log 80). -/
def DieFrame.wire (f : DieFrame) (control : Bool) : List Byte :=
  let b := bytesOf f.seq 2 ++ f.slots
  b ++ frameCheck control b
/-- The check of received bytes holds. -/
def goodFrame (control : Bool) (b : List Byte) : Bool :=
  let n := b.length - (if control then 2 else 4)
  b.drop n = frameCheck control (b.take n)
/-- Bytes with noise on the wire: a bit of the noise inverts one. -/
def noisy : List Byte → List Byte → List Byte
  | b :: r, n :: k => (b ^^^ n) :: noisy r k
  | b, _ => b

/-! ## One direction of a link (R272) -/

/-- The next sequence number of a link. -/
def nextSeq (l : Nat) (q : BitVec 10) : BitVec 10 := BitVec.ofNat 10 ((q.toNat + 1) % linkSeqs l)
/-- The sender has the next frame on the wire: one of its replay buffer, else a new one, which enters the buffer if it has
room. -/
def DieDir.send (x : DieDir) (l : Nat) (slots : List Byte) (carries : List Xid) : DieDir :=
  if x.sent < x.buf.length || linkBuffer l ≤ x.buf.length then x
  else { x with buf := x.buf ++ [{ seq := x.txSeq, slots := slots, carries := carries }], txSeq := nextSeq l x.txSeq }
/-- The frame on the wire reaches the receiver: it is delivered and acknowledged, with every earlier one, or discarded, and
a replay is asked for. True when its check failed. -/
def DieDir.receive (x : DieDir) (l : Nat) (noise : List Byte) : DieDir × Bool :=
  match x.buf[x.sent]? with
  | none => (x, false)
  | some f =>
    let got := noisy (f.wire (isControl l)) noise
    if !(goodFrame (isControl l) got) then
      ({ x with sent := x.sent + 1, asked := true, fails := if x.sent = 0 then x.fails + 1 else x.fails }, true)
    else if (leBits 10 (got.take 2) : BitVec 10) = x.rxSeq then
      ({ x with buf := x.buf.drop (x.sent + 1), sent := 0, rxSeq := nextSeq l x.rxSeq, fails := 0 }, false)
    else ({ x with sent := x.sent + 1, asked := true }, false)
/-- The sender replays from the first frame that is not acknowledged. -/
def DieDir.again (x : DieDir) : DieDir := { x with sent := 0, asked := false }
/-- A direction of a link. -/
def DieLnk.dir (x : DieLnk) (up : Bool) : DieDir := if up then x.up else x.down
def DieLnk.setDir (x : DieLnk) (up : Bool) (d : DieDir) : DieLnk := if up then { x with up := d } else { x with down := d }

/-! ## Transfers that the fabric holds (R263, R267, R272, R273) -/

/-- A link holds transfer `k` on its way: it retrains, a replay is due, or a frame with flits of it is not delivered. -/
def State.linkHolds (s : State) (k : Xid) (l : Nat × Bool) : Bool :=
  let x := s.link (BitVec.ofNat 6 l.1)
  let d := x.dir l.2
  x.retraining || d.asked || d.buf.any (fun f => f.carries.contains k)
/-- The fabric holds transfer `k` of a route: at a link, or new data for the Kilns during a change of routes. -/
def State.fabricHolds (s : State) (k : Xid) (data : Bool) (route : List (Nat × Bool)) : Bool :=
  route.any (fun l => s.linkHolds k l)
    || (data && route ≠ [] && (match s.pw.routeHold with
        | some l => !(l.contains k)
        | none => false))

/-- A packet of the network is held. -/
def State.pktHeld (s : State) (p : Pkt) : Bool := s.fabricHolds (p.id, false) (p.net = 3) (s.pktRoute p)
/-- A thread's request is held, or the reply to it. -/
def State.reqHeld (s : State) (t : TileId) (id : Nat) (g : Target) : Bool :=
  s.fabricHolds (id, false) (g.fabEnd t).1 (s.reqRoute t g)
def State.replyHeld (s : State) (t : TileId) (id : Nat) (g : Target) : Bool :=
  s.fabricHolds (id, true) (g.fabEnd t).1 (crossBack (s.reqRoute t g))

end Sys2Proof.Machine
end

