-- ==== Sys2Proof/Machine/QueueOps.lean ====
section
/-! DEFINITION. The shared operations of queues, messages, credit and ricks (R208–R241, R336–R339, R516, R552, R553). -/
namespace Sys2Proof.Machine

/-! ## Handles, sizes and headers (R208–R213) -/

def hQid (h : Word) : BitVec 16 := bits h 0 16
def hTile (h : Word) : TileId := bits h 4 12
def hQix (h : Word) : QIx := bits h 0 4
def hEpoch (h : Word) : Byte := bits h 24 8
/-- A handle whose bits [23:16] are not zero is refused (R208). -/
def badHandle (h : Word) : Bool := bits h 16 8 ≠ 0
/-- Ring bytes of a message of `n` payload words (R210). -/
def ringBytes (n : Nat) : Nat := ceilDiv (4 * (n + 1)) 8 * 8
/-- Bytes of a queue's ring (R209). -/
def Queue.size (k : Queue) : Nat := 64 * 2 ^ k.rsize.toNat
/-- Ring bytes that no message and no skip marker occupies. -/
def Queue.room (k : Queue) : Nat := k.size - k.used
/-- The credit pool (R219). -/
def Queue.pool (k : Queue) : Int := (k.room : Int) - k.granted - 24
/-- The header word (R212). -/
def Msg.header (m : Msg) : Word := m.kind ++ BitVec.ofNat 2 (m.payload.length - 1) ++ m.sender ++ m.tag
/-- Ring bytes of a message. -/
def Msg.ring (m : Msg) : Nat := ringBytes m.payload.length
/-- ETYPE of a rick contribution (R213). -/
def etype (tag : BitVec 16) : BitVec 2 := bits tag 14 2
/-- ETYPE is reserved, or XS64 with an odd number of words (R216, R234). -/
def badEtype (tag : BitVec 16) (words : Nat) : Bool := etype tag = 3 || (etype tag = 2 && words % 2 = 1)

/-! ## Scopes (R337, R516) -/

/-- Rank of a release scope: none, thread, tile, Cob, package, system. -/
def scopeRank : Option Scope → Nat
  | none => 0
  | some .thread => 1
  | some .tile => 2
  | some .cob => 3
  | some .package => 4
  | some .system => 5
/-- The narrowest scope that holds a sender and the owner tile; package for a Husk source. -/
def scopeNeeded (sender : Option TileId) (owner : TileId) : Scope :=
  match sender with
  | none => .package
  | some t => if t = owner then .tile else if tileCob t = tileCob owner then .cob else .package
/-- A message is covered when its scope is at least the scope needed. -/
def covered (rel : Option Scope) (need : Scope) : Bool := scopeRank (some need) ≤ scopeRank rel
/-- The wider of two scopes. -/
def widest (a b : Scope) : Scope := if scopeRank (some a) < scopeRank (some b) then b else a

/-! ## Packets (R224, R226, R255, R263) -/

/-- The party of a sending side. -/
def senderParty : Sender → Party
  | .tile t => .tile t
  | .cmd b => .cmd b
  | .mgmt => .mgmt
/-- The sending side of a party that has one. -/
def partySender : Party → Option Sender
  | .tile t => some (.tile t)
  | .cmd b => some (.cmd b)
  | .mgmt => some .mgmt
  | _ => none

/-- A packet enters a network. -/
def State.sendPkt (s : State) (src dst : Party) (net : BitVec 2) (body : Body) (hold after : List Nat) : State :=
  { s with nextId := s.nextId + 1, net := s.net ++ [{ id := s.nextId, src := src, dst := dst, net := net, body := body,
                                                      hold := hold, after := after }] }

/-- The sources of a packet: those of a combined contribution are its contributors. -/
def Pkt.sources (p : Pkt) : List Party :=
  match p.body with
  | .rick _ who _ => who.map (fun c => c.src)
  | _ => [p.src]
/-- The queue that a message or contribution goes to. -/
def Pkt.queue (p : Pkt) : Option (BitVec 16) :=
  match p.body with
  | .msg m => some (hQid m.handle)
  | .rick m _ _ => some (hQid m.handle)
  | _ => none
/-- A packet that has left its source: no release and no earlier message holds it (R226, R339). -/
def Pkt.sent (p : Pkt) : Bool := p.hold = [] && p.after = []
/-- An earlier packet that the later one `p` follows: one network, class, source and destination (R263), or one
sender's messages to one queue in commit order (R226). -/
def Pkt.before (o p : Pkt) : Bool :=
  o.sources.any (fun x => p.sources.contains x) && o.dst = p.dst && o.net = p.net
    && (o.sent || (o.queue.isSome && o.queue = p.queue))
/-- Packet `id` when it can be delivered: it has left, no die link holds it, and nothing goes before it. -/
def State.packet (s : State) (id : Nat) : Option Pkt :=
  match s.net.filter (fun p => p.id = id) with
  | p :: _ =>
    if p.sent && !(s.pktHeld p) && !((s.net.takeWhile (fun o => o.id ≠ id)).any (fun o => o.before p)) then some p else none
  | [] => none
/-- A packet leaves the network. -/
def State.dropPkt (s : State) (id : Nat) : State := { s with net := s.net.filter (fun p => p.id ≠ id) }

/-! ## The sending side: tags and credit (R217, R218, R220, R552) -/

/-- The lowest free response tag of 64. -/
def SendSide.freeTag (x : SendSide) : Option Nat :=
  ((List.range 64).filter (fun i => !(x.sent.any (fun e => e.tag = i)))).head?
/-- Free response tags. -/
def SendSide.freeTags (x : SendSide) : Nat := 64 - x.sent.length
/-- Entry `i` of the credit cache. -/
def SendSide.entry (x : SendSide) (i : Nat) : Cred := SMap.get {} x.cred i
def SendSide.modEntry (x : SendSide) (i : Nat) (f : Cred → Cred) : SendSide :=
  { x with cred := SMap.modify {} x.cred i f }
/-- The entry for a handle. -/
def SendSide.find (x : SendSide) (h : Word) : Option Nat :=
  ((List.range 16).filter (fun i =>
    (x.entry i).valid && (x.entry i).qid = hQid h && (x.entry i).epoch = hEpoch h)).head?
/-- Credit for `m` bytes to a handle is there, or its entry is marked refused (R218, R552). -/
def SendSide.ready (x : SendSide) (h : Word) (m : Nat) : Bool :=
  match x.find h with
  | some i => (x.entry i).refused || decide (m ≤ (x.entry i).bytes)
  | none => false
/-- The handle's messages leave with credit. -/
def SendSide.credited (x : SendSide) (h : Word) : Bool :=
  match x.find h with
  | some i => !(x.entry i).refused
  | none => false
/-- A message of `m` bytes uses the entry. -/
def SendSide.use (x : SendSide) (h : Word) (m : Nat) : SendSide :=
  match x.find h with
  | some i =>
    { x.modEntry i (fun e => { e with bytes := if e.refused then e.bytes else e.bytes - m, lastUse := x.useCtr + 1 })
      with useCtr := x.useCtr + 1 }
  | none => x
/-- The entry that a new handle takes: a free one, else the least recently used without a request outstanding. DESIGN
CHOICE (log 95): of several free entries the lowest-numbered is taken, which R218 leaves open. -/
def SendSide.room (x : SendSide) : Option Nat :=
  match (List.range 16).filter (fun i => !(x.entry i).valid) with
  | i :: _ => some i
  | [] =>
    ((List.range 16).filter (fun i => !(x.entry i).req)).foldl (fun b i =>
      match b with
      | none => some i
      | some j => if (x.entry i).lastUse < (x.entry j).lastUse then some i else some j) none

/-- Bytes travel back to a queue (R220). -/
def State.creditBack (s : State) (u : Sender) (h : Word) (n : Nat) : State :=
  if n = 0 then s else s.sendPkt (senderParty u) (.tile (hTile h)) 1 (.credRet h n) [] []
/-- The handle of an entry. -/
def Cred.handle (e : Cred) : Word := e.epoch ++ (0#8) ++ e.qid
/-- An entry is returned and freed. -/
def State.returnEntry (s : State) (u : Sender) (i : Nat) : State :=
  let e := (s.sendSide u).entry i
  if !e.valid then s
  else (s.modSend u (fun x => x.modEntry i (fun _ => {}))).creditBack u e.handle e.bytes

/-- Credit for `m` bytes to a handle is missing: one request is sent unless one is outstanding or no entry can be
taken (R218). DESIGN CHOICE (log 95): the allocation of an entry, here, and the landing of its grant (`State.landGrant`) count as
uses in the least-recently-used order, as a message's leaving does; R218 does not say. -/
def State.askCredit (s : State) (u : Sender) (h : Word) (m : Nat) (f : Option FuncNo) : State :=
  let x := s.sendSide u
  let ask (s : State) : State := s.sendPkt (senderParty u) (.tile (hTile h)) 2 (.credReq h m f) [] []
  match x.find h with
  | some i =>
    if (x.entry i).req || (x.entry i).refused then s
    else ask (s.modSend u (fun y => y.modEntry i (fun e => { e with req := true })))
  | none =>
    match x.room with
    | none => s
    | some i =>
      ask ((s.returnEntry u i).modSend u (fun y =>
        { y.modEntry i (fun _ => { valid := true, qid := hQid h, epoch := hEpoch h, bytes := 0, req := true,
                                   refused := false, lastUse := y.useCtr + 1 }) with useCtr := y.useCtr + 1 }))

/-- Response tags of earlier messages to a queue on the other network that are not answered (R226). -/
def SendSide.others (x : SendSide) (qid : BitVec 16) (mesh : Bool) : List Nat :=
  (x.sent.filter (fun e => e.mesh ≠ mesh && e.handles.any (fun h => hQid h = qid))).map (fun e => e.tag)

/-- A message or contribution is committed: it takes a response tag and leaves, held by `hold` (R217, R224, R226,
R339). Nothing happens without a free tag. -/
def State.emit (s : State) (u : Sender) (owner : Owner) (m : Msg) (contrib : Bool) (hold : List Nat) : State :=
  let x := s.sendSide u
  match x.freeTag with
  | none => s
  | some tag =>
    let mesh := contrib || decide (2 ≤ m.payload.length)
    let qid := hQid m.handle
    let k := { m with rtag := tag }
    let sender : Option TileId := match u with
      | .tile t => some t
      | _ => none
    let need := scopeNeeded sender (hTile m.handle)
    let body : Body := if contrib then
        .rick k [{ src := senderParty u, tag := tag, covered := covered m.relScope need, needed := need }] none
      else .msg k
    let s1 := s.sendPkt (senderParty u) (.tile (hTile m.handle)) (if mesh then 3 else 2) body hold (x.others qid mesh)
    s1.modSend u (fun y => { y with sent := y.sent ++ [{ tag := tag, owner := owner, handles := [m.handle],
                                                         mesh := mesh, left := 1 }] })

/-- A message of a tile's thread. -/
def State.threadMsg (s : State) (t : TileId) (h : Thr) (kind : BitVec 2) (tag : BitVec 16) (payload : List Word)
    (handle : Word) (cred : Bool) : Msg :=
  { kind := kind, sender := t, origin := 0, func := (s.tile t).func, tag := tag, payload := payload, handle := handle,
    credited := cred, rtag := 0, relScope := (s.th t h).relScope }

/-! ## Placement in the ring (R221–R223) -/

/-- Bytes from WR to the end of the ring. -/
def Queue.tail (k : Queue) : Nat := k.size - k.wr
/-- Bytes that a skip marker fills before a message of `m` ring bytes. -/
def Queue.skip (k : Queue) (m : Nat) : Nat := if k.tail < m then k.tail else 0
/-- The contiguous room for `m` ring bytes is free. -/
def Queue.fits (k : Queue) (m : Nat) : Bool := decide (k.skip m + m ≤ k.room)
/-- Offset of the ring in local memory. -/
def Queue.base (k : Queue) : Nat := k.rbase.toNat * 64

/-- The queue hardware writes bytes into local memory (R177, R223). -/
def State.ringWrite (s : State) (t : TileId) (off : Nat) (bs : List Byte) : State :=
  match (s.tile t).writeBad off (bs.map some) with
  | some k => s.lmFail t 1 k none none
  | none => s.modTile t (fun tl => tl.lmWrite 1 off (bs.map some))

/-- A data message that travels on the data mesh (R224): its ring write passes through the inbound write buffer, where a
position event's, a one-word message's and a rick result's does not (R180, R223). -/
def Msg.mesh (m : Msg) : Bool := m.kind = 0 && 2 ≤ m.payload.length

/-- The queue's state after placement (R221). -/
def Queue.placed (k : Queue) (m : Msg) (need : Scope) (cov : Bool) : Queue :=
  let b := m.ring
  let sk := k.skip b
  { k with
    wr := if k.tail < b then b else (k.wr + b) % k.size
    used := k.used + sk + b
    granted := if m.credited then k.granted - b else k.granted
    msgs := k.msgs ++ [{ skip := sk, size := 4 * (m.payload.length + 1), origin := m.origin, sender := m.sender,
                         relScope := m.relScope, needed := need, coveredAll := cov, seen := !m.mesh }] }

/-- The inbound write buffer can take the ring write of a message (R180). -/
def Tile.admits (tl : Tile) (m : Msg) : Bool := !m.mesh || decide (tl.inbuf.length < 16)

/-- A message is placed in ring `q` of tile `t` (R221, R223). The skip marker, and the bytes of a message that has not come
on the data mesh, are written directly; a mesh message is visible once its write has left the inbound buffer. -/
def State.placeMsg (s : State) (t : TileId) (q : QIx) (m : Msg) (need : Scope) (cov : Bool) : State :=
  let k := (s.tile t).queue q
  let sk := k.skip m.ring
  let s1 := if sk = 0 then s
    else s.ringWrite t (k.base + k.wr) (bytesOf (0xC0000000#32 + BitVec.ofNat 32 sk) 4)
  let off := k.base + (if sk = 0 then k.wr else 0)
  let bs := wordBytes (m.header :: m.payload)
  let s2 := if m.mesh then s1.modTile t (fun tl => { tl with inbuf := tl.inbuf ++ [{ off := off, bytes := bs, what := .ring q }] })
    else s1.ringWrite t off bs
  s2.modTile t (fun tl =>
    let t1 := (tl.pm 0x21 1).modQueue q (fun k => k.placed m need cov)
    if m.kind = 2 then { t1 with pev := setBit t1.pev q.toNat true } else t1)

/-! ## Responses and checks (R225, R227, R231, R552, R553) -/

/-- A response leaves the owner tile for the sender. -/
def State.respond (s : State) (t : TileId) (to_ : Party) (tag : Nat) (r : Resp) : State :=
  s.sendPkt (.tile t) to_ 1 (.resp tag r) [] []
/-- A credit request is answered with a refusal (R552). -/
def State.refuse (s : State) (t : TileId) (to_ : Party) (h : Word) : State :=
  s.sendPkt (.tile t) to_ 1 (.grant h 0 true) [] []

/-- Checks 1 to 5 of R225; a tile of the owner's function or a Husk source with EXT passes check 2. -/
def Queue.check (k : Queue) (mayReach : Bool) (epoch : Byte) (kind : BitVec 2) : Option Resp :=
  if !k.en then some .stale
  else if !mayReach then some .stale
  else if epoch ≠ k.epoch then some .stale
  else if k.closed then some .closed
  else if (kind = 1) ≠ k.mode then some .stale
  else none

/-- Check 2 for one source. -/
def State.mayReach (s : State) (t : TileId) (q : QIx) (src : Party) (f : Option FuncNo) : Bool :=
  match src with
  | .tile _ => f = (s.tile t).func
  | _ => ((s.tile t).queue q).ext
/-- A failed function's queues answer every message STALE (R368). -/
def State.ownerFailed (s : State) (t : TileId) : Bool :=
  match (s.tile t).func with
  | some f => (s.func f).st = .failed
  | none => false

/-- A message is discarded: counted, and its credit of the queue's own epoch taken out of granted (R225). -/
def Queue.discard (k : Queue) (m : Msg) : Queue :=
  { k with drop := satAdd k.drop 1,
           granted := if m.credited && hEpoch m.handle = k.epoch then k.granted - m.ring else k.granted }

/-- The scope that a placed message needs at its reader. -/
def msgNeed (m : Msg) (t : TileId) : Scope := scopeNeeded (if bits m.origin 0 2 = 0 then some m.sender else none) t

/-- A data message or position event arrives at its owner tile (R222, R225). -/
def State.arrive (s : State) (t : TileId) (src : Party) (m : Msg) : State :=
  let q := hQix m.handle
  let k := (s.tile t).queue q
  let need := msgNeed m t
  let cov := covered m.relScope need
  let bad : Option Resp := if s.ownerFailed t then some .stale
    else match k.check (s.mayReach t q src m.func) (hEpoch m.handle) m.kind with
      | some r => some r
      | none => if !m.credited && k.pool < (m.ring : Int) then some .dropped else none
  match bad with
  | some r => (s.modTile t (fun tl => tl.modQueue q (fun k => k.discard m))).respond t src m.rtag r
  | none =>
    if m.credited && (k.waiting ≠ [] || !k.fits m.ring) then
      s.modTile t (fun tl => tl.modQueue q (fun k => { k with waiting := k.waiting ++ [(m, src)] }))
    else (s.placeMsg t q m need cov).respond t src m.rtag .accepted

/-- A round ends without its result (R231, R238). -/
def Queue.disarm (k : Queue) : Queue :=
  match k.rick with
  | some r =>
    let b := ringBytes (r.len.toNat + 1)
    { k with rick := none, last := some r, granted := k.granted - b }
  | none => k

/-- A queue is reassigned (R231). -/
def State.reassignQueue (s : State) (t : TileId) (q : QIx) : State :=
  let k := (s.tile t).queue q
  let s1 := s.modTile t (fun tl =>
    Tile.modQueue { tl with inbuf := tl.inbuf.map (fun w => if w.what = .ring q then { w with what := .none } else w) } q (fun k =>
      let d := k.disarm
      { d with epoch := d.epoch + 1, rd := 0, wr := 0, used := 0, msgs := [], closed := false, granted := 0, held := [],
               waiting := [] }))
  let s2 := k.waiting.foldl (fun a w => a.respond t w.2 w.1.rtag .stale) s1
  k.held.foldl (fun a r => a.refuse t r.1 r.2.2.1) s2

/-- EN is cleared (R553). -/
def State.disableQueue (s : State) (t : TileId) (q : QIx) : State :=
  let k := (s.tile t).queue q
  let s1 := s.modTile t (fun tl => tl.modQueue q (fun k =>
    { k with en := false, held := [], waiting := [],
             granted := k.waiting.foldl (fun g w => g - w.1.ring) k.granted }))
  let s2 := k.waiting.foldl (fun a w => a.respond t w.2 w.1.rtag .stale) s1
  k.held.foldl (fun a r => a.refuse t r.1 r.2.2.1) s2

/-! ## Credit at the destination (R219, R552) -/

/-- What a queue grants for `m` bytes. -/
def Queue.grantFor (k : Queue) (m : Nat) : Option Nat :=
  let g : Nat := 64 * 2 ^ k.grain.toNat
  if (g : Int) ≤ k.pool then some g
  else if (m : Int) ≤ k.pool then some (k.pool.toNat / 8 * 8)
  else none
/-- A grant leaves for a requester. -/
def State.grantTo (s : State) (t : TileId) (q : QIx) (to_ : Party) (h : Word) (n : Nat) : State :=
  (s.modTile t (fun tl => tl.modQueue q (fun k => { k with granted := k.granted + n }))).sendPkt (.tile t) to_ 1
    (.grant h n false) [] []

/-- A credit request arrives: refused, granted from the pool as it stands, or held behind those that are held already
(R219, R552). -/
def State.arriveRequest (s : State) (t : TileId) (src : Party) (h : Word) (m : Nat) (f : Option FuncNo) : State :=
  let q := hQix h
  let k := (s.tile t).queue q
  if (k.check (s.mayReach t q src f) (hEpoch h) 0).isSome then s.refuse t src h
  else
    match k.grantFor m with
    | some n => s.grantTo t q src h n
    | none => s.modTile t (fun tl => tl.modQueue q (fun k => { k with held := k.held ++ [(src, m, h, f)] }))

/-- A grant or refusal lands at a sender (R220, R552); the landing counts as a use, a choice that `State.askCredit` names. -/
def State.landGrant (s : State) (u : Sender) (h : Word) (n : Nat) (refused : Bool) : State :=
  match (s.sendSide u).find h with
  | some i =>
    s.modSend u (fun x => { x.modEntry i (fun e =>
      { e with req := false, refused := e.refused || refused, bytes := e.bytes + n, lastUse := x.useCtr + 1 })
      with useCtr := x.useCtr + 1 })
  | none => s.creditBack u h n

/-! ## Ricks (R234–R237) -/

/-- Element-wise sum of two contributions (R236). -/
def rickAdd (et : BitVec 2) : List Word → List Word → List Word
  | [], _ => []
  | a, [] => a
  | a0 :: a1 :: a, b0 :: b1 :: b =>
    if et = 2 then
      let r : DWord := (a1 ++ a0) + (b1 ++ b0)
      bits r 0 32 :: bits r 32 32 :: rickAdd et a b
    else if et = 1 then f32add a0 b0 :: f32add a1 b1 :: rickAdd et a b
    else (a0 + b0) :: (a1 + b1) :: rickAdd et a b
  | a0 :: a, b0 :: _ => (if et = 1 then f32add a0 b0 else a0 + b0) :: a

/-- Check 6: the round is armed, TAG and LEN are its own, and the count stays in bounds (R235). -/
def Rick.takes (r : Rick) (m : Msg) (c : Nat) : Bool :=
  r.tag = m.tag && r.len.toNat + 1 = m.payload.length && decide (r.count + c ≤ r.expect)

/-- The rick result of a complete round (R237). -/
def Rick.result (r : Rick) (t : TileId) (q : QIx) (k : Queue) (f : Option FuncNo) : Msg :=
  { kind := 1, sender := t, origin := 0, func := f, tag := r.tag, payload := r.acc,
    handle := k.epoch ++ (0#8) ++ t ++ q, credited := true, rtag := 0, relScope := none }

/-- A contribution arrives at the owner (R225, R235, R237). -/
def State.arriveRick (s : State) (t : TileId) (m : Msg) (who : List Contrib) : State :=
  let q := hQix m.handle
  let k := (s.tile t).queue q
  let answer (s : State) (r : Resp) : State := who.foldl (fun a c => a.respond t c.src c.tag r) s
  let bad : Option Resp := if s.ownerFailed t then some .stale
    else match k.check (who.all (fun c => s.mayReach t q c.src m.func)) (hEpoch m.handle) 1 with
      | some r => some r
      | none => match k.rick with
        | some r => if r.takes m who.length then none else some .stale
        | none => some .stale
  match bad, k.rick with
  | some r, _ => answer (s.modTile t (fun tl => tl.modQueue q (fun k => k.discard m))) r
  | none, none => s
  | none, some r =>
    let n : Rick := { r with
      count := r.count + who.length
      acc := rickAdd (etype r.tag) r.acc m.payload
      covered := r.covered && who.all (fun c => c.covered)
      needed := who.foldl (fun a c => widest a c.needed) r.needed }
    let s1 := answer (s.modTile t (fun tl => tl.modQueue q (fun k => { k with rick := some n }))) .accepted
    if n.count = n.expect then
      (s1.modTile t (fun tl => tl.modQueue q (fun k =>
        { k with rick := none, last := some n }))).placeMsg t q
          (n.result t q k (s.tile t).func) n.needed n.covered
    else s1

/-! ## Reading (R223, R228, R229, R516) -/

/-- The oldest message, if it is visible, and the skip bytes before it are freed (R223). -/
def Queue.free (k : Queue) : Queue :=
  match k.oldest with
  | none => k
  | some m =>
    let b := ceilDiv m.size 8 * 8
    { k with msgs := k.msgs.tail, used := k.used - m.skip - b, rd := (if m.skip = 0 then k.rd + b else b) % k.size }
/-- Local offset of the oldest message. -/
def Queue.front (k : Queue) (m : QMsg) : Nat := k.base + (if m.skip = 0 then k.rd else 0)

/-- The register that a read writes: header, payload words, zeros, and the origin word in lane 5 (R229). -/
def readLanes (m : QMsg) (bs : List Byte) : VWord :=
  leBits 512 (bs ++ List.replicate (20 - bs.length) 0 ++ bytesOf m.origin 4)

/-- The pending pair that a read opens or widens (R516). -/
def Thread.openPair (x : Thread) (dbg : Bool) (m : QMsg) : Thread :=
  if !dbg || bits m.origin 0 2 = 3 then x
  else
    let sender : Option TileId := if bits m.origin 0 2 = 0 then some m.sender else none
    let p : Pair := match x.pair with
      | none => { needed := m.needed, covered := m.coveredAll, sender := sender }
      | some o => { needed := widest o.needed m.needed, covered := o.covered && m.coveredAll, sender := sender }
    { x with pair := some p }

end Sys2Proof.Machine
end

