-- ==== Sys2Proof/Machine/MemOps.lean ====
section
/-! DEFINITION. The shared operations of memory beyond a thread's own access: slices and colliers, remote scratchpads,
CXL windows, and translation through the caches and walkers (R186, R276–R300, R316–R319). -/
namespace Sys2Proof.Machine

/-! ## Slices and colliers (R278, R285–R293) -/

/-- The first burst of a range that holds an uncorrectable error which a reader meets (R286, R287, R290). -/
def State.badBurst (s : State) (pa n : Nat) : Option Nat :=
  ((s.hbmBad.filter (fun p => p.2 && decide (pa / 32 ≤ p.1) && decide (p.1 * 32 < pa + n)
    && !(s.held (p.1 * 32)))).map (fun p => p.1)).head?
/-- What the code finds in one burst of a slice: an uncorrectable error stays there, a corrected one is counted (R286,
R287). A held block is served by its collier. -/
def State.withEcc (s : State) (pa : Nat) (ecc : Ecc) : State :=
  if s.held pa then s
  else match ecc with
    | .none => s
    | .corrected => s.modSlice (sliceOf pa) (fun x => { x with corr := satAdd x.corr 1 })
    | .uncorrectable => { s with hbmBad := SMap.set false s.hbmBad (pa / 32) true }
/-- Bursts that a write of `n` bytes covers in part, at its two ends. -/
def partBursts (pa n : Nat) : List Nat :=
  (if pa % 32 ≠ 0 then [pa / 32] else []) ++ (if (pa + n) % 32 ≠ 0 then [(pa + n) / 32] else [])
/-- The partly covered burst whose uncorrectable error stops a write (R286). -/
def State.writeBurst (s : State) (pa n : Nat) : Option Nat :=
  ((partBursts pa n).filter (fun b => SMap.get false s.hbmBad b && !(s.held (b * 32)))).head?
/-- Bytes reach a slice: whole bursts are repaired (R287). -/
def State.hbmWrite (s : State) (pa : Nat) (b : List Byte) : State :=
  { s with hbm := s.hbm.setBytes pa b
           hbmBad := s.hbmBad.filter (fun p => !(decide (pa ≤ p.1 * 32) && decide (p.1 * 32 + 32 ≤ pa + b.length))) }
/-- A machine check of HBM: a read (0x03) or a partial write or collier operation (0x04). -/
def State.hbmFail (s : State) (src : Byte) (burst : Nat) (f : FuncNo) (t : Option TileId) (va : Option VAddr)
    (reader : Option (TileId × Thr)) : State :=
  s.machineCheck { src := src, tile := t, func := f, pa := BitVec.ofNat 46 (burst * 32), va := va, reader := reader }

/-- The collier takes a block: the least recently used of 32 is written back, which repairs its bursts (R290). -/
def State.hold (s : State) (pa : Nat) : State :=
  let i := sliceOf pa
  let l := (pa / 64) :: ((s.slice i).held.filter (fun b => b ≠ pa / 64))
  let s1 := s.modSlice i (fun x => { x with held := l.take 32 })
  match l.drop 32 with
  | b :: _ => { s1 with hbmBad := SMap.set false (SMap.set false s1.hbmBad (2 * b) false) (2 * b + 1) false }
  | [] => s1

/-- Held blocks among the `n` blocks from an address become the most recently used of their colliers (R290). -/
def State.touchHeld (s : State) (pa : Nat) : Nat → State
  | 0 => s
  | n + 1 => ((if s.held pa then s.hold pa else s)).touchHeld (pa + 64) n
/-- Accesses to ranges of HBM: their held blocks, in turn. -/
def State.touchReads (s : State) (l : List (Nat × Nat)) : State :=
  l.foldl (fun a p => a.touchHeld (p.1 / 64 * 64) (ceilDiv (p.1 % 64 + p.2) 64)) s

/-- What the host code finds on the slice reads of a command; an outcome counts only in a range that it reads (R285). -/
def State.withEccs (s : State) (reads : List (Nat × Nat)) (l : SliceEcc) : State :=
  l.foldl (fun a q =>
    let pa := q.1.toNat
    if reads.any (fun r => decide (r.1 / 32 ≤ pa / 32) && decide (pa / 32 * 32 < r.1 + r.2)) then a.withEcc pa q.2 else a) s

/-- Kinds of collier addition. -/
inductive AddKind | i32 | f32 | xs
  deriving DecidableEq, Repr
/-- Bytes of an element. -/
def AddKind.bytes : AddKind → Nat
  | .xs => 8
  | _ => 4
/-- One element plus its operand. -/
def addElem (k : AddKind) (e x : Nat) : Nat :=
  match k with
  | .i32 => (e + x) % 2 ^ 32
  | .f32 => (f32add (BitVec.ofNat 32 e) (BitVec.ofNat 32 x)).toNat
  | .xs => (e + x) % 2 ^ 64
/-- An XS64 addition whose signed result does not fit (R289). -/
def xsOverflow (e x : Nat) : Bool :=
  let r := (BitVec.ofNat 64 e).toInt + (BitVec.ofNat 64 x).toInt
  decide (r < -(2 ^ 63 : Int)) || decide ((2 ^ 63 : Int) ≤ r)
/-- The accumulator after one XS64 operand (R289, R293). -/
def Accum.add (a : Accum) (e x : Nat) : Accum :=
  { a with recv := (a.recv + residue (BitVec.ofNat 64 x).toInt) % mersenne, nelem := satAdd a.nelem 1,
           ovf := a.ovf || xsOverflow e x }
/-- Accumulator 2f + CKSEL (R292). -/
def accIx (f : FuncNo) (cksel : Bool) : Nat := 2 * f.toNat + b2n cksel

/-- The masked elements of a block are added (R288, R293). -/
def State.addElems (s : State) (k : AddKind) (f : FuncNo) (cksel : Bool) (pa : Nat) : List (Nat × Nat) → State
  | [] => s
  | (i, x) :: r =>
    let a := pa + i * k.bytes
    let e := leNat (s.hbm.bytes a k.bytes)
    let s1 := { s with hbm := s.hbm.setBytes a (leBytes k.bytes (addElem k e x)) }
    let s2 := if k = .xs then
        s1.modSlice (sliceOf pa) (fun y => { y with acc := SMap.modify {} y.acc (accIx f cksel) (fun z => z.add e x) })
      else s1
    s2.addElems k f cksel pa r

/-- A collier addition to the 64-byte block of an address; none for an uncorrectable error on its read, with the
burst (R286, R288, R290). -/
def State.collierAdd (s : State) (k : AddKind) (f : FuncNo) (cksel : Bool) (pa : Nat) (ops : List (Nat × Nat)) :
    Nat ⊕ State :=
  let b := pa / 64 * 64
  match s.badBurst b 64 with
  | some u => .inl u
  | none => .inr ((s.hold b).addElems k f cksel b ops)

/-- The masked elements of an operand. -/
def maskedOps (k : AddKind) (mask : Nat) (x : BitVec 512) : List (Nat × Nat) :=
  ((List.range (64 / k.bytes)).filter (fun i => mask / 2 ^ i % 2 = 1)).map
    (fun i => (i, x.toNat / 2 ^ (8 * k.bytes * i) % 2 ^ (8 * k.bytes)))

/-- CKADD (R293). -/
def State.ckAdd (s : State) (f : FuncNo) (cksel : Bool) (pa : Nat) (claim : DWord) : State :=
  s.modSlice (sliceOf pa) (fun y => { y with acc := SMap.modify {} y.acc (accIx f cksel) (fun a =>
    { a with claim := (a.claim + claim.toNat % mersenne) % mersenne, nclaim := satAdd a.nclaim 1 }) })
/-- The record of an accumulator as four doublewords (R292). -/
def Accum.record (a : Accum) : List DWord :=
  [BitVec.ofNat 64 (a.recv + b2n (a.recv = a.claim) * 2 ^ 61 + b2n a.ovf * 2 ^ 62), BitVec.ofNat 64 a.claim,
   a.nclaim ++ a.nelem, 0]

/-! ## Another tile's scratchpad (R186, R187) -/

/-- The holding tile takes an access: FUNC, PID and placement. -/
def State.remoteAt (s : State) (u : TileId) (f : Option FuncNo) (pid : Byte) (hd : Option (BitVec 14)) (o n : Nat) :
    Option Nat :=
  let tl := s.tile u
  if tl.func = f && bits tl.place 8 8 = pid then tl.placeAt hd o n else none

/-! ## CXL windows (R297–R299) -/

/-- Windows that are enabled, of which no target link is down. -/
def State.cxlWindows (s : State) : List (Nat × Nat × Nat × Nat × List Nat) :=
  ((List.range 8).filter (fun i => bit s.plan.cxlEn i)).filterMap (fun i =>
    match s.plan.cxlWin[i]? with
    | some w => if (w.2.2.2.2.take w.2.2.1).any (fun l => bit s.plan.cxlDown l) then none else some w
    | none => none)
/-- The link that an address of the CXL range goes to (R298). -/
def State.cxlTarget (s : State) (pa : Nat) : Option Nat :=
  let o := pa - 0x100000000000
  match s.cxlWindows.filter (fun w => decide (w.1 * 2 ^ 28 ≤ o) && decide (o < (w.1 + w.2.1) * 2 ^ 28)) with
  | w :: _ => some (nth w.2.2.2.2 ((o - w.1 * 2 ^ 28) / w.2.2.2.1 % w.2.2.1) 0)
  | [] => none

/-! ## Translation (R316–R319) -/

/-- What a translation finds. -/
inductive Look
  | leaf (l : Leaf)
  /-- cause 0x01 or 0x04 of R313 -/
  | fault (cause : BitVec 4)
  /-- an entry in a burst with an uncorrectable error -/
  | bad (pa : Nat)
  /-- an entry in a slice whose memory interface is not on -/
  | off (pa : Nat)
  deriving DecidableEq, Repr

/-- A set of the Cob shared cache. -/
def State.cobSet (s : State) (c : CobNo) (i : Nat) : List Leaf := SMap.get [] (s.cob c).tlb i
/-- The leaf of the Cob shared cache that covers an address, in its three candidate sets. -/
def State.cobFind (s : State) (c : CobNo) (f : FuncNo) (va : Nat) : Option Leaf :=
  (([4, 3, 2] : List Nat).filterMap (fun lvl =>
    ((s.cobSet c (va / 2 ^ pageBits lvl % 512)).filter (fun l => l.lvl = lvl && l.covers f va)).head?)).head?
/-- A leaf becomes the most recently used of its set of 8. -/
def State.cobPut (s : State) (c : CobNo) (l : Leaf) : State :=
  s.modCob c (fun x => { x with tlb := SMap.modify [] x.tlb l.set (fun k => tlbInstall k 8 l) })

/-- Translation for tile `t`: its own cache, the Cob shared cache, then a walk (R318). -/
def State.lookup (s : State) (t : TileId) (f : FuncNo) (va : Nat) : Look × State :=
  let c := tileCob t
  match tlbFind (s.tile t).tlb f va with
  | some (l, k) => (.leaf l, s.modTile t (fun tl => { tl with tlb := k }))
  | none =>
    let own (s : State) (l : Leaf) : State := s.modTile t (fun tl => { tl with tlb := tlbInstall tl.tlb 64 l })
    match s.cobFind c f va with
    | some l => (.leaf l, own (s.cobPut c l) l)
    | none =>
      let s0 := s.touchReads (s.walkReads (s.cob c).walker f va)
      match s.walk (s.cob c).walker f va with
      | .fault k => (.fault k, s0)
      | .bad pa => (.bad pa, s0)
      | .off pa => (.off pa, s)
      | .leaf l rd =>
        (.leaf l, own ((s0.modCob c (fun x => { x with walker := keepNonLeaf x.walker rd })).cobPut c l) l)

/-- Translation for Husk engine `e`: its own cache and the walker of its Husk (R318). -/
def State.huskLookup (s : State) (e : BitVec 2) (f : FuncNo) (va : Nat) : Look × State :=
  let h := e.toNat / 2
  match tlbFind (SMap.get [] s.hengTlb e.toNat) f va with
  | some (l, k) => (.leaf l, { s with hengTlb := SMap.set [] s.hengTlb e.toNat k })
  | none =>
    let s0 := s.touchReads (s.walkReads (SMap.get [] s.huskWalker h) f va)
    match s.walk (SMap.get [] s.huskWalker h) f va with
    | .fault k => (.fault k, s0)
    | .bad pa => (.bad pa, s0)
    | .off pa => (.off pa, s)
    | .leaf l rd =>
      (.leaf l, { s0 with hengTlb := SMap.modify [] s.hengTlb e.toNat (fun k => tlbInstall k 64 l)
                          huskWalker := SMap.modify [] s.huskWalker h (fun k => keepNonLeaf k rd) })

/-- Entries that a translation for an engine, or for a thread of its tile, reads from HBM: none when a cache holds the leaf
(R318). -/
def State.entryReads (s : State) (e : Eng) (f : FuncNo) (va : Nat) : List (Nat × Nat) :=
  match e with
  | .tile t =>
    if (tlbFind (s.tile t).tlb f va).isSome || (s.cobFind (tileCob t) f va).isSome then []
    else s.walkReads (s.cob (tileCob t)).walker f va
  | .husk i =>
    if (tlbFind (SMap.get [] s.hengTlb i.toNat) f va).isSome then []
    else s.walkReads (SMap.get [] s.huskWalker (i.toNat / 2)) f va

/-- An entry is removed: of the function, and of the page or all (R319). -/
def gone (f : FuncNo) (vpn : BitVec 36) (all : Bool) (g : FuncNo) (lvl covers : Nat) : Bool :=
  g = f && (all || vpn.toNat / 2 ^ (9 * (4 - lvl)) = covers)
def goneLeaf (f : FuncNo) (vpn : BitVec 36) (all : Bool) (l : Leaf) : Bool := gone f vpn all l.func l.lvl l.vpn
def goneNode (f : FuncNo) (vpn : BitVec 36) (all : Bool) (l : NonLeaf) : Bool := gone f vpn all l.func l.lvl l.vpn

/-- Entries of a function leave the caches of a Cob and its tiles; walks in flight there install nothing (R319). -/
def State.invCob (s : State) (c : CobNo) (f : FuncNo) (vpn : BitVec 36) (all : Bool) : State :=
  let s1 := s.modCob c (fun x =>
    { x with tlb := (x.tlb.map (fun p => (p.1, p.2.filter (fun l => !(goneLeaf f vpn all l))))).filter (fun p => p.2 ≠ [])
             walker := x.walker.filter (fun l => !(goneNode f vpn all l)) })
  { s1 with tiles := s1.tiles.map (fun p =>
      if tileCob (BitVec.ofNat 12 p.1) = c then
        (p.1, ([0, 1, 2, 3] : List Thr).foldl (fun a h => a.modTh h (fun x => { x with walk := none }))
          { p.2 with tlb := p.2.tlb.filter (fun l => !(goneLeaf f vpn all l)) })
      else p) }
/-- Entries of a function leave the caches of the Husks (R319). -/
def State.invHusk (s : State) (f : FuncNo) (vpn : BitVec 36) (all : Bool) : State :=
  { s with hengTlb := (s.hengTlb.map (fun p => (p.1, p.2.filter (fun l => !(goneLeaf f vpn all l))))).filter (fun p => p.2 ≠ [])
           huskWalker := (s.huskWalker.map (fun p => (p.1, p.2.filter (fun l => !(goneNode f vpn all l))))).filter (fun p => p.2 ≠ []) }
/-- Every translation of a function is removed, as SETPT and a reset do (R319, R450). -/
def State.invAll (s : State) (f : FuncNo) : State :=
  ((List.range 16).foldl (fun a i => a.invCob (BitVec.ofNat 4 i) f 0 true) s).invHusk f 0 true

end Sys2Proof.Machine
end

