-- ==== Sys2Proof/Machine/EngineOps.lean ====
section
/-! DEFINITION. The copy engines: descriptors, validation, chunks, completion, halts and commands (R302–R315, R324,
R326, R439). -/
namespace Sys2Proof.Machine

/-! ## Descriptors (R304, R305) -/

/-- A transfer as an engine performs it. -/
structure Xfer where
  src : Nat
  dst : Nat
  len : Nat
  row : Nat
  sstr : Int
  dstr : Int
  mode : Nat
  atype : Nat
  cksel : Bool
  ck : Bool
  blist : Bool
  ncq : Bool
  cqh : Word
  tag : BitVec 16
  idx : Nat
  /-- reserved bits that are not zero -/
  junk : Bool
  /-- issued at level U -/
  user : Bool
  /-- LV -/
  lv : BitVec 2
  /-- the source, or the destination, is host memory of a COPY command -/
  hostSrc : Bool
  hostDst : Bool
  deriving DecidableEq, Repr

/-- A held descriptor (R304). -/
def xferOf (d : BitVec 512) : Xfer :=
  { src := (bits d 0 64).toNat, dst := (bits d 64 64).toNat, len := (bits d 128 32).toNat, row := (bits d 160 32).toNat,
    sstr := (bits d 192 32).toInt, dstr := (bits d 224 32).toInt, mode := (bits d 304 3).toNat,
    atype := (bits d 307 2).toNat, cksel := bit d 309, ck := bit d 310, blist := bit d 311, ncq := bit d 312,
    cqh := bits d 256 32, tag := bits d 288 16, idx := (bits d 320 64).toNat,
    junk := bits d 313 7 ≠ 0 || bits d 384 64 ≠ 0 || bits d 450 62 ≠ 0, user := bits d 448 2 = 1, lv := bits d 448 2,
    hostSrc := false, hostDst := false }
/-- A COPY command (R326, R447). -/
def CopyJob.xfer (j : CopyJob) : Xfer :=
  { src := if j.toHost then j.dev.toNat else 0, dst := if j.toHost then 0 else j.dev.toNat, len := j.len.toNat, row := 0,
    sstr := 0, dstr := 0, mode := 0, atype := 0, cksel := false, ck := false, blist := false, ncq := true, cqh := 0,
    tag := 0, idx := 0, junk := false, user := false, lv := 2, hostSrc := !j.toHost, hostDst := j.toHost }
/-- The transfer at the head of an engine. -/
def Engine.xfer (e : Engine) : Xfer :=
  match e.jobs with
  | j :: _ => j.xfer
  | [] => xferOf (SMap.get 0 e.qd 0)
/-- Descriptors held. -/
def Engine.count (e : Engine) : Nat := if e.jobs = [] then e.qcnt else e.jobs.length

/-- Bytes of a row (R305). -/
def Xfer.rowLen (x : Xfer) : Nat := if x.row = 0 then x.len else x.row
/-- Strides; ignored for one row of LEN bytes. -/
def Xfer.stride (x : Xfer) (dst : Bool) : Int := if x.row = 0 then 0 else if dst then x.dstr else x.sstr
/-- Chunks of a transfer. -/
def Xfer.chunks (x : Xfer) : Nat := ceilDiv x.len 4096
def Xfer.acc (x : Xfer) : Bool := x.mode = 1
def Xfer.indexed (x : Xfer) : Bool := x.mode = 2 || x.mode = 3
/-- Bytes of an accumulate element. -/
def Xfer.elem (x : Xfer) : Nat := if x.atype = 2 then 8 else 4
/-- Addition of an ATYPE (R304). -/
def atypeKind (a : BitVec 2) : AddKind := if a = 2 then .xs else if a = 1 then .f32 else .i32
/-- Bytes of the index or claims list. -/
def Xfer.list (x : Xfer) : Option Nat :=
  if x.indexed then some (4 * (x.len / x.row)) else if x.ck then some (8 * x.chunks) else none

/-! ## Validation (R307) -/

/-- Check 1: FORMAT. -/
def Xfer.badFormat (x : Xfer) : Bool :=
  let el := x.elem
  let usesIdx := x.indexed || x.ck
  x.junk || decide (4 ≤ x.mode) || (x.acc && x.atype = 3)
    || decide (2 ^ 48 ≤ x.src) || decide (2 ^ 48 ≤ x.dst) || (usesIdx && decide (2 ^ 48 ≤ x.idx))
    || (x.indexed && (x.row = 0 || x.len % x.row ≠ 0))
    || (x.acc && (x.src % el ≠ 0 || x.dst % el ≠ 0 || x.len % el ≠ 0 || x.row % el ≠ 0 || x.sstr % el ≠ 0
        || x.dstr % el ≠ 0))
    || (x.ck && (!x.acc || x.atype ≠ 2 || x.dst % 4096 ≠ 0 || (x.row ≠ 0 && x.dstr ≠ x.row)))
    || (x.indexed && x.idx % 4 ≠ 0) || (x.acc && x.ck && x.idx % 8 ≠ 0) || (!x.ncq && badHandle x.cqh)

/-- Lowest and highest byte of the rows of one side, from its base and stride. -/
def Xfer.extent (x : Xfer) (base : Nat) (str : Int) : Int × Int :=
  let r := x.rowLen
  let n := ceilDiv x.len r
  let last : Int := (base : Int) + ((n - 1 : Nat) : Int) * str
  let tailLen : Int := ((x.len - (n - 1) * r : Nat) : Int)
  (min base last, max ((base : Int) + (min r x.len : Nat) - 1) (last + tailLen - 1))

/-- The function that an engine acts for. -/
def State.engFunc (s : State) (e : Eng) : Option FuncNo :=
  match e with
  | .tile t => (s.tile t).func
  | .husk _ => ((s.eng e).jobs.map (fun j => j.func)).head?
/-- The tile of a tile engine. -/
def engTile : Eng → Option TileId
  | .tile t => some t
  | .husk _ => none

/-- The base of the 1 MiB region of the local window that an address resolves to; none for no region (R182, R185). -/
def State.regionBase (s : State) (t : TileId) (va : Nat) : Option Nat :=
  let tl := s.tile t
  if va < 0x100000 then some 0
  else if 0x1000000 ≤ va && va < 0x2000000 then
    if bit tl.place 0 || (bits tl.place 4 4).toNat < (va - 0x1000000) / 0x100000 then none else some (va / 0x100000 * 0x100000)
  else if 0x40000000 ≤ va && va < 0x50000000 then
    if bit tl.place 0 && bit (SMap.get 0 tl.htab ((va - 0x40000000) / 0x100000)) 12 then some (va / 0x100000 * 0x100000)
    else none
  else none

/-- What validation finds of one side. -/
inductive SideCheck | ok | bounds | permission
  deriving DecidableEq, Repr

/-- Outbound route `r` of function `f` (R334). -/
def State.ortOf (s : State) (f : FuncNo) (r : BitVec 4) : DWord × DWord :=
  let i := 2 * (16 * f.toNat + r.toNat)
  (SMap.get 0 s.ort i, SMap.get 0 s.ort (i + 1))
def routePeer (w : DWord × DWord) : BitVec 16 := bits w.1 0 16
def routeFunc (w : DWord × DWord) : FuncNo := bits w.1 16 5
def routeValid (w : DWord × DWord) : Bool := bit w.1 27
/-- Bytes a route reaches (R334). -/
def routeSize (w : DWord × DWord) : Nat := (bits w.2 0 29).toNat * 4096
/-- A route whose PEER is the adapter of an ACTIVE port is a host route (R439). -/
def State.hostRoute (s : State) (w : DWord × DWord) : Bool :=
  s.activePorts.any (fun p => (s.port p).assigned && (s.port p).peer = routePeer w)
/-- The aperture of remote windows (R276). -/
def inAperture (pa : Nat) : Bool := decide (0x200000000000 ≤ pa) && decide (pa < 0x300000000000)
def routeOf (pa : Nat) : BitVec 4 := BitVec.ofNat 4 (pa / 2 ^ 40)
def routeOff (pa : Nat) : Nat := pa % 2 ^ 40

/-- Translation for an engine (R318). -/
def State.engLook (s : State) (e : Eng) (f : FuncNo) (va : Nat) : Look × State :=
  match e with
  | .tile t => s.lookup t f va
  | .husk i => s.huskLookup i f va

/-- A handle window of tile `t` that is read only (R185). -/
def State.handleRo (s : State) (t : TileId) (va : Nat) : Bool :=
  decide (0x40000000 ≤ va) && bit (SMap.get 0 (s.tile t).htab ((va - 0x40000000) / 0x100000)) 13

/-- Checks 3 and 4 for one side of a transfer; `first` is the address of row 0 and `lo`, `hi` its extent. The extent of a side
whose rows an index places is checked chunk by chunk. A first byte in no region has no region for the extent to leave
(R307, R326). -/
def State.checkSide (s : State) (e : Eng) (f : FuncNo) (x : Xfer) (dst indexed : Bool) (first : Nat) (lo hi : Int) :
    SideCheck :=
  if !indexed && (lo < 0 || 2 ^ 48 ≤ hi) then .bounds
  else if first < 0x100000000 then
    match e with
    | .husk _ => .permission
    | .tile t => match s.regionBase t first with
      | none => .permission
      | some b =>
        let n := (hi - lo + 1).toNat
        if !indexed && (lo < b || (b : Int) + 0x100000 ≤ hi || (s.resolveLocal t lo.toNat n false).isNone) then .bounds
        else if dst && (x.acc || s.handleRo t first) then .permission
        else .ok
  else if !indexed && lo < 0x100000000 then .bounds
  else if !dst then .ok
  else match (s.engLook e f first).1 with
    | .leaf l =>
      let pa := l.addr first
      if !(inAperture pa) then .ok
      else
        let w := s.ortOf f (routeOf pa)
        if !indexed && (routeSize w : Int) < (routeOff pa : Int) + (hi - first) + 1 then .bounds
        else if !(routeValid w) then .permission
        else if s.hostRoute w && (x.acc || routeFunc w ≠ f) then .permission
        else .ok
    | _ => .ok

/-- Status codes (R310). -/
def stDone : Byte := 0
def stBounds : Byte := 2
def stFormat : Byte := 3
def stPermission : Byte := 4
def stFault : Byte := 5

/-- Validation of the transfer at the head: the status that ends it, or none when it runs (R307). -/
def State.validate (s : State) (e : Eng) (f : FuncNo) (x : Xfer) : Option Byte :=
  if x.badFormat then some stFormat
  else if x.len = 0 then some stDone
  else
    let se := x.extent x.src (x.stride false)
    let de := x.extent x.dst (x.stride true)
    let a := if x.hostSrc then SideCheck.ok else s.checkSide e f x false (x.mode = 2) x.src se.1 se.2
    let b := if x.hostDst then SideCheck.ok else s.checkSide e f x true (x.mode = 3) x.dst de.1 de.2
    let c : Bool := match x.list, e with
      | none, _ => false
      | some n, .tile t => match s.resolveLocal t x.idx n false with
        | some (.own _) => false
        | _ => true
      | some _, .husk _ => true
    if a = .bounds || b = .bounds || c then some stBounds
    else if a = .permission || b = .permission then some stPermission
    else none

/-! ## Engine states (R310, R312–R315) -/

/-- Bytes finished when a descriptor ends with FAULT (R310). -/
def Engine.finished (e : Engine) : Nat := min (4096 * e.next) e.xfer.len

/-- The completion message of a descriptor (R310). -/
def Xfer.completion (x : Xfer) (status : Byte) (n : Nat) : EngMsg :=
  { fault := false, handle := x.cqh, tag := x.tag,
    payload := [(0#21) ++ BitVec.ofNat 3 x.mode ++ status, BitVec.ofNat 32 n] }
/-- A descriptor sends a completion message: NCQ is 0 and CQH names a handle (R307, R310). -/
def Xfer.sends (x : Xfer) : Bool := !x.ncq && !(badHandle x.cqh)

/-- The head descriptor leaves the queue. -/
def Engine.pop (e : Engine) : Engine :=
  { e with qd := (e.qd.filter (fun p => p.1 ≠ 0)).map (fun p => (p.1 - 1, p.2))
           hold := (e.hold.filter (fun p => p.1 ≠ 0)).map (fun p => (p.1 - 1, p.2))
           qcnt := e.qcnt - 1, jobs := e.jobs.tail, hostBytes := [], next := 0, active := false, ending := false }

/-- CEDONE is set on a tile (R52, R310). -/
def State.setDone (s : State) (e : Eng) : State :=
  match e with
  | .tile t => s.modTile t (fun tl => { tl with cedone := true })
  | .husk _ => s

/-- The completion entry of a COPY command waits (R447). -/
def State.copyDone (s : State) (e : Eng) (status : Byte) (n : Nat) : State :=
  match (s.eng e).jobs with
  | j :: _ => s.modFunc j.func (fun x => { x with comps := x.comps ++
      [{ cid := j.cid, status := status, op := 0x20, result := BitVec.ofNat 64 n }] })
  | [] => s

/-- The descriptor at the head ends: its completion message waits, or CEDONE is set at once (R307, R310). -/
def State.endDesc (s : State) (e : Eng) (status : Byte) (n : Nat) : State :=
  let x := (s.eng e).xfer
  let s1 := s.copyDone e status n
  if x.sends then s1.modEng e (fun g => { g with ending := true, out := g.out ++ [x.completion status n] })
  else
    (s1.modEng e (fun g =>
      { g with ending := true, cqerr := if !x.ncq then satAdd g.cqerr 1 else g.cqerr })).setDone e

/-- The engine halts at a chunk (R313, R314); a Husk engine ends its descriptor instead (R326). -/
def State.haltAt (s : State) (e : Eng) (k : Nat) (cause : BitVec 4) (va : VAddr) (side part : Bool) : State :=
  let g := s.eng e
  match e with
  | .husk _ =>
    let s1 := s.modEng e (fun g => { g with next := k, fva := va, halting := none })
    s1.endDesc e stFault (min (4096 * k) g.xfer.len)
  | .tile t =>
    let m : EngMsg :=
      { fault := true, handle := g.fqh, tag := cause.setWidth 16,
        payload := [(0#4) ++ g.xfer.lv ++ b2v side ++ b2v part ++ (0#3) ++ (0#1) ++ cause ++ (0#4) ++ t,
                    bits va 0 32, (0#16) ++ (bits va 32 16 : BitVec 16), BitVec.ofNat 32 k] }
    (s.modTile t (fun tl => { tl with ceflt := true })).modEng e (fun g =>
      { g with st := .halted, next := k, cause := cause, fva := va, part := part, halting := none, pausing := false,
               out := g.out ++ [m] })

/-- What follows once chunks have finished or messages have left: a halt that waited, the end of the descriptor, the
next descriptor, or a pause (R309, R310, R312). -/
def State.engSettle (s : State) (e : Eng) : State :=
  let g := s.eng e
  if g.st ≠ .running then s
  else
    let s1 := match g.halting with
      | some (k, c, va, sd, p) => if g.inflight = [] then s.haltAt e k c va sd p else s
      | none =>
        if g.active && !g.ending && g.inflight = [] && decide (g.xfer.chunks ≤ g.next) then
          s.endDesc e stDone g.xfer.len
        else s
    let g1 := s1.eng e
    let s2 := if g1.st = .running && g1.ending && g1.out.all (fun m => m.fault) then
        s1.modEng e (fun g => let p := g.pop; { p with st := if p.count = 0 then .idle else .running })
      else s1
    let g2 := s2.eng e
    if g2.pausing && g2.st ≠ .halted && g2.inflight = [] && !g2.ending && g2.halting.isNone then
      s2.modEng e (fun g => { g with st := .paused, pausing := false, active := false })
    else s2

/-- Chunk `no`, in flight as `id`, met an uncorrectable memory error, whose machine check has failed its function
(R286, R300). DEDUCED (log 52): a Husk engine ends its descriptor with FAULT as for a late error, and CE_FVA keeps its value
(R314, R326). -/
def State.chunkBroken (s : State) (e : Eng) (no : Nat) (id : Option Nat) : State :=
  (s.modEng e (fun g =>
    let later : Bool := match g.halting with
      | some (j, _) => decide (no ≤ j)
      | none => true
    { g with
      inflight := g.inflight.filter (fun c => some c.id ≠ id)
      halting := match e with
        | .husk _ => if later then some (no, 0, g.fva, false, true) else g.halting
        | .tile _ => g.halting })).engSettle e

/-- The head descriptor is validated and starts, or ends (R307). -/
def State.descStart (s : State) (e : Eng) : State :=
  let g := s.eng e
  match s.engFunc e with
  | none => s
  | some f =>
    if g.st ≠ .running || g.active || g.ending || g.count = 0 || g.inflight ≠ [] || g.out.any (fun m => !m.fault) || SMap.get [] g.hold 0 ≠ []
    then s
    else
      let s1 := s.modEng e (fun g => { g with active := true })
      match s.validate e f g.xfer with
      | none => s1.engSettle e
      | some st => (s1.endDesc e st 0).engSettle e

/-! ## Chunks (R305, R306, R309, R313) -/

/-- Where a piece of a chunk lies, or the cause that step 2 fails with (R306, R313, R317). -/
inductive Step2
  | to (g : EngTo)
  | fault (cause : BitVec 4)
  | bad (pa : Nat)
  /-- an entry of the walk lies in a slice whose memory interface is not on -/
  | off (pa : Nat)
  deriving DecidableEq, Repr

/-- The physical target of a translated address (R306). -/
def State.engPhys (s : State) (f : FuncNo) (pa n : Nat) (dst acc : Bool) : Step2 :=
  if pa < hbmEnd then .to (.hbm pa)
  else if 0x100000000000 ≤ pa && pa < 0x200000000000 then
    if acc || (s.cxlTarget pa).isNone then .fault 5 else .to (.cxl pa)
  else if inAperture pa then
    let w := s.ortOf f (routeOf pa)
    if !dst || !(routeValid w) || decide (routeSize w < routeOff pa + n)
        || (s.hostRoute w && (acc || routeFunc w ≠ f)) then .fault 5
    else .to (.route (routeOf pa) (routeOff pa))
  else .fault 5

/-- The region that an address belongs to: its first byte and the one after its last (R182). -/
def State.regionOf (s : State) (e : Eng) (va : Nat) : Option (Nat × Nat) :=
  if va < 0x100000000 then
    match e with
    | .tile t => (s.regionBase t va).map (fun b => (b, b + 0x100000))
    | .husk _ => none
  else some (0x100000000, 2 ^ 48)
/-- The side whose rows an index places, of which the row that holds transfer byte `off` at address `va` leaves the region of
row 0's base (R308, R313). DEDUCED (log 107): the row is checked whole. -/
def State.strays (s : State) (e : Eng) (x : Xfer) (dst : Bool) (va off : Nat) : Bool :=
  if (if dst then x.mode ≠ 3 else x.mode ≠ 2) then false
  else match s.regionOf e (if dst then x.dst else x.src) with
    | none => true
    | some (a, b) => decide (va < a + off % x.rowLen) || decide (b + off % x.rowLen < va + x.rowLen)

/-- One address of a chunk in step 2; `off` is its place in the transfer order. -/
def State.engAddr (s0 : State) (e : Eng) (f : FuncNo) (va n : Nat) (dst : Bool) (x : Xfer) (off : Nat) (ecc : SliceEcc) :
    Step2 × State :=
  let s := if va < 0x100000000 then s0 else s0.withEccs (s0.entryReads e f va) ecc
  if s.strays e x dst va off then (.fault 7, s0)
  else if va < 0x100000000 then
    match e with
    | .husk _ => (.fault 5, s)
    | .tile t =>
      match s.resolveLocal t va n dst with
      | some (.own o) => (if dst && x.acc then .fault 5 else .to (.own o), s)
      | some (.remote u o hd) => (if dst && x.acc then .fault 5 else .to (.remote u o hd), s)
      | _ => (.fault 7, s)
  else if 2 ^ 48 < va + n then (.fault 7, s)
  else
    let r := s.engLook e f va
    match r.1 with
    | .fault c => (.fault c, r.2)
    | .bad pa => (.bad pa, r.2)
    | .off pa => (.off pa, r.2)
    | .leaf l =>
      match l.refuses dst x.user with
      | some d => (.fault d, r.2)
      | none => (r.2.engPhys f (l.addr va) n dst (dst && x.acc), r.2)

/-- Bytes cut so that neither side crosses a 4 KiB page. -/
def cutPages : Nat → Nat → Nat → Nat → List (Nat × Nat × Nat)
  | 0, _, _, _ => []
  | fuel + 1, a, b, n =>
    if n = 0 then []
    else
      let m := min n (min (4096 - a % 4096) (4096 - b % 4096))
      (a, b, m) :: cutPages fuel (a + m) (b + m) (n - m)

/-- An address of row `j` on one side, in 64 bits. -/
def rowAt (base : Nat) (str : Int) (j o : Nat) : Nat := (((base : Int) + str * j + o) % (2 ^ 64 : Int)).toNat

/-- The index of row `j` from the list's bytes (R305). -/
def Xfer.index (x : Xfer) (b : List Byte) : Nat := if x.blist then leNat (b.take 2) else leNat b

/-- The runs of chunk `k`: source and destination address and length, in transfer order; `ix j` is row j's index. -/
def Xfer.runs (x : Xfer) (k : Nat) (ix : Nat → Nat) : List (Nat × Nat × Nat) :=
  let r := x.rowLen
  let p0 := 4096 * k
  let p1 := min (p0 + 4096) x.len
  let j0 := p0 / r
  ((List.range (ceilDiv p1 r - j0)).map (fun i =>
    let j := j0 + i
    let a := max p0 (j * r)
    let b := min p1 ((j + 1) * r)
    (rowAt x.src (x.stride false) (if x.mode = 2 then ix j else j) (a - j * r),
     rowAt x.dst (x.stride true) (if x.mode = 3 then ix j else j) (a - j * r), b - a))).flatMap
      (fun q => cutPages 4 q.1 q.2.1 q.2.2)

/-- Entries of a list in the engine's own scratchpad: their bytes, a cause, or the word that fails (R177, R309). -/
def State.readList (s : State) (e : Eng) (va n : Nat) : Option (List Byte) × Option Nat :=
  match e with
  | .husk _ => (none, none)
  | .tile t => match s.resolveLocal t va n false with
    | some (.own o) => match firstBad ((s.tile t).errWords o n) with
      | some w => (none, some w)
      | none => (some ((s.tile t).lmem.bytes o n), none)
    | _ => (none, none)

/-- What step 2 finds over a chunk. -/
inductive ChunkLook
  | ok (pieces : List Piece)
  /-- the first failure: cause, address and side -/
  | fault (cause : BitVec 4) (va : Nat) (side : Bool)
  /-- a page-table entry in a burst with an uncorrectable error -/
  | bad (pa : Nat)
  /-- a page-table entry in a slice whose memory interface is not on -/
  | off (pa : Nat)
  deriving DecidableEq, Repr
/-- Step 2 over the runs of a chunk: pieces, or the first failure. -/
def State.step2 (s : State) (e : Eng) (f : FuncNo) (x : Xfer) (ecc : SliceEcc) (off : Nat) :
    List (Nat × Nat × Nat) → List Piece → ChunkLook × State
  | [], acc => (.ok acc, s)
  | (a, b, n) :: r, acc =>
    let ra : Step2 × State := if x.hostSrc then (.to (.host off), s) else s.engAddr e f a n false x off ecc
    match ra.1 with
    | .fault c => (.fault c a false, ra.2)
    | .bad pa => (.bad pa, ra.2)
    | .off pa => (.off pa, ra.2)
    | .to ga =>
      let rb : Step2 × State := if x.hostDst then (.to (.host off), ra.2) else ra.2.engAddr e f b n true x off ecc
      match rb.1 with
      | .fault c => (.fault c b true, rb.2)
      | .bad pa => (.bad pa, rb.2)
      | .off pa => (.off pa, rb.2)
      | .to gb =>
        rb.2.step2 e f x ecc (off + n) r (acc ++ [{ src := ga, dst := gb, dva := BitVec.ofNat 48 b, n := n }])

/-! ## Reading and writing pieces (R177, R286, R300) -/

/-- Where a scratchpad piece lies in the holding tile; none when that tile refuses it (R186, R187). -/
def State.pieceAt (s : State) (e : Eng) (g : EngTo) (n : Nat) : Option (TileId × Nat) :=
  match e, g with
  | .tile t, .own o => some (t, o)
  | .tile t, .remote u o hd =>
    (s.remoteAt u (s.tile t).func (bits (s.tile t).place 8 8) hd o n).map (fun a => (u, a))
  | _, _ => none
/-- A piece that another tile refuses. -/
def State.pieceRefused (s : State) (e : Eng) (p : Piece) : Bool :=
  let bad (g : EngTo) : Bool := match g with
    | .remote _ _ _ => (s.pieceAt e g p.n).isNone
    | _ => false
  bad p.src || bad p.dst

/-- The bytes of a source, or the state after the machine check that its error raises. Bytes that detector 4 has fetched come
from the engine's buffers (R311). -/
def State.readPiece (s0 : State) (e : Eng) (f : FuncNo) (p : Piece) (ecc : SliceEcc) : State ⊕ (List Byte × State) :=
  let s := match p.src, p.got with
    | .hbm pa, none => s0.withEccs [(pa, p.n)] ecc
    | _, _ => s0
  match p.src with
  | .hbm pa =>
    match p.got with
    | some b => .inr (b.take p.n, s)
    | none => match s.badBurst pa p.n with
      | some b => .inl (s.hbmFail 3 b f (engTile e) none none)
      | none => .inr (s.hbm.bytes pa p.n, s.touchReads [(pa, p.n)])
  | .cxl pa => .inr (s.cxl.bytes (pa - 0x100000000000) p.n, s)
  | .host o => .inr ((s.eng e).hostBytes.bytes o p.n, s)
  | .route _ _ => .inr ([], s)
  | g =>
    match s.pieceAt e g p.n with
    | none => .inr ([], s)
    | some (u, o) =>
      let ws := (s.tile u).errWords o p.n
      match firstBad ws with
      | some w => .inl (s.lmFail u 1 w none none)
      | none => .inr ((s.tile u).lmem.bytes o p.n, s.modTile u (fun tl => tl.fixWords 1 ws))

/-- Additions of a run of bytes, one collier operation for each 64-byte block (R288, R306). -/
def State.accRun (s : State) (e : Eng) (f : FuncNo) (k : AddKind) (cksel : Bool) (ecc : SliceEcc) (pa : Nat)
    (b : List Byte) : Nat → State ⊕ State
  | 0 => .inr s
  | fuel + 1 =>
    if b = [] then .inr s
    else
      let n := min b.length (64 - pa % 64)
      let el := k.bytes
      let ops := (List.range (n / el)).map (fun i => (pa % 64 / el + i, leNat ((b.drop (i * el)).take el)))
      let s0 := s.withEccs [(pa / 64 * 64, 64)] ecc
      match s0.collierAdd k f cksel pa ops with
      | .inl u => .inl (s0.hbmFail 4 u f (engTile e) none none)
      | .inr s1 => s1.accRun e f k cksel ecc (pa + n) (b.drop n) fuel

/-- Bytes reach their destination, or the state after the machine check that an error raises. A scratchpad takes what waits in
its inbound write buffer first (R180). -/
def State.writePiece (s : State) (e : Eng) (c : Chunk) (p : Piece) (b : List Byte) (ecc : SliceEcc) : State ⊕ State :=
  match p.dst with
  | .hbm pa =>
    match c.acc with
    | some (a, ck) => s.accRun e c.func (atypeKind a) ck ecc pa b 65
    | none =>
      let s0 := s.withEccs ((partBursts pa b.length).map (fun u => (u * 32, 32))) ecc
      match s0.writeBurst pa b.length with
      | some u => .inl (s0.hbmFail 4 u c.func (engTile e) none none)
      | none => .inr ((s0.hbmWrite pa b).touchReads [(pa, b.length)])
  | .cxl pa => .inr { s with cxl := s.cxl.setBytes (pa - 0x100000000000) b }
  | .host _ => .inr s
  | .route _ _ => .inr s
  | g =>
    match s.pieceAt e g p.n with
    | none => .inr s
    | some (u, o) =>
      let s0 := s.drainAll u
      match (s0.tile u).writeBad o (b.map some) with
      | some w => .inl (s0.lmFail u 1 w none none)
      | none => .inr (s0.modTile u (fun tl => tl.lmWrite 1 o (b.map some)))

/-- All pieces of a list move, cut at `left` bytes; refused pieces are passed over. -/
def State.movePieces (s : State) (e : Eng) (c : Chunk) (ecc : SliceEcc) : List Piece → Nat → State ⊕ State
  | [], _ => .inr s
  | p :: r, left =>
    if left = 0 then .inr s
    else
      let q := { p with n := min p.n left }
      if s.pieceRefused e q then s.movePieces e c ecc r (left - q.n)
      else match s.readPiece e c.func q ecc with
        | .inl t => .inl t
        | .inr (b, s1) => match s1.writePiece e c q b ecc with
          | .inl t => .inl t
          | .inr s2 => s2.movePieces e c ecc r (left - q.n)

/-! ## Traffic on Tamore Link (R324, R437–R439, R447) -/

/-- The lowest TAG that no request on a port uses. -/
def Port.freeTag (p : Port) : BitVec 16 :=
  BitVec.ofNat 16 (((List.range (p.out.length + 1)).filter (fun i =>
    !(p.out.any (fun o => o.1 = BitVec.ofNat 16 i)))).headD 0)
/-- A request leaves on a port and waits for its answer. -/
def State.ask (s : State) (p : PortNo) (k : TxPkt) (w : OutFor) : State :=
  let tag := (s.port p).freeTag
  (s.sendOn p { k with tag := tag }).modPort p (fun x => { x with out := x.out ++ [(tag, w)] })

/-- The port that reaches the adapter of the host: the lowest-numbered ACTIVE one. -/
def State.hostPort (s : State) : Option PortNo := s.activePorts.head?

/-- How the packets of a chunk leave. -/
inductive SendEnd
  | sent
  /-- no port is ACTIVE -/
  | noPort
  /-- the bytes met an uncorrectable memory error -/
  | broken
  deriving DecidableEq, Repr

/-- Host bytes of a piece are asked for, at the DRAM address of the command plus their offset (R447). -/
def State.askHost (s : State) (i : BitVec 2) (c : Chunk) (o n : Nat) : State × SendEnd :=
  match s.hostPort with
  | none => (s, .noPort)
  | some q =>
    let host : DWord := match (s.eng (.husk i)).jobs with
      | j :: _ => j.host
      | [] => 0
    (s.ask q { type := 0x20, func := c.func, dst := (s.port q).peer, tag := 0, status := 0, attr := 0,
               addr := host + BitVec.ofNat 64 o, data := [], len := n } (.copyRead i c.id o), .sent)
/-- A piece whose bytes come from host memory. -/
def Piece.fromHost (p : Piece) : Bool :=
  match p.src with
  | .host _ => true
  | _ => false
/-- The packets of a piece that leaves the part. Bytes of host memory are asked for first, and go on to a route once they have
come. A piece that another tile refuses sends nothing. -/
def State.sendPiece (s : State) (e : Eng) (c : Chunk) (ecc : SliceEcc) (p : Piece) : State × SendEnd :=
  let f := c.func
  let at_ : BitVec 2 := match c.acc with
    | some (a, _) => a
    | none => 0
  if s.pieceRefused e p then (s, .sent)
  else if p.fromHost && !c.fwd then
    match p.src, e with
    | .host o, .husk i => s.askHost i c o p.n
    | _, _ => (s, .sent)
  else match p.dst with
  | .route r o =>
    let w := s.ortOf f r
    match s.portFor (routePeer w) with
    | none => (s, .noPort)
    | some q =>
      match s.readPiece e f p ecc with
      | .inl t => (t, .broken)
      | .inr (b, s1) =>
        (s1.ask q { type := if c.acc.isSome then 0x11 else 0x10, func := if s.hostRoute w then f else routeFunc w,
                    dst := routePeer w, tag := 0, status := 0,
                    attr := at_ ++ (bits w.1 21 6 : BitVec 6),
                    addr := BitVec.ofNat 64 o, data := b, len := p.n } (.chunk e c.id p.dva), .sent)
  | .host o =>
    match s.hostPort with
    | none => (s, .noPort)
    | some q =>
      match s.readPiece e f p ecc with
      | .inl t => (t, .broken)
      | .inr (b, s1) =>
        let host : DWord := match (s.eng e).jobs with
          | j :: _ => j.host
          | [] => 0
        let i : BitVec 2 := match e with
          | .husk i => i
          | .tile _ => 0
        (s1.ask q { type := 0x10, func := f, dst := (s.port q).peer, tag := 0, status := 0, attr := 0,
                    addr := host + BitVec.ofNat 64 o, data := b, len := p.n } (.copyWrite i c.id), .sent)
  | _ => (s, .sent)

/-- The claim of a chunk whose destination is a route leaves after its additions (R306, R437). -/
def State.sendClaim (s : State) (e : Eng) (c : Chunk) : State :=
  match c.claim with
  | some (.route r o, v) =>
    let w := s.ortOf c.func r
    match s.portFor (routePeer w) with
    | none => s
    | some q =>
      s.ask q { type := 0x12, func := routeFunc w, dst := routePeer w, tag := 0, status := 0,
                attr := (0#2) ++ (bits w.1 21 6 : BitVec 6), addr := BitVec.ofNat 64 o, data := bytesOf v 8, len := 8 }
        (.chunk e c.id ((c.pieces.map (fun p => p.dva)).headD 0))
  | _ => s

/-- All outbound packets of a chunk, as far as the first that does not leave. -/
def State.sendChunk (s : State) (e : Eng) (c : Chunk) (ecc : SliceEcc) : List Piece → State × SendEnd
  | [] => (s, .sent)
  | p :: r =>
    let q := s.sendPiece e c ecc p
    if q.2 = .sent then q.1.sendChunk e c ecc r else q

/-- An outstanding request belongs to chunk `id`. -/
def OutFor.ofChunk (w : OutFor) (id : Nat) : Bool :=
  match w with
  | .chunk _ i _ => i = id
  | .copyRead _ i _ => i = id
  | .copyWrite _ i => i = id
  | _ => false
/-- Answers that a chunk waits for. -/
def State.chunkWaits (s : State) (id : Nat) : Bool :=
  s.ports.any (fun p => p.2.out.any (fun o => o.2.ofChunk id))

/-- The die links that a chunk's transfers cross, from its engine to both sides and back (R261). -/
def State.chunkRoute (s : State) (e : Eng) (c : Chunk) : List (Nat × Bool) :=
  let own := engEnd e
  c.pieces.flatMap (fun p =>
    let port : Option PortNo := match p.dst with
      | .route r _ => s.portFor (routePeer (s.ortOf c.func r))
      | _ => s.hostPort
    let there (g : EngTo) : List (Nat × Bool) := crossing true s.pw.viaK1 own (g.fabEnd own s.cxlTarget port)
    let l := there p.src ++ there p.dst
    l ++ crossBack l)
/-- A die link holds transfers of a chunk (R267, R273). -/
def State.chunkHeld (s : State) (e : Eng) (c : Chunk) : Bool := s.fabricHolds (c.id, false) true (s.chunkRoute e c)

/-- A late error at chunk `id`: no new work starts, other chunks in flight finish, then the engine halts with PART 1
(R314). -/
def State.engLate (s : State) (e : Eng) (id : Nat) (cause : BitVec 4) (va : VAddr) (side : Bool) : State :=
  let g := s.eng e
  match (g.inflight.filter (fun c => c.id = id)).head? with
  | none => s
  | some c =>
    let keep : Bool := match g.halting with
      | some (j, _) => decide (j < c.no)
      | none => false
    (s.modEng e (fun g =>
      { g with inflight := g.inflight.filter (fun c => c.id ≠ id)
               halting := if keep || !g.active then g.halting else some (c.no, cause, va, side, true) })).engSettle e

/-! ## Commands (R303, R312, R315) -/

/-- RESUME, CERES, and GO on a HALTED engine: whether a descriptor resumed or started (R312, R315). -/
def State.engResume (s : State) (t : TileId) : Bool × State :=
  let g := (s.tile t).eng
  if g.st ≠ .halted then (false, s)
  else if g.active then
    if g.xfer.acc && g.part then (false, s)
    else (true, (s.modEng (.tile t) (fun g => { g with st := .running, part := false, cause := 0 })).engSettle (.tile t))
  else if g.qcnt = 0 then (false, s.modEng (.tile t) (fun g => { g with st := .idle }))
  else (true, s.modEng (.tile t) (fun g => { g with st := .running, part := false, cause := 0 }))

/-- PAUSE (R312). -/
def State.engPause (s : State) (t : TileId) : State :=
  match (s.tile t).eng.st with
  | .idle => s.modEng (.tile t) (fun g => { g with st := .paused })
  | .running => (s.modEng (.tile t) (fun g => { g with pausing := true })).engSettle (.tile t)
  | _ => s

/-- GO (R312). -/
def State.engGo (s : State) (t : TileId) : State :=
  match (s.tile t).eng.st with
  | .halted => (s.engResume t).2
  | .paused =>
    s.modEng (.tile t) (fun g =>
      if g.qcnt = 0 then { g with st := .idle } else { g with st := .running, active := false })
  | _ => s

/-- ABORT: the active descriptor completes with FAULT; the state is kept (R310, R312). -/
def State.engAbort (s : State) (t : TileId) : State :=
  let g := (s.tile t).eng
  let act := (g.st = .halted && g.active) || (g.st = .paused && g.qcnt ≠ 0)
  if !act then s
  else
    let s1 := s.endDesc (.tile t) stFault g.finished
    s1.modEng (.tile t) (fun e => { e.pop with st := e.st, part := false, cause := 0 })

end Sys2Proof.Machine
end

