-- ==== Sys2Proof/Machine/OrderCopy.lean ====
section
/-! DEFINITION. REL, ACQ and the copy-engine instructions (R302, R303, R329, R337–R341, R516). -/
namespace Sys2Proof.Machine

/-- A store-buffer entry lies in what a release of a scope waits for (R339). -/
def relWaits (t : TileId) (scope : Scope) (b : SBuf) : Bool :=
  match scope with
  | .thread => false
  | .tile => false
  | .cob => match b.dst with
    | .remote u _ _ => tileCob u = tileCob t
    | _ => false
  | .package => true
  | .system => true

/-- REL: later outbound actions of the thread wait for its earlier writes in scope (R339, R516). -/
def execRel (t : TileId) (h : Thr) (scope : Scope) (s : State) : Host.Outcome State Fault Refusal :=
  .next (issue t h 1 (fun s =>
    let ids := (((s.tile t).sbuf.filter (fun b => b.thr = h && relWaits t scope b)).map (fun b => b.id))
    s.finish t h (fun x =>
      Thread.advance { x with hold := x.hold ++ ids.filter (fun i => !(x.hold.contains i)), relScope := some scope } 1)) s)

/-- ACQ: the cache partition is cleared at Cob scope and wider, and the pending pair is closed (R340, R514, R516). -/
def execAcq (t : TileId) (h : Thr) (scope : Scope) (s : State) : Host.Outcome State Fault Refusal :=
  .next (issue t h 1 (fun s =>
    let x := s.th t h
    let s1 := if scope = .thread || scope = .tile then s else s.modTile t Tile.clearCache
    let s2 := match x.pair with
      | some p =>
        if p.covered && decide (scopeRank (some p.needed) ≤ scopeRank (some scope)) then s1
        else s1.modTile t (fun tl => tl.hazard s.debug 4 h x.pc
          (scopeEnc p.needed ++ scopeEnc scope)
          ((0#1) ++ b2v p.sender.isNone ++ p.sender.getD 0xFFF))
      | none => s1
    s2.finish t h (fun y => Thread.advance { y with pair := none } 1)) s)

/-- A descriptor enters the queue with the issuer's level as LV (R302). -/
def Engine.put (g : Engine) (d : BitVec 512) (pl : BitVec 2) (hold : List Nat) : Engine :=
  { g with qd := SMap.set 0 g.qd g.qcnt (setBits d 448 2 pl), hold := SMap.set [] g.hold g.qcnt hold,
           qcnt := g.qcnt + 1, st := if g.st = .idle then .running else g.st }

/-- CEPUT in a slot (R302). -/
def State.ceputSlot (s : State) (t : TileId) (h : Thr) (an : Reg) : State :=
  let x := s.th t h
  let a := x.getA an
  if 2 ^ 48 ≤ a.toNat then s.raise t h cForm 0 (bits a 0 48)
  else ownAccess t h a 64 64 false (fun off s =>
    if 8 ≤ (s.tile t).eng.qcnt then s.block t h (.ceput an)
    else withRead t h (bits a 0 48) off 64 (fun s =>
      let d : BitVec 512 := leBits 512 ((s.tile t).lmem.bytes off 64)
      (s.modEng (.tile t) (fun g => g.put d x.st.pl x.hold)).finish t h (fun y =>
        Thread.advance { y with relScope := none } 1)) s) s

/-- CEPUT (R302). -/
def execCeput (t : TileId) (h : Thr) (an : Reg) (s : State) : Host.Outcome State Fault Refusal :=
  .next (issue t h 1 (fun s => s.ceputSlot t h an) s)

/-- CERES (R303, R315). -/
def execCeres (t : TileId) (h : Thr) (s : State) : Host.Outcome State Fault Refusal :=
  .next (issue t h 1 (fun s =>
    if (s.th t h).st.pl = 1 then s.raise t h cPriv 0 0
    else
      let r := s.engResume t
      r.2.finish t h (fun x => Thread.advance { x with st := { x.st with z := !r.1 } } 1)) s)

/-- Code of an engine state (R312). -/
def engStCode : EngSt → BitVec 2
  | .idle => 0
  | .running => 1
  | .halted => 2
  | .paused => 3
/-- CE_STAT (R329). -/
def Engine.stat (g : Engine) : Word :=
  BitVec.ofNat 21 g.next ++ g.cause ++ b2v g.part ++ BitVec.ofNat 4 g.count ++ engStCode g.st

/-- CEQRY (R303). -/
def execCeqry (t : TileId) (h : Thr) (d : Reg) (s : State) : Host.Outcome State Fault Refusal :=
  .next (issue t h 1 (fun s =>
    let w := (s.tile t).eng.stat
    s.finish t h (fun x => (x.setD d w).advance 1)) s)

end Sys2Proof.Machine
end

