-- ==== Sys2Proof/Machine/CsrTile.lean ====
section
/-! DEFINITION. The registers of a tile's CT_, QT_ and CE_ blocks, and the control of threads through them (R35–R41,
R55–R63, R193, R194, R199–R207, R209, R242–R251, R327–R331, R373–R378, R520–R529). -/
namespace Sys2Proof.Machine

/-! ## Thread control (R39–R41, R520, R521) -/

/-- A STOPPED thread starts at its PC, at S or M, with IE, SS, REP and the flags 0; one of a tile of no function
never does (R23, R41, R196). -/
def Tile.start (tl : Tile) (h : Thr) : Tile :=
  if tl.zeroed && tl.func.isSome && (tl.th h).run = .stopped then
    tl.modTh h (fun x => { x with run := .running, blk := none, st := { pl := if x.slv then 3 else 2 }, det := {},
                                  stopReq := false, haltReq := none, stepping := false, owed := false })
  else tl
/-- A stop is due at the thread's next slot (R39). -/
def Tile.reqStop (tl : Tile) (h : Thr) : Tile :=
  match (tl.th h).run with
  | .stopped => tl
  | .halted => tl.modTh h Thread.stop
  | _ => (tl.modTh h (fun x => { x with stopReq := true })).settle
/-- A halt is due at the thread's next slot (R40, R520). -/
def Tile.reqHalt (tl : Tile) (h : Thr) : Tile :=
  match (tl.th h).run with
  | .stopped => tl
  | .halted => tl
  | _ => (tl.modTh h (fun x => { x with haltReq := some (x.haltReq.getD 1) })).settle
/-- HALT is written to 0: a HALTED thread runs on at its PC, and a halt that a HALT write has asked for is withdrawn
(R40, R58). -/
def Tile.unhalt (tl : Tile) (h : Thr) : Tile :=
  tl.modTh h (fun x =>
    if x.run = .halted then { x with run := .running }
    else if x.haltReq = some 1 then { x with haltReq := none } else x)
/-- One step of a HALTED thread (R521). -/
def Tile.step (tl : Tile) (h : Thr) : Tile :=
  if (tl.th h).run = .halted then tl.modTh h (fun x => { x with run := .running, stepping := true }) else tl

/-- All four threads in turn. -/
def Tile.eachThread (tl : Tile) (f : Tile → Thr → Tile) : Tile := ([0, 1, 2, 3] : List Thr).foldl f tl

/-- A write of CT_TCTLn (R58); `lim` for a thread at S. -/
def Tile.writeTctl (tl : Tile) (dbg lim : Bool) (h : Thr) (v : Word) : Tile :=
  let t1 := tl.modTh h (fun x =>
    let y := if x.run = .stopped || x.run = .halted then { x with pc := bits v 0 14, moved := 0, part := [] } else x
    { y with slv := if bit v 17 && lim then y.slv else bit v 17 })
  if !(bit v 16) then t1.reqStop h
  else
    let t2 := t1.start h
    if !dbg then t2 else if bit v 18 then t2.reqHalt h else t2.unhalt h

/-- Code of a thread state (R35). -/
def runCode : RunSt → BitVec 3
  | .stopped => 0
  | .running => 1
  | .blocked => 2
  | .halted => 3
/-- BLK (R36). -/
def blkCode : Option BlockOp → BitVec 4
  | none => 0
  | some (.qrd _ _) => 0
  | some (.bwait _ _) => 1
  | some (.ceput _) => 3
  | some _ => 2
/-- CT_TCTLn (R58). -/
def Thread.tctl (x : Thread) (dbg : Bool) : Word :=
  (0#4) ++ (if x.run = .blocked then blkCode x.blk else 0) ++ (0#1) ++ runCode x.run ++ (0#1)
    ++ b2v (dbg && (x.run = .halted || x.haltReq.isSome)) ++ b2v x.slv ++ b2v (x.run ≠ .stopped) ++ (0#2) ++ x.pc

/-- CT_IRQn (R375). -/
def Thread.irq (x : Thread) (cyc : Nat) : Word :=
  (0#20) ++ BitVec.ofNat 4 x.se.length ++ (0#1) ++ b2v x.seovf ++ b2v x.mcp ++ b2v x.dlk ++ b2v x.sts ++ b2v x.swm
    ++ b2v x.sws ++ b2v (timerDue cyc x)
/-- A write of CT_IRQn (R375). -/
def Thread.writeIrq (x : Thread) (lim : Bool) (v : Word) : Thread :=
  { x with sws := bit v 1, swm := if lim then x.swm else bit v 2, sts := x.sts && !(bit v 3), dlk := x.dlk && !(bit v 4),
           seovf := x.seovf && !(bit v 6) }

/-! ## Register lookups -/

/-- The index of an offset in an array of `n` registers of a stride that starts at a base. -/
def arr (o base stride n : Nat) : Option Nat :=
  if base ≤ o && o < base + stride * n && (o - base) % stride = 0 then some ((o - base) / stride) else none
/-- Whether a 4-byte or 8-byte access fits a register of width `w` bytes (R9). -/
def fitsW (acc w : Nat) : Bool := acc = w

/-- A register of the CT_ block. -/
inductive CtReg
  | id
  | tctl (h : Thr)
  | rot
  | cyc
  | stall
  | seedsel
  | stallc (k : Nat)
  | lmcfg
  | lmctl
  | lmerr
  | lmcec
  | place
  | pbb
  | memb (m : Nat)
  | sxc (h : Thr)
  | sxa (h : Thr)
  | mxc (h : Thr)
  | mxa (h : Thr)
  | irq (h : Thr)
  | tmr (h : Thr)
  | mcrec (k : Nat)
  | quiet
  | hzctl
  | hzrec
  | hzcnt
  | dbg (h : Thr)
  | pmsel
  | pmc (k : Nat)
  | htab (i : Nat)
  | seed (w : Nat)
  | pmem (n : Nat)
  deriving DecidableEq, Repr

/-- The CT_ register at an offset and its width in bytes (R56, R199, R373, R524). -/
def ctReg (o : Nat) : Option (CtReg × Nat) :=
  let thr (i : Nat) : Thr := BitVec.ofNat 2 i
  if o = 0 then some (.id, 4)
  else if o = 0x40 then some (.rot, 8)
  else if o = 0x48 then some (.cyc, 8)
  else if o = 0x50 then some (.stall, 8)
  else if o = 0x80 then some (.seedsel, 4)
  else if o = 0x200 then some (.lmcfg, 4)
  else if o = 0x208 then some (.lmctl, 4)
  else if o = 0x210 then some (.lmerr, 4)
  else if o = 0x218 then some (.lmcec, 4)
  else if o = 0x220 then some (.place, 4)
  else if o = 0x228 then some (.pbb, 4)
  else if o = 0x4E0 then some (.quiet, 8)
  else if o = 0x600 then some (.hzctl, 4)
  else if o = 0x608 then some (.hzrec, 8)
  else if o = 0x610 then some (.hzcnt, 8)
  else if o = 0x640 then some (.pmsel, 4)
  else match arr o 0x08 8 4 with
  | some i => some (.tctl (thr i), 4)
  | none => match arr o 0x100 8 8 with
  | some i => some (.stallc i, 4)
  | none => match arr o 0x300 8 16 with
  | some i => some (.memb i, 4)
  | none => match arr o 0x400 8 4 with
  | some i => some (.sxc (thr i), 4)
  | none => match arr o 0x420 8 4 with
  | some i => some (.sxa (thr i), 8)
  | none => match arr o 0x440 8 4 with
  | some i => some (.mxc (thr i), 4)
  | none => match arr o 0x460 8 4 with
  | some i => some (.mxa (thr i), 8)
  | none => match arr o 0x480 8 4 with
  | some i => some (.irq (thr i), 4)
  | none => match arr o 0x4A0 8 4 with
  | some i => some (.tmr (thr i), 8)
  | none => match arr o 0x4C0 8 4 with
  | some i => some (.mcrec i, 8)
  | none => match arr o 0x620 8 4 with
  | some i => some (.dbg (thr i), 4)
  | none => match arr o 0x680 8 4 with
  | some i => some (.pmc i, 8)
  | none => match arr o 0x800 8 256 with
  | some i => some (.htab i, 8)
  | none => match arr o 0x1000 8 128 with
  | some i => some (.seed i, 8)
  | none => match arr o 0x20000 4 16384 with
  | some i => some (.pmem i, 4)
  | none => none

/-- A read of a CT_ register: its value, and the state after the read. -/
def State.ctRead (s : State) (t : TileId) (r : CtReg) : DWord × State :=
  let tl := s.tile t
  let w32 (w : Word) : DWord := w.setWidth 64
  match r with
  | .id => (w32 ((1#8) ++ (0#2) ++ b2v tl.func.isSome ++ tl.func.getD 0 ++ (0#4) ++ t), s)
  | .tctl h => (w32 ((tl.th h).tctl s.debug), s)
  | .rot => (BitVec.ofNat 64 (s.rot t), s)
  | .cyc => (BitVec.ofNat 64 (s.cyc t), s)
  | .stall => (tl.stall, s)
  | .seedsel => (tl.seedsel.setWidth 64, s)
  | .stallc k => (w32 (SMap.get 0 tl.stallc k), s.modTile t (fun tl => { tl with stallc := SMap.set 0 tl.stallc k 0 }))
  | .lmcfg => (w32 ((0#27) ++ tl.pfd ++ tl.csize), s)
  | .lmctl => (0, s)
  | .lmerr => (w32 tl.lmerr, s)
  | .lmcec => (tl.lmcec.setWidth 64, s.modTile t (fun tl => { tl with lmcec := 0 }))
  | .place => (w32 tl.place, s)
  | .pbb => (w32 tl.pbb, s)
  | .memb m => ((SMap.get 0 tl.memb m).setWidth 64, s)
  | .sxc h => (w32 (tl.th h).sxc, s)
  | .sxa h => ((tl.th h).sxa.setWidth 64, s)
  | .mxc h => (w32 (tl.th h).mxc, s)
  | .mxa h => ((tl.th h).mxa.setWidth 64, s)
  | .irq h => (w32 ((tl.th h).irq (s.cyc t)), s)
  | .tmr h => ((tl.th h).tmr, s)
  | .mcrec k => (nth [tl.mcrec0, tl.mcrec1, tl.mcrec2, tl.mcrec3] k 0, s)
  | .quiet =>
    (tl.quietWin ++ (0#7) ++ b2v (tl.quietWin ≠ 0 && decide (tl.quietWin.toNat * 4096 ≤ tl.quietCnt.toNat))
      ++ tl.quietAct ++ tl.quietCnt, s)
  | .hzctl => (if s.debug then tl.hzHaltk.setWidth 64 else 0, s)
  | .hzrec => (if s.debug then tl.hzrec else 0, s)
  | .hzcnt => if s.debug then (tl.hzcnt, s.modTile t (fun tl => { tl with hzcnt := 0 })) else (0, s)
  | .dbg h => (if s.debug then (0#60) ++ (tl.th h).dbgCause ++ (0#1) else 0, s)
  | .pmsel => (w32 tl.pmsel, s)
  | .pmc k => (SMap.get 0 tl.pmc k, s)
  | .htab i => (SMap.get 0 tl.htab i, s)
  | .seed w => (BitVec.ofNat 64 (tl.seedRun tl.seedsel (BitVec.ofNat 13 (64 * w)) 64), s)
  | .pmem n => ((SMap.get 0 tl.pmem n).setWidth 64, s)

/-- A write of a CT_ register; `lim` for a thread at S. -/
def State.ctWrite (s : State) (lim : Bool) (t : TileId) (r : CtReg) (v : DWord) : State :=
  let w : Word := bits v 0 32
  match r with
  | .tctl h => s.modTile t (fun tl => tl.writeTctl s.debug lim h w)
  | .seedsel => s.modTile t (fun tl => { tl with seedsel := bits v 0 2 })
  | .lmcfg => s.modTile t (fun tl => { tl.clearCache with csize := bits v 0 2, pfd := bits v 2 3 })
  | .lmctl => if bit v 0 then s.modTile t Tile.clearCache else s
  | .lmerr => if bit v 0 then s.modTile t (fun tl => { tl with lmerr := setBit tl.lmerr 0 false }) else s
  | .place => s.modTile t (fun tl => { tl with place := w &&& 0xFFF1 })
  | .pbb => s.modTile t (fun tl => { tl with pbb := w &&& 0x7FFF3FFF })
  | .memb m => s.modTile t (fun tl => { tl with memb := SMap.set 0 tl.memb m (bits v 0 12) })
  | .irq h => s.modTh t h (fun x => x.writeIrq lim w)
  | .tmr h => s.modTh t h (fun x => { x with tmr := v })
  | .mcrec k =>
    if k = 0 && bit v 22 then
      s.modTile t (fun tl => { tl with mcrec0 := setBit (setBit tl.mcrec0 22 false) 23 false })
    else s
  | .quiet => s.modTile t (fun tl => { tl with quietWin := bits v 48 16 })
  | .hzctl =>
    if !s.debug then s
    else s.modTile t (fun tl =>
      let t1 := { tl with hzHaltk := bits v 0 4 }
      if bit v 4 then t1.eachThread Tile.reqHalt else t1)
  | .hzrec =>
    if s.debug && bit v 5 then
      s.modTile t (fun tl => { tl with hzrec := setBit (setBit tl.hzrec 5 false) 6 false })
    else s
  | .dbg h => if s.debug && bit v 0 then s.modTile t (fun tl => tl.step h) else s
  | .pmsel => s.modTile t (fun tl => { tl with pmsel := w })
  | .pmc k => s.modTile t (fun tl => { tl with pmc := SMap.set 0 tl.pmc k v })
  | .htab i => s.modTile t (fun tl => { tl with htab := SMap.set 0 tl.htab i (v &&& 0x00007FFF3FFF3FFF) })
  | .seed w => s.modTile t (fun tl => tl.setSeedRun tl.seedsel (BitVec.ofNat 13 (64 * w)) v.toNat 64)
  | .pmem n => s.modTile t (fun tl =>
      { tl with pmem := SMap.set 0 tl.pmem n (bits v 0 14), pbad := SMap.set false tl.pbad n false })
  | _ => s

/-! ## The queue table (R242–R251) -/

/-- A register of the QT_ block. -/
inductive QtReg
  | qcfg (q : QIx)
  | qctl (q : QIx)
  | qst (q : QIx)
  | rarm (q : QIx)
  | qdrop (q : QIx)
  | qgnt (q : QIx)
  | scnt (h : Thr)
  | sctl (h : Thr)
  | stgc (h : Thr)
  | stgw (h : Thr) (k : Nat)
  | mgrp (g : Nat)
  | infl
  | crfl
  | cre (e : Nat)
  deriving DecidableEq, Repr

/-- The QT_ register at an offset and its width in bytes (R242). -/
def qtReg (o : Nat) : Option (QtReg × Nat) :=
  let q (i : Nat) : QIx := BitVec.ofNat 4 i
  let thr (i : Nat) : Thr := BitVec.ofNat 2 i
  if o = 0x440 then some (.infl, 4)
  else if o = 0x448 then some (.crfl, 4)
  else match arr o 0 8 16 with
  | some i => some (.qcfg (q i), 4)
  | none => match arr o 0x80 8 16 with
  | some i => some (.qctl (q i), 4)
  | none => match arr o 0x100 8 16 with
  | some i => some (.qst (q i), 8)
  | none => match arr o 0x180 8 16 with
  | some i => some (.rarm (q i), 8)
  | none => match arr o 0x200 8 16 with
  | some i => some (.qdrop (q i), 4)
  | none => match arr o 0x280 8 16 with
  | some i => some (.qgnt (q i), 4)
  | none => match arr o 0x300 8 4 with
  | some i => some (.scnt (thr i), 8)
  | none => match arr o 0x320 8 4 with
  | some i => some (.sctl (thr i), 4)
  | none => match arr o 0x340 8 4 with
  | some i => some (.stgc (thr i), 4)
  | none => match arr o 0x380 8 16 with
  | some i => some (.stgw (thr (i / 4)) (i % 4), 4)
  | none => match arr o 0x400 8 8 with
  | some i => some (.mgrp i, 8)
  | none => match arr o 0x480 8 16 with
  | some i => some (.cre i, 8)
  | none => none

/-- QT_QCFG (R243). -/
def Queue.cfg (k : Queue) : Word :=
  (0#7) ++ k.grain ++ k.rbase ++ k.rsize ++ (0#1) ++ b2v k.ext ++ b2v k.mode ++ b2v k.en
/-- QT_QST (R245). -/
def Queue.status (k : Queue) : DWord :=
  k.epoch ++ (0#5) ++ b2v k.cfgerr ++ b2v k.closed ++ BitVec.ofNat 17 k.used ++ BitVec.ofNat 16 k.wr ++ BitVec.ofNat 16 k.rd
/-- QT_RARM (R246). -/
def Queue.rarm (k : Queue) : DWord :=
  match k.rick, k.last with
  | some r, _ => BitVec.ofNat 16 r.expect ++ BitVec.ofNat 16 r.count ++ (0#13) ++ (1#1) ++ r.len ++ r.tag
  | none, some r => BitVec.ofNat 16 r.expect ++ BitVec.ofNat 16 r.count ++ (0#13) ++ (0#1) ++ r.len ++ r.tag
  | none, none => 0
/-- QT_CRE (R251). -/
def Cred.reg (e : Cred) : DWord :=
  (0#21) ++ BitVec.ofNat 17 e.bytes ++ b2v e.req ++ b2v e.valid ++ e.epoch ++ e.qid

/-- A read of a QT_ register. -/
def State.qtRead (s : State) (t : TileId) (r : QtReg) : DWord × State :=
  let tl := s.tile t
  match r with
  | .qcfg q => ((tl.queue q).cfg.setWidth 64, s)
  | .qst q => ((tl.queue q).status, s)
  | .rarm q => ((tl.queue q).rarm, s)
  | .qdrop q => ((tl.queue q).drop.setWidth 64, s.modTile t (fun tl => tl.modQueue q (fun k => { k with drop := 0 })))
  | .qgnt q => (BitVec.ofNat 64 (tl.queue q).granted, s)
  | .scnt h =>
    let x := tl.th h
    ((0#16) ++ x.cntDropped ++ x.cntClosed ++ x.cntStale,
      s.modTh t h (fun x => { x with cntStale := 0, cntClosed := 0, cntDropped := 0 }))
  | .sctl h => (if (tl.th h).stex then 1 else 0, s)
  | .stgc h => ((tl.th h).stgU.count.setWidth 64, s)
  | .stgw h k => ((bits (tl.th h).stgU.words (32 * k) 32 : Word).setWidth 64, s)
  | .mgrp g => (SMap.get 0 tl.mgrp g, s)
  | .infl => (BitVec.ofNat 64 tl.send.sent.length, s)
  | .cre e => ((tl.send.entry e).reg, s)
  | _ => (0, s)

/-- A write of QT_QCFG (R209, R231, R243, R553). -/
def State.writeQcfg (s : State) (t : TileId) (q : QIx) (v : Word) : State :=
  let k := (s.tile t).queue q
  if k.en then (if bit v 0 then s else s.disableQueue t q)
  else
    let s1 := s.modTile t (fun tl => tl.modQueue q (fun k =>
      { k with mode := bit v 1, ext := bit v 2, rsize := bits v 4 4, rbase := bits v 8 14, grain := bits v 22 3 }))
    if !(bit v 0) then s1
    else
      let k1 := (s1.tile t).queue q
      if 10 < k1.rsize.toNat || k1.base % k1.size ≠ 0 || (s1.tile t).limit < k1.base + k1.size then
        s1.modTile t (fun tl => tl.modQueue q (fun k => { k with cfgerr := true }))
      else
        (s1.reassignQueue t q).modTile t (fun tl => tl.modQueue q (fun k => { k with en := true, cfgerr := false }))

/-- A write of a QT_ register. DESIGN CHOICE (log 96): where one write of QT_QCTLq sets several bits, REASSIGN acts first, then CLOSE,
then DISARM; R244 gives no order. -/
def State.qtWrite (s : State) (t : TileId) (r : QtReg) (v : DWord) : State :=
  match r with
  | .qcfg q => s.writeQcfg t q (bits v 0 32)
  | .qctl q =>
    let s1 := if bit v 0 then s.reassignQueue t q else s
    let s2 := if bit v 1 then s1.modTile t (fun tl => tl.modQueue q (fun k => { k with closed := true })) else s1
    if bit v 2 then s2.modTile t (fun tl => tl.modQueue q (fun k => if k.mode then k.disarm else k)) else s2
  | .sctl h => s.modTh t h (fun x => { x with stex := bit v 0 })
  | .stgc h => s.modTh t h (fun x => if 4 < (bits v 0 3).toNat then x else { x with stgU := { x.stgU with count := bits v 0 3 } })
  | .stgw h k => s.modTh t h (fun x => { x with stgU := { x.stgU with words := setBits x.stgU.words (32 * k) 32 (bits v 0 32) } })
  | .mgrp g => s.modTile t (fun tl => { tl with mgrp := SMap.set 0 tl.mgrp g (v &&& 0x000000FF1FFFFFFF) })
  | .crfl =>
    if bit v 0 then (List.range 16).foldl (fun a i => a.returnEntry (.tile t) i) s else s
  | _ => s

/-! ## The tile engine block (R327–R331) -/

/-- A register of the CE_ block of a tile or Husk engine. -/
inductive CeReg
  | stat
  | ctl
  | next
  | qcnt
  | fqh
  | err
  | fva
  | qd (i w : Nat)
  deriving DecidableEq, Repr

/-- The CE_ register at an offset and its width in bytes (R327). -/
def ceReg (o : Nat) : Option (CeReg × Nat) :=
  if o = 0 then some (.stat, 4)
  else if o = 8 then some (.ctl, 4)
  else if o = 0x10 then some (.next, 4)
  else if o = 0x18 then some (.qcnt, 4)
  else if o = 0x20 then some (.fqh, 4)
  else if o = 0x28 then some (.err, 4)
  else if o = 0x30 then some (.fva, 8)
  else match arr o 0x100 8 64 with
  | some i => some (.qd (i / 8) (i % 8), 8)
  | none => none

/-- A read of a CE_ register. -/
def State.ceRead (s : State) (t : TileId) (r : CeReg) : DWord × State :=
  let g := (s.tile t).eng
  match r with
  | .stat => (g.stat.setWidth 64, s)
  | .ctl => (0, s)
  | .next => (BitVec.ofNat 64 g.next, s)
  | .qcnt => (BitVec.ofNat 64 g.qcnt, s)
  | .fqh => (g.fqh.setWidth 64, s)
  | .err => ((0#32) ++ g.fqerr ++ g.cqerr, s.modEng (.tile t) (fun g => { g with cqerr := 0, fqerr := 0 }))
  | .fva => (g.fva.setWidth 64, s)
  | .qd i w => (bits (SMap.get 0 g.qd i) (64 * w) 64, s)

/-- A write of a CE_ register of a tile engine (R330, R331). -/
def State.ceWrite (s : State) (t : TileId) (r : CeReg) (v : DWord) : State :=
  let paused := (s.tile t).eng.st = .paused
  match r with
  | .ctl =>
    let c : BitVec 4 := bits v 0 4
    if c = 1 then s.engPause t
    else if c = 2 then s.engGo t
    else if c = 4 then (s.engResume t).2
    else if c = 8 then s.engAbort t
    else s
  | .next => if paused then s.modEng (.tile t) (fun g => { g with next := (bits v 0 21).toNat }) else s
  | .qcnt =>
    if paused && (bits v 0 4).toNat ≤ 8 then s.modEng (.tile t) (fun g => { g with qcnt := (bits v 0 4).toNat }) else s
  | .fqh => s.modEng (.tile t) (fun g => { g with fqh := bits v 0 32 })
  | .qd i w =>
    if paused then s.modEng (.tile t) (fun g => { g with qd := SMap.modify 0 g.qd i (fun d => setBits d (64 * w) 64 (bits v 0 64)) })
    else s
  | _ => s

end Sys2Proof.Machine
end

