-- ==== Sys2Proof/Machine/CobOps.lean ====
section
/-! DEFINITION. The registers of a Cob's translation block and of the Husk window tables and engines: removing
translations, the collier sweep, inbound windows and outbound routes (R319, R326–R334, R387–R391). -/
namespace Sys2Proof.Machine

/-! ## Removing translations (R319, R332) -/

/-- Stores and chunks in flight on a Cob, and chunks in flight in the Husk engines. -/
def State.workOn (s : State) (c : CobNo) : List Nat :=
  ((s.tiles.filter (fun p => tileCob (BitVec.ofNat 12 p.1) = c)).flatMap (fun p =>
    ((p.2.sbuf.filter (fun b => !b.done && b.refused.isNone)).map (fun b => b.id)) ++ p.2.eng.inflight.map (fun k => k.id)))
  ++ s.heng.flatMap (fun p => p.2.inflight.map (fun k => k.id))

/-- A write of CE_WINV: the fields are kept, and a 1 in BUSY starts the removal (R319, R332). -/
def State.writeWinv (s : State) (c : CobNo) (v : DWord) : State :=
  let f : FuncNo := bits v 36 5
  let vpn : BitVec 36 := bits v 0 36
  let all := bit v 41
  let s1 := s.modCob c (fun x => { x with winv := bits v 0 42 })
  if !(bit v 42) then s1
  else
    ((s1.invCob c f vpn all).invHusk f vpn all).modCob c (fun x =>
      { x with winvBusy := true, winvWait := x.winvWait ++ s.workOn c })

/-- BUSY of CE_WINV clears once the work it waits for has finished (R319). -/
def State.endWinv (s : State) (c : CobNo) : State :=
  let live := s.workOn c
  if (s.cob c).winvWait.any (fun i => live.contains i) then s
  else s.modCob c (fun x => { x with winvBusy := false, winvWait := [] })

/-- CE_WINV as read (R332). -/
def Cob.readWinv (x : Cob) : DWord := (0#21) ++ b2v x.winvBusy ++ x.winv

/-! ## The collier sweep (R387–R391) -/

/-- A write of CE_CKCMD. -/
def State.writeCkcmd (s : State) (c : CobNo) (v : DWord) : State :=
  s.modCob c (fun x => if x.ckBusy then x else { x with ckcmd := bits v 0 6, ckBusy := bit v 6 })

/-- The slice that collier `k` of a Cob serves (R278, R387). -/
def sweepSlice (c : CobNo) (k : Nat) : Nat := 32 * (k % 32) + 2 * c.toNat + k / 32

/-- CKRD at one collier: the accumulator is returned and cleared (R292). -/
def State.takeRecord (s : State) (i a : Nat) : Accum × State :=
  (SMap.get {} (s.slice i).acc a, s.modSlice i (fun y => { y with acc := SMap.set {} y.acc a {} }))

/-- The sweep ends: 64 CKRDs, their sums and the two maps (R387, R390, R391). -/
def State.endSweep (s : State) (c : CobNo) : State :=
  if !(s.cob c).ckBusy then s
  else
    let x := s.cob c
    let a := accIx (bits x.ckcmd 0 5) (bit x.ckcmd 5)
    let recs := (List.range 64).map (fun k => SMap.get {} (s.slice (sweepSlice c k)).acc a)
    let s1 := (List.range 64).foldl (fun b k => (b.takeRecord (sweepSlice c k) a).2) s
    let flag (f : Accum → Bool) : DWord :=
      BitVec.ofNat 64 (((List.range 64).map (fun k => if f (nth recs k {}) then 2 ^ k else 0)).sum)
    let sum (f : Accum → Nat) : Nat := (recs.map f).sum
    s1.modCob c (fun y =>
      { y with
        ckBusy := false
        ckRecv := BitVec.ofNat 64 (sum (fun r => r.recv) % mersenne)
        ckClaim := BitVec.ofNat 64 (sum (fun r => r.claim) % mersenne)
        ckNelem := BitVec.ofNat 64 (sum (fun r => r.nelem.toNat))
        ckNclm := BitVec.ofNat 64 (sum (fun r => r.nclaim.toNat))
        ckMiss := flag (fun r => r.recv ≠ r.claim)
        ckOvf := flag (fun r => r.ovf) })

/-- A register of the Cob translation block and its width. -/
def winvReg (o : Nat) : Option Nat := if o = 0 || (arr o 0x100 8 7).isSome then some 8 else none
/-- A read of the Cob translation block. -/
def State.winvRead (s : State) (c : CobNo) (o : Nat) : DWord :=
  let x := s.cob c
  if o = 0 then x.readWinv
  else if o = 0x100 then (0#57) ++ b2v x.ckBusy ++ x.ckcmd
  else nth [x.ckRecv, x.ckClaim, x.ckNelem, x.ckNclm, x.ckMiss, x.ckOvf] ((o - 0x108) / 8) 0
/-- A write of the Cob translation block. -/
def State.winvWrite (s : State) (c : CobNo) (o : Nat) (v : DWord) : State :=
  if o = 0 then s.writeWinv c v else if o = 0x100 then s.writeCkcmd c v else s

/-! ## Window tables and Husk engines (R326, R327, R333, R334) -/

/-- The word of an inbound window or outbound route at an offset: true for a window, with its place in the table. -/
def winReg (o : Nat) : Option (Bool × Nat) :=
  if o % 8 ≠ 0 then none
  else if o < 0x10000 then (if o % 0x20 = 0x18 then none else some (true, o / 0x20 * 3 + o % 0x20 / 8))
  else if o < 0x12000 then some (false, (o - 0x10000) / 8)
  else none
/-- Writable bits of a word. -/
def winMask (isIn : Bool) (i : Nat) : DWord :=
  if isIn then (if i % 3 = 0 then 0x0000FFFFFFFFF01F else if i % 3 = 1 then 0x1FFFFFFF else 0xFFFFFFFF)
  else if i % 2 = 0 then 0x0FFFFFFF else 0x1FFFFFFF
/-- A read of the window tables. -/
def State.winRead (s : State) (r : Bool × Nat) : DWord := if r.1 then SMap.get 0 s.iwin r.2 else SMap.get 0 s.ort r.2
/-- A write of the window tables. -/
def State.winWrite (s : State) (r : Bool × Nat) (v : DWord) : State :=
  let x := v &&& winMask r.1 r.2
  if r.1 then { s with iwin := SMap.set 0 s.iwin r.2 x } else { s with ort := SMap.set 0 s.ort r.2 x }

/-- A register of a Husk engine. -/
def hceReg (o : Nat) : Option (CeReg × Nat) :=
  match ceReg o with
  | some (.stat, w) => some (.stat, w)
  | some (.err, w) => some (.err, w)
  | some (.fva, w) => some (.fva, w)
  | _ => none
/-- A read of a Husk engine's registers. -/
def State.hceRead (s : State) (e : BitVec 2) (r : CeReg) : DWord × State :=
  let g := s.eng (.husk e)
  match r with
  | .stat => (g.stat.setWidth 64, s)
  | .err => ((0#32) ++ g.fqerr ++ g.cqerr, s.modEng (.husk e) (fun g => { g with cqerr := 0, fqerr := 0 }))
  | .fva => (g.fva.setWidth 64, s)
  | _ => (0, s)

/-! ## Inbound windows (R325) -/

/-- The three words of window `w` of function `f`. -/
def State.iwinOf (s : State) (f : FuncNo) (w : BitVec 6) : DWord × DWord × DWord :=
  let i := 3 * (64 * f.toNat + w.toNat)
  (SMap.get 0 s.iwin i, SMap.get 0 s.iwin (i + 1), SMap.get 0 s.iwin (i + 2))

/-- Kind and element type of a request against a window's MODE and ATYPE: check 3 of R325. A claim belongs to an
accumulate window of XS64. -/
def kindMatches (k : WinKind) (w0 : DWord) : Bool :=
  match k with
  | .write => !(bit w0 1)
  | .acc a => bit w0 1 && a = bits w0 2 2 && a ≠ 3
  | .claim => bit w0 1 && (bits w0 2 2 : BitVec 2) = 2

/-- What the translation of an address of an inbound window finds. -/
inductive WinAt
  | at (pa : Nat)
  | fault
  /-- an entry in a burst with an uncorrectable error -/
  | bad (pa : Nat)
  | off (pa : Nat)
  deriving DecidableEq, Repr
/-- Translation for an inbound window: the function's page tables, as a write at S level (R325). -/
def State.windowAt (s : State) (f : FuncNo) (va : Nat) : WinAt :=
  if va < 0x100000000 || 2 ^ 48 ≤ va then .fault
  else match s.walk [] f va with
    | .leaf l _ => if l.w && l.addr va < hbmEnd then .at (l.addr va) else .fault
    | .bad pa => .bad pa
    | .off pa => .off pa
    | .fault _ => .fault

/-- Runs of a range that stay within one 4 KiB page and one 64-byte block. -/
def blockRuns : Nat → Nat → Nat → List (Nat × Nat)
  | 0, _, _ => []
  | fuel + 1, a, n => if n = 0 then [] else
    let m := min n (64 - a % 64)
    (a, m) :: blockRuns fuel (a + m) (n - m)

/-- Bytes that the slice reads for one block of a request: the bursts that a write covers in part, or the block of an
addition (R285). -/
def blockReads (k : WinKind) (pa n : Nat) : List (Nat × Nat) :=
  match k with
  | .write => (partBursts pa n).map (fun b => (b * 32, 32))
  | .acc _ => [(pa / 64 * 64, 64)]
  | .claim => []
/-- One block of an inbound write or accumulate lands at a physical address, or ends in a machine check. -/
def State.landBlock (s : State) (f : FuncNo) (k : WinKind) (cksel : Bool) (pa : Nat) (b : List Byte) : State ⊕ State :=
  match k with
  | .write =>
    match s.writeBurst pa b.length with
    | some u => .inl (s.hbmFail 4 u f none none none)
    | none => .inr ((s.hbmWrite pa b).touchReads [(pa, b.length)])
  | .acc a =>
    let kd := atypeKind a
    let el := kd.bytes
    match s.collierAdd kd f cksel pa ((List.range (b.length / el)).map (fun i =>
        (pa % 64 / el + i, leNat ((b.drop (i * el)).take el)))) with
    | .inl u => .inl (s.hbmFail 4 u f none none none)
    | .inr s1 => .inr s1
  | .claim => .inr (s.ckAdd f cksel pa (leBits 64 b))

/-- Blocks land in ascending order; false when one ends in a machine check, which ends the request. -/
def State.landBlocks (s : State) (rq : WinReq) (cksel : Bool) (va0 : Nat) : List (Nat × Nat) → Bool × State
  | [] => (true, s)
  | (va, n) :: r =>
    let s0 := s.withEccs (s.walkReads [] rq.func va) rq.ecc
    match s0.windowAt rq.func va with
    | .at pa =>
      let s1 := s0.withEccs (blockReads rq.kind pa n) rq.ecc
      match s1.landBlock rq.func rq.kind cksel pa ((rq.bytes.drop (va - va0)).take n) with
      | .inl t => (false, t)
      | .inr t => t.landBlocks rq cksel va0 r
    | .bad pa => (false, s0.hbmFail 3 (pa / 32) rq.func none none none)
    | _ => (false, s0)

/-- First address of a window request, and its runs. -/
def State.windowFirst (s : State) (rq : WinReq) : Nat :=
  (bits (s.iwinOf rq.func rq.win).1 12 36).toNat * 4096 + rq.offset.toNat
def State.windowRuns (s : State) (rq : WinReq) : List (Nat × Nat) :=
  let n := rq.bytes.length
  if rq.kind = .claim then [(s.windowFirst rq, n)] else blockRuns (n / 64 + 2) (s.windowFirst rq) n
/-- The status of the first of checks 1 to 5 that a request fails (R325, R368, R452). A window of SIZE 0 refuses every request
(R333). An entry that cannot be read is no fault of the translation. -/
def State.windowCheck (s : State) (rq : WinReq) : Option Byte :=
  let w := s.iwinOf rq.func rq.win
  let st := (s.func rq.func).st
  let mask : BitVec 16 := bits w.2.2 16 16
  let n := rq.bytes.length
  let va0 := s.windowFirst rq
  let size := min (bits w.2.1 0 29).toNat 0x10000000 * 4096
  let el : Nat := match rq.kind with
    | .acc a => (atypeKind a).bytes
    | _ => 1
  if s.unrec || !(bit w.1 0) || st = .failed || st = .resetting || st = .absent then some 4
  else if rq.srcId &&& mask ≠ bits w.2.2 0 16 &&& mask then some 4
  else if !(kindMatches rq.kind w.1) then some 4
  else if size = 0 || size < rq.offset.toNat + n then some 2
  else if va0 % el ≠ 0 || n % el ≠ 0 || (s.windowRuns rq).any (fun p => s.windowAt rq.func p.1 = .fault) then some 5
  else none
/-- A request that passed its checks lands: DONE, or FAULT when it meets an uncorrectable error. -/
def State.windowLand (s : State) (rq : WinReq) : Byte × State :=
  let r := s.landBlocks rq (bit (s.iwinOf rq.func rq.win).1 4) (s.windowFirst rq) (s.windowRuns rq)
  (if r.1 then 0 else 5, r.2)

end Sys2Proof.Machine
end

