-- ==== Sys2Proof/Machine/TimeOps.lean ====
section
/-! DEFINITION. The position timebase and the line answer port: counters, the event table, pins, answer slots, line
frames and the PT_ registers (R402–R431). -/
namespace Sys2Proof.Machine

/-! ## Ownership (R402, R403) -/

/-- The timebase acts: an owner is named and is IDLE, RUNNING or QUIESCING (R403). -/
def State.ptLive (s : State) : Bool :=
  let st := (s.func (bits s.pt.cfg 0 5)).st
  bit s.pt.cfg 5 && st ≠ .absent && st ≠ .failed && st ≠ .resetting
/-- The levels of the event pins: 0 while the timebase does not act (R403). -/
def State.pinLevels (s : State) : Byte := if s.ptLive then s.pt.level else 0
/-- What a per-function reset of the owner does (R403). -/
def Pt.ownerReset (p : Pt) : Pt :=
  { p with evt := (p.evt.map (fun q => (q.1, { q.2 with w0 := setBit q.2.w0 63 false }))).filter (fun q => q.2 ≠ {})
           slot := (p.slot.map (fun q => (q.1, { q.2 with valid := false, armed := false, served := false, late := false }))).filter
             (fun q => q.2 ≠ {})
           level := 0, pulse := 0, pulseEnd := [] }

/-! ## Counters (R405, R407, R409, R410) -/

def Pt.count (p : Pt) (c : Nat) : VAddr := SMap.get 0 p.cnt c
def Pt.ccfg_ (p : Pt) (c : Nat) : BitVec 15 := SMap.get 0 p.ccfg c
/-- SRC of a counter. -/
def Pt.src (p : Pt) (c : Nat) : Nat := (bits (p.ccfg_ c) 0 2).toNat
/-- A load of a counter fires nothing (R410). -/
def Pt.load (p : Pt) (c : Nat) (v : VAddr) : Pt := { p with cnt := SMap.set 0 p.cnt c v }

/-- The count of one accepted edge, for a counter's MULT and INV (R405): `da`, `db` tell which of A and B changed and
`a`, `b` are the new levels. An edge of A has A leading when A then differs from B; an edge of B has B leading when B
then equals A. DEDUCED (log 73). -/
def quadCount (cfg : BitVec 15) (da db a b : Bool) : Int :=
  let mult : Nat := (bits cfg 2 2).toNat
  let lead := if da then a != b else !(b == a)
  let counts := if mult = 0 then da && a else if mult = 1 then da else da || db
  let d : Int := if !counts then 0 else if lead then 1 else -1
  if bit cfg 4 then -d else d

/-- Gray code to binary (R408): bit `i` is the parity of the bits from `i` up. -/
def grayToBin (x : Word) : Word := (List.range 32).foldl (fun b k => b ^^^ x >>> k) 0
/-- Equal samples in a row that a counter's filter asks for (R404). -/
def Pt.samples (p : Pt) (c : Nat) : Nat := 4 * (bits (p.ccfg_ c) 5 8).toNat + 1
/-- The samples of its input at a counter: the port with the levels that its filter accepts, whether A and B changed together,
and the step (R404, R405). -/
def Pt.quad (p : Pt) (c : Nat) (q : QuadIn) : Pt × Bool × Int :=
  let da := bit p.qa c ≠ q.a && decide (p.samples c ≤ q.na)
  let db := bit p.qb c ≠ q.b && decide (p.samples c ≤ q.nb)
  let a := if da then q.a else bit p.qa c
  let b := if db then q.b else bit p.qb c
  ({ p with qa := setBit p.qa c a, qb := setBit p.qb c b }, da && db,
    if da && db then 0 else quadCount (p.ccfg_ c) da db a b)

/-- NBITS of PT_SSICFG. -/
def Pt.nbits (p : Pt) : Nat := (bits p.ssicfg 8 6).toNat
/-- SSI reads run (R408). -/
def Pt.ssiOn (p : Pt) : Bool := bit p.ssicfg 15 && decide (8 ≤ p.nbits) && decide (p.nbits ≤ 32)
/-- The value of a sampled word. -/
def Pt.ssiValue (p : Pt) (raw : Word) : Word :=
  let v : Word := BitVec.ofNat 32 (raw.toNat % 2 ^ p.nbits)
  if bit p.ssicfg 14 then grayToBin v else v
/-- The signed step between two SSI values (R409). -/
def ssiStep (n : Nat) (v r : Word) : Int :=
  let d : Int := ((v.toNat : Int) - r.toNat) % (2 ^ n : Int)
  if d < 2 ^ (n - 1) then d else d - 2 ^ n

/-! ## The event table (R411–R413) -/

def Pt.entry (p : Pt) (e : Nat) : EvtEntry := SMap.get {} p.evt e
def EvtEntry.pos (x : EvtEntry) : Nat := (bits x.w0 0 48).toNat
def EvtEntry.dir (x : EvtEntry) : BitVec 2 := bits x.w0 49 2
def EvtEntry.per (x : EvtEntry) : Bool := bit x.w0 51
def EvtEntry.act (x : EvtEntry) : Nat := (bits x.w0 52 3).toNat
def EvtEntry.en (x : EvtEntry) : Bool := bit x.w0 63
def EvtEntry.period (x : EvtEntry) : Nat := (bits x.w1 0 32).toNat
def EvtEntry.limit (x : EvtEntry) : Nat := (bits x.w1 32 16).toNat

/-- Whether an update from `o` by `d` passes an entry, and k before COUNT (R412). -/
def EvtEntry.pass (x : EvtEntry) (o : Nat) (d : Int) : Option Nat :=
  if bit x.dir 0 && 0 < d then
    let u : Int := ((x.pos : Int) - o) % (2 ^ 48 : Int)
    if 1 ≤ u && u ≤ d then some (if x.per then 1 + ((d - u) / x.period).toNat else 1) else none
  else if bit x.dir 1 && d < 0 then
    let w : Int := ((o : Int) - x.pos) % (2 ^ 48 : Int)
    if 1 ≤ w && w ≤ -d then some (if x.per then 1 + ((-d - w) / x.period).toNat else 1) else none
  else none

/-- The entry after it fires with k, and its sequence number (R413). -/
def EvtEntry.fire (x : EvtEntry) (k : Nat) (up : Bool) : Word × EvtEntry :=
  if !x.per then (x.seq, { x with seq := x.seq + 1, w0 := setBit x.w0 63 false })
  else
    let n := if x.limit = 0 then k else min k x.limit
    let mv : Int := if up then (n * x.period : Nat) else -((n * x.period : Nat) : Int)
    let p : VAddr := BitVec.ofInt 48 ((x.pos : Int) + mv)
    let left := x.limit - n
    let y := { x with w0 := setBits x.w0 0 48 p, seq := x.seq + BitVec.ofNat 32 n, skip := satAdd x.skip (n - 1) }
    (x.seq + BitVec.ofNat 32 (n - 1),
      if x.limit = 0 then y
      else { y with w1 := setBits y.w1 32 16 (BitVec.ofNat 16 left),
                    w0 := if left = 0 then setBit y.w0 63 false else y.w0 })

/-- The refusal of an enable (R411). -/
def EvtEntry.badEnable (x : EvtEntry) : Bool :=
  x.dir = 0 || decide (6 ≤ x.act) || (x.per && (x.dir = 3 || x.period = 0))

/-! ## Actions (R415–R418) -/

/-- A position event enters the send buffer (R416). -/
def Pt.post (p : Pt) (handle : Word) (tag : BitVec 16) (payload : Word) : Pt :=
  { p with sendBuf := p.sendBuf ++ [{ kind := 2, sender := 0xFFF, origin := 3, func := none, tag := tag,
                                      payload := [payload], handle := handle, credited := false, rtag := 0,
                                      relScope := none }] }

/-- A pin's level, with any pulse on it cancelled (R415). -/
def Pt.setPin (p : Pt) (pin : Nat) (v : Bool) : Pt :=
  { p with level := setBit p.level pin v, pulse := setBit p.pulse pin false, pulseEnd := SMap.set 0 p.pulseEnd pin 0 }
/-- A pulse starts, or starts again, `ka` places into the actions of its cycle: it ends max(WIDTH, 1) × 1,024 Husk cycles after
the end of cycle 2 + ka (R415, R418). -/
def Pt.startPulse (p : Pt) (pin width ka : Nat) : Pt :=
  { p with level := setBit p.level pin true, pulse := setBit p.pulse pin true
           pulseEnd := SMap.set 0 p.pulseEnd pin (p.time + BitVec.ofNat 64 (2 + ka + max width 1 * 1024)) }
/-- Actions 0 and 4 of the last 128 Husk cycles (R418). -/
def Pt.recentSends (p : Pt) : List DWord := p.sentAt.filter (fun t => decide ((p.time - t).toNat < 128))
/-- An action in place `ka` is counted in SLOW when it is beyond the limits of its row (R418). -/
def Pt.timed (p : Pt) (act ka : Nat) : Pt :=
  let sends := act = 0 || act = 4
  let q := if act ≠ 5 && decide (15 < ka) || sends && decide (14 ≤ p.recentSends.length) then
    { p with slow := satAdd p.slow 1 } else p
  if sends then { q with sentAt := p.time :: p.recentSends } else q

/-- The action of an entry that fired with sequence number `n` in place `ka` (R415, R418). -/
def Pt.action (p : Pt) (x : EvtEntry) (n : Word) (ka : Nat) : Pt :=
  let q := p.timed x.act ka
  let pin : Nat := (bits x.w2 0 3).toNat
  if x.act = 0 then
    q.post (bits x.w2 0 32) (bits x.w1 48 16) ((bits x.w2 32 32 : Word) + (if bit x.w0 55 then n else 0))
  else if x.act = 1 then q.setPin pin true
  else if x.act = 2 then q.setPin pin false
  else if x.act = 3 then q.startPulse pin (bits x.w2 16 16).toNat ka
  else if x.act = 4 then
    let src : Nat := (bits x.w2 32 2).toNat
    let v : VAddr := if src = 0 then q.count 0 else if src = 1 then q.count 1
      else if src = 2 then (q.ssiRef.getD 0).setWidth 48 else bits q.time 0 48
    q.post (bits x.w2 0 32) (bits v 32 16) (bits v 0 32)
  else
    { q with slot := SMap.modify {} q.slot (((bits x.w2 0 8).toNat + n.toNat) % 256) (fun t => { t with armed := true }) }

/-- An entry's old words, when it has been written in this Husk cycle (R414). -/
def Pt.oldWords (p : Pt) (e : Nat) : Option EvtEntry := if p.wasAt = p.time then SMap.get none p.was e else none
/-- A write of an entry: its words before the first write of the cycle are kept beside it (R414). -/
def Pt.writeEntry (p : Pt) (e : Nat) (f : EvtEntry → EvtEntry) : Pt :=
  let old := if p.wasAt = p.time then p.was else []
  { p with evt := SMap.modify {} p.evt e f, wasAt := p.time
           was := SMap.set none old e (some ((SMap.get none old e).getD (p.entry e))) }
/-- An entry that was written in the cycle in which its old words fire: the written words stand, and its counts go on.
DESIGN CHOICE (log 105). -/
def EvtEntry.rewritten (cur old new : EvtEntry) : EvtEntry :=
  { cur with seq := cur.seq + (new.seq - old.seq), skip := satAdd cur.skip (new.skip - old.skip).toNat }
/-- Entries of counter `c` that an update fires, in ascending order, each with its sequence number and new form; one that has been
written in this cycle takes part with its old words (R414). -/
def Pt.fired (p : Pt) (c : Nat) (o : Nat) (d : Int) : List (Nat × EvtEntry × Word × EvtEntry) :=
  ((p.was.foldl (fun m q => SMap.set false m q.1 true) (p.evt.map (fun q => (q.1, true)))).map (fun q => q.1)).filterMap (fun e =>
    let x := (p.oldWords e).getD (p.entry e)
    if x.en && b2n (bit x.w0 48) = c then
      match x.pass o d with
      | some k =>
        let r := x.fire k (0 < d)
        some (e, x, r.1, match p.oldWords e with
          | some old => (p.entry e).rewritten old r.2
          | none => r.2)
      | none => none
    else none)

/-- Fired entries take their new forms. -/
def Pt.store (p : Pt) : List (Nat × EvtEntry × Word × EvtEntry) → Pt
  | [] => p
  | (e, _, _, y) :: r => ({ p with evt := SMap.set {} p.evt e y } : Pt).store r

/-- The updates of a list of counters in turn, with the entries that they fire and their sequence numbers (R412). -/
def Pt.updates (p : Pt) (live : Bool) : List (Nat × Int) → Pt × List (EvtEntry × Word)
  | [] => (p, [])
  | (c, d) :: r =>
    let o := (p.count c).toNat
    let fs := if live then p.fired c o d else []
    let q := ((p.store fs).load c (BitVec.ofInt 48 ((o : Int) + d))).updates live r
    (q.1, fs.map (fun f => (f.2.1, f.2.2.1)) ++ q.2)

/-- The actions of fired entries, in order from place `ka` (R414, R415). -/
def Pt.actions (p : Pt) : List (EvtEntry × Word) → Nat → Pt
  | [], _ => p
  | (x, n) :: r, ka => (p.action x n ka).actions r (ka + 1)

/-- Updates of one Husk cycle, counter 0's first: the counters, the entries they fire, and the actions in order, after those
that the cycle has already seen (R412–R414). -/
def State.counterSteps (s : State) (us : List (Nat × Int)) : State :=
  let r := s.pt.updates s.ptLive us
  let ka := if s.pt.actAt = s.pt.time then s.pt.actN else 0
  { s with pt := { r.1.actions r.2 ka with actAt := s.pt.time, actN := ka + r.2.length } }

/-- The change of a counter from its new and old value as a signed 48-bit step. -/
def signed48 (d : VAddr) : Int := d.toInt

/-! ## Answer slots and line frames (R419–R424) -/

def Pt.slotAt (p : Pt) (i : Nat) : Slot := SMap.get {} p.slot i
def Pt.modSlot (p : Pt) (i : Nat) (f : Slot → Slot) : Pt := { p with slot := SMap.modify {} p.slot i f }
/-- A write that an armed slot ignores (R421). -/
def Pt.lateWrite (p : Pt) (i : Nat) : Pt :=
  { p.modSlot i (fun x => { x with late := true }) with latewr := satAdd p.latewr 1 }
/-- A write of ITEM or WORD (R421). -/
def Pt.slotWord (p : Pt) (i : Nat) (ans : Bool) (w : Word) : Pt :=
  if (p.slotAt i).armed then p.lateWrite i
  else p.modSlot i (fun x => if ans then { x with ans := w } else { x with item := w })
/-- A write of PT_SCTL (R421). -/
def Pt.slotCtl (p : Pt) (i : Nat) (valid free : Bool) : Pt :=
  let q := if free then p.modSlot i (fun x => { x with valid := false, armed := false, served := false, late := false }) else p
  if !valid then q
  else if (q.slotAt i).armed then q.lateWrite i
  else q.modSlot i (fun x => { x with valid := true })

/-- An answer frame with its CRC, most significant byte first (R420). -/
def answerFrame (addr op : Byte) (item : List Byte) (w : Word) : List Byte :=
  let b := addr :: op :: item ++ bytesOf w 4
  let c := crc16 b
  b ++ [bits c 8 8, bits c 0 8]

/-- The lookup of a QUERY: the answer's OP and WORD, and the port after it (R422). -/
def Pt.lookup (p : Pt) (live : Bool) (item : Word) : Byte × Word × Pt :=
  let i : Nat := (bits item 0 8).toNat
  let x := p.slotAt i
  let no (r : Word) : Byte × Word × Pt := (0x82, r, { p with laNrdy := satAdd p.laNrdy 1 })
  if !live then no 4
  else if !x.valid then no 1
  else if x.item ≠ item then no 2
  else if !x.armed then (0x82, 3, { p with laNrdy := satAdd p.laNrdy 1, laNrarm := satAdd p.laNrarm 1 })
  else (0x81, x.ans, { p.modSlot i (fun x => { x with served := true }) with laAnswer := satAdd p.laAnswer 1 })

/-- A frame of the line is discarded under R419. -/
def Pt.badFraming (p : Pt) : Pt := { p with laFraming := satAdd p.laFraming 1 }

/-- A whole frame reaches the port (R419, R422, R424). -/
def State.lineFrame (s : State) (b : List Byte) : State :=
  let p := s.pt
  if !(bit p.lacfg 14) || p.lade then s
  else if b.length ≠ 8 then { s with pt := p.badFraming }
  else
    let c := crc16 (b.take 6)
    let item := (b.drop 2).take 4
    let addr := nth b 0 0
    let op := nth b 1 0
    if nth b 6 0 ≠ bits c 8 8 || nth b 7 0 ≠ bits c 0 8 then { s with pt := { p with laBadcrc := satAdd p.laBadcrc 1 } }
    else if addr ≠ bits p.lacfg 0 8 then s
    else if op = 1 then
      let r := p.lookup s.ptLive (leBits 32 item)
      { s with pt := { r.2.2 with laQuery := satAdd p.laQuery 1, answer := some (answerFrame addr r.1 item r.2.1) } }
    else if op = 2 then
      let run : Word := if bit p.cfg 5 && (s.func (bits p.cfg 0 5)).st = .running then 1 else 0
      { s with pt := { p with answer := some (answerFrame addr 0x83 item run) } }
    else
      { s with pt := { p with laReject := satAdd p.laReject 1,
                              answer := some (answerFrame addr 0x8F item (op.setWidth 32)) } }

/-! ## Registers (R426–R431) -/

/-- A register of the PT_ block. -/
inductive PtReg
  | cfg
  | time
  | cnt (c : Nat)
  | ccfg (c : Nat)
  | zlat (c : Nat)
  | ssicfg
  | ssival
  | pincfg
  | pin
  | err
  | everr
  | lacfg
  | lacnt0
  | lacnt1
  | evt (e w : Nat)
  | sitem (i : Nat)
  | sans (i : Nat)
  | sctl (i : Nat)
  deriving DecidableEq, Repr

/-- The PT_ register at an offset and its width in bytes (R426). -/
def ptReg (o : Nat) : Option (PtReg × Nat) :=
  if o = 0 then some (.cfg, 4)
  else if o = 8 then some (.time, 8)
  else if o = 0x40 then some (.ssicfg, 8)
  else if o = 0x48 then some (.ssival, 8)
  else if o = 0x50 then some (.pincfg, 4)
  else if o = 0x58 then some (.pin, 4)
  else if o = 0x60 then some (.err, 8)
  else if o = 0x68 then some (.everr, 8)
  else if o = 0x70 then some (.lacfg, 4)
  else if o = 0x78 then some (.lacnt0, 8)
  else if o = 0x80 then some (.lacnt1, 8)
  else match arr o 0x10 8 2 with
  | some i => some (.cnt i, 8)
  | none => match arr o 0x20 8 2 with
  | some i => some (.ccfg i, 4)
  | none => match arr o 0x30 8 2 with
  | some i => some (.zlat i, 8)
  | none => match arr o 0x10000 8 4096 with
  | some i => some (.evt (i / 4) (i % 4), 8)
  | none => match arr o 0x20000 32 256 with
  | some i => some (.sitem i, 4)
  | none => match arr o 0x20008 32 256 with
  | some i => some (.sans i, 4)
  | none => match arr o 0x20010 32 256 with
  | some i => some (.sctl i, 4)
  | none => none

/-- A read of a PT_ register. -/
def State.ptRead (s : State) (r : PtReg) : DWord × State :=
  let p := s.pt
  match r with
  | .cfg => (p.cfg.setWidth 64, s)
  | .time => (p.time, s)
  | .cnt c => ((p.count c).setWidth 64, s)
  | .ccfg c => ((p.ccfg_ c).setWidth 64, s)
  | .zlat c => ((SMap.get 0 p.zlat c).setWidth 64, s)
  | .ssicfg => (p.ssicfg.setWidth 64, s)
  | .ssival => ((0#31) ++ b2v p.ssiRef.isSome ++ p.ssiRef.getD 0, s)
  | .pincfg => ((0#48) ++ p.pol ++ p.oe, s)
  | .pin => ((0#48) ++ p.pulse ++ s.pinLevels, s)
  | .err => (p.slow ++ p.ssierr ++ p.qerr1 ++ p.qerr0, { s with pt := { p with qerr0 := 0, qerr1 := 0, ssierr := 0, slow := 0 } })
  | .everr =>
    (p.latewr ++ p.evDropped ++ p.evClosed ++ p.evStale,
      { s with pt := { p with evStale := 0, evClosed := 0, evDropped := 0, latewr := 0 } })
  | .lacfg => (p.lacfg.setWidth 64, s)
  | .lacnt0 =>
    (p.laBadcrc ++ p.laNrdy ++ p.laAnswer ++ p.laQuery,
      { s with pt := { p with laQuery := 0, laAnswer := 0, laNrdy := 0, laBadcrc := 0 } })
  | .lacnt1 =>
    ((0#16) ++ p.laNrarm ++ p.laReject ++ p.laFraming, { s with pt := { p with laFraming := 0, laReject := 0, laNrarm := 0 } })
  | .evt e w =>
    let x := p.entry e
    (nth [x.w0, x.w1, x.w2, (0#15) ++ b2v x.cfgerr ++ x.skip ++ x.seq] w 0, s)
  | .sitem i => ((p.slotAt i).item.setWidth 64, s)
  | .sans i => ((p.slotAt i).ans.setWidth 64, s)
  | .sctl i =>
    let x := p.slotAt i
    ((0#59) ++ b2v x.served ++ b2v x.late ++ (0#1) ++ b2v x.armed ++ b2v x.valid, s)

/-- A write of word `w` of an event-table entry (R411, R430). -/
def EvtEntry.write (x : EvtEntry) (w : Nat) (v : DWord) : EvtEntry :=
  if x.en then (if w = 0 && !(bit v 63) then { x with w0 := setBit x.w0 63 false } else x)
  else if w = 0 then
    let y := { x with w0 := setBit (v &&& 0x80FFFFFFFFFFFFFF) 63 false }
    if !(bit v 63) then y
    else if y.badEnable then { y with cfgerr := true }
    else { y with w0 := setBit y.w0 63 true, seq := 0, cfgerr := false }
  else if w = 1 then { x with w1 := v }
  else if w = 2 then { x with w2 := v }
  else x

/-- A write of a PT_ register. -/
def State.ptWrite (s : State) (r : PtReg) (v : DWord) : State :=
  let p := s.pt
  match r with
  | .cfg =>
    let s1 := { s with pt := { p with cfg := bits v 0 6 } }
    if s1.ptLive then s1 else { s1 with pt := { s1.pt with level := 0 } }
  | .cnt c => { s with pt := p.load c (bits v 0 48) }
  | .ccfg c => { s with pt := { p with ccfg := SMap.set 0 p.ccfg c (bits v 0 15) } }
  | .ssicfg =>
    let q := { p with ssicfg := bits v 0 32 }
    { s with pt := if bit v 15 then q else { q with ssiRef := none, ssiBusy := false } }
  | .pincfg => { s with pt := { p with oe := bits v 0 8, pol := bits v 8 8 } }
  | .pin => { s with pt := { p with level := if s.ptLive then bits v 0 8 else 0, pulse := 0, pulseEnd := [] } }
  | .lacfg => { s with pt := { p with lacfg := bits v 0 15 } }
  | .evt e w => { s with pt := p.writeEntry e (fun x => x.write w v) }
  | .sitem i => { s with pt := p.slotWord i false (bits v 0 32) }
  | .sans i => { s with pt := p.slotWord i true (bits v 0 32) }
  | .sctl i => { s with pt := p.slotCtl i (bit v 0) (bit v 2) }
  | _ => s

end Sys2Proof.Machine
end

