-- ==== Sys2Proof/Machine/PowerOps.lean ====
section
/-! DEFINITION. Power domains, the droop and thermal steps, and the CD_ and PW_ registers (R484–R505, R523, R530). -/
namespace Sys2Proof.Machine

/-! ## Domains (R484–R490) -/

/-- A power domain's state. -/
def State.dom (s : State) (d : Domain) : Power :=
  match d with
  | .half c so => (s.cob c).half so
  | .memif c => (s.cob c).memif
  | .kiln1 => s.pw.kiln1
/-- A power domain's new state. -/
def State.setDom (s : State) (d : Domain) (p : Power) : State :=
  match d with
  | .half c true => s.modCob c (fun x => { x with south := p })
  | .half c false => s.modCob c (fun x => { x with north := p })
  | .memif c => s.modCob c (fun x => { x with memif := p })
  | .kiln1 => { s with pw := { s.pw with kiln1 := p } }

/-- A wake: an off domain switches on, one that is switching off does so as soon as its sequence ends (R488, R489). A
mode-1 half never wakes; Kiln 1 follows R490. No Cob domain is on while Kiln 0 is off, so nothing wakes before the fabric
phase has switched it on (R13, R469). -/
def State.wake (s : State) (d : Domain) : State :=
  let up (s : State) (d : Domain) : State :=
    match s.dom d with
    | .off => s.setDom d .goingOn
    | .goingOff _ => s.setDom d (.goingOff true)
    | _ => s
  if !s.alive || !s.pw.kiln0 then s
  else match d with
  | .half c so =>
    let s0 := s.modCob c (fun x => if so then { x with idleS := 0 } else { x with idleN := 0 })
    if s.halfMode c so = 1 then s0 else up (up s0 (.memif c)) d
  | .memif _ => up s d
  | .kiln1 => s

/-- A request for a slice wakes its domain (R282, R488). -/
def State.wakeSlice (s : State) (pa : Nat) : State := if s.sliceOn pa then s else s.wake (.memif (slicePaCob pa))

/-- The tiles of a half. -/
def halfTiles (c : CobNo) (so : Bool) : List TileId :=
  (List.range 128).map (fun i => BitVec.ofNat 12 (256 * c.toNat + (if so then 128 else 0) + i))

/-- Epochs and ACT that the power manager records at switch-off (R487, R489). -/
def State.recordHalf (s : State) (c : CobNo) (so : Bool) : State :=
  (halfTiles c so).foldl (fun a t =>
    let tl := s.tile t
    a.modCob c (fun x =>
      { x with
        acts := SMap.set 0 x.acts (t.toNat % 256) tl.quietAct
        epochs := (List.range 16).foldl (fun m q =>
          SMap.set 0 m (t.toNat % 256 * 16 + q) (tl.queue (BitVec.ofNat 4 q)).epoch) x.epochs })) s

/-- A half loses every piece of its state; the owner and the vector bases of each tile are fixed by the image (R472,
R486). -/
def State.loseHalf (s : State) (c : CobNo) (so : Bool) : State :=
  (halfTiles c so).foldl (fun a t => a.modTile t (fun tl => { ({} : Tile) with func := tl.func, mvbase := tl.mvbase, svbase := tl.svbase })) s

/-- A half may begin to switch off (R484, R485). -/
def State.halfMayOff (s : State) (c : CobNo) (so : Bool) : Bool :=
  let x := s.cob c
  let idle := if so then x.idleS else x.idleN
  s.halfMode c so = 2 && x.half so = .on && s.ld.phase = 5 && s.halfIdle c so
    && decide ((SMap.get 0 s.plan.dwin c.toNat).toNat * 65536 ≤ idle)

/-- An accumulator that is not zero. -/
def Slice.busy (x : Slice) : Bool := x.acc ≠ []

/-- A piece of a chunk lies in the slices of a Cob. -/
def pieceOn (c : CobNo) (p : Piece) : Bool :=
  let at_ (g : EngTo) : Bool := match g with
    | .hbm pa => sliceCob (sliceOf pa) = c.toNat
    | _ => false
  at_ p.src || at_ p.dst
/-- Chunks in flight on every engine. -/
def State.allChunks (s : State) : List Chunk :=
  s.tiles.flatMap (fun p => p.2.eng.inflight) ++ s.heng.flatMap (fun p => p.2.inflight)

/-- A memory interface may begin to switch off: both halves off, every accumulator zero, no request in flight to its slices and
no sweep over them; the blocks its colliers hold are written back first (R282, R290, R387, R392). -/
def State.memifMayOff (s : State) (c : CobNo) : Bool :=
  let x := s.cob c
  SMap.get 0 s.plan.mmode c.toNat = 1 && x.memif = .on && x.north = .off && x.south = .off && s.ld.phase = 5 && !x.ckBusy
    && s.slices.all (fun p => sliceCob p.1 ≠ c.toNat || !(p.2.busy))
    && !(s.reqs.any (fun r => r.ans.isNone && (match r.dst with
        | .hbm pa => sliceCob (sliceOf pa) = c.toNat
        | _ => false)))
    && !(s.allChunks.any (fun k => k.pieces.any (pieceOn c)))
    && !(s.winHeld.any (fun h => (s.windowRuns h.2).any (fun p => match s.windowAt h.2.func p.1 with
        | .at pa => sliceCob (sliceOf pa) = c.toNat
        | _ => false)))

/-- The colliers of a Cob write back every block they hold, which repairs its bursts (R287, R290). -/
def State.writeBack (s : State) (c : CobNo) : State :=
  let l := (s.slices.filter (fun p => sliceCob p.1 = c.toNat)).flatMap (fun p => p.2.held)
  { s with hbmBad := s.hbmBad.filter (fun p => !(l.contains (p.1 / 2)))
           slices := (s.slices.map (fun p => p.1)).foldl (fun m i =>
             if sliceCob i = c.toNat then SMap.modify {} m i (fun x => { x with held := [] }) else m) s.slices }

/-! ## Clock steps (R495–R501) -/

/-- A droop step-down (R495). -/
def Cob.stepDown (x : Cob) : Cob :=
  if x.droop = 3 then x else { x with droop := x.droop + 1, sags := satAdd x.sags 1 }
/-- A clean step-up (R496). -/
def Cob.stepUp (x : Cob) : Cob := if x.droop = 0 then x else { x with droop := x.droop - 1 }

/-- A sensor's latest reading (R505). -/
def Temp.read (x : Temp) (v : Byte) : Temp := { cur := v, max := if x.max.toNat < v.toNat then v else x.max }
/-- The trip: TRIP, every thermal step 3, and THERMTRIP_N low (R501, R541). -/
def State.trip (s : State) : State :=
  let s1 := (List.range 16).foldl (fun a i => a.modCob (BitVec.ofNat 4 i) (fun x => { x with therm := 3 })) s
  { s1 with pw := { s1.pw with trip := true }, lands := { s1.lands with thermtrip := true } }

/-! ## Registers (R502–R505, R523, R530) -/

/-- The CD_ register at an offset: its width; all are 32 bits. -/
def cdReg (o : Nat) : Option Nat :=
  if o = 0 || o = 8 || o = 0x10 || (arr o 0x100 8 32).isSome then some 4 else none
/-- The common pool of a Cob (R493). -/
def State.cordPool (s : State) (c : CobNo) : Nat :=
  SMap.get 0 s.plan.budget c.toNat - (allFuncs.map (fun f => s.resOf c f)).sum
/-- A read of a CD_ register. -/
def State.cdRead (s : State) (c : CobNo) (o : Nat) : DWord × State :=
  if o = 0 then (BitVec.ofNat 64 (SMap.get 0 s.plan.budget c.toNat % 512 + s.cordPool c % 512 * 512), s)
  else if o = 8 then
    (BitVec.ofNat 64 ((allFuncs.map (fun f => s.heldBy c f)).sum % 512 + (s.cob c).claims.length % 512 * 512), s)
  else if o = 0x10 then ((s.cob c).refuse.setWidth 64, s.modCob c (fun x => { x with refuse := 0 }))
  else
    let f : FuncNo := BitVec.ofNat 5 ((o - 0x100) / 8)
    (BitVec.ofNat 64 (s.resOf c f % 512 + s.heldBy c f % 512 * 65536), s)

/-- A register of the PW_ block. -/
inductive PwReg
  | dom
  | thr
  | clk (c : Nat)
  | tdie (d : Nat)
  | tstk (i : Nat)
  | rail (n : Nat)
  | dlnk (l : Nat)
  | slc (i : Nat)
  deriving DecidableEq, Repr

/-- The PW_ register at an offset and its width in bytes. -/
def pwReg (o : Nat) : Option (PwReg × Nat) :=
  if o = 0 then some (.dom, 8)
  else if o = 8 then some (.thr, 4)
  else match arr o 0x100 8 16 with
  | some i => some (.clk i, 8)
  | none => match arr o 0x200 8 20 with
  | some i => some (.tdie i, 4)
  | none => match arr o 0x300 8 32 with
  | some i => some (.tstk i, 4)
  | none => match arr o 0x400 8 16 with
  | some i => some (.rail i, 4)
  | none => match arr o 0x1000 8 54 with
  | some i => some (.dlnk i, 8)
  | none => match arr o 0x2000 8 1024 with
  | some i => some (.slc i, 4)
  | none => none

/-- A read of a PW_ register. The current and voltage of a rail are measured quantities, so each read of PW_RAIL draws a
free value. -/
def State.pwRead (s : State) (r : PwReg) : DWord × State :=
  let bitsOf (g : Cob → Power) : Nat :=
    ((List.range 16).map (fun i => if g (s.cob (BitVec.ofNat 4 i)) = .on then 2 ^ i else 0)).sum
  match r with
  | .dom =>
    (BitVec.ofNat 64 (bitsOf (fun x => x.north) + bitsOf (fun x => x.south) * 2 ^ 16 + bitsOf (fun x => x.memif) * 2 ^ 32
      + b2n s.pw.kiln0 * 2 ^ 48 + b2n (s.pw.kiln1 = .on) * 2 ^ 49), s)
  | .thr => ((0#55) ++ b2v s.pw.trip ++ s.plan.thot, s)
  | .clk c =>
    let i : CobNo := BitVec.ofNat 4 c
    let x := s.cob i
    (x.sags ++ (0#24) ++ SMap.get 0 s.plan.ceil c ++ x.therm ++ x.droop ++ BitVec.ofNat 2 (s.clkStep i),
      s.modCob i (fun x => { x with sags := 0 }))
  | .tdie d =>
    let x := SMap.get {} s.pw.tdie d
    ((0#48) ++ x.max ++ x.cur, { s with pw := { s.pw with tdie := SMap.set {} s.pw.tdie d { x with max := 0 } } })
  | .tstk i =>
    let x := SMap.get {} s.pw.tstk i
    ((0#48) ++ x.max ++ x.cur, { s with pw := { s.pw with tstk := SMap.set {} s.pw.tstk i { x with max := 0 } } })
  | .rail _ => ((Config.free s.free 0 32 : Word).setWidth 64, { s with free := s.free + 1 })
  | .dlnk l =>
    let i : DLink := BitVec.ofNat 6 l
    let x := s.link i
    ((0#24) ++ x.retrain ++ x.replay ++ x.crcerr, s.modLink i (fun x => { x with crcerr := 0, replay := 0, retrain := 0 }))
  | .slc i => ((s.slice i).corr.setWidth 64, s.modSlice i (fun x => { x with corr := 0 }))

end Sys2Proof.Machine
end

