-- ==== Sys2Proof/Machine/Sha3.lean ====
section
/-! DEFINITION. SHA3-256, which R463, R467, R476 and R478 name: the sponge of FIPS 202 over Keccak-f[1600]. -/
namespace Sys2Proof.Machine

/-- A state of 25 lanes, lane x of row y at x + 5y. -/
abbrev Lanes := List (BitVec 64)
def Lanes.at_ (a : Lanes) (i : Nat) : BitVec 64 := a.getD i 0

/-- Rotation of each lane in step ρ. -/
def rhoOffsets : List Nat :=
  [0, 1, 62, 28, 27, 36, 44, 6, 55, 20, 3, 10, 43, 25, 39, 41, 45, 15, 21, 8, 18, 2, 61, 56, 14]
/-- Constants of step ι. -/
def roundConstants : List (BitVec 64) :=
  [0x0000000000000001, 0x0000000000008082, 0x800000000000808A, 0x8000000080008000, 0x000000000000808B,
   0x0000000080000001, 0x8000000080008081, 0x8000000000008009, 0x000000000000008A, 0x0000000000000088,
   0x0000000080008009, 0x000000008000000A, 0x000000008000808B, 0x800000000000008B, 0x8000000000008089,
   0x8000000000008003, 0x8000000000008002, 0x8000000000000080, 0x000000000000800A, 0x800000008000000A,
   0x8000000080008081, 0x8000000000008080, 0x0000000080000001, 0x8000000080008008]

/-- Step θ. -/
def theta (a : Lanes) : Lanes :=
  let c : Lanes := (List.range 5).map (fun x =>
    a.at_ x ^^^ a.at_ (x + 5) ^^^ a.at_ (x + 10) ^^^ a.at_ (x + 15) ^^^ a.at_ (x + 20))
  (List.range 25).map (fun i => a.at_ i ^^^ c.at_ ((i + 4) % 5) ^^^ (c.at_ ((i + 1) % 5)).rotateLeft 1)
/-- Steps ρ and π. -/
def rhoPi (a : Lanes) : Lanes :=
  (List.range 25).map (fun i =>
    let j := (i % 5 + 3 * (i / 5)) % 5 + 5 * (i % 5)
    (a.at_ j).rotateLeft (rhoOffsets.getD j 0))
/-- Step χ. -/
def chi (b : Lanes) : Lanes :=
  (List.range 25).map (fun i =>
    let y := i / 5 * 5
    b.at_ i ^^^ (~~~(b.at_ (y + (i + 1) % 5)) &&& b.at_ (y + (i + 2) % 5)))
/-- One round. -/
def keccakRound (a : Lanes) (rc : BitVec 64) : Lanes :=
  match chi (rhoPi (theta a)) with
  | x :: r => (x ^^^ rc) :: r
  | [] => []
/-- The permutation of 24 rounds. -/
def keccakF (a : Lanes) : Lanes := roundConstants.foldl keccakRound a

/-- Bytes of a block. -/
def sha3Rate : Nat := 136
/-- Blocks are absorbed. -/
def absorb : Nat → List Byte → Lanes → Lanes
  | 0, _, a => a
  | n + 1, b, a =>
    absorb n (b.drop sha3Rate) (keccakF ((List.range 25).map (fun i =>
      if i < 17 then a.at_ i ^^^ leBits 64 ((b.drop (8 * i)).take 8) else a.at_ i)))
/-- SHA3-256 of a byte string. -/
def sha3_256 (b : List Byte) : List Byte :=
  let n := b.length / sha3Rate + 1
  let z := n * sha3Rate - b.length
  let pad : List Byte := if z = 1 then [0x86] else 0x06 :: (List.replicate (z - 2) 0 ++ [0x80])
  ((absorb n (b ++ pad) (List.replicate 25 0)).take 4).flatMap (fun x => bytesOf x 8)

end Sys2Proof.Machine
end

