-- ==== Sys2Proof/Machine/LoadOps.lean ====
section
/-! DEFINITION. The boot flash, the Dyori image and its verification, attestation reports and the LD_ registers
(R460–R468, R474–R483). SHA3-256 is computed; VROOT and ML-DSA-44 are opaque constants of Config. -/
namespace Sys2Proof.Machine

/-! ## Flash contents (R460, R461) -/

/-- Contents of a device. -/
def Loader.flash (l : Loader) (dev : Bool) : SMap Byte := if dev then l.flash1 else l.flash0
def Loader.setFlash (l : Loader) (dev : Bool) (m : SMap Byte) : Loader :=
  if dev then { l with flash1 := m } else { l with flash0 := m }
def Loader.present (l : Loader) (dev : Bool) : Bool := if dev then l.present1 else l.present0
/-- `n` bytes of a device; an unlisted byte reads 0xFF. -/
def flashBytes (m : SMap Byte) (a : Nat) : Nat → List Byte
  | 0 => []
  | n + 1 => SMap.get 0xFF m a :: flashBytes m (a + 1) n
/-- A field of `n` bytes, least significant byte first. -/
def flashNat (m : SMap Byte) (a n : Nat) : Nat := leNat (flashBytes m a n)
/-- Bytes are programmed: bits already 0 stay 0 (R474). -/
def flashProgram (m : SMap Byte) (a : Nat) : List Byte → SMap Byte
  | [] => m
  | b :: r => flashProgram (SMap.modify 0xFF m a (fun x => x &&& b)) (a + 1) r
/-- A 64 KiB sector is erased. -/
def flashErase (m : SMap Byte) (a : Nat) : SMap Byte :=
  m.filter (fun c => !(decide (a ≤ c.1) && decide (c.1 < a + 65536)))

/-! ## The image header and section table (R462–R464) -/

def imgSlot : Nat := 0x7F00000
def sigBytes : Nat := 2420
def imgNsect (m : SMap Byte) : Nat := flashNat m 6 2
def imgSigOff (m : SMap Byte) : Nat := flashNat m 0x10 4
/-- End of the signed region. -/
def imgSigned (m : SMap Byte) : Nat := 0x1400 + 64 * imgNsect m
/-- Entry `i` of the section table. -/
def imgEntry (m : SMap Byte) (i : Nat) : Section :=
  let a := 0x1400 + 64 * i
  { type := flashNat m a 4, offset := flashNat m (a + 8) 8, length := flashNat m (a + 16) 8,
    digest := flashBytes m (a + 24) 32 }
def imgEntries (m : SMap Byte) : List Section := (List.range (imgNsect m)).map (imgEntry m)
/-- Two runs of bytes overlap. -/
def overlap (a n b k : Nat) : Bool := decide (a < b + k) && decide (b < a + n)
/-- Placement of section `i` fails R463. -/
def badPlace (m : SMap Byte) (l : List Section) (i : Nat) (e : Section) : Bool :=
  e.offset % 4096 ≠ 0 || e.length = 0 || decide (imgSlot < e.offset + e.length)
    || overlap e.offset e.length 0 (imgSigned m) || overlap e.offset e.length (imgSigOff m) sigBytes
    || (List.range i).any (fun j => let x := nth l j { type := 0, offset := 0, length := 0, digest := [] }
        overlap e.offset e.length x.offset x.length)
/-- Sections of a type. -/
def countType (l : List Section) (t : Nat) : Nat := (l.filter (fun e => e.type = t)).length
/-- Counts of R464, and a TYPE that it does not list. -/
def badCounts (l : List Section) : Bool :=
  countType l 1 ≠ 1 || countType l 2 ≠ 1 || decide (1 < countType l 6) || decide (1 < countType l 7)
    || decide (1 < countType l 8) || l.any (fun e => e.type = 0 || decide (8 < e.type))

/-! ## Section contents (R464, R465, R491, R492) -/

/-- A table of one byte per number. -/
def byteTable (m : SMap Byte) (a n : Nat) : List Nat := (flashBytes m a n).map (fun b => b.toNat)
/-- Owner of each tile, and DEF and MGMT of each function, from a FUNCTIONS section. -/
def fnOwner (m : SMap Byte) (a t : Nat) : Nat := flashNat m (a + t) 1
def fnDef (m : SMap Byte) (a f : Nat) : Bool := flashNat m (a + 4096 + 8 * f) 1 % 2 = 1
def fnMgmt (m : SMap Byte) (a f : Nat) : Bool := flashNat m (a + 4096 + 8 * f) 1 / 2 % 2 = 1

/-- A FUNCTIONS section breaches R464 or R465. -/
def badFunctions (m : SMap Byte) (e : Section) : Bool :=
  e.length ≠ 4352 || decide (1 < ((List.range 32).filter (fnMgmt m e.offset)).length)
    || (List.range 32).any (fun f => decide (3 < flashNat m (e.offset + 4096 + 8 * f) 8))
    || (List.range 4096).any (fun t => let o := fnOwner m e.offset t
        o ≠ 0xFF && (decide (32 ≤ o) || !(fnDef m e.offset o)))

/-- A PLAN section breaches R492; `fo` is the FUNCTIONS section's offset. -/
def badPlan (m : SMap Byte) (fo : Nat) (e : Section) : Bool :=
  let a := e.offset
  let b (o : Nat) : Nat := flashNat m (a + o) 1
  let zero (o n : Nat) : Bool := flashNat m (a + o) n = 0
  let owns (f c : Nat) : Bool := (List.range 256).any (fun i => fnOwner m fo (256 * c + i) = f)
  e.length ≠ 704 || flashNat m a 4 ≠ 1 || decide (1 < b 4) || b 5 = 0 || decide (50 < b 5)
    || decide (b 6 < b 5 + 10) || decide (95 < b 6) || decide (b 7 < 20) || decide (100 < b 7)
    || decide (b 8 < 85) || decide (105 < b 8) || !(zero 9 7) || !(zero 0xB0 16)
    || (List.range 16).any (fun c =>
        let o := 0x10 + 8 * c
        let bud := flashNat m (a + 0x90 + 2 * c) 2
        decide (2 < b o) || decide (2 < b (o + 1)) || decide (1 < b (o + 2)) || b (o + 3) = 0 || decide (3 < b (o + 4))
          || !(zero (o + 5) 3) || bud = 0 || decide (256 < bud)
          || (b o = 1 && (List.range 128).any (fun i => fnOwner m fo (256 * c + i) ≠ 0xFF))
          || (b (o + 1) = 1 && (List.range 128).any (fun i => fnOwner m fo (256 * c + 128 + i) ≠ 0xFF))
          || (List.range 32).any (fun f => b (0xC0 + 16 * f + c) ≠ 0 && !(owns f c))
          || decide (bud < ((List.range 32).map (fun f => b (0xC0 + 16 * f + c))).sum))

/-- An image field of a register: its width, the bits whose column reads "image" or a dash, and the value of the
rest (R465). -/
structure ImgReg where
  width : Nat
  mask : DWord
  rest : DWord
  deriving DecidableEq, Repr

/-- The register at a block's offset, when it holds an image field. -/
def Blk.img (b : Blk) : Option ImgReg :=
  match b with
  | .ct t o =>
    match ctReg o with
    | some (.id, _) => some ⟨4, 0x3F0000, (0#32) ++ (1#8) ++ (0#12) ++ t⟩
    | some (.tctl _, _) => some ⟨4, 0x733FFF, 0⟩
    | some (.pmem _, _) => some ⟨4, 0x3FFF, 0⟩
    | some (.lmcfg, _) => some ⟨4, 0x1F, 0⟩
    | some (.place, _) => some ⟨4, 0xFFF1, 0⟩
    | some (.pbb, _) => some ⟨4, 0x7FFF3FFF, 0⟩
    | some (.memb _, _) => some ⟨4, 0xFFF, 0⟩
    | some (.quiet, _) => some ⟨8, 0xFFFF000000000000, 0⟩
    | some (.hzctl, _) => some ⟨4, 0xF, 0⟩
    | _ => none
  | .qt _ o =>
    match qtReg o with
    | some (.qcfg _, _) => some ⟨4, 0x1FFFFF7, 0⟩
    | some (.sctl _, _) => some ⟨4, 1, 0⟩
    | some (.mgrp _, _) => some ⟨8, 0xFF1FFFFFFF, 0⟩
    | _ => none
  | .ce _ o =>
    match ceReg o with
    | some (.fqh, _) => some ⟨4, 0xFFFFFFFF, 0⟩
    | _ => none
  | .fn _ o =>
    if o = 0 then some ⟨8, 0x1FFF0047, 0⟩ else if o = 0x18 then some ⟨8, 0x3FFFFFFFF000, 0⟩ else none
  | .cns _ 0 => some ⟨8, 1, 0⟩
  | .pt o =>
    match ptReg o with
    | some (.cfg, _) => some ⟨4, 0x3F, 0⟩
    | some (.cnt _, _) => some ⟨8, 0xFFFFFFFFFFFF, 0⟩
    | some (.ccfg _, _) => some ⟨4, 0x7FFF, 0⟩
    | some (.ssicfg, _) => some ⟨8, 0xFFFFFFFF, 0⟩
    | some (.pincfg, _) => some ⟨4, 0xFFFF, 0⟩
    | some (.lacfg, _) => some ⟨4, 0x7FFF, 0⟩
    | some (.evt _ 0, _) => some ⟨8, 0x80FFFFFFFFFFFFFF, 0⟩
    | some (.evt _ 1, _) => some ⟨8, 0xFFFFFFFFFFFFFFFF, 0⟩
    | some (.evt _ 2, _) => some ⟨8, 0xFFFFFFFFFFFFFFFF, 0⟩
    | _ => none
  | .ld 0 => some ⟨8, 0xFFFFFFFF000000F0, 0xD⟩
  | .cd _ o => if o = 0 then some ⟨4, 0x3FFFF, 0⟩ else if (arr o 0x100 8 32).isSome then some ⟨4, 0x1FF, 0⟩ else none
  | .pw o => if o = 8 then some ⟨4, 0xFF, 0⟩ else if (arr o 0x100 8 16).isSome then some ⟨8, 0xC3, 0⟩ else none
  | _ => none
/-- The register that a SETTINGS record names, when it holds an image field. -/
def imgReg (pa : Nat) : Option ImgReg := match csrBlk pa with
  | some b => b.img
  | none => none
/-- A SETTINGS record: its address and value, or none when it breaches R465. -/
def settingAt (m : SMap Byte) (a : Nat) : Option (Nat × DWord) :=
  let w0 : DWord := BitVec.ofNat 64 (flashNat m a 8)
  let v : DWord := BitVec.ofNat 64 (flashNat m (a + 8) 8)
  let pa : Nat := (bits w0 0 46).toNat
  match imgReg pa with
  | none => none
  | some r =>
    if bits w0 47 17 ≠ 0 || bit w0 46 ≠ (r.width = 8 : Bool) || (!(bit w0 46) && bits v 32 32 ≠ 0)
        || v &&& ~~~r.mask ≠ r.rest then none
    else some (pa, v)
/-- Records of a SETTINGS section; none for a breach. -/
def settings (m : SMap Byte) (e : Section) : Option (List (Nat × DWord)) :=
  let l := (List.range (e.length / 16)).map (fun i => settingAt m (e.offset + 16 * i))
  if e.length % 16 ≠ 0 || l.any (fun x => x.isNone) then none else some (l.filterMap id)

/-- Records of an HBMDATA section from `a` with `n` bytes left: physical address, flash offset and length. -/
def hbmRecords (m : SMap Byte) : Nat → Nat → Nat → Option (List (Nat × Nat × Nat))
  | 0, _, n => if n = 0 then some [] else none
  | fuel + 1, a, n =>
    if n = 0 then some []
    else
      let pa := flashNat m a 8
      let len := flashNat m (a + 8) 8
      if n < 16 || len = 0 || len % 8 ≠ 0 || n - 16 < len || hbmEnd < pa + len then none
      else (hbmRecords m fuel (a + 16 + len) (n - 16 - len)).map (fun l => (pa, a + 16, len) :: l)

/-- A PROGRAM or FIRMWARE record. -/
structure ProgRec where
  box : BitVec 32
  start : Nat
  count : Nat
  mvbase : Nat
  svbase : Nat
  words : Nat
  deriving DecidableEq, Repr

/-- The box names tile `t` (R250). -/
def inBox (box : BitVec 32) (t : TileId) : Bool :=
  decide ((bits box 0 4).toNat ≤ (bits t 8 4).toNat) && decide ((bits t 8 4).toNat ≤ (bits box 4 4).toNat)
    && decide ((bits box 8 4).toNat ≤ (bits t 4 4).toNat) && decide ((bits t 4 4).toNat ≤ (bits box 12 4).toNat)
    && decide ((bits box 16 4).toNat ≤ (bits t 0 4).toNat) && decide ((bits t 0 4).toNat ≤ (bits box 20 4).toNat)
/-- The box names no tile. -/
def emptyBox (box : BitVec 32) : Bool :=
  decide ((bits box 4 4).toNat < (bits box 0 4).toNat) || decide ((bits box 12 4).toNat < (bits box 8 4).toNat)
    || decide ((bits box 20 4).toNat < (bits box 16 4).toNat)

/-- Records of a PROGRAM section from `a` with `n` bytes left; none for a breach of R464 or R465. -/
def progRecords (m : SMap Byte) : Nat → Nat → Nat → Option (List ProgRec)
  | 0, _, n => if n = 0 then some [] else none
  | fuel + 1, a, n =>
    if n = 0 then some []
    else
      let r : ProgRec := { box := BitVec.ofNat 32 (flashNat m a 4), start := flashNat m (a + 4) 2,
                           count := flashNat m (a + 6) 2, mvbase := flashNat m (a + 8) 2,
                           svbase := flashNat m (a + 10) 2, words := a + 12 }
      let k := (12 + 2 * r.count + 7) / 8 * 8
      if n < 12 || n < k || emptyBox r.box || 16384 < r.start + r.count
          || (List.range r.count).any (fun i => decide (0x4000 ≤ flashNat m (r.words + 2 * i) 2)) then none
      else (progRecords m fuel (a + k) (n - k)).map (fun l => r :: l)

/-- A window entry of a CXL section: BASE, SIZE, WAYS, the code of GRAN, EN and the targets as link numbers 2n + l. -/
structure CxlWin where
  base : Nat
  size : Nat
  ways : Nat
  gran : Nat
  en : Bool
  targets : List Nat
  deriving DecidableEq, Repr
/-- Window entry `w` of a CXL section (R464). -/
def cxlEntry (m : SMap Byte) (e : Section) (w : Nat) : CxlWin :=
  let a := e.offset + 4 + 32 * w
  { base := flashNat m a 4, size := flashNat m (a + 4) 4, ways := flashNat m (a + 8) 1, gran := flashNat m (a + 9) 1,
    en := flashNat m (a + 10) 1 = 1,
    targets := (flashBytes m (a + 12) 8).map (fun (b : Byte) => 2 * (b.toNat % 4) + b.toNat / 4 % 2) }
/-- A CXL section breaches R464 or R297: a port use above 2, or an enabled entry with a number of ways or a granularity
that R297 does not list. -/
def badCxl (m : SMap Byte) (e : Section) : Bool :=
  e.length ≠ 260 || (List.range 4).any (fun n => decide (2 < flashNat m (e.offset + n) 1))
    || (List.range 8).any (fun w =>
        let x := cxlEntry m e w
        x.en && (!([1, 2, 4, 8].contains x.ways) || decide (6 < x.gran)))

/-- A section's contents breach R465. -/
def badContent (m : SMap Byte) (fo : Nat) (e : Section) : Bool :=
  if e.type = 1 then badPlan m fo e
  else if e.type = 2 then badFunctions m e
  else if e.type = 3 then (settings m e).isNone
  else if e.type = 4 then (hbmRecords m (e.length / 16 + 1) e.offset e.length).isNone
  else if e.type = 5 || e.type = 6 then (progRecords m (e.length / 12 + 1) e.offset e.length).isNone
  else if e.type = 7 then
    e.length ≠ 16 || (List.range 16).any (fun g =>
      decide ((if g = 3 || g = 4 then 2 else if g < 6 then 1 else 0) < flashNat m (e.offset + g) 1))
  else badCxl m e

/-! ## Verification (R467) -/

/-- Offset of the FUNCTIONS section. -/
def fnOffset (l : List Section) : Nat := ((l.filter (fun e => e.type = 2)).map (fun e => e.offset)).headD 0

/-- Offset of the PLAN section. -/
def planOffset (l : List Section) : Nat := ((l.filter (fun e => e.type = 1)).map (fun e => e.offset)).headD 0
/-- The mode that a PLAN gives the half of a tile (R491). -/
def planMode (m : SMap Byte) (a : Nat) (t : TileId) : Nat :=
  flashNat m (a + 0x10 + 8 * (tileCob t).toNat + b2n (tileSouth t)) 1
/-- SETTINGS records of an image that the restore store keeps: those of tiles in mode-2 halves (R487). -/
def restoreRecords (m : SMap Byte) (l : List Section) : List (Nat × DWord) :=
  ((l.filter (fun e => e.type = 3)).flatMap (fun e => (settings m e).getD [])).filter (fun r =>
    match csrTile r.1 with
    | some t => planMode m (planOffset l) t = 2
    | none => false)

def vendorPk (m : SMap Byte) : List Byte := flashBytes m 0x20 1312
def ownerPk (m : SMap Byte) : List Byte := flashBytes m 0x548 1312
/-- OCERT is Skovsa's signature over OWNER_ID and OWNER_PK (R462). -/
def certOk (m : SMap Byte) : Bool := Config.mlDsaVerify (vendorPk m) (flashBytes m 0x540 1320) (flashBytes m 0xA68 sigBytes)
/-- The image signature is the owner's over the signed region (R462). -/
def signedOk (m : SMap Byte) : Bool :=
  Config.mlDsaVerify (ownerPk m) (flashBytes m 0 (imgSigned m)) (flashBytes m (imgSigOff m) sigBytes)
/-- A section's bytes do not match its DIGEST (R463). -/
def badDigest (m : SMap Byte) (e : Section) : Bool := sha3_256 (flashBytes m e.offset e.length) ≠ e.digest

/-- The first check that an image fails: its code and the image offset of the failing item; (0, 0) when it passes. `answers`
tells whether the device answers every read within 10 ms. -/
def verifyImage (present answers : Bool) (m : SMap Byte) : Nat × Nat :=
  let l := imgEntries m
  let n := imgNsect m
  let ix := List.range l.length
  let at_ (i : Nat) : Section := imgEntry m i
  if !present then (1, 0)
  else if !answers then (9, 0)
  else if flashNat m 0 4 ≠ 0x49525944 then (2, 0)
  else if flashNat m 4 2 ≠ 1 then (2, 4)
  else if sha3_256 (vendorPk m) ≠ Config.vroot then (3, 0x20)
  else if !(certOk m) then (4, 0xA68)
  else if n = 0 || 64 < n then (7, 6)
  else if imgSigOff m % 8 ≠ 0 || imgSlot < imgSigOff m + sigBytes || overlap (imgSigOff m) sigBytes 0 (imgSigned m) then
    (7, 0x10)
  else match (ix.filter (fun i => badPlace m l i (at_ i))).head? with
    | some i => (7, 0x1400 + 64 * i)
    | none =>
      if badCounts l then (7, 0x1400)
      else if !(signedOk m) then (5, imgSigOff m)
      else match (ix.filter (fun i => badDigest m (at_ i))).head? with
        | some i => (6, (at_ i).offset)
        | none =>
          match (ix.filter (fun i => badContent m (fnOffset l) (at_ i))).head? with
          | some i => (8, (at_ i).offset)
          | none => if 2097152 < 16 * (restoreRecords m l).length then (8, planOffset l) else (0, 0)

/-- A result in the layout of LD_ERRA, LD_ERRB and LD_CHK (R483). -/
def errWord (r : Nat × Nat) : DWord := BitVec.ofNat 64 (r.1 + r.2 * 2 ^ 32)

/-! ## Flash operations (R474) -/

/-- The status that refuses an operation at once, or none when it starts. -/
def Loader.flashRefuses (l : Loader) (op : Nat) (dev : Bool) (a : Nat) : Option (BitVec 3) :=
  let len := if op = 3 then 65536 else 4096
  if 5 ≤ op then some 3
  else if op ≠ 4 && a % len ≠ 0 then some 3
  else if op ≠ 4 && 0x8000000 < a + len then some 2
  else if (op = 2 || op = 3) && 0x7F00000 < a + len then some 4
  else if !(l.present dev) then some 5
  else none

/-- A write of LD_FCMD; `quick` tells whether the device would answer every read of a CHECK within 10 ms. -/
def Loader.flashCmd (l : Loader) (w : DWord) (quick : Bool) : Loader :=
  let op : Nat := (bits w 0 3).toNat
  if op = 0 || l.fbusy then l
  else
    let k := { l with fop := bits w 0 3, fdev := bit w 3, faddr := bits w 32 32 }
    match l.flashRefuses op (bit w 3) (bits w 32 32 : Word).toNat with
    | some st => { k with fstatus := st }
    | none => { k with fbusy := true, fquick := quick }

/-- The operation ends; after more than 2 s it ends with FAULT. -/
def Loader.flashDone (l : Loader) (timeout : Bool) : Loader :=
  if !l.fbusy then l
  else
    let a := l.faddr.toNat
    let k := { l with fbusy := false, fstatus := if timeout then 5 else 0 }
    if timeout then k
    else if l.fop = 1 then { k with fwin := Memory.setBytes [] 0 (flashBytes (l.flash l.fdev) a 4096) }
    else if l.fop = 2 then k.setFlash l.fdev (flashProgram (l.flash l.fdev) a (l.fwin.bytes 0 4096))
    else if l.fop = 3 then k.setFlash l.fdev (flashErase (l.flash l.fdev) a)
    else { k with chk := errWord (verifyImage (l.present l.fdev) l.fquick (l.flash l.fdev)) }

/-! ## Attestation (R477, R478) -/

/-- A byte string cut or zero-filled to `n` bytes. -/
def fitBytes (n : Nat) (l : List Byte) : List Byte := (l ++ List.replicate (n - l.length) 0).take n

/-- The report that the next signature completes. -/
def Loader.report (l : Loader) (sig : List Byte) : List Byte :=
  let other : DWord := if l.slot then l.erra else l.errb
  let c : Byte := bits other 0 8
  let failed := c ≠ 0 && c ≠ 0x0A
  leBytes 4 0x54415944 ++ leBytes 2 1 ++ leBytes 1 (b2n l.slot) ++ leBytes 1 (b2n l.debug + 2 * b2n failed)
    ++ bytesOf l.version 4 ++ leBytes 4 0 ++ bytesOf l.nonce 32 ++ bytesOf l.meas 64 ++ fitBytes 32 l.okh
    ++ fitBytes 32 l.idkh ++ leBytes 8 (l.aseq + 1) ++ leBytes 8 0 ++ fitBytes sigBytes sig

/-- A write of LD_ACMD. -/
def Loader.attest (l : Loader) (go : Bool) : Loader := if l.abusy || !go then l else { l with abusy := true }
/-- Signing ends (R477). -/
def Loader.signed (l : Loader) (sig : List Byte) : Loader :=
  if !l.abusy then l
  else if !l.idv then { l with abusy := false, aresult := 1 }
  else { l with abusy := false, aresult := 0, arep := l.report sig, aseq := l.aseq + 1 }

/-! ## Registers (R481–R483) -/

/-- A register of the LD_ block. -/
inductive LdReg
  | stat
  | erra
  | errb
  | chk
  | cxl
  | fcmd
  | acmd
  | nonce (k : Nat)
  | meas (k : Nat)
  | fwin (k : Nat)
  | idpk (k : Nat)
  | arep (k : Nat)
  deriving DecidableEq, Repr

/-- The LD_ register at an offset and its width in bytes. -/
def ldReg (o : Nat) : Option (LdReg × Nat) :=
  if o = 0 then some (.stat, 8)
  else if o = 8 then some (.erra, 8)
  else if o = 0x10 then some (.errb, 8)
  else if o = 0x18 then some (.chk, 8)
  else if o = 0x20 then some (.cxl, 4)
  else if o = 0x28 then some (.fcmd, 8)
  else if o = 0x30 then some (.acmd, 4)
  else match arr o 0x40 8 4 with
  | some i => some (.nonce i, 8)
  | none => match arr o 0x80 8 8 with
  | some i => some (.meas i, 8)
  | none => match arr o 0x1000 8 512 with
  | some i => some (.fwin i, 8)
  | none => match arr o 0x2000 8 164 with
  | some i => some (.idpk i, 8)
  | none => match arr o 0x3000 8 327 with
  | some i => some (.arep i, 8)
  | none => none

/-- A read of an LD_ register. SLOT reads 0 until the image is applied, and in PHASE 6 (R483, R554). -/
def Loader.read (l : Loader) (r : LdReg) : DWord :=
  match r with
  | .stat => l.version ++ (0#24) ++ b2v l.hlpb ++ b2v l.idv ++ b2v l.debug ++ b2v (l.slot && l.slotv) ++ b2v l.slotv ++ l.phase
  | .erra => l.erra
  | .errb => l.errb
  | .chk => l.chk
  | .cxl => (0#48) ++ l.ldown ++ l.woff
  | .fcmd => l.faddr ++ (0#24) ++ l.fstatus ++ b2v l.fbusy ++ b2v l.fdev ++ l.fop
  | .acmd => (0#60) ++ l.aresult ++ b2v l.abusy ++ (0#1)
  | .nonce k => bits l.nonce (64 * k) 64
  | .meas k => bits l.meas (64 * k) 64
  | .fwin k => leBits 64 (l.fwin.bytes (8 * k) 8)
  | .idpk k => if l.idv then leBits 64 (fitBytes 8 (l.idpk.drop (8 * k))) else 0
  | .arep k => leBits 64 (fitBytes 8 (l.arep.drop (8 * k)))

/-- A write of an LD_ register. -/
def Loader.write (l : Loader) (r : LdReg) (v : DWord) (quick : Bool) : Loader :=
  match r with
  | .fcmd => l.flashCmd v quick
  | .acmd => l.attest (bit v 0)
  | .nonce k => if l.abusy then l else { l with nonce := setBits l.nonce (64 * k) 64 v }
  | .fwin k => { l with fwin := l.fwin.setBytes (8 * k) (bytesOf v 8) }
  | _ => l

end Sys2Proof.Machine
end

