-- ==== Sys2Proof/Machine/HostOps.lean ====
section
/-! DEFINITION. The command engines: rings, commands, completions and events, function states, per-function reset and
the FN_ registers (R440–R459). -/
namespace Sys2Proof.Machine

/-! ## Rings (R442, R443, R456) -/

/-- Entries of a ring; SZ 17 to 31 act as 16. -/
def ringEntries (r : DWord) : Nat := 2 ^ min (bits r 0 5).toNat 16
/-- Host address of a ring. -/
def ringHost (r : DWord) : DWord := (bits r 12 52 : BitVec 52) ++ (0#12)
/-- The completion ring has no room for an entry. -/
def Func.full (x : Func) : Bool := (x.qtail.toNat + 1) % ringEntries x.cqb = x.qhead.toNat % ringEntries x.cqb
/-- Commands announced and not read. -/
def Func.ahead (x : Func) : Nat :=
  let n := ringEntries x.crb
  (x.ctail.toNat % n + n - x.chead.toNat % n) % n
/-- A request of a kind waits on some port. -/
def State.asked (s : State) (w : OutFor) : Bool := s.ports.any (fun p => p.2.out.any (fun o => o.2 = w))

/-- Reading commands: one RD of up to 64 entries, while both rings are enabled, nothing waits to be written and the part
is in service (R442, R452). -/
def State.fetch (s : State) (f : FuncNo) : State :=
  let x := s.func f
  let n := ringEntries x.crb
  let h := x.chead.toNat % n
  let k := min x.ahead (min 64 (n - h))
  if x.st = .absent || s.unrec || !(bit x.crb 5) || !(bit x.cqb 5) || x.comps ≠ [] || k = 0 || s.asked (.ring f) then s
  else match s.hostPort with
    | none => s
    | some p =>
      s.ask p { type := 0x20, func := f, dst := (s.port p).peer, tag := 0, status := 0, attr := 0,
                addr := ringHost x.crb + BitVec.ofNat 64 (64 * h), data := [], len := 64 * k } (.ring f)

/-- Codes of the function states (R448). -/
def fnCode : FnSt → BitVec 3
  | .absent => 0
  | .idle => 1
  | .running => 2
  | .quiescing => 3
  | .failed => 4
  | .resetting => 5

/-- FN_STAT (R444, R455). -/
def State.fnStat (s : State) (f : FuncNo) : DWord :=
  let x := s.func f
  (0#35) ++ BitVec.ofNat 13 (s.tilesOf f).length ++ (0#9) ++ b2v x.mgmt ++ b2v x.mcr
    ++ b2v (x.events ≠ [] && x.full) ++ b2v x.qreq ++ fnCode x.st

/-- A DOORBELL: the indices, the DBACK, and reading of commands (R441, R442). -/
def State.doorbellAt (s : State) (p : PortNo) (f : FuncNo) (tail head : BitVec 16) : State :=
  if (s.port p).st ≠ 2 then s
  else
    let s1 := if (s.func f).st = .absent then s
      else s.modFunc f (fun x => { x with ctail := BitVec.ofNat 16 (tail.toNat % ringEntries x.crb)
                                          qhead := BitVec.ofNat 16 (head.toNat % ringEntries x.cqb) })
    let x := s1.func f
    let w : Word := x.chead ++ (0#12) ++ b2v s.unrec ++ fnCode x.st
    (s1.replyOn p { type := 2, func := f, dst := 0, tag := 0, status := 0, attr := 0, addr := 0, data := bytesOf w 4,
                    len := 4 }).fetch f

/-! ## Completions (R442–R447) -/

/-- A completion falls due; a FORMAT status is counted (R447, R458). -/
def Func.finish (x : Func) (cid : Word) (status op : Byte) (result : DWord) : Func :=
  { x with comps := x.comps ++ [{ cid := cid, status := status, op := op, result := result }]
           errFormat := if status = 3 then satAdd x.errFormat 1 else x.errFormat }
def Cmd.word (c : Cmd) (i : Nat) : Word := nth c.words i 0
def Cmd.op (c : Cmd) : Byte := bits (c.word 0) 0 8
def Cmd.cid (c : Cmd) : Word := c.word 1
/-- A doubleword argument. -/
def Cmd.arg64 (c : Cmd) (i : Nat) : DWord := c.word (i + 1) ++ c.word i

/-- The command at the head completes. -/
def State.endCmd (s : State) (f : FuncNo) (status : Byte) (result : DWord) : State :=
  s.modFunc f (fun x =>
    match x.cmds with
    | c :: r => { x with cmds := r }.finish c.cid status c.op result
    | [] => x)
/-- The command at the head changes. -/
def Func.modHead (x : Func) (g : Cmd → Cmd) : Func :=
  match x.cmds with
  | c :: r => { x with cmds := g c :: r }
  | [] => x

/-- The bits that each command uses, from word 0; the rest must be 0 (R443, R447). -/
def cmdMask (op : Byte) : Option (List Word) :=
  let all : Word := 0xFFFFFFFF
  let h : List Word := [0xFF, all]
  if op = 0x01 || op = 0x02 || op = 0x60 then some h
  else if op = 0x10 then some (h ++ [all, all, 0xFFF, 0x3FFF, 0x7FFF])
  else if op = 0x11 then some (h ++ [0x3FFF, 0x3FFF])
  else if op = 0x12 then some (h ++ [0xF0FFF])
  else if op = 0x20 then some (h ++ [all, all, all, all, all, 1])
  else if op = 0x30 then some (h ++ [all, 0x3FFFF, all, all, all, all])
  else if op = 0x40 then some (h ++ [all, all])
  else if op = 0x50 then some (h ++ [all])
  else none
/-- Bits outside a list of masks. -/
def strayBits : List Word → List Word → Bool
  | [], _ => false
  | w :: r, [] => w ≠ 0 || strayBits r []
  | w :: r, m :: k => w &&& ~~~m ≠ 0 || strayBits r k
/-- Payload words of a MSG. -/
def Cmd.msgWords (c : Cmd) : Nat := (bits (c.word 3) 16 2).toNat + 1
/-- A field value that is never valid (R208, R307, R447). -/
def Cmd.badField (c : Cmd) : Bool :=
  (c.op = 0x30 && (badHandle (c.word 2) || (List.range 4).any (fun i => decide (c.msgWords ≤ i) && c.word (4 + i) ≠ 0)))
    || (c.op = 0x40 && bits (c.word 2) 0 12 ≠ 0) || (c.op = 0x20 && bits (c.word 5) 16 16 ≠ 0)
/-- The FORMAT check. -/
def Cmd.badFormat (c : Cmd) : Bool :=
  match cmdMask c.op with
  | none => true
  | some m => strayBits c.words m || c.badField
/-- The STATE check (R448). -/
def accepts (st : FnSt) (op : Byte) : Bool :=
  match st with
  | .absent => false
  | .idle => op ≠ 0x30 && op ≠ 0x50
  | .running => op ≠ 0x10 && op ≠ 0x40
  | .quiescing => op = 1 || op = 2 || op = 0x60
  | .failed => op = 1 || op = 2 || op = 0x60
  | .resetting => op = 1 || op = 2

/-- The entry of an earlier command, other than a COPY, waits to be written. DEDUCED (log 55): a command is complete once its
entry has been written, and the next one starts after that (R442, R445). -/
def Func.owes (x : Func) : Bool := x.comps.any (fun c => !c.post && c.op ≠ 0x20)
/-- Commands with an unknown OP complete with FORMAT when they come to the head. -/
def State.skipUnknown (s : State) (f : FuncNo) : Nat → State
  | 0 => s
  | n + 1 =>
    match (s.func f).cmds with
    | c :: _ => if (cmdMask c.op).isNone && !(s.func f).owes then (s.endCmd f 3 0).skipUnknown f n else s
    | [] => s
/-- The command at the head runs when it has the OP: FORMAT, then STATE, then `body` (R445, R447). -/
def State.runHead (s : State) (f : FuncNo) (op : Byte) (body : Cmd → State → State) : State :=
  let s1 := s.skipUnknown f (s.func f).cmds.length
  match (s1.func f).cmds with
  | [] => s1
  | c :: _ =>
    if c.op ≠ op || c.started || (s1.func f).owes then s1
    else if c.badFormat then s1.endCmd f 3 0
    else if !(accepts (s1.func f).st op) then s1.endCmd f 1 0
    else body c s1

/-- Every thread of a tile that a mask names is STOPPED. -/
def Tile.stopped (tl : Tile) (mask : BitVec 4) : Bool :=
  ([0, 1, 2, 3] : List Thr).all (fun h => !(bit mask h.toNat) || (tl.th h).run = .stopped)
/-- The domain of a tile must be on before a command reaches it (R488). -/
def State.tileReady (s : State) (t : TileId) : Bool := s.tileOn t && (s.tile t).zeroed

/-- A command that names a tile wakes its half, and waits (R488). -/
def State.wakeTile (s : State) (t : TileId) : State :=
  if s.tileOn t then s else s.wake (.half (tileCob t) (tileSouth t))

/-- PMEM asks for its next words: up to 4,096 bytes (R436, R447). -/
def State.pmemAsk (s : State) (f : FuncNo) (c : Cmd) : State :=
  match s.hostPort with
  | none => s
  | some p =>
    let left := (c.word 6).toNat - c.got
    (s.ask p { type := 0x20, func := f, dst := (s.port p).peer, tag := 0, status := 0, attr := 0,
               addr := c.arg64 2 + BitVec.ofNat 64 (2 * c.got), data := [], len := min 4096 (2 * left) }
      (.pmem f)).modFunc f (fun x => x.modHead (fun k => { k with started := true }))
/-- PMEM's checks (R447). -/
def State.pmemCmd (s : State) (f : FuncNo) (c : Cmd) : State :=
  let t : TileId := bits (c.word 4) 0 12
  let n := (c.word 6).toNat
  if !((s.tile t).stopped 15) then s.endCmd f 1 0
  else if (s.tile t).func ≠ some f then s.endCmd f 4 0
  else if 16384 < n || 16384 < (c.word 5).toNat + n then s.endCmd f 2 0
  else if n = 0 then s.endCmd f 0 0
  else if !(s.tileReady t) then s.wakeTile t
  else s.pmemAsk f c
/-- Program words are written from host bytes, the low 14 bits of each 16 (R48, R447). -/
def Tile.loadWords (tl : Tile) (a : Nat) : Nat → List Byte → Tile
  | 0, _ => tl
  | n + 1, b =>
    Tile.loadWords { tl with pmem := SMap.set 0 tl.pmem a (BitVec.ofNat 14 (leNat (b.take 2)))
                             pbad := SMap.set false tl.pbad a false } (a + 1) n (b.drop 2)
/-- Host bytes of PMEM go into program memory, and the next are asked for; while the tile is off they wait and wake it
(R447, R488). -/
def State.pmemWords (s : State) (f : FuncNo) (c : Cmd) (b : List Byte) : State :=
  let t : TileId := bits (c.word 4) 0 12
  if !(s.tileReady t) then (s.modFunc f (fun x => x.modHead (fun _ => { c with data := some b }))).wakeTile t
  else
    let total := (c.word 6).toNat
    let n := min (b.length / 2) (total - c.got)
    let s1 := s.modTile t (fun tl => tl.loadWords ((c.word 5).toNat + c.got) n b)
    let k := { c with got := c.got + n, data := none }
    let s2 := s1.modFunc f (fun x => x.modHead (fun _ => k))
    if total ≤ k.got then s2.endCmd f 0 0 else s2.pmemAsk f k
/-- The answer to PMEM's read. -/
def State.pmemData (s : State) (f : FuncNo) (status : Byte) (b : List Byte) : State :=
  match (s.func f).cmds with
  | [] => s
  | c :: _ =>
    if c.op ≠ 0x10 || !c.started then s
    else if status ≠ 0 then s.endCmd f 5 (BitVec.ofNat 64 c.got)
    else s.pmemWords f c b
/-- The PMEM at the head of a ring whose host bytes wait for its tile. -/
def State.pmemHeld (s : State) (f : FuncNo) : Option (Cmd × List Byte) :=
  match (s.func f).cmds with
  | c :: _ => if c.op = 0x10 && c.started then c.data.map (fun b => (c, b)) else none
  | [] => none

/-- TCTL (R447). -/
def State.tctlCmd (s : State) (f : FuncNo) (c : Cmd) : State :=
  let t : TileId := bits (c.word 2) 0 12
  let h : Thr := bits (c.word 2) 12 2
  if (s.th t h).run ≠ .stopped then s.endCmd f 1 0
  else if (s.tile t).func ≠ some f then s.endCmd f 4 0
  else if !(s.tileReady t) then s.wakeTile t
  else (s.modTh t h (fun x => { x with pc := bits (c.word 3) 0 14, slv := false, moved := 0, part := [] })).endCmd f 0 0
/-- START (R447, R448). -/
def State.startCmd (s : State) (f : FuncNo) (c : Cmd) : State :=
  let t : TileId := bits (c.word 2) 0 12
  let mask : BitVec 4 := bits (c.word 2) 16 4
  let hs := ([0, 1, 2, 3] : List Thr).filter (fun h => bit mask h.toNat && (s.th t h).run = .stopped)
  if (s.tile t).func ≠ some f then s.endCmd f 4 0
  else if mask = 0 then s.endCmd f 0 0
  else if !(s.tileReady t) then s.wakeTile t
  else
    let s1 := s.modTile t (fun tl => hs.foldl (fun a h => (a.modTh h (fun x => { x with slv := false })).start h) tl)
    (s1.modFunc f (fun x => if hs = [] then x else { x with st := .running })).endCmd f 0 0

/-- The Husk engine that takes a COPY of function f: the one of its Husk with fewer jobs, up to 8 (R326, R440). -/
def State.copyEngine (s : State) (f : FuncNo) : Option (BitVec 2) :=
  let a : BitVec 2 := BitVec.ofNat 2 (2 * (f.toNat % 2))
  let na := (s.eng (.husk a)).jobs.length
  let nb := (s.eng (.husk (a + 1))).jobs.length
  if na ≤ nb && na < 8 then some a else if nb < 8 then some (a + 1) else none
/-- COPY: the command is handed to a Husk engine and the next one may start (R445, R447). -/
def State.copyCmd (s : State) (f : FuncNo) (c : Cmd) : State :=
  match s.copyEngine f with
  | none => s
  | some e =>
    let j : CopyJob := { func := f, cid := c.cid, host := c.arg64 2, dev := c.arg64 4, len := c.word 6,
                         toHost := bit (c.word 7) 0 }
    (s.modEng (.husk e) (fun g => { g with jobs := g.jobs ++ [j], st := .running })).modFunc f (fun x =>
      { x with cmds := x.cmds.tail })
/-- A COPY of a function is not complete. -/
def State.copying (s : State) (f : FuncNo) : Bool := s.heng.any (fun p => p.2.jobs.any (fun j => j.func = f))

/-- The command engine of function f's Husk (R440). -/
def cmdSender (f : FuncNo) : Sender := .cmd (decide (f.toNat % 2 = 1))
/-- MSG: a data message of a Husk source, a package-scope release, after every earlier COPY (R214, R241, R350, R445). -/
def State.msgCmd (s : State) (f : FuncNo) (c : Cmd) : State :=
  let h := c.word 2
  let n := c.msgWords
  let u := cmdSender f
  let k := s.sendSide u
  if s.copying f then s
  else if (s.tile (hTile h)).func ≠ some f then s.endCmd f 4 0
  else if !(k.ready h (ringBytes n)) then s.askCredit u h (ringBytes n) (some f)
  else if k.freeTag.isNone then s
  else
    let m : Msg := { kind := 0, sender := 0xFFF, origin := BitVec.ofNat 4 (1 + 4 * (f.toNat % 2)), func := some f,
                     tag := bits (c.word 3) 0 16, payload := (List.range n).map (fun i => c.word (4 + i)), handle := h,
                     credited := k.credited h, rtag := 0, relScope := some .package }
    ((s.modSend u (fun y => y.use h (ringBytes n))).emit u (.command f) m false []).modFunc f (fun x =>
      x.modHead (fun c => { c with started := true }))
/-- The response to a MSG completes it. -/
def State.msgDone (s : State) (f : FuncNo) (r : Resp) : State :=
  match (s.func f).cmds with
  | [] => s
  | c :: _ =>
    if c.op ≠ 0x30 || !c.started then s
    else match r with
      | .accepted => s.endCmd f 0 0
      | .stale => s.endCmd f 5 1
      | .closed => s.endCmd f 5 2
      | .dropped => s.endCmd f 5 3

/-- SETPT (R319, R447). -/
def State.setptCmd (s : State) (f : FuncNo) (c : Cmd) : State :=
  let root := c.arg64 2
  if hbmEnd ≤ root.toNat then s.endCmd f 2 0
  else ((s.modFunc f (fun x => { x with ptr := root })).invAll f).endCmd f 0 0

/-- QUIESCE (R369, R449). -/
def State.quiesceCmd (s : State) (f : FuncNo) (c : Cmd) : State :=
  match (s.tilesOf f).head? with
  | none => (s.modFunc f (fun x => { x with st := .idle })).endCmd f 0 0
  | some t =>
    (s.modFunc f (fun x => { x with qreq := true, st := .quiescing }.modHead (fun _ => { c with started := true }))).modTh t 0
      (fun x => { x with sws := true })
/-- The conditions of R449. -/
def State.fnQuiet (s : State) (f : FuncNo) : Bool :=
  (s.tilesOf f).all (fun t =>
    let tl := s.tile t
    tl.stopped 15 && tl.send.sent = [] && tl.sbuf = [] && tl.mx = [] && tl.eng.st = .idle && tl.eng.out = []
      && tl.eng.inflight = [])
  && !(s.copying f)
/-- A QUIESCE is in progress at the head. -/
def Func.quiescing (x : Func) : Option Cmd :=
  match x.cmds with
  | c :: _ => if x.st = .quiescing && c.op = 0x50 && c.started then some c else none
  | [] => none

/-! ## Completion entries (R442–R444, R446) -/

/-- The entry that is written next: a completion or post, else an event. -/
def Func.nextEntry (x : Func) : Option (Comp × Func) :=
  match x.comps with
  | c :: r => some (c, { x with comps := r })
  | [] =>
    match x.events with
    | (code, res) :: r => some ({ cid := 0xFFFFFFFF, status := code, op := 0, result := res }, { x with events := r })
    | [] => none
/-- The 16 bytes of an entry (R443). -/
def Comp.bytes (c : Comp) (phase : Bool) : List Byte :=
  bytesOf c.cid 4 ++ bytesOf ((0#8) ++ c.op ++ (0#7) ++ b2v phase ++ c.status) 4 ++ bytesOf c.result 8
/-- One entry is written into the completion ring (R442). -/
def State.writeEntry (s : State) (f : FuncNo) : State :=
  let x := s.func f
  if !(bit x.cqb 5) || x.full then s
  else match x.nextEntry, s.hostPort with
    | some (c, y), some p =>
      let n := ringEntries x.cqb
      let i := x.qtail.toNat % n
      let q := (i + 1) % n
      ((s.ask p { type := 0x10, func := f, dst := (s.port p).peer, tag := 0, status := 0, attr := 0,
                  addr := ringHost x.cqb + BitVec.ofNat 64 (16 * i), data := c.bytes x.phase, len := 16 }
        (.compWrite f)).modFunc f (fun _ =>
          { y with qtail := BitVec.ofNat 16 q, phase := if q = 0 then !x.phase else x.phase })).fetch f
    | _, _ => s

/-- Commands arrive from the ring (R442, R445). -/
def State.ringData (s : State) (f : FuncNo) (status : Byte) (b : List Byte) : State :=
  let x := s.func f
  if status ≠ 0 || s.unrec || !(bit x.crb 5) || x.st = .absent then s
  else
    let n := b.length / 64
    let cs := (List.range n).map (fun i => ({ words := toWords 16 (b.drop (64 * i)), started := false } : Cmd))
    let s1 := s.modFunc f (fun x =>
      { x with cmds := x.cmds ++ cs, chead := BitVec.ofNat 16 ((x.chead.toNat + n) % ringEntries x.crb) })
    s1.fetch f

/-- A post of function f: the state, or none when it is refused (R446). -/
def State.postEntry (s : State) (f : FuncNo) (w : DWord) : Option State :=
  let x := s.func f
  let held := (x.comps.filter (fun c => c.post)).length
  if 16 ≤ held && (!(bit x.cqb 5) || x.full) then none
  else some (s.modFunc f (fun x =>
    { x with comps := x.comps ++ [{ cid := bits w 0 32, status := bits w 32 8, op := 0, post := true,
                                    result := (bits w 40 24 : BitVec 24).setWidth 64 }] }))
/-- A refused post is counted. -/
def State.postRefused (s : State) (f : FuncNo) : State := s.modFunc f (fun x => { x with errPost := satAdd x.errPost 1 })

/-- A write of FN_CRB or FN_CQB (R444, R456). -/
def State.writeRing (s : State) (f : FuncNo) (cq : Bool) (w : DWord) : State :=
  let x := s.func f
  if x.st ≠ .idle && x.st ≠ .failed && x.st ≠ .absent then s
  else
    let v := w &&& 0xFFFFFFFFFFFFF03F
    let old := if cq then x.cqb else x.crb
    let rise := !(bit old 5) && bit v 5
    let s1 := s.modFunc f (fun x =>
      if cq then
        let y := { x with cqb := v, events := if bit v 5 then x.events else [] }
        if rise then { y with qhead := 0, qtail := 0, phase := true } else y
      else
        let y := { x with crb := v }
        if rise then { y with chead := 0, ctail := 0 } else y)
    s1.fetch f

/-! ## Per-function reset (R450) -/

/-- EN := 0 in every inbound window of a function. -/
def State.closeWindows (s : State) (f : FuncNo) : State :=
  { s with iwin := (List.range 64).foldl (fun m w =>
      SMap.modify 0 m (3 * (64 * f.toNat + w)) (fun v => setBit v 0 false)) s.iwin }
/-- COPY jobs of a function on the Husk engines, in order. -/
def State.copyJobs (s : State) (f : FuncNo) : List CopyJob :=
  s.heng.flatMap (fun p => p.2.jobs.filter (fun j => j.func = f))
/-- A Husk engine without the jobs of a function; its chunks in flight finish (R312). -/
def Engine.dropJobs (g : Engine) (f : FuncNo) : Engine :=
  let head : Bool := match g.jobs with
    | j :: _ => j.func = f
    | [] => false
  let r := g.jobs.filter (fun j => j.func ≠ f)
  let y := { g with jobs := r, st := if r = [] then .idle else .running }
  if head then { y with next := 0, active := false, ending := false, halting := none, part := false, cause := 0 } else y
/-- Answers to some of a port's requests are discarded. -/
def Port.forget (p : Port) (g : OutFor → Bool) : Port :=
  { p with out := p.out.map (fun (o : BitVec 16 × OutFor) => if g o.2 then (o.1, .orphan) else o) }

/-- The reset begins: RESETTING, commands end RESET_ABORTED, windows close (R450). `cid` is that of a RESET command. -/
def State.resetBegin (s : State) (f : FuncNo) (cid : Option Word) : State :=
  let jobs := s.copyJobs f
  let s1 := s.modFunc f (fun x =>
    let y := jobs.foldl (fun a j => a.finish j.cid 6 0x20 0) x
    let z := x.cmds.foldl (fun a c => a.finish c.cid 6 c.op 0) { y with cmds := [] }
    { z with st := .resetting, qreq := false, mcr := false, mcrec0 := 0, mcrec1 := 0, mcrec2 := 0, handler := none, cns := none,
             rst := some { stage := .begun, cid := cid } })
  { s1 with heng := SMap.mapVals {} s1.heng (fun g => g.dropJobs f) }.closeWindows f

/-- Threads of a tile stop, and their pending events, exception records and held actions are cleared (R339, R450). -/
def Thread.wipe (x : Thread) : Thread :=
  { x.stop with sws := false, swm := false, sts := false, dlk := false, mcp := false, seovf := false, se := [],
                tmr := setBit x.tmr 63 false, sxc := 0, mxc := 0, sxa := 0, mxa := 0, hold := [] }
/-- The tile at 1 µs of a reset. -/
def Tile.wipe (tl : Tile) : Tile :=
  let t1 := (tl.eachThread (fun a h => a.modTh h Thread.wipe)).quell
  { t1 with mcrec0 := 0, mcrec1 := 0, mcrec2 := 0, mcrec3 := 0 }

/-- Tags of the messages of tile `t` that a REL holds back. -/
def State.heldTags (s : State) (t : TileId) : List Nat :=
  (s.net.filter (fun (p : Pkt) => p.hold ≠ [] && p.src = Party.tile t)).flatMap (fun p => match p.body with
    | .msg m => [m.rtag]
    | .rick _ who _ => who.map (fun c => c.tag)
    | _ => [])
/-- A per-function reset discards the actions of a tile that a REL holds back (R339): its held stores, and its held messages
and contributions with their response tags. Descriptors go with the engine's reset. -/
def State.dropHeld (s : State) (t : TileId) : State :=
  let tags := s.heldTags t
  let s1 := { s with
    reqs := s.reqs.filter (fun r => !(r.tile = t && r.write && (s.tile t).sbuf.any (fun b => b.id = r.id && b.hold ≠ [])))
    net := (s.net.filter (fun (p : Pkt) => !(p.hold ≠ [] && p.src = Party.tile t))).map (fun (p : Pkt) =>
      if p.src = Party.tile t then { p with after := p.after.filter (fun i => !(tags.contains i)) } else p) }
  s1.modTile t (fun tl =>
    { tl with sbuf := tl.sbuf.filter (fun b => b.hold = [])
              send := { tl.send with sent := tl.send.sent.filter (fun e => !(tags.contains e.tag)) } })

/-- Some source of a packet is a tile of the function. -/
def State.fromFunc (s : State) (f : FuncNo) (p : Pkt) : Bool :=
  p.sources.any (fun x => match x with
    | .tile t => (s.tile t).func = some f
    | _ => false)
/-- A chunk waits for CXL memory or for another part. -/
def State.chunkFar (s : State) (c : Chunk) : Bool := c.cxl || s.chunkWaits c.id
/-- Chunks of a function in flight, on tile and Husk engines. -/
def State.chunksOf (s : State) (f : FuncNo) : List Chunk :=
  (s.tilesOf f).flatMap (fun t => (s.tile t).eng.inflight) ++ s.heng.flatMap (fun p => p.2.inflight.filter (fun c => c.func = f))
/-- The drain of a reset has nothing left but requests to CXL memory and to other parts (R450). -/
def State.drained (s : State) (f : FuncNo) : Bool :=
  (s.tilesOf f).all (fun t => (s.tile t).sbuf.all (fun b => b.done || b.refused.isSome))
  && !(s.reqs.any (fun r => (s.tile r.tile).func = some f && r.ans.isNone))
  && !(s.net.any (fun p => s.fromFunc f p && p.queue.isSome))
  && (s.chunksOf f).all (fun c => s.chunkFar c)
/-- Requests of a chunk to CXL memory that have no answer: one for each 64-byte block of its pieces there (R300). DEDUCED (log 60). -/
def Chunk.cxlRequests (c : Chunk) : Nat :=
  let blocks (g : EngTo) (n : Nat) : Nat := match g with
    | .cxl pa => ceilDiv (pa % 64 + n) 64
    | _ => 0
  if c.cxl then (c.pieces.map (fun p => blocks p.src p.n + blocks p.dst p.n)).sum else 0
/-- An outstanding request of a function's chunks or of its PMEM (R450). -/
def State.resetWaits (s : State) (f : FuncNo) (w : OutFor) : Bool :=
  w = .pmem f || (s.chunksOf f).any (fun c => w.ofChunk c.id)
/-- Requests that the drain orphans. -/
def State.orphans (s : State) (f : FuncNo) : Nat :=
  ((s.chunksOf f).map Chunk.cxlRequests).sum
    + (s.ports.map (fun p => (p.2.out.filter (fun o => s.resetWaits f o.2)).length)).sum
/-- The drain ends: unanswered requests are orphaned and counted, and responses that are still to come will be discarded
(R227, R233, R450). -/
def State.drainEnd (s : State) (f : FuncNo) : State :=
  let cs := s.chunksOf f
  let mine (c : Chunk) : Bool := cs.any (fun k => k.id = c.id)
  let s1 := { s with
    ports := SMap.mapVals {} s.ports (fun p => p.forget (s.resetWaits f))
    heng := SMap.mapVals {} s.heng (fun g => { g with inflight := g.inflight.filter (fun c => !(mine c)) })
    reqs := s.reqs.filter (fun r => !((s.tile r.tile).func = some f)) }
  let s2 := (s.tilesOf f).foldl (fun a t => a.modTile t (fun tl =>
    { tl with sbuf := [], fills := [], eng := { tl.eng with inflight := [] }
              send := { tl.send with sent := tl.send.sent.map (fun (e : Sent) => { e with owner := .gone }) } })) s1
  s2.modFunc f (fun x => { x with errOrphan := satAdd x.errOrphan (s.orphans f) })

/-- The clearing at 44 µs (R291, R319, R371, R403, R450). -/
def State.resetClearAll (s : State) (f : FuncNo) : State :=
  let s1 := (s.tilesOf f).foldl (fun a t =>
    if !(a.tileOn t) then a
    else
      let b := (List.range 16).foldl (fun a q => a.reassignQueue t (BitVec.ofNat 4 q)) a
      b.modTile t (fun tl =>
        (Tile.clearCache { tl with send := { tl.send with cred := [] } }).eachThread (fun k h =>
          let i := t.toNat * 4 + h.toNat
          k.modTh h (fun x => { x with pc := SMap.get 0 b.plan.imgPc i, slv := SMap.get false b.plan.imgSlv i })))) s
  let clear (x : Slice) : Slice :=
    { x with acc := SMap.set {} (SMap.set {} x.acc (2 * f.toNat) {}) (2 * f.toNat + 1) {} }
  let s2 := { s1 with slices := SMap.mapVals {} s1.slices clear }
  let s3 := (s2.invAll f).modFunc f (fun x => { x with cnsFound := false })
  if bit s3.pt.cfg 5 && bits s3.pt.cfg 0 5 = f then { s3 with pt := s3.pt.ownerReset } else s3

/-- The end of a reset: IDLE or FAILED, the completion of a RESET, event 0x83 for FN_CTL, and event 0x80 (R367, R444,
R450). -/
def State.resetFinish (s : State) (f : FuncNo) (cid : Option Word) : State :=
  let bad := (s.func f).mcr || s.unrec
  let s1 := s.modFunc f (fun x => { x with st := if bad then .failed else .idle, rst := none })
  let s2 := match cid with
    | some c => s1.modFunc f (fun x => x.finish c (if bad then 5 else 0) 0x60 0)
    | none => s1.event f 0x83 0
  if bad then s2.event f 0x80 (s.func f).mcrec0 else s2

/-- Where the reset of a function stands. -/
def Func.resetAt (x : Func) (st : ResetStage) : Bool :=
  match x.rst with
  | some r => r.stage = st
  | none => false
/-- The next stage of a reset. -/
def State.resetStage (s : State) (f : FuncNo) (st : ResetStage) : State :=
  s.modFunc f (fun x => { x with rst := x.rst.map (fun r => { r with stage := st }) })

/-! ## Registers (R453–R459) -/

/-- The FN_ register of a function block at an offset: its width. -/
def fnReg (o : Nat) : Option Nat :=
  if o = 0x30 then some 4 else if o % 8 = 0 && o ≤ 0x38 then some 8 else none
/-- A read of a function block. -/
def State.fnRead (s : State) (f : FuncNo) (o : Nat) : DWord × State :=
  let x := s.func f
  if o = 0 then (s.fnStat f, s)
  else if o = 8 then (x.crb, s)
  else if o = 0x10 then (x.cqb, s)
  else if o = 0x18 then (x.ptr, s)
  else if o = 0x20 then (x.qtail ++ x.qhead ++ x.ctail ++ x.chead, s)
  else if o = 0x38 then
    ((0#16) ++ x.errOrphan ++ x.errPost ++ x.errFormat,
      s.modFunc f (fun x => { x with errFormat := 0, errPost := 0, errOrphan := 0 }))
  else (0, s)
/-- A write of a function block; none is a refused post. -/
def State.fnWrite (s : State) (f : FuncNo) (o : Nat) (v : DWord) : Option State :=
  if o = 8 then some (s.writeRing f false v)
  else if o = 0x10 then some (s.writeRing f true v)
  else if o = 0x18 then some (s.modFunc f (fun x => { x with ptr := v &&& 0x3FFFFFFFF000 }))
  else if o = 0x28 then s.postEntry f v
  else if o = 0x30 then
    some (if bit v 0 && (s.func f).st ≠ .absent && (s.func f).st ≠ .resetting then s.resetBegin f none else s)
  else some s

/-- FN_PSTAT (R459). -/
def State.pstat (s : State) : DWord := (0#31) ++ b2v s.devv ++ s.devid ++ s.reason ++ (0#7) ++ b2v s.unrec
/-- A read of the part block. -/
def State.partRead (s : State) (o : Nat) : DWord × State :=
  if o = 0 then (s.pstat, s)
  else
    let p : PortNo := BitVec.ofNat 2 (o / 8 - 1)
    let x := s.port p
    (x.peer ++ x.crcerr ++ x.replay ++ x.retrain ++ (0#6) ++ x.st,
      s.modPort p (fun x => { x with retrain := 0, replay := 0, crcerr := 0 }))
def partReg (o : Nat) : Option Nat := if o % 8 = 0 && o ≤ 0x20 then some 8 else none

/-- FN_CNS (R379). -/
def Func.cnsReg (x : Func) : DWord := x.cnsRuns ++ (0#29) ++ b2v x.cnsFound ++ b2v x.cns.isSome ++ b2v x.cnsEn
/-- A read of FN_CNS. -/
def State.cnsRead (s : State) (f : FuncNo) : DWord × State :=
  ((s.func f).cnsReg, s.modFunc f (fun x => { x with cnsRuns := 0 }))
/-- A write of FN_CNS. -/
def State.cnsWrite (s : State) (f : FuncNo) (v : DWord) : State :=
  s.modFunc f (fun x => { x with cnsEn := bit v 0, cnsFound := x.cnsFound && !(bit v 2) })

end Sys2Proof.Machine
end

