-- ==== Sys2Proof/Machine/Csr.lean ====
section
/-! DEFINITION. Register accesses of every source: the check of the source, the width, the domain that must be on, and
the read or write of the block (R8, R9, R277, R488, R554). -/
namespace Sys2Proof.Machine

/-- Width in bytes of the register at a block's offset; none for an offset that the block does not list. -/
def Blk.width (b : Blk) : Option Nat :=
  match b with
  | .ct _ o => (ctReg o).map (fun p => p.2)
  | .qt _ o => (qtReg o).map (fun p => p.2)
  | .ce _ o => (ceReg o).map (fun p => p.2)
  | .winv _ o => winvReg o
  | .win o => (winReg o).map (fun _ => 8)
  | .hce _ o => (hceReg o).map (fun p => p.2)
  | .fn _ o => fnReg o
  | .part o => partReg o
  | .cns _ o => if o = 0 then some 8 else none
  | .pt o => (ptReg o).map (fun p => p.2)
  | .ld o => (ldReg o).map (fun p => p.2)
  | .cd _ o => cdReg o
  | .pw o => (pwReg o).map (fun p => p.2)

/-- The switched domain that a register lies in; its routers and control port lie in the memory interface (R15). -/
def Blk.domain (b : Blk) : Option Domain :=
  match b with
  | .ct t _ => some (.half (tileCob t) (tileSouth t))
  | .qt t _ => some (.half (tileCob t) (tileSouth t))
  | .ce t _ => some (.half (tileCob t) (tileSouth t))
  | .winv c _ => some (.memif c)
  | .cd c _ => some (.memif c)
  | _ => none
/-- The tile that a register lies in. -/
def Blk.tile (b : Blk) : Option TileId :=
  match b with
  | .ct t _ => some t
  | .qt t _ => some t
  | .ce t _ => some t
  | _ => none
/-- The register's domain is on, and zeroing of its tile has ended (R488, R554). -/
def State.blkReady (s : State) (b : Blk) : Bool :=
  (match b.domain with
    | some d => s.dom d = .on
    | none => true)
  && (match b.tile with
    | some t => (s.tile t).zeroed
    | none => true)

/-- A read of the register at a block's offset: its value, and the state after the read. -/
def State.blkRead (s : State) (b : Blk) : DWord × State :=
  match b with
  | .ct t o => match ctReg o with
    | some (r, _) => s.ctRead t r
    | none => (0, s)
  | .qt t o => match qtReg o with
    | some (r, _) => s.qtRead t r
    | none => (0, s)
  | .ce t o => match ceReg o with
    | some (r, _) => s.ceRead t r
    | none => (0, s)
  | .winv c o => (s.winvRead c o, s)
  | .win o => match winReg o with
    | some r => (s.winRead r, s)
    | none => (0, s)
  | .hce e o => match hceReg o with
    | some (r, _) => s.hceRead e r
    | none => (0, s)
  | .fn f o => s.fnRead f o
  | .part o => s.partRead o
  | .cns f _ => s.cnsRead f
  | .pt o => match ptReg o with
    | some (r, _) => s.ptRead r
    | none => (0, s)
  | .ld o => match ldReg o with
    | some (r, _) => (s.ld.read r, s)
    | none => (0, s)
  | .cd c o => s.cdRead c o
  | .pw o => match pwReg o with
    | some (r, _) => s.pwRead r
    | none => (0, s)

/-- A write of an LD_ register; of a CHECK of which no command tells whether the device answers in time, a free value does. -/
def State.ldWrite (s : State) (r : LdReg) (v : DWord) (ver : Option Bool) : State :=
  match ver with
  | some k => { s with ld := s.ld.write r v k }
  | none => { s with ld := s.ld.write r v (bit (Config.free s.free 0 1) 0), free := s.free + 1 }

/-- A write of the register at a block's offset; `lim` for a thread at S. None is a refused post (R446). -/
def State.blkWrite (s : State) (lim : Bool) (b : Blk) (v : DWord) (ver : Option Bool) : Option State :=
  match b with
  | .ct t o => match ctReg o with
    | some (r, _) => some (s.ctWrite lim t r v)
    | none => some s
  | .qt t o => match qtReg o with
    | some (r, _) => some (s.qtWrite t r v)
    | none => some s
  | .ce t o => match ceReg o with
    | some (r, _) => some (s.ceWrite t r v)
    | none => some s
  | .winv c o => some (s.winvWrite c o v)
  | .win o => match winReg o with
    | some r => some (s.winWrite r v)
    | none => some s
  | .hce _ _ => some s
  | .fn f o => s.fnWrite f o v
  | .part _ => some s
  | .cns f _ => some (s.cnsWrite f v)
  | .pt o => match ptReg o with
    | some (r, _) => some (s.ptWrite r v)
    | none => some s
  | .ld o => match ldReg o with
    | some (r, _) => some (s.ldWrite r v ver)
    | none => some s
  | .cd _ _ => some s
  | .pw _ => some s

/-- A permitted read of `acc` bytes: an access of another width, or of a reserved offset, reads 0 and has no effect
(R9, R277). -/
def State.sizedRead (s : State) (b : Blk) (acc : Nat) : DWord × State :=
  if b.width = some acc then s.blkRead b else (0, s)
/-- A permitted write of `acc` bytes. -/
def State.sizedWrite (s : State) (lim : Bool) (b : Blk) (acc : Nat) (v : DWord) (ver : Option Bool) :
    Option State :=
  if b.width = some acc then s.blkWrite lim b v ver else some s

/-- A pending Store Error record is kept, or SEOVF is set (R365). -/
def Thread.storeError (x : Thread) (r : SeRec) : Thread :=
  if x.se.length < 8 then { x with se := x.se ++ [r] } else { x with seovf := true }

/-! ## Sources -/

/-- Whether a source may make an access; `w` is the value of a write (R9, R55). -/
def State.srcMay (s : State) (src : Src) (b : Blk) (w : Option DWord) : Bool :=
  match src with
  | .thread t h => s.csrPerm (s.th t h).st.pl (s.tile t).func b w = .ok
  | _ => true
/-- A source is a thread at S. -/
def State.srcLim (s : State) (src : Src) : Bool :=
  match src with
  | .thread t h => (s.th t h).st.pl = 2
  | _ => false
/-- A thread's write that a register's block refuses comes back as a Store Error of DETAIL 2 (R55, R365). The command names
no virtual address, so the record's is a free value. -/
def State.refusedWrite (s : State) (src : Src) : State :=
  match src with
  | .thread t h =>
    { s with free := s.free + 1 }.modTh t h (fun x =>
      x.storeError { pc := x.pc, va := Config.free s.free 0 48, detail := 2 })
  | _ => s

/-- What a source that posts beyond the held posts meets: the count, and a thread's Store Error (R365, R446). -/
def State.refusedPost (s : State) (src : Src) (f : FuncNo) : State := (s.postRefused f).refusedWrite src
/-- The function of an FN_ register. -/
def Blk.func (b : Blk) : FuncNo :=
  match b with
  | .fn f _ => f
  | _ => 0

/-- A write that has passed the check of its source, at a register whose domain is on. -/
def State.doWrite (s : State) (src : Src) (b : Blk) (acc : Nat) (v : DWord) (ver : Option Bool) : State :=
  match s.sizedWrite (s.srcLim src) b acc v ver with
  | some t => t
  | none => s.refusedPost src b.func

/-- An access to a register whose domain is off is held; after release it wakes the domain (R488, R554). -/
def State.holdAccess (s : State) (a : HeldAcc) (b : Blk) : State :=
  let s1 := { s with side := { s.side with held := s.side.held ++ [a] } }
  if s.ld.phase ≠ 5 then s1
  else match b.domain with
    | some d => s1.wake d
    | none => s1

/-- A register write of `acc` bytes by a source (R9). A thread that may not make it is told by a Store Error, and the
register stays as it was. -/
def State.regWrite (s : State) (src : Src) (pa acc : Nat) (v : DWord) (ver : Option Bool) : State :=
  if !s.alive then s
  else match csrBlk pa with
    | none => s.refusedWrite src
    | some b =>
      if !(s.srcMay src b (some v)) then s.refusedWrite src
      else if s.blkReady b then (s.touchHalf pa).doWrite src b acc v ver
      else s.holdAccess { src := src, write := true, pa := pa, width := acc, data := v } b

/-! ## Addresses of registers (R55, R242, R327, R426, R453, R481) -/

def paCt (t : TileId) (o : Nat) : Nat := 0x3F0000000000 + t.toNat * 0x40000 + o
def paQt (t : TileId) (o : Nat) : Nat := 0x3F0100000000 + t.toNat * 0x10000 + o
def paCe (t : TileId) (o : Nat) : Nat := 0x3F0200000000 + t.toNat * 0x10000 + o
def paWinv (c : CobNo) (o : Nat) : Nat := 0x3F0300000000 + c.toNat * 0x10000 + o
def paLd (o : Nat) : Nat := 0x3F0500000000 + o
def paFn (f : FuncNo) (o : Nat) : Nat := 0x3F0600000000 + f.toNat * 0x1000 + o
def paPt (o : Nat) : Nat := 0x3F0800000000 + o

/-! ## A thread's CSR access at its register (R550) -/

/-- A permitted load of elements of `esz` bytes: the bytes read, and the state after it. -/
def State.csrLoad (s : State) (r : Req) (pa : Nat) : Nat → List Byte → List Byte × State
  | 0, acc => (acc, s)
  | n + 1, acc =>
    let d : DWord × State := match csrBlk pa with
      | none => (0, s)
      | some b => s.sizedRead b r.esz
    d.2.csrLoad r (pa + r.esz) n (acc ++ bytesOf d.1 r.esz)
/-- The elements of a store, one after the other; none once one is refused, with the function whose post it was (R9, R55,
R446). -/
def State.csrElems (s : State) (r : Req) (pa : Nat) : Nat → List Byte → Sum (Option FuncNo) State
  | 0, _ => .inr s
  | n + 1, l =>
    let v : DWord := leBits 64 (l.take r.esz)
    match csrBlk pa with
    | none => .inl none
    | some b =>
      if s.csrPerm r.pl r.func b (some v) ≠ .ok then .inl none
      else match s.sizedWrite (r.pl = 2) b r.esz v none with
        | some u => u.csrElems r (pa + r.esz) n (l.drop r.esz)
        | none => .inl (some b.func)
/-- A store of elements: the state, and whether it was taken. A refused store's bytes are not written, those of a string run
that another element's block would take among them (R365). -/
def State.csrStore (s : State) (r : Req) (pa : Nat) : Bool × State :=
  match s.csrElems r pa (r.n / r.esz) r.data with
  | .inr u => (true, u)
  | .inl (some f) => (false, s.postRefused f)
  | .inl none => (false, s)
/-- A request is answered. -/
def State.answer (s : State) (id : Nat) (a : Option (List Byte)) : State :=
  { s.reply id with reqs := s.reqs.map (fun r => if r.id = id then { r with ans := some a } else r) }
/-- A store-buffer entry is refused by its target; the refusal travels back (R365). -/
def State.refuseStore (s : State) (t : TileId) (id : Nat) (detail : BitVec 4) : State :=
  (s.reply id).modTile t (fun tl => { tl with sbuf := tl.sbuf.map (fun b => if b.id = id then { b with refused := some detail } else b) })

end Sys2Proof.Machine
end

