-- ==== Sys2Proof/Machine/QueueInstr.lean ====
section
/-! DEFINITION. The queue instructions (R82, R215–R218, R228–R230, R234, R239, R240). -/
namespace Sys2Proof.Machine

/-- QPUT: Illegal Operand on a full staging (R215). -/
def execQput (t : TileId) (h : Thr) (x : Reg) (s : State) : Host.Outcome State Fault Refusal :=
  .next (issue t h 1 (fun s =>
    let g := (s.th t h).stg
    if 4 ≤ g.count.toNat then s.raise t h cOperand 0 0
    else s.finish t h (fun y =>
      (y.setStg { count := g.count + 1, words := setBits g.words (32 * g.count.toNat) 32 (y.getD x) }).advance 1)) s)

/-- The committing thread's staging is emptied and the instruction completes (R215). -/
def State.committed (s : State) (t : TileId) (h : Thr) : State :=
  (s.modTile t (fun tl => tl.pm 0x20 1)).finish t h (fun x => (x.setStg { x.stg with count := 0 }).advance 1)

/-- QCMT in a slot: it leaves, or its thread blocks for credit or a tag (R216–R218). -/
def State.qcmtSlot (s : State) (t : TileId) (h : Thr) (dt dh : Reg) : State :=
  let x := s.th t h
  let g := x.stg
  let hd := x.getD dh
  let m := ringBytes g.count.toNat
  let u := s.sendSide (.tile t)
  if g.count = 0 || badHandle hd then s.raise t h cOperand 0 0
  else if !(u.ready hd m) then (s.askCredit (.tile t) hd m (s.tile t).func).block t h (.qcmt dt dh)
  else if u.freeTag.isNone then s.block t h (.qcmt dt dh)
  else
    let k := s.threadMsg t h 0 (bits (x.getD dt) 0 16) g.list hd (u.credited hd)
    (((s.modSend (.tile t) (fun y => y.use hd m)).emit (.tile t) (.thread h) k false x.hold)).committed t h

/-- QCMT (R216). -/
def execQcmt (t : TileId) (h : Thr) (dt dh : Reg) (s : State) : Host.Outcome State Fault Refusal :=
  .next (issue t h 1 (fun s => s.qcmtSlot t h dt dh) s)

/-- QRICK in a slot: it takes a tag and no credit (R216, R218). -/
def State.qrickSlot (s : State) (t : TileId) (h : Thr) (dt dh : Reg) : State :=
  let x := s.th t h
  let g := x.stg
  let hd := x.getD dh
  let tag : BitVec 16 := bits (x.getD dt) 0 16
  if g.count = 0 || badEtype tag g.count.toNat || badHandle hd then s.raise t h cOperand 0 0
  else if (s.sendSide (.tile t)).freeTag.isNone then s.block t h (.qrick dt dh)
  else (s.emit (.tile t) (.thread h) (s.threadMsg t h 1 tag g.list hd false) true x.hold).committed t h

/-- QRICK (R216). -/
def execQrick (t : TileId) (h : Thr) (dt dh : Reg) (s : State) : Host.Outcome State Fault Refusal :=
  .next (issue t h 1 (fun s => s.qrickSlot t h dt dh) s)

/-- The member tiles of a multicast group's box (R239, R250). -/
def groupMembers (g : DWord) : List TileId :=
  ((List.range 4096).map (fun i => BitVec.ofNat 12 i)).filter (fun u =>
    let c : BitVec 4 := bits u 8 4
    let r : BitVec 4 := bits u 4 4
    let k : BitVec 4 := bits u 0 4
    decide (bits g 0 4 ≤ c) && decide (c ≤ bits g 4 4) && decide (bits g 8 4 ≤ r) && decide (r ≤ bits g 12 4)
      && decide (bits g 16 4 ≤ k) && decide (k ≤ bits g 20 4))
/-- The handle of a member's queue. -/
def memberHandle (g : DWord) (u : TileId) : Word := (bits g 32 8 : Byte) ++ (0#8) ++ u ++ (bits g 24 4 : QIx)

/-- A multicast leaves for every member under one response tag (R217, R239). -/
def State.multicast (s : State) (t : TileId) (h : Thr) (tag : BitVec 16) (payload : List Word) (g : DWord)
    (hold : List Nat) : State :=
  let us := groupMembers g
  let x := s.sendSide (.tile t)
  match x.freeTag with
  | none => s
  | some rt =>
    if us = [] then s
    else
      let s1 := us.foldl (fun a u =>
        let hd := memberHandle g u
        let m := { s.threadMsg t h 0 tag payload hd false with rtag := rt }
        a.sendPkt (.tile t) (.tile u) 2 (.msg m) hold (x.others (hQid hd) false)) s
      s1.modSend (.tile t) (fun y => { y with sent := y.sent ++ [{ tag := rt, owner := .thread h, mesh := false,
                                                                   handles := us.map (memberHandle g),
                                                                   left := us.length }] })

/-- QMCST in a slot (R216, R239, R240). -/
def State.qmcstSlot (s : State) (t : TileId) (h : Thr) (dt dg : Reg) : State :=
  let x := s.th t h
  let g := x.stg
  let grp := SMap.get 0 (s.tile t).mgrp (bits (x.getD dg) 0 3).toNat
  if g.count ≠ 1 || !(bit grp 28) then s.raise t h cOperand 0 0
  else if (s.sendSide (.tile t)).freeTag.isNone then s.block t h (.qmcst dt dg)
  else (s.multicast t h (bits (x.getD dt) 0 16) g.list grp x.hold).committed t h

/-- QMCST (R216). -/
def execQmcst (t : TileId) (h : Thr) (dt dg : Reg) (s : State) : Host.Outcome State Fault Refusal :=
  .next (issue t h 1 (fun s => s.qmcstSlot t h dt dg) s)

/-- Flags of a queue instruction: Z, and C where it has one. -/
def Thread.zc (x : Thread) (z : Bool) (c : Option Bool) : Thread :=
  { x with st := { x.st with z := z, c := c.getD x.st.c } }

/-- The oldest message of queue `q` is read into Vd and freed (R177, R228, R229). -/
def State.readMsg (s : State) (t : TileId) (h : Thr) (vd : Reg) (q : QIx) (m : QMsg) (c : Option Bool) : State :=
  let tl := s.tile t
  let off := (tl.queue q).front m
  let ws := tl.errWords off m.size
  match firstBad ws with
  | some w => s.lmFail t 1 w none none
  | none =>
    let v := readLanes m (tl.lmem.bytes off m.size)
    (s.modTile t (fun tl => (tl.fixWords 1 ws).modQueue q Queue.free)).finish t h (fun x =>
      (((x.pendV vd v).openPair s.debug m).zc false c).advance 2)

/-- QRD in a slot: it reads, gives zero for an empty closed queue, or blocks (R228, R230). -/
def State.qrdSlot (s : State) (t : TileId) (h : Thr) (vd : Reg) (q : QIx) : State :=
  let k := (s.tile t).queue q
  if !k.en then s.raise t h cOperand 0 0
  else withV t h [vd] (fun s =>
    match k.oldest with
    | some m => s.readMsg t h vd q m none
    | none =>
      if k.closed then s.finish t h (fun x => ((x.pendV vd 0).zc true none).advance 2)
      else s.block t h (.qrd vd q)) s

/-- QRD (R228). -/
def execQrd (t : TileId) (h : Thr) (vd : Reg) (q : QIx) (s : State) : Host.Outcome State Fault Refusal :=
  .next (issue t h 2 (fun s => s.qrdSlot t h vd q) s)

/-- QTRY: C shows QCL (R228). -/
def execQtry (t : TileId) (h : Thr) (vd : Reg) (q : QIx) (s : State) : Host.Outcome State Fault Refusal :=
  .next (issue t h 2 (fun s =>
    let k := (s.tile t).queue q
    if !k.en then s.raise t h cOperand 0 0
    else withV t h [vd] (fun s =>
      match k.oldest with
      | some m => s.readMsg t h vd q m (some k.closed)
      | none => s.finish t h (fun x => (x.zc true (some k.closed)).advance 2)) s) s)

/-- QDROP (R228). -/
def execQdrop (t : TileId) (h : Thr) (q : QIx) (s : State) : Host.Outcome State Fault Refusal :=
  .next (issue t h 2 (fun s =>
    let k := (s.tile t).queue q
    if !k.en then s.raise t h cOperand 0 0
    else (s.modTile t (fun tl => tl.modQueue q Queue.free)).finish t h (fun x =>
      (x.zc k.oldest.isNone none).advance 2)) s)

/-- QCLOSE (R228). -/
def execQclose (t : TileId) (h : Thr) (q : QIx) (s : State) : Host.Outcome State Fault Refusal :=
  .next (issue t h 2 (fun s =>
    if !((s.tile t).queue q).en then s.raise t h cOperand 0 0
    else (s.modTile t (fun tl => tl.modQueue q (fun k => { k with closed := true }))).complete t h 2) s)

/-- QARM: a rick is armed for a round (R234). -/
def execQarm (t : TileId) (h : Thr) (dc dt : Reg) (q : QIx) (s : State) : Host.Outcome State Fault Refusal :=
  .next (issue t h 2 (fun s =>
    let x := s.th t h
    let k := (s.tile t).queue q
    let c := x.getD dc
    let tag : BitVec 16 := bits (x.getD dt) 0 16
    let len : BitVec 2 := bits (x.getD dt) 16 2
    let b := ringBytes (len.toNat + 1)
    if !k.en || !k.mode || c = 0 || decide (65535 < c.toNat) || badEtype tag (len.toNat + 1) then
      s.raise t h cOperand 0 0
    else if k.rick.isSome || k.closed || decide (k.pool < (b : Int)) then
      s.finish t h (fun x => (x.zc true none).advance 2)
    else
      let r : Rick := { tag := tag, len := len, expect := c.toNat, count := 0,
                        acc := List.replicate (len.toNat + 1) 0, covered := true, needed := .thread }
      (s.modTile t (fun tl => tl.modQueue q (fun k => { k with rick := some r, granted := k.granted + b }))).finish t h
        (fun x => (x.zc false none).advance 2)) s)

end Sys2Proof.Machine
end

