-- ==== Sys2Proof/Machine/Route.lean ====
section
/-! DEFINITION. VROUTE: expert selection, gates and dispatch messages (R167–R174). -/
namespace Sys2Proof.Machine

/-- A ranked expert: its index and its score. -/
structure Expert where
  ix : Nat
  score : FVal
  deriving DecidableEq, Repr

/-- An expert put into a list ranked by descending score, behind equal scores (R169). -/
def rankInsert (e : Expert) : List Expert → List Expert
  | [] => [e]
  | x :: r => if x.score.below e.score then e :: x :: r else x :: rankInsert e r

/-- Eligible experts of a table in rank order: not disabled, and the score no NaN (R168, R169). -/
def ranked (ty : Ty) (scores : List Nat) (entries : List Word) : List Expert :=
  ((List.range scores.length).filter (fun e =>
    !(bit (nth entries e 0) 23) && !(decodeF (tyFmt ty) (nth scores e 0)).isNan)).foldl
      (fun l e => rankInsert { ix := e, score := decodeF (tyFmt ty) (nth scores e 0) } l) []

/-- FP32 terms of the chosen scores (R170). -/
def gateTerms (l : List FVal) : List Nat :=
  let s0 := l.headD .nan
  l.map (fun x => if x.feq s0 then 0x3F800000
    else expLane .fp32 (laneSub .fp32 (encodeF fmtF32 x) (encodeF fmtF32 s0)))
/-- The gates of the chosen scores, as FP32 (R170). -/
def gates (l : List FVal) : List Nat :=
  match gateTerms l with
  | [] => []
  | t0 :: r =>
    let sum := r.foldl (laneAdd .fp32) t0
    (t0 :: r).map (fun t => encodeF fmtF32 ((decodeF fmtF32 t).div (decodeF fmtF32 sum)))

/-- One dispatch: the handle and the payload (R171). -/
def dispatches (dt : Word) (k : Nat) (entries : List Word) (chosen : List Expert) : List (Word × List Word) :=
  let g := gates (chosen.map (fun e => e.score))
  (List.range chosen.length).map (fun r =>
    let e := (chosen.map (fun x => x.ix)).getD r 0
    let en := nth entries e 0
    ((bits en 24 8 : Byte) ++ (0#8) ++ (bits en 0 16 : BitVec 16),
      [dt, BitVec.ofNat 32 (nth g r 0), BitVec.ofNat 32 (e + 256 * r + 2048 * (k - 1))]))

/-- The distinct handles of a list of dispatches, each with the ring bytes of its messages. -/
def needs (l : List (Word × List Word)) : List (Word × Nat) :=
  let hs := (l.map (fun d => d.1)).eraseDups
  hs.map (fun h => (h, 16 * (l.filter (fun d => d.1 = h)).length))

/-- The messages of a VROUTE leave in rank order (R172). -/
def State.dispatchAll (s : State) (t : TileId) (h : Thr) (tag : BitVec 16) : List (Word × List Word) → State
  | [] => s
  | d :: r =>
    let x := s.sendSide (.tile t)
    let m := s.threadMsg t h 0 tag d.2 d.1 (x.credited d.1)
    ((((s.modSend (.tile t) (fun y => y.use d.1 16)).emit (.tile t) (.thread h) m false (s.th t h).hold).modTile t
      (fun tl => tl.pm 0x20 1))).dispatchAll t h tag r

/-- VROUTE in a slot (R172, R173). -/
def State.vrouteSlot (s : State) (t : TileId) (h : Thr) (dt va an : Reg) (k : BitVec 3) (ty : Ty) : State :=
  let x := s.th t h
  let d := x.getD dt
  let nv := (bits d 22 2).toNat
  let a := x.getA an
  let num := (nv + 1) * lanes ty
  if 7 < va.toNat + nv then s.raise t h cOperand 0 0
  else withV t h ((List.range (nv + 1)).map (fun i => va + BitVec.ofNat 3 i)) (fun s =>
    if 2 ^ 48 ≤ a.toNat then s.raise t h cForm 0 (bits a 0 48)
    else ownAccess t h a (4 + 4 * num) 4 false (fun off s =>
      withRead t h (bits a 0 48) off (4 + 4 * num) (fun s =>
        let ws := toWords (num + 1) ((s.tile t).lmem.bytes off (4 + 4 * num))
        let entries := ws.drop 1
        let scores := (List.range num).map (fun e =>
          lane ty (x.getV (va + BitVec.ofNat 3 (e / lanes ty))) (e % lanes ty))
        let want := k.toNat + 1
        let chosen := (ranked ty scores entries).take want
        let ds := dispatches d want entries chosen
        let u := s.sendSide (.tile t)
        let missing := (needs ds).filter (fun p => !(u.ready p.1 p.2))
        if missing ≠ [] || decide (u.freeTags < ds.length) then
          (missing.foldl (fun b p => b.askCredit (.tile t) p.1 p.2 (s.tile t).func) s).block t h
            (.vroute dt va an k ty)
        else
          (s.dispatchAll t h (bits (nth ws 0 0) 0 16) ds).finish t h (fun y =>
            ({ y with st := { y.st with z := chosen.isEmpty, c := decide (chosen.length < want) } }).advance 2)) s) s) s

/-- VROUTE (R172, R173). -/
def execVroute (t : TileId) (h : Thr) (dt va an : Reg) (k : BitVec 3) (ty : Ty) (s : State) :
    Host.Outcome State Fault Refusal :=
  .next (issue t h 2 (checked t h (ty ≠ .int32) (word1 6 10 dt va) (fun s => s.vrouteSlot t h dt va an k ty)) s)

end Sys2Proof.Machine
end

