-- ==== Sys2Proof/Machine/SeedBits.lean ====
section
/-! DEFINITION. The seed-bit instructions (R49–R54, R84, R105, R158). -/
namespace Sys2Proof.Machine

/-- A seed-bit instruction of `len` words that changes the tile. -/
def seedOp (t : TileId) (h : Thr) (len : Nat) (f : Tile → Tile) (s : State) : State :=
  issue t h len (fun s => (s.modTile t f).complete t h len) s

/-- The source bit of BMOV, BAND, BOR and BXOR (R105). -/
def Tile.srcBit (tl : Tile) (h : Thr) (n : Bool) (src : Seed) : Bool := tl.seed h src ^^ n

/-- BPUT (R105). -/
def execBput (t : TileId) (h : Thr) (v : Bool) (a : Seed) (s : State) : Host.Outcome State Fault Refusal :=
  .next (seedOp t h 2 (fun tl => tl.setSeed h a v) s)
/-- BMOV (R105). -/
def execBmov (t : TileId) (h : Thr) (dst : Seed) (n : Bool) (src : Seed) (s : State) :
    Host.Outcome State Fault Refusal :=
  .next (seedOp t h 3 (fun tl => tl.setSeed h dst (tl.srcBit h n src)) s)
/-- BAND (R105). -/
def execBand (t : TileId) (h : Thr) (dst : Seed) (n : Bool) (src : Seed) (s : State) :
    Host.Outcome State Fault Refusal :=
  .next (seedOp t h 3 (fun tl => tl.setSeed h dst (tl.seed h dst && tl.srcBit h n src)) s)
/-- BOR (R105). -/
def execBor (t : TileId) (h : Thr) (dst : Seed) (n : Bool) (src : Seed) (s : State) :
    Host.Outcome State Fault Refusal :=
  .next (seedOp t h 3 (fun tl => tl.setSeed h dst (tl.seed h dst || tl.srcBit h n src)) s)
/-- BXOR (R105). -/
def execBxor (t : TileId) (h : Thr) (dst : Seed) (n : Bool) (src : Seed) (s : State) :
    Host.Outcome State Fault Refusal :=
  .next (seedOp t h 3 (fun tl => tl.setSeed h dst (tl.seed h dst ^^ tl.srcBit h n src)) s)

/-- BWAIT in a slot: completes when the bit has the awaited value, else the thread blocks (R36, R105). -/
def State.bwaitSlot (s : State) (t : TileId) (h : Thr) (v : Bool) (a : Seed) : State :=
  if (s.tile t).seed h a = v then s.complete t h 2 else s.block t h (.bwait v a)

/-- BWAIT (R105). -/
def execBwait (t : TileId) (h : Thr) (v : Bool) (a : Seed) (s : State) : Host.Outcome State Fault Refusal :=
  .next (issue t h 2 (fun s => s.bwaitSlot t h v a) s)
/-- BSKP (R84, R105). -/
def execBskp (t : TileId) (h : Thr) (v : Bool) (a : Seed) (s : State) : Host.Outcome State Fault Refusal :=
  .next (issue t h 2 (fun s => s.skipOp t h id ((s.tile t).seed h a = v)) s)
/-- BRD (R105). -/
def execBrd (t : TileId) (h : Thr) (d : Reg) (sa : Seed) (s : State) : Host.Outcome State Fault Refusal :=
  .next (issue t h 2 (checked t h (sa.toNat % 32 = 0) (word1 5 7 d 0) (fun s =>
    let r : Word := BitVec.ofNat 32 ((s.tile t).seedRun h sa 32)
    s.finish t h (fun x => (x.alu d (r, brdFlags x.st r)).advance 2))) s)
/-- BWR (R105). -/
def execBwr (t : TileId) (h : Thr) (x : Reg) (sa : Seed) (s : State) : Host.Outcome State Fault Refusal :=
  .next (issue t h 2 (checked t h (sa.toNat % 32 = 0) (word1 5 8 0 x) (fun s =>
    (s.modTile t (fun tl => tl.setSeedRun h sa ((tl.th h).getD x).toNat 32)).complete t h 2)) s)
/-- TSKIP: the bit at (address + Dk) mod 8,192 (R158). -/
def execTskip (t : TileId) (h : Thr) (dk : Reg) (v : Bool) (a : Seed) (s : State) :
    Host.Outcome State Fault Refusal :=
  .next (issue t h 2 (fun s =>
    s.skipOp t h id ((s.tile t).seed h (a + bits ((s.th t h).getD dk) 0 13) = v)) s)

end Sys2Proof.Machine
end

