-- ==== Sys2Proof/Machine/ThreadEvents.lean ====
section
/-! DEFINITION. Events of threads and their memory accesses, and the register writes that control threads (R30, R35–R41,
R92, R107, R191–R195, R202, R318, R338, R359–R365, R375, R376, R520, R521). -/
namespace Sys2Proof.Machine

/-! ## Slots without an instruction -/

/-- RESERVED_ENCODING: the word reaches issue, fetched with the words that its cell gives it (R65, R91, R92, R94). -/
def execReservedEncoding (t : TileId) (h : Thr) (w : BitVec 14) (s : State) : Host.Outcome State Fault Refusal :=
  .next (issue t h (cellLen w) (fun s => s.reserved t h w) s)

/-- The present slot can be used by the thread: its tile is on and zeroed, no stall is active, no load of its own is late,
and the slot is its own and not spent (R25, R33, R359). -/
def State.slotFree (s : State) (t : TileId) (h : Thr) : Bool :=
  s.tileReady t && (s.tile t).causes = 0 && (s.th t h).wait.isNone && s.slotNow t h

/-- ASYNC_EVENT_TAKEN: in the thread's next slot, the first event of R360 that it can take (R356, R360). -/
def execAsyncEventTaken (t : TileId) (h : Thr) (s : State) : Host.Outcome State Fault Refusal :=
  .next (
    let u := s.toSlot t h
    if !(u.slotFree t h) then s
    else match u.asyncDue t h with
      | some c => u.takeEvent t h c
      | none => s)

/-- TIMER: time passes until the armed compare is reached (R376). -/
def execTimer (t : TileId) (h : Thr) (s : State) : Host.Outcome State Fault Refusal :=
  .next (
    let x := s.th t h
    let v := (bits x.tmr 0 63).toNat
    if !(bit x.tmr 63) || !(s.tileOn t) || decide (v ≤ s.cyc t) then s else s.elapse (s.cyclesTo t v))

/-- A blocked instruction is performed afresh in its slot (R37). -/
def State.perform (s : State) (t : TileId) (h : Thr) (b : BlockOp) : State :=
  match b with
  | .qrd vd q => s.qrdSlot t h vd q
  | .bwait v a => s.bwaitSlot t h v a
  | .qcmt dt dh => s.qcmtSlot t h dt dh
  | .qrick dt dh => s.qrickSlot t h dt dh
  | .qmcst dt dg => s.qmcstSlot t h dt dg
  | .ceput an => s.ceputSlot t h an
  | .vroute dt va an k ty => s.vrouteSlot t h dt va an k ty

/-- The condition of a blocked instruction, which is all that its slots sample (R36). A QRD waits for a whole message, also
on a queue that has closed (R230). -/
def State.sampled (s : State) (t : TileId) (b : BlockOp) : Bool :=
  match b with
  | .qrd _ q => ((s.tile t).queue q).oldest.isSome
  | _ => true

/-- BLOCKED_WAKE: in its next slot a blocked thread samples its condition; it completes the instruction or stays blocked
(R36, R37). -/
def execBlockedWake (t : TileId) (h : Thr) (s : State) : Host.Outcome State Fault Refusal :=
  .next (
    let u := s.toSlot t h
    let x := u.th t h
    match x.blk with
    | some b =>
      if x.run ≠ .blocked || !(u.slotFree t h) || (u.asyncDue t h).isSome || !(u.sampled t b) then s
      else (u.modTh t h (fun x => { x with run := .running, blk := none })).perform t h b
    | none => s)

/-! ## Data and acknowledgements -/

/-- Bytes of an element of a load. -/
def LoadDest.esz (d : LoadDest) : Nat :=
  match d with
  | .d _ => 4
  | .a _ => 8
  | .smov _ _ _ sz _ _ => esBytes sz
  | .sscn _ _ _ _ sz _ => esBytes sz

/-- Stall cause 0 ends once the load that it waits for is over, and the tile settles (R30, R31). -/
def Tile.endWait (tl : Tile) (h : Thr) : Tile :=
  if (tl.th h).wait.isSome then tl
  else if bit tl.causes 0 && tl.slotOwner = h then tl.stallOff 0 else tl.settle

/-- The answer to a request. -/
def State.reqOf (s : State) (id : Nat) : Option Req := (s.reqs.filter (fun r => r.id = id)).head?
/-- A request is over. -/
def State.dropReq (s : State) (id : Nat) : State := { s with reqs := s.reqs.filter (fun r => r.id ≠ id) }

/-- Where a request goes, as a key: a slice, a tile, a Cob block or a Husk. -/
def reqKey (g : Target) : Nat × Nat :=
  match g with
  | .hbm pa => (0, sliceOf pa)
  | .own _ => (1, 0x1000)
  | .remote u _ _ => (1, u.toNat)
  | .csr pa => match csrBlk pa with
    | some b => match b.tile, b.domain with
      | some u, _ => (2, u.toNat)
      | none, some (.memif c) => (3, c.toNat)
      | none, _ => (4, 0)
    | none => (4, 0)
/-- The source of a reply that tile `t` still awaits: of a store, of a fill, or of a load of a thread that waits. -/
def State.replyFrom (s : State) (t : TileId) (id : Nat) : Option Target :=
  match (s.tile t).sbuf.find? (fun b => b.id = id) with
  | some b => some b.dst
  | none => match s.reqOf id with
    | some r =>
      let awaited : Bool := if r.fill then (s.tile t).fills.any (fun f => f.id = id)
        else match (s.th t r.thr).wait with
          | some w => w.on = .req id
          | none => false
      if r.tile = t && r.ans.isSome && awaited then some r.dst else none
    | none => none
/-- The source of a reply, as a key. -/
def State.replyKey (s : State) (t : TileId) (id : Nat) : Option (Nat × Nat) := (s.replyFrom t id).map reqKey
/-- No reply that the same source has sent earlier to tile `t` is still on its way, and no die link holds this one (R263,
R273). -/
def State.replyNext (s : State) (t : TileId) (id : Nat) : Bool :=
  (s.replies.takeWhile (fun o => o ≠ id)).all (fun o =>
    (s.replyKey t o).isNone || s.replyKey t o ≠ s.replyKey t id)
  && (match s.replyFrom t id with
      | some g => !(s.replyHeld t id g)
      | none => true)
/-- A reply has arrived. -/
def State.replyIn (s : State) (id : Nat) : State := { s with replies := s.replies.filter (fun o => o ≠ id) }

/-- Late data for thread `h` is there: it is delivered, its refusal is taken as an Access Violation, or a load that had to
wait is tried again (R30, R99, R103, R187, R191). -/
def State.dataTaken (s : State) (t : TileId) (h : Thr) : State :=
  match (s.th t h).wait with
  | none => s
  | some w =>
    match w.on with
    | .fill _ => s
    | .again =>
      (s.loadFrom t h w.va w.src w.n w.dest.esz w.dest).modTile t (fun tl => tl.endWait h)
    | .req id =>
      match s.reqOf id with
      | none => s
      | some r =>
        match r.ans with
        | none => s
        | some none =>
          let x := s.th t h
          ((s.dropReq id).enter t h (x.st.pl ≠ 1) cAccess x.pc x.pc 0 w.va true).modTile t (fun tl => tl.endWait h)
        | some (some b) =>
          let s1 := s.deliver t h w.dest b
          if (s1.th t h).wait.isSome then s1 else (s1.dropReq id).modTile t (fun tl => tl.endWait h)

/-- Late data reaches thread `h`, in the order of its source's replies (R263). -/
def State.dataArrives (s : State) (t : TileId) (h : Thr) : State :=
  match (s.th t h).wait with
  | some w => match w.on with
    | .req id => if ((s.reqOf id).bind (fun r => r.ans)).isSome && s.replyNext t id then (s.replyIn id).dataTaken t h else s
    | _ => s.dataTaken t h
  | none => s

/-- LOAD_DATA_ARRIVAL (R30). -/
def execLoadDataArrival (t : TileId) (h : Thr) (s : State) : Host.Outcome State Fault Refusal :=
  .next (if s.tileReady t then s.dataArrives t h else s)

/-- The oldest result for a register lands. -/
def landV (vd : Reg) : List (Reg × VWord) → Option (VWord × List (Reg × VWord))
  | [] => none
  | (r, v) :: l => if r = vd then some (v, l) else (landV vd l).map (fun p => (p.1, (r, v) :: p.2))

/-- VECTOR_RESULT: the oldest result for Vd lands, and stall cause 6 ends when it waited for that register (R30,
R107). -/
def execVectorResult (t : TileId) (h : Thr) (vd : Reg) (s : State) : Host.Outcome State Fault Refusal :=
  .next (match landV vd (s.th t h).vpend with
    | none => s
    | some (v, l) =>
      (s.modTh t h (fun x => Thread.setV { x with vpend := l } vd v)).modTile t (fun tl =>
        if bit tl.causes 6 && tl.c6 = (h, vd) && !((tl.th h).vBusy vd) then tl.stallOff 6 else tl))

/-- A write is acknowledged: its entry is freed and every release that waits for it advances (R338, R339). -/
def State.unhold (s : State) (t : TileId) (id : Nat) : State :=
  let drop (l : List Nat) : List Nat := l.filter (fun i => i ≠ id)
  let s1 := s.modTile t (fun tl =>
    (Tile.eachThread { tl with
       sbuf := (tl.sbuf.filter (fun (b : SBuf) => b.id ≠ id)).map (fun (b : SBuf) => { b with hold := drop b.hold })
       eng := { tl.eng with hold := SMap.mapVals [] tl.eng.hold drop } }
     (fun a h => a.modTh h (fun x => { x with hold := drop x.hold }))))
  { s1 with net := s1.net.map (fun (p : Pkt) => { p with hold := drop p.hold }) }
/-- Stall cause 2 ends: an entry of the store buffer has drained (R30). -/
def Tile.drained (tl : Tile) : Tile := if bit tl.causes 2 then tl.stallOff 2 else tl

/-- STORE_ACK: the acknowledgement of entry `i` of the store buffer returns (R102, R338, R339). -/
def execStoreAck (t : TileId) (i : BitVec 3) (s : State) : Host.Outcome State Fault Refusal :=
  .next (match (s.tile t).sbuf[i.toNat]? with
    | none => s
    | some b =>
      if b.done && b.refused.isNone && s.replyNext t b.id then
        (((s.replyIn b.id).unhold t b.id).dropReq b.id).modTile t Tile.drained
      else s)

/-- STORE_REFUSAL: the refusal of entry `i` returns; the record is kept or SEOVF is set (R365). -/
def execStoreRefusal (t : TileId) (i : BitVec 3) (s : State) : Host.Outcome State Fault Refusal :=
  .next (match (s.tile t).sbuf[i.toNat]? with
    | none => s
    | some b =>
      match b.refused with
      | none => s
      | some d =>
        if !(s.replyNext t b.id) then s
        else
          (((s.replyIn b.id).modTh t b.thr (fun x => x.storeError { pc := b.pc, va := b.va, detail := d })).unhold t b.id).dropReq
            b.id |>.modTile t Tile.drained)

/-- The bytes of a fill go into its line, unless it only delivers (R191–R194). -/
def Tile.fillLine (tl : Tile) (f : Fill) (b : List Byte) : Tile :=
  let t1 := { tl with fills := tl.fills.filter (fun g => g.id ≠ f.id) }
  if f.dead || (t1.line f.line).tag.toNat ≠ f.va.toNat / 256 then t1
  else
    let t2 := t1.lmWrite 2 (t1.sectorOff f.line f.sector.toNat) (b.map some)
    { t2 with lines := SMap.modify {} t2.lines f.line (fun l => { l with valid := setBit l.valid f.sector.toNat true }) }

/-- A load that waits for a fill receives its bytes as an answered request. -/
def State.handOver (s : State) (t : TileId) (f : Fill) (b : List Byte) (h : Thr) : State :=
  match (s.th t h).wait with
  | some w =>
    if w.on = .fill f.id then
      let d := (b.drop (w.va.toNat % 64)).take w.n
      let s1 := s.request t h false false w.src w.va w.n w.dest.esz []
      (((s1.answer s.nextId (some d)).replyIn s.nextId).modTh t h (fun x =>
        { x with wait := some { w with on := .req s.nextId } })).dataTaken t h
    else s
  | none => s

/-- SECTOR_FILL: fill `id` completes, in the order of its slice's replies, and delivers to the loads that wait for it (R191,
R263). -/
def execSectorFill (t : TileId) (id : Nat) (s : State) : Host.Outcome State Fault Refusal :=
  .next (match ((s.tile t).fills.filter (fun f => f.id = id)).head?, s.reqOf id with
    | some f, some r =>
      match r.ans with
      | some (some b) =>
        if !(s.replyNext t id) then s
        else
          let s1 := ((s.replyIn id).dropReq id).modTile t (fun tl => (tl.fillLine f b).pm 9 1)
          ([0, 1, 2, 3] : List Thr).foldl (fun a h => a.handOver t f b h) s1
      | _ => s
    | _, _ => s)

/-- TRANSLATION_WALK: the walk of thread `h` ends (R30, R317, R318). A walk that a removal has made void installs
nothing (R319); one that meets a slice whose memory interface is off wakes it and goes on later (R282). A fault is taken in the slot that the stall holds, unless a stop or a halt takes effect there (R39, R40) or
an event wins it (R360); while another cause holds the stall it waits. -/
def execTranslationWalk (t : TileId) (h : Thr) (ecc : SliceEcc) (s : State) : Host.Outcome State Fault Refusal :=
  .next (
    let own := bit (s.tile t).causes 1 && (s.tile t).slotOwner = h
    let done (s : State) : State :=
      (s.modTh t h (fun x => { x with walk := none })).modTile t (fun tl => if own then tl.stallOff 1 else tl)
    match (s.th t h).walk with
    | none => if own then done s else s
    | some va =>
      let f := (s.tile t).func.getD 0
      let r := (s.withEccs (s.entryReads (.tile t) f va.toNat) ecc).lookup t f va.toNat
      match r.1 with
      | .off pa => s.wakeSlice pa
      | .leaf _ => done r.2
      | .fault c =>
        if (setBit (s.tile t).causes 1 false) ≠ 0 then s
        else
          let u := done r.2
          if (u.th t h).run ≠ .running || (u.asyncDue t h).isSome then u else u.raise t h cFault c va
      | .bad pa =>
        (done r.2).machineCheck { src := 3, tile := some t, func := f, pa := BitVec.ofNat 46 (pa / 32 * 32),
                                  va := some va, reader := some (t, h) })

/-! ## Control registers (R58, R202, R375, R520, R521) -/

/-- A write of CT_TCTLh that keeps the other fields as they read. -/
def State.writeCtl (s : State) (src : Src) (t : TileId) (h : Thr) (g : Word → Word) : State :=
  s.regWrite src (paCt t (8 + 8 * h.toNat)) 4 ((g ((s.th t h).tctl s.debug)).setWidth 64) none
/-- THREAD_START: RUN := 1 (R41). -/
def execThreadStart (src : Src) (t : TileId) (h : Thr) (s : State) : Host.Outcome State Fault Refusal :=
  .next (s.writeCtl src t h (fun w => setBit w 16 true))
/-- THREAD_STOP: RUN := 0 (R39). -/
def execThreadStop (src : Src) (t : TileId) (h : Thr) (s : State) : Host.Outcome State Fault Refusal :=
  .next (s.writeCtl src t h (fun w => setBit w 16 false))
/-- THREAD_HALT: HALT := 1 (R40). -/
def execThreadHalt (src : Src) (t : TileId) (h : Thr) (s : State) : Host.Outcome State Fault Refusal :=
  .next (s.writeCtl src t h (fun w => setBit w 18 true))
/-- THREAD_UNHALT: HALT := 0 (R40). -/
def execThreadUnhalt (src : Src) (t : TileId) (h : Thr) (s : State) : Host.Outcome State Fault Refusal :=
  .next (s.writeCtl src t h (fun w => setBit w 18 false))
/-- A write of CT_IRQh that sets SWS or SWM and keeps the other. -/
def State.writePending (s : State) (src : Src) (t : TileId) (h : Thr) (sws swm : Bool) : State :=
  let x := s.th t h
  let v : DWord := (0#61) ++ b2v (swm || x.swm) ++ b2v (sws || x.sws) ++ (0#1)
  s.regWrite src (paCt t (0x480 + 8 * h.toNat)) 4 v none
/-- SWS (R375). -/
def execSws (src : Src) (t : TileId) (h : Thr) (s : State) : Host.Outcome State Fault Refusal :=
  .next (s.writePending src t h true false)
/-- SWM; a write from S is ignored (R375). -/
def execSwm (src : Src) (t : TileId) (h : Thr) (s : State) : Host.Outcome State Fault Refusal :=
  .next (s.writePending src t h false true)
/-- STEP: a write of 1 to CT_DBGh.STEP (R521). -/
def execStep (src : Src) (t : TileId) (h : Thr) (s : State) : Host.Outcome State Fault Refusal :=
  .next (s.regWrite src (paCt t (0x620 + 8 * h.toNat)) 4 1 none)
/-- HALTALL: a write of 1 to CT_HZCTL.HALTALL that keeps HALTK (R520). -/
def execHaltall (src : Src) (t : TileId) (s : State) : Host.Outcome State Fault Refusal :=
  .next (s.regWrite src (paCt t 0x600) 4 ((0#59) ++ (1#1) ++ (s.tile t).hzHaltk) none)
/-- INV: a write of 1 to CT_LMCTL.INV (R202). -/
def execInv (src : Src) (t : TileId) (s : State) : Host.Outcome State Fault Refusal :=
  .next (s.regWrite src (paCt t 0x208) 4 1 none)
/-- CSIZE_WRITE: a write of CT_LMCFG (R194). -/
def execCsizeWrite (src : Src) (t : TileId) (v : BitVec 32) (s : State) : Host.Outcome State Fault Refusal :=
  .next (s.regWrite src (paCt t 0x200) 4 (v.setWidth 64) none)

end Sys2Proof.Machine
end

