-- ==== Sys2Proof/Machine/MemEvents.lean ====
section
/-! DEFINITION. Events of memory: inbound writes, remote accesses, slices, colliers, CXL, CSR access replies, removal of
translations and the collier sweep (R178, R180, R184–R187, R281–R300, R319, R325, R387, R550). -/
namespace Sys2Proof.Machine

/-! ## Requests in flight (R263, R339) -/

/-- A store that a release holds in the store buffer (R339). -/
def State.heldStore (s : State) (r : Req) : Bool :=
  r.write && (s.tile r.tile).sbuf.any (fun b => b.id = r.id && b.hold ≠ [])
/-- Request `id` has left, no die link holds it, and nothing of its tile for the same place goes before it (R263, R273). -/
def State.reqArrives (s : State) (id : Nat) : Option Req :=
  match s.reqOf id with
  | none => none
  | some r =>
    if r.ans.isSome || s.heldStore r || s.reqHeld r.tile r.id r.dst
        || (s.reqs.takeWhile (fun o => o.id ≠ id)).any (fun o =>
          o.tile = r.tile && o.ans.isNone && reqKey o.dst = reqKey r.dst && !(s.heldStore o)) then none
    else some r

/-! ## Local memory (R178, R180, R184–R187) -/

/-- INBOUND_WRITE: the head of the inbound write buffer goes into local memory (R180). -/
def execInboundWrite (t : TileId) (ecc : Ecc) (s : State) : Host.Outcome State Fault Refusal :=
  .next (if s.tileReady t then s.drainInbound t ecc else s)

/-- The thread that waits for a request's own data (R367). -/
def State.readerOf (s : State) (r : Req) : Option (TileId × Thr) :=
  match (s.th r.tile r.thr).wait with
  | some w => if w.on = .req r.id || w.on = .fill r.id then some (r.tile, r.thr) else none
  | none => none

/-- What a remote load reads at the holding tile: nothing when it meets a double-bit error (R177). -/
def State.remoteLoad (s : State) (u : TileId) (r : Req) (off : Nat) (ecc : Ecc) : State :=
  let s1 := if ecc = .none then s
    else s.modTile u (fun tl => { tl with lerr := SMap.set none tl.lerr (off / 8) (some (ecc = .uncorrectable)) })
  let ws := (s1.tile u).errWords off r.n
  match firstBad ws with
  | some w => (s1.dropReq r.id).lmFail u 1 w (s1.readerOf r) (some r.va)
  | none => (s1.modTile u (fun tl => tl.fixWords 1 ws)).answer r.id (some ((s1.tile u).lmem.bytes off r.n))

/-- REMOTE_ACCESS_ARRIVAL: the holding tile checks FUNC, PID, bound and limit (R184–R187). An access to a tile that is
off wakes its half (R488). -/
def execRemoteAccessArrival (id : Nat) (ecc : Ecc) (s : State) : Host.Outcome State Fault Refusal :=
  .next (match s.reqArrives id with
    | none => s
    | some r =>
      match r.dst with
      | .remote u o hd =>
        if !(s.tileReady u) then s.wake (.half (tileCob u) (tileSouth u))
        else match s.remoteAt u r.func r.pid hd o r.n with
          | none => if r.write then (s.refuseStore r.tile id 1).dropReq id else s.answer id none
          | some off =>
            if !r.write then s.remoteLoad u r off ecc
            else if 16 ≤ (s.tile u).inbuf.length then s
            else (s.modTile u (fun tl =>
              { tl with inbuf := tl.inbuf ++ [{ off := off, bytes := r.data, what := .store r.tile r.id }] })).dropReq id
      | _ => s)

/-- LMEM_ZERO_DONE: every word is zero with valid check bits, and the tile may start threads (R178). -/
def execLmemZeroDone (t : TileId) (s : State) : Host.Outcome State Fault Refusal :=
  .next (if s.tileOn t && !(s.tile t).zeroed then
      s.modTile t (fun tl => { tl with zeroed := true, lmem := [], lerr := [] })
    else s)

/-! ## Slices and colliers (R281–R293) -/


/-- A read of a slice for a thread or a fill (R285, R286). -/
def State.sliceRead (s : State) (r : Req) (pa : Nat) (ecc : SliceEcc) : State :=
  let s1 := s.withEccs [(pa, r.n)] ecc
  match s1.badBurst pa r.n with
  | some b =>
    ((s1.dropReq r.id).modTile r.tile (fun tl => { tl with fills := tl.fills.filter (fun f => f.id ≠ r.id) })).hbmFail 3 b
      (r.func.getD 0) (some r.tile) (some r.va) (s1.readerOf r)
  | none => (s1.touchReads [(pa, r.n)]).answer r.id (some (s1.hbm.bytes pa r.n))
/-- A write at a slice (R286, R287, R338). -/
def State.sliceWrite (s : State) (r : Req) (pa : Nat) (ecc : SliceEcc) : State :=
  let s1 := s.withEccs ((partBursts pa r.n).map (fun b => (b * 32, 32))) ecc
  match s1.writeBurst pa r.n with
  | some b => ((s1.ackStore r.tile r.id).dropReq r.id).hbmFail 4 b (r.func.getD 0) (some r.tile) (some r.va) none
  | none => (((s1.hbmWrite pa r.data).touchReads [(pa, r.n)]).ackStore r.tile r.id).dropReq r.id

/-- SLICE_REQUEST: a slice serves request `id` in arrival order (R281, R285–R287). -/
def execSliceRequest (id : Nat) (ecc : SliceEcc) (s : State) : Host.Outcome State Fault Refusal :=
  .next (match s.reqArrives id with
    | none => s
    | some r =>
      match r.dst with
      | .hbm pa =>
        if !(s.sliceOn pa) then s.wakeSlice pa
        else if r.write then s.sliceWrite r pa ecc
        else s.sliceRead r pa ecc
      | _ => s)

/-- One collier operation on the block of an address (R286, R288, R290). -/
def State.collierOp (s : State) (k : AddKind) (src : Option TileId) (f : FuncNo) (cksel : Bool) (pa mask : Nat)
    (x : BitVec 512) (ecc : SliceEcc) : State :=
  if hbmEnd ≤ pa then s
  else if !(s.sliceOn pa) then s.wakeSlice pa
  else
    let s1 := s.withEccs [(pa / 64 * 64, 64)] ecc
    match s1.collierAdd k f cksel pa (maskedOps k mask x) with
    | .inl u => s1.hbmFail 4 u f src none none
    | .inr s2 => s2

/-- ADD.I32 (R288). -/
def execAddI32 (src : Option TileId) (f : FuncNo) (pa : BitVec 46) (mask : BitVec 16) (x : BitVec 512) (ecc : SliceEcc)
    (s : State) : Host.Outcome State Fault Refusal :=
  .next (s.collierOp .i32 src f false pa.toNat mask.toNat x ecc)
/-- ADD.F32 (R288). -/
def execAddF32 (src : Option TileId) (f : FuncNo) (pa : BitVec 46) (mask : BitVec 16) (x : BitVec 512) (ecc : SliceEcc)
    (s : State) : Host.Outcome State Fault Refusal :=
  .next (s.collierOp .f32 src f false pa.toNat mask.toNat x ecc)
/-- ADD.XS (R288, R289, R293). -/
def execAddXs (src : Option TileId) (f : FuncNo) (cksel : Bool) (pa : BitVec 46) (mask : BitVec 8) (x : BitVec 512)
    (ecc : SliceEcc) (s : State) : Host.Outcome State Fault Refusal :=
  .next (s.collierOp .xs src f cksel pa.toNat mask.toNat x ecc)
/-- CKADD (R293). -/
def execCkadd (f : FuncNo) (cksel : Bool) (pa : BitVec 46) (claim : BitVec 64) (s : State) :
    Host.Outcome State Fault Refusal :=
  .next (if hbmEnd ≤ pa.toNat then s
    else if !(s.sliceOn pa.toNat) then s.wakeSlice pa.toNat
    else s.ckAdd f cksel pa.toNat claim)
/-- CKRD: the record is returned and the accumulator cleared (R292). -/
def execCkrd (f : FuncNo) (cksel : Bool) (pa : BitVec 46) (s : State) : Host.Outcome State Fault Refusal :=
  .next (if hbmEnd ≤ pa.toNat then s
    else if !(s.sliceOn pa.toNat) then s.wakeSlice pa.toNat
    else
      let r := s.takeRecord (sliceOf pa.toNat) (accIx f cksel)
      { r.2 with ckRecord := r.1.record })

/-! ## CXL (R297–R300) -/

/-- A chunk leaves an engine after a machine check of CXL memory: one of its function (R300, R366). -/
def State.cxlFail (s : State) (e : Eng) (c : Chunk) : State :=
  (s.machineCheck { src := 6, tile := engTile e, func := c.func, pa := 0, va := none, reader := none }).chunkBroken e c.no
    (some c.id)

/-- CXL_COMPLETION: the device's response for the first chunk of an engine that waits for one (R300, R338). -/
def execCxlCompletion (e : Eng) (ok : Bool) (s : State) : Host.Outcome State Fault Refusal :=
  .next (match ((s.eng e).inflight.filter (fun c => c.cxl)).head? with
    | none => s
    | some c =>
      if ok then s.modEng e (fun g =>
        { g with inflight := g.inflight.map (fun k => if k.id = c.id then { k with cxl := false } else k) })
      else s.cxlFail e c)

/-- A chunk waits for the device on a link: one of the addresses of a piece goes there, at the finest granularity of the
windows (R297, R298). -/
def State.onLink (s : State) (l : Nat) (c : Chunk) : Bool :=
  c.cxl && c.pieces.any (fun p =>
    let at_ (g : EngTo) : Bool := match g with
      | .cxl pa => (List.range (ceilDiv (pa % 256 + p.n) 256)).any (fun i => s.cxlTarget (if i = 0 then pa else (pa / 256 + i) * 256) = some l)
      | _ => false
    at_ p.src || at_ p.dst)
/-- Every engine of the part that has a chunk in flight. -/
def State.busyEngines (s : State) : List Eng :=
  (s.tiles.filter (fun p => p.2.eng.inflight ≠ [])).map (fun p => Eng.tile (BitVec.ofNat 12 p.1))
    ++ (s.heng.filter (fun p => p.2.inflight ≠ [])).map (fun p => Eng.husk (BitVec.ofNat 2 p.1))

/-- CXL_LINK_DOWN: requests in flight to the link fail, and every window that names it is disabled (R300). -/
def execCxlLinkDown (l : BitVec 3) (s : State) : Host.Outcome State Fault Refusal :=
  .next (
    let hit := s.busyEngines.flatMap (fun e =>
      ((s.eng e).inflight.filter (fun c => s.onLink l.toNat c)).map (fun c => (e, c)))
    let s1 := { s with plan := { s.plan with cxlDown := setBit s.plan.cxlDown l.toNat true }
                       ld := { s.ld with ldown := setBit s.ld.ldown l.toNat true } }
    hit.foldl (fun a p => a.cxlFail p.1 p.2) s1)

/-! ## CSR access replies (R550) -/

/-- CSR_ACCESS_COMPLETE: a thread's access takes effect at its register and its reply returns; an access to a domain
that is off wakes it (R488, R550). -/
def execCsrAccessComplete (id : Nat) (s : State) : Host.Outcome State Fault Refusal :=
  .next (match s.reqArrives id with
    | none => s
    | some r =>
      match r.dst with
      | .csr pa =>
        let s := s.touchHalf pa
        let b := csrBlk pa
        let ready : Bool := match b with
          | some b => s.blkReady b
          | none => true
        if !ready then (match b.bind Blk.domain with
          | some d => s.wake d
          | none => s)
        else if r.write then
          let q := s.csrStore r pa
          (if q.1 then q.2.ackStore r.tile id else q.2.refuseStore r.tile id 2).dropReq id
        else if s.csrMayLoad r.pl r.func pa r.n ≠ .ok then s.answer id none
        else
          let q := s.csrLoad r pa (r.n / r.esz) []
          q.2.answer id (some q.1)
      | _ => s)

/-! ## Removal of translations and the sweep (R319, R387) -/

/-- WINV: a write of CE_WINV with BUSY 1 (R319). -/
def execWinv (src : Src) (c : CobNo) (vpn : BitVec 36) (f : FuncNo) (all : Bool) (s : State) :
    Host.Outcome State Fault Refusal :=
  .next (s.regWrite src (paWinv c 0) 8 ((0#21) ++ (1#1) ++ b2v all ++ f ++ vpn) none)
/-- WINV_DONE (R319). -/
def execWinvDone (c : CobNo) (s : State) : Host.Outcome State Fault Refusal := .next (s.endWinv c)
/-- SWEEP: a write of CE_CKCMD with BUSY 1 (R387). -/
def execSweep (src : Src) (c : CobNo) (f : FuncNo) (cksel : Bool) (s : State) : Host.Outcome State Fault Refusal :=
  .next (s.regWrite src (paWinv c 0x100) 8 ((0#57) ++ (1#1) ++ b2v cksel ++ f) none)
/-- SWEEP_DONE (R387). -/
def execSweepDone (c : CobNo) (s : State) : Host.Outcome State Fault Refusal := .next (s.endSweep c)

/-! ## Inbound windows (R325) -/

/-- Slices that a window request needs and that are off, each by an address in it (R282). -/
def State.windowSleeps (s : State) (rq : WinReq) : List Nat :=
  (s.windowRuns rq).filterMap (fun p => match s.windowAt rq.func p.1 with
    | .off pa => some pa
    | .at pa => if s.sliceOn pa then none else some pa
    | _ => none)
/-- The fabric holds a window request at its Husk, the one of its port, on the way to a slice (R261, R267, R273). -/
def State.windowBlocked (s : State) (port : Option PortNo) (rq : WinReq) : Bool :=
  (s.windowRuns rq).any (fun p => match s.windowAt rq.func p.1 with
    | .at pa => s.fabricHolds (0, false) true (crossing true s.pw.viaK1 (.husk (bit (port.getD 0) 1)) (.slice (sliceOf pa)))
    | _ => false)
/-- The answer of a window request: kept in the state, and sent as RSP to the requester (R325, R437, R438). -/
def State.windowReply (s : State) (port : Option PortNo) (rq : WinReq) (status : Byte) : State :=
  let s1 := { s with winAns := status }
  match port with
  | none => s1
  | some _ => match s1.portFor rq.srcId with
    | none => s1
    | some q => s1.sendOn q { type := 0x13, func := rq.func, dst := rq.srcId, tag := rq.tag, status := status, attr := 0,
                              addr := 0, data := [], len := 0 }
/-- A window request is served, or held: while it waits for a memory interface, which it wakes, for the fabric, or behind an
earlier held request of its source (R263, R267, R282, R325). -/
def State.serveWindow (s : State) (port : Option PortNo) (rq : WinReq) : State :=
  let hold (s : State) : State := { s with winHeld := s.winHeld ++ [(port, rq)] }
  match s.windowCheck rq with
  | some st => s.windowReply port rq st
  | none =>
    if s.winHeld.any (fun h => h.2.srcId = rq.srcId && h.2.func = rq.func) || s.windowBlocked port rq then hold s
    else match s.windowSleeps rq with
      | [] => let r := s.windowLand rq; r.2.windowReply port rq r.1
      | l => hold (l.foldl (fun a pa => a.wakeSlice pa) s)
/-- Held window requests are tried again, in order. -/
def State.retryWindows (s : State) : State :=
  s.winHeld.foldl (fun a h => a.serveWindow h.1 h.2) { s with winHeld := [] }
/-- INBOUND_WINDOW_REQUEST: the answer is kept in the state (R325). -/
def execInboundWindowRequest (rq : WinReq) (s : State) : Host.Outcome State Fault Refusal :=
  .next (s.serveWindow none rq)

end Sys2Proof.Machine
end

