-- ==== Sys2Proof/Machine/QueueEvents.lean ====
section
/-! DEFINITION. Events of queues: arrivals, waiting messages, ricks, credit, responses, and the register writes that
enable, reassign, close and disarm a queue (R209, R219–R222, R225–R227, R231, R235–R238, R244, R552, R553). -/
namespace Sys2Proof.Machine

/-! ## Arrivals at a queue -/

/-- A packet reaches tile `t`: an off half is woken and the packet is held (R488), else `k` runs. -/
def atTile (t : TileId) (ready : State → TileId → Bool) (k : State → State) (s : State) : State :=
  if ready s t then k s else s.wake (.half (tileCob t) (tileSouth t))

/-- An earlier message of the same source waits for room on the same network of tile `t` and holds its place (R222). -/
def State.stuckBehind (s : State) (t : TileId) (p : Pkt) : Bool :=
  (s.tile t).q.any (fun k => k.2.waiting.any (fun w => w.2 = p.src && decide (2 ≤ w.1.payload.length) = decide (p.net = 3)))

/-- MESSAGE_ARRIVAL (R221, R222, R225). The data mesh holds a message back while the inbound write buffer is full (R180). -/
def execMessageArrival (id : Nat) (s : State) : Host.Outcome State Fault Refusal :=
  .next (match s.packet id with
    | some p =>
      match p.dst, p.body with
      | .tile t, .msg m =>
        if s.stuckBehind t p then s
        else atTile t State.tileReady (fun s =>
          if (s.tile t).admits m then (s.dropPkt id).arrive t p.src m else s) s
      | _, _ => s
    | none => s)

/-- WAITING_MESSAGE_PLACED: the first waiting message is placed once its contiguous room is free (R222). -/
def execWaitingMessagePlaced (t : TileId) (q : QIx) (s : State) : Host.Outcome State Fault Refusal :=
  .next (
    let k := (s.tile t).queue q
    match k.waiting with
    | [] => s
    | (m, src) :: r =>
      if !(s.tileReady t) || !(k.fits m.ring) || !((s.tile t).admits m) then s
      else
        let need := msgNeed m t
        ((s.modTile t (fun tl => tl.modQueue q (fun k => { k with waiting := r }))).placeMsg t q m need
          (covered m.relScope need)).respond t src m.rtag .accepted)

/-- RICK_CONTRIBUTION_ARRIVAL: the contribution has passed through the inbound write buffer, so the writes ahead of it
there have landed (R223, R225, R235–R237). -/
def execRickContributionArrival (id : Nat) (s : State) : Host.Outcome State Fault Refusal :=
  .next (match s.packet id with
    | some p =>
      match p.dst, p.body with
      | .tile t, .rick m who _ =>
        if s.stuckBehind t p then s
        else atTile t State.tileReady (fun s => ((s.drainAll t).dropPkt id).arriveRick t m who) s
      | _, _ => s
    | none => s)

/-- Index of a router on a route. -/
def placeOn (r : TileId) (l : List TileId) : Nat := (l.takeWhile (fun x => x ≠ r)).length
/-- The contribution that a packet carries, with its contributors and the output of router `r` that its route takes, while
it may wait there: the router lies on its route, not before the last place where it is known to have come, and it has not
left the router (R235, R260, R261). The output is the next router, or none for the exit. -/
def State.contribAt (s : State) (r : TileId) (id : Nat) : Option (Pkt × Msg × List Contrib × Option TileId) :=
  match (s.net.filter (fun p => p.id = id)).head? with
  | some p =>
    match p.src, p.dst, p.body with
    | .tile x, .tile y, .rick m who place =>
      let l := meshPath x y
      let i := placeOn r l
      let here : Bool := match place with
        | none => true
        | some (q, left) => if left then decide (placeOn q l < i) else decide (placeOn q l ≤ i)
      if p.sent && l.contains r && s.tileOn r && here && (tileCob r = tileCob x || !(s.pktHeld p)) then
        some (p, m, who, l[i + 1]?)
      else none
    | _, _, _ => none
  | none => none

/-- ROUTER_COMBINE: two contributions with one handle, TAG and LEN that wait at one output of a router become one with
their sum and all their contributors (R235, R236). -/
def execRouterCombine (r : TileId) (id other : Nat) (s : State) : Host.Outcome State Fault Refusal :=
  .next (match s.contribAt r id, s.contribAt r other with
    | some (p, m, w, o), some (_, n, v, u) =>
      if id = other || o ≠ u || m.handle ≠ n.handle || m.tag ≠ n.tag || m.payload.length ≠ n.payload.length then s
      else
        let k := { m with payload := rickAdd (etype m.tag) m.payload n.payload
                          func := if m.func = n.func then m.func else none }
        State.modTile { s with net := (s.net.filter (fun q => q.id ≠ other)).map (fun q =>
            if q.id = p.id then { q with body := .rick k (w ++ v) (some (r, false)) } else q) } r (fun tl => tl.pm 0x22 1)
    | _, _ => s)

/-- RICK_HOLD_EXPIRY: the contribution leaves router `r` and combines there no more (R260). -/
def execRickHoldExpiry (r : TileId) (id : Nat) (s : State) : Host.Outcome State Fault Refusal :=
  .next (match s.contribAt r id with
    | some (p, m, w, _) =>
      { s with net := s.net.map (fun q => if q.id = p.id then { q with body := .rick m w (some (r, true)) } else q) }
    | none => s)

/-! ## Credit (R218–R220, R552) -/

/-- CREDIT_REQUEST_ARRIVAL (R219, R552). -/
def execCreditRequestArrival (id : Nat) (s : State) : Host.Outcome State Fault Refusal :=
  .next (match s.packet id with
    | some p =>
      match p.dst, p.body with
      | .tile t, .credReq h n f =>
        if s.stuckBehind t p then s
        else atTile t State.tileOn (fun s => (s.dropPkt id).arriveRequest t p.src h n f) s
      | _, _ => s
    | none => s)

/-- HELD_REQUEST_GRANT: the first held request, once it could be granted, is checked again, and refused or granted (R219,
R552). -/
def execHeldRequestGrant (t : TileId) (q : QIx) (s : State) : Host.Outcome State Fault Refusal :=
  .next (
    let k := (s.tile t).queue q
    match k.held with
    | [] => s
    | (src, m, h, f) :: r =>
      match k.grantFor m with
      | none => s
      | some n =>
        let s1 := s.modTile t (fun tl => tl.modQueue q (fun k => { k with held := r }))
        if (k.check (s.mayReach t q src f) (hEpoch h) 0).isSome then s1.refuse t src h else s1.grantTo t q src h n)

/-- A packet for a sending side: a tile must be on to take it. -/
def atSender (u : Sender) (k : State → State) (s : State) : State :=
  match u with
  | .tile t => atTile t State.tileOn k s
  | _ => k s

/-- GRANT_ARRIVAL: a grant or refusal lands, or goes back when its entry is gone (R220, R552). -/
def execGrantArrival (id : Nat) (s : State) : Host.Outcome State Fault Refusal :=
  .next (match s.packet id with
    | some p =>
      match partySender p.dst, p.body with
      | some u, .grant h n refused => atSender u (fun s => (s.dropPkt id).landGrant u h n refused) s
      | _, _ => s
    | none => s)

/-- CREDIT_RETURN_ARRIVAL: a return of the queue's own epoch lowers granted (R220). -/
def execCreditReturnArrival (id : Nat) (s : State) : Host.Outcome State Fault Refusal :=
  .next (match s.packet id with
    | some p =>
      match p.dst, p.body with
      | .tile t, .credRet h n =>
        atTile t State.tileOn (fun s => (s.dropPkt id).modTile t (fun tl => tl.modQueue (hQix h) (fun k =>
          if k.epoch = hEpoch h then { k with granted := k.granted - n } else k))) s
      | _, _ => s
    | none => s)

/-- CREDIT_IDLE_RETURN: an entry without a request outstanding returns its bytes and is freed (R220). -/
def execCreditIdleReturn (u : Sender) (e : BitVec 4) (s : State) : Host.Outcome State Fault Refusal :=
  .next (if ((s.sendSide u).entry e.toNat).req then s else s.returnEntry u e.toNat)

/-- FLUSH: a write of 1 to QT_CRFL.FLUSH (R220). -/
def execFlush (src : Src) (t : TileId) (s : State) : Host.Outcome State Fault Refusal :=
  .next (s.regWrite src (paQt t 0x448) 4 1 none)

/-! ## Responses (R217, R226, R227) -/

/-- A response frees its tag once every member has answered. -/
def SendSide.answered (x : SendSide) (tag : Nat) (r : Resp) : SendSide :=
  let l := x.sent.map (fun (e : Sent) =>
    if e.tag = tag then { e with left := e.left - 1, stale := e.stale || r = .stale, closed := e.closed || r = .closed }
    else e)
  { x with sent := l.filter (fun e => e.left ≠ 0) }
/-- A credit entry is discarded without a return (R220). -/
def SendSide.discard (x : SendSide) (h : Word) : SendSide :=
  match x.find h with
  | some i => x.modEntry i (fun _ => {})
  | none => x
/-- Later messages to the queue that waited for a tag of source `u` may leave (R226). -/
def State.freeAfter (s : State) (u : Sender) (tag : Nat) : State :=
  if (s.sendSide u).sent.any (fun e => e.tag = tag) then s
  else { s with net := s.net.map (fun (p : Pkt) =>
    if p.src = senderParty u then { p with after := p.after.filter (fun i => i ≠ tag) } else p) }

/-- What a response does to the thread that committed the message; `first` when no other member of a multicast has answered
so: the seed bit, and with it the Stale Send, is set once (R227). -/
def Tile.threadAnswer (tl : Tile) (h : Thr) (r : Resp) (first : Bool) : Tile :=
  match r with
  | .accepted => tl
  | .stale =>
    Tile.modTh { tl with stale := if first then setBit tl.stale h.toNat true else tl.stale } h (fun x =>
      { x with cntStale := satAdd x.cntStale 1, sts := x.sts || (first && x.stex) })
  | .closed =>
    Tile.modTh { tl with closedS := if first then setBit tl.closedS h.toNat true else tl.closedS } h (fun x =>
      { x with cntClosed := satAdd x.cntClosed 1 })
  | .dropped => tl.modTh h (fun x => { x with cntDropped := satAdd x.cntDropped 1 })

/-- The effect of a response on its owner (R227, R313, R331, R447). -/
def State.ownerAnswer (s : State) (u : Sender) (o : Owner) (r : Resp) (first : Bool) : State :=
  match u, o with
  | .tile t, .thread h =>
    match (s.tile t).func with
    | some f => if (s.func f).st = .resetting then s else s.modTile t (fun tl => tl.threadAnswer h r first)
    | none => s.modTile t (fun tl => tl.threadAnswer h r first)
  | .tile t, .engDone =>
    if r = .accepted then s else s.modEng (.tile t) (fun g => { g with cqerr := satAdd g.cqerr 1 })
  | .tile t, .engFault =>
    if r = .accepted then s else s.modEng (.tile t) (fun g => { g with fqerr := satAdd g.fqerr 1 })
  | _, .command f => s.msgDone f r
  | _, _ => s

/-- The counters of position events (R416, R429). -/
def Pt.eventAnswer (p : Pt) (r : Resp) : Pt :=
  match r with
  | .accepted => p
  | .stale => { p with evStale := satAdd p.evStale 1 }
  | .closed => { p with evClosed := satAdd p.evClosed 1 }
  | .dropped => { p with evDropped := satAdd p.evDropped 1 }

/-- An outcome that no member has answered before. -/
def Sent.fresh (e : Sent) (r : Resp) : Bool := !(r = .stale && e.stale || r = .closed && e.closed)

/-- A response of tile `src` reaches a sending side: the tag is freed once every member has answered, and STALE or CLOSED
discards the credit entry for the handle of that tile's queue (R217, R220, R227). -/
def State.takeResponse (s : State) (u : Sender) (src : TileId) (tag : Nat) (r : Resp) : State :=
  match ((s.sendSide u).sent.filter (fun e => e.tag = tag)).head? with
  | none => s
  | some e =>
    let s1 := s.modSend u (fun x =>
      let y := x.answered tag r
      if r = .stale || r = .closed then
        match e.handles.filter (fun h => hTile h = src) with
        | h :: _ => y.discard h
        | [] => y
      else y)
    (s1.freeAfter u tag).ownerAnswer u e.owner r (e.fresh r)

/-- RESPONSE_ARRIVAL (R227). -/
def execResponseArrival (id : Nat) (s : State) : Host.Outcome State Fault Refusal :=
  .next (match s.packet id with
    | some p =>
      match p.body, p.src, p.dst, partySender p.dst with
      | .resp tag r, .tile v, _, some u => atSender u (fun s => (s.dropPkt id).takeResponse u v tag r) s
      | .resp _ r, _, .timebase, none => let s1 := s.dropPkt id; { s1 with pt := s1.pt.eventAnswer r }
      | _, _, _, _ => s
    | none => s)

/-! ## Queue registers (R209, R231, R238, R243, R244, R553) -/

/-- QUEUE_ENABLE: a write of QT_QCFGq with EN 1 (R209, R231). -/
def execQueueEnable (src : Src) (t : TileId) (q : QIx) (w : BitVec 32) (s : State) : Host.Outcome State Fault Refusal :=
  .next (s.regWrite src (paQt t (8 * q.toNat)) 4 ((w ||| 1).setWidth 64) none)
/-- QUEUE_DISABLE: a write of QT_QCFGq with EN 0 (R553). -/
def execQueueDisable (src : Src) (t : TileId) (q : QIx) (s : State) : Host.Outcome State Fault Refusal :=
  .next (s.regWrite src (paQt t (8 * q.toNat)) 4 ((setBit ((s.tile t).queue q).cfg 0 false).setWidth 64) none)
/-- REASSIGN: a write of 1 to QT_QCTLq.REASSIGN (R231, R244). -/
def execReassign (src : Src) (t : TileId) (q : QIx) (s : State) : Host.Outcome State Fault Refusal :=
  .next (s.regWrite src (paQt t (0x80 + 8 * q.toNat)) 4 1 none)
/-- CLOSE: a write of 1 to QT_QCTLq.CLOSE (R244). -/
def execClose (src : Src) (t : TileId) (q : QIx) (s : State) : Host.Outcome State Fault Refusal :=
  .next (s.regWrite src (paQt t (0x80 + 8 * q.toNat)) 4 2 none)
/-- DISARM: a write of 1 to QT_QCTLq.DISARM (R238, R244). -/
def execDisarm (src : Src) (t : TileId) (q : QIx) (s : State) : Host.Outcome State Fault Refusal :=
  .next (s.regWrite src (paQt t (0x80 + 8 * q.toNat)) 4 4 none)

end Sys2Proof.Machine
end

