-- ==== Sys2Proof/Machine/CopyEvents.lean ====
section
/-! DEFINITION. Events of the copy engines: descriptors, chunks, completion and fault messages, late errors, and the
writes of CE_CTL (R302–R315, R326, R338). -/
namespace Sys2Proof.Machine

/-- The engine's tile is on; a Husk engine always is. -/
def State.engOn (s : State) (e : Eng) : Bool :=
  match e with
  | .tile t => s.tileReady t
  | .husk _ => true

/-- The page-table entry of a descriptor's first destination byte, where its slice is off: the checks that need its route
wait for it (R282, R307). -/
def State.checkSleeps (s : State) (e : Eng) (f : FuncNo) (x : Xfer) : Option Nat :=
  if x.badFormat || x.len = 0 || x.hostDst || x.dst < 0x100000000 then none
  else match (s.engLook e f x.dst).1 with
    | .off pa => some pa
    | _ => none
/-- DESCRIPTOR_START (R307). -/
def execDescriptorStart (e : Eng) (s : State) : Host.Outcome State Fault Refusal :=
  .next (if !(s.engOn e) then s
    else match (s.engFunc e).bind (fun f => s.checkSleeps e f (s.eng e).xfer) with
      | some pa => s.wakeSlice pa
      | none => s.descStart e)

/-! ## Chunks (R309, R313) -/

/-- Rows of chunk `k`: the first and the one after the last. -/
def Xfer.rowsOf (x : Xfer) (k : Nat) : Nat × Nat :=
  (4096 * k / x.rowLen, ceilDiv (min (4096 * k + 4096) x.len) x.rowLen)
/-- The part of the index or claims list that chunk `k` reads: its address and length. -/
def Xfer.listPart (x : Xfer) (k : Nat) : Option (Nat × Nat) :=
  if x.indexed then let r := x.rowsOf k; some (x.idx + 4 * r.1, 4 * (r.2 - r.1))
  else if x.ck then some (x.idx + 8 * k, 8)
  else none

/-- What the reading of a list finds. -/
inductive ListRead
  | bytes (b : List Byte)
  /-- the list has left the engine's own scratchpad: cause 0x07 -/
  | outside (va : Nat)
  /-- a word with a double-bit error -/
  | bad (w : Nat)
  deriving DecidableEq, Repr

/-- Step 1: the list entries of chunk `k`, with single-bit errors corrected (R177, R309). -/
def State.chunkList (s : State) (e : Eng) (x : Xfer) (k : Nat) : ListRead × State :=
  match x.listPart k with
  | none => (.bytes [], s)
  | some (va, n) =>
    match e, s.readList e va n with
    | .tile t, (some b, _) =>
      match s.resolveLocal t va n false with
      | some (.own o) => (.bytes b, s.modTile t (fun tl => tl.fixWords 1 (tl.errWords o n)))
      | _ => (.bytes b, s)
    | _, (some b, _) => (.bytes b, s)
    | _, (none, some w) => (.bad w, s)
    | _, (none, none) => (.outside va, s)

/-- A chunk that fails in step 2: the engine halts once earlier chunks are finished (R313). -/
def State.chunkFault (s : State) (e : Eng) (k : Nat) (cause : BitVec 4) (va : Nat) (side : Bool) : State :=
  (s.modEng e (fun g => { g with halting := some (k, cause, BitVec.ofNat 48 va, side, false) })).engSettle e

/-- A piece reaches CXL memory. -/
def Piece.far (p : Piece) : Bool :=
  let at_ (g : EngTo) : Bool := match g with
    | .cxl _ => true
    | _ => false
  at_ p.src || at_ p.dst

/-- Detector 4 on the pieces of a chunk with their source addresses, HBM sources alone: what it has become, and the pieces,
those marked whose rows follow one stride (R196, R197, R311). -/
def Detector.chunk (d : Detector) : List (Nat × Piece) → Detector × List (Bool × Piece)
  | [] => (d, [])
  | (a, p) :: r =>
    let on : Bool := match p.src with
      | .hbm _ => true
      | _ => false
    let d1 := if on then (d.update (BitVec.ofNat 48 a)).1 else d
    let q := d1.chunk r
    (q.1, (on && d1.active, p) :: q.2)
/-- The marked pieces are fetched into the engine's buffers, those that meet no error, no hold of a die link and no sleeping
slice (R311). -/
def State.fetchAhead (s : State) (e : Eng) (f : FuncNo) (ecc : SliceEcc) : List (Bool × Piece) → List Piece × State
  | [] => ([], s)
  | (m, p) :: r =>
    match p.src with
    | .hbm pa =>
      let s1 := s.withEccs [(pa, p.n)] ecc
      if m && s.sliceOn pa && (s1.badBurst pa p.n).isNone
          && !(s.fabricHolds (s.nextId, false) true (crossing true s.pw.viaK1 (engEnd e) (.slice (sliceOf pa)))) then
        let q := (s1.touchReads [(pa, p.n)]).fetchAhead e f ecc r
        ({ p with got := some (s1.hbm.bytes pa p.n) } :: q.1, q.2)
      else let q := s.fetchAhead e f ecc r; (p :: q.1, q.2)
    | _ => let q := s.fetchAhead e f ecc r; (p :: q.1, q.2)

/-- Domains that a piece needs and that are off (R282, R488). -/
def State.pieceSleeps (s : State) (p : Piece) : List Domain :=
  let at_ (g : EngTo) : List Domain := match g with
    | .hbm pa => if s.sliceOn pa then [] else [.memif (slicePaCob pa)]
    | .remote u _ _ => if s.tileReady u then [] else [.half (tileCob u) (tileSouth u)]
    | _ => []
  (if p.got.isSome then [] else at_ p.src) ++ at_ p.dst
/-- A piece that moves within the part. -/
def Piece.inside (p : Piece) : Bool :=
  match p.dst with
  | .route _ _ => false
  | .host _ => false
  | _ => true

/-- What a chunk's packets have come to (R313, R314). -/
def State.chunkSent (s : State) (e : Eng) (c : Chunk) : SendEnd → State
  | .sent => s.sendClaim e c
  | .noPort => s.engLate e c.id 9 ((c.pieces.map (fun p => p.dva)).headD 0) true
  | .broken => s.chunkBroken e c.no (some c.id)

/-- A chunk that has passed step 2 is in flight; its packets leave (R309, R324). While a source of those packets sleeps or a
die link holds them, the chunk does not start: a sleeping domain wakes. -/
def State.chunkGo (s0 s : State) (e : Eng) (f : FuncNo) (x : Xfer) (k : Nat) (b : List Byte)
    (runs : List (Nat × Nat × Nat)) (ps : List Piece) (ecc : SliceEcc) : State :=
  let d := (s.eng e).det.chunk ((runs.map (fun q => q.1)).zip ps)
  let q := s.fetchAhead e f ecc d.2
  let c : Chunk :=
    { id := s.nextId, no := k, func := f, acc := if x.acc then some (BitVec.ofNat 2 x.atype, x.cksel) else none,
      pieces := q.1,
      claim := if x.ck then (q.1.head?).map (fun p => (p.dst, (leBits 64 b : DWord))) else none,
      cxl := q.1.any Piece.far }
  let out := q.1.filter (fun p => !p.inside)
  let asleep := out.flatMap (fun p => s.pieceSleeps p)
  if asleep ≠ [] then asleep.foldl (fun a d => a.wake d) s0
  else if out ≠ [] && s.chunkHeld e { c with pieces := out } then s0
  else
    let s1 := State.modEng { q.2 with nextId := s.nextId + 1 } e (fun g =>
      { g with inflight := g.inflight ++ [c], det := d.1 })
    let r := s1.sendChunk e c ecc c.pieces
    r.1.chunkSent e c r.2

/-- CHUNK_START: steps 1 and 2 of the next chunk (R309, R313). -/
def execChunkStart (e : Eng) (ecc : SliceEcc) (s : State) : Host.Outcome State Fault Refusal :=
  .next (
    let g := s.eng e
    let x := g.xfer
    let k := g.next + g.inflight.length
    match s.engFunc e with
    | none => s
    | some f =>
      if !(s.engOn e) || g.st ≠ .running || !g.active || g.ending || g.pausing || g.halting.isSome
          || 8 ≤ g.inflight.length || x.chunks ≤ k then s
      else
        let l := s.chunkList e x k
        match l.1 with
        | .outside va => l.2.chunkFault e k 7 va false
        | .bad w => (match engTile e with
          | some t => l.2.lmFail t 1 w none none
          | none => l.2)
        | .bytes b =>
          let j0 := (x.rowsOf k).1
          let runs := x.runs k (fun j => x.index ((b.drop (4 * (j - j0))).take 4))
          let r := l.2.step2 e f x ecc (4096 * k) runs []
          match r.1 with
          | .fault c va side => r.2.chunkFault e k c va side
          | .bad pa => (r.2.hbmFail 3 (pa / 32) f (engTile e) none none).chunkBroken e k none
          | .off pa => s.wakeSlice pa
          | .ok ps => s.chunkGo r.2 e f x k b runs ps ecc)

/-- 64-byte transfers of a chunk. -/
def Chunk.transfers (c : Chunk) : Nat := (c.pieces.map (fun p => ceilDiv p.n 64)).sum

/-- The chunk at the head of the engine is finished: CE_NEXT advances (R309). -/
def State.chunkDone (s : State) (e : Eng) (c : Chunk) : State :=
  let s0 := match c.claim, c.acc with
    | some (.hbm pa, v), some (_, ck) => s.ckAdd c.func ck pa v
    | _, _ => s
  let s1 := s0.modEng e (fun g =>
    { g with inflight := g.inflight.filter (fun k => k.id ≠ c.id)
             next := if g.active && c.no = g.next then c.no + 1 else g.next })
  let s2 := match engTile e with
    | some t => s1.modTile t (fun tl => (tl.pm 0x18 c.transfers).pm 0x19 1)
    | none => s1
  s2.engSettle e

/-- The host bytes of a chunk have come and go on to their routes; the chunk then waits for the answers (R324, R326). -/
def State.chunkForward (s : State) (e : Eng) (c : Chunk) (ecc : SliceEcc) : State :=
  let c1 := { c with fwd := true }
  let s1 := s.modEng e (fun g => { g with inflight := g.inflight.map (fun k => if k.id = c.id then c1 else k) })
  let r := s1.sendChunk e c1 ecc (c.pieces.filter (fun p => p.fromHost && !p.inside))
  r.1.chunkSent e c1 r.2

/-- CHUNK_FINISH: step 3 of the oldest chunk in flight, once its answers have returned (R309). Its bytes move here; host bytes
for a route go on to it. -/
def execChunkFinish (e : Eng) (ecc : SliceEcc) (s : State) : Host.Outcome State Fault Refusal :=
  .next (match (s.eng e).inflight with
    | [] => s
    | c :: _ =>
      let asleep := (c.pieces.filter Piece.inside).flatMap (fun p => s.pieceSleeps p)
      if !(s.engOn e) || c.cxl || s.chunkWaits c.id || s.chunkHeld e c || c.pieces.any (fun p => s.pieceRefused e p) then s
      else if asleep ≠ [] then asleep.foldl (fun a d => a.wake d) s
      else if !c.fwd && c.pieces.any (fun p => p.fromHost && !p.inside) then s.chunkForward e c ecc
      else match s.movePieces e c ecc (c.pieces.filter Piece.inside) 4096 with
        | .inl t => t.chunkBroken e c.no (some c.id)
        | .inr t => t.chunkDone e c)

/-- A piece that another tile refuses, on the side that an error names, at its address (R186, R187, R313). -/
def State.refusedAt (s : State) (e : Eng) (va : VAddr) (side : Bool) (p : Piece) : Bool :=
  let bad (g : EngTo) : Bool := match g with
    | .remote _ _ _ => (s.pieceAt e g p.n).isNone
    | _ => false
  if side then bad p.dst && decide (p.dva.toNat ≤ va.toNat) && decide (va.toNat < p.dva.toNat + p.n) else bad p.src

/-- LATE_ERROR: a chunk of which `moved` bytes may have landed meets a refusal of another tile or of a remote part
(R314). -/
def execLateError (e : Eng) (cause : BitVec 4) (va : BitVec 48) (side : Bool) (moved : Nat) (ecc : SliceEcc) (s : State) :
    Host.Outcome State Fault Refusal :=
  .next (
    let hit (c : Chunk) : Bool :=
      if cause = 8 then c.pieces.any (fun p => s.refusedAt e va side p)
      else (cause = 9 || cause = 10 || cause = 11) && side && s.chunkWaits c.id
    match ((s.eng e).inflight.filter hit).head? with
    | none => s
    | some c =>
      let l := c.pieces.filter Piece.inside
      if !(s.engOn e) || (moved ≠ 0 && (s.chunkHeld e c || l.any (fun p => s.pieceSleeps p ≠ []))) then s
      else match s.movePieces e c ecc l moved with
        | .inl t => t.chunkBroken e c.no (some c.id)
        | .inr t => t.engLate e c.id cause va side)

/-! ## Messages (R310, R313) -/

/-- The completion message at the head has left, or its handle names none: CEDONE, and what follows (R310). -/
def State.engMsgGone (s : State) (e : Eng) (m : EngMsg) : State :=
  let s1 := s.modEng e (fun g => { g with out := g.out.tail })
  (if m.fault then s1 else s1.setDone e).engSettle e

/-- COMPLETION_MESSAGE_SEND: the oldest waiting message of a tile engine leaves with credit and a tag (R217, R218, R310,
R313). A fault message whose FQH names no handle is not accepted anywhere and is counted. -/
def execCompletionMessageSend (e : Eng) (s : State) : Host.Outcome State Fault Refusal :=
  .next (match e, (s.eng e).out with
    | .tile t, m :: _ =>
      let u : Sender := .tile t
      let x := s.sendSide u
      let n := ringBytes m.payload.length
      if !(s.engOn e) then s
      else if badHandle m.handle then
        (s.modEng e (fun g => { g with fqerr := satAdd g.fqerr 1 })).engMsgGone e m
      else if !(x.ready m.handle n) then s.askCredit u m.handle n (s.tile t).func
      else if x.freeTag.isNone then s
      else
        let k : Msg := { kind := 0, sender := t, origin := 0, func := (s.tile t).func, tag := m.tag,
                         payload := m.payload, handle := m.handle, credited := x.credited m.handle, rtag := 0,
                         relScope := if m.fault then none else some .system }
        ((s.modSend u (fun y => y.use m.handle n)).emit u (if m.fault then .engFault else .engDone) k false []).engMsgGone
          e m
    | _, _ => s)

/-! ## Commands (R303, R312, R315, R330) -/

/-- A write of one bit of CE_CTL. -/
def State.writeCeCtl (s : State) (src : Src) (t : TileId) (v : DWord) : State := s.regWrite src (paCe t 8) 4 v none
/-- PAUSE (R312). -/
def execPause (src : Src) (t : TileId) (s : State) : Host.Outcome State Fault Refusal := .next (s.writeCeCtl src t 1)
/-- GO (R312). -/
def execGo (src : Src) (t : TileId) (s : State) : Host.Outcome State Fault Refusal := .next (s.writeCeCtl src t 2)
/-- RESUME (R315). -/
def execResume (src : Src) (t : TileId) (s : State) : Host.Outcome State Fault Refusal := .next (s.writeCeCtl src t 4)
/-- ABORT (R312). -/
def execAbort (src : Src) (t : TileId) (s : State) : Host.Outcome State Fault Refusal := .next (s.writeCeCtl src t 8)

end Sys2Proof.Machine
end

