-- ==== Sys2Proof/Machine/Faults.lean ====
section
/-! DEFINITION. Die links, machine checks and the quiescence census (R271–R274, R366–R372, R379). -/
namespace Sys2Proof.Machine

/-! ## Die links (R271–R273) -/

/-- One second in Husk cycles. -/
def oneSecond : Nat := 3600000000

/-- The die links that transfer `k` crosses, with their directions. -/
def State.routeOf (s : State) (k : Xid) : List (Nat × Bool) :=
  let fromPkt := (s.net.filter (fun p => p.id = k.1 && p.sent)).flatMap (fun p => s.pktRoute p)
  let fromReq := (s.reqs.filter (fun r => r.id = k.1)).flatMap (fun r => s.reqRoute r.tile r.dst)
  let fromBuf := s.tiles.flatMap (fun p => (p.2.sbuf.filter (fun b => b.id = k.1)).flatMap (fun b =>
    s.reqRoute (BitVec.ofNat 12 p.1) b.dst))
  let fromChunk := s.busyEngines.flatMap (fun e =>
    ((s.eng e).inflight.filter (fun c => c.id = k.1)).flatMap (fun c => s.chunkRoute e c))
  if k.2 then crossBack (fromReq ++ fromBuf) else fromPkt ++ fromReq ++ fromChunk

/-- DIE_LINK_FRAME: the frame on the wire reaches the receiver of one direction of link `l`, with noise. A new frame holds
the slots given, with flits of up to four transfers (R271, R272); a link that retrains holds its traffic (R273). -/
def execDieLinkFrame (l : DLink) (up : Bool) (slots : List (BitVec 8)) (carries : List (Nat × Bool))
    (noise : List (BitVec 8)) (s : State) : Host.Outcome State Fault Refusal :=
  .next (if !s.alive || !(isLink l) || (s.link l).retraining then s
    else
      let on := (carries.take 4).filter (fun k => (s.routeOf k).contains (l.toNat, up))
      s.modLink l (fun x =>
        let r := ((x.dir up).send l.toNat slots on).receive l.toNat noise
        { x.setDir up r.1 with crcerr := satAdd x.crcerr (b2n r.2) }))

/-- DIE_LINK_REPLAY: the sender replays, in order, from the frame that the receiver asked for (R272). -/
def execDieLinkReplay (l : DLink) (up : Bool) (s : State) : Host.Outcome State Fault Refusal :=
  .next (if ((s.link l).dir up).asked && !(s.link l).retraining then
      (s.modLink l (fun x => { x.setDir up (x.dir up).again with replay := satAdd x.replay 1 })).retryWindows
    else s)

/-- A link that cannot recover (R273, R366). -/
def State.linkLost (s : State) : State :=
  s.machineCheck { src := 9, tile := none, func := 0, pa := 0, va := none, reader := none }

/-- DIE_LINK_RETRAIN: 16 failures of one frame in a row make the link retrain; a third retrain within one second is not
survived (R273). -/
def execDieLinkRetrain (l : DLink) (s : State) : Host.Outcome State Fault Refusal :=
  .next (
    let x := s.link l
    if (x.up.fails < 16 && x.down.fails < 16) || x.retraining then s
    else
      let near := x.recent.filter (fun t => decide ((s.pt.time - t).toNat < oneSecond))
      if 2 ≤ near.length then s.linkLost
      else s.modLink l (fun x => { x with retraining := true, retrain := satAdd x.retrain 1, recent := s.pt.time :: near }))

/-- What a retrain leaves a direction to do: replay from its first frame that is not acknowledged (R273). -/
def DieDir.resume (x : DieDir) : DieDir := { x with fails := 0, asked := decide (x.buf ≠ []) }
/-- DIE_LINK_RETRAIN_END: traffic resumes with a replay from the first unacknowledged frame, or the link cannot recover
(R273). -/
def execDieLinkRetrainEnd (l : DLink) (ok : Bool) (s : State) : Host.Outcome State Fault Refusal :=
  .next (if !(s.link l).retraining then s
    else if ok then
      (s.modLink l (fun x => { x with retraining := false, up := x.up.resume, down := x.down.resume })).retryWindows
    else (s.modLink l (fun x => { x with retraining := false })).linkLost)

/-! ## Machine checks (R366–R369) -/

/-- Functions with a request queued at the slice of an address (R286). -/
def State.queuedAt (s : State) (pa : Nat) : List FuncNo :=
  let here (g : EngTo) : Bool := match g with
    | .hbm a => sliceOf a = sliceOf pa
    | _ => false
  ((s.reqs.filterMap (fun r => match r.dst with
      | .hbm a => if sliceOf a = sliceOf pa && r.ans.isNone then r.func else none
      | _ => none))
    ++ ((s.allChunks.filter (fun c => c.pieces.any (fun p => here p.src || here p.dst))).map (fun c => c.func))).eraseDups

/-- The functions that a reported error fails (R274, R366): those with a request queued at the slice for source 0x05, else the
function of the tile concerned. A report of no tile, from a Husk engine, an inbound window or a slice, names its function;
sources 0x01 and 0x02 always concern a tile. -/
def State.mcOwners (s : State) (mc : McReport) : List FuncNo :=
  if mc.src = 5 then s.queuedAt mc.pa.toNat
  else match mc.tile with
    | some t => ((s.tile t).func).toList
    | none => if mc.src = 1 || mc.src = 2 then [] else [mc.func]
/-- MACHINE_CHECK: a block reports an uncorrectable error (R366). -/
def execMachineCheck (mc : McReport) (s : State) : Host.Outcome State Fault Refusal :=
  .next (if !s.alive || mc.src = 0 || 9 < mc.src.toNat then s
    else if 8 ≤ mc.src.toNat then s.machineCheck mc
    else (s.mcOwners mc).foldl (fun a f => a.machineCheck { mc with func := f }) s)

/-! ## The census (R371, R379) -/

/-- CENSUS_START: at most once in 16,384 Husk cycles for a function; held during a reset (R371, R450). -/
def execCensusStart (f : FuncNo) (s : State) : Host.Outcome State Fault Refusal :=
  .next (
    let x := s.func f
    let soon : Bool := match x.cnsAt with
      | some t => decide ((s.pt.time - t).toNat < 16384)
      | none => false
    if !x.cnsEn || x.cns.isSome || x.cnsFound || soon || x.st = .absent || x.st = .resetting then s
    else s.modFunc f (fun x =>
      { x with cns := some { round := false, acts := [], asked := 0, active := false }, cnsAt := some s.pt.time }))

/-- What a tile answers: QUIET and ACT; the power manager answers for a tile that is off (R370, R371, R489). -/
def State.censusTile (s : State) (t : TileId) : Bool × Byte :=
  let tl := s.tile t
  if s.tileOn t then
    (tl.quietWin ≠ 0 && decide (tl.quietWin.toNat * 4096 ≤ tl.quietCnt.toNat), tl.quietAct)
  else (true, SMap.get 0 (s.cob (tileCob t)).acts (t.toNat % 256))
/-- The command engine of Husk `h` holds work for a function: an unserved doorbell, which is a command not yet read or not yet
carried out, or an unanswered message (R371, R372). -/
def State.censusEngine (s : State) (f : FuncNo) (h : Nat) : Bool :=
  let x := s.func f
  f.toNat % 2 = h && (x.ahead ≠ 0 || s.asked (.ring f) || x.cmds ≠ [])
/-- One reply enters a census; in the second round it must be unchanged. -/
def Census.reply (c : Census) (i : Nat) (quiet : Bool) (act : Byte) : Census :=
  if c.round then
    { c with asked := c.asked + 1, active := c.active || !quiet || SMap.get 0 c.acts i ≠ act }
  else { c with asked := c.asked + 1, active := c.active || !quiet, acts := SMap.set 0 c.acts i act }

/-- CENSUS_PROBE: the next party answers, tiles in ascending order and then the two command engines (R371). -/
def execCensusProbe (f : FuncNo) (s : State) : Host.Outcome State Fault Refusal :=
  .next (match (s.func f).cns with
    | none => s
    | some c =>
      let ts := s.tilesOf f
      let i := c.asked
      if (s.func f).st = .resetting || ts.length + 2 ≤ i then s
      else
        let r : Bool × Byte := match ts[i]? with
          | some t => s.censusTile t
          | none => (!(s.censusEngine f (i - ts.length)), 0)
        s.modFunc f (fun x => { x with cns := some (c.reply i r.1 r.2) }))

/-- A census ends. -/
def Func.censusEnd (x : Func) (found : Bool) : Func :=
  { x with cns := none, cnsRuns := satAdd x.cnsRuns 1, cnsFound := x.cnsFound || found }
/-- CENSUS_REPORT: the replies of a round end the census, start its second round, or make a finding (R369, R371). -/
def execCensusReport (f : FuncNo) (s : State) : Host.Outcome State Fault Refusal :=
  .next (match (s.func f).cns with
    | none => s
    | some c =>
      let ts := s.tilesOf f
      if (s.func f).st = .resetting then s
      else if c.active then s.modFunc f (fun x => x.censusEnd false)
      else if c.asked < ts.length + 2 then s
      else if !c.round then s.modFunc f (fun x => { x with cns := some { c with round := true, asked := 0 } })
      else
        let s1 := s.modFunc f (fun x => x.censusEnd true)
        let s2 := match ts with
          | t :: _ => s1.modTh t 0 (fun x => { x with dlk := true })
          | [] => s1
        s2.event f 0x81 0)

end Sys2Proof.Machine
end

