-- ==== Sys2Proof/Machine/Links.lean ====
section
/-! DEFINITION. Tamore Link: training and retraining of a port, the packets that arrive, and the frames that carry them
(R433–R441, R454). -/
namespace Sys2Proof.Machine

/-! ## Ports (R434, R435, R438) -/

/-- The cause of a late halt for an answer's STATUS (R313). -/
def lateCause (status : Byte) : BitVec 4 := if status = 2 then 10 else if status = 4 then 11 else 9
/-- An outstanding write or read ends with an error (R438, R447). -/
def State.outFails (s : State) (w : OutFor) (status : Byte) : State :=
  match w with
  | .chunk e id va => s.engLate e id (lateCause status) va true
  | .copyRead e id _ =>
    State.engLate { s with free := s.free + 1 } (.husk e) id (lateCause status) (Config.free s.free 0 48) false
  | .copyWrite e id =>
    State.engLate { s with free := s.free + 1 } (.husk e) id (lateCause status) (Config.free s.free 0 48) true
  | .pmem f => s.pmemData f status []
  | _ => s
/-- A port goes DOWN: its outstanding requests are answered FAULT, and what waited to leave on it is gone (R434, R438). -/
def State.portDown (s : State) (p : PortNo) : State :=
  let l := (s.port p).out
  l.foldl (fun a o => a.outFails o.2 5) (s.modPort p (fun x => { x with st := 0, out := [], txq := [], vcq := [] }))
/-- A port retrains; a third retrain within one second leaves it DOWN (R434). -/
def State.portRetrain (s : State) (p : PortNo) : State :=
  let x := s.port p
  if x.st = 0 || x.st = 3 then s
  else
    let near := x.recent.filter (fun t => decide ((s.pt.time - t).toNat < oneSecond))
    let s1 := s.modPort p (fun y =>
      { y with st := 3, retrain := satAdd y.retrain 1, nakCnt := 0, ownNakCnt := 0, recent := s.pt.time :: near })
    if 2 ≤ near.length then s1.portDown p else s1

/-- Replay from a named SEQ, in order (R434). -/
def Port.replayFrom (x : Port) (sq : BitVec 12) : Port :=
  let l := (x.buf.dropWhile (fun f => f.seq ≠ sq)).map (fun (f : TxFrame) => { f with ack := x.ack })
  { x with replay := satAdd x.replay 1, wire := l.reverse ++ x.wire }
/-- One more NAK of a SEQ in a row: its number. -/
def nakNext (cnt : Nat) (last sq : BitVec 12) : Nat := if cnt ≠ 0 && last = sq then cnt + 1 else 1
/-- A NAK arrives: replay from the named SEQ; the 16th NAK of one SEQ makes the port retrain (R434, R435). -/
def State.nakAt (s : State) (p : PortNo) (sq : BitVec 12) : State :=
  let x := s.port p
  if x.st = 0 || x.st = 3 then s
  else
    let n := nakNext x.nakCnt x.nakSeq sq
    let s1 := s.modPort p (fun y => { y.replayFrom sq with nakSeq := sq, nakCnt := n })
    if 16 ≤ n then s1.portRetrain p else s1
/-- The part sends a NAK that names the first missing SEQ; its 16th of one SEQ makes the port retrain (R434, R435). -/
def State.sendNak (s : State) (p : PortNo) : State :=
  let x := s.port p
  let n := nakNext x.ownNakCnt x.ownNakSeq x.rxSeq
  let s1 := s.modPort p (fun y =>
    { y.control [0x01, bits y.rxSeq 0 8, (0#4) ++ (bits y.rxSeq 8 4 : BitVec 4)] with ownNakSeq := y.rxSeq, ownNakCnt := n })
  if 16 ≤ n then s1.portRetrain p else s1
/-- NAK (R434, R435). -/
def execNak (p : PortNo) (sq : BitVec 12) (s : State) : Host.Outcome State Fault Refusal := .next (s.nakAt p sq)

/-- ASSIGN: the device ID of the part and the adapter's; the port becomes ACTIVE, or stays in TRAIN when another port has
another ID (R435). -/
def State.assignAt (s : State) (p : PortNo) (dev peer : BitVec 16) : State :=
  if (s.port p).st ≠ 1 || dev = 0 || dev = 0xFFFF then s
  else if s.devv && s.devid ≠ dev then
    s.modPort p (fun x => { x with peer := peer, retrain := satAdd x.retrain 1 })
  else State.modPort { s with devid := dev, devv := true } p (fun x => { x with st := 2, assigned := true, peer := peer })
/-- ASSIGN (R435). -/
def execAssign (p : PortNo) (dev peer : BitVec 16) (s : State) : Host.Outcome State Fault Refusal :=
  .next (s.assignAt p dev peer)

/-- RETRAIN (R434, R435). -/
def execRetrain (p : PortNo) (s : State) : Host.Outcome State Fault Refusal := .next (s.portRetrain p)

/-- TL_RETRAIN_END: ACTIVE again, or TRAIN before its ASSIGN; a port that fails is DOWN until the next cold start
(R434). -/
def execTlRetrainEnd (p : PortNo) (ok : Bool) (s : State) : Host.Outcome State Fault Refusal :=
  .next (if (s.port p).st ≠ 3 then s
    else if ok then s.modPort p (fun x => { x with st := if x.assigned then 2 else 1 })
    else s.portDown p)

/-! ## Packets on virtual channel 0 (R437, R441, R454) -/

/-- DOORBELL (R441, R442). -/
def execDoorbell (p : PortNo) (f : FuncNo) (tail head : BitVec 16) (s : State) : Host.Outcome State Fault Refusal :=
  .next (s.doorbellAt p f tail head)

/-- The answer to a CFGWR or CFGRD, under a TAG that the spec does not state: a free value (log 11). -/
def State.cfgAck (s : State) (p : PortNo) (f : FuncNo) (status : Byte) (b : List Byte) : State :=
  State.replyOn { s with free := s.free + 1 } p
    { type := 6, func := f, dst := 0, tag := Config.free s.free 0 16, status := status, attr := 0, addr := 0, data := b,
      len := b.length }
/-- CFGWR: the two ring registers of the packet's function (R454, R456). -/
def State.cfgWrite (s : State) (p : PortNo) (f : FuncNo) (off w : BitVec 64) : State :=
  let st := (s.func f).st
  if (s.port p).st ≠ 2 then s
  else if off ≠ 8 && off ≠ 0x10 then s.cfgAck p f 4 []
  else if st ≠ .idle && st ≠ .failed && st ≠ .absent then s.cfgAck p f 1 []
  else (s.writeRing f (off = 0x10) w).cfgAck p f 0 []
/-- CFGWR (R454). -/
def execCfgwr (p : PortNo) (f : FuncNo) (off w : BitVec 64) (s : State) : Host.Outcome State Fault Refusal :=
  .next (s.cfgWrite p f off w)
/-- CFGRD: FN_STAT and FN_CIDX of the packet's function, FN_PSTAT and FN_LNKn (R454). -/
def State.cfgRead (s : State) (p : PortNo) (f : FuncNo) (off : BitVec 64) : State :=
  if (s.port p).st ≠ 2 then s
  else
    let o := off.toNat
    let ok := o = 0 || o = 0x20 || (decide (0x20000 ≤ o) && (partReg (o - 0x20000)).isSome)
    if !ok then s.cfgAck p f 4 []
    else
      let r := if o < 0x1000 then s.fnRead f o else s.partRead (o - 0x20000)
      r.2.cfgAck p f 0 (bytesOf r.1 8)
/-- CFGRD (R454). -/
def execCfgrd (p : PortNo) (f : FuncNo) (off : BitVec 64) (s : State) : Host.Outcome State Fault Refusal :=
  .next (s.cfgRead p f off)

/-! ## Inbound windows (R325, R438) -/

/-- Packets are discarded: FN_ERR.FORMAT of function 0 counts them (R437). -/
def State.badPackets (s : State) (n : Nat) : State :=
  if n = 0 then s else s.modFunc 0 (fun x => { x with errFormat := satAdd x.errFormat n })
/-- A WR, ACC or CLM packet: the window's answer leaves as RSP (R325, R437, R438). -/
def State.inbound (s : State) (p : PortNo) (rq : WinReq) : State :=
  if (s.port p).st ≠ 2 then s
  else if 4096 < rq.bytes.length then s.badPackets 1
  else s.serveWindow (some p) rq
/-- WR (R325, R438). -/
def execWr (p : PortNo) (rq : WinReq) (s : State) : Host.Outcome State Fault Refusal :=
  .next (match rq.kind with
    | .write => s.inbound p rq
    | _ => s)
/-- ACC (R325, R438). -/
def execAcc (p : PortNo) (rq : WinReq) (s : State) : Host.Outcome State Fault Refusal :=
  .next (match rq.kind with
    | .acc _ => s.inbound p rq
    | _ => s)
/-- CLM (R325, R438). -/
def execClm (p : PortNo) (rq : WinReq) (s : State) : Host.Outcome State Fault Refusal :=
  .next (match rq.kind with
    | .claim => s.inbound p rq
    | _ => s)

/-! ## Answers (R437) -/

/-- A request that waits for read data; an orphaned request waits for either answer. -/
def OutFor.wants (w : OutFor) (read : Bool) : Bool :=
  match w with
  | .copyRead _ _ _ => read
  | .ring _ => read
  | .pmem _ => read
  | .orphan => true
  | _ => !read
/-- The request with a TAG that waits for this kind of answer. -/
def Port.waits (x : Port) (tag : BitVec 16) (read : Bool) : Option OutFor :=
  ((x.out.filter (fun o => o.1 = tag && o.2.wants read)).map (fun o => o.2)).head?
/-- It waits no more. -/
def Port.done (x : Port) (tag : BitVec 16) : Port := { x with out := x.out.filter (fun o => o.1 ≠ tag) }

/-- An RSP arrives (R437). -/
def State.rspAt (s : State) (p : PortNo) (tag : BitVec 16) (status : Byte) : State :=
  if (s.port p).st ≠ 2 then s
  else match (s.port p).waits tag false with
    | none => s
    | some w =>
      let s1 := s.modPort p (fun x => x.done tag)
      if status = 0 then s1 else s1.outFails w status
/-- RSP (R437). -/
def execRsp (p : PortNo) (tag : BitVec 16) (status : BitVec 8) (s : State) : Host.Outcome State Fault Refusal :=
  .next (s.rspAt p tag status)

/-- Read data reaches what asked for it (R442, R447). -/
def State.readData (s : State) (w : OutFor) (b : List Byte) : State :=
  match w with
  | .copyRead e _ off => s.modEng (.husk e) (fun g => { g with hostBytes := g.hostBytes.setBytes off b })
  | .ring f => s.ringData f 0 b
  | .pmem f => s.pmemData f 0 b
  | _ => s
/-- An RDC arrives (R437). -/
def State.rdcAt (s : State) (p : PortNo) (tag : BitVec 16) (status : Byte) (b : List Byte) : State :=
  if (s.port p).st ≠ 2 then s
  else if 4096 < b.length then s.badPackets 1
  else match (s.port p).waits tag true with
    | none => s
    | some w =>
      let s1 := s.modPort p (fun x => x.done tag)
      if status = 0 then s1.readData w b else s1.outFails w status
/-- RDC (R437). -/
def execRdc (p : PortNo) (tag : BitVec 16) (status : BitVec 8) (bytes : List (BitVec 8)) (s : State) :
    Host.Outcome State Fault Refusal :=
  .next (s.rdcAt p tag status bytes)

/-! ## Frames (R433–R436) -/

/-- A packet as it arrives, with its source (R436). -/
def rxPacket (b : List Byte) : TxPkt × BitVec 16 :=
  let n := leNat ((b.drop 2).take 2)
  ({ type := nth b 0 0, func := bits (nth b 1 0) 0 5, dst := leBits 16 ((b.drop 6).take 2), tag := leBits 16 ((b.drop 8).take 2),
     status := nth b 10 0, attr := nth b 11 0, addr := leBits 64 ((b.drop 12).take 8), data := (b.drop 24).take n, len := n },
   leBits 16 ((b.drop 4).take 2))
/-- The packets of a stream of received bytes, with the units that each takes, and the bytes of one that has not arrived whole.
A header word of TYPE 0 pads the rest of the frame (R436). -/
def scanPackets : Nat → List Byte → List (TxPkt × BitVec 16 × Nat) × List Byte
  | 0, b => ([], b)
  | fuel + 1, b =>
    let total := 24 + (leNat ((b.drop 2).take 2) + 7) / 8 * 8
    if b = [] || nth b 0 0 = 0 then ([], [])
    else if b.length < 24 || b.length < total then ([], b)
    else
      let r := scanPackets fuel (b.drop total)
      let k := rxPacket b
      ((k.1, k.2, pktUnits (b.take total)) :: r.1, r.2)

/-- A packet of a data frame acts (R437). An unlisted TYPE or a LEN above 4,096 is discarded and counted; a type that only the
part sends has no effect here. -/
def State.packetIn (s : State) (p : PortNo) (k : TxPkt) (src : BitVec 16) (ecc : SliceEcc) : State :=
  let rq (kd : WinKind) : WinReq :=
    { srcId := src, func := k.func, win := bits k.attr 0 6, kind := kd, offset := k.addr, bytes := k.data, tag := k.tag,
      ecc := ecc }
  let ty := k.type.toNat
  let known := (decide (1 ≤ ty) && decide (ty ≤ 6)) || (decide (0x10 ≤ ty) && decide (ty ≤ 0x13)) || ty = 0x20 || ty = 0x21
  if !known || 4096 < k.len then s.badPackets 1
  else if ty = 1 then s.doorbellAt p k.func (leBits 16 (k.data.take 2)) (leBits 16 ((k.data.drop 2).take 2))
  else if ty = 4 then s.cfgWrite p k.func k.addr (leBits 64 (k.data.take 8))
  else if ty = 5 then s.cfgRead p k.func k.addr
  else if ty = 0x10 then s.inbound p (rq .write)
  else if ty = 0x11 then s.inbound p (rq (.acc (bits k.attr 6 2)))
  else if ty = 0x12 then s.inbound p (rq .claim)
  else if ty = 0x13 then s.rspAt p k.tag k.status
  else if ty = 0x21 then s.rdcAt p k.tag k.status k.data
  else s
/-- The packets of an ACTIVE port's data frame act in order, and the units that they took in the receive buffer are returned
(R433, R437). -/
def State.payloadIn (s : State) (p : PortNo) (b : List Byte) (ecc : SliceEcc) : State :=
  let r := scanPackets 12 ((s.port p).rxBuf ++ b)
  r.1.foldl (fun a k => (a.packetIn p k.1 k.2.1 ecc).modPort p (fun x =>
    { x with back := SMap.modify 0 x.back (pktVc k.1.type.toNat) (fun n => n + k.2.2) }))
    (s.modPort p (fun x => { x with rxBuf := r.2 }))
/-- A control frame acts (R435). -/
def State.controlIn (s : State) (p : PortNo) (b : List Byte) : State :=
  let w (i : Nat) : BitVec 16 := leBits 16 ((b.drop i).take 2)
  match nth b 0 0 with
  | 0x01 => s.nakAt p (bits (w 1) 0 12)
  | 0x02 => s.assignAt p (w 1) (w 3)
  | 0x03 => s.portRetrain p
  | _ => s

/-- Frames up to an acknowledged SEQ leave the replay buffer, and frames that waited for it begin. -/
def Port.acked (x : Port) (a : BitVec 12) : Port :=
  if x.buf.any (fun f => f.seq = a) then Port.flush { x with buf := (x.buf.dropWhile (fun f => f.seq ≠ a)).tail } else x
/-- A received frame; none for a wrong length or CRC, or TYPE 3 (R433). -/
def rxFrame (b : List Byte) : Option TxFrame :=
  let h : Word := leBits 32 (b.take 4)
  let c (v : Nat) : Nat := leNat ((b.drop (244 + 2 * v)).take 2)
  if b.length ≠ 256 || crc32 (b.take 252) ≠ leBits 32 (b.drop 252) || bits h 30 2 = (3 : BitVec 2) then none
  else some { kind := bits h 30 2, seq := bits h 18 12, ack := if bit h 5 then some (bits h 6 12) else none,
              payload := (b.drop 4).take 240, credit := [c 0, c 1, c 2, c 3] }
/-- The acknowledgement and the credit of a frame take effect (R433, R434, R437). -/
def Port.heed (x : Port) (f : TxFrame) : Port :=
  let y := match f.ack with
    | some a => x.acked a
    | none => x
  (List.range 4).foldl (fun (a : Port) v => if f.credit.getD v 0 = 0 then a else a.credit v (f.credit.getD v 0)) y

/-- TL_FRAME: 256 bytes arrive with the result of the lanes' FEC (R433–R437). A data or control frame in sequence is
acknowledged whatever the state of the port; the packets of a port that is not ACTIVE are discarded (R435). -/
def execTlFrame (p : PortNo) (fec : Bool) (bytes : List (BitVec 8)) (ecc : SliceEcc) (s : State) :
    Host.Outcome State Fault Refusal :=
  .next (if !s.alive then s
    else match if fec then rxFrame bytes else none with
      | none => (s.modPort p (fun y => { y with crcerr := satAdd y.crcerr 1 })).sendNak p
      | some f =>
        if f.kind = 2 then s.modPort p (fun y => y.heed f)
        else if f.seq ≠ (s.port p).rxSeq then s.sendNak p
        else
          let st := (s.port p).st
          let s1 := s.modPort p (fun y => { y.heed f with rxSeq := y.rxSeq + 1, rxAny := true })
          let s2 := if f.kind = 1 then s1.controlIn p f.payload else if st = 2 then s1.payloadIn p f.payload ecc else s1
          s2.modPort p Port.idleFrame)

end Sys2Proof.Machine
end

