-- ==== Sys2Proof/Machine/HostCommands.lean ====
section
/-! DEFINITION. Host commands of a function's ring, quiesce, per-function reset, posts, completion entries and ring
enables (R442–R450, R456). A command row runs the command at the head of the function's ring when it has that OP. -/
namespace Sys2Proof.Machine

/-! ## Commands (R443, R445, R447) -/

/-- CMD_NOP (R447). -/
def execCmdNop (f : FuncNo) (s : State) : Host.Outcome State Fault Refusal :=
  .next (s.runHead f 0x01 (fun _ s => s.endCmd f 0 0))
/-- CMD_STATUS (R447, R455). -/
def execCmdStatus (f : FuncNo) (s : State) : Host.Outcome State Fault Refusal :=
  .next (s.runHead f 0x02 (fun _ s => s.endCmd f 0 (s.fnStat f)))
/-- PMEM; one whose host bytes wait for its tile goes on once the tile is ready (R447, R488). -/
def execPmem (f : FuncNo) (s : State) : Host.Outcome State Fault Refusal :=
  .next (match s.pmemHeld f with
    | some (c, b) => s.pmemWords f c b
    | none => s.runHead f 0x10 (fun c s => s.pmemCmd f c))
/-- TCTL (R447). -/
def execTctl (f : FuncNo) (s : State) : Host.Outcome State Fault Refusal :=
  .next (s.runHead f 0x11 (fun c s => s.tctlCmd f c))
/-- START (R447, R448). -/
def execStart (f : FuncNo) (s : State) : Host.Outcome State Fault Refusal :=
  .next (s.runHead f 0x12 (fun c s => s.startCmd f c))
/-- COPY (R445, R447). -/
def execCopy (f : FuncNo) (s : State) : Host.Outcome State Fault Refusal :=
  .next (s.runHead f 0x20 (fun c s => s.copyCmd f c))
/-- MSG (R241, R445, R447). -/
def execMsg (f : FuncNo) (s : State) : Host.Outcome State Fault Refusal :=
  .next (s.runHead f 0x30 (fun c s => s.msgCmd f c))
/-- SETPT (R319, R447). -/
def execSetpt (f : FuncNo) (s : State) : Host.Outcome State Fault Refusal :=
  .next (s.runHead f 0x40 (fun c s => s.setptCmd f c))

/-! ## Quiesce (R449) -/

/-- QUIESCE (R449). -/
def execQuiesce (f : FuncNo) (s : State) : Host.Outcome State Fault Refusal :=
  .next (s.runHead f 0x50 (fun c s => s.quiesceCmd f c))
/-- QUIESCE_DONE: the function is quiet; it enters IDLE and QUIESCE completes DONE (R449). -/
def execQuiesceDone (f : FuncNo) (s : State) : Host.Outcome State Fault Refusal :=
  .next (match (s.func f).quiescing with
    | none => s
    | some _ => if s.fnQuiet f then (s.modFunc f (fun x => { x with st := .idle, qreq := false })).endCmd f 0 0 else s)
/-- QUIESCE_TIMEOUT: QUIESCE completes FAULT and the function stays QUIESCING (R449). -/
def execQuiesceTimeout (f : FuncNo) (s : State) : Host.Outcome State Fault Refusal :=
  .next (match (s.func f).quiescing with
    | none => s
    | some c => if c.word 2 = 0 then s else s.endCmd f 5 0)

/-! ## Per-function reset (R450) -/

/-- Commands of a ring with the first well-formed RESET taken out, and its CID. -/
def takeReset : List Cmd → Option (Word × List Cmd)
  | [] => none
  | c :: r =>
    if c.op = 0x60 && !c.badFormat then some (c.cid, r)
    else match takeReset r with
      | some (k, l) => some (k, c :: l)
      | none => none
/-- RESET: it acts as soon as it has been read, even behind commands in progress (R445, R450). -/
def execReset (f : FuncNo) (s : State) : Host.Outcome State Fault Refusal :=
  .next (match takeReset (s.func f).cmds with
    | some (cid, l) =>
      if accepts (s.func f).st 0x60 then (s.modFunc f (fun x => { x with cmds := l })).resetBegin f (some cid)
      else s.runHead f 0x60 (fun _ s => s)
    | none => s.runHead f 0x60 (fun _ s => s))
/-- FN_CTL_RESET: a write of FN_CTL with RESET 1 (R450, R458). -/
def execFnCtlReset (src : Src) (f : FuncNo) (s : State) : Host.Outcome State Fault Refusal :=
  .next (s.regWrite src (paFn f 0x30) 4 1 none)
/-- The record of a machine check that fell before the clearing at 1 µs is written after it (R367). -/
def State.lateRecord (s : State) (f : FuncNo) : State :=
  let x := s.func f
  match (s.tilesOf f).head? with
  | some t => if x.mcr then s.modTile t (fun tl => { tl with mcrec0 := x.mcrec0, mcrec1 := x.mcrec1, mcrec2 := x.mcrec2 })
              else s
  | none => s
/-- RESET_STOP_THREADS: the step at 1 µs (R450). -/
def execResetStopThreads (f : FuncNo) (s : State) : Host.Outcome State Fault Refusal :=
  .next (if (s.func f).resetAt .begun then
      (((s.tilesOf f).foldl (fun a t => ((a.dropHeld t).modTile t Tile.wipe).dropClaim t) s).lateRecord f).resetStage f .stopped
    else s)
/-- RESET_DRAIN_END: the drain ends, and what CXL memory or another part has not answered is orphaned (R450). -/
def execResetDrainEnd (f : FuncNo) (s : State) : Host.Outcome State Fault Refusal :=
  .next (if (s.func f).resetAt .stopped && s.drained f then (s.drainEnd f).resetStage f .drained else s)
/-- RESET_CLEAR: the step at 44 µs (R450). -/
def execResetClear (f : FuncNo) (s : State) : Host.Outcome State Fault Refusal :=
  .next (if (s.func f).resetAt .drained then (s.resetClearAll f).resetStage f .cleared else s)
/-- RESET_END: the function enters IDLE, or FAILED, and the reset completes (R450). -/
def execResetEnd (f : FuncNo) (s : State) : Host.Outcome State Fault Refusal :=
  .next (match (s.func f).rst with
    | some r => if r.stage = .cleared then s.resetFinish f r.cid else s
    | none => s)

/-! ## Posts, entries and rings (R442, R446, R456) -/

/-- POST: a write of FN_POST (R446, R457). -/
def execPost (src : Src) (f : FuncNo) (w : BitVec 64) (s : State) : Host.Outcome State Fault Refusal :=
  .next (s.regWrite src (paFn f 0x28) 8 w none)
/-- COMPLETION_ENTRY_WRITE (R442–R444). -/
def execCompletionEntryWrite (f : FuncNo) (s : State) : Host.Outcome State Fault Refusal := .next (s.writeEntry f)
/-- RING_ENABLE: a write of FN_CRB or FN_CQB with EN 1, by a register access or by the adapter's CFGWR (R454, R456). -/
def execRingEnable (src : RegSrc) (f : FuncNo) (cq : Bool) (w : BitVec 64) (s : State) :
    Host.Outcome State Fault Refusal :=
  let v := setBit w 5 true
  .next (match src with
    | .src r => s.regWrite r (paFn f (if cq then 0x10 else 8)) 8 v none
    | .adapter => if s.alive && s.activePorts ≠ [] then s.writeRing f cq v else s)

end Sys2Proof.Machine
end

