-- ==== Sys2Proof/Machine/Timebase.lean ====
section
/-! DEFINITION. The position timebase and the line answer port: their inputs, updates, actions and frames, and the
writes of their registers (R402–R431, R535). -/
namespace Sys2Proof.Machine

/-- A configurable group of lands has its function: PINMUX code 1, on a part in service (R535, R536). -/
def State.wired (s : State) (g : Nat) : Bool := s.alive && !s.unrec && SMap.get 0 s.plan.pinmux g = 1

/-! ## Quadrature and SSI inputs (R404–R409) -/

/-- QERR of an input (R405, R428). -/
def Pt.qerr (p : Pt) (i : BitVec 1) : Pt :=
  if i = 0 then { p with qerr0 := satAdd p.qerr0 1 } else { p with qerr1 := satAdd p.qerr1 1 }
/-- The samples of one Husk cycle on wired inputs, at counter `c`: the port, the inputs that changed both levels, and the steps
so far. -/
def Pt.sampleAt (ins : List (BitVec 1 × QuadIn)) (r : Pt × List (BitVec 1) × List (Nat × Int)) (c : Nat) :
    Pt × List (BitVec 1) × List (Nat × Int) :=
  match (ins.filter (fun q => r.1.src c = q.1.toNat)).head? with
  | none => r
  | some (i, x) =>
    let u := r.1.quad c x
    (u.1, if u.2.1 then r.2.1 ++ [i] else r.2.1, if u.2.2 = 0 then r.2.2 else r.2.2 ++ [(c, u.2.2)])
/-- QUAD_EDGE: the levels sampled on input `i`, and on the other input in the same Husk cycle when it changes too, each with
how many equal samples it has had (R404, R405, R414). An input's QERR rises once for a cycle. -/
def execQuadEdge (i : BitVec 1) (x : QuadIn) (other : Option QuadIn) (s : State) : Host.Outcome State Fault Refusal :=
  .next (
    let ins := (((i, x) :: (other.map (fun q => (1 - i, q))).toList)).filter (fun (q : BitVec 1 × QuadIn) => s.wired q.1.toNat)
    let r := Pt.sampleAt ins (Pt.sampleAt ins (s.pt, [], []) 0) 1
    State.counterSteps { s with pt := r.2.1.eraseDups.foldl Pt.qerr r.1 } r.2.2)

/-- A rising edge of QZ at a counter (R407). -/
def Pt.index (p : Pt) (c : Nat) : Pt :=
  let m : BitVec 2 := bits (p.ccfg_ c) 13 2
  if m = 0 then p
  else
    let q := { p with zlat := SMap.set 0 p.zlat c (p.count c) }
    if m = 2 then q.load c 0 else q
/-- INDEX_LATCH: QZ has risen and stayed high for `n` samples (R404, R407). -/
def execIndexLatch (i : BitVec 1) (n : Nat) (s : State) : Host.Outcome State Fault Refusal :=
  .next (if s.wired i.toNat then
      { s with pt := (([0, 1] : List Nat).filter (fun c => s.pt.src c = i.toNat && decide (s.pt.samples c ≤ n))).foldl
                       (fun p c => p.index c) s.pt }
    else s)

/-- SSI_FRAME: a frame is due; it starts unless SDAT is low (R408). -/
def execSsiFrame (sdat : Bool) (s : State) : Host.Outcome State Fault Refusal :=
  .next (if !(s.wired 2) || !s.pt.ssiOn || s.pt.ssiBusy then s
    else if sdat then { s with pt := { s.pt with ssiBusy := true } }
    else { s with pt := { s.pt with ssierr := satAdd s.pt.ssierr 1 } })
/-- SSI_UPDATE: the word of the frame in progress, first sampled bit highest (R408, R409). -/
def execSsiUpdate (raw : BitVec 32) (s : State) : Host.Outcome State Fault Refusal :=
  .next (
    let p := s.pt
    if !(s.wired 2) || !p.ssiOn || !p.ssiBusy then s
    else
      let v := p.ssiValue raw
      let cs := ([0, 1] : List Nat).filter (fun c => p.src c = 2)
      let q := { p with ssiBusy := false, ssiRef := if cs = [] then p.ssiRef else some v }
      match p.ssiRef with
      | none => { s with pt := q }
      | some r => State.counterSteps { s with pt := q } (cs.map (fun c => (c, ssiStep p.nbits v r))))

/-- COUNTER_UPDATE: counter `c` changes by the signed step `d` of its input, while that input is wired (R412–R415, R536). -/
def execCounterUpdate (c : BitVec 1) (d : BitVec 48) (s : State) : Host.Outcome State Fault Refusal :=
  let src := s.pt.src c.toNat
  .next (if src ≠ 3 && s.wired src then s.counterSteps [(c.toNat, signed48 d)] else s)

/-! ## Pins and events (R415–R418) -/

/-- PULSE_END: the time passes that the pulse has left, and the level falls (R415). -/
def execPulseEnd (j : BitVec 3) (s : State) : Host.Outcome State Fault Refusal :=
  .next (if bit s.pt.pulse j.toNat then
      let left : Int := (SMap.get 0 s.pt.pulseEnd j.toNat - s.pt.time : DWord).toInt
      let u := s.elapse left.toNat
      { u with pt := u.pt.setPin j.toNat false }
    else s)
/-- POSITION_EVENT_SEND: the oldest packet of the send buffer enters the control link in class 0 (R255, R416, R418). -/
def execPositionEventSend (s : State) : Host.Outcome State Fault Refusal :=
  .next (match s.pt.sendBuf with
    | [] => s
    | m :: r => State.sendPkt { s with pt := { s.pt with sendBuf := r } } .timebase (.tile (hTile m.handle)) 0 (.msg m) [] [])

/-- The level that the part drives on the land of EVTj; none for high impedance (R428, R535, R536). -/
def State.eventLand (s : State) (j : BitVec 3) : Option Bool :=
  let code : Byte := SMap.get 0 s.plan.pinmux (3 + j.toNat / 4)
  let high : Bool := bit s.pinLevels j.toNat != bit s.pt.pol j.toNat
  if !s.alive || s.unrec || code = 0 || !(bit s.pt.oe j.toNat) || (code = 2 && high) then none else some high

/-- The level on the land of SCLK: high outside a frame, none for high impedance (R408, R536). A frame's own edges are not
modelled one by one. -/
def State.sclkLand (s : State) : Option Bool := if s.wired 2 && !s.pt.ssiBusy then some true else none
/-- The level on the land of LADE; none for high impedance (R423, R536). -/
def State.ladeLand (s : State) : Option Bool := if s.wired 5 then some s.pt.lade else none
/-- What is on the land of LATXD: the bytes of the answer while it is sent, the line at 1 between answers, none for high
impedance (R423, R536). -/
def State.latxdLand (s : State) : Option (List Byte) := if s.wired 5 then some s.pt.line else none

/-! ## Register writes (R410, R411, R421, R428) -/

/-- COUNTER_LOAD: a write of PT_CNTc (R410). -/
def execCounterLoad (src : Src) (c : BitVec 1) (w : BitVec 64) (s : State) : Host.Outcome State Fault Refusal :=
  .next (s.regWrite src (paPt (0x10 + 8 * c.toNat)) 8 w none)
/-- EVENT_ENTRY_ENABLE: a write of word 0 of PT_EVTe with EN 1 (R411). -/
def execEventEntryEnable (src : Src) (e : BitVec 10) (w : BitVec 64) (s : State) : Host.Outcome State Fault Refusal :=
  .next (s.regWrite src (paPt (0x10000 + 32 * e.toNat)) 8 (setBit w 63 true) none)
/-- PIN_WRITE: a write of PT_PIN (R428). -/
def execPinWrite (src : Src) (w : BitVec 32) (s : State) : Host.Outcome State Fault Refusal :=
  .next (s.regWrite src (paPt 0x58) 4 (w.setWidth 64) none)
/-- SLOT_WRITE: a write of PT_SITEM or PT_SANS (R421). -/
def execSlotWrite (src : Src) (i : BitVec 8) (ans : Bool) (w : BitVec 32) (s : State) :
    Host.Outcome State Fault Refusal :=
  .next (s.regWrite src (paPt (0x20000 + 32 * i.toNat + 8 * b2n ans)) 4 (w.setWidth 64) none)
/-- SLOT_VALID: a write of PT_SCTL with VALID 1 (R421). -/
def execSlotValid (src : Src) (i : BitVec 8) (s : State) : Host.Outcome State Fault Refusal :=
  .next (s.regWrite src (paPt (0x20010 + 32 * i.toNat)) 4 1 none)
/-- SLOT_FREE: a write of PT_SCTL with FREE 1 (R421). -/
def execSlotFree (src : Src) (i : BitVec 8) (s : State) : Host.Outcome State Fault Refusal :=
  .next (s.regWrite src (paPt (0x20010 + 32 * i.toNat)) 4 4 none)

/-! ## The line answer port (R419–R424) -/

/-- A frame reaches the port when its lands are wired. -/
def State.lineIn (s : State) (b : List Byte) : State := if s.wired 5 then s.lineFrame b else s
/-- QUERY (R422, R424). -/
def execQuery (bytes : List (BitVec 8)) (s : State) : Host.Outcome State Fault Refusal := .next (s.lineIn bytes)
/-- PING (R424). -/
def execPing (bytes : List (BitVec 8)) (s : State) : Host.Outcome State Fault Refusal := .next (s.lineIn bytes)
/-- OTHER_OP (R424). -/
def execOtherOp (bytes : List (BitVec 8)) (s : State) : Host.Outcome State Fault Refusal := .next (s.lineIn bytes)
/-- BAD_FRAME: a framing error or gap, or bytes whose CRC is checked (R419, R424). -/
def execBadFrame (framing : Bool) (bytes : List (BitVec 8)) (s : State) : Host.Outcome State Fault Refusal :=
  .next (if !framing then s.lineIn bytes
    else if s.wired 5 && bit s.pt.lacfg 14 && !s.pt.lade then { s with pt := s.pt.badFraming }
    else s)
/-- ANSWER_START: LADE is asserted and the answer frame is on the line (R423). -/
def execAnswerStart (s : State) : Host.Outcome State Fault Refusal :=
  .next (match s.pt.answer with
    | none => s
    | some b =>
      if s.wired 5 && bit s.pt.lacfg 14 && !s.pt.lade then
        { s with pt := { s.pt with answer := none, line := b, lade := true } }
      else s)
/-- LADE_RELEASE (R423). -/
def execLadeRelease (s : State) : Host.Outcome State Fault Refusal :=
  .next (if s.pt.lade then { s with pt := { s.pt with line := [], lade := false } } else s)

end Sys2Proof.Machine
end

