-- ==== Sys2Proof/Machine/ImageOps.lean ====
section
/-! DEFINITION. Applying a verified image, section by section, and restoring the tiles of a half that switches on (R466,
R470, R486, R487, R297–R299). -/
namespace Sys2Proof.Machine

/-- Every tile changes. -/
def State.mapTiles (s : State) (f : TileId → Tile → Tile) : State :=
  { s with tiles := (List.range 4096).filterMap (fun i =>
      let t : TileId := BitVec.ofNat 12 i
      let tl := f t (s.tile t)
      if tl = {} then none else some (i, tl)) }

/-! ## Registers (R8, R465, R466, R470) -/

/-- The image's value of a thread control: PC and SLV at once, RUN held until release (R58, R470). -/
def State.imageTctl (s : State) (t : TileId) (h : Thr) (v : DWord) : State :=
  let i := t.toNat * 4 + h.toNat
  let p := s.plan
  State.modTh
    { s with plan := { p with imgPc := SMap.set 0 p.imgPc i (bits v 0 14), imgSlv := SMap.set false p.imgSlv i (bit v 17)
                              imgRun := SMap.set false p.imgRun i (bit v 16) } }
    t h (fun x => { x with pc := bits v 0 14, slv := bit v 17 })

/-- The image's value of word `w` of an event-table entry (R430, R466). -/
def EvtEntry.image (x : EvtEntry) (w : Nat) (v : DWord) : EvtEntry :=
  if w = 0 then { x with w0 := v &&& 0x80FFFFFFFFFFFFFF }
  else if w = 1 then { x with w1 := v }
  else { x with w2 := v }
/-- An entry that the image enables although R411 refuses the enable stays disabled. -/
def EvtEntry.imageEnd (x : EvtEntry) : EvtEntry :=
  if x.en && x.badEnable then { x with w0 := setBit x.w0 63 false, cfgerr := true } else x
/-- The image writes a register (R470). A queue that it enables keeps EPOCH 0 (R243), and a later record replaces an
earlier one whole (R465). -/
def State.imageWrite (s : State) (pa : Nat) (v : DWord) : State :=
  match csrBlk pa with
  | some (.ct t o) =>
    match ctReg o with
    | some (.id, _) => s.modTile t (fun tl => { tl with func := if bit v 21 then some (bits v 16 5) else none })
    | some (.tctl h, _) => s.imageTctl t h v
    | some (r, _) => s.ctWrite false t r v
    | none => s
  | some (.qt t o) =>
    match qtReg o with
    | some (.qcfg q, _) =>
      let s1 := s.modTile t (fun tl => tl.modQueue q (fun k => { k with en := false }))
      (s1.writeQcfg t q (bits v 0 32)).modTile t (fun tl => tl.modQueue q (fun k => { k with epoch := 0 }))
    | some (r, _) => s.qtWrite t r v
    | none => s
  | some (.ce t o) =>
    match ceReg o with
    | some (r, _) => s.ceWrite t r v
    | none => s
  | some (.fn f o) =>
    if o = 0 then s.modFunc f (fun x => { x with mgmt := bit v 6 })
    else s.modFunc f (fun x => { x with ptr := v &&& 0x3FFFFFFFF000 })
  | some (.cns f _) => s.modFunc f (fun x => { x with cnsEn := bit v 0 })
  | some (.pt o) =>
    match ptReg o with
    | some (.evt e w, _) => { s with pt := { s.pt with evt := SMap.modify {} s.pt.evt e (fun x => x.image w v) } }
    | some (r, _) => s.ptWrite r v
    | none => s
  | some (.cd c o) =>
    let p := s.plan
    if o = 0 then { s with plan := { p with budget := SMap.set 0 p.budget c.toNat (bits v 0 9 : BitVec 9).toNat } }
    else { s with plan := { p with res := SMap.set 0 p.res (16 * ((o - 0x100) / 8) + c.toNat) (bits v 0 9) } }
  | some (.pw o) =>
    let p := s.plan
    if o = 8 then { s with plan := { p with thot := bits v 0 8 } }
    else { s with plan := { p with ceil := SMap.set 0 p.ceil ((o - 0x100) / 8) (bits v 6 2) } }
  | _ => s
/-- Records in turn: a later one replaces an earlier one. -/
def State.imageWrites (s : State) (l : List (Nat × DWord)) : State := l.foldl (fun a r => a.imageWrite r.1 r.2) s

/-- Defaults of R466 that are not 0, for a tile: the whole window for CT_PBB, and the 65,536-cycle window. -/
def Tile.defaults (tl : Tile) : Tile := { tl with pbb := 0x40000000, quietWin := 16 }
/-- Every image field of a queue at 0. -/
def Queue.unset (k : Queue) : Queue := { k with en := false, mode := false, ext := false, rsize := 0, rbase := 0, grain := 0 }

/-! ## Sections (R464, R470, R491) -/

/-- PLAN. -/
def Plan.apply (p : Plan) (m : SMap Byte) (a : Nat) : Plan :=
  let b (o : Nat) : Byte := BitVec.ofNat 8 (flashNat m (a + o) 1)
  let cobs (i : Nat) : SMap Byte := (List.range 16).foldl (fun k c => SMap.set 0 k c (b (0x10 + 8 * c + i))) []
  { p with k1mode := b 4 = 1, k1off := b 5, k1on := b 6, dthr := b 7, thot := b 8, nmode := cobs 0, smode := cobs 1
           mmode := cobs 2, dwin := cobs 3
           ceil := (List.range 16).foldl (fun k c => SMap.set 0 k c (bits (b (0x10 + 8 * c + 4)) 0 2)) []
           budget := (List.range 16).foldl (fun k c => SMap.set 0 k c (flashNat m (a + 0x90 + 2 * c) 2)) []
           res := (List.range 512).foldl (fun k i => SMap.set 0 k i ((b (0xC0 + i)).setWidth 9)) [] }
/-- PINMUX. -/
def Plan.applyMux (p : Plan) (m : SMap Byte) (a : Nat) : Plan :=
  { p with pinmux := (List.range 16).foldl (fun k g => SMap.set 0 k g (BitVec.ofNat 8 (flashNat m (a + g) 1))) [] }
/-- FUNCTIONS: the owner of each tile, MGMT, and which functions are defined. -/
def State.applyFunctions (s : State) (m : SMap Byte) (a : Nat) : State :=
  let s1 := s.mapTiles (fun t tl =>
    let o := fnOwner m a t.toNat
    { tl with func := if o = 0xFF then none else some (BitVec.ofNat 5 o) })
  (List.range 32).foldl (fun k i =>
    let f : FuncNo := BitVec.ofNat 5 i
    (State.modFunc { k with plan := { k.plan with defs := setBit k.plan.defs i (fnDef m a i) } } f (fun x =>
      { x with mgmt := fnMgmt m a i }))) s1
/-- HBMDATA. -/
def State.applyHbm (s : State) (m : SMap Byte) (e : Section) : State :=
  ((hbmRecords m (e.length / 16 + 1) e.offset e.length).getD []).foldl (fun a r =>
    { a with hbm := a.hbm.setBytes r.1 (flashBytes m r.2.1 r.2.2) }) s
/-- One PROGRAM or FIRMWARE record at a tile. -/
def Tile.program (tl : Tile) (m : SMap Byte) (r : ProgRec) : Tile :=
  { Tile.loadWords tl r.start r.count (flashBytes m r.words (2 * r.count)) with
    mvbase := BitVec.ofNat 14 r.mvbase, svbase := BitVec.ofNat 14 r.svbase }
/-- PROGRAM or FIRMWARE. -/
def State.applyProgram (s : State) (m : SMap Byte) (e : Section) : State :=
  ((progRecords m (e.length / 12 + 1) e.offset e.length).getD []).foldl (fun a r =>
    a.mapTiles (fun t tl => if inBox r.box t then tl.program m r else tl)) s

/-! ## CXL (R297–R299) -/

/-- Link l of a port with use `u` is in use. -/
def linkUsed (u : Byte) (l : Nat) : Bool := (u = 0 && l = 0) || u = 1
/-- Links in use under a plan: bit 2n + l. -/
def Plan.usedLinks (p : Plan) : Byte :=
  BitVec.ofNat 8 (((List.range 8).map (fun i => if linkUsed (SMap.get 0 p.cxlUse (i / 2)) (i % 2) then 2 ^ i else 0)).sum)
/-- A target of a window is absent, not trained, 68-byte only, or too small for its share (R299). -/
def badTarget (used : Byte) (r : CxlReport) (share : Nat) (l : Nat) : Bool :=
  !(bit used l) || !(bit r.trained l) || bit r.flit68 l || decide (nth r.capacity l 0 < share)
/-- Two windows overlap; one of SIZE 0 holds no address. -/
def CxlWin.meets (x y : CxlWin) : Bool := x.size ≠ 0 && y.size ≠ 0 && overlap x.base x.size y.base y.size
/-- Window `w` of a list is not enabled although EN is 1 (R299). -/
def cxlOff (used : Byte) (r : CxlReport) (l : List CxlWin) (w : Nat) : Bool :=
  match l[w]? with
  | none => false
  | some x =>
    let ts := x.targets.take x.ways
    x.en && (x.size = 0 || x.size % x.ways ≠ 0 || decide (65536 < x.base + x.size)
      || ts.any (badTarget used r (x.size / x.ways)) || ts.eraseDups.length ≠ ts.length
      || (List.range l.length).any (fun i => match l[i]? with
          | some y => i ≠ w && y.en && x.meets y
          | none => false))
/-- CXL: ports, windows and the record of conflicts. Without the section every port is off. -/
def State.applyCxl (s : State) (m : SMap Byte) (e : Option Section) (r : CxlReport) : State :=
  match e with
  | none =>
    { s with plan := { s.plan with cxlUse := (List.range 4).map (fun n => (n, 2)), cxlWin := [], cxlEn := 0 } }
  | some e =>
    let p := { s.plan with cxlUse := (List.range 4).foldl (fun k n =>
      SMap.set 0 k n (BitVec.ofNat 8 (flashNat m (e.offset + n) 1))) [] }
    let used := p.usedLinks
    let l := (List.range 8).map (cxlEntry m e)
    let flags (g : Nat → Bool) : Byte := BitVec.ofNat 8 (((List.range 8).map (fun w => if g w then 2 ^ w else 0)).sum)
    let off := flags (cxlOff used r l)
    let down := used &&& ~~~r.trained
    { s with
      plan := { p with cxlWin := l.map (fun x => (x.base, x.size, x.ways, 256 * 2 ^ x.gran, x.targets))
                       cxlEn := flags (fun w => match l[w]? with
                         | some x => x.en && !(bit off w)
                         | none => false)
                       cxlDown := down }
      ld := { s.ld with woff := off, ldown := down } }

/-! ## The whole image (R470) -/

/-- Sections of a type, in image order. -/
def secsOf (l : List Section) (t : Nat) : List Section := l.filter (fun e => e.type = t)
/-- Offset of the first section of a type. -/
def secAt (l : List Section) (t : Nat) : Nat := ((secsOf l t).map (fun e => e.offset)).headD 0
/-- Bytes of a digest as a number, byte 0 lowest. -/
def digest512 (a b : List Byte) : BitVec 512 := BitVec.ofNat 512 (leNat (fitBytes 32 a ++ fitBytes 32 b))

/-- Steps 1 to 7 of R470, from the image that is staged in Cob 15: nothing is taken from the flash any more (R467, R474). -/
def State.applyImage (s : State) (r : CxlReport) : State :=
  let m := s.ld.staged
  let l := s.ld.secs
  let s0 := { s with
    ld := { s.ld with applied := true, slotv := true, debug := flashNat m 0xC 1 % 2 = 1
                      version := BitVec.ofNat 32 (flashNat m 8 4) }
    plan := { s.plan.apply m (secAt l 1) with pinmux := [] } }
  let s1 := match secsOf l 7 with
    | e :: _ => { s0 with plan := s0.plan.applyMux m e.offset }
    | [] => s0
  let s2 := s1.applyFunctions m (secAt l 2)
  let s3 := (secsOf l 4).foldl (fun a e => a.applyHbm m e) s2
  let s4 := ((secsOf l 3).foldl (fun a e => a.imageWrites ((settings m e).getD [])) s3)
  let s5 := (secsOf l 5 ++ secsOf l 6).foldl (fun (a : State) e => a.applyProgram m e)
    { s4 with plan := { s4.plan with restore := restoreRecords m l }
              pt := { s4.pt with evt := s4.pt.evt.map (fun (q : Nat × EvtEntry) => (q.1, q.2.imageEnd)) } }
  s5.applyCxl m (secsOf l 8).head? r

/-! ## Defaults (R466) -/

/-- Registers that the SETTINGS of the staged image name. -/
def Loader.named (l : Loader) : List Nat :=
  ((secsOf l.secs 3).flatMap (fun e => (settings l.staged e).getD [])).map (fun r => r.1)
/-- PROGRAM and FIRMWARE records of the staged image. -/
def Loader.programs (l : Loader) : List ProgRec :=
  (secsOf l.secs 5 ++ secsOf l.secs 6).flatMap (fun e => (progRecords l.staged (e.length / 12 + 1) e.offset e.length).getD [])
/-- The image gives program word `n` of tile `t` a value. -/
def givesWord (rs : List ProgRec) (t : TileId) (n : Nat) : Bool :=
  rs.any (fun r => inBox r.box t && decide (r.start ≤ n) && decide (n < r.start + r.count))
/-- The applied image gives the image fields of a register their values: PLAN those of the CD_ and PW_ blocks, FUNCTIONS
CT_ID and FN_STAT, PROGRAM and FIRMWARE program words, and SETTINGS what its records name (R466). -/
def Loader.gives (l : Loader) (pa : Nat) : Bool :=
  l.named.contains pa || (match csrBlk pa with
    | some (.ct t o) => o = 0 || (decide (0x20000 ≤ o) && givesWord l.programs t ((o - 0x20000) / 4))
    | some (.fn _ o) => o = 0
    | some (.cd _ _) => true
    | some (.pw _) => true
    | some (.ld _) => true
    | _ => false)

/-- Each image field of a tile that the image gives no value takes its default: what the management controller or JTAG wrote
to one gives way. `ct`, `qt` and `ce` tell which offsets of its blocks the SETTINGS name, `rs` the program records (R466). -/
def Tile.takeDefaults (tl : Tile) (t : TileId) (ct qt ce : Nat → Bool) (rs : List ProgRec) : Tile :=
  let based := rs.any (fun r => inBox r.box t)
  let t1 := { tl with
    pmem := tl.pmem.filter (fun p => givesWord rs t p.1 || ct (0x20000 + 4 * p.1))
    mvbase := if based then tl.mvbase else 0
    svbase := if based then tl.svbase else 0
    csize := if ct 0x200 then tl.csize else 0
    pfd := if ct 0x200 then tl.pfd else 0
    place := if ct 0x220 then tl.place else 0
    pbb := if ct 0x228 then tl.pbb else ({} : Tile).defaults.pbb
    memb := tl.memb.filter (fun p => ct (0x300 + 8 * p.1))
    quietWin := if ct 0x4E0 then tl.quietWin else ({} : Tile).defaults.quietWin
    hzHaltk := if ct 0x600 then tl.hzHaltk else 0
    mgrp := tl.mgrp.filter (fun p => qt (0x400 + 8 * p.1))
    eng := { tl.eng with fqh := if ce 0x20 then tl.eng.fqh else 0 } }
  let t2 := t1.eachThread (fun a h => a.modTh h (fun x =>
    let y := if ct (8 + 8 * h.toNat) then x else { x with pc := 0, slv := false, run := .stopped }
    if qt (0x320 + 8 * h.toNat) then y else { y with stex := false }))
  (List.range 16).foldl (fun a i => if qt (8 * i) then a else a.modQueue (BitVec.ofNat 4 i) Queue.unset) t2
/-- Each image field of the PT_ registers that the image gives no value takes its default 0 (R466). -/
def Pt.takeDefaults (p : Pt) (g : Nat → Bool) : Pt :=
  let ssi := g 0x40
  { p with
    cfg := if g 0 then p.cfg else 0
    cnt := p.cnt.filter (fun q => g (0x10 + 8 * q.1))
    ccfg := p.ccfg.filter (fun q => g (0x20 + 8 * q.1))
    ssicfg := if ssi then p.ssicfg else 0
    ssiRef := if ssi then p.ssiRef else none
    ssiBusy := ssi && p.ssiBusy
    oe := if g 0x50 then p.oe else 0
    pol := if g 0x50 then p.pol else 0
    lacfg := if g 0x70 then p.lacfg else 0
    evt := (p.evt.map (fun q =>
      let at_ (w : Nat) (v : DWord) : DWord := if g (0x10000 + 32 * q.1 + 8 * w) then v else 0
      (q.1, { q.2 with w0 := at_ 0 q.2.w0, w1 := at_ 1 q.2.w1, w2 := at_ 2 q.2.w2 }))).filter (fun q => q.2 ≠ {}) }
/-- Step 8 of R470: every image field that no section gives a value takes its default (R466). -/
def State.takeDefaults (s : State) : State :=
  let l := s.ld.named
  let rs := s.ld.programs
  let s1 := s.mapTiles (fun t tl =>
    tl.takeDefaults t (fun o => l.contains (0x3F0000000000 + t.toNat * 0x40000 + o))
      (fun o => l.contains (0x3F0100000000 + t.toNat * 0x10000 + o))
      (fun o => l.contains (0x3F0200000000 + t.toNat * 0x10000 + o)) rs)
  let s2 := { s1 with pt := s1.pt.takeDefaults (fun o => l.contains (0x3F0800000000 + o)) }
  (List.range 32).foldl (fun k i =>
    let f : FuncNo := BitVec.ofNat 5 i
    k.modFunc f (fun x =>
      { x with cnsEn := if l.contains (0x3F0700000000 + 8 * i) then x.cnsEn else bit k.plan.defs i
               ptr := if l.contains (0x3F0600000000 + 0x1000 * i + 0x18) then x.ptr else 0 })) s2

/-- Bits of a register that read 0: its image fields, until the image has given them their values or, with none, until the
release gives them their defaults (R466, R554). The image fields of the LD_, CD_ and PW_ blocks hold 0 until then. -/
def Loader.unapplied (l : Loader) (pa : Nat) : DWord :=
  if l.phase = 5 || (l.applied && l.gives pa) then 0
  else match csrBlk pa with
    | some (.ld _) => 0
    | some (.cd _ _) => 0
    | some (.pw _) => 0
    | some b => match b.img with
      | some r => r.mask
      | none => 0
    | none => 0

/-! ## Restoring a half (R486, R487) -/

/-- What a switch-on leaves undefined in a thread: free values. -/
def Thread.powered (x : Thread) (n base : Nat) : Thread :=
  let fr (i w : Nat) : BitVec w := Config.free n (base + i) w
  { x with d := freeFile n (base + 10) 32, a := freeFile n (base + 20) 64, v := freeFile n (base + 30) 512
           rcnt := fr 1 32, rstart := fr 2 14, rend := fr 3 14, priv := fr 4 512
           stgU := { count := 0, words := fr 5 128 }, stgS := { count := 0, words := fr 6 128 }
           stgM := { count := 0, words := fr 7 128 }
           sepc := fr 8 14, mepc := fr 9 14, sestat := fr 40 32, mestat := fr 41 32 }
/-- A tile whose domain has switched on: rotation at `now`, image PC and SLV, and free values where R486 says
undefined. -/
def Tile.powered (tl : Tile) (s : State) (t : TileId) (n : Nat) : Tile :=
  let b := t.toNat * 1000
  let fr (i w : Nat) : BitVec w := Config.free n (b + i) w
  let t1 : Tile :=
    { tl with onAt := (s.cob (tileCob t)).cyc, shared := fr 1 7424, plru := fr 2 896
              treg := (List.range 8).foldl (fun m k => SMap.set {} m k { bytes := fr (10 + k) 16384 }) []
              eng := { tl.eng with qd := (List.range 8).foldl (fun m k => SMap.set 0 m k (fr (20 + k) 512)) [] } }
  t1.defaults.eachThread (fun a h =>
    let i := t.toNat * 4 + h.toNat
    a.modTh h (fun x =>
      { x.powered n (b + 100 * (h.toNat + 1)) with pc := SMap.get 0 s.plan.imgPc i, slv := SMap.get false s.plan.imgSlv i }))
/-- Epochs of the queues that the image enables: one above the epoch at switch-off (R486). -/
def State.restoreEpochs (s : State) (t : TileId) : State :=
  s.modTile t (fun tl => (List.range 16).foldl (fun a i =>
    let q : QIx := BitVec.ofNat 4 i
    if (a.queue q).en then
      a.modQueue q (fun k => { k with epoch := SMap.get 0 (s.cob (tileCob t)).epochs (t.toNat % 256 * 16 + i) + 1 })
    else a) tl)
/-- The tiles of a half after switch-on, their zeroing still to come. -/
def State.restoreHalf (s : State) (c : CobNo) (so : Bool) : State :=
  let n := s.free
  let ts := halfTiles c so
  let run := s.plan.imgRun
  let s1 := ts.foldl (fun a t => a.modTile t (fun tl => tl.powered a t n)) { s with free := n + 1 }
  let mine := s1.plan.restore.filter (fun r => match csrTile r.1, csrBlk r.1 with
    | some t, some (.ct _ o) => ts.contains t && decide (o < 0x20000)
    | some t, _ => ts.contains t
    | none, _ => false)
  let s2 := s1.imageWrites mine
  ts.foldl (fun a t => a.restoreEpochs t) { s2 with plan := { s2.plan with imgRun := run } }

end Sys2Proof.Machine
end

