-- ==== Sys2Proof/Machine/StartUp.lean ====
section
/-! DEFINITION. Cold start, from the release of COLDRST_N to the release of the threads, the flash operations and
attestation (R178, R284, R460–R483, R554). -/
namespace Sys2Proof.Machine

/-! ## Phases (R469, R471, R476) -/

/-- COLD_START: COLDRST_N rises; the system controller runs from ROM and the Tamore Link ports train (R469, R541). The
rails have been brought up as R538 asks. -/
def execColdStart (s : State) : Host.Outcome State Fault Refusal :=
  .next (if s.lands.coldrst then s
    else { s with
      lands := { s.lands with coldrst := true, railHold := false, railBad := 0, railOff := 0 }
      ports := (List.range 4).foldl (fun m p => SMap.set {} m p { SMap.get {} s.ports p with st := 1 }) s.ports })

/-- Start-up has neither ended nor failed. -/
def State.starting (s : State) : Bool := s.alive && decide (s.ld.phase.toNat < 4)
/-- Start-up ends with nothing applied, and the part leaves service (R471). -/
def State.startFails (s : State) (reason : Byte) : State :=
  State.leaveService { s with ld := { s.ld with phase := 6, meas := 0, okh := [], secs := [] } } reason none

/-- The public key that a device's helper record derives from the PUF read-out, when the record is in order and SHA3-256 of
the key equals its IDKH (R461, R476). -/
def Loader.derive (l : Loader) (puf : List Byte) (dev : Bool) : Option (List Byte) :=
  let m := l.flash dev
  let n := flashNat m 0x7FF0004 4
  if !(l.present dev) || flashNat m 0x7FF0000 4 ≠ 0x504C4844 || n = 0 || 65464 < n then none
  else
    let pk := fitBytes 1312 (Config.mlDsaKey (Config.pufSeed puf (flashBytes m 0x7FF0028 n)))
    if sha3_256 pk = flashBytes m 0x7FF0008 32 then some pk else none
/-- IDENTITY: SFDP is read of both devices, and a device that does not answer it, or lacks a feature, counts as absent
(R460). The helper record of device 0, and else of device 1, derives the identity key from the PUF read-out `puf` (R476).
Image A is read once the fabric phase has ended too (R469). -/
def execIdentity (sfdp0 sfdp1 : Bool) (puf : List (BitVec 8)) (s : State) : Host.Outcome State Fault Refusal :=
  .next (if !s.starting || s.ld.identityDone then s
    else
      let l := { s.ld with present0 := sfdp0, present1 := sfdp1 }
      let a := l.derive puf false
      let pk := match a with
        | some k => some k
        | none => l.derive puf true
      { s with ld := { l with
        identityDone := true
        phase := if l.fabricDone then 2 else 1
        idv := pk.isSome
        hlpb := a.isNone && pk.isSome
        idpk := pk.getD []
        idkh := match pk with
          | some k => sha3_256 k
          | none => [] } })

/-- FABRIC_PHASE: every domain switches on, the die links train and every local memory is zeroed (R178, R469). -/
def execFabricPhase (ok : Bool) (s : State) : Host.Outcome State Fault Refusal :=
  .next (if !s.starting || s.ld.fabricDone then s
    else if !ok then
      State.linkLost { s with ld := { s.ld with phase := 6, meas := 0, okh := [], secs := [] } }
    else
      let s1 := (List.range 16).foldl (fun a i =>
        a.modCob (BitVec.ofNat 4 i) (fun x => { x with north := .on, south := .on, memif := .on })) s
      State.mapTiles { s1 with pw := { s1.pw with kiln0 := true, kiln1 := .on, viaK1 := true }, ld := { s1.ld with
                  fabricDone := true, phase := if s1.ld.identityDone then 2 else s1.ld.phase } }
        (fun t tl => { tl with zeroed := true, lmem := [], onAt := (s1.cob (tileCob t)).cyc }))

/-- HBM_PHASE: every stack is trained and every slice tested, or the part leaves service (R284, R471). -/
def execHbmPhase (ok : Bool) (s : State) : Host.Outcome State Fault Refusal :=
  .next (if !s.alive || !s.ld.fabricDone || s.ld.hbmDone || 4 < s.ld.phase.toNat then s
    else if ok then { s with ld := { s.ld with hbmDone := true } }
    else s.startFails 1)

/-! ## The image (R467, R470, R471) -/

/-- IMAGE_READ: the checks of R467 over a device's slot; image A first, and B when A fails. An image that passes is staged
in Cob 15 (R467, R470, R471, R478). -/
def execImageRead (dev answers : Bool) (s : State) : Host.Outcome State Fault Refusal :=
  .next (
    let l := s.ld
    let due := s.starting && l.identityDone && l.fabricDone && (if dev then l.phase = 3 else l.phase = 2)
    if !due then s
    else
      let m := l.flash dev
      let r := verifyImage (l.present dev) answers m
      let k := if dev then { l with errb := errWord r } else { l with erra := errWord r }
      if r.1 = 0 then
        let secs := imgEntries m
        let fw := ((secsOf secs 6).map (fun e => e.digest)).headD []
        { s with ld := { k with phase := 4, slot := dev, secs := secs, staged := m, errb := if dev then k.errb else 0x0A
                                meas := digest512 (sha3_256 (flashBytes m 0 (imgSigned m))) fw
                                okh := sha3_256 (ownerPk m) } }
      else if dev then State.startFails { s with ld := k } 4
      else { s with ld := { k with phase := 3 } })

/-- IMAGE_APPLY: the sections are applied in order once the HBM phase has passed (R470). -/
def execImageApply (cxl : CxlReport) (s : State) : Host.Outcome State Fault Refusal :=
  .next (if s.alive && s.ld.phase = 4 && s.ld.hbmDone && !s.ld.applied then s.applyImage cxl else s)

/-- Threads of a tile whose image RUN is 1. -/
def State.runs (s : State) (t : TileId) (h : Thr) : Bool := SMap.get false s.plan.imgRun (t.toNat * 4 + h.toNat)
/-- Every held RUN takes effect (R41, R470). -/
def State.startHeld (s : State) : State :=
  s.mapTiles (fun t tl => tl.eachThread (fun a h => if s.runs t h then a.start h else a))
/-- The state of a defined function at release: RUNNING when one of its threads has started (R448, R470). -/
def State.releaseState (s : State) (f : FuncNo) : FnSt :=
  if !(bit s.plan.defs f.toNat) then .absent
  else if (s.tilesOf f).any (fun t => !((s.tile t).stopped 15)) then .running
  else .idle
/-- Halves in mode 1 switch off (R485). -/
def State.releaseHalves (s : State) : State :=
  (List.range 16).foldl (fun a i =>
    let c : CobNo := BitVec.ofNat 4 i
    let off (b : State) (so : Bool) : State := if b.halfMode c so = 1 then b.setDom (.half c so) (.goingOff false) else b
    off (off a false) true) s
/-- RELEASE (R470, R472). -/
def execRelease (s : State) : Host.Outcome State Fault Refusal :=
  .next (if !s.alive || s.ld.phase ≠ 4 || !s.ld.applied || s.unrec then s
    else
      let s1 := s.takeDefaults.startHeld
      let s2 := allFuncs.foldl (fun a f => a.modFunc f (fun x => { x with st := s1.releaseState f })) s1
      State.releaseHalves { s2 with ld := { s2.ld with phase := 5, staged := [] } })

/-! ## Held accesses (R488, R554) -/

/-- A held access is ready. -/
def State.accReady (s : State) (a : HeldAcc) : Bool :=
  match csrBlk a.pa with
  | some b => s.blkReady b
  | none => true
/-- A held access is made (R518, R547); a read returns 0 in an image field that has not been given its value yet (R554). -/
def State.makeAccess (s : State) (a : HeldAcc) : State :=
  match csrBlk a.pa with
  | none => s
  | some b =>
    let s := s.touchHalf a.pa
    if a.write then
      let s1 := s.doWrite a.src b a.width a.data none
      if a.src = .jtag then { s1 with side := { s1.side with done := true } } else s1
    else
      let x := s.sizedRead b a.width
      let r := (x.1 &&& ~~~(s.ld.unapplied a.pa), x.2)
      if a.src = .jtag then { r.2 with side := { r.2.side with data := r.1, done := true } }
      else { r.2 with side := { r.2.side with reply := (0 : Byte) :: bytesOf r.1 a.width } }
/-- The held accesses with the first ready one taken out. -/
def takeReady (ok : HeldAcc → Bool) : List HeldAcc → Option (HeldAcc × List HeldAcc)
  | [] => none
  | a :: r =>
    if ok a then some (a, r)
    else match takeReady ok r with
      | some (b, l) => some (b, a :: l)
      | none => none
/-- HELD_ACCESS_RELEASE: the oldest held access whose register can be reached (R554). -/
def execHeldAccessRelease (s : State) : Host.Outcome State Fault Refusal :=
  .next (match takeReady s.accReady s.side.held with
    | some (a, l) => if s.alive then State.makeAccess { s with side := { s.side with held := l } } a else s
    | none => s)

/-! ## Flash operations and attestation (R473, R474, R477) -/

/-- A write of LD_FCMD. -/
def State.writeFcmd (s : State) (src : Src) (op : DWord) (dev : Bool) (addr : Word) (v : Option Bool) : State :=
  s.regWrite src (paLd 0x28) 8 (op + (if dev then 8 else 0) + ((addr ++ (0#32)) : DWord)) v
/-- FLASH_READ (R474). -/
def execFlashRead (src : Src) (dev : Bool) (addr : BitVec 32) (s : State) : Host.Outcome State Fault Refusal :=
  .next (s.writeFcmd src 1 dev addr none)
/-- FLASH_PROGRAM (R474). -/
def execFlashProgram (src : Src) (dev : Bool) (addr : BitVec 32) (s : State) : Host.Outcome State Fault Refusal :=
  .next (s.writeFcmd src 2 dev addr none)
/-- FLASH_ERASE (R474). -/
def execFlashErase (src : Src) (dev : Bool) (addr : BitVec 32) (s : State) : Host.Outcome State Fault Refusal :=
  .next (s.writeFcmd src 3 dev addr none)
/-- FLASH_CHECK: `answers` tells whether the device answers every read within 10 ms (R467, R474). -/
def execFlashCheck (src : Src) (dev : Bool) (addr : BitVec 32) (answers : Bool) (s : State) :
    Host.Outcome State Fault Refusal :=
  .next (s.writeFcmd src 4 dev addr (some answers))
/-- FLASH_OP_DONE (R474). -/
def execFlashOpDone (timeout : Bool) (s : State) : Host.Outcome State Fault Refusal :=
  .next { s with ld := s.ld.flashDone timeout }
/-- ATTESTATION_REQUEST: a write of LD_ACMD with GO 1 (R477). -/
def execAttestationRequest (src : Src) (s : State) : Host.Outcome State Fault Refusal :=
  .next (s.regWrite src (paLd 0x30) 4 1 none)
/-- REPORT_SIGNED (R477, R478). -/
def execReportSigned (sig : List (BitVec 8)) (s : State) : Host.Outcome State Fault Refusal :=
  .next { s with ld := s.ld.signed sig }

end Sys2Proof.Machine
end

