-- ==== Sys2Proof/Machine/Power.lean ====
section
/-! DEFINITION. Power domains, Kiln 1, droop, temperature and the stacks' own scrub (R267, R282, R286, R484–R501). -/
namespace Sys2Proof.Machine

/-! ## Domains (R282, R484–R489) -/

/-- HALF_SWITCH_OFF: a mode-2 half that has been idle long enough begins to switch off; epochs and ACT are recorded
(R485, R487, R489). -/
def execHalfSwitchOff (c : CobNo) (south : Bool) (s : State) : Host.Outcome State Fault Refusal :=
  .next (if s.alive && s.halfMayOff c south then (s.recordHalf c south).setDom (.half c south) (.goingOff false) else s)
/-- MEMIF_SWITCH_OFF: the colliers write back, the stacks enter self-refresh and the interface switches off (R282, R290,
R392). -/
def execMemifSwitchOff (c : CobNo) (s : State) : Host.Outcome State Fault Refusal :=
  .next (if s.alive && s.memifMayOff c then (s.writeBack c).setDom (.memif c) (.goingOff false) else s)
/-- DOMAIN_WAKE (R488, R489). -/
def execDomainWake (d : Domain) (s : State) : Host.Outcome State Fault Refusal :=
  .next (if s.alive && s.ld.phase = 5 then s.wake d else s)

/-- A Cob whose memory interface has lost its power: its caches are empty, no removal or sweep runs, no claim waits, and what
the spec does not say of its registers is a free value within their fields (R15, R21, R390). DESIGN CHOICE (log 89): the droop
step and a pending sag are kept, since the spec does not say what they are while the sensors are off. -/
def Cob.unpowered (x : Cob) (n : Nat) : Cob :=
  { x with tlb := [], walker := [], winv := Config.free n 0 42, winvBusy := false, winvWait := []
           ckcmd := Config.free n 1 6, ckBusy := false, ckRecv := (Config.free n 2 61).setWidth 64, ckClaim := (Config.free n 3 61).setWidth 64
           ckNelem := (Config.free n 4 38).setWidth 64, ckNclm := (Config.free n 5 38).setWidth 64, ckMiss := Config.free n 6 64
           ckOvf := Config.free n 7 64, claims := [], refuse := Config.free n 8 32 }
/-- What a domain loses when its switch-off sequence ends (R21, R486). -/
def State.lose (s : State) (d : Domain) : State :=
  match d with
  | .half c so => s.loseHalf c so
  | .memif c => State.modCob { s with free := s.free + 1 } c (fun x => x.unpowered s.free)
  | .kiln1 => s
/-- Data transfers that are in the Kilns, or on their way to them (R267). DEDUCED (log 99). -/
def State.inKilns (s : State) : List Xid :=
  ((s.net.filter (fun p => p.net = 3 && p.sent && s.pktRoute p ≠ [])).map (fun p => (p.id, false)))
  ++ ((s.reqs.filter (fun r => r.ans.isNone && !(s.heldStore r) && (r.dst.fabEnd r.tile).1 && s.reqRoute r.tile r.dst ≠ [])).map
      (fun r => (r.id, false)))
  ++ (s.tiles.flatMap (fun p =>
      let t : TileId := BitVec.ofNat 12 p.1
      (s.replies.filter (fun id => match s.replyFrom t id with
        | some g => (g.fabEnd t).1 && s.reqRoute t g ≠ []
        | none => false)).map (fun id => (id, true))))
  ++ (s.busyEngines.flatMap (fun e => ((s.eng e).inflight.filter (fun c => s.chunkRoute e c ≠ [])).map (fun c => (c.id, false))))
/-- New traffic for the Kilns is held from now on (R267). -/
def State.holdRoutes (s : State) : State := { s with pw := { s.pw with routeHold := some s.inKilns } }

/-- SWITCH_OFF_SEQUENCE_END: the domain is off, or switches on at once for a held wake (R489). -/
def execSwitchOffSequenceEnd (d : Domain) (s : State) : Host.Outcome State Fault Refusal :=
  .next (match s.dom d with
    | .goingOff w =>
      if d = .kiln1 && s.pw.routeHold.isSome then s
      else (s.lose d).setDom d (if w then .goingOn else .off)
    | _ => s)

/-- DOMAIN_ON: the domain is on; a half comes back as R486 says, with its zeroing still to come (R178, R486, R488). Kiln 1
carries traffic after a route change (R267, R490). -/
def execDomainOn (d : Domain) (s : State) : Host.Outcome State Fault Refusal :=
  .next (if s.dom d ≠ .goingOn || !s.alive || !s.pw.kiln0 then s
    else match d with
      | .half c so => if (s.cob c).memif = .on then (s.restoreHalf c so).setDom d .on else s
      | .memif _ => (s.setDom d .on).retryWindows
      | .kiln1 => State.holdRoutes { s with pw := { s.pw with kiln1 := .on } })

/-! ## Kiln 1 (R267, R490) -/

/-- A load window in which, for every Cob and Husk, the loads of both data links together stay below K1OFF. A window is
the loads, in percent, of the Kiln 0 and the Kiln 1 data link of Cobs 0 to 15 and Husks 0 and 1 (R269, R490). -/
def State.lowWindow (s : State) (w : List (BitVec 8 × BitVec 8)) : Bool :=
  w.length = 18 && w.all (fun p => decide (p.1.toNat + p.2.toNat < s.plan.k1off.toNat))
/-- KILN1_SWITCH_OFF: 16 consecutive windows of low load, as measured, begin the switch-off (R490). -/
def execKiln1SwitchOff (windows : List (List (BitVec 8 × BitVec 8))) (s : State) : Host.Outcome State Fault Refusal :=
  .next (if s.alive && s.plan.k1mode && s.ld.phase = 5 && s.pw.kiln1 = .on && s.pw.routeHold.isNone
      && windows.length = 16 && windows.all s.lowWindow then
      State.holdRoutes { s with pw := { s.pw with kiln1 := .goingOff false } }
    else s)
/-- KILN1_SWITCH_ON: while Kiln 1 is off, the load of a Kiln 0 data link exceeds K1ON in a window (R489, R490). -/
def execKiln1SwitchOn (loads : List (BitVec 8)) (s : State) : Host.Outcome State Fault Refusal :=
  .next (if !s.alive || !(loads.any (fun x => decide (s.plan.k1on.toNat < x.toNat))) then s
    else match s.pw.kiln1 with
      | .off => { s with pw := { s.pw with kiln1 := .goingOn } }
      | .goingOff _ => { s with pw := { s.pw with kiln1 := .goingOff true } }
      | _ => s)
/-- KILN_ROUTE_CHANGE: once both Kilns are empty of what they held, the held traffic takes the new routes (R267). -/
def execKilnRouteChange (s : State) : Host.Outcome State Fault Refusal :=
  .next (match s.pw.routeHold with
    | none => s
    | some l =>
      if s.inKilns.any (fun k => l.contains k) then s
      else State.retryWindows { s with pw := { s.pw with routeHold := none, viaK1 := decide (s.pw.kiln1 = .on) } })

/-! ## Droop (R495, R496) -/

/-- The droop sensors of a Cob work: they lie in its memory interface (R15). -/
def State.senses (s : State) (c : CobNo) : Bool := s.alive && (s.cob c).memif = .on
/-- SAG (R495). -/
def execSag (c : CobNo) (s : State) : Host.Outcome State Fault Refusal :=
  .next (if s.senses c then s.modCob c (fun x => { x.stepDown with sagging := true }) else s)
/-- SAG_PERSIST (R495). -/
def execSagPersist (c : CobNo) (s : State) : Host.Outcome State Fault Refusal :=
  .next (if s.senses c && (s.cob c).sagging then s.modCob c Cob.stepDown else s)
/-- CLEAN_STEP_UP (R496). -/
def execCleanStepUp (c : CobNo) (s : State) : Host.Outcome State Fault Refusal :=
  .next (if s.senses c then s.modCob c (fun x => { x.stepUp with sagging := false }) else s)

/-! ## Temperature (R499–R501) -/

/-- Readings of a run of sensors, sensor 0 first. -/
def readTemps (m : SMap Temp) (n : Nat) (l : List Byte) : SMap Temp :=
  (List.range (min n l.length)).foldl (fun k i => SMap.modify {} k i (fun x => x.read (nth l i 0))) m
/-- A die or a stack is at its trip temperature (R499). -/
def Pw.tripHot (p : Pw) : Bool :=
  (List.range 20).any (fun i => decide (115 ≤ (SMap.get {} p.tdie i).cur.toNat))
    || (List.range 32).any (fun i => decide (105 ≤ (SMap.get {} p.tstk i).cur.toNat))
/-- The trip, when a temperature calls for it (R501). -/
def State.checkTrip (s : State) : State := if s.pw.tripHot then s.trip else s
/-- TEMPERATURE_READ: the hottest sensor of each die, and each stack when its own reading is due (R499, R501, R505). -/
def execTemperatureRead (dies stk : List (BitVec 8)) (s : State) : Host.Outcome State Fault Refusal :=
  .next (if s.alive then
      State.checkTrip { s with pw := { s.pw with tdie := readTemps s.pw.tdie 20 dies, tstk := readTemps s.pw.tstk 32 stk } }
    else s)
/-- The thermal step of a Cob after a 1 ms period (R500). -/
def State.thermStep (s : State) (i : Nat) (old : BitVec 2) : BitVec 2 :=
  let die := (SMap.get {} s.pw.tdie i).cur.toNat
  let a := (SMap.get {} s.pw.tstk (2 * i)).cur.toNat
  let b := (SMap.get {} s.pw.tstk (2 * i + 1)).cur.toNat
  let hot := s.plan.thot.toNat
  if hot < die || 95 < a || 95 < b then (if old = 3 then 3 else old + 1)
  else if die + 5 < hot && a < 90 && b < 90 then (if old = 0 then 0 else old - 1)
  else old
/-- THERMAL_PERIOD (R500, R501). -/
def execThermalPeriod (s : State) : Host.Outcome State Fault Refusal :=
  .next (if s.alive && s.ld.phase = 5 then
      State.checkTrip ((List.range 16).foldl (fun a i =>
        a.modCob (BitVec.ofNat 4 i) (fun x => { x with therm := s.thermStep i x.therm })) s)
    else s)

/-! ## Scrub (R286) -/

/-- STACK_SCRUB: the stack repairs a correctable error itself; an uncorrectable one is recorded in the telemetry and
fails no function (R286). -/
def execStackScrub (pa : BitVec 46) (ecc : Ecc) (s : State) : Host.Outcome State Fault Refusal :=
  .next (if !s.alive || hbmEnd ≤ pa.toNat || !(s.sliceOn pa.toNat) then s
    else match ecc with
      | .uncorrectable =>
        { s with hbmBad := SMap.set false s.hbmBad (pa.toNat / 32) true
                 pw := { s.pw with scrub := s.pw.scrub ++ [pa.toNat / 32] } }
      | _ => s)

end Sys2Proof.Machine
end

