-- ==== Sys2Proof/Machine/Sideband.lean ====
section
/-! DEFINITION. Reset and rails, JTAG, the management sideband and register writes without a row of their own (R9, R518,
R519, R537–R541, R546, R547, R554). -/
namespace Sys2Proof.Machine

/-! ## Reset and rails (R537–R541) -/

/-- All state of the part is lost: what stays is the flash, CXL memory, the lands, an I3C dynamic address, and the
model's own counter and queue (R541, R546). -/
def State.lost (s : State) : State :=
  { pending := s.pending, free := s.free, cxl := s.cxl
    ld := { flash0 := s.ld.flash0, flash1 := s.ld.flash1, present0 := s.ld.present0, present1 := s.ld.present1 }
    side := { dynAddr := s.side.dynAddr }
    lands := { s.lands with svcflt := false } }
/-- Every VCORE rail is below 10 % of nominal. -/
def Lands.coresOff (x : Lands) : Bool := bits x.railOff 0 16 = (0xFFFF : BitVec 16)
/-- THERMTRIP_N is released when COLDRST_N is low and every VCORE rail is off (R541). -/
def Lands.settle (x : Lands) : Lands := if !x.coldrst && x.coresOff then { x with thermtrip := false } else x

/-- COLDRST_ASSERT: every block stops and every port drops its link (R541). -/
def execColdrstAssert (s : State) : Host.Outcome State Fault Refusal :=
  .next (
    let t := s.lost
    { t with lands := { t.lands with coldrst := false, railHold := false }.settle })

/-- Rails of steps 3 to 5 of R538: every rail but VIO33, VIO18 and VSTBY. -/
def monitored (rail : BitVec 5) : Bool := decide (rail.toNat < 23)
/-- RAIL_FAULT: a rail leaves tolerance; for a monitored rail the part is held as if in reset (R541). -/
def State.railFault (s : State) (rail : BitVec 5) : State :=
  let s1 := { s with lands := { s.lands with railBad := setBit s.lands.railBad rail.toNat true } }
  if s.lands.coldrst && monitored rail then
    let t := s1.lost
    { t with lands := { t.lands with railHold := true } }
  else s1
def execRailFault (rail : BitVec 5) (s : State) : Host.Outcome State Fault Refusal :=
  .next (if 25 < rail.toNat then s else s.railFault rail)
/-- RAIL_OFF: a rail falls below 10 % of nominal (R539, R541, R546). -/
def execRailOff (rail : BitVec 5) (s : State) : Host.Outcome State Fault Refusal :=
  .next (if 25 < rail.toNat then s
    else
      let s1 := s.railFault rail
      let x := { s1.lands with railOff := setBit s1.lands.railOff rail.toNat true }
      { s1 with lands := x.settle
                side := if rail = 25 then { s1.side with dynAddr := none, reply := [], head := none } else s1.side })

/-! ## JTAG (R518, R519) -/

/-- Width that CSRADDR asks for. -/
def Side.width (x : Side) : Nat := if bit x.addr 46 then 8 else 4
/-- The address of CSRADDR. -/
def Side.pa (x : Side) : Nat := (bits x.addr 0 46 : BitVec 46).toNat
/-- A JTAG access: made at once, or held until the register's domain is on (R518, R554). -/
def State.jtagAccess (s : State) (write : Bool) : State :=
  let pa := s.side.pa
  let n := s.side.width
  if !s.alive then s
  else match csrBlk pa with
    | none => { s with side := { s.side with data := if write then s.side.data else 0, done := true } }
    | some b =>
      let a : HeldAcc := { src := .jtag, write := write, pa := pa, width := n, data := s.side.data }
      if s.blkReady b then s.makeAccess a else s.holdAccess a b
/-- CSRADDR: Update-DR; WRITE 0 starts a read (R518). -/
def execCsraddr (x : BitVec 48) (s : State) : Host.Outcome State Fault Refusal :=
  .next (
    let s1 := { s with side := { s.side with ir := 0x10, addr := x, done := false } }
    if bit x 47 then s1 else s1.jtagAccess false)
/-- CSRDATA: Update-DR; WRITE 1 starts a write (R518). -/
def execCsrdata (x : BitVec 65) (s : State) : Host.Outcome State Fault Refusal :=
  .next (
    let s1 := { s with side := { s.side with ir := 0x11 } }
    if bit s.side.addr 47 then
      State.jtagAccess { s1 with side := { s1.side with data := bits x 0 64, done := false } } true
    else s1)
/-- IDCODE (R519). -/
def execIdcode (s : State) : Host.Outcome State Fault Refusal :=
  .next { s with side := { s.side with ir := 0x01, dr := 0x15320BA5 } }
/-- BYPASS: a data register of one bit, which captures 0 (R518). -/
def execBypass (s : State) : Host.Outcome State Fault Refusal :=
  .next { s with side := { s.side with ir := 0xFF, dr := 0 } }
/-- SAMPLE/PRELOAD: the boundary scan register takes the bits (R518). -/
def execSamplePreload (l : List Bool) (s : State) : Host.Outcome State Fault Refusal :=
  .next { s with side := { s.side with ir := 0x02, boundary := l } }
/-- EXTEST: the boundary scan register drives the lands while this instruction is selected (R518). -/
def execExtest (s : State) : Host.Outcome State Fault Refusal :=
  .next { s with side := { s.side with ir := 0x03 } }

/-! ## The management sideband (R546, R547) -/

/-- VSTBY is on. -/
def State.standby (s : State) : Bool := !(bit s.lands.railOff 25)
/-- A CSR read that is refused returns its status with data 0. -/
def State.mgmtRefuses (s : State) (status : Byte) (n : Nat) : State :=
  { s with side := { s.side with reply := status :: leBytes n 0 } }
/-- One step of the PEC, x^8 + x^2 + x + 1 from 0. PRESUMED (log 102). -/
def pecBit (x : Byte) : Byte := if bit x 7 then (x <<< 1) ^^^ 0x07 else x <<< 1
/-- The PEC of a run of bytes (R546). -/
def pec (l : List Byte) : Byte :=
  l.foldl (fun a b => pecBit (pecBit (pecBit (pecBit (pecBit (pecBit (pecBit (pecBit (a ^^^ b)))))))) ) 0
/-- The PEC that the part sends after a reply under SMBus; none under I3C. -/
def Side.pec (x : Side) : Option Byte := x.head.map (fun h => Machine.pec (h ++ x.reply))

/-- Rails found within tolerance again (R538, R547). -/
def Lands.restore (x : Lands) (rails : BitVec 26) : Lands :=
  { x with railBad := x.railBad &&& ~~~rails, railOff := x.railOff &&& ~~~rails }
/-- The port answers: SMBus at the static address until a dynamic address is given, then I3C alone (R546). -/
def State.sbAnswers (s : State) (x : SbXfer) : Bool :=
  s.standby && (match s.side.dynAddr with
    | none => !x.i3c && x.addr = 0x4A
    | some a => x.i3c && x.addr = a)
/-- The bytes of a transfer that is a write alone, without the PEC that must be right under SMBus. -/
def sbWritten (x : SbXfer) : Option (List Byte) :=
  if x.i3c then some x.bytes
  else
    let l := x.bytes.dropLast
    if x.bytes.getLast? = some (pec ((x.addr ++ (0#1) : Byte) :: l)) then some l else none
/-- The bytes that the PEC of a write followed by a read covers ahead of the bytes read. -/
def sbHead (x : SbXfer) : Option (List Byte) :=
  if x.i3c then none else some ((x.addr ++ (0#1) : Byte) :: x.bytes ++ [x.addr ++ (1#1)])
/-- The physical address and the width that follow a command byte. -/
def sbTarget (l : List Byte) : Nat × Nat := ((bits (leBits 48 (l.take 6) : BitVec 48) 0 46 : BitVec 46).toNat, (nth l 6 0).toNat)

/-- A CSR read of the management controller: its status and data (R547, R554). -/
def State.mgmtRead (s : State) (pa n : Nat) : State :=
  if !s.alive then s.mgmtRefuses 1 (if n = 4 then 4 else 8)
  else if n ≠ 4 && n ≠ 8 then s.mgmtRefuses 3 8
  else match csrBlk pa with
    | none => s.mgmtRefuses 0 n
    | some b =>
      let a : HeldAcc := { src := .mgmt, write := false, pa := pa, width := n, data := 0 }
      if s.blkReady b then s.makeAccess a
      else if s.ld.phase ≠ 5 then s.mgmtRefuses 2 n
      else s.holdAccess a b
/-- CSR_READ: command byte 0x01, six address bytes and the width, then a read (R546, R547, R554). -/
def execCsrRead (x : SbXfer) (s : State) : Host.Outcome State Fault Refusal :=
  .next (
    let u := { s with lands := s.lands.restore x.rails }
    match x.bytes with
    | 0x01 :: l =>
      if !(u.sbAnswers x) || l.length ≠ 7 then u
      else State.mgmtRead { u with side := { u.side with head := sbHead x } } (sbTarget l).1 (sbTarget l).2
    | _ => u)
/-- CSR_WRITE: command byte 0x02, six address bytes, the width and the data (R546, R547, R554). -/
def execCsrWrite (x : SbXfer) (s : State) : Host.Outcome State Fault Refusal :=
  .next (
    let u := { s with lands := s.lands.restore x.rails }
    match sbWritten x with
    | some (0x02 :: l) =>
      let n := (sbTarget l).2
      if !(u.sbAnswers x) || (n ≠ 4 && n ≠ 8) || l.length ≠ 7 + n then u
      else u.regWrite .mgmt (sbTarget l).1 n (leBits 64 (l.drop 7)) none
    | _ => u)
/-- The STATUS byte (R547). -/
def State.statusByte (s : State) : Byte :=
  (0#4) ++ b2v (s.alive && s.ld.phase = 5) ++ b2v s.unrec ++ b2v s.pw.trip ++ b2v (s.lands.railBad = 0 && s.lands.railOff = 0)
/-- SIDEBAND_STATUS: command byte 0x03, then a read (R546, R547). -/
def execSidebandStatus (x : SbXfer) (s : State) : Host.Outcome State Fault Refusal :=
  .next (
    let u := { s with lands := s.lands.restore x.rails }
    if u.sbAnswers x && x.bytes = [0x03] then { u with side := { u.side with reply := [u.statusByte], head := sbHead x } }
    else u)
/-- DYNAMIC_ADDRESS: SETDASA or ENTDAA (R546). -/
def execDynamicAddress (a : BitVec 7) (s : State) : Host.Outcome State Fault Refusal :=
  .next (if s.standby then { s with side := { s.side with dynAddr := some a } } else s)

/-! ## Register writes (R9) -/

/-- REGISTER_WRITE: a write of `width` bytes by a source, after its checks (R9, R55). -/
def execRegisterWrite (src : Src) (pa : BitVec 46) (width : BitVec 8) (x : BitVec 64) (s : State) :
    Host.Outcome State Fault Refusal :=
  .next (s.regWrite src pa.toNat width.toNat (if width = 4 then (bits x 0 32 : Word).setWidth 64 else x) none)

end Sys2Proof.Machine
end

