-- ==== Sys2Proof/Machine/Strings.lean ====
section
/-! DEFINITION. The string instructions (R121–R123). -/
namespace Sys2Proof.Machine

/-- Elements of size `n` from address `a` up to the next 64-byte boundary. -/
def toBoundary (n : Nat) (a : DWord) : Nat := (64 - a.toNat % 64) / n

/-- The operand checks of a string slot with elements left (R121). DESIGN CHOICE (log 90): where both pointers of SMOV fail one check,
the address recorded is that of Ad, which stands first in `ptrs`; the spec names neither. -/
def stringFault (ill : Bool) (n : Nat) (ptrs : List DWord) : Option (BitVec 5 × DWord) :=
  if ill then some (cOperand, 0)
  else match ptrs.filter (fun a => decide (2 ^ 48 ≤ a.toNat)) with
    | a :: _ => some (cForm, a)
    | [] => match ptrs.filter (fun a => a.toNat % n ≠ 0) with
      | a :: _ => some (cAlign, a)
      | [] => none

/-- One slot of a string instruction: the empty case, the checks, then a run. -/
def stringSlot (t : TileId) (h : Thr) (dc : Reg) (ill : Bool) (n : Nat) (ptrs : List DWord) (empty : Thread → Thread)
    (run : State → State) (s : State) : State :=
  if (s.th t h).getD dc = 0 then s.finish t h (fun x => (empty x).advance 2)
  else match stringFault ill n ptrs with
    | some (c, a) => s.raise t h c 0 (if c = cOperand then 0 else bits a 0 48)
    | none => run s

/-- SMOV (R122); of two faults of one class `withTargets` says whose address is recorded (R123). -/
def execSmov (t : TileId) (h : Thr) (ad x : Reg) (mode : Bool) (sz : ESize) (dc : Reg) (s : State) :
    Host.Outcome State Fault Refusal :=
  .next (issue t h 2 (checked t h (!mode) (word1 4 4 ad x) (fun s =>
    let k := s.th t h
    let n := esBytes sz
    let pd := k.getA ad
    let ps := k.getA x
    stringSlot t h dc (ad = x) n [pd, ps] id (fun s =>
      let cnt := min (k.getD dc).toNat (min (toBoundary n pd) (toBoundary n ps))
      withTargets t h ps pd (cnt * n) (fun g gd s =>
        s.loadAt t h (bits ps 0 48) g (cnt * n) n (.smov ad x dc sz cnt gd)) s) s)) s)

/-- SSCN (R122). -/
def execSscn (t : TileId) (h : Thr) (ad dv : Reg) (mode : Bool) (sz : ESize) (dc : Reg) (s : State) :
    Host.Outcome State Fault Refusal :=
  .next (issue t h 2 (fun s =>
    let k := s.th t h
    let n := esBytes sz
    let p := k.getA ad
    stringSlot t h dc (dc = dv) n [p] (fun x => { x with st := { x.st with z := false } }) (fun s =>
      let cnt := min (k.getD dc).toNat (toBoundary n p)
      withTarget t h p (cnt * n) 1 false (fun g s =>
        s.loadAt t h (bits p 0 48) g (cnt * n) n (.sscn ad dv dc mode sz cnt)) s) s) s)

/-- SFIL (R122). -/
def execSfil (t : TileId) (h : Thr) (ad dv : Reg) (mode : Bool) (sz : ESize) (dc : Reg) (s : State) :
    Host.Outcome State Fault Refusal :=
  .next (issue t h 2 (checked t h (!mode) (word1 4 6 ad dv) (fun s =>
    let k := s.th t h
    let n := esBytes sz
    let p := k.getA ad
    stringSlot t h dc (dc = dv) n [p] id (fun s =>
      let cnt := min (k.getD dc).toNat (toBoundary n p)
      let bytes := (List.replicate cnt (elemOf n (k.getD dv))).flatten
      withTarget t h p (cnt * n) 1 true (fun g s =>
        storeAt t h (bits p 0 48) g n bytes (fun s =>
          s.finish t h (fun x =>
            let left := x.getD dc - BitVec.ofNat 32 cnt
            ((x.setA ad (p + BitVec.ofNat 64 (cnt * n))).setD dc left).stringEnd (left = 0))) s) s) s)) s)

end Sys2Proof.Machine
end

