-- ==== Sys2Proof/Machine/Dispatch.lean ====
section
/-! DEFINITION. The dispatch: one arm for each constructor of `Instr`, each a direct call of its meaning. -/
namespace Sys2Proof.Machine

def exec (i : Instr) (s : State) : Host.Outcome State Fault Refusal :=
  match i with
  | .nop t h => Sys2Proof.Machine.execNop t h s
  | .stop t h => Sys2Proof.Machine.execStop t h s
  | .lift t h => Sys2Proof.Machine.execLift t h s
  | .brkpt t h => Sys2Proof.Machine.execBrkpt t h s
  | .rtns t h => Sys2Proof.Machine.execRtns t h s
  | .rtnm t h => Sys2Proof.Machine.execRtnm t h s
  | .mfs t h d ix => Sys2Proof.Machine.execMfs t h d ix s
  | .mts t h x ix => Sys2Proof.Machine.execMts t h x ix s
  | .add t h d x => Sys2Proof.Machine.execAdd t h d x s
  | .sub t h d x => Sys2Proof.Machine.execSub t h d x s
  | .and_ t h d x => Sys2Proof.Machine.execAnd t h d x s
  | .or_ t h d x => Sys2Proof.Machine.execOr t h d x s
  | .xor t h d x => Sys2Proof.Machine.execXor t h d x s
  | .shl t h d x => Sys2Proof.Machine.execShl t h d x s
  | .shr t h d x => Sys2Proof.Machine.execShr t h d x s
  | .sar t h d x => Sys2Proof.Machine.execSar t h d x s
  | .mul t h d x => Sys2Proof.Machine.execMul t h d x s
  | .cmp t h d x => Sys2Proof.Machine.execCmp t h d x s
  | .mov t h d x => Sys2Proof.Machine.execMov t h d x s
  | .addi t h d x imm => Sys2Proof.Machine.execAddi t h d x imm s
  | .andi t h d x imm => Sys2Proof.Machine.execAndi t h d x imm s
  | .cmpi t h x imm => Sys2Proof.Machine.execCmpi t h x imm s
  | .ldi t h d imm => Sys2Proof.Machine.execLdi t h d imm s
  | .mova t h ad x => Sys2Proof.Machine.execMova t h ad x s
  | .adda t h ad x => Sys2Proof.Machine.execAdda t h ad x s
  | .lai t h ad imm => Sys2Proof.Machine.execLai t h ad imm s
  | .lah t h ad imm => Sys2Proof.Machine.execLah t h ad imm s
  | .ld t h r an dsp => Sys2Proof.Machine.execLd t h r an dsp s
  | .st t h r an dsp => Sys2Proof.Machine.execSt t h r an dsp s
  | .lda t h r an dsp => Sys2Proof.Machine.execLda t h r an dsp s
  | .sta t h r an dsp => Sys2Proof.Machine.execSta t h r an dsp s
  | .zline t h an dsp => Sys2Proof.Machine.execZline t h an dsp s
  | .br t h cond po => Sys2Proof.Machine.execBr t h cond po s
  | .call t h d po => Sys2Proof.Machine.execCall t h d po s
  | .jr t h x => Sys2Proof.Machine.execJr t h x s
  | .rep t h dc po => Sys2Proof.Machine.execRep t h dc po s
  | .smov t h ad x mode sz dc => Sys2Proof.Machine.execSmov t h ad x mode sz dc s
  | .sscn t h ad dv mode sz dc => Sys2Proof.Machine.execSscn t h ad dv mode sz dc s
  | .sfil t h ad dv mode sz dc => Sys2Proof.Machine.execSfil t h ad dv mode sz dc s
  | .bput t h v a => Sys2Proof.Machine.execBput t h v a s
  | .bmov t h dst n src => Sys2Proof.Machine.execBmov t h dst n src s
  | .band t h dst n src => Sys2Proof.Machine.execBand t h dst n src s
  | .bor t h dst n src => Sys2Proof.Machine.execBor t h dst n src s
  | .bxor t h dst n src => Sys2Proof.Machine.execBxor t h dst n src s
  | .bwait t h v a => Sys2Proof.Machine.execBwait t h v a s
  | .bskp t h v a => Sys2Proof.Machine.execBskp t h v a s
  | .brd t h d sa => Sys2Proof.Machine.execBrd t h d sa s
  | .bwr t h x sa => Sys2Proof.Machine.execBwr t h x sa s
  | .vld t h vd an m ty dsp => Sys2Proof.Machine.execVld t h vd an m ty dsp s
  | .vst t h vs an m ty dsp => Sys2Proof.Machine.execVst t h vs an m ty dsp s
  | .vbc t h vd x m ty => Sys2Proof.Machine.execVbc t h vd x m ty s
  | .vext t h d va lane ty => Sys2Proof.Machine.execVext t h d va lane ty s
  | .vperm t h vd va vb m ty => Sys2Proof.Machine.execVperm t h vd va vb m ty s
  | .vsel t h vd va vb m ty => Sys2Proof.Machine.execVsel t h vd va vb m ty s
  | .vcmp t h cond va vb m ty => Sys2Proof.Machine.execVcmp t h cond va vb m ty s
  | .vcvt t h vd va se de => Sys2Proof.Machine.execVcvt t h vd va se de s
  | .vxs t h vd va dk ac m ty => Sys2Proof.Machine.execVxs t h vd va dk ac m ty s
  | .vxck t h va ac m => Sys2Proof.Machine.execVxck t h va ac m s
  | .vroute t h dt va an k ty => Sys2Proof.Machine.execVroute t h dt va an k ty s
  | .vadd t h vd va vb m ty => Sys2Proof.Machine.execVadd t h vd va vb m ty s
  | .vsub t h vd va vb m ty => Sys2Proof.Machine.execVsub t h vd va vb m ty s
  | .vmul t h vd va vb m ty => Sys2Proof.Machine.execVmul t h vd va vb m ty s
  | .vfma t h vd va vb m ty => Sys2Proof.Machine.execVfma t h vd va vb m ty s
  | .vmax t h vd va vb m ty => Sys2Proof.Machine.execVmax t h vd va vb m ty s
  | .vmin t h vd va vb m ty => Sys2Proof.Machine.execVmin t h vd va vb m ty s
  | .vand t h vd va vb m ty => Sys2Proof.Machine.execVand t h vd va vb m ty s
  | .vor t h vd va vb m ty => Sys2Proof.Machine.execVor t h vd va vb m ty s
  | .vxor t h vd va vb m ty => Sys2Proof.Machine.execVxor t h vd va vb m ty s
  | .vrsum t h vd va m ty => Sys2Proof.Machine.execVrsum t h vd va m ty s
  | .vrmax t h vd va m ty => Sys2Proof.Machine.execVrmax t h vd va m ty s
  | .vexp t h vd va m ty => Sys2Proof.Machine.execVexp t h vd va m ty s
  | .vrcp t h vd va m ty => Sys2Proof.Machine.execVrcp t h vd va m ty s
  | .tcfg t h k sh => Sys2Proof.Machine.execTcfg t h k sh s
  | .tld t h k an x => Sys2Proof.Machine.execTld t h k an x s
  | .tst t h k an x => Sys2Proof.Machine.execTst t h k an x s
  | .tzero t h k => Sys2Proof.Machine.execTzero t h k s
  | .tfree t h k => Sys2Proof.Machine.execTfree t h k s
  | .tmov t h d x => Sys2Proof.Machine.execTmov t h d x s
  | .trdv t h vd k row => Sys2Proof.Machine.execTrdv t h vd k row s
  | .twrv t h k vs row => Sys2Proof.Machine.execTwrv t h k vs row s
  | .ttrn t h d x => Sys2Proof.Machine.execTtrn t h d x s
  | .tcvt t h d x ec => Sys2Proof.Machine.execTcvt t h d x ec s
  | .tskip t h dk v a => Sys2Proof.Machine.execTskip t h dk v a s
  | .mscl t h k role => Sys2Proof.Machine.execMscl t h k role s
  | .mma t h c a b sp tm mt => Sys2Proof.Machine.execMma t h c a b sp tm mt s
  | .mmaz t h c a b sp tm mt => Sys2Proof.Machine.execMmaz t h c a b sp tm mt s
  | .mmas t h c a b sp mt sa => Sys2Proof.Machine.execMmas t h c a b sp mt sa s
  | .mwait t h k => Sys2Proof.Machine.execMwait t h k s
  | .qput t h x => Sys2Proof.Machine.execQput t h x s
  | .qcmt t h dt dh => Sys2Proof.Machine.execQcmt t h dt dh s
  | .qmcst t h dt dg => Sys2Proof.Machine.execQmcst t h dt dg s
  | .qrick t h dt dh => Sys2Proof.Machine.execQrick t h dt dh s
  | .qrd t h vd q => Sys2Proof.Machine.execQrd t h vd q s
  | .qtry t h vd q => Sys2Proof.Machine.execQtry t h vd q s
  | .qdrop t h q => Sys2Proof.Machine.execQdrop t h q s
  | .qclose t h q => Sys2Proof.Machine.execQclose t h q s
  | .qarm t h dc dt q => Sys2Proof.Machine.execQarm t h dc dt q s
  | .rel t h scope => Sys2Proof.Machine.execRel t h scope s
  | .acq t h scope => Sys2Proof.Machine.execAcq t h scope s
  | .ceput t h an => Sys2Proof.Machine.execCeput t h an s
  | .ceres t h => Sys2Proof.Machine.execCeres t h s
  | .ceqry t h d => Sys2Proof.Machine.execCeqry t h d s
  | .reservedEncoding t h w => Sys2Proof.Machine.execReservedEncoding t h w s
  | .asyncEventTaken t h => Sys2Proof.Machine.execAsyncEventTaken t h s
  | .timer t h => Sys2Proof.Machine.execTimer t h s
  | .blockedWake t h => Sys2Proof.Machine.execBlockedWake t h s
  | .loadDataArrival t h => Sys2Proof.Machine.execLoadDataArrival t h s
  | .vectorResult t h vd => Sys2Proof.Machine.execVectorResult t h vd s
  | .storeAck t ix => Sys2Proof.Machine.execStoreAck t ix s
  | .storeRefusal t ix => Sys2Proof.Machine.execStoreRefusal t ix s
  | .sectorFill t id => Sys2Proof.Machine.execSectorFill t id s
  | .translationWalk t h ecc => Sys2Proof.Machine.execTranslationWalk t h ecc s
  | .matrixStart t => Sys2Proof.Machine.execMatrixStart t s
  | .matrixCommit t => Sys2Proof.Machine.execMatrixCommit t s
  | .cordGrant t => Sys2Proof.Machine.execCordGrant t s
  | .threadStart src t h => Sys2Proof.Machine.execThreadStart src t h s
  | .threadStop src t h => Sys2Proof.Machine.execThreadStop src t h s
  | .threadHalt src t h => Sys2Proof.Machine.execThreadHalt src t h s
  | .threadUnhalt src t h => Sys2Proof.Machine.execThreadUnhalt src t h s
  | .sws src t h => Sys2Proof.Machine.execSws src t h s
  | .swm src t h => Sys2Proof.Machine.execSwm src t h s
  | .step src t h => Sys2Proof.Machine.execStep src t h s
  | .haltall src t => Sys2Proof.Machine.execHaltall src t s
  | .inv src t => Sys2Proof.Machine.execInv src t s
  | .csizeWrite src t v => Sys2Proof.Machine.execCsizeWrite src t v s
  | .messageArrival id => Sys2Proof.Machine.execMessageArrival id s
  | .waitingMessagePlaced t q => Sys2Proof.Machine.execWaitingMessagePlaced t q s
  | .rickContributionArrival id => Sys2Proof.Machine.execRickContributionArrival id s
  | .routerCombine r id other => Sys2Proof.Machine.execRouterCombine r id other s
  | .rickHoldExpiry r id => Sys2Proof.Machine.execRickHoldExpiry r id s
  | .creditRequestArrival id => Sys2Proof.Machine.execCreditRequestArrival id s
  | .heldRequestGrant t q => Sys2Proof.Machine.execHeldRequestGrant t q s
  | .grantArrival id => Sys2Proof.Machine.execGrantArrival id s
  | .creditReturnArrival id => Sys2Proof.Machine.execCreditReturnArrival id s
  | .creditIdleReturn u e => Sys2Proof.Machine.execCreditIdleReturn u e s
  | .flush src t => Sys2Proof.Machine.execFlush src t s
  | .responseArrival id => Sys2Proof.Machine.execResponseArrival id s
  | .queueEnable src t q w => Sys2Proof.Machine.execQueueEnable src t q w s
  | .queueDisable src t q => Sys2Proof.Machine.execQueueDisable src t q s
  | .reassign src t q => Sys2Proof.Machine.execReassign src t q s
  | .close src t q => Sys2Proof.Machine.execClose src t q s
  | .disarm src t q => Sys2Proof.Machine.execDisarm src t q s
  | .descriptorStart e => Sys2Proof.Machine.execDescriptorStart e s
  | .chunkStart e ecc => Sys2Proof.Machine.execChunkStart e ecc s
  | .chunkFinish e ecc => Sys2Proof.Machine.execChunkFinish e ecc s
  | .completionMessageSend e => Sys2Proof.Machine.execCompletionMessageSend e s
  | .lateError e cause va side moved ecc => Sys2Proof.Machine.execLateError e cause va side moved ecc s
  | .pause src t => Sys2Proof.Machine.execPause src t s
  | .go src t => Sys2Proof.Machine.execGo src t s
  | .resume src t => Sys2Proof.Machine.execResume src t s
  | .abort src t => Sys2Proof.Machine.execAbort src t s
  | .winv src c vpn f all => Sys2Proof.Machine.execWinv src c vpn f all s
  | .winvDone c => Sys2Proof.Machine.execWinvDone c s
  | .sweep src c f cksel => Sys2Proof.Machine.execSweep src c f cksel s
  | .sweepDone c => Sys2Proof.Machine.execSweepDone c s
  | .inboundWindowRequest rq => Sys2Proof.Machine.execInboundWindowRequest rq s
  | .inboundWrite t ecc => Sys2Proof.Machine.execInboundWrite t ecc s
  | .remoteAccessArrival id ecc => Sys2Proof.Machine.execRemoteAccessArrival id ecc s
  | .lmemZeroDone t => Sys2Proof.Machine.execLmemZeroDone t s
  | .sliceRequest id ecc => Sys2Proof.Machine.execSliceRequest id ecc s
  | .addI32 src f pa mask x ecc => Sys2Proof.Machine.execAddI32 src f pa mask x ecc s
  | .addF32 src f pa mask x ecc => Sys2Proof.Machine.execAddF32 src f pa mask x ecc s
  | .addXs src f cksel pa mask x ecc => Sys2Proof.Machine.execAddXs src f cksel pa mask x ecc s
  | .ckadd f cksel pa claim => Sys2Proof.Machine.execCkadd f cksel pa claim s
  | .ckrd f cksel pa => Sys2Proof.Machine.execCkrd f cksel pa s
  | .cxlCompletion e ok => Sys2Proof.Machine.execCxlCompletion e ok s
  | .cxlLinkDown l => Sys2Proof.Machine.execCxlLinkDown l s
  | .csrAccessComplete id => Sys2Proof.Machine.execCsrAccessComplete id s
  | .dieLinkFrame l up slots carries noise => Sys2Proof.Machine.execDieLinkFrame l up slots carries noise s
  | .dieLinkReplay l up => Sys2Proof.Machine.execDieLinkReplay l up s
  | .dieLinkRetrain l => Sys2Proof.Machine.execDieLinkRetrain l s
  | .dieLinkRetrainEnd l ok => Sys2Proof.Machine.execDieLinkRetrainEnd l ok s
  | .machineCheck mc => Sys2Proof.Machine.execMachineCheck mc s
  | .censusStart f => Sys2Proof.Machine.execCensusStart f s
  | .censusProbe f => Sys2Proof.Machine.execCensusProbe f s
  | .censusReport f => Sys2Proof.Machine.execCensusReport f s
  | .tlFrame p fec bytes ecc => Sys2Proof.Machine.execTlFrame p fec bytes ecc s
  | .nak p sq => Sys2Proof.Machine.execNak p sq s
  | .assign p dev peer => Sys2Proof.Machine.execAssign p dev peer s
  | .retrain p => Sys2Proof.Machine.execRetrain p s
  | .tlRetrainEnd p ok => Sys2Proof.Machine.execTlRetrainEnd p ok s
  | .doorbell p f tail head => Sys2Proof.Machine.execDoorbell p f tail head s
  | .cfgwr p f off w => Sys2Proof.Machine.execCfgwr p f off w s
  | .cfgrd p f off => Sys2Proof.Machine.execCfgrd p f off s
  | .wr p rq => Sys2Proof.Machine.execWr p rq s
  | .acc p rq => Sys2Proof.Machine.execAcc p rq s
  | .clm p rq => Sys2Proof.Machine.execClm p rq s
  | .rsp p tag status => Sys2Proof.Machine.execRsp p tag status s
  | .rdc p tag status bytes => Sys2Proof.Machine.execRdc p tag status bytes s
  | .cmdNop f => Sys2Proof.Machine.execCmdNop f s
  | .cmdStatus f => Sys2Proof.Machine.execCmdStatus f s
  | .pmem f => Sys2Proof.Machine.execPmem f s
  | .tctl f => Sys2Proof.Machine.execTctl f s
  | .start f => Sys2Proof.Machine.execStart f s
  | .copy f => Sys2Proof.Machine.execCopy f s
  | .msg f => Sys2Proof.Machine.execMsg f s
  | .setpt f => Sys2Proof.Machine.execSetpt f s
  | .quiesce f => Sys2Proof.Machine.execQuiesce f s
  | .quiesceDone f => Sys2Proof.Machine.execQuiesceDone f s
  | .quiesceTimeout f => Sys2Proof.Machine.execQuiesceTimeout f s
  | .reset f => Sys2Proof.Machine.execReset f s
  | .fnCtlReset src f => Sys2Proof.Machine.execFnCtlReset src f s
  | .resetStopThreads f => Sys2Proof.Machine.execResetStopThreads f s
  | .resetDrainEnd f => Sys2Proof.Machine.execResetDrainEnd f s
  | .resetClear f => Sys2Proof.Machine.execResetClear f s
  | .resetEnd f => Sys2Proof.Machine.execResetEnd f s
  | .post src f w => Sys2Proof.Machine.execPost src f w s
  | .completionEntryWrite f => Sys2Proof.Machine.execCompletionEntryWrite f s
  | .ringEnable src f cq w => Sys2Proof.Machine.execRingEnable src f cq w s
  | .quadEdge ix x other => Sys2Proof.Machine.execQuadEdge ix x other s
  | .indexLatch ix n => Sys2Proof.Machine.execIndexLatch ix n s
  | .ssiFrame sdat => Sys2Proof.Machine.execSsiFrame sdat s
  | .ssiUpdate raw => Sys2Proof.Machine.execSsiUpdate raw s
  | .counterUpdate c d => Sys2Proof.Machine.execCounterUpdate c d s
  | .pulseEnd j => Sys2Proof.Machine.execPulseEnd j s
  | .positionEventSend => Sys2Proof.Machine.execPositionEventSend s
  | .counterLoad src c w => Sys2Proof.Machine.execCounterLoad src c w s
  | .eventEntryEnable src e w => Sys2Proof.Machine.execEventEntryEnable src e w s
  | .pinWrite src w => Sys2Proof.Machine.execPinWrite src w s
  | .slotWrite src ix ans w => Sys2Proof.Machine.execSlotWrite src ix ans w s
  | .slotValid src ix => Sys2Proof.Machine.execSlotValid src ix s
  | .slotFree src ix => Sys2Proof.Machine.execSlotFree src ix s
  | .query bytes => Sys2Proof.Machine.execQuery bytes s
  | .ping bytes => Sys2Proof.Machine.execPing bytes s
  | .otherOp bytes => Sys2Proof.Machine.execOtherOp bytes s
  | .badFrame framing bytes => Sys2Proof.Machine.execBadFrame framing bytes s
  | .answerStart => Sys2Proof.Machine.execAnswerStart s
  | .coldStart => Sys2Proof.Machine.execColdStart s
  | .identity sfdp0 sfdp1 puf => Sys2Proof.Machine.execIdentity sfdp0 sfdp1 puf s
  | .fabricPhase ok => Sys2Proof.Machine.execFabricPhase ok s
  | .hbmPhase ok => Sys2Proof.Machine.execHbmPhase ok s
  | .imageRead dev answers => Sys2Proof.Machine.execImageRead dev answers s
  | .imageApply cxl => Sys2Proof.Machine.execImageApply cxl s
  | .release => Sys2Proof.Machine.execRelease s
  | .heldAccessRelease => Sys2Proof.Machine.execHeldAccessRelease s
  | .flashRead src dev addr => Sys2Proof.Machine.execFlashRead src dev addr s
  | .flashProgram src dev addr => Sys2Proof.Machine.execFlashProgram src dev addr s
  | .flashErase src dev addr => Sys2Proof.Machine.execFlashErase src dev addr s
  | .flashCheck src dev addr answers => Sys2Proof.Machine.execFlashCheck src dev addr answers s
  | .flashOpDone timeout => Sys2Proof.Machine.execFlashOpDone timeout s
  | .attestationRequest src => Sys2Proof.Machine.execAttestationRequest src s
  | .reportSigned sig => Sys2Proof.Machine.execReportSigned sig s
  | .halfSwitchOff c south => Sys2Proof.Machine.execHalfSwitchOff c south s
  | .memifSwitchOff c => Sys2Proof.Machine.execMemifSwitchOff c s
  | .domainWake d => Sys2Proof.Machine.execDomainWake d s
  | .domainOn d => Sys2Proof.Machine.execDomainOn d s
  | .kiln1SwitchOff windows => Sys2Proof.Machine.execKiln1SwitchOff windows s
  | .kiln1SwitchOn loads => Sys2Proof.Machine.execKiln1SwitchOn loads s
  | .kilnRouteChange => Sys2Proof.Machine.execKilnRouteChange s
  | .sag c => Sys2Proof.Machine.execSag c s
  | .sagPersist c => Sys2Proof.Machine.execSagPersist c s
  | .cleanStepUp c => Sys2Proof.Machine.execCleanStepUp c s
  | .temperatureRead dies stk => Sys2Proof.Machine.execTemperatureRead dies stk s
  | .thermalPeriod => Sys2Proof.Machine.execThermalPeriod s
  | .coldrstAssert => Sys2Proof.Machine.execColdrstAssert s
  | .railFault rail => Sys2Proof.Machine.execRailFault rail s
  | .csraddr x => Sys2Proof.Machine.execCsraddr x s
  | .csrdata x => Sys2Proof.Machine.execCsrdata x s
  | .idcode => Sys2Proof.Machine.execIdcode s
  | .bypass => Sys2Proof.Machine.execBypass s
  | .samplePreload bits => Sys2Proof.Machine.execSamplePreload bits s
  | .extest => Sys2Proof.Machine.execExtest s
  | .csrRead x => Sys2Proof.Machine.execCsrRead x s
  | .csrWrite x => Sys2Proof.Machine.execCsrWrite x s
  | .sidebandStatus x => Sys2Proof.Machine.execSidebandStatus x s
  | .dynamicAddress a => Sys2Proof.Machine.execDynamicAddress a s
  | .registerWrite src pa width x => Sys2Proof.Machine.execRegisterWrite src pa width x s
  | .ladeRelease => Sys2Proof.Machine.execLadeRelease s
  | .switchOffSequenceEnd d => Sys2Proof.Machine.execSwitchOffSequenceEnd d s
  | .railOff rail => Sys2Proof.Machine.execRailOff rail s
  | .stackScrub pa ecc => Sys2Proof.Machine.execStackScrub pa ecc s

end Sys2Proof.Machine
end

