-- ==== Sys2Proof/Machine/Step.lean ====
section
/-! DEFINITION. The step: the command at the front of the queue is performed with the queue's rest; on an empty queue
one Husk cycle passes. -/
namespace Sys2Proof.Machine

/-- One step of the part. With no command waiting, one cycle of the 3.6 GHz Husk clock passes (R21, R29, R427). -/
def step (s : State) : Host.Outcome State Fault Refusal :=
  match s.pending with
  | [] => .next (s.elapse 1)
  | c :: r => exec c { s with pending := r }

/-- `s` with the command that a table word spells at the front of its queue. -/
def State.withFetchWord (s : State) (nbits w : Nat) : State :=
  match decodeTableWord nbits w with
  | some c => { s with pending := c :: s.pending }
  | none => s

end Sys2Proof.Machine
end

