-- ==== Sys2Proof/Safety.lean ====
section
/-! DEFINITION. What counts as a safe run, and the terms that the statements use: when a thread's instruction issues,
and what an instruction's completion leaves unchanged. -/
namespace Sys2Proof.Safety

open Sys2Proof.Machine

/-- The outcome is a next state. -/
def Completes (o : Host.Outcome State Fault Refusal) : Prop := ∃ u, o = .next u

/-- Every byte memory of the part is in its canonical form. -/
def MemoriesWf (s : State) : Prop := Memory.wf s.hbm = true ∧ Memory.wf s.cxl = true

/-- The slot of thread `h` issues an instruction of `len` words: the tile's domain is on and its local memory zeroed
(R178), no stall is active (R30), the rotation stands at the thread's slot and nothing has issued in it (R24, R25), the thread
is RUNNING (R35) with no load late, no event wins the slot (R359, R360) and the fetched words have good parity (R47). -/
def Ready (s : State) (t : TileId) (h : Thr) (len : Nat) : Prop :=
  s.tileOn t = true ∧ (s.tile t).zeroed = true ∧ (s.tile t).causes = 0 ∧ s.rot t % 4 = h.toNat ∧
    (s.tile t).slotUsed = false ∧ (s.th t h).run = .running ∧
    (s.th t h).wait = none ∧ s.asyncDue t h = none ∧ (s.tile t).badWord (s.th t h).pc len = false

/-- A tile without its threads and without what every issue counts: the event counters (R522), the quiet count (R370) and that
the slot is spent (R25). -/
def still (tl : Tile) : Tile := { tl with thr := [], pmc := [], quietCnt := 0, quietAct := 0, slotUsed := false }

/-- Nothing outside tile `t` has changed. -/
def OnlyTile (s u : State) (t : TileId) : Prop :=
  u = { s with tiles := u.tiles } ∧ ∀ r, r ≠ t → u.tile r = s.tile r

/-- `i` completes on thread `h` of tile `t`. The thread becomes `y` as the end of a slot leaves it (R521), the tile's
other blocks become those of `tl`, its other threads those of `tl`, and nothing else changes but the counters of
`still`. -/
def RetiresAs (i : Instr) (s : State) (t : TileId) (h : Thr) (tl : Tile) (y : Thread) : Prop :=
  ∃ u, exec i s = .next u ∧ OnlyTile s u t ∧ u.th t h = y.slotEnd s.debug (s.th t h).st.ss ∧
    (∀ k, k ≠ h → u.th t k = tl.th k) ∧ still (u.tile t) = still tl

/-- `i` completes on thread `h` of tile `t` and changes nothing but that thread, which becomes `y`, and the counters
of `still`. -/
def Retires (i : Instr) (s : State) (t : TileId) (h : Thr) (y : Thread) : Prop := RetiresAs i s t h (s.tile t) y

/-- The status with the Z and N of a 32-bit result (R97). -/
def withZN (x : Status) (r : Word) : Status := { x with z := r == 0, n := r.msb }

/-- The thread after an instruction of `len` words that gives it `y` and goes on to the next address (R119). -/
def onward (y : Thread) (len : Nat) : Thread :=
  if y.st.rep ∧ y.pc + BitVec.ofNat 14 len = y.rend then
    if 1 < y.rcnt.toNat then { y with rcnt := y.rcnt - 1, pc := y.rstart }
    else { y with rcnt := 0, st := { y.st with rep := false }, pc := y.rend }
  else { y with pc := y.pc + BitVec.ofNat 14 len }

/-- The thread after a taken branch to `p` (R120): a repeat goes on only when `p` lies in its body. -/
def branched (y : Thread) (p : PWord) : Thread :=
  { y with pc := p, st := { y.st with rep := y.st.rep && decide ((p - y.rstart).toNat < (y.rend - y.rstart).toNat) } }

/-- Where an exception is taken: at M when `toM`, else at S, through which vector base (R354, R356). -/
def vectorOf (tl : Tile) (toM : Bool) (cause : BitVec 5) : PWord := (if toM then tl.mvbase else tl.svbase) + cause.setWidth 14

/-- Thread `h` as taking an exception leaves it (R356): PC and status saved, the record written, the level and the
interrupt, single-step and repeat bits set, the handler's address loaded. -/
def entered (tl : Tile) (h : Thr) (toM : Bool) (cause : BitVec 5) (ret : PWord) (detail : BitVec 4) (va : VAddr) :
    Thread :=
  let x := tl.th h
  let rec_ : Word := (0#4) ++ detail ++ (0#2) ++ x.pc ++ (0#1) ++ x.st.pl ++ cause
  let y := { x with pc := SMap.get 0 tl.pmem (vectorOf tl toM cause).toNat,
                    st := { x.st with pl := if toM then 3 else 2, ie := false, ss := false, rep := false },
                    run := .running, blk := none, moved := 0, part := [], walk := none, wait := none }
  if toM then { y with mepc := ret, mestat := statusWord h x.st, mxc := rec_, mxa := va }
  else { y with sepc := ret, sestat := statusWord h x.st, sxc := rec_, sxa := va }

/-- `i` takes an exception on thread `h` of tile `t` and changes nothing else: at S from U, else at M (R355). -/
def Takes (i : Instr) (s : State) (t : TileId) (h : Thr) (cause : BitVec 5) (ret : PWord) (detail : BitVec 4)
    (va : VAddr) : Prop :=
  Retires i s t h (entered (s.tile t) h (decide ((s.th t h).st.pl ≠ 1)) cause ret detail va)

/-- The words of the two vector tables that a cause selects have good parity (R357). -/
def VectorsGood (tl : Tile) (cause : BitVec 5) : Prop :=
  ∀ toM, SMap.get false tl.pbad (vectorOf tl toM cause).toNat = false

/-- What a seed bit becomes when `v` is written to it (R49, R53): a private or shared bit takes `v`; in the status region
a sticky bit is cleared by 0 and no other bit changes. -/
def bitWritten (a : Seed) (old v : Bool) : Bool :=
  let sticky : Bool := decide (0x1F20 ≤ a.toNat ∧ a.toNat < 0x1F38 ∨ a.toNat = 0x1F41 ∨ a.toNat = 0x1F42 ∨ a.toNat = 0x1F60)
  if a.toNat < 0x1F00 then v else if sticky then old && v else old

/-- The tile's own scratchpad answers an access of `n` bytes at `a`: the address is aligned, the window places it at
`off`, and a read meets no error of local memory (R96, R177, R182). -/
def OwnRead (s : State) (t : TileId) (a : DWord) (n al off : Nat) : Prop :=
  a.toNat < 0x100000000 ∧ a.toNat % al = 0 ∧ s.resolveLocal t a.toNat n false = some (.own off) ∧
    (s.tile t).inbuf.length < 16 ∧ (s.tile t).errWords off n = []

/-- The tile's own scratchpad takes a write of `bs` at `a`: as `OwnRead`, and the read half of a partly covered word meets
no uncorrectable error (R176, R177). -/
def OwnWrite (s : State) (t : TileId) (a : DWord) (al off : Nat) (bs : List Byte) : Prop :=
  a.toNat < 0x100000000 ∧ a.toNat % al = 0 ∧ s.resolveLocal t a.toNat bs.length true = some (.own off) ∧
    (s.tile t).inbuf.length < 16 ∧ (s.tile t).writeBad off (bs.map some) = none

/-- Local memory of `tl'` is that of `tl` with `bs` from `off` upward: every other byte is unchanged. -/
def Wrote (tl tl' : Tile) (off : Nat) (bs : List Byte) : Prop :=
  ∀ b, tl'.lmem.byte b = if off ≤ b ∧ b < off + bs.length then bs.getD (b - off) 0 else tl.lmem.byte b

/-- The bytes of a word, least significant first (R4). -/
def byteList {n : Nat} (x : BitVec n) (k : Nat) : List Byte := (List.range k).map (fun i => x.extractLsb' (8 * i) 8)

/-- Elements of a string slot at pointer `a`: up to the next 64-byte boundary (R121). -/
def upTo (n : Nat) (a : DWord) : Nat := (64 - a.toNat % 64) / n

/-- The thread waits in a blocking instruction, its PC on it (R36). -/
def blockedIn (x : Thread) (b : BlockOp) : Thread := { x with run := .blocked, blk := some b }

/-- Lane `i` of `w` bits (R106). -/
def laneOf (w : Nat) (v : VWord) (i : Nat) : BitVec w := v.extractLsb' (w * i) w

/-- Lane or element `i` is active under the mask at seed address `base`; without a mask every lane is (R69, R106). -/
def laneOn (tl : Tile) (h : Thr) (base : Option Seed) (i : Nat) : Bool :=
  match base with
  | none => true
  | some a => tl.seed h (a + BitVec.ofNat 13 i)

/-- The thread with a result for vector register `r` under way (R107), gone on past `len` words. -/
def vectorDone (x : Thread) (r : Reg) (v : VWord) (len : Nat) : Thread := onward { x with vpend := x.vpend ++ [(r, v)] } len

/-- No result is under way for a register of the list (R107): no stall of cause 6. -/
def Landed (x : Thread) (rs : List Reg) : Prop := ∀ p ∈ x.vpend, p.1 ∉ rs

/-- Bytes `o` to `o + n - 1` of a tile register, as a number. -/
def tileBytes (r : TileReg) (o n : Nat) : BitVec (8 * n) := r.bytes.extractLsb' (8 * o) (8 * n)

/-- The 32-bit element (i, j) of a tile register (R133). -/
def tileElem (r : TileReg) (i j : Nat) : Word := r.bytes.extractLsb' (8 * (i * r.len + 4 * j)) 32

/-- A source may write the CT_, QT_ and CE_ registers of tile `t`, and the tile can take the write: the part runs, the
tile's domain is on with its local memory zeroed, and a thread that writes is at M, or at S of the tile's own function
(R8, R9, R55, R488). -/
def TileWriter (s : State) (src : Src) (t : TileId) : Prop :=
  s.alive = true ∧ s.tileOn t = true ∧ (s.tile t).zeroed = true ∧
    match src with
    | .thread u h => (s.th u h).st.pl = 3 ∨
        (s.th u h).st.pl = 2 ∧ ∃ f, (s.tile u).func = some f ∧ (s.tile t).func = some f
    | _ => True

/-- Nothing of tile `t` but thread `h` has changed, and nothing outside the tile. -/
def OnlyThread (s u : State) (t : TileId) (h : Thr) : Prop :=
  OnlyTile s u t ∧ still (u.tile t) = still (s.tile t) ∧ ∀ k, k ≠ h → u.th t k = s.th t k

/-- Nothing outside queue `q` of tile `t` and the networks has changed but the numbering of packets, the event counters and
local memory's error records. -/
def OnlyQueue (s u : State) (t : TileId) (q : QIx) : Prop :=
  u = { s with tiles := u.tiles, net := u.net, nextId := u.nextId } ∧ (∀ r, r ≠ t → u.tile r = s.tile r) ∧
    (∀ k, u.th t k = s.th t k) ∧ ∀ r, r ≠ q → (u.tile t).queue r = (s.tile t).queue r

/-- Packet `k` has left on port `q` between `s` and `u`: among the frames begun there are data frames that carry its header and
payload, with the part's device ID as its source (R433, R436). -/
def Leaves (s u : State) (q : PortNo) (k : TxPkt) : Prop :=
  let b := [k.type, k.func.setWidth 8] ++ byteList (BitVec.ofNat 16 k.len) 2 ++ byteList s.devid 2 ++ byteList k.dst 2 ++
    byteList k.tag 2 ++ [k.status, k.attr] ++ byteList k.addr 8 ++ List.replicate 4 0 ++ k.data
  ∃ early new late : List TxFrame, (u.port q).wire = late ++ new.reverse ++ early ++ (s.port q).wire ∧
    (∀ fr ∈ new, fr.kind = 0) ∧ new.length = (b.length + 239) / 240 ∧
    (new.flatMap (fun fr => fr.payload)).take b.length = b

/-- Port `q` can send at once: nothing waits for credit of virtual channel `c`, that many units of it are free, and the replay
buffer has room (R434, R437). -/
def PortRoom (s : State) (q : PortNo) (c units : Nat) : Prop :=
  SMap.get [] (s.port q).vcq c = [] ∧ SMap.get 0 (s.port q).used c + units ≤ 512 ∧ (s.port q).buf.length ≤ 2000

end Sys2Proof.Safety
end

