-- ==== Sys2Proof/Certificates/Slice0/Obligations.lean ====
section
/-! DEFINITION. The statements of this slice, one `def Obligations.<Name> : Prop` each. -/
open Sys2Proof Sys2Proof.Machine Sys2Proof.Safety

/-! ## Tile instructions -/

/-- R97: every integer instruction completes with the result and the flags of the table, and changes nothing else. The
shifts follow R98, the immediates R74. -/
def Obligations.IntegerInstructions : Prop :=
  ∀ (s : State) (t : TileId) (h : Thr) (d r : Reg) (imm : BitVec 14) (w : Word),
    let x := s.th t h
    let a := x.getD d
    let b := x.getD r
    let i : Word := imm.signExtend 32
    let add (p q : Word) : Status := { withZN x.st (p + q) with c := BitVec.carry 32 p q false, v := p.saddOverflow q }
    let sub (p q : Word) : Status := { withZN x.st (p - q) with c := decide (q ≤ p), v := p.ssubOverflow q }
    let out (v : Word) (st : Status) (len : Nat) : Thread := onward { x.setD d v with st := st } len
    (Ready s t h 1 →
      Retires (.add t h d r) s t h (out (a + b) (add a b) 1) ∧
      Retires (.sub t h d r) s t h (out (a - b) (sub a b) 1) ∧
      Retires (.cmp t h d r) s t h (onward { x with st := sub a b } 1) ∧
      Retires (.and_ t h d r) s t h (out (a &&& b) (withZN x.st (a &&& b)) 1) ∧
      Retires (.or_ t h d r) s t h (out (a ||| b) (withZN x.st (a ||| b)) 1) ∧
      Retires (.xor t h d r) s t h (out (a ^^^ b) (withZN x.st (a ^^^ b)) 1) ∧
      Retires (.shl t h d r) s t h (out (a <<< b.toNat) { withZN x.st (a <<< b.toNat) with
        c := if b.toNat = 0 then x.st.c else if b.toNat ≤ 32 then a.getLsbD (32 - b.toNat) else false } 1) ∧
      Retires (.shr t h d r) s t h (out (a >>> b.toNat) { withZN x.st (a >>> b.toNat) with
        c := if b.toNat = 0 then x.st.c else if b.toNat ≤ 32 then a.getLsbD (b.toNat - 1) else false } 1) ∧
      Retires (.sar t h d r) s t h (out (a.sshiftRight b.toNat) { withZN x.st (a.sshiftRight b.toNat) with
        c := if b.toNat = 0 then x.st.c else if b.toNat ≤ 32 then a.getLsbD (b.toNat - 1) else a.msb } 1) ∧
      Retires (.mul t h d r) s t h (out (a * b) { withZN x.st (a * b) with v := a.smulOverflow b } 1) ∧
      Retires (.mov t h d r) s t h (out b x.st 1)) ∧
    (Ready s t h 2 →
      Retires (.addi t h d r imm) s t h (out (b + i) (add b i) 2) ∧
      Retires (.andi t h d r imm) s t h (out (b &&& i) (withZN x.st (b &&& i)) 2) ∧
      Retires (.cmpi t h r imm) s t h (onward { x with st := sub b i } 2)) ∧
    (Ready s t h 3 → Retires (.ldi t h d w) s t h (out w x.st 3))

/-- R43, R75: the address instructions write their A register, 64 bits wide, and change neither flags nor anything else.
R45, R85, R86, R117: MFS reads, and MTS writes, every special register at a level that may reach it. -/
def Obligations.AddressAndSpecialRegisters : Prop :=
  (∀ (s : State) (t : TileId) (h : Thr) (ad r : Reg) (lo : BitVec 28) (hi : BitVec 20),
    let x := s.th t h
    (Ready s t h 1 →
      Retires (.mova t h ad r) s t h (onward (x.setA ad (x.getA r)) 1) ∧
      Retires (.adda t h ad r) s t h (onward (x.setA ad (x.getA ad + (x.getD r).signExtend 64)) 1)) ∧
    (Ready s t h 3 →
      Retires (.lai t h ad lo) s t h (onward (x.setA ad (lo.zeroExtend 64)) 3) ∧
      Retires (.lah t h ad hi) s t h
        (onward (x.setA ad ((hi.zeroExtend 64 <<< 28) ||| (x.getA ad &&& 0xFFFFFFF#64))) 3))) ∧
  (∀ (s : State) (t : TileId) (h : Thr) (d r : Reg) (ix : BitVec 8),
    let x := s.th t h
    let tl := s.tile t
    let w := x.getD r
    let value : Word :=
      if ix = 0x00 then statusWord h x.st else if ix = 0x01 then (0#12) ++ t ++ (1#8)
      else if ix = 0x02 then x.sepc.setWidth 32 else if ix = 0x03 then x.sestat
      else if ix = 0x04 then tl.svbase.setWidth 32 else if ix = 0x05 then x.mepc.setWidth 32
      else if ix = 0x06 then x.mestat else if ix = 0x07 then tl.mvbase.setWidth 32
      else if ix = 0x10 then x.rcnt else if ix = 0x11 then x.rstart.setWidth 32 else x.rend.setWidth 32
    let written : Thread :=
      if ix = 0x00 then { x with st := { x.st with
          z := w.getLsbD 4, n := w.getLsbD 5, c := w.getLsbD 6, v := w.getLsbD 7
          ie := if x.st.pl = 1 then x.st.ie else w.getLsbD 2
          ss := if x.st.pl = 1 then x.st.ss else w.getLsbD 3 } }
      else if ix = 0x02 then { x with sepc := w.setWidth 14 } else if ix = 0x03 then { x with sestat := w }
      else if ix = 0x05 then { x with mepc := w.setWidth 14 } else if ix = 0x06 then { x with mestat := w }
      else if ix = 0x10 then { x with rcnt := w } else if ix = 0x11 then { x with rstart := w.setWidth 14 }
      else if ix = 0x12 then { x with rend := w.setWidth 14 } else x
    let level : BitVec 2 := if 2 ≤ ix.toNat ∧ ix.toNat ≤ 4 then 2 else if 5 ≤ ix.toNat ∧ ix.toNat ≤ 7 then 3 else 1
    Ready s t h 2 → (ix.toNat ≤ 7 ∨ 0x10 ≤ ix.toNat ∧ ix.toNat ≤ 0x12) → level ≤ x.st.pl →
      Retires (.mfs t h d ix) s t h (onward (x.setD d value) 2) ∧
      ((s.debug = false ∨ x.st.rep = false ∨ ix.toNat < 0x10) → Retires (.mts t h r ix) s t h (onward written 2)))

/-- R70, R104, R119, R120: NOP, BR, CALL and JR move the PC, end or continue a block repeat, and leave the flags; CALL
links in Dd. -/
def Obligations.BranchInstructions : Prop :=
  ∀ (s : State) (t : TileId) (h : Thr) (d r : Reg) (c : BrCond) (po : BitVec 14),
    let x := s.th t h
    let taken : Bool := match c with
      | .al => true
      | .eq => x.st.z
      | .ne => !x.st.z
      | .lt => x.st.n ^^ x.st.v
      | .ge => !(x.st.n ^^ x.st.v)
      | .cs => x.st.c
      | .cc => !x.st.c
      | .vs => x.st.v
    (Ready s t h 1 →
      Retires (.nop t h) s t h (onward x 1) ∧
      Retires (.jr t h r) s t h (branched x ((x.getD r).setWidth 14))) ∧
    (Ready s t h 2 →
      Retires (.br t h c po) s t h (if taken then branched x (x.pc + po) else onward x 2) ∧
      Retires (.call t h d po) s t h (branched (x.setD d ((x.pc + 2).zeroExtend 32)) (x.pc + po)))

/-- R118: REP within a repeat, or with an offset of 0 or 1, takes an Illegal Operand and changes nothing else; otherwise
it runs no body, or begins one. Dc is never changed. -/
def Obligations.BlockRepeat : Prop :=
  ∀ (s : State) (t : TileId) (h : Thr) (dc : Reg) (po : BitVec 14),
    let x := s.th t h
    Ready s t h 2 →
      (x.st.rep = false → po ≠ 0 → po ≠ 1 → Retires (.rep t h dc po) s t h
        (if x.getD dc = 0 ∨ po - 2 = 0 then { x with rcnt := 0, pc := x.pc + po }
         else { x with rcnt := x.getD dc, rstart := x.pc + 2, rend := x.pc + po, st := { x.st with rep := true },
                       pc := x.pc + 2 })) ∧
      (VectorsGood (s.tile t) 4 → (x.st.rep = true ∨ po = 0 ∨ po = 1) → Takes (.rep t h dc po) s t h 4 x.pc 0 0)

/-- R39, R104: STOP stops its thread at the next word, even at the end of a repeat; the three stagings are discarded and
RCNT, RSTART, REND and the flags keep their values. R104, R521: in debug mode BRKPT halts its thread with the PC at
BRKPT. -/
def Obligations.ThreadStops : Prop :=
  (∀ (s : State) (t : TileId) (h : Thr), Ready s t h 1 →
    ∃ u, exec (.stop t h) s = .next u ∧ OnlyTile s u t ∧ still (u.tile t) = still (s.tile t) ∧
      (∀ k, k ≠ h → u.th t k = s.th t k) ∧
      let x := s.th t h
      let y := u.th t h
      y.run = .stopped ∧ y.pc = x.pc + 1 ∧ y.stgU.count = 0 ∧ y.stgS.count = 0 ∧ y.stgM.count = 0 ∧
        y.d = x.d ∧ y.a = x.a ∧ y.v = x.v ∧ y.st = x.st ∧ y.priv = x.priv ∧ y.rcnt = x.rcnt ∧ y.rstart = x.rstart ∧
        y.rend = x.rend ∧ y.sepc = x.sepc ∧ y.sestat = x.sestat ∧ y.mepc = x.mepc ∧ y.mestat = x.mestat) ∧
  (∀ (s : State) (t : TileId) (h : Thr), Ready s t h 1 → s.debug = true →
    ∃ u, exec (.brkpt t h) s = .next u ∧ OnlyTile s u t ∧ still (u.tile t) = still (s.tile t) ∧
      (∀ k, k ≠ h → u.th t k = s.th t k) ∧ (u.th t h).run = .halted ∧ (u.th t h).pc = (s.th t h).pc ∧
      (u.th t h).dbgCause = 4 ∧ (u.th t h).st = (s.th t h).st ∧ (u.th t h).d = (s.th t h).d)

/-- R355, R356: the traps of the control instructions. LIFT takes a System Call with the next word as its return
address; BRKPT outside debug mode a Breakpoint; MFS, MTS, RTNS and RTNM at too low a level a Privilege Violation. Each
saves the PC and the status, writes the record and loads the handler's address. R43, R55, R96, R99, R195, R374: the
address traps of the scalar accesses, in order: Address Form for an address of 2^48 or more, then, for a load at U whose
page the tile's translation cache places in register space, Privilege Violation, then Alignment, then, in the local
window, Access Violation where no region resolves the access. Each but Privilege Violation records the address. R121:
the operand traps of a string slot with elements left, before any element is touched. (Readings and choices of the model
that it rests on: assumption log 31, 90.) -/
def Obligations.CoreTraps : Prop :=
  (∀ (s : State) (t : TileId) (h : Thr) (d r : Reg) (ix : BitVec 8),
    let x := s.th t h
    let tl := s.tile t
    (Ready s t h 1 → VectorsGood tl 9 → Takes (.lift t h) s t h 9 (x.pc + 1) 0 0) ∧
    (Ready s t h 1 → VectorsGood tl 10 → s.debug = false → Takes (.brkpt t h) s t h 10 x.pc 0 0) ∧
    (Ready s t h 1 → VectorsGood tl 3 → x.st.pl = 1 → Takes (.rtns t h) s t h 3 x.pc 0 0) ∧
    (Ready s t h 1 → VectorsGood tl 3 → x.st.pl ≠ 3 → Takes (.rtnm t h) s t h 3 x.pc 0 0) ∧
    (Ready s t h 2 → VectorsGood tl 3 →
      (2 ≤ ix.toNat ∧ ix.toNat ≤ 4 ∧ x.st.pl < 2 ∨ 5 ≤ ix.toNat ∧ ix.toNat ≤ 7 ∧ x.st.pl < 3) →
      Takes (.mfs t h d ix) s t h 3 x.pc 0 0 ∧ Takes (.mts t h r ix) s t h 3 x.pc 0 0)) ∧
  (∀ (s : State) (t : TileId) (h : Thr) (r an : Reg) (dsp : BitVec 14),
    let x := s.th t h
    let tl := s.tile t
    let trap (i : Instr) (n : Nat) (write : Bool) : Prop :=
      let a : DWord := x.getA an + dsp.signExtend 64 * BitVec.ofNat 64 n
      (VectorsGood tl 5 → 2 ^ 48 ≤ a.toNat → Takes i s t h 5 x.pc 0 (a.setWidth 48)) ∧
      (VectorsGood tl 3 → 0x100000000 ≤ a.toNat → a.toNat < 2 ^ 48 → x.st.pl = 1 → write = false →
        (∃ l c, tlbFind tl.tlb (tl.func.getD 0) a.toNat = some (l, c) ∧ csrBlk (l.addr a.toNat) ≠ none) →
        Takes i s t h 3 x.pc 0 0) ∧
      (VectorsGood tl 6 → a.toNat < 2 ^ 48 → a.toNat % n ≠ 0 →
        (0x100000000 ≤ a.toNat → x.st.pl = 1 → write = false → s.uCsr t h a.toNat false = false) →
        Takes i s t h 6 x.pc 0 (a.setWidth 48)) ∧
      (VectorsGood tl 8 → a.toNat < 0x100000000 → a.toNat % n = 0 → s.resolveLocal t a.toNat n write = none →
        Takes i s t h 8 x.pc 0 (a.setWidth 48))
    Ready s t h 2 →
      trap (.ld t h r an dsp) 4 false ∧ trap (.lda t h r an dsp) 8 false ∧ trap (.st t h r an dsp) 4 true ∧
      trap (.sta t h r an dsp) 8 true ∧ trap (.zline t h an dsp) 256 true) ∧
  (∀ (s : State) (t : TileId) (h : Thr) (ad r dc : Reg) (mode : Bool) (sz : ESize),
    let x := s.th t h
    let tl := s.tile t
    Ready s t h 2 → x.getD dc ≠ 0 →
      (VectorsGood tl 4 → Takes (.smov t h ad ad false sz dc) s t h 4 x.pc 0 0 ∧
        Takes (.sfil t h ad dc false sz dc) s t h 4 x.pc 0 0 ∧ Takes (.sscn t h ad dc mode sz dc) s t h 4 x.pc 0 0) ∧
      (VectorsGood tl 5 → 2 ^ 48 ≤ (x.getA ad).toNat →
        (ad ≠ r → Takes (.smov t h ad r false sz dc) s t h 5 x.pc 0 ((x.getA ad).setWidth 48)) ∧
        (dc ≠ r → Takes (.sfil t h ad r false sz dc) s t h 5 x.pc 0 ((x.getA ad).setWidth 48) ∧
          Takes (.sscn t h ad r mode sz dc) s t h 5 x.pc 0 ((x.getA ad).setWidth 48))))

/-- R362, R363, R368: RTNS and RTNM return through the saved PC and status, which they leave; a saved level that the
return may not reach takes an Illegal Return at M, and an RTNM then writes neither MEPC nor MESTAT; in the handling
thread of a failed function RTNM stops the thread instead. -/
def Obligations.Returns : Prop :=
  ∀ (s : State) (t : TileId) (h : Thr),
    let x := s.th t h
    let back (w : Word) : Status :=
      { pl := w.extractLsb' 0 2, ie := w.getLsbD 2, ss := w.getLsbD 3, z := w.getLsbD 4, n := w.getLsbD 5,
        c := w.getLsbD 6, v := w.getLsbD 7, rep := w.getLsbD 8 }
    let sp := (back x.sestat).pl
    let mp := (back x.mestat).pl
    let handling : Prop := ∃ f, (s.tile t).func = some f ∧ (s.func f).st = .failed ∧ (s.func f).handler = some (t, h)
    Ready s t h 1 →
      (2 ≤ x.st.pl → sp ≠ 0 → (sp = 3 → x.st.pl = 3) →
        Retires (.rtns t h) s t h { x with pc := x.sepc, st := back x.sestat }) ∧
      (x.st.pl = 3 → ¬handling → mp ≠ 0 → Retires (.rtnm t h) s t h { x with pc := x.mepc, st := back x.mestat }) ∧
      (VectorsGood (s.tile t) 1 → 2 ≤ x.st.pl → (sp = 0 ∨ sp = 3 ∧ x.st.pl = 2) →
        Retires (.rtns t h) s t h (entered (s.tile t) h true 1 x.pc (0#2 ++ sp) 0)) ∧
      (VectorsGood (s.tile t) 1 → x.st.pl = 3 → ¬handling → mp = 0 →
        Retires (.rtnm t h) s t h
          { entered (s.tile t) h true 1 x.pc 4 0 with mepc := x.mepc, mestat := x.mestat }) ∧
      (x.st.pl = 3 → handling → ∃ u, exec (.rtnm t h) s = .next u ∧ (u.th t h).run = .stopped)

/-- R49, R51, R53: a write of one seed bit by thread `h` changes that bit by the rule of its region and no other bit, as
thread `h` or any other thread sees it. R84, R105, R158: every seed-bit instruction completes with its effect on the
bits and on Dd. BWAIT blocks while the bit has not the awaited value; BSKP and TSKIP pass over one instruction, of the
length its cell fixes, when it has. -/
def Obligations.SeedBits : Prop :=
  (∀ (tl : Tile) (h k : Thr) (a b : Seed) (v : Bool),
    ((tl.setSeed h a v).seed h b = if b = a then bitWritten a (tl.seed h a) v else tl.seed h b) ∧
    (k ≠ h → (tl.setSeed h a v).seed k b =
      if b = a ∧ 0x200 ≤ a.toNat then bitWritten a (tl.seed h a) v else tl.seed k b)) ∧
  (∀ (s : State) (t : TileId) (h : Thr) (d r : Reg) (a b : Seed) (v n : Bool),
    let x := s.th t h
    let tl := s.tile t
    let src := tl.seed h b ^^ n
    let skip (take : Bool) : Thread :=
      if take then onward (onward x 2) (cellLen (SMap.get 0 tl.pmem (onward x 2).pc.toNat)) else onward x 2
    let fetched (take : Bool) : Prop :=
      take → tl.badWord (onward x 2).pc (cellLen (SMap.get 0 tl.pmem (onward x 2).pc.toNat)) = false
    let put (i : Instr) (len : Nat) (c : Bool) : Prop :=
      RetiresAs i s t h (tl.setSeed h a c) (onward ((tl.setSeed h a c).th h) len)
    (Ready s t h 2 → put (.bput t h v a) 2 v) ∧
    (Ready s t h 3 →
      put (.bmov t h a n b) 3 src ∧ put (.band t h a n b) 3 (tl.seed h a && src) ∧
      put (.bor t h a n b) 3 (tl.seed h a || src) ∧ put (.bxor t h a n b) 3 (tl.seed h a ^^ src)) ∧
    (Ready s t h 2 →
      (tl.seed h a = v → Retires (.bwait t h v a) s t h (onward x 2)) ∧
      (tl.seed h a ≠ v → ∃ u, exec (.bwait t h v a) s = .next u ∧ OnlyTile s u t ∧ still (u.tile t) = still tl ∧
        (∀ k, k ≠ h → u.th t k = s.th t k) ∧ u.th t h = blockedIn x (.bwait v a)) ∧
      (fetched (tl.seed h a == v) → Retires (.bskp t h v a) s t h (skip (tl.seed h a == v))) ∧
      (let e : Seed := a + (x.getD d).setWidth 13
       fetched (tl.seed h e == v) → Retires (.tskip t h d v a) s t h (skip (tl.seed h e == v)))) ∧
    (Ready s t h 2 → a.toNat % 32 = 0 →
      (∃ w : Word, (∀ i, i < 32 → w.getLsbD i = tl.seed h (a + BitVec.ofNat 13 i)) ∧
        Retires (.brd t h d a) s t h (onward { x.setD d w with st := withZN x.st w } 2)) ∧
      (∃ tl', RetiresAs (.bwr t h r a) s t h tl' (onward (tl'.th h) 2) ∧
        ∀ c : Seed, tl'.seed h c =
          if (c - a).toNat < 32 then bitWritten c (tl.seed h c) ((x.getD r).getLsbD (c - a).toNat) else tl.seed h c)))

/-- R99, R100: a scalar load from the own scratchpad writes the bytes at An + DSP × scale, least significant first, into
Dd or Ad, and changes nothing else. R99, R176, R195: a scalar store and ZLINE into the own scratchpad write exactly the
bytes of the register, or 256 zero bytes, at the address that the window gives; every other byte of local memory, and
all else, is unchanged but for the corrections that the read half of a partial write makes. (Readings and choices of the
model that it rests on: assumption log 36.) -/
def Obligations.ScratchpadAccesses : Prop :=
  (∀ (s : State) (t : TileId) (h : Thr) (r an : Reg) (dsp : BitVec 14) (off : Nat),
    let x := s.th t h
    let a4 := x.getA an + dsp.signExtend 64 * 4
    let a8 := x.getA an + dsp.signExtend 64 * 8
    let m := (s.tile t).lmem
    Ready s t h 2 →
      (OwnRead s t a4 4 4 off → Retires (.ld t h r an dsp) s t h
        (onward (x.setD r (m.byte (off + 3) ++ m.byte (off + 2) ++ m.byte (off + 1) ++ m.byte off)) 2)) ∧
      (OwnRead s t a8 8 8 off → Retires (.lda t h r an dsp) s t h
        (onward (x.setA r (m.byte (off + 7) ++ m.byte (off + 6) ++ m.byte (off + 5) ++ m.byte (off + 4) ++
          m.byte (off + 3) ++ m.byte (off + 2) ++ m.byte (off + 1) ++ m.byte off)) 2))) ∧
  (∀ (s : State) (t : TileId) (h : Thr) (r an : Reg) (dsp : BitVec 14) (off : Nat),
    let x := s.th t h
    let tl := s.tile t
    let at_ (k : Nat) : DWord := x.getA an + dsp.signExtend 64 * BitVec.ofNat 64 k
    let stores (i : Instr) (bs : List Byte) : Prop :=
      RetiresAs i s t h (tl.lmWrite 0 off (bs.map some)) (onward x 2) ∧ Wrote tl (tl.lmWrite 0 off (bs.map some)) off bs
    Ready s t h 2 →
      (OwnWrite s t (at_ 4) 4 off (byteList (x.getD r) 4) → stores (.st t h r an dsp) (byteList (x.getD r) 4)) ∧
      (OwnWrite s t (at_ 8) 8 off (byteList (x.getA r) 8) → stores (.sta t h r an dsp) (byteList (x.getA r) 8)) ∧
      (OwnWrite s t (at_ 256) 256 off (List.replicate 256 0) → stores (.zline t h an dsp) (List.replicate 256 0)))

/-- R100, R102: a scalar store to another tile's scratchpad, to HBM through a tile with no cache partition, or to a CSR
leaves through the store buffer: one entry and one request with the register's bytes, and no byte of any memory changes
yet. R30, R100, R101: a load from another tile's scratchpad, from HBM through a tile with no cache partition, or from a
CSR, with no store held for its bytes, sends a read request and waits for it; the thread's registers and PC stay.
(Readings and choices of the model that it rests on: assumption log 33.) -/
def Obligations.BufferedAccesses : Prop :=
  (∀ (s : State) (t : TileId) (h : Thr) (r an : Reg) (dsp : BitVec 14) (g : Target),
    let x := s.th t h
    let at_ (k : Nat) : DWord := x.getA an + dsp.signExtend 64 * BitVec.ofNat 64 k
    let leaves (i : Instr) (a : DWord) (bs : List Byte) : Prop :=
      ∃ u, exec i s = .next u ∧ u = { s with tiles := u.tiles, reqs := u.reqs, nextId := s.nextId + 1 } ∧
        (∀ q, q ≠ t → u.tile q = s.tile q) ∧ (u.tile t).lmem = (s.tile t).lmem ∧
        u.th t h = (onward { x with relScope := none } 2).slotEnd s.debug x.st.ss ∧
        (u.tile t).sbuf = (s.tile t).sbuf ++ [SBuf.mk s.nextId h x.pc (a.setWidth 48) g bs x.hold false none] ∧
        ∃ q, u.reqs = s.reqs ++ [q] ∧ q.id = s.nextId ∧ q.write = true ∧ q.dst = g ∧ q.data = bs ∧ q.tile = t ∧ q.thr = h
    Ready s t h 2 → (s.tile t).sbuf.length < 8 → (s.tile t).csize = 0 → (∀ off, g ≠ .own off) →
      (s.resolve t h (at_ 4) 4 4 true = .at g → leaves (.st t h r an dsp) (at_ 4) (byteList (x.getD r) 4)) ∧
      (s.resolve t h (at_ 8) 8 8 true = .at g → leaves (.sta t h r an dsp) (at_ 8) (byteList (x.getA r) 8))) ∧
  (∀ (s : State) (t : TileId) (h : Thr) (r an : Reg) (dsp : BitVec 14) (g : Target),
    let x := s.th t h
    let at_ (k : Nat) : DWord := x.getA an + dsp.signExtend 64 * BitVec.ofNat 64 k
    let waits (i : Instr) (a : DWord) (n : Nat) (d : LoadDest) : Prop :=
      ∃ u, exec i s = .next u ∧ u = { s with tiles := u.tiles, reqs := u.reqs, nextId := s.nextId + 1 } ∧
        (∀ q, q ≠ t → u.tile q = s.tile q) ∧ (u.tile t).lmem = (s.tile t).lmem ∧
        u.th t h = { x with wait := some { dest := d, va := a.setWidth 48, src := g, n := n, on := .req s.nextId } } ∧
        ∃ q, u.reqs = s.reqs ++ [q] ∧ q.id = s.nextId ∧ q.write = false ∧ q.dst = g ∧ q.n = n ∧ q.tile = t ∧ q.thr = h
    Ready s t h 2 → (s.tile t).csize = 0 → (∀ off, g ≠ .own off) →
      (s.resolve t h (at_ 4) 4 4 false = .at g → s.forward t g 4 1 = .none →
        waits (.ld t h r an dsp) (at_ 4) 4 (.d r)) ∧
      (s.resolve t h (at_ 8) 8 8 false = .at g → s.forward t g 8 1 = .none →
        waits (.lda t h r an dsp) (at_ 8) 8 (.a r)))

/-- R121–R123: a slot of SMOV, SSCN and SFIL within the own scratchpad. With Dc = 0 it finishes. Otherwise it processes
the elements up to the next 64-byte boundary, at most Dc of them, moves the pointers and the count, and goes on to the
next instruction only when it has finished. (Readings and choices of the model that it rests on: assumption log 35, 90.)
-/
def Obligations.StringInstructions : Prop :=
  ∀ (s : State) (t : TileId) (h : Thr) (ad r dc : Reg) (mode : Bool) (sz : ESize) (od os : Nat),
    let x := s.th t h
    let tl := s.tile t
    let n := match sz with
      | .b8 => 1
      | .b16 => 2
      | .b32 => 4
      | .b64 => 8
    let c := (x.getD dc).toNat
    let pd := x.getA ad
    let ps := x.getA r
    let value : List Byte := byteList ((x.getD r).zeroExtend 64) n
    let adv (p : DWord) (k : Nat) : DWord := p + BitVec.ofNat 64 (k * n)
    let done (y : Thread) : Thread := if y.getD dc = 0 then onward y 2 else y
    Ready s t h 2 →
      (c = 0 →
        Retires (.smov t h ad r false sz dc) s t h (onward x 2) ∧
        Retires (.sfil t h ad r false sz dc) s t h (onward x 2) ∧
        Retires (.sscn t h ad r mode sz dc) s t h (onward { x with st := { x.st with z := false } } 2)) ∧
      (c ≠ 0 → ad ≠ r →
        let k := min c (min (upTo n pd) (upTo n ps))
        let bs := tl.lmem.bytes os (k * n)
        pd.toNat % n = 0 → ps.toNat % n = 0 → OwnRead s t ps (k * n) 1 os → OwnWrite s t pd 1 od bs →
        RetiresAs (.smov t h ad r false sz dc) s t h (tl.lmWrite 0 od (bs.map some))
          (done (((x.setA ad (adv pd k)).setA r (adv ps k)).setD dc (x.getD dc - BitVec.ofNat 32 k)))) ∧
      (c ≠ 0 → dc ≠ r →
        let k := min c (upTo n pd)
        let bs := (List.replicate k value).flatten
        pd.toNat % n = 0 → OwnWrite s t pd 1 od bs →
        RetiresAs (.sfil t h ad r false sz dc) s t h (tl.lmWrite 0 od (bs.map some))
          (done ((x.setA ad (adv pd k)).setD dc (x.getD dc - BitVec.ofNat 32 k)))) ∧
      (c ≠ 0 → dc ≠ r →
        let k := min c (upTo n pd)
        let elem (i : Nat) : List Byte := tl.lmem.bytes (od + i * n) n
        let meets (i : Nat) : Prop := elem i = value ↔ mode = false
        pd.toNat % n = 0 → OwnRead s t pd (k * n) 1 od →
        (∀ i, i < k → meets i → (∀ j, j < i → ¬meets j) →
          Retires (.sscn t h ad r mode sz dc) s t h (onward
            (let y := (x.setA ad (adv pd i)).setD dc (x.getD dc - BitVec.ofNat 32 i)
             { y with st := { y.st with z := true } }) 2)) ∧
        ((∀ i, i < k → ¬meets i) →
          Retires (.sscn t h ad r mode sz dc) s t h
            (let y := (x.setA ad (adv pd k)).setD dc (x.getD dc - BitVec.ofNat 32 k)
             if k = c then onward { y with st := { y.st with z := false } } 2 else y)))

/-- R106, R107, R110, R111: every vector arithmetic instruction completes with a result for Vd under way. In an active
lane it is the operation on the lanes of Va, Vb and Vd: modulo 2^32 for INT32, exact and rounded once to the lane type
for the floating-point types; an inactive lane keeps the lane of Vd. The reductions, VEXP and VRCP write every lane.
R110, R111: VEXP of a lane lies within 2 units in the last place of the exact result, and VRCP within 1, whatever the
free choice: `near n x c` says it of magnitude bits `c` and an exact result `x`, from the power of two above the largest
finite value on as the infinity alone. The special inputs give the results of R110. The exact result of VEXP is taken as
`expVal` computes it, to about 120 bits; that of VRCP is the reciprocal itself. (Readings and choices of the model that
it rests on: assumption log 16.) -/
def Obligations.VectorArithmetic : Prop :=
  (∀ (s : State) (t : TileId) (h : Thr) (vd va vb : Reg) (m : Mask) (ty : Ty),
    let x := s.th t h
    let w := tyWidth ty
    let a (i : Nat) : Nat := (laneOf w (x.getV va) i).toNat
    let b (i : Nat) : Nat := (laneOf w (x.getV vb) i).toNat
    let o (i : Nat) : Nat := (laneOf w (x.getV vd) i).toNat
    let on (i : Nat) : Bool := laneOn (s.tile t) h (m.map (fun q => q ++ 0#5)) i
    let gives (i : Instr) (f : Nat → Nat) : Prop :=
      Landed x [vd, va] →
        ∃ v, (∀ l, l < 512 / w → laneOf w v l = BitVec.ofNat w (f l)) ∧ Retires i s t h (vectorDone x vd v 2)
    let lanewise (i : Instr) (f : Nat → Nat → Nat → Nat) : Prop :=
      Landed x [vb] → gives i (fun l => if on l then f (a l) (b l) (o l) else o l)
    let low (i : Instr) (r : Nat) : Prop := gives i (fun l => if l = 0 then r else 0)
    let val (p : Nat) : FVal := decodeF (tyFmt ty) p
    let rnd (p : FVal) : Nat := encodeF (tyFmt ty) p
    let sgn (p : Nat) : Int := (BitVec.ofNat 32 p).toInt
    Ready s t h 2 →
      (ty = .int32 →
        lanewise (.vadd t h vd va vb m ty) (fun p q _ => p + q) ∧
        lanewise (.vsub t h vd va vb m ty) (fun p q _ => p + (2 ^ 32 - q)) ∧
        lanewise (.vmul t h vd va vb m ty) (fun p q _ => p * q) ∧
        lanewise (.vfma t h vd va vb m ty) (fun p q r => p * q + r) ∧
        lanewise (.vmax t h vd va vb m ty) (fun p q _ => if sgn p < sgn q then q else p) ∧
        lanewise (.vmin t h vd va vb m ty) (fun p q _ => if sgn q < sgn p then q else p) ∧
        lanewise (.vand t h vd va vb m ty) (fun p q _ => p &&& q) ∧
        lanewise (.vor t h vd va vb m ty) (fun p q _ => p ||| q) ∧
        lanewise (.vxor t h vd va vb m ty) (fun p q _ => p ^^^ q)) ∧
      (ty ≠ .int32 →
        lanewise (.vadd t h vd va vb m ty) (fun p q _ => rnd ((val p).add (val q))) ∧
        lanewise (.vsub t h vd va vb m ty) (fun p q _ => rnd ((val p).add (val q).neg)) ∧
        lanewise (.vmul t h vd va vb m ty) (fun p q _ => rnd ((val p).mul (val q))) ∧
        lanewise (.vfma t h vd va vb m ty) (fun p q r => rnd (((val p).mul (val q)).add (val r))) ∧
        lanewise (.vmax t h vd va vb m ty) (fun p q _ =>
          if (val p).isNan then (if (val q).isNan then (tyFmt ty).nanBits else q)
          else if (val q).isNan then p else if (val p).below (val q) then q else p) ∧
        lanewise (.vmin t h vd va vb m ty) (fun p q _ =>
          if (val p).isNan then (if (val q).isNan then (tyFmt ty).nanBits else q)
          else if (val q).isNan then p else if (val q).below (val p) then q else p) ∧
        gives (.vexp t h vd va m ty) (fun l => if on l then expLane ty (a l) else 0) ∧
        gives (.vrcp t h vd va m ty) (fun l => if on l then rcpLane ty (a l) else 0)) ∧
      low (.vrsum t h vd va m ty)
        (treeSum (laneAdd ty) (if w = 32 then 4 else 5) ((List.range (512 / w)).map (fun l => if on l then a l else 0))) ∧
      low (.vrmax t h vd va m ty)
        (match ((List.range (512 / w)).filter on).map a with
          | [] => if ty = .int32 then 2 ^ 31 else 2 ^ (w - 1) + (tyFmt ty).infBits
          | p :: r => r.foldl (laneMax ty) (laneMax ty p p))) ∧
  (∀ (ty : Ty) (neg : Bool) (p : Nat), ty ≠ .int32 →
    let f := tyFmt ty
    let minus : Nat := if neg then 2 ^ (f.ebits + f.mbits) else 0
    let pow (k : Int) : Rat := (2 : Rat) ^ k
    let mag (c : Nat) : Rat :=
      if c / 2 ^ f.mbits = 0 then (c : Rat) * pow f.lsb
      else ((2 ^ f.mbits + c % 2 ^ f.mbits : Nat) : Rat) * pow (f.lsb + (c / 2 ^ f.mbits : Nat) - 1)
    let ulp (x : Rat) : Rat := if x = 0 then pow f.lsb else pow (max (Int.log 2 x - f.mbits) f.lsb)
    let near (n : Nat) (x : Rat) (c : Nat) : Prop :=
      c ≤ f.infBits ∧ if x < mag f.infBits then |mag c - x| ≤ (n : Rat) * ulp x else c = f.infBits
    (decodeF f p = .nan → expLane ty p = f.nanBits ∧ rcpLane ty p = f.nanBits) ∧
    (decodeF f p = .inf neg → expLane ty p = (if neg then 0 else f.infBits) ∧ rcpLane ty p = minus) ∧
    (∀ e, decodeF f p = .fin neg 0 e → rcpLane ty p = minus + f.infBits) ∧
    (∀ m e, decodeF f p = .fin neg m e → m ≠ 0 →
      ∃ c, rcpLane ty p = minus + c ∧ near 1 (1 / ((m : Rat) * pow e)) c) ∧
    (∀ m e, decodeF f p = .fin neg m e →
      (∀ b k g, expVal neg m e = .fin b k g → b = false ∧ near 2 ((k : Rat) * pow g) (expLane ty p)) ∧
      (∀ b, expVal neg m e = .inf b → expLane ty p = f.infBits) ∧ expVal neg m e ≠ .nan))

/-- R106, R107, R109, R112: the lane-movement and conversion instructions complete with the result of the table. R69,
R107, R108: VLD and VST move the active lanes between a register and 64 bytes of the own scratchpad; with no lane active
they make no access. -/
def Obligations.VectorMovesAndMemory : Prop :=
  (∀ (s : State) (t : TileId) (h : Thr) (vd va vb r : Reg) (m : Mask) (q : BitVec 8) (ln : BitVec 5) (ty : Ty)
    (cond : VCond) (se de : Elem),
    let x := s.th t h
    let tl := s.tile t
    let w := tyWidth ty
    let n := 512 / w
    let a (i : Nat) : BitVec w := laneOf w (x.getV va) i
    let b (i : Nat) : BitVec w := laneOf w (x.getV vb) i
    let on (k : Mask) (i : Nat) : Bool := laneOn tl h (k.map (fun z => z ++ 0#5)) i
    let gives (i : Instr) (rs : List Reg) (f : Nat → BitVec w) : Prop :=
      Landed x rs → ∃ v, (∀ l, l < n → laneOf w v l = f l) ∧ Retires i s t h (vectorDone x vd v 2)
    let less (p c : BitVec w) : Bool :=
      if ty = .int32 then decide (p.toInt < c.toInt) else (decodeF (tyFmt ty) p.toNat).lt (decodeF (tyFmt ty) c.toNat)
    let same (p c : BitVec w) : Bool :=
      if ty = .int32 then decide (p = c) else (decodeF (tyFmt ty) p.toNat).feq (decodeF (tyFmt ty) c.toNat)
    let holds (p c : BitVec w) : Bool := match cond with
      | .eq => same p c
      | .ne => !(same p c)
      | .lt => less p c
      | .le => less p c || same p c
      | .gt => less c p
      | .ge => less c p || same p c
    Ready s t h 2 →
      gives (.vbc t h vd r m ty) [vd] (fun i => if on m i then (x.getD r).setWidth w else laneOf w (x.getV vd) i) ∧
      gives (.vperm t h vd va vb m ty) [vd, va, vb] (fun i => if on m i then a ((b i).toNat % n) else laneOf w (x.getV vd) i) ∧
      gives (.vsel t h vd va vb (some q) ty) [vd, va, vb] (fun i => if on (some q) i then a i else b i) ∧
      (ln.toNat < n → Landed x [va] → Retires (.vext t h r va ln ty) s t h (onward (x.setD r ((a ln.toNat).setWidth 32)) 2)) ∧
      (Landed x [va, vb] → ∃ tl', RetiresAs (.vcmp t h cond va vb (some q) ty) s t h tl' (onward (tl'.th h) 2) ∧
        ∀ c : Seed, let i := (c - (q ++ 0#5)).toNat
          tl'.seed h c = if i < 32 then bitWritten c (tl.seed h c) (decide (i < n) && holds (a i) (b i)) else tl.seed h c) ∧
      (Landed x [vd, va] → ∃ v : VWord, Retires (.vcvt t h vd va se de) s t h (vectorDone x vd v 2) ∧
        let k := 512 / max (elemWidth se) (elemWidth de)
        ∀ i, i < 512 / elemWidth de → v.extractLsb' (elemWidth de * i) (elemWidth de) =
          if i < k then BitVec.ofNat _ (encodeElem de (decodeElem se
            ((x.getV va).extractLsb' (elemWidth se * i) (elemWidth se)).toNat)) else 0)) ∧
  (∀ (s : State) (t : TileId) (h : Thr) (r an : Reg) (m : Mask) (ty : Ty) (dsp : BitVec 14) (off : Nat),
    let x := s.th t h
    let tl := s.tile t
    let w := tyWidth ty
    let n := 512 / w
    let a : DWord := x.getA an + dsp.signExtend 64 * 64
    let on (i : Nat) : Bool := laneOn tl h (m.map (fun z => z ++ 0#5)) i
    Ready s t h 3 → Landed x [r] → a.toNat < 2 ^ 48 →
      ((∀ i, i < n → on i = false) →
        Retires (.vld t h r an m ty dsp) s t h (onward x 3) ∧ Retires (.vst t h r an m ty dsp) s t h (onward x 3)) ∧
      ((∃ i, i < n ∧ on i = true) →
        (OwnRead s t a 64 64 off → ∃ v : VWord,
          (∀ i, i < 64 → v.extractLsb' (8 * i) 8 =
            if on (i / (w / 8)) then tl.lmem.byte (off + i) else (x.getV r).extractLsb' (8 * i) 8) ∧
          Retires (.vld t h r an m ty dsp) s t h (vectorDone x r v 3)) ∧
        (let bs : List (Option Byte) := (List.range 64).map (fun i =>
            if on (i / (w / 8)) then some ((x.getV r).extractLsb' (8 * i) 8) else none)
         a.toNat < 0x100000000 → a.toNat % 64 = 0 → s.resolveLocal t a.toNat 64 true = some (.own off) →
          tl.inbuf.length < 16 → tl.writeBad off bs = none →
          RetiresAs (.vst t h r an m ty dsp) s t h (tl.lmWrite 0 off bs) (onward x 3) ∧
          ∀ b, (tl.lmWrite 0 off bs).lmem.byte b =
            if off ≤ b ∧ b < off + 64 ∧ on ((b - off) / (w / 8)) = true
              then (x.getV r).extractLsb' (8 * (b - off)) 8 else tl.lmem.byte b)))

/-- R113–R116: VXS converts sixteen elements at the exponent in Dk, adds their residues to Ac and accumulates V; VXCK
adds the residues of eight XS64 elements to Ac. -/
def Obligations.ExactSumInstructions : Prop :=
  ∀ (s : State) (t : TileId) (h : Thr) (vd va dk ac : Reg) (m : Mask5) (ty : Ty),
    let x := s.th t h
    let w := tyWidth ty
    let on (i : Nat) : Bool := laneOn (s.tile t) h (m.map (fun z => z ++ 0#8)) i
    let p : Int := 2 ^ 61 - 1
    let big : Int := 2 ^ 47 - 1
    let e : Int := (x.getD dk).toInt
    let src (i : Nat) : FVal :=
      if ty = .int32 then decodeInt 32 (laneOf w (x.getV va) i).toNat else decodeF (tyFmt ty) (laneOf w (x.getV va) i).toNat
    let conv (i : Nat) : Int × Bool :=
      if on i then
        match src i with
        | .nan => (0, true)
        | .inf neg => (if neg then -big else big, true)
        | .fin neg k z =>
          let n := toIntRne neg k (z - e)
          if big < n ∨ n < -big then (if neg then -big else big, true) else (n, false)
      else (0, false)
    let summed (l : List Int) : DWord := BitVec.ofInt 64 (((x.getA ac).toNat + l.foldl (fun c n => c + n % p) 0) % p)
    Ready s t h 2 →
      (vd.toNat % 2 = 0 → Landed x [vd, vd + 1, va] → ∃ lo hi : VWord,
        (∀ i, i < 8 → lo.extractLsb' (64 * i) 64 = BitVec.ofInt 64 (conv i).1 ∧
          hi.extractLsb' (64 * i) 64 = BitVec.ofInt 64 (conv (8 + i)).1) ∧
        Retires (.vxs t h vd va dk ac m ty) s t h (onward
          { x.setA ac (summed ((List.range 16).map (fun i => (conv i).1))) with
            st := { x.st with v := x.st.v || (List.range 16).any (fun i => (conv i).2) }
            vpend := x.vpend ++ [(vd, lo), (vd + 1, hi)] } 2)) ∧
      (Landed x [va] → Retires (.vxck t h va ac m) s t h (onward
        (x.setA ac (summed (((List.range 8).filter on).map (fun i => ((x.getV va).extractLsb' (64 * i) 64).toInt)))) 2))

/-- R168–R173: VROUTE with a whole expert table in the own scratchpad, credit for every message and enough response tags
completes: it ranks the eligible experts by score, the lower index first among equals, takes the first `n` of them, and
sends each in rank order one message of Dt, its gate and its index, rank and k − 1, taking the credits together and one
response tag each; Z and C say whether any and whether fewer than k were sent. Nothing else changes. (Readings and
choices of the model that it rests on: assumption log 41.) -/
def Obligations.ExpertRouting : Prop :=
  ∀ (s : State) (t : TileId) (h : Thr) (dt va an : Reg) (k : BitVec 3) (ty : Ty) (off : Nat),
    let x := s.th t h
    let tl := s.tile t
    let nv := ((x.getD dt).extractLsb' 22 2).toNat
    let w := tyWidth ty
    let num := (nv + 1) * (512 / w)
    let word (i : Nat) : Word :=
      tl.lmem.byte (off + 4 * i + 3) ++ tl.lmem.byte (off + 4 * i + 2) ++ tl.lmem.byte (off + 4 * i + 1) ++ tl.lmem.byte (off + 4 * i)
    let sc (e : Nat) : FVal := decodeF (tyFmt ty)
      (laneOf w (x.getV (va + BitVec.ofNat 3 (e / (512 / w)))) (e % (512 / w))).toNat
    let elig (e : Nat) : Bool := !(word (1 + e)).getLsbD 23 && !(sc e).isNan
    let first (e g : Nat) : Bool := (sc g).below (sc e) || (!(sc e).below (sc g) && decide (e < g))
    let pos (e : Nat) : Nat := ((List.range num).filter (fun g => elig g && first g e)).length
    let pick (r : Nat) : Nat := ((List.range num).filter (fun e => elig e && decide (pos e = r))).headD 0
    let n := min (k.toNat + 1) ((List.range num).filter elig).length
    let val (b : Nat) : FVal := decodeF fmtF32 b
    let f32 (r : Nat) : Nat := encodeF fmtF32 (sc (pick r))
    let term (r : Nat) : Nat :=
      if (sc (pick r)).feq (sc (pick 0)) then 0x3F800000
      else expLane .fp32 (encodeF fmtF32 ((val (f32 r)).add (val (f32 0)).neg))
    let total : Nat := (List.range (n - 1)).foldl (fun a r => encodeF fmtF32 ((val a).add (val (term (r + 1))))) (term 0)
    let gate (r : Nat) : Nat := encodeF fmtF32 ((val (term r)).div (val total))
    let handle (r : Nat) : Word :=
      ((word (1 + pick r)).extractLsb' 24 8 ++ (0#8) ++ (word (1 + pick r)).extractLsb' 0 16 : BitVec 32)
    let side := s.sendSide (.tile t)
    let count (c : Word → Bool) : Nat := ((List.range n).filter (fun r => c (handle r))).length
    let tag (r : Nat) : Nat := ((List.range 64).filter (fun i => side.sent.all (fun e => decide (e.tag ≠ i)))).getD r 0
    let msg (r : Nat) : Msg :=
      { kind := 0, sender := t, origin := 0, func := tl.func, tag := (word 0).extractLsb' 0 16
        payload := [x.getD dt, BitVec.ofNat 32 (gate r), BitVec.ofNat 32 (pick r + 2 ^ 8 * r + 2 ^ 11 * k.toNat)]
        handle := handle r, credited := side.credited (handle r), rtag := tag r, relScope := x.relScope }
    let pkt (r : Nat) : Pkt :=
      { id := s.nextId + r, src := .tile t, dst := .tile ((handle r).extractLsb' 4 12), net := 3, body := .msg (msg r)
        hold := x.hold
        after := (side.sent.filter (fun e => !e.mesh && e.handles.any (fun z => z.extractLsb' 0 16 = (handle r).extractLsb' 0 16))).map
          (fun e => e.tag) }
    Ready s t h 2 → ty ≠ .int32 → va.toNat + nv ≤ 7 →
      Landed x ((List.range (nv + 1)).map (fun i => va + BitVec.ofNat 3 i)) →
      OwnRead s t (x.getA an) (4 + 4 * num) 4 off →
      (∀ r, r < n → side.ready (handle r) (16 * count (fun z => z = handle r)) = true) → n + side.sent.length ≤ 64 →
      ∃ u, exec (.vroute t h dt va an k ty) s = .next u ∧
        u = { s with tiles := u.tiles, net := u.net, nextId := s.nextId + n } ∧ u.net = s.net ++ (List.range n).map pkt ∧
        (∀ r, r ≠ t → u.tile r = s.tile r) ∧ (∀ j, j ≠ h → u.th t j = s.th t j) ∧
        u.th t h = (onward { x with st := { x.st with z := decide (n = 0), c := decide (n < k.toNat + 1) } } 2).slotEnd
          s.debug x.st.ss ∧
        still (u.tile t) = { still tl with send := (u.tile t).send } ∧
        (u.tile t).send.sent = side.sent ++ (List.range n).map (fun r =>
          { tag := tag r, owner := .thread h, handles := [handle r], mesh := true, left := 1 }) ∧
        ∀ i, i < 16 →
          let e := side.entry i
          let g := (u.tile t).send.entry i
          g.valid = e.valid ∧ g.qid = e.qid ∧ g.epoch = e.epoch ∧ g.req = e.req ∧ g.refused = e.refused ∧
            g.bytes = if e.refused then e.bytes else e.bytes - 16 * count (fun z => decide (side.find z = some i))

/-- R126–R129: the tile-register instructions without memory accesses complete with the effect of the table on the
shape, the bytes, TUSE and the scale bindings. -/
def Obligations.TileRegisters : Prop :=
  ∀ (s : State) (t : TileId) (h : Thr) (k d r vr : Reg) (sh : BitVec 14) (row : BitVec 6) (ec : Elem) (role : Bool),
    let x := s.th t h
    let tl := s.tile t
    let rows := (sh.extractLsb' 8 6).toNat + 1
    let len := 4 * ((sh.extractLsb' 0 8).toNat + 1)
    let src := tl.reg r
    let dst := tl.reg d
    let sized (q : TileReg) : Nat := q.rows * q.len
    let unbound (q : Tile) (j : Reg) : Tile :=
      { q with scaleA := if q.scaleA = some j then none else q.scaleA
               scaleB := if q.scaleB = some j then none else q.scaleB }
    let sets (i : Instr) (n : Nat) (base : Tile) (j : Reg) (good : TileReg → Prop) : Prop :=
      ∃ q, good q ∧ RetiresAs i s t h (base.modReg j (fun _ => q)) (onward x n)
    (Ready s t h 2 → rows * len ≤ 2048 → tl.named k = false →
      sets (.tcfg t h k sh) 2 (unbound tl k) k (fun q => q = TileReg.mk rows len (tl.reg k).bytes false)) ∧
    (Ready s t h 1 →
      (let q := tl.reg k
       sized q ≤ 2048 → sets (.tzero t h k) 1 tl k (fun y => y.rows = q.rows ∧ y.len = q.len ∧ y.tuse = true ∧
        ∀ i, i < 2048 → tileBytes y i 1 = if i < sized q then 0 else tileBytes q i 1)) ∧
      (tl.named k = false → sets (.tfree t h k) 1 (unbound tl k) k (fun q => q = { tl.reg k with tuse := false })) ∧
      (sized src ≤ 2048 → dst.rows = src.rows → dst.len = src.len → tl.tpnd r = false →
        sets (.tmov t h d r) 1 tl d (fun y => y.rows = dst.rows ∧ y.len = dst.len ∧ y.tuse = true ∧
          ∀ i, i < 2048 → tileBytes y i 1 = if i < sized src then tileBytes src i 1 else tileBytes dst i 1)) ∧
      (sized src ≤ 2048 → d ≠ r → dst.rows * 4 = src.len → dst.len = 4 * src.rows → tl.tpnd r = false →
        sets (.ttrn t h d r) 1 tl d (fun y => y.rows = dst.rows ∧ y.len = dst.len ∧ y.tuse = true ∧
          ∀ i j, i < dst.rows → j < src.rows → tileElem y i j = tileElem src j i)) ∧
      RetiresAs (.mscl t h k role) s t h
        (if role then { tl with scaleB := some k } else { tl with scaleA := some k }) (onward x 1) ∧
      (tl.tpnd k = false → Retires (.mwait t h k) s t h (onward x 1))) ∧
    (Ready s t h 2 →
      (let q := tl.reg k
       row.toNat < q.rows → tl.tpnd k = false → Landed x [vr] → ∃ v : VWord,
        (∀ i, i < 64 → v.extractLsb' (8 * i) 8 =
          if i < q.len then q.bytes.extractLsb' (8 * (row.toNat * q.len + i)) 8 else 0) ∧
        Retires (.trdv t h vr k row) s t h (vectorDone x vr v 2)) ∧
      (let q := tl.reg k
       sized q ≤ 2048 → row.toNat < q.rows → Landed x [vr] →
        sets (.twrv t h k vr row) 2 tl k (fun y => y.rows = q.rows ∧ y.len = q.len ∧ y.tuse = true ∧
          ∀ i, i < 2048 → tileBytes y i 1 =
            if row.toNat * q.len ≤ i ∧ i < row.toNat * q.len + min q.len 64
              then ((x.getV vr).extractLsb' (8 * (i - row.toNat * q.len)) 8).setWidth 8 else tileBytes q i 1)) ∧
      (sized src ≤ 2048 → sized dst ≤ 2048 → d ≠ r → dst.rows = src.rows → dst.len * 32 = src.len * elemWidth ec →
        src.len % 4 = 0 → tl.tpnd r = false →
        sets (.tcvt t h d r ec) 2 tl d (fun y => y.rows = dst.rows ∧ y.len = dst.len ∧ y.tuse = true ∧
          ∀ i j, i < src.rows → j < src.len / 4 →
            y.bytes.extractLsb' (8 * (i * dst.len) + elemWidth ec * j) (elemWidth ec) =
              BitVec.ofNat _ (encodeElem ec (decodeElem (if ec = .int32 ∨ ec = .int8 then .int32 else .fp32)
                (tileElem src i j).toNat)))))

/-- R127, R128, R130: the traps of the tile instructions, which leave every tile register as it was: Illegal Operand for
a shape, a row or a tile in use that the instruction may not have; and of TLD and TST, in their order, Address Form for
the address of the first or the last row, Alignment, and Access Violation for the first stretch of the slot's piece that
the own scratchpad does not hold. R216, R228, R234: the Illegal Operand traps of the queue instructions: a queue that is
not enabled, and an illegal QARM. -/
def Obligations.UnitTraps : Prop :=
  (∀ (s : State) (t : TileId) (h : Thr) (k d r vr an : Reg) (sh : BitVec 14) (row : BitVec 6) (ec : Elem),
    let x := s.th t h
    let tl := s.tile t
    let src := tl.reg r
    let dst := tl.reg d
    let trap (i : Instr) : Prop := Takes i s t h 4 x.pc 0 0
    let base := x.getA an
    let last := base + (x.getD r).signExtend 64 * BitVec.ofNat 64 ((tl.reg k).rows - 1)
    let n := min 256 ((tl.reg k).rows * (tl.reg k).len - x.moved)
    let piece := stretches base (x.getD r) (tl.reg k).len x.moved n
    let both (c : BitVec 5) (a : DWord) : Prop :=
      Takes (.tld t h k an r) s t h c x.pc 0 (a.setWidth 48) ∧ Takes (.tst t h k an r) s t h c x.pc 0 (a.setWidth 48)
    let formed : Prop := base.toNat < 2 ^ 48 ∧ last.toNat < 2 ^ 48
    let aligned : Prop := base.toNat % 4 = 0 ∧ (x.getD r).toNat % 4 = 0
    let outside (write : Bool) (q : DWord × Nat) : Bool := (s.ownOff t q.1 q.2 write).isNone
    (Ready s t h 2 →
      (VectorsGood tl 5 → 2 ^ 48 ≤ base.toNat → both 5 base) ∧
      (VectorsGood tl 5 → base.toNat < 2 ^ 48 → 2 ^ 48 ≤ last.toNat → both 5 last) ∧
      (VectorsGood tl 6 → formed → ¬aligned → both 6 base) ∧
      (VectorsGood tl 8 → formed → aligned → ∀ q,
        (piece.find? (outside false) = some q → Takes (.tld t h k an r) s t h 8 x.pc 0 (q.1.setWidth 48)) ∧
        (piece.find? (outside true) = some q → (x.moved = 0 → tl.tpnd k = false) →
          Takes (.tst t h k an r) s t h 8 x.pc 0 (q.1.setWidth 48)))) ∧
    (VectorsGood tl 4 →
      (Ready s t h 2 →
        ((2048 < ((sh.extractLsb' 8 6).toNat + 1) * (4 * ((sh.extractLsb' 0 8).toNat + 1)) ∨ tl.named k = true) →
          trap (.tcfg t h k sh)) ∧
        ((tl.reg k).rows ≤ row.toNat → trap (.trdv t h vr k row) ∧ trap (.twrv t h k vr row)) ∧
        ((d = r ∨ dst.rows ≠ src.rows ∨ dst.len * 32 ≠ src.len * elemWidth ec) → trap (.tcvt t h d r ec))) ∧
      (Ready s t h 1 →
        (tl.named k = true → trap (.tfree t h k)) ∧
        ((dst.rows ≠ src.rows ∨ dst.len ≠ src.len) → trap (.tmov t h d r)) ∧
        ((d = r ∨ dst.rows * 4 ≠ src.len ∨ dst.len ≠ 4 * src.rows) → trap (.ttrn t h d r))))) ∧
  (∀ (s : State) (t : TileId) (h : Thr) (vd dc dt : Reg) (q : QIx),
    let x := s.th t h
    let k := (s.tile t).queue q
    let c := (x.getD dc).toNat
    let etype := (x.getD dt).extractLsb' 14 2
    let trap (i : Instr) : Prop := Takes i s t h 4 x.pc 0 0
    Ready s t h 2 → VectorsGood (s.tile t) 4 →
      (k.en = false → trap (.qrd t h vd q) ∧ trap (.qtry t h vd q) ∧ trap (.qdrop t h q) ∧ trap (.qclose t h q)) ∧
      ((k.en = false ∨ k.mode = false ∨ c = 0 ∨ 65535 < c ∨ etype = 3 ∨
        etype = 2 ∧ ((x.getD dt).extractLsb' 16 2).toNat % 2 = 0) → trap (.qarm t h dc dt q)))

/-- R129–R131: a slot of TLD and TST moves the next 256 bytes of the tile, in row order, or fewer in the last slot. A
slot with more than 256 bytes left counts 256 more and leaves the PC on the instruction: the rows that it completes are
written, into Tk by TLD and into the own scratchpad by TST, row after row, and the bytes of a row that it only begins
are kept. A transfer of one piece whose rows lie back to back loads or stores the whole tile and goes on to the next
instruction. Nothing else changes: no other byte of local memory or of a tile register, no other thread and nothing
outside the tile. (Readings and choices of the model that it rests on: assumption log 91.) -/
def Obligations.TileMemory : Prop :=
  ∀ (s : State) (t : TileId) (h : Thr) (k an r : Reg) (off : Nat),
    let x := s.th t h
    let tl := s.tile t
    let q := tl.reg k
    let base := x.getA an
    let n := q.rows * q.len
    let fit (write : Bool) : Prop := ∀ i, i < q.rows →
      s.ownOff t (base + (x.getD r).signExtend 64 * BitVec.ofNat 64 i) q.len write = some (off + i * q.len)
    let piece := stretches base (x.getD r) q.len x.moved 256
    let local_ (p : DWord × Nat) (write : Bool) : Nat := (s.ownOff t p.1 p.2 write).getD 0
    let moved (new : List Byte) (i : Instr) (u : State) : Prop :=
      let buf := x.part ++ new
      exec i s = .next u ∧ OnlyTile s u t ∧ (∀ j, j ≠ h → u.th t j = s.th t j) ∧
        u.th t h = ({ x with moved := x.moved + 256, part := buf.drop (buf.length / q.len * q.len) } : Thread).slotEnd
          s.debug x.st.ss
    let row0 := (x.moved - x.part.length) / q.len
    (Ready s t h 2 → tl.inbuf.length < 16 → tl.lerr = [] → x.moved + 256 < n → n ≤ 2048 →
      (s.pieceFault t base (x.getD r) q.rows piece false = none →
        let new := piece.flatMap (fun p => tl.lmem.bytes (local_ p false) p.2)
        let buf := x.part ++ new
        let cnt := buf.length / q.len
        ∃ u y, moved new (.tld t h k an r) u ∧ y.rows = q.rows ∧ y.len = q.len ∧ y.tuse = (q.tuse || decide (cnt ≠ 0)) ∧
          (∀ i, i < 2048 → tileBytes y i 1 =
            if row0 * q.len ≤ i ∧ i < (row0 + cnt) * q.len then (buf.getD (i - row0 * q.len) 0).setWidth 8
            else tileBytes q i 1) ∧
          still (u.tile t) = still (if cnt = 0 then tl else tl.modReg k (fun _ => y))) ∧
      (let new := (List.range 256).map (fun i => q.bytes.extractLsb' (8 * (x.moved + i)) 8)
       let buf := x.part ++ new
       let cnt := buf.length / q.len
       let rows := pieceCuts base (x.getD r) q.len (row0 * q.len) ((row0 + cnt) * q.len)
       s.pieceFault t base (x.getD r) q.rows (piece ++ rows) true = none → (x.moved = 0 → tl.tpnd k = false) →
        ∃ u, moved new (.tst t h k an r) u ∧ still (u.tile t) = { still tl with lmem := (u.tile t).lmem } ∧
          let written : List (Nat × Byte) := (withBytes rows buf).flatMap (fun p =>
            (List.range p.2.length).map (fun i => (local_ (p.1, p.2.length) true + i, p.2.getD i 0)))
          ∀ b, (u.tile t).lmem.byte b =
            (((written.filter (fun p => decide (p.1 = b))).getLast?).map (fun p => p.2)).getD (tl.lmem.byte b))) ∧
    (Ready s t h 2 → x.moved = 0 → x.part = [] → 1 ≤ q.rows → 4 ≤ q.len → n ≤ 256 →
      (base + (x.getD r).signExtend 64 * BitVec.ofNat 64 (q.rows - 1)).toNat < 2 ^ 48 → base.toNat < 2 ^ 48 →
      base.toNat % 4 = 0 → (x.getD r).toNat % 4 = 0 → tl.inbuf.length < 16 →
      (fit false → tl.errWords off n = [] → (∀ i, i < q.rows → tl.errWords (off + i * q.len) q.len = []) →
        ∃ y, y.rows = q.rows ∧ y.len = q.len ∧ y.tuse = true ∧
          (∀ i, i < 2048 → tileBytes y i 1 = if i < n then (tl.lmem.byte (off + i)).setWidth 8 else tileBytes q i 1) ∧
          RetiresAs (.tld t h k an r) s t h (tl.modReg k (fun _ => y)) (onward x 2)) ∧
      (fit true → tl.tpnd k = false → tl.lerr = [] → ∃ u, exec (.tst t h k an r) s = .next u ∧ OnlyTile s u t ∧
        u.th t h = (onward x 2).slotEnd s.debug x.st.ss ∧ (∀ j, j ≠ h → u.th t j = s.th t j) ∧
        still (u.tile t) = { still tl with lmem := (u.tile t).lmem } ∧
        ∀ b, (u.tile t).lmem.byte b =
          if off ≤ b ∧ b < off + n then q.bytes.extractLsb' (8 * (b - off)) 8 else tl.lmem.byte b))

/-- R133–R137: a matrix instruction with legal shapes and a free place in the unit enters it with its operands, its mask
and the scale tiles in force; Tc becomes in use, and Illegal Operand is taken for shapes that R134 and R135 forbid.
R137, R138, R141, R142, R493, R494: the head operation starts on the tile's cord, or takes a free one when no older
claim can have it, or claims one, behind the claims of earlier cycles and those of its own cycle with a lower tile ID,
and stalls; the first claim that can be granted is, and its operation starts; a commit writes the first bytes of Tc at
once and releases the cord when nothing waits. (Readings and choices of the model that it rests on: assumption log 104.)
-/
def Obligations.MatrixOperations : Prop :=
  (∀ (s : State) (t : TileId) (h : Thr) (c a b tm : Reg) (sp : Sp) (mt : Mt) (sa : Seed),
    let x := s.th t h
    let tl := s.tile t
    let scaled : Bool := match mt with
      | .int8 => false
      | .bf16 => false
      | .fp16 => false
      | _ => true
    let op (acc : Bool) (mask : MaskSrc) : MxOp :=
      MxOp.mk c a b sp mt acc mask (if scaled then tl.scaleA else none) (if scaled then tl.scaleB else none) h x.pc none
    let mask : MaskSrc := if sp = .dense then .none else .tile tm
    let enters (i : Instr) (n : Nat) (o : MxOp) : Prop :=
      (tl.mxOk o = true → tl.mx.length < 2 → RetiresAs i s t h
        (({ tl with mx := tl.mx ++ [o] } : Tile).modReg c (fun q => { q with tuse := true })) (onward x n)) ∧
      (tl.mxOk o = false → VectorsGood tl 4 → Takes i s t h 4 x.pc 0 0)
    (Ready s t h 2 → (sp = .dense → tm = 0) →
      enters (.mma t h c a b sp tm mt) 2 (op true mask) ∧ enters (.mmaz t h c a b sp tm mt) 2 (op false mask)) ∧
    (Ready s t h 3 → sp ≠ .dense → sa.toNat % 32 = 0 → enters (.mmas t h c a b sp mt sa) 3 (op true (.seed sa)))) ∧
  (∀ (s : State) (t : TileId) (o : MxOp) (rest : List MxOp),
    let tl := s.tile t
    let c := tileCob t
    let claims := (s.cob c).claims
    let now := (s.cob c).cyc
    let earlier (y : Nat × TileId) : Bool := decide (y.1 < now ∨ y.1 = now ∧ y.2.toNat < t.toNat)
    let staged (u : State) : Prop := (u.tile t).mx = { o with result := some (tl.mxResult o) } :: rest ∧
      (u.tile t).cord = true ∧ (∀ k, (u.tile t).reg k = tl.reg k) ∧ (∀ r, r ≠ t → u.tile r = s.tile r)
    tl.mx = o :: rest →
      (o.result = none → (∀ y ∈ claims, y.2 ≠ t) →
        (tl.cord = true → ∃ u, exec (.matrixStart t) s = .next u ∧ staged u ∧ (u.cob c).claims = claims) ∧
        (tl.cord = false → (∀ y ∈ claims, s.canGrant y.2 = false) →
          (s.canGrant t = true → ∃ u, exec (.matrixStart t) s = .next u ∧ staged u ∧ (u.cob c).claims = claims) ∧
          (s.canGrant t = false →
            ∃ u, exec (.matrixStart t) s = .next u ∧
              (claims.Pairwise (fun y z => y.1 < z.1 ∨ y.1 = z.1 ∧ y.2.toNat < z.2.toNat) →
                (u.cob c).claims = claims.filter earlier ++ (now, t) :: claims.filter (fun y => !earlier y)) ∧
              (u.tile t).causes = tl.causes ||| 8#8 ∧ (u.tile t).mx = tl.mx ∧ (u.tile t).cord = false ∧
              (u.cob c).refuse = satAdd (s.cob c).refuse 1 ∧ (∀ r, r ≠ t → u.tile r = s.tile r)))) ∧
      (((claims.filter (fun y => s.canGrant y.2)).head?.map (fun y => y.2)) = some t →
        ∃ u, exec (.cordGrant t) s = .next u ∧ staged u ∧ (u.cob c).claims = claims.filter (fun y => y.2 ≠ t) ∧
          (u.tile t).causes.getLsbD 3 = false) ∧
      (∀ v, o.result = some v → (tl.reg o.c).rows * (tl.reg o.c).len ≤ 2048 →
        ∃ u, exec (.matrixCommit t) s = .next u ∧ (u.tile t).mx = rest ∧ (u.tile t).cord = !rest.isEmpty ∧
          (∀ k, k ≠ o.c → (u.tile t).reg k = tl.reg k) ∧ ((u.tile t).reg o.c).rows = (tl.reg o.c).rows ∧
          ((u.tile t).reg o.c).len = (tl.reg o.c).len ∧ ((u.tile t).reg o.c).tuse = (tl.reg o.c).tuse ∧
          (∀ i, i < 2048 → tileBytes ((u.tile t).reg o.c) i 1 =
            if i < (tl.reg o.c).rows * (tl.reg o.c).len then (v.extractLsb' (8 * i) 8).setWidth 8
            else tileBytes (tl.reg o.c) i 1) ∧ (∀ r, r ≠ t → u.tile r = s.tile r)))

/-- R215–R218: QPUT appends Ds to the staging of its level and traps on a full one. QCMT with credit and a tag, and
QRICK with a tag, send one packet with the staged words to the queue that the handle names, under the lowest free tag,
and empty the staging; QCMT deducts the credit. R216–R218: a commit without a free tag, and a QCMT without enough
credit, block their thread, the staging kept; the QCMT asks for credit once. R216, R217, R239: QMCST with one staged
word and a valid group of at least one member sends the word to the queue of every member under one tag that all members
must answer, and empties the staging. -/
def Obligations.SendInstructions : Prop :=
  (∀ (s : State) (t : TileId) (h : Thr) (r dt dh : Reg) (tag i : Nat),
    let x := s.th t h
    let g := x.stg
    let n := g.count.toNat
    let hd := x.getD dh
    let utag : BitVec 16 := (x.getD dt).setWidth 16
    let side := s.sendSide (.tile t)
    let words := (List.range n).map (fun j => g.words.extractLsb' (32 * j) 32)
    let bytes := (4 * (n + 1) + 7) / 8 * 8
    let sent (c : Instr) (body : Msg → Body → Prop) (mesh : Bool) (cred : SMap Cred) : Prop :=
      ∃ u m p, exec c s = .next u ∧ u = { s with tiles := u.tiles, net := s.net ++ [p], nextId := s.nextId + 1 } ∧
        (∀ q, q ≠ t → u.tile q = s.tile q) ∧ (∀ k, k ≠ h → u.th t k = s.th t k) ∧
        u.th t h = (onward (x.setStg { g with count := 0 }) 1).slotEnd s.debug x.st.ss ∧
        p.id = s.nextId ∧ p.src = .tile t ∧ p.dst = .tile (hd.extractLsb' 4 12) ∧ p.net = (if mesh then 3 else 2) ∧
        p.hold = x.hold ∧ body m p.body ∧ m.sender = t ∧ m.tag = utag ∧ m.payload = words ∧ m.handle = hd ∧
        m.func = (s.tile t).func ∧ m.rtag = tag ∧ m.origin = 0 ∧ (u.tile t).send.cred = cred ∧
        ∃ e, (u.tile t).send.sent = side.sent ++ [e] ∧ e.tag = tag ∧ e.left = 1 ∧ e.handles = [hd] ∧ e.owner = .thread h
    Ready s t h 1 →
      (n < 4 → Retires (.qput t h r) s t h (onward
        (x.setStg { count := g.count + 1, words := setBits g.words (32 * n) 32 (x.getD r) }) 1)) ∧
      (4 ≤ n → VectorsGood (s.tile t) 4 → Takes (.qput t h r) s t h 4 x.pc 0 0) ∧
      (1 ≤ n → n ≤ 4 → hd.extractLsb' 16 8 = 0 → side.freeTag = some tag →
        side.find hd = some i → (side.entry i).refused = false → bytes ≤ (side.entry i).bytes →
        sent (.qcmt t h dt dh) (fun m b => b = .msg m ∧ m.kind = 0 ∧ m.credited = true) (decide (2 ≤ n))
          (SMap.modify {} side.cred i (fun e => { e with bytes := e.bytes - bytes, lastUse := side.useCtr + 1 }))) ∧
      (1 ≤ n → n ≤ 4 → hd.extractLsb' 16 8 = 0 → side.freeTag = some tag →
        utag.extractLsb' 14 2 ≠ 3 → ¬(utag.extractLsb' 14 2 = 2 ∧ n % 2 = 1) →
        sent (.qrick t h dt dh) (fun m b => m.kind = 1 ∧ ∃ c, b = .rick m [c] none ∧ c.src = .tile t ∧ c.tag = tag) true
          side.cred) ∧
      (VectorsGood (s.tile t) 4 → (n = 0 ∨ hd.extractLsb' 16 8 ≠ 0) →
        Takes (.qcmt t h dt dh) s t h 4 x.pc 0 0 ∧ Takes (.qrick t h dt dh) s t h 4 x.pc 0 0)) ∧
  (∀ (s : State) (t : TileId) (h : Thr) (dt dh : Reg) (i : Nat),
    let x := s.th t h
    let n := x.stg.count.toNat
    let hd := x.getD dh
    let side := s.sendSide (.tile t)
    let utag : BitVec 16 := (x.getD dt).setWidth 16
    Ready s t h 1 → 1 ≤ n → n ≤ 4 → hd.extractLsb' 16 8 = 0 →
      (side.freeTag = none → utag.extractLsb' 14 2 ≠ 3 → ¬(utag.extractLsb' 14 2 = 2 ∧ n % 2 = 1) →
        ∃ u, exec (.qrick t h dt dh) s = .next u ∧ OnlyThread s u t h ∧ u.th t h = blockedIn x (.qrick dt dh)) ∧
      (side.find hd = some i → (side.entry i).refused = false → (side.entry i).bytes < (4 * (n + 1) + 7) / 8 * 8 →
        ∃ u, exec (.qcmt t h dt dh) s = .next u ∧ u.th t h = blockedIn x (.qcmt dt dh) ∧
          (∀ k, k ≠ h → u.th t k = s.th t k) ∧ (∀ q, q ≠ t → u.tile q = s.tile q) ∧
          ((side.entry i).req = true → u.net = s.net) ∧
          ((side.entry i).req = false → ∃ p, u.net = s.net ++ [p] ∧ p.dst = .tile (hd.extractLsb' 4 12) ∧
            p.body = .credReq hd ((4 * (n + 1) + 7) / 8 * 8) (s.tile t).func))) ∧
  (∀ (s : State) (t : TileId) (h : Thr) (dt dg : Reg) (tag : Nat),
    let x := s.th t h
    let g := SMap.get 0 (s.tile t).mgrp ((x.getD dg).extractLsb' 0 3).toNat
    let inBox (u : TileId) : Prop :=
      (g.extractLsb' 0 4).toNat ≤ u.toNat / 256 ∧ u.toNat / 256 ≤ (g.extractLsb' 4 4).toNat ∧
      (g.extractLsb' 8 4).toNat ≤ u.toNat / 16 % 16 ∧ u.toNat / 16 % 16 ≤ (g.extractLsb' 12 4).toNat ∧
      (g.extractLsb' 16 4).toNat ≤ u.toNat % 16 ∧ u.toNat % 16 ≤ (g.extractLsb' 20 4).toNat
    Ready s t h 1 → x.stg.count = 1 → g.getLsbD 28 = true → (s.sendSide (.tile t)).freeTag = some tag →
      ∃ u ps, exec (.qmcst t h dt dg) s = .next u ∧ u.net = s.net ++ ps ∧
        u.th t h = (onward (x.setStg { x.stg with count := 0 }) 1).slotEnd s.debug x.st.ss ∧
        (∀ q, q ≠ t → u.tile q = s.tile q) ∧ (∀ k, k ≠ h → u.th t k = s.th t k) ∧
        u = { s with tiles := u.tiles, net := u.net, nextId := s.nextId + ps.length } ∧
        (∀ v : TileId, inBox v ↔ ∃ p ∈ ps, p.dst = .tile v) ∧
        (∀ p ∈ ps, ∃ m v, p.body = .msg m ∧ p.dst = .tile v ∧ m.kind = 0 ∧ m.payload = [x.stg.words.extractLsb' 0 32] ∧
          m.tag = (x.getD dt).setWidth 16 ∧ m.credited = false ∧ m.rtag = tag ∧ p.net = 2 ∧
          m.handle = (g.extractLsb' 32 8 ++ (0#8) ++ v ++ g.extractLsb' 24 4)) ∧
        (ps ≠ [] → ∃ e, (u.tile t).send.sent = (s.tile t).send.sent ++ [e] ∧ e.tag = tag ∧ e.left = ps.length))

/-- R223, R228–R230, R234: the owner's queue instructions. A read frees the oldest message, once all of it has been
written, and puts it into Vd; a queue with no such message blocks QRD while it is open; QARM arms a free rick and takes
its room from the pool. N and V never change. R223, R229: what a read gives and frees. The header and the payload words
go to lanes 0 to 4, the origin word to lane 5, zeros elsewhere; the message's ring bytes and the skip bytes before it
are free again. A message whose last byte is still to be written is not there for a read. -/
def Obligations.QueueInstructions : Prop :=
  (∀ (s : State) (t : TileId) (h : Thr) (vd dc dt : Reg) (q : QIx) (m : QMsg) (rest : List QMsg),
    let x := s.th t h
    let tl := s.tile t
    let k := tl.queue q
    let off := k.base + (if m.skip = 0 then k.rd else 0)
    let ws := tl.errWords off m.size
    let flags (y : Thread) (z : Bool) (c : Bool) : Thread := onward { y with st := { x.st with z := z, c := c } } 2
    let taken : Tile := (tl.fixWords 1 ws).modQueue q Queue.free
    let got : Thread := (x.pendV vd (readLanes m (tl.lmem.bytes off m.size))).openPair s.debug m
    let tag : BitVec 16 := (x.getD dt).setWidth 16
    let len : BitVec 2 := (x.getD dt).extractLsb' 16 2
    let room : Nat := (4 * (len.toNat + 2) + 7) / 8 * 8
    let armed : Rick := Rick.mk tag len (x.getD dc).toNat 0 (List.replicate (len.toNat + 1) 0) true .thread
    Ready s t h 2 → k.en = true →
      (k.msgs = m :: rest → m.seen = true → Landed x [vd] → firstBad ws = none →
        RetiresAs (.qrd t h vd q) s t h taken (flags got false x.st.c) ∧
        RetiresAs (.qtry t h vd q) s t h taken (flags got false k.closed)) ∧
      ((∀ o ∈ k.msgs.head?, o.seen = false) → Landed x [vd] →
        (k.closed = true → Retires (.qrd t h vd q) s t h (flags (x.pendV vd 0) true x.st.c)) ∧
        (k.closed = false → ∃ u, exec (.qrd t h vd q) s = .next u ∧ OnlyThread s u t h ∧
          u.th t h = blockedIn x (.qrd vd q)) ∧
        Retires (.qtry t h vd q) s t h (flags x true k.closed)) ∧
      RetiresAs (.qdrop t h q) s t h (tl.modQueue q Queue.free) (flags x (!(k.msgs.head?.any (fun o => o.seen))) x.st.c) ∧
      RetiresAs (.qclose t h q) s t h (tl.modQueue q (fun j => { j with closed := true })) (onward x 2) ∧
      (k.mode = true → 1 ≤ (x.getD dc).toNat → (x.getD dc).toNat ≤ 65535 → tag.extractLsb' 14 2 ≠ 3 →
        ¬(tag.extractLsb' 14 2 = 2 ∧ len.toNat % 2 = 0) →
        ((k.rick ≠ none ∨ k.closed = true ∨ k.pool < (room : Int)) →
          Retires (.qarm t h dc dt q) s t h (flags x true x.st.c)) ∧
        (k.rick = none → k.closed = false → (room : Int) ≤ k.pool →
          RetiresAs (.qarm t h dc dt q) s t h
            (tl.modQueue q (fun j => { j with rick := some armed, granted := j.granted + room }))
            (flags x false x.st.c)))) ∧
  (∀ (k : Queue) (m : QMsg) (rest : List QMsg) (bs : List Byte) (n : Nat),
    (bs.length = 4 * n → n ≤ 5 → ∀ i, i < 16 →
      laneOf 32 (readLanes m bs) i =
        if i < n then bs.getD (4 * i + 3) 0 ++ bs.getD (4 * i + 2) 0 ++ bs.getD (4 * i + 1) 0 ++ bs.getD (4 * i) 0
        else if i = 5 then m.origin.zeroExtend 32 else 0) ∧
    (k.msgs = m :: rest → m.seen = false → k.free = k) ∧
    (k.msgs = m :: rest → m.seen = true →
      k.free.msgs = rest ∧ k.free.used = k.used - m.skip - (m.size + 7) / 8 * 8 ∧
      k.free.rd = (if m.skip = 0 then k.rd + (m.size + 7) / 8 * 8 else (m.size + 7) / 8 * 8) % k.size ∧
      k.free.wr = k.wr ∧ k.free.closed = k.closed ∧ k.free.granted = k.granted ∧ k.free.epoch = k.epoch))

/-- R337–R340, R514, R516: REL sets the thread's release scope and holds its later outbound actions behind its writes in
scope; ACQ at Cob scope and wider clears the cache partition, closes the pending pair, and in debug mode reports a pair
that it does not cover. R302, R303, R312, R315, R329: CEPUT queues the 64-byte descriptor at An with the issuer's level
and blocks on a full queue; CERES resumes a halted engine and says in Z whether it did; CEQRY reads CE_STAT. (Readings
and choices of the model that it rests on: assumption log 81.) -/
def Obligations.OrderAndCopyInstructions : Prop :=
  (∀ (s : State) (t : TileId) (h : Thr) (scope : Scope),
    let x := s.th t h
    let tl := s.tile t
    let inScope (b : SBuf) : Bool := match scope with
      | .thread => false
      | .tile => false
      | .cob => match b.dst with
        | .remote u _ _ => u.extractLsb' 8 4 == t.extractLsb' 8 4
        | _ => false
      | _ => true
    let ids := (tl.sbuf.filter (fun b => b.thr == h && inScope b)).map (fun b => b.id)
    let cleared : Tile := if scope = .thread ∨ scope = .tile then tl else tl.clearCache
    Ready s t h 1 →
      Retires (.rel t h scope) s t h (onward
        { x with hold := x.hold ++ ids.filter (fun i => !(x.hold.contains i)), relScope := some scope } 1) ∧
      ((∀ p, x.pair = some p → p.covered = true ∧ scopeRank (some p.needed) ≤ scopeRank (some scope)) →
        RetiresAs (.acq t h scope) s t h cleared (onward { cleared.th h with pair := none } 1)) ∧
      (∀ p, x.pair = some p → (p.covered = false ∨ scopeRank (some scope) < scopeRank (some p.needed)) →
        let seen := cleared.hazard s.debug 4 h x.pc (scopeEnc p.needed ++ scopeEnc scope)
          ((0#1) ++ b2v p.sender.isNone ++ p.sender.getD 0xFFF)
        RetiresAs (.acq t h scope) s t h seen (onward { seen.th h with pair := none } 1)) ∧
      (tl.clearCache.lines = [] ∧ (∀ f ∈ tl.clearCache.fills, f.dead = true) ∧ tl.clearCache.lmem = tl.lmem ∧
        (∀ k, (tl.clearCache.th k).det = {}))) ∧
  (∀ (s : State) (t : TileId) (h : Thr) (an d : Reg) (off : Nat),
    let x := s.th t h
    let tl := s.tile t
    let g := tl.eng
    let desc : BitVec 512 := setBits (leBits 512 (tl.lmem.bytes off 64)) 448 2 x.st.pl
    let code : BitVec 2 := match g.st with
      | .idle => 0
      | .running => 1
      | .halted => 2
      | .paused => 3
    let fld (w : Word) : Prop := w.extractLsb' 0 2 = code ∧ w.extractLsb' 2 4 = BitVec.ofNat 4 g.qcnt ∧
      w.getLsbD 6 = g.part ∧ w.extractLsb' 7 4 = g.cause ∧ w.extractLsb' 11 21 = BitVec.ofNat 21 g.next
    Ready s t h 1 → g.jobs = [] →
      (OwnRead s t (x.getA an) 64 64 off → g.qcnt < 8 →
        RetiresAs (.ceput t h an) s t h
          { tl with eng := { g with qd := SMap.set 0 g.qd g.qcnt desc, hold := SMap.set [] g.hold g.qcnt x.hold
                                    qcnt := g.qcnt + 1, st := if g.st = .idle then .running else g.st } }
          (onward { x with relScope := none } 1)) ∧
      (OwnRead s t (x.getA an) 64 64 off → 8 ≤ g.qcnt →
        ∃ u, exec (.ceput t h an) s = .next u ∧ OnlyThread s u t h ∧ u.th t h = blockedIn x (.ceput an)) ∧
      (2 ≤ x.st.pl → g.st ≠ .halted →
        Retires (.ceres t h) s t h (onward { x with st := { x.st with z := true } } 1)) ∧
      (2 ≤ x.st.pl → g.st = .halted → g.active = false → g.qcnt ≠ 0 →
        RetiresAs (.ceres t h) s t h { tl with eng := { g with st := .running, part := false, cause := 0 } }
          (onward { x with st := { x.st with z := false } } 1)) ∧
      (VectorsGood tl 3 → x.st.pl = 1 → Takes (.ceres t h) s t h 3 x.pc 0 0) ∧
      (∃ w, fld w ∧ Retires (.ceqry t h d) s t h (onward (x.setD d w) 1)))

/-- R65, R92, R94, R513: a reserved encoding, of the length that its cell gives. In debug mode its thread halts with the
PC on it and the tile's other threads, registers and memory unchanged; otherwise, whatever values it leaves, no other
thread's state, no other tile and no memory changes. (Readings and choices of the model that it rests on: assumption log
9, 10.) -/
def Obligations.ReservedEncoding : Prop :=
  ∀ (s : State) (t : TileId) (h : Thr) (w : BitVec 14), Ready s t h (cellLen w) →
    (s.debug = true → ∃ u, exec (.reservedEncoding t h w) s = .next u ∧ OnlyTile s u t ∧
      (∀ k, k ≠ h → u.th t k = s.th t k) ∧ (u.th t h).run = .halted ∧ (u.th t h).pc = (s.th t h).pc ∧
      (u.th t h).d = (s.th t h).d ∧ (u.th t h).dbgCause = 5 ∧ (u.tile t).lmem = (s.tile t).lmem) ∧
    (s.debug = false → (∀ c, SMap.get false (s.tile t).pbad c = false) → ∃ u,
      exec (.reservedEncoding t h w) s = .next u ∧ (∀ r, r ≠ t → u.tile r = s.tile r) ∧
      (∀ k, k ≠ h → u.th t k = s.th t k) ∧ u = { s with tiles := u.tiles, free := s.free + 1 } ∧
      (u.tile t).lmem = (s.tile t).lmem ∧ (u.tile t).q = (s.tile t).q ∧ (u.tile t).treg = (s.tile t).treg ∧
      (u.tile t).eng = (s.tile t).eng)

/-- R356, R359, R360: an asynchronous event. Of the pending events that the thread can take, the first in the order of
R360 is taken: its pending state is cleared, PC and status are saved and the handler is entered, at M for a machine
check, a Store Error and SWM, else at S. A blocked instruction is abandoned. The slot is left for the handler's first
instruction, at whose end a single step that was due is owed. R36, R37, R230, R376: time and waiting. TIMER lets the
least time pass that brings CT_CYC to the armed compare. A blocked thread performs its instruction afresh, as if it
issued in this slot of its own; a BWAIT whose bit has the value completes; a QRD with no message to read stays blocked,
on a closed queue too. (Readings and choices of the model that it rests on: assumption log 13, 14, 97, 103.) -/
def Obligations.EventsAndWakes : Prop :=
  (∀ (s : State) (t : TileId) (h : Thr),
    let x := s.th t h
    let tl := s.tile t
    let low := x.st.ie = true ∧ (x.dlk = true ∨ x.sts = true ∨ timerDue (s.cyc t) x = true ∨ x.sws = true)
    let c : BitVec 5 :=
      if x.mcp then 0 else if x.se ≠ [] then 2 else if x.swm then 0x14 else if x.dlk then 0x13
      else if x.sts then 0x12 else if timerDue (s.cyc t) x then 0x10 else 0x11
    let late := x.se.headD ⟨x.pc, 0, 0⟩
    let y : Thread :=
      if c = 0 then { x with mcp := false } else if c = 2 then { x with se := x.se.tail }
      else if c = 0x14 then { x with swm := false } else if c = 0x13 then { x with dlk := false }
      else if c = 0x12 then { x with sts := false } else if c = 0x10 then { x with tmr := setBit x.tmr 63 false }
      else { x with sws := false }
    let toM : Bool := decide (c = 0 ∨ c = 2 ∨ c = 0x14)
    s.tileOn t = true → tl.zeroed = true → tl.causes = 0 → s.rot t % 4 = h.toNat → tl.slotUsed = false →
      (x.run = .running ∨ x.run = .blocked) → x.wait = none →
      (x.mcp = true ∨ x.st.pl ≠ 3 ∧ (x.se ≠ [] ∨ x.swm = true ∨ low)) → VectorsGood tl c →
        ∃ u z, exec (.asyncEventTaken t h) s = .next u ∧ OnlyTile s u t ∧
          u.th t h = { z with owed := s.debug && (x.st.ss || x.owed) } ∧ (u.tile t).slotUsed = false ∧
          (∀ k, k ≠ h → u.th t k = s.th t k) ∧ still (u.tile t) = still tl ∧
          let w := entered (tl.modTh h (fun _ => y)) h toM c x.pc (if c = 2 then late.detail else 0)
            (if c = 2 then late.va else 0)
          z = if c = 2 then { w with mxc := (0#4) ++ late.detail ++ (0#2) ++ late.pc ++ (0#1) ++ x.st.pl ++ (2#5) } else w) ∧
  (∀ (s : State) (t : TileId) (h : Thr),
    let x := s.th t h
    let v := (x.tmr.extractLsb' 0 63).toNat
    let c := s.cob (tileCob t)
    let woken := s.modTh t h (fun x => { x with run := .running, blk := none })
    let afresh (i : Instr) : Prop := exec (.blockedWake t h) s = exec i woken
    (s.tileOn t = true → s.alive = true → x.tmr.getLsbD 63 = true → s.cyc t < v → (s.tile t).onAt ≤ c.cyc → c.phase < 9 →
      ∃ n, 0 < n ∧ exec (.timer t h) s = .next (s.elapse n) ∧ v ≤ (s.elapse n).cyc t ∧
        ∀ m, m < n → (s.elapse m).cyc t < v) ∧
    (s.tileOn t = true → (s.tile t).zeroed = true → (s.tile t).causes = 0 → x.run = .blocked → x.wait = none →
      s.rot t % 4 = h.toNat → (s.tile t).slotUsed = false → s.asyncDue t h = none → (s.tile t).badWord x.pc 2 = false →
        (∀ bv a, x.blk = some (.bwait bv a) → (s.tile t).seed h a = bv → ∃ u,
          exec (.blockedWake t h) s = .next u ∧ OnlyThread s u t h ∧
          u.th t h = (onward { x with run := .running, blk := none } 2).slotEnd s.debug x.st.ss) ∧
        (∀ bv a, x.blk = some (.bwait bv a) → afresh (.bwait t h bv a)) ∧
        (∀ vd q, x.blk = some (.qrd vd q) →
          (((s.tile t).queue q).msgs.head?.any (fun m => m.seen) = true → afresh (.qrd t h vd q)) ∧
          (((s.tile t).queue q).msgs.head?.any (fun m => m.seen) = false → exec (.blockedWake t h) s = .next s)) ∧
        (∀ dt dh, x.blk = some (.qcmt dt dh) → afresh (.qcmt t h dt dh)) ∧
        (∀ dt dh, x.blk = some (.qrick dt dh) → afresh (.qrick t h dt dh)) ∧
        (∀ dt dg, x.blk = some (.qmcst dt dg) → afresh (.qmcst t h dt dg)) ∧
        (∀ an, x.blk = some (.ceput an) → afresh (.ceput t h an)) ∧
        (∀ dt va an k ty, x.blk = some (.vroute dt va an k ty) → ty ≠ .int32 → afresh (.vroute t h dt va an k ty))))

/-- R30, R99, R101, R107, R187, R263: data that arrives late. A load's reply that no earlier reply of its source
precedes is delivered, its thread goes on and stall cause 0 ends; a refused load takes an Access Violation; a vector
result lands, the oldest of its register first. R39, R40, R102, R191, R263, R318, R338, R339, R360, R365: what returns
to a tile, the replies of one source in order. An acknowledged store leaves the buffer and the releases that waited for
it; a refused store leaves a Store Error record, or SEOVF after eight; a filled sector holds its line's bytes; a walk's
leaf is installed and stall cause 1 ends, or the Translation Fault is taken, unless an event wins the slot. (Readings
and choices of the model that it rests on: assumption log 33, 34, 98.) -/
def Obligations.ArrivalsAtATile : Prop :=
  (∀ (s : State) (t : TileId) (h : Thr) (r vd : Reg) (va : VAddr) (g : Target) (id : Nat) (rq : Req) (b : List Byte)
    (v : VWord) (pre post : List (Reg × VWord)),
    let x := s.th t h
    let tl := s.tile t
    let free0 : BitVec 8 := if tl.causes.getLsbD 0 ∧ tl.slotOwner = h then tl.causes &&& 0xFE else tl.causes
    let awaits (d : LoadDest) (n : Nat) : Prop := x.wait = some ⟨d, va, g, n, .req id⟩
    let got (y : Thread) : Prop := ∃ u, exec (.loadDataArrival t h) s = .next u ∧
      u.th t h = (onward { y with wait := none } 2).slotEnd s.debug x.st.ss ∧ (u.tile t).causes = free0 ∧
      (∀ k, u.reqs.any (fun q => q.id == k) = (s.reqs.any (fun q => q.id == k) && !(k == id))) ∧
      u.hbm = s.hbm ∧ (u.tile t).lmem = tl.lmem
    s.tileOn t = true → tl.zeroed = true → x.stopReq = false → x.haltReq = none →
      (s.replyNext t id = true → (s.reqs.filter (fun q => q.id = id)).head? = some rq →
        (rq.ans = some (some b) → awaits (.d r) 4 → got (x.setD r (leBits 32 b))) ∧
        (rq.ans = some (some b) → awaits (.a r) 8 → got (x.setA r (leBits 64 b))) ∧
        (rq.ans = some none → awaits (.d r) 4 → VectorsGood tl 8 → ∃ u, exec (.loadDataArrival t h) s = .next u ∧
          u.th t h = (entered tl h (decide (x.st.pl ≠ 1)) 8 x.pc 0 va).slotEnd s.debug x.st.ss)) ∧
      (x.vpend = pre ++ (vd, v) :: post → (∀ p ∈ pre, p.1 ≠ vd) → ∃ u, exec (.vectorResult t h vd) s = .next u ∧
        OnlyTile s u t ∧ u.th t h = Thread.setV { x with vpend := pre ++ post } vd v)) ∧
  (∀ (s : State) (t : TileId) (h : Thr) (i : BitVec 3) (e : SBuf) (d : BitVec 4) (f : Fill) (rq : Req) (b : List Byte)
    (va : VAddr) (fn : FuncNo) (l : Leaf) (c : BitVec 4) (ecc : SliceEcc),
    let tl := s.tile t
    let x := s.th t h
    let y := s.th t e.thr
    let gone (l : List Nat) : List Nat := l.filter (fun k => k ≠ e.id)
    let emptied (u : State) : Prop :=
      (∀ p, p ∈ (u.tile t).sbuf ↔ ∃ q ∈ tl.sbuf, q.id ≠ e.id ∧ p = { q with hold := gone q.hold }) ∧
      (u.tile t).causes.getLsbD 2 = false ∧ (∀ k, (u.th t k).hold = gone (s.th t k).hold) ∧ u.hbm = s.hbm
    let own : Bool := tl.causes.getLsbD 1 && decide (tl.slotOwner = h)
    (tl.sbuf[i.toNat]? = some e → s.replyNext t e.id = true → e.done = true → e.refused = none → ∃ u, exec (.storeAck t i) s = .next u ∧ emptied u) ∧
    (tl.sbuf[i.toNat]? = some e → s.replyNext t e.id = true → e.refused = some d → ∃ u, exec (.storeRefusal t i) s = .next u ∧ emptied u ∧
      (u.th t e.thr).se = (if y.se.length < 8 then y.se ++ [⟨e.pc, e.va, d⟩] else y.se) ∧
      (u.th t e.thr).seovf = (y.seovf || decide (8 ≤ y.se.length))) ∧
    ((tl.fills.filter (fun k => k.id = f.id)).head? = some f → (s.reqs.filter (fun q => q.id = f.id)).head? = some rq →
      s.replyNext t f.id = true → rq.ans = some (some b) → b.length = 64 → f.dead = false → (tl.line f.line).tag.toNat = f.va.toNat / 256 →
      (∀ k w, (s.th t k).wait = some w → w.on ≠ .fill f.id) →
        ∃ u, exec (.sectorFill t f.id) s = .next u ∧ OnlyTile { s with reqs := u.reqs, replies := u.replies } u t ∧
          Wrote tl (u.tile t) (tl.limit + f.line * 256 + f.sector.toNat * 64) b ∧
          ((u.tile t).line f.line).tag = (tl.line f.line).tag ∧
          ((u.tile t).line f.line).valid.getLsbD f.sector.toNat = true ∧ (u.tile t).fills = tl.fills.filter (fun k => k.id ≠ f.id)) ∧
    (x.walk = some va → tl.func = some fn → x.stopReq = false → x.haltReq = none →
      let met := s.withEccs (s.entryReads (.tile t) fn va.toNat) ecc
      ((met.lookup t fn va.toNat).1 = .leaf l → ∃ u, exec (.translationWalk t h ecc) s = .next u ∧
        u.th t h = { x with walk := none } ∧ (u.tile t).tlb = ((met.lookup t fn va.toNat).2.tile t).tlb ∧
        (u.tile t).causes = if own then tl.causes &&& 0xFD else tl.causes) ∧
      ((met.lookup t fn va.toNat).1 = .fault c → x.wait = none → tl.causes &&& 0xFD = 0 → VectorsGood tl 7 →
        (x.run = .running → s.asyncDue t h = none → ∃ u, exec (.translationWalk t h ecc) s = .next u ∧
          u.th t h = (entered tl h (decide (x.st.pl ≠ 1)) 7 x.pc c va).slotEnd s.debug x.st.ss) ∧
        ((s.asyncDue t h).isSome = true → ∃ u, exec (.translationWalk t h ecc) s = .next u ∧
          u.th t h = { x with walk := none }))))

/-- R39–R41, R193, R194, R202, R375, R520, R521: the control registers. A start sets the level by SLV and clears the
rest of the status; a stop discards the stagings; halts and steps act in debug mode; SWM from S is ignored; INV and a
write of CT_LMCFG clear the cache partition. Each access restarts the idle count of the tile's half (R485), and changes
nothing else. (Readings and choices of the model that it rests on: assumption log 88.) -/
def Obligations.ThreadControl : Prop :=
  ∀ (s : State) (src : Src) (t : TileId) (h : Thr) (v : BitVec 32),
    let x := s.th t h
    let tl := s.tile t
    let s0 := s.touchHalf (paCt t 0)
    let makes (i : Instr) (y : Thread) : Prop := ∃ u, exec i s = .next u ∧ OnlyThread s0 u t h ∧ u.th t h = y
    let calm : Prop := ∀ k, (s.th t k).stopReq = false ∧ (s.th t k).haltReq = none ∧ (s.th t k).wait = none
    let on : Prop := x.run = .running ∨ x.run = .blocked
    let halted (y : Thread) : Thread :=
      { y with run := .halted, blk := none, moved := 0, part := [], stepping := false, owed := false, dbgCause := 1 }
    let cleared (u : Tile) : Prop :=
      u.lines = [] ∧ (∀ f ∈ u.fills, f.dead = true) ∧ u.fills.length = tl.fills.length ∧ u.lmem = tl.lmem ∧
        u.eng.det = {} ∧ ∀ k, u.th k = { tl.th k with det := {} }
    TileWriter s src t → calm →
      (tl.func ≠ none → x.run = .stopped → makes (.threadStart src t h)
        { x with run := .running, blk := none, st := { pl := if x.slv then 3 else 2 }, det := {}, stepping := false,
                 owed := false, moved := 0, part := [] }) ∧
      (on → tl.causes = 0 → makes (.threadStop src t h)
        { x with run := .stopped, blk := none, stgU := { x.stgU with count := 0 }, stgS := { x.stgS with count := 0 }
                 stgM := { x.stgM with count := 0 }, walk := none, moved := 0, part := [], stepping := false
                 owed := false }) ∧
      (on → tl.causes = 0 → s.debug = true → makes (.threadHalt src t h) (halted x)) ∧
      (s.debug = true → x.run = .halted →
        makes (.threadUnhalt src t h) { x with run := .running, moved := 0, part := [] } ∧
        makes (.step src t h) { x with run := .running, stepping := true }) ∧
      makes (.sws src t h) { x with sws := true } ∧
      makes (.swm src t h) { x with swm := x.swm || !(s.srcLim src) } ∧
      (s.debug = true → tl.causes = 0 → ∃ u, exec (.haltall src t) s = .next u ∧ OnlyTile s0 u t ∧
        (∀ k, u.th t k = if (s.th t k).run = .running ∨ (s.th t k).run = .blocked then halted (s.th t k) else s.th t k) ∧
        still (u.tile t) = still tl) ∧
      (∃ u, exec (.inv src t) s = .next u ∧ OnlyTile s0 u t ∧ cleared (u.tile t) ∧ (u.tile t).csize = tl.csize) ∧
      (∃ u, exec (.csizeWrite src t v) s = .next u ∧ OnlyTile s0 u t ∧ cleared (u.tile t) ∧
        (u.tile t).csize = v.extractLsb' 0 2 ∧ (u.tile t).pfd = v.extractLsb' 2 3)

/-! ## Queues, credit and responses -/

/-- R211, R212, R221–R225, R368: a message reaches its queue. The checks are made in order and a message that fails one
is discarded and answered; one that passes is placed, a skip marker before it when it would not fit before the ring's
end, and answered ACCEPTED; a credited message without contiguous room waits, and is placed first when the room is
there. The bytes of a message of the data mesh go through the inbound write buffer (R180), and it is visible when they
have left it; while that buffer is full the mesh holds such a message back. R217, R227, R313, R331, R429: a response.
Its tag is free again once every member has answered. STALE and CLOSED set the sticky bit of the thread that committed
the message, once for the message, and discard the credit entry for the member that answered; each outcome but ACCEPTED
counts; the first STALE makes the event pending that QT_SCTL enables. Completion and fault messages and position events
count in their own registers. (Readings and choices of the model that it rests on: assumption log 39, 40, 44.) -/
def Obligations.MessagesAndResponses : Prop :=
  (∀ (s : State) (t : TileId) (id : Nat) (p : Pkt) (m : Msg) (src : Party) (rest : List (Msg × Party)),
    let q : QIx := m.handle.extractLsb' 0 4
    let tl := s.tile t
    let k := tl.queue q
    let n := m.payload.length
    let b := (4 * (n + 1) + 7) / 8 * 8
    let foreign : Prop := match p.src with
      | .tile _ => m.func ≠ tl.func
      | _ => k.ext = false
    let wrong : Prop := s.ownerFailed t = true ∨ k.en = false ∨ foreign ∨ m.handle.extractLsb' 24 8 ≠ k.epoch
    let mixed : Prop := ¬(m.kind = 1 ↔ k.mode = true)
    let bad : Resp → Prop := fun r => match r with
      | .stale => wrong ∨ k.closed = false ∧ mixed
      | .closed => ¬wrong ∧ k.closed = true
      | .dropped => ¬wrong ∧ k.closed = false ∧ ¬mixed ∧ m.credited = false ∧ k.pool < (b : Int)
      | .accepted => False
    let passes : Prop := ∀ r, ¬bad r
    let sk := if k.size - k.wr < b then k.size - k.wr else 0
    let room : Prop := sk + b ≤ k.size - k.used
    let need := scopeNeeded (if m.origin.extractLsb' 0 2 = 0 then some m.sender else none) t
    let off := k.base + if sk = 0 then k.wr else 0
    let mesh := decide (m.kind = 0 ∧ 2 ≤ n)
    let free : Prop := mesh = true → tl.inbuf.length < 16
    let ws := (m.kind ++ BitVec.ofNat 2 (n - 1) ++ m.sender ++ m.tag) :: m.payload
    let reply (d : Party) (r : Resp) : Pkt := ⟨s.nextId, .tile t, d, 1, .resp m.rtag r, [], []⟩
    let placed (u : State) (w : List (Msg × Party)) : Prop :=
      OnlyQueue s u t q ∧
      (u.tile t).queue q = { k with
        wr := if k.size - k.wr < b then b else (k.wr + b) % k.size
        used := k.used + sk + b, waiting := w, granted := if m.credited then k.granted - b else k.granted
        msgs := k.msgs ++ [⟨sk, 4 * (n + 1), m.origin, m.sender, m.relScope, need,
          decide (scopeRank (some need) ≤ scopeRank m.relScope), !mesh⟩] } ∧
      (u.tile t).inbuf = tl.inbuf ++ (if mesh then [⟨off, ws.flatMap (byteList · 4), .ring q⟩] else []) ∧
      (mesh = false → ∀ j, j < 4 * (n + 1) → (u.tile t).lmem.byte (off + j) = (ws.getD (j / 4) 0).extractLsb' (8 * (j % 4)) 8) ∧
      (sk ≠ 0 → ∀ j, j < 4 → (u.tile t).lmem.byte (k.base + k.wr + j) =
        (0xC0000000#32 + BitVec.ofNat 32 sk).extractLsb' (8 * j) 8) ∧
      (∀ a, ¬(sk ≠ 0 ∧ k.base + k.wr ≤ a ∧ a < k.base + k.wr + 4) →
        ¬(mesh = false ∧ off ≤ a ∧ a < off + 4 * (n + 1)) → (u.tile t).lmem.byte a = tl.lmem.byte a) ∧
      (u.tile t).pev = (if m.kind = 2 then setBit tl.pev q.toNat true else tl.pev)
    s.tileOn t = true → tl.zeroed = true → 1 ≤ n → n ≤ 4 → k.wr % 8 = 0 → k.wr < k.size → tl.errWords k.base k.size = [] →
      (s.packet id = some p → p.dst = .tile t → p.body = .msg m → s.stuckBehind t p = false →
        (¬free → exec (.messageArrival id) s = .next s) ∧
        (free → ∀ r, bad r → ∃ u, exec (.messageArrival id) s = .next u ∧ OnlyQueue s u t q ∧
          (u.tile t).queue q = { k with
            drop := satAdd k.drop 1
            granted := if m.credited ∧ m.handle.extractLsb' 24 8 = k.epoch then k.granted - b else k.granted } ∧
          (u.tile t).lmem = tl.lmem ∧ (u.tile t).inbuf = tl.inbuf ∧
          u.net = s.net.filter (fun o => o.id ≠ id) ++ [reply p.src r]) ∧
        (free → passes → (m.credited = false ∨ k.waiting = [] ∧ room) → ∃ u,
          exec (.messageArrival id) s = .next u ∧ placed u k.waiting ∧
          u.net = s.net.filter (fun o => o.id ≠ id) ++ [reply p.src .accepted]) ∧
        (free → passes → m.credited = true → (k.waiting ≠ [] ∨ ¬room) → ∃ u,
          exec (.messageArrival id) s = .next u ∧ OnlyQueue s u t q ∧
          (u.tile t).queue q = { k with waiting := k.waiting ++ [(m, p.src)] } ∧
          u.net = s.net.filter (fun o => o.id ≠ id))) ∧
      (k.waiting = (m, src) :: rest → room →
        (¬free → exec (.waitingMessagePlaced t q) s = .next s) ∧
        (free → ∃ u, exec (.waitingMessagePlaced t q) s = .next u ∧ placed u rest ∧ u.net = s.net ++ [reply src .accepted]))) ∧
  (∀ (s : State) (t v : TileId) (h : Thr) (id tag : Nat) (p : Pkt) (r : Resp) (e : Sent),
    let tl := s.tile t
    let x := s.th t h
    let alive : Prop := ∀ f, tl.func = some f → (s.func f).st ≠ .resetting
    let y : Thread := match r with
      | .accepted => x
      | .stale => { x with cntStale := satAdd x.cntStale 1, sts := x.sts || (!e.stale && x.stex) }
      | .closed => { x with cntClosed := satAdd x.cntClosed 1 }
      | .dropped => { x with cntDropped := satAdd x.cntDropped 1 }
    let after : Sent := { e with left := e.left - 1, stale := e.stale || decide (r = .stale), closed := e.closed || decide (r = .closed) }
    let freed (u : State) : Prop :=
      (∀ z, z ∈ (u.tile t).send.sent ↔ z ∈ tl.send.sent ∧ z.tag ≠ tag ∨ z = after ∧ 1 < e.left) ∧
      (∀ hd, (e.handles.filter (fun k => k.extractLsb' 4 12 = v)).head? = some hd → (r = .stale ∨ r = .closed) →
        ∀ i, tl.send.find hd = some i → (u.tile t).send.entry i = {} ∧
          ∀ j, j ≠ i → (u.tile t).send.entry j = tl.send.entry j) ∧
      ((r = .accepted ∨ r = .dropped ∨ ∀ k ∈ e.handles, k.extractLsb' 4 12 ≠ v) → (u.tile t).send.cred = tl.send.cred)
    (s.packet id = some p → p.body = .resp tag r →
      (p.dst = .tile t → p.src = .tile v → s.tileOn t = true → e ∈ tl.send.sent → e.tag = tag → e.left ≠ 0 →
        (∀ z ∈ tl.send.sent, z.left ≠ 0 ∧ (z.tag = tag → z = e)) →
        (e.owner = .thread h → alive → ∃ u, exec (.responseArrival id) s = .next u ∧ freed u ∧ u.th t h = y ∧
          (∀ k, k ≠ h → u.th t k = s.th t k) ∧
          (u.tile t).stale = (if r = .stale ∧ e.stale = false then setBit tl.stale h.toNat true else tl.stale) ∧
          (u.tile t).closedS = (if r = .closed ∧ e.closed = false then setBit tl.closedS h.toNat true else tl.closedS)) ∧
        (e.owner = .engDone → ∃ u, exec (.responseArrival id) s = .next u ∧ freed u ∧
          (u.tile t).eng.cqerr = if r = .accepted then tl.eng.cqerr else satAdd tl.eng.cqerr 1) ∧
        (e.owner = .engFault → ∃ u, exec (.responseArrival id) s = .next u ∧ freed u ∧
          (u.tile t).eng.fqerr = if r = .accepted then tl.eng.fqerr else satAdd tl.eng.fqerr 1)) ∧
      (p.dst = .timebase → ∃ u, exec (.responseArrival id) s = .next u ∧
        u = { s with net := u.net, pt := { s.pt with
          evStale := if r = .stale then satAdd s.pt.evStale 1 else s.pt.evStale
          evClosed := if r = .closed then satAdd s.pt.evClosed 1 else s.pt.evClosed
          evDropped := if r = .dropped then satAdd s.pt.evDropped 1 else s.pt.evDropped } })))

/-- R225, R235–R237, R260: rick contributions. An armed round of the same TAG and LEN takes a contribution: its sum and
its count of contributors grow and every contributor is answered ACCEPTED; the last one ends the round, whose result is
placed; any other contribution is answered STALE. A contribution comes through the inbound write buffer, so the writes
ahead of it land first (R223). Two contributions of one handle, TAG and LEN that a router holds for one output combine
into their sum. (Readings and choices of the model that it rests on: assumption log 40, 101.) -/
def Obligations.RickEvents : Prop :=
  ∀ (s : State) (t r : TileId) (id other : Nat) (p o : Pkt) (m n : Msg) (who whoN : List Contrib)
    (left : Option (TileId × Bool)) (out : Option TileId) (k0 : Rick),
    let q : QIx := m.handle.extractLsb' 0 4
    let tl := s.tile t
    let k := tl.queue q
    let c := who.length
    let own : Prop := ∀ x ∈ who, match x.src with
      | .tile _ => m.func = tl.func
      | _ => k.ext = true
    let open_ : Prop := s.ownerFailed t = false ∧ k.en = true ∧ own ∧ m.handle.extractLsb' 24 8 = k.epoch ∧ k.mode = true
    let fits : Prop := k.rick = some k0 ∧ k0.tag = m.tag ∧ k0.len.toNat + 1 = m.payload.length ∧ k0.count + c ≤ k0.expect
    let k1 : Rick := { k0 with
      count := k0.count + c
      acc := rickAdd (m.tag.extractLsb' 14 2) k0.acc m.payload
      covered := k0.covered && who.all (fun x => x.covered)
      needed := who.foldl (fun a x => widest a x.needed) k0.needed }
    let both : Body :=
      .rick { m with payload := rickAdd (m.tag.extractLsb' 14 2) m.payload n.payload } (who ++ whoN) (some (r, false))
    let answers (a : Resp) (ps : List Pkt) : Prop :=
      ps.map (fun x => (x.src, x.dst, x.net, x.body)) = who.map (fun x => (.tile t, x.src, 1, .resp x.tag a))
    (s.packet id = some p → p.dst = .tile t → p.body = .rick m who left → s.stuckBehind t p = false → s.tileOn t = true →
      tl.zeroed = true →
        (∃ u, exec (.rickContributionArrival id) s = .next u ∧ (u.tile t).inbuf = []) ∧
        (∀ w, open_ → k.closed = false → fits → k0.count + c < k0.expect → tl.inbuf = [w] →
          tl.writeBad w.off (w.bytes.map some) = none → ∃ u, exec (.rickContributionArrival id) s = .next u ∧
            Wrote tl (u.tile t) w.off w.bytes ∧ ((u.tile t).queue q).rick = some k1) ∧
        (tl.inbuf = [] → (¬(s.ownerFailed t = false ∧ k.en = true ∧ own ∧ m.handle.extractLsb' 24 8 = k.epoch) ∨
          k.closed = false ∧ (k.mode = false ∨ ∀ x, k.rick = some x →
            ¬(x.tag = m.tag ∧ x.len.toNat + 1 = m.payload.length ∧ x.count + c ≤ x.expect))) → m.credited = false →
          ∃ u ps, exec (.rickContributionArrival id) s = .next u ∧ OnlyQueue s u t q ∧ answers .stale ps ∧
            (u.tile t).queue q = { k with drop := satAdd k.drop 1 } ∧ u.net = s.net.filter (fun x => x.id ≠ id) ++ ps) ∧
        (open_ → k.closed = false → fits → k0.count + c < k0.expect → ∃ u ps,
          exec (.rickContributionArrival id) s = .next u ∧ OnlyQueue s u t q ∧ answers .accepted ps ∧
          (u.tile t).queue q = { k with rick := some k1 } ∧ u.net = s.net.filter (fun x => x.id ≠ id) ++ ps) ∧
        (open_ → k.closed = false → fits → k0.count + c = k0.expect → tl.errWords k.base k.size = [] → k.wr < k.size →
          k.wr % 8 = 0 → k1.acc.length = m.payload.length → ∃ u ps, exec (.rickContributionArrival id) s = .next u ∧
            OnlyQueue s u t q ∧ answers .accepted ps ∧ u.net = s.net.filter (fun x => x.id ≠ id) ++ ps ∧
            ((u.tile t).queue q).rick = none ∧ ((u.tile t).queue q).last = some k1 ∧
            ((u.tile t).queue q).msgs.length = k.msgs.length + 1 ∧
            ((u.tile t).queue q).granted = k.granted - (4 * (m.payload.length + 1) + 7) / 8 * 8 ∧
            (let off := k.base + if k.size - k.wr < (4 * (m.payload.length + 1) + 7) / 8 * 8 then 0 else k.wr
             ∀ j, j < 4 * m.payload.length →
              (u.tile t).lmem.byte (off + 4 + j) = (k1.acc.getD (j / 4) 0).extractLsb' (8 * (j % 4)) 8))) ∧
    (s.contribAt r id = some (p, m, who, out) → s.contribAt r other = some (o, n, whoN, out) → id ≠ other → m.handle = n.handle →
      m.tag = n.tag → m.payload.length = n.payload.length → m.func = n.func → ∃ u,
        exec (.routerCombine r id other) s = .next u ∧ (∀ x, x ∈ u.net ↔ ∃ y ∈ s.net, y.id ≠ other ∧
          x = if y.id = id then { y with body := both } else y) ∧
        u = { s with net := u.net, tiles := u.tiles }) ∧
    (s.contribAt r id = some (p, m, who, out) → ∃ u, exec (.rickHoldExpiry r id) s = .next u ∧
      u.net = s.net.map (fun y => if y.id = id then { y with body := .rick m who (some (r, true)) } else y) ∧
      u = { s with net := u.net }) ∧
    (m.payload.length = n.payload.length →
      rickAdd 0 m.payload n.payload = List.zipWith (fun a b => a + b) m.payload n.payload ∧
      rickAdd 1 m.payload n.payload = List.zipWith f32add m.payload n.payload)

/-- R218–R220, R552: credit. A request is refused by a queue that no message could enter, granted 64 << GRAIN bytes,
else the whole pool in eights when it covers the request, else held, in order; the first held request is checked again,
and granted or refused, once it could be granted; a grant or refusal lands in its entry or goes back; a return of the
queue's epoch lowers granted; an idle entry and a FLUSH return what they hold. (Readings and choices of the model that
it rests on: assumption log 44, 45, 95.) -/
def Obligations.CreditEvents : Prop :=
  ∀ (s : State) (src : Src) (t : TileId) (id : Nat) (p : Pkt) (hd : Word) (b : Nat) (f : Option FuncNo) (who : Party)
    (rest : List (Party × Nat × Word × Option FuncNo)) (i : Nat) (e : BitVec 4) (no : Bool),
    let q : QIx := hd.extractLsb' 0 4
    let tl := s.tile t
    let k := tl.queue q
    let g := 64 * 2 ^ k.grain.toNat
    let foreign (x : Party) : Prop := match x with
      | .tile _ => f ≠ tl.func
      | _ => k.ext = false
    let refused (x : Party) : Prop :=
      k.en = false ∨ foreign x ∨ hd.extractLsb' 24 8 ≠ k.epoch ∨ k.closed = true ∨ k.mode = true
    let cut := s.net.filter (fun x => x.id ≠ id)
    let answer (x : Party) (n : Nat) (r : Bool) : Pkt := ⟨s.nextId, .tile t, x, 1, .grant hd n r, [], []⟩
    let does (c : Instr) (k' : Queue) (net : List Pkt) : Prop := ∃ u, exec c s = .next u ∧ OnlyQueue s u t q ∧
      (u.tile t).queue q = k' ∧ u.net = net ∧ (u.tile t).lmem = tl.lmem ∧ (u.tile t).send = tl.send
    let asks (c : Instr) (x : Party) (k1 : Queue) (net : List Pkt) : Prop :=
      (¬refused x → (g : Int) ≤ k.pool → does c { k1 with granted := k.granted + g } (net ++ [answer x g false])) ∧
      (¬refused x → k.pool < (g : Int) → (b : Int) ≤ k.pool →
        does c { k1 with granted := k.granted + k.pool.toNat / 8 * 8 } (net ++ [answer x (k.pool.toNat / 8 * 8) false]))
    (s.packet id = some p → p.dst = .tile t → p.body = .credReq hd b f → s.stuckBehind t p = false → s.tileOn t = true →
      (refused p.src → does (.creditRequestArrival id) k (cut ++ [answer p.src 0 true])) ∧
      asks (.creditRequestArrival id) p.src k cut ∧
      (¬refused p.src → k.pool < (g : Int) → k.pool < (b : Int) →
        does (.creditRequestArrival id) { k with held := k.held ++ [(p.src, b, hd, f)] } cut)) ∧
    (k.held = (who, b, hd, f) :: rest →
      (refused who → ((g : Int) ≤ k.pool ∨ (b : Int) ≤ k.pool) →
        does (.heldRequestGrant t q) { k with held := rest } (s.net ++ [answer who 0 true])) ∧
      asks (.heldRequestGrant t q) who { k with held := rest } s.net ∧
      (k.pool < (g : Int) → k.pool < (b : Int) → exec (.heldRequestGrant t q) s = .next s)) ∧
    (s.packet id = some p → p.dst = .tile t → p.body = .grant hd b no → s.tileOn t = true →
      (∀ x, tl.send.find hd = some x → ∃ u, exec (.grantArrival id) s = .next u ∧ u.net = cut ∧
        (u.tile t).send.entry x = { tl.send.entry x with
          req := false, refused := (tl.send.entry x).refused || no, bytes := (tl.send.entry x).bytes + b
          lastUse := tl.send.useCtr + 1 }) ∧
      (tl.send.find hd = none → b ≠ 0 → ∃ u, exec (.grantArrival id) s = .next u ∧ (u.tile t).send = tl.send ∧
        u.net = cut ++ [⟨s.nextId, .tile t, .tile (hd.extractLsb' 4 12), 1, .credRet hd b, [], []⟩])) ∧
    (s.packet id = some p → p.dst = .tile t → p.body = .credRet hd b → s.tileOn t = true →
      does (.creditReturnArrival id)
        (if k.epoch = hd.extractLsb' 24 8 then { k with granted := k.granted - b } else k) cut) ∧
    (let x := tl.send.entry e.toNat
     x.valid = true → x.req = false → ∃ u, exec (.creditIdleReturn (.tile t) e) s = .next u ∧
      (u.tile t).send.entry e.toNat = {} ∧ (∀ j, j ≠ e.toNat → (u.tile t).send.entry j = tl.send.entry j) ∧
      u.net = (if x.bytes = 0 then s.net else s.net ++ [⟨s.nextId, .tile t, .tile (x.qid.extractLsb' 4 12), 1,
        .credRet (x.epoch ++ (0#8) ++ x.qid) x.bytes, [], []⟩])) ∧
    (TileWriter s src t → ∃ u ps, exec (.flush src t) s = .next u ∧ u.net = s.net ++ ps ∧
      (∀ j, j < 16 → ((u.tile t).send.entry j).valid = false) ∧
      (i < 16 → (tl.send.entry i).valid = true → (tl.send.entry i).bytes ≠ 0 → ∃ x ∈ ps,
        x.dst = .tile ((tl.send.entry i).qid.extractLsb' 4 12) ∧ x.net = 1 ∧
        x.body = .credRet ((tl.send.entry i).epoch ++ (0#8) ++ (tl.send.entry i).qid) (tl.send.entry i).bytes))

/-- R209, R231, R238, R243, R244, R553: the queue registers. An enable whose ring is legal empties the queue in a new
epoch, else sets CFGERR; a disable, and a reassignment, answer waiting messages STALE and refuse held requests; CLOSE
closes; DISARM ends the round and frees its room. (Readings and choices of the model that it rests on: assumption log
42, 96.) -/
def Obligations.QueueRegisters : Prop :=
  ∀ (s : State) (src : Src) (t : TileId) (q : QIx) (w : BitVec 32) (r : Rick),
    let s0 := s.touchHalf (paQt t (8 * q.toNat))
    let tl := s.tile t
    let k := tl.queue q
    let base := (w.extractLsb' 8 14).toNat * 64
    let size := 64 * 2 ^ (w.extractLsb' 4 4).toNat
    let legal : Prop := (w.extractLsb' 4 4).toNat ≤ 10 ∧ base % size = 0 ∧ base + size ≤ tl.limit
    let set : Queue := { k with
      mode := w.getLsbD 1, ext := w.getLsbD 2, rsize := w.extractLsb' 4 4, rbase := w.extractLsb' 8 14
      grain := w.extractLsb' 22 3 }
    let empty (x : Queue) : Queue := { x with
      epoch := k.epoch + 1, rd := 0, wr := 0, used := 0, msgs := [], closed := false, granted := 0, held := [], waiting := []
      rick := none, last := if k.rick.isSome then k.rick else k.last }
    let does (c : Instr) (k' : Queue) (ps : List Pkt) : Prop := ∃ u, exec c s = .next u ∧ OnlyQueue s0 u t q ∧
      (u.tile t).queue q = k' ∧ u.net = s.net ++ ps ∧ (u.tile t).lmem = tl.lmem ∧ (u.tile t).send = tl.send
    let turned (ps : List Pkt) : Prop := ps.map (fun x => (x.src, x.dst, x.net, x.body)) =
      k.waiting.map (fun x => (.tile t, x.2, 1, .resp x.1.rtag .stale)) ++
      k.held.map (fun x => (.tile t, x.1, 1, .grant x.2.2.1 0 true))
    TileWriter s src t →
      (k.en = false → legal → ∃ ps, turned ps ∧
        does (.queueEnable src t q w) { empty set with en := true, cfgerr := false } ps) ∧
      (k.en = false → ¬legal → does (.queueEnable src t q w) { set with cfgerr := true } []) ∧
      (k.en = true → ∃ ps, turned ps ∧ does (.queueDisable src t q) { k with
        en := false, held := [], waiting := []
        granted := k.waiting.foldl (fun g x => g - (4 * (x.1.payload.length + 1) + 7) / 8 * 8) k.granted } ps) ∧
      (∃ ps, turned ps ∧ does (.reassign src t q) (empty k) ps) ∧
      does (.close src t q) { k with closed := true } [] ∧
      (k.mode = true → k.rick = some r → does (.disarm src t q) { k with
        rick := none, last := some r, granted := k.granted - (4 * (r.len.toNat + 2) + 7) / 8 * 8 } [])

/-! ## Copy engines -/

/-- R307, R309, R310, R313: a tile engine's descriptor and its chunks. A valid descriptor becomes active; one that ends
at once queues its completion message, or leaves the queue with CEDONE set when it sends none. A chunk of a plain copy
from the tile's own scratchpad to HBM is checked and in flight; a source outside every window halts the engine with
cause 7 and a fault message. A finished chunk's bytes stand in HBM and CE_NEXT has advanced; the last one queues the
completion message. (Readings and choices of the model that it rests on: assumption log 47, 48, 50, 107.) -/
def Obligations.DescriptorEvents : Prop :=
  ∀ (s : State) (t : TileId) (f : FuncNo) (code : Byte) (o : Nat) (l : Leaf) (c : Chunk) (pa n : Nat) (dva : VAddr)
    (ecc : SliceEcc),
    let tl := s.tile t
    let g := tl.eng
    let x := g.xfer
    let makes (i : Instr) (y : Tile) : Prop := ∃ u, exec i s = .next u ∧ OnlyTile s u t ∧ still (u.tile t) = still y ∧
      ∀ k, u.th t k = s.th t k
    let message (st : Byte) (b : Nat) : EngMsg := ⟨false, x.cqh, x.tag, [(0#21) ++ BitVec.ofNat 3 x.mode ++ st, BitVec.ofNat 32 b]⟩
    let speaks : Prop := x.ncq = false ∧ x.cqh.extractLsb' 16 8 = 0
    s.tileOn t = true → tl.zeroed = true → tl.func = some f → g.jobs = [] → g.st = .running → g.halting = none →
      g.pausing = false → g.ending = false →
      (g.active = false → g.qcnt ≠ 0 → s.checkSleeps (.tile t) f x = none → g.inflight = [] → (∀ m ∈ g.out, m.fault = true) → SMap.get [] g.hold 0 = [] →
        (s.validate (.tile t) f x = none → g.next < (x.len + 4095) / 4096 →
          makes (.descriptorStart (.tile t)) { tl with eng := { g with active := true } }) ∧
        (s.validate (.tile t) f x = some code → speaks → makes (.descriptorStart (.tile t))
          { tl with eng := { g with active := true, ending := true, out := g.out ++ [message code 0] } }) ∧
        (s.validate (.tile t) f x = some code → x.ncq = true → ∃ u, exec (.descriptorStart (.tile t)) s = .next u ∧
          (u.tile t).cedone = true ∧ (u.tile t).eng.active = false ∧ (u.tile t).eng.qcnt = g.qcnt - 1 ∧
          (u.tile t).eng.st = if g.qcnt = 1 then .idle else .running) ∧
        (x.junk = true ∨ 4 ≤ x.mode ∨ x.mode = 1 ∧ x.atype = 3 ∨ 2 ^ 48 ≤ x.src ∨ 2 ^ 48 ≤ x.dst →
          s.validate (.tile t) f x = some 3) ∧
        (x.badFormat = false → x.len = 0 → s.validate (.tile t) f x = some 0)) ∧
      (g.active = true → g.inflight = [] → g.next = 0 → x.mode = 0 → x.ck = false → x.row = 0 → 1 ≤ x.len → x.len ≤ 4096 →
        x.src < 0x100000000 →
        (x.src % 4096 + x.len ≤ 4096 → x.dst % 4096 + x.len ≤ 4096 → 0x100000000 ≤ x.dst → x.dst + x.len ≤ 2 ^ 48 →
          s.resolveLocal t x.src x.len false = some (.own o) → tlbFind tl.tlb f x.dst = some (l, tl.tlb) →
          l.refuses true x.user = none → l.addr x.dst < 0x28000000000 → ∃ u, exec (.chunkStart (.tile t) ecc) s = .next u ∧
            OnlyTile { s with nextId := s.nextId + 1 } u t ∧ still (u.tile t) = still { tl with eng := { g with
              inflight := [⟨s.nextId, 0, f, none,
                [⟨.own o, .hbm (l.addr x.dst), BitVec.ofNat 48 x.dst, x.len, none⟩], none, false, false⟩] } }) ∧
        (x.src % 4096 + x.len ≤ 4096 → x.dst % 4096 + x.len ≤ 4096 → x.dst < 2 ^ 48 →
          s.resolveLocal t x.src x.len false = none → ∃ u,
          exec (.chunkStart (.tile t) ecc) s = .next u ∧ OnlyTile s u t ∧ (u.tile t).ceflt = true ∧
          (u.tile t).eng = { g with st := .halted, next := 0, cause := 7, fva := BitVec.ofNat 48 x.src, part := false
                                    out := g.out ++ [⟨true, g.fqh, 7,
                                      [(0#4) ++ x.lv ++ (0#6) ++ (7#4) ++ (0#4) ++ t, BitVec.ofNat 32 x.src, 0, 0]⟩] })) ∧
      (g.active = true → g.inflight = [c] → c.no = g.next → c.acc = none → c.claim = none → c.cxl = false → 1 ≤ n → n ≤ 4096 →
        c.pieces = [⟨.own o, .hbm pa, dva, n, none⟩] → s.chunkWaits c.id = false → s.chunkHeld (.tile t) c = false → s.sliceOn pa = true → tl.errWords o n = [] →
        s.writeBurst pa n = none →
          let wrote (u : State) : Prop := ∀ a,
            u.hbm.byte a = if pa ≤ a ∧ a < pa + n then tl.lmem.byte (o + (a - pa)) else s.hbm.byte a
          (g.next + 1 < (x.len + 4095) / 4096 → ∃ u, exec (.chunkFinish (.tile t) []) s = .next u ∧ wrote u ∧
            (u.tile t).eng = { g with inflight := [], next := g.next + 1 }) ∧
          (g.next + 1 = (x.len + 4095) / 4096 → speaks → ∃ u, exec (.chunkFinish (.tile t) []) s = .next u ∧ wrote u ∧
            (u.tile t).eng = { g with inflight := [], next := g.next + 1, ending := true, out := g.out ++ [message 0 x.len] }))

/-- R303, R310, R312–R315, R331: a tile engine's messages, its late errors and CE_CTL. A message leaves with credit and
a tag, and a completion message sets CEDONE; a chunk that another tile refuses halts the engine with PART 1 once no
other chunk is in flight; PAUSE, GO, RESUME and ABORT move the engine between its states. (Readings and choices of the
model that it rests on: assumption log 48, 51.) -/
def Obligations.EngineControl : Prop :=
  ∀ (s : State) (src : Src) (t r : TileId) (m : EngMsg) (rest : List EngMsg) (i tag o : Nat) (c : Chunk) (p : Piece)
    (va : VAddr) (hd : Option (BitVec 14)) (ecc : SliceEcc),
    let s0 := s.touchHalf (paCe t 8)
    let tl := s.tile t
    let g := tl.eng
    let x := g.xfer
    let makes (i : Instr) (e : Engine) : Prop := ∃ u, exec i s = .next u ∧ OnlyTile s0 u t ∧
      still (u.tile t) = still { tl with eng := e } ∧ ∀ k, u.th t k = s.th t k
    let n := (4 * (m.payload.length + 1) + 7) / 8 * 8
    let more : Prop := g.halting = none ∧ g.pausing = false ∧ g.ending = false ∧ g.next < (x.len + 4095) / 4096
    s.tileOn t = true → tl.zeroed = true → g.jobs = [] →
      (g.out = m :: rest → m.handle.extractLsb' 16 8 = 0 → tl.send.find m.handle = some i →
        (tl.send.entry i).refused = false → n ≤ (tl.send.entry i).bytes → tl.send.freeTag = some tag →
        g.halting = none → (g.ending = true ∨ g.st ≠ .running) → 2 ≤ m.payload.length → ∃ u k,
          exec (.completionMessageSend (.tile t)) s = .next u ∧ u.net = s.net ++ [k] ∧ k.src = .tile t ∧
          k.dst = .tile (m.handle.extractLsb' 4 12) ∧ k.net = 3 ∧
          k.body = .msg ⟨0, t, 0, tl.func, m.tag, m.payload, m.handle, true, tag, if m.fault then none else some .system⟩ ∧
          (u.tile t).send.entry i = { tl.send.entry i with
            bytes := (tl.send.entry i).bytes - n, lastUse := tl.send.useCtr + 1 } ∧
          (u.tile t).eng.out = rest ∧ (u.tile t).cedone = (tl.cedone || !m.fault)) ∧
      (g.st = .running → g.active = true → g.inflight = [c] → g.halting = none → c.pieces = [p] → p.dst = .remote r o hd →
        s.remoteAt r tl.func ((tl.place).extractLsb' 8 8) hd o p.n = none → p.dva.toNat ≤ va.toNat →
        va.toNat < p.dva.toNat + p.n → ∃ u, exec (.lateError (.tile t) 8 va true 0 ecc) s = .next u ∧
          (u.tile t).ceflt = true ∧ (u.tile t).eng.st = .halted ∧ (u.tile t).eng.next = c.no ∧
          (u.tile t).eng.cause = 8 ∧ (u.tile t).eng.fva = va ∧ (u.tile t).eng.part = true ∧
          (u.tile t).eng.inflight = [] ∧ u.hbm = s.hbm) ∧
      (TileWriter s src t →
        (g.st = .idle → makes (.pause src t) { g with st := .paused }) ∧
        (g.st = .running → g.inflight = [] → more → makes (.pause src t) { g with st := .paused, active := false }) ∧
        (g.st = .paused → g.qcnt = 0 → makes (.go src t) { g with st := .idle }) ∧
        (g.st = .paused → g.qcnt ≠ 0 → makes (.go src t) { g with st := .running, active := false }) ∧
        (g.st = .halted → g.active = true → ¬(x.mode = 1 ∧ g.part = true) → more →
          makes (.resume src t) { g with st := .running, part := false, cause := 0 }) ∧
        (g.st = .halted → g.active = true → x.ncq = false → x.cqh.extractLsb' 16 8 = 0 → ∃ u,
          exec (.abort src t) s = .next u ∧ (u.tile t).eng.st = .halted ∧ (u.tile t).eng.active = false ∧
          (u.tile t).eng.qcnt = g.qcnt - 1 ∧ (u.tile t).eng.next = 0 ∧ (u.tile t).eng.cause = 0 ∧
          (u.tile t).eng.part = false ∧ (u.tile t).eng.out = g.out ++ [⟨false, x.cqh, x.tag,
            [(0#21) ++ BitVec.ofNat 3 x.mode ++ (5#8), BitVec.ofNat 32 (min (4096 * g.next) x.len)]⟩]))

/-! ## Memory -/

/-- R278, R288–R293, R387, R390, R391: collier operations. The masked elements of a block are added in place, an ADD.XS
also into the accumulator of its function and selector, modulo 2^61 - 1; CKADD adds a claim; CKRD returns the record and
clears the accumulator; a sweep does so at the 64 colliers of a Cob and keeps the sums and the two maps. (Readings and
choices of the model that it rests on: assumption log 69, 71.) -/
def Obligations.CollierOperations : Prop :=
  ∀ (s : State) (src : Src) (who : Option TileId) (f : FuncNo) (ck : Bool) (pa : BitVec 46) (m16 : BitVec 16)
    (m8 : BitVec 8) (x : BitVec 512) (claim : BitVec 64) (c : CobNo),
    let b := pa.toNat / 64 * 64
    let word (m : Memory) (a : Nat) : Word := m.byte (a + 3) ++ m.byte (a + 2) ++ m.byte (a + 1) ++ m.byte a
    let dword (m : Memory) (a : Nat) : DWord := word m (a + 4) ++ word m a
    let outside (u : State) : Prop := ∀ a, (a < b ∨ b + 64 ≤ a) → u.hbm.byte a = s.hbm.byte a
    let i := sliceOf b
    let a := 2 * f.toNat + if ck then 1 else 0
    let old := SMap.get {} (s.slice i).acc a
    let on := (List.range 8).filter (fun k => m8.getLsbD k)
    let sum (k : Nat) : Int := (dword s.hbm (b + 8 * k)).toInt + (laneOf 64 x k).toInt
    let fits (k : Nat) : Bool := decide (-(2 ^ 63) ≤ sum k ∧ sum k < 2 ^ 63)
    let p := 2 ^ 61 - 1
    let recs := (List.range 64).map (fun k => SMap.get {} (s.slice (32 * (k % 32) + 2 * c.toNat + k / 32)).acc a)
    (pa.toNat < 0x28000000000 → s.sliceOn pa.toNat = true → s.badBurst b 64 = none →
      (∃ u, exec (.addI32 who f pa m16 x []) s = .next u ∧ outside u ∧ ∀ k, k < 16 →
        word u.hbm (b + 4 * k) = word s.hbm (b + 4 * k) + if m16.getLsbD k then laneOf 32 x k else 0) ∧
      (∃ u, exec (.addF32 who f pa m16 x []) s = .next u ∧ outside u ∧ ∀ k, k < 16 → word u.hbm (b + 4 * k) =
        if m16.getLsbD k then f32add (word s.hbm (b + 4 * k)) (laneOf 32 x k) else word s.hbm (b + 4 * k)) ∧
      (∃ u, exec (.addXs who f ck pa m8 x []) s = .next u ∧ outside u ∧
        (∀ k, k < 8 → dword u.hbm (b + 8 * k) = dword s.hbm (b + 8 * k) + if m8.getLsbD k then laneOf 64 x k else 0) ∧
        (old.recv < p → SMap.get {} (u.slice i).acc a = { old with
          recv := (old.recv + (on.map (fun k => ((laneOf 64 x k).toInt % p).toNat)).sum) % p
          nelem := satAdd old.nelem on.length, ovf := old.ovf || on.any (fun k => !(fits k)) }))) ∧
    (pa.toNat < 0x28000000000 → s.sliceOn pa.toNat = true →
      (∃ u, exec (.ckadd f ck pa claim) s = .next u ∧ u = { s with slices := u.slices } ∧
        SMap.get {} (u.slice i).acc a = { old with
          claim := (old.claim + claim.toNat % p) % p, nclaim := satAdd old.nclaim 1 }) ∧
      (∃ u, exec (.ckrd f ck pa) s = .next u ∧ SMap.get {} (u.slice i).acc a = {} ∧
        u = { s with slices := u.slices, ckRecord := u.ckRecord } ∧
        u.ckRecord = [BitVec.ofNat 64 (old.recv + (if old.recv = old.claim then 2 ^ 61 else 0) + if old.ovf then 2 ^ 62 else 0),
          BitVec.ofNat 64 old.claim, old.nclaim ++ old.nelem, 0])) ∧
    (s.alive = true → (s.cob c).memif = .on →
      (match src with
        | .thread u h => (s.th u h).st.pl = 3 ∨ (s.th u h).st.pl = 2 ∧ (s.tile u).func = some f
        | _ => True) → (s.cob c).ckBusy = false → ∃ u, exec (.sweep src c f ck) s = .next u ∧
          u = { s with cobs := u.cobs } ∧ (u.cob c).ckBusy = true ∧ (u.cob c).ckcmd = BitVec.ofBool ck ++ f) ∧
    ((s.cob c).ckBusy = true → (s.cob c).ckcmd = BitVec.ofBool ck ++ f → ∃ u, exec (.sweepDone c) s = .next u ∧
      u.hbm = s.hbm ∧ (u.cob c).ckBusy = false ∧
      (u.cob c).ckRecv = BitVec.ofNat 64 ((recs.map (fun r => r.recv)).sum % p) ∧
      (u.cob c).ckClaim = BitVec.ofNat 64 ((recs.map (fun r => r.claim)).sum % p) ∧
      (u.cob c).ckNelem = BitVec.ofNat 64 (recs.map (fun r => r.nelem.toNat)).sum ∧
      (u.cob c).ckNclm = BitVec.ofNat 64 (recs.map (fun r => r.nclaim.toNat)).sum ∧
      ∀ k, k < 64 → SMap.get {} (u.slice (32 * (k % 32) + 2 * c.toNat + k / 32)).acc a = {} ∧
        (u.cob c).ckMiss.getLsbD k = decide ((recs.getD k {}).recv ≠ (recs.getD k {}).claim) ∧
        (u.cob c).ckOvf.getLsbD k = (recs.getD k {}).ovf)

/-- R178, R180, R184–R187, R285–R287, R338, R550: what memories and registers do with a request that reaches them. A
slice answers a read with its bytes and takes a write; another tile checks FUNC, PID and placement, answers or buffers,
or refuses; a buffered write lands, and is acknowledged if it is a store's, or makes a queue's message visible (R223); a
register access takes effect at the register; zeroing ends with zeros. (Readings and choices of the model that it rests
on: assumption log 70.) -/
def Obligations.MemoryAnswers : Prop :=
  ∀ (s s1 : State) (t w : TileId) (id o off pa : Nat) (r : Req) (hd : Option (BitVec 14)) (e : InWrite) (rest : List InWrite)
    (b : Blk) (k : Nat) (q : QIx),
    let s0 := s.touchHalf pa
    let tw := s.tile w
    let answered (u : State) (a : Option (List Byte)) : Prop := ∀ q ∈ u.reqs, q.id = id → q.ans = some a
    let spent (u : State) : Prop := ∀ q ∈ u.reqs, q.id ≠ id
    let acked (u : State) (v : TileId) (k : Nat) : Prop := ∀ q ∈ (u.tile v).sbuf, q.id = k → q.done = true
    let mayReach : Prop := tw.func = r.func ∧ tw.place.extractLsb' 8 8 = r.pid ∧ tw.placeAt hd o r.n = some off
    let denied : Prop := ¬(tw.func = r.func ∧ tw.place.extractLsb' 8 8 = r.pid) ∨ tw.placeAt hd o r.n = none
    let val : DWord := leBits 64 (r.data.take r.esz)
    let perm : Prop := r.pl = 3 ∨ r.pl ≠ 1 ∧ s.superMay r.func b (if r.write then some val else none) = true
    (s.reqArrives id = some r →
      (r.dst = .hbm pa → s.sliceOn pa = true →
        (r.write = false → s.badBurst pa r.n = none → ∃ u, exec (.sliceRequest id []) s = .next u ∧
          answered u (some (s.hbm.bytes pa r.n)) ∧ u.hbm = s.hbm) ∧
        (r.write = true → s.writeBurst pa r.n = none → ∃ u, exec (.sliceRequest id []) s = .next u ∧ spent u ∧
          acked u r.tile id ∧ ∀ a, u.hbm.byte a =
            if pa ≤ a ∧ a < pa + r.data.length then r.data.getD (a - pa) 0 else s.hbm.byte a)) ∧
      (r.dst = .remote w o hd → s.tileOn w = true → tw.zeroed = true →
        (mayReach → r.write = false → tw.errWords off r.n = [] → ∃ u, exec (.remoteAccessArrival id .none) s = .next u ∧
          answered u (some (tw.lmem.bytes off r.n)) ∧ (u.tile w).lmem = tw.lmem) ∧
        (mayReach → r.write = true → tw.inbuf.length < 16 → ∃ u, exec (.remoteAccessArrival id .none) s = .next u ∧ spent u ∧
          (u.tile w).inbuf = tw.inbuf ++ [⟨off, r.data, .store r.tile id⟩] ∧ (u.tile w).lmem = tw.lmem) ∧
        (denied → r.write = false → ∃ u, exec (.remoteAccessArrival id .none) s = .next u ∧ answered u none) ∧
        (denied → r.write = true → ∃ u, exec (.remoteAccessArrival id .none) s = .next u ∧ spent u ∧
          (∀ q ∈ (u.tile r.tile).sbuf, q.id = id → q.refused = some 1) ∧ (u.tile w).inbuf = tw.inbuf)) ∧
      (r.dst = .csr pa → csrBlk pa = some b → s.blkReady b = true → r.n = r.esz → 1 ≤ r.esz →
        (r.write = false → perm → b.width = some r.esz → ∃ u, exec (.csrAccessComplete id) s = .next u ∧
          u.reqs = ((s0.blkRead b).2.reqs.map (fun q =>
            if q.id = id then { q with ans := some (some (byteList (s0.blkRead b).1 r.esz)) } else q))) ∧
        (r.write = true → perm → b.width = some r.esz → s0.blkWrite (decide (r.pl = 2)) b val none = some s1 →
          exec (.csrAccessComplete id) s = .next ((s1.ackStore r.tile id).dropReq id)) ∧
        (r.write = true → ¬perm → exec (.csrAccessComplete id) s = .next ((s0.refuseStore r.tile id 2).dropReq id)))) ∧
    (s.tileOn t = true → (s.tile t).zeroed = true → (s.tile t).inbuf = e :: rest →
      (s.tile t).writeBad e.off (e.bytes.map some) = none → ∃ u, exec (.inboundWrite t .none) s = .next u ∧
        (u.tile t).inbuf = rest ∧ Wrote (s.tile t) (u.tile t) e.off e.bytes ∧ (e.what = .store w k → acked u w k) ∧
        (e.what = .ring q → ((u.tile t).queue q).msgs = ((s.tile t).queue q).msgs.takeWhile (fun m => m.seen) ++
          match ((s.tile t).queue q).msgs.dropWhile (fun m => m.seen) with
          | m :: l => { m with seen := true } :: l
          | [] => [])) ∧
    (s.tileOn t = true → (s.tile t).zeroed = false → ∃ u, exec (.lmemZeroDone t) s = .next u ∧ OnlyTile s u t ∧
      u.tile t = { s.tile t with zeroed := true, lmem := [], lerr := [] })

/-- R300, R319, R325, R333: removal of translations, inbound windows and CXL. WINV removes the entries of the function,
of one page or of all, from the caches of the Cob, of its tiles and of the Husks, and sets BUSY, which ends once what
was in flight has finished; an inbound window checks a request in order, and a write, an accumulate or a claim that
passes lands, or waits while its slice is off; a CXL response frees its chunk; a link that goes down is recorded.
(Readings and choices of the model that it rests on: assumption log 69, 70, 71.) -/
def Obligations.WindowsAndRemoval : Prop :=
  ∀ (s : State) (src : Src) (c d : CobNo) (vpn : BitVec 36) (f : FuncNo) (all : Bool) (rq : WinReq) (pa : Nat) (e : Eng)
    (ch : Chunk) (rest : List Chunk) (l : BitVec 3),
    let w := s.iwinOf rq.func rq.win
    let n := rq.bytes.length
    let va := (w.1.extractLsb' 12 36).toNat * 4096 + rq.offset.toNat
    let st := (s.func rq.func).st
    let mask : BitVec 16 := w.2.2.extractLsb' 16 16
    let shut : Prop := s.unrec = true ∨ w.1.getLsbD 0 = false ∨ st = .failed ∨ st = .resetting ∨ st = .absent
    let stranger : Prop := rq.srcId &&& mask ≠ w.2.2.extractLsb' 0 16 &&& mask
    let matched : Prop := match rq.kind with
      | .write => w.1.getLsbD 1 = false
      | .acc a => w.1.getLsbD 1 = true ∧ a = w.1.extractLsb' 2 2 ∧ a ≠ 3
      | .claim => w.1.getLsbD 1 = true ∧ w.1.extractLsb' 2 2 = (2 : BitVec 2)
    let limit := min (w.2.1.extractLsb' 0 29).toNat 0x10000000 * 4096
    let within : Prop := ¬shut ∧ ¬stranger ∧ matched ∧ limit ≠ 0 ∧ rq.offset.toNat + n ≤ limit
    let el : Nat := match rq.kind with
      | .acc a => if a = 2 then 8 else 4
      | _ => 1
    let passes : Prop := within ∧ va % el = 0 ∧ n % el = 0 ∧ 1 ≤ n ∧ va % 64 + n ≤ 64 ∧ s.windowAt rq.func va = .at pa
    let answers (a : Byte) : Prop := exec (.inboundWindowRequest rq) s = .next { s with winAns := a }
    let b := pa / 64 * 64
    let at_ (z : Nat) (m : Memory) (k : Nat) : BitVec (8 * z) := leBits (8 * z) (m.bytes (b + z * k) z)
    let given (z k : Nat) : BitVec (8 * z) := leBits (8 * z) ((rq.bytes.drop (z * k - pa % 64)).take z)
    let named (z k : Nat) : Bool := decide (pa % 64 ≤ z * k ∧ z * k < pa % 64 + n)
    let i := sliceOf pa
    let a := 2 * rq.func.toNat + if w.1.getLsbD 4 then 1 else 0
    let old := SMap.get {} (s.slice i).acc a
    let p := 2 ^ 61 - 1
    let lands (q : State → Prop) : Prop := ∃ u, exec (.inboundWindowRequest rq) s = .next u ∧ u.winAns = 0 ∧
      (∀ x, (x < b ∨ b + 64 ≤ x) → u.hbm.byte x = s.hbm.byte x) ∧ q u
    let goes (lvl covers : Nat) (g : FuncNo) : Bool := decide (g = f ∧ (all = true ∨ vpn.toNat / 2 ^ (9 * (4 - lvl)) = covers))
    let keep (x : Leaf) : Bool := !(goes x.lvl x.vpn x.func)
    let keepN (x : NonLeaf) : Bool := !(goes x.lvl x.vpn x.func)
    (s.alive = true → (s.cob c).memif = .on →
      (match src with
        | .thread u h => (s.th u h).st.pl = 3 ∨ (s.th u h).st.pl = 2 ∧ (s.tile u).func = some f
        | _ => True) → ∃ u, exec (.winv src c vpn f all) s = .next u ∧ u.hbm = s.hbm ∧
          (u.cob c).winvBusy = true ∧ (u.cob c).winv = BitVec.ofBool all ++ f ++ vpn ∧
          (u.cob c).winvWait = (s.cob c).winvWait ++ s.workOn c ∧
          (u.cob c).tlb.flatMap (fun x => x.2) = ((s.cob c).tlb.flatMap (fun x => x.2)).filter keep ∧
          (u.cob c).walker = (s.cob c).walker.filter keepN ∧
          u.hengTlb.flatMap (fun x => x.2) = (s.hengTlb.flatMap (fun x => x.2)).filter keep ∧
          u.huskWalker.flatMap (fun x => x.2) = (s.huskWalker.flatMap (fun x => x.2)).filter keepN ∧
          (d ≠ c → u.cob d = s.cob d) ∧
          ∀ t : TileId, (t.extractLsb' 8 4 = c → (u.tile t).tlb = (s.tile t).tlb.filter keep ∧
              ∀ h, u.th t h = { s.th t h with walk := none }) ∧
            (t.extractLsb' 8 4 ≠ c → u.tile t = s.tile t)) ∧
    ((∀ i ∈ (s.cob c).winvWait, i ∉ s.workOn c) → ∃ u, exec (.winvDone c) s = .next u ∧
      u = { s with cobs := u.cobs } ∧ (u.cob c).winvBusy = false) ∧
    (shut → answers 4) ∧ (¬shut → stranger → answers 4) ∧ (¬shut → ¬stranger → ¬matched → answers 4) ∧
    (¬shut → ¬stranger → matched → (limit = 0 ∨ limit < rq.offset.toNat + n) → answers 2) ∧
    (within → (va % el ≠ 0 ∨ n % el ≠ 0) → answers 5) ∧
    (within → 1 ≤ n → va % 64 + n ≤ 64 → s.windowAt rq.func va = .fault → answers 5) ∧
    (passes → s.winHeld = [] → s.windowBlocked none rq = false →
      (s.sliceOn pa = false → ∃ u, exec (.inboundWindowRequest rq) s = .next u ∧ u.winHeld = [(none, rq)] ∧ u.hbm = s.hbm ∧
        u.slices = s.slices ∧ u.winAns = s.winAns) ∧
      (s.sliceOn pa = true → rq.ecc = [] →
        (rq.kind = .write → s.writeBurst pa n = none → lands (fun u => ∀ x,
          u.hbm.byte x = if pa ≤ x ∧ x < pa + n then rq.bytes.getD (x - pa) 0 else s.hbm.byte x)) ∧
        (rq.kind = .claim → n = 8 → lands (fun u => u.hbm = s.hbm ∧ SMap.get {} (u.slice i).acc a = { old with
          claim := (old.claim + (leBits 64 rq.bytes : DWord).toNat % p) % p, nclaim := satAdd old.nclaim 1 })) ∧
        (s.badBurst b 64 = none →
          (rq.kind = .acc 0 → lands (fun u => ∀ k, k < 16 →
            at_ 4 u.hbm k = at_ 4 s.hbm k + if named 4 k then given 4 k else 0)) ∧
          (rq.kind = .acc 1 → lands (fun u => ∀ k, k < 16 →
            at_ 4 u.hbm k = if named 4 k then f32add (at_ 4 s.hbm k) (given 4 k) else at_ 4 s.hbm k)) ∧
          (rq.kind = .acc 2 → lands (fun u =>
            (∀ k, k < 8 → at_ 8 u.hbm k = at_ 8 s.hbm k + if named 8 k then given 8 k else 0) ∧
            (old.recv < p → (SMap.get {} (u.slice i).acc a).nelem = satAdd old.nelem (n / 8) ∧
              (SMap.get {} (u.slice i).acc a).recv = (old.recv + (((List.range 8).filter (fun k => named 8 k)).map (fun k =>
                ((given 8 k).toInt % p).toNat)).sum) % p)))))) ∧
    ((s.eng e).inflight = ch :: rest → ch.cxl = true → (∀ k ∈ rest, k.id ≠ ch.id) → ∃ u,
      exec (.cxlCompletion e true) s = .next u ∧ (u.eng e).inflight = { ch with cxl := false } :: rest ∧ u.hbm = s.hbm) ∧
    ((∀ g k, k ∈ (s.eng g).inflight → k.cxl = false) → exec (.cxlLinkDown l) s = .next
      { s with plan := { s.plan with cxlDown := setBit s.plan.cxlDown l.toNat true }
               ld := { s.ld with ldown := setBit s.ld.ldown l.toNat true } })

/-! ## Errors, links and the census -/

/-- R286, R366–R369, R377, R444, R452: a machine check. Met by a thread's own load it fails the function of that
thread's tile: the record is written, every other thread of the function stops, and the thread takes cause 0x00 at M.
One of no tile fails the function that its report names, one of source 0x05 a function with a request queued at the
slice, and the first thread of the first tile is told. Sources 0x08 and 0x09 fail every function and the part leaves
service. (Readings and choices of the model that it rests on: assumption log 36, 37.) -/
def Obligations.MachineChecks : Prop :=
  ∀ (s : State) (mc : McReport) (t : TileId) (h : Thr) (f : FuncNo) (rest : List TileId),
    let x := s.th t h
    let tl := s.tile t
    let w : DWord := (0#33) ++ h ++ f ++ (0#1) ++ (1#1) ++ (1#1) ++ (0#1) ++ t ++ mc.src
    let told (w : DWord) : Prop := ∃ u, exec (.machineCheck mc) s = .next u ∧ (u.func f).st = .failed ∧ (u.func f).mcrec0 = w ∧
      (u.tile t).mcrec0 = w ∧ (u.tile t).mcrec1 = mc.pa.setWidth 64 ∧ (u.th t 0).mcp = true ∧
      (u.th t 0).run = (if (s.th t 0).run = .stopped then .running else (s.th t 0).run) ∧
      (∀ r k, (s.tile r).func = some f → (r, k) ≠ (t, 0) → (u.th r k).run = .stopped) ∧ u.hbm = s.hbm
    s.alive = true →
      (1 ≤ mc.src.toNat → mc.src.toNat ≤ 7 → mc.src ≠ 5 → SMap.get false tl.pbad tl.mvbase.toNat = false → mc.tile = some t → mc.reader = some (t, h) →
        tl.func = some f → (s.func f).st = .running → tl.mcrec0.getLsbD 22 = false →
        ∃ u, exec (.machineCheck mc) s = .next u ∧ (u.func f).st = .failed ∧ (u.func f).mcrec0 = w ∧
          ((s.func f).cqb.getLsbD 5 = true → (s.func f).events = [] → (u.func f).events = [(0x80, w)]) ∧
          (u.tile t).mcrec0 = w ∧ (u.tile t).mcrec1 = mc.pa.setWidth 64 ∧
          (∀ va, mc.va = some va → (u.tile t).mcrec2 = (1#1) ++ (0#15) ++ va) ∧ (u.tile t).mcrec3 = x.pc.setWidth 64 ∧
          (u.th t h).run = .running ∧ (u.th t h).st.pl = 3 ∧ (u.th t h).mepc = x.pc ∧
          (u.th t h).mestat = statusWord h x.st ∧ (u.th t h).pc = SMap.get 0 tl.pmem tl.mvbase.toNat ∧
          (u.th t h).mxc = (0#10) ++ x.pc ++ (0#1) ++ x.st.pl ++ (0#5) ∧
          (∀ r k, (s.tile r).func = some f → (r, k) ≠ (t, h) → (u.th r k).run = .stopped) ∧ u.hbm = s.hbm) ∧
      (mc.reader = none → s.tilesOf f = t :: rest → (s.func f).st = .running → tl.mcrec0.getLsbD 22 = false →
        ((mc.src = 3 ∨ mc.src = 4 ∨ mc.src = 6 ∨ mc.src = 7) → mc.tile = none → mc.func = f →
          told ((0#32) ++ (1#1) ++ (0#2) ++ f ++ (0#1) ++ (1#1) ++ (0#2) ++ (0xFFF#12) ++ mc.src)) ∧
        (mc.src = 5 → mc.tile = none → s.queuedAt mc.pa.toNat = [f] →
          told ((0#32) ++ (1#1) ++ (0#2) ++ f ++ (0#1) ++ (1#1) ++ (0#2) ++ (0xFFF#12) ++ mc.src))) ∧
      (mc.src = 5 → s.queuedAt mc.pa.toNat = [] → exec (.machineCheck mc) s = .next s) ∧
      ((mc.src = 8 ∨ mc.src = 9) → s.unrec = false → ∃ u, exec (.machineCheck mc) s = .next u ∧ u.unrec = true ∧
        u.reason = (if mc.src = 8 then 3 else 2) ∧ u.lands.svcflt = true ∧
        ∀ g, (s.func g).st ≠ .absent → (s.func g).st ≠ .resetting → (u.func g).st = .failed)

/-- R271–R273, R371, R379: die links and the census. In each direction of a link a frame leaves the sender's replay
buffer with its sequence number and check; the receiver takes the one in sequence and acknowledges it, asks for a replay
of one that fails or is out of sequence, and the link retrains after 16 failures of one frame, holds its traffic
meanwhile, and is lost at a third retrain within one second. A census asks the tiles and command engines in two rounds;
a quiet, unchanged second round is a finding, told to thread 0 of the first tile. (Readings and choices of the model
that it rests on: assumption log 62, 67, 80.) -/
def Obligations.LinksAndCensus : Prop :=
  ∀ (s : State) (l : DLink) (dir : Bool) (slots noise : List Byte) (carries : List Xid) (f : FuncNo) (c : Census) (t : TileId)
    (id : Nat),
    let x := s.link l
    let ctl : Bool := decide (32 ≤ l.toNat ∧ l.toNat < 48 ∨ l.toNat = 52 ∨ l.toNat = 53)
    let next (q : BitVec 10) : BitVec 10 := BitVec.ofNat 10 ((q.toNat + 1) % if ctl then 256 else 1024)
    let y := if dir then x.up else x.down
    let put (d : DieDir) : DieLnk := if dir then { x with up := d } else { x with down := d }
    let fresh : DieFrame := ⟨y.txSeq, slots, (carries.take 4).filter (fun k => (s.routeOf k).contains (l.toNat, dir))⟩
    let y1 : DieDir := if y.sent < y.buf.length then y else { y with buf := y.buf ++ [fresh], txSeq := next y.txSeq }
    let fr := y.buf.getD y.sent fresh
    let check (b : List Byte) : List Byte := if ctl then byteList (crc16 b) 2 else byteList (crc32 b) 4
    let wire := byteList fr.seq 2 ++ fr.slots ++ check (byteList fr.seq 2 ++ fr.slots)
    let got := (List.range wire.length).map (fun i => wire.getD i 0 ^^^ noise.getD i 0)
    let body := got.take (got.length - if ctl then 2 else 4)
    let good : Prop := got.drop body.length = check body
    let near := x.recent.filter (fun r => decide ((s.pt.time - r).toNat < 3600000000))
    let link (i : Instr) (y : DieLnk) : Prop := ∃ u, exec i s = .next u ∧ u = { s with links := u.links } ∧ u.link l = y
    let resumed (d : DieDir) : DieDir := { d with fails := 0, asked := decide (d.buf ≠ []) }
    let g := s.func f
    let ts := s.tilesOf f
    let ring := 2 ^ min (g.crb.extractLsb' 0 5).toNat 16
    let works : Bool := decide ((g.ctail.toNat % ring + ring - g.chead.toNat % ring) % ring ≠ 0) || s.asked (.ring f) ||
      decide (g.cmds ≠ [])
    let act : Byte := if s.tileOn t then (s.tile t).quietAct else SMap.get 0 (s.cob (tileCob t)).acts (t.toNat % 256)
    let quiet : Bool := !(s.tileOn t) || decide ((s.tile t).quietWin ≠ 0 ∧
      (s.tile t).quietWin.toNat * 4096 ≤ (s.tile t).quietCnt.toNat)
    let census (i : Instr) (y : Func) : Prop := ∃ u, exec i s = .next u ∧ u.func f = y ∧ u.hbm = s.hbm ∧ u.tiles = s.tiles
    let replied (busy : Bool) (a : Byte) : Func := { g with cns := some { c with
      asked := c.asked + 1
      active := c.active || busy || (c.round && decide (SMap.get 0 c.acts c.asked ≠ a))
      acts := if c.round then c.acts else SMap.set 0 c.acts c.asked a } }
    (s.alive = true → l.toNat < 54 → x.retraining = false →
      (y.sent ≤ y.buf.length → (y.sent < y.buf.length ∨ y.buf.length < if ctl then 32 else 64) →
        let i : Instr := .dieLinkFrame l dir slots carries noise
        (¬good → link i { put { y1 with
          sent := y.sent + 1, asked := true, fails := if y.sent = 0 then y.fails + 1 else y.fails } with
            crcerr := satAdd x.crcerr 1 }) ∧
        (good → (leBits 10 (got.take 2) : BitVec 10) = y.rxSeq → link i (put { y1 with
          buf := y1.buf.drop (y.sent + 1), sent := 0, rxSeq := next y.rxSeq, fails := 0 })) ∧
        (good → (leBits 10 (got.take 2) : BitVec 10) ≠ y.rxSeq → link i (put { y1 with sent := y.sent + 1, asked := true }))) ∧
      (s.winHeld = [] → y.asked = true → link (.dieLinkReplay l dir)
        { put { y with sent := 0, asked := false } with replay := satAdd x.replay 1 }) ∧
      ((16 ≤ x.up.fails ∨ 16 ≤ x.down.fails) → near.length < 2 → link (.dieLinkRetrain l)
        { x with retraining := true, retrain := satAdd x.retrain 1, recent := s.pt.time :: near }) ∧
      ((16 ≤ x.up.fails ∨ 16 ≤ x.down.fails) → 2 ≤ near.length → s.unrec = false → ∃ u, exec (.dieLinkRetrain l) s = .next u ∧
        u.unrec = true ∧ u.reason = 2)) ∧
    (x.retraining = true →
      (s.winHeld = [] → link (.dieLinkRetrainEnd l true)
        { x with retraining := false, up := resumed x.up, down := resumed x.down }) ∧
      (s.unrec = false → ∃ u, exec (.dieLinkRetrainEnd l false) s = .next u ∧ u.unrec = true ∧ u.reason = 2) ∧
      link (.dieLinkFrame l dir slots carries noise) x ∧
      ((∀ p ∈ s.net, p.id = id → (l.toNat, dir) ∈ s.pktRoute p) → exec (.messageArrival id) s = .next s)) ∧
    (g.cnsEn = true → g.cns = none → g.cnsFound = false → g.st ≠ .absent → g.st ≠ .resetting →
      (∀ a, g.cnsAt = some a → 16384 ≤ (s.pt.time - a).toNat) →
        census (.censusStart f) { g with cns := some ⟨false, [], 0, false⟩, cnsAt := some s.pt.time }) ∧
    (g.cns = some c → g.st ≠ .resetting →
      (ts[c.asked]? = some t → census (.censusProbe f) (replied (!quiet) act)) ∧
      (c.asked = ts.length → census (.censusProbe f) (replied (decide (f.toNat % 2 = 0) && works) 0)) ∧
      (c.asked = ts.length + 1 → census (.censusProbe f) (replied (decide (f.toNat % 2 = 1) && works) 0)) ∧
      (c.active = true → census (.censusReport f) { g with cns := none, cnsRuns := satAdd g.cnsRuns 1 }) ∧
      (c.active = false → c.asked = ts.length + 2 → c.round = false →
        census (.censusReport f) { g with cns := some { c with round := true, asked := 0 } }) ∧
      (c.active = false → c.asked = ts.length + 2 → c.round = true → ts.head? = some t → ∃ u,
        exec (.censusReport f) s = .next u ∧ (u.func f).cns = none ∧ (u.func f).cnsFound = true ∧
        (u.func f).cnsRuns = satAdd g.cnsRuns 1 ∧ u.th t 0 = { s.th t 0 with dlk := true }))

/-! ## Tamore Link -/

/-- R433–R437: frames and ports of Tamore Link. A frame that arrives intact frees the frames that it acknowledges and
returns credit; a data or control frame in sequence is accepted and acknowledged, on any port, and acts: its control
subtype, or its packets on an ACTIVE port, as the rows of those commands do. A bad or out-of-sequence one is answered
with a NAK; a NAK replays from its SEQ, and the sixteenth, sent or received, retrains; ASSIGN makes the port ACTIVE; a
retrain ends ACTIVE, TRAIN or DOWN. R325, R436–R438, R441, R442, R454, R456, R459: packets. A doorbell sets the indices
and is answered DBACK; CFGWR and CFGRD reach the ring, state and part registers and are answered CFGACK, on the port
that the adapter's ID chooses; WR, ACC and CLM go to the inbound window, whose answer leaves as RSP; RSP and RDC end the
request of their TAG. (Readings and choices of the model that it rests on: assumption log 54, 64, 65, 66, 67.) -/
def Obligations.TamoreLink : Prop :=
  (∀ (s : State) (p : PortNo) (fec : Bool) (bytes b : List Byte) (ecc : SliceEcc) (fr : TxFrame)
    (pre post : List TxFrame) (dev peer : BitVec 16) (vc : Nat),
    let x := s.port p
    let near := x.recent.filter (fun r => decide ((s.pt.time - r).toNat < 3600000000))
    let ackOf (w : Port) : Option (BitVec 12) := if w.rxAny then some (w.rxSeq - 1) else none
    let due (w : Port) : List Nat := (List.range 4).map (fun v => SMap.get 0 w.back v)
    let makes (i : Instr) (y : Port) : Prop := ∃ u, exec i s = .next u ∧ u = { s with ports := u.ports } ∧ u.port p = y
    let zeros (n : Nat) : List Byte := List.replicate n 0
    let hdr : Word := leBits 32 (bytes.take 4)
    let body := (bytes.drop 4).take 240
    let back (v : Nat) : Nat := leNat ((bytes.drop (244 + 2 * v)).take 2)
    let kind : BitVec 2 := hdr.extractLsb' 30 2
    let seq : BitVec 12 := hdr.extractLsb' 18 12
    let ack : Option (BitVec 12) := if hdr.getLsbD 5 then some (hdr.extractLsb' 6 12) else none
    let intact : Prop := fec = true ∧ bytes.length = 256 ∧ (leBits 32 (bytes.drop 252) : Word) = crc32 (bytes.take 252) ∧ kind ≠ 3
    let i : Instr := .tlFrame p fec bytes ecc
    let again (w : Port) : Nat := if w.ownNakCnt ≠ 0 ∧ w.ownNakSeq = w.rxSeq then w.ownNakCnt + 1 else 1
    let naked (w : Port) : Port :=
      let k : TxFrame := ⟨1, w.txSeq, ackOf w,
        [1, w.rxSeq.extractLsb' 0 8, (0#4) ++ w.rxSeq.extractLsb' 8 4] ++ zeros 237, due w⟩
      { w with txSeq := w.txSeq + 1, buf := w.buf ++ [k], wire := k :: w.wire, back := [], ownNakSeq := w.rxSeq,
               ownNakCnt := again w }
    let goesDown (w : Port) : Port :=
      { w with st := 3, retrain := satAdd x.retrain 1, nakCnt := 0, ownNakCnt := 0, recent := s.pt.time :: near }
    let refuses (w : Port) : Prop := x.buf.length < 2048 →
      (again x < 16 ∨ x.st = 0 ∨ x.st = 3 → makes i (naked w)) ∧
      (16 ≤ again x → (x.st = 1 ∨ x.st = 2) → near.length < 2 → makes i (goesDown (naked w)))
    let idle (w : Port) : Port := { w with wire := ⟨2, 0, ackOf w, zeros 240, due w⟩ :: w.wire, back := [] }
    let z : Port := { x.heed ⟨kind, seq, ack, body, (List.range 4).map back⟩ with rxSeq := x.rxSeq + 1, rxAny := true }
    let here (w : Port) : State := s.modPort p (fun _ => w)
    let acts (j : Instr) (w : Port) (g : Port → Port) : Prop := ∃ v, exec j (here w) = .next v ∧
      exec i s = .next (v.modPort p (fun k => idle (g k)))
    let half (o : Nat) : BitVec 16 := leBits 16 ((body.drop o).take 2)
    let ty := (body.getD 0 0).toNat
    let total := 24 + ((half 2).toNat + 7) / 8 * 8
    let data := (body.drop 24).take (half 2).toNat
    let func : FuncNo := (body.getD 1 0).extractLsb' 0 5
    let attr := body.getD 11 0
    let addr : DWord := leBits 64 ((body.drop 12).take 8)
    let rq (k : WinKind) : WinReq := ⟨half 4, func, attr.extractLsb' 0 6, k, addr, data, half 8, ecc⟩
    let class_ := if ty < 0x10 then 0 else if ty < 0x13 then 1 else if ty = 0x20 then 2 else 3
    let one (j : Instr) : Prop := acts j { z with rxBuf := [] } (fun k =>
      { k with back := SMap.modify 0 k.back class_ (fun n => n + (total + 63) / 64) })
    let off : Port := { x with
      replay := satAdd x.replay 1
      wire := ((fr :: post).map (fun k => { k with ack := ackOf x })).reverse ++ x.wire }
    (s.alive = true →
      (¬intact → refuses { x with crcerr := satAdd x.crcerr 1 }) ∧
      (intact → kind ≠ 2 → seq ≠ x.rxSeq → refuses x) ∧
      (intact → kind = 2 → x.txq = [] → (∀ v, v < 4 → SMap.get [] x.vcq v = [] ∨ back v = 0) → ∃ u, exec i s = .next u ∧
        u = { s with ports := u.ports } ∧
        (∀ v, v < 4 → SMap.get 0 (u.port p).used v = SMap.get 0 x.used v - back v) ∧
        (ack = none → u.port p = { x with used := (u.port p).used, vcq := (u.port p).vcq }) ∧
        (ack = some fr.seq → x.buf = pre ++ fr :: post → (∀ k ∈ pre, k.seq ≠ fr.seq) →
          u.port p = { x with buf := post, used := (u.port p).used, vcq := (u.port p).vcq })) ∧
      (intact → kind = 2 → ack = none → vc < 4 → 0 < back vc → (∀ v, v ≠ vc → v < 4 → back v = 0) →
        SMap.get [] x.vcq vc = [b] → SMap.get 0 x.used vc - back vc + (b.length + 63) / 64 ≤ 512 → b.length ≤ 4320 →
        x.buf.length ≤ 2000 → ∃ (u : State) (new : List TxFrame), exec i s = .next u ∧ (u.port p).wire = new.reverse ++ x.wire ∧
          (∀ k ∈ new, k.kind = 0) ∧ new.length = (b.length + 239) / 240 ∧
          (new.flatMap (fun k => k.payload)).take b.length = b ∧ SMap.get [] (u.port p).vcq vc = []) ∧
      (intact → seq = x.rxSeq →
        (kind = 1 →
          (body.getD 0 0 = 1 → acts (.nak p ((half 1).extractLsb' 0 12)) z id) ∧
          (body.getD 0 0 = 2 → acts (.assign p (half 1) (half 3)) z id) ∧
          (body.getD 0 0 = 3 → acts (.retrain p) z id) ∧
          (body.getD 0 0 ≠ 1 → body.getD 0 0 ≠ 2 → body.getD 0 0 ≠ 3 → makes i (idle z))) ∧
        (kind = 0 → x.st ≠ 2 → makes i (idle z)) ∧
        (kind = 0 → x.st = 2 → x.rxBuf = [] → ty = 0 → makes i (idle { z with rxBuf := [] })) ∧
        (kind = 0 → x.st = 2 → x.rxBuf = [] → total ≤ 240 → (body.drop total).headD 0 = 0 →
          (ty = 0x01 → one (.doorbell p func (leBits 16 (data.take 2)) (leBits 16 ((data.drop 2).take 2)))) ∧
          (ty = 0x04 → one (.cfgwr p func addr (leBits 64 (data.take 8)))) ∧ (ty = 0x05 → one (.cfgrd p func addr)) ∧
          (ty = 0x10 → one (.wr p (rq .write))) ∧ (ty = 0x11 → one (.acc p (rq (.acc (attr.extractLsb' 6 2))))) ∧
          (ty = 0x12 → one (.clm p (rq .claim))) ∧ (ty = 0x13 → one (.rsp p (half 8) (body.getD 10 0))) ∧
          (ty = 0x21 → one (.rdc p (half 8) (body.getD 10 0) data)) ∧
          (7 ≤ ty → (ty < 0x10 ∨ 0x14 ≤ ty) → ty ≠ 0x20 → ty ≠ 0x21 → ∃ u, exec i s = .next u ∧
            (u.func 0) = { s.func 0 with errFormat := satAdd (s.func 0).errFormat 1 })))) ∧
    ((x.st = 1 ∨ x.st = 2) → x.buf = pre ++ fr :: post → (∀ k ∈ pre, k.seq ≠ fr.seq) →
      ((x.nakCnt = 0 ∨ x.nakSeq ≠ fr.seq) → makes (.nak p fr.seq) { off with nakSeq := fr.seq, nakCnt := 1 }) ∧
      (x.nakSeq = fr.seq → 1 ≤ x.nakCnt → x.nakCnt < 15 →
        makes (.nak p fr.seq) { off with nakCnt := x.nakCnt + 1 }) ∧
      (x.nakSeq = fr.seq → x.nakCnt = 15 → near.length < 2 → makes (.nak p fr.seq) (goesDown off))) ∧
    (x.st = 1 → dev ≠ 0 → dev ≠ 0xFFFF →
      ((s.devv = false ∨ s.devid = dev) → ∃ u, exec (.assign p dev peer) s = .next u ∧
        u = { s with ports := u.ports, devid := dev, devv := true } ∧
        u.port p = { x with st := 2, assigned := true, peer := peer }) ∧
      (s.devv = true → s.devid ≠ dev →
        makes (.assign p dev peer) { x with peer := peer, retrain := satAdd x.retrain 1 })) ∧
    ((x.st = 1 ∨ x.st = 2) → near.length < 2 → makes (.retrain p) (goesDown x)) ∧
    ((x.st = 1 ∨ x.st = 2) → 2 ≤ near.length → x.out = [] →
      makes (.retrain p) { goesDown x with st := 0, txq := [], vcq := [] }) ∧
    (x.st = 3 → makes (.tlRetrainEnd p true) { x with st := if x.assigned then 2 else 1 }) ∧
    (x.st = 3 → x.out = [] → makes (.tlRetrainEnd p false) { x with st := 0, txq := [], vcq := [] })) ∧
  (∀ (s v : State) (p q : PortNo) (n : PortNo) (f : FuncNo) (tail head tag : BitVec 16) (off w : BitVec 64) (rq : WinReq)
    (bytes : List Byte) (e : BitVec 2) (id o : Nat),
    let x := s.func f
    let ring (r : DWord) : Nat := 2 ^ min (r.extractLsb' 0 5).toNat 16
    let peer := (s.port p).peer
    let ack (st : Byte) (b : List Byte) (tg : BitVec 16) : TxPkt := ⟨6, f, peer, tg, st, 0, 0, b, b.length⟩
    let cfg (i : Instr) (st : Byte) (b : List Byte) (y : Func) : Prop := ∃ u tg, exec i s = .next u ∧ Leaves s u q (ack st b tg) ∧
      u.func f = y ∧ u.tiles = s.tiles ∧ u.hbm = s.hbm
    let m := w &&& 0xFFFFFFFFFFFFF03F
    let answered (i : Instr) : Prop :=
      exec (.inboundWindowRequest rq) s = .next v → s.windowBlocked (some p) rq = s.windowBlocked none rq →
        (v.winHeld = s.winHeld → v.portFor rq.srcId = some q → PortRoom v q 3 1 → ∃ u, exec i s = .next u ∧ u.hbm = v.hbm ∧
          u.slices = v.slices ∧ u.winAns = v.winAns ∧ Leaves v u q ⟨0x13, rq.func, rq.srcId, rq.tag, v.winAns, 0, 0, [], 0⟩) ∧
        (v.winHeld ≠ s.winHeld → ∃ u, exec i s = .next u ∧ u.hbm = s.hbm ∧ u.winHeld = s.winHeld ++ [(some p, rq)])
    let only (r : OutFor) : Prop := (s.port p).out = [(tag, r)]
    (s.port p).st = 2 →
      (s.portFor peer = some q → PortRoom s q 0 2 →
        (x.st ≠ .absent → ∃ u, exec (.doorbell p f tail head) s = .next u ∧
          u.func f = { x with
            ctail := BitVec.ofNat 16 (tail.toNat % ring x.crb), qhead := BitVec.ofNat 16 (head.toNat % ring x.cqb) } ∧
          Leaves s u q ⟨2, f, peer, 0, 0, 0, 0, byteList (x.chead ++ (0#12) ++ BitVec.ofBool s.unrec ++ fnCode x.st) 4, 4⟩) ∧
        (off ≠ 8 → off ≠ 0x10 → cfg (.cfgwr p f off w) 4 [] x) ∧
        ((x.st = .running ∨ x.st = .quiescing ∨ x.st = .resetting) →
          cfg (.cfgwr p f 8 w) 1 [] x ∧ cfg (.cfgwr p f 0x10 w) 1 [] x) ∧
        ((x.st = .idle ∨ x.st = .failed ∨ x.st = .absent) →
          cfg (.cfgwr p f 8 w) 0 [] (if x.crb.getLsbD 5 = false ∧ w.getLsbD 5 = true
            then { x with crb := m, chead := 0, ctail := 0 } else { x with crb := m }) ∧
          (x.cqb.getLsbD 5 = false → w.getLsbD 5 = true → cfg (.cfgwr p f 0x10 w) 0 []
            { x with cqb := m, qhead := 0, qtail := 0, phase := true })) ∧
        cfg (.cfgrd p f 0) 0 (byteList (s.fnStat f) 8) x ∧
        cfg (.cfgrd p f 0x20) 0 (byteList (x.qtail ++ x.qhead ++ x.ctail ++ x.chead) 8) x ∧
        cfg (.cfgrd p f 8) 4 [] x ∧
        cfg (.cfgrd p f 0x20000) 0
          (byteList ((0#31) ++ BitVec.ofBool s.devv ++ s.devid ++ s.reason ++ (0#7) ++ BitVec.ofBool s.unrec) 8) x ∧
        (let y := s.port n
         cfg (.cfgrd p f (0x20008 + 8 * n.setWidth 64)) 0
           (byteList (y.peer ++ y.crcerr ++ y.replay ++ y.retrain ++ (0#6) ++ y.st) 8) x ∧
         ∃ u, exec (.cfgrd p f (0x20008 + 8 * n.setWidth 64)) s = .next u ∧ (u.port n).crcerr = 0 ∧ (u.port n).replay = 0 ∧
           (u.port n).retrain = 0)) ∧
      (rq.bytes.length ≤ 4096 →
        (rq.kind = .write → answered (.wr p rq)) ∧ (∀ a, rq.kind = .acc a → answered (.acc p rq)) ∧
        (rq.kind = .claim → answered (.clm p rq))) ∧
      (4096 < rq.bytes.length → rq.kind = .write → ∃ u, exec (.wr p rq) s = .next u ∧ u = { s with funcs := u.funcs } ∧
        u.func 0 = { s.func 0 with errFormat := satAdd (s.func 0).errFormat 1 }) ∧
      (only (.compWrite f) → ∃ u, exec (.rsp p tag 0) s = .next u ∧ u = { s with ports := u.ports } ∧ (u.port p).out = []) ∧
      (bytes.length ≤ 4096 → only (.copyRead e id o) → ∃ u, exec (.rdc p tag 0 bytes) s = .next u ∧ (u.port p).out = [] ∧
        ∀ a, (u.eng (.husk e)).hostBytes.byte a =
          if o ≤ a ∧ a < o + bytes.length then bytes.getD (a - o) 0 else (s.eng (.husk e)).hostBytes.byte a) ∧
      (bytes.length = 64 → only (.ring f) → s.unrec = false → x.crb.getLsbD 5 = true → x.st ≠ .absent → ∃ u,
        exec (.rdc p tag 0 bytes) s = .next u ∧ (u.func f).cmds = x.cmds ++ [⟨toWords 16 bytes, false, 0, none⟩] ∧
        (u.func f).chead = BitVec.ofNat 16 ((x.chead.toNat + 1) % ring x.crb)))

/-! ## Host commands -/

/-- R319, R369, R443, R445, R447–R449: the commands of a ring. A command with a stray bit completes with FORMAT, one
that the state of its function does not accept with STATE, one that names another function's tile with PERMISSION; the
others have the effect of R447 and complete, or start and complete later. One whose tile is off wakes it and waits
(R488). R447–R449, R488: the ends of a PMEM and of a QUIESCE. The words that arrive are stored, 14 bits of each, or wait
while the tile is off; a quiet function enters IDLE and its QUIESCE completes DONE; on a timeout it completes FAULT and
the function stays QUIESCING. (Readings and choices of the model that it rests on: assumption log 53, 54, 55, 56, 57,
63.) -/
def Obligations.RingCommands : Prop :=
  (∀ (s : State) (f : FuncNo) (c : Cmd) (rest : List Cmd) (p : PortNo) (i tag : Nat),
    let x := s.func f
    let w (k : Nat) : Word := c.words.getD k 0
    let op : Byte := (w 0).extractLsb' 0 8
    let code : List (Instr × Byte) := [(.cmdNop f, 1), (.cmdStatus f, 2), (.pmem f, 0x10), (.tctl f, 0x11), (.start f, 0x12),
      (.copy f, 0x20), (.msg f, 0x30), (.setpt f, 0x40), (.quiesce f, 0x50)]
    let takes : Prop := match x.st with
      | .absent => False
      | .idle => op ≠ 0x30 ∧ op ≠ 0x50
      | .running => op ≠ 0x10 ∧ op ≠ 0x40
      | .quiescing => op = 1 ∨ op = 2 ∨ op = 0x60
      | .failed => op = 1 ∨ op = 2 ∨ op = 0x60
      | .resetting => op = 1 ∨ op = 2
    let ended (y : Func) (st : Byte) (r : DWord) : Func := { y with cmds := rest, comps := x.comps ++ [⟨w 1, st, op, r, false⟩] }
    let ends (k : Instr) (st : Byte) (r : DWord) : Prop := ∃ u, exec k s = .next u ∧ u = { s with funcs := u.funcs } ∧
      u.func f = ended x st r
    let begun : Cmd := { c with started := true }
    let t4 : TileId := (w 4).extractLsb' 0 12
    let t2 : TileId := (w 2).extractLsb' 0 12
    let h2 : Thr := (w 2).extractLsb' 12 2
    let mask : BitVec 4 := (w 2).extractLsb' 16 4
    let ready (t : TileId) : Prop := s.tileOn t = true ∧ (s.tile t).zeroed = true
    let waits (k : Instr) (t : TileId) : Prop := ∃ u, exec k s = .next u ∧ u = { s with cobs := u.cobs } ∧
      (s.alive = true → s.pw.kiln0 = true → s.halfMode (tileCob t) (tileSouth t) ≠ 1 →
        (s.cob (tileCob t)).half (tileSouth t) = .off → (u.cob (tileCob t)).half (tileSouth t) = .goingOn)
    let still4 : Prop := ∀ h, (s.th t4 h).run = .stopped
    let root : DWord := w 3 ++ w 2
    let na := (s.eng (.husk (BitVec.ofNat 2 (2 * (f.toNat % 2))))).jobs
    let nb := (s.eng (.husk (BitVec.ofNat 2 (2 * (f.toNat % 2) + 1)))).jobs
    let job : CopyJob := ⟨f, w 1, w 3 ++ w 2, w 5 ++ w 4, w 6, (w 7).getLsbD 0⟩
    let n := ((w 3).extractLsb' 16 2).toNat + 1
    let b := (4 * (n + 1) + 7) / 8 * 8
    let u0 : Sender := .cmd (decide (f.toNat % 2 = 1))
    let ss := s.sendSide u0
    x.cmds = c :: rest → c.started = false → (∀ k ∈ x.comps, k.post = true ∨ k.op = 0x20) →
      (∀ e ∈ code, op = e.2 → c.badFormat = true → ∃ u, exec e.1 s = .next u ∧
        u.func f = { ended x 3 0 with errFormat := satAdd x.errFormat 1 }) ∧
      (∀ e ∈ code, op = e.2 → c.badFormat = false → ¬takes → ends e.1 1 0) ∧
      (c.badFormat = false → takes →
        (op = 1 → ends (.cmdNop f) 0 0) ∧
        (op = 2 → ends (.cmdStatus f) 0 (s.fnStat f)) ∧
        (op = 0x10 → ¬still4 → ends (.pmem f) 1 0) ∧
        (op = 0x10 → still4 → (s.tile t4).func ≠ some f → ends (.pmem f) 4 0) ∧
        (op = 0x10 → still4 → (s.tile t4).func = some f → 16384 < (w 5).toNat + (w 6).toNat → ends (.pmem f) 2 0) ∧
        (op = 0x10 → still4 → (s.tile t4).func = some f → (w 5).toNat + (w 6).toNat ≤ 16384 →
          (w 6 = 0 → ends (.pmem f) 0 0) ∧ (w 6 ≠ 0 → ¬ready t4 → waits (.pmem f) t4) ∧
          (w 6 ≠ 0 → ready t4 → s.hostPort = some p → PortRoom s p 2 1 → ∃ u tg, exec (.pmem f) s = .next u ∧
            u.func f = { x with cmds := begun :: rest } ∧ u.tiles = s.tiles ∧
            Leaves s u p ⟨0x20, f, (s.port p).peer, tg, 0, 0, (w 3 ++ w 2) + BitVec.ofNat 64 (2 * c.got), [],
              min 4096 (2 * ((w 6).toNat - c.got))⟩)) ∧
        (op = 0x11 → (s.th t2 h2).run ≠ .stopped → ends (.tctl f) 1 0) ∧
        (op = 0x11 → (s.th t2 h2).run = .stopped → (s.tile t2).func = some f → ¬ready t2 → waits (.tctl f) t2) ∧
        (op = 0x12 → (s.tile t2).func ≠ some f → ends (.start f) 4 0) ∧
        (op = 0x12 → (s.tile t2).func = some f → mask = 0 → ends (.start f) 0 0) ∧
        (op = 0x12 → (s.tile t2).func = some f → mask ≠ 0 → ¬ready t2 → waits (.start f) t2) ∧
        (op = 0x11 → (s.th t2 h2).run = .stopped → (s.tile t2).func ≠ some f → ends (.tctl f) 4 0) ∧
        (op = 0x11 → (s.th t2 h2).run = .stopped → (s.tile t2).func = some f → ready t2 → ∃ u,
          exec (.tctl f) s = .next u ∧ u.func f = ended x 0 0 ∧
          u.th t2 h2 = { s.th t2 h2 with pc := (w 3).extractLsb' 0 14, slv := false, moved := 0, part := [] }) ∧
        (op = 0x12 → (s.tile t2).func = some f → ready t2 →
          (∃ h : Thr, mask.getLsbD h.toNat = true ∧ (s.th t2 h).run = .stopped) → ∃ u, exec (.start f) s = .next u ∧
            u.func f = { ended x 0 0 with st := .running } ∧
            ∀ h, u.th t2 h = if mask.getLsbD h.toNat = true ∧ (s.th t2 h).run = .stopped then
                { s.th t2 h with run := .running, blk := none, slv := false, st := { pl := 2 }, det := {}, stopReq := false
                                 haltReq := none, stepping := false, owed := false }
              else s.th t2 h) ∧
        (op = 0x20 → (na.length < 8 ∨ nb.length < 8) → ∃ u, exec (.copy f) s = .next u ∧
          u.func f = { x with cmds := rest } ∧
          (u.eng (.husk (BitVec.ofNat 2 (2 * (f.toNat % 2))))).jobs =
            (if na.length ≤ nb.length then na ++ [job] else na) ∧
          (u.eng (.husk (BitVec.ofNat 2 (2 * (f.toNat % 2) + 1)))).jobs =
            (if na.length ≤ nb.length then nb else nb ++ [job])) ∧
        (op = 0x30 → s.copying f = false → (s.tile ((w 2).extractLsb' 4 12)).func = some f → ss.find (w 2) = some i →
          (ss.entry i).refused = false → b ≤ (ss.entry i).bytes → ss.freeTag = some tag → ∃ u k, exec (.msg f) s = .next u ∧
            u.func f = { x with cmds := begun :: rest } ∧ u.net = s.net ++ [k] ∧ k.dst = .tile ((w 2).extractLsb' 4 12) ∧
            k.body = .msg ⟨0, 0xFFF, BitVec.ofNat 4 (1 + 4 * (f.toNat % 2)), some f, (w 3).extractLsb' 0 16,
              (List.range n).map (fun j => w (4 + j)), w 2, true, tag, some .package⟩) ∧
        (op = 0x40 → root.toNat < 0x28000000000 → ∃ u, exec (.setpt f) s = .next u ∧
          u.func f = { ended x 0 0 with ptr := root } ∧ ∀ t, ∀ l ∈ (u.tile t).tlb, l.func ≠ f) ∧
        (op = 0x40 → 0x28000000000 ≤ root.toNat → ends (.setpt f) 2 0) ∧
        (op = 0x50 → s.tilesOf f = [] → ∃ u, exec (.quiesce f) s = .next u ∧ u.func f = { ended x 0 0 with st := .idle }) ∧
        (∀ t, op = 0x50 → (s.tilesOf f).head? = some t → ∃ u, exec (.quiesce f) s = .next u ∧
          u.func f = { x with cmds := begun :: rest, qreq := true, st := .quiescing } ∧
          u.th t 0 = { s.th t 0 with sws := true }))) ∧
  (∀ (s : State) (f : FuncNo) (c : Cmd) (rest : List Cmd) (p : PortNo) (tag : BitVec 16) (bytes : List Byte),
    let x := s.func f
    let w (k : Nat) : Word := c.words.getD k 0
    let ended (y : Func) (st : Byte) : Func :=
      { y with cmds := rest, comps := x.comps ++ [⟨w 1, st, (w 0).extractLsb' 0 8, 0, false⟩] }
    let t : TileId := (w 4).extractLsb' 0 12
    let n := (w 6).toNat
    let ready : Prop := s.tileOn t = true ∧ (s.tile t).zeroed = true
    let loads (i : Instr) : Prop := ∃ u, exec i s = .next u ∧ u.func f = ended x 0 ∧
      ∀ a, a < 16384 → SMap.get 0 (u.tile t).pmem a =
        if (w 5).toNat ≤ a ∧ a < (w 5).toNat + n then
          (bytes.getD (2 * (a - (w 5).toNat) + 1) 0 ++ bytes.getD (2 * (a - (w 5).toNat)) 0).extractLsb' 0 14
        else SMap.get 0 (s.tile t).pmem a
    x.cmds = c :: rest → c.started = true →
      (x.st = .quiescing → (w 0).extractLsb' 0 8 = (0x50 : Byte) →
        (s.fnQuiet f = true → ∃ u, exec (.quiesceDone f) s = .next u ∧ u = { s with funcs := u.funcs } ∧
          u.func f = ended { x with st := .idle, qreq := false } 0) ∧
        (w 2 ≠ 0 → ∃ u, exec (.quiesceTimeout f) s = .next u ∧ u = { s with funcs := u.funcs } ∧ u.func f = ended x 5)) ∧
      ((w 0).extractLsb' 0 8 = (0x10 : Byte) → c.got = 0 → 1 ≤ n → n ≤ 2048 → (w 5).toNat + n ≤ 16384 →
        bytes.length = 2 * n →
          ((s.port p).st = 2 → (s.port p).out = [(tag, .pmem f)] →
            (ready → loads (.rdc p tag 0 bytes)) ∧
            (¬ready → ∃ u, exec (.rdc p tag 0 bytes) s = .next u ∧ u.tiles = s.tiles ∧
              u.func f = { x with cmds := { c with data := some bytes } :: rest })) ∧
          (c.data = some bytes → ready → loads (.pmem f))))

/-- R227, R233, R291, R312, R367, R444, R450: a per-function reset. It begins by a RESET command or FN_CTL: every other
command ends RESET_ABORTED and the windows close; then the threads stop and the actions that a release holds are
discarded (R339), a machine check's record made before that is written, the drain ends, queues, caches, accumulators and
thread PCs are cleared, and the function enters IDLE, or FAILED after an error. (Readings and choices of the model that
it rests on: assumption log 59, 60, 61.) -/
def Obligations.FunctionReset : Prop :=
  ∀ (s : State) (src : Src) (f : FuncNo) (c : Cmd) (rest : List Cmd) (cid : Option Word) (t : TileId) (h : Thr) (q : QIx)
    (k : Nat),
    let x := s.func f
    let fate (d : Cmd) : Comp := ⟨d.words.getD 1 0, 6, (d.words.getD 0 0).extractLsb' 0 8, 0, false⟩
    let shut (u : State) : Prop := ∀ w, (u.iwinOf f w).1.getLsbD 0 = false
    let begun (u : State) (l : List Cmd) (id : Option Word) : Prop := shut u ∧ u.func f = { x with
      cmds := [], comps := x.comps ++ l.map fate, st := .resetting, qreq := false, mcr := false, mcrec0 := 0, mcrec1 := 0, mcrec2 := 0
      handler := none, cns := none, rst := some ⟨.begun, id⟩ }
    let priv : Prop := s.alive = true ∧ match src with
      | .thread u i => (s.th u i).st.pl = 3
      | _ => True
    let staged (u : State) (st : ResetStage) : Prop := (u.func f).rst = some ⟨st, cid⟩
    let mine : Prop := (s.tile t).func = some f
    let y := s.th t h
    (s.copyJobs f = [] →
      (x.cmds = c :: rest → (c.words.getD 0 0).extractLsb' 0 8 = (0x60 : Byte) → c.badFormat = false → x.st ≠ .absent →
        x.st ≠ .resetting → ∃ u, exec (.reset f) s = .next u ∧ begun u rest (some (c.words.getD 1 0))) ∧
      (priv → x.st ≠ .absent → x.st ≠ .resetting → ∃ u, exec (.fnCtlReset src f) s = .next u ∧ begun u x.cmds none)) ∧
    (x.rst = some ⟨.begun, cid⟩ → ∃ u, exec (.resetStopThreads f) s = .next u ∧ staged u .stopped ∧
      (mine → (u.th t h).run = .stopped ∧ (u.th t h).se = [] ∧ (u.th t h).mcp = false ∧ (u.th t h).sws = false ∧
        (u.th t h).swm = false ∧ (u.th t h).tmr.getLsbD 63 = false ∧ (u.th t h).d = y.d ∧ (u.tile t).lmem = (s.tile t).lmem ∧
        (u.th t h).hold = [] ∧ (∀ b ∈ (u.tile t).sbuf, b.hold = []) ∧ (u.tile t).mx = [] ∧ (u.tile t).cord = false ∧
        (x.mcr = false → (u.tile t).mcrec0 = 0) ∧
        (x.mcr = true → (s.tilesOf f).head? = some t → (u.tile t).mcrec0 = x.mcrec0 ∧ (u.tile t).mcrec1 = x.mcrec1 ∧
          (u.tile t).mcrec2 = x.mcrec2))) ∧
    (x.rst = some ⟨.stopped, cid⟩ → s.drained f = true → ∃ u, exec (.resetDrainEnd f) s = .next u ∧ staged u .drained ∧
      (u.func f).errOrphan = satAdd x.errOrphan (s.orphans f) ∧
      (mine → (u.tile t).sbuf = [] ∧ (u.tile t).fills = [] ∧ (u.tile t).eng.inflight = [] ∧
        ∀ e ∈ (u.tile t).send.sent, e.owner = .gone)) ∧
    (x.rst = some ⟨.drained, cid⟩ → ∃ u, exec (.resetClear f) s = .next u ∧ staged u .cleared ∧
      (mine → s.tileOn t = true → ((u.tile t).queue q).msgs = [] ∧ ((u.tile t).queue q).closed = false ∧
        ((u.tile t).queue q).granted = 0 ∧
        ((s.tilesOf f).count t = 1 → ((u.tile t).queue q).epoch = ((s.tile t).queue q).epoch + 1) ∧
        (u.tile t).lines = [] ∧ (u.tile t).send.cred = [] ∧
        (u.th t h).pc = SMap.get 0 s.plan.imgPc (4 * t.toNat + h.toNat) ∧
        (u.th t h).slv = SMap.get false s.plan.imgSlv (4 * t.toNat + h.toNat)) ∧
      SMap.get {} (u.slice k).acc (2 * f.toNat) = {} ∧ SMap.get {} (u.slice k).acc (2 * f.toNat + 1) = {} ∧
      (∀ l ∈ (u.tile t).tlb, l.func ≠ f) ∧ u.hbm = s.hbm) ∧
    (x.rst = some ⟨.cleared, cid⟩ →
      let good : Prop := x.mcr = false ∧ s.unrec = false
      ∃ u, exec (.resetEnd f) s = .next u ∧ (u.func f).rst = none ∧ (good → (u.func f).st = .idle) ∧
        (¬good → (u.func f).st = .failed) ∧ (∀ id, cid = some id → (u.func f).comps = x.comps ++ [⟨id, if x.mcr || s.unrec then 5 else 0, 0x60, 0, false⟩]) ∧
        (cid = none → (u.func f).comps = x.comps ∧ (x.cqb.getLsbD 5 = true → x.events = [] →
          (u.func f).events = (0x83, 0) :: if x.mcr || s.unrec then [(0x80, x.mcrec0)] else [])))

/-- R442–R446, R454, R456: rings and posts. A post waits as a completion entry, or is refused and counted; the oldest
entry is written with the phase of its pass; enabling a ring empties it. (Readings and choices of the model that it
rests on: assumption log 54, 58.) -/
def Obligations.RingsAndPosts : Prop :=
  ∀ (s : State) (src : Src) (f : FuncNo) (w : BitVec 64) (c : Comp) (rest : List Comp) (p : PortNo) (cq : Bool),
    let x := s.func f
    let size (r : DWord) : Nat := 2 ^ min (r.extractLsb' 0 5).toNat 16
    let n := size x.cqb
    let i := x.qtail.toNat % n
    let q := (i + 1) % n
    let v := (w ||| 0x20) &&& 0xFFFFFFFFFFFFF03F
    let set : Func :=
      if cq then
        if x.cqb.getLsbD 5 then { x with cqb := v } else { x with cqb := v, qhead := 0, qtail := 0, phase := true }
      else if x.crb.getLsbD 5 then { x with crb := v } else { x with crb := v, chead := 0, ctail := 0 }
    let free : Prop := x.st = .idle ∨ x.st = .failed ∨ x.st = .absent
    let enabled (r : RegSrc) : Prop := ∃ u, exec (.ringEnable r f cq w) s = .next u ∧ u.func f = set ∧ u.tiles = s.tiles
    (s.alive = true → (match src with
        | .thread t h => (s.th t h).st.pl = 3 ∨ (s.th t h).st.pl = 2 ∧ (s.tile t).func = some f
        | _ => True) →
      ((x.comps.filter (fun k => k.post)).length < 16 ∨ x.cqb.getLsbD 5 = true ∧ q ≠ x.qhead.toNat % n) → ∃ u,
        exec (.post src f w) s = .next u ∧ u = { s with funcs := u.funcs } ∧ u.func f = { x with comps := x.comps ++
          [⟨w.extractLsb' 0 32, w.extractLsb' 32 8, 0, (w.extractLsb' 40 24).setWidth 64, true⟩] }) ∧
    (s.alive = true → (match src with
        | .thread t h => (s.th t h).st.pl = 3 ∨ (s.th t h).st.pl = 2 ∧ (s.tile t).func = some f
        | _ => True) →
      16 ≤ (x.comps.filter (fun k => k.post)).length → (x.cqb.getLsbD 5 = false ∨ q = x.qhead.toNat % n) → ∃ u,
        exec (.post src f w) s = .next u ∧ u.func f = { x with errPost := satAdd x.errPost 1 } ∧
        ∀ t h, src = .thread t h → (s.th t h).se.length < 8 → ∃ va,
          u.th t h = { s.th t h with se := (s.th t h).se ++ [⟨(s.th t h).pc, va, 2⟩] }) ∧
    (x.cqb.getLsbD 5 = true → q ≠ x.qhead.toNat % n → x.comps = c :: rest → s.hostPort = some p → PortRoom s p 1 1 → ∃ u tg,
      exec (.completionEntryWrite f) s = .next u ∧
      u.func f = { x with comps := rest, qtail := BitVec.ofNat 16 q, phase := if q = 0 then !x.phase else x.phase } ∧
      Leaves s u p ⟨0x10, f, (s.port p).peer, tg, 0, 0, (x.cqb.extractLsb' 12 52 ++ (0#12)) + BitVec.ofNat 64 (16 * i),
        byteList (c.result ++ (0#8) ++ c.op ++ (0#7) ++ BitVec.ofBool x.phase ++ c.status ++ c.cid) 16, 16⟩) ∧
    (free → s.alive = true →
      (s.activePorts ≠ [] → enabled .adapter) ∧
      ((match src with
        | .thread t h => (s.th t h).st.pl = 3
        | _ => True) → enabled (.src src)))

/-! ## The position timebase and the line answer port -/

/-- R404, R405, R407–R409, R536: the inputs of the timebase. A level is accepted once it has had 4 × FILT + 1 equal
samples; an accepted change of one quadrature line moves every counter of that source by its step, a change of both
counts an error of the input, once in a cycle; an index edge latches; an SSI frame starts unless SDAT is low, and its
word moves the counters of source 2 by the signed difference from the last one. An input that is not wired moves
nothing. (Readings and choices of the model that it rests on: assumption log 73, 74.) -/
def Obligations.TimebaseInputs : Prop :=
  ∀ (s : State) (i j : BitVec 1) (x : QuadIn) (other : Option QuadIn) (c m : Nat) (raw r : BitVec 32),
    let p := s.pt
    let wired (g : Nat) : Prop := s.alive = true ∧ s.unrec = false ∧ SMap.get 0 s.plan.pinmux g = 1
    let cfg (k : Nat) : BitVec 15 := SMap.get 0 p.ccfg k
    let from_ (k g : Nat) : Prop := ((cfg k).extractLsb' 0 2).toNat = g
    let samples (k : Nat) : Nat := 4 * ((cfg k).extractLsb' 5 8).toNat + 1
    let seen (k : Nat) (g : BitVec 1) (y : QuadIn) : Prop := wired g.toNat ∧ from_ k g.toNat ∧ (g = i ∧ y = x ∨ g ≠ i ∧ other = some y)
    let da (k : Nat) (y : QuadIn) : Bool := decide (p.qa.getLsbD k ≠ y.a ∧ samples k ≤ y.na)
    let db (k : Nat) (y : QuadIn) : Bool := decide (p.qb.getLsbD k ≠ y.b ∧ samples k ≤ y.nb)
    let a (y : QuadIn) : Bool := if da c y then y.a else p.qa.getLsbD c
    let b (y : QuadIn) : Bool := if db c y then y.b else p.qb.getLsbD c
    let mult := ((cfg c).extractLsb' 2 2).toNat
    let counts (y : QuadIn) : Bool := if mult = 0 then da c y && a y else if mult = 1 then da c y else da c y || db c y
    let up (y : QuadIn) : Int :=
      if da c y && db c y then 0 else if !(counts y) then 0 else if a y != b y then 1 else -1
    let step (y : QuadIn) : Int := if (cfg c).getLsbD 4 then -(up y) else up y
    let error (g : BitVec 1) : Prop := ∃ k y, k < 2 ∧ seen k g y ∧ da k y = true ∧ db k y = true
    let only (u : State) : Prop := u = { s with pt := u.pt }
    let n := (p.ssicfg.extractLsb' 8 6).toNat
    let ssi : Prop := wired 2 ∧ p.ssicfg.getLsbD 15 = true ∧ 8 ≤ n ∧ n ≤ 32
    let low : Word := BitVec.ofNat 32 (raw.toNat % 2 ^ n)
    let v : Word := if p.ssicfg.getLsbD 14 then grayToBin low else low
    let diff : Int := ((v.toNat : Int) - r.toNat) % (2 ^ n : Int)
    let signed : Int := if diff < 2 ^ (n - 1) then diff else diff - 2 ^ n
    c < 2 →
      (∃ u, exec (.quadEdge i x other) s = .next u ∧ only u ∧
        (∀ y, seen c j y → u.pt.qa.getLsbD c = a y ∧ u.pt.qb.getLsbD c = b y ∧
          u.pt.count c = BitVec.ofInt 48 ((p.count c).toNat + step y)) ∧
        ((∀ g y, ¬seen c g y) → u.pt.qa.getLsbD c = p.qa.getLsbD c ∧ u.pt.qb.getLsbD c = p.qb.getLsbD c ∧
          u.pt.count c = p.count c) ∧
        (error 0 → u.pt.qerr0 = satAdd p.qerr0 1) ∧ (¬error 0 → u.pt.qerr0 = p.qerr0) ∧
        (error 1 → u.pt.qerr1 = satAdd p.qerr1 1) ∧ (¬error 1 → u.pt.qerr1 = p.qerr1)) ∧
      (wired i.toNat → from_ c i.toNat → ∃ u, exec (.indexLatch i m) s = .next u ∧ only u ∧
        (((cfg c).extractLsb' 13 2 = (0#2) ∨ m < samples c) →
          u.pt.count c = p.count c ∧ SMap.get 0 u.pt.zlat c = SMap.get 0 p.zlat c) ∧
        ((cfg c).extractLsb' 13 2 ≠ (0#2) → samples c ≤ m → SMap.get 0 u.pt.zlat c = p.count c ∧
          u.pt.count c = if (cfg c).extractLsb' 13 2 = (2#2) then 0 else p.count c)) ∧
      (¬wired i.toNat → exec (.indexLatch i m) s = .next s) ∧
      (ssi →
        (p.ssiBusy = false →
          exec (.ssiFrame true) s = .next { s with pt := { p with ssiBusy := true } } ∧
          exec (.ssiFrame false) s = .next { s with pt := { p with ssierr := satAdd p.ssierr 1 } }) ∧
        (p.ssiBusy = true → from_ c 2 →
          (p.ssiRef = none → ∃ u, exec (.ssiUpdate raw) s = .next u ∧ only u ∧ u.pt.ssiRef = some v ∧
            u.pt.ssiBusy = false ∧ u.pt.cnt = p.cnt) ∧
          (p.ssiRef = some r → ∃ u, exec (.ssiUpdate raw) s = .next u ∧ only u ∧ u.pt.ssiRef = some v ∧
            u.pt.ssiBusy = false ∧ u.pt.count c = BitVec.ofInt 48 ((p.count c).toNat + signed)))) ∧
      (∀ (x : Word) (j : Nat), j < 32 → (grayToBin x).getLsbD j = ((grayToBin x).getLsbD (j + 1) != x.getLsbD j))

/-- R410–R418: counters, events and pins. An update moves its counter; a one-shot entry whose position it passes fires
once, in the direction it names: its EN clears, its sequence number rises, and its action follows (a position event, or
a pin); an entry it does not pass does nothing, nor does an update of a counter whose input is not wired. An action
beyond the limits of R418 is counted. A pulse ends with its pin low when its time has passed; the oldest position event
leaves in class 0. R402, R410, R411, R421, R428: the registers of the timebase. A load of a counter fires nothing; an
enable is refused with CFGERR when its entry is not legal; PT_PIN writes the pins of a live timebase; an armed slot
ignores a write and is late. (Readings and choices of the model that it rests on: assumption log 75, 76, 87, 106.) -/
def Obligations.TimebaseEventsAndRegisters : Prop :=
  (∀ (s : State) (c : BitVec 1) (d : BitVec 48) (e : Nat) (x : EvtEntry) (j : BitVec 3) (m : Msg) (rest : List Msg),
    let p := s.pt
    let o := p.count c.toNat
    let ahead := x.w0.extractLsb' 0 48 - o
    let behind := o - x.w0.extractLsb' 0 48
    let passed : Prop := 0 < d.toInt ∧ x.w0.getLsbD 49 = true ∧ 1 ≤ ahead.toNat ∧ (ahead.toNat : Int) ≤ d.toInt ∨
      d.toInt < 0 ∧ x.w0.getLsbD 50 = true ∧ 1 ≤ behind.toNat ∧ (behind.toNat : Int) ≤ -d.toInt
    let act := (x.w0.extractLsb' 52 3).toNat
    let pin := (x.w2.extractLsb' 0 3).toNat
    let source : BitVec 2 := (SMap.get 0 p.ccfg c.toNat).extractLsb' 0 2
    let wired : Prop := source ≠ 3 ∧ s.alive = true ∧ s.unrec = false ∧ SMap.get 0 s.plan.pinmux source.toNat = 1
    let ka := if p.actAt = p.time then p.actN else 0
    let crowd := (p.sentAt.filter (fun k => decide ((p.time - k).toNat < 128))).length
    let left : Int := (SMap.get 0 p.pulseEnd j.toNat - p.time : DWord).toInt
    let event : Msg := ⟨2, 0xFFF, 3, none, x.w1.extractLsb' 48 16,
      [x.w2.extractLsb' 32 32 + if x.w0.getLsbD 55 then x.seq else 0], x.w2.extractLsb' 0 32, false, 0, none⟩
    let pick := (x.w2.extractLsb' 32 2).toNat
    let snap : VAddr :=
      if pick = c.toNat then o + d else if pick ≤ 1 then p.count pick
      else if pick = 2 then (p.ssiRef.getD 0).setWidth 48 else p.time.extractLsb' 0 48
    let fired (u : State) : Prop := u = { s with pt := u.pt } ∧ u.pt.count c.toNat = o + d ∧
      u.pt.entry e = { x with seq := x.seq + 1, w0 := setBit x.w0 63 false } ∧
      u.pt.slow = if act ≠ 5 ∧ 15 < ka ∨ (act = 0 ∨ act = 4) ∧ 14 ≤ crowd then satAdd p.slow 1 else p.slow
    (¬wired → exec (.counterUpdate c d) s = .next s) ∧
    (wired → s.ptLive = true → p.wasAt ≠ p.time → p.evt = [(e, x)] → x.w0.getLsbD 63 = true → x.w0.getLsbD 51 = false →
      (x.w0.getLsbD 48 = true ↔ c = 1) →
        (passed → act = 0 → ∃ u, exec (.counterUpdate c d) s = .next u ∧ fired u ∧ u.pt.sendBuf = p.sendBuf ++ [event] ∧
          u.pt.level = p.level) ∧
        (passed → act = 4 → ∃ u, exec (.counterUpdate c d) s = .next u ∧ fired u ∧ u.pt.level = p.level ∧
          u.pt.sendBuf = p.sendBuf ++ [⟨2, 0xFFF, 3, none, snap.extractLsb' 32 16, [snap.extractLsb' 0 32],
            x.w2.extractLsb' 0 32, false, 0, none⟩]) ∧
        (passed → (act = 1 ∨ act = 2 ∨ act = 3) → ∃ u, exec (.counterUpdate c d) s = .next u ∧ fired u ∧
          u.pt.level = setBit p.level pin (decide (act ≠ 2)) ∧ u.pt.pulse = setBit p.pulse pin (decide (act = 3)) ∧
          u.pt.sendBuf = p.sendBuf ∧ (act = 3 → SMap.get 0 u.pt.pulseEnd pin =
            p.time + BitVec.ofNat 64 (2 + ka + max (x.w2.extractLsb' 16 16).toNat 1 * 1024))) ∧
        (passed → act = 5 → ∃ u, exec (.counterUpdate c d) s = .next u ∧ fired u ∧
          u.pt.slotAt (((x.w2.extractLsb' 0 8).toNat + x.seq.toNat) % 256) =
            { p.slotAt (((x.w2.extractLsb' 0 8).toNat + x.seq.toNat) % 256) with armed := true }) ∧
        (¬passed → ∃ u, exec (.counterUpdate c d) s = .next u ∧ u = { s with pt := { p with
            cnt := u.pt.cnt, actAt := p.time, actN := ka } } ∧
          u.pt.count c.toNat = o + d)) ∧
    (p.pulse.getLsbD j.toNat = true → ∃ u, exec (.pulseEnd j) s = .next u ∧
      u.pt.level = setBit p.level j.toNat false ∧ u.pt.pulse = setBit p.pulse j.toNat false ∧ u.hbm = s.hbm ∧
      (left ≤ 0 → u.pt.time = p.time) ∧
      (0 < left → s.lands.coldrst = true → s.lands.railHold = false → u.pt.time = SMap.get 0 p.pulseEnd j.toNat)) ∧
    (p.sendBuf = m :: rest → exec .positionEventSend s = .next { s with
      pt := { p with sendBuf := rest }, nextId := s.nextId + 1
      net := s.net ++ [⟨s.nextId, .timebase, .tile (m.handle.extractLsb' 4 12), 0, .msg m, [], []⟩] })) ∧
  (∀ (s : State) (src : Src) (c : BitVec 1) (w : BitVec 64) (e : BitVec 10) (v : BitVec 32) (i : BitVec 8) (ans : Bool),
    let p := s.pt
    let may : Prop := s.alive = true ∧ match src with
      | .thread t h => (s.th t h).st.pl = 3 ∨ (s.th t h).st.pl = 2 ∧ p.cfg.getLsbD 5 = true ∧
          (s.tile t).func = some (p.cfg.extractLsb' 0 5)
      | _ => True
    let x := p.entry e.toNat
    let w0 := w &&& 0x00FFFFFFFFFFFFFF
    let legal : Prop := w.extractLsb' 49 2 ≠ (0#2) ∧ (w.extractLsb' 52 3).toNat < 6 ∧
      (w.getLsbD 51 = true → w.extractLsb' 49 2 ≠ (3#2) ∧ x.w1.extractLsb' 0 32 ≠ (0#32))
    let slot := p.slotAt i.toNat
    let makes (k : Instr) (f : Pt → Prop) : Prop := ∃ u, exec k s = .next u ∧ u = { s with pt := u.pt } ∧ f u.pt
    let becomes (k : Instr) (y : Slot) : Prop := makes k (fun q => q.slotAt i.toNat = y ∧ q.evt = p.evt ∧
      ∀ j, j ≠ i.toNat → q.slotAt j = p.slotAt j)
    may →
      makes (.counterLoad src c w) (fun q => q = { p with cnt := q.cnt } ∧ q.count c.toNat = w.extractLsb' 0 48) ∧
      (x.w0.getLsbD 63 = false → legal → makes (.eventEntryEnable src e w) (fun q =>
        q.entry e.toNat = { x with w0 := w0 ||| 0x8000000000000000, seq := 0, cfgerr := false })) ∧
      (x.w0.getLsbD 63 = false → ¬legal → makes (.eventEntryEnable src e w) (fun q =>
        q.entry e.toNat = { x with w0 := w0, cfgerr := true })) ∧
      makes (.pinWrite src v) (fun q => q = { p with level := if s.ptLive then v.extractLsb' 0 8 else 0, pulse := 0, pulseEnd := [] }) ∧
      (slot.armed = false →
        becomes (.slotWrite src i ans v) (if ans then { slot with ans := v } else { slot with item := v }) ∧
        becomes (.slotValid src i) { slot with valid := true }) ∧
      (slot.armed = true → ∀ k ∈ [Instr.slotWrite src i ans v, Instr.slotValid src i],
        becomes k { slot with late := true } ∧ makes k (fun q => q.latewr = satAdd p.latewr 1)) ∧
      becomes (.slotFree src i) { slot with valid := false, armed := false, served := false, late := false })

/-- R419–R424: the line answer port. A frame with a good CRC and the port's address is answered: a query with the word
of a valid, armed slot that holds its item, else with the reason it is not ready; a ping with the owner's state; another
operation with a rejection. A bad frame counts and is not answered. The answer is sent with LADE asserted. (Readings and
choices of the model that it rests on: assumption log 75.) -/
def Obligations.LineFrames : Prop :=
  ∀ (s : State) (bytes : List Byte) (b0 b1 b2 b3 b4 b5 b6 b7 : Byte) (frame : List Byte),
    let p := s.pt
    let body := [b0, b1, b2, b3, b4, b5]
    let good : Prop := bytes = body ++ [b6, b7] ∧ b6 ++ b7 = crc16 body
    let item : Word := b5 ++ b4 ++ b3 ++ b2
    let slot := p.slotAt b2.toNat
    let answer (op : Byte) (w : Word) : List Byte :=
      let l := [b0, op, b2, b3, b4, b5] ++ byteList w 4
      l ++ [(crc16 l).extractLsb' 8 8, (crc16 l).extractLsb' 0 8]
    let not (r : Word) : Prop := exec (.query bytes) s = .next { s with pt := { p with
      laQuery := satAdd p.laQuery 1, laNrdy := satAdd p.laNrdy 1
      laNrarm := if r = 3 then satAdd p.laNrarm 1 else p.laNrarm, answer := some (answer 0x82 r) } }
    let run : Bool := p.cfg.getLsbD 5 && decide ((s.func (p.cfg.extractLsb' 0 5)).st = .running)
    (s.alive = true → s.unrec = false → SMap.get 0 s.plan.pinmux 5 = 1 → p.lacfg.getLsbD 14 = true → p.lade = false →
      (good → b0 = p.lacfg.extractLsb' 0 8 →
        (b1 = 1 →
          (s.ptLive = false → not 4) ∧ (s.ptLive = true → slot.valid = false → not 1) ∧
          (s.ptLive = true → slot.valid = true → slot.item ≠ item → not 2) ∧
          (s.ptLive = true → slot.valid = true → slot.item = item → slot.armed = false → not 3) ∧
          (s.ptLive = true → slot.valid = true → slot.item = item → slot.armed = true → ∃ u,
            exec (.query bytes) s = .next u ∧ u.pt.slotAt b2.toNat = { slot with served := true } ∧
            u = { s with pt := { p with
              slot := u.pt.slot, laQuery := satAdd p.laQuery 1, laAnswer := satAdd p.laAnswer 1
              answer := some (answer 0x81 slot.ans) } })) ∧
        (b1 = 2 → exec (.ping bytes) s =
          .next { s with pt := { p with answer := some (answer 0x83 (if run then 1 else 0)) } }) ∧
        (b1 ≠ 1 → b1 ≠ 2 → exec (.otherOp bytes) s = .next { s with pt := { p with
          laReject := satAdd p.laReject 1, answer := some (answer 0x8F (b1.setWidth 32)) } })) ∧
      (bytes = body ++ [b6, b7] → b6 ++ b7 ≠ crc16 body → exec (.badFrame false bytes) s =
        .next { s with pt := { p with laBadcrc := satAdd p.laBadcrc 1 } }) ∧
      exec (.badFrame true bytes) s = .next { s with pt := { p with laFraming := satAdd p.laFraming 1 } } ∧
      (p.answer = some frame → exec .answerStart s =
        .next { s with pt := { p with answer := none, line := frame, lade := true } })) ∧
    (p.lade = true → exec .ladeRelease s = .next { s with pt := { p with line := [], lade := false } })

/-! ## Start-up -/

/-- R178, R284, R469, R476, R541: cold start. COLDRST_N rises and the Tamore Link ports train; the identity is the
public key that a helper record derives from the PUF and whose SHA3-256 it names, device 0's before device 1's, each on
a device that answers SFDP; the fabric phase switches every domain on and zeroes every local memory; a stack that fails,
or a die link that does not train, ends start-up with the part out of service. (Readings and choices of the model that
it rests on: assumption log 15, 19, 20, 21.) -/
def Obligations.ColdStart : Prop :=
  ∀ (s : State) (sfdp0 sfdp1 : Bool) (puf : List Byte),
    let l := s.ld
    let alive : Prop := s.lands.coldrst = true ∧ s.lands.railHold = false
    let m (dev : Bool) : SMap Byte := if dev then l.flash1 else l.flash0
    let pk (dev : Bool) : List Byte := fitBytes 1312 (Config.mlDsaKey (Config.pufSeed puf
      (flashBytes (m dev) 0x7FF0028 (flashNat (m dev) 0x7FF0004 4))))
    let good (dev : Bool) : Bool := (if dev then sfdp1 else sfdp0) && decide (flashNat (m dev) 0x7FF0000 4 = 0x504C4844) &&
      decide (1 ≤ flashNat (m dev) 0x7FF0004 4) && decide (flashNat (m dev) 0x7FF0004 4 ≤ 65464) &&
      decide (sha3_256 (pk dev) = flashBytes (m dev) 0x7FF0008 32)
    let a := good false
    let b := good true
    let undefined : Prop := ∀ f, (s.func f).st = .absent
    let failed (k : Instr) (r : Byte) : Prop := ∃ u, exec k s = .next u ∧ u.unrec = true ∧ u.reason = r ∧
      u.lands = { s.lands with svcflt := true } ∧ u.ld = { l with phase := 6, meas := 0, okh := [], secs := [] } ∧
      u.tiles = s.tiles ∧ u.cobs = s.cobs ∧ u.hbm = s.hbm ∧ u.plan = s.plan
    (s.lands.coldrst = false → ∃ u, exec .coldStart s = .next u ∧ u = { s with lands := u.lands, ports := u.ports } ∧
      u.lands.coldrst = true ∧ u.lands.railHold = false ∧
      ∀ p : PortNo, u.port p = { s.port p with st := 1 }) ∧
    (alive → l.phase.toNat < 4 → l.identityDone = false → exec (.identity sfdp0 sfdp1 puf) s = .next { s with
      ld := { l with present0 := sfdp0, present1 := sfdp1, identityDone := true, phase := if l.fabricDone then 2 else 1
                     idv := a || b, hlpb := !a && b
                     idpk := if a then pk false else if b then pk true else []
                     idkh := if a then sha3_256 (pk false) else if b then sha3_256 (pk true) else [] } }) ∧
    (alive → l.phase.toNat < 4 → l.fabricDone = false →
      (∃ u, exec (.fabricPhase true) s = .next u ∧ u = { s with tiles := u.tiles, cobs := u.cobs, pw := u.pw, ld := u.ld } ∧
        u.ld = { l with fabricDone := true, phase := if l.identityDone then 2 else l.phase } ∧
        u.pw = { s.pw with kiln0 := true, kiln1 := .on, viaK1 := true } ∧
        (∀ c, u.cob c = { s.cob c with north := .on, south := .on, memif := .on }) ∧
        ∀ t, u.tile t = { s.tile t with zeroed := true, lmem := [], onAt := (s.cob (tileCob t)).cyc }) ∧
      (undefined → s.unrec = false → failed (.fabricPhase false) 2)) ∧
    (alive → l.phase.toNat ≤ 4 → l.fabricDone = true → l.hbmDone = false →
      exec (.hbmPhase true) s = .next { s with ld := { l with hbmDone := true } } ∧
      (undefined → s.unrec = false → failed (.hbmPhase false) 1))

/-- R462, R463, R467, R470, R471, R478, R483: image A is read once the identity and fabric phases are over, image B when
A has failed; the checks are made in order and the first that fails gives the code. An image that passes is staged, its
measurement and the digest of the owner's key are kept; when both fail the part leaves service. (Readings and choices of
the model that it rests on: assumption log 15, 20, 22.) -/
def Obligations.ImageReading : Prop :=
  ∀ (s : State) (dev answers : Bool),
    let l := s.ld
    let m := if dev then l.flash1 else l.flash0
    let n := flashNat m 6 2
    let starts : Prop := s.lands.coldrst = true ∧ s.lands.railHold = false ∧ l.identityDone = true ∧ l.fabricDone = true ∧
      l.phase = if dev then 3 else 2
    let code (u : State) : Byte := (if dev then u.ld.errb else u.ld.erra).extractLsb' 0 8
    let place (u : State) : Word := (if dev then u.ld.errb else u.ld.erra).extractLsb' 32 32
    let present := if dev then l.present1 else l.present0
    let vendor : Prop := sha3_256 (flashBytes m 0x20 1312) = Config.vroot
    let cert : Prop := Config.mlDsaVerify (flashBytes m 0x20 1312) (flashBytes m 0x540 1320) (flashBytes m 0xA68 2420) = true
    let sigAt := flashNat m 0x10 4
    let signed := flashBytes m 0 (0x1400 + 64 * n)
    let off (i : Nat) : Nat := flashNat m (0x1400 + 64 * i + 8) 8
    let len (i : Nat) : Nat := flashNat m (0x1400 + 64 * i + 16) 8
    let byType (k : Nat) : Nat := ((List.range n).filter (fun i => flashNat m (0x1400 + 64 * i) 4 = k)).length
    let fails (c : Byte) (o : Word) : Prop := ∃ u, exec (.imageRead dev answers) s = .next u ∧ code u = c ∧ place u = o ∧
      u.ld.applied = l.applied ∧ u.tiles = s.tiles ∧ u.hbm = s.hbm ∧ u.plan = s.plan ∧
      if dev then u.ld.phase = 6 ∧ u.ld.meas = 0 ∧ u.unrec = true ∧ (s.unrec = false → u.reason = 4)
      else u = { s with ld := { l with phase := 3, erra := u.ld.erra } }
    starts → (∀ f, (s.func f).st = .absent) →
      (present = false → fails 1 0) ∧
      (present = true → answers = false → fails 9 0) ∧
      (present = true → answers = true → flashNat m 0 4 ≠ 0x49525944 → fails 2 0) ∧
      (present = true → answers = true → flashNat m 0 4 = 0x49525944 → flashNat m 4 2 ≠ 1 → fails 2 4) ∧
      (present = true → answers = true → flashNat m 0 4 = 0x49525944 → flashNat m 4 2 = 1 →
        (¬vendor → fails 3 0x20) ∧
        (vendor → ¬cert → fails 4 0xA68) ∧
        (vendor → cert → (n = 0 ∨ 64 < n) → fails 7 6)) ∧
      (∃ u, exec (.imageRead dev answers) s = .next u ∧
        (code u ≠ 0 → u.ld.phase = if dev then 6 else 3) ∧
        (code u = 0 → u = { s with ld := u.ld } ∧ u.ld.phase = 4 ∧ u.ld.slot = dev ∧ u.ld.staged = m ∧
          u.ld.okh = sha3_256 (flashBytes m 0x548 1312) ∧ u.ld.meas.extractLsb' 0 256 = leBits 256 (sha3_256 signed) ∧
          (dev = false → u.ld.errb = 0x0A) ∧ 1 ≤ n ∧ n ≤ 64 ∧ vendor ∧ cert ∧
          Config.mlDsaVerify (flashBytes m 0x548 1312) signed (flashBytes m sigAt 2420) = true ∧
          (∀ i, i < n → sha3_256 (flashBytes m (off i) (len i)) = flashBytes m (0x1400 + 64 * i + 24) 32) ∧
          byType 1 = 1 ∧ byType 2 = 1 ∧ byType 6 ≤ 1 ∧ byType 7 ≤ 1 ∧ byType 8 ≤ 1 ∧
          ∀ i, i < n → off i % 4096 = 0 ∧ 1 ≤ len i ∧ off i + len i ≤ 0x7F00000))

/-- R470, R474: a verified image is applied, from where it is staged, once the HBM phase is over: what the flash holds
by then has no part in it. The loader shows its version and mode; each tile goes to the function that FUNCTIONS names,
each function gets its MGMT, and PLAN its plan; what no section names stays as it is until the release; without a CXL
section no window is enabled. R41, R448, R466, R470, R485: release. Every image field that no section has given a value
takes its default; every held RUN takes effect at its start level, each defined function is RUNNING when one of its
threads is, else IDLE, an undefined one is ABSENT, and a half in mode 1 begins to switch off. (Readings and choices of
the model that it rests on: assumption log 24, 88.) -/
def Obligations.ImageApplicationAndRelease : Prop :=
  (∀ (s : State) (r : CxlReport),
    let l := s.ld
    let m := l.staged
    let of_ (k : Nat) : List Section := l.secs.filter (fun e => e.type = k)
    let fo := ((of_ 2).map (fun e => e.offset)).headD 0
    let po := ((of_ 1).map (fun e => e.offset)).headD 0
    let plain : Prop := of_ 3 = [] ∧ of_ 5 = [] ∧ of_ 6 = []
    let owner (t : TileId) : Nat := flashNat m (fo + t.toNat) 1
    let entry (f : FuncNo) : Nat := flashNat m (fo + 4096 + 8 * f.toNat) 1
    s.lands.coldrst = true → s.lands.railHold = false → l.phase = 4 → l.hbmDone = true → l.applied = false →
      ∃ u, exec (.imageApply r) s = .next u ∧
        u.ld.applied = true ∧ u.ld.slotv = true ∧ u.ld.phase = 4 ∧ u.ld.flash0 = l.flash0 ∧ u.ld.flash1 = l.flash1 ∧
        u.ld.debug = decide (flashNat m 0xC 1 % 2 = 1) ∧ u.ld.version = BitVec.ofNat 32 (flashNat m 8 4) ∧
        (of_ 4 = [] → plain → u.hbm = s.hbm) ∧
        (plain →
          (∀ t, u.tile t = { s.tile t with func := if owner t = 0xFF then none else some (BitVec.ofNat 5 (owner t)) }) ∧
          (∀ f, u.func f = { s.func f with mgmt := decide (entry f / 2 % 2 = 1) }) ∧
          (∀ f : FuncNo, u.plan.defs.getLsbD f.toNat = decide (entry f % 2 = 1)) ∧
          u.pt = { s.pt with evt := u.pt.evt } ∧ u.plan.thot = BitVec.ofNat 8 (flashNat m (po + 8) 1) ∧
          ∀ c : CobNo, SMap.get 0 u.plan.budget c.toNat = flashNat m (po + 0x90 + 2 * c.toNat) 2) ∧
        (of_ 8 = [] → u.plan.cxlEn = 0 ∧ u.plan.cxlWin = [])) ∧
  (∀ s : State,
    let l := s.ld
    let c (i : Nat) (so : Bool) : Byte := SMap.get 0 (if so then s.plan.smode else s.plan.nmode) i
    let given (pa : Nat) : Prop := pa ∈ l.named
    let ct (t : TileId) (o : Nat) : Nat := 0x3F0000000000 + t.toNat * 0x40000 + o
    let qt (t : TileId) (o : Nat) : Nat := 0x3F0100000000 + t.toNat * 0x10000 + o
    let ce (t : TileId) (o : Nat) : Nat := 0x3F0200000000 + t.toNat * 0x10000 + o
    let pt (o : Nat) : Nat := 0x3F0800000000 + o
    let held (t : TileId) (h : Thr) (x : Thread) : Prop :=
      (given (ct t (8 + 8 * h.toNat)) → x.pc = (s.th t h).pc ∧ x.slv = (s.th t h).slv ∧ x.run = (s.th t h).run) ∧
      (¬given (ct t (8 + 8 * h.toNat)) → x.pc = 0 ∧ x.slv = false ∧ x.run = .stopped) ∧
      (given (qt t (0x320 + 8 * h.toNat)) → x.stex = (s.th t h).stex) ∧
      (¬given (qt t (0x320 + 8 * h.toNat)) → x.stex = false) ∧
      x = { s.th t h with pc := x.pc, slv := x.slv, run := x.run, stex := x.stex }
    s.lands.coldrst = true → s.lands.railHold = false → l.phase = 4 → l.applied = true → s.unrec = false →
      ∃ u, exec .release s = .next u ∧
        u = { s with tiles := u.tiles, cobs := u.cobs, funcs := u.funcs, ld := u.ld, pt := u.pt } ∧
        u.ld = { l with phase := 5, staged := [] } ∧
        (∀ t h, ∃ x, held t h x ∧ u.th t h = if SMap.get false s.plan.imgRun (t.toNat * 4 + h.toNat) = true ∧
            (s.tile t).zeroed = true ∧ (s.tile t).func.isSome = true ∧ x.run = .stopped then
          { x with run := .running, blk := none, st := { pl := if x.slv then 3 else 2 }, det := {}
                   stopReq := false, haltReq := none, stepping := false, owed := false } else x) ∧
        (∀ t,
          (given (ct t 0x200) → (u.tile t).csize = (s.tile t).csize ∧ (u.tile t).pfd = (s.tile t).pfd) ∧
          (¬given (ct t 0x200) → (u.tile t).csize = 0 ∧ (u.tile t).pfd = 0) ∧
          (given (ct t 0x220) → (u.tile t).place = (s.tile t).place) ∧ (¬given (ct t 0x220) → (u.tile t).place = 0) ∧
          (given (ct t 0x228) → (u.tile t).pbb = (s.tile t).pbb) ∧
          (¬given (ct t 0x228) → (u.tile t).pbb = 0x40000000) ∧
          (given (ct t 0x4E0) → (u.tile t).quietWin = (s.tile t).quietWin) ∧
          (¬given (ct t 0x4E0) → (u.tile t).quietWin = 16) ∧
          (given (ct t 0x600) → (u.tile t).hzHaltk = (s.tile t).hzHaltk) ∧ (¬given (ct t 0x600) → (u.tile t).hzHaltk = 0) ∧
          (given (ce t 0x20) → (u.tile t).eng = (s.tile t).eng) ∧
          (¬given (ce t 0x20) → (u.tile t).eng = { (s.tile t).eng with fqh := 0 }) ∧
          (∀ q : QIx, (given (qt t (8 * q.toNat)) → (u.tile t).queue q = (s.tile t).queue q) ∧
            (¬given (qt t (8 * q.toNat)) → (u.tile t).queue q = { (s.tile t).queue q with
              en := false, mode := false, ext := false, rsize := 0, rbase := 0, grain := 0 })) ∧
          (u.tile t).lmem = (s.tile t).lmem ∧ (u.tile t).func = (s.tile t).func) ∧
        (given (pt 0) → u.pt.cfg = s.pt.cfg) ∧ (¬given (pt 0) → u.pt.cfg = 0) ∧
        (given (pt 0x70) → u.pt.lacfg = s.pt.lacfg) ∧ (¬given (pt 0x70) → u.pt.lacfg = 0) ∧
        (∀ f : FuncNo,
          (¬given (0x3F0700000000 + 8 * f.toNat) → (u.func f).cnsEn = s.plan.defs.getLsbD f.toNat) ∧
          (given (0x3F0700000000 + 8 * f.toNat) → (u.func f).cnsEn = (s.func f).cnsEn) ∧
          (s.plan.defs.getLsbD f.toNat = false → (u.func f).st = .absent) ∧
          (s.plan.defs.getLsbD f.toNat = true →
            ((u.func f).st = .running ↔ ∃ t h, (s.tile t).func = some f ∧ (u.th t h).run ≠ .stopped) ∧
            ((u.func f).st ≠ .running → (u.func f).st = .idle))) ∧
        ∀ i : CobNo, (u.cob i) = { s.cob i with
          north := if c i.toNat false = 1 then .goingOff false else (s.cob i).north
          south := if c i.toNat true = 1 then .goingOff false else (s.cob i).south })

/-- R473, R474, R477, R478: flash operations and attestation. An operation starts unless one runs or the table refuses
it; when it ends a READ has filled the window, a PROGRAM has cleared bits of the device and nothing else, an ERASE has
set a sector. A report is signed under the nonce and counted; without an identity the request is refused. (Readings and
choices of the model that it rests on: assumption log 15, 26.) -/
def Obligations.LoaderOperations : Prop :=
  ∀ (s : State) (src : Src) (dev : Bool) (addr : BitVec 32) (answers : Bool) (sig : List Byte),
    let l := s.ld
    let may : Prop := s.lands.coldrst = true ∧ s.lands.railHold = false ∧ match src with
      | .thread t h => (s.th t h).st.pl = 3 ∨ (s.th t h).st.pl = 2 ∧ ∃ f, (s.tile t).func = some f ∧ (s.func f).mgmt = true
      | _ => True
    let here := if dev then l.present1 else l.present0
    let a := addr.toNat
    let named (op : BitVec 3) : Loader := { l with fop := op, fdev := dev, faddr := addr }
    let ends (k : Instr) (y : Loader) : Prop := ∃ n, exec k s = .next { s with ld := y, free := n }
    let starts (k : Instr) (op : BitVec 3) : Prop := ∃ x, ends k { named op with fbusy := true, fquick := x }
    let device (u : State) (d : Bool) : SMap Byte := if d then u.ld.flash1 else u.ld.flash0
    let f0 := l.faddr.toNat
    let was := if l.fdev then l.flash1 else l.flash0
    let rep : List Byte := byteList (0x54415944 : Word) 4 ++ byteList (1 : BitVec 16) 2 ++
      [if l.slot then 1 else 0, (if l.debug then 1 else 0) +
        (if (if l.slot then l.erra else l.errb).extractLsb' 0 8 = (0 : Byte) ∨ (if l.slot then l.erra else l.errb).extractLsb' 0 8 =
          (0x0A : Byte) then 0 else 2)] ++ byteList l.version 4 ++ byteList (0 : Word) 4 ++ byteList l.nonce 32 ++ byteList l.meas 64
    (may → l.fbusy = true → ∀ k ∈ [Instr.flashRead src dev addr, .flashProgram src dev addr, .flashErase src dev addr,
        .flashCheck src dev addr answers], ends k l) ∧
    (may → l.fbusy = false →
      (∀ e ∈ [(Instr.flashRead src dev addr, (1 : BitVec 3), 4096), (.flashProgram src dev addr, 2, 4096),
          (.flashErase src dev addr, 3, 65536)],
        (a % e.2.2 ≠ 0 → ends e.1 { named e.2.1 with fstatus := 3 }) ∧
        (a % e.2.2 = 0 → 0x8000000 < a + e.2.2 → ends e.1 { named e.2.1 with fstatus := 2 }) ∧
        (a % e.2.2 = 0 → a + e.2.2 ≤ 0x8000000 → e.2.1 ≠ 1 → 0x7F00000 < a + e.2.2 →
          ends e.1 { named e.2.1 with fstatus := 4 }) ∧
        (a % e.2.2 = 0 → a + e.2.2 ≤ 0x8000000 → (e.2.1 = 1 ∨ a + e.2.2 ≤ 0x7F00000) →
          (here = false → ends e.1 { named e.2.1 with fstatus := 5 }) ∧ (here = true → starts e.1 e.2.1))) ∧
      (here = false → ends (.flashCheck src dev addr answers) { named 4 with fstatus := 5 }) ∧
      (here = true → ends (.flashCheck src dev addr answers) { named 4 with fbusy := true, fquick := answers })) ∧
    (l.fbusy = true →
      ends (.flashOpDone true) { l with fbusy := false, fstatus := 5 } ∧
      ∃ u, exec (.flashOpDone false) s = .next u ∧ u = { s with ld := u.ld } ∧ u.ld.fbusy = false ∧ u.ld.fstatus = 0 ∧
        (l.fop = 1 → u.ld = { l with fbusy := false, fstatus := 0, fwin := u.ld.fwin } ∧
          ∀ i, i < 4096 → u.ld.fwin.byte i = SMap.get 0xFF was (f0 + i)) ∧
        (l.fop = 2 → device u (!l.fdev) = device s (!l.fdev) ∧ u.ld.fwin = l.fwin ∧ u.ld.chk = l.chk ∧
          ∀ i, SMap.get 0xFF (device u l.fdev) i = if f0 ≤ i ∧ i < f0 + 4096 then
            SMap.get 0xFF was i &&& l.fwin.byte (i - f0) else SMap.get 0xFF was i) ∧
        (l.fop = 3 → device u (!l.fdev) = device s (!l.fdev) ∧ u.ld.fwin = l.fwin ∧ u.ld.chk = l.chk ∧
          ∀ i, SMap.get 0xFF (device u l.fdev) i = if f0 ≤ i ∧ i < f0 + 65536 then 0xFF else SMap.get 0xFF was i) ∧
        (l.fop = 4 → u.ld = { l with fbusy := false, fstatus := 0, chk := u.ld.chk })) ∧
    (may → ends (.attestationRequest src) { l with abusy := true }) ∧
    (l.abusy = true → l.idv = false → ends (.reportSigned sig) { l with abusy := false, aresult := 1 }) ∧
    (l.abusy = true → l.idv = true → sig.length = 2420 → ∃ u, exec (.reportSigned sig) s = .next u ∧
      u = { s with ld := { l with abusy := false, aresult := 0, arep := u.ld.arep, aseq := l.aseq + 1 } } ∧
      u.ld.arep.length = 2612 ∧ u.ld.arep.take 112 = rep ∧ u.ld.arep.drop 192 = sig)

/-! ## Power, clocks and temperature -/

/-- R282, R485–R489: power domains. An idle mode-2 half begins to switch off after its window, with epochs and ACT
recorded; an idle memory interface under two dark halves writes its colliers' blocks back and begins too; a wake
switches an off domain on, and one that is switching off once its sequence has ended; a half loses its tiles' state but
what the image fixes, and comes back with the image's PC and SLV and with newer epochs. Window requests that waited for
a memory interface are tried again when it is on. (What a memory interface that was off leaves of the droop step and a
sag is the model's choice, log 89.) R267, R490: Kiln 1. Sixteen windows in which the two links of every Cob and Husk
together stay below K1OFF begin its switch-off; a link of Kiln 0 above K1ON while it is off, its switch-on. Each change
holds the Kilns' new traffic until both are empty of what they held, and only then the routes change; a wake during the
sequence takes effect at its end. (Readings and choices of the model that it rests on: assumption log 10, 79, 99, 100.)
-/
def Obligations.PowerDomains : Prop :=
  (∀ (s : State) (c : CobNo) (so w : Bool),
    let x := s.cob c
    let alive : Prop := s.lands.coldrst = true ∧ s.lands.railHold = false
    let released : Prop := alive ∧ s.ld.phase = 5
    let wakes : Prop := released ∧ s.pw.kiln0 = true
    let mode : Byte := SMap.get 0 (if so then s.plan.smode else s.plan.nmode) c.toNat
    let ix (t : TileId) : Nat := t.toNat % 256
    let mine (t : TileId) : Prop := tileCob t = c ∧ tileSouth t = so
    let at_ (y : Cob) : Power := if so then y.south else y.north
    let put (y : Cob) (p : Power) : Cob := if so then { y with south := p } else { y with north := p }
    let onlyCob (u : State) (y : Cob) : Prop := u = { s with cobs := u.cobs } ∧ u.cob c = y ∧ ∀ k, k ≠ c → u.cob k = s.cob k
    let window := (SMap.get 0 s.plan.dwin c.toNat).toNat * 65536
    let awake (p : Power) : Power := match p with
      | .off => .goingOn
      | .goingOff _ => .goingOff true
      | p => p
    (released → mode = 2 → at_ x = .on → s.halfIdle c so = true → window ≤ (if so then x.idleS else x.idleN) →
      ∃ u, exec (.halfSwitchOff c so) s = .next u ∧
        onlyCob u { put x (.goingOff false) with epochs := (u.cob c).epochs, acts := (u.cob c).acts } ∧
        ∀ t, mine t → SMap.get 0 (u.cob c).acts (ix t) = (s.tile t).quietAct ∧
          ∀ q : QIx, SMap.get 0 (u.cob c).epochs (ix t * 16 + q.toNat) = ((s.tile t).queue q).epoch) ∧
    (mode ≠ 2 ∨ s.halfIdle c so = false ∨ (if so then x.idleS else x.idleN) < window →
      exec (.halfSwitchOff c so) s = .next s) ∧
    (released → s.memifMayOff c = true → ∃ u, exec (.memifSwitchOff c) s = .next u ∧
      u = { s with cobs := u.cobs, slices := u.slices, hbmBad := u.hbmBad } ∧ u.cob c = { x with memif := .goingOff false } ∧
      ∀ i, (u.slice i).held = if i % 32 / 2 = c.toNat then [] else (s.slice i).held) ∧
    (x.north ≠ .off ∨ x.south ≠ .off → exec (.memifSwitchOff c) s = .next s) ∧
    (wakes → mode = 1 → ∃ u, exec (.domainWake (.half c so)) s = .next u ∧
      onlyCob u (if so then { x with idleS := 0 } else { x with idleN := 0 })) ∧
    (wakes → mode ≠ 1 → ∃ u, exec (.domainWake (.half c so)) s = .next u ∧
      onlyCob u (put { (if so then { x with idleS := 0 } else { x with idleN := 0 }) with memif := awake x.memif } (awake (at_ x)))) ∧
    (wakes → ∃ u, exec (.domainWake (.memif c)) s = .next u ∧ onlyCob u { x with memif := awake x.memif }) ∧
    (at_ x = .goingOff w → ∃ u, exec (.switchOffSequenceEnd (.half c so)) s = .next u ∧
      u = { s with tiles := u.tiles, cobs := u.cobs } ∧ u.cob c = put x (if w then .goingOn else .off) ∧
      ∀ t, u.tile t = if tileCob t = c ∧ tileSouth t = so then
        { func := (s.tile t).func, mvbase := (s.tile t).mvbase, svbase := (s.tile t).svbase } else s.tile t) ∧
    (x.memif = .goingOff w → ∃ u, exec (.switchOffSequenceEnd (.memif c)) s = .next u ∧
      u = { s with cobs := u.cobs, free := u.free } ∧ (u.cob c).memif = (if w then .goingOn else .off) ∧
      (u.cob c).tlb = [] ∧ (u.cob c).walker = [] ∧ (u.cob c).ckBusy = false ∧ (u.cob c).claims = [] ∧
      (u.cob c).droop = x.droop ∧ (u.cob c).sagging = x.sagging ∧ (∀ k, k ≠ c → u.cob k = s.cob k)) ∧
    (alive → s.pw.kiln0 = true → x.memif = .goingOn → ∃ u, onlyCob u { x with memif := .on } ∧
      exec (.domainOn (.memif c)) s = .next u.retryWindows ∧ (s.winHeld = [] → u.retryWindows = u)) ∧
    (s.pw.kiln0 = false → ∀ d, exec (.domainOn d) s = .next s ∧ exec (.domainWake d) s = .next s) ∧
    (alive → s.pw.kiln0 = true → at_ x = .goingOn → x.memif = .on → s.plan.restore = [] → ∃ u, exec (.domainOn (.half c so)) s = .next u ∧
      u = { s with tiles := u.tiles, cobs := u.cobs, free := u.free } ∧ u.cob c = put x .on ∧
      ∀ t, (¬mine t → u.tile t = s.tile t) ∧ (mine t →
        (u.tile t).onAt = x.cyc ∧ (u.tile t).lmem = (s.tile t).lmem ∧ (u.tile t).pmem = (s.tile t).pmem ∧
        (u.tile t).func = (s.tile t).func ∧ (u.tile t).quietWin = 16 ∧ (u.tile t).zeroed = (s.tile t).zeroed ∧
        (∀ h, (u.th t h).run = (s.th t h).run ∧ (u.th t h).pc = SMap.get 0 s.plan.imgPc (t.toNat * 4 + h.toNat) ∧
          (u.th t h).slv = SMap.get false s.plan.imgSlv (t.toNat * 4 + h.toNat)) ∧
        ∀ q : QIx, (u.tile t).queue q = if ((s.tile t).queue q).en = true then
          { (s.tile t).queue q with epoch := SMap.get 0 x.epochs (ix t * 16 + q.toNat) + 1 } else (s.tile t).queue q))) ∧
  (∀ (s : State) (w : Bool) (windows : List (List (BitVec 8 × BitVec 8))) (loads : List (BitVec 8)) (l : List Xid),
    let p := s.pw
    let alive : Prop := s.lands.coldrst = true ∧ s.lands.railHold = false
    let ends (k : Instr) (q : Pw) : Prop := exec k s = .next { s with pw := q }
    let low : Prop := windows.length = 16 ∧ ∀ x ∈ windows, x.length = 18 ∧ ∀ y ∈ x, y.1.toNat + y.2.toNat < s.plan.k1off.toNat
    let high : Prop := ∃ x ∈ loads, s.plan.k1on.toNat < x.toNat
    let emptied : Prop := ∀ k ∈ s.inKilns, k ∉ l
    (alive → s.ld.phase = 5 → s.plan.k1mode = true → p.kiln1 = .on → p.routeHold = none → low →
      ends (.kiln1SwitchOff windows) { p with kiln1 := .goingOff false, routeHold := some s.inKilns }) ∧
    (s.plan.k1mode = false ∨ ¬low → exec (.kiln1SwitchOff windows) s = .next s) ∧
    (alive → high → p.kiln1 = .off → ends (.kiln1SwitchOn loads) { p with kiln1 := .goingOn }) ∧
    (alive → high → p.kiln1 = .goingOff w → ends (.kiln1SwitchOn loads) { p with kiln1 := .goingOff true }) ∧
    (¬high → exec (.kiln1SwitchOn loads) s = .next s) ∧
    (p.routeHold = some l → ¬emptied → exec .kilnRouteChange s = .next s) ∧
    (p.routeHold = some l → emptied → s.winHeld = [] →
      ends .kilnRouteChange { p with routeHold := none, viaK1 := decide (p.kiln1 = .on) }) ∧
    (p.kiln1 = .goingOff w → p.routeHold = some l → exec (.switchOffSequenceEnd .kiln1) s = .next s) ∧
    (p.kiln1 = .goingOff w → p.routeHold = none →
      ends (.switchOffSequenceEnd .kiln1) { p with kiln1 := if w then .goingOn else .off }) ∧
    (alive → p.kiln0 = true → p.kiln1 = .goingOn →
      ends (.domainOn .kiln1) { p with kiln1 := .on, routeHold := some s.inKilns }) ∧
    exec (.domainWake .kiln1) s = .next s)

/-- R286, R495, R496, R499–R501: droop, temperature and scrub. A sag takes a Cob's clock down one step and counts; a
clean run takes it up one; the thermal step follows the hottest sensors; a trip temperature sets every step to 3 and
pulls THERMTRIP_N low; the stacks' own scrub records an uncorrectable error and fails nothing. (Readings and choices of
the model that it rests on: assumption log 77, 78.) -/
def Obligations.ClocksAndHeat : Prop :=
  ∀ (s : State) (c : CobNo) (dies stk : List Byte) (pa : BitVec 46),
    let x := s.cob c
    let alive : Prop := s.lands.coldrst = true ∧ s.lands.railHold = false
    let only (k : Instr) (y : Cob) : Prop := ∃ u, exec k s = .next u ∧ u = { s with cobs := u.cobs } ∧ u.cob c = y ∧
      ∀ j, j ≠ c → u.cob j = s.cob j
    let down : Cob := if x.droop = 3 then x else { x with droop := x.droop + 1, sags := satAdd x.sags 1 }
    let die (p : Pw) (i : Nat) : Nat := (SMap.get {} p.tdie i).cur.toNat
    let stack (p : Pw) (i : Nat) : Nat := (SMap.get {} p.tstk i).cur.toNat
    let hot (p : Pw) : Prop := (∃ i, i < 20 ∧ 115 ≤ die p i) ∨ ∃ i, i < 32 ∧ 105 ≤ stack p i
    let tripped (u : State) : Prop := u.pw.trip = true ∧ u.lands = { s.lands with thermtrip := true } ∧
      ∀ k, u.cob k = { s.cob k with therm := 3 }
    let shown (m : SMap Temp) (l : List Byte) (n i : Nat) : Temp :=
      let y := SMap.get {} m i
      if i < n ∧ i < l.length then
        { cur := l.getD i 0, max := if y.max.toNat < (l.getD i 0).toNat then l.getD i 0 else y.max } else y
    let thot := s.plan.thot.toNat
    let heats (i : Nat) : Prop := thot < die s.pw i ∨ 95 < stack s.pw (2 * i) ∨ 95 < stack s.pw (2 * i + 1)
    let cools (i : Nat) : Prop := die s.pw i + 5 < thot ∧ stack s.pw (2 * i) < 90 ∧ stack s.pw (2 * i + 1) < 90
    let slice := pa.toNat / 32
    (alive → x.memif = .on →
      only (.sag c) { down with sagging := true } ∧
      (x.sagging = true → only (.sagPersist c) down) ∧
      only (.cleanStepUp c) { x with droop := if x.droop = 0 then 0 else x.droop - 1, sagging := false }) ∧
    (alive → ∃ u, exec (.temperatureRead dies stk) s = .next u ∧
      u = { s with pw := { s.pw with tdie := u.pw.tdie, tstk := u.pw.tstk, trip := u.pw.trip }, lands := u.lands, cobs := u.cobs } ∧
      (∀ i, SMap.get {} u.pw.tdie i = shown s.pw.tdie dies 20 i) ∧ (∀ i, SMap.get {} u.pw.tstk i = shown s.pw.tstk stk 32 i) ∧
      (hot u.pw → tripped u) ∧ (¬hot u.pw → u.pw.trip = s.pw.trip ∧ u.lands = s.lands ∧ u.cobs = s.cobs)) ∧
    (alive → s.ld.phase = 5 → ∃ u, exec .thermalPeriod s = .next u ∧ (hot s.pw → tripped u) ∧
      (¬hot s.pw → u = { s with cobs := u.cobs } ∧
        (heats c.toNat → u.cob c = { x with therm := if x.therm = 3 then 3 else x.therm + 1 }) ∧
        (cools c.toNat → ¬heats c.toNat → u.cob c = { x with therm := if x.therm = 0 then 0 else x.therm - 1 }) ∧
        (¬cools c.toNat → ¬heats c.toNat → u.cob c = x))) ∧
    (alive → pa.toNat < 0x28000000000 → s.sliceOn pa.toNat = true → ∃ u,
      exec (.stackScrub pa .uncorrectable) s = .next u ∧
      u = { s with hbmBad := u.hbmBad, pw := { s.pw with scrub := s.pw.scrub ++ [slice] } } ∧
      (∀ k, SMap.get false u.hbmBad k = if k = slice then true else SMap.get false s.hbmBad k) ∧
      exec (.stackScrub pa .corrected) s = .next s)

/-! ## Reset, JTAG and the sideband -/

/-- R538, R539, R541, R546: reset and rails. While COLDRST_N is low, or after a rail of the part has left tolerance, all
state is lost but the flash, CXL memory and the sideband's address; THERMTRIP_N is released when COLDRST_N is low and
the VCORE rails are off; without VSTBY the sideband forgets its address. (Readings and choices of the model that it
rests on: assumption log 18.) -/
def Obligations.ResetAndRails : Prop :=
  ∀ (s : State) (r : BitVec 5),
    let l := s.lands
    let lost : State := { State.reset with
      pending := s.pending, free := s.free, cxl := s.cxl, side := { dynAddr := s.side.dynAddr }
      ld := { flash0 := s.ld.flash0, flash1 := s.ld.flash1, present0 := s.ld.present0, present1 := s.ld.present1 } }
    let cores (x : BitVec 26) : Bool := x.extractLsb' 0 16 == 0xFFFF
    let bad := setBit l.railBad r.toNat true
    let off := setBit l.railOff r.toNat true
    let part : Prop := l.coldrst = true ∧ r.toNat < 23
    let pulled (low : Bool) : Bool := l.thermtrip && !(low && cores off)
    exec .coldrstAssert s = .next { lost with lands := { l with
      coldrst := false, railHold := false, svcflt := false, thermtrip := l.thermtrip && !cores l.railOff } } ∧
    (part → exec (.railFault r) s = .next { lost with lands := { l with railBad := bad, railHold := true, svcflt := false } } ∧
      exec (.railOff r) s = .next { lost with lands := { l with
        railBad := bad, railOff := off, railHold := true, svcflt := false, thermtrip := l.thermtrip } }) ∧
    (¬part → r.toNat ≤ 25 → exec (.railFault r) s = .next { s with lands := { l with railBad := bad } } ∧
      exec (.railOff r) s = .next { s with
        lands := { l with railBad := bad, railOff := off, thermtrip := pulled (!l.coldrst) }
        side := if r = 25 then { s.side with dynAddr := none, reply := [], head := none } else s.side })

/-- R518, R519, R554: JTAG. An access to a register of a tile that is on is made at once, to one of a dark tile it is
held with DONE 0, and completes when the tile is on; the other instructions select their data register. A read returns 0
in an image field that the image has not given its value yet. An access that is made restarts the idle count of the
tile's half (R485). Shown at CE_FQH. R483, R546, R547, R554: the management sideband. The port answers SMBus at its
static address until it has a dynamic address, then I3C at that address alone; a transfer to another address, or a write
under SMBus with a wrong PEC, changes nothing. A read returns its status and then the data, which is 0 for every status
but 0; a write reaches the register, or is held until its tile is on; STATUS answers whenever VSTBY is on. (The rails
named are those found within tolerance again.) (Readings and choices of the model that it rests on: assumption log 24,
27, 28, 29, 84, 102.) -/
def Obligations.ServiceAccess : Prop :=
  (∀ (s : State) (t : TileId) (x : BitVec 48) (y : BitVec 65) (l : List Bool) (rest : List HeldAcc) (d : DWord),
    let e := s.side
    let alive : Prop := s.lands.coldrst = true ∧ s.lands.railHold = false
    let pa : Nat := 0x3F0200000020 + t.toNat * 0x10000
    let s0 := s.touchHalf pa
    let ready : Prop := s.tileOn t = true ∧ (s.tile t).zeroed = true
    let fqh := if s.ld.phase = 5 ∨ s.ld.applied = true ∧ pa ∈ s.ld.named then (s.tile t).eng.fqh else 0
    let stored (u : State) (v : Word) : Prop := OnlyTile { s0 with side := u.side } u t ∧
      u.tile t = { s.tile t with eng := { (s.tile t).eng with fqh := v } }
    let named (a : BitVec 48) (write : Bool) : Prop := (a.extractLsb' 0 46).toNat = pa ∧ a.getLsbD 46 = false ∧ a.getLsbD 47 = write
    let acc (src : Src) (write : Bool) (v : DWord) : HeldAcc := ⟨src, write, pa, 4, v⟩
    (alive → named x false →
      (ready → exec (.csraddr x) s = .next { s0 with side := { e with ir := 0x10, addr := x, data := fqh.setWidth 64, done := true } }) ∧
      (s.tileOn t = false → s.ld.phase ≠ 5 → exec (.csraddr x) s = .next { s with side := { e with
        ir := 0x10, addr := x, done := false, held := e.held ++ [acc .jtag false e.data] } })) ∧
    (named x true → exec (.csraddr x) s = .next { s with side := { e with ir := 0x10, addr := x, done := false } }) ∧
    (alive → named e.addr true →
      (ready → ∃ u, exec (.csrdata y) s = .next u ∧ stored u (y.extractLsb' 0 32) ∧
        u.side = { e with ir := 0x11, data := y.extractLsb' 0 64, done := true }) ∧
      (s.tileOn t = false → s.ld.phase ≠ 5 → exec (.csrdata y) s = .next { s with side := { e with
        ir := 0x11, data := y.extractLsb' 0 64, done := false, held := e.held ++ [acc .jtag true (y.extractLsb' 0 64)] } })) ∧
    (named e.addr false → exec (.csrdata y) s = .next { s with side := { e with ir := 0x11 } }) ∧
    (alive → ready →
      (e.held = acc .jtag true d :: rest → ∃ u, exec .heldAccessRelease s = .next u ∧ stored u (d.extractLsb' 0 32) ∧
        u.side = { e with held := rest, done := true }) ∧
      (e.held = acc .mgmt true d :: rest → ∃ u, exec .heldAccessRelease s = .next u ∧ stored u (d.extractLsb' 0 32) ∧
        u.side = { e with held := rest }) ∧
      (e.held = acc .jtag false d :: rest → exec .heldAccessRelease s = .next { s0 with
        side := { e with held := rest, data := fqh.setWidth 64, done := true } })) ∧
    exec .idcode s = .next { s with side := { e with ir := 0x01, dr := 0x15320BA5 } } ∧
    exec .bypass s = .next { s with side := { e with ir := 0xFF, dr := 0 } } ∧
    exec (.samplePreload l) s = .next { s with side := { e with ir := 0x02, boundary := l } } ∧
    exec .extest s = .next { s with side := { e with ir := 0x03 } }) ∧
  (∀ (s : State) (t : TileId) (x : SbXfer) (w : BitVec 48) (n : BitVec 8) (v : BitVec 64) (a : BitVec 7),
    let e := s.side
    let r : State := { s with lands := { s.lands with
      railBad := s.lands.railBad &&& ~~~x.rails, railOff := s.lands.railOff &&& ~~~x.rails } }
    let pa : Nat := (w.extractLsb' 0 46).toNat
    let r0 := r.touchHalf pa
    let on : Prop := r.lands.railOff.getLsbD 25 = false
    let mine : Prop := on ∧ (e.dynAddr = none ∧ x.i3c = false ∧ x.addr = 0x4A ∨ x.i3c = true ∧ e.dynAddr = some x.addr)
    let head : Option (List Byte) :=
      if x.i3c then none else some (((x.addr ++ (0#1) : Byte) :: x.bytes) ++ [(x.addr ++ (1#1) : Byte)])
    let ask : List Byte := byteList w 6 ++ [n]
    let reads : Prop := mine ∧ x.bytes = 0x01 :: ask
    let sends (l : List Byte) : Prop := x.bytes = if x.i3c then l else l ++ [pec ((x.addr ++ (0#1) : Byte) :: l)]
    let writes : Prop := mine ∧ sends (0x02 :: ask ++ byteList v n.toNat)
    let runs : Prop := s.lands.coldrst = true ∧ s.lands.railHold = false
    let answers (k : Instr) (u : State) (l : List Byte) : Prop :=
      exec k s = .next { u with side := { e with reply := l, head := head } }
    let zeros (k : Nat) : List Byte := List.replicate k 0
    let fqh : Prop := pa = 0x3F0200000020 + t.toNat * 0x10000
    let ready : Prop := s.tileOn t = true ∧ (s.tile t).zeroed = true
    let l := s.ld
    (mine → x.bytes = [0x03] → answers (.sidebandStatus x) r [(0#4) ++ BitVec.ofBool (decide (runs ∧ l.phase = 5)) ++
      BitVec.ofBool s.unrec ++ BitVec.ofBool s.pw.trip ++ BitVec.ofBool (decide (r.lands.railBad = 0 ∧ r.lands.railOff = 0))]) ∧
    (¬mine → ∀ k ∈ [Instr.csrRead x, .csrWrite x, .sidebandStatus x], exec k s = .next r) ∧
    (x.i3c = false → (∀ b, ¬sends b) → exec (.csrWrite x) s = .next r) ∧
    exec (.dynamicAddress a) s =
      .next (if s.lands.railOff.getLsbD 25 then s else { s with side := { e with dynAddr := some a } }) ∧
    (reads → ¬runs → answers (.csrRead x) r (1 :: zeros (if n = 4 then 4 else 8))) ∧
    (writes → ¬runs → exec (.csrWrite x) s = .next r) ∧
    (reads → runs → n ≠ 4 → n ≠ 8 → answers (.csrRead x) r (3 :: zeros 8)) ∧
    (writes → n ≠ 4 → n ≠ 8 → exec (.csrWrite x) s = .next r) ∧
    (reads → runs → pa = 0x3F0500000000 → n = 8 → answers (.csrRead x) r (0 :: byteList (l.version ++ (0#24) ++
      BitVec.ofBool l.hlpb ++ BitVec.ofBool l.idv ++ BitVec.ofBool l.debug ++ BitVec.ofBool (l.slot && l.slotv) ++
      BitVec.ofBool l.slotv ++ l.phase) 8)) ∧
    (runs → fqh → ready →
      (reads → n = 4 → answers (.csrRead x) r0 (0 :: byteList (if l.phase = 5 ∨ l.applied = true ∧ pa ∈ l.named then (s.tile t).eng.fqh else 0) 4)) ∧
      (reads → n = 8 → answers (.csrRead x) r0 (0 :: zeros 8)) ∧
      (writes → n = 8 → exec (.csrWrite x) s = .next r0) ∧
      (writes → n = 4 → ∃ u, exec (.csrWrite x) s = .next u ∧ OnlyTile r0 u t ∧
        u.tile t = { s.tile t with eng := { (s.tile t).eng with fqh := v.extractLsb' 0 32 } })) ∧
    (runs → fqh → s.tileOn t = false → l.phase ≠ 5 → n = 4 →
      (reads → answers (.csrRead x) r (2 :: zeros 4)) ∧
      (writes → exec (.csrWrite x) s = .next { r with side := { e with
        held := e.held ++ [⟨.mgmt, true, pa, 4, (v.extractLsb' 0 32).setWidth 64⟩] } })))

/-- R8, R9, R55, R277, R365, R485, R488: a write of a register. A thread at U, or one at S of another function, changes
no register and is told by a Store Error of DETAIL 2; a write of another width has no effect; the others reach the
register, which restarts the idle count of the tile's half, or wait for its domain and wake it. Shown at CE_FQH. R9,
R55, R365: no register write by a thread at U changes anything but that thread, which is told by a Store Error.
(Readings and choices of the model that it rests on: assumption log 11, 12, 33, 84.) -/
def Obligations.RegisterWrites : Prop :=
  (∀ (s : State) (src : Src) (t : TileId) (pa : BitVec 46) (n : BitVec 8) (v : BitVec 64),
    let at_ : Prop := pa.toNat = 0x3F0200000020 + t.toNat * 0x10000
    let s0 := s.touchHalf pa.toNat
    let runs : Prop := s.lands.coldrst = true ∧ s.lands.railHold = false
    let may : Prop := match src with
      | .thread u h => (s.th u h).st.pl = 3 ∨ (s.th u h).st.pl = 2 ∧ ∃ f, (s.tile u).func = some f ∧ (s.tile t).func = some f
      | _ => True
    let ready : Prop := s.tileOn t = true ∧ (s.tile t).zeroed = true
    let k := Instr.registerWrite src pa n v
    at_ → runs →
      (∀ y h, src = .thread y h → ((s.th y h).st.pl = 1 ∨ (s.th y h).st.pl = 2 ∧ ¬may) → ∃ u, exec k s = .next u ∧
        OnlyThread { s with free := s.free + 1 } u y h ∧
        u.th y h = if (s.th y h).se.length < 8 then
            { s.th y h with se := (s.th y h).se ++ [⟨(s.th y h).pc, Config.free s.free 0 48, 2⟩] }
          else { s.th y h with seovf := true }) ∧
      (may → ready → n ≠ 4 → exec k s = .next s0) ∧
      (may → ready → n = 4 → ∃ u, exec k s = .next u ∧ OnlyTile s0 u t ∧
        u.tile t = { s.tile t with eng := { (s.tile t).eng with fqh := v.extractLsb' 0 32 } }) ∧
      (may → s.tileOn t = false → ∃ u, exec k s = .next u ∧ u = { s with side := u.side, cobs := u.cobs } ∧
        u.side = { s.side with held := s.side.held ++
          [⟨src, true, pa.toNat, n.toNat, if n = 4 then (v.extractLsb' 0 32).setWidth 64 else v⟩] })) ∧
  (∀ (s : State) (u : TileId) (i : Thr) (t : TileId) (h : Thr) (q : QIx) (c : CobNo) (f : FuncNo) (vpn : BitVec 36)
    (a dev : Bool) (w2 : BitVec 32) (w : BitVec 64) (e : BitVec 10) (sl n : BitVec 8) (pa : BitVec 46) (k : BitVec 1),
    let src : Src := .thread u i
    (s.th u i).st.pl = 1 → ∀ x ∈ [Instr.threadStart src t h, .threadStop src t h, .threadHalt src t h, .threadUnhalt src t h,
      .sws src t h, .swm src t h, .step src t h, .haltall src t, .inv src t, .csizeWrite src t w2, .flush src t,
      .queueEnable src t q w2, .queueDisable src t q, .reassign src t q, .close src t q, .disarm src t q, .pause src t,
      .go src t, .resume src t, .abort src t, .winv src c vpn f a, .sweep src c f a, .fnCtlReset src f, .post src f w,
      .ringEnable (.src src) f a w, .counterLoad src k w, .eventEntryEnable src e w, .pinWrite src w2,
      .slotWrite src sl a w2, .slotValid src sl, .slotFree src sl, .flashRead src dev w2, .flashProgram src dev w2,
      .flashErase src dev w2, .flashCheck src dev w2 a, .attestationRequest src, .registerWrite src pa n w],
      ((s.lands.coldrst = false ∨ s.lands.railHold = true) → exec x s = .next s) ∧
      (s.lands.coldrst = true → s.lands.railHold = false → ∃ y, exec x s = .next y ∧
        OnlyThread { s with free := s.free + 1 } y u i ∧
        y.th u i = (s.th u i).storeError ⟨(s.th u i).pc, Config.free s.free 0 48, 2⟩))

/-! ## The whole block -/

/-- The command at the front of the queue is performed with the queue's rest; with none waiting, one Husk cycle passes.
(Readings and choices of the model that it rests on: assumption log 13.) -/
def Obligations.StepRunsFront : Prop :=
  ∀ (s : State) (c : Instr) (r : List Instr),
    (s.pending = c :: r → step s = exec c { s with pending := r }) ∧ (s.pending = [] → step s = .next (s.elapse 1))

/-- R35, R125, R178, R459, R469, R483, R541: the part before its first cold start. COLDRST_N is low, nothing is on,
threads are STOPPED, functions ABSENT, tile registers 16 rows of 64 bytes, local memory zero, and no report is ready.
The two invariants hold at reset. -/
def Obligations.ResetState : Prop :=
  (let s := State.reset
  s.pending = [] ∧ s.lands.coldrst = false ∧ s.unrec = false ∧ s.reason = 0 ∧ s.devv = false ∧ s.devid = 0 ∧
  (∀ t h, (s.th t h).run = .stopped ∧ (s.th t h).st = { pl := 2 }) ∧ (∀ t, (s.tile t).lmem = [] ∧ s.tileOn t = false) ∧
  (∀ t k, let r := SMap.get {} (s.tile t).treg k; r.rows = 16 ∧ r.len = 64 ∧ r.tuse = false) ∧
  (∀ t q, ((s.tile t).queue q).epoch = 0 ∧ ((s.tile t).queue q).used = 0) ∧
  (∀ f, (s.func f).st = .absent ∧ (s.func f).crb = 0 ∧ (s.func f).cqb = 0) ∧
  (∀ p, s.port p = {}) ∧ (∀ l, (s.link l).crcerr = 0 ∧ (s.link l).retrain = 0) ∧
  s.ld.phase = 0 ∧ s.ld.aresult = 2 ∧ s.ld.fop = 0 ∧ s.ld.fbusy = false ∧ s.ld.nonce = 0 ∧ s.ld.arep = [] ∧ s.pt.time = 0) ∧
  (MemoriesWf State.reset ∧ (∀ t, Memory.wf (State.reset.tile t).lmem = true) ∧
  ∀ t k, let r := SMap.get {} (State.reset.tile t).treg k
    1 ≤ r.rows ∧ 4 ≤ r.len ∧ r.len % 4 = 0 ∧ r.rows * r.len ≤ 2048)

/-- Words that the spec writes out (R71, R74, R76, R78, R81, R90). -/
def Obligations.DecodeWords : Prop :=
  ∀ (t : TileId) (h : Thr) (x w : PWord),
    decodeInstr t h 0x0B88 0x0000 0x0028 = some (.ldi t h 1 40) ∧
    decodeInstr t h 0x1166 0x0005 w = some (.sscn t h 4 6 false .b8 5) ∧
    decodeInstr t h 0x2410 0x0AC0 w = some (.mma t h 2 0 1 .s24 3 .e4e4) ∧
    decodeInstr t h 0x2410 0x0800 w = some (.mma t h 2 0 1 .dense 0 .e4e4) ∧
    decodeInstr t h 0x2410 0x0EC0 w = none ∧ decodeInstr t h 0x2410 0x08C0 w = none ∧
    decodeInstr t h 0x1A94 0x0C82 w = some (.vroute t h 2 4 3 1 .bf16) ∧
    decodeInstr t h 0x0000 x w = none

/-- R64–R90: the encoding of the tile instructions. Every well-formed instruction is read back from its words, with each
operand at every value, whatever follows; and the words that spell an instruction are those of its encoding, so no two
instructions share a word. -/
def Obligations.EncodingsAgree : Prop :=
  (∀ (i : Instr) (w x y : PWord) (r : List PWord), encode i = w :: r → WellFormed i = true → ∃ t h,
    decodeInstr t h w ((r ++ [x, y]).getD 0 0) ((r ++ [x, y]).getD 1 0) = some i ∧ cellLen w = (encode i).length) ∧
  ∀ (t : TileId) (h : Thr) (w x y : PWord) (i : Instr), decodeInstr t h w x y = some i →
    WellFormed i = true ∧ encode i = [w, x, y].take (cellLen w)

/-- Every byte memory of the part keeps its canonical form: addresses rise and no listed byte is 0. (Readings and
choices of the model that it rests on: assumption log 3.) -/
def Obligations.MemoriesStayCanonical : Prop :=
  ∀ s u : State, MemoriesWf s → (∀ t, Memory.wf (s.tile t).lmem = true) → step s = .next u →
    MemoriesWf u ∧ ∀ t, Memory.wf (u.tile t).lmem = true

/-- The shape of a tile register that R124 and R127 allow: at least one row, rows of a whole number of 4-byte elements,
and no more bytes than the register has. -/
def Obligations.TileShapesStayLegal : Prop :=
  let legal (s : State) : Prop := ∀ t k, let r := SMap.get {} (s.tile t).treg k
    1 ≤ r.rows ∧ 4 ≤ r.len ∧ r.len % 4 = 0 ∧ r.rows * r.len ≤ 2048
  ∀ s u : State, legal s → step s = .next u → legal u
end

