-- ==== Sys2Proof/Laws/Maps.lean ====
section
/-! SUPPORT. Sparse maps and byte memories: what a read gives after each operation, and that every operation keeps the
canonical form. -/
namespace Sys2Proof.Machine

variable {α : Type}

/-! ## Reads -/

@[simp] theorem SMap.get_nil (d : α) (k : Nat) : SMap.get d [] k = d := rfl

theorem SMap.get_cons (d : α) (j k : Nat) (v : α) (r : SMap α) :
    SMap.get d ((j, v) :: r) k = if j = k then v else SMap.get d r k := rfl

theorem SMap.get_erase (d : α) (m : SMap α) (k k' : Nat) :
    SMap.get d (SMap.erase m k) k' = if k' = k then d else SMap.get d m k' := by
  induction m with
  | nil => simp [SMap.erase]
  | cons p r ih =>
    obtain ⟨j, v⟩ := p
    by_cases hj : j = k
    · subst hj
      by_cases hk : k' = j
      · simpa [SMap.erase, hk] using ih
      · simp [SMap.erase, ih, hk, SMap.get_cons, Ne.symm hk]
    · by_cases hk : k' = k
      · subst hk; simp [SMap.erase, ih, SMap.get_cons, hj]
      · simp [SMap.erase, ih, hk, SMap.get_cons, hj]

theorem SMap.get_insert (d : α) (m : SMap α) (k k' : Nat) (v : α)
    (hm : ∀ w, (k, w) ∉ m) :
    SMap.get d (SMap.insert m k v) k' = if k' = k then v else SMap.get d m k' := by

  induction m with
  | nil => simp only [SMap.insert, SMap.get_cons, SMap.get_nil, eq_comm]
  | cons p r ih =>
    obtain ⟨j, w⟩ := p
    have hj : j ≠ k := fun e => hm w (by simp [e])
    have hr : ∀ w, (k, w) ∉ r := fun w hw => hm w (by simp [hw])
    by_cases hlt : k < j
    · simp only [SMap.insert, hlt, if_true, SMap.get_cons, eq_comm (a := k)]
    · by_cases hk : k' = k
      · subst hk; simp [SMap.insert, hlt, SMap.get_cons, ih hr, hj]
      · simp [SMap.insert, hlt, SMap.get_cons, ih hr, hk]

theorem SMap.not_mem_erase (m : SMap α) (k : Nat) (w : α) : (k, w) ∉ SMap.erase m k := by
  induction m with
  | nil => simp [SMap.erase]
  | cons p r ih =>
    obtain ⟨j, v⟩ := p
    by_cases hj : j = k
    · simp [SMap.erase, hj, ih]
    · simp [SMap.erase, hj, ih, Ne.symm hj]

/-- A read after a write: the value written at its key, every other key as before. -/
theorem SMap.get_set [DecidableEq α] (d : α) (m : SMap α) (k k' : Nat) (v : α) :
    SMap.get d (SMap.set d m k v) k' = if k' = k then v else SMap.get d m k' := by
  unfold SMap.set
  by_cases hv : v = d
  · simp only [hv, if_true, SMap.get_erase]
  · have hm := SMap.not_mem_erase m k
    simp only [hv, if_false]
    rw [SMap.get_insert d _ k k' v hm, SMap.get_erase]
    by_cases hk : k' = k <;> simp [hk]

@[simp] theorem SMap.get_set_self [DecidableEq α] (d : α) (m : SMap α) (k : Nat) (v : α) :
    SMap.get d (SMap.set d m k v) k = v := by simp [SMap.get_set]

theorem SMap.get_set_ne [DecidableEq α] (d : α) (m : SMap α) {k k' : Nat} (v : α) (h : k' ≠ k) :
    SMap.get d (SMap.set d m k v) k' = SMap.get d m k' := by simp [SMap.get_set, h]

theorem SMap.get_modify [DecidableEq α] (d : α) (m : SMap α) (k k' : Nat) (f : α → α) :
    SMap.get d (SMap.modify d m k f) k' = if k' = k then f (SMap.get d m k) else SMap.get d m k' := by
  simp [SMap.modify, SMap.get_set]

@[simp] theorem SMap.get_modify_self [DecidableEq α] (d : α) (m : SMap α) (k : Nat) (f : α → α) :
    SMap.get d (SMap.modify d m k f) k = f (SMap.get d m k) := by simp [SMap.get_modify]

theorem SMap.get_modify_ne [DecidableEq α] (d : α) (m : SMap α) {k k' : Nat} (f : α → α) (h : k' ≠ k) :
    SMap.get d (SMap.modify d m k f) k' = SMap.get d m k' := by simp [SMap.get_modify, h]

/-! ## The canonical form -/

/-- The canonical form, said with `List.Pairwise`. -/
theorem SMap.wf_iff [DecidableEq α] (d : α) (m : SMap α) :
    SMap.wf d m = true ↔ m.Pairwise (fun p q => p.1 < q.1) ∧ ∀ p ∈ m, p.2 ≠ d := by
  induction m with
  | nil => simp [SMap.wf]
  | cons p r ih =>
    obtain ⟨j, v⟩ := p
    cases r with
    | nil => simp [SMap.wf]
    | cons q r =>
      obtain ⟨k, w⟩ := q
      have e : SMap.wf d ((j, v) :: (k, w) :: r) = (decide (j < k) && decide (v ≠ d) && SMap.wf d ((k, w) :: r)) := rfl
      rw [e, Bool.and_eq_true, Bool.and_eq_true, ih, List.pairwise_cons (a := (j, v)), decide_eq_true_eq,
        decide_eq_true_eq]
      constructor
      · rintro ⟨⟨h1, h2⟩, h3, h4⟩
        refine ⟨⟨fun a ha => ?_, h3⟩, fun p hp => ?_⟩
        · rcases List.mem_cons.1 ha with rfl | ha
          · exact h1
          · exact Nat.lt_trans h1 ((List.pairwise_cons.1 h3).1 a ha)
        · rcases List.mem_cons.1 hp with rfl | hp
          · exact h2
          · exact h4 p hp
      · rintro ⟨⟨h1, h3⟩, h4⟩
        exact ⟨⟨h1 (k, w) List.mem_cons_self, h4 (j, v) List.mem_cons_self⟩, h3,
          fun p hp => h4 p (List.mem_cons_of_mem _ hp)⟩

theorem SMap.mem_erase (m : SMap α) (k : Nat) (p : Nat × α) (h : p ∈ SMap.erase m k) : p ∈ m := by
  induction m with
  | nil => simp [SMap.erase] at h
  | cons q r ih =>
    obtain ⟨j, v⟩ := q
    by_cases hj : j = k
    · simp [SMap.erase, hj] at h; exact List.mem_cons_of_mem _ (ih h)
    · simp [SMap.erase, hj] at h
      rcases h with h | h
      · simp [h]
      · exact List.mem_cons_of_mem _ (ih h)

theorem SMap.erase_eq_filter (m : SMap α) (k : Nat) : SMap.erase m k = m.filter (fun p => p.1 ≠ k) := by
  induction m with
  | nil => rfl
  | cons q r ih =>
    obtain ⟨j, v⟩ := q
    by_cases hj : j = k <;> simp [SMap.erase, hj, ih]

theorem SMap.wf_filter [DecidableEq α] (d : α) (m : SMap α) (f : Nat × α → Bool) (h : SMap.wf d m = true) :
    SMap.wf d (m.filter f) = true := by
  rw [SMap.wf_iff] at *
  exact ⟨h.1.filter _, fun p hp => h.2 p (List.mem_filter.1 hp).1⟩

theorem SMap.wf_erase [DecidableEq α] (d : α) (m : SMap α) (k : Nat) (h : SMap.wf d m = true) :
    SMap.wf d (SMap.erase m k) = true := by
  rw [SMap.erase_eq_filter]; exact SMap.wf_filter d m _ h

theorem SMap.mem_insert (m : SMap α) (k : Nat) (v : α) (p : Nat × α) (h : p ∈ SMap.insert m k v) :
    p = (k, v) ∨ p ∈ m := by
  induction m with
  | nil => simp [SMap.insert] at h; exact .inl h
  | cons q r ih =>
    obtain ⟨j, w⟩ := q
    by_cases hlt : k < j
    · simpa [SMap.insert, hlt] using h
    · simp [SMap.insert, hlt] at h
      rcases h with h | h
      · exact .inr (by simp [h])
      · rcases ih h with h | h
        · exact .inl h
        · exact .inr (List.mem_cons_of_mem _ h)

theorem SMap.wf_insert [DecidableEq α] (d : α) (m : SMap α) (k : Nat) (v : α) (hv : v ≠ d)
    (hk : ∀ w, (k, w) ∉ m) (h : SMap.wf d m = true) : SMap.wf d (SMap.insert m k v) = true := by
  rw [SMap.wf_iff] at *
  obtain ⟨hp, hd⟩ := h
  refine ⟨?_, fun p hp' => ?_⟩
  · clear hd
    induction m with
    | nil => simp [SMap.insert]
    | cons q r ih =>
      obtain ⟨j, w⟩ := q
      rw [List.pairwise_cons] at hp
      have hj : j ≠ k := fun e => hk w (by simp [e])
      by_cases hlt : k < j
      · simp only [SMap.insert, hlt, if_true, List.pairwise_cons, List.mem_cons]
        refine ⟨?_, hp⟩
        rintro p (rfl | h)
        · exact hlt
        · exact Nat.lt_trans hlt (hp.1 p h)
      · simp only [SMap.insert, hlt, if_false, List.pairwise_cons]
        refine ⟨fun p h => ?_, ih (fun w hw => hk w (by simp [hw])) hp.2⟩
        rcases SMap.mem_insert r k v p h with rfl | h
        · simp only; omega
        · exact hp.1 p h
  · rcases SMap.mem_insert m k v p hp' with rfl | h
    · exact hv
    · exact hd p h

/-- A write keeps the canonical form. -/
theorem SMap.wf_set [DecidableEq α] (d : α) (m : SMap α) (k : Nat) (v : α) (h : SMap.wf d m = true) :
    SMap.wf d (SMap.set d m k v) = true := by
  unfold SMap.set
  by_cases hv : v = d
  · simp only [hv, if_true]; exact SMap.wf_erase d m k h
  · simp only [hv, if_false]
    exact SMap.wf_insert d _ k v hv (SMap.not_mem_erase m k) (SMap.wf_erase d m k h)

theorem SMap.wf_modify [DecidableEq α] (d : α) (m : SMap α) (k : Nat) (f : α → α) (h : SMap.wf d m = true) :
    SMap.wf d (SMap.modify d m k f) = true := SMap.wf_set d m k _ h

theorem SMap.wf_mapVals [DecidableEq α] (d : α) (m : SMap α) (f : α → α) (h : SMap.wf d m = true) :
    SMap.wf d (SMap.mapVals d m f) = true := by
  rw [SMap.wf_iff] at *
  refine ⟨?_, fun p hp => by simpa using (List.mem_filter.1 hp).2⟩
  exact List.Pairwise.filter _ (List.pairwise_map.2 h.1)

/-! ## Byte memories -/

@[simp] theorem Memory.byte_nil (a : Nat) : Memory.byte [] a = 0 := rfl

theorem Memory.byte_setByte (m : Memory) (a a' : Nat) (b : Byte) :
    (m.setByte a b).byte a' = if a' = a then b else m.byte a' := SMap.get_set _ m a a' b

theorem Memory.wf_setByte (m : Memory) (a : Nat) (b : Byte) (h : m.wf = true) : (m.setByte a b).wf = true :=
  SMap.wf_set _ m a b h

/-- A read after a write of a run of bytes. -/
theorem Memory.byte_setBytes (m : Memory) (a a' : Nat) (l : List Byte) :
    (m.setBytes a l).byte a' = if a ≤ a' ∧ a' < a + l.length then l.getD (a' - a) 0 else m.byte a' := by
  induction l generalizing m a with
  | nil => simp [Memory.setBytes]
  | cons b r ih =>
    simp only [Memory.setBytes, ih, Memory.byte_setByte, List.length_cons]
    by_cases h1 : a' = a
    · subst h1; simp
    · by_cases h2 : a + 1 ≤ a' ∧ a' < a + 1 + r.length
      · have h3 : a ≤ a' ∧ a' < a + (r.length + 1) := by omega
        have h4 : a' - a = (a' - (a + 1)) + 1 := by omega
        simp only [h2, h3, and_self, if_true, h4, List.getD_cons_succ]
      · have h3 : ¬ (a ≤ a' ∧ a' < a + (r.length + 1)) := by omega
        simp only [h1, h2, h3, if_false]

theorem Memory.wf_setBytes (m : Memory) (a : Nat) (l : List Byte) (h : m.wf = true) : (m.setBytes a l).wf = true := by
  induction l generalizing m a with
  | nil => exact h
  | cons b r ih => exact ih _ _ (Memory.wf_setByte m a b h)

@[simp] theorem Memory.length_bytes (m : Memory) (a n : Nat) : (m.bytes a n).length = n := by
  induction n generalizing a with
  | zero => rfl
  | succ n ih => simp [Memory.bytes, ih]

theorem Memory.getD_bytes (m : Memory) (a n i : Nat) (h : i < n) : (m.bytes a n).getD i 0 = m.byte (a + i) := by
  induction n generalizing a i with
  | zero => omega
  | succ n ih =>
    cases i with
    | zero => simp [Memory.bytes]
    | succ i =>
      simp only [Memory.bytes, List.getD_cons_succ]
      rw [ih (a + 1) i (by omega)]
      congr 1; omega

theorem Memory.wf_clear (m : Memory) (a n : Nat) (h : m.wf = true) : (m.clear a n).wf = true := SMap.wf_filter _ m _ h

/-- A cleared range reads 0; every other byte is as before. -/
theorem Memory.byte_clear (m : Memory) (a n a' : Nat) :
    (m.clear a n).byte a' = if a ≤ a' ∧ a' < a + n then 0 else m.byte a' := by
  unfold Memory.clear Memory.byte
  induction m with
  | nil => simp
  | cons p r ih =>
    obtain ⟨j, v⟩ := p
    by_cases hj : a ≤ j ∧ j < a + n
    · rw [List.filter_cons_of_neg (by simp; omega), ih, SMap.get_cons]
      by_cases hk : a ≤ a' ∧ a' < a + n
      · simp [hk]
      · have : j ≠ a' := fun e => hk (e ▸ hj)
        simp [hk, this]
    · rw [List.filter_cons_of_pos (by simp; omega), SMap.get_cons, SMap.get_cons, ih]
      by_cases hk : j = a'
      · subst hk; simp [hj]
      · simp [hk]

end Sys2Proof.Machine
end

