-- ==== Sys2Proof/Laws/State.lean ====
section
/-! SUPPORT. One lemma per field and update of the state: what an update leaves as it was, and what a block reads as
after it. -/
namespace Sys2Proof.Machine

/-! ## `State.modTile` changes `tiles` only -/

@[simp] theorem State.modTile_pending (s : State) (t : TileId) (f : Tile → Tile) :
    (s.modTile t f).pending = s.pending := rfl
@[simp] theorem State.modTile_cobs (s : State) (t : TileId) (f : Tile → Tile) : (s.modTile t f).cobs = s.cobs := rfl
@[simp] theorem State.modTile_hbm (s : State) (t : TileId) (f : Tile → Tile) : (s.modTile t f).hbm = s.hbm := rfl
@[simp] theorem State.modTile_hbmBad (s : State) (t : TileId) (f : Tile → Tile) :
    (s.modTile t f).hbmBad = s.hbmBad := rfl
@[simp] theorem State.modTile_slices (s : State) (t : TileId) (f : Tile → Tile) :
    (s.modTile t f).slices = s.slices := rfl
@[simp] theorem State.modTile_cxl (s : State) (t : TileId) (f : Tile → Tile) : (s.modTile t f).cxl = s.cxl := rfl
@[simp] theorem State.modTile_net (s : State) (t : TileId) (f : Tile → Tile) : (s.modTile t f).net = s.net := rfl
@[simp] theorem State.modTile_reqs (s : State) (t : TileId) (f : Tile → Tile) : (s.modTile t f).reqs = s.reqs := rfl
@[simp] theorem State.modTile_replies (s : State) (t : TileId) (f : Tile → Tile) :
    (s.modTile t f).replies = s.replies := rfl
@[simp] theorem State.modTile_nextId (s : State) (t : TileId) (f : Tile → Tile) :
    (s.modTile t f).nextId = s.nextId := rfl
@[simp] theorem State.modTile_husk (s : State) (t : TileId) (f : Tile → Tile) : (s.modTile t f).husk = s.husk := rfl
@[simp] theorem State.modTile_heng (s : State) (t : TileId) (f : Tile → Tile) : (s.modTile t f).heng = s.heng := rfl
@[simp] theorem State.modTile_hengTlb (s : State) (t : TileId) (f : Tile → Tile) :
    (s.modTile t f).hengTlb = s.hengTlb := rfl
@[simp] theorem State.modTile_huskWalker (s : State) (t : TileId) (f : Tile → Tile) :
    (s.modTile t f).huskWalker = s.huskWalker := rfl
@[simp] theorem State.modTile_funcs (s : State) (t : TileId) (f : Tile → Tile) :
    (s.modTile t f).funcs = s.funcs := rfl
@[simp] theorem State.modTile_iwin (s : State) (t : TileId) (f : Tile → Tile) : (s.modTile t f).iwin = s.iwin := rfl
@[simp] theorem State.modTile_ort (s : State) (t : TileId) (f : Tile → Tile) : (s.modTile t f).ort = s.ort := rfl
@[simp] theorem State.modTile_ports (s : State) (t : TileId) (f : Tile → Tile) :
    (s.modTile t f).ports = s.ports := rfl
@[simp] theorem State.modTile_unrec (s : State) (t : TileId) (f : Tile → Tile) :
    (s.modTile t f).unrec = s.unrec := rfl
@[simp] theorem State.modTile_reason (s : State) (t : TileId) (f : Tile → Tile) :
    (s.modTile t f).reason = s.reason := rfl
@[simp] theorem State.modTile_devid (s : State) (t : TileId) (f : Tile → Tile) :
    (s.modTile t f).devid = s.devid := rfl
@[simp] theorem State.modTile_devv (s : State) (t : TileId) (f : Tile → Tile) : (s.modTile t f).devv = s.devv := rfl
@[simp] theorem State.modTile_links (s : State) (t : TileId) (f : Tile → Tile) :
    (s.modTile t f).links = s.links := rfl
@[simp] theorem State.modTile_pt (s : State) (t : TileId) (f : Tile → Tile) : (s.modTile t f).pt = s.pt := rfl
@[simp] theorem State.modTile_ld (s : State) (t : TileId) (f : Tile → Tile) : (s.modTile t f).ld = s.ld := rfl
@[simp] theorem State.modTile_plan (s : State) (t : TileId) (f : Tile → Tile) : (s.modTile t f).plan = s.plan := rfl
@[simp] theorem State.modTile_pw (s : State) (t : TileId) (f : Tile → Tile) : (s.modTile t f).pw = s.pw := rfl
@[simp] theorem State.modTile_side (s : State) (t : TileId) (f : Tile → Tile) : (s.modTile t f).side = s.side := rfl
@[simp] theorem State.modTile_lands (s : State) (t : TileId) (f : Tile → Tile) :
    (s.modTile t f).lands = s.lands := rfl
@[simp] theorem State.modTile_winHeld (s : State) (t : TileId) (f : Tile → Tile) :
    (s.modTile t f).winHeld = s.winHeld := rfl
@[simp] theorem State.modTile_winAns (s : State) (t : TileId) (f : Tile → Tile) :
    (s.modTile t f).winAns = s.winAns := rfl
@[simp] theorem State.modTile_ckRecord (s : State) (t : TileId) (f : Tile → Tile) :
    (s.modTile t f).ckRecord = s.ckRecord := rfl
@[simp] theorem State.modTile_free (s : State) (t : TileId) (f : Tile → Tile) : (s.modTile t f).free = s.free := rfl

/-! ## `State.modTh` changes `tiles` only -/

@[simp] theorem State.modTh_pending (s : State) (t : TileId) (h : Thr) (f : Thread → Thread) :
    (s.modTh t h f).pending = s.pending := rfl
@[simp] theorem State.modTh_cobs (s : State) (t : TileId) (h : Thr) (f : Thread → Thread) :
    (s.modTh t h f).cobs = s.cobs := rfl
@[simp] theorem State.modTh_hbm (s : State) (t : TileId) (h : Thr) (f : Thread → Thread) :
    (s.modTh t h f).hbm = s.hbm := rfl
@[simp] theorem State.modTh_hbmBad (s : State) (t : TileId) (h : Thr) (f : Thread → Thread) :
    (s.modTh t h f).hbmBad = s.hbmBad := rfl
@[simp] theorem State.modTh_slices (s : State) (t : TileId) (h : Thr) (f : Thread → Thread) :
    (s.modTh t h f).slices = s.slices := rfl
@[simp] theorem State.modTh_cxl (s : State) (t : TileId) (h : Thr) (f : Thread → Thread) :
    (s.modTh t h f).cxl = s.cxl := rfl
@[simp] theorem State.modTh_net (s : State) (t : TileId) (h : Thr) (f : Thread → Thread) :
    (s.modTh t h f).net = s.net := rfl
@[simp] theorem State.modTh_reqs (s : State) (t : TileId) (h : Thr) (f : Thread → Thread) :
    (s.modTh t h f).reqs = s.reqs := rfl
@[simp] theorem State.modTh_replies (s : State) (t : TileId) (h : Thr) (f : Thread → Thread) :
    (s.modTh t h f).replies = s.replies := rfl
@[simp] theorem State.modTh_nextId (s : State) (t : TileId) (h : Thr) (f : Thread → Thread) :
    (s.modTh t h f).nextId = s.nextId := rfl
@[simp] theorem State.modTh_husk (s : State) (t : TileId) (h : Thr) (f : Thread → Thread) :
    (s.modTh t h f).husk = s.husk := rfl
@[simp] theorem State.modTh_heng (s : State) (t : TileId) (h : Thr) (f : Thread → Thread) :
    (s.modTh t h f).heng = s.heng := rfl
@[simp] theorem State.modTh_hengTlb (s : State) (t : TileId) (h : Thr) (f : Thread → Thread) :
    (s.modTh t h f).hengTlb = s.hengTlb := rfl
@[simp] theorem State.modTh_huskWalker (s : State) (t : TileId) (h : Thr) (f : Thread → Thread) :
    (s.modTh t h f).huskWalker = s.huskWalker := rfl
@[simp] theorem State.modTh_funcs (s : State) (t : TileId) (h : Thr) (f : Thread → Thread) :
    (s.modTh t h f).funcs = s.funcs := rfl
@[simp] theorem State.modTh_iwin (s : State) (t : TileId) (h : Thr) (f : Thread → Thread) :
    (s.modTh t h f).iwin = s.iwin := rfl
@[simp] theorem State.modTh_ort (s : State) (t : TileId) (h : Thr) (f : Thread → Thread) :
    (s.modTh t h f).ort = s.ort := rfl
@[simp] theorem State.modTh_ports (s : State) (t : TileId) (h : Thr) (f : Thread → Thread) :
    (s.modTh t h f).ports = s.ports := rfl
@[simp] theorem State.modTh_unrec (s : State) (t : TileId) (h : Thr) (f : Thread → Thread) :
    (s.modTh t h f).unrec = s.unrec := rfl
@[simp] theorem State.modTh_reason (s : State) (t : TileId) (h : Thr) (f : Thread → Thread) :
    (s.modTh t h f).reason = s.reason := rfl
@[simp] theorem State.modTh_devid (s : State) (t : TileId) (h : Thr) (f : Thread → Thread) :
    (s.modTh t h f).devid = s.devid := rfl
@[simp] theorem State.modTh_devv (s : State) (t : TileId) (h : Thr) (f : Thread → Thread) :
    (s.modTh t h f).devv = s.devv := rfl
@[simp] theorem State.modTh_links (s : State) (t : TileId) (h : Thr) (f : Thread → Thread) :
    (s.modTh t h f).links = s.links := rfl
@[simp] theorem State.modTh_pt (s : State) (t : TileId) (h : Thr) (f : Thread → Thread) :
    (s.modTh t h f).pt = s.pt := rfl
@[simp] theorem State.modTh_ld (s : State) (t : TileId) (h : Thr) (f : Thread → Thread) :
    (s.modTh t h f).ld = s.ld := rfl
@[simp] theorem State.modTh_plan (s : State) (t : TileId) (h : Thr) (f : Thread → Thread) :
    (s.modTh t h f).plan = s.plan := rfl
@[simp] theorem State.modTh_pw (s : State) (t : TileId) (h : Thr) (f : Thread → Thread) :
    (s.modTh t h f).pw = s.pw := rfl
@[simp] theorem State.modTh_side (s : State) (t : TileId) (h : Thr) (f : Thread → Thread) :
    (s.modTh t h f).side = s.side := rfl
@[simp] theorem State.modTh_lands (s : State) (t : TileId) (h : Thr) (f : Thread → Thread) :
    (s.modTh t h f).lands = s.lands := rfl
@[simp] theorem State.modTh_winHeld (s : State) (t : TileId) (h : Thr) (f : Thread → Thread) :
    (s.modTh t h f).winHeld = s.winHeld := rfl
@[simp] theorem State.modTh_winAns (s : State) (t : TileId) (h : Thr) (f : Thread → Thread) :
    (s.modTh t h f).winAns = s.winAns := rfl
@[simp] theorem State.modTh_ckRecord (s : State) (t : TileId) (h : Thr) (f : Thread → Thread) :
    (s.modTh t h f).ckRecord = s.ckRecord := rfl
@[simp] theorem State.modTh_free (s : State) (t : TileId) (h : Thr) (f : Thread → Thread) :
    (s.modTh t h f).free = s.free := rfl

/-! ## `State.modCob` changes `cobs` only -/

@[simp] theorem State.modCob_pending (s : State) (c : CobNo) (f : Cob → Cob) :
    (s.modCob c f).pending = s.pending := rfl
@[simp] theorem State.modCob_tiles (s : State) (c : CobNo) (f : Cob → Cob) : (s.modCob c f).tiles = s.tiles := rfl
@[simp] theorem State.modCob_hbm (s : State) (c : CobNo) (f : Cob → Cob) : (s.modCob c f).hbm = s.hbm := rfl
@[simp] theorem State.modCob_hbmBad (s : State) (c : CobNo) (f : Cob → Cob) : (s.modCob c f).hbmBad = s.hbmBad := rfl
@[simp] theorem State.modCob_slices (s : State) (c : CobNo) (f : Cob → Cob) : (s.modCob c f).slices = s.slices := rfl
@[simp] theorem State.modCob_cxl (s : State) (c : CobNo) (f : Cob → Cob) : (s.modCob c f).cxl = s.cxl := rfl
@[simp] theorem State.modCob_net (s : State) (c : CobNo) (f : Cob → Cob) : (s.modCob c f).net = s.net := rfl
@[simp] theorem State.modCob_reqs (s : State) (c : CobNo) (f : Cob → Cob) : (s.modCob c f).reqs = s.reqs := rfl
@[simp] theorem State.modCob_replies (s : State) (c : CobNo) (f : Cob → Cob) :
    (s.modCob c f).replies = s.replies := rfl
@[simp] theorem State.modCob_nextId (s : State) (c : CobNo) (f : Cob → Cob) : (s.modCob c f).nextId = s.nextId := rfl
@[simp] theorem State.modCob_husk (s : State) (c : CobNo) (f : Cob → Cob) : (s.modCob c f).husk = s.husk := rfl
@[simp] theorem State.modCob_heng (s : State) (c : CobNo) (f : Cob → Cob) : (s.modCob c f).heng = s.heng := rfl
@[simp] theorem State.modCob_hengTlb (s : State) (c : CobNo) (f : Cob → Cob) :
    (s.modCob c f).hengTlb = s.hengTlb := rfl
@[simp] theorem State.modCob_huskWalker (s : State) (c : CobNo) (f : Cob → Cob) :
    (s.modCob c f).huskWalker = s.huskWalker := rfl
@[simp] theorem State.modCob_funcs (s : State) (c : CobNo) (f : Cob → Cob) : (s.modCob c f).funcs = s.funcs := rfl
@[simp] theorem State.modCob_iwin (s : State) (c : CobNo) (f : Cob → Cob) : (s.modCob c f).iwin = s.iwin := rfl
@[simp] theorem State.modCob_ort (s : State) (c : CobNo) (f : Cob → Cob) : (s.modCob c f).ort = s.ort := rfl
@[simp] theorem State.modCob_ports (s : State) (c : CobNo) (f : Cob → Cob) : (s.modCob c f).ports = s.ports := rfl
@[simp] theorem State.modCob_unrec (s : State) (c : CobNo) (f : Cob → Cob) : (s.modCob c f).unrec = s.unrec := rfl
@[simp] theorem State.modCob_reason (s : State) (c : CobNo) (f : Cob → Cob) : (s.modCob c f).reason = s.reason := rfl
@[simp] theorem State.modCob_devid (s : State) (c : CobNo) (f : Cob → Cob) : (s.modCob c f).devid = s.devid := rfl
@[simp] theorem State.modCob_devv (s : State) (c : CobNo) (f : Cob → Cob) : (s.modCob c f).devv = s.devv := rfl
@[simp] theorem State.modCob_links (s : State) (c : CobNo) (f : Cob → Cob) : (s.modCob c f).links = s.links := rfl
@[simp] theorem State.modCob_pt (s : State) (c : CobNo) (f : Cob → Cob) : (s.modCob c f).pt = s.pt := rfl
@[simp] theorem State.modCob_ld (s : State) (c : CobNo) (f : Cob → Cob) : (s.modCob c f).ld = s.ld := rfl
@[simp] theorem State.modCob_plan (s : State) (c : CobNo) (f : Cob → Cob) : (s.modCob c f).plan = s.plan := rfl
@[simp] theorem State.modCob_pw (s : State) (c : CobNo) (f : Cob → Cob) : (s.modCob c f).pw = s.pw := rfl
@[simp] theorem State.modCob_side (s : State) (c : CobNo) (f : Cob → Cob) : (s.modCob c f).side = s.side := rfl
@[simp] theorem State.modCob_lands (s : State) (c : CobNo) (f : Cob → Cob) : (s.modCob c f).lands = s.lands := rfl
@[simp] theorem State.modCob_winHeld (s : State) (c : CobNo) (f : Cob → Cob) :
    (s.modCob c f).winHeld = s.winHeld := rfl
@[simp] theorem State.modCob_winAns (s : State) (c : CobNo) (f : Cob → Cob) : (s.modCob c f).winAns = s.winAns := rfl
@[simp] theorem State.modCob_ckRecord (s : State) (c : CobNo) (f : Cob → Cob) :
    (s.modCob c f).ckRecord = s.ckRecord := rfl
@[simp] theorem State.modCob_free (s : State) (c : CobNo) (f : Cob → Cob) : (s.modCob c f).free = s.free := rfl

/-! ## `State.modFunc` changes `funcs` only -/

@[simp] theorem State.modFunc_pending (s : State) (n : FuncNo) (f : Func → Func) :
    (s.modFunc n f).pending = s.pending := rfl
@[simp] theorem State.modFunc_tiles (s : State) (n : FuncNo) (f : Func → Func) :
    (s.modFunc n f).tiles = s.tiles := rfl
@[simp] theorem State.modFunc_cobs (s : State) (n : FuncNo) (f : Func → Func) : (s.modFunc n f).cobs = s.cobs := rfl
@[simp] theorem State.modFunc_hbm (s : State) (n : FuncNo) (f : Func → Func) : (s.modFunc n f).hbm = s.hbm := rfl
@[simp] theorem State.modFunc_hbmBad (s : State) (n : FuncNo) (f : Func → Func) :
    (s.modFunc n f).hbmBad = s.hbmBad := rfl
@[simp] theorem State.modFunc_slices (s : State) (n : FuncNo) (f : Func → Func) :
    (s.modFunc n f).slices = s.slices := rfl
@[simp] theorem State.modFunc_cxl (s : State) (n : FuncNo) (f : Func → Func) : (s.modFunc n f).cxl = s.cxl := rfl
@[simp] theorem State.modFunc_net (s : State) (n : FuncNo) (f : Func → Func) : (s.modFunc n f).net = s.net := rfl
@[simp] theorem State.modFunc_reqs (s : State) (n : FuncNo) (f : Func → Func) : (s.modFunc n f).reqs = s.reqs := rfl
@[simp] theorem State.modFunc_replies (s : State) (n : FuncNo) (f : Func → Func) :
    (s.modFunc n f).replies = s.replies := rfl
@[simp] theorem State.modFunc_nextId (s : State) (n : FuncNo) (f : Func → Func) :
    (s.modFunc n f).nextId = s.nextId := rfl
@[simp] theorem State.modFunc_husk (s : State) (n : FuncNo) (f : Func → Func) : (s.modFunc n f).husk = s.husk := rfl
@[simp] theorem State.modFunc_heng (s : State) (n : FuncNo) (f : Func → Func) : (s.modFunc n f).heng = s.heng := rfl
@[simp] theorem State.modFunc_hengTlb (s : State) (n : FuncNo) (f : Func → Func) :
    (s.modFunc n f).hengTlb = s.hengTlb := rfl
@[simp] theorem State.modFunc_huskWalker (s : State) (n : FuncNo) (f : Func → Func) :
    (s.modFunc n f).huskWalker = s.huskWalker := rfl
@[simp] theorem State.modFunc_iwin (s : State) (n : FuncNo) (f : Func → Func) : (s.modFunc n f).iwin = s.iwin := rfl
@[simp] theorem State.modFunc_ort (s : State) (n : FuncNo) (f : Func → Func) : (s.modFunc n f).ort = s.ort := rfl
@[simp] theorem State.modFunc_ports (s : State) (n : FuncNo) (f : Func → Func) :
    (s.modFunc n f).ports = s.ports := rfl
@[simp] theorem State.modFunc_unrec (s : State) (n : FuncNo) (f : Func → Func) :
    (s.modFunc n f).unrec = s.unrec := rfl
@[simp] theorem State.modFunc_reason (s : State) (n : FuncNo) (f : Func → Func) :
    (s.modFunc n f).reason = s.reason := rfl
@[simp] theorem State.modFunc_devid (s : State) (n : FuncNo) (f : Func → Func) :
    (s.modFunc n f).devid = s.devid := rfl
@[simp] theorem State.modFunc_devv (s : State) (n : FuncNo) (f : Func → Func) : (s.modFunc n f).devv = s.devv := rfl
@[simp] theorem State.modFunc_links (s : State) (n : FuncNo) (f : Func → Func) :
    (s.modFunc n f).links = s.links := rfl
@[simp] theorem State.modFunc_pt (s : State) (n : FuncNo) (f : Func → Func) : (s.modFunc n f).pt = s.pt := rfl
@[simp] theorem State.modFunc_ld (s : State) (n : FuncNo) (f : Func → Func) : (s.modFunc n f).ld = s.ld := rfl
@[simp] theorem State.modFunc_plan (s : State) (n : FuncNo) (f : Func → Func) : (s.modFunc n f).plan = s.plan := rfl
@[simp] theorem State.modFunc_pw (s : State) (n : FuncNo) (f : Func → Func) : (s.modFunc n f).pw = s.pw := rfl
@[simp] theorem State.modFunc_side (s : State) (n : FuncNo) (f : Func → Func) : (s.modFunc n f).side = s.side := rfl
@[simp] theorem State.modFunc_lands (s : State) (n : FuncNo) (f : Func → Func) :
    (s.modFunc n f).lands = s.lands := rfl
@[simp] theorem State.modFunc_winHeld (s : State) (n : FuncNo) (f : Func → Func) :
    (s.modFunc n f).winHeld = s.winHeld := rfl
@[simp] theorem State.modFunc_winAns (s : State) (n : FuncNo) (f : Func → Func) :
    (s.modFunc n f).winAns = s.winAns := rfl
@[simp] theorem State.modFunc_ckRecord (s : State) (n : FuncNo) (f : Func → Func) :
    (s.modFunc n f).ckRecord = s.ckRecord := rfl
@[simp] theorem State.modFunc_free (s : State) (n : FuncNo) (f : Func → Func) : (s.modFunc n f).free = s.free := rfl

/-! ## `State.modPort` changes `ports` only -/

@[simp] theorem State.modPort_pending (s : State) (p : PortNo) (f : Port → Port) :
    (s.modPort p f).pending = s.pending := rfl
@[simp] theorem State.modPort_tiles (s : State) (p : PortNo) (f : Port → Port) :
    (s.modPort p f).tiles = s.tiles := rfl
@[simp] theorem State.modPort_cobs (s : State) (p : PortNo) (f : Port → Port) : (s.modPort p f).cobs = s.cobs := rfl
@[simp] theorem State.modPort_hbm (s : State) (p : PortNo) (f : Port → Port) : (s.modPort p f).hbm = s.hbm := rfl
@[simp] theorem State.modPort_hbmBad (s : State) (p : PortNo) (f : Port → Port) :
    (s.modPort p f).hbmBad = s.hbmBad := rfl
@[simp] theorem State.modPort_slices (s : State) (p : PortNo) (f : Port → Port) :
    (s.modPort p f).slices = s.slices := rfl
@[simp] theorem State.modPort_cxl (s : State) (p : PortNo) (f : Port → Port) : (s.modPort p f).cxl = s.cxl := rfl
@[simp] theorem State.modPort_net (s : State) (p : PortNo) (f : Port → Port) : (s.modPort p f).net = s.net := rfl
@[simp] theorem State.modPort_reqs (s : State) (p : PortNo) (f : Port → Port) : (s.modPort p f).reqs = s.reqs := rfl
@[simp] theorem State.modPort_replies (s : State) (p : PortNo) (f : Port → Port) :
    (s.modPort p f).replies = s.replies := rfl
@[simp] theorem State.modPort_nextId (s : State) (p : PortNo) (f : Port → Port) :
    (s.modPort p f).nextId = s.nextId := rfl
@[simp] theorem State.modPort_husk (s : State) (p : PortNo) (f : Port → Port) : (s.modPort p f).husk = s.husk := rfl
@[simp] theorem State.modPort_heng (s : State) (p : PortNo) (f : Port → Port) : (s.modPort p f).heng = s.heng := rfl
@[simp] theorem State.modPort_hengTlb (s : State) (p : PortNo) (f : Port → Port) :
    (s.modPort p f).hengTlb = s.hengTlb := rfl
@[simp] theorem State.modPort_huskWalker (s : State) (p : PortNo) (f : Port → Port) :
    (s.modPort p f).huskWalker = s.huskWalker := rfl
@[simp] theorem State.modPort_funcs (s : State) (p : PortNo) (f : Port → Port) :
    (s.modPort p f).funcs = s.funcs := rfl
@[simp] theorem State.modPort_iwin (s : State) (p : PortNo) (f : Port → Port) : (s.modPort p f).iwin = s.iwin := rfl
@[simp] theorem State.modPort_ort (s : State) (p : PortNo) (f : Port → Port) : (s.modPort p f).ort = s.ort := rfl
@[simp] theorem State.modPort_unrec (s : State) (p : PortNo) (f : Port → Port) :
    (s.modPort p f).unrec = s.unrec := rfl
@[simp] theorem State.modPort_reason (s : State) (p : PortNo) (f : Port → Port) :
    (s.modPort p f).reason = s.reason := rfl
@[simp] theorem State.modPort_devid (s : State) (p : PortNo) (f : Port → Port) :
    (s.modPort p f).devid = s.devid := rfl
@[simp] theorem State.modPort_devv (s : State) (p : PortNo) (f : Port → Port) : (s.modPort p f).devv = s.devv := rfl
@[simp] theorem State.modPort_links (s : State) (p : PortNo) (f : Port → Port) :
    (s.modPort p f).links = s.links := rfl
@[simp] theorem State.modPort_pt (s : State) (p : PortNo) (f : Port → Port) : (s.modPort p f).pt = s.pt := rfl
@[simp] theorem State.modPort_ld (s : State) (p : PortNo) (f : Port → Port) : (s.modPort p f).ld = s.ld := rfl
@[simp] theorem State.modPort_plan (s : State) (p : PortNo) (f : Port → Port) : (s.modPort p f).plan = s.plan := rfl
@[simp] theorem State.modPort_pw (s : State) (p : PortNo) (f : Port → Port) : (s.modPort p f).pw = s.pw := rfl
@[simp] theorem State.modPort_side (s : State) (p : PortNo) (f : Port → Port) : (s.modPort p f).side = s.side := rfl
@[simp] theorem State.modPort_lands (s : State) (p : PortNo) (f : Port → Port) :
    (s.modPort p f).lands = s.lands := rfl
@[simp] theorem State.modPort_winHeld (s : State) (p : PortNo) (f : Port → Port) :
    (s.modPort p f).winHeld = s.winHeld := rfl
@[simp] theorem State.modPort_winAns (s : State) (p : PortNo) (f : Port → Port) :
    (s.modPort p f).winAns = s.winAns := rfl
@[simp] theorem State.modPort_ckRecord (s : State) (p : PortNo) (f : Port → Port) :
    (s.modPort p f).ckRecord = s.ckRecord := rfl
@[simp] theorem State.modPort_free (s : State) (p : PortNo) (f : Port → Port) : (s.modPort p f).free = s.free := rfl

/-! ## `State.modSlice` changes `slices` only -/

@[simp] theorem State.modSlice_pending (s : State) (i : Nat) (f : Slice → Slice) :
    (s.modSlice i f).pending = s.pending := rfl
@[simp] theorem State.modSlice_tiles (s : State) (i : Nat) (f : Slice → Slice) :
    (s.modSlice i f).tiles = s.tiles := rfl
@[simp] theorem State.modSlice_cobs (s : State) (i : Nat) (f : Slice → Slice) : (s.modSlice i f).cobs = s.cobs := rfl
@[simp] theorem State.modSlice_hbm (s : State) (i : Nat) (f : Slice → Slice) : (s.modSlice i f).hbm = s.hbm := rfl
@[simp] theorem State.modSlice_hbmBad (s : State) (i : Nat) (f : Slice → Slice) :
    (s.modSlice i f).hbmBad = s.hbmBad := rfl
@[simp] theorem State.modSlice_cxl (s : State) (i : Nat) (f : Slice → Slice) : (s.modSlice i f).cxl = s.cxl := rfl
@[simp] theorem State.modSlice_net (s : State) (i : Nat) (f : Slice → Slice) : (s.modSlice i f).net = s.net := rfl
@[simp] theorem State.modSlice_reqs (s : State) (i : Nat) (f : Slice → Slice) : (s.modSlice i f).reqs = s.reqs := rfl
@[simp] theorem State.modSlice_replies (s : State) (i : Nat) (f : Slice → Slice) :
    (s.modSlice i f).replies = s.replies := rfl
@[simp] theorem State.modSlice_nextId (s : State) (i : Nat) (f : Slice → Slice) :
    (s.modSlice i f).nextId = s.nextId := rfl
@[simp] theorem State.modSlice_husk (s : State) (i : Nat) (f : Slice → Slice) : (s.modSlice i f).husk = s.husk := rfl
@[simp] theorem State.modSlice_heng (s : State) (i : Nat) (f : Slice → Slice) : (s.modSlice i f).heng = s.heng := rfl
@[simp] theorem State.modSlice_hengTlb (s : State) (i : Nat) (f : Slice → Slice) :
    (s.modSlice i f).hengTlb = s.hengTlb := rfl
@[simp] theorem State.modSlice_huskWalker (s : State) (i : Nat) (f : Slice → Slice) :
    (s.modSlice i f).huskWalker = s.huskWalker := rfl
@[simp] theorem State.modSlice_funcs (s : State) (i : Nat) (f : Slice → Slice) :
    (s.modSlice i f).funcs = s.funcs := rfl
@[simp] theorem State.modSlice_iwin (s : State) (i : Nat) (f : Slice → Slice) : (s.modSlice i f).iwin = s.iwin := rfl
@[simp] theorem State.modSlice_ort (s : State) (i : Nat) (f : Slice → Slice) : (s.modSlice i f).ort = s.ort := rfl
@[simp] theorem State.modSlice_ports (s : State) (i : Nat) (f : Slice → Slice) :
    (s.modSlice i f).ports = s.ports := rfl
@[simp] theorem State.modSlice_unrec (s : State) (i : Nat) (f : Slice → Slice) :
    (s.modSlice i f).unrec = s.unrec := rfl
@[simp] theorem State.modSlice_reason (s : State) (i : Nat) (f : Slice → Slice) :
    (s.modSlice i f).reason = s.reason := rfl
@[simp] theorem State.modSlice_devid (s : State) (i : Nat) (f : Slice → Slice) :
    (s.modSlice i f).devid = s.devid := rfl
@[simp] theorem State.modSlice_devv (s : State) (i : Nat) (f : Slice → Slice) : (s.modSlice i f).devv = s.devv := rfl
@[simp] theorem State.modSlice_links (s : State) (i : Nat) (f : Slice → Slice) :
    (s.modSlice i f).links = s.links := rfl
@[simp] theorem State.modSlice_pt (s : State) (i : Nat) (f : Slice → Slice) : (s.modSlice i f).pt = s.pt := rfl
@[simp] theorem State.modSlice_ld (s : State) (i : Nat) (f : Slice → Slice) : (s.modSlice i f).ld = s.ld := rfl
@[simp] theorem State.modSlice_plan (s : State) (i : Nat) (f : Slice → Slice) : (s.modSlice i f).plan = s.plan := rfl
@[simp] theorem State.modSlice_pw (s : State) (i : Nat) (f : Slice → Slice) : (s.modSlice i f).pw = s.pw := rfl
@[simp] theorem State.modSlice_side (s : State) (i : Nat) (f : Slice → Slice) : (s.modSlice i f).side = s.side := rfl
@[simp] theorem State.modSlice_lands (s : State) (i : Nat) (f : Slice → Slice) :
    (s.modSlice i f).lands = s.lands := rfl
@[simp] theorem State.modSlice_winHeld (s : State) (i : Nat) (f : Slice → Slice) :
    (s.modSlice i f).winHeld = s.winHeld := rfl
@[simp] theorem State.modSlice_winAns (s : State) (i : Nat) (f : Slice → Slice) :
    (s.modSlice i f).winAns = s.winAns := rfl
@[simp] theorem State.modSlice_ckRecord (s : State) (i : Nat) (f : Slice → Slice) :
    (s.modSlice i f).ckRecord = s.ckRecord := rfl
@[simp] theorem State.modSlice_free (s : State) (i : Nat) (f : Slice → Slice) : (s.modSlice i f).free = s.free := rfl

/-! ## `State.modLink` changes `links` only -/

@[simp] theorem State.modLink_pending (s : State) (l : DLink) (f : DieLnk → DieLnk) :
    (s.modLink l f).pending = s.pending := rfl
@[simp] theorem State.modLink_tiles (s : State) (l : DLink) (f : DieLnk → DieLnk) :
    (s.modLink l f).tiles = s.tiles := rfl
@[simp] theorem State.modLink_cobs (s : State) (l : DLink) (f : DieLnk → DieLnk) :
    (s.modLink l f).cobs = s.cobs := rfl
@[simp] theorem State.modLink_hbm (s : State) (l : DLink) (f : DieLnk → DieLnk) : (s.modLink l f).hbm = s.hbm := rfl
@[simp] theorem State.modLink_hbmBad (s : State) (l : DLink) (f : DieLnk → DieLnk) :
    (s.modLink l f).hbmBad = s.hbmBad := rfl
@[simp] theorem State.modLink_slices (s : State) (l : DLink) (f : DieLnk → DieLnk) :
    (s.modLink l f).slices = s.slices := rfl
@[simp] theorem State.modLink_cxl (s : State) (l : DLink) (f : DieLnk → DieLnk) : (s.modLink l f).cxl = s.cxl := rfl
@[simp] theorem State.modLink_net (s : State) (l : DLink) (f : DieLnk → DieLnk) : (s.modLink l f).net = s.net := rfl
@[simp] theorem State.modLink_reqs (s : State) (l : DLink) (f : DieLnk → DieLnk) :
    (s.modLink l f).reqs = s.reqs := rfl
@[simp] theorem State.modLink_replies (s : State) (l : DLink) (f : DieLnk → DieLnk) :
    (s.modLink l f).replies = s.replies := rfl
@[simp] theorem State.modLink_nextId (s : State) (l : DLink) (f : DieLnk → DieLnk) :
    (s.modLink l f).nextId = s.nextId := rfl
@[simp] theorem State.modLink_husk (s : State) (l : DLink) (f : DieLnk → DieLnk) :
    (s.modLink l f).husk = s.husk := rfl
@[simp] theorem State.modLink_heng (s : State) (l : DLink) (f : DieLnk → DieLnk) :
    (s.modLink l f).heng = s.heng := rfl
@[simp] theorem State.modLink_hengTlb (s : State) (l : DLink) (f : DieLnk → DieLnk) :
    (s.modLink l f).hengTlb = s.hengTlb := rfl
@[simp] theorem State.modLink_huskWalker (s : State) (l : DLink) (f : DieLnk → DieLnk) :
    (s.modLink l f).huskWalker = s.huskWalker := rfl
@[simp] theorem State.modLink_funcs (s : State) (l : DLink) (f : DieLnk → DieLnk) :
    (s.modLink l f).funcs = s.funcs := rfl
@[simp] theorem State.modLink_iwin (s : State) (l : DLink) (f : DieLnk → DieLnk) :
    (s.modLink l f).iwin = s.iwin := rfl
@[simp] theorem State.modLink_ort (s : State) (l : DLink) (f : DieLnk → DieLnk) : (s.modLink l f).ort = s.ort := rfl
@[simp] theorem State.modLink_ports (s : State) (l : DLink) (f : DieLnk → DieLnk) :
    (s.modLink l f).ports = s.ports := rfl
@[simp] theorem State.modLink_unrec (s : State) (l : DLink) (f : DieLnk → DieLnk) :
    (s.modLink l f).unrec = s.unrec := rfl
@[simp] theorem State.modLink_reason (s : State) (l : DLink) (f : DieLnk → DieLnk) :
    (s.modLink l f).reason = s.reason := rfl
@[simp] theorem State.modLink_devid (s : State) (l : DLink) (f : DieLnk → DieLnk) :
    (s.modLink l f).devid = s.devid := rfl
@[simp] theorem State.modLink_devv (s : State) (l : DLink) (f : DieLnk → DieLnk) :
    (s.modLink l f).devv = s.devv := rfl
@[simp] theorem State.modLink_pt (s : State) (l : DLink) (f : DieLnk → DieLnk) : (s.modLink l f).pt = s.pt := rfl
@[simp] theorem State.modLink_ld (s : State) (l : DLink) (f : DieLnk → DieLnk) : (s.modLink l f).ld = s.ld := rfl
@[simp] theorem State.modLink_plan (s : State) (l : DLink) (f : DieLnk → DieLnk) :
    (s.modLink l f).plan = s.plan := rfl
@[simp] theorem State.modLink_pw (s : State) (l : DLink) (f : DieLnk → DieLnk) : (s.modLink l f).pw = s.pw := rfl
@[simp] theorem State.modLink_side (s : State) (l : DLink) (f : DieLnk → DieLnk) :
    (s.modLink l f).side = s.side := rfl
@[simp] theorem State.modLink_lands (s : State) (l : DLink) (f : DieLnk → DieLnk) :
    (s.modLink l f).lands = s.lands := rfl
@[simp] theorem State.modLink_winHeld (s : State) (l : DLink) (f : DieLnk → DieLnk) :
    (s.modLink l f).winHeld = s.winHeld := rfl
@[simp] theorem State.modLink_winAns (s : State) (l : DLink) (f : DieLnk → DieLnk) :
    (s.modLink l f).winAns = s.winAns := rfl
@[simp] theorem State.modLink_ckRecord (s : State) (l : DLink) (f : DieLnk → DieLnk) :
    (s.modLink l f).ckRecord = s.ckRecord := rfl
@[simp] theorem State.modLink_free (s : State) (l : DLink) (f : DieLnk → DieLnk) :
    (s.modLink l f).free = s.free := rfl

/-! ## `Tile.modTh` changes `thr` only -/

@[simp] theorem Tile.modTh_func (tl : Tile) (h : Thr) (f : Thread → Thread) : (tl.modTh h f).func = tl.func := rfl
@[simp] theorem Tile.modTh_mvbase (tl : Tile) (h : Thr) (f : Thread → Thread) :
    (tl.modTh h f).mvbase = tl.mvbase := rfl
@[simp] theorem Tile.modTh_svbase (tl : Tile) (h : Thr) (f : Thread → Thread) :
    (tl.modTh h f).svbase = tl.svbase := rfl
@[simp] theorem Tile.modTh_pmem (tl : Tile) (h : Thr) (f : Thread → Thread) : (tl.modTh h f).pmem = tl.pmem := rfl
@[simp] theorem Tile.modTh_pbad (tl : Tile) (h : Thr) (f : Thread → Thread) : (tl.modTh h f).pbad = tl.pbad := rfl
@[simp] theorem Tile.modTh_seedsel (tl : Tile) (h : Thr) (f : Thread → Thread) :
    (tl.modTh h f).seedsel = tl.seedsel := rfl
@[simp] theorem Tile.modTh_shared (tl : Tile) (h : Thr) (f : Thread → Thread) :
    (tl.modTh h f).shared = tl.shared := rfl
@[simp] theorem Tile.modTh_pev (tl : Tile) (h : Thr) (f : Thread → Thread) : (tl.modTh h f).pev = tl.pev := rfl
@[simp] theorem Tile.modTh_stale (tl : Tile) (h : Thr) (f : Thread → Thread) : (tl.modTh h f).stale = tl.stale := rfl
@[simp] theorem Tile.modTh_closedS (tl : Tile) (h : Thr) (f : Thread → Thread) :
    (tl.modTh h f).closedS = tl.closedS := rfl
@[simp] theorem Tile.modTh_cedone (tl : Tile) (h : Thr) (f : Thread → Thread) :
    (tl.modTh h f).cedone = tl.cedone := rfl
@[simp] theorem Tile.modTh_ceflt (tl : Tile) (h : Thr) (f : Thread → Thread) : (tl.modTh h f).ceflt = tl.ceflt := rfl
@[simp] theorem Tile.modTh_lmce (tl : Tile) (h : Thr) (f : Thread → Thread) : (tl.modTh h f).lmce = tl.lmce := rfl
@[simp] theorem Tile.modTh_onAt (tl : Tile) (h : Thr) (f : Thread → Thread) : (tl.modTh h f).onAt = tl.onAt := rfl
@[simp] theorem Tile.modTh_stall (tl : Tile) (h : Thr) (f : Thread → Thread) : (tl.modTh h f).stall = tl.stall := rfl
@[simp] theorem Tile.modTh_stallc (tl : Tile) (h : Thr) (f : Thread → Thread) :
    (tl.modTh h f).stallc = tl.stallc := rfl
@[simp] theorem Tile.modTh_causes (tl : Tile) (h : Thr) (f : Thread → Thread) :
    (tl.modTh h f).causes = tl.causes := rfl
@[simp] theorem Tile.modTh_c7 (tl : Tile) (h : Thr) (f : Thread → Thread) : (tl.modTh h f).c7 = tl.c7 := rfl
@[simp] theorem Tile.modTh_c4 (tl : Tile) (h : Thr) (f : Thread → Thread) : (tl.modTh h f).c4 = tl.c4 := rfl
@[simp] theorem Tile.modTh_c6 (tl : Tile) (h : Thr) (f : Thread → Thread) : (tl.modTh h f).c6 = tl.c6 := rfl
@[simp] theorem Tile.modTh_spell (tl : Tile) (h : Thr) (f : Thread → Thread) : (tl.modTh h f).spell = tl.spell := rfl
@[simp] theorem Tile.modTh_spellK (tl : Tile) (h : Thr) (f : Thread → Thread) :
    (tl.modTh h f).spellK = tl.spellK := rfl
@[simp] theorem Tile.modTh_slotOwner (tl : Tile) (h : Thr) (f : Thread → Thread) :
    (tl.modTh h f).slotOwner = tl.slotOwner := rfl
@[simp] theorem Tile.modTh_slotUsed (tl : Tile) (h : Thr) (f : Thread → Thread) :
    (tl.modTh h f).slotUsed = tl.slotUsed := rfl
@[simp] theorem Tile.modTh_zeroed (tl : Tile) (h : Thr) (f : Thread → Thread) :
    (tl.modTh h f).zeroed = tl.zeroed := rfl
@[simp] theorem Tile.modTh_lmem (tl : Tile) (h : Thr) (f : Thread → Thread) : (tl.modTh h f).lmem = tl.lmem := rfl
@[simp] theorem Tile.modTh_lerr (tl : Tile) (h : Thr) (f : Thread → Thread) : (tl.modTh h f).lerr = tl.lerr := rfl
@[simp] theorem Tile.modTh_csize (tl : Tile) (h : Thr) (f : Thread → Thread) : (tl.modTh h f).csize = tl.csize := rfl
@[simp] theorem Tile.modTh_pfd (tl : Tile) (h : Thr) (f : Thread → Thread) : (tl.modTh h f).pfd = tl.pfd := rfl
@[simp] theorem Tile.modTh_lmerr (tl : Tile) (h : Thr) (f : Thread → Thread) : (tl.modTh h f).lmerr = tl.lmerr := rfl
@[simp] theorem Tile.modTh_lmcec (tl : Tile) (h : Thr) (f : Thread → Thread) : (tl.modTh h f).lmcec = tl.lmcec := rfl
@[simp] theorem Tile.modTh_place (tl : Tile) (h : Thr) (f : Thread → Thread) : (tl.modTh h f).place = tl.place := rfl
@[simp] theorem Tile.modTh_pbb (tl : Tile) (h : Thr) (f : Thread → Thread) : (tl.modTh h f).pbb = tl.pbb := rfl
@[simp] theorem Tile.modTh_memb (tl : Tile) (h : Thr) (f : Thread → Thread) : (tl.modTh h f).memb = tl.memb := rfl
@[simp] theorem Tile.modTh_htab (tl : Tile) (h : Thr) (f : Thread → Thread) : (tl.modTh h f).htab = tl.htab := rfl
@[simp] theorem Tile.modTh_lines (tl : Tile) (h : Thr) (f : Thread → Thread) : (tl.modTh h f).lines = tl.lines := rfl
@[simp] theorem Tile.modTh_plru (tl : Tile) (h : Thr) (f : Thread → Thread) : (tl.modTh h f).plru = tl.plru := rfl
@[simp] theorem Tile.modTh_fills (tl : Tile) (h : Thr) (f : Thread → Thread) : (tl.modTh h f).fills = tl.fills := rfl
@[simp] theorem Tile.modTh_sbuf (tl : Tile) (h : Thr) (f : Thread → Thread) : (tl.modTh h f).sbuf = tl.sbuf := rfl
@[simp] theorem Tile.modTh_inbuf (tl : Tile) (h : Thr) (f : Thread → Thread) : (tl.modTh h f).inbuf = tl.inbuf := rfl
@[simp] theorem Tile.modTh_tlb (tl : Tile) (h : Thr) (f : Thread → Thread) : (tl.modTh h f).tlb = tl.tlb := rfl
@[simp] theorem Tile.modTh_treg (tl : Tile) (h : Thr) (f : Thread → Thread) : (tl.modTh h f).treg = tl.treg := rfl
@[simp] theorem Tile.modTh_scaleA (tl : Tile) (h : Thr) (f : Thread → Thread) :
    (tl.modTh h f).scaleA = tl.scaleA := rfl
@[simp] theorem Tile.modTh_scaleB (tl : Tile) (h : Thr) (f : Thread → Thread) :
    (tl.modTh h f).scaleB = tl.scaleB := rfl
@[simp] theorem Tile.modTh_mx (tl : Tile) (h : Thr) (f : Thread → Thread) : (tl.modTh h f).mx = tl.mx := rfl
@[simp] theorem Tile.modTh_cord (tl : Tile) (h : Thr) (f : Thread → Thread) : (tl.modTh h f).cord = tl.cord := rfl
@[simp] theorem Tile.modTh_q (tl : Tile) (h : Thr) (f : Thread → Thread) : (tl.modTh h f).q = tl.q := rfl
@[simp] theorem Tile.modTh_send (tl : Tile) (h : Thr) (f : Thread → Thread) : (tl.modTh h f).send = tl.send := rfl
@[simp] theorem Tile.modTh_mgrp (tl : Tile) (h : Thr) (f : Thread → Thread) : (tl.modTh h f).mgrp = tl.mgrp := rfl
@[simp] theorem Tile.modTh_eng (tl : Tile) (h : Thr) (f : Thread → Thread) : (tl.modTh h f).eng = tl.eng := rfl
@[simp] theorem Tile.modTh_mcrec0 (tl : Tile) (h : Thr) (f : Thread → Thread) :
    (tl.modTh h f).mcrec0 = tl.mcrec0 := rfl
@[simp] theorem Tile.modTh_mcrec1 (tl : Tile) (h : Thr) (f : Thread → Thread) :
    (tl.modTh h f).mcrec1 = tl.mcrec1 := rfl
@[simp] theorem Tile.modTh_mcrec2 (tl : Tile) (h : Thr) (f : Thread → Thread) :
    (tl.modTh h f).mcrec2 = tl.mcrec2 := rfl
@[simp] theorem Tile.modTh_mcrec3 (tl : Tile) (h : Thr) (f : Thread → Thread) :
    (tl.modTh h f).mcrec3 = tl.mcrec3 := rfl
@[simp] theorem Tile.modTh_quietCnt (tl : Tile) (h : Thr) (f : Thread → Thread) :
    (tl.modTh h f).quietCnt = tl.quietCnt := rfl
@[simp] theorem Tile.modTh_quietAct (tl : Tile) (h : Thr) (f : Thread → Thread) :
    (tl.modTh h f).quietAct = tl.quietAct := rfl
@[simp] theorem Tile.modTh_quietWin (tl : Tile) (h : Thr) (f : Thread → Thread) :
    (tl.modTh h f).quietWin = tl.quietWin := rfl
@[simp] theorem Tile.modTh_hzHaltk (tl : Tile) (h : Thr) (f : Thread → Thread) :
    (tl.modTh h f).hzHaltk = tl.hzHaltk := rfl
@[simp] theorem Tile.modTh_hzrec (tl : Tile) (h : Thr) (f : Thread → Thread) : (tl.modTh h f).hzrec = tl.hzrec := rfl
@[simp] theorem Tile.modTh_hzcnt (tl : Tile) (h : Thr) (f : Thread → Thread) : (tl.modTh h f).hzcnt = tl.hzcnt := rfl
@[simp] theorem Tile.modTh_pmsel (tl : Tile) (h : Thr) (f : Thread → Thread) : (tl.modTh h f).pmsel = tl.pmsel := rfl
@[simp] theorem Tile.modTh_pmc (tl : Tile) (h : Thr) (f : Thread → Thread) : (tl.modTh h f).pmc = tl.pmc := rfl

/-! ## `Tile.modQueue` changes `q` only -/

@[simp] theorem Tile.modQueue_func (tl : Tile) (q : QIx) (f : Queue → Queue) : (tl.modQueue q f).func = tl.func := rfl
@[simp] theorem Tile.modQueue_thr (tl : Tile) (q : QIx) (f : Queue → Queue) : (tl.modQueue q f).thr = tl.thr := rfl
@[simp] theorem Tile.modQueue_mvbase (tl : Tile) (q : QIx) (f : Queue → Queue) :
    (tl.modQueue q f).mvbase = tl.mvbase := rfl
@[simp] theorem Tile.modQueue_svbase (tl : Tile) (q : QIx) (f : Queue → Queue) :
    (tl.modQueue q f).svbase = tl.svbase := rfl
@[simp] theorem Tile.modQueue_pmem (tl : Tile) (q : QIx) (f : Queue → Queue) : (tl.modQueue q f).pmem = tl.pmem := rfl
@[simp] theorem Tile.modQueue_pbad (tl : Tile) (q : QIx) (f : Queue → Queue) : (tl.modQueue q f).pbad = tl.pbad := rfl
@[simp] theorem Tile.modQueue_seedsel (tl : Tile) (q : QIx) (f : Queue → Queue) :
    (tl.modQueue q f).seedsel = tl.seedsel := rfl
@[simp] theorem Tile.modQueue_shared (tl : Tile) (q : QIx) (f : Queue → Queue) :
    (tl.modQueue q f).shared = tl.shared := rfl
@[simp] theorem Tile.modQueue_pev (tl : Tile) (q : QIx) (f : Queue → Queue) : (tl.modQueue q f).pev = tl.pev := rfl
@[simp] theorem Tile.modQueue_stale (tl : Tile) (q : QIx) (f : Queue → Queue) :
    (tl.modQueue q f).stale = tl.stale := rfl
@[simp] theorem Tile.modQueue_closedS (tl : Tile) (q : QIx) (f : Queue → Queue) :
    (tl.modQueue q f).closedS = tl.closedS := rfl
@[simp] theorem Tile.modQueue_cedone (tl : Tile) (q : QIx) (f : Queue → Queue) :
    (tl.modQueue q f).cedone = tl.cedone := rfl
@[simp] theorem Tile.modQueue_ceflt (tl : Tile) (q : QIx) (f : Queue → Queue) :
    (tl.modQueue q f).ceflt = tl.ceflt := rfl
@[simp] theorem Tile.modQueue_lmce (tl : Tile) (q : QIx) (f : Queue → Queue) : (tl.modQueue q f).lmce = tl.lmce := rfl
@[simp] theorem Tile.modQueue_onAt (tl : Tile) (q : QIx) (f : Queue → Queue) : (tl.modQueue q f).onAt = tl.onAt := rfl
@[simp] theorem Tile.modQueue_stall (tl : Tile) (q : QIx) (f : Queue → Queue) :
    (tl.modQueue q f).stall = tl.stall := rfl
@[simp] theorem Tile.modQueue_stallc (tl : Tile) (q : QIx) (f : Queue → Queue) :
    (tl.modQueue q f).stallc = tl.stallc := rfl
@[simp] theorem Tile.modQueue_causes (tl : Tile) (q : QIx) (f : Queue → Queue) :
    (tl.modQueue q f).causes = tl.causes := rfl
@[simp] theorem Tile.modQueue_c7 (tl : Tile) (q : QIx) (f : Queue → Queue) : (tl.modQueue q f).c7 = tl.c7 := rfl
@[simp] theorem Tile.modQueue_c4 (tl : Tile) (q : QIx) (f : Queue → Queue) : (tl.modQueue q f).c4 = tl.c4 := rfl
@[simp] theorem Tile.modQueue_c6 (tl : Tile) (q : QIx) (f : Queue → Queue) : (tl.modQueue q f).c6 = tl.c6 := rfl
@[simp] theorem Tile.modQueue_spell (tl : Tile) (q : QIx) (f : Queue → Queue) :
    (tl.modQueue q f).spell = tl.spell := rfl
@[simp] theorem Tile.modQueue_spellK (tl : Tile) (q : QIx) (f : Queue → Queue) :
    (tl.modQueue q f).spellK = tl.spellK := rfl
@[simp] theorem Tile.modQueue_slotOwner (tl : Tile) (q : QIx) (f : Queue → Queue) :
    (tl.modQueue q f).slotOwner = tl.slotOwner := rfl
@[simp] theorem Tile.modQueue_slotUsed (tl : Tile) (q : QIx) (f : Queue → Queue) :
    (tl.modQueue q f).slotUsed = tl.slotUsed := rfl
@[simp] theorem Tile.modQueue_zeroed (tl : Tile) (q : QIx) (f : Queue → Queue) :
    (tl.modQueue q f).zeroed = tl.zeroed := rfl
@[simp] theorem Tile.modQueue_lmem (tl : Tile) (q : QIx) (f : Queue → Queue) : (tl.modQueue q f).lmem = tl.lmem := rfl
@[simp] theorem Tile.modQueue_lerr (tl : Tile) (q : QIx) (f : Queue → Queue) : (tl.modQueue q f).lerr = tl.lerr := rfl
@[simp] theorem Tile.modQueue_csize (tl : Tile) (q : QIx) (f : Queue → Queue) :
    (tl.modQueue q f).csize = tl.csize := rfl
@[simp] theorem Tile.modQueue_pfd (tl : Tile) (q : QIx) (f : Queue → Queue) : (tl.modQueue q f).pfd = tl.pfd := rfl
@[simp] theorem Tile.modQueue_lmerr (tl : Tile) (q : QIx) (f : Queue → Queue) :
    (tl.modQueue q f).lmerr = tl.lmerr := rfl
@[simp] theorem Tile.modQueue_lmcec (tl : Tile) (q : QIx) (f : Queue → Queue) :
    (tl.modQueue q f).lmcec = tl.lmcec := rfl
@[simp] theorem Tile.modQueue_place (tl : Tile) (q : QIx) (f : Queue → Queue) :
    (tl.modQueue q f).place = tl.place := rfl
@[simp] theorem Tile.modQueue_pbb (tl : Tile) (q : QIx) (f : Queue → Queue) : (tl.modQueue q f).pbb = tl.pbb := rfl
@[simp] theorem Tile.modQueue_memb (tl : Tile) (q : QIx) (f : Queue → Queue) : (tl.modQueue q f).memb = tl.memb := rfl
@[simp] theorem Tile.modQueue_htab (tl : Tile) (q : QIx) (f : Queue → Queue) : (tl.modQueue q f).htab = tl.htab := rfl
@[simp] theorem Tile.modQueue_lines (tl : Tile) (q : QIx) (f : Queue → Queue) :
    (tl.modQueue q f).lines = tl.lines := rfl
@[simp] theorem Tile.modQueue_plru (tl : Tile) (q : QIx) (f : Queue → Queue) : (tl.modQueue q f).plru = tl.plru := rfl
@[simp] theorem Tile.modQueue_fills (tl : Tile) (q : QIx) (f : Queue → Queue) :
    (tl.modQueue q f).fills = tl.fills := rfl
@[simp] theorem Tile.modQueue_sbuf (tl : Tile) (q : QIx) (f : Queue → Queue) : (tl.modQueue q f).sbuf = tl.sbuf := rfl
@[simp] theorem Tile.modQueue_inbuf (tl : Tile) (q : QIx) (f : Queue → Queue) :
    (tl.modQueue q f).inbuf = tl.inbuf := rfl
@[simp] theorem Tile.modQueue_tlb (tl : Tile) (q : QIx) (f : Queue → Queue) : (tl.modQueue q f).tlb = tl.tlb := rfl
@[simp] theorem Tile.modQueue_treg (tl : Tile) (q : QIx) (f : Queue → Queue) : (tl.modQueue q f).treg = tl.treg := rfl
@[simp] theorem Tile.modQueue_scaleA (tl : Tile) (q : QIx) (f : Queue → Queue) :
    (tl.modQueue q f).scaleA = tl.scaleA := rfl
@[simp] theorem Tile.modQueue_scaleB (tl : Tile) (q : QIx) (f : Queue → Queue) :
    (tl.modQueue q f).scaleB = tl.scaleB := rfl
@[simp] theorem Tile.modQueue_mx (tl : Tile) (q : QIx) (f : Queue → Queue) : (tl.modQueue q f).mx = tl.mx := rfl
@[simp] theorem Tile.modQueue_cord (tl : Tile) (q : QIx) (f : Queue → Queue) : (tl.modQueue q f).cord = tl.cord := rfl
@[simp] theorem Tile.modQueue_send (tl : Tile) (q : QIx) (f : Queue → Queue) : (tl.modQueue q f).send = tl.send := rfl
@[simp] theorem Tile.modQueue_mgrp (tl : Tile) (q : QIx) (f : Queue → Queue) : (tl.modQueue q f).mgrp = tl.mgrp := rfl
@[simp] theorem Tile.modQueue_eng (tl : Tile) (q : QIx) (f : Queue → Queue) : (tl.modQueue q f).eng = tl.eng := rfl
@[simp] theorem Tile.modQueue_mcrec0 (tl : Tile) (q : QIx) (f : Queue → Queue) :
    (tl.modQueue q f).mcrec0 = tl.mcrec0 := rfl
@[simp] theorem Tile.modQueue_mcrec1 (tl : Tile) (q : QIx) (f : Queue → Queue) :
    (tl.modQueue q f).mcrec1 = tl.mcrec1 := rfl
@[simp] theorem Tile.modQueue_mcrec2 (tl : Tile) (q : QIx) (f : Queue → Queue) :
    (tl.modQueue q f).mcrec2 = tl.mcrec2 := rfl
@[simp] theorem Tile.modQueue_mcrec3 (tl : Tile) (q : QIx) (f : Queue → Queue) :
    (tl.modQueue q f).mcrec3 = tl.mcrec3 := rfl
@[simp] theorem Tile.modQueue_quietCnt (tl : Tile) (q : QIx) (f : Queue → Queue) :
    (tl.modQueue q f).quietCnt = tl.quietCnt := rfl
@[simp] theorem Tile.modQueue_quietAct (tl : Tile) (q : QIx) (f : Queue → Queue) :
    (tl.modQueue q f).quietAct = tl.quietAct := rfl
@[simp] theorem Tile.modQueue_quietWin (tl : Tile) (q : QIx) (f : Queue → Queue) :
    (tl.modQueue q f).quietWin = tl.quietWin := rfl
@[simp] theorem Tile.modQueue_hzHaltk (tl : Tile) (q : QIx) (f : Queue → Queue) :
    (tl.modQueue q f).hzHaltk = tl.hzHaltk := rfl
@[simp] theorem Tile.modQueue_hzrec (tl : Tile) (q : QIx) (f : Queue → Queue) :
    (tl.modQueue q f).hzrec = tl.hzrec := rfl
@[simp] theorem Tile.modQueue_hzcnt (tl : Tile) (q : QIx) (f : Queue → Queue) :
    (tl.modQueue q f).hzcnt = tl.hzcnt := rfl
@[simp] theorem Tile.modQueue_pmsel (tl : Tile) (q : QIx) (f : Queue → Queue) :
    (tl.modQueue q f).pmsel = tl.pmsel := rfl
@[simp] theorem Tile.modQueue_pmc (tl : Tile) (q : QIx) (f : Queue → Queue) : (tl.modQueue q f).pmc = tl.pmc := rfl

/-! ## `Tile.modReg` changes `treg` only -/

@[simp] theorem Tile.modReg_func (tl : Tile) (k : Reg) (f : TileReg → TileReg) : (tl.modReg k f).func = tl.func := rfl
@[simp] theorem Tile.modReg_thr (tl : Tile) (k : Reg) (f : TileReg → TileReg) : (tl.modReg k f).thr = tl.thr := rfl
@[simp] theorem Tile.modReg_mvbase (tl : Tile) (k : Reg) (f : TileReg → TileReg) :
    (tl.modReg k f).mvbase = tl.mvbase := rfl
@[simp] theorem Tile.modReg_svbase (tl : Tile) (k : Reg) (f : TileReg → TileReg) :
    (tl.modReg k f).svbase = tl.svbase := rfl
@[simp] theorem Tile.modReg_pmem (tl : Tile) (k : Reg) (f : TileReg → TileReg) : (tl.modReg k f).pmem = tl.pmem := rfl
@[simp] theorem Tile.modReg_pbad (tl : Tile) (k : Reg) (f : TileReg → TileReg) : (tl.modReg k f).pbad = tl.pbad := rfl
@[simp] theorem Tile.modReg_seedsel (tl : Tile) (k : Reg) (f : TileReg → TileReg) :
    (tl.modReg k f).seedsel = tl.seedsel := rfl
@[simp] theorem Tile.modReg_shared (tl : Tile) (k : Reg) (f : TileReg → TileReg) :
    (tl.modReg k f).shared = tl.shared := rfl
@[simp] theorem Tile.modReg_pev (tl : Tile) (k : Reg) (f : TileReg → TileReg) : (tl.modReg k f).pev = tl.pev := rfl
@[simp] theorem Tile.modReg_stale (tl : Tile) (k : Reg) (f : TileReg → TileReg) :
    (tl.modReg k f).stale = tl.stale := rfl
@[simp] theorem Tile.modReg_closedS (tl : Tile) (k : Reg) (f : TileReg → TileReg) :
    (tl.modReg k f).closedS = tl.closedS := rfl
@[simp] theorem Tile.modReg_cedone (tl : Tile) (k : Reg) (f : TileReg → TileReg) :
    (tl.modReg k f).cedone = tl.cedone := rfl
@[simp] theorem Tile.modReg_ceflt (tl : Tile) (k : Reg) (f : TileReg → TileReg) :
    (tl.modReg k f).ceflt = tl.ceflt := rfl
@[simp] theorem Tile.modReg_lmce (tl : Tile) (k : Reg) (f : TileReg → TileReg) : (tl.modReg k f).lmce = tl.lmce := rfl
@[simp] theorem Tile.modReg_onAt (tl : Tile) (k : Reg) (f : TileReg → TileReg) : (tl.modReg k f).onAt = tl.onAt := rfl
@[simp] theorem Tile.modReg_stall (tl : Tile) (k : Reg) (f : TileReg → TileReg) :
    (tl.modReg k f).stall = tl.stall := rfl
@[simp] theorem Tile.modReg_stallc (tl : Tile) (k : Reg) (f : TileReg → TileReg) :
    (tl.modReg k f).stallc = tl.stallc := rfl
@[simp] theorem Tile.modReg_causes (tl : Tile) (k : Reg) (f : TileReg → TileReg) :
    (tl.modReg k f).causes = tl.causes := rfl
@[simp] theorem Tile.modReg_c7 (tl : Tile) (k : Reg) (f : TileReg → TileReg) : (tl.modReg k f).c7 = tl.c7 := rfl
@[simp] theorem Tile.modReg_c4 (tl : Tile) (k : Reg) (f : TileReg → TileReg) : (tl.modReg k f).c4 = tl.c4 := rfl
@[simp] theorem Tile.modReg_c6 (tl : Tile) (k : Reg) (f : TileReg → TileReg) : (tl.modReg k f).c6 = tl.c6 := rfl
@[simp] theorem Tile.modReg_spell (tl : Tile) (k : Reg) (f : TileReg → TileReg) :
    (tl.modReg k f).spell = tl.spell := rfl
@[simp] theorem Tile.modReg_spellK (tl : Tile) (k : Reg) (f : TileReg → TileReg) :
    (tl.modReg k f).spellK = tl.spellK := rfl
@[simp] theorem Tile.modReg_slotOwner (tl : Tile) (k : Reg) (f : TileReg → TileReg) :
    (tl.modReg k f).slotOwner = tl.slotOwner := rfl
@[simp] theorem Tile.modReg_slotUsed (tl : Tile) (k : Reg) (f : TileReg → TileReg) :
    (tl.modReg k f).slotUsed = tl.slotUsed := rfl
@[simp] theorem Tile.modReg_zeroed (tl : Tile) (k : Reg) (f : TileReg → TileReg) :
    (tl.modReg k f).zeroed = tl.zeroed := rfl
@[simp] theorem Tile.modReg_lmem (tl : Tile) (k : Reg) (f : TileReg → TileReg) : (tl.modReg k f).lmem = tl.lmem := rfl
@[simp] theorem Tile.modReg_lerr (tl : Tile) (k : Reg) (f : TileReg → TileReg) : (tl.modReg k f).lerr = tl.lerr := rfl
@[simp] theorem Tile.modReg_csize (tl : Tile) (k : Reg) (f : TileReg → TileReg) :
    (tl.modReg k f).csize = tl.csize := rfl
@[simp] theorem Tile.modReg_pfd (tl : Tile) (k : Reg) (f : TileReg → TileReg) : (tl.modReg k f).pfd = tl.pfd := rfl
@[simp] theorem Tile.modReg_lmerr (tl : Tile) (k : Reg) (f : TileReg → TileReg) :
    (tl.modReg k f).lmerr = tl.lmerr := rfl
@[simp] theorem Tile.modReg_lmcec (tl : Tile) (k : Reg) (f : TileReg → TileReg) :
    (tl.modReg k f).lmcec = tl.lmcec := rfl
@[simp] theorem Tile.modReg_place (tl : Tile) (k : Reg) (f : TileReg → TileReg) :
    (tl.modReg k f).place = tl.place := rfl
@[simp] theorem Tile.modReg_pbb (tl : Tile) (k : Reg) (f : TileReg → TileReg) : (tl.modReg k f).pbb = tl.pbb := rfl
@[simp] theorem Tile.modReg_memb (tl : Tile) (k : Reg) (f : TileReg → TileReg) : (tl.modReg k f).memb = tl.memb := rfl
@[simp] theorem Tile.modReg_htab (tl : Tile) (k : Reg) (f : TileReg → TileReg) : (tl.modReg k f).htab = tl.htab := rfl
@[simp] theorem Tile.modReg_lines (tl : Tile) (k : Reg) (f : TileReg → TileReg) :
    (tl.modReg k f).lines = tl.lines := rfl
@[simp] theorem Tile.modReg_plru (tl : Tile) (k : Reg) (f : TileReg → TileReg) : (tl.modReg k f).plru = tl.plru := rfl
@[simp] theorem Tile.modReg_fills (tl : Tile) (k : Reg) (f : TileReg → TileReg) :
    (tl.modReg k f).fills = tl.fills := rfl
@[simp] theorem Tile.modReg_sbuf (tl : Tile) (k : Reg) (f : TileReg → TileReg) : (tl.modReg k f).sbuf = tl.sbuf := rfl
@[simp] theorem Tile.modReg_inbuf (tl : Tile) (k : Reg) (f : TileReg → TileReg) :
    (tl.modReg k f).inbuf = tl.inbuf := rfl
@[simp] theorem Tile.modReg_tlb (tl : Tile) (k : Reg) (f : TileReg → TileReg) : (tl.modReg k f).tlb = tl.tlb := rfl
@[simp] theorem Tile.modReg_scaleA (tl : Tile) (k : Reg) (f : TileReg → TileReg) :
    (tl.modReg k f).scaleA = tl.scaleA := rfl
@[simp] theorem Tile.modReg_scaleB (tl : Tile) (k : Reg) (f : TileReg → TileReg) :
    (tl.modReg k f).scaleB = tl.scaleB := rfl
@[simp] theorem Tile.modReg_mx (tl : Tile) (k : Reg) (f : TileReg → TileReg) : (tl.modReg k f).mx = tl.mx := rfl
@[simp] theorem Tile.modReg_cord (tl : Tile) (k : Reg) (f : TileReg → TileReg) : (tl.modReg k f).cord = tl.cord := rfl
@[simp] theorem Tile.modReg_q (tl : Tile) (k : Reg) (f : TileReg → TileReg) : (tl.modReg k f).q = tl.q := rfl
@[simp] theorem Tile.modReg_send (tl : Tile) (k : Reg) (f : TileReg → TileReg) : (tl.modReg k f).send = tl.send := rfl
@[simp] theorem Tile.modReg_mgrp (tl : Tile) (k : Reg) (f : TileReg → TileReg) : (tl.modReg k f).mgrp = tl.mgrp := rfl
@[simp] theorem Tile.modReg_eng (tl : Tile) (k : Reg) (f : TileReg → TileReg) : (tl.modReg k f).eng = tl.eng := rfl
@[simp] theorem Tile.modReg_mcrec0 (tl : Tile) (k : Reg) (f : TileReg → TileReg) :
    (tl.modReg k f).mcrec0 = tl.mcrec0 := rfl
@[simp] theorem Tile.modReg_mcrec1 (tl : Tile) (k : Reg) (f : TileReg → TileReg) :
    (tl.modReg k f).mcrec1 = tl.mcrec1 := rfl
@[simp] theorem Tile.modReg_mcrec2 (tl : Tile) (k : Reg) (f : TileReg → TileReg) :
    (tl.modReg k f).mcrec2 = tl.mcrec2 := rfl
@[simp] theorem Tile.modReg_mcrec3 (tl : Tile) (k : Reg) (f : TileReg → TileReg) :
    (tl.modReg k f).mcrec3 = tl.mcrec3 := rfl
@[simp] theorem Tile.modReg_quietCnt (tl : Tile) (k : Reg) (f : TileReg → TileReg) :
    (tl.modReg k f).quietCnt = tl.quietCnt := rfl
@[simp] theorem Tile.modReg_quietAct (tl : Tile) (k : Reg) (f : TileReg → TileReg) :
    (tl.modReg k f).quietAct = tl.quietAct := rfl
@[simp] theorem Tile.modReg_quietWin (tl : Tile) (k : Reg) (f : TileReg → TileReg) :
    (tl.modReg k f).quietWin = tl.quietWin := rfl
@[simp] theorem Tile.modReg_hzHaltk (tl : Tile) (k : Reg) (f : TileReg → TileReg) :
    (tl.modReg k f).hzHaltk = tl.hzHaltk := rfl
@[simp] theorem Tile.modReg_hzrec (tl : Tile) (k : Reg) (f : TileReg → TileReg) :
    (tl.modReg k f).hzrec = tl.hzrec := rfl
@[simp] theorem Tile.modReg_hzcnt (tl : Tile) (k : Reg) (f : TileReg → TileReg) :
    (tl.modReg k f).hzcnt = tl.hzcnt := rfl
@[simp] theorem Tile.modReg_pmsel (tl : Tile) (k : Reg) (f : TileReg → TileReg) :
    (tl.modReg k f).pmsel = tl.pmsel := rfl
@[simp] theorem Tile.modReg_pmc (tl : Tile) (k : Reg) (f : TileReg → TileReg) : (tl.modReg k f).pmc = tl.pmc := rfl

/-! ## `Thread.setD` changes `d` only -/

@[simp] theorem Thread.setD_run (x : Thread) (r : Reg) (v : Word) : (x.setD r v).run = x.run := rfl
@[simp] theorem Thread.setD_blk (x : Thread) (r : Reg) (v : Word) : (x.setD r v).blk = x.blk := rfl
@[simp] theorem Thread.setD_slv (x : Thread) (r : Reg) (v : Word) : (x.setD r v).slv = x.slv := rfl
@[simp] theorem Thread.setD_pc (x : Thread) (r : Reg) (v : Word) : (x.setD r v).pc = x.pc := rfl
@[simp] theorem Thread.setD_st (x : Thread) (r : Reg) (v : Word) : (x.setD r v).st = x.st := rfl
@[simp] theorem Thread.setD_a (x : Thread) (r : Reg) (v : Word) : (x.setD r v).a = x.a := rfl
@[simp] theorem Thread.setD_v (x : Thread) (r : Reg) (v : Word) : (x.setD r v).v = x.v := rfl
@[simp] theorem Thread.setD_vpend (x : Thread) (r : Reg) (v : Word) : (x.setD r v).vpend = x.vpend := rfl
@[simp] theorem Thread.setD_rcnt (x : Thread) (r : Reg) (v : Word) : (x.setD r v).rcnt = x.rcnt := rfl
@[simp] theorem Thread.setD_rstart (x : Thread) (r : Reg) (v : Word) : (x.setD r v).rstart = x.rstart := rfl
@[simp] theorem Thread.setD_rend (x : Thread) (r : Reg) (v : Word) : (x.setD r v).rend = x.rend := rfl
@[simp] theorem Thread.setD_stgU (x : Thread) (r : Reg) (v : Word) : (x.setD r v).stgU = x.stgU := rfl
@[simp] theorem Thread.setD_stgS (x : Thread) (r : Reg) (v : Word) : (x.setD r v).stgS = x.stgS := rfl
@[simp] theorem Thread.setD_stgM (x : Thread) (r : Reg) (v : Word) : (x.setD r v).stgM = x.stgM := rfl
@[simp] theorem Thread.setD_priv (x : Thread) (r : Reg) (v : Word) : (x.setD r v).priv = x.priv := rfl
@[simp] theorem Thread.setD_sepc (x : Thread) (r : Reg) (v : Word) : (x.setD r v).sepc = x.sepc := rfl
@[simp] theorem Thread.setD_mepc (x : Thread) (r : Reg) (v : Word) : (x.setD r v).mepc = x.mepc := rfl
@[simp] theorem Thread.setD_sestat (x : Thread) (r : Reg) (v : Word) : (x.setD r v).sestat = x.sestat := rfl
@[simp] theorem Thread.setD_mestat (x : Thread) (r : Reg) (v : Word) : (x.setD r v).mestat = x.mestat := rfl
@[simp] theorem Thread.setD_sxc (x : Thread) (r : Reg) (v : Word) : (x.setD r v).sxc = x.sxc := rfl
@[simp] theorem Thread.setD_mxc (x : Thread) (r : Reg) (v : Word) : (x.setD r v).mxc = x.mxc := rfl
@[simp] theorem Thread.setD_sxa (x : Thread) (r : Reg) (v : Word) : (x.setD r v).sxa = x.sxa := rfl
@[simp] theorem Thread.setD_mxa (x : Thread) (r : Reg) (v : Word) : (x.setD r v).mxa = x.mxa := rfl
@[simp] theorem Thread.setD_sws (x : Thread) (r : Reg) (v : Word) : (x.setD r v).sws = x.sws := rfl
@[simp] theorem Thread.setD_swm (x : Thread) (r : Reg) (v : Word) : (x.setD r v).swm = x.swm := rfl
@[simp] theorem Thread.setD_sts (x : Thread) (r : Reg) (v : Word) : (x.setD r v).sts = x.sts := rfl
@[simp] theorem Thread.setD_dlk (x : Thread) (r : Reg) (v : Word) : (x.setD r v).dlk = x.dlk := rfl
@[simp] theorem Thread.setD_mcp (x : Thread) (r : Reg) (v : Word) : (x.setD r v).mcp = x.mcp := rfl
@[simp] theorem Thread.setD_seovf (x : Thread) (r : Reg) (v : Word) : (x.setD r v).seovf = x.seovf := rfl
@[simp] theorem Thread.setD_se (x : Thread) (r : Reg) (v : Word) : (x.setD r v).se = x.se := rfl
@[simp] theorem Thread.setD_tmr (x : Thread) (r : Reg) (v : Word) : (x.setD r v).tmr = x.tmr := rfl
@[simp] theorem Thread.setD_stex (x : Thread) (r : Reg) (v : Word) : (x.setD r v).stex = x.stex := rfl
@[simp] theorem Thread.setD_cntStale (x : Thread) (r : Reg) (v : Word) : (x.setD r v).cntStale = x.cntStale := rfl
@[simp] theorem Thread.setD_cntClosed (x : Thread) (r : Reg) (v : Word) : (x.setD r v).cntClosed = x.cntClosed := rfl
@[simp] theorem Thread.setD_cntDropped (x : Thread) (r : Reg) (v : Word) :
    (x.setD r v).cntDropped = x.cntDropped := rfl
@[simp] theorem Thread.setD_hold (x : Thread) (r : Reg) (v : Word) : (x.setD r v).hold = x.hold := rfl
@[simp] theorem Thread.setD_wait (x : Thread) (r : Reg) (v : Word) : (x.setD r v).wait = x.wait := rfl
@[simp] theorem Thread.setD_walk (x : Thread) (r : Reg) (v : Word) : (x.setD r v).walk = x.walk := rfl
@[simp] theorem Thread.setD_moved (x : Thread) (r : Reg) (v : Word) : (x.setD r v).moved = x.moved := rfl
@[simp] theorem Thread.setD_part (x : Thread) (r : Reg) (v : Word) : (x.setD r v).part = x.part := rfl
@[simp] theorem Thread.setD_det (x : Thread) (r : Reg) (v : Word) : (x.setD r v).det = x.det := rfl
@[simp] theorem Thread.setD_stopReq (x : Thread) (r : Reg) (v : Word) : (x.setD r v).stopReq = x.stopReq := rfl
@[simp] theorem Thread.setD_haltReq (x : Thread) (r : Reg) (v : Word) : (x.setD r v).haltReq = x.haltReq := rfl
@[simp] theorem Thread.setD_dbgCause (x : Thread) (r : Reg) (v : Word) : (x.setD r v).dbgCause = x.dbgCause := rfl
@[simp] theorem Thread.setD_stepping (x : Thread) (r : Reg) (v : Word) : (x.setD r v).stepping = x.stepping := rfl
@[simp] theorem Thread.setD_owed (x : Thread) (r : Reg) (v : Word) : (x.setD r v).owed = x.owed := rfl
@[simp] theorem Thread.setD_relScope (x : Thread) (r : Reg) (v : Word) : (x.setD r v).relScope = x.relScope := rfl
@[simp] theorem Thread.setD_pair (x : Thread) (r : Reg) (v : Word) : (x.setD r v).pair = x.pair := rfl

/-! ## `Thread.setA` changes `a` only -/

@[simp] theorem Thread.setA_run (x : Thread) (r : Reg) (v : DWord) : (x.setA r v).run = x.run := rfl
@[simp] theorem Thread.setA_blk (x : Thread) (r : Reg) (v : DWord) : (x.setA r v).blk = x.blk := rfl
@[simp] theorem Thread.setA_slv (x : Thread) (r : Reg) (v : DWord) : (x.setA r v).slv = x.slv := rfl
@[simp] theorem Thread.setA_pc (x : Thread) (r : Reg) (v : DWord) : (x.setA r v).pc = x.pc := rfl
@[simp] theorem Thread.setA_st (x : Thread) (r : Reg) (v : DWord) : (x.setA r v).st = x.st := rfl
@[simp] theorem Thread.setA_d (x : Thread) (r : Reg) (v : DWord) : (x.setA r v).d = x.d := rfl
@[simp] theorem Thread.setA_v (x : Thread) (r : Reg) (v : DWord) : (x.setA r v).v = x.v := rfl
@[simp] theorem Thread.setA_vpend (x : Thread) (r : Reg) (v : DWord) : (x.setA r v).vpend = x.vpend := rfl
@[simp] theorem Thread.setA_rcnt (x : Thread) (r : Reg) (v : DWord) : (x.setA r v).rcnt = x.rcnt := rfl
@[simp] theorem Thread.setA_rstart (x : Thread) (r : Reg) (v : DWord) : (x.setA r v).rstart = x.rstart := rfl
@[simp] theorem Thread.setA_rend (x : Thread) (r : Reg) (v : DWord) : (x.setA r v).rend = x.rend := rfl
@[simp] theorem Thread.setA_stgU (x : Thread) (r : Reg) (v : DWord) : (x.setA r v).stgU = x.stgU := rfl
@[simp] theorem Thread.setA_stgS (x : Thread) (r : Reg) (v : DWord) : (x.setA r v).stgS = x.stgS := rfl
@[simp] theorem Thread.setA_stgM (x : Thread) (r : Reg) (v : DWord) : (x.setA r v).stgM = x.stgM := rfl
@[simp] theorem Thread.setA_priv (x : Thread) (r : Reg) (v : DWord) : (x.setA r v).priv = x.priv := rfl
@[simp] theorem Thread.setA_sepc (x : Thread) (r : Reg) (v : DWord) : (x.setA r v).sepc = x.sepc := rfl
@[simp] theorem Thread.setA_mepc (x : Thread) (r : Reg) (v : DWord) : (x.setA r v).mepc = x.mepc := rfl
@[simp] theorem Thread.setA_sestat (x : Thread) (r : Reg) (v : DWord) : (x.setA r v).sestat = x.sestat := rfl
@[simp] theorem Thread.setA_mestat (x : Thread) (r : Reg) (v : DWord) : (x.setA r v).mestat = x.mestat := rfl
@[simp] theorem Thread.setA_sxc (x : Thread) (r : Reg) (v : DWord) : (x.setA r v).sxc = x.sxc := rfl
@[simp] theorem Thread.setA_mxc (x : Thread) (r : Reg) (v : DWord) : (x.setA r v).mxc = x.mxc := rfl
@[simp] theorem Thread.setA_sxa (x : Thread) (r : Reg) (v : DWord) : (x.setA r v).sxa = x.sxa := rfl
@[simp] theorem Thread.setA_mxa (x : Thread) (r : Reg) (v : DWord) : (x.setA r v).mxa = x.mxa := rfl
@[simp] theorem Thread.setA_sws (x : Thread) (r : Reg) (v : DWord) : (x.setA r v).sws = x.sws := rfl
@[simp] theorem Thread.setA_swm (x : Thread) (r : Reg) (v : DWord) : (x.setA r v).swm = x.swm := rfl
@[simp] theorem Thread.setA_sts (x : Thread) (r : Reg) (v : DWord) : (x.setA r v).sts = x.sts := rfl
@[simp] theorem Thread.setA_dlk (x : Thread) (r : Reg) (v : DWord) : (x.setA r v).dlk = x.dlk := rfl
@[simp] theorem Thread.setA_mcp (x : Thread) (r : Reg) (v : DWord) : (x.setA r v).mcp = x.mcp := rfl
@[simp] theorem Thread.setA_seovf (x : Thread) (r : Reg) (v : DWord) : (x.setA r v).seovf = x.seovf := rfl
@[simp] theorem Thread.setA_se (x : Thread) (r : Reg) (v : DWord) : (x.setA r v).se = x.se := rfl
@[simp] theorem Thread.setA_tmr (x : Thread) (r : Reg) (v : DWord) : (x.setA r v).tmr = x.tmr := rfl
@[simp] theorem Thread.setA_stex (x : Thread) (r : Reg) (v : DWord) : (x.setA r v).stex = x.stex := rfl
@[simp] theorem Thread.setA_cntStale (x : Thread) (r : Reg) (v : DWord) : (x.setA r v).cntStale = x.cntStale := rfl
@[simp] theorem Thread.setA_cntClosed (x : Thread) (r : Reg) (v : DWord) : (x.setA r v).cntClosed = x.cntClosed := rfl
@[simp] theorem Thread.setA_cntDropped (x : Thread) (r : Reg) (v : DWord) :
    (x.setA r v).cntDropped = x.cntDropped := rfl
@[simp] theorem Thread.setA_hold (x : Thread) (r : Reg) (v : DWord) : (x.setA r v).hold = x.hold := rfl
@[simp] theorem Thread.setA_wait (x : Thread) (r : Reg) (v : DWord) : (x.setA r v).wait = x.wait := rfl
@[simp] theorem Thread.setA_walk (x : Thread) (r : Reg) (v : DWord) : (x.setA r v).walk = x.walk := rfl
@[simp] theorem Thread.setA_moved (x : Thread) (r : Reg) (v : DWord) : (x.setA r v).moved = x.moved := rfl
@[simp] theorem Thread.setA_part (x : Thread) (r : Reg) (v : DWord) : (x.setA r v).part = x.part := rfl
@[simp] theorem Thread.setA_det (x : Thread) (r : Reg) (v : DWord) : (x.setA r v).det = x.det := rfl
@[simp] theorem Thread.setA_stopReq (x : Thread) (r : Reg) (v : DWord) : (x.setA r v).stopReq = x.stopReq := rfl
@[simp] theorem Thread.setA_haltReq (x : Thread) (r : Reg) (v : DWord) : (x.setA r v).haltReq = x.haltReq := rfl
@[simp] theorem Thread.setA_dbgCause (x : Thread) (r : Reg) (v : DWord) : (x.setA r v).dbgCause = x.dbgCause := rfl
@[simp] theorem Thread.setA_stepping (x : Thread) (r : Reg) (v : DWord) : (x.setA r v).stepping = x.stepping := rfl
@[simp] theorem Thread.setA_owed (x : Thread) (r : Reg) (v : DWord) : (x.setA r v).owed = x.owed := rfl
@[simp] theorem Thread.setA_relScope (x : Thread) (r : Reg) (v : DWord) : (x.setA r v).relScope = x.relScope := rfl
@[simp] theorem Thread.setA_pair (x : Thread) (r : Reg) (v : DWord) : (x.setA r v).pair = x.pair := rfl

/-! ## `Thread.setV` changes `v` only -/

@[simp] theorem Thread.setV_run (x : Thread) (r : Reg) (v : VWord) : (x.setV r v).run = x.run := rfl
@[simp] theorem Thread.setV_blk (x : Thread) (r : Reg) (v : VWord) : (x.setV r v).blk = x.blk := rfl
@[simp] theorem Thread.setV_slv (x : Thread) (r : Reg) (v : VWord) : (x.setV r v).slv = x.slv := rfl
@[simp] theorem Thread.setV_pc (x : Thread) (r : Reg) (v : VWord) : (x.setV r v).pc = x.pc := rfl
@[simp] theorem Thread.setV_st (x : Thread) (r : Reg) (v : VWord) : (x.setV r v).st = x.st := rfl
@[simp] theorem Thread.setV_d (x : Thread) (r : Reg) (v : VWord) : (x.setV r v).d = x.d := rfl
@[simp] theorem Thread.setV_a (x : Thread) (r : Reg) (v : VWord) : (x.setV r v).a = x.a := rfl
@[simp] theorem Thread.setV_vpend (x : Thread) (r : Reg) (v : VWord) : (x.setV r v).vpend = x.vpend := rfl
@[simp] theorem Thread.setV_rcnt (x : Thread) (r : Reg) (v : VWord) : (x.setV r v).rcnt = x.rcnt := rfl
@[simp] theorem Thread.setV_rstart (x : Thread) (r : Reg) (v : VWord) : (x.setV r v).rstart = x.rstart := rfl
@[simp] theorem Thread.setV_rend (x : Thread) (r : Reg) (v : VWord) : (x.setV r v).rend = x.rend := rfl
@[simp] theorem Thread.setV_stgU (x : Thread) (r : Reg) (v : VWord) : (x.setV r v).stgU = x.stgU := rfl
@[simp] theorem Thread.setV_stgS (x : Thread) (r : Reg) (v : VWord) : (x.setV r v).stgS = x.stgS := rfl
@[simp] theorem Thread.setV_stgM (x : Thread) (r : Reg) (v : VWord) : (x.setV r v).stgM = x.stgM := rfl
@[simp] theorem Thread.setV_priv (x : Thread) (r : Reg) (v : VWord) : (x.setV r v).priv = x.priv := rfl
@[simp] theorem Thread.setV_sepc (x : Thread) (r : Reg) (v : VWord) : (x.setV r v).sepc = x.sepc := rfl
@[simp] theorem Thread.setV_mepc (x : Thread) (r : Reg) (v : VWord) : (x.setV r v).mepc = x.mepc := rfl
@[simp] theorem Thread.setV_sestat (x : Thread) (r : Reg) (v : VWord) : (x.setV r v).sestat = x.sestat := rfl
@[simp] theorem Thread.setV_mestat (x : Thread) (r : Reg) (v : VWord) : (x.setV r v).mestat = x.mestat := rfl
@[simp] theorem Thread.setV_sxc (x : Thread) (r : Reg) (v : VWord) : (x.setV r v).sxc = x.sxc := rfl
@[simp] theorem Thread.setV_mxc (x : Thread) (r : Reg) (v : VWord) : (x.setV r v).mxc = x.mxc := rfl
@[simp] theorem Thread.setV_sxa (x : Thread) (r : Reg) (v : VWord) : (x.setV r v).sxa = x.sxa := rfl
@[simp] theorem Thread.setV_mxa (x : Thread) (r : Reg) (v : VWord) : (x.setV r v).mxa = x.mxa := rfl
@[simp] theorem Thread.setV_sws (x : Thread) (r : Reg) (v : VWord) : (x.setV r v).sws = x.sws := rfl
@[simp] theorem Thread.setV_swm (x : Thread) (r : Reg) (v : VWord) : (x.setV r v).swm = x.swm := rfl
@[simp] theorem Thread.setV_sts (x : Thread) (r : Reg) (v : VWord) : (x.setV r v).sts = x.sts := rfl
@[simp] theorem Thread.setV_dlk (x : Thread) (r : Reg) (v : VWord) : (x.setV r v).dlk = x.dlk := rfl
@[simp] theorem Thread.setV_mcp (x : Thread) (r : Reg) (v : VWord) : (x.setV r v).mcp = x.mcp := rfl
@[simp] theorem Thread.setV_seovf (x : Thread) (r : Reg) (v : VWord) : (x.setV r v).seovf = x.seovf := rfl
@[simp] theorem Thread.setV_se (x : Thread) (r : Reg) (v : VWord) : (x.setV r v).se = x.se := rfl
@[simp] theorem Thread.setV_tmr (x : Thread) (r : Reg) (v : VWord) : (x.setV r v).tmr = x.tmr := rfl
@[simp] theorem Thread.setV_stex (x : Thread) (r : Reg) (v : VWord) : (x.setV r v).stex = x.stex := rfl
@[simp] theorem Thread.setV_cntStale (x : Thread) (r : Reg) (v : VWord) : (x.setV r v).cntStale = x.cntStale := rfl
@[simp] theorem Thread.setV_cntClosed (x : Thread) (r : Reg) (v : VWord) : (x.setV r v).cntClosed = x.cntClosed := rfl
@[simp] theorem Thread.setV_cntDropped (x : Thread) (r : Reg) (v : VWord) :
    (x.setV r v).cntDropped = x.cntDropped := rfl
@[simp] theorem Thread.setV_hold (x : Thread) (r : Reg) (v : VWord) : (x.setV r v).hold = x.hold := rfl
@[simp] theorem Thread.setV_wait (x : Thread) (r : Reg) (v : VWord) : (x.setV r v).wait = x.wait := rfl
@[simp] theorem Thread.setV_walk (x : Thread) (r : Reg) (v : VWord) : (x.setV r v).walk = x.walk := rfl
@[simp] theorem Thread.setV_moved (x : Thread) (r : Reg) (v : VWord) : (x.setV r v).moved = x.moved := rfl
@[simp] theorem Thread.setV_part (x : Thread) (r : Reg) (v : VWord) : (x.setV r v).part = x.part := rfl
@[simp] theorem Thread.setV_det (x : Thread) (r : Reg) (v : VWord) : (x.setV r v).det = x.det := rfl
@[simp] theorem Thread.setV_stopReq (x : Thread) (r : Reg) (v : VWord) : (x.setV r v).stopReq = x.stopReq := rfl
@[simp] theorem Thread.setV_haltReq (x : Thread) (r : Reg) (v : VWord) : (x.setV r v).haltReq = x.haltReq := rfl
@[simp] theorem Thread.setV_dbgCause (x : Thread) (r : Reg) (v : VWord) : (x.setV r v).dbgCause = x.dbgCause := rfl
@[simp] theorem Thread.setV_stepping (x : Thread) (r : Reg) (v : VWord) : (x.setV r v).stepping = x.stepping := rfl
@[simp] theorem Thread.setV_owed (x : Thread) (r : Reg) (v : VWord) : (x.setV r v).owed = x.owed := rfl
@[simp] theorem Thread.setV_relScope (x : Thread) (r : Reg) (v : VWord) : (x.setV r v).relScope = x.relScope := rfl
@[simp] theorem Thread.setV_pair (x : Thread) (r : Reg) (v : VWord) : (x.setV r v).pair = x.pair := rfl

/-! ## `Thread.pendV` changes `vpend` only -/

@[simp] theorem Thread.pendV_run (x : Thread) (r : Reg) (v : VWord) : (x.pendV r v).run = x.run := rfl
@[simp] theorem Thread.pendV_blk (x : Thread) (r : Reg) (v : VWord) : (x.pendV r v).blk = x.blk := rfl
@[simp] theorem Thread.pendV_slv (x : Thread) (r : Reg) (v : VWord) : (x.pendV r v).slv = x.slv := rfl
@[simp] theorem Thread.pendV_pc (x : Thread) (r : Reg) (v : VWord) : (x.pendV r v).pc = x.pc := rfl
@[simp] theorem Thread.pendV_st (x : Thread) (r : Reg) (v : VWord) : (x.pendV r v).st = x.st := rfl
@[simp] theorem Thread.pendV_d (x : Thread) (r : Reg) (v : VWord) : (x.pendV r v).d = x.d := rfl
@[simp] theorem Thread.pendV_a (x : Thread) (r : Reg) (v : VWord) : (x.pendV r v).a = x.a := rfl
@[simp] theorem Thread.pendV_v (x : Thread) (r : Reg) (v : VWord) : (x.pendV r v).v = x.v := rfl
@[simp] theorem Thread.pendV_rcnt (x : Thread) (r : Reg) (v : VWord) : (x.pendV r v).rcnt = x.rcnt := rfl
@[simp] theorem Thread.pendV_rstart (x : Thread) (r : Reg) (v : VWord) : (x.pendV r v).rstart = x.rstart := rfl
@[simp] theorem Thread.pendV_rend (x : Thread) (r : Reg) (v : VWord) : (x.pendV r v).rend = x.rend := rfl
@[simp] theorem Thread.pendV_stgU (x : Thread) (r : Reg) (v : VWord) : (x.pendV r v).stgU = x.stgU := rfl
@[simp] theorem Thread.pendV_stgS (x : Thread) (r : Reg) (v : VWord) : (x.pendV r v).stgS = x.stgS := rfl
@[simp] theorem Thread.pendV_stgM (x : Thread) (r : Reg) (v : VWord) : (x.pendV r v).stgM = x.stgM := rfl
@[simp] theorem Thread.pendV_priv (x : Thread) (r : Reg) (v : VWord) : (x.pendV r v).priv = x.priv := rfl
@[simp] theorem Thread.pendV_sepc (x : Thread) (r : Reg) (v : VWord) : (x.pendV r v).sepc = x.sepc := rfl
@[simp] theorem Thread.pendV_mepc (x : Thread) (r : Reg) (v : VWord) : (x.pendV r v).mepc = x.mepc := rfl
@[simp] theorem Thread.pendV_sestat (x : Thread) (r : Reg) (v : VWord) : (x.pendV r v).sestat = x.sestat := rfl
@[simp] theorem Thread.pendV_mestat (x : Thread) (r : Reg) (v : VWord) : (x.pendV r v).mestat = x.mestat := rfl
@[simp] theorem Thread.pendV_sxc (x : Thread) (r : Reg) (v : VWord) : (x.pendV r v).sxc = x.sxc := rfl
@[simp] theorem Thread.pendV_mxc (x : Thread) (r : Reg) (v : VWord) : (x.pendV r v).mxc = x.mxc := rfl
@[simp] theorem Thread.pendV_sxa (x : Thread) (r : Reg) (v : VWord) : (x.pendV r v).sxa = x.sxa := rfl
@[simp] theorem Thread.pendV_mxa (x : Thread) (r : Reg) (v : VWord) : (x.pendV r v).mxa = x.mxa := rfl
@[simp] theorem Thread.pendV_sws (x : Thread) (r : Reg) (v : VWord) : (x.pendV r v).sws = x.sws := rfl
@[simp] theorem Thread.pendV_swm (x : Thread) (r : Reg) (v : VWord) : (x.pendV r v).swm = x.swm := rfl
@[simp] theorem Thread.pendV_sts (x : Thread) (r : Reg) (v : VWord) : (x.pendV r v).sts = x.sts := rfl
@[simp] theorem Thread.pendV_dlk (x : Thread) (r : Reg) (v : VWord) : (x.pendV r v).dlk = x.dlk := rfl
@[simp] theorem Thread.pendV_mcp (x : Thread) (r : Reg) (v : VWord) : (x.pendV r v).mcp = x.mcp := rfl
@[simp] theorem Thread.pendV_seovf (x : Thread) (r : Reg) (v : VWord) : (x.pendV r v).seovf = x.seovf := rfl
@[simp] theorem Thread.pendV_se (x : Thread) (r : Reg) (v : VWord) : (x.pendV r v).se = x.se := rfl
@[simp] theorem Thread.pendV_tmr (x : Thread) (r : Reg) (v : VWord) : (x.pendV r v).tmr = x.tmr := rfl
@[simp] theorem Thread.pendV_stex (x : Thread) (r : Reg) (v : VWord) : (x.pendV r v).stex = x.stex := rfl
@[simp] theorem Thread.pendV_cntStale (x : Thread) (r : Reg) (v : VWord) : (x.pendV r v).cntStale = x.cntStale := rfl
@[simp] theorem Thread.pendV_cntClosed (x : Thread) (r : Reg) (v : VWord) :
    (x.pendV r v).cntClosed = x.cntClosed := rfl
@[simp] theorem Thread.pendV_cntDropped (x : Thread) (r : Reg) (v : VWord) :
    (x.pendV r v).cntDropped = x.cntDropped := rfl
@[simp] theorem Thread.pendV_hold (x : Thread) (r : Reg) (v : VWord) : (x.pendV r v).hold = x.hold := rfl
@[simp] theorem Thread.pendV_wait (x : Thread) (r : Reg) (v : VWord) : (x.pendV r v).wait = x.wait := rfl
@[simp] theorem Thread.pendV_walk (x : Thread) (r : Reg) (v : VWord) : (x.pendV r v).walk = x.walk := rfl
@[simp] theorem Thread.pendV_moved (x : Thread) (r : Reg) (v : VWord) : (x.pendV r v).moved = x.moved := rfl
@[simp] theorem Thread.pendV_part (x : Thread) (r : Reg) (v : VWord) : (x.pendV r v).part = x.part := rfl
@[simp] theorem Thread.pendV_det (x : Thread) (r : Reg) (v : VWord) : (x.pendV r v).det = x.det := rfl
@[simp] theorem Thread.pendV_stopReq (x : Thread) (r : Reg) (v : VWord) : (x.pendV r v).stopReq = x.stopReq := rfl
@[simp] theorem Thread.pendV_haltReq (x : Thread) (r : Reg) (v : VWord) : (x.pendV r v).haltReq = x.haltReq := rfl
@[simp] theorem Thread.pendV_dbgCause (x : Thread) (r : Reg) (v : VWord) : (x.pendV r v).dbgCause = x.dbgCause := rfl
@[simp] theorem Thread.pendV_stepping (x : Thread) (r : Reg) (v : VWord) : (x.pendV r v).stepping = x.stepping := rfl
@[simp] theorem Thread.pendV_owed (x : Thread) (r : Reg) (v : VWord) : (x.pendV r v).owed = x.owed := rfl
@[simp] theorem Thread.pendV_relScope (x : Thread) (r : Reg) (v : VWord) : (x.pendV r v).relScope = x.relScope := rfl
@[simp] theorem Thread.pendV_pair (x : Thread) (r : Reg) (v : VWord) : (x.pendV r v).pair = x.pair := rfl

/-! ## A block read after an update -/

theorem toNat_eq_iff {n : Nat} (a b : BitVec n) : a.toNat = b.toNat ↔ a = b := ⟨BitVec.eq_of_toNat_eq, fun h => h ▸ rfl⟩

theorem State.tile_modTile (s : State) (t u : TileId) (f : Tile → Tile) :
    (s.modTile t f).tile u = if u = t then f (s.tile t) else s.tile u := by
  simp [State.tile, State.modTile, SMap.get_modify, toNat_eq_iff]
theorem Tile.th_modTh (tl : Tile) (h k : Thr) (f : Thread → Thread) :
    (tl.modTh h f).th k = if k = h then f (tl.th h) else tl.th k := by
  simp [Tile.th, Tile.modTh, SMap.get_modify, toNat_eq_iff]
theorem State.cob_modCob (s : State) (c d : CobNo) (f : Cob → Cob) :
    (s.modCob c f).cob d = if d = c then f (s.cob c) else s.cob d := by
  simp [State.cob, State.modCob, SMap.get_modify, toNat_eq_iff]
theorem State.func_modFunc (s : State) (a b : FuncNo) (f : Func → Func) :
    (s.modFunc a f).func b = if b = a then f (s.func a) else s.func b := by
  simp [State.func, State.modFunc, SMap.get_modify, toNat_eq_iff]
theorem State.port_modPort (s : State) (a b : PortNo) (f : Port → Port) :
    (s.modPort a f).port b = if b = a then f (s.port a) else s.port b := by
  simp [State.port, State.modPort, SMap.get_modify, toNat_eq_iff]
theorem State.slice_modSlice (s : State) (a b : Nat) (f : Slice → Slice) :
    (s.modSlice a f).slice b = if b = a then f (s.slice a) else s.slice b := by
  simp [State.slice, State.modSlice, SMap.get_modify]
theorem State.link_modLink (s : State) (a b : DLink) (f : DieLnk → DieLnk) :
    (s.modLink a f).link b = if b = a then f (s.link a) else s.link b := by
  simp [State.link, State.modLink, SMap.get_modify, toNat_eq_iff]
theorem Tile.queue_modQueue (tl : Tile) (a b : QIx) (f : Queue → Queue) :
    (tl.modQueue a f).queue b = if b = a then f (tl.queue a) else tl.queue b := by
  simp [Tile.queue, Tile.modQueue, SMap.get_modify, toNat_eq_iff]
theorem Tile.reg_modReg (tl : Tile) (a b : Reg) (f : TileReg → TileReg) :
    (tl.modReg a f).reg b = if b = a then f (tl.reg a) else tl.reg b := by
  simp [Tile.reg, Tile.modReg, SMap.get_modify, toNat_eq_iff]
theorem Thread.getD_setD (x : Thread) (r q : Reg) (v : Word) :
    (x.setD r v).getD q = if q = r then v else x.getD q := by
  simp [Thread.getD, Thread.setD, SMap.get_set, toNat_eq_iff]
theorem Thread.getA_setA (x : Thread) (r q : Reg) (v : DWord) :
    (x.setA r v).getA q = if q = r then v else x.getA q := by
  simp [Thread.getA, Thread.setA, SMap.get_set, toNat_eq_iff]
theorem Thread.getV_setV (x : Thread) (r q : Reg) (v : VWord) :
    (x.setV r v).getV q = if q = r then v else x.getV q := by
  simp [Thread.getV, Thread.setV, SMap.get_set, toNat_eq_iff]

@[simp] theorem State.tile_modTile_self (s : State) (t : TileId) (f : Tile → Tile) :
    (s.modTile t f).tile t = f (s.tile t) := by simp [State.tile_modTile]
@[simp] theorem Tile.th_modTh_self (tl : Tile) (h : Thr) (f : Thread → Thread) :
    (tl.modTh h f).th h = f (tl.th h) := by simp [Tile.th_modTh]
@[simp] theorem State.cob_modCob_self (s : State) (c : CobNo) (f : Cob → Cob) :
    (s.modCob c f).cob c = f (s.cob c) := by simp [State.cob_modCob]
@[simp] theorem State.func_modFunc_self (s : State) (a : FuncNo) (f : Func → Func) :
    (s.modFunc a f).func a = f (s.func a) := by simp [State.func_modFunc]
@[simp] theorem State.port_modPort_self (s : State) (a : PortNo) (f : Port → Port) :
    (s.modPort a f).port a = f (s.port a) := by simp [State.port_modPort]
@[simp] theorem Tile.queue_modQueue_self (tl : Tile) (a : QIx) (f : Queue → Queue) :
    (tl.modQueue a f).queue a = f (tl.queue a) := by simp [Tile.queue_modQueue]
@[simp] theorem Tile.reg_modReg_self (tl : Tile) (a : Reg) (f : TileReg → TileReg) :
    (tl.modReg a f).reg a = f (tl.reg a) := by simp [Tile.reg_modReg]
@[simp] theorem Thread.getD_setD_self (x : Thread) (r : Reg) (v : Word) : (x.setD r v).getD r = v := by
  simp [Thread.getD_setD]
@[simp] theorem Thread.getA_setA_self (x : Thread) (r : Reg) (v : DWord) : (x.setA r v).getA r = v := by
  simp [Thread.getA_setA]
@[simp] theorem Thread.getV_setV_self (x : Thread) (r : Reg) (v : VWord) : (x.setV r v).getV r = v := by
  simp [Thread.getV_setV]

end Sys2Proof.Machine
end

