-- ==== Sys2Proof/Laws/Issue.lean ====
section
/-! SUPPORT. What the issue and the completion of an instruction can do. -/
namespace Sys2Proof.Machine

open Sys2Proof.Safety

/-- A ready thread passes the gate. -/
theorem State.gate_of_ready {s : State} {t : TileId} {h : Thr} {len : Nat} (r : Ready s t h len) :
    s.gate t h len = .run := by
  obtain ⟨h1, h2, h3, h8, h9, h4, h5, h6, h7⟩ := r
  simp only [State.th] at h4 h5 h7
  simp [State.gate, State.slotNow, h1, h2, h3, h4, h5, h6, h7, h8, h9]

/-- The issue of a ready thread is the instruction's own effect. -/
theorem issue_of_ready {s : State} {t : TileId} {h : Thr} {len : Nat} (r : Ready s t h len) (f : State → State) :
    issue t h len f s = f s := by
  have h1 : s.slotNow t h = true := by simp [State.slotNow, r.2.2.2.1, r.2.2.2.2.1]
  have h2 : s.toSlot t h = s := by simp [State.toSlot, h1]
  simp [issue, h2, State.gate_of_ready r]

@[simp] theorem Tile.pm_thr (tl : Tile) (c n : Nat) : (tl.pm c n).thr = tl.thr := by unfold Tile.pm; split <;> rfl
@[simp] theorem Tile.touch_thr (tl : Tile) : tl.touch.thr = tl.thr := by unfold Tile.touch; split <;> rfl
@[simp] theorem Tile.spend_thr (tl : Tile) : tl.spend.thr = tl.thr := rfl
@[simp] theorem Tile.spend_th (tl : Tile) (k : Thr) : tl.spend.th k = tl.th k := rfl
@[simp] theorem Tile.issued_thr (tl : Tile) (h : Thr) : (tl.issued h).thr = tl.thr := by simp [Tile.issued]
@[simp] theorem Tile.issued_th (tl : Tile) (h k : Thr) : (tl.issued h).th k = tl.th k := by simp [Tile.th]

@[simp] theorem still_pm (tl : Tile) (c n : Nat) : still (tl.pm c n) = still tl := by unfold Tile.pm; split <;> rfl
@[simp] theorem still_touch (tl : Tile) : still tl.touch = still tl := by unfold Tile.touch; split <;> rfl
@[simp] theorem still_spend (tl : Tile) : still tl.spend = still tl := rfl
@[simp] theorem still_issued (tl : Tile) (h : Thr) : still (tl.issued h) = still tl := by simp [Tile.issued]
@[simp] theorem still_modTh (tl : Tile) (h : Thr) (f : Thread → Thread) : still (tl.modTh h f) = still tl := rfl

theorem State.onlyTile_modTile (s : State) (t : TileId) (f : Tile → Tile) : OnlyTile s (s.modTile t f) t :=
  ⟨rfl, fun r hr => by simp [State.tile_modTile, hr]⟩

theorem State.onlyTile_refl (s : State) (t : TileId) : OnlyTile s s t := ⟨rfl, fun _ _ => rfl⟩

theorem OnlyTile.trans {s u w : State} {t : TileId} (a : OnlyTile s u t) (b : OnlyTile u w t) : OnlyTile s w t := by
  obtain ⟨a1, a2⟩ := a
  obtain ⟨b1, b2⟩ := b
  refine ⟨?_, fun r hr => (b2 r hr).trans (a2 r hr)⟩
  rw [a1] at b1; exact b1

/-- The end of an instruction's slot: its thread's new state, and nothing else of the part but the counters. -/
theorem State.finish_retires {i : Instr} {s : State} {t : TileId} {h : Thr} {f : Thread → Thread}
    (e : exec i s = .next (s.finish t h f)) : Retires i s t h (f (s.th t h)) := by
  refine ⟨_, e, State.onlyTile_modTile _ _ _, ?_, fun k hk => ?_, ?_⟩
  · simp [State.finish, State.th]
  · simp [State.finish, State.th, Tile.th_modTh, hk]
  · simp [State.finish]

/-- The end of the slot of an instruction that has changed its tile to `g` of it: the same, with the tile's other blocks
and threads as `g` leaves them. -/
theorem State.finish_retiresAs {i : Instr} {s : State} {t : TileId} {h : Thr} {g : Tile → Tile} {f : Thread → Thread}
    (e : exec i s = .next ((s.modTile t g).finish t h f))
    (hss : ((g (s.tile t)).th h).st.ss = (s.th t h).st.ss) :
    RetiresAs i s t h (g (s.tile t)) (f ((g (s.tile t)).th h)) := by
  refine ⟨_, e, OnlyTile.trans (State.onlyTile_modTile _ _ _) (State.onlyTile_modTile _ _ _), ?_, fun k hk => ?_, ?_⟩
  · rw [← hss]; simp [State.finish, State.th, State.debug]
  · simp [State.finish, State.th, Tile.th_modTh, hk]
  · simp [State.finish]

end Sys2Proof.Machine
end

