-- ==== Sys2Proof/Laws/Exceptions.lean ====
section
/-! SUPPORT. What an exception, a blocked instruction and a stall can do. -/
namespace Sys2Proof.Machine

open Sys2Proof.Safety

/-- The handler entry of a thread of a tile, as `entered` of the statements gives it. -/
theorem Tile.enter_th (tl : Tile) (h : Thr) (toM : Bool) (c : BitVec 5) (ret : PWord) (d : BitVec 4) (va : VAddr) :
    (tl.enter h toM c ret (tl.th h).pc d va true).th h = entered tl h toM c ret d va := by
  cases toM <;> simp [Tile.enter, entered, vectorOf]

theorem Tile.enter_th_ne (tl : Tile) (h k : Thr) (hk : k ≠ h) (toM : Bool) (c : BitVec 5) (ret ipc : PWord) (d : BitVec 4)
    (va : VAddr) (save : Bool) : (tl.enter h toM c ret ipc d va save).th k = tl.th k := by
  simp [Tile.enter, Tile.th_modTh, hk]

theorem still_enter (tl : Tile) (h : Thr) (toM : Bool) (c : BitVec 5) (ret ipc : PWord) (d : BitVec 4) (va : VAddr)
    (save : Bool) : still (tl.enter h toM c ret ipc d va save) = still tl := by
  simp [Tile.enter]

@[simp] theorem Tile.issued_pmem (tl : Tile) (h : Thr) : (tl.issued h).pmem = tl.pmem :=
  (congrArg Tile.pmem (still_issued tl h) : _)
@[simp] theorem Tile.issued_pbad (tl : Tile) (h : Thr) : (tl.issued h).pbad = tl.pbad :=
  (congrArg Tile.pbad (still_issued tl h) : _)
@[simp] theorem Tile.issued_mvbase (tl : Tile) (h : Thr) : (tl.issued h).mvbase = tl.mvbase :=
  (congrArg Tile.mvbase (still_issued tl h) : _)
@[simp] theorem Tile.issued_svbase (tl : Tile) (h : Thr) : (tl.issued h).svbase = tl.svbase :=
  (congrArg Tile.svbase (still_issued tl h) : _)

theorem entered_issued (tl : Tile) (h : Thr) (toM : Bool) (c : BitVec 5) (ret : PWord) (d : BitVec 4) (va : VAddr) :
    entered (tl.issued h) h toM c ret d va = entered tl h toM c ret d va := by
  simp [entered, vectorOf]

/-- A synchronous exception whose table word is good: the handler entry of R356, and nothing else of the part but the
counters. -/
theorem State.raise_takes {i : Instr} {s : State} {t : TileId} {h : Thr} {c : BitVec 5} {d : BitVec 4} {va : VAddr}
    (e : exec i s = .next (s.raise t h c d va)) (g : VectorsGood (s.tile t) c) : Takes i s t h c (s.th t h).pc d va := by
  have hb : SMap.get false (s.tile t).pbad (vectorOf (s.tile t) (decide ((s.th t h).st.pl ≠ 1)) c).toNat = false := g _
  have hx : ((s.tile t).issued h).th h = (s.tile t).th h := by simp
  refine ⟨_, e, ?_, ?_, fun k hk => ?_, ?_⟩
  all_goals unfold State.raise State.enter State.enterThen
  all_goals simp only [State.tile_modTile, if_true, Tile.vectorBad, Tile.issued_pbad, Tile.issued_mvbase, Tile.issued_svbase]
  all_goals rw [if_neg (by simpa [vectorOf] using hb)]
  · exact OnlyTile.trans (State.onlyTile_modTile _ _ _) (State.onlyTile_modTile _ _ _)
  · have := Tile.enter_th ((s.tile t).issued h) h (decide ((s.th t h).st.pl ≠ 1)) c (s.th t h).pc d va
    rw [hx] at this
    simp [State.th, State.debug, entered_issued] at this ⊢
    simp [this]
  · simp [State.th, Tile.th_modTh, hk, Tile.enter_th_ne]
  · simp [still_enter]

/-- A blocked instruction changes its thread's run state and nothing else. -/
theorem State.block_onlyThread (s : State) (t : TileId) (h : Thr) (b : BlockOp) :
    OnlyThread s (s.block t h b) t h ∧ (s.block t h b).th t h = blockedIn (s.th t h) b := by
  refine ⟨⟨State.onlyTile_modTile _ _ _, ?_, fun k hk => ?_⟩, ?_⟩
  · simp [State.block]
  · simp [State.block, State.th, Tile.th_modTh, hk]
  · simp [State.block, State.th, blockedIn]

end Sys2Proof.Machine
end

