-- ==== Sys2Proof/Laws/LocalMemory.lean ====
section
/-! SUPPORT. What a write of local memory can do. -/
namespace Sys2Proof.Machine

open Sys2Proof.Safety

/-- A masked write changes exactly the bytes that its mask names. -/
theorem Memory.byte_setMasked (m : Memory) (a x : Nat) (l : List (Option Byte)) :
    (m.setMasked a l).byte x = if a ≤ x then ((l.getD (x - a) none).getD (m.byte x)) else m.byte x := by
  induction l generalizing m a with
  | nil => simp [Memory.setMasked]
  | cons b r ih =>
    by_cases hx : a ≤ x
    · obtain h | h := Nat.eq_or_lt_of_le hx
      · subst h
        cases b <;> simp [Memory.setMasked, ih, Memory.byte_setByte]
      · have e : x - a = (x - (a + 1)) + 1 := by omega
        cases b <;> simp [Memory.setMasked, ih, Memory.byte_setByte, hx, e, Nat.succ_le_of_lt h, Nat.ne_of_gt h]
    · have h1 : ¬a + 1 ≤ x := by omega
      have h2 : ¬x = a := by omega
      cases b <;> simp [Memory.setMasked, ih, Memory.byte_setByte, hx, h1, h2]

theorem Memory.wf_setMasked (m : Memory) (a : Nat) (l : List (Option Byte)) (h : m.wf = true) : (m.setMasked a l).wf = true := by
  induction l generalizing m a with
  | nil => exact h
  | cons b r ih => cases b with
    | none => exact ih _ _ h
    | some b => exact ih _ _ (Memory.wf_setByte _ _ _ h)

theorem Tile.lmem_corrected (tl : Tile) (src w : Nat) : (tl.corrected src w).lmem = tl.lmem := by
  unfold Tile.corrected Tile.errRecord; split <;> rfl

/-- Correcting single-bit errors leaves every byte (R177). -/
@[simp] theorem Tile.lmem_fixWords (tl : Tile) (src : Nat) (ws : List (Nat × Bool)) : (tl.fixWords src ws).lmem = tl.lmem := by
  unfold Tile.fixWords
  induction ws generalizing tl with
  | nil => rfl
  | cons p r ih => rw [List.foldl_cons, ih]; split <;> simp [Tile.lmem_corrected]

@[simp] theorem Tile.thr_fixWords (tl : Tile) (src : Nat) (ws : List (Nat × Bool)) : (tl.fixWords src ws).thr = tl.thr := by
  unfold Tile.fixWords
  induction ws generalizing tl with
  | nil => rfl
  | cons p r ih =>
    rw [List.foldl_cons, ih]
    split
    · rfl
    · unfold Tile.corrected Tile.errRecord; split <;> rfl

@[simp] theorem Tile.thr_lmWrite (tl : Tile) (src off : Nat) (bs : List (Option Byte)) : (tl.lmWrite src off bs).thr = tl.thr := by
  simp [Tile.lmWrite]

@[simp] theorem Tile.lmem_lmWrite (tl : Tile) (src off : Nat) (bs : List (Option Byte)) :
    (tl.lmWrite src off bs).lmem = tl.lmem.setMasked off bs := by simp [Tile.lmWrite]

/-- A write of local memory keeps its canonical form. -/
theorem Tile.wf_lmWrite (tl : Tile) (src off : Nat) (bs : List (Option Byte)) (h : Memory.wf tl.lmem = true) :
    Memory.wf (tl.lmWrite src off bs).lmem = true := by
  rw [Tile.lmem_lmWrite]; exact Memory.wf_setMasked _ _ _ h

/-- A write of whole bytes changes exactly them. -/
theorem Tile.wrote_lmWrite (tl : Tile) (src off : Nat) (bs : List Byte) : Wrote tl (tl.lmWrite src off (bs.map some)) off bs := by
  intro b
  rw [Tile.lmem_lmWrite, Memory.byte_setMasked]
  by_cases h : off ≤ b
  · by_cases k : b < off + bs.length
    · have : b - off < bs.length := by omega
      simp [h, k, this]
    · have : ¬b - off < bs.length := by omega
      simp [h, k]
      rw [List.getElem?_eq_none (by omega)]
      rfl
  · simp [h]

end Sys2Proof.Machine
end

