-- ==== Sys2Proof/Tests/Slice0.lean ====
section
/-! SUPPORT. The model's own tests: ill-formed commands that the check refuses, words written out from the spec's
tables, single steps on small states, and for every statement with hypotheses a state that meets them. -/
namespace Sys2Proof.Tests

open Sys2Proof.Machine Sys2Proof.Safety

set_option Elab.async false

/-! ## Well-formedness (R90, R523) -/

theorem test_wf_special : WellFormed (.mfs 0 0 1 0x07) = true ∧ WellFormed (.mfs 0 0 1 0x08) = false ∧
    WellFormed (.mts 0 0 1 0x12) = true ∧ WellFormed (.mts 0 0 1 0x13) = false := by decide
theorem test_wf_string_mode : WellFormed (.smov 0 0 1 2 false .b8 3) = true ∧ WellFormed (.smov 0 0 1 2 true .b8 3) = false ∧
    WellFormed (.sfil 0 0 1 2 true .b8 3) = false ∧ WellFormed (.sscn 0 0 1 2 true .b8 3) = true := by decide
theorem test_wf_seed_run : WellFormed (.brd 0 0 1 0x1FE0) = true ∧ WellFormed (.brd 0 0 1 0x1FE1) = false ∧
    WellFormed (.bwr 0 0 1 0x10) = false := by decide
theorem test_wf_lane : WellFormed (.vext 0 0 1 2 15 .fp32) = true ∧ WellFormed (.vext 0 0 1 2 16 .fp32) = false ∧
    WellFormed (.vext 0 0 1 2 31 .bf16) = true ∧ WellFormed (.vext 0 0 1 2 16 .int32) = false := by decide
theorem test_wf_type : WellFormed (.vexp 0 0 1 2 none .int32) = false ∧ WellFormed (.vrcp 0 0 1 2 none .int32) = false ∧
    WellFormed (.vroute 0 0 1 2 3 0 .int32) = false ∧ WellFormed (.vand 0 0 1 2 3 none .fp32) = false ∧
    WellFormed (.vor 0 0 1 2 3 none .bf16) = false ∧ WellFormed (.vxor 0 0 1 2 3 none .fp16) = false ∧
    WellFormed (.vxor 0 0 1 2 3 none .int32) = true := by decide
theorem test_wf_mask : WellFormed (.vsel 0 0 1 2 3 none .fp32) = false ∧ WellFormed (.vcmp 0 0 .eq 1 2 none .fp32) = false ∧
    WellFormed (.vsel 0 0 1 2 3 (some 0) .fp32) = true := by decide
theorem test_wf_even : WellFormed (.vxs 0 0 6 1 2 3 none .fp32) = true ∧ WellFormed (.vxs 0 0 7 1 2 3 none .fp32) = false := by
  decide
theorem test_wf_matrix : WellFormed (.mma 0 0 2 0 1 .dense 1 .e4e4) = false ∧ WellFormed (.mmaz 0 0 2 0 1 .dense 1 .e4e4) = false ∧
    WellFormed (.mmas 0 0 2 0 1 .dense .e4e4 0) = false ∧ WellFormed (.mmas 0 0 2 0 1 .s24 .e4e4 8) = false ∧
    WellFormed (.mmas 0 0 2 0 1 .s14 .e4e4 32) = true := by decide
theorem test_wf_reserved : WellFormed (.reservedEncoding 0 0 0) = false := by decide
theorem test_wf_link : WellFormed (.dieLinkFrame 53 true [] [] []) = true ∧ WellFormed (.dieLinkFrame 54 true [] [] []) = false ∧
    WellFormed (.dieLinkReplay 54 true) = false ∧ WellFormed (.dieLinkRetrain 54) = false ∧
    WellFormed (.dieLinkRetrainEnd 63 true) = false := by decide

/-! ## Words written out from the opcode map: MAJ, MIN, X, Y and the layouts (R64–R84) -/

/-- R72: majors 0x0; NOP, STOP, MFS D3 of index 0x10 and MTS of index 0x02 from D5. -/
theorem test_decode_control :
    decodeInstr 0 0 0b0000_0001_000_000 0 0 = some (.nop 0 0) ∧ decodeInstr 0 0 0b0000_0010_000_000 0 0 = some (.stop 0 0) ∧
    decodeInstr 0 0 0b0000_0011_000_000 0 0 = some (.lift 0 0) ∧ decodeInstr 0 0 0b0000_0110_000_000 0 0 = some (.rtnm 0 0) ∧
    decodeInstr 0 0 0b0000_0111_011_000 0b000000_00010000 0 = some (.mfs 0 0 3 0x10) ∧
    decodeInstr 0 0 0b0000_1000_000_101 0b000000_00000010 0 = some (.mts 0 0 5 2) := by decide
/-- R73: ADD D1, D2 and MOV D7, D0; R74: CMPI D4, -1 and LDI D2 with bit 31 set, so MIN is 0xF. -/
theorem test_decode_integer :
    decodeInstr 0 0 0b0001_0000_001_010 0 0 = some (.add 0 0 1 2) ∧ decodeInstr 0 0 0b0001_1010_111_000 0 0 = some (.mov 0 0 7 0) ∧
    decodeInstr 0 0 0b0010_0010_000_100 0x3FFF 0 = some (.cmpi 0 0 4 0x3FFF) ∧
    decodeInstr 0 0 0b0010_1111_010_001 0b00000000000000 0b00000000000011 = some (.ldi 0 0 2 0x90000003) := by decide
/-- R75: LAH A1 with bits [19:14] in word 1, LD D1 from A2 with displacement -1, ZLINE at A3. -/
theorem test_decode_address :
    decodeInstr 0 0 0b0011_0011_001_000 0b00000000_000001 0b00000000000010 = some (.lah 0 0 1 0x4002) ∧
    decodeInstr 0 0 0b0011_0100_001_010 0x3FFF 0 = some (.ld 0 0 1 2 0x3FFF) ∧
    decodeInstr 0 0 0b0011_1000_000_011 0 0 = some (.zline 0 0 3 0) ∧ decodeInstr 0 0 0b0011_1000_001_011 0 0 = none := by decide
/-- R76: BR LT, CALL D6, JR D2, REP D3, SMOV A1 from A2 of 64-bit elements counted by D4. -/
theorem test_decode_flow :
    decodeInstr 0 0 0b0100_0000_011_000 5 0 = some (.br 0 0 .lt 5) ∧ decodeInstr 0 0 0b0100_0001_110_000 9 0 = some (.call 0 0 6 9) ∧
    decodeInstr 0 0 0b0100_0010_000_010 0 0 = some (.jr 0 0 2) ∧ decodeInstr 0 0 0b0100_0011_000_011 7 0 = some (.rep 0 0 3 7) ∧
    decodeInstr 0 0 0b0100_0100_001_010 0b00000000_0_11_100 0 = some (.smov 0 0 1 2 false .b64 4) := by decide
/-- R77: BPUT of 1 at seed address 0x200, BAND with the source inverted, BRD D1 at 0x1F20. -/
theorem test_decode_seed :
    decodeInstr 0 0 0b0101_0000_000_000 0b1_0001000000000 0 = some (.bput 0 0 true 0x200) ∧
    decodeInstr 0 0 0b0101_0010_000_000 0b0_0000000000011 0b1_0000000000100 = some (.band 0 0 3 true 4) ∧
    decodeInstr 0 0 0b0101_0111_001_000 0b0_1111100100000 0 = some (.brd 0 0 1 0x1F20) := by decide
/-- R78, R79: VLD masked at seed 0x40 of FP16 lanes, VEXT lane 5, VXS V2 from V3 with D1 and A4, VFMA V1, V2, V3 INT32. -/
theorem test_decode_vector :
    decodeInstr 0 0 0b0110_0000_001_010 0b1_000_00000010_01 3 = some (.vld 0 0 1 2 (some 2) .fp16 3) ∧
    decodeInstr 0 0 0b0110_0011_001_010 0b0000000_00101_00 0 = some (.vext 0 0 1 2 5 .fp32) ∧
    decodeInstr 0 0 0b0110_1000_010_011 0b0_001_100_00000_00 0 = some (.vxs 0 0 2 3 1 4 none .fp32) ∧
    decodeInstr 0 0 0b0111_0011_001_010 0b0_011_00000000_11 0 = some (.vfma 0 0 1 2 3 none .int32) := by decide
/-- R80, R81: TCFG T1 of 16 rows of 64 bytes, TRDV V2 of row 3 of T5, TSKIP by D3, MSCL T4 for B; MMAS 1:4. -/
theorem test_decode_tile :
    decodeInstr 0 0 0b1000_0000_001_000 0b001111_00001111 0 = some (.tcfg 0 0 1 0x0F0F) ∧
    decodeInstr 0 0 0b1000_0110_010_101 0b00000000_000011 0 = some (.trdv 0 0 2 5 3) ∧
    decodeInstr 0 0 0b1000_1010_000_011 0b1_0000000000001 0 = some (.tskip 0 0 3 true 1) ∧
    decodeInstr 0 0 0b1000_1011_100_001 0 0 = some (.mscl 0 0 4 true) ∧
    decodeInstr 0 0 0b1001_0010_010_000 0b001_10_000_00_0101 0b0_0000000100000 = some (.mmas 0 0 2 0 1 .s14 .int8 0x20) := by
  decide
/-- R82, R83: QCMT D1, D2; QRD V3 of queue 9; QARM D1, D2 of queue 4; REL system; ACQ scope 5 is reserved; CEQRY D6. -/
theorem test_decode_queue :
    decodeInstr 0 0 0b1010_0001_001_010 0 0 = some (.qcmt 0 0 1 2) ∧
    decodeInstr 0 0 0b1010_0100_011_000 0b0000000000_1001 0 = some (.qrd 0 0 3 9) ∧
    decodeInstr 0 0 0b1010_1000_001_010 0b0000000000_0100 0 = some (.qarm 0 0 1 2 4) ∧
    decodeInstr 0 0 0b1011_0000_000_100 0 0 = some (.rel 0 0 .system) ∧ decodeInstr 0 0 0b1011_0001_000_101 0 0 = none ∧
    decodeInstr 0 0 0b1011_0100_110_000 0 0 = some (.ceqry 0 0 6) := by decide
/-- The words that the spec's text writes out (R71, R74, R76, R78, R81, R90). -/
theorem test_decode_words :
    decodeInstr 0 0 0x0B88 0x0000 0x0028 = some (.ldi 0 0 1 40) ∧ decodeInstr 0 0 0x1166 0x0005 0 = some (.sscn 0 0 4 6 false .b8 5) ∧
    decodeInstr 0 0 0x2410 0x0AC0 0 = some (.mma 0 0 2 0 1 .s24 3 .e4e4) ∧
    decodeInstr 0 0 0x1A94 0x0C82 0 = some (.vroute 0 0 2 4 3 1 .bf16) ∧ decodeInstr 0 0 0 0 0 = none ∧
    decodeInstr 0 0 0x3FFF 0 0 = none := by decide
/-- The opcode table gives no bits: a table word spells no command and leaves the queue. -/
theorem test_table_word : decodeTableWord 16 0x0040 = none ∧ State.reset.withFetchWord 16 0x0040 = State.reset := ⟨rfl, rfl⟩

/-! ## Small states -/

/-- A running thread at S. -/
def thr : Thread := { run := .running, st := { pl := 2 } }
/-- A tile of function 0 with its local memory zeroed and thread 0 as given; its buffer takes the whole window. -/
def mkTile (x : Thread) : Tile := { func := some 0, zeroed := true, thr := [(0, x)], pbb := 0x40000000 }
/-- The part running, the north half and the memory interface of Cob 0 on, tile 0 as given. -/
def mkState (tl : Tile) : State :=
  { tiles := [(0, tl)], cobs := [(0, { north := .on, memif := .on })], funcs := [(0, { st := .running })]
    lands := { coldrst := true }, ld := { phase := 5 } }
/-- The part with one running thread as given. -/
def withThr (x : Thread) : State := mkState (mkTile x)
/-- The same in debug mode. -/
def inDebug (s : State) : State := { s with ld := { s.ld with debug := true } }
/-- The state after a command that answers a next state. -/
def after (i : Instr) (s : State) : State :=
  match exec i s with
  | .next u => u
  | _ => s
def base : State := withThr thr
def atU : Thread := { thr with st := { pl := 1 } }
def atM : Thread := { thr with st := { pl := 3 } }

theorem ready_1 : Ready base 0 0 1 := by unfold Ready; decide
theorem ready_2 : Ready base 0 0 2 := by unfold Ready; decide
theorem ready_3 : Ready base 0 0 3 := by unfold Ready; decide

/-! ## Single instructions (R97, R98, R118, R120) -/

def dRegs (a b : Word) : Thread := { thr with d := [(1, a), (2, b)] }
/-- Dd and the flags C and V after an instruction on D1 and D2. -/
def alu (i : Instr) (a b : Word) : Word × Bool × Bool :=
  let y := (after i (withThr (dRegs a b))).th 0 0
  (y.getD 1, y.st.c, y.st.v)

theorem test_add_wraps : alu (.add 0 0 1 2) 0xFFFFFFFF 1 = (0, true, false) := by decide
theorem test_add_overflow : alu (.add 0 0 1 2) 0x7FFFFFFF 1 = (0x80000000, false, true) := by decide
theorem test_add_same_register : alu (.add 0 0 1 1) 3 9 = (6, false, false) := by decide
theorem test_sub_no_borrow : alu (.sub 0 0 1 2) 5 5 = (0, true, false) := by decide
theorem test_sub_borrow : alu (.sub 0 0 1 2) 0 1 = (0xFFFFFFFF, false, false) := by decide
theorem test_shl_by_32 : alu (.shl 0 0 1 2) 1 32 = (0, true, false) := by decide
theorem test_shr_by_33 : alu (.shr 0 0 1 2) 0xFFFFFFFF 33 = (0, false, false) := by decide
theorem test_sar_by_40 : alu (.sar 0 0 1 2) 0x80000000 40 = (0xFFFFFFFF, true, false) := by decide
theorem test_mul_overflow : alu (.mul 0 0 1 2) 0x10000 0x10000 = (0, false, true) := by decide
theorem test_andi_clears_low : alu (.andi 0 0 1 2 0x3FFC) 0 7 = (4, false, false) := by decide
theorem test_ldi : alu (.ldi 0 0 1 40) 7 7 = (40, false, false) := by decide
theorem test_lah_keeps_low :
    ((after (.lah 0 0 1 0xABCDE) (withThr { thr with a := [(1, 0xFFFFFFFFF0000001)] })).th 0 0).getA 1 = 0x0000ABCDE0000001 := by
  decide
theorem test_call_links : let y := (after (.call 0 0 3 0x10) (withThr { thr with pc := 0x3FFF })).th 0 0
    y.pc = 0x000F ∧ y.getD 3 = 1 := by decide
theorem test_rep_begins : let y := (after (.rep 0 0 1 6) (withThr (dRegs 3 0))).th 0 0
    y.pc = 2 ∧ y.rcnt = 3 ∧ y.rstart = 2 ∧ y.rend = 6 ∧ y.st.rep = true := by decide
def repeatEnd : Thread := { thr with pc := 5, rcnt := 1, rstart := 2, rend := 6, st := { pl := 2, rep := true } }
theorem test_rep_ends : let y := (after (.nop 0 0) (withThr repeatEnd)).th 0 0
    y.pc = 6 ∧ y.rcnt = 0 ∧ y.st.rep = false := by decide
theorem test_lift_enters_s : let y := (after (.lift 0 0) (withThr { atU with pc := 8 })).th 0 0
    y.st.pl = 2 ∧ y.sepc = 9 ∧ y.pc = 0 ∧ y.sxc.extractLsb' 0 5 = (9 : BitVec 5) := by decide
theorem test_stop_discards : let y := (after (.stop 0 0) (withThr { thr with stgS := { count := 2 } })).th 0 0
    y.run = .stopped ∧ y.stgS.count = 0 ∧ y.pc = 1 := by decide
theorem test_store_bytes : let m := ((after (.st 0 0 1 1 1) (withThr { thr with d := [(1, 0x04030201)] })).tile 0).lmem
    m = [(4, 1), (5, 2), (6, 3), (7, 4)] := by decide
theorem test_sticky_cleared_by_zero :
    ((after (.bput 0 0 false 0x1F30) (mkState { mkTile thr with stale := 3 })).tile 0).stale = 2 := by decide
theorem test_sticky_not_set :
    ((after (.bput 0 0 true 0x1F30) base).tile 0).stale = 0 := by decide

/-! ## Witnesses: instructions -/

theorem witness_IntegerInstructions : Ready base 0 0 1 ∧ Ready base 0 0 2 ∧ Ready base 0 0 3 := ⟨ready_1, ready_2, ready_3⟩

/-- Index 7 at M, 4 and 2 at S, 0x10 and 0x12 at U, and a repeat outside debug mode. -/
theorem witness_AddressAndSpecialRegisters : Ready base 0 0 1 ∧ Ready base 0 0 3 ∧
    Ready (withThr atM) 0 0 2 ∧ (7 : BitVec 8).toNat ≤ 7 ∧ (3 : BitVec 2) ≤ ((withThr atM).th 0 0).st.pl ∧
    Ready base 0 0 2 ∧ (2 : BitVec 2) ≤ (base.th 0 0).st.pl ∧
    Ready (withThr atU) 0 0 2 ∧ (1 : BitVec 2) ≤ ((withThr atU).th 0 0).st.pl ∧
    0x10 ≤ (0x12 : BitVec 8).toNat ∧ (0x12 : BitVec 8).toNat ≤ 0x12 ∧ base.debug = false := by
  unfold Ready; decide

theorem witness_BranchInstructions : Ready base 0 0 1 ∧ Ready base 0 0 2 := ⟨ready_1, ready_2⟩

def repeating : Thread := { thr with st := { pl := 2, rep := true } }
theorem witness_BlockRepeat : Ready base 0 0 2 ∧ (base.th 0 0).st.rep = false ∧ (2 : PWord) ≠ 0 ∧ (2 : PWord) ≠ 1 ∧
    VectorsGood (base.tile 0) 4 ∧ Ready (withThr repeating) 0 0 2 ∧ VectorsGood ((withThr repeating).tile 0) 4 ∧
    ((withThr repeating).th 0 0).st.rep = true := by unfold Ready VectorsGood; decide

theorem witness_ThreadStops : Ready base 0 0 1 ∧ Ready (inDebug base) 0 0 1 ∧ (inDebug base).debug = true := by
  unfold Ready; decide

theorem witness_CoreTraps_levels : Ready base 0 0 1 ∧ VectorsGood (base.tile 0) 9 ∧ VectorsGood (base.tile 0) 10 ∧
    base.debug = false ∧ Ready (withThr atU) 0 0 1 ∧ VectorsGood ((withThr atU).tile 0) 3 ∧
    ((withThr atU).th 0 0).st.pl = 1 ∧ (base.th 0 0).st.pl ≠ 3 ∧ Ready (withThr atU) 0 0 2 ∧
    ((withThr atU).th 0 0).st.pl < 2 ∧ (base.th 0 0).st.pl < 3 := by unfold Ready VectorsGood; decide

def aReg (a : DWord) : State := withThr { thr with a := [(1, a)] }
/-- The first address past 48 bits, the last word above it that is misaligned, and the last word below 4 GiB, which no
region holds. -/
theorem witness_CoreTraps_addresses : Ready (aReg 0x1000000000000) 0 0 2 ∧ VectorsGood ((aReg 0x1000000000000).tile 0) 5 ∧
    2 ^ 48 ≤ (((aReg 0x1000000000000).th 0 0).getA 1 + (0 : BitVec 14).signExtend 64 * BitVec.ofNat 64 4).toNat ∧
    Ready (aReg 0xFFFFFFFFFFFE) 0 0 2 ∧ VectorsGood ((aReg 0xFFFFFFFFFFFE).tile 0) 6 ∧
    (((aReg 0xFFFFFFFFFFFE).th 0 0).getA 1 + (0 : BitVec 14).signExtend 64 * BitVec.ofNat 64 4).toNat < 2 ^ 48 ∧
    (0xFFFFFFFFFFFE : Nat) % 4 ≠ 0 ∧ Ready (aReg 0xFFFFFFFC) 0 0 2 ∧ VectorsGood ((aReg 0xFFFFFFFC).tile 0) 8 ∧
    (aReg 0xFFFFFFFC).resolveLocal 0 0xFFFFFFFC 4 false = none ∧ (aReg 0xFFFFFF00).resolveLocal 0 0xFFFFFF00 256 true = none := by
  unfold Ready VectorsGood; decide

/-- At U: a page of HBM and one of register space, the last bytes of each. -/
def reachU (a : DWord) : State := mkState { mkTile { atU with a := [(1, a)] } with
  tlb := [⟨0, 4, 0x100000, 0x1000, true, true⟩, ⟨0, 4, 0x100001, 0x3F0200000000, true, true⟩] }
theorem witness_CoreTraps_privilege : let s := reachU 0x100001FFF
    Ready s 0 0 2 ∧ VectorsGood (s.tile 0) 3 ∧ (s.th 0 0).st.pl = 1 ∧
      tlbFind (s.tile 0).tlb 0 0x100001FFF = some (⟨0, 4, 0x100001, 0x3F0200000000, true, true⟩,
        [⟨0, 4, 0x100001, 0x3F0200000000, true, true⟩, ⟨0, 4, 0x100000, 0x1000, true, true⟩]) ∧
      csrBlk ((⟨0, 4, 0x100001, 0x3F0200000000, true, true⟩ : Leaf).addr 0x100001FF8) ≠ none ∧
      (reachU 0x100000FFF).uCsr 0 0 0x100000FFF false = false := by unfold Ready VectorsGood; decide +kernel

def stringThr (a b : DWord) (n : Word) : Thread := { thr with a := [(1, a), (2, b)], d := [(3, n)] }
theorem witness_CoreTraps_strings : let s := withThr (stringThr 0x1000000000000 0 1)
    Ready s 0 0 2 ∧ (s.th 0 0).getD 3 ≠ 0 ∧ VectorsGood (s.tile 0) 4 ∧ VectorsGood (s.tile 0) 5 ∧
      2 ^ 48 ≤ ((s.th 0 0).getA 1).toNat := by unfold Ready VectorsGood; decide

def returning (pl : BitVec 2) (ss ms : Word) : State := withThr { thr with st := { pl := pl }, sestat := ss, mestat := ms }
def handlingState : State := { withThr atM with funcs := [(0, { st := .failed, handler := some (0, 0) })] }
theorem witness_Returns : Ready (returning 2 1 0) 0 0 1 ∧ ((returning 2 1 0).th 0 0).sestat.extractLsb' 0 2 = (1 : BitVec 2) ∧
    Ready (returning 3 3 1) 0 0 1 ∧ ((returning 3 3 1).th 0 0).sestat.extractLsb' 0 2 = (3 : BitVec 2) ∧
    ((returning 3 3 1).func 0).st ≠ .failed ∧ ((returning 3 3 1).th 0 0).mestat.extractLsb' 0 2 ≠ (0 : BitVec 2) ∧
    Ready (returning 2 3 0) 0 0 1 ∧ VectorsGood ((returning 2 3 0).tile 0) 1 ∧
    ((returning 2 3 0).th 0 0).sestat.extractLsb' 0 2 = (3 : BitVec 2) ∧ ((returning 2 0 0).th 0 0).sestat.extractLsb' 0 2 = (0 : BitVec 2) ∧
    ((returning 3 0 0).th 0 0).mestat.extractLsb' 0 2 = (0 : BitVec 2) ∧
    Ready handlingState 0 0 1 ∧ (handlingState.tile 0).func = some 0 ∧ (handlingState.func 0).st = .failed ∧
    (handlingState.func 0).handler = some (0, 0) := by unfold Ready VectorsGood; decide

/-- The last run of 32 seed bits, a bit at the edge of each region, and both answers of a wait. -/
theorem witness_SeedBits : Ready base 0 0 2 ∧ Ready base 0 0 3 ∧ (0x1FE0 : Seed).toNat % 32 = 0 ∧
    (base.tile 0).seed 0 0x1FF = false ∧ (base.tile 0).seed 0 0x200 ≠ true ∧
    (base.tile 0).badWord (onward (base.th 0 0) 2).pc (cellLen (SMap.get 0 (base.tile 0).pmem (onward (base.th 0 0) 2).pc.toNat)) = false ∧
    (1 : Thr) ≠ 0 := by unfold Ready; decide +kernel

def endOfLmem : State := withThr { thr with a := [(1, 0xFFFFC), (2, 0xFFFF8), (3, 0xFFF00)] }
/-- The last word, double word and line of the scratchpad. -/
theorem witness_ScratchpadAccesses : Ready endOfLmem 0 0 2 ∧
    OwnRead endOfLmem 0 (((endOfLmem.th 0 0).getA 1) + (0 : BitVec 14).signExtend 64 * 4) 4 4 0xFFFFC ∧
    OwnRead endOfLmem 0 (((endOfLmem.th 0 0).getA 2) + (0 : BitVec 14).signExtend 64 * 8) 8 8 0xFFFF8 ∧
    OwnWrite endOfLmem 0 (((endOfLmem.th 0 0).getA 1) + (0 : BitVec 14).signExtend 64 * BitVec.ofNat 64 4) 4 0xFFFFC
      (byteList ((endOfLmem.th 0 0).getD 1) 4) ∧
    OwnWrite endOfLmem 0 (((endOfLmem.th 0 0).getA 2) + (0 : BitVec 14).signExtend 64 * BitVec.ofNat 64 8) 8 0xFFFF8
      (byteList ((endOfLmem.th 0 0).getA 2) 8) := by unfold Ready OwnRead OwnWrite; decide +kernel
theorem witness_ScratchpadAccesses_line :
    OwnWrite endOfLmem 0 (((endOfLmem.th 0 0).getA 3) + (0 : BitVec 14).signExtend 64 * BitVec.ofNat 64 256) 256 0xFFF00
      (List.replicate 256 0) := by unfold OwnWrite; decide +kernel

/-- Member 1 of the placement is tile 1; a page of 4 KiB at 4 GiB lies in HBM, one above it at the CSRs of tile 0. -/
def reaching (a : DWord) : State := mkState { mkTile { thr with a := [(1, a)] } with
  place := 0x10, memb := [(1, 1)]
  tlb := [⟨0, 4, 0x100000, 0x1000, true, false⟩, ⟨0, 4, 0x100001, 0x3F0200000000, true, false⟩] }
theorem witness_BufferedAccesses : Ready (reaching 0x1100000) 0 0 2 ∧
    Ready (reaching 0x100000000) 0 0 2 ∧ Ready (reaching 0x100001000) 0 0 2 ∧
    ((reaching 0x1100000).tile 0).sbuf.length < 8 ∧ ((reaching 0x1100000).tile 0).csize = 0 ∧
    (reaching 0x1100000).resolve 0 0 0x1100000 4 4 true = .at (.remote 1 0 none) ∧
    (reaching 0x1100000).resolve 0 0 0x1100000 8 8 false = .at (.remote 1 0 none) ∧
    (reaching 0x1100000).forward 0 (.remote 1 0 none) 4 1 = .none ∧
    (reaching 0x100000000).resolve 0 0 0x100000000 8 8 true = .at (.hbm 0x1000) ∧
    (reaching 0x100000000).resolve 0 0 0x100000000 4 4 false = .at (.hbm 0x1000) ∧
    (reaching 0x100000000).forward 0 (.hbm 0x1000) 4 1 = .none ∧
    (reaching 0x100001000).resolve 0 0 0x100001020 4 4 false = .at (.csr 0x3F0200000020) ∧
    (reaching 0x100001000).forward 0 (.csr 0x3F0200000020) 4 1 = .none := by unfold Ready; decide +kernel

/-- A string that crosses a 64-byte boundary, of 64-bit elements, and a count of 0. -/
theorem witness_StringInstructions : let s := withThr (stringThr 0x38 0x80 2)
    Ready s 0 0 2 ∧ ((s.th 0 0).getD 3).toNat ≠ 0 ∧ (0x38 : Nat) % 8 = 0 ∧ OwnRead s 0 ((s.th 0 0).getA 2) (1 * 8) 1 0x80 ∧
      OwnWrite s 0 ((s.th 0 0).getA 1) 1 0x38 ((s.tile 0).lmem.bytes 0x80 8) ∧ OwnRead s 0 ((s.th 0 0).getA 1) (1 * 8) 1 0x38 ∧
      (∀ i, i < 1 → ((s.tile 0).lmem.bytes (0x38 + i * 8) 8 = byteList (((s.th 0 0).getD 4).zeroExtend 64) 8)) ∧
      ((withThr (stringThr 0 0 0)).th 0 0).getD 3 = 0 ∧ Ready (withThr (stringThr 0 0 0)) 0 0 2 := by
  unfold Ready OwnRead OwnWrite; decide +kernel

theorem landed_base (rs : List Reg) : Landed (base.th 0 0) rs := by
  intro p hp; cases hp
/-- Signed zeros and ones, an infinity and a NaN of BF16. -/
theorem witness_VectorArithmetic : Ready base 0 0 2 ∧ Landed (base.th 0 0) [1, 2, 3] ∧
    decodeF (tyFmt .bf16) 0x7FC0 = .nan ∧ decodeF (tyFmt .bf16) 0xFF80 = .inf true ∧
    (∃ e, decodeF (tyFmt .bf16) 0x8000 = .fin true 0 e) ∧ ∃ m e, decodeF (tyFmt .bf16) 0x3F80 = .fin false m e :=
  ⟨ready_2, landed_base _, by decide, by decide, ⟨_, rfl⟩, ⟨_, _, rfl⟩⟩

/-- Lane 31 of BF16, and a mask whose bits are 0 and one whose bits are 1. -/
theorem witness_VectorMovesAndMemory : let on := mkState { mkTile { thr with priv := 1 } with lmem := [] }
    let bs : List (Option Byte) := (List.range 64).map (fun i =>
      if laneOn (on.tile 0) 0 (some 0) (i / 4) then some (((on.th 0 0).getV 1).extractLsb' (8 * i) 8) else none)
    Ready base 0 0 2 ∧ Ready base 0 0 3 ∧ Landed (base.th 0 0) [1] ∧ (31 : BitVec 5).toNat < 512 / tyWidth .bf16 ∧
    (∀ i, i < 16 → laneOn (base.tile 0) 0 (some 0) i = false) ∧
    Ready on 0 0 3 ∧ Landed (on.th 0 0) [1] ∧ (∃ i, i < 16 ∧ laneOn (on.tile 0) 0 (some 0) i = true) ∧
    ((on.th 0 0).getA 7 + (0 : BitVec 14).signExtend 64 * 64).toNat = 0 ∧ OwnRead on 0 0 64 64 0 ∧
    OwnRead base 0 0xFFFC0 64 64 0xFFFC0 ∧ base.resolveLocal 0 0xFFFC0 64 true = some (.own 0xFFFC0) ∧
    on.resolveLocal 0 0 64 true = some (.own 0) ∧ (on.tile 0).inbuf.length < 16 ∧ (on.tile 0).writeBad 0 bs = none ∧
    bs.take 5 = [some 0, some 0, some 0, some 0, none] :=
  ⟨ready_2, ready_3, landed_base _, by decide +kernel, by decide +kernel, by unfold Ready; decide +kernel, (by intro p hp; cases hp),
    ⟨0, by decide +kernel⟩, by decide +kernel, by unfold OwnRead; decide +kernel, by unfold OwnRead; decide +kernel,
    by decide +kernel, by decide +kernel, by decide +kernel, by decide +kernel, by decide +kernel⟩

theorem witness_ExactSumInstructions : Ready base 0 0 2 ∧ (6 : Reg).toNat % 2 = 0 ∧ Landed (base.th 0 0) [6, 6 + 1, 2] :=
  ⟨ready_2, by decide, landed_base _⟩

/-- Sixteen FP32 experts of which only the first is enabled: entry 0 names queue 0 of tile 1 in epoch 0, for which the
tile holds 16 bytes of credit. -/
def routing : State := mkState { mkTile thr with
  lmem := (4, 0x10) :: (List.range 15).map (fun i => (10 + 4 * i, 0x80))
  send := { cred := [(0, { valid := true, qid := 0x10, bytes := 16 })] } }
theorem witness_ExpertRouting : let s := routing
    let word (i : Nat) : Word := leBits 32 ((s.tile 0).lmem.bytes (4 * i) 4)
    let elig (e : Nat) : Bool := !(word (1 + e)).getLsbD 23 && !(decodeF fmtF32 (laneOf 32 ((s.th 0 0).getV 0) e).toNat).isNan
    Ready s 0 0 2 ∧ Ty.fp32 ≠ .int32 ∧ (0 : Reg).toNat + 0 ≤ 7 ∧ OwnRead s 0 ((s.th 0 0).getA 0) (4 + 4 * 16) 4 0 ∧
      (List.range 16).filter elig = [0] ∧ word 1 = 0x10 ∧ (s.sendSide (.tile 0)).ready 0x10 16 = true ∧
      1 + (s.sendSide (.tile 0)).sent.length ≤ 64 := by
  unfold Ready OwnRead; decide +kernel
theorem witness_ExpertRouting_landed : Landed (routing.th 0 0) [0] := by intro p hp; cases hp

/-! ## Witnesses: tile registers, matrix unit, queues and copy -/

/-- The largest legal shape and the registers' shapes at reset. -/
theorem witness_TileRegisters : let tl := base.tile 0
    Ready base 0 0 2 ∧ Ready base 0 0 1 ∧ ((0x1F0F : BitVec 14).extractLsb' 8 6).toNat + 1 = 32 ∧ 32 * 64 ≤ 2048 ∧
    tl.named 1 = false ∧ (tl.reg 1).rows * (tl.reg 1).len ≤ 2048 ∧ (tl.reg 2).rows = (tl.reg 1).rows ∧
    (tl.reg 2).len = (tl.reg 1).len ∧ tl.tpnd 1 = false ∧ (tl.reg 2).rows * 4 = (tl.reg 1).len ∧
    (tl.reg 2).len = 4 * (tl.reg 1).rows ∧ (15 : BitVec 6).toNat < (tl.reg 1).rows ∧ Landed (base.th 0 0) [3] ∧
    (tl.reg 2).len * 32 = (tl.reg 1).len * elemWidth .int32 ∧ (tl.reg 1).len % 4 = 0 :=
  ⟨ready_2, ready_1, by decide, by decide, by decide, by decide, by decide, by decide, by decide, by decide, by decide,
    by decide, landed_base _, by decide, by decide⟩

def bound : State := mkState { mkTile thr with scaleA := some 1, mx := [⟨1, 2, 3, .dense, .bf16, true, .none, none, none, 0, 0, none⟩] }
theorem witness_UnitTraps : VectorsGood (base.tile 0) 4 ∧ Ready base 0 0 2 ∧ Ready base 0 0 1 ∧
    2048 < ((0x2007 : BitVec 14).extractLsb' 8 6).toNat.succ * (4 * (((0x200F : BitVec 14).extractLsb' 0 8).toNat + 1)) ∧
    (bound.tile 0).named 1 = true ∧ Ready bound 0 0 1 ∧ VectorsGood (bound.tile 0) 4 ∧
    ((base.tile 0).reg 1).rows ≤ (16 : BitVec 6).toNat ∧ ((base.tile 0).queue 3).en = false := by
  unfold Ready VectorsGood; decide

/-- A tile of 16 rows of 64 bytes, and one of 4 rows of 64 bytes that lie back to back at the end of the scratchpad. -/
def wide : State := withThr { thr with d := [(1, 64)] }
def small : State := mkState { mkTile { thr with a := [(1, 0xFFF00)], d := [(1, 64)] } with treg := [(1, { rows := 4 })] }
theorem witness_TileMemory :
    (Ready wide 0 0 2 ∧ (wide.tile 0).inbuf.length < 16 ∧ (wide.tile 0).lerr = [] ∧
      (wide.th 0 0).moved + 256 < ((wide.tile 0).reg 0).rows * ((wide.tile 0).reg 0).len ∧
      wide.pieceFault 0 0 64 16 (stretches 0 64 64 0 256) false = none ∧
      wide.pieceFault 0 0 64 16 (stretches 0 64 64 0 256 ++ pieceCuts 0 64 64 0 256) true = none ∧ (wide.tile 0).tpnd 0 = false) ∧
    Ready small 0 0 2 ∧ (small.th 0 0).moved = 0 ∧ (small.th 0 0).part = [] ∧ 1 ≤ ((small.tile 0).reg 1).rows ∧
      4 ≤ ((small.tile 0).reg 1).len ∧ ((small.tile 0).reg 1).rows * ((small.tile 0).reg 1).len ≤ 256 ∧
      ((small.th 0 0).getA 1 + ((small.th 0 0).getD 1).signExtend 64 * BitVec.ofNat 64 3).toNat < 2 ^ 48 ∧
      (∀ i, i < 4 → small.ownOff 0 (0xFFF00 + (64 : Word).signExtend 64 * BitVec.ofNat 64 i) 64 false = some (0xFFF00 + i * 64)) ∧
      (∀ i, i < 4 → small.ownOff 0 (0xFFF00 + (64 : Word).signExtend 64 * BitVec.ofNat 64 i) 64 true = some (0xFFF00 + i * 64)) ∧
      (small.tile 0).errWords 0xFFF00 256 = [] ∧ (small.tile 0).tpnd 1 = false ∧ (small.tile 0).lerr = [] := by
  unfold Ready; decide +kernel

/-- A product of 16 x 64 by 64 x 16, the same with a 2:4 mask in T3, and one that names its result as an operand. -/
def headOp (r : Option (BitVec 16384)) : MxOp := ⟨2, 0, 1, .dense, .e4e4, true, .none, none, none, 0, 0, r⟩
def sparse : State := mkState { mkTile thr with treg := [(1, { len := 128 }), (3, { len := 16 })] }
theorem witness_MatrixOperations_issue :
    Ready base 0 0 2 ∧ (base.tile 0).mxOk (headOp none) = true ∧ (base.tile 0).mx.length < 2 ∧
    (base.tile 0).mxOk { headOp none with a := 2 } = false ∧ VectorsGood (base.tile 0) 4 ∧
    Ready sparse 0 0 2 ∧ (sparse.tile 0).mxOk { headOp none with sp := .s24, mask := .tile 3 } = true ∧
    Ready sparse 0 0 3 ∧ (0x200 : Seed).toNat % 32 = 0 ∧
    (sparse.tile 0).mxOk { headOp none with sp := .s24, mask := .seed 0x200 } = true := by
  unfold Ready VectorsGood; decide +kernel
/-- A budget of `b` cords, the tile with or without one, its claim waiting or not. -/
def cords (b : Nat) (has : Bool) (claims : List (Nat × TileId)) (r : Option (BitVec 16384)) : State :=
  let s := mkState { mkTile thr with mx := [headOp r], cord := has }
  { s with plan := { budget := [(0, b)] }, cobs := [(0, { north := .on, memif := .on, claims := claims })] }
theorem witness_MatrixOperations_unit :
    ((cords 1 true [] none).tile 0).mx = headOp none :: [] ∧ (headOp none).result = none ∧
    (∀ y ∈ ((cords 1 false [(0, 1)] none).cob 0).claims, y.2 ≠ 0) ∧
    (∀ y ∈ ((cords 0 false [(0, 1)] none).cob 0).claims, (cords 0 false [(0, 1)] none).canGrant y.2 = false) ∧
    ((cords 1 true [] none).tile 0).cord = true ∧ ((cords 1 false [] none).tile 0).cord = false ∧
    (cords 1 false [] none).canGrant 0 = true ∧ (cords 0 false [] none).canGrant 0 = false ∧
    ((((cords 1 false [(0, 0)] none).cob 0).claims.filter (fun y => (cords 1 false [(0, 0)] none).canGrant y.2)).head?.map
      (fun y => y.2)) = some 0 ∧
    (headOp (some 0)).result = some 0 ∧ (((cords 1 true [] (some 0)).tile 0).reg 2).rows * (((cords 1 true [] (some 0)).tile 0).reg 2).len ≤ 2048 := by
  decide +kernel

/-- A thread at S with `n` words staged, a handle to queue 3 of tile 1 in epoch 0 in D2, and `m` bytes of credit. -/
def sending (n : BitVec 3) (m : Nat) : State :=
  mkState { mkTile { thr with d := [(1, 0x1234), (2, 0x13)], stgS := { count := n } } with
    send := { cred := [(0, { valid := true, qid := 0x13, bytes := m })] } }
def noTag : State := mkState { mkTile { thr with d := [(2, 0x13)], stgS := { count := 1 } } with
  send := { sent := (List.range 64).map (fun i => { tag := i, owner := .gone, handles := [], mesh := false, left := 1 }) } }
theorem witness_SendInstructions : Ready (sending 0 0) 0 0 1 ∧ ((sending 3 0).th 0 0).stg.count.toNat < 4 ∧
    4 ≤ ((sending 4 0).th 0 0).stg.count.toNat ∧ VectorsGood ((sending 4 0).tile 0) 4 ∧ Ready (sending 4 24) 0 0 1 ∧
    (((sending 4 24).th 0 0).getD 2).extractLsb' 16 8 = (0 : BitVec 8) ∧
    ((sending 4 24).sendSide (.tile 0)).freeTag = some 0 ∧ ((sending 4 24).sendSide (.tile 0)).find 0x13 = some 0 ∧
    (((sending 4 24).sendSide (.tile 0)).entry 0).refused = false ∧
    (4 * (4 + 1) + 7) / 8 * 8 ≤ (((sending 4 24).sendSide (.tile 0)).entry 0).bytes ∧
    (0x1234 : BitVec 16).extractLsb' 14 2 ≠ (3 : BitVec 2) ∧ ((sending 0 0).th 0 0).stg.count.toNat = 0 ∧
    Ready noTag 0 0 1 ∧ (noTag.sendSide (.tile 0)).freeTag = none ∧ Ready (sending 1 7) 0 0 1 ∧
    (((sending 1 7).sendSide (.tile 0)).entry 0).bytes < (4 * (1 + 1) + 7) / 8 * 8 ∧
    (((sending 1 7).sendSide (.tile 0)).entry 0).req = false := by unfold Ready VectorsGood; decide +kernel

/-- Group 1 covers rows 0 to 1 and columns 0 to 1 of Cob 0. -/
def casting : State := mkState { mkTile { thr with d := [(2, 1)], stgS := { count := 1 } } with mgrp := [(1, 0x10101000)] }
theorem witness_SendInstructions_group : Ready casting 0 0 1 ∧ (casting.th 0 0).stg.count = 1 ∧
    (SMap.get 0 (casting.tile 0).mgrp (((casting.th 0 0).getD 2).extractLsb' 0 3).toNat).getLsbD 28 = true ∧
    (casting.sendSide (.tile 0)).freeTag = some 0 := by unfold Ready; decide +kernel

/-- An enabled queue of 64 bytes at offset 0 with messages, closed or not, in rick mode or not. -/
def queued (ms : List QMsg) (closed rick : Bool) : State :=
  mkState { mkTile { thr with d := [(1, 1), (2, 0x10000)] } with q := [(3, { en := true, mode := rick, closed := closed, msgs := ms, used := 8 * ms.length })] }
def oneMsg : QMsg := ⟨0, 8, 0, 1, none, .cob, true, true⟩
theorem witness_QueueInstructions : Ready (queued [oneMsg] false false) 0 0 2 ∧
    ((queued [oneMsg] false false).tile 0).queue 3 = { en := true, msgs := [oneMsg], used := 8 } ∧
    oneMsg.seen = true ∧ firstBad (((queued [oneMsg] false false).tile 0).errWords 0 8) = none ∧
    (∀ o ∈ (((queued [{ oneMsg with seen := false }] true false).tile 0).queue 3).msgs.head?, o.seen = false) ∧ Ready (queued [] true false) 0 0 2 ∧
    (((queued [] true false).tile 0).queue 3).closed = true ∧ (((queued [] false false).tile 0).queue 3).closed = false ∧
    Ready (queued [] false true) 0 0 2 ∧ (((queued [] false true).tile 0).queue 3).mode = true ∧
    1 ≤ (((queued [] false true).th 0 0).getD 1).toNat ∧ (((queued [] false true).th 0 0).getD 1).toNat ≤ 65535 ∧
    ((((queued [] false true).th 0 0).getD 2).setWidth 16 : BitVec 16).extractLsb' 14 2 ≠ (3 : BitVec 2) ∧
    (((queued [] false true).tile 0).queue 3).rick = none ∧ (16 : Int) ≤ (((queued [] false true).tile 0).queue 3).pool ∧
    (((queued [] true true).tile 0).queue 3).closed = true := by unfold Ready; decide +kernel

/-- A pair that the hazard detector holds, covered or not; an engine with `n` descriptors, halted or not. -/
def paired (c : Bool) : State := withThr { thr with pair := some ⟨.cob, c, some 1⟩ }
def engine (n : Nat) (st : EngSt) : State := mkState { mkTile thr with eng := { qcnt := n, st := st } }
theorem witness_OrderAndCopyInstructions : Ready (paired true) 0 0 1 ∧ ((paired true).th 0 0).pair = some ⟨.cob, true, some 1⟩ ∧
    scopeRank (some .cob) ≤ scopeRank (some .package) ∧ Ready (paired false) 0 0 1 ∧
    ((paired false).th 0 0).pair = some ⟨.cob, false, some 1⟩ := by unfold Ready; decide +kernel
theorem witness_OrderAndCopyInstructions_copy :
    Ready (engine 7 .running) 0 0 1 ∧ ((engine 7 .running).tile 0).eng.jobs = [] ∧ OwnRead (engine 7 .running) 0 0 64 64 0 ∧
    ((engine 7 .running).tile 0).eng.qcnt < 8 ∧ Ready (engine 8 .running) 0 0 1 ∧ 8 ≤ ((engine 8 .running).tile 0).eng.qcnt ∧
    Ready (engine 1 .halted) 0 0 1 ∧ 2 ≤ ((engine 1 .halted).th 0 0).st.pl ∧ ((engine 1 .halted).tile 0).eng.st = .halted ∧
    ((engine 1 .halted).tile 0).eng.active = false ∧ ((engine 1 .running).tile 0).eng.st ≠ .halted ∧
    Ready (withThr atU) 0 0 1 ∧ VectorsGood ((withThr atU).tile 0) 3 := by unfold Ready OwnRead VectorsGood; decide +kernel

theorem witness_ReservedEncoding : Ready base 0 0 1 ∧ base.debug = false ∧ (∀ c, SMap.get false (base.tile 0).pbad c = false) ∧
    Ready (inDebug base) 0 0 1 ∧ (inDebug base).debug = true :=
  ⟨ready_1, by decide, fun _ => rfl, by unfold Ready; decide, by decide⟩

/-- One state for each event of R360, and each blocked instruction. -/
def eventful (f : Thread → Thread) : State := withThr (f { thr with st := { pl := 2, ie := true } })
def takes (s : State) (c : BitVec 5) : Bool := s.tileOn 0 && (s.tile 0).zeroed && (s.tile 0).causes == 0 &&
  s.rot 0 % 4 == 0 && !(s.tile 0).slotUsed && ((s.th 0 0).run == .running || (s.th 0 0).run == .blocked) && (s.th 0 0).wait == none && (s.th 0 0).st.pl != 3 && s.asyncDue 0 0 == some c &&
  !(SMap.get false (s.tile 0).pbad (vectorOf (s.tile 0) true c).toNat) && !(SMap.get false (s.tile 0).pbad (vectorOf (s.tile 0) false c).toNat)
theorem witness_EventsAndWakes_events :
    takes (eventful (fun x => { x with mcp := true })) 0 ∧ takes (eventful (fun x => { x with se := [⟨1, 2, 1⟩] })) 2 ∧
    takes (eventful (fun x => { x with swm := true })) 0x14 ∧ takes (eventful (fun x => { x with dlk := true })) 0x13 ∧
    takes (eventful (fun x => { x with sts := true })) 0x12 ∧
    takes (eventful (fun x => { x with tmr := 0x8000000000000000 })) 0x10 ∧
    takes (eventful (fun x => { x with sws := true })) 0x11 ∧
    takes (eventful (fun x => { x with run := .blocked, blk := some (.ceput 1), swm := true })) 0x14 := by decide +kernel
/-- R356: an event in debug mode with SS set leaves the slot to the handler and owes the single step. -/
theorem test_event_owes_step : let s := inDebug (withThr { thr with swm := true, st := { pl := 2, ss := true } })
    let u := after (.asyncEventTaken 0 0) s
    (u.th 0 0).st.pl = 3 ∧ (u.th 0 0).run = .running ∧ (u.th 0 0).owed = true ∧ (u.tile 0).slotUsed = false := by decide +kernel
def timed : State := withThr { thr with tmr := 0x8000000000000005 }
def blockedOn (b : BlockOp) : State := withThr { thr with run := .blocked, blk := some b }
/-- R230: a thread blocked in QRD stays blocked when its queue closes empty. -/
theorem test_qrd_stays_blocked : (after (.blockedWake 0 0) (mkState { mkTile { thr with run := .blocked, blk := some (.qrd 1 3) } with
    q := [(3, { en := true, closed := true })] })).th 0 0 = { thr with run := .blocked, blk := some (.qrd 1 3) } := by decide +kernel
theorem witness_EventsAndWakes_wakes : timed.tileOn 0 = true ∧ timed.alive = true ∧ (timed.th 0 0).tmr.getLsbD 63 = true ∧
    timed.cyc 0 < ((timed.th 0 0).tmr.extractLsb' 0 63).toNat ∧ (timed.tile 0).onAt ≤ (timed.cob 0).cyc ∧ (timed.cob 0).phase < 9 ∧
    (let s := blockedOn (.bwait false 0x200)
     s.tileOn 0 = true ∧ (s.tile 0).zeroed = true ∧ (s.tile 0).causes = 0 ∧ (s.th 0 0).run = .blocked ∧ (s.th 0 0).wait = none ∧
      s.rot 0 % 4 = 0 ∧ (s.tile 0).slotUsed = false ∧
      s.asyncDue 0 0 = none ∧ (s.tile 0).badWord (s.th 0 0).pc 2 = false ∧ (s.tile 0).seed 0 0x200 = false) ∧
    ((queued [oneMsg] false false).tile 0 |>.queue 3).msgs.head?.any (fun m => m.seen) = true ∧
    ((queued [{ oneMsg with seen := false }] true false).tile 0 |>.queue 3).msgs.head?.any (fun m => m.seen) = false ∧
    ((blockedOn (.vroute 1 2 3 0 .bf16)).th 0 0).run = .blocked ∧ Ty.bf16 ≠ .int32 := by decide +kernel

/-- A load of 4 bytes whose reply is there; a vector result under way behind one of another register. -/
def arriving (a : Option (List Byte)) : State := { withThr { thr with
    wait := some ⟨.d 1, 0x100000000, .hbm 0x1000, 4, .req 7⟩, vpend := [(2, 5), (1, 6)] } with
  reqs := [⟨7, 0, 0, false, false, .hbm 0x1000, 0x100000000, 4, 4, [], 2, 0, some 0, some a⟩] }
theorem witness_ArrivalsAtATile_replies : let s := arriving (some [1, 2, 3, 4])
    s.tileOn 0 = true ∧ (s.tile 0).zeroed = true ∧ (s.th 0 0).stopReq = false ∧ (s.th 0 0).haltReq = none ∧
    s.replyNext 0 7 = true ∧ (arriving none).replyNext 0 7 = true ∧
    ((s.reqs.filter (fun q => q.id = 7)).head?.bind (fun r => r.ans)) = some (some [1, 2, 3, 4]) ∧
    (((arriving none).reqs.filter (fun q => q.id = 7)).head?.bind (fun r => r.ans)) = some none ∧
    VectorsGood ((arriving none).tile 0) 8 ∧ (s.th 0 0).vpend = [(2, 5)] ++ (1, 6) :: [] := by
  unfold VectorsGood; decide +kernel
/-- A store of the buffer that is done or refused, a fill whose sector has come, a walk of a function without a table. -/
def stored (done : Bool) (r : Option (BitVec 4)) : State := mkState { mkTile thr with sbuf := [⟨5, 0, 0, 0x100000000, .hbm 0x1000, [1], [], done, r⟩] }
def fillTile : Tile :=
  { mkTile thr with
    csize := 1, lines := [(0, { tag := 0x1000000, valid := 0 })], fills := [⟨6, 0, 0, 0x100000000, 0x1000, false, none⟩] }
def filling : State := { mkState fillTile with
  reqs := [⟨6, 0, 0, false, true, .hbm 0x1000, 0x100000000, 64, 64, [], 2, 0, some 0, some (some (List.replicate 64 9))⟩] }
def walking (root : DWord) : State := { withThr { thr with walk := some 0x100000000 } with funcs := [(0, { st := .running, ptr := root })] }
def mapped : State := { walking 0x1000 with tiles := [(0, { mkTile { thr with walk := some 0x100000000 } with
  tlb := [⟨0, 4, 0x100000, 0x1000, true, true⟩] })] }
theorem witness_ArrivalsAtATile_returns :
    ((stored true none).tile 0).sbuf[(0 : BitVec 3).toNat]?.isSome = true ∧
    (((stored true none).tile 0).sbuf.headD ⟨0, 0, 0, 0, .hbm 0, [], [], false, none⟩).done = true ∧
    (((stored false (some 2)).tile 0).sbuf.headD ⟨0, 0, 0, 0, .hbm 0, [], [], false, none⟩).refused = some 2 ∧
    (stored true none).replyNext 0 5 = true ∧ (stored false (some 2)).replyNext 0 5 = true ∧ filling.replyNext 0 6 = true ∧
    (((filling.tile 0).fills.filter (fun k => k.id = 6)).head?.isSome = true) ∧
    ((filling.reqs.filter (fun q => q.id = 6)).head?.bind (fun r => r.ans)) = some (some (List.replicate 64 9)) ∧
    ((filling.tile 0).line 0).tag.toNat = (0x100000000 : VAddr).toNat / 256 ∧ (filling.th 0 0).wait = none ∧
    ((walking 0).th 0 0).walk = some 0x100000000 ∧ ((walking 0).tile 0).func = some 0 ∧ 
    (((walking 0).withEccs ((walking 0).entryReads (.tile 0) 0 0x100000000) []).lookup 0 0 0x100000000).1 = .fault 1 ∧
    ((walking 0).th 0 0).run = .running ∧ (walking 0).asyncDue 0 0 = none ∧
    ({ walking 0 with tiles := [(0, mkTile { thr with walk := some 0x100000000, swm := true })] } : State).asyncDue 0 0 = some 0x14 ∧
    ((mapped.withEccs (mapped.entryReads (.tile 0) 0 0x100000000) []).lookup 0 0 0x100000000).1 = .leaf ⟨0, 4, 0x100000, 0x1000, true, true⟩ ∧
    VectorsGood ((walking 0).tile 0) 7 := by unfold VectorsGood; decide +kernel

/-- The management controller, a thread at S and one at M may write; threads stopped, running, blocked and halted. -/
def controlled (r : RunSt) : State := mkState { mkTile thr with thr := [(0, { run := r })] }
theorem witness_ThreadControl : TileWriter base .mgmt 0 ∧ TileWriter base (.thread 0 0) 0 ∧ TileWriter (withThr atM) (.thread 0 0) 0 ∧
    (∀ k : Thr, (base.th 0 k).stopReq = false ∧ (base.th 0 k).haltReq = none ∧ (base.th 0 k).wait = none) ∧
    TileWriter (controlled .stopped) .jtag 0 ∧ ((controlled .stopped).tile 0).func ≠ none ∧
    ((controlled .stopped).th 0 0).run = .stopped ∧ ((controlled .blocked).th 0 0).run = .blocked ∧
    ((controlled .blocked).tile 0).causes = 0 ∧ (inDebug (controlled .halted)).debug = true ∧
    ((inDebug (controlled .halted)).th 0 0).run = .halted :=
  ⟨⟨by decide, by decide, by decide, trivial⟩, ⟨by decide, by decide, by decide, .inr ⟨by decide, 0, by decide, by decide⟩⟩,
    ⟨by decide, by decide, by decide, .inl (by decide)⟩, by decide, ⟨by decide, by decide, by decide, trivial⟩, by decide,
    by decide, by decide, by decide, by decide, by decide⟩

/-! ## Witnesses and steps: messages, credit and ricks -/

/-- A credited word from tile 1 to queue 3 of tile 0 in epoch 0, with its packet. -/
def word (h : Word) (cred : Bool) : Msg := ⟨0, 1, 0, some 0, 0x55, [0xAABBCCDD], h, cred, 9, none⟩
def carrying (q : Queue) (b : Body) : State := { mkState { mkTile thr with q := [(3, q)] } with
  net := [⟨4, .tile 1, .tile 0, 2, b, [], []⟩], nextId := 5 }
def open1 : Queue := { en := true, granted := 8 }
theorem witness_MessagesAndResponses_arrival : let s := carrying open1 (.msg (word 0x03 true))
    s.tileOn 0 = true ∧ (s.tile 0).zeroed = true ∧ 1 ≤ (word 0x03 true).payload.length ∧ (word 0x03 true).payload.length ≤ 4 ∧
    (s.tile 0).inbuf.length < 16 ∧ ((s.tile 0).queue 3).wr % 8 = 0 ∧ ((s.tile 0).queue 3).wr < ((s.tile 0).queue 3).size ∧
    (s.tile 0).errWords ((s.tile 0).queue 3).base ((s.tile 0).queue 3).size = [] ∧
    s.packet 4 = some ⟨4, .tile 1, .tile 0, 2, .msg (word 0x03 true), [], []⟩ ∧
    s.stuckBehind 0 ⟨4, .tile 1, .tile 0, 2, .msg (word 0x03 true), [], []⟩ = false ∧ s.ownerFailed 0 = false ∧
    (0x03 : Word).extractLsb' 24 8 = ((s.tile 0).queue 3).epoch := by decide +kernel
/-- R223: header, payload word and response; the write pointer moves by the 8 ring bytes. -/
theorem test_message_placed : let u := after (.messageArrival 4) (carrying open1 (.msg (word 0x03 true)))
    (u.tile 0).lmem = [(0, 0x55), (2, 0x01), (4, 0xDD), (5, 0xCC), (6, 0xBB), (7, 0xAA)] ∧
    ((u.tile 0).queue 3).wr = 8 ∧ ((u.tile 0).queue 3).used = 8 ∧ ((u.tile 0).queue 3).granted = 0 ∧
    u.net = [⟨5, .tile 0, .tile 1, 1, .resp 9 .accepted, [], []⟩] := by decide +kernel
/-- R180, R223: the two payload words of a mesh message go through the inbound write buffer, and no read sees the message
before they have left it; with the buffer full the message stays in the mesh. -/
def meshWord : Msg := { word 0x03 true with payload := [0xAABBCCDD, 0x11223344] }
def meshState (n : Nat) : State := { mkState { mkTile thr with
    q := [(3, { open1 with granted := 16 })], inbuf := (List.range n).map (fun i => ⟨4096 + i, [1], .none⟩) } with
  net := [⟨4, .tile 1, .tile 0, 3, .msg meshWord, [], []⟩], nextId := 5 }
theorem test_mesh_message : let u := after (.messageArrival 4) (meshState 0)
    (u.tile 0).lmem = [] ∧ (u.tile 0).inbuf.map (fun e => (e.off, e.bytes.length, e.what)) = [(0, 12, .ring 3)] ∧
    ((u.tile 0).queue 3).msgs.map (fun m => m.seen) = [false] ∧
    (((after (.inboundWrite 0 .none) u).tile 0).queue 3).msgs.map (fun m => m.seen) = [true] := by decide +kernel
theorem test_mesh_held : (after (.messageArrival 4) (meshState 16)).net = (meshState 16).net ∧
    ((meshState 16).tile 0).inbuf.length = 16 := by decide +kernel
/-- The four failures of R224, a full ring, and a message that already waits. -/
theorem witness_MessagesAndResponses_refusals :
    ((carrying { open1 with en := false } (.msg (word 0x03 true))).tile 0 |>.queue 3).en = false ∧
    ((carrying { open1 with closed := true } (.msg (word 0x03 true))).tile 0 |>.queue 3).closed = true ∧
    ((carrying { open1 with mode := true } (.msg (word 0x03 true))).tile 0 |>.queue 3).mode = true ∧
    ((carrying { en := true, used := 64 } (.msg (word 0x03 false))).tile 0 |>.queue 3).pool < (8 : Int) ∧
    (word 0x03 false).credited = false ∧ (0x01000003 : Word).extractLsb' 24 8 ≠ (0 : Byte) ∧
    ¬((carrying { open1 with used := 64 } (.msg (word 0x03 true))).tile 0 |>.queue 3).fits 8 ∧
    ((carrying { open1 with waiting := [(word 0x03 true, .tile 1)] } (.msg (word 0x03 true))).tile 0 |>.queue 3).waiting ≠ [] ∧
    ((carrying { open1 with waiting := [(word 0x03 true, .tile 1)] } (.msg (word 0x03 true))).tile 0 |>.queue 3).fits 8 = true := by
  decide +kernel
theorem test_message_stale : let u := after (.messageArrival 4) (carrying open1 (.msg (word 0x01000003 false)))
    ((u.tile 0).queue 3).drop = 1 ∧ u.net = [⟨5, .tile 0, .tile 1, 1, .resp 9 .stale, [], []⟩] ∧ (u.tile 0).lmem = [] := by
  decide +kernel
/-- An answer to thread 0, to the engine and to the timebase. -/
def answered (o : Owner) (r : Resp) (d : Party) : State := { mkState { mkTile thr with send := { sent := [⟨9, o, [0x13], false, 1, false, false⟩] } } with
  net := [⟨4, .tile 1, d, 1, .resp 9 r, [], []⟩] }
theorem witness_MessagesAndResponses_response :
    (answered (.thread 0) .stale (.tile 0)).packet 4 = some ⟨4, .tile 1, .tile 0, 1, .resp 9 .stale, [], []⟩ ∧
    (answered (.thread 0) .stale (.tile 0)).tileOn 0 = true ∧ ((answered (.thread 0) .stale (.tile 0)).func 0).st ≠ .resetting ∧
    ((answered .engDone .closed (.tile 0)).tile 0).send.sent = [⟨9, .engDone, [0x13], false, 1, false, false⟩] ∧
    ((answered .engFault .dropped (.tile 0)).tile 0).send.sent = [⟨9, .engFault, [0x13], false, 1, false, false⟩] ∧
    (answered .gone .dropped .timebase).packet 4 = some ⟨4, .tile 1, .timebase, 1, .resp 9 .dropped, [], []⟩ := by decide +kernel
theorem test_response_stale : let u := after (.responseArrival 4) (answered (.thread 0) .stale (.tile 0))
    (u.th 0 0).cntStale = 1 ∧ (u.tile 0).stale = 1 ∧ (u.tile 0).send.sent = [] ∧ u.net = [] := by decide +kernel

/-- A round of INT32 words that expects `n` contributions, and one contribution of two tiles to it. -/
def armedQ (n : Nat) : Queue := { en := true, mode := true, granted := 8, rick := some ⟨0x55, 0, n, 0, [5], true, .thread⟩ }
def contribution : List Contrib := [⟨.tile 1, 9, true, .cob⟩, ⟨.tile 2, 8, true, .cob⟩]
def rickMsg : Msg := ⟨1, 1, 0, some 0, 0x55, [7], 0x03, false, 9, none⟩
def rickBody : Body := .rick rickMsg contribution none
def ringW : InWrite := ⟨4096, [7], .none⟩
theorem witness_RickEvents_arrival : let s := carrying (armedQ 3) rickBody
    s.packet 4 = some ⟨4, .tile 1, .tile 0, 2, rickBody, [], []⟩ ∧ s.stuckBehind 0 ⟨4, .tile 1, .tile 0, 2, rickBody, [], []⟩ = false ∧
    s.tileOn 0 = true ∧ (s.tile 0).zeroed = true ∧ s.ownerFailed 0 = false ∧ ((s.tile 0).queue 3).en = true ∧
    ((s.tile 0).queue 3).mode = true ∧ rickMsg.func = (s.tile 0).func ∧ 0 + contribution.length < 3 ∧
    (((carrying (armedQ 2) rickBody).tile 0).queue 3).rick = some ⟨0x55, 0, 2, 0, [5], true, .thread⟩ ∧
    ((carrying (armedQ 2) rickBody).tile 0).errWords 0 64 = [] ∧ (rickAdd 0 [5] rickMsg.payload).length = rickMsg.payload.length ∧
    ((carrying { armedQ 2 with rick := none } rickBody).tile 0 |>.queue 3).rick = none ∧ rickMsg.credited = false ∧
    (s.tile 0).inbuf = [] ∧ (s.tile 0).writeBad 4096 [some 7] = none ∧
    ((mkState { mkTile thr with inbuf := [ringW] }).tile 0).inbuf = [ringW] := by decide +kernel
theorem test_rick_adds : let u := after (.rickContributionArrival 4) (carrying (armedQ 3) rickBody)
    ((u.tile 0).queue 3).rick = some ⟨0x55, 0, 3, 2, [12], true, .cob⟩ ∧
    u.net.map (fun p => (p.dst, p.body)) = [(.tile 1, .resp 9 .accepted), (.tile 2, .resp 8 .accepted)] := by decide +kernel
/-- Two contributions at router 1 on their way to tile 0. -/
def meeting : State := { mkState (mkTile thr) with net :=
  [⟨4, .tile 1, .tile 0, 3, .rick rickMsg [⟨.tile 1, 9, true, .cob⟩] none, [], []⟩,
   ⟨5, .tile 2, .tile 0, 3, .rick { rickMsg with payload := [1] } [⟨.tile 2, 8, true, .cob⟩] none, [], []⟩] }
theorem witness_RickEvents_combine : ((meeting.contribAt 1 4).map (fun x => x.2.2.2)) = some (some 0) ∧
    ((meeting.contribAt 1 5).map (fun x => x.2.2.2)) = some (some 0) ∧ (4 : Nat) ≠ 5 ∧ meeting.contribAt 3 4 = none := by
  decide +kernel

/-- A request for 8 bytes of credit: granted 64, granted what is left, held, refused. -/
def asking (q : Queue) : State := carrying q (.credReq 0x03 8 (some 0))
theorem witness_CreditEvents_requests :
    (asking { en := true }).packet 4 = some ⟨4, .tile 1, .tile 0, 2, .credReq 0x03 8 (some 0), [], []⟩ ∧
    (asking { en := true }).stuckBehind 0 ⟨4, .tile 1, .tile 0, 2, .credReq 0x03 8 (some 0), [], []⟩ = false ∧
    (asking { en := true }).tileOn 0 = true ∧ (((asking { en := true }).tile 0).queue 3).held = [] ∧
    (64 : Int) ≤ (((asking { en := true, rsize := 1 }).tile 0).queue 3).pool ∧
    (((asking { en := true, used := 24 }).tile 0).queue 3).pool < (64 : Int) ∧
    (8 : Int) ≤ (((asking { en := true, used := 24 }).tile 0).queue 3).pool ∧
    (((asking { en := true, used := 40 }).tile 0).queue 3).pool < (8 : Int) ∧ (((asking {}).tile 0).queue 3).en = false ∧
    (((asking { en := true, held := [(.tile 1, 8, 0x03, some 0)] }).tile 0).queue 3).held = (.tile 1, 8, 0x03, some 0) :: [] ∧
    (((asking { en := true, used := 60, held := [(.tile 1, 8, 0x03, some 0)] }).tile 0).queue 3).pool < (8 : Int) ∧
    (((asking { en := true, closed := true, held := [(.tile 1, 8, 0x03, some 0)] }).tile 0).queue 3).closed = true := by
  decide +kernel
theorem test_credit_rest : let u := after (.creditRequestArrival 4) (asking { en := true, used := 20 })
    ((u.tile 0).queue 3).granted = 16 ∧ u.net = [⟨5, .tile 0, .tile 1, 1, .grant 0x03 16 false, [], []⟩] := by decide +kernel
/-- A grant for an entry that is there or gone, a return of this epoch and of another, an idle entry. -/
def credited (e : Cred) (b : Body) : State := { mkState { mkTile thr with send := { cred := [(2, e)] }, q := [(3, open1)] } with
  net := [⟨4, .tile 1, .tile 0, 1, b, [], []⟩] }
theorem witness_CreditEvents_grants : let e : Cred := { valid := true, qid := 0x13, req := true }
    (credited e (.grant 0x13 64 false)).packet 4 = some ⟨4, .tile 1, .tile 0, 1, .grant 0x13 64 false, [], []⟩ ∧
    ((credited e (.grant 0x13 64 false)).tile 0).send.find 0x13 = some 2 ∧
    ((credited {} (.grant 0x13 64 false)).tile 0).send.find 0x13 = none ∧
    (credited {} (.credRet 0x03 8)).packet 4 = some ⟨4, .tile 1, .tile 0, 1, .credRet 0x03 8, [], []⟩ ∧
    ((credited {} (.credRet 0x03 8)).tile 0 |>.queue 3).epoch = (0x03 : Word).extractLsb' 24 8 ∧
    (((credited { valid := true, bytes := 8 } (.credRet 0x01000003 8)).tile 0).send.entry 2).valid = true ∧
    (((credited { valid := true, bytes := 8 } (.credRet 0x01000003 8)).tile 0).send.entry 2).req = false ∧
    TileWriter (credited { valid := true, bytes := 8 } (.credRet 0x03 8)) .mgmt 0 :=
  ⟨by decide +kernel, by decide +kernel, by decide +kernel, by decide +kernel, by decide +kernel, by decide +kernel,
    by decide +kernel, ⟨by decide, by decide, by decide, trivial⟩⟩

/-- An enable of the largest ring, one of a ring off its boundary, and queues enabled, closed and with a round. -/
theorem witness_QueueRegisters : TileWriter base .mgmt 0 ∧ ((base.tile 0).queue 3).en = false ∧
    ((0x000000A0 : BitVec 32).extractLsb' 4 4).toNat ≤ 10 ∧ ((0x000000A0 : BitVec 32).extractLsb' 8 14).toNat * 64 % 65536 = 0 ∧
    ((0x000000A0 : BitVec 32).extractLsb' 8 14).toNat * 64 + 65536 ≤ (base.tile 0).limit ∧
    ¬((0x00000110 : BitVec 32).extractLsb' 8 14).toNat * 64 % 128 = 0 ∧
    TileWriter (carrying (armedQ 3) rickBody) .mgmt 0 ∧ (((carrying (armedQ 3) rickBody).tile 0).queue 3).en = true ∧
    (((carrying (armedQ 3) rickBody).tile 0).queue 3).mode = true ∧
    (((carrying (armedQ 3) rickBody).tile 0).queue 3).rick = some ⟨0x55, 0, 3, 0, [5], true, .thread⟩ :=
  ⟨⟨by decide, by decide, by decide, trivial⟩, by decide, by decide, by decide, by decide, by decide,
    ⟨by decide, by decide, by decide, trivial⟩, by decide +kernel, by decide +kernel, by decide +kernel⟩
theorem test_queue_enable : let k := ((after (.queueEnable .mgmt 0 3 0x00000013) base).tile 0).queue 3
    k.en = true ∧ k.mode = true ∧ k.size = 128 ∧ k.epoch = 1 ∧ k.cfgerr = false := by decide +kernel
theorem test_queue_cfgerr : let k := ((after (.queueEnable .mgmt 0 3 0x00000111) base).tile 0).queue 3
    k.en = false ∧ k.cfgerr = true := by decide +kernel

/-! ## Witnesses and steps: copy engines -/

/-- A descriptor (R304): source, destination, LEN and doubleword 4 (CQH, TAG, MODE, NCQ in bit 56). -/
def desc (src dst : DWord) (len : Word) (w4 : DWord) : BitVec 512 :=
  (0#62) ++ (2#2) ++ (0#128) ++ w4 ++ (0#64) ++ (0#32) ++ len ++ dst ++ src
def plain : BitVec 512 := desc 0x100 0x100000000 8 0x0100000000000000
/-- A tile whose engine is as given and whose translation maps 4 KiB at 4 GiB to HBM. -/
def engTile (g : Engine) : Tile := { mkTile thr with
  eng := g, tlb := [⟨0, 4, 0x100000, 0x1000, true, false⟩], lmem := [(0x100, 1), (0x107, 8)] }
def engState (g : Engine) : State := mkState (engTile g)
def held (d : BitVec 512) : Engine := { st := .running, qd := [(0, d)], qcnt := 1 }
/-- The chunk of `plain` in flight, and a source outside every region. -/
def inFlight : Chunk := ⟨1, 0, 0, none, [⟨.own 0x100, .hbm 0x1000, 0x100000000, 8, none⟩], none, false, false⟩
theorem witness_DescriptorEvents_start : let s := engState (held plain)
    let g := (s.tile 0).eng
    s.tileOn 0 = true ∧ (s.tile 0).zeroed = true ∧ (s.tile 0).func = some 0 ∧ g.jobs = [] ∧ g.st = .running ∧ g.halting = none ∧
    g.pausing = false ∧ g.ending = false ∧ g.active = false ∧ g.qcnt ≠ 0 ∧ g.inflight = [] ∧ (∀ m ∈ g.out, m.fault = true) ∧
    s.checkSleeps (.tile 0) 0 g.xfer = none ∧ SMap.get [] g.hold 0 = [] ∧
    s.validate (.tile 0) 0 g.xfer = none ∧ g.next < (g.xfer.len + 4095) / 4096 ∧ g.xfer.ncq = true ∧
    (xferOf (desc 0x100 0x100000000 0 0x0100000000000000)).badFormat = false ∧
    (xferOf (desc 0x100 0x100000000 0 0x0100000000000000)).len = 0 ∧
    (engState (held (desc 0x1000000000000 0 8 0x13))).validate (.tile 0) 0 (xferOf (desc 0x1000000000000 0 8 0x13)) = some 3 ∧
    (xferOf (desc 0x1000000000000 0 8 0x13)).ncq = false ∧ (xferOf (desc 0x1000000000000 0 8 0x13)).cqh.extractLsb' 16 8 = (0 : Byte) := by
  decide +kernel
theorem witness_DescriptorEvents_chunk : let s := engState { held plain with active := true }
    let x := (s.tile 0).eng.xfer
    x.mode = 0 ∧ x.ck = false ∧ x.row = 0 ∧ 1 ≤ x.len ∧ x.len ≤ 4096 ∧ x.src < 0x100000000 ∧ x.src % 4096 + x.len ≤ 4096 ∧
    x.dst % 4096 + x.len ≤ 4096 ∧ 0x100000000 ≤ x.dst ∧ x.dst + x.len ≤ 2 ^ 48 ∧
    s.resolveLocal 0 x.src x.len false = some (.own 0x100) ∧
    tlbFind (s.tile 0).tlb 0 x.dst = some (⟨0, 4, 0x100000, 0x1000, true, false⟩, (s.tile 0).tlb) ∧
    (⟨0, 4, 0x100000, 0x1000, true, false⟩ : Leaf).refuses true x.user = none ∧
    (⟨0, 4, 0x100000, 0x1000, true, false⟩ : Leaf).addr x.dst < 0x28000000000 ∧
    (engState { held (desc 0xFFFFF000 0 8 0) with active := true }).resolveLocal 0 0xFFFFF000 8 false = none ∧
    (let w := engState { held plain with active := true, inflight := [inFlight] }
     w.chunkWaits 1 = false ∧ w.chunkHeld (.tile 0) inFlight = false ∧ w.sliceOn 0x1000 = true ∧ (w.tile 0).errWords 0x100 8 = [] ∧ w.writeBurst 0x1000 8 = none ∧
      0 + 1 = (x.len + 4095) / 4096) ∧
    0 + 1 < ((xferOf (desc 0x100 0x100000000 0x1001 0)).len + 4095) / 4096 := by decide +kernel
/-- R309: step 2 puts the chunk in flight; its end leaves the bytes in HBM, and with NCQ set CEDONE and an idle engine. -/
theorem test_chunk_start : ((after (.chunkStart (.tile 0) []) (engState { held plain with active := true })).tile 0).eng.inflight =
    [inFlight] := by decide +kernel
theorem test_chunk_finish :
    let u := after (.chunkFinish (.tile 0) []) (engState { held plain with active := true, inflight := [inFlight] })
    u.hbm = [(0x1000, 1), (0x1007, 8)] ∧ (u.tile 0).cedone = true ∧ (u.tile 0).eng.st = .idle := by decide +kernel
theorem test_descriptor_format :
    ((after (.descriptorStart (.tile 0)) (engState (held (desc 0x1000000000000 0 8 0x13)))).tile 0).eng.out =
      [⟨false, 0x13, 0, [3, 0]⟩] := by decide +kernel

/-- A completion message that waits, with 16 bytes of credit for queue 3 of tile 1. -/
def speaking : State := mkState { engTile { held plain with ending := true, out := [⟨false, 0x13, 0x77, [0, 8]⟩] } with
  send := { cred := [(0, { valid := true, qid := 0x13, bytes := 16 })] } }
def refusedChunk : Chunk := ⟨1, 0, 0, none, [⟨.own 0x100, .remote 1 0 none, 0x1100000, 8, none⟩], none, false, false⟩
theorem witness_EngineControl : let g := (speaking.tile 0).eng
    speaking.tileOn 0 = true ∧ (speaking.tile 0).zeroed = true ∧ g.jobs = [] ∧ (0x13 : Word).extractLsb' 16 8 = (0 : Byte) ∧
    (speaking.tile 0).send.find 0x13 = some 0 ∧ ((speaking.tile 0).send.entry 0).refused = false ∧
    (4 * (2 + 1) + 7) / 8 * 8 ≤ ((speaking.tile 0).send.entry 0).bytes ∧ (speaking.tile 0).send.freeTag = some 0 ∧
    g.halting = none ∧ g.ending = true ∧
    (let s := engState { held plain with active := true, inflight := [refusedChunk] }
     (s.tile 0).eng.active = true ∧ s.remoteAt 1 (some 0) 0 none 0 8 = none ∧ (0x1100000 : VAddr).toNat ≤ (0x1100007 : VAddr).toNat ∧
      (0x1100007 : VAddr).toNat < (0x1100000 : VAddr).toNat + 8) ∧
    ((engState { st := .idle }).tile 0).eng.st = .idle ∧ ((engState { held plain with st := .paused }).tile 0).eng.st = .paused ∧
    ((engState { held plain with st := .halted, active := true }).tile 0).eng.st = .halted ∧
    ((engState (held plain)).tile 0).eng.next < (((engState (held plain)).tile 0).eng.xfer.len + 4095) / 4096 := by
  decide +kernel
theorem test_completion_sends : let u := after (.completionMessageSend (.tile 0)) speaking
    u.net.map (fun p => (p.dst, p.net)) = [(.tile 1, 3)] ∧ (u.tile 0).cedone = true ∧ ((u.tile 0).send.entry 0).bytes = 0 := by
  decide +kernel

/-! ## Witnesses and steps: memory -/

theorem witness_CollierOperations : (0x27FFFFFFFFF : Nat) < 0x28000000000 ∧ base.sliceOn 0 = true ∧ base.badBurst 0 64 = none ∧
    (SMap.get {} (base.slice (sliceOf 0)).acc 0).recv < 2 ^ 61 - 1 ∧ base.alive = true ∧ (base.cob 0).memif = .on ∧
    (base.th 0 0).st.pl = 2 ∧ (base.tile 0).func = some 0 ∧ (base.cob 0).ckBusy = false ∧
    (({ base with cobs := [(0, { ckBusy := true, ckcmd := 0x20 })] } : State).cob 0).ckBusy = true ∧
    (({ base with cobs := [(0, { ckBusy := true, ckcmd := 0x20 })] } : State).cob 0).ckcmd = BitVec.ofBool true ++ (0 : FuncNo) := by
  decide +kernel
theorem test_add_i32 : (after (.addI32 none 0 0 0x0001 0xFFFFFFFF []) { base with hbm := [(0, 2)] }).hbm = [(0, 1)] := by
  decide +kernel
theorem test_add_xs_record :
    SMap.get {} ((after (.addXs none 3 true 0 0x01 5 []) base).slice (sliceOf 0)).acc 7 = { recv := 5, nelem := 1 } := by decide +kernel

/-- A request at a slice, at another tile and at a register. -/
def request (d : Target) (write : Bool) (data : List Byte) (pl : BitVec 2) : Req :=
  ⟨7, 1, 0, write, false, d, 0, 4, 4, data, pl, 0, some 0, none⟩
def requested (r : Req) : State := { base with reqs := [r] }
theorem witness_MemoryAnswers : (requested (request (.hbm 0x1000) false [] 2)).reqArrives 7 = some (request (.hbm 0x1000) false [] 2) ∧
    base.sliceOn 0x1000 = true ∧ base.badBurst 0x1000 4 = none ∧ base.writeBurst 0x1000 4 = none ∧
    (requested (request (.remote 0 0xFFFFC none) true [1, 2, 3, 4] 2)).reqArrives 7 =
      some (request (.remote 0 0xFFFFC none) true [1, 2, 3, 4] 2) ∧
    (base.tile 0).place.extractLsb' 8 8 = (0 : Byte) ∧ (base.tile 0).placeAt none 0xFFFFC 4 = some 0xFFFFC ∧
    (base.tile 0).placeAt none 0xFFFFD 4 = none ∧ (base.tile 0).errWords 0xFFFFC 4 = [] ∧ (base.tile 0).inbuf.length < 16 ∧
    (requested (request (.csr 0x3F0200000020) true [1, 2, 3, 4] 3)).reqArrives 7 =
      some (request (.csr 0x3F0200000020) true [1, 2, 3, 4] 3) ∧
    csrBlk 0x3F0200000020 = some (.ce 0 0x20) ∧ base.blkReady (.ce 0 0x20) = true ∧ (Blk.ce 0 0x20).width = some 4 ∧
    base.superMay (some 0) (.ce 0 0x20) none = true ∧ base.superMay (some 1) (.ce 0 0x20) none = false := by decide +kernel
theorem witness_MemoryAnswers_writes : let s := mkState { mkTile thr with inbuf := [⟨8, [1], .store 1 5⟩] }
    s.tileOn 0 = true ∧ (s.tile 0).zeroed = true ∧ (s.tile 0).inbuf = ⟨8, [1], .store 1 5⟩ :: [] ∧
    (s.tile 0).writeBad 8 [some 1] = none ∧ ((mkState { mkTile thr with zeroed := false }).tile 0).zeroed = false ∧
    ((base.blkWrite true (.ce 0 0x20) 0x04030201 none).isSome = true) := by decide +kernel
theorem test_remote_refused : let u := after (.remoteAccessArrival 7 .none) (requested { request (.remote 0 0 none) false [] 2 with pid := 1 })
    u.reqs.map (fun r => r.ans) = [some none] := by decide +kernel

/-- Inbound window 0 of function 0: VA 4 GiB, one page, any sender; page tables at 0x1000 to 0x4000 map that page to
HBM 0x5000 with W. -/
def windowed (w0 w2 : DWord) : State := { base with
  cobs := (List.range 16).map (fun i => (i, { north := .on, memif := .on }))
  funcs := [(0, { st := .running, ptr := 0x1000 })], iwin := [(0, w0), (1, 1), (2, w2)]
  hbm := [(0x1000, 0x01), (0x1001, 0x20), (0x2020, 0x01), (0x2021, 0x30), (0x3000, 0x01), (0x3001, 0x40), (0x4000, 0x07), (0x4001, 0x50)] }
def winWrite (off : BitVec 64) (bs : List Byte) : WinReq := ⟨5, 0, 0, .write, off, bs, 1, []⟩
theorem witness_WindowsAndRemoval_window : let s := windowed 0x100000001 0
    s.unrec = false ∧ (s.iwinOf 0 0).1.getLsbD 0 = true ∧ (s.func 0).st = .running ∧
    (5 : BitVec 16) &&& (s.iwinOf 0 0).2.2.extractLsb' 16 16 = (s.iwinOf 0 0).2.2.extractLsb' 0 16 &&& (s.iwinOf 0 0).2.2.extractLsb' 16 16 ∧
    (winWrite 0xFFF [9]).kind = .write ∧ (s.iwinOf 0 0).1.getLsbD 1 = false ∧ (0xFFF : BitVec 64).toNat + 1 ≤ 4096 ∧
    4096 < (0xFFF : BitVec 64).toNat + 2 ∧ s.windowAt 0 0x100000FFF = .at 0x5FFF ∧ s.writeBurst 0x5FFF 1 = none ∧
    ((windowed 0x100000003 0).iwinOf 0 0).1.getLsbD 1 = true ∧ ((windowed 0 0).iwinOf 0 0).1.getLsbD 0 = false ∧
    (5 : BitVec 16) &&& 0xFFFF ≠ (6 : BitVec 16) &&& 0xFFFF ∧ ((windowed 0x100000001 0xFFFF0006).iwinOf 0 0).2.2 = 0xFFFF0006 ∧
    (windowed 0x200000001 0).windowAt 0 0x200000000 = .fault := by decide +kernel
theorem test_window_write : let u := after (.inboundWindowRequest (winWrite 0xFFF [9])) (windowed 0x100000001 0)
    u.winAns = 0 ∧ u.hbm.byte 0x5FFF = 9 := by decide +kernel
theorem test_window_bounds : (after (.inboundWindowRequest (winWrite 0xFFF [9, 9])) (windowed 0x100000001 0)).winAns = 2 := by
  decide +kernel
/-- R282: a request whose slice is off is held and lands nothing; the last access of a claim and of an accumulate. -/
def asleep : State := { windowed 0x100000001 0 with cobs := [(0, { north := .on, memif := .on })] }
theorem witness_WindowsAndRemoval_held :
    (windowed 0x100000001 0).winHeld = [] ∧ (windowed 0x100000001 0).windowBlocked none (winWrite 0xFFF [9]) = false ∧
    (windowed 0x100000001 0).sliceOn 0x5FFF = true ∧ (windowed 0x100000001 0).badBurst 0x5FC0 64 = none ∧
    ((windowed 0x10000000B 0).iwinOf 0 0).1.extractLsb' 2 2 = (2 : BitVec 2) ∧ (0x100000FF8 : Nat) % 64 + 8 ≤ 64 ∧
    ((windowed 0x100000001 0).workOn 0) = [] := by decide +kernel
theorem test_window_held : let u := after (.inboundWindowRequest (winWrite 0xFFF [9])) asleep
    u.winHeld.length = 1 ∧ u.hbm = asleep.hbm := by decide +kernel
theorem test_window_claim :
    let u := after (.inboundWindowRequest ⟨5, 0, 0, .claim, 0xFF8, [7, 0, 0, 0, 0, 0, 0, 0], 1, []⟩) (windowed 0x10000000B 0);
    u.winAns = 0 ∧ SMap.get {} (u.slice (sliceOf 0x5FF8)).acc 0 = { claim := 7, nclaim := 1 } := by decide +kernel
/-- A removal by the management controller; a chunk that waits for a CXL response. -/
def waitingCxl : State := mkState { mkTile thr with eng := { inflight := [⟨1, 0, 0, none, [], none, true, false⟩] } }
theorem witness_WindowsAndRemoval_removal : base.alive = true ∧ (base.cob 0).memif = .on ∧ (base.cob 0).winvWait = [] ∧
    ((waitingCxl.eng (.tile 0)).inflight = ⟨1, 0, 0, none, [], none, true, false⟩ :: []) ∧
    (∀ g, (State.reset.eng g).inflight = []) := ⟨by decide, by decide, by decide, by decide, fun g => by cases g <;> rfl⟩

/-! ## Witnesses and steps: errors, links, census -/

def loadError : McReport := ⟨2, some 0, 0, 0x1000, some 0x100000000, some (0, 0)⟩
theorem witness_MachineChecks : base.alive = true ∧ 1 ≤ loadError.src.toNat ∧ loadError.src.toNat ≤ 7 ∧ loadError.src ≠ 5 ∧
    loadError.tile = some 0 ∧ loadError.reader = some (0, 0) ∧ (base.tile 0).func = some 0 ∧ (base.func 0).st = .running ∧
    SMap.get false (base.tile 0).pbad (base.tile 0).mvbase.toNat = false ∧
    (base.tilesOf 0).head? = some 0 ∧ base.queuedAt 0x1000 = [] ∧
    ({ base with reqs := [⟨7, 0, 0, false, false, .hbm 0x1000, 0, 4, 4, [], 2, 0, some 0, none⟩] } : State).queuedAt 0x1000 = [0] ∧
    (base.tile 0).mcrec0.getLsbD 22 = false ∧ base.unrec = false ∧ (8 : Byte) = 8 ∧ (base.func 0).events = [] := by decide +kernel
theorem test_machine_check : let u := after (.machineCheck loadError) base
    (u.func 0).st = .failed ∧ (u.th 0 0).st.pl = 3 ∧ (u.th 0 0).mestat.extractLsb' 0 2 = (2 : BitVec 2) ∧
    (u.tile 0).mcrec1 = 0x1000 ∧ (u.tile 0).mcrec2 = 0x8000000100000000 := by decide +kernel
theorem test_machine_check_part : let u := after (.machineCheck ⟨9, none, 0, 0, none, none⟩) base
    u.unrec = true ∧ u.reason = 2 ∧ u.lands.svcflt = true ∧ (u.func 0).st = .failed := by decide +kernel

/-- A link whose direction down has one frame on its way, as sent and as it arrives; 16 failures of it, and `n` retrains a
moment ago. Link 53 counts its frames modulo 256. -/
def failing (n : Nat) : State := { base with links := [(53,
  { down := { txSeq := 0, buf := [⟨255, [1, 2], []⟩], rxSeq := 255, fails := 16 }, recent := List.replicate n 0 })] }
def counting (c : Census) : State := { base with funcs := [(0, { st := .running, cnsEn := true, cns := some c })] }
theorem witness_LinksAndCensus : base.alive = true ∧ (53 : DLink).toNat < 54 ∧ ((failing 1).link 53).retraining = false ∧
    ((failing 1).link 53).down.sent < ((failing 1).link 53).down.buf.length ∧ ((failing 1).link 53).up.buf.length < 32 ∧
    (failing 1).winHeld = [] ∧ ({ (failing 1).link 53 with down := { asked := true } } : DieLnk).down.asked = true ∧
    ({ (failing 1).link 53 with retraining := true } : DieLnk).retraining = true ∧ 16 ≤ ((failing 1).link 53).down.fails ∧
    ((failing 1).link 53).recent.length < 2 ∧ 2 ≤ ((failing 2).link 53).recent.length ∧ base.unrec = false ∧
    (({ base with funcs := [(0, { st := .running, cnsEn := true })] } : State).func 0).cns = none ∧
    (base.tilesOf 0)[0]? = some 0 ∧ ((counting ⟨false, [], 0, false⟩).func 0).cns = some ⟨false, [], 0, false⟩ ∧
    ((counting ⟨true, [], 3, false⟩).func 0).cns = some ⟨true, [], (base.tilesOf 0).length + 2, false⟩ ∧
    (base.tilesOf 0).head? = some 0 := by decide +kernel
/-- R271, R272: the frame in sequence is delivered and acknowledged; with a bit of its check inverted it is counted and a
replay is asked for; the other direction of the link is not touched. -/
theorem test_die_link_frame : let x := (after (.dieLinkFrame 53 false [] [] []) (failing 0)).link 53
    x.down.buf = [] ∧ x.down.rxSeq = 0 ∧ x.down.fails = 0 ∧ x.crcerr = 0 ∧ x.up = {} := by decide +kernel
theorem test_die_link_error : let x := (after (.dieLinkFrame 53 false [] [] [0, 0, 0, 0, 1]) (failing 0)).link 53
    x.down.buf.length = 1 ∧ x.down.asked = true ∧ x.down.fails = 17 ∧ x.crcerr = 1 ∧ x.up = {} := by decide +kernel
theorem test_die_link_lost : let u := after (.dieLinkRetrain 53) (failing 2)
    u.unrec = true ∧ u.reason = 2 := by decide +kernel
theorem test_census_found : let u := after (.censusReport 0) (counting ⟨true, [], 3, false⟩)
    (u.func 0).cnsFound = true ∧ (u.func 0).cnsRuns = 1 ∧ (u.th 0 0).dlk = true := by decide +kernel

/-! ## Witnesses and steps: Tamore Link and host commands -/

def onPort (x : Port) : State := { base with ports := [(1, x)] }
def sentFrame : TxFrame := ⟨0, 7, none, [], [0, 0, 0, 0]⟩
/-- The 256 bytes of a frame (R433). -/
def frame (kind : BitVec 2) (seq ack : BitVec 12) (ackv : Bool) (payload : List Byte) : List Byte :=
  let b := byteList (kind ++ seq ++ ack ++ BitVec.ofBool ackv ++ (0#5)) 4 ++ payload ++ List.replicate (248 - payload.length) 0
  b ++ byteList (crc32 b) 4
theorem test_crc32 : crc32 [0x31, 0x32, 0x33, 0x34, 0x35, 0x36, 0x37, 0x38, 0x39] = 0xCBF43926 := by decide +kernel
theorem witness_TamoreLink_frames : base.alive = true ∧ ((onPort { st := 2, buf := [sentFrame] }).port 1).st = 2 ∧
    ((onPort { st := 2, buf := [sentFrame] }).port 1).buf = sentFrame :: [] ∧ (0 : BitVec 12) = ((onPort { st := 2 }).port 1).rxSeq ∧
    ((onPort { st := 2 }).port 1).rxBuf = [] ∧ (1 : BitVec 12) ≠ ((onPort { st := 2 }).port 1).rxSeq ∧
    ((onPort { st := 2, nakSeq := 7, nakCnt := 15, buf := [sentFrame] }).port 1).nakCnt = 15 ∧
    ((onPort { st := 2, nakSeq := 7, nakCnt := 14, buf := [sentFrame] }).port 1).nakCnt < 15 ∧
    (((onPort { st := 2, recent := [0] }).port 1).recent.filter (fun r => decide ((base.pt.time - r).toNat < 3600000000))).length < 2 ∧
    ((onPort { st := 1 }).port 1).st = 1 := by decide +kernel
theorem witness_TamoreLink_states :
    (onPort { st := 1 }).devv = false ∧ ({ onPort { st := 1 } with devv := true, devid := 9 } : State).devid ≠ 8 ∧
    ((onPort { st := 3 }).port 1).st = 3 ∧ ((onPort { st := 3 }).port 1).out = [] ∧
    ((onPort { st := 2, ownNakSeq := 0, ownNakCnt := 15 }).port 1).ownNakCnt + 1 = 16 ∧
    SMap.get [] ((onPort { st := 2, vcq := [(1, [[1, 2]])], used := [(1, 512)] }).port 1).vcq 1 = [[1, 2]] ∧
    512 - 1 + (2 + 63) / 64 ≤ 512 := by decide +kernel
/-- An intact data frame of the sequence, a control frame, an idle one, and one of TYPE 3. -/
theorem witness_TamoreLink_intact :
    (frame 0 0 7 true []).length = 256 ∧ (leBits 32 ((frame 0 0 7 true []).drop 252) : Word) = crc32 ((frame 0 0 7 true []).take 252) ∧
    ((leBits 32 ((frame 1 0 7 true [2]).take 4) : Word).extractLsb' 30 2 : BitVec 2) = 1 ∧
    ((leBits 32 ((frame 2 0 7 true []).take 4) : Word).extractLsb' 30 2 : BitVec 2) = 2 ∧
    ((leBits 32 ((frame 0 9 7 true []).take 4) : Word).extractLsb' 18 12 : BitVec 12) = 9 := by decide +kernel
theorem test_frame_acked : let x := (after (.tlFrame 1 true (frame 0 0 7 true []) []) (onPort { st := 2, buf := [sentFrame] })).port 1
    x.rxSeq = 1 ∧ x.buf = [] ∧ x.wire.map (fun f => (f.kind, f.ack)) = [(2, some 0)] := by decide +kernel
/-- R434: a frame out of sequence is answered with a NAK that names the first missing SEQ. -/
theorem test_frame_missing : let x := (after (.tlFrame 1 true (frame 0 1 0 false []) []) (onPort { st := 2 })).port 1
    x.rxSeq = 0 ∧ x.wire.map (fun f => (f.kind, f.payload.take 3)) = [(1, [1, 0, 0])] := by decide +kernel
theorem test_nak_retrains : let x := (after (.nak 1 7) (onPort { st := 2, nakSeq := 7, nakCnt := 15, buf := [sentFrame] })).port 1
    x.st = 3 ∧ x.retrain = 1 ∧ x.replay = 1 ∧ x.nakCnt = 0 := by decide +kernel
/-- A port with one request outstanding, and a function with a ring of four commands enabled. -/
def outstanding (r : OutFor) : State := { base with
  ports := [(1, { st := 2, out := [(3, r)] })], funcs := [(0, { st := .running, crb := 0x22, chead := 3 })] }
theorem witness_TamoreLink_packets : ((outstanding (.ring 0)).port 1).st = 2 ∧ ((outstanding (.ring 0)).func 0).st ≠ .absent ∧
    (0x18 : BitVec 64) ≠ 8 ∧ (0x18 : BitVec 64) ≠ 0x10 ∧ ((outstanding (.ring 0)).func 0).st = .running ∧
    (({ outstanding (.ring 0) with funcs := [] } : State).func 0).st = .absent ∧ (0x20 : BitVec 64).getLsbD 5 = true ∧
    ((outstanding (.compWrite 0)).port 1).out = [(3, .compWrite 0)] ∧ ((outstanding (.copyRead 0 1 0)).port 1).out = [(3, .copyRead 0 1 0)] ∧
    (List.replicate 64 (0 : Byte)).length = 64 ∧ ((outstanding (.ring 0)).func 0).crb.getLsbD 5 = true ∧
    (winWrite 0 []).bytes.length ≤ 4096 ∧ ((outstanding (.ring 0)).serveWindow none (winWrite 0 [])).winHeld = [] ∧
    (outstanding (.ring 0)).portFor ((outstanding (.ring 0)).port 1).peer = some 1 := by
  decide +kernel
/-- R436, R441: a DOORBELL packet in a data frame: TYPE 1, FUNC 0, LEN 4, and its tail 7. -/
theorem test_doorbell_frame : let s := outstanding (.ring 0)
    ((after (.tlFrame 1 true (frame 0 0 0 false ([1, 0, 4, 0] ++ List.replicate 20 0 ++ [7, 0])) []) s).func 0).ctail = 3 := by
  decide +kernel
theorem test_doorbell_modulo : ((after (.doorbell 1 0 7 0) (outstanding (.ring 0))).func 0).ctail = 3 := by decide +kernel
theorem test_ring_read : let u := after (.rdc 1 3 0 (List.replicate 64 1)) (outstanding (.ring 0))
    (u.func 0).cmds = [⟨List.replicate 16 0x01010101, false, 0, none⟩] ∧ (u.func 0).chead = 0 ∧ (u.port 1).out = [] := by decide +kernel

/-- Function 0 in state `st` with one command of opcode `op`; its words 2 to 7 follow. -/
def command (st : FnSt) (op : Word) (ws : List Word) (r : RunSt) : State := { base with
  funcs := [(0, { st := st, cmds := [⟨op :: 0x99 :: ws ++ List.replicate (14 - ws.length) 0, false, 0, none⟩] })]
  tiles := [(0, { mkTile thr with thr := [(0, { run := r })] })], ports := [(0, { st := 2 })] }
def first (s : State) : Cmd := (s.func 0).cmds.headD ⟨[], false, 0, none⟩
theorem witness_RingCommands_plain : (first (command .running 1 [] .running)).started = false ∧
    (first (command .running 1 [] .running)).badFormat = false ∧ (first (command .running 1 [1] .running)).badFormat = true ∧
    (first (command .idle 0x30 [] .stopped)).badFormat = false ∧ (first (command .failed 2 [] .running)).badFormat = false ∧
    (first (command .idle 0x40 [0x1000, 0] .stopped)).badFormat = false ∧ (0x1000 : Nat) < 0x28000000000 ∧
    (first (command .idle 0x40 [0, 0x280] .stopped)).badFormat = false ∧ 0x28000000000 ≤ ((0x280 : Word) ++ (0 : Word)).toNat := by
  decide +kernel
/-- PMEM of the last word, TCTL of thread 0 of tile 0 or 1, START, COPY, MSG with credit, QUIESCE. -/
theorem witness_RingCommands_tiles : let s := command .idle 0x10 [0, 1, 0, 16383, 1] .stopped
    (∀ h, (s.th 0 h).run = .stopped) ∧ (s.tile 0).func = some 0 ∧ s.tileOn 0 = true ∧ (s.tile 0).zeroed = true ∧
    (first s).badFormat = false ∧ 16383 + 1 ≤ 16384 ∧ s.hostPort = some 0 ∧
    (first (command .idle 0x11 [0, 5] .stopped)).badFormat = false ∧ ((command .idle 0x11 [1, 5] .stopped).tile 1).func ≠ some 0 ∧
    (first (command .idle 0x12 [0x10000] .stopped)).badFormat = false ∧ (1 : BitVec 4).getLsbD 0 = true ∧
    (first (command .running 0x20 [0, 0, 0, 1, 64] .running)).badFormat = false ∧
    ((command .running 0x20 [] .running).eng (.husk 0)).jobs.length < 8 ∧
    (first (command .running 0x50 [] .running)).badFormat = false ∧ ((command .running 0x50 [] .running).tilesOf 0).head? = some 0 := by
  decide +kernel
def msgState : State := { command .running 0x30 [3, 0, 5] .running with husk := [(0, { cred := [(0, { valid := true, qid := 3, bytes := 8 })] })] }
theorem witness_RingCommands_msg : (first msgState).badFormat = false ∧ msgState.copying 0 = false ∧ (msgState.tile 0).func = some 0 ∧
    (msgState.sendSide (.cmd false)).find 3 = some 0 ∧ ((msgState.sendSide (.cmd false)).entry 0).refused = false ∧
    8 ≤ ((msgState.sendSide (.cmd false)).entry 0).bytes ∧ (msgState.sendSide (.cmd false)).freeTag = some 0 := by decide +kernel
theorem test_start_runs : let u := after (.start 0) (command .idle 0x12 [0x10000] .stopped)
    (u.th 0 0).run = .running ∧ (u.th 0 0).st.pl = 2 ∧ (u.func 0).st = .running ∧
    (u.func 0).comps = [⟨0x99, 0, 0x12, 0, false⟩] := by decide +kernel
theorem test_tctl_permission : ((after (.tctl 0) (command .idle 0x11 [1, 5] .stopped)).func 0).comps = [⟨0x99, 4, 0x11, 0, false⟩] := by
  decide +kernel
theorem test_state_refusal : ((after (.pmem 0) (command .running 0x10 [0, 1, 0, 16383, 1] .stopped)).func 0).comps =
    [⟨0x99, 1, 0x10, 0, false⟩] := by decide +kernel
/-- A QUIESCE that has started with a timeout, its function quiet; a PMEM of two words at the end of program memory. -/
def started (st : FnSt) (ws : List Word) : State := { base with
  funcs := [(0, { st := st, cmds := [⟨ws ++ List.replicate (16 - ws.length) 0, true, 0, none⟩] })]
  tiles := [(0, { mkTile thr with thr := [] })], ports := [(1, { st := 2, out := [(3, .pmem 0)] })] }
theorem witness_RingCommands_ends : (started .quiescing [0x50, 9, 1]).fnQuiet 0 = true ∧ (1 : Word) ≠ 0 ∧
    ((started .quiescing [0x50, 9, 1]).func 0).st = .quiescing ∧ (first (started .quiescing [0x50, 9, 1])).started = true ∧
    ((started .idle [0x10, 9, 0, 1, 0, 16382, 2]).port 1).out = [(3, .pmem 0)] ∧
    (first (started .idle [0x10, 9, 0, 1, 0, 16382, 2])).got = 0 ∧ 16382 + 2 ≤ 16384 := by decide +kernel
theorem test_pmem_end : let u := after (.rdc 1 3 0 [0x34, 0xF2, 0x78, 0x16]) (started .idle [0x10, 9, 0, 1, 0, 16382, 2])
    (u.tile 0).pmem = [(16382, 0x3234), (16383, 0x1678)] ∧ (u.func 0).comps = [⟨9, 0, 0x10, 0, false⟩] := by decide +kernel

/-- A RESET command before another one, and the stages of a reset. -/
def resetting (st : ResetStage) : State := { base with funcs := [(0, { st := .resetting, rst := some ⟨st, some 9⟩ })]
                                                       tiles := [(0, { mkTile thr with thr := [(0, { run := .stopped })] })] }
theorem witness_FunctionReset : (command .failed 0x60 [] .running).copyJobs 0 = [] ∧
    (first (command .failed 0x60 [] .running)).badFormat = false ∧ ((command .failed 0x60 [] .running).func 0).st ≠ .absent ∧
    ((command .failed 0x60 [] .running).func 0).st ≠ .resetting ∧ base.alive = true ∧
    ((withThr atM).th 0 0).st.pl = 3 ∧ ((resetting .begun).func 0).rst = some ⟨.begun, some 9⟩ ∧
    ((resetting .stopped).func 0).rst = some ⟨.stopped, some 9⟩ ∧ (resetting .stopped).drained 0 = true ∧
    ((resetting .drained).func 0).rst = some ⟨.drained, some 9⟩ ∧ ((resetting .drained).tilesOf 0).count 0 = 1 ∧
    (resetting .drained).tileOn 0 = true ∧ ((resetting .drained).tile 0).func = some 0 ∧
    ((resetting .cleared).func 0).rst = some ⟨.cleared, some 9⟩ ∧ ((resetting .cleared).func 0).mcr = false := by decide +kernel
theorem test_reset_end : let u := after (.resetEnd 0) (resetting .cleared)
    (u.func 0).st = .idle ∧ (u.func 0).comps = [⟨9, 0, 0x60, 0, false⟩] := by decide +kernel

/-- An enabled completion ring of four entries at its last entry, with a completion waiting; the same ring full. -/
def ringed (head tail : BitVec 16) : State := { base with
  funcs := [(0, { st := .running, cqb := 0x1022, qhead := head, qtail := tail, comps := [⟨9, 0, 1, 0, false⟩] })], ports := [(0, { st := 2 })] }
theorem witness_RingsAndPosts : base.alive = true ∧ ((ringed 1 3).func 0).cqb.getLsbD 5 = true ∧
    (((ringed 1 3).func 0).comps.filter (fun k => k.post)).length < 16 ∧ (3 + 1) % 4 ≠ ((ringed 1 3).func 0).qhead.toNat % 4 ∧
    ((ringed 1 3).func 0).comps = ⟨9, 0, 1, 0, false⟩ :: [] ∧ (ringed 1 3).hostPort = some 0 ∧
    (({ base with funcs := [(0, { st := .idle })] } : State).func 0).st = .idle ∧ (ringed 1 3).activePorts ≠ [] ∧
    ((withThr atM).th 0 0).st.pl = 3 := by decide +kernel
theorem test_completion_wraps : let u := after (.completionEntryWrite 0) (ringed 1 3)
    (u.func 0).qtail = 0 ∧ (u.func 0).phase = false ∧ (u.func 0).comps = [] := by decide +kernel

/-! ## Witnesses and steps: the position timebase -/

theorem test_crc16 : crc16 [0x31, 0x32, 0x33, 0x34, 0x35, 0x36, 0x37, 0x38, 0x39] = 0x29B1 ∧
    crc16 [0x07, 0x01, 0x03, 0x12, 0x00, 0x00] = 0xDADF := by decide +kernel
/-- A timebase owned by function 0, its pin groups wired to it, with registers as given. -/
def timebase (p : Pt) : State := { base with pt := { p with cfg := 0x20 }, plan := { pinmux := (List.range 6).map (fun i => (i, 1)) } }
theorem witness_TimebaseInputs : (timebase {}).alive = true ∧ (timebase {}).unrec = false ∧
    SMap.get 0 (timebase {}).plan.pinmux (0 : BitVec 1).toNat = 1 ∧ SMap.get 0 base.plan.pinmux (0 : BitVec 1).toNat ≠ 1 ∧
    ((SMap.get 0 (timebase {}).pt.ccfg 0).extractLsb' 0 2).toNat = (0 : BitVec 1).toNat ∧
    (timebase {}).pt.qa.getLsbD 0 ≠ true ∧ 4 * ((SMap.get 0 (timebase {}).pt.ccfg 0).extractLsb' 5 8).toNat + 1 ≤ 1 ∧
    (SMap.get 0 (timebase { ccfg := [(0, 0x4000)] }).pt.ccfg 0).extractLsb' 13 2 = (2 : BitVec 2) ∧
    SMap.get 0 (timebase {}).plan.pinmux 2 = 1 ∧ (timebase { ssicfg := 0xA000 }).pt.ssicfg.getLsbD 15 = true ∧
    ((timebase { ssicfg := 0xA000 }).pt.ssicfg.extractLsb' 8 6).toNat = 32 ∧
    ((timebase { ssicfg := 0x8800 }).pt.ssicfg.extractLsb' 8 6).toNat = 8 ∧
    (timebase { ssicfg := 0xA000, ssiBusy := true, ccfg := [(1, 2)], ssiRef := some 5 }).pt.ssiBusy = true ∧
    ((SMap.get 0 (timebase { ccfg := [(1, 2)] }).pt.ccfg 1).extractLsb' 0 2).toNat = 2 := by decide +kernel
/-- R405: with one count a quadrature period, a rise of A before B counts up, and both at once are an error of the input, once;
R404: one sample too few changes nothing; R409: a word below the last counts down. -/
theorem test_quad_up : (after (.quadEdge 0 ⟨true, false, 1, 1⟩ none) (timebase {})).pt.count 0 = 1 ∧
    (after (.quadEdge 0 ⟨true, true, 1, 1⟩ none) (timebase {})).pt.qerr0 = 1 := by decide +kernel
theorem test_quad_filter : (after (.quadEdge 0 ⟨true, false, 4, 4⟩ none) (timebase { ccfg := [(0, 0x20)] })).pt.count 0 = 0 ∧
    (after (.quadEdge 0 ⟨true, false, 5, 5⟩ none) (timebase { ccfg := [(0, 0x20)] })).pt.count 0 = 1 := by decide +kernel
theorem test_ssi_down : ((after (.ssiUpdate 3) (timebase { ssicfg := 0x8800, ssiBusy := true, ccfg := [(1, 2)], ssiRef := some 5 })).pt.count 1 =
    0xFFFFFFFFFFFE) := by decide +kernel

/-- One enabled entry of counter 0 at position 5, forward, with action `act` on pin 2. -/
def armedEntry (act : DWord) : EvtEntry := { w0 := 0x8002000000000005 ||| (act <<< 52), w2 := 2 }
def eventing (act : DWord) : State := timebase { time := 10, evt := [(9, armedEntry act)] }
theorem witness_TimebaseEvents : (eventing 1).alive = true ∧ (eventing 1).ptLive = true ∧ (eventing 1).pt.evt = [(9, armedEntry 1)] ∧
    (armedEntry 1).w0.getLsbD 63 = true ∧ (armedEntry 1).w0.getLsbD 51 = false ∧ (armedEntry 1).w0.getLsbD 48 = false ∧
    (eventing 1).unrec = false ∧ (SMap.get 0 (eventing 1).pt.ccfg 0).extractLsb' 0 2 ≠ (3 : BitVec 2) ∧
    SMap.get 0 (eventing 1).plan.pinmux 0 = 1 ∧ (eventing 1).pt.wasAt ≠ (eventing 1).pt.time ∧
    0 < (5 : BitVec 48).toInt ∧ (armedEntry 1).w0.getLsbD 49 = true ∧
    ((armedEntry 1).w0.extractLsb' 0 48 - (eventing 1).pt.count 0).toNat = 5 ∧ ((armedEntry 0).w0.extractLsb' 52 3).toNat = 0 ∧
    ((armedEntry 2).w0.extractLsb' 52 3).toNat = 2 ∧ ((armedEntry 3).w0.extractLsb' 52 3).toNat = 3 ∧
    ((armedEntry 4).w0.extractLsb' 52 3).toNat = 4 ∧ ((armedEntry 5).w0.extractLsb' 52 3).toNat = 5 ∧ (4 : BitVec 48).toInt < 5 := by
  decide +kernel
theorem witness_TimebaseEvents_pulse : (timebase { pulse := 4 }).pt.pulse.getLsbD 2 = true ∧
    (SMap.get 0 (timebase { pulse := 4 }).pt.pulseEnd 2 - (0 : DWord)).toInt ≤ 0 ∧
    0 < (SMap.get 0 (timebase { pulse := 4, pulseEnd := [(2, 9)] }).pt.pulseEnd 2 - (0 : DWord)).toInt ∧
    (timebase { sendBuf := [⟨2, 0xFFF, 3, none, 1, [7], 0x13, false, 0, none⟩] }).pt.sendBuf = ⟨2, 0xFFF, 3, none, 1, [7], 0x13, false, 0, none⟩ :: [] := by
  decide +kernel
theorem test_event_sets_pin : let p := (after (.counterUpdate 0 5) (eventing 1)).pt
    p.level = 4 ∧ (p.entry 9).w0.getLsbD 63 = false ∧ (p.entry 9).seq = 1 ∧ p.count 0 = 5 := by decide +kernel
theorem test_event_not_passed : (after (.counterUpdate 0 4) (eventing 1)).pt.level = 0 := by decide +kernel
/-- R415: a pulse of one unit ends 1,024 Husk cycles after its pin rises. -/
theorem test_event_pulse : SMap.get 0 (after (.counterUpdate 0 5) (eventing 3)).pt.pulseEnd 2 = 10 + 2 + 1024 ∧
    (after (.pulseEnd 2) (timebase { time := 10, pulse := 4, level := 4, pulseEnd := [(2, 1036)] })).pt.time = 1036 := by decide +kernel
theorem witness_TimebaseRegisters : (timebase {}).alive = true ∧ ((timebase {}).th 0 0).st.pl = 2 ∧ (timebase {}).pt.cfg.getLsbD 5 = true ∧
    ((timebase {}).tile 0).func = some ((timebase {}).pt.cfg.extractLsb' 0 5) ∧ ((timebase {}).pt.entry 9).w0.getLsbD 63 = false ∧
    (0x0002000000000005 : BitVec 64).extractLsb' 49 2 ≠ (0 : BitVec 2) ∧ ((0x0002000000000005 : BitVec 64).extractLsb' 52 3).toNat < 6 ∧
    (0x0002000000000005 : BitVec 64).getLsbD 51 = false ∧ (5 : BitVec 64).extractLsb' 49 2 = (0 : BitVec 2) ∧
    ((timebase {}).pt.slotAt 3).armed = false ∧ ((timebase { slot := [(3, { armed := true })] }).pt.slotAt 3).armed = true := by
  decide +kernel

/-- R428, R536: a driven pin, a pin with POL 1, and one whose OE bit is 0. -/
theorem test_event_lands : let s := timebase { oe := 0x03, pol := 0x02, level := 0x03 }
    (s.eventLand 0, s.eventLand 1, s.eventLand 2) = (some true, some false, none) ∧
    ({ s with unrec := true } : State).eventLand 0 = none := by decide +kernel
/-- The QUERY that the spec writes out, to port address 7, with slot 3 as given. -/
def queryBytes : List Byte := [0x07, 0x01, 0x03, 0x12, 0x00, 0x00, 0xDA, 0xDF]
def answering (x : Slot) : State := timebase { lacfg := 0x4007, slot := [(3, x)] }
theorem witness_LineFrames : (answering {}).alive = true ∧ (answering {}).unrec = false ∧ SMap.get 0 (answering {}).plan.pinmux 5 = 1 ∧
    (answering {}).pt.lacfg.getLsbD 14 = true ∧ (answering {}).pt.lade = false ∧
    (0xDA : Byte) ++ (0xDF : Byte) = crc16 [0x07, 0x01, 0x03, 0x12, 0x00, 0x00] ∧
    (7 : Byte) = (answering {}).pt.lacfg.extractLsb' 0 8 ∧ (answering {}).ptLive = true ∧
    ((answering {}).pt.slotAt 3).valid = false ∧ ((answering { valid := true, item := 1 }).pt.slotAt 3).item ≠ 0x1203 ∧
    ((answering { valid := true, item := 0x1203 }).pt.slotAt 3).armed = false ∧
    ((answering { valid := true, item := 0x1203, armed := true }).pt.slotAt 3).armed = true ∧
    ({ answering {} with funcs := [] } : State).ptLive = false ∧
    (0xDA : Byte) ++ (0xDE : Byte) ≠ crc16 [0x07, 0x01, 0x03, 0x12, 0x00, 0x00] ∧
    (timebase { answer := some [1] }).pt.answer = some [1] ∧ (timebase { lade := true }).pt.lade = true := by decide +kernel
theorem test_query_answered : let p := (after (.query queryBytes) (answering { valid := true, item := 0x1203, armed := true, ans := 0x44332211 })).pt
    (p.answer.getD []).take 10 = [0x07, 0x81, 0x03, 0x12, 0x00, 0x00, 0x11, 0x22, 0x33, 0x44] ∧ (p.slotAt 3).served = true ∧
    p.laAnswer = 1 := by decide +kernel
theorem test_query_not_armed : ((after (.query queryBytes) (answering { valid := true, item := 0x1203 })).pt.answer.getD []).take 7 =
    [0x07, 0x82, 0x03, 0x12, 0x00, 0x00, 3] := by decide +kernel

/-! ## Witnesses and steps: start-up and loader -/

def starting (l : Loader) : State := { State.reset with lands := { coldrst := true }, ld := l }
theorem witness_ColdStart : State.reset.lands.coldrst = false ∧ (starting {}).lands.coldrst = true ∧ (starting {}).lands.railHold = false ∧
    (starting {}).ld.phase.toNat < 4 ∧ (starting {}).ld.identityDone = false ∧ (List.replicate 1312 (0 : Byte)).length = 1312 ∧
    (starting {}).ld.fabricDone = false ∧ (∀ f, ((starting {}).func f).st = .absent) ∧ (starting {}).unrec = false ∧
    (starting { phase := 4, fabricDone := true }).ld.phase.toNat ≤ 4 ∧ (starting { phase := 4, fabricDone := true }).ld.hbmDone = false := by
  refine ⟨rfl, rfl, rfl, by decide, rfl, by decide +kernel, rfl, fun f => rfl, rfl, by decide, rfl⟩
theorem test_hbm_fails : let u := after (.hbmPhase false) (starting { phase := 2, fabricDone := true })
    u.unrec = true ∧ u.reason = 1 ∧ u.ld.phase = 6 := by decide +kernel

/-- Flash with a header (R462): MAGIC, VERSION and NSECT. -/
def header (magic version n : Nat) : SMap Byte :=
  ((byteList (BitVec.ofNat 32 magic) 4 ++ byteList (BitVec.ofNat 16 version) 2 ++ byteList (BitVec.ofNat 16 n) 2).zipIdx).map (fun p => (p.2, p.1))
def reading (f : SMap Byte) : State := starting { phase := 2, identityDone := true, fabricDone := true, flash0 := f }
theorem witness_ImageReading : (reading []).lands.coldrst = true ∧ (reading []).ld.identityDone = true ∧ (reading []).ld.phase = 2 ∧
    (starting { phase := 3, identityDone := true, fabricDone := true }).ld.phase = 3 ∧ (reading []).ld.present0 = true ∧
    ({ (reading []).ld with present0 := false } : Loader).present0 = false ∧ flashNat [] 0 4 ≠ 0x49525944 ∧
    flashNat (header 0x49525944 2 1) 0 4 = 0x49525944 ∧ flashNat (header 0x49525944 2 1) 4 2 ≠ 1 ∧
    flashNat (header 0x49525944 1 0) 4 2 = 1 ∧ flashNat (header 0x49525944 1 0) 6 2 = 0 ∧ 64 < flashNat (header 0x49525944 1 65) 6 2 ∧
    ∀ f, ((reading []).func f).st = .absent := by
  refine ⟨by decide, by decide, by decide, by decide, by decide, rfl, by decide +kernel, by decide +kernel, by decide +kernel,
    by decide +kernel, by decide +kernel, by decide +kernel, fun f => rfl⟩
/-- R467: MAGIC at offset 0 and FORMAT at offset 4 come before any key; a device that is absent or does not answer. -/
theorem test_image_code_2 : (after (.imageRead false true) (reading [])).ld.erra = 2 ∧
    (after (.imageRead false true) (reading (header 0x49525944 2 1))).ld.erra = 0x0000000400000002 := by decide +kernel
theorem test_image_code_9 : (after (.imageRead false false) (reading (header 0x49525944 1 1))).ld.erra = 9 ∧
    (after (.imageRead false true) { reading [] with ld := { (reading []).ld with present0 := false } }).ld.erra = 1 := by
  decide +kernel
/-- SHA3-256 of no bytes and of "abc", as FIPS 202 gives them. -/
theorem test_sha3_empty : leBits 256 (sha3_256 []).reverse = 0xA7FFC6F8BF1ED76651C14756A061D662F580FF4DE43B49FA82D80A4B80F8434A := by
  decide +kernel
theorem test_sha3_abc : leBits 256 (sha3_256 [0x61, 0x62, 0x63]).reverse =
    0x3A985DA74FE225B2045C172D6BD390BD855F086E3E9D525B46BFE24511431532 := by decide +kernel
theorem witness_ImageApplication : (starting { phase := 4, hbmDone := true }).lands.coldrst = true ∧
    (starting { phase := 4, hbmDone := true }).lands.railHold = false ∧ (starting { phase := 4, hbmDone := true }).ld.phase = 4 ∧
    (starting { phase := 4, hbmDone := true }).ld.hbmDone = true ∧ (starting { phase := 4, hbmDone := true }).ld.applied = false ∧
    (starting { phase := 4, hbmDone := true }).ld.secs = [] := by decide
/-- A staged image whose one SETTINGS record names CT_TCTL0 of tile 0. -/
def tctlRecord : SMap Byte := ((byteList (0x3F0000000008 : DWord) 8 ++ byteList (0 : DWord) 8).zipIdx).map (fun p => (p.2, p.1))
/-- A part whose image defines function 0 and starts thread 0 of tile 0 at M; TCTL of no other thread is named. -/
def releasing : State := { starting { phase := 4, applied := true, secs := [⟨3, 0, 16, []⟩], staged := tctlRecord } with
  tiles := [(0, { mkTile { slv := true } with lmem := [] })], plan := { defs := 1, imgRun := [(0, true)] } }
theorem witness_Release : releasing.lands.coldrst = true ∧ releasing.lands.railHold = false ∧ releasing.ld.phase = 4 ∧
    releasing.ld.applied = true ∧ releasing.unrec = false ∧ 0x3F0000000008 ∈ releasing.ld.named ∧ 0x3F0000000010 ∉ releasing.ld.named ∧
    SMap.get false releasing.plan.imgRun 0 = true ∧ (releasing.tile 0).zeroed = true ∧ (releasing.tile 0).func.isSome = true ∧
    (releasing.th 0 0).run = .stopped ∧ releasing.plan.defs.getLsbD 0 = true ∧ releasing.plan.defs.getLsbD 1 = false := by decide
theorem test_release : let u := after .release releasing
    (u.th 0 0).run = .running ∧ (u.th 0 0).st.pl = 3 ∧ (u.func 0).st = .running ∧ (u.func 1).st = .absent ∧ u.ld.phase = 5 := by
  decide +kernel
/-- R466: a field that no section named takes its default at the release. -/
theorem test_release_default : ((after .release { releasing with tiles := [(0, { mkTile { slv := true } with quietWin := 3, pbb := 5 })] }).tile 0).quietWin = 16 ∧
    ((after .release { releasing with tiles := [(0, { mkTile { slv := true } with quietWin := 3, pbb := 5 })] }).tile 0).pbb = 0x40000000 := by
  decide +kernel

def loading (l : Loader) : State := { base with ld := { l with phase := 5 }, funcs := [(0, { st := .running, mgmt := true })] }
theorem witness_LoaderOperations : (loading {}).lands.coldrst = true ∧ ((loading {}).th 0 0).st.pl = 2 ∧ ((loading {}).func 0).mgmt = true ∧
    (loading { fbusy := true }).ld.fbusy = true ∧ (loading {}).ld.fbusy = false ∧ (0x1001 : Word).toNat % 4096 ≠ 0 ∧
    0x8000000 < (0x8000000 : Word).toNat + 4096 ∧ 0x7F00000 < (0x7F00000 : Word).toNat + 4096 ∧ (0x7F00000 : Word).toNat + 65536 ≤ 0x8000000 ∧
    (0x7EF0000 : Word).toNat + 65536 ≤ 0x7F00000 ∧ (loading {}).ld.present1 = true ∧ (loading { present1 := false }).ld.present1 = false ∧
    (loading { fbusy := true, fop := 3 }).ld.fop = 3 ∧ (loading { abusy := true }).ld.abusy = true ∧
    (loading { abusy := true, idv := true }).ld.idv = true ∧ (List.replicate 2420 (0 : Byte)).length = 2420 := by decide +kernel
theorem test_flash_protected : (after (.flashErase .mgmt false 0x7F00000) (loading {})).ld.fstatus = 4 := by decide +kernel
theorem test_flash_erases : (after (.flashOpDone false) (loading { fbusy := true, fop := 3, flash0 := [(0, 0x0F), (65536, 0)] })).ld.flash0 =
    [(65536, 0)] := by decide +kernel

/-! ## Witnesses and steps: power, reset, service access -/

/-- Cob 0 in mode 2 with its tiles idle for a window of 65,536 cycles, and with its domains as given. -/
def idle (n m : Power) : State := { base with
  pw := { kiln0 := true }
  cobs := [(0, { north := n, south := .off, memif := m, idleN := 65536, idleS := 65536 })], funcs := [(0, { st := .idle })]
  tiles := [(0, { mkTile {} with quietCnt := 0, quietWin := 0 })]
  plan := { nmode := [(0, 2)], smode := [(0, 2)], mmode := [(0, 1)], dwin := [(0, 1)] } }
theorem witness_PowerDomains : (idle .on .on).lands.coldrst = true ∧ (idle .on .on).ld.phase = 5 ∧
    SMap.get 0 (idle .on .on).plan.nmode 0 = 2 ∧ ((idle .on .on).cob 0).north = .on ∧
    (SMap.get 0 (idle .on .on).plan.dwin 0).toNat * 65536 ≤ ((idle .on .on).cob 0).idleN ∧
    (idle .off .on).memifMayOff 0 = true ∧ SMap.get 0 base.plan.nmode 0 ≠ 1 ∧ SMap.get 0 base.plan.nmode 0 ≠ 2 ∧
    SMap.get 0 ({ base with plan := { nmode := [(0, 1)] } } : State).plan.nmode 0 = 1 ∧
    ((idle (.goingOff true) .on).cob 0).north = .goingOff true ∧ ((idle .off (.goingOff false)).cob 0).memif = .goingOff false ∧
    ((idle .goingOn .on).cob 0).north = .goingOn ∧ ((idle .goingOn .on).cob 0).memif = .on ∧ (idle .goingOn .on).plan.restore = [] ∧
    ((idle .off .goingOn).cob 0).memif = .goingOn := by decide +kernel
theorem witness_PowerDomains_idle : (idle .on .on).halfIdle 0 false = true := by decide +kernel
theorem test_half_off : let u := after (.halfSwitchOff 0 false) (idle .on .on)
    (u.cob 0).north = .goingOff false ∧ u.tileOn 0 = false := by decide +kernel
theorem test_wake_held : ((after (.domainWake (.half 0 false)) (idle (.goingOff false) .on)).cob 0).north = .goingOff true := by
  decide +kernel
theorem witness_PowerDomains_wakes : (idle .on .on).pw.kiln0 = true ∧ base.pw.kiln0 = false ∧ (idle .on .on).winHeld = [] ∧
    ((idle .off .on).cob 0).north = .off ∧ SMap.get 0 ({ idle .on .on with plan := { nmode := [(0, 1)] } } : State).plan.nmode 0 = 1 := by
  decide
def kiln (k : Power) (hold : Option (List Xid)) : State :=
  { base with pw := { kiln0 := true, kiln1 := k, routeHold := hold }, plan := { k1mode := true, k1off := 10, k1on := 200 } }
theorem witness_KilnChanges : (kiln .on none).alive = true ∧ (kiln .on none).plan.k1mode = true ∧ (kiln .on none).pw.kiln1 = .on ∧
    (kiln .on none).ld.phase = 5 ∧ (kiln .on none).pw.routeHold = none ∧ base.plan.k1mode = false ∧
    (List.replicate 16 (List.replicate 18 ((4 : BitVec 8), (5 : BitVec 8)))).length = 16 ∧
    (∀ x ∈ List.replicate 16 (List.replicate 18 ((4 : BitVec 8), (5 : BitVec 8))), x.length = 18 ∧
      ∀ y ∈ x, y.1.toNat + y.2.toNat < (kiln .on none).plan.k1off.toNat) ∧
    (∃ x ∈ [(0 : BitVec 8), 201], (kiln .off none).plan.k1on.toNat < x.toNat) ∧ (kiln .off none).pw.kiln1 = .off ∧
    ¬(∃ x ∈ [(200 : BitVec 8)], (kiln .off none).plan.k1on.toNat < x.toNat) ∧
    (kiln (.goingOff true) (some [])).pw.routeHold = some [] ∧ (kiln (.goingOff true) (some [])).inKilns = [] ∧
    (kiln (.goingOff true) none).pw.kiln1 = .goingOff true ∧ (kiln .goingOn none).pw.kiln1 = .goingOn := by
  refine ⟨rfl, rfl, rfl, rfl, rfl, rfl, List.length_replicate, fun x hx => ?_, by decide, rfl, by decide, rfl, rfl, rfl, rfl⟩
  rw [List.eq_of_mem_replicate hx]
  exact ⟨List.length_replicate, fun y hy => by rw [List.eq_of_mem_replicate hy]; decide⟩
theorem test_kiln_off : let u := after (.kiln1SwitchOff (List.replicate 16 (List.replicate 18 (4, 5)))) (kiln .on none)
    u.pw.kiln1 = .goingOff false ∧ u.pw.routeHold = some [] := by decide +kernel
theorem test_kiln_stays : (after (.kiln1SwitchOff (List.replicate 16 (List.replicate 18 (5, 5)))) (kiln .on none)).pw.kiln1 = .on := by
  decide +kernel

theorem witness_ClocksAndHeat : base.alive = true ∧ (base.cob 0).memif = .on ∧ base.ld.phase = 5 ∧
    (({ base with cobs := [(0, { memif := .on, sagging := true, droop := 3 })] } : State).cob 0).sagging = true ∧
    (0x27FFFFFFFFF : Nat) < 0x28000000000 ∧ base.sliceOn 0 = true ∧
    (SMap.get ({} : Temp) [(0, { cur := 115 })] 0).cur.toNat = 115 ∧ (90 : Byte).toNat < (95 : Byte).toNat := by decide
theorem test_trip : let u := after (.temperatureRead [115] []) base
    u.pw.trip = true ∧ u.lands.thermtrip = true ∧ (u.cob 7).therm = 3 := by decide +kernel
theorem test_no_trip : (after (.temperatureRead [114] [104]) base).pw.trip = false := by decide +kernel
theorem test_sag_at_limit : let x := (after (.sag 0) { base with cobs := [(0, { memif := .on, droop := 3 })] }).cob 0
    x.droop = 3 ∧ x.sags = 0 ∧ x.sagging = true := by decide +kernel

theorem witness_ResetAndRails : base.lands.coldrst = true ∧ (22 : BitVec 5).toNat < 23 ∧ (23 : BitVec 5).toNat ≤ 25 ∧
    ¬(23 : BitVec 5).toNat < 23 ∧ State.reset.lands.coldrst = false := by decide
theorem test_rail_loses_state : let u := after (.railFault 22) base
    u.lands.railHold = true ∧ u.tiles = [] ∧ u.alive = false := by decide +kernel
theorem test_standby_rail : (after (.railOff 25) { base with side := { dynAddr := some 3 } }).side.dynAddr = none := by decide +kernel

def dark : State := { base with ld := { phase := 4 }, cobs := [] }
/-- An SMBus transfer to the static address with its command and data, and a write with the PEC of R547 after it. -/
def smbus (l : List Byte) : SbXfer := ⟨false, 0x4A, l, 0⟩
def smbusWrite (l : List Byte) : SbXfer := smbus (l ++ [pec (0x94 :: l)])
/-- CE_FQH of tile 0, in an access of `n` bytes. -/
def fqhAt (n : Byte) : List Byte := byteList (0x3F0200000020 : BitVec 48) 6 ++ [n]
/-- The CRC-8 of x^8 + x^2 + x + 1 of the bytes "123456789". -/
theorem test_pec : pec [0x31, 0x32, 0x33, 0x34, 0x35, 0x36, 0x37, 0x38, 0x39] = 0xF4 := by decide +kernel
theorem witness_TestAccess : base.lands.coldrst = true ∧ base.lands.railHold = false ∧
    ((0x3F0200000020 : BitVec 48).extractLsb' 0 46).toNat = 0x3F0200000020 + (0 : TileId).toNat * 0x10000 ∧
    (0x3F0200000020 : BitVec 48).getLsbD 46 = false ∧ (0x3F0200000020 : BitVec 48).getLsbD 47 = false ∧
    (0xBF0200000020 : BitVec 48).getLsbD 47 = true ∧ base.tileOn 0 = true ∧ (base.tile 0).zeroed = true ∧
    dark.tileOn 0 = false ∧ dark.ld.phase ≠ 5 ∧
    ({ base with side := { held := [⟨.jtag, true, 0x3F0200000020, 4, 7⟩] } } : State).side.held = ⟨.jtag, true, 0x3F0200000020, 4, 7⟩ :: [] ∧
    base.ld.applied = false ∧ (loading { applied := true }).ld.applied = true := by decide
theorem witness_Sideband : base.lands.railOff.getLsbD 25 = false ∧ ({ base with lands := { railOff := 0x2000000 } } : State).lands.railOff.getLsbD 25 = true ∧
    base.side.dynAddr = none ∧ (smbus []).i3c = false ∧ (smbus []).addr = 0x4A ∧
    ({ base with side := { dynAddr := some 9 } } : State).side.dynAddr = some (⟨true, 9, [], 0⟩ : SbXfer).addr ∧
    (smbus (0x01 :: fqhAt 4)).bytes = 0x01 :: (byteList (0x3F0200000020 : BitVec 48) 6 ++ [4]) ∧
    (smbusWrite (0x02 :: fqhAt 4 ++ byteList (7 : BitVec 64) 4)).bytes = (0x02 :: fqhAt 4 ++ byteList (7 : BitVec 64) 4) ++
      [pec ((0x94 : Byte) :: (0x02 :: fqhAt 4 ++ byteList (7 : BitVec 64) 4))] ∧
    (∀ l : List Byte, ([] : List Byte) ≠ l ++ [pec (0x94 :: l)]) ∧
    State.reset.lands.coldrst = false ∧ (2 : Byte) ≠ 4 ∧ (2 : Byte) ≠ 8 ∧ (0x3F0500000000 : BitVec 46).toNat = 0x3F0500000000 ∧
    dark.tileOn 0 = false ∧ dark.ld.phase ≠ 5 ∧ base.tileOn 0 = true ∧ (base.tile 0).zeroed = true := by
  refine ⟨by decide, by decide, rfl, rfl, rfl, rfl, rfl, rfl, fun l => by cases l <;> simp, by decide, by decide, by decide, by decide,
    by decide, by decide, by decide, by decide⟩
theorem test_sideband_write : ((after (.csrWrite (smbusWrite (0x02 :: fqhAt 4 ++ [0x78, 0x56, 0x34, 0x12]))) base).tile 0).eng.fqh =
    0x12345678 := by decide +kernel
theorem test_sideband_pec : after (.csrWrite (smbus (0x02 :: fqhAt 4 ++ [0x78, 0x56, 0x34, 0x12, 0]))) base = base := by decide +kernel
theorem test_sideband_moved : after (.sidebandStatus (smbus [3])) { base with side := { dynAddr := some 9 } } =
    { base with side := { dynAddr := some 9 } } := by decide +kernel
theorem test_image_field_unapplied :
    (after (.csrRead (smbus (0x01 :: fqhAt 4))) { base with ld := { phase := 4 }, tiles := [(0, { mkTile thr with eng := { fqh := 7 } })] }).side.reply =
      0 :: List.replicate 4 0 := by decide +kernel
theorem test_image_entry : (((base.imageWrite 0x3F0800010000 0x800B000000000000).imageWrite 0x3F0800010008 5).pt.entry 0).period = 5 ∧
    (((base.imageWrite 0x3F0800010000 0x800B000000000000).imageWrite 0x3F0800010008 5).pt.entry 0).imageEnd.en = true ∧
    ((base.imageWrite 0x3F0800010000 0x800B000000000000).pt.entry 0).imageEnd.en = false := by decide +kernel
theorem test_sideband_width : (after (.csrRead (smbus (0x01 :: fqhAt 2))) base).side.reply = 3 :: List.replicate 8 0 := by decide +kernel

theorem witness_RegisterWrites : base.lands.coldrst = true ∧ base.lands.railHold = false ∧ ((withThr atU).th 0 0).st.pl = 1 ∧
    (base.th 0 0).st.pl = 2 ∧ (base.tile 0).func = some 0 ∧ (base.tile 4).func ≠ some 0 ∧ ((withThr atM).th 0 0).st.pl = 3 ∧
    base.tileOn 0 = true ∧ (base.tile 0).zeroed = true ∧ (8 : Byte) ≠ 4 ∧ dark.tileOn 0 = false := by decide
/-- R365: the refused write of a thread at U leaves the register and records a Store Error. -/
theorem test_register_at_u : let u := after (.registerWrite (.thread 0 0) 0x3F0200000020 4 7) (withThr atU)
    (u.tile 0).eng.fqh = 0 ∧ (u.th 0 0).se.length = 1 ∧ u.free = (withThr atU).free + 1 := by
  refine ⟨rfl, rfl, rfl⟩

/-! ## Witnesses: the whole block -/

def queuedNop : State := { base with pending := [.nop 0 0, .stop 0 0] }
theorem witness_StepRunsFront : queuedNop.pending = .nop 0 0 :: [.stop 0 0] ∧ base.pending = [] := ⟨rfl, rfl⟩
theorem test_step_front : step queuedNop = exec (.nop 0 0) { queuedNop with pending := [.stop 0 0] } := rfl
theorem test_step_idle : (match step base with
    | .next u => u.pt.time
    | _ => 0) = 1 := by decide +kernel
theorem witness_EncodingsAgree : encode (.ldi 0 0 1 40) = 0x0B88 :: [0, 0x28] ∧ WellFormed (.ldi 0 0 1 40) = true ∧
    decodeInstr 0 0 0x0B88 0 0x28 = some (.ldi 0 0 1 40) := by decide
theorem witness_MemoriesStayCanonical : MemoriesWf base ∧ (∀ t, Memory.wf (base.tile t).lmem = true) ∧ ∃ u, step base = .next u :=
  ⟨⟨rfl, rfl⟩, fun t => by
    unfold base withThr mkState State.tile
    simp only [SMap.get]
    split <;> rfl, ⟨_, rfl⟩⟩
theorem witness_TileShapesStayLegal : (∀ t k, let r := SMap.get {} (base.tile t).treg k
    1 ≤ r.rows ∧ 4 ≤ r.len ∧ r.len % 4 = 0 ∧ r.rows * r.len ≤ 2048) ∧ ∃ u, step base = .next u :=
  ⟨fun t k => by
    unfold base withThr mkState State.tile
    simp only [SMap.get]
    split <;> simp [mkTile, SMap.get], ⟨_, rfl⟩⟩

end Sys2Proof.Tests
end

section
/-! The integer instructions and the block repeat (R97, R98, R118): the model's flags in the terms of the statements, the
completion of a scalar instruction, and from them the obligations O1 and O4. -/
namespace Sys2Proof.Machine

open Sys2Proof.Safety

/-! ## Flags (R97, R98) -/

theorem bit_31_eq_msb (a : Word) : bit a 31 = a.msb := (BitVec.msb_eq_getLsbD_last a).symm

theorem flagsZN_eq_withZN (x : Status) (r : Word) : flagsZN x r = withZN x r := by
  rw [flagsZN, withZN, bit_31_eq_msb]
  rfl

/-- The overflow test of the bit vector library is the model's: an integer lies outside the range of a signed word exactly
when it is not the signed value of its low 32 bits. -/
theorem overflow_eq_ne_toInt {z : Int} {r : Word} (hr : BitVec.ofInt 32 z = r) :
    (decide (z ≥ 2 ^ 31) || decide (z < -2 ^ 31)) = decide (z ≠ r.toInt) := by
  rw [← hr, BitVec.toInt_ofInt, Int.bmod_def, ← Bool.decide_or, decide_eq_decide]
  omega

theorem saddOverflow_eq (a b : Word) : a.saddOverflow b = decide (a.toInt + b.toInt ≠ (a + b).toInt) :=
  overflow_eq_ne_toInt (by simp [BitVec.ofInt_add])

theorem ssubOverflow_eq (a b : Word) : a.ssubOverflow b = decide (a.toInt - b.toInt ≠ (a - b).toInt) :=
  overflow_eq_ne_toInt (by simp [Int.sub_eq_add_neg, BitVec.ofInt_add, BitVec.ofInt_neg, BitVec.sub_eq_add_neg])

theorem smulOverflow_eq (a b : Word) : a.smulOverflow b = decide (a.toInt * b.toInt ≠ (a * b).toInt) :=
  overflow_eq_ne_toInt (by simp [BitVec.ofInt_mul])

/-- The carry out of bit 31 is the carry of the whole unsigned sum. -/
theorem carry_32_eq (a b : Word) : BitVec.carry 32 a b false = decide (2 ^ 32 ≤ a.toNat + b.toNat) := by
  simp [BitVec.carry, Nat.mod_eq_of_lt a.isLt, Nat.mod_eq_of_lt b.isLt]

theorem addFlags_eq (x : Status) (a b : Word) :
    addFlags x a b = (a + b, { withZN x (a + b) with c := BitVec.carry 32 a b false, v := a.saddOverflow b }) := by
  simp only [addFlags, flagsZN_eq_withZN, carry_32_eq, saddOverflow_eq]

theorem subFlags_eq (x : Status) (a b : Word) :
    subFlags x a b = (a - b, { withZN x (a - b) with c := decide (b ≤ a), v := a.ssubOverflow b }) := by
  simp only [subFlags, flagsZN_eq_withZN, ssubOverflow_eq, BitVec.le_def]

theorem logicFlags_eq (x : Status) (r : Word) : logicFlags x r = (r, withZN x r) := by
  rw [logicFlags, flagsZN_eq_withZN]

theorem mulFlags_eq (x : Status) (a b : Word) :
    mulFlags x a b = (a * b, { withZN x (a * b) with v := a.smulOverflow b }) := by
  simp only [mulFlags, flagsZN_eq_withZN, smulOverflow_eq]

theorem toNat_eq_zero_iff {n : Nat} (a : BitVec n) : a.toNat = 0 ↔ a = 0 := by simp [← toNat_eq_iff]

theorem shlFlags_eq (x : Status) (a n : Word) :
    shlFlags x a n = (a <<< n.toNat, { withZN x (a <<< n.toNat) with
      c := if n.toNat = 0 then x.c else if n.toNat ≤ 32 then a.getLsbD (32 - n.toNat) else false }) := by
  have hr : (if n.toNat ≤ 32 then a <<< n.toNat else 0) = a <<< n.toNat :=
    ite_eq_left_iff.mpr fun hn => (BitVec.shiftLeft_eq_zero (by omega)).symm
  simp only [shlFlags, flagsZN_eq_withZN, hr, bit, toNat_eq_zero_iff]

theorem shrFlags_eq (x : Status) (a n : Word) :
    shrFlags x a n = (a >>> n.toNat, { withZN x (a >>> n.toNat) with
      c := if n.toNat = 0 then x.c else if n.toNat ≤ 32 then a.getLsbD (n.toNat - 1) else false }) := by
  have hr : (if n.toNat ≤ 32 then a >>> n.toNat else 0) = a >>> n.toNat :=
    ite_eq_left_iff.mpr fun hn => (BitVec.ushiftRight_eq_zero (by omega)).symm
  simp only [shrFlags, flagsZN_eq_withZN, hr, bit, toNat_eq_zero_iff]

/-- An arithmetic shift by the width or more leaves copies of the sign. -/
theorem sshiftRight_eq_of_le (a : Word) {k : Nat} (hk : 32 ≤ k) :
    a.sshiftRight k = if a.msb then BitVec.allOnes 32 else 0 := by
  split
  case isTrue hm => rw [BitVec.sshiftRight_eq_of_msb_true hm, BitVec.ushiftRight_eq_zero hk, BitVec.not_zero]
  case isFalse hm =>
    rw [BitVec.sshiftRight_eq_of_msb_false (Bool.eq_false_iff.mpr hm), BitVec.ushiftRight_eq_zero hk, BitVec.ofNat_eq_ofNat]

theorem sarFlags_eq (x : Status) (a n : Word) :
    sarFlags x a n = (a.sshiftRight n.toNat, { withZN x (a.sshiftRight n.toNat) with
      c := if n.toNat = 0 then x.c else if n.toNat ≤ 32 then a.getLsbD (n.toNat - 1) else a.msb }) := by
  have hr : (if n.toNat ≤ 32 then a.sshiftRight n.toNat else if a.msb then BitVec.allOnes 32 else 0) =
      a.sshiftRight n.toNat :=
    ite_eq_left_iff.mpr fun hn => (sshiftRight_eq_of_le a (by omega)).symm
  simp only [sarFlags, flagsZN_eq_withZN, bit_31_eq_msb, hr, toNat_eq_zero_iff]
  rfl

/-! ## Completion of a scalar instruction (R97, R119) -/

theorem Thread.advance_eq_onward (x : Thread) (len : Nat) : x.advance len = onward x len := by
  simp [Thread.advance, onward]

/-- A scalar instruction of a ready thread completes: its effect on the thread, then the next PC. -/
theorem scalarOp_retires {i : Instr} {s : State} {t : TileId} {h : Thr} {len : Nat} {f : Thread → Thread} {y : Thread}
    (r : Ready s t h len) (e : exec i s = .next (scalarOp t h len f s)) (hy : f (s.th t h) = y) :
    Retires i s t h (onward y len) := by
  rw [scalarOp, issue_of_ready r] at e
  rw [← hy, ← Thread.advance_eq_onward]
  exact State.finish_retires e

/-- A scalar instruction whose effect is a result for Dd and new flags. -/
theorem alu_retires {i : Instr} {s : State} {t : TileId} {h : Thr} {len : Nat} {d : Reg} {f : Thread → Word × Status}
    {v : Word} {st : Status} (r : Ready s t h len) (e : exec i s = .next (scalarOp t h len (fun k => k.alu d (f k)) s))
    (hf : f (s.th t h) = (v, st)) : Retires i s t h (onward { (s.th t h).setD d v with st := st } len) :=
  scalarOp_retires r e (by rw [hf, Thread.alu])

/-- Settles O1: each instruction is one scalar operation, and its flag function is the one that the statement spells out. -/
theorem integerInstructions : Obligations.IntegerInstructions := by
  unfold Obligations.IntegerInstructions
  intro s t h d r imm w
  refine ⟨fun h1 => ⟨?add, ?sub, ?cmp, ?and, ?or, ?xor, ?shl, ?shr, ?sar, ?mul, ?mov⟩,
    fun h2 => ⟨?addi, ?andi, ?cmpi⟩, fun h3 => ?ldi⟩
  case add => exact alu_retires h1 rfl (addFlags_eq _ _ _)
  case sub => exact alu_retires h1 rfl (subFlags_eq _ _ _)
  case cmp => exact scalarOp_retires h1 rfl (by rw [subFlags_eq])
  case and => exact alu_retires h1 rfl (logicFlags_eq _ _)
  case or => exact alu_retires h1 rfl (logicFlags_eq _ _)
  case xor => exact alu_retires h1 rfl (logicFlags_eq _ _)
  case shl => exact alu_retires h1 rfl (shlFlags_eq _ _ _)
  case shr => exact alu_retires h1 rfl (shrFlags_eq _ _ _)
  case sar => exact alu_retires h1 rfl (sarFlags_eq _ _ _)
  case mul => exact alu_retires h1 rfl (mulFlags_eq _ _ _)
  case mov => exact scalarOp_retires h1 rfl rfl
  case addi => exact alu_retires h2 rfl (addFlags_eq _ _ _)
  case andi => exact alu_retires h2 rfl (logicFlags_eq _ _)
  case cmpi => exact scalarOp_retires h2 rfl (by rw [subFlags_eq])
  case ldi => exact scalarOp_retires h3 rfl rfl

/-! ## Block repeat (R118) -/

theorem Thread.startRep_eq (x : Thread) (dc : Reg) (po : PWord) : x.startRep dc po =
    if x.getD dc = 0 ∨ po - 2 = 0 then { x with rcnt := 0, pc := x.pc + po }
    else { x with rcnt := x.getD dc, rstart := x.pc + 2, rend := x.pc + po, st := { x.st with rep := true },
                  pc := x.pc + 2 } := by
  simp only [Thread.startRep, Bool.or_eq_true, decide_eq_true_eq, sub_eq_zero]

/-- REP of a ready thread: an Illegal Operand within a repeat or with an offset of 0 or 1, else its own effect. -/
theorem exec_rep_of_ready {s : State} {t : TileId} {h : Thr} (r : Ready s t h 2) (dc : Reg) (po : PWord) :
    exec (.rep t h dc po) s = .next
      (if (s.th t h).st.rep = true ∨ po = 0 ∨ po = 1 then s.raise t h cOperand 0 0
       else s.finish t h (fun x => x.startRep dc po)) := by
  change execRep t h dc po s = _
  simp [execRep, issue_of_ready r, or_assoc]

/-- Settles O4: the guard of REP decides between its own effect and the exception. -/
theorem blockRepeat : Obligations.BlockRepeat := by
  unfold Obligations.BlockRepeat
  intro s t h dc po x r
  have e := exec_rep_of_ready r dc po
  refine ⟨fun hrep h0 h1 => ?_, fun hvec hbad => ?_⟩
  · rw [if_neg (not_or.mpr ⟨ne_true_of_eq_false hrep, not_or.mpr ⟨h0, h1⟩⟩)] at e
    rw [← Thread.startRep_eq]
    exact State.finish_retires e
  · rw [if_pos hbad] at e
    exact State.raise_takes e hvec

end Sys2Proof.Machine
end

section
/-! The tile-register instructions without memory accesses (R126–R129): what a write of a tile register's bytes leaves to be
read, when such an instruction completes, and from them the obligation O16. -/
namespace Sys2Proof.Machine

open Sys2Proof.Safety

/-! ## Bits of a written field, of lanes and of a tile register's bytes (R124, R133) -/

/-- A bit of a vector with one field replaced: the field's own bit inside the field, the old bit outside. -/
theorem getLsbD_setBits {n : Nat} (x : BitVec n) (lo w : Nat) (v : BitVec w) {i : Nat} (hi : i < n) :
    (setBits x lo w v).getLsbD i = if lo ≤ i ∧ i < lo + w then v.getLsbD (i - lo) else x.getLsbD i := by
  have hmask : (BitVec.ofNat n ((2 ^ w - 1) <<< lo)).getLsbD i = decide (lo ≤ i ∧ i < lo + w) := by
    simp only [BitVec.getLsbD_ofNat, Nat.testBit_shiftLeft, Nat.testBit_two_pow_sub_one, hi, decide_true, Bool.true_and,
      ← Bool.decide_and, decide_eq_decide]
    omega
  have hfield : (v.setWidth n <<< lo).getLsbD i = (decide (lo ≤ i) && v.getLsbD (i - lo)) := by
    rw [BitVec.getLsbD_shiftLeft, BitVec.getLsbD_setWidth, ← decide_not]
    simp [hi, Nat.sub_lt_of_lt hi]
  rw [setBits, BitVec.getLsbD_or, BitVec.getLsbD_and, BitVec.getLsbD_not, hmask, hfield]
  split
  case isTrue h => simp [h]
  case isFalse h =>
    have hv : (decide (lo ≤ i) && v.getLsbD (i - lo)) = false := by
      rw [Bool.and_eq_false_imp, decide_eq_true_eq]
      exact fun hlo => BitVec.getLsbD_of_ge v _ (by omega)
    simp [h, hi, hv]

/-- Bit `b` of lane `p` of a register made from its lanes. -/
theorem testBit_ofLanes {w b : Nat} (hb : b < w) (l : List Nat) (p : Nat) (hp : p < l.length) :
    (ofLanes w l).testBit (w * p + b) = l[p].testBit b := by
  induction l generalizing p with
  | nil => exact absurd hp (Nat.not_lt_zero p)
  | cons x r ih =>
    rw [ofLanes, Nat.add_comm, Nat.testBit_two_pow_mul_add _ (Nat.mod_lt _ (Nat.two_pow_pos w))]
    cases p with
    | zero => simp [hb]
    | succ p =>
      have e : w * (p + 1) + b = w + (w * p + b) := by ring
      rw [e, if_neg (by omega), Nat.add_sub_cancel_left]
      exact ih p (Nat.lt_of_succ_lt_succ hp)

/-- A byte of a tile register after `n` bytes from byte `o` were replaced. -/
theorem tileBytes_put (r : TileReg) (o n v : Nat) {i : Nat} (hi : i < 2048) :
    tileBytes (r.put o n v) i 1 =
      if o ≤ i ∧ i < o + n then (BitVec.ofNat (8 * n) v).extractLsb' (8 * (i - o)) 8 else tileBytes r i 1 := by
  refine BitVec.eq_of_getLsbD_eq fun b hb => ?_
  rw [tileBytes, BitVec.getLsbD_extractLsb', TileReg.put, getLsbD_setBits _ _ _ _ (by omega)]
  by_cases h : o ≤ i ∧ i < o + n
  · have e : 8 * i + b - 8 * o = 8 * (i - o) + b := by omega
    rw [if_pos h, if_pos (by omega), BitVec.getLsbD_extractLsb', e]
  · rw [if_neg h, if_neg (by omega), tileBytes, BitVec.getLsbD_extractLsb']

/-- A run of bytes read as a number is the field of the register's bytes. -/
theorem TileReg.ofNat_get (r : TileReg) (o n : Nat) :
    BitVec.ofNat (8 * n) (r.get o n) = r.bytes.extractLsb' (8 * o) (8 * n) := by
  apply BitVec.eq_of_toNat_eq
  rw [TileReg.get, BitVec.toNat_ofNat, Nat.mod_mod, BitVec.extractLsb'_toNat, Nat.shiftRight_eq_div_pow]

/-- The first `n` bytes cleared. -/
theorem tileBytes_put_zero (r : TileReg) (n : Nat) {i : Nat} (hi : i < 2048) :
    tileBytes (r.put 0 n 0) i 1 = if i < n then 0 else tileBytes r i 1 := by
  simp [tileBytes_put r 0 n 0 hi]

/-- The first `n` bytes copied from another register. -/
theorem tileBytes_put_get (r q : TileReg) (n : Nat) {i : Nat} (hi : i < 2048) :
    tileBytes (r.put 0 n (q.get 0 n)) i 1 = if i < n then tileBytes q i 1 else tileBytes r i 1 := by
  simp only [tileBytes_put _ _ _ _ hi, TileReg.ofNat_get, Nat.zero_le, true_and, Nat.zero_add]
  refine ite_congr rfl (fun h => BitVec.eq_of_getLsbD_eq fun b hb => ?_) fun _ => rfl
  rw [tileBytes, BitVec.getLsbD_extractLsb', BitVec.getLsbD_extractLsb', BitVec.getLsbD_extractLsb']
  simp [hb, show 8 * i + b < 8 * n by omega]

/-- Bytes of a vector, from its first, written from byte `o`. -/
theorem tileBytes_put_toNat (r : TileReg) (o n : Nat) (v : VWord) {i : Nat} (hi : i < 2048) :
    tileBytes (r.put o n v.toNat) i 1 =
      if o ≤ i ∧ i < o + n then (v.extractLsb' (8 * (i - o)) 8).setWidth 8 else tileBytes r i 1 := by
  rw [tileBytes_put _ _ _ _ hi, BitVec.ofNat_toNat, BitVec.setWidth_eq]
  refine ite_congr rfl (fun h => BitVec.eq_of_getLsbD_eq fun b hb => ?_) fun _ => rfl
  rw [BitVec.getLsbD_extractLsb', BitVec.getLsbD_extractLsb', BitVec.getLsbD_setWidth]
  simp [show 8 * (i - o) + b < 8 * n by omega]

/-- A 32-bit element read as a number is the field of the register's bytes. -/
theorem TileReg.elem_32 (r : TileReg) (i j : Nat) : r.elem i j 32 = (tileElem r i j).toNat := by
  have e : 8 * (i * r.len + 4 * j) = 8 * (i * r.len) + 32 * j := by ring
  rw [TileReg.elem, tileElem, BitVec.extractLsb'_toNat, Nat.shiftRight_eq_div_pow, e]

theorem elemWidth_pos (c : Elem) : 0 < elemWidth c := by cases c <;> decide

/-- Element `j` of row `i` of a register filled from a function, when the rows hold whole elements. -/
theorem TileReg.extractLsb'_fill {r : TileReg} {w n : Nat} (f : Nat → Nat → Nat) (hw : 0 < w) (hn : 8 * r.len = w * n)
    (hs : r.size ≤ 2048) {i j : Nat} (hi : i < r.rows) (hj : j < n) :
    (r.fill w f).bytes.extractLsb' (8 * (i * r.len) + w * j) w = BitVec.ofNat w (f i j) := by
  have hcount : 8 * r.len / w = n := by rw [hn, Nat.mul_div_cancel_left n hw]
  have hpos : 8 * (i * r.len) + w * j = w * (i * n + j) := by linear_combination i * hn
  have hsize : 8 * r.size = w * (r.rows * n) := by rw [TileReg.size]; linear_combination r.rows * hn
  have hlane : i * n + j < r.rows * n := by nlinarith
  refine BitVec.eq_of_getLsbD_eq fun b hb => ?_
  have hin : w * (i * n + j) + b < 8 * r.size := by rw [hsize]; nlinarith
  have hdiv : (i * n + j) / n = i := by rw [Nat.mul_comm, Nat.mul_add_div (by omega), Nat.div_eq_of_lt hj, Nat.add_zero]
  have hmod : (i * n + j) % n = j := by rw [Nat.mul_comm, Nat.mul_add_mod, Nat.mod_eq_of_lt hj]
  rw [BitVec.getLsbD_extractLsb', hpos, TileReg.fill, TileReg.put, getLsbD_setBits _ _ _ _ (by omega),
    if_pos ⟨by omega, by omega⟩, BitVec.getLsbD_ofNat, BitVec.getLsbD_ofNat, hcount]
  have hbit := testBit_ofLanes hb ((List.range (r.rows * n)).map fun p => f (p / n) (p % n)) (i * n + j)
    (by simpa using hlane)
  simp only [List.getElem_map, List.getElem_range, hdiv, hmod] at hbit
  simp [hb, hin, hbit]

/-- A 32-bit element of a register filled from a function. -/
theorem tileElem_fill {r : TileReg} {n : Nat} (f : Nat → Nat → Nat) (hn : r.len = 4 * n) (hs : r.size ≤ 2048) {i j : Nat}
    (hi : i < r.rows) (hj : j < n) : tileElem (r.fill 32 f) i j = BitVec.ofNat 32 (f i j) := by
  have hpos : 8 * (i * r.len + 4 * j) = 8 * (i * r.len) + 32 * j := by ring
  exact (congrArg (fun a => (r.fill 32 f).bytes.extractLsb' a 32) hpos).trans
    (TileReg.extractLsb'_fill f (by decide) (by omega) hs hi hj)

/-- A row of up to 64 bytes read into a vector: its bytes, then zeros. -/
theorem TileReg.extractLsb'_ofNat_get (r : TileReg) (o len : Nat) {i : Nat} (hi : i < 64) :
    (BitVec.ofNat 512 (r.get o (min len 64))).extractLsb' (8 * i) 8 =
      if i < len then r.bytes.extractLsb' (8 * (o + i)) 8 else 0 := by
  refine BitVec.eq_of_getLsbD_eq fun b hb => ?_
  have hbit : 8 * i + b < 512 := by omega
  have e : 8 * i + b + 8 * o = 8 * (o + i) + b := by ring
  rw [BitVec.getLsbD_extractLsb', BitVec.getLsbD_ofNat, TileReg.get, Nat.testBit_mod_two_pow, Nat.testBit_div_two_pow, e,
    BitVec.testBit_toNat]
  split
  case isTrue h => simp [hb, hbit, show 8 * i + b < 8 * min len 64 by omega]
  case isFalse h => simp [show ¬8 * i + b < 8 * min len 64 by omega]

/-- The effect of TTRN: element (i, j) of the result is element (j, i) of the source. -/
theorem tileElem_fill_transposed {rd rs : TileReg} (hrows : rd.rows * 4 = rs.len) (hlen : rd.len = 4 * rs.rows)
    (hs : rs.size ≤ 2048) {i j : Nat} (hi : i < rd.rows) (hj : j < rs.rows) :
    tileElem (rd.fill 32 fun i j => rs.elem j i 32) i j = tileElem rs j i := by
  have hsize : rd.size = rs.size := by rw [TileReg.size, TileReg.size, hlen, ← hrows]; ring
  rw [tileElem_fill _ hlen (hsize ▸ hs) hi hj, TileReg.elem_32, BitVec.ofNat_toNat, BitVec.setWidth_eq]

/-- The source element type of TCVT as the statements give it. -/
theorem cvtSource_eq (ec : Elem) : cvtSource ec = if ec = .int32 ∨ ec = .int8 then .int32 else .fp32 := by
  simp only [cvtSource, Bool.or_eq_true, decide_eq_true_eq]

/-- The effect of TCVT: each element of the result is the source's element converted. -/
theorem extractLsb'_fill_converted {rd rs : TileReg} {ec : Elem} (hrows : rd.rows = rs.rows)
    (hlen : rd.len * 32 = rs.len * elemWidth ec) (h4 : rs.len % 4 = 0) (hs : rd.size ≤ 2048) {i j : Nat}
    (hi : i < rs.rows) (hj : j < rs.len / 4) :
    (rd.fill (elemWidth ec) fun i j => encodeElem ec (decodeElem (cvtSource ec) (rs.elem i j 32))).bytes.extractLsb'
        (8 * (i * rd.len) + elemWidth ec * j) (elemWidth ec) =
      BitVec.ofNat _ (encodeElem ec (decodeElem (if ec = .int32 ∨ ec = .int8 then .int32 else .fp32)
        (tileElem rs i j).toNat)) := by
  have hrow : 8 * rd.len = elemWidth ec * (rs.len / 4) := by
    have hdiv : rs.len = 4 * (rs.len / 4) := by omega
    rw [hdiv] at hlen
    linarith
  rw [TileReg.extractLsb'_fill _ (elemWidth_pos ec) hrow hs (hrows ▸ hi) hj, TileReg.elem_32, cvtSource_eq]

/-! ## Stalls that do not hold, and completion (R107, R129) -/

/-- Stall cause 4 does not hold an instruction on a tile that no uncommitted operation writes. -/
theorem withT_of_free {s : State} {t : TileId} {k : Reg} (hp : (s.tile t).tpnd k = false) (h : Thr) (report : Bool)
    (f : State → State) : withT t h k report f s = f s := by
  simp [withT, hp]

/-- Stall cause 6 does not hold an instruction whose vector registers have their results. -/
theorem withV_of_landed {s : State} {t : TileId} {h : Thr} {rs : List Reg} (hl : Landed (s.th t h) rs)
    (k : State → State) : withV t h rs k s = k s := by
  have hbusy : rs.filter (fun r => (s.th t h).vBusy r) = [] := by
    rw [List.filter_eq_nil_iff]
    intro r hr hb
    obtain ⟨p, hp, hpr⟩ := List.any_eq_true.mp hb
    exact hl p hp (of_decide_eq_true hpr ▸ hr)
  rw [withV, hbusy]

/-- The end of an instruction that has changed its tile to `f` of it, but none of the tile's threads. -/
theorem State.complete_retiresAs {i : Instr} {s : State} {t : TileId} {h : Thr} {len : Nat} {f : Tile → Tile}
    (e : exec i s = .next ((s.modTile t f).complete t h len)) (hf : (f (s.tile t)).thr = (s.tile t).thr) :
    RetiresAs i s t h (f (s.tile t)) (onward (s.th t h) len) := by
  have hth : (f (s.tile t)).th h = s.th t h := by rw [Tile.th, hf]; rfl
  rw [← Thread.advance_eq_onward, ← hth]
  exact State.finish_retiresAs e (by rw [hth])

/-- A tile instruction of a ready thread that fails no check completes with its effect on the tile. -/
theorem tileOp_retiresAs {i : Instr} {s : State} {t : TileId} {h : Thr} {len : Nat} {ill : Tile → Bool} {f : Tile → Tile}
    (r : Ready s t h len) (e : exec i s = .next (issue t h len (tileOp t h len ill f) s))
    (hill : ill (s.tile t) = false) (hf : (f (s.tile t)).thr = (s.tile t).thr) :
    RetiresAs i s t h (f (s.tile t)) (onward (s.th t h) len) := by
  rw [issue_of_ready r, tileOp, hill] at e
  exact State.complete_retiresAs e hf

/-- An instruction that makes Td from Ts, of a ready thread, completes when its check passes and nothing is to write Ts. -/
theorem tileFrom_retiresAs {i : Instr} {s : State} {t : TileId} {h : Thr} {len : Nat} {d x : Reg}
    {ill : TileReg → TileReg → Bool} {f : TileReg → TileReg → TileReg} (r : Ready s t h len)
    (e : exec i s = .next (issue t h len (tileFrom t h len d x ill f) s))
    (hill : ill ((s.tile t).reg d) ((s.tile t).reg x) = false) (hp : (s.tile t).tpnd x = false) :
    RetiresAs i s t h
      ((s.tile t).modReg d fun _ => { f ((s.tile t).reg d) ((s.tile t).reg x) with tuse := true })
      (onward (s.th t h) len) := by
  simp only [issue_of_ready r, tileFrom, hill, withT_of_free hp, Bool.false_eq_true, if_false] at e
  exact State.complete_retiresAs e rfl

/-- TRDV of a ready thread on a row of the tile, with nothing in its way: the row, as a vector result. -/
theorem trdv_retires {s : State} {t : TileId} {h : Thr} {vd k : Reg} {row : BitVec 6} (r : Ready s t h 2)
    (hrow : row.toNat < ((s.tile t).reg k).rows) (hp : (s.tile t).tpnd k = false) (hl : Landed (s.th t h) [vd]) :
    let q := (s.tile t).reg k
    Retires (.trdv t h vd k row) s t h
      (vectorDone (s.th t h) vd (BitVec.ofNat 512 (q.get (row.toNat * q.len) (min q.len 64))) 2) := by
  intro q
  have e : exec (.trdv t h vd k row) s = execTrdv t h vd k row s := rfl
  rw [execTrdv, issue_of_ready r, if_neg (Nat.not_le.mpr hrow), withT_of_free hp, withV_of_landed hl] at e
  rw [vectorDone, ← Thread.advance_eq_onward]
  exact State.finish_retires e

/-- TWRV of a ready thread on a row of the tile, with its vector register landed. -/
theorem twrv_retiresAs {s : State} {t : TileId} {h : Thr} {k vs : Reg} {row : BitVec 6} (r : Ready s t h 2)
    (hrow : row.toNat < ((s.tile t).reg k).rows) (hl : Landed (s.th t h) [vs]) :
    let q := (s.tile t).reg k
    RetiresAs (.twrv t h k vs row) s t h
      ((s.tile t).modReg k fun _ =>
        { q.put (row.toNat * q.len) (min q.len 64) ((s.th t h).getV vs).toNat with tuse := true })
      (onward (s.th t h) 2) := by
  intro q
  have e : exec (.twrv t h k vs row) s = execTwrv t h k vs row s := rfl
  rw [execTwrv, issue_of_ready r, if_neg (Nat.not_le.mpr hrow), withV_of_landed hl] at e
  exact State.complete_retiresAs e rfl

/-- An instruction that changes register `k` of its tile, after a change `g` of other blocks. -/
theorem tileOp_modReg_retiresAs {i : Instr} {s : State} {t : TileId} {h : Thr} {len : Nat} {ill : Tile → Bool} {k : Reg}
    {g : Tile → Tile} {f : TileReg → TileReg} (r : Ready s t h len)
    (e : exec i s = .next (issue t h len (tileOp t h len ill fun tl => (g tl).modReg k f) s))
    (hill : ill (s.tile t) = false) (hg : (g (s.tile t)).thr = (s.tile t).thr) :
    RetiresAs i s t h ((g (s.tile t)).modReg k fun _ => f ((g (s.tile t)).reg k)) (onward (s.th t h) len) :=
  tileOp_retiresAs r e hill hg

/-- Settles O16: each instruction passes its check and its stalls, so that it writes one register or one binding, and the
lemmas above read the bytes of that register. -/
theorem tileRegisters : Obligations.TileRegisters := by
  unfold Obligations.TileRegisters
  intro s t h k d r vr sh row ec role x tl rows len src dst sized unbound sets
  refine ⟨fun h2 hsize hname => ?tcfg,
    fun h1 => ⟨fun _ => ?tzero, fun hname => ?tfree, fun _ hr hl hp => ?tmov, fun hs hdr hr hl hp => ?ttrn, ?mscl,
      fun hp => ?mwait⟩,
    fun h2 => ⟨fun hrow hp hv => ?trdv, fun _ hrow hv => ?twrv, fun _ hd hdr hr hl h4 hp => ?tcvt⟩⟩
  case tcfg =>
    have e : exec (.tcfg t h k sh) s = execTcfg t h k sh s := rfl
    have hill : (decide (2048 < rows * len) || tl.named k) = false := by simp [hname, hsize]
    exact ⟨_, rfl, tileOp_modReg_retiresAs (g := fun tl => tl.unbind k) h2 e hill rfl⟩
  case tzero =>
    have e : exec (.tzero t h k) s = execTzero t h k s := rfl
    refine ⟨_, ?_, tileOp_modReg_retiresAs (g := id) h1 e rfl rfl⟩
    exact ⟨rfl, rfl, rfl, fun i hi => tileBytes_put_zero _ _ hi⟩
  case tfree =>
    have e : exec (.tfree t h k) s = execTfree t h k s := rfl
    exact ⟨_, rfl, tileOp_modReg_retiresAs (g := fun tl => tl.unbind k) h1 e hname rfl⟩
  case tmov =>
    have e : exec (.tmov t h d r) s = execTmov t h d r s := rfl
    refine ⟨_, ?_, tileFrom_retiresAs h1 e (by simpa using ⟨hr, hl⟩) hp⟩
    exact ⟨rfl, rfl, rfl, fun i hi => tileBytes_put_get _ _ _ hi⟩
  case ttrn =>
    have e : exec (.ttrn t h d r) s = execTtrn t h d r s := rfl
    refine ⟨_, ?_, tileFrom_retiresAs h1 e (by simpa [hdr] using ⟨hr, hl⟩) hp⟩
    exact ⟨rfl, rfl, rfl, fun i j hi hj => tileElem_fill_transposed hr hl hs hi hj⟩
  case mscl =>
    have e : exec (.mscl t h k role) s = execMscl t h k role s := rfl
    exact tileOp_retiresAs h1 e rfl (by cases role <;> rfl)
  case mwait =>
    have e : exec (.mwait t h k) s = execMwait t h k s := rfl
    rw [execMwait, issue_of_ready h1, withT_of_free hp] at e
    rw [← Thread.advance_eq_onward]
    exact State.finish_retires e
  case trdv => exact ⟨_, fun i hi => TileReg.extractLsb'_ofNat_get _ _ _ hi, trdv_retires h2 hrow hp hv⟩
  case twrv =>
    refine ⟨_, ?_, twrv_retiresAs h2 hrow hv⟩
    exact ⟨rfl, rfl, rfl, fun i hi => tileBytes_put_toNat _ _ _ _ hi⟩
  case tcvt =>
    have e : exec (.tcvt t h d r ec) s = execTcvt t h d r ec s := rfl
    refine ⟨_, ?_, tileFrom_retiresAs h2 e (by simpa [hdr] using ⟨hr, hl⟩) hp⟩
    exact ⟨rfl, rfl, rfl, fun i j hi hj => extractLsb'_fill_converted hr hl h4 hd hi hj⟩

end Sys2Proof.Machine
end

section
/-! The encoding of the tile instructions (R64–R90): each layout holds of a word exactly when the fields of the word that the
decoder reads are its operands, and from that the obligation O57. -/
namespace Sys2Proof.Machine

/-! ## Words and their fields (R64, R69) -/

/-- A concatenation as a number. -/
theorem toNat_append_eq {m n : Nat} (a : BitVec m) (b : BitVec n) : (a ++ b).toNat = a.toNat * 2 ^ n + b.toNat := by
  rw [BitVec.toNat_append, ← Nat.shiftLeft_add_eq_or_of_lt b.isLt, Nat.shiftLeft_eq]

theorem fld_toNat {n : Nat} (w : PWord) (lo : Nat) : (fld w lo n).toNat = w.toNat / 2 ^ lo % 2 ^ n := by
  rw [fld, BitVec.extractLsb'_toNat, Nat.shiftRight_eq_div_pow]

theorem fld_eq_iff {n : Nat} (w : PWord) (lo : Nat) (a : BitVec n) :
    fld w lo n = a ↔ w.toNat / 2 ^ lo % 2 ^ n = a.toNat := by
  rw [← BitVec.toNat_inj, fld_toNat]

theorem oneBit_toNat (b : Bool) : (oneBit b).toNat = b.toNat := by cases b <;> rfl

theorem word1_eq_iff (maj mn : BitVec 4) (x y : Reg) (w : PWord) : word1 maj mn x y = w ↔
    w.toNat / 1024 % 16 = maj.toNat ∧ w.toNat / 64 % 16 = mn.toNat ∧ fld w 3 3 = x ∧ fld w 0 3 = y := by
  simp only [word1, ← BitVec.toNat_inj, fld_toNat, toNat_append_eq]
  omega

theorem laySB_eq_iff (v : Bool) (a : Seed) (w : PWord) : laySB v a = w ↔ w.getLsbD 13 = v ∧ fld w 0 13 = a := by
  simp only [laySB, ← BitVec.toNat_inj, fld_toNat, toNat_append_eq, oneBit_toNat, BitVec.getLsbD, Nat.testBit_eq_decide_div_mod_eq]
  cases v <;> simp <;> omega

/-- A word of two parts. -/
theorem append_eq_iff {m n : Nat} (a : BitVec m) (b : BitVec n) (w : BitVec (m + n)) :
    a ++ b = w ↔ w.extractLsb' n m = a ∧ w.extractLsb' 0 n = b := by
  have hw : w.toNat < 2 ^ m * 2 ^ n := Nat.pow_add .. ▸ w.isLt
  have hd : w.toNat / 2 ^ n < 2 ^ m := Nat.div_lt_of_lt_mul (Nat.mul_comm .. ▸ hw)
  simp only [← BitVec.toNat_inj, BitVec.extractLsb'_toNat, toNat_append_eq, Nat.shiftRight_eq_div_pow, pow_zero, Nat.div_one,
    Nat.mod_eq_of_lt hd]
  constructor
  · intro h
    rw [← h, Nat.mul_comm, Nat.mul_add_div (Nat.two_pow_pos n), Nat.div_eq_of_lt b.isLt, Nat.mul_add_mod, Nat.mod_eq_of_lt b.isLt]
    exact ⟨rfl, rfl⟩
  · rintro ⟨ha, hb⟩
    rw [← ha, ← hb, Nat.div_add_mod']

/-! ## Coded fields (R70) -/

theorem eq_tyEnc_iff (x : BitVec 2) (c : Ty) : x = tyEnc c ↔ tyDec x = c := by cases c <;> revert x <;> decide
theorem eq_elemEnc_iff (x : BitVec 3) (c : Elem) : x = elemEnc c ↔ elemDec x = c := by cases c <;> revert x <;> decide
theorem eq_brEnc_iff (x : BitVec 3) (c : BrCond) : x = brEnc c ↔ brDec x = c := by cases c <;> revert x <;> decide
theorem eq_sizeEnc_iff (x : BitVec 2) (c : ESize) : x = sizeEnc c ↔ sizeDec x = c := by cases c <;> revert x <;> decide
theorem eq_vcEnc_iff (x : BitVec 3) (c : VCond) : x = vcEnc c ↔ vcDec x = some c := by cases c <;> revert x <;> decide
theorem eq_scopeEnc_iff (x : BitVec 3) (c : Scope) : x = scopeEnc c ↔ scopeDec x = some c := by cases c <;> revert x <;> decide
theorem eq_spEnc_iff (x : BitVec 2) (c : Sp) : x = spEnc c ↔ spDec x = some c := by cases c <;> revert x <;> decide
theorem eq_mtEnc_iff (x : BitVec 4) (c : Mt) : x = mtEnc c ↔ mtDec x = some c := by cases c <;> revert x <;> decide

theorem tyDec_eq_fp32_iff (x : BitVec 2) : tyDec x = .fp32 ↔ x = 0 := (eq_tyEnc_iff x .fp32).symm

/-! ## Layouts (R69) -/

theorem maskOf_eq_iff (w : PWord) (m : Mask) :
    maskOf w = some m ↔ w.getLsbD 13 = m.isSome ∧ fld w 2 8 = m.getD 0 := by
  unfold maskOf
  cases m <;> split <;> simp_all

theorem mask5Of_eq_iff (w : PWord) (m : Mask5) :
    mask5Of w = some m ↔ w.getLsbD 13 = m.isSome ∧ fld w 2 5 = m.getD 0 := by
  unfold mask5Of
  cases m <;> split <;> simp_all

theorem getLsbD_eq_iff (w : PWord) (b : Bool) (i : Nat) : w.getLsbD i = b ↔ w.toNat / 2 ^ i % 2 = b.toNat := by
  rw [BitVec.getLsbD, Nat.testBit_eq_decide_div_mod_eq]
  cases b <;> simp

theorem layVW_eq_iff (m : Mask) (vb : Reg) (ty : Ty) (w : PWord) :
    layVW m vb ty = w ↔ maskOf w = some m ∧ fld w 10 3 = vb ∧ tyDec (fld w 0 2) = ty := by
  simp only [maskOf_eq_iff, ← eq_tyEnc_iff, layVW, ← BitVec.toNat_inj, fld_toNat, toNat_append_eq, oneBit_toNat, getLsbD_eq_iff]
  have := Bool.toNat_lt m.isSome
  omega

theorem layVX_eq_iff (m : Mask5) (dk ac : Reg) (ty : Ty) (w : PWord) : layVX m dk ac ty = w ↔
    mask5Of w = some m ∧ fld w 10 3 = dk ∧ fld w 7 3 = ac ∧ tyDec (fld w 0 2) = ty := by
  simp only [mask5Of_eq_iff, ← eq_tyEnc_iff, layVX, ← BitVec.toNat_inj, fld_toNat, toNat_append_eq, oneBit_toNat, getLsbD_eq_iff]
  have := Bool.toNat_lt m.isSome
  omega

theorem laySTR_eq_iff (mode : Bool) (sz : ESize) (dc : Reg) (w : PWord) : laySTR mode sz dc = w ↔
    fld w 6 8 = 0 ∧ w.getLsbD 5 = mode ∧ sizeDec (fld w 3 2) = sz ∧ fld w 0 3 = dc := by
  simp only [← eq_sizeEnc_iff, laySTR, ← BitVec.toNat_inj, fld_toNat, toNat_append_eq, oneBit_toNat, getLsbD_eq_iff]
  have := Bool.toNat_lt mode
  simp
  omega

theorem layMW_eq_iff (tb : Reg) (sp : Sp) (tm : Reg) (mt : Mt) (w : PWord) : layMW tb sp tm mt = w ↔
    fld w 4 2 = 0 ∧ fld w 11 3 = tb ∧ spDec (fld w 9 2) = some sp ∧ fld w 6 3 = tm ∧ mtDec (fld w 0 4) = some mt := by
  simp only [← eq_spEnc_iff, ← eq_mtEnc_iff, layMW, ← BitVec.toNat_inj, fld_toNat, toNat_append_eq]
  simp
  omega

theorem layVR_eq_iff (an : Reg) (k : BitVec 3) (ty : Ty) (w : PWord) : layVR an k ty = w ↔
    fld w 13 1 = 0 ∧ fld w 2 5 = 0 ∧ fld w 10 3 = an ∧ fld w 7 3 = k ∧ tyDec (fld w 0 2) = ty := by
  simp only [← eq_tyEnc_iff, layVR, ← BitVec.toNat_inj, fld_toNat, toNat_append_eq]
  simp
  omega


theorem zeros6_append_eq_iff (a : BitVec 8) (w : PWord) : (0#6) ++ a = w ↔ fld w 8 6 = 0 ∧ fld w 0 8 = a :=
  append_eq_iff (0#6) a w
theorem zeros8_append_eq_iff (a : BitVec 6) (w : PWord) : (0#8) ++ a = w ↔ fld w 6 8 = 0 ∧ fld w 0 6 = a :=
  append_eq_iff (0#8) a w
theorem zeros10_append_eq_iff (a : BitVec 4) (w : PWord) : (0#10) ++ a = w ↔ fld w 4 10 = 0 ∧ fld w 0 4 = a :=
  append_eq_iff (0#10) a w
theorem zeros11_append_eq_iff (a : BitVec 3) (w : PWord) : (0#11) ++ a = w ↔ fld w 3 11 = 0 ∧ fld w 0 3 = a :=
  append_eq_iff (0#11) a w

/-- The second word of VEXT. -/
theorem vextWord_eq_iff (lane : BitVec 5) (ty : Ty) (w : PWord) : (0#7) ++ lane ++ tyEnc ty = w ↔
    fld w 7 7 = 0 ∧ fld w 2 5 = lane ∧ tyDec (fld w 0 2) = ty := by
  simp only [← eq_tyEnc_iff, ← BitVec.toNat_inj, fld_toNat, toNat_append_eq]
  simp
  omega

/-- The second word of VCVT. -/
theorem vcvtWord_eq_iff (se de : Elem) (w : PWord) : (0#1) ++ elemEnc se ++ elemEnc de ++ (0#7) = w ↔
    fld w 13 1 = 0 ∧ fld w 0 7 = 0 ∧ elemDec (fld w 10 3) = se ∧ elemDec (fld w 7 3) = de := by
  simp only [← eq_elemEnc_iff, ← BitVec.toNat_inj, fld_toNat, toNat_append_eq]
  simp
  omega

/-- The Y field of MSCL. -/
theorem role_eq_iff (role : Bool) (w : PWord) : fld w 0 3 = (0#2) ++ oneBit role ↔ fld w 1 2 = 0 ∧ w.getLsbD 0 = role := by
  simp only [← BitVec.toNat_inj, fld_toNat, toNat_append_eq, oneBit_toNat, getLsbD_eq_iff]
  have := Bool.toNat_lt role
  simp
  omega

/-- The words of LAI. -/
theorem laiWords_eq_iff (imm : BitVec 28) (x y : PWord) :
    imm.extractLsb' 14 14 = x ∧ imm.extractLsb' 0 14 = y ↔ x ++ y = imm := (append_eq_iff x y imm).symm

/-- The low fields of LAH, `z` in its second word. -/
theorem lahWords_eq_iff (imm : BitVec 20) (z : BitVec 6) (y : PWord) :
    z = imm.extractLsb' 14 6 ∧ imm.extractLsb' 0 14 = y ↔ z ++ y = imm := by
  rw [append_eq_iff, @eq_comm _ z]

/-- The words of LDI, whose bit 31 lies in the MIN field `k`. -/
theorem ldiWords_eq_iff (imm : Word) (k : Nat) (z : BitVec 3) (x y : PWord) :
    (k = (7#3 ++ imm.extractLsb' 31 1).toNat ∧ z = imm.extractLsb' 28 3) ∧ imm.extractLsb' 14 14 = x ∧ imm.extractLsb' 0 14 = y ↔
    k = 14 ∧ (0#1) ++ z ++ x ++ y = imm ∨ k = 15 ∧ (1#1) ++ z ++ x ++ y = imm := by
  simp only [← BitVec.toNat_inj, toNat_append_eq, BitVec.extractLsb'_toNat, Nat.shiftRight_eq_div_pow]
  simp
  omega

/-- The leading bit of a layout SZ word. -/
theorem getElem_13_eq_false_iff (w : PWord) : w[13] = false ↔ fld w 13 1 = 0 := by
  rw [← BitVec.getLsbD_eq_getElem, getLsbD_eq_iff, fld_eq_iff]
  rfl

/-! ## Decoders by major (R72–R83) -/

theorem zero_eq_some_iff {α : Type} (c : Bool) (v : Option α) (a : α) : zero c v = some a ↔ c = true ∧ v = some a := by
  cases c <;> simp [zero]

theorem encode_of_decodeControl {t : TileId} {h : Thr} {w x y : PWord} {i : Instr}
    (hmaj : w.toNat / 1024 % 16 = 0) (e : decodeControl t h w x y = some i) : encode i = [w, x, y].take (cellLen w) := by
  unfold decodeControl at e
  split at e
  all_goals
    revert e
    simp only [zero_eq_some_iff, Bool.and_eq_true, decide_eq_true_eq, Option.some.injEq, reduceCtorEq,
      false_imp_iff, and_imp]
  all_goals
    intros
    subst i
    simp [*, encode.eq_def, cellLen, word1_eq_iff, zeros6_append_eq_iff]

theorem encode_of_decodeInteger {t : TileId} {h : Thr} {w x y : PWord} {i : Instr}
    (hmaj : w.toNat / 1024 % 16 = 1) (e : decodeInteger t h w x y = some i) : encode i = [w, x, y].take (cellLen w) := by
  unfold decodeInteger at e
  split at e
  all_goals
    revert e
    simp only [Option.some.injEq, reduceCtorEq,
      false_imp_iff]
  all_goals
    intros
    subst i
    simp [*, encode.eq_def, cellLen, word1_eq_iff]

theorem encode_of_decodeImmediate {t : TileId} {h : Thr} {w x y : PWord} {i : Instr}
    (hmaj : w.toNat / 1024 % 16 = 2) (e : decodeImmediate t h w x y = some i) : encode i = [w, x, y].take (cellLen w) := by
  unfold decodeImmediate at e
  split at e
  all_goals
    revert e
    simp only [zero_eq_some_iff, decide_eq_true_eq, Option.some.injEq, reduceCtorEq,
      false_imp_iff, and_imp]
  all_goals
    intros
    subst i
    simp [*, encode.eq_def, cellLen, word1_eq_iff, ldiWords_eq_iff]

theorem encode_of_decodeAddress {t : TileId} {h : Thr} {w x y : PWord} {i : Instr}
    (hmaj : w.toNat / 1024 % 16 = 3) (e : decodeAddress t h w x y = some i) : encode i = [w, x, y].take (cellLen w) := by
  unfold decodeAddress at e
  split at e
  all_goals
    revert e
    simp only [zero_eq_some_iff, Bool.and_eq_true, decide_eq_true_eq, Option.some.injEq, reduceCtorEq,
      false_imp_iff, and_imp]
  all_goals
    intros
    subst i
    simp [*, encode.eq_def, cellLen, word1_eq_iff, laiWords_eq_iff, lahWords_eq_iff, zeros8_append_eq_iff]

theorem encode_of_decodeFlow {t : TileId} {h : Thr} {w x y : PWord} {i : Instr}
    (hmaj : w.toNat / 1024 % 16 = 4) (e : decodeFlow t h w x y = some i) : encode i = [w, x, y].take (cellLen w) := by
  unfold decodeFlow at e
  split at e
  all_goals
    revert e
    simp only [zero_eq_some_iff, decide_eq_true_eq, Option.some.injEq, reduceCtorEq,
      false_imp_iff, and_imp]
  all_goals
    intros
    subst i
    simp [*, encode.eq_def, cellLen, word1_eq_iff, eq_brEnc_iff, laySTR_eq_iff]

theorem encode_of_decodeSeed {t : TileId} {h : Thr} {w x y : PWord} {i : Instr}
    (hmaj : w.toNat / 1024 % 16 = 5) (e : decodeSeed t h w x y = some i) : encode i = [w, x, y].take (cellLen w) := by
  unfold decodeSeed at e
  split at e
  all_goals
    revert e
    simp only [zero_eq_some_iff, Bool.and_eq_true, decide_eq_true_eq, Option.some.injEq, reduceCtorEq,
      false_imp_iff, and_imp]
  all_goals
    intros
    subst i
    simp [*, encode.eq_def, cellLen, word1_eq_iff, laySB_eq_iff, getElem_13_eq_false_iff]

theorem encode_of_decodeVector {t : TileId} {h : Thr} {w x y : PWord} {i : Instr}
    (hmaj : w.toNat / 1024 % 16 = 6) (e : decodeVector t h w x y = some i) : encode i = [w, x, y].take (cellLen w) := by
  unfold decodeVector at e
  split at e
  all_goals
    revert e
    simp only [zero_eq_some_iff, Option.bind_eq_some_iff, Bool.and_eq_true, decide_eq_true_eq, Option.some.injEq, reduceCtorEq,
      false_imp_iff, and_imp, forall_exists_index]
  all_goals
    intros
    subst i
    simp [*, encode.eq_def, cellLen, word1_eq_iff, layVW_eq_iff, layVX_eq_iff, layVR_eq_iff, vextWord_eq_iff, vcvtWord_eq_iff, tyDec_eq_fp32_iff, eq_vcEnc_iff]

theorem encode_of_decodeArith {t : TileId} {h : Thr} {w x y : PWord} {i : Instr}
    (hmaj : w.toNat / 1024 % 16 = 7) (e : decodeArith t h w x y = some i) : encode i = [w, x, y].take (cellLen w) := by
  unfold decodeArith at e
  split at e
  all_goals
    revert e
    simp only [zero_eq_some_iff, Option.bind_eq_some_iff, decide_eq_true_eq, Option.some.injEq, reduceCtorEq,
      false_imp_iff, and_imp, forall_exists_index]
  all_goals
    intros
    subst i
    simp [*, encode.eq_def, cellLen, word1_eq_iff, layVW_eq_iff]

theorem encode_of_decodeTile {t : TileId} {h : Thr} {w x y : PWord} {i : Instr}
    (hmaj : w.toNat / 1024 % 16 = 8) (e : decodeTile t h w x y = some i) : encode i = [w, x, y].take (cellLen w) := by
  unfold decodeTile at e
  split at e
  all_goals
    revert e
    simp only [zero_eq_some_iff, decide_eq_true_eq, Option.some.injEq, reduceCtorEq,
      false_imp_iff, and_imp]
  all_goals
    intros
    subst i
    simp [*, encode.eq_def, cellLen, word1_eq_iff, eq_elemEnc_iff, zeros8_append_eq_iff, zeros11_append_eq_iff, laySB_eq_iff, role_eq_iff]

theorem encode_of_decodeMatrix {t : TileId} {h : Thr} {w x y : PWord} {i : Instr}
    (hmaj : w.toNat / 1024 % 16 = 9) (e : decodeMatrix t h w x y = some i) : encode i = [w, x, y].take (cellLen w) := by
  unfold decodeMatrix at e
  split at e
  all_goals
    revert e
    simp only [zero_eq_some_iff, Option.bind_eq_some_iff, Bool.and_eq_true, decide_eq_true_eq, Option.some.injEq, reduceCtorEq,
      false_imp_iff, and_imp, forall_exists_index]
  all_goals
    intros
    subst i
    simp [*, encode.eq_def, cellLen, word1_eq_iff, getElem_13_eq_false_iff, layMW_eq_iff, laySB_eq_iff]

theorem encode_of_decodeQueue {t : TileId} {h : Thr} {w x y : PWord} {i : Instr}
    (hmaj : w.toNat / 1024 % 16 = 10) (e : decodeQueue t h w x y = some i) : encode i = [w, x, y].take (cellLen w) := by
  unfold decodeQueue at e
  split at e
  all_goals
    revert e
    simp only [zero_eq_some_iff, Bool.and_eq_true, decide_eq_true_eq, Option.some.injEq, reduceCtorEq,
      false_imp_iff, and_imp]
  all_goals
    intros
    subst i
    simp [*, encode.eq_def, cellLen, word1_eq_iff, zeros10_append_eq_iff]

theorem encode_of_decodeOrder {t : TileId} {h : Thr} {w x y : PWord} {i : Instr}
    (hmaj : w.toNat / 1024 % 16 = 11) (e : decodeOrder t h w x y = some i) : encode i = [w, x, y].take (cellLen w) := by
  unfold decodeOrder at e
  split at e
  all_goals
    revert e
    simp only [zero_eq_some_iff, Option.bind_eq_some_iff, Bool.and_eq_true, decide_eq_true_eq, Option.some.injEq, reduceCtorEq,
      false_imp_iff, and_imp, forall_exists_index]
  all_goals
    intros
    subst i
    simp [*, encode.eq_def, cellLen, word1_eq_iff, eq_scopeEnc_iff]
/-! ## The round trips -/

/-- LDI, whose MIN field takes two values. -/
theorem decodeCell_of_encode_ldi {t : TileId} {h : Thr} {d : Reg} {imm : Word} {w x y : PWord}
    (e : encode (.ldi t h d imm) = [w, x, y]) : decodeCell t h w x y = some (.ldi t h d imm) ∧ cellLen w = 3 := by
  simp only [encode.eq_def, List.cons.injEq, word1_eq_iff, and_true] at e
  obtain ⟨⟨hmaj, hmin, hd, hz⟩, hwords⟩ := e
  replace hmaj : w.toNat / 1024 % 16 = 2 := hmaj
  obtain ⟨hk, himm⟩ | ⟨hk, himm⟩ := (ldiWords_eq_iff imm _ _ x y).1 ⟨⟨hmin, hz⟩, hwords⟩
  all_goals simp [decodeCell, decodeImmediate, cellLen, hmaj, hk, hd, himm]

/-- The words of a well-formed instruction are read back: in each cell, the fields of the words are the operands. -/
theorem decodeCell_of_encode {i : Instr} {w x y : PWord} (hi : encode i ≠ []) (hwf : WellFormed i = true)
    (e : encode i = [w, x, y].take (encode i).length) :
    ∃ t h, decodeCell t h w x y = some i ∧ cellLen w = (encode i).length := by
  cases i
  case ldi t h d imm => exact ⟨t, h, decodeCell_of_encode_ldi e⟩
  case reservedEncoding => exact nomatch hwf
  all_goals try exact absurd rfl hi
  all_goals
    simp [encode.eq_def, word1_eq_iff, zeros6_append_eq_iff, zeros8_append_eq_iff, zeros10_append_eq_iff, zeros11_append_eq_iff,
      laiWords_eq_iff, lahWords_eq_iff, laySB_eq_iff, laySTR_eq_iff, layVW_eq_iff, layVX_eq_iff, layVR_eq_iff, layMW_eq_iff,
      vextWord_eq_iff, vcvtWord_eq_iff, role_eq_iff, getElem_13_eq_false_iff, tyDec_eq_fp32_iff, eq_brEnc_iff, eq_vcEnc_iff,
      eq_scopeEnc_iff, eq_elemEnc_iff, and_assoc] at e
  all_goals
    simp [encode.eq_def, cellLen, decodeCell, decodeControl, decodeInteger, decodeImmediate, decodeAddress, decodeFlow, decodeSeed,
      decodeVector, decodeArith, decodeTile, decodeMatrix, decodeQueue, decodeOrder, zero_eq_some_iff, *]

/-- The words that a cell's instruction was read from are those of its encoding. -/
theorem encode_of_decodeCell {t : TileId} {h : Thr} {w x y : PWord} {i : Instr} (e : decodeCell t h w x y = some i) :
    encode i = [w, x, y].take (cellLen w) := by
  unfold decodeCell at e
  split at e
  case h_1 hmaj => exact encode_of_decodeControl hmaj e
  case h_2 hmaj => exact encode_of_decodeInteger hmaj e
  case h_3 hmaj => exact encode_of_decodeImmediate hmaj e
  case h_4 hmaj => exact encode_of_decodeAddress hmaj e
  case h_5 hmaj => exact encode_of_decodeFlow hmaj e
  case h_6 hmaj => exact encode_of_decodeSeed hmaj e
  case h_7 hmaj => exact encode_of_decodeVector hmaj e
  case h_8 hmaj => exact encode_of_decodeArith hmaj e
  case h_9 hmaj => exact encode_of_decodeTile hmaj e
  case h_10 hmaj => exact encode_of_decodeMatrix hmaj e
  case h_11 hmaj => exact encode_of_decodeQueue hmaj e
  case h_12 hmaj => exact encode_of_decodeOrder hmaj e
  case h_13 => exact nomatch e

theorem decodeInstr_eq_some_iff {t : TileId} {h : Thr} {w x y : PWord} {i : Instr} :
    decodeInstr t h w x y = some i ↔ decodeCell t h w x y = some i ∧ WellFormed i = true := by
  unfold decodeInstr
  cases decodeCell t h w x y with
  | none => simp
  | some j =>
    by_cases hj : WellFormed j = true
    · simp only [hj, if_true, Option.some.injEq]
      exact ⟨fun e => ⟨e, e ▸ hj⟩, And.left⟩
    · simp only [if_neg hj, Option.some.injEq, reduceCtorEq, false_iff]
      exact fun ⟨e, hi⟩ => hj (e ▸ hi)

theorem length_encode_le (i : Instr) : (encode i).length ≤ 3 := by cases i <;> simp [encode.eq_def]

/-- The words of an instruction, with what follows them. -/
theorem encode_eq_take {i : Instr} {w x y : PWord} {r : List PWord} (e : encode i = w :: r) :
    encode i = [w, (r ++ [x, y]).getD 0 0, (r ++ [x, y]).getD 1 0].take (encode i).length := by
  have hlen := length_encode_le i
  rw [e] at hlen ⊢
  match r with
  | [] => rfl
  | [_] => rfl
  | [_, _] => rfl
  | _ :: _ :: _ :: _ =>
    simp only [List.length_cons] at hlen
    omega

/-- Settles O57: each layout of the encoding holds of a word exactly when the decoder's fields of that word are its operands,
so that decoding and encoding undo each other cell by cell. -/
theorem encodingsAgree : Obligations.EncodingsAgree := by
  unfold Obligations.EncodingsAgree
  constructor
  · intro i w x y r e hwf
    obtain ⟨t, h, hcell, hlen⟩ := decodeCell_of_encode (by simp [e]) hwf (encode_eq_take (x := x) (y := y) e)
    exact ⟨t, h, decodeInstr_eq_some_iff.2 ⟨hcell, hwf⟩, hlen⟩
  · intro t h w x y i e
    obtain ⟨hcell, hwf⟩ := decodeInstr_eq_some_iff.1 e
    exact ⟨hwf, encode_of_decodeCell hcell⟩

end Sys2Proof.Machine
end

section
/-! What the statements say of fixed words and of the state after reset, and what a step takes from the queue: the obligations
O54, O55 and O56. -/
namespace Sys2Proof.Machine

open Sys2Proof.Safety

/-- Settles O54: the two cases of the queue. -/
theorem stepRunsFront : Obligations.StepRunsFront := by
  unfold Obligations.StepRunsFront
  intro s c r
  constructor
  · intro h
    rw [step, h]
  · intro h
    rw [step, h]

/-- Settles O55: at reset every array is empty, so that each block reads as its default. -/
theorem resetState : Obligations.ResetState := by
  unfold Obligations.ResetState
  refine ⟨⟨rfl, rfl, rfl, rfl, rfl, rfl, fun _ _ => ⟨rfl, rfl⟩, fun _ => ⟨rfl, ?_⟩, fun _ _ => ⟨rfl, rfl, rfl⟩,
    fun _ _ => ⟨rfl, rfl⟩, fun _ => ⟨rfl, rfl, rfl⟩, fun _ => rfl, fun _ => ⟨rfl, rfl⟩, rfl, rfl, rfl, rfl, rfl, rfl, rfl⟩,
    ⟨rfl, rfl⟩, fun _ => rfl, fun _ _ => ?_⟩
  · rw [State.tileOn, Cob.half]
    split <;> rfl
  · exact (by decide : 1 ≤ (16 : Nat) ∧ 4 ≤ (64 : Nat) ∧ 64 % 4 = 0 ∧ 16 * 64 ≤ 2048)

/-- Settles O56: the decoder's cells read the fields of fixed words. -/
theorem decodeWords : Obligations.DecodeWords := by
  unfold Obligations.DecodeWords
  intro t h x w
  exact ⟨rfl, rfl, rfl, rfl, rfl, rfl, rfl, rfl⟩

end Sys2Proof.Machine
end

section
/-! The address instructions, the special registers and the control instructions (R43, R75, R85, R104, R362): when they complete,
which traps they take, and the obligations O2, O3, O5 and O7. -/
namespace Sys2Proof.Machine

open Sys2Proof.Safety

/-! ## Handler entries (R356, R363) -/

/-- An entry whose table word is good ends its slot with the thread as the entry leaves it, and changes nothing else but the
counters. -/
theorem State.enter_retires {i : Instr} {s : State} {t : TileId} {h : Thr} {toM save : Bool} {c : BitVec 5} {ret ipc : PWord}
    {d : BitVec 4} {va : VAddr}
    (e : exec i s = .next ((s.modTile t fun tl => tl.issued h).enter t h toM c ret ipc d va save))
    (g : VectorsGood (s.tile t) c) :
    Retires i s t h ((((s.tile t).issued h).enter h toM c ret ipc d va save).th h) := by
  have hb : SMap.get false (s.tile t).pbad (vectorOf (s.tile t) toM c).toNat = false := g _
  have hgood : ((s.modTile t fun tl => tl.issued h).tile t).vectorBad toM c = false := by
    simpa [Tile.vectorBad, vectorOf] using hb
  rw [State.enter, State.enterThen, hgood] at e
  refine ⟨_, e, OnlyTile.trans (State.onlyTile_modTile _ _ _) (State.onlyTile_modTile _ _ _), ?_, fun k hk => ?_, ?_⟩
  · simp [State.th, State.debug]
  · simp [State.th, Tile.th_modTh, hk, Tile.enter_th_ne]
  · simp [still_enter]

/-- The entry of a thread whose PC and status are saved, taken from its own instruction. -/
theorem State.enter_retires_entered {i : Instr} {s : State} {t : TileId} {h : Thr} {toM : Bool} {c : BitVec 5} {ret : PWord}
    {d : BitVec 4} {va : VAddr}
    (e : exec i s = .next ((s.modTile t fun tl => tl.issued h).enter t h toM c ret (s.th t h).pc d va true))
    (g : VectorsGood (s.tile t) c) : Retires i s t h (entered (s.tile t) h toM c ret d va) := by
  have hpc : (s.th t h).pc = (((s.tile t).issued h).th h).pc := by rw [Tile.issued_th]; rfl
  rw [hpc] at e
  have r := State.enter_retires e g
  rwa [Tile.enter_th, entered_issued] at r

/-- The entry at M that leaves MEPC and MESTAT (R363). -/
theorem Tile.enter_th_unsaved (tl : Tile) (h : Thr) (c : BitVec 5) (d : BitVec 4) (va : VAddr) :
    ((tl.issued h).enter h true c (tl.th h).pc (tl.th h).pc d va false).th h =
      { entered tl h true c (tl.th h).pc d va with mepc := (tl.th h).mepc, mestat := (tl.th h).mestat } := by
  simp [Tile.enter, entered, vectorOf]

/-! ## Address instructions (R43, R75) -/

/-- LAH as a shift and a mask: the immediate above bit 27, the low 28 bits kept. -/
theorem lah_eq (imm : BitVec 20) (a : DWord) :
    (0#16) ++ imm ++ bits a 0 28 = (imm.setWidth 64 <<< 28) ||| (a &&& 0xFFFFFFF#64) := by
  refine BitVec.eq_of_getLsbD_eq fun i hi => ?_
  have hmask : (0xFFFFFFF#64).getLsbD i = decide (i < 28) := by
    rw [show (0xFFFFFFF#64) = BitVec.ofNat 64 (2 ^ 28 - 1) from rfl, BitVec.getLsbD_ofNat, Nat.testBit_two_pow_sub_one]
    simp [hi]
  rw [BitVec.getLsbD_append, BitVec.getLsbD_append, BitVec.getLsbD_or, BitVec.getLsbD_and, hmask, BitVec.getLsbD_shiftLeft,
    BitVec.getLsbD_setWidth, bits, BitVec.getLsbD_extractLsb']
  by_cases h : i < 28
  · simp [h]
  · simp [h, hi]
    by_cases hr : i - 28 < 20
    · simp [hr, show i - 28 < 64 by omega]
    · simp [hr, BitVec.getLsbD_of_ge imm _ (Nat.not_lt.mp hr)]

/-! ## Special registers (R85, R86, R117) -/

/-- The special registers that R85 and R117 name. -/
theorem specialIndex_cases {ix : BitVec 8} (hix : ix.toNat ≤ 7 ∨ 0x10 ≤ ix.toNat ∧ ix.toNat ≤ 0x12) :
    ix = 0 ∨ ix = 1 ∨ ix = 2 ∨ ix = 3 ∨ ix = 4 ∨ ix = 5 ∨ ix = 6 ∨ ix = 7 ∨ ix = 0x10 ∨ ix = 0x11 ∨ ix = 0x12 := by
  simp only [← BitVec.toNat_inj, BitVec.ofNat_eq_ofNat, BitVec.toNat_ofNat]
  omega

/-- A special-register instruction of a ready thread at a level that reaches the register. -/
theorem exec_mfs_of_ready {s : State} {t : TileId} {h : Thr} (r : Ready s t h 2) (d : Reg) {ix : BitVec 8}
    (hix : specialIndex ix = true) : exec (.mfs t h d ix) s = .next
      (if (s.th t h).st.pl < specialLevel ix then s.raise t h cPriv 0 0
       else s.finish t h (fun x => (x.setD d ((s.tile t).special t h ix)).advance 2)) := by
  change execMfs t h d ix s = _
  simp only [execMfs, issue_of_ready r, checked, hix, if_true]

theorem exec_mts_of_ready {s : State} {t : TileId} {h : Thr} (r : Ready s t h 2) (x : Reg) {ix : BitVec 8}
    (hix : specialIndex ix = true) : exec (.mts t h x ix) s = .next
      (if (s.th t h).st.pl < specialLevel ix then s.raise t h cPriv 0 0
       else (if 16 ≤ ix.toNat && (s.th t h).st.rep then
          s.modTile t (fun tl => tl.hazard s.debug 5 h (s.th t h).pc (bits ix 0 2 |>.setWidth 6) 0) else s).finish t h
            (fun y => (y.setSpecial ix (y.getD x)).advance 2)) := by
  change execMts t h x ix s = _
  simp only [execMts, issue_of_ready r, checked, hix, if_true]

/-- The same instruction where no hazard of KIND 5 is reported: it writes the register. -/
theorem mts_retires {s : State} {t : TileId} {h : Thr} (r : Ready s t h 2) (x : Reg) {ix : BitVec 8}
    (hix : specialIndex ix = true) (hpl : ¬(s.th t h).st.pl < specialLevel ix)
    (hrep : s.debug = false ∨ (s.th t h).st.rep = false ∨ ix.toNat < 16) :
    Retires (.mts t h x ix) s t h (((s.th t h).setSpecial ix ((s.th t h).getD x)).advance 2) := by
  have e := exec_mts_of_ready r x hix
  rw [if_neg hpl] at e
  split at e
  case isFalse => exact State.finish_retires e
  case isTrue hc =>
    have hcond : 16 ≤ ix.toNat ∧ (s.th t h).st.rep = true := by simpa using hc
    obtain hd | hd | hd := hrep
    · rw [hd] at e
      exact State.finish_retiresAs (g := fun tl => tl.hazard false 5 h (s.th t h).pc _ 0) e rfl
    · exact absurd (hd.symm.trans hcond.2) (by decide)
    · exact absurd hcond.1 (Nat.not_le.mpr hd)

theorem writeStatus_eq (x : Status) (w : Word) : writeStatus x w =
    { x with z := w.getLsbD 4, n := w.getLsbD 5, c := w.getLsbD 6, v := w.getLsbD 7,
             ie := if x.pl = 1 then x.ie else w.getLsbD 2, ss := if x.pl = 1 then x.ss else w.getLsbD 3 } := by
  unfold writeStatus
  split <;> simp_all [bit]

/-- Settles O2: each address instruction is one scalar operation; MFS and MTS pass their level and act on the register that
their index names. -/
theorem addressAndSpecialRegisters : Obligations.AddressAndSpecialRegisters := by
  unfold Obligations.AddressAndSpecialRegisters
  refine ⟨fun s t h ad r lo hi => ⟨fun h1 => ⟨?mova, ?adda⟩, fun h3 => ⟨?lai, ?lah⟩⟩,
    fun s t h d r ix => ?special⟩
  case mova => exact scalarOp_retires h1 rfl rfl
  case adda => exact scalarOp_retires h1 rfl rfl
  case lai => exact scalarOp_retires h3 rfl rfl
  case lah => exact scalarOp_retires h3 rfl (congrArg ((s.th t h).setA ad) (lah_eq hi _))
  case special =>
    intro x tl w value written level h2 hix hpl
    have hnamed : specialIndex ix = true := by
      obtain rfl | rfl | rfl | rfl | rfl | rfl | rfl | rfl | rfl | rfl | rfl := specialIndex_cases hix <;> rfl
    have hlevel : ¬(s.th t h).st.pl < specialLevel ix := by
      simpa [level, specialLevel] using hpl
    have hvalue : tl.special t h ix = value := by
      obtain rfl | rfl | rfl | rfl | rfl | rfl | rfl | rfl | rfl | rfl | rfl := specialIndex_cases hix <;> rfl
    have hwritten : x.setSpecial ix w = written := by
      obtain rfl | rfl | rfl | rfl | rfl | rfl | rfl | rfl | rfl | rfl | rfl := specialIndex_cases hix
      case inl => exact congrArg (fun st => { x with st := st }) (writeStatus_eq x.st w)
      all_goals rfl
    rw [← hvalue, ← hwritten, ← Thread.advance_eq_onward, ← Thread.advance_eq_onward]
    refine ⟨?_, mts_retires h2 r hnamed hlevel⟩
    have e := exec_mfs_of_ready h2 d hnamed
    rw [if_neg hlevel] at e
    exact State.finish_retires e

/-! ## Branches, stops and returns (R104, R119, R120, R362) -/

theorem Thread.jump_eq_branched (x : Thread) (p : PWord) : x.jump p = branched x p := rfl

/-- Settles O3: NOP is an empty operation, and each branch ends its slot at the target or at the next word. -/
theorem branchInstructions : Obligations.BranchInstructions := by
  unfold Obligations.BranchInstructions
  intro s t h d r c po x taken
  refine ⟨fun h1 => ⟨scalarOp_retires h1 rfl rfl, ?jr⟩, fun h2 => ⟨?br, ?call⟩⟩
  case jr =>
    have e : exec (.jr t h r) s = execJr t h r s := rfl
    rw [execJr, issue_of_ready h1] at e
    exact State.finish_retires e
  case br =>
    have e : exec (.br t h c po) s = execBr t h c po s := rfl
    rw [execBr, issue_of_ready h2] at e
    have htaken : brHolds c x.st = taken := by cases c <;> simp [brHolds, taken, bne]
    rw [← htaken, ← Thread.advance_eq_onward, ← Thread.jump_eq_branched]
    exact State.finish_retires e
  case call =>
    have e : exec (.call t h d po) s = execCall t h d po s := rfl
    rw [execCall, issue_of_ready h2] at e
    exact State.finish_retires e

/-- The end of an instruction that changes its thread alone, in the terms of `OnlyThread`. -/
theorem State.modTile_issued_onlyThread (s : State) (t : TileId) (h : Thr) (f : Thread → Thread) :
    let u := s.modTile t fun tl => (tl.issued h).modTh h f
    OnlyThread s u t h ∧ u.th t h = f (s.th t h) := by
  refine ⟨⟨State.onlyTile_modTile _ _ _, by simp, fun k hk => ?_⟩, by simp [State.th]⟩
  simp [State.th, Tile.th_modTh, hk]

/-- A thread that does not run at the end of its slot stays as it is (R521). -/
theorem Thread.slotEnd_of_not_running {x : Thread} (hx : x.run ≠ .running) (dbg ss : Bool) : x.slotEnd dbg ss = x := by
  simp [Thread.slotEnd, hx]

/-- Settles O5: STOP ends its slot with the thread stopped at the next word, and BRKPT with the thread halted. -/
theorem threadStops : Obligations.ThreadStops := by
  unfold Obligations.ThreadStops
  refine ⟨fun s t h h1 => ?stop, fun s t h h1 hd => ?brkpt⟩
  case stop =>
    have e : exec (.stop t h) s = execStop t h s := rfl
    rw [execStop, issue_of_ready h1] at e
    obtain ⟨⟨htile, hstill, hothers⟩, hth⟩ := State.modTile_issued_onlyThread s t h
      fun x => ({ x.stop with pc := x.pc + 1 } : Thread).slotEnd s.debug (s.th t h).st.ss
    rw [Thread.slotEnd_of_not_running (by simp [Thread.stop])] at hth
    refine ⟨_, e, htile, hstill, hothers, ?_⟩
    intro x y
    have hy : y = { x.stop with pc := x.pc + 1 } := hth
    rw [hy]
    exact ⟨rfl, rfl, rfl, rfl, rfl, rfl, rfl, rfl, rfl, rfl, rfl, rfl, rfl, rfl, rfl, rfl, rfl⟩
  case brkpt =>
    have e : exec (.brkpt t h) s = execBrkpt t h s := rfl
    rw [execBrkpt, issue_of_ready h1, if_pos hd] at e
    obtain ⟨⟨htile, hstill, hothers⟩, hth⟩ := State.modTile_issued_onlyThread s t h fun x => x.halt 4
    refine ⟨_, e, htile, hstill, hothers, ?_⟩
    rw [hth]
    exact ⟨rfl, rfl, rfl, rfl, rfl⟩

theorem exec_rtns_of_ready {s : State} {t : TileId} {h : Thr} (r : Ready s t h 1) : exec (.rtns t h) s = .next
    (if (s.th t h).st.pl = 1 then s.raise t h cPriv 0 0
     else if bits (s.th t h).sestat 0 2 = (0 : BitVec 2) ∨ bits (s.th t h).sestat 0 2 = (3 : BitVec 2) ∧ (s.th t h).st.pl ≠ 3
       then s.illegalReturn t h (bits (s.th t h).sestat 0 2) false
     else s.finish t h (fun x => x.ret x.sepc x.sestat)) := by
  change execRtns t h s = _
  simp [execRtns, issue_of_ready r]

/-- Thread `h` of tile `t` handles the failure of its function (R368). -/
def HandlesFailure (s : State) (t : TileId) (h : Thr) : Prop :=
  ∃ f, (s.tile t).func = some f ∧ (s.func f).st = .failed ∧ (s.func f).handler = some (t, h)

/-- RTNM at M in the handling thread of a failed function. -/
theorem exec_rtnm_of_handling {s : State} {t : TileId} {h : Thr} (r : Ready s t h 1) (hpl : (s.th t h).st.pl = 3)
    (hh : HandlesFailure s t h) : exec (.rtnm t h) s = .next (s.finish t h Thread.stop) := by
  obtain ⟨f, hf, hfail⟩ := hh
  change execRtnm t h s = _
  simp [execRtnm, issue_of_ready r, hpl, hf, hfail]

/-- RTNM at M elsewhere. -/
theorem exec_rtnm_of_not_handling {s : State} {t : TileId} {h : Thr} (r : Ready s t h 1) (hpl : (s.th t h).st.pl = 3)
    (hh : ¬HandlesFailure s t h) : exec (.rtnm t h) s = .next
      (if bits (s.th t h).mestat 0 2 = (0 : BitVec 2) then s.illegalReturn t h (bits (s.th t h).mestat 0 2) true
       else s.finish t h (fun x => x.ret x.mepc x.mestat)) := by
  change execRtnm t h s = _
  rw [execRtnm, issue_of_ready r]
  simp only [hpl, ne_eq, not_true_eq_false, if_false]
  cases hf : (s.tile t).func with
  | none => simp
  | some f =>
    have hn : ¬((s.func f).st = .failed ∧ (s.func f).handler = some (t, h)) := fun hc => hh ⟨f, hf, hc⟩
    simp [hn]

theorem ne_one_of_two_le {pl : BitVec 2} (h : 2 ≤ pl) : ¬pl = 1 := fun e => absurd (e ▸ h) (by decide)

theorem rtns_returns {s : State} {t : TileId} {h : Thr} (r : Ready s t h 1) (hpl : 2 ≤ (s.th t h).st.pl)
    (h0 : ¬bits (s.th t h).sestat 0 2 = (0 : BitVec 2))
    (h3 : bits (s.th t h).sestat 0 2 = (3 : BitVec 2) → (s.th t h).st.pl = 3) :
    Retires (.rtns t h) s t h ((s.th t h).ret (s.th t h).sepc (s.th t h).sestat) := by
  have e := exec_rtns_of_ready r
  rw [if_neg (ne_one_of_two_le hpl), if_neg (not_or.2 ⟨h0, fun hc => hc.2 (h3 hc.1)⟩)] at e
  exact State.finish_retires e

theorem rtns_illegal {s : State} {t : TileId} {h : Thr} (r : Ready s t h 1) (g : VectorsGood (s.tile t) 1)
    (hpl : 2 ≤ (s.th t h).st.pl) (hbad : bits (s.th t h).sestat 0 2 = (0 : BitVec 2) ∨
      bits (s.th t h).sestat 0 2 = (3 : BitVec 2) ∧ (s.th t h).st.pl = 2) :
    Retires (.rtns t h) s t h
      (entered (s.tile t) h true 1 (s.th t h).pc (0#2 ++ (bits (s.th t h).sestat 0 2 : BitVec 2)) 0) := by
  have e := exec_rtns_of_ready r
  rw [if_neg (ne_one_of_two_le hpl), if_pos (hbad.imp id (And.imp id fun h2 => by rw [h2]; decide)), State.illegalReturn] at e
  exact State.enter_retires_entered e g

theorem rtnm_illegal {s : State} {t : TileId} {h : Thr} (r : Ready s t h 1) (g : VectorsGood (s.tile t) 1)
    (hpl : (s.th t h).st.pl = 3) (hh : ¬HandlesFailure s t h) (h0 : bits (s.th t h).mestat 0 2 = (0 : BitVec 2)) :
    Retires (.rtnm t h) s t h
      { entered (s.tile t) h true 1 (s.th t h).pc 4 0 with mepc := (s.th t h).mepc, mestat := (s.th t h).mestat } := by
  have e := exec_rtnm_of_not_handling r hpl hh
  rw [if_pos h0, h0, State.illegalReturn] at e
  have hr := State.enter_retires e g
  rwa [State.th, Bool.not_true, Tile.enter_th_unsaved] at hr

/-- Settles O7: the guards of RTNS and RTNM choose between the return, the Illegal Return and the stop. -/
theorem returns : Obligations.Returns := by
  unfold Obligations.Returns
  intro s t h x back sp mp handling h1
  refine ⟨fun hpl h0 h3 => rtns_returns h1 hpl h0 h3, fun hpl hnot h0 => ?rtnm,
    fun hvec hpl hbad => rtns_illegal h1 hvec hpl hbad, fun hvec hpl hnot h0 => rtnm_illegal h1 hvec hpl hnot h0,
    fun hpl hh => ?stop⟩
  case rtnm =>
    have e := exec_rtnm_of_not_handling h1 hpl hnot
    rw [if_neg (show ¬bits x.mestat 0 2 = (0 : BitVec 2) from h0)] at e
    exact State.finish_retires e
  case stop =>
    refine ⟨_, exec_rtnm_of_handling h1 hpl hh, ?_⟩
    have hth := (State.modTile_issued_onlyThread s t h fun x => x.stop.slotEnd s.debug (s.th t h).st.ss).2
    rw [Thread.slotEnd_of_not_running (by simp [Thread.stop])] at hth
    exact congrArg Thread.run hth

end Sys2Proof.Machine
end

section
/-! Scalar accesses (R96, R99–R102, R195): what the checks of an access find, how a load from the own scratchpad and a store into
it complete, and what an access to another place sends. From them the obligations O6, O9 and O10. -/
namespace Sys2Proof.Machine

open Sys2Proof.Safety

/-! ## Bytes of a word (R4) -/

theorem leBytes_eq (k n : Nat) : leBytes k n = (List.range k).map fun i => BitVec.ofNat 8 (n / 256 ^ i) := by
  induction k generalizing n with
  | zero => rfl
  | succ k ih =>
    rw [leBytes, ih, List.range_succ_eq_map, List.map_cons, List.map_map, pow_zero, Nat.div_one]
    congr 2
    funext i
    rw [Function.comp, Nat.div_div_eq_div_mul, Nat.pow_succ']

theorem bytesOf_eq_byteList {n : Nat} (x : BitVec n) (k : Nat) : bytesOf x k = byteList x k := by
  rw [bytesOf, leBytes_eq, byteList]
  congr 1
  funext i
  apply BitVec.eq_of_toNat_eq
  rw [BitVec.toNat_ofNat, BitVec.extractLsb'_toNat, Nat.shiftRight_eq_div_pow, Nat.pow_mul]

@[simp] theorem length_byteList {n : Nat} (x : BitVec n) (k : Nat) : (byteList x k).length = k := by simp [byteList]

/-- The low bytes of a word widened are its bytes. -/
theorem byteList_setWidth {n m k : Nat} (x : BitVec n) (hk : 8 * k ≤ m) : byteList (x.setWidth m) k = byteList x k := by
  rw [byteList, byteList]
  refine List.map_congr_left fun i hi => BitVec.eq_of_getLsbD_eq fun j hj => ?_
  have hb : 8 * i + j < m := by have := List.mem_range.1 hi; omega
  simp [hb]

theorem leBits_4 (m : Memory) (o : Nat) :
    leBits 32 (m.bytes o 4) = m.byte (o + 3) ++ m.byte (o + 2) ++ m.byte (o + 1) ++ m.byte o := by
  apply BitVec.eq_of_toNat_eq
  simp only [leBits, Memory.bytes, leNat, BitVec.toNat_ofNat, toNat_append_eq]
  simp only [Nat.add_assoc, Nat.reduceAdd]
  omega

theorem leBits_8 (m : Memory) (o : Nat) :
    leBits 64 (m.bytes o 8) = m.byte (o + 7) ++ m.byte (o + 6) ++ m.byte (o + 5) ++ m.byte (o + 4) ++
      m.byte (o + 3) ++ m.byte (o + 2) ++ m.byte (o + 1) ++ m.byte o := by
  apply BitVec.eq_of_toNat_eq
  simp only [leBits, Memory.bytes, leNat, BitVec.toNat_ofNat, toNat_append_eq]
  simp only [Nat.add_assoc, Nat.reduceAdd]
  omega

theorem bits_zero_eq_setWidth {n w : Nat} (x : BitVec n) : (bits x 0 w : BitVec w) = x.setWidth w := by
  rw [bits]
  exact BitVec.eq_of_getLsbD_eq fun i hi => by simp [hi]

/-! ## The checks of an access (R96) -/

/-- An address of 2^48 or more. -/
theorem State.resolve_of_form {s : State} {t : TileId} {h : Thr} {a : DWord} (n al : Nat) (write : Bool)
    (ha : 2 ^ 48 ≤ a.toNat) : s.resolve t h a n al write = .fault cForm 0 := by
  simp only [State.resolve, if_pos ha]

/-- A load at U whose page lies in register space. -/
theorem State.resolve_of_uCsr {s : State} {t : TileId} {h : Thr} {a : DWord} (n al : Nat) {write : Bool}
    (ha : a.toNat < 2 ^ 48) (hlo : 0x100000000 ≤ a.toNat) (hu : s.uCsr t h a.toNat write = true) :
    s.resolve t h a n al write = .fault cPriv 0 := by
  simp only [State.resolve, if_neg (Nat.not_le.2 ha), hlo, hu, decide_true, Bool.and_self, if_true]

/-- An address that is not aligned. -/
theorem State.resolve_of_unaligned {s : State} {t : TileId} {h : Thr} {a : DWord} (n : Nat) {al : Nat} {write : Bool}
    (ha : a.toNat < 2 ^ 48) (hu : 0x100000000 ≤ a.toNat → s.uCsr t h a.toNat write = false) (hal : a.toNat % al ≠ 0) :
    s.resolve t h a n al write = .fault cAlign 0 := by
  have hc : (decide (0x100000000 ≤ a.toNat) && s.uCsr t h a.toNat write) = false := by
    rw [Bool.and_eq_false_imp, decide_eq_true_eq]
    exact hu
  simp only [State.resolve, if_neg (Nat.not_le.2 ha), hc, Bool.false_eq_true, if_false, if_pos hal]

/-- An aligned address of the local window. -/
theorem State.resolve_of_window {s : State} {t : TileId} (h : Thr) {a : DWord} {n al : Nat} {write : Bool}
    (ha : a.toNat < 0x100000000) (hal : a.toNat % al = 0) :
    s.resolve t h a n al write = match s.resolveLocal t a.toNat n write with
      | some g => .at g
      | none => .fault cAccess 0 := by
  have hform : ¬2 ^ 48 ≤ a.toNat := by omega
  simp only [State.resolve, if_neg hform, Nat.not_le.2 ha, decide_false, Bool.false_and, Bool.false_eq_true, if_false, hal, ne_eq,
    not_true_eq_false, if_pos ha] <;>
  cases s.resolveLocal t a.toNat n write <;> rfl

/-- Only a load at U can meet register space before its alignment is checked. -/
theorem State.uCsr_eq_false {s : State} {t : TileId} {h : Thr} {va : Nat} {write : Bool}
    (hn : ¬((s.th t h).st.pl = 1 ∧ write = false)) : s.uCsr t h va write = false := by
  have hc : (decide ((s.th t h).st.pl = 1) && !write) = false := by
    rw [Bool.and_eq_false_imp, decide_eq_true_eq, Bool.not_eq_false']
    exact fun e => Bool.of_not_eq_false fun hw => hn ⟨e, hw⟩
  simp only [State.uCsr, hc, Bool.false_and]

/-- A load at U whose translation the tile's cache holds and places in register space. -/
theorem State.uCsr_of_tlb {s : State} {t : TileId} {h : Thr} {va : Nat} {l : Leaf} {c : List Leaf}
    (hpl : (s.th t h).st.pl = 1) (hf : tlbFind (s.tile t).tlb ((s.tile t).func.getD 0) va = some (l, c))
    (hc : csrBlk (l.addr va) ≠ none) : s.uCsr t h va false = true := by
  simp only [State.uCsr, hpl, hf, decide_true, Bool.not_false, Bool.and_self, Bool.true_and]
  exact Option.isSome_iff_ne_none.2 hc

/-- An access whose checks find a fault takes it. -/
theorem withTarget_takes {i : Instr} {s : State} {t : TileId} {h : Thr} {a : DWord} {n al : Nat} {write : Bool}
    {k : Target → State → State} {c : BitVec 5} {d : BitVec 4} (e : exec i s = .next (withTarget t h a n al write k s))
    (hr : s.resolve t h a n al write = .fault c d) (g : VectorsGood (s.tile t) c) :
    Takes i s t h c (s.th t h).pc d (vaFor c (a.setWidth 48)) := by
  rw [withTarget, hr, bits_zero_eq_setWidth] at e
  exact State.raise_takes e g

/-! ## Scalar accesses of a ready thread (R99) -/

/-- The effective address of R99. -/
theorem Thread.ea_eq (x : Thread) (an : Reg) (dsp : BitVec 14) (n : Nat) :
    x.ea an dsp n = x.getA an + dsp.signExtend 64 * BitVec.ofNat 64 n := rfl

theorem exec_ld_of_ready {s : State} {t : TileId} {h : Thr} (r : Ready s t h 2) (x an : Reg) (dsp : BitVec 14) :
    let a := (s.th t h).ea an dsp 4
    exec (.ld t h x an dsp) s =
      .next (withTarget t h a 4 4 false (fun g s => s.loadAt t h (bits a 0 48) g 4 4 (.d x)) s) := by
  change execLd t h x an dsp s = _
  rw [execLd, scalarLoad, issue_of_ready r]

theorem exec_lda_of_ready {s : State} {t : TileId} {h : Thr} (r : Ready s t h 2) (x an : Reg) (dsp : BitVec 14) :
    let a := (s.th t h).ea an dsp 8
    exec (.lda t h x an dsp) s =
      .next (withTarget t h a 8 8 false (fun g s => s.loadAt t h (bits a 0 48) g 8 8 (.a x)) s) := by
  change execLda t h x an dsp s = _
  rw [execLda, scalarLoad, issue_of_ready r]

theorem exec_st_of_ready {s : State} {t : TileId} {h : Thr} (r : Ready s t h 2) (x an : Reg) (dsp : BitVec 14) :
    let a := (s.th t h).ea an dsp 4
    exec (.st t h x an dsp) s = .next (withTarget t h a 4 4 true (fun g u =>
      storeAt t h (bits a 0 48) g 4 (byteList ((s.th t h).getD x) 4) (fun w => w.complete t h 2) u) s) := by
  change execSt t h x an dsp s = _
  rw [execSt, scalarStore, issue_of_ready r]
  simp only [bytesOf_eq_byteList, byteList_setWidth _ (show 8 * 4 ≤ 64 by decide)]

theorem exec_sta_of_ready {s : State} {t : TileId} {h : Thr} (r : Ready s t h 2) (x an : Reg) (dsp : BitVec 14) :
    let a := (s.th t h).ea an dsp 8
    exec (.sta t h x an dsp) s = .next (withTarget t h a 8 8 true (fun g u =>
      storeAt t h (bits a 0 48) g 8 (byteList ((s.th t h).getA x) 8) (fun w => w.complete t h 2) u) s) := by
  change execSta t h x an dsp s = _
  rw [execSta, scalarStore, issue_of_ready r]
  simp only [bytesOf_eq_byteList]

theorem exec_zline_of_ready {s : State} {t : TileId} {h : Thr} (r : Ready s t h 2) (an : Reg) (dsp : BitVec 14) :
    let a := (s.th t h).ea an dsp 256
    let va : VAddr := bits a 0 48
    exec (.zline t h an dsp) s = .next (withTarget t h a 256 256 true (fun g s =>
      match g with
      | .own _ => storeAt t h va g 256 (List.replicate 256 0) (fun s => s.complete t h 2) s
      | .hbm _ =>
        if (s.tile t).sbufFull then s.modTile t (fun tl => tl.stallOn h 2)
        else
          let go (s : State) : State :=
            ((s.modTile t (fun tl => tl.zeroLine va.toNat)).bufferStore t h va g 256 (List.replicate 256 0)).complete t h 2
          if (s.tile t).csize = 0 then go s else withPort t h go s
      | _ => s.raise t h cAccess 0 va) s) := by
  change execZline t h an dsp s = _
  rw [execZline, issue_of_ready r] <;> rfl

/-! ## The address traps (R96) -/

/-- The address traps of a scalar access of `n` bytes, in their order. -/
theorem addressTraps {i : Instr} {s : State} {t : TileId} {h : Thr} {a : DWord} {n : Nat} {write : Bool}
    {k : Target → State → State} (e : exec i s = .next (withTarget t h a n n write k s)) :
    (VectorsGood (s.tile t) 5 → 2 ^ 48 ≤ a.toNat → Takes i s t h 5 (s.th t h).pc 0 (a.setWidth 48)) ∧
    (VectorsGood (s.tile t) 3 → 0x100000000 ≤ a.toNat → a.toNat < 2 ^ 48 → (s.th t h).st.pl = 1 → write = false →
      (∃ l c, tlbFind (s.tile t).tlb ((s.tile t).func.getD 0) a.toNat = some (l, c) ∧ csrBlk (l.addr a.toNat) ≠ none) →
      Takes i s t h 3 (s.th t h).pc 0 0) ∧
    (VectorsGood (s.tile t) 6 → a.toNat < 2 ^ 48 → a.toNat % n ≠ 0 →
      (0x100000000 ≤ a.toNat → (s.th t h).st.pl = 1 → write = false → s.uCsr t h a.toNat false = false) →
      Takes i s t h 6 (s.th t h).pc 0 (a.setWidth 48)) ∧
    (VectorsGood (s.tile t) 8 → a.toNat < 0x100000000 → a.toNat % n = 0 → s.resolveLocal t a.toNat n write = none →
      Takes i s t h 8 (s.th t h).pc 0 (a.setWidth 48)) := by
  refine ⟨fun g hform => ?form, fun g hlo hhi hpl hw ⟨l, c, hf, hc⟩ => ?priv, fun g hhi hal hu => ?align,
    fun g hlo hal hnone => ?access⟩
  case form => exact withTarget_takes e (State.resolve_of_form n n write hform) g
  case priv =>
    subst hw
    exact withTarget_takes e (State.resolve_of_uCsr n n hhi hlo (State.uCsr_of_tlb hpl hf hc)) g
  case align =>
    refine withTarget_takes e (State.resolve_of_unaligned n hhi (fun hlo => ?_) hal) g
    by_cases hn : (s.th t h).st.pl = 1 ∧ write = false
    · rw [hn.2]
      exact hu hlo hn.1 hn.2
    · exact State.uCsr_eq_false hn
  case access => exact withTarget_takes e ((State.resolve_of_window h hlo hal).trans (by rw [hnone]; rfl)) g

/-! ## Accesses of the own scratchpad (R99, R176, R177) -/

theorem resolve_of_ownRead {s : State} {t : TileId} (h : Thr) {a : DWord} {n al off : Nat} (o : OwnRead s t a n al off) :
    s.resolve t h a n al false = .at (.own off) := by
  obtain ⟨hlo, hal, hplace, -, -⟩ := o
  rw [State.resolve_of_window h hlo hal, hplace]

theorem resolve_of_ownWrite {s : State} {t : TileId} (h : Thr) {a : DWord} {n al off : Nat} {bs : List Byte}
    (o : OwnWrite s t a al off bs) (hn : bs.length = n) : s.resolve t h a n al true = .at (.own off) := by
  obtain ⟨hlo, hal, hplace, -, -⟩ := o
  rw [State.resolve_of_window h hlo hal, ← hn, hplace]

/-- An access of the local window that resolves goes on with its target. -/
theorem withTarget_of_window {s : State} {t : TileId} {h : Thr} {a : DWord} {n al : Nat} {write : Bool} {g : Target}
    (k : Target → State → State) (hlo : a.toNat < 0x100000000) (hr : s.resolve t h a n al write = .at g) :
    withTarget t h a n al write k s = k g s := by
  simp only [withTarget, hr, if_pos hlo]

theorem withPort_of_room {s : State} {t : TileId} (h : Thr) (k : State → State) (hin : (s.tile t).inbuf.length < 16) :
    withPort t h k s = k s := by
  rw [withPort, if_neg (Nat.ne_of_lt hin)]

theorem withRead_of_clean {s : State} {t : TileId} (h : Thr) (va : VAddr) {off n : Nat} (k : State → State)
    (hin : (s.tile t).inbuf.length < 16) (herr : (s.tile t).errWords off n = []) : withRead t h va off n k s = k s := by
  rw [withRead, withPort_of_room h _ hin, herr]
  rfl

theorem withWrite_of_good {s : State} {t : TileId} (h : Thr) (va : VAddr) {off : Nat} {bs : List (Option Byte)}
    (k : State → State) (hin : (s.tile t).inbuf.length < 16) (hbad : (s.tile t).writeBad off bs = none) :
    withWrite t h va off bs k s = k (s.modTile t fun tl => tl.lmWrite 0 off bs) := by
  rw [withWrite, withPort_of_room h _ hin, hbad]

/-- A store into the own scratchpad. -/
theorem storeAt_of_ownWrite {s : State} {t : TileId} (h : Thr) (va : VAddr) (esz : Nat) {a : DWord} {al off : Nat}
    {bs : List Byte} (k : State → State) (o : OwnWrite s t a al off bs) :
    storeAt t h va (.own off) esz bs k s = k (s.modTile t fun tl => tl.lmWrite 0 off (bs.map some)) := by
  obtain ⟨-, -, -, hin, hbad⟩ := o
  rw [storeAt, withWrite_of_good h va k hin hbad]

/-- A load from the own scratchpad, before its issue is counted. -/
theorem loadFrom_of_ownRead {s : State} {t : TileId} (h : Thr) (va : VAddr) (esz : Nat) {a : DWord} {n al off : Nat}
    (dest : LoadDest) (o : OwnRead s t a n al off) :
    s.loadFrom t h va (.own off) n esz dest = s.deliver t h dest ((s.tile t).lmem.bytes off n) := by
  obtain ⟨-, -, -, hin, herr⟩ := o
  rw [State.loadFrom, withRead_of_clean h va _ hin herr]

theorem debug_of_onlyTile {s u : State} {t : TileId} (o : OnlyTile s u t) : u.debug = s.debug := by
  rw [o.1]
  rfl

/-- The end of a slot that a load's data has ended, with its issue counted after it, where the instruction has changed its
tile's other blocks from `s` to `v`. -/
theorem State.land_issued_retiresAs {i : Instr} {s v : State} {t : TileId} {h : Thr} {f : Thread → Thread}
    (o : OnlyTile s v t) (hthr : (v.tile t).thr = (s.tile t).thr)
    (e : exec i s = .next ((v.land t h f).modTile t fun tl => tl.issued h)) :
    RetiresAs i s t h (v.tile t) (f (s.th t h)) := by
  have hth : (v.tile t).th h = (s.tile t).th h := by rw [Tile.th, hthr]; rfl
  refine ⟨_, e, ?_, ?_, fun k hk => ?_, ?_⟩
  · exact OnlyTile.trans o (OnlyTile.trans (State.onlyTile_modTile _ _ _) (State.onlyTile_modTile _ _ _))
  · simp [State.land, State.modTh, State.th, hth, debug_of_onlyTile o]
  · simp [State.land, State.modTh, State.th, Tile.th_modTh, hk]
  · simp [State.land, State.modTh]

/-- A load that starts no stall: its issue is counted after its own effect (R196 when it reads HBM). -/
theorem State.loadAt_of_no_stall {s r : State} {t : TileId} (h : Thr) (va : VAddr) {off : Nat} (n esz : Nat) (dest : LoadDest)
    (hr : s.loadFrom t h va (.own off) n esz dest = r) (hc : (r.tile t).causes = 0) :
    s.loadAt t h va (.own off) n esz dest = r.modTile t fun tl => tl.issued h := by
  simp only [State.loadAt, hr, hc, ne_eq, not_true_eq_false, if_false]

/-- The slot of a load has no effect on the stall causes. -/
theorem State.land_causes (s : State) (t : TileId) (h : Thr) (f : Thread → Thread) :
    ((s.land t h f).tile t).causes = (s.tile t).causes := by
  simp [State.land, State.modTh, Tile.modTh]

/-- A load from the own scratchpad whose data goes to the thread alone. -/
theorem ownLoad_retires {i : Instr} {s : State} {t : TileId} {h : Thr} {len : Nat} {a : DWord} {n esz al off : Nat} {va : VAddr}
    {dest : LoadDest} {f : Thread → Thread} (r : Ready s t h len) (o : OwnRead s t a n al off)
    (hd : s.deliver t h dest ((s.tile t).lmem.bytes off n) = s.land t h f)
    (e : exec i s = .next (s.loadAt t h va (.own off) n esz dest)) : Retires i s t h (f (s.th t h)) := by
  obtain ⟨-, -, hcauses, -⟩ := r
  rw [State.loadAt_of_no_stall h va n esz dest ((loadFrom_of_ownRead h va esz dest o).trans hd)
    ((State.land_causes s t h f).trans hcauses)] at e
  exact State.land_issued_retiresAs (State.onlyTile_refl s t) rfl e

/-- A ready thread waits for no data. -/
theorem withoutWait_of_ready {s : State} {t : TileId} {h : Thr} {len : Nat} (r : Ready s t h len) :
    { s.th t h with wait := none } = s.th t h := by
  obtain ⟨-, -, -, -, -, -, hwait, -⟩ := r
  rw [← hwait]

/-- A store into the own scratchpad completes. -/
theorem ownStore_stores {i : Instr} {s : State} {t : TileId} {h : Thr} {va : VAddr} {esz : Nat} {a : DWord} {al off : Nat}
    {bs : List Byte} (o : OwnWrite s t a al off bs)
    (e : exec i s = .next (storeAt t h va (.own off) esz bs (fun w => w.complete t h 2) s)) :
    RetiresAs i s t h ((s.tile t).lmWrite 0 off (bs.map some)) (onward (s.th t h) 2) ∧
      Wrote (s.tile t) ((s.tile t).lmWrite 0 off (bs.map some)) off bs := by
  rw [storeAt_of_ownWrite h va esz _ o] at e
  exact ⟨State.complete_retiresAs e (Tile.thr_lmWrite _ _ _ _), Tile.wrote_lmWrite _ _ _ _⟩

/-- Settles O9: each access resolves to the own scratchpad, where nothing stops it. -/
theorem scratchpadAccesses : Obligations.ScratchpadAccesses := by
  unfold Obligations.ScratchpadAccesses
  refine ⟨fun s t h x an dsp off => ?loads, fun s t h x an dsp off => ?stores⟩
  case loads =>
    intro y a4 a8 m h2
    refine ⟨fun o => ?ld, fun o => ?lda⟩
    case ld =>
      have e := (exec_ld_of_ready h2 x an dsp).trans (congrArg _ (withTarget_of_window _ o.1 (resolve_of_ownRead h o)))
      have hret := ownLoad_retires h2 o rfl e
      rwa [withoutWait_of_ready h2, Thread.advance_eq_onward, leBits_4] at hret
    case lda =>
      have e := (exec_lda_of_ready h2 x an dsp).trans (congrArg _ (withTarget_of_window _ o.1 (resolve_of_ownRead h o)))
      have hret := ownLoad_retires h2 o rfl e
      rwa [withoutWait_of_ready h2, Thread.advance_eq_onward, leBits_8] at hret
  case stores =>
    intro y tl at_ stores h2
    refine ⟨fun o => ?st, fun o => ?sta, fun o => ?zline⟩
    case st =>
      have e := (exec_st_of_ready h2 x an dsp).trans (congrArg _ (withTarget_of_window _ o.1 (resolve_of_ownWrite h o (length_byteList _ _))))
      exact ownStore_stores o e
    case sta =>
      have e := (exec_sta_of_ready h2 x an dsp).trans (congrArg _ (withTarget_of_window _ o.1 (resolve_of_ownWrite h o (length_byteList _ _))))
      exact ownStore_stores o e
    case zline =>
      have e := (exec_zline_of_ready h2 an dsp).trans (congrArg _ (withTarget_of_window _ o.1 (resolve_of_ownWrite h o List.length_replicate)))
      exact ownStore_stores o e

/-! ## Accesses that leave the tile (R100–R103) -/

/-- Tile `t` has changed in its translation cache and its fills alone, and nothing outside it. -/
def AsideCaches (s v : State) (t : TileId) : Prop :=
  OnlyTile s v t ∧ ∃ c d, v.tile t = { s.tile t with tlb := c, fills := d }

theorem asideCaches_refl (s : State) (t : TileId) : AsideCaches s s t := ⟨State.onlyTile_refl s t, _, _, rfl⟩

theorem asideCaches_modTile {s v : State} {t : TileId} {f : Tile → Tile} (o : AsideCaches s v t)
    (hf : ∀ tl, ∃ c d, f tl = { tl with tlb := c, fills := d }) : AsideCaches s (v.modTile t f) t := by
  obtain ⟨ho, c, d, hv⟩ := o
  refine ⟨OnlyTile.trans ho (State.onlyTile_modTile _ _ _), ?_⟩
  obtain ⟨c', d', hc⟩ := hf (v.tile t)
  exact ⟨c', d', by rw [State.tile_modTile_self, hc, hv]⟩

theorem Tile.tlbTouch_eq (tl : Tile) (va : Nat) : ∃ c d, tl.tlbTouch va = { tl with tlb := c, fills := d } := by
  unfold Tile.tlbTouch
  split
  · exact ⟨_, _, rfl⟩
  · exact ⟨_, _, rfl⟩

/-- An access that resolves goes on with its target; at most the translation cache has changed (R318). -/
theorem withTarget_of_resolve {s : State} {t : TileId} {h : Thr} {a : DWord} {n al : Nat} {write : Bool} {g : Target}
    (k : Target → State → State) (hr : s.resolve t h a n al write = .at g) :
    ∃ v, AsideCaches s v t ∧ withTarget t h a n al write k s = k g v := by
  simp only [withTarget, hr]
  split
  · exact ⟨s, asideCaches_refl s t, rfl⟩
  · exact ⟨_, asideCaches_modTile (asideCaches_refl s t) fun tl => Tile.tlbTouch_eq tl _, rfl⟩

/-- A store of a tile without a cache partition to another place enters the store buffer. -/
theorem storeAt_of_other {s v : State} {t : TileId} (h : Thr) (va : VAddr) {g : Target} (esz : Nat) (bs : List Byte)
    (k : State → State) (o : AsideCaches s v t) (hroom : (s.tile t).sbuf.length < 8) (hc : (s.tile t).csize = 0)
    (hg : ∀ off, g ≠ .own off) :
    ∃ w, AsideCaches s w t ∧ storeAt t h va g esz bs k v = k (w.bufferStore t h va g esz bs) := by
  obtain ⟨-, c, d, hv⟩ := id o
  have hfull : (v.tile t).sbufFull = false := by
    rw [hv]
    simpa [Tile.sbufFull] using hroom
  have hmiss : (v.tile t).hit va.toNat = none := by
    rw [Tile.hit, hv]
    exact if_pos hc
  cases g with
  | own off => exact absurd rfl (hg off)
  | hbm pa =>
    refine ⟨v.modTile t fun tl =>
      { tl with fills := tl.fills.map fun f => if f.va.toNat / 64 = va.toNat / 64 then { f with dead := true } else f },
      asideCaches_modTile o fun tl => ⟨_, _, rfl⟩, ?_⟩
    simp only [storeAt, hfull, withCache, hmiss, Bool.false_eq_true, if_false]
  | remote u off hd => exact ⟨v, o, by simp only [storeAt, hfull, Bool.false_eq_true, if_false]⟩
  | csr pa => exact ⟨v, o, by simp only [storeAt, hfull, Bool.false_eq_true, if_false]⟩

/-- What a store that leaves through the store buffer has done (R102). -/
def StoreLeaves (i : Instr) (s : State) (t : TileId) (h : Thr) (g : Target) (a : DWord) (bs : List Byte) : Prop :=
  ∃ u, exec i s = .next u ∧ u = { s with tiles := u.tiles, reqs := u.reqs, nextId := s.nextId + 1 } ∧
    (∀ q, q ≠ t → u.tile q = s.tile q) ∧ (u.tile t).lmem = (s.tile t).lmem ∧
    u.th t h = (onward { s.th t h with relScope := none } 2).slotEnd s.debug (s.th t h).st.ss ∧
    (u.tile t).sbuf = (s.tile t).sbuf ++ [SBuf.mk s.nextId h (s.th t h).pc (a.setWidth 48) g bs (s.th t h).hold false none] ∧
    ∃ q, u.reqs = s.reqs ++ [q] ∧ q.id = s.nextId ∧ q.write = true ∧ q.dst = g ∧ q.data = bs ∧ q.tile = t ∧ q.thr = h

@[simp] theorem Tile.issued_lmem (tl : Tile) (h : Thr) : (tl.issued h).lmem = tl.lmem :=
  (congrArg Tile.lmem (still_issued tl h) : _)
@[simp] theorem Tile.issued_sbuf (tl : Tile) (h : Thr) : (tl.issued h).sbuf = tl.sbuf :=
  (congrArg Tile.sbuf (still_issued tl h) : _)

@[simp] theorem State.tile_request (s : State) (t q : TileId) (h : Thr) (write fill : Bool) (g : Target) (va : VAddr)
    (n esz : Nat) (data : List Byte) : (s.request t h write fill g va n esz data).tile q = s.tile q := rfl

/-- The tile after a store has entered its store buffer (R102). -/
theorem State.tile_bufferStore (s : State) (t q : TileId) (h : Thr) (va : VAddr) (g : Target) (esz : Nat) (bs : List Byte) :
    (s.bufferStore t h va g esz bs).tile q =
      if q = t then
        ({ s.tile t with sbuf := (s.tile t).sbuf ++
            [⟨s.nextId, h, (s.th t h).pc, va, g, bs, (s.th t h).hold, false, none⟩] } : Tile).modTh h
          fun x => { x with relScope := none }
      else s.tile q := by
  simp [State.bufferStore, State.tile_modTile]

theorem bufferStore_leaves {i : Instr} {s w : State} {t : TileId} {h : Thr} {g : Target} {a : DWord} {esz : Nat}
    {bs : List Byte} (o : AsideCaches s w t)
    (e : exec i s = .next ((w.bufferStore t h (a.setWidth 48) g esz bs).complete t h 2)) : StoreLeaves i s t h g a bs := by
  obtain ⟨⟨hw, hothers⟩, c, d, htl⟩ := o
  have hth : w.th t h = s.th t h := by rw [State.th, htl]; rfl
  have hid : w.nextId = s.nextId := by rw [hw]
  have hdebug : w.debug = s.debug := by rw [hw]; rfl
  have htile := State.tile_bufferStore w t
  have hss : ((w.bufferStore t h (a.setWidth 48) g esz bs).th t h) = { s.th t h with relScope := none } := by
    rw [State.th, htile, if_pos rfl, Tile.th_modTh_self, ← hth]
    rfl
  refine ⟨_, e, ?_, fun q hq => ?_, ?_, ?_, ?_, ?_⟩
  · rw [hw]; rfl
  · rw [State.complete, State.finish, State.tile_modTile, if_neg hq, htile, if_neg hq, hothers q hq]
  · rw [State.complete, State.finish, State.tile_modTile_self, htile, if_pos rfl, htl]
    simp [Tile.modTh]
  · rw [State.complete, State.finish, State.th, State.tile_modTile_self, Tile.th_modTh_self, Tile.issued_th]
    rw [State.th] at hss
    rw [hss, State.th, hss, ← hdebug, Thread.advance_eq_onward]
    rfl
  · rw [State.complete, State.finish, State.tile_modTile_self, htile, if_pos rfl, hth, hid, htl]
    simp [Tile.modTh]
  · have hreqs : w.reqs = s.reqs := by rw [hw]
    exact ⟨_, congrArg (fun l => l ++ [_]) hreqs, hid, rfl, rfl, rfl, rfl, rfl⟩

/-- What a load that waits for another place has done (R30, R101). -/
def LoadWaits (i : Instr) (s : State) (t : TileId) (h : Thr) (g : Target) (a : DWord) (n : Nat) (d : LoadDest) : Prop :=
  ∃ u, exec i s = .next u ∧ u = { s with tiles := u.tiles, reqs := u.reqs, nextId := s.nextId + 1 } ∧
    (∀ q, q ≠ t → u.tile q = s.tile q) ∧ (u.tile t).lmem = (s.tile t).lmem ∧
    u.th t h = { s.th t h with wait := some { dest := d, va := a.setWidth 48, src := g, n := n, on := .req s.nextId } } ∧
    ∃ q, u.reqs = s.reqs ++ [q] ∧ q.id = s.nextId ∧ q.write = false ∧ q.dst = g ∧ q.n = n ∧ q.tile = t ∧ q.thr = h

/-- The store buffer's answer does not depend on the caches. -/
theorem forward_of_asideCaches {s v : State} {t : TileId} (o : AsideCaches s v t) (g : Target) (esz cnt : Nat) :
    v.forward t g esz cnt = s.forward t g esz cnt := by
  obtain ⟨⟨-, hothers⟩, c, d, htl⟩ := o
  have hpbb : ∀ u, (v.tile u).pbb = (s.tile u).pbb := fun u => by
    by_cases hu : u = t
    · rw [hu, htl]
    · rw [hothers u hu]
  have hloc : ∀ k, v.locOf t k = s.locOf t k := fun k => by
    unfold State.locOf
    simp only [hpbb]
  have hone : ∀ sp b n, v.fwdOne t sp b n = s.fwdOne t sp b n := fun sp b n => by
    unfold State.fwdOne
    simp only [hloc, htl]
  unfold State.forward
  simp only [hloc, hone]

/-- A load of a tile without a cache partition from another place, with no store held for its bytes, sends a request. -/
theorem loadFrom_of_other {v : State} {t : TileId} (h : Thr) (va : VAddr) {g : Target} {n esz : Nat} (dest : LoadDest)
    (hf : v.forward t g esz (n / esz) = .none) (hc : (v.tile t).csize = 0) (hg : ∀ off, g ≠ .own off) :
    v.loadFrom t h va g n esz dest = (v.request t h false false g va n esz []).waitOn t h dest va g n (.req v.nextId) := by
  cases g with
  | own off => exact absurd rfl (hg off)
  | hbm pa => simp only [State.loadFrom, hf, State.loadHbm, hc, if_true]
  | remote u off hd => simp only [State.loadFrom, hf]
  | csr pa => simp only [State.loadFrom, hf]

/-- Without a cache partition the stride detector is idle (R196). -/
theorem detect_of_no_cache {s : State} {t : TileId} (h : Thr) (a : VAddr) (hc : (s.tile t).csize = 0) : s.detect t h a = s := by
  simp [State.detect, hc]

@[simp] theorem Tile.issued_csize (tl : Tile) (h : Thr) : (tl.issued h).csize = tl.csize :=
  (congrArg Tile.csize (still_issued tl h) : _)

/-- A load of a tile without a cache partition that starts no stall: its issue is counted. -/
theorem State.loadAt_of_no_cache {s r : State} {t : TileId} (h : Thr) (va : VAddr) {g : Target} {n esz : Nat} {dest : LoadDest}
    (hr : s.loadFrom t h va g n esz dest = r) (hcauses : (r.tile t).causes = 0) (hc : (r.tile t).csize = 0) :
    s.loadAt t h va g n esz dest = r.modTile t fun tl => tl.issued h := by
  have hd : (r.modTile t fun tl => tl.issued h).detect t h va = r.modTile t fun tl => tl.issued h :=
    detect_of_no_cache h va (by simpa using hc)
  simp only [State.loadAt, hr, hcauses, ne_eq, not_true_eq_false, if_false]
  cases g with
  | hbm pa => exact hd
  | own off => rfl
  | remote u off hnd => rfl
  | csr pa => rfl

theorem loadAt_waits {i : Instr} {s v : State} {t : TileId} {h : Thr} {g : Target} {a : DWord} {n esz : Nat} {d : LoadDest}
    (o : AsideCaches s v t) (hcauses : (s.tile t).causes = 0) (hc : (s.tile t).csize = 0) (hg : ∀ off, g ≠ .own off)
    (hf : s.forward t g esz (n / esz) = .none)
    (e : exec i s = .next (v.loadAt t h (a.setWidth 48) g n esz d)) : LoadWaits i s t h g a n d := by
  rw [← forward_of_asideCaches o] at hf
  obtain ⟨⟨hv, hothers⟩, c, f, htl⟩ := o
  have hcv : (v.tile t).csize = 0 := by rw [htl]; exact hc
  have hth : v.th t h = s.th t h := by rw [State.th, htl]; rfl
  have hid : v.nextId = s.nextId := by rw [hv]
  have hreqs : v.reqs = s.reqs := by rw [hv]
  have hload := loadFrom_of_other h (a.setWidth 48) d hf hcv hg
  rw [State.loadAt_of_no_cache h _ hload (by simp [State.waitOn, State.modTh, Tile.modTh, htl, hcauses])
    (by simp [State.waitOn, State.modTh, Tile.modTh, hcv])] at e
  refine ⟨_, e, ?_, fun q hq => ?_, ?_, ?_, ?_⟩
  · rw [hv]; rfl
  · simp [State.waitOn, State.modTh, State.tile_modTile, hq, hothers q hq]
  · simp [State.waitOn, State.modTh, Tile.modTh, htl]
  · rw [State.th, State.th] at hth
    simp [State.waitOn, State.modTh, State.th, hth, hid]
  · exact ⟨_, congrArg (fun l => l ++ [_]) hreqs, hid, rfl, rfl, rfl, rfl, rfl⟩

/-- A store whose checks place it elsewhere leaves through the store buffer. -/
theorem store_leaves {i : Instr} {s : State} {t : TileId} {h : Thr} {g : Target} {a : DWord} {n al esz : Nat} {bs : List Byte}
    (e : exec i s = .next (withTarget t h a n al true
      (fun k u => storeAt t h (bits a 0 48) k esz bs (fun w => w.complete t h 2) u) s))
    (hroom : (s.tile t).sbuf.length < 8) (hc : (s.tile t).csize = 0) (hg : ∀ off, g ≠ .own off)
    (hr : s.resolve t h a n al true = .at g) : StoreLeaves i s t h g a bs := by
  obtain ⟨v, ho, hv⟩ := withTarget_of_resolve (fun k u => storeAt t h (bits a 0 48) k esz bs (fun w => w.complete t h 2) u) hr
  obtain ⟨w, hw, hs⟩ := storeAt_of_other h (bits a 0 48) esz bs (fun w => w.complete t h 2) ho hroom hc hg
  rw [hv, hs, bits_zero_eq_setWidth] at e
  exact bufferStore_leaves hw e

/-- A load whose checks place it elsewhere waits for its data. -/
theorem load_waits {i : Instr} {s : State} {t : TileId} {h : Thr} {g : Target} {a : DWord} {n al esz : Nat} {d : LoadDest}
    (e : exec i s = .next (withTarget t h a n al false (fun k u => u.loadAt t h (bits a 0 48) k n esz d) s))
    (hcauses : (s.tile t).causes = 0) (hc : (s.tile t).csize = 0) (hg : ∀ off, g ≠ .own off)
    (hr : s.resolve t h a n al false = .at g) (hf : s.forward t g esz (n / esz) = .none) : LoadWaits i s t h g a n d := by
  obtain ⟨v, ho, hv⟩ := withTarget_of_resolve (fun k u => u.loadAt t h (bits a 0 48) k n esz d) hr
  rw [hv, bits_zero_eq_setWidth] at e
  exact loadAt_waits ho hcauses hc hg hf e

/-- Settles O10: the access resolves to another place, with at most the translation cache changed, and goes out from there. -/
theorem bufferedAccesses : Obligations.BufferedAccesses := by
  unfold Obligations.BufferedAccesses
  refine ⟨fun s t h x an dsp g => ?stores, fun s t h x an dsp g => ?loads⟩
  case stores =>
    intro y at_ leaves h2 hroom hc hg
    exact ⟨fun hr => store_leaves (exec_st_of_ready h2 x an dsp) hroom hc hg hr,
      fun hr => store_leaves (exec_sta_of_ready h2 x an dsp) hroom hc hg hr⟩
  case loads =>
    intro y at_ waits h2 hc hg
    exact ⟨fun hr hf => load_waits (exec_ld_of_ready h2 x an dsp) h2.2.2.1 hc hg hr hf,
      fun hr hf => load_waits (exec_lda_of_ready h2 x an dsp) h2.2.2.1 hc hg hr hf⟩

end Sys2Proof.Machine
end

section
/-! The string instructions (R121–R123): what a slot checks, which elements a scan passes, and what a slot within the own
scratchpad does. From them the obligations O6 and O11. -/
namespace Sys2Proof.Machine

open Sys2Proof.Safety

/-! ## A slot and its checks (R121) -/

theorem exec_smov_of_ready {s : State} {t : TileId} {h : Thr} (r : Ready s t h 2) (ad x dc : Reg) (sz : ESize) :
    let k := s.th t h
    let n := esBytes sz
    exec (.smov t h ad x false sz dc) s = .next (stringSlot t h dc (ad = x) n [k.getA ad, k.getA x] id (fun u =>
      let cnt := min (k.getD dc).toNat (min (upTo n (k.getA ad)) (upTo n (k.getA x)))
      withTargets t h (k.getA x) (k.getA ad) (cnt * n) (fun g gd w =>
        w.loadAt t h (bits (k.getA x) 0 48) g (cnt * n) n (.smov ad x dc sz cnt gd)) u) s) := by
  change execSmov t h ad x false sz dc s = _
  rw [execSmov, issue_of_ready r]
  rfl

theorem exec_sscn_of_ready {s : State} {t : TileId} {h : Thr} (r : Ready s t h 2) (ad dv dc : Reg) (mode : Bool) (sz : ESize) :
    let k := s.th t h
    let n := esBytes sz
    exec (.sscn t h ad dv mode sz dc) s = .next (stringSlot t h dc (dc = dv) n [k.getA ad]
      (fun x => { x with st := { x.st with z := false } }) (fun u =>
        let cnt := min (k.getD dc).toNat (upTo n (k.getA ad))
        withTarget t h (k.getA ad) (cnt * n) 1 false (fun g w =>
          w.loadAt t h (bits (k.getA ad) 0 48) g (cnt * n) n (.sscn ad dv dc mode sz cnt)) u) s) := by
  change execSscn t h ad dv mode sz dc s = _
  rw [execSscn, issue_of_ready r]
  rfl

theorem exec_sfil_of_ready {s : State} {t : TileId} {h : Thr} (r : Ready s t h 2) (ad dv dc : Reg) (sz : ESize) :
    let k := s.th t h
    let n := esBytes sz
    exec (.sfil t h ad dv false sz dc) s = .next (stringSlot t h dc (dc = dv) n [k.getA ad] id (fun u =>
      let cnt := min (k.getD dc).toNat (upTo n (k.getA ad))
      withTarget t h (k.getA ad) (cnt * n) 1 true (fun g w =>
        storeAt t h (bits (k.getA ad) 0 48) g n (List.replicate cnt (elemOf n (k.getD dv))).flatten (fun y =>
          y.finish t h (fun x =>
            let left := x.getD dc - BitVec.ofNat 32 cnt
            ((x.setA ad (k.getA ad + BitVec.ofNat 64 (cnt * n))).setD dc left).stringEnd (left = 0))) w) u) s) := by
  change execSfil t h ad dv false sz dc s = _
  rw [execSfil, issue_of_ready r]
  rfl

/-- A slot with no elements left finishes. -/
theorem stringSlot_of_empty {i : Instr} {s : State} {t : TileId} {h : Thr} {dc : Reg} {ill : Bool} {n : Nat} {ptrs : List DWord}
    {empty : Thread → Thread} {run : State → State} (hdc : (s.th t h).getD dc = 0)
    (e : exec i s = .next (stringSlot t h dc ill n ptrs empty run s)) :
    Retires i s t h (onward (empty (s.th t h)) 2) := by
  rw [stringSlot, if_pos hdc] at e
  rw [← Thread.advance_eq_onward]
  exact State.finish_retires e

/-- A slot whose check fails takes its trap. -/
theorem stringSlot_takes {i : Instr} {s : State} {t : TileId} {h : Thr} {dc : Reg} {ill : Bool} {n : Nat} {ptrs : List DWord}
    {empty : Thread → Thread} {run : State → State} {c : BitVec 5} {a : DWord} (hdc : (s.th t h).getD dc ≠ 0)
    (hf : stringFault ill n ptrs = some (c, a)) (g : VectorsGood (s.tile t) c)
    (e : exec i s = .next (stringSlot t h dc ill n ptrs empty run s)) :
    Takes i s t h c (s.th t h).pc 0 (if c = cOperand then 0 else a.setWidth 48) := by
  rw [stringSlot, if_neg hdc, hf] at e
  rw [← bits_zero_eq_setWidth]
  exact State.raise_takes e g

/-- A slot with elements left whose checks pass runs. -/
theorem stringSlot_of_good {s : State} {t : TileId} {h : Thr} {dc : Reg} {ill : Bool} {n : Nat} {ptrs : List DWord}
    (empty : Thread → Thread) (run : State → State) (hdc : (s.th t h).getD dc ≠ 0) (hill : ill = false)
    (hp : ∀ a ∈ ptrs, a.toNat < 0x100000000 ∧ a.toNat % n = 0) : stringSlot t h dc ill n ptrs empty run s = run s := by
  have hform : ptrs.filter (fun a => decide (2 ^ 48 ≤ a.toNat)) = [] := by
    rw [List.filter_eq_nil_iff]
    intro a ha
    have := (hp a ha).1
    simp
    omega
  have halign : ptrs.filter (fun a => a.toNat % n ≠ 0) = [] := by
    rw [List.filter_eq_nil_iff]
    intro a ha
    simp [(hp a ha).2]
  have hnone : stringFault ill n ptrs = none := by
    rw [stringFault, hill, hform, halign]
    rfl
  rw [stringSlot, if_neg hdc, hnone]

theorem stringFault_of_illegal (n : Nat) (ptrs : List DWord) : stringFault true n ptrs = some (cOperand, 0) := rfl

theorem stringFault_of_form (n : Nat) {a : DWord} (l : List DWord) (ha : 2 ^ 48 ≤ a.toNat) :
    stringFault false n (a :: l) = some (cForm, a) := by
  rw [stringFault, List.filter_cons_of_pos (by simpa using ha)]
  rfl

/-- Settles O6: each trap is the first check of its instruction that fails. -/
theorem coreTraps : Obligations.CoreTraps := by
  unfold Obligations.CoreTraps
  refine ⟨fun s t h d r ix => ?control, fun s t h r an dsp => ?scalar, fun s t h ad r dc mode sz => ?strings⟩
  case control =>
    intro x tl
    refine ⟨fun h1 g => ?lift, fun h1 g hd => ?brkpt, fun h1 g hpl => ?rtns, fun h1 g hpl => ?rtnm, fun h2 g hlow => ?special⟩
    case lift =>
      have e : exec (.lift t h) s = execLift t h s := rfl
      rw [execLift, issue_of_ready h1] at e
      exact State.enter_retires_entered e g
    case brkpt =>
      have e : exec (.brkpt t h) s = execBrkpt t h s := rfl
      rw [execBrkpt, issue_of_ready h1, hd] at e
      exact State.raise_takes e g
    case rtns =>
      have e := exec_rtns_of_ready h1
      rw [if_pos hpl] at e
      exact State.raise_takes e g
    case rtnm =>
      have e : exec (.rtnm t h) s = execRtnm t h s := rfl
      simp only [execRtnm, issue_of_ready h1] at e
      rw [if_pos hpl] at e
      exact State.raise_takes e g
    case special =>
      have hix : ix.toNat ≤ 7 ∨ 0x10 ≤ ix.toNat ∧ ix.toNat ≤ 0x12 := by omega
      have hlevel : x.st.pl < specialLevel ix := by
        obtain ⟨h2', h4, hpl⟩ | ⟨h5, h7, hpl⟩ := hlow
        · rwa [specialLevel, if_pos (by simpa using ⟨h2', h4⟩)]
        · rwa [specialLevel, if_neg (by simp; omega), if_pos (by simpa using ⟨h5, h7⟩)]
      have hnamed : specialIndex ix = true := by
        obtain rfl | rfl | rfl | rfl | rfl | rfl | rfl | rfl | rfl | rfl | rfl := specialIndex_cases hix <;> rfl
      have emfs := exec_mfs_of_ready h2 d hnamed
      have emts := exec_mts_of_ready h2 r hnamed
      rw [if_pos hlevel] at emfs emts
      exact ⟨State.raise_takes emfs g, State.raise_takes emts g⟩
  case scalar =>
    intro x tl trap h2
    exact ⟨addressTraps (exec_ld_of_ready h2 r an dsp), addressTraps (exec_lda_of_ready h2 r an dsp),
      addressTraps (exec_st_of_ready h2 r an dsp), addressTraps (exec_sta_of_ready h2 r an dsp),
      addressTraps (exec_zline_of_ready h2 an dsp)⟩
  case strings =>
    intro x tl h2 hdc
    have illegal (p : Reg) (n : Nat) (ptrs : List DWord) : stringFault (decide (p = p)) n ptrs = some (cOperand, 0) := by
      rw [decide_eq_true rfl, stringFault_of_illegal]
    have form {p q : Reg} (n : Nat) (l : List DWord) (ha : 2 ^ 48 ≤ (x.getA ad).toNat) (hpq : p ≠ q) :
        stringFault (decide (p = q)) n (x.getA ad :: l) = some (cForm, x.getA ad) := by
      rw [decide_eq_false hpq, stringFault_of_form n l ha]
    refine ⟨fun g => ⟨?smov, ?sfil, ?sscn⟩, fun g ha => ⟨fun hr => ?smovForm, fun hr => ⟨?sfilForm, ?sscnForm⟩⟩⟩
    case smov =>
      exact stringSlot_takes hdc (illegal ad _ _) g (exec_smov_of_ready h2 ad ad dc sz)
    case sfil => exact stringSlot_takes hdc (illegal dc _ _) g (exec_sfil_of_ready h2 ad dc dc sz)
    case sscn => exact stringSlot_takes hdc (illegal dc _ _) g (exec_sscn_of_ready h2 ad dc dc mode sz)
    case smovForm => exact stringSlot_takes hdc (form _ _ ha hr) g (exec_smov_of_ready h2 ad r dc sz)
    case sfilForm => exact stringSlot_takes hdc (form _ _ ha hr) g (exec_sfil_of_ready h2 ad r dc sz)
    case sscnForm => exact stringSlot_takes hdc (form _ _ ha hr) g (exec_sscn_of_ready h2 ad r dc mode sz)

/-! ## Runs of elements (R122) -/

theorem Memory.bytes_add (m : Memory) (a n k : Nat) : m.bytes a (n + k) = m.bytes a n ++ m.bytes (a + n) k := by
  induction n generalizing a with
  | zero => simp [Memory.bytes]
  | succ n ih =>
    rw [Nat.add_right_comm, Memory.bytes, Memory.bytes, ih, List.cons_append, Nat.add_assoc, Nat.add_comm 1 n]

/-- The elements of a run of bytes of a memory. -/
theorem elems_bytes (m : Memory) (n c o : Nat) :
    elems n c (m.bytes o (c * n)) = (List.range c).map fun i => m.bytes (o + i * n) n := by
  induction c generalizing o with
  | zero => rfl
  | succ c ih =>
    have e : m.bytes o ((c + 1) * n) = m.bytes o n ++ m.bytes (o + n) (c * n) := by
      rw [Nat.succ_mul, Nat.add_comm, Memory.bytes_add]
    rw [elems, e, List.take_left' (Memory.length_bytes m o n), List.drop_left' (Memory.length_bytes m o n), ih,
      List.range_succ_eq_map, List.map_cons, List.map_map, Nat.zero_mul, Nat.add_zero]
    congr 2
    funext i
    rw [Function.comp, Nat.succ_mul, Nat.add_assoc, Nat.add_comm n]

/-- A scan that meets its condition first at element `i` passes the `i` elements before it. -/
theorem scanRun_of_first {mode : Bool} {v : List Byte} {l : List (List Byte)} {i : Nat} (hi : i < l.length)
    (hmeets : (l[i] = v) = ((!mode) = true)) (hbefore : ∀ j (hj : j < i), ¬(l[j] = v) = ((!mode) = true)) :
    scanRun mode v l = (i, true) := by
  induction l generalizing i with
  | nil => exact absurd hi (Nat.not_lt_zero i)
  | cons e r ih =>
    cases i with
    | zero => exact if_pos hmeets
    | succ i =>
      have hrest := ih (i := i) (Nat.lt_of_succ_lt_succ hi) hmeets fun j hj => hbefore (j + 1) (Nat.succ_lt_succ hj)
      have hfirst : ¬(e = v) = ((!mode) = true) := hbefore 0 (Nat.succ_pos i)
      rw [scanRun, if_neg hfirst, hrest]

/-- A scan that meets its condition nowhere passes the whole run. -/
theorem scanRun_of_none {mode : Bool} {v : List Byte} {l : List (List Byte)} (hnone : ∀ e ∈ l, ¬(e = v) = ((!mode) = true)) :
    scanRun mode v l = (l.length, false) := by
  induction l with
  | nil => rfl
  | cons e r ih =>
    rw [scanRun, if_neg (hnone e List.mem_cons_self), ih fun e' he => hnone e' (List.mem_cons_of_mem _ he)]
    rfl

/-! ## Slots within the own scratchpad (R123) -/

/-- The two accesses of an SMOV run whose checks place both in the own scratchpad. -/
theorem withTargets_of_window {s : State} {t : TileId} {h : Thr} {ps pd : DWord} {n : Nat} {g gd : Target}
    (k : Target → Target → State → State) (hs : s.resolve t h ps n 1 false = .at g) (hd : s.resolve t h pd n 1 true = .at gd)
    (hps : ps.toNat < 0x100000000) (hpd : pd.toNat < 0x100000000) : withTargets t h ps pd n k s = k g gd s := by
  simp only [withTargets, State.resolveBoth, hs, hd, if_pos hps, if_pos hpd]

@[simp] theorem Tile.causes_fixWords (tl : Tile) (src : Nat) (ws : List (Nat × Bool)) :
    (tl.fixWords src ws).causes = tl.causes := by
  unfold Tile.fixWords
  induction ws generalizing tl with
  | nil => rfl
  | cons p r ih =>
    rw [List.foldl_cons, ih]
    split
    · rfl
    · unfold Tile.corrected Tile.errRecord
      split <;> rfl

@[simp] theorem Tile.causes_lmWrite (tl : Tile) (src off : Nat) (bs : List (Option Byte)) :
    (tl.lmWrite src off bs).causes = tl.causes := by
  simp [Tile.lmWrite]

theorem elemOf_eq_byteList (sz : ESize) (v : Word) : elemOf (esBytes sz) v = byteList (v.setWidth 64) (esBytes sz) := by
  rw [← bytesOf_eq_byteList, bytesOf, elemOf, BitVec.toNat_setWidth_of_le (by decide)]

/-- The end of a slot that leaves `left` elements in Dc. -/
theorem Thread.stringEnd_setD (y : Thread) (dc : Reg) (left : Word) :
    (y.setD dc left).stringEnd (left = 0) =
      if (y.setD dc left).getD dc = 0 then onward (y.setD dc left) 2 else y.setD dc left := by
  simp only [Thread.stringEnd, Thread.getD_setD_self, decide_eq_true_eq, Thread.advance_eq_onward]

/-- The thread after a slot of SMOV of `k` elements of `n` bytes. -/
def smovEnd (ad asrc dc : Reg) (n k : Nat) (x : Thread) : Thread :=
  let step : DWord := BitVec.ofNat 64 (k * n)
  (((Thread.setA { x with wait := none } ad (x.getA ad + step)).setA asrc (x.getA asrc + step)).setD dc
    (x.getD dc - BitVec.ofNat 32 k)).stringEnd (x.getD dc - BitVec.ofNat 32 k = 0)

/-- A run of SMOV from and to the own scratchpad. -/
theorem smovRun_retiresAs {i : Instr} {s : State} {t : TileId} {h : Thr} {va : VAddr} {ps pd : DWord} {n k od os : Nat} {ad asrc dc : Reg}
    {sz : ESize} (hcauses : (s.tile t).causes = 0) (oread : OwnRead s t ps n 1 os)
    (owrite : OwnWrite s t pd 1 od ((s.tile t).lmem.bytes os n))
    (e : exec i s = .next (s.loadAt t h va (.own os) n (esBytes sz) (.smov ad asrc dc sz k (.own od)))) :
    RetiresAs i s t h ((s.tile t).lmWrite 0 od (((s.tile t).lmem.bytes os n).map some))
      (smovEnd ad asrc dc (esBytes sz) k (s.th t h)) := by
  have hload : s.loadFrom t h va (.own os) n (esBytes sz) (.smov ad asrc dc sz k (.own od)) =
      (s.modTile t fun tl => tl.lmWrite 0 od (((s.tile t).lmem.bytes os n).map some)).land t h
        (smovEnd ad asrc dc (esBytes sz) k) :=
    (loadFrom_of_ownRead h va (esBytes sz) _ oread).trans (storeAt_of_ownWrite h _ (esBytes sz) _ owrite)
  rw [State.loadAt_of_no_stall h va n (esBytes sz) _ hload (by simp [State.land_causes, hcauses])] at e
  have hret := State.land_issued_retiresAs (State.onlyTile_modTile s t _) (by simp) e
  rwa [State.tile_modTile_self] at hret

/-- The thread after a slot of SSCN. -/
def sscnEnd (ad dv dc : Reg) (mode : Bool) (n k : Nat) (b : List Byte) (x : Thread) : Thread :=
  let r := scanRun mode (elemOf n (x.getD dv)) (elems n k b)
  let left := x.getD dc - BitVec.ofNat 32 r.1
  let y := (Thread.setA { x with wait := none } ad (x.getA ad + BitVec.ofNat 64 (r.1 * n))).setD dc left
  if r.2 then { y with st := { y.st with z := true } }.advance 2
  else if left = 0 then { y with st := { y.st with z := false } }.advance 2
  else y

/-- A count of elements left is 0 exactly when the slot has processed all of them. -/
theorem sub_ofNat_eq_zero_iff {w : Word} {k : Nat} (hk : k ≤ w.toNat) : w - BitVec.ofNat 32 k = 0 ↔ k = w.toNat := by
  rw [sub_eq_zero, ← BitVec.toNat_inj, BitVec.toNat_ofNat, Nat.mod_eq_of_lt (Nat.lt_of_le_of_lt hk w.isLt), eq_comm]

/-- Settles O11: a slot with elements left passes its checks and runs; what it has left decides whether it has finished. -/
theorem stringInstructions : Obligations.StringInstructions := by
  unfold Obligations.StringInstructions
  intro s t h ad r dc mode sz od os x tl n c pd ps value adv done h2
  have hn : n = esBytes sz := by cases sz <;> rfl
  have hvalue : value = elemOf (esBytes sz) (x.getD r) := by
    rw [elemOf_eq_byteList, ← hn]
  have hx : { x with wait := none } = x := withoutWait_of_ready h2
  have hcauses : (s.tile t).causes = 0 := h2.2.2.1
  clear_value n value
  subst hn hvalue
  refine ⟨fun hc => ?empty, fun hc hr => ?smov, fun hc hr => ?sfil, fun hc hr => ?sscn⟩
  case empty =>
    have hdc : x.getD dc = 0 := (toNat_eq_zero_iff _).1 hc
    exact ⟨stringSlot_of_empty hdc (exec_smov_of_ready h2 ad r dc sz), stringSlot_of_empty hdc (exec_sfil_of_ready h2 ad r dc sz),
      stringSlot_of_empty hdc (exec_sscn_of_ready h2 ad r dc mode sz)⟩
  all_goals have hdc : x.getD dc ≠ 0 := fun e => hc ((toNat_eq_zero_iff _).2 e)
  case smov =>
    intro k bs hpd hps oread owrite
    have hlen : bs.length = k * esBytes sz := Memory.length_bytes _ _ _
    have e := (exec_smov_of_ready h2 ad r dc sz).trans (congrArg _ ((stringSlot_of_good _ _ hdc (decide_eq_false hr)
      (by simpa using ⟨⟨owrite.1, hpd⟩, oread.1, hps⟩)).trans (withTargets_of_window _
        (resolve_of_ownRead h oread) (resolve_of_ownWrite h owrite hlen) oread.1 owrite.1)))
    have hret := smovRun_retiresAs hcauses oread owrite e
    rwa [smovEnd, Thread.stringEnd_setD, hx] at hret
  case sfil =>
    intro k bs hpd owrite
    have hlen : bs.length = k * esBytes sz := by simp [bs, elemOf_eq_byteList]
    have e := (exec_sfil_of_ready h2 ad r dc sz).trans (congrArg _ ((stringSlot_of_good _ _ hdc (decide_eq_false hr)
      (by simpa using ⟨owrite.1, hpd⟩)).trans ((withTarget_of_window _ owrite.1 (resolve_of_ownWrite h owrite hlen)).trans
        (storeAt_of_ownWrite h _ _ _ owrite))))
    have hth : ∀ w, ((s.tile t).lmWrite 0 od w).th h = x := fun w => by rw [Tile.th, Tile.thr_lmWrite]; rfl
    have hret := State.finish_retiresAs e (by rw [hth])
    simp only [hth] at hret
    rwa [Thread.stringEnd_setD] at hret
  case sscn =>
    intro k elem meets hpd oread
    have e := (exec_sscn_of_ready h2 ad r dc mode sz).trans (congrArg _ ((stringSlot_of_good _ _ hdc (decide_eq_false hr)
      (by simpa using ⟨oread.1, hpd⟩)).trans (withTarget_of_window _ oread.1 (resolve_of_ownRead h oread))))
    have hret : Retires _ s t h (sscnEnd ad r dc mode (esBytes sz) k (tl.lmem.bytes od (k * esBytes sz)) x) :=
      ownLoad_retires h2 oread rfl e
    have hmeets : ∀ j, meets j ↔ (elem j = elemOf (esBytes sz) (x.getD r)) = ((!mode) = true) := fun j => by
      simp only [meets, Bool.not_eq_true', eq_iff_iff]
    rw [sscnEnd, elems_bytes] at hret
    refine ⟨fun i hi hmeet hbefore => ?found, fun hnone => ?passed⟩
    case found =>
      rw [scanRun_of_first (i := i) (by simpa using hi) (by simpa [elem] using (hmeets i).1 hmeet)
        fun j hj => by simpa [elem] using mt (hmeets j).2 (hbefore j hj)] at hret
      simpa [hx, Thread.advance_eq_onward] using hret
    case passed =>
      rw [scanRun_of_none (by simpa [elem] using fun j hj => mt (hmeets j).2 (hnone j hj))] at hret
      have hleft := sub_ofNat_eq_zero_iff (w := x.getD dc) (k := k) (min_le_left _ _)
      simp only [List.length_map, List.length_range, hx, Bool.false_eq_true, if_false, hleft, Thread.advance_eq_onward] at hret
      exact hret

end Sys2Proof.Machine
end

section
/-! The seed bits (R49–R54, R84, R105, R158): what a write of one bit leaves to be read, and how each seed-bit instruction completes.
From them the obligation O8. -/
namespace Sys2Proof.Machine

open Sys2Proof.Safety

/-! ## Writes of a bit (R49, R51, R53) -/

theorem getLsbD_setBit {n : Nat} (x : BitVec n) {i : Nat} (hi : i < n) (b : Bool) (j : Nat) :
    (setBit x i b).getLsbD j = if j = i then b else x.getLsbD j := by
  have htwo : (BitVec.ofNat n (2 ^ i)).getLsbD j = decide (j = i) := by
    rw [BitVec.getLsbD_ofNat, Nat.testBit_two_pow]
    by_cases h : j = i
    · simp [h, hi]
    · simp [h, Ne.symm h]
  cases b
  all_goals
    simp only [setBit, Bool.false_eq_true, if_false, if_true, BitVec.getLsbD_or, BitVec.getLsbD_and, BitVec.getLsbD_not, htwo]
    by_cases h : j = i
    · simp [h]
    · by_cases hj : j < n
      · simp [h, hj]
      · simp [h, BitVec.getLsbD_of_ge x j (Nat.not_lt.1 hj)]

theorem bit_setBit {n : Nat} (x : BitVec n) {i : Nat} (hi : i < n) (b : Bool) (j : Nat) :
    bit (setBit x i b) j = if j = i then b else bit x j := getLsbD_setBit x hi b j

/-- The bits of the status region that a thread's write of 0 clears (R53). -/
def stickyBit (o : Nat) : Bool := (32 ≤ o && o < 56) || o = 65 || o = 66 || o = 96

/-- A status bit depends on its own source alone. -/
theorem Tile.statusBit_congr {tl tl' : Tile} {p : Nat} (hq : tl'.q = tl.q) (heng : tl'.eng = tl.eng) (hmx : tl'.mx = tl.mx)
    (hreg : tl'.treg = tl.treg) (hcord : tl'.cord = tl.cord)
    (hpev : 32 ≤ p → p < 48 → bit tl'.pev (p - 32) = bit tl.pev (p - 32))
    (hstale : 48 ≤ p → p < 52 → bit tl'.stale (p - 48) = bit tl.stale (p - 48))
    (hclosed : 52 ≤ p → p < 56 → bit tl'.closedS (p - 52) = bit tl.closedS (p - 52))
    (hcedone : p = 65 → tl'.cedone = tl.cedone) (hceflt : p = 66 → tl'.ceflt = tl.ceflt) (hlmce : p = 96 → tl'.lmce = tl.lmce) :
    tl'.statusBit p = tl.statusBit p := by
  simp only [Tile.statusBit, Tile.queue, Tile.tpnd, Tile.reg, hq, heng, hmx, hreg, hcord]
  refine ite_congr rfl (fun _ => rfl) fun _ => ite_congr rfl (fun _ => rfl) fun _ => ite_congr rfl (fun h => hpev (by omega) h)
    fun _ => ite_congr rfl (fun h => hstale (by omega) h) fun _ => ite_congr rfl (fun h => hclosed (by omega) h) fun _ =>
    ite_congr rfl (fun _ => rfl) fun _ => ite_congr rfl hcedone fun _ => ite_congr rfl hceflt fun _ =>
    ite_congr rfl (fun _ => rfl) fun _ => ite_congr rfl (fun _ => rfl) fun _ => ite_congr rfl (fun _ => rfl) fun _ =>
    ite_congr rfl (fun _ => rfl) fun _ => ite_congr rfl (fun _ => rfl) fun _ => ite_congr rfl (fun _ => rfl) fun _ =>
    ite_congr rfl hlmce fun _ => rfl

theorem Tile.clearSticky_of_not_sticky (tl : Tile) {o : Nat} (h : stickyBit o = false) : tl.clearSticky o = tl := by
  simp only [stickyBit, Bool.or_eq_false_iff, Bool.and_eq_false_iff, decide_eq_false_iff_not] at h
  simp only [Tile.clearSticky, Bool.and_eq_true, decide_eq_true_eq]
  rw [if_neg (by omega), if_neg (by omega), if_neg (by omega), if_neg (by omega), if_neg (by omega), if_neg (by omega)]

/-- A write of 0 to a bit of the status region leaves every other bit of it. -/
theorem Tile.statusBit_clearSticky_of_ne (tl : Tile) {o p : Nat} (h : p ≠ o) :
    (tl.clearSticky o).statusBit p = tl.statusBit p := by
  simp only [Tile.clearSticky, Bool.and_eq_true, decide_eq_true_eq]
  split_ifs with h1 h2 h3 h4 h5 h6
  · exact Tile.statusBit_congr rfl rfl rfl rfl rfl
      (fun _ _ => (bit_setBit _ (by omega) _ _).trans (if_neg (by omega))) (fun _ _ => rfl) (fun _ _ => rfl)
      (fun _ => rfl) (fun _ => rfl) fun _ => rfl
  · exact Tile.statusBit_congr rfl rfl rfl rfl rfl (fun _ _ => rfl)
      (fun _ _ => (bit_setBit _ (by omega) _ _).trans (if_neg (by omega))) (fun _ _ => rfl)
      (fun _ => rfl) (fun _ => rfl) fun _ => rfl
  · exact Tile.statusBit_congr rfl rfl rfl rfl rfl (fun _ _ => rfl) (fun _ _ => rfl)
      (fun _ _ => (bit_setBit _ (by omega) _ _).trans (if_neg (by omega))) (fun _ => rfl) (fun _ => rfl) fun _ => rfl
  · exact Tile.statusBit_congr rfl rfl rfl rfl rfl (fun _ _ => rfl) (fun _ _ => rfl) (fun _ _ => rfl)
      (fun e => absurd e (by omega)) (fun _ => rfl) fun _ => rfl
  · exact Tile.statusBit_congr rfl rfl rfl rfl rfl (fun _ _ => rfl) (fun _ _ => rfl) (fun _ _ => rfl)
      (fun _ => rfl) (fun e => absurd e (by omega)) fun _ => rfl
  · exact Tile.statusBit_congr rfl rfl rfl rfl rfl (fun _ _ => rfl) (fun _ _ => rfl) (fun _ _ => rfl)
      (fun _ => rfl) (fun _ => rfl) fun e => absurd e (by omega)
  · rfl

/-- What the six runs of sticky bits read. -/
theorem Tile.statusBit_sticky (tl : Tile) (o : Nat) :
    (32 ≤ o → o < 48 → tl.statusBit o = bit tl.pev (o - 32)) ∧ (48 ≤ o → o < 52 → tl.statusBit o = bit tl.stale (o - 48)) ∧
    (52 ≤ o → o < 56 → tl.statusBit o = bit tl.closedS (o - 52)) ∧ tl.statusBit 65 = tl.cedone ∧ tl.statusBit 66 = tl.ceflt ∧
    tl.statusBit 96 = tl.lmce := by
  refine ⟨fun h1 h2 => ?_, fun h1 h2 => ?_, fun h1 h2 => ?_, rfl, rfl, rfl⟩
  · rw [Tile.statusBit, if_neg (by omega), if_neg (by omega), if_pos h2]
  · rw [Tile.statusBit, if_neg (by omega), if_neg (by omega), if_neg (by omega), if_pos h2]
  · rw [Tile.statusBit, if_neg (by omega), if_neg (by omega), if_neg (by omega), if_neg (by omega), if_pos h2]

/-- A write of 0 to a sticky bit clears it. -/
theorem Tile.statusBit_clearSticky_self (tl : Tile) {o : Nat} (h : stickyBit o = true) : (tl.clearSticky o).statusBit o = false := by
  simp only [stickyBit, Bool.or_eq_true, Bool.and_eq_true, decide_eq_true_eq] at h
  simp only [Tile.clearSticky, Bool.and_eq_true, decide_eq_true_eq]
  split_ifs with h1 h2 h3 h4 h5 h6
  · rw [(Tile.statusBit_sticky _ o).1 h1.1 h1.2, bit_setBit _ (by omega), if_pos rfl]
  · rw [(Tile.statusBit_sticky _ o).2.1 h2.1 h2.2, bit_setBit _ (by omega), if_pos rfl]
  · rw [(Tile.statusBit_sticky _ o).2.2.1 h3.1 h3.2, bit_setBit _ (by omega), if_pos rfl]
  · rw [h4]; rfl
  · rw [h5]; rfl
  · rw [h6]; rfl
  · omega

/-! ## A write as a thread sees it -/

theorem bitWritten_of_status {a : Seed} (ha : ¬a.toNat < 0x1F00) (old v : Bool) :
    bitWritten a old v = if stickyBit (a.toNat - 0x1F00) then old && v else old := by
  have hiff : (32 ≤ a.toNat - 0x1F00 ∧ a.toNat - 0x1F00 < 56 ∨ a.toNat - 0x1F00 = 65 ∨ a.toNat - 0x1F00 = 66 ∨ a.toNat - 0x1F00 = 96) ↔
      (0x1F20 ≤ a.toNat ∧ a.toNat < 0x1F38 ∨ a.toNat = 0x1F41 ∨ a.toNat = 0x1F42 ∨ a.toNat = 0x1F60) := by omega
  rw [bitWritten, if_neg ha]
  refine ite_congr ?_ (fun _ => rfl) fun _ => rfl
  simp only [stickyBit, Bool.or_eq_true, Bool.and_eq_true, decide_eq_true_eq, ← hiff, or_assoc]

/-- What a thread sees of the status region after a write of one of its bits. -/
theorem Tile.statusBit_setStatus (tl : Tile) (a : Seed) (ha : ¬a.toNat < 0x1F00) (v : Bool) (p : Nat) :
    (if v then tl else tl.clearSticky (a.toNat - 0x1F00)).statusBit p =
      if p = a.toNat - 0x1F00 then bitWritten a (tl.statusBit (a.toNat - 0x1F00)) v else tl.statusBit p := by
  by_cases hp : p = a.toNat - 0x1F00
  · rw [if_pos hp, bitWritten_of_status ha, hp]
    cases v
    · cases hs : stickyBit (a.toNat - 0x1F00)
      · simp only [Bool.false_eq_true, if_false, Tile.clearSticky_of_not_sticky tl hs]
      · simp only [Bool.false_eq_true, if_false, if_true, Tile.statusBit_clearSticky_self tl hs, Bool.and_false]
    · simp only [if_true, Bool.and_true, ite_self]
  · rw [if_neg hp]
    cases v
    · rw [if_neg Bool.false_ne_true, Tile.statusBit_clearSticky_of_ne tl hp]
    · rw [if_pos rfl]

/-- A write to the status region leaves the private and the shared bits. -/
theorem Tile.clearSticky_thr_shared (tl : Tile) (o : Nat) :
    (tl.clearSticky o).thr = tl.thr ∧ (tl.clearSticky o).shared = tl.shared := by
  unfold Tile.clearSticky
  split_ifs <;> exact ⟨rfl, rfl⟩

theorem bitWritten_of_lt {a : Seed} (ha : a.toNat < 0x1F00) (old v : Bool) : bitWritten a old v = v := by
  rw [bitWritten, if_pos ha]

/-! A bit as a thread sees it, by its region. -/

theorem Tile.seed_of_private (tl : Tile) (h : Thr) {a : Seed} (ha : a.toNat < 0x200) : tl.seed h a = bit (tl.th h).priv a.toNat :=
  if_pos ha
theorem Tile.seed_of_shared (tl : Tile) (h : Thr) {a : Seed} (hlo : 0x200 ≤ a.toNat) (ha : a.toNat < 0x1F00) :
    tl.seed h a = bit tl.shared (a.toNat - 0x200) := by
  rw [Tile.seed, if_neg (Nat.not_lt.2 hlo), if_pos ha]
theorem Tile.seed_of_status (tl : Tile) (h : Thr) {a : Seed} (ha : 0x1F00 ≤ a.toNat) :
    tl.seed h a = tl.statusBit (a.toNat - 0x1F00) := by
  rw [Tile.seed, if_neg (by omega), if_neg (Nat.not_lt.2 ha)]

/-- Two tiles with the same private bits of a thread, the same shared bits and the same status region look the same to it. -/
theorem Tile.seed_congr {tl tl' : Tile} {k : Thr} {b : Seed} (hp : b.toNat < 0x200 → bit (tl'.th k).priv b.toNat = bit (tl.th k).priv b.toNat)
    (hs : 0x200 ≤ b.toNat → b.toNat < 0x1F00 → bit tl'.shared (b.toNat - 0x200) = bit tl.shared (b.toNat - 0x200))
    (hst : 0x1F00 ≤ b.toNat → tl'.statusBit (b.toNat - 0x1F00) = tl.statusBit (b.toNat - 0x1F00)) : tl'.seed k b = tl.seed k b :=
  ite_congr rfl hp fun h => ite_congr rfl (hs (Nat.not_lt.1 h)) fun h => hst (Nat.not_lt.1 h)

/-- Thread `h` or any other sees a written bit as the rule of its region leaves it, and every other bit as it was; a private bit of
another thread is another bit. -/
theorem Tile.seed_setSeed (tl : Tile) (h k : Thr) (a b : Seed) (v : Bool) :
    (tl.setSeed h a v).seed k b =
      if b = a ∧ (k = h ∨ 0x200 ≤ a.toNat) then bitWritten a (tl.seed h a) v else tl.seed k b := by
  have hba : b.toNat = a.toNat ↔ b = a := BitVec.toNat_inj
  by_cases hpriv : a.toNat < 0x200
  · have hset : tl.setSeed h a v = tl.modTh h fun x => { x with priv := setBit x.priv a.toNat v } := if_pos hpriv
    rw [bitWritten_of_lt (by omega), hset]
    split
    case isTrue hc =>
      obtain ⟨rfl, hk⟩ := hc
      obtain rfl : k = h := hk.resolve_right (Nat.not_le.2 hpriv)
      rw [Tile.seed_of_private _ _ hpriv, Tile.th_modTh_self, bit_setBit _ hpriv, if_pos rfl]
    case isFalse hc =>
      refine Tile.seed_congr (fun _ => ?_) (fun _ _ => rfl) fun _ => rfl
      by_cases hk : k = h
      · subst hk
        rw [Tile.th_modTh_self, bit_setBit _ hpriv, if_neg fun e => hc ⟨hba.1 e, .inl rfl⟩]
      · rw [Tile.th_modTh, if_neg hk]
  have hlo := Nat.not_lt.1 hpriv
  have hc : (b = a ∧ (k = h ∨ 0x200 ≤ a.toNat)) ↔ b = a := and_iff_left (.inr hlo)
  rw [ite_congr (propext hc) (fun _ => rfl) fun _ => rfl]
  by_cases hshared : a.toNat < 0x1F00
  · have hset : tl.setSeed h a v = { tl with shared := setBit tl.shared (a.toNat - 0x200) v } := by
      rw [Tile.setSeed, if_neg hpriv, if_pos hshared]
    rw [bitWritten_of_lt hshared, hset]
    split
    case isTrue hb =>
      subst hb
      rw [Tile.seed_of_shared _ _ hlo hshared, bit_setBit _ (by omega), if_pos rfl]
    case isFalse hb =>
      refine Tile.seed_congr (fun _ => rfl) (fun _ _ => ?_) fun _ => rfl
      rw [bit_setBit _ (by omega), if_neg fun e => hb (hba.1 (by omega))]
  · have hset : tl.setSeed h a v = if v then tl else tl.clearSticky (a.toNat - 0x1F00) := by
      rw [Tile.setSeed, if_neg hpriv, if_neg hshared]
    have hstatus := Tile.statusBit_setStatus tl a hshared v
    rw [hset]
    by_cases hb : b = a
    · subst hb
      rw [if_pos rfl, Tile.seed_of_status _ _ (Nat.not_lt.1 hshared), Tile.seed_of_status _ _ (Nat.not_lt.1 hshared), hstatus, if_pos rfl]
    · rw [if_neg hb]
      obtain ⟨hthr, hsh⟩ := Tile.clearSticky_thr_shared tl (a.toNat - 0x1F00)
      refine Tile.seed_congr (fun _ => ?_) (fun _ _ => ?_) fun _ => ?_
      · cases v
        · simp [Tile.th, hthr]
        · rfl
      · cases v
        · simp [hsh]
        · rfl
      · rw [hstatus, if_neg fun e => hb (hba.1 (by omega))]

/-! ## Runs of bits (R105) -/

theorem Tile.testBit_seedRun (tl : Tile) (h : Thr) (a : Seed) (n : Nat) {i : Nat} (hi : i < n) :
    (tl.seedRun h a n).testBit i = tl.seed h (a + BitVec.ofNat 13 i) := by
  have hb (b : Bool) (m : Nat) : b2n b + 2 * m = m.bit b := by cases b <;> simp [b2n, Nat.bit_val]; omega
  induction n generalizing a i with
  | zero => exact absurd hi (Nat.not_lt_zero i)
  | succ n ih =>
    rw [Tile.seedRun, hb]
    cases i with
    | zero => simp
    | succ i => rw [Nat.testBit_bit_succ, ih _ (Nat.lt_of_succ_lt_succ hi), Nat.add_comm i 1, BitVec.ofNat_add, BitVec.add_assoc]; rfl

/-- The distance of a bit from the run's second bit. -/
theorem toNat_sub_add_one {a c : Seed} (h : c ≠ a) : (c - a).toNat = (c - (a + 1)).toNat + 1 := by
  have e : c - a = c - (a + 1) + 1 := by ring
  have hlt := (c - (a + 1)).isLt
  have hmod : (c - a).toNat = ((c - (a + 1)).toNat + 1) % 2 ^ 13 := by rw [e, BitVec.toNat_add]; rfl
  have hne : (c - a).toNat ≠ 0 := fun e0 => h (sub_eq_zero.1 ((toNat_eq_zero_iff _).1 e0))
  omega

theorem Tile.seed_setSeed_self (tl : Tile) (h : Thr) (a b : Seed) (v : Bool) :
    (tl.setSeed h a v).seed h b = if b = a then bitWritten a (tl.seed h a) v else tl.seed h b := by
  rw [Tile.seed_setSeed, ite_congr (propext (and_iff_left (.inl rfl))) (fun _ => rfl) fun _ => rfl]

theorem toNat_sub_add_one_self (c : Seed) : (c - (c + 1)).toNat = 8191 := by
  rw [sub_add_cancel_left]
  decide

/-- The bits after a run of `n` has been written: those of the run by their regions' rules, the others as they were. -/
theorem Tile.seed_setSeedRun (tl : Tile) (h : Thr) (a c : Seed) (v : Nat) {n : Nat} (hn : n ≤ 8192) :
    (tl.setSeedRun h a v n).seed h c =
      if (c - a).toNat < n then bitWritten c (tl.seed h c) (v.testBit (c - a).toNat) else tl.seed h c := by
  induction n generalizing tl a v with
  | zero => rw [Tile.setSeedRun, if_neg (Nat.not_lt_zero _)]
  | succ n ih =>
    rw [Tile.setSeedRun, ih _ _ _ (Nat.le_of_succ_le hn), Tile.seed_setSeed_self]
    by_cases hc : c = a
    · subst hc
      have hfar : ¬ (c - (c + 1)).toNat < n := by rw [toNat_sub_add_one_self]; omega
      rw [if_neg hfar, if_pos rfl, ← Nat.testBit_zero, sub_self]
      exact (if_pos (Nat.succ_pos n)).symm
    · rw [if_neg hc, toNat_sub_add_one hc, Nat.testBit_succ]
      simp only [Nat.add_lt_add_iff_right]

theorem Tile.setSeed_th_st (tl : Tile) (h k : Thr) (a : Seed) (v : Bool) : ((tl.setSeed h a v).th k).st = (tl.th k).st := by
  unfold Tile.setSeed
  split_ifs
  · rw [Tile.th_modTh]
    split
    · next e => rw [e]
    · rfl
  · rfl
  · rfl
  · rw [Tile.th, (Tile.clearSticky_thr_shared tl _).1]
    rfl

theorem Tile.setSeedRun_th_st (tl : Tile) (h k : Thr) (a : Seed) (v n : Nat) :
    ((tl.setSeedRun h a v n).th k).st = (tl.th k).st := by
  induction n generalizing tl a v with
  | zero => rfl
  | succ n ih => rw [Tile.setSeedRun, ih, Tile.setSeed_th_st]

/-! ## The seed-bit instructions (R84, R105, R158) -/

/-- The end of an instruction that has changed its tile to `f` of it, but not its thread's status. -/
theorem State.complete_retiresAs_of_st {i : Instr} {s : State} {t : TileId} {h : Thr} {len : Nat} {f : Tile → Tile}
    (e : exec i s = .next ((s.modTile t f).complete t h len)) (hst : ((f (s.tile t)).th h).st = (s.th t h).st) :
    RetiresAs i s t h (f (s.tile t)) (onward ((f (s.tile t)).th h) len) := by
  rw [← Thread.advance_eq_onward]
  exact State.finish_retiresAs e (by rw [hst])

/-- An instruction that writes one seed bit. -/
theorem seedOp_retiresAs {i : Instr} {s : State} {t : TileId} {h : Thr} {len : Nat} {a : Seed} {v : Bool} {f : Tile → Tile}
    (r : Ready s t h len) (hf : f (s.tile t) = (s.tile t).setSeed h a v) (e : exec i s = .next (seedOp t h len f s)) :
    RetiresAs i s t h ((s.tile t).setSeed h a v) (onward (((s.tile t).setSeed h a v).th h) len) := by
  rw [seedOp, issue_of_ready r] at e
  rw [← hf]
  exact State.complete_retiresAs_of_st e (by rw [hf, Tile.setSeed_th_st]; rfl)

/-- A skip of a ready thread whose skipped word is good (R84). -/
theorem skipOp_retires {i : Instr} {s : State} {t : TileId} {h : Thr} {take : Bool}
    (hgood : take = true → (s.tile t).badWord (onward (s.th t h) 2).pc
      (cellLen (SMap.get 0 (s.tile t).pmem (onward (s.th t h) 2).pc.toNat)) = false)
    (e : exec i s = .next (s.skipOp t h id take)) :
    Retires i s t h (if take then onward (onward (s.th t h) 2)
      (cellLen (SMap.get 0 (s.tile t).pmem (onward (s.th t h) 2).pc.toNat)) else onward (s.th t h) 2) := by
  simp only [← Thread.advance_eq_onward] at *
  cases take
  · exact State.finish_retires e
  · have hg : (s.tile t).badWord ((id ((s.tile t).th h)).advance 2).pc
        (cellLen (SMap.get 0 (s.tile t).pmem ((id ((s.tile t).th h)).advance 2).pc.toNat)) = false := hgood rfl
    simp only [State.skipOp, Bool.not_true, Bool.false_eq_true, if_false, hg] at e
    exact State.finish_retires e

/-- Settles O8: one lemma says what a write of a bit leaves to be read, and each instruction writes a bit, reads some, or skips. -/
theorem seedBits : Obligations.SeedBits := by
  unfold Obligations.SeedBits
  refine ⟨fun tl h k a b v => ⟨?self, fun hk => ?other⟩, fun s t h d r a b v n => ?instructions⟩
  case self => exact Tile.seed_setSeed_self tl h a b v
  case other =>
    rw [Tile.seed_setSeed, ite_congr (propext (and_congr_right fun _ => or_iff_right hk)) (fun _ => rfl) fun _ => rfl]
  case instructions =>
    intro x tl src skip fetched put
    refine ⟨fun h2 => seedOp_retiresAs h2 rfl rfl, fun h3 => ⟨seedOp_retiresAs h3 rfl rfl, seedOp_retiresAs h3 rfl rfl,
      seedOp_retiresAs h3 rfl rfl, seedOp_retiresAs h3 rfl rfl⟩, fun h2 => ⟨fun ha => ?wait, fun ha => ?block, fun hg => ?bskp, ?tskip⟩,
      fun h2 ha => ⟨?brd, ?bwr⟩⟩
    case wait =>
      have e : exec (.bwait t h v a) s = execBwait t h v a s := rfl
      rw [execBwait, issue_of_ready h2, State.bwaitSlot, if_pos ha] at e
      rw [← Thread.advance_eq_onward]
      exact State.finish_retires e
    case block =>
      have e : exec (.bwait t h v a) s = execBwait t h v a s := rfl
      rw [execBwait, issue_of_ready h2, State.bwaitSlot, if_neg ha] at e
      obtain ⟨⟨htile, hstill, hothers⟩, hth⟩ := State.block_onlyThread s t h (.bwait v a)
      exact ⟨_, e, htile, hstill, hothers, hth⟩
    case bskp =>
      have e : exec (.bskp t h v a) s = execBskp t h v a s := rfl
      rw [execBskp, issue_of_ready h2, ← beq_eq_decide] at e
      exact skipOp_retires hg e
    case tskip =>
      intro c hg
      have e : exec (.tskip t h d v a) s = execTskip t h d v a s := rfl
      rw [execTskip, issue_of_ready h2, ← beq_eq_decide, bits_zero_eq_setWidth] at e
      exact skipOp_retires hg e
    case brd =>
      have e : exec (.brd t h d a) s = execBrd t h d a s := rfl
      refine ⟨BitVec.ofNat 32 (tl.seedRun h a 32), fun i hi => ?_, ?_⟩
      · rw [BitVec.getLsbD_ofNat, Tile.testBit_seedRun tl h a 32 hi]
        simp [hi]
      · simp only [execBrd, issue_of_ready h2, checked, decide_eq_true ha, if_true, brdFlags] at e
        rw [← Thread.advance_eq_onward, ← flagsZN_eq_withZN]
        exact State.finish_retires (f := fun y => (y.alu d (BitVec.ofNat 32 (tl.seedRun h a 32),
          flagsZN y.st (BitVec.ofNat 32 (tl.seedRun h a 32)))).advance 2) e
    case bwr =>
      have e : exec (.bwr t h r a) s = execBwr t h r a s := rfl
      simp only [execBwr, issue_of_ready h2, checked, decide_eq_true ha, if_true] at e
      exact ⟨_, State.complete_retiresAs_of_st (f := fun tl => tl.setSeedRun h a ((tl.th h).getD r).toNat 32) e
        (Tile.setSeedRun_th_st _ _ _ _ _ _), fun c => Tile.seed_setSeedRun tl h a c (x.getD r).toNat (n := 32) (by omega)⟩

end Sys2Proof.Machine
end

section
/-! Lanes and lane masks (R69, R106), and what a vector instruction of a ready thread gives (R107). From them, with what a conversion
and a vector access do, the obligations O13 and O14. -/
namespace Sys2Proof.Machine

open Sys2Proof.Safety

/-! ## Lanes (R106) -/

theorem laneW_eq (ty : Ty) : laneW ty = tyWidth ty := by cases ty <;> rfl

theorem lanes_eq (ty : Ty) : lanes ty = 512 / tyWidth ty := by cases ty <;> rfl

theorem tyWidth_mul_lanes (ty : Ty) : tyWidth ty * (512 / tyWidth ty) = 512 := by cases ty <;> rfl

theorem toNat_extractLsb' {n : Nat} (x : BitVec n) (o w : Nat) : (x.extractLsb' o w).toNat = x.toNat / 2 ^ o % 2 ^ w := by
  rw [BitVec.extractLsb'_toNat, Nat.shiftRight_eq_div_pow]

theorem lane_eq (ty : Ty) (v : VWord) (i : Nat) : lane ty v i = (laneOf (tyWidth ty) v i).toNat := by
  rw [lane, laneW_eq, laneOf, toNat_extractLsb']

/-- Element `p` of the register that a list of elements makes. -/
theorem extractLsb'_ofLanes {w N : Nat} (l : List Nat) {p : Nat} (hp : p < l.length) (hN : w * l.length ≤ N) :
    (BitVec.ofNat N (ofLanes w l)).extractLsb' (w * p) w = BitVec.ofNat w l[p] := by
  refine BitVec.eq_of_getLsbD_eq fun b hb => ?_
  have hlt : w * p + b < N := by
    calc w * p + b < w * p + w := by omega
      _ = w * (p + 1) := by ring
      _ ≤ w * l.length := Nat.mul_le_mul_left w hp
      _ ≤ N := hN
  rw [BitVec.getLsbD_extractLsb', BitVec.getLsbD_ofNat, testBit_ofLanes hb l p hp, BitVec.getLsbD_ofNat]
  simp [hb, hlt]

/-- The elements of a register that a function of the element's number makes. -/
theorem extractLsb'_ofLanes_map {w n N : Nat} (f : Nat → Nat) (hN : w * n ≤ N) {p : Nat} (hp : p < n) :
    (BitVec.ofNat N (ofLanes w ((List.range n).map f))).extractLsb' (w * p) w = BitVec.ofNat w (f p) := by
  rw [extractLsb'_ofLanes _ (by simpa using hp) (by simpa using hN)]
  simp

/-- Beyond its elements the register that a list makes is zero. -/
theorem extractLsb'_ofLanes_beyond {w N : Nat} (l : List Nat) {o : Nat} (hp : w * l.length ≤ o) (k : Nat) :
    (BitVec.ofNat N (ofLanes w l)).extractLsb' o k = 0 := by
  have hlt : ofLanes w l < 2 ^ (w * l.length) := by
    clear hp
    induction l with
    | nil => exact Nat.one_pos
    | cons x r ih =>
      have hx := Nat.mod_lt x (Nat.two_pow_pos w)
      rw [ofLanes, List.length_cons, Nat.mul_succ, Nat.add_comm (w * _), Nat.pow_add]
      calc x % 2 ^ w + 2 ^ w * ofLanes w r < 2 ^ w + 2 ^ w * ofLanes w r := by omega
        _ = 2 ^ w * (ofLanes w r + 1) := by ring
        _ ≤ 2 ^ w * 2 ^ (w * r.length) := Nat.mul_le_mul_left _ ih
  refine BitVec.eq_of_getLsbD_eq fun b _ => ?_
  rw [BitVec.getLsbD_extractLsb', BitVec.getLsbD_ofNat,
    Nat.testBit_lt_two_pow (hlt.trans_le (Nat.pow_le_pow_right (by decide) (hp.trans (Nat.le_add_right o b))))]
  simp

theorem laneOf_ofLanes (ty : Ty) (f : Nat → Nat) {l : Nat} (hl : l < 512 / tyWidth ty) :
    laneOf (tyWidth ty) (BitVec.ofNat 512 (ofLanes (laneW ty) ((List.range (lanes ty)).map f))) l =
      BitVec.ofNat (tyWidth ty) (f l) := by
  rw [laneW_eq, lanes_eq, laneOf]
  exact extractLsb'_ofLanes_map f (tyWidth_mul_lanes ty).le hl

theorem laneOf_mergeLanes (ty : Ty) (mask : Nat) (old : VWord) (f : Nat → Nat) {l : Nat} (hl : l < 512 / tyWidth ty) :
    laneOf (tyWidth ty) (mergeLanes ty mask old f) l =
      if active mask l then BitVec.ofNat (tyWidth ty) (f l) else laneOf (tyWidth ty) old l := by
  rw [mergeLanes, laneOf_ofLanes ty _ hl]
  split
  · rfl
  · rw [lane_eq, BitVec.ofNat_toNat, BitVec.setWidth_eq]

/-! ## Masks (R69) -/

theorem active_eq_testBit (mask i : Nat) : active mask i = mask.testBit i := by
  rw [active, Nat.testBit_eq_decide_div_mod_eq]

theorem active_ones {n i : Nat} (hi : i < n) : active (2 ^ n - 1) i = true := by
  rw [active_eq_testBit, Nat.testBit_two_pow_sub_one, decide_eq_true hi]

theorem active_seedRun (tl : Tile) (h : Thr) (a : Seed) {n i : Nat} (hi : i < n) :
    active (tl.seedRun h a n) i = tl.seed h (a + BitVec.ofNat 13 i) := by
  rw [active_eq_testBit, Tile.testBit_seedRun tl h a n hi]

theorem active_maskBits (tl : Tile) (h : Thr) (m : Mask) {n i : Nat} (hi : i < n) :
    active (maskBits tl h m n) i = laneOn tl h (m.map fun q => q ++ 0#5) i := by
  cases m with
  | none => exact active_ones hi
  | some q => exact active_seedRun tl h _ hi

theorem active_maskBits5 (tl : Tile) (h : Thr) (m : Mask5) {n i : Nat} (hi : i < n) :
    active (maskBits5 tl h m n) i = laneOn tl h (m.map fun q => q ++ 0#8) i := by
  cases m with
  | none => exact active_ones hi
  | some q => exact active_seedRun tl h _ hi

theorem Tile.seedRun_lt (tl : Tile) (h : Thr) (a : Seed) (n : Nat) : tl.seedRun h a n < 2 ^ n := by
  induction n generalizing a with
  | zero => exact Nat.one_pos
  | succ n ih =>
    have hr := ih (a + 1)
    have hb : b2n (tl.seed h a) ≤ 1 := by cases tl.seed h a <;> decide
    rw [Tile.seedRun, Nat.pow_succ]
    omega

/-- The mask of no lanes is the one under which none is active. -/
theorem maskBits_eq_zero_iff (tl : Tile) (h : Thr) (m : Mask) (n : Nat) :
    maskBits tl h m n = 0 ↔ ∀ i, i < n → laneOn tl h (m.map fun q => q ++ 0#5) i = false := by
  have hlt : maskBits tl h m n < 2 ^ n := by
    cases m with
    | none => exact Nat.sub_lt (Nat.two_pow_pos n) Nat.one_pos
    | some q => exact Tile.seedRun_lt tl h _ n
  constructor
  · intro h0 i hi
    rw [← active_maskBits tl h m hi, h0, active_eq_testBit, Nat.zero_testBit]
  · intro hoff
    refine Nat.eq_of_testBit_eq fun i => ?_
    rw [Nat.zero_testBit]
    by_cases hi : i < n
    · rw [← active_eq_testBit, active_maskBits tl h m hi, hoff i hi]
    · exact Nat.testBit_lt_two_pow (hlt.trans_le (Nat.pow_le_pow_right (by decide) (Nat.not_lt.1 hi)))

/-! ## The results of vector instructions (R107) -/

/-- A vector instruction whose registers have landed completes with its result under way. -/
theorem vecOp_retires {i : Instr} {s : State} {t : TileId} {h : Thr} {len : Nat} {vd : Reg} {reads : List Reg}
    {f : Tile → Thread → VWord} (hl : Landed (s.th t h) (vd :: reads)) (e : exec i s = .next (vecOp t h len vd reads f s)) :
    Retires i s t h (vectorDone (s.th t h) vd (f (s.tile t) (s.th t h)) len) := by
  rw [vecOp, withV_of_landed hl] at e
  rw [vectorDone, ← Thread.advance_eq_onward]
  exact State.finish_retires e

/-- A vector instruction that gives the active lanes of Vd a value and keeps the others. -/
theorem mergeOp_gives {i : Instr} {s : State} {t : TileId} {h : Thr} {len : Nat} {vd : Reg} {reads : List Reg} {m : Mask} {ty : Ty}
    {old : Thread → VWord} {f : Thread → Nat → Nat} (hl : Landed (s.th t h) (vd :: reads))
    (e : exec i s = .next (vecOp t h len vd reads
      (fun tl x => mergeLanes ty (maskBits tl h m (lanes ty)) (old x) (f x)) s)) :
    ∃ v, (∀ l, l < 512 / tyWidth ty → laneOf (tyWidth ty) v l =
        if laneOn (s.tile t) h (m.map fun q => q ++ 0#5) l then BitVec.ofNat (tyWidth ty) (f (s.th t h) l)
        else laneOf (tyWidth ty) (old (s.th t h)) l) ∧
      Retires i s t h (vectorDone (s.th t h) vd v len) := by
  refine ⟨_, fun l hlt => ?_, vecOp_retires hl e⟩
  rw [laneOf_mergeLanes ty _ _ _ hlt, active_maskBits _ _ _ (by rw [lanes_eq]; exact hlt)]

theorem landed_of_subset {x : Thread} {l r : List Reg} (hl : Landed x l) (hsub : ∀ k ∈ r, k ∈ l) : Landed x r :=
  fun p hp hr => hl p hp (hsub _ hr)

/-! ## Comparison and conversion (R109, R112) -/

theorem scaled_zero (neg : Bool) (m : Nat) : scaled neg m 0 0 = if neg then -(m : Int) else m := by
  simp [scaled]

/-- A lane of 32 bits as a signed number: the number of a word. -/
theorem decodeInt_toNat (x : Word) : decodeInt 32 x.toNat =
    if x.toNat < 2 ^ 31 then .fin false x.toNat 0 else .fin true (2 ^ 32 - x.toNat) 0 := by
  rw [decodeInt, Nat.mod_eq_of_lt x.isLt]

/-- Its number and sign. -/
theorem scaled_decodeInt (x : Word) : ∃ b m, decodeInt 32 x.toNat = .fin b m 0 ∧ scaled b m 0 0 = x.toInt ∧ (b = true → x.toInt ≠ 0) := by
  have hx := x.isLt
  rw [decodeInt_toNat]
  split
  case isTrue hlt => exact ⟨_, _, rfl, by rw [scaled_zero, BitVec.toInt_eq_toNat_of_lt (by omega)]; rfl, nofun⟩
  case isFalse hge =>
    have hint : x.toInt = -((2 ^ 32 - x.toNat : Nat) : Int) := by rw [BitVec.toInt_eq_toNat_cond, if_neg (by omega)]; omega
    exact ⟨_, _, rfl, by rw [scaled_zero, hint]; rfl, fun _ => by omega⟩

theorem lt_decodeInt (x y : Word) : (decodeInt 32 x.toNat).lt (decodeInt 32 y.toNat) = decide (x.toInt < y.toInt) := by
  obtain ⟨b, m, hx, ex, -⟩ := scaled_decodeInt x
  obtain ⟨c, n, hy, ey, -⟩ := scaled_decodeInt y
  rw [hx, hy, ← ex, ← ey]
  rfl

theorem feq_decodeInt (x y : Word) : (decodeInt 32 x.toNat).feq (decodeInt 32 y.toNat) = decide (x.toInt = y.toInt) := by
  obtain ⟨b, m, hx, ex, -⟩ := scaled_decodeInt x
  obtain ⟨c, n, hy, ey, -⟩ := scaled_decodeInt y
  rw [hx, hy, ← ex, ← ey]
  rfl

/-- Integers have no two zeros: the order of VMAX and VMIN is that of numbers. -/
theorem below_decodeInt (x y : Word) : (decodeInt 32 x.toNat).below (decodeInt 32 y.toNat) = decide (x.toInt < y.toInt) := by
  rw [FVal.below, lt_decodeInt, feq_decodeInt]
  obtain ⟨b, m, hx, -, hneg⟩ := scaled_decodeInt x
  obtain ⟨c, n, hy, ey, -⟩ := scaled_decodeInt y
  have hsign : (decide (x.toInt = y.toInt) && b && !c) = false := by
    cases b
    · simp
    cases c
    · have hpos : 0 ≤ y.toInt := by rw [← ey, scaled_zero]; exact Int.natCast_nonneg n
      have hxne := hneg rfl
      obtain ⟨b', m', hx', ex', -⟩ := scaled_decodeInt x
      rw [hx] at hx'
      obtain ⟨rfl, rfl, -⟩ := FVal.fin.inj hx'
      have : x.toInt ≤ 0 := by rw [← ex', scaled_zero]; simp
      simp; omega
    · simp
  rw [hx, hy]
  simp only [FVal.signBit, hsign, Bool.or_false]

/-- The comparison of VCMP on lanes: of words as signed numbers, of the others as floating-point values. -/
theorem laneVal_lt (ty : Ty) (x y : BitVec (tyWidth ty)) : (laneVal ty x.toNat).lt (laneVal ty y.toNat) =
    if ty = .int32 then decide (x.toInt < y.toInt) else (decodeF (tyFmt ty) x.toNat).lt (decodeF (tyFmt ty) y.toNat) := by
  cases ty with
  | int32 => exact lt_decodeInt x y
  | _ => rfl

theorem laneVal_feq (ty : Ty) (x y : BitVec (tyWidth ty)) : (laneVal ty x.toNat).feq (laneVal ty y.toNat) =
    if ty = .int32 then decide (x = y) else (decodeF (tyFmt ty) x.toNat).feq (decodeF (tyFmt ty) y.toNat) := by
  cases ty with
  | int32 => exact (feq_decodeInt x y).trans (decide_eq_decide.2 BitVec.toInt_inj)
  | _ => rfl

theorem testBit_cmpBits (ty : Ty) (c : VCond) (va vb : VWord) {i : Nat} (hi : i < 32) :
    (cmpBits ty c va vb).testBit i = (decide (i < 512 / tyWidth ty) &&
      laneCmp ty c (laneOf (tyWidth ty) va i).toNat (laneOf (tyWidth ty) vb i).toNat) := by
  have hbit (b : Bool) : (b2n b).testBit 0 = b := by cases b <;> rfl
  have h := testBit_ofLanes (w := 1) Nat.one_pos ((List.range 32).map fun i =>
    if i < lanes ty then b2n (laneCmp ty c (lane ty va i) (lane ty vb i)) else 0) i (by simpa using hi)
  rw [cmpBits]
  simp only [Nat.one_mul, Nat.add_zero, List.getElem_map, List.getElem_range] at h
  rw [h, lanes_eq, lane_eq, lane_eq]
  split
  case isTrue hlt => rw [hbit, decide_eq_true hlt, Bool.true_and]
  case isFalse hge => rw [decide_eq_false hge]; rfl

/-- The elements of a converted register; those beyond the ones converted are zero. -/
theorem extractLsb'_convert (se de : Elem) (v : VWord) (i : Nat) :
    (convert se de v).extractLsb' (elemWidth de * i) (elemWidth de) =
      if i < 512 / max (elemWidth se) (elemWidth de) then BitVec.ofNat _ (encodeElem de (decodeElem se
        (v.extractLsb' (elemWidth se * i) (elemWidth se)).toNat)) else 0 := by
  rw [convert]
  split
  case isTrue hi =>
    rw [toNat_extractLsb']
    refine extractLsb'_ofLanes_map _ ?_ hi
    calc elemWidth de * (512 / max (elemWidth se) (elemWidth de))
        ≤ max (elemWidth se) (elemWidth de) * (512 / max (elemWidth se) (elemWidth de)) := Nat.mul_le_mul_right _ (Nat.le_max_right _ _)
      _ ≤ 512 := Nat.mul_div_le _ _
  case isFalse hi =>
    refine extractLsb'_ofLanes_beyond _ ?_ _
    rw [List.length_map, List.length_range]
    exact Nat.mul_le_mul_left _ (Nat.not_lt.1 hi)

/-! ## Bytes of a register (R4, R108) -/

theorem leNat_eq_ofLanes (l : List Byte) : leNat l = ofLanes 8 (l.map BitVec.toNat) := by
  induction l with
  | nil => rfl
  | cons b r ih => rw [leNat, List.map_cons, ofLanes, ih, Nat.mod_eq_of_lt b.isLt]; rfl

theorem extractLsb'_leBits {N : Nat} (l : List Byte) {p : Nat} (hp : p < l.length) (hN : 8 * l.length ≤ N) :
    (leBits N l).extractLsb' (8 * p) 8 = l[p] := by
  rw [leBits, leNat_eq_ofLanes, extractLsb'_ofLanes _ (by simpa using hp) (by simpa using hN), List.getElem_map, BitVec.ofNat_toNat,
    BitVec.setWidth_eq]

theorem Memory.getElem_bytes (m : Memory) (a n i : Nat) (hi : i < (m.bytes a n).length) : (m.bytes a n)[i] = m.byte (a + i) := by
  induction n generalizing a i with
  | zero => exact absurd hi (Nat.not_lt_zero i)
  | succ n ih =>
    cases i with
    | zero => rfl
    | succ i => exact (ih (a + 1) i (Nat.lt_of_succ_lt_succ hi)).trans (by rw [Nat.add_assoc, Nat.add_comm 1])

theorem extractLsb'_leBits_bytes (m : Memory) (a : Nat) {N n i : Nat} (hi : i < n) (hN : 8 * n ≤ N) :
    (leBits N (m.bytes a n)).extractLsb' (8 * i) 8 = m.byte (a + i) := by
  rw [extractLsb'_leBits _ (by simpa using hi) (by simpa using hN), Memory.getElem_bytes]

/-- Byte `i` of a register lies in the lane whose bytes it is among. -/
theorem extractLsb'_eq_laneOf {w c : Nat} (hw : w = 8 * c) (hc : 0 < c) (v : VWord) (i : Nat) :
    v.extractLsb' (8 * i) 8 = (laneOf w v (i / c)).extractLsb' (8 * (i % c)) 8 := by
  have hm := Nat.mod_lt i hc
  refine BitVec.eq_of_getLsbD_eq fun b hb => ?_
  have hidx : w * (i / c) + (8 * (i % c) + b) = 8 * i + b := by
    calc w * (i / c) + (8 * (i % c) + b) = 8 * (c * (i / c) + i % c) + b := by rw [hw]; ring
      _ = 8 * i + b := by rw [Nat.div_add_mod]
  have hlt : 8 * (i % c) + b < w := by omega
  simp [laneOf, hb, hlt, hidx]

/-- Two registers alike in a lane are alike in its bytes. -/
theorem extractLsb'_congr_lane (ty : Ty) {v u : VWord} {i : Nat}
    (h : laneOf (tyWidth ty) v (i / (tyWidth ty / 8)) = laneOf (tyWidth ty) u (i / (tyWidth ty / 8))) :
    v.extractLsb' (8 * i) 8 = u.extractLsb' (8 * i) 8 := by
  have hw : tyWidth ty = 8 * (tyWidth ty / 8) := by cases ty <;> rfl
  have hc : 0 < tyWidth ty / 8 := by cases ty <;> decide
  rw [extractLsb'_eq_laneOf hw hc, extractLsb'_eq_laneOf hw hc, h]

/-- The lane of a byte of a register is one of its lanes. -/
theorem div_tyWidth_lt (ty : Ty) {i : Nat} (hi : i < 64) : i / (tyWidth ty / 8) < 512 / tyWidth ty := by
  have hw : 512 / tyWidth ty * (tyWidth ty / 8) = 64 := by cases ty <;> rfl
  exact Nat.div_lt_of_lt_mul (by rw [Nat.mul_comm, hw]; exact hi)

/-- The bytes of a register under a lane mask: those of the active lanes. -/
theorem maskedBytes_eq (ty : Ty) (tl : Tile) (h : Thr) (m : Mask) (v : VWord) :
    maskedBytes ty (maskBits tl h m (lanes ty)) v = (List.range 64).map fun i =>
      if laneOn tl h (m.map fun z => z ++ 0#5) (i / (tyWidth ty / 8)) then some (v.extractLsb' (8 * i) 8) else none := by
  rw [maskedBytes]
  refine List.map_congr_left fun i hi => ?_
  rw [laneW_eq, active_maskBits _ _ _ (by rw [lanes_eq]; exact div_tyWidth_lt ty (List.mem_range.1 hi))]
  rfl

/-! ## Vector loads and stores (R108) -/

/-- A vector access with no lane active ends at once. -/
theorem vecAccess_of_empty {s : State} {t : TileId} {h : Thr} {r an : Reg} {m : Mask} {ty : Ty} {dsp : BitVec 14} (write : Bool)
    (k : Nat → Nat → State → State) (rd : Ready s t h 3) (hl : Landed (s.th t h) [r])
    (ha : ((s.th t h).getA an + dsp.signExtend 64 * 64).toNat < 2 ^ 48)
    (hoff : ∀ i, i < 512 / tyWidth ty → laneOn (s.tile t) h (m.map fun z => z ++ 0#5) i = false) :
    vecAccess t h r an m ty dsp write k s = s.complete t h 3 := by
  rw [← lanes_eq] at hoff
  have hea : ((s.th t h).ea an dsp 64).toNat < 2 ^ 48 := ha
  rw [vecAccess, issue_of_ready rd, withV_of_landed hl, if_neg (Nat.not_le.2 hea), if_pos ((maskBits_eq_zero_iff _ _ _ _).2 hoff)]

/-- One with a lane active, whose bytes the own scratchpad holds, goes on with them. -/
theorem vecAccess_of_own {s : State} {t : TileId} {h : Thr} {r an : Reg} {m : Mask} {ty : Ty} {dsp : BitVec 14} {write : Bool}
    (k : Nat → Nat → State → State) {off : Nat} (rd : Ready s t h 3) (hl : Landed (s.th t h) [r])
    (hon : ∃ i, i < 512 / tyWidth ty ∧ laneOn (s.tile t) h (m.map fun z => z ++ 0#5) i = true)
    (hlt : ((s.th t h).getA an + dsp.signExtend 64 * 64).toNat < 0x100000000)
    (hal : ((s.th t h).getA an + dsp.signExtend 64 * 64).toNat % 64 = 0)
    (hres : s.resolveLocal t ((s.th t h).getA an + dsp.signExtend 64 * 64).toNat 64 write = some (.own off)) :
    vecAccess t h r an m ty dsp write k s = k off (maskBits (s.tile t) h m (lanes ty)) s := by
  obtain ⟨i, hi, hion⟩ := hon
  have hmask : ¬maskBits (s.tile t) h m (lanes ty) = 0 := fun h0 => by
    have := (maskBits_eq_zero_iff _ _ _ _).1 h0 i (by rw [lanes_eq]; exact hi)
    rw [hion] at this
    exact Bool.noConfusion this
  have hform : ¬2 ^ 48 ≤ ((s.th t h).ea an dsp 64).toNat := fun hge => by
    have : 2 ^ 48 ≤ ((s.th t h).getA an + dsp.signExtend 64 * 64).toNat := hge
    omega
  have hva : (bits ((s.th t h).ea an dsp 64) 0 48 : VAddr).toNat = ((s.th t h).getA an + dsp.signExtend 64 * 64).toNat := by
    rw [bits_zero_eq_setWidth, BitVec.toNat_setWidth, Nat.mod_eq_of_lt (Nat.not_le.1 hform)]
    rfl
  rw [vecAccess, issue_of_ready rd, withV_of_landed hl, if_neg hform, if_neg hmask, ownAccess, hva, if_neg (fun hne => hne hal),
    if_neg (Nat.not_le.2 hlt), hres]

/-- VLD of an own address: in the active lanes the bytes of local memory. -/
theorem vld_retires {s : State} {t : TileId} {h : Thr} {r an : Reg} {m : Mask} {ty : Ty} {dsp : BitVec 14} {off : Nat}
    (rd : Ready s t h 3) (hl : Landed (s.th t h) [r])
    (hon : ∃ i, i < 512 / tyWidth ty ∧ laneOn (s.tile t) h (m.map fun z => z ++ 0#5) i = true)
    (o : OwnRead s t ((s.th t h).getA an + dsp.signExtend 64 * 64) 64 64 off) :
    Retires (.vld t h r an m ty dsp) s t h (vectorDone (s.th t h) r (mergeLanes ty (maskBits (s.tile t) h m (lanes ty))
      ((s.th t h).getV r) (fun i => lane ty (leBits 512 ((s.tile t).lmem.bytes off 64)) i)) 3) := by
  obtain ⟨hlt, hal, hres, hin, herr⟩ := o
  have e : exec (.vld t h r an m ty dsp) s = execVld t h r an m ty dsp s := rfl
  rw [execVld, vecAccess_of_own _ rd hl hon hlt hal hres, withRead_of_clean h _ _ hin herr] at e
  rw [vectorDone, ← Thread.advance_eq_onward]
  exact State.finish_retires e

theorem vst_retiresAs {s : State} {t : TileId} {h : Thr} {r an : Reg} {m : Mask} {ty : Ty} {dsp : BitVec 14} {off : Nat}
    (rd : Ready s t h 3) (hl : Landed (s.th t h) [r])
    (hon : ∃ i, i < 512 / tyWidth ty ∧ laneOn (s.tile t) h (m.map fun z => z ++ 0#5) i = true)
    (hlt : ((s.th t h).getA an + dsp.signExtend 64 * 64).toNat < 0x100000000)
    (hal : ((s.th t h).getA an + dsp.signExtend 64 * 64).toNat % 64 = 0)
    (hres : s.resolveLocal t ((s.th t h).getA an + dsp.signExtend 64 * 64).toNat 64 true = some (.own off))
    (hin : (s.tile t).inbuf.length < 16)
    (hbad : (s.tile t).writeBad off (maskedBytes ty (maskBits (s.tile t) h m (lanes ty)) ((s.th t h).getV r)) = none) :
    RetiresAs (.vst t h r an m ty dsp) s t h
      ((s.tile t).lmWrite 0 off (maskedBytes ty (maskBits (s.tile t) h m (lanes ty)) ((s.th t h).getV r))) (onward (s.th t h) 3) := by
  have e : exec (.vst t h r an m ty dsp) s = execVst t h r an m ty dsp s := rfl
  rw [execVst, vecAccess_of_own _ rd hl hon hlt hal hres, withWrite_of_good h _ _ hin hbad] at e
  exact State.complete_retiresAs e (Tile.thr_lmWrite _ _ _ _)

/-- VCMP of a ready thread: the result bits go to the run at its mask address. -/
theorem vcmp_retiresAs {s : State} {t : TileId} {h : Thr} {va vb : Reg} (cond : VCond) (q : BitVec 8) (ty : Ty)
    (rd : Ready s t h 2) (hl : Landed (s.th t h) [va, vb]) :
    let tl' := (s.tile t).setSeedRun h (q ++ 0#5) (cmpBits ty cond ((s.th t h).getV va) ((s.th t h).getV vb)) 32
    RetiresAs (.vcmp t h cond va vb (some q) ty) s t h tl' (onward (tl'.th h) 2) := by
  have e : exec (.vcmp t h cond va vb (some q) ty) s = execVcmp t h cond va vb (some q) ty s := rfl
  rw [execVcmp, issue_of_ready rd, checked, Option.isSome_some, if_pos rfl, withV_of_landed hl] at e
  exact State.complete_retiresAs_of_st
    (f := fun tl => tl.setSeedRun h (q ++ 0#5) (cmpBits ty cond ((s.th t h).getV va) ((s.th t h).getV vb)) 32) e
    (Tile.setSeedRun_th_st _ _ _ _ _ _)

/-- VEXT of a lane that its register has. -/
theorem vext_retires {s : State} {t : TileId} {h : Thr} {d va : Reg} {ln : BitVec 5} {ty : Ty} (rd : Ready s t h 2)
    (hln : ln.toNat < 512 / tyWidth ty) (hl : Landed (s.th t h) [va]) :
    Retires (.vext t h d va ln ty) s t h
      (onward ((s.th t h).setD d ((laneOf (tyWidth ty) ((s.th t h).getV va) ln.toNat).setWidth 32)) 2) := by
  have hok : (!(tyWide ty && decide (16 ≤ ln.toNat))) = true := by
    cases ty <;> simp [tyWide]
    all_goals exact hln
  have e : exec (.vext t h d va ln ty) s = execVext t h d va ln ty s := rfl
  rw [execVext, issue_of_ready rd, checked, if_pos hok, withV_of_landed hl] at e
  simp only [lane_eq, BitVec.ofNat_toNat] at e
  rw [← Thread.advance_eq_onward]
  exact State.finish_retires e

/-- Settles O13: the lanes of each result are read off the list that makes it, and a vector access with no lane active makes none. -/
theorem vectorMovesAndMemory : Obligations.VectorMovesAndMemory := by
  unfold Obligations.VectorMovesAndMemory
  refine ⟨fun s t h vd va vb r m q ln ty cond se de => ?moves, fun s t h r an m ty dsp off => ?memory⟩
  case moves =>
    intro x tl w n a b on gives less same holds h2
    refine ⟨fun hl => ?vbc, fun hl => ?vperm, fun hl => ?vsel, vext_retires h2, fun hl => ⟨_, vcmp_retiresAs cond q ty h2 hl, fun c => ?vcmp⟩,
      fun hl => ⟨_, vecOp_retires (f := fun _ k => convert se de (k.getV va)) hl ?vcvt,
        fun i _ => extractLsb'_convert se de (x.getV va) i⟩⟩
    case vbc =>
      have e : exec (.vbc t h vd r m ty) s = execVbc t h vd r m ty s := rfl
      rw [execVbc, issue_of_ready h2] at e
      obtain ⟨v, hv, hret⟩ := mergeOp_gives hl e
      refine ⟨v, fun l hlt => (hv l hlt).trans ?_, hret⟩
      have hd : BitVec.ofNat w ((x.getD r).toNat % 2 ^ laneW ty) = (x.getD r).setWidth w :=
        BitVec.eq_of_toNat_eq (by simp [laneW_eq, w])
      rw [← hd]
    case vperm =>
      have e : exec (.vperm t h vd va vb m ty) s = execVperm t h vd va vb m ty s := rfl
      rw [execVperm, issue_of_ready h2] at e
      obtain ⟨v, hv, hret⟩ := mergeOp_gives hl e
      refine ⟨v, fun l hlt => (hv l hlt).trans ?_, hret⟩
      simp only [lane_eq, lanes_eq, BitVec.ofNat_toNat, BitVec.setWidth_eq]
      rfl
    case vsel =>
      have e : exec (.vsel t h vd va vb (some q) ty) s = execVsel t h vd va vb (some q) ty s := rfl
      rw [execVsel, issue_of_ready h2, checked, Option.isSome_some, if_pos rfl] at e
      obtain ⟨v, hv, hret⟩ := mergeOp_gives hl e
      refine ⟨v, fun l hlt => (hv l hlt).trans ?_, hret⟩
      simp only [lane_eq, BitVec.ofNat_toNat, BitVec.setWidth_eq]
      rfl
    case vcmp =>
      intro i
      rw [Tile.seed_setSeedRun tl h _ c _ (n := 32) (by omega)]
      split
      case isTrue hi =>
        rw [testBit_cmpBits _ _ _ _ hi]
        simp only [laneCmp, laneVal_lt, laneVal_feq]
        cases cond <;> rfl
      case isFalse hi => rfl
    case vcvt =>
      have e : exec (.vcvt t h vd va se de) s = execVcvt t h vd va se de s := rfl
      rwa [execVcvt, issue_of_ready h2] at e
  case memory =>
    intro x tl w n a on h3 hl ha
    refine ⟨fun hoff => ⟨?vldEmpty, ?vstEmpty⟩, fun hon => ⟨fun o => ⟨_, fun i hi => ?vld, vld_retires h3 hl hon o⟩, ?vst⟩⟩
    case vldEmpty =>
      have e : exec (.vld t h r an m ty dsp) s = execVld t h r an m ty dsp s := rfl
      rw [execVld, vecAccess_of_empty _ _ h3 hl ha hoff] at e
      rw [← Thread.advance_eq_onward]
      exact State.finish_retires e
    case vstEmpty =>
      have e : exec (.vst t h r an m ty dsp) s = execVst t h r an m ty dsp s := rfl
      rw [execVst, vecAccess_of_empty _ _ h3 hl ha hoff] at e
      rw [← Thread.advance_eq_onward]
      exact State.finish_retires e
    case vld =>
      have hlane := div_tyWidth_lt ty hi
      have hv := laneOf_mergeLanes ty (maskBits tl h m (lanes ty)) (x.getV r) (fun i => lane ty (leBits 512 (tl.lmem.bytes off 64)) i) hlane
      rw [active_maskBits _ _ _ (by rw [lanes_eq]; exact hlane)] at hv
      split at hv
      case isTrue hon' =>
        rw [lane_eq, BitVec.ofNat_toNat, BitVec.setWidth_eq] at hv
        rw [extractLsb'_congr_lane ty hv, extractLsb'_leBits_bytes _ _ hi (by decide), if_pos hon']
      case isFalse hoff =>
        rw [extractLsb'_congr_lane ty hv, if_neg hoff]
    case vst =>
      intro bs hlt hal hres hin hbad
      have hbs : maskedBytes ty (maskBits tl h m (lanes ty)) (x.getV r) = bs := maskedBytes_eq ty tl h m _
      rw [← hbs] at hbad ⊢
      refine ⟨vst_retiresAs h3 hl hon hlt hal hres hin hbad, fun b => ?_⟩
      rw [hbs, Tile.lmem_lmWrite, Memory.byte_setMasked]
      by_cases hlo : off ≤ b
      · rw [if_pos hlo]
        by_cases hhi : b - off < 64
        · have hin : b < off + 64 := by omega
          simp only [bs, List.getD_eq_getElem?_getD, List.getElem?_map, List.getElem?_range hhi, Option.map_some, Option.getD_some]
          by_cases hon' : on ((b - off) / (w / 8)) = true
          · rw [if_pos hon', if_pos ⟨hlo, hin, hon'⟩]; rfl
          · rw [if_neg hon', if_neg fun hc => hon' hc.2.2]; rfl
        · have hout : bs.length ≤ b - off := by simpa [bs] using Nat.not_lt.1 hhi
          rw [if_neg (by omega), List.getD_eq_getElem?_getD, List.getElem?_eq_none hout]
          rfl
      · rw [if_neg hlo, if_neg fun hc => hlo hc.1]

end Sys2Proof.Machine
end

section
/-! Exact sums (R113–R116): conversion of an element, residues, and the two instructions. From them the obligation O14. -/
namespace Sys2Proof.Machine

open Sys2Proof.Safety

theorem natCast_residue (n : Int) : (residue n : Int) = n % (2 ^ 61 - 1) := by
  have hm : (mersenne : Int) = 2 ^ 61 - 1 := by norm_num [mersenne]
  rw [residue, hm, Int.toNat_of_nonneg (Int.emod_nonneg _ (by norm_num))]

/-- A checksum register after residues are added, as an integer. -/
theorem addResidues_eq (a : DWord) (l : List Int) : addResidues a l =
    BitVec.ofInt 64 ((a.toNat + l.foldl (fun c n => c + n % (2 ^ 61 - 1)) 0) % (2 ^ 61 - 1)) := by
  have hsum (c : Nat) : (((l.map residue).foldl (· + ·) c : Nat) : Int) = l.foldl (fun (c : Int) n => c + n % (2 ^ 61 - 1)) (c : Int) := by
    induction l generalizing c with
    | nil => rfl
    | cons n r ih => rw [List.map_cons, List.foldl_cons, List.foldl_cons, ih, Int.natCast_add, natCast_residue]
  have hm : (mersenne : Int) = 2 ^ 61 - 1 := by norm_num [mersenne]
  rw [addResidues, ← BitVec.ofInt_natCast, Int.natCast_emod, Int.natCast_add, hsum, hm]
  rfl

/-- The conversion of R113 and R114 at exponent `e`. -/
theorem xsConvert_fin (neg : Bool) (m : Nat) (x e : Int) : xsConvert (.fin neg m x) e =
    let big : Int := 2 ^ 47 - 1
    let n := toIntRne neg m (x - e)
    if big < n ∨ n < -big then (if neg then -big else big, true) else (n, false) := by
  have hmax : xsMax = 2 ^ 47 - 1 := by norm_num [xsMax]
  simp only [xsConvert, hmax]
  refine if_congr ?_ rfl rfl
  omega

theorem extractLsb'_extractLsb' {n : Nat} (x : BitVec n) {o k p w : Nat} (h : p + w ≤ k) :
    (x.extractLsb' o k).extractLsb' p w = x.extractLsb' (o + p) w := by
  refine BitVec.eq_of_getLsbD_eq fun i hi => ?_
  have hlt : p + i < k := by omega
  simp [hi, hlt, Nat.add_assoc]

/-- The two registers that the sixteen elements of VXS make (R114). -/
def xsPair (l : List (Int × Bool)) : BitVec 1024 := BitVec.ofNat 1024 (ofLanes 64 (l.map fun p => (p.1 % 2 ^ 64).toNat))

/-- Element `i` of the pair of registers that sixteen elements make. -/
theorem extractLsb'_xsPair (l : List (Int × Bool)) (hl : l.length = 16) {i : Nat} (hi : i < 16) :
    (xsPair l).extractLsb' (64 * i) 64 =
      BitVec.ofInt 64 (l.getD i (0, false)).1 := by
  have hpos : 0 ≤ (l.getD i (0, false)).1 % 2 ^ 64 := Int.emod_nonneg _ (by norm_num)
  rw [xsPair, extractLsb'_ofLanes _ (by simpa [hl] using hi) (by simp [hl]), List.getElem_map, ← List.getD_eq_getElem l (0, false),
    ← BitVec.ofInt_natCast, Int.toNat_of_nonneg hpos]
  refine BitVec.eq_of_toInt_eq ?_
  rw [BitVec.toInt_ofInt, BitVec.toInt_ofInt]
  exact Int.emod_bmod _ _

theorem vxs_retires {s : State} {t : TileId} {h : Thr} {vd va dk ac : Reg} {m : Mask5} {ty : Ty} (rd : Ready s t h 2)
    (heven : vd.toNat % 2 = 0) (hl : Landed (s.th t h) [vd, vd + 1, va]) :
    let x := s.th t h
    let es := xsElems ty (maskBits5 (s.tile t) h m 16) (x.getV va) (x.getD dk).toInt
    Retires (.vxs t h vd va dk ac m ty) s t h (onward
      { x.setA ac (addResidues (x.getA ac) (es.map fun p => p.1)) with
        st := { x.st with v := x.st.v || es.any fun p => p.2 }
        vpend := x.vpend ++ [(vd, bits (xsPair es) 0 512), (vd + 1, bits (xsPair es) 512 512)] } 2) := by
  intro x es
  have e : exec (.vxs t h vd va dk ac m ty) s = execVxs t h vd va dk ac m ty s := rfl
  rw [execVxs, issue_of_ready rd, checked, decide_eq_true heven, if_pos rfl, withV_of_landed hl] at e
  have hret := State.finish_retires e
  simp only [Thread.advance_eq_onward, Thread.pendV, List.append_assoc, List.singleton_append] at hret
  exact hret

theorem vxck_retires {s : State} {t : TileId} {h : Thr} {va ac : Reg} {m : Mask5} (rd : Ready s t h 2)
    (hl : Landed (s.th t h) [va]) :
    let x := s.th t h
    Retires (.vxck t h va ac m) s t h (onward (x.setA ac (addResidues (x.getA ac)
      (((List.range 8).filter fun i => active (maskBits5 (s.tile t) h m 8) i).map fun i =>
        (bits (x.getV va) (64 * i) 64).toInt))) 2) := by
  intro x
  have e : exec (.vxck t h va ac m) s = execVxck t h va ac m s := rfl
  rw [execVxck, issue_of_ready rd, withV_of_landed hl] at e
  rw [← Thread.advance_eq_onward]
  exact State.finish_retires e

/-- Settles O14: each element converts as R113 and R114 say, and its residue enters the sum. -/
theorem exactSumInstructions : Obligations.ExactSumInstructions := by
  unfold Obligations.ExactSumInstructions
  intro s t h vd va dk ac m ty x w on p big e src conv summed h2
  refine ⟨fun heven hl => ?vxs, fun hl => ?vxck⟩
  case vxs =>
    have hsrc (i : Nat) : laneVal ty (lane ty (x.getV va) i) = src i := by
      rw [lane_eq]
      cases ty <;> rfl
    have hconv (i : Nat) (hi : i ∈ List.range 16) :
        (if active (maskBits5 (s.tile t) h m 16) i then xsConvert (laneVal ty (lane ty (x.getV va) i)) e else (0, false)) = conv i := by
      rw [active_maskBits5 _ _ _ (List.mem_range.1 hi), hsrc]
      refine if_congr Iff.rfl ?_ rfl
      cases src i with
      | nan => rfl
      | inf neg => rfl
      | fin neg k z => exact xsConvert_fin neg k z e
    have hes : xsElems ty (maskBits5 (s.tile t) h m 16) (x.getV va) e = (List.range 16).map conv := List.map_congr_left hconv
    have helem {i : Nat} (hi : i < 16) : (xsPair ((List.range 16).map conv)).extractLsb' (64 * i) 64 = BitVec.ofInt 64 (conv i).1 := by
      rw [extractLsb'_xsPair _ (by simp) hi]
      simp [hi]
    have hret := vxs_retires (dk := dk) (ac := ac) (m := m) (ty := ty) h2 heven hl
    simp only [addResidues_eq] at hret
    rw [show xsElems ty (maskBits5 (s.tile t) h m 16) ((s.th t h).getV va) ((s.th t h).getD dk).toInt = _ from hes] at hret
    refine ⟨bits (xsPair ((List.range 16).map conv)) 0 512, bits (xsPair ((List.range 16).map conv)) 512 512,
      fun i hi => ⟨?low, ?high⟩, ?_⟩
    case low => rw [bits, extractLsb'_extractLsb' _ (by omega), Nat.zero_add, helem (by omega)]
    case high =>
      rw [bits, extractLsb'_extractLsb' _ (by omega), ← helem (by omega), Nat.mul_add]
    simp only [List.map_map, List.any_map] at hret
    exact hret
  case vxck =>
    have hon : (List.range 8).filter (fun i => active (maskBits5 (s.tile t) h m 8) i) = (List.range 8).filter on :=
      List.filter_congr fun i hi => active_maskBits5 _ _ _ (List.mem_range.1 hi)
    have hret := vxck_retires (ac := ac) (m := m) h2 hl
    simp only [addResidues_eq, hon] at hret
    exact hret

end Sys2Proof.Machine
end

section
/-! Vector arithmetic (R110, R111): what the lane functions give, and what an arithmetic instruction of a ready thread gives. -/
namespace Sys2Proof.Machine

open Sys2Proof.Safety

/-! ## Lane functions (R110, R111) -/

theorem ofNat_mod_two_pow (w n : Nat) : BitVec.ofNat w (n % 2 ^ w) = BitVec.ofNat w n :=
  BitVec.eq_of_toNat_eq (by simp)

theorem laneVal_int (p : Nat) : laneVal .int32 p = decodeInt 32 p := rfl

theorem laneVal_float {ty : Ty} (hty : ty ≠ .int32) (p : Nat) : laneVal ty p = decodeF (tyFmt ty) p := if_neg hty

theorem isNan_decodeInt (x : Word) : (decodeInt 32 x.toNat).isNan = false := by
  obtain ⟨b, m, hx, -⟩ := scaled_decodeInt x
  rw [hx]
  rfl

/-- The choice of VMAX and VMIN between words, where neither is a NaN. -/
theorem lanePick_int (pick : FVal → FVal → Bool) (x y : Word) : lanePick .int32 pick x.toNat y.toNat =
    if pick (decodeInt 32 x.toNat) (decodeInt 32 y.toNat) then y.toNat else x.toNat := by
  simp only [lanePick, laneVal_int, isNan_decodeInt, Bool.false_eq_true, if_false] <;> rfl

theorem lanePick_float {ty : Ty} (hty : ty ≠ .int32) (pick : FVal → FVal → Bool) (p q : Nat) : lanePick ty pick p q =
    if (decodeF (tyFmt ty) p).isNan then (if (decodeF (tyFmt ty) q).isNan then (tyFmt ty).nanBits else q)
    else if (decodeF (tyFmt ty) q).isNan then p
    else if pick (decodeF (tyFmt ty) p) (decodeF (tyFmt ty) q) then q else p := by
  simp only [lanePick, laneVal_float hty]

/-! ## The instructions (R107, R110) -/

/-- An arithmetic instruction: `f` gives an active lane, up to the width of a lane that `g` gives. -/
theorem vArith_gives {i : Instr} {s : State} {t : TileId} {h : Thr} {w : PWord} {ok : Bool} {vd va vb : Reg} {m : Mask} {ty : Ty}
    {f : Nat → Nat → Nat → Nat} (rd : Ready s t h 2) (hok : ok = true) (ha : Landed (s.th t h) [vd, va])
    (hb : Landed (s.th t h) [vb]) (e : exec i s = .next (vArith t h w ok vd va vb m ty f s)) (g : Nat → Nat → Nat → Nat)
    (hfg : ∀ p q r : BitVec (tyWidth ty), BitVec.ofNat (tyWidth ty) (f p.toNat q.toNat r.toNat) = BitVec.ofNat (tyWidth ty) (g p.toNat q.toNat r.toNat)) :
    ∃ v, (∀ l, l < 512 / tyWidth ty → laneOf (tyWidth ty) v l = BitVec.ofNat (tyWidth ty)
        (if laneOn (s.tile t) h (m.map fun q => q ++ 0#5) l then
          g (laneOf (tyWidth ty) ((s.th t h).getV va) l).toNat (laneOf (tyWidth ty) ((s.th t h).getV vb) l).toNat
            (laneOf (tyWidth ty) ((s.th t h).getV vd) l).toNat
        else (laneOf (tyWidth ty) ((s.th t h).getV vd) l).toNat)) ∧
      Retires i s t h (vectorDone (s.th t h) vd v 2) := by
  have hl : Landed (s.th t h) [vd, va, vb] := by
    intro p hp
    have h1 := ha p hp
    have h2 := hb p hp
    simp only [List.mem_cons, List.not_mem_nil, or_false, not_or] at h1 h2 ⊢
    exact ⟨h1.1, h1.2, h2⟩
  rw [vArith, issue_of_ready rd, checked, if_pos hok] at e
  obtain ⟨v, hv, hret⟩ := mergeOp_gives hl e
  refine ⟨v, fun l hlt => (hv l hlt).trans ?_, hret⟩
  simp only [lane_eq]
  split
  · exact hfg _ _ _
  · rw [BitVec.ofNat_toNat, BitVec.setWidth_eq]

/-- An instruction that writes every lane of Vd. -/
theorem vWhole_gives {i : Instr} {s : State} {t : TileId} {h : Thr} {w : PWord} {ok : Bool} {vd va : Reg} {m : Mask} {ty : Ty}
    {f : Nat → VWord → List Nat} (rd : Ready s t h 2) (hok : ok = true) (ha : Landed (s.th t h) [vd, va])
    (e : exec i s = .next (vWhole t h w ok vd va m ty f s)) (g : Nat → Nat)
    (hfg : f (maskBits (s.tile t) h m (lanes ty)) ((s.th t h).getV va) = (List.range (lanes ty)).map g) :
    ∃ v, (∀ l, l < 512 / tyWidth ty → laneOf (tyWidth ty) v l = BitVec.ofNat (tyWidth ty) (g l)) ∧
      Retires i s t h (vectorDone (s.th t h) vd v 2) := by
  rw [vWhole, issue_of_ready rd, checked, if_pos hok] at e
  refine ⟨_, fun l hlt => ?_, vecOp_retires ha e⟩
  beta_reduce
  rw [hfg, laneOf_ofLanes ty g hlt]

/-- A list of the lanes under a mask. -/
theorem map_active_eq {α : Type} (tl : Tile) (h : Thr) (m : Mask) (ty : Ty) (f g : Nat → α) :
    (List.range (lanes ty)).map (fun i => if active (maskBits tl h m (lanes ty)) i then f i else g i) =
      (List.range (512 / tyWidth ty)).map fun i => if laneOn tl h (m.map fun q => q ++ 0#5) i then f i else g i := by
  rw [← lanes_eq]
  exact List.map_congr_left fun i hi => by rw [active_maskBits _ _ _ (List.mem_range.1 hi)]

theorem rsum_eq (tl : Tile) (h : Thr) (m : Mask) (ty : Ty) (v : VWord) : rsum ty (maskBits tl h m (lanes ty)) v =
    treeSum (laneAdd ty) (if tyWidth ty = 32 then 4 else 5) ((List.range (512 / tyWidth ty)).map fun l =>
      if laneOn tl h (m.map fun q => q ++ 0#5) l then (laneOf (tyWidth ty) v l).toNat else 0) := by
  have hlog : Nat.log2 (lanes ty) = if tyWidth ty = 32 then 4 else 5 := by cases ty <;> decide
  simp only [rsum, hlog, map_active_eq, lane_eq]

theorem filter_active_eq (tl : Tile) (h : Thr) (m : Mask) (ty : Ty) :
    (List.range (lanes ty)).filter (fun i => active (maskBits tl h m (lanes ty)) i) =
      (List.range (512 / tyWidth ty)).filter (laneOn tl h (m.map fun q => q ++ 0#5)) := by
  rw [← lanes_eq]
  exact List.filter_congr fun i hi => active_maskBits _ _ _ (List.mem_range.1 hi)

theorem laneZero_eq (ty : Ty) (r : Nat) : laneZero ty r = (List.range (lanes ty)).map fun l => if l = 0 then r else 0 := rfl

/-- The bits of minus infinity, one below the top bit of the lane. -/
theorem minusInf_eq {ty : Ty} (hty : ty ≠ .int32) :
    signBits (tyFmt ty) true + (tyFmt ty).infBits = 2 ^ (tyWidth ty - 1) + (tyFmt ty).infBits := by
  cases ty with
  | int32 => exact absurd rfl hty
  | _ => rfl

theorem rmax_nil {ty : Ty} {mask : Nat} {v : VWord} (h : (List.range (lanes ty)).filter (fun i => active mask i) = []) :
    rmax ty mask v = if ty = .int32 then 2 ^ 31 else 2 ^ (tyWidth ty - 1) + (tyFmt ty).infBits := by
  rw [rmax, h]
  refine if_ctx_congr Iff.rfl (fun _ => rfl) fun hty => ?_
  exact minusInf_eq hty

theorem rmax_cons {ty : Ty} {mask : Nat} {v : VWord} {i : Nat} {l : List Nat}
    (h : (List.range (lanes ty)).filter (fun i => active mask i) = i :: l) :
    rmax ty mask v = (l.map (lane ty v)).foldl (laneMax ty) (laneMax ty (lane ty v i) (lane ty v i)) := by
  rw [rmax, h]
  rfl

theorem laneAdd_int (p q : Nat) : laneAdd .int32 p q = (p + q) % 2 ^ 32 := rfl
theorem laneSub_int (p q : Nat) : laneSub .int32 p q = (p + (2 ^ 32 - q % 2 ^ 32)) % 2 ^ 32 := rfl
theorem laneMul_int (p q : Nat) : laneMul .int32 p q = p * q % 2 ^ 32 := rfl
theorem laneFma_int (p q r : Nat) : laneFma .int32 p q r = (p * q + r) % 2 ^ 32 := rfl

theorem laneAdd_float {ty : Ty} (hty : ty ≠ .int32) (p q : Nat) :
    laneAdd ty p q = encodeF (tyFmt ty) ((decodeF (tyFmt ty) p).add (decodeF (tyFmt ty) q)) := if_neg hty
theorem laneSub_float {ty : Ty} (hty : ty ≠ .int32) (p q : Nat) :
    laneSub ty p q = encodeF (tyFmt ty) ((decodeF (tyFmt ty) p).add (decodeF (tyFmt ty) q).neg) := if_neg hty
theorem laneMul_float {ty : Ty} (hty : ty ≠ .int32) (p q : Nat) :
    laneMul ty p q = encodeF (tyFmt ty) ((decodeF (tyFmt ty) p).mul (decodeF (tyFmt ty) q)) := if_neg hty
theorem laneFma_float {ty : Ty} (hty : ty ≠ .int32) (p q r : Nat) : laneFma ty p q r =
    encodeF (tyFmt ty) (((decodeF (tyFmt ty) p).mul (decodeF (tyFmt ty) q)).add (decodeF (tyFmt ty) r)) := if_neg hty

/-- The choice of VMAX or VMIN between words by a relation of their numbers. -/
theorem lanePick_int_of {pk : FVal → FVal → Bool} {lt : Word → Word → Prop} [DecidableRel lt] {p q : Word}
    (hpk : pk (decodeInt 32 p.toNat) (decodeInt 32 q.toNat) = decide (lt p q)) :
    lanePick .int32 pk p.toNat q.toNat = if lt p q then q.toNat else p.toNat := by
  rw [lanePick_int, hpk]
  exact if_congr decide_eq_true_iff rfl rfl

theorem laneMax_int (p q : Word) : laneMax .int32 p.toNat q.toNat =
    if (BitVec.ofNat 32 p.toNat).toInt < (BitVec.ofNat 32 q.toNat).toInt then q.toNat else p.toNat := by
  rw [BitVec.ofNat_toNat, BitVec.ofNat_toNat]
  exact lanePick_int_of (lt := fun p q => p.toInt < q.toInt) (below_decodeInt p q)

theorem laneMin_int (p q : Word) : laneMin .int32 p.toNat q.toNat =
    if (BitVec.ofNat 32 q.toNat).toInt < (BitVec.ofNat 32 p.toNat).toInt then q.toNat else p.toNat := by
  rw [BitVec.ofNat_toNat, BitVec.ofNat_toNat]
  exact lanePick_int_of (lt := fun p q => q.toInt < p.toInt) (below_decodeInt q p)

theorem laneSub_word (p q : Word) : BitVec.ofNat 32 (laneSub .int32 p.toNat q.toNat) = BitVec.ofNat 32 (p.toNat + (2 ^ 32 - q.toNat)) := by
  rw [laneSub_int, Nat.mod_eq_of_lt q.isLt, ofNat_mod_two_pow]

theorem laneMax_float {ty : Ty} (hty : ty ≠ .int32) (p q : Nat) : laneMax ty p q =
    if (decodeF (tyFmt ty) p).isNan then (if (decodeF (tyFmt ty) q).isNan then (tyFmt ty).nanBits else q)
    else if (decodeF (tyFmt ty) q).isNan then p
    else if (decodeF (tyFmt ty) p).below (decodeF (tyFmt ty) q) then q else p := lanePick_float hty _ p q
theorem laneMin_float {ty : Ty} (hty : ty ≠ .int32) (p q : Nat) : laneMin ty p q =
    if (decodeF (tyFmt ty) p).isNan then (if (decodeF (tyFmt ty) q).isNan then (tyFmt ty).nanBits else q)
    else if (decodeF (tyFmt ty) q).isNan then p
    else if (decodeF (tyFmt ty) q).below (decodeF (tyFmt ty) p) then q else p := lanePick_float hty _ p q

end Sys2Proof.Machine
end

section
/-! The values near an exact result (R110, R111): the magnitudes of a format as rational numbers, which of them a lane of VEXP and of
VRCP may take, and the obligation O12. -/
namespace Sys2Proof.Machine

open Sys2Proof.Safety

/-! ## The magnitudes of a format as rational numbers -/

/-- The value of magnitude bits `c`; those of the infinity stand for the power of two above the largest finite value. -/
def magRat (f : Fmt) (c : Nat) : ℚ :=
  if c / 2 ^ f.mbits = 0 then (c : ℚ) * 2 ^ f.lsb
  else ((2 ^ f.mbits + c % 2 ^ f.mbits : Nat) : ℚ) * 2 ^ (f.lsb + (c / 2 ^ f.mbits : Nat) - 1)

/-- The unit in the last place at `x`. -/
def ulpRat (f : Fmt) (x : ℚ) : ℚ := if x = 0 then 2 ^ f.lsb else 2 ^ max (Int.log 2 x - f.mbits) f.lsb

theorem two_zpow_pos (k : ℤ) : (0 : ℚ) < 2 ^ k := zpow_pos two_pos k

theorem two_zpow_add (a b : ℤ) : (2 : ℚ) ^ (a + b) = 2 ^ a * 2 ^ b := zpow_add₀ two_ne_zero a b

theorem two_zpow_le {a b : ℤ} : (2 : ℚ) ^ a ≤ 2 ^ b ↔ a ≤ b := zpow_le_zpow_iff_right₀ one_lt_two

theorem two_zpow_lt {a b : ℤ} : (2 : ℚ) ^ a < 2 ^ b ↔ a < b := zpow_lt_zpow_iff_right₀ one_lt_two

/-- A natural power of two as a factor. -/
theorem natCast_two_pow_mul (n : ℕ) (a : ℤ) : ((2 ^ n : ℕ) : ℚ) * 2 ^ a = 2 ^ (a + n) := by
  rw [add_comm, two_zpow_add, zpow_natCast]
  norm_num

theorem magVal_rat (f : Fmt) (c : Nat) : ((magVal f c).1 : ℚ) * 2 ^ (magVal f c).2 = magRat f c := by
  unfold magVal magRat
  split
  case isTrue h => rw [if_pos h]
  case isFalse h => rw [if_neg h]

/-- The magnitudes by their binade: `F` units of the binade `k`, up to the first of the next. -/
theorem magRat_binade (f : Fmt) {k F : Nat} (hF : F ≤ 2 ^ (f.mbits + 1)) (hk : k = 0 ∨ 2 ^ f.mbits ≤ F) :
    magRat f (k * 2 ^ f.mbits + F) = F * 2 ^ (f.lsb + k) := by
  have hpos := Nat.two_pow_pos f.mbits
  have htwo : 2 ^ (f.mbits + 1) = 2 ^ f.mbits * 2 := Nat.pow_succ 2 f.mbits
  obtain hlt | hge := Nat.lt_or_ge F (2 ^ f.mbits)
  · obtain rfl : k = 0 := hk.resolve_right (Nat.not_le.2 hlt)
    rw [magRat, Nat.zero_mul, Nat.zero_add, if_pos (Nat.div_eq_of_lt hlt), Int.natCast_zero, add_zero]
  · obtain rfl | hlt := Nat.eq_or_lt_of_le hF
    · have hc : k * 2 ^ f.mbits + 2 ^ (f.mbits + 1) = (k + 2) * 2 ^ f.mbits := by rw [htwo]; ring
      rw [hc, magRat, Nat.mul_div_cancel _ hpos, if_neg (by omega), Nat.mul_mod_left, Nat.add_zero, natCast_two_pow_mul,
        natCast_two_pow_mul]
      congr 1
      push_cast
      ring
    · obtain ⟨r, rfl⟩ := Nat.exists_eq_add_of_le hge
      have hr : r < 2 ^ f.mbits := by omega
      have hc : k * 2 ^ f.mbits + (2 ^ f.mbits + r) = 2 ^ f.mbits * (k + 1) + r := by ring
      rw [hc, magRat, Nat.mul_add_div hpos, Nat.div_eq_of_lt hr, if_neg (by omega), Nat.mul_add_mod, Nat.mod_eq_of_lt hr]
      congr 2
      push_cast
      ring

/-- Every magnitude lies in a binade. -/
theorem exists_binade (f : Fmt) (c : Nat) : ∃ k F, c = k * 2 ^ f.mbits + F ∧ F < 2 ^ (f.mbits + 1) ∧ (k = 0 ∨ 2 ^ f.mbits ≤ F) := by
  have htwo : 2 ^ (f.mbits + 1) = 2 ^ f.mbits * 2 := Nat.pow_succ 2 f.mbits
  have hmod := Nat.mod_lt c (Nat.two_pow_pos f.mbits)
  have hdiv := Nat.div_add_mod' c (2 ^ f.mbits)
  obtain hlt | hge := Nat.lt_or_ge c (2 ^ f.mbits)
  · exact ⟨0, c, by omega, by omega, .inl rfl⟩
  · have hq : 1 ≤ c / 2 ^ f.mbits := (Nat.one_le_div_iff (Nat.two_pow_pos _)).2 hge
    refine ⟨c / 2 ^ f.mbits - 1, 2 ^ f.mbits + c % 2 ^ f.mbits, ?_, by omega, .inr (by omega)⟩
    have hle : 2 ^ f.mbits ≤ c / 2 ^ f.mbits * 2 ^ f.mbits := Nat.le_mul_of_pos_left _ hq
    rw [Nat.sub_mul]
    omega

theorem magRat_strictMono (f : Fmt) : StrictMono (magRat f) := by
  refine strictMono_nat_of_lt_succ fun c => ?_
  obtain ⟨k, F, rfl, hF, hk⟩ := exists_binade f c
  rw [Nat.add_assoc, magRat_binade f hF.le hk, magRat_binade f hF (hk.imp_right Nat.le_succ_of_le)]
  exact mul_lt_mul_of_pos_right (by exact_mod_cast Nat.lt_succ_self F) (two_zpow_pos _)

theorem magRat_infBits {f : Fmt} (he : 1 ≤ f.ebits) : magRat f f.infBits = 2 ^ (f.lsb + (2 ^ f.ebits - 2 : Nat) + f.mbits) := by
  have htwo : 2 ≤ 2 ^ f.ebits := Nat.pow_le_pow_right (n := 2) (by decide) he
  have hinf : f.infBits = (2 ^ f.ebits - 2) * 2 ^ f.mbits + 2 ^ f.mbits := by
    rw [Fmt.infBits, ← Nat.succ_mul]
    congr 1
    omega
  rw [hinf, magRat_binade f (Nat.pow_le_pow_right (by decide) (Nat.le_succ _)) (.inr le_rfl), natCast_two_pow_mul]

/-! ## The unit in the last place -/

/-- The binary logarithm of an integer times a power of two. -/
theorem log_mul_two_zpow {m : Nat} (hm : m ≠ 0) (e : ℤ) : Int.log 2 ((m : ℚ) * 2 ^ e) = e + Nat.log2 m := by
  have hlo : ((2 ^ Nat.log2 m : ℕ) : ℚ) * 2 ^ e ≤ m * 2 ^ e :=
    mul_le_mul_of_nonneg_right (by exact_mod_cast Nat.log2_self_le hm) (two_zpow_pos e).le
  have hhi : (m : ℚ) * 2 ^ e < ((2 ^ (Nat.log2 m + 1) : ℕ) : ℚ) * 2 ^ e :=
    mul_lt_mul_of_pos_right (by exact_mod_cast Nat.lt_log2_self) (two_zpow_pos e)
  have hpos : 0 < (m : ℚ) * 2 ^ e := mul_pos (by exact_mod_cast Nat.pos_of_ne_zero hm) (two_zpow_pos e)
  rw [natCast_two_pow_mul] at hlo hhi
  have h1 := (Int.zpow_le_iff_le_log (b := 2) (by decide) hpos).1 (by exact_mod_cast hlo)
  have h2 := (Int.lt_zpow_iff_log_lt (b := 2) (by decide) hpos).1 (by exact_mod_cast hhi)
  push_cast at h2
  omega

theorem ulpRat_eq (f : Fmt) (m : Nat) (e : ℤ) : ulpRat f ((m : ℚ) * 2 ^ e) = 2 ^ ulpAt f m e := by
  rw [ulpRat, ulpAt]
  by_cases hm : m = 0
  · subst hm
    rw [if_pos (by simp), if_pos rfl]
  · have hne : (m : ℚ) * 2 ^ e ≠ 0 := mul_ne_zero (by exact_mod_cast hm) (two_zpow_pos e).ne'
    rw [if_neg hne, if_neg hm, log_mul_two_zpow hm]

/-! ## The magnitude at or next below a value -/

/-- Whole units of `2^q` in `m × 2^e`, as `floorMag` counts them. -/
def unitsAt (m : Nat) (e q : ℤ) : Nat :=
  if q ≤ e then m * 2 ^ (e - q).toNat else if (q - e).toNat > Nat.log2 m + 2 then 0 else m / 2 ^ (q - e).toNat

theorem floorMag_eq {f : Fmt} {m : Nat} {e : ℤ} (h : ¬ulpAt f m e - f.lsb > 4096) :
    floorMag f m e = (ulpAt f m e - f.lsb).toNat * 2 ^ f.mbits + unitsAt m e (ulpAt f m e) := if_neg h

theorem unitsAt_bounds (m : Nat) (e q : ℤ) :
    (unitsAt m e q : ℚ) * 2 ^ q ≤ m * 2 ^ e ∧ (m : ℚ) * 2 ^ e < (unitsAt m e q + 1 : Nat) * 2 ^ q := by
  generalize hU : unitsAt m e q = F
  rw [unitsAt] at hU
  by_cases hq : q ≤ e
  · have hF : F = m * 2 ^ (e - q).toNat := hU.symm.trans (if_pos hq)
    have he : (e - q).toNat + q = e := by omega
    have heq : (F : ℚ) * 2 ^ q = m * 2 ^ e := by
      rw [hF, Nat.cast_mul, mul_assoc, natCast_two_pow_mul]
      congr 2
      omega
    refine ⟨heq.le, ?_⟩
    rw [← heq]
    exact mul_lt_mul_of_pos_right (by exact_mod_cast Nat.lt_succ_self F) (two_zpow_pos q)
  · have hsplit : (2 : ℚ) ^ q = ((2 ^ (q - e).toNat : ℕ) : ℚ) * 2 ^ e := by
      rw [natCast_two_pow_mul]
      congr 1
      omega
    have hF : F = m / 2 ^ (q - e).toNat := by
      by_cases hbig : (q - e).toNat > Nat.log2 m + 2
      · have h0 : F = 0 := hU.symm.trans ((if_neg hq).trans (if_pos hbig))
        rw [h0, Nat.div_eq_of_lt]
        exact Nat.lt_log2_self.trans_le (Nat.pow_le_pow_right (by decide) (by omega))
      · exact hU.symm.trans ((if_neg hq).trans (if_neg hbig))
    have hlo : F * 2 ^ (q - e).toNat ≤ m := by rw [hF]; exact Nat.div_mul_le_self _ _
    have hhi : m < (F + 1) * 2 ^ (q - e).toNat := by rw [hF, Nat.mul_comm]; exact Nat.lt_mul_div_succ m (Nat.two_pow_pos _)
    rw [hsplit, ← mul_assoc, ← mul_assoc, ← Nat.cast_mul, ← Nat.cast_mul]
    exact ⟨mul_le_mul_of_nonneg_right (by exact_mod_cast hlo) (two_zpow_pos e).le,
      mul_lt_mul_of_pos_right (by exact_mod_cast hhi) (two_zpow_pos e)⟩

/-- The value and the power of two of its unit: at a unit above the least one the value fills its binade. -/
theorem ulpAt_bounds (f : Fmt) (m : Nat) (e : ℤ) : f.lsb ≤ ulpAt f m e ∧ (m : ℚ) * 2 ^ e < 2 ^ (ulpAt f m e + (f.mbits + 1 : Nat)) ∧
    (f.lsb < ulpAt f m e → (2 : ℚ) ^ (ulpAt f m e + f.mbits) ≤ m * 2 ^ e) := by
  by_cases hm : m = 0
  · have hu : ulpAt f m e = f.lsb := if_pos hm
    rw [hu, hm]
    refine ⟨le_rfl, ?_, fun h => absurd h (lt_irrefl _)⟩
    rw [Nat.cast_zero, zero_mul]
    exact two_zpow_pos _
  · have hu : ulpAt f m e = max (e + (Nat.log2 m : Int) - f.mbits) f.lsb := if_neg hm
    have hlo : ((2 ^ Nat.log2 m : ℕ) : ℚ) * 2 ^ e ≤ m * 2 ^ e :=
      mul_le_mul_of_nonneg_right (by exact_mod_cast Nat.log2_self_le hm) (two_zpow_pos e).le
    have hhi : (m : ℚ) * 2 ^ e < ((2 ^ (Nat.log2 m + 1) : ℕ) : ℚ) * 2 ^ e :=
      mul_lt_mul_of_pos_right (by exact_mod_cast Nat.lt_log2_self) (two_zpow_pos e)
    rw [natCast_two_pow_mul] at hlo hhi
    refine ⟨by omega, hhi.trans_le (two_zpow_le.2 ?_), fun h => (two_zpow_le.2 ?_).trans hlo⟩
    · push_cast
      omega
    · omega

/-- The magnitude at or next below a value, unless the value is far above the largest finite one: its units and its binade. -/
theorem floorMag_binade (f : Fmt) (m : Nat) (e : ℤ) (h : ¬ulpAt f m e - f.lsb > 4096) :
    ∃ k F : Nat, floorMag f m e = k * 2 ^ f.mbits + F ∧ F < 2 ^ (f.mbits + 1) ∧ (k = 0 ∨ 2 ^ f.mbits ≤ F) ∧
      ulpAt f m e = f.lsb + k ∧ (F : ℚ) * 2 ^ ulpAt f m e ≤ m * 2 ^ e ∧ (m : ℚ) * 2 ^ e < (F + 1 : Nat) * 2 ^ ulpAt f m e := by
  obtain ⟨hlsb, hlt, hfull⟩ := ulpAt_bounds f m e
  obtain ⟨hlo, hhi⟩ := unitsAt_bounds m e (ulpAt f m e)
  refine ⟨_, _, floorMag_eq h, ?_, ?_, by omega, hlo, hhi⟩
  · have hF := hlo.trans_lt hlt
    rw [← natCast_two_pow_mul] at hF
    exact_mod_cast lt_of_mul_lt_mul_right hF (two_zpow_pos _).le
  · obtain heq | hgt := hlsb.eq_or_lt
    · exact .inl (by omega)
    · have hF := (hfull hgt).trans_lt hhi
      rw [← natCast_two_pow_mul] at hF
      have : 2 ^ f.mbits < unitsAt m e (ulpAt f m e) + 1 := by exact_mod_cast lt_of_mul_lt_mul_right hF (two_zpow_pos _).le
      exact .inr (Nat.lt_succ_iff.1 this)

/-- The formats of the lanes: at most eight exponent bits. -/
theorem ebits_tyFmt (ty : Ty) : 1 ≤ (tyFmt ty).ebits ∧ (tyFmt ty).ebits ≤ 8 := by cases ty <;> decide

/-- A value whose floor is not finite lies at or above the power of two above the largest finite value. -/
theorem infBits_le_floorMag {f : Fmt} (he : 1 ≤ f.ebits) (he8 : f.ebits ≤ 8) (m : Nat) (e : ℤ) :
    f.infBits ≤ floorMag f m e ↔ magRat f f.infBits ≤ m * 2 ^ e := by
  by_cases h : ulpAt f m e - f.lsb > 4096
  · obtain ⟨-, -, hfull⟩ := ulpAt_bounds f m e
    have hfl : floorMag f m e = f.infBits := if_pos h
    have hexp : 2 ^ f.ebits ≤ 2 ^ 8 := Nat.pow_le_pow_right (by decide) he8
    rw [hfl, magRat_infBits he]
    exact iff_of_true le_rfl ((two_zpow_le.2 (by omega)).trans (hfull (by omega)))
  · obtain ⟨k, F, hfl, hF, hk, hu, hlo, hhi⟩ := floorMag_binade f m e h
    have hval := magRat_binade f hF.le hk
    have hnext := magRat_binade f hF (hk.imp_right Nat.le_succ_of_le)
    rw [hu] at hlo hhi
    rw [hfl]
    constructor
    · intro hle
      exact ((magRat_strictMono f).monotone hle).trans (hval.trans_le hlo)
    · intro hle
      have hlt : magRat f f.infBits < magRat f (k * 2 ^ f.mbits + (F + 1)) := hle.trans_lt (hnext.symm ▸ hhi)
      have := (magRat_strictMono f).lt_iff_lt.1 hlt
      omega

theorem magRat_floorMag {f : Fmt} (he : 1 ≤ f.ebits) (he8 : f.ebits ≤ 8) {m : Nat} {e : ℤ} (h : floorMag f m e < f.infBits) :
    |magRat f (floorMag f m e) - m * 2 ^ e| ≤ 2 ^ ulpAt f m e := by
  have hq : ¬ulpAt f m e - f.lsb > 4096 := fun hq => h.ne (if_pos hq)
  obtain ⟨k, F, hfl, hF, hk, hu, hlo, hhi⟩ := floorMag_binade f m e hq
  rw [hfl, magRat_binade f hF.le hk, ← hu, abs_sub_comm, abs_of_nonneg (sub_nonneg.2 hlo)]
  push_cast at hhi
  linarith

/-! ## The magnitudes within some units of a value -/

theorem scaled_rat (m : Nat) {e lo : ℤ} (h : lo ≤ e) : ((scaled false m e lo : ℤ) : ℚ) * 2 ^ lo = m * 2 ^ e := by
  have he : e = lo + (e - lo).toNat := by omega
  rw [scaled]
  push_cast
  rw [mul_assoc, ← zpow_natCast, ← two_zpow_add, add_comm, ← he]

theorem within_iff (f : Fmt) (n m : Nat) (e : ℤ) (c : Nat) :
    within f n m e c = true ↔ |magRat f c - m * 2 ^ e| ≤ n * 2 ^ ulpAt f m e := by
  have hdef : within f n m e c = decide ((scaled false (magVal f c).1 (magVal f c).2 (min (magVal f c).2 (min e (ulpAt f m e))) -
      scaled false m e (min (magVal f c).2 (min e (ulpAt f m e)))).natAbs ≤
        n * 2 ^ (ulpAt f m e - min (magVal f c).2 (min e (ulpAt f m e))).toNat) := rfl
  rw [hdef, decide_eq_true_iff, ← magVal_rat]
  have hv : min (magVal f c).2 (min e (ulpAt f m e)) ≤ (magVal f c).2 := min_le_left _ _
  have he : min (magVal f c).2 (min e (ulpAt f m e)) ≤ e := (min_le_right _ _).trans (min_le_left _ _)
  have hu : min (magVal f c).2 (min e (ulpAt f m e)) ≤ ulpAt f m e := (min_le_right _ _).trans (min_le_right _ _)
  generalize min (magVal f c).2 (min e (ulpAt f m e)) = lo at hv he hu
  have hpow : (2 : ℚ) ^ ulpAt f m e = ((2 ^ (ulpAt f m e - lo).toNat : ℕ) : ℚ) * 2 ^ lo := by
    rw [natCast_two_pow_mul]
    congr 1
    omega
  rw [← scaled_rat _ hv, ← scaled_rat _ he, hpow, ← sub_mul, abs_mul, abs_of_pos (two_zpow_pos lo), ← mul_assoc,
    mul_le_mul_iff_left₀ (two_zpow_pos lo)]
  rw [← Int.cast_sub, ← Int.cast_abs, Int.abs_eq_natAbs]
  norm_cast

/-- Magnitude bits `c` lie within `n` units of `x`, and are those of the infinity from the power of two above the largest finite value on. -/
def NearMag (f : Fmt) (n : Nat) (x : ℚ) (c : Nat) : Prop :=
  c ≤ f.infBits ∧ if x < magRat f f.infBits then |magRat f c - x| ≤ (n : ℚ) * ulpRat f x else c = f.infBits

theorem pickOf_mem {l : List Nat} (hl : l ≠ []) (k : Nat) : pickOf l k ∈ l := by
  have hlt : k % l.length < l.length := Nat.mod_lt _ (List.length_pos_iff.2 hl)
  rw [pickOf, List.getD_eq_getElem l 0 hlt]
  exact List.getElem_mem hlt

theorem near_of_mem_nearMags {f : Fmt} (he : 1 ≤ f.ebits) (he8 : f.ebits ≤ 8) {n m c : Nat} {e : ℤ} (hc : c ∈ nearMags f n m e) :
    NearMag f n (m * 2 ^ e) c := by
  have hdef := infBits_le_floorMag he he8 m e
  unfold nearMags at hc
  simp only at hc
  split at hc
  case isTrue hinf =>
    obtain rfl := List.mem_singleton.1 hc
    exact ⟨le_rfl, by rw [if_neg (not_lt.2 (hdef.1 hinf))]⟩
  case isFalse hfin =>
    obtain ⟨i, hi, rfl⟩ := List.mem_map.1 hc
    have hcond := (List.mem_filter.1 hi).2
    simp only [Bool.and_eq_true, decide_eq_true_iff] at hcond
    obtain ⟨⟨-, hle⟩, hw⟩ := hcond
    refine ⟨hle, ?_⟩
    rw [if_pos (not_le.1 fun hge => hfin (hdef.2 hge)), ulpRat_eq]
    exact (within_iff f n m e _).1 hw

theorem nearMags_ne_nil {f : Fmt} (he : 1 ≤ f.ebits) (he8 : f.ebits ≤ 8) {n : Nat} (hn : 1 ≤ n) (m : Nat) (e : ℤ) : nearMags f n m e ≠ [] := by
  unfold nearMags
  simp only
  split
  case isTrue => exact List.cons_ne_nil _ _
  case isFalse hfin =>
    have hb := Nat.not_le.1 hfin
    have hw : within f n m e (floorMag f m e) = true := (within_iff f n m e _).2 ((magRat_floorMag he he8 hb).trans
      (le_mul_of_one_le_left (two_zpow_pos _).le (by exact_mod_cast hn)))
    refine List.ne_nil_of_mem (List.mem_map_of_mem (a := 2 * n) (List.mem_filter.2 ⟨List.mem_range.2 (by omega), ?_⟩))
    have h1 : 2 * n ≤ floorMag f m e + 2 * n := Nat.le_add_left _ _
    have h2 : floorMag f m e + 2 * n - 2 * n ≤ f.infBits := by omega
    rw [decide_eq_true h1, decide_eq_true h2, Nat.add_sub_cancel, hw]
    rfl

theorem near_pickOf {f : Fmt} (he : 1 ≤ f.ebits) (he8 : f.ebits ≤ 8) {n : Nat} (hn : 1 ≤ n) (m : Nat) (e : ℤ) (k : Nat) :
    NearMag f n (m * 2 ^ e) (pickOf (nearMags f n m e) k) :=
  near_of_mem_nearMags he he8 (pickOf_mem (nearMags_ne_nil he he8 hn m e) k)

/-! ## The reciprocal: a quotient with a sticky bit stands for the exact one -/

/-- A quotient rounded down to an even number of half units, with a last bit that says it was not exact, lies on the same side of
every whole number of units as the exact quotient. -/
theorem sticky_le_iff {n d G : ℤ} (hd : 0 < d) :
    (2 * G ≤ 2 * (n / d) + (if n % d = 0 then 0 else 1) ↔ G * d ≤ n) ∧ (2 * (n / d) + (if n % d = 0 then 0 else 1) ≤ 2 * G ↔ n ≤ G * d) := by
  have hdm := Int.mul_ediv_add_emod n d
  have hnn := Int.emod_nonneg n hd.ne'
  constructor
  · rw [← Int.le_ediv_iff_mul_le hd]
    split <;> omega
  · split
    case isTrue h =>
      rw [h, add_zero] at hdm
      rw [add_zero, Int.mul_le_mul_left (by decide), ← hdm, Int.mul_ediv_cancel_left _ hd.ne', mul_comm, mul_le_mul_iff_left₀ hd]
    case isFalse h =>
      have hle : n ≤ G * d ↔ n / d < G := by
        rw [Int.ediv_lt_iff_lt_mul hd]
        refine ⟨fun hle => lt_of_le_of_ne hle fun heq => h ?_, le_of_lt⟩
        rw [heq, Int.mul_emod_left]
      rw [hle]
      omega

/-- The sticky quotient as an integer. -/
theorem natCast_sticky (n d : Nat) :
    ((2 * (n / d) + b2n (decide (n % d ≠ 0)) : Nat) : ℤ) = 2 * ((n : ℤ) / d) + (if (n : ℤ) % d = 0 then 0 else 1) := by
  by_cases h0 : n % d = 0
  · have h0' : (n : ℤ) % d = 0 := by exact_mod_cast h0
    simp [h0, h0', b2n]
  · have h0' : ¬(n : ℤ) % d = 0 := by exact_mod_cast h0
    simp [h0, h0', b2n]

/-- Fraction bits of the quotient that stands for a reciprocal. -/
def rcpBits (m : Nat) : Nat := Nat.log2 m + 64

theorem divMag_one (m : Nat) : divMag 1 m =
    (2 * (2 ^ rcpBits m / m) + b2n (decide (2 ^ rcpBits m % m ≠ 0)), -(rcpBits m : ℤ) - 1) :=
  congrArg (fun n => (2 * (n / m) + b2n (decide (n % m ≠ 0)), -(rcpBits m : ℤ) - 1)) (Nat.one_mul (2 ^ rcpBits m))

/-- The reciprocal that VRCP rounds, against the exact one: alike with every multiple of the unit of its quotient. -/
theorem divMag_compare {m : Nat} (hm : m ≠ 0) (e : ℤ) (G : ℤ) :
    ((G : ℚ) * 2 ^ (-(rcpBits m : ℤ) - e) ≤ ((divMag 1 m).1 : ℚ) * 2 ^ ((divMag 1 m).2 - e) ↔
      (G : ℚ) * 2 ^ (-(rcpBits m : ℤ) - e) ≤ 1 / ((m : ℚ) * 2 ^ e)) ∧
    (((divMag 1 m).1 : ℚ) * 2 ^ ((divMag 1 m).2 - e) ≤ (G : ℚ) * 2 ^ (-(rcpBits m : ℤ) - e) ↔
      1 / ((m : ℚ) * 2 ^ e) ≤ (G : ℚ) * 2 ^ (-(rcpBits m : ℤ) - e)) := by
  rw [divMag_one]
  generalize rcpBits m = k
  have hd : (0 : ℤ) < m := by exact_mod_cast Nat.pos_of_ne_zero hm
  have hdq : (0 : ℚ) < m := by exact_mod_cast Nat.pos_of_ne_zero hm
  obtain ⟨h1, h2⟩ := sticky_le_iff (n := ((2 ^ k : ℕ) : ℤ)) (G := G) hd
  have hscale : (1 : ℚ) / (m * 2 ^ e) = 2 * (2 ^ k / m) * 2 ^ (-(k : ℤ) - 1 - e) := by
    rw [zpow_sub₀ two_ne_zero, zpow_sub₀ two_ne_zero, zpow_neg, zpow_natCast]
    field_simp
  have hG : (G : ℚ) * 2 ^ (-(k : ℤ) - e) = (2 * G : ℤ) * 2 ^ (-(k : ℤ) - 1 - e) := by
    rw [show -(k : ℤ) - e = 1 + (-(k : ℤ) - 1 - e) by ring, two_zpow_add]
    push_cast
    ring
  have hqq (q : ℕ) : (q : ℚ) = ((q : ℤ) : ℚ) := by norm_cast
  rw [hscale, hG, hqq, mul_le_mul_iff_left₀ (two_zpow_pos _), mul_le_mul_iff_left₀ (two_zpow_pos _), mul_le_mul_iff_left₀ (two_zpow_pos _),
    mul_le_mul_iff_left₀ (two_zpow_pos _), Int.cast_le, Int.cast_le, natCast_sticky, h1, h2]
  push_cast
  rw [mul_le_mul_iff_right₀ two_pos, mul_le_mul_iff_right₀ two_pos, le_div_iff₀ hdq, div_le_iff₀ hdq]
  norm_cast

/-- A power of two of a larger exponent as a multiple. -/
theorem two_zpow_multiple (N : ℤ) {a b : ℤ} (h : a ≤ b) : ∃ G : ℤ, (N : ℚ) * 2 ^ b = G * 2 ^ a := by
  refine ⟨N * 2 ^ (b - a).toNat, ?_⟩
  have hb : (2 : ℚ) ^ b = ((2 ^ (b - a).toNat : ℕ) : ℚ) * 2 ^ a := by
    rw [natCast_two_pow_mul]
    congr 1
    omega
  rw [hb]
  push_cast
  ring

/-- A magnitude within a unit of `x` is a multiple of half that unit. -/
theorem magRat_multiple {f : Fmt} (hm : 2 ≤ f.mbits) {x : ℚ} {l : ℤ} (hl : (2 : ℚ) ^ l ≤ x) {c : Nat}
    (hc : |magRat f c - x| ≤ 2 ^ max (l - f.mbits) f.lsb) : ∃ N : ℤ, magRat f c = N * 2 ^ (max (l - f.mbits) f.lsb - 1) := by
  obtain ⟨k, F, rfl, hF, hk⟩ := exists_binade f c
  rw [magRat_binade f hF.le hk] at hc ⊢
  refine two_zpow_multiple F ?_
  obtain hle | hlt := le_or_gt (l - f.mbits) f.lsb
  · omega
  rw [max_eq_left hlt.le] at hc ⊢
  have hhalf : (2 : ℚ) ^ (l - f.mbits) ≤ 2 ^ (l - 1) := two_zpow_le.2 (by omega)
  have hdouble : (2 : ℚ) ^ l = 2 * 2 ^ (l - 1) := by rw [zpow_sub_one₀ two_ne_zero]; ring
  have hlow : (2 : ℚ) ^ (l - 1) ≤ F * 2 ^ (f.lsb + k) := by
    have := (abs_le.1 hc).1
    linarith
  have hup : (F : ℚ) * 2 ^ (f.lsb + k) < ((2 ^ (f.mbits + 1) : ℕ) : ℚ) * 2 ^ (f.lsb + k) :=
    mul_lt_mul_of_pos_right (by exact_mod_cast hF) (two_zpow_pos _)
  rw [natCast_two_pow_mul] at hup
  have := two_zpow_lt.1 (hlow.trans_lt hup)
  push_cast at this
  omega

/-- Nearness to a value carries over to one that compares alike with every multiple of a small power of two. -/
theorem NearMag.congr {f : Fmt} (he : 1 ≤ f.ebits) (hm : 2 ≤ f.mbits) {x y : ℚ} {r : ℤ} {c : Nat}
    (hcmp : ∀ G : ℤ, ((G : ℚ) * 2 ^ r ≤ x ↔ (G : ℚ) * 2 ^ r ≤ y) ∧ (x ≤ (G : ℚ) * 2 ^ r ↔ y ≤ (G : ℚ) * 2 ^ r))
    (hbig : (2 : ℚ) ^ (r + f.mbits + 1) ≤ y) (h : NearMag f 1 x c) : NearMag f 1 y c := by
  have hpow (j : ℤ) : (2 : ℚ) ^ j ≤ x ↔ (2 : ℚ) ^ j ≤ y := by
    obtain hle | hlt := le_or_gt r j
    · obtain ⟨G, hG⟩ := two_zpow_multiple 1 hle
      rw [Int.cast_one, one_mul] at hG
      rw [hG]
      exact (hcmp G).1
    · have hy : (2 : ℚ) ^ r ≤ y := (two_zpow_le.2 (by omega)).trans hbig
      have hx : (2 : ℚ) ^ r ≤ x := by
        have := (hcmp 1).1
        rw [Int.cast_one, one_mul] at this
        exact this.2 hy
      have hj := two_zpow_le.2 hlt.le
      exact iff_of_true (hj.trans hx) (hj.trans hy)
  have hy : 0 < y := (two_zpow_pos _).trans_le hbig
  have hx : 0 < x := (two_zpow_pos _).trans_le ((hpow _).2 hbig)
  have hlog : Int.log 2 x = Int.log 2 y := by
    have hiff (j : ℤ) : j ≤ Int.log 2 x ↔ j ≤ Int.log 2 y := by
      rw [← Int.zpow_le_iff_le_log (by decide) hx, ← Int.zpow_le_iff_le_log (by decide) hy]
      exact hpow j
    exact le_antisymm ((hiff _).1 le_rfl) ((hiff _).2 le_rfl)
  obtain ⟨hle, hnear⟩ := h
  refine ⟨hle, ?_⟩
  rw [magRat_infBits he] at hnear ⊢
  have hfin := not_congr (hpow (f.lsb + (2 ^ f.ebits - 2 : Nat) + f.mbits))
  rw [not_le, not_le] at hfin
  rw [if_congr hfin rfl rfl] at hnear
  split at hnear
  case isFalse hinf => rwa [if_neg hinf]
  case isTrue hlt =>
    rw [if_pos hlt]
    have hl : (2 : ℚ) ^ Int.log 2 x ≤ x := by exact_mod_cast Int.zpow_log_le_self (b := 2) (by decide) hx
    have hlogy : r + f.mbits + 1 ≤ Int.log 2 y := (Int.zpow_le_iff_le_log (b := 2) (by decide) hy).1 (by exact_mod_cast hbig)
    rw [ulpRat, if_neg hx.ne', Nat.cast_one, one_mul] at hnear
    rw [ulpRat, if_neg hy.ne', Nat.cast_one, one_mul, ← hlog]
    obtain ⟨N, hN⟩ := magRat_multiple hm hl hnear
    have hunit : (2 : ℚ) ^ max (Int.log 2 x - f.mbits) f.lsb = 2 * 2 ^ (max (Int.log 2 x - f.mbits) f.lsb - 1) := by
      rw [zpow_sub_one₀ two_ne_zero]; ring
    obtain ⟨G₁, hG₁⟩ := two_zpow_multiple (N - 2) (a := r) (b := max (Int.log 2 x - f.mbits) f.lsb - 1) (by omega)
    obtain ⟨G₂, hG₂⟩ := two_zpow_multiple (N + 2) (a := r) (b := max (Int.log 2 x - f.mbits) f.lsb - 1) (by omega)
    have hlow : magRat f c - 2 ^ max (Int.log 2 x - f.mbits) f.lsb = G₁ * 2 ^ r := by
      rw [hN, hunit, ← hG₁]; push_cast; ring
    have hhigh : magRat f c + 2 ^ max (Int.log 2 x - f.mbits) f.lsb = G₂ * 2 ^ r := by
      rw [hN, hunit, ← hG₂]; push_cast; ring
    obtain ⟨ha, hb⟩ := abs_le.1 hnear
    have h1 := (hcmp G₁).1.1 (by rw [← hlow]; linarith)
    have h2 := (hcmp G₂).2.1 (by rw [← hhigh]; linarith)
    rw [← hlow] at h1
    rw [← hhigh] at h2
    exact abs_le.2 ⟨by linarith, by linarith⟩

/-- The magnitudes that VRCP may give lie within a unit of the reciprocal. -/
theorem near_reciprocal {f : Fmt} (he : 1 ≤ f.ebits) (he8 : f.ebits ≤ 8) (hm2 : 2 ≤ f.mbits) (hm : f.mbits ≤ 60) {m : Nat} (h0 : m ≠ 0)
    (e : ℤ) (k : Nat) :
    NearMag f 1 (1 / ((m : ℚ) * 2 ^ e)) (pickOf (nearMags f 1 (divMag 1 m).1 ((divMag 1 m).2 - e)) k) := by
  refine (near_pickOf he he8 le_rfl _ _ k).congr he hm2 (divMag_compare h0 e) ?_
  have hpos : (0 : ℚ) < m * 2 ^ e := mul_pos (by exact_mod_cast Nat.pos_of_ne_zero h0) (two_zpow_pos e)
  have hhi : (m : ℚ) * 2 ^ e < ((2 ^ (Nat.log2 m + 1) : ℕ) : ℚ) * 2 ^ e :=
    mul_lt_mul_of_pos_right (by exact_mod_cast Nat.lt_log2_self) (two_zpow_pos e)
  rw [natCast_two_pow_mul] at hhi
  rw [le_div_iff₀ hpos]
  refine (mul_le_mul_of_nonneg_left hhi.le (two_zpow_pos _).le).trans ?_
  rw [← two_zpow_add, ← zpow_zero (2 : ℚ), rcpBits]
  refine two_zpow_le.2 ?_
  push_cast
  omega

/-! ## VEXP and VRCP (R110, R111) -/

theorem expLane_nan {ty : Ty} {p : Nat} (h : decodeF (tyFmt ty) p = .nan) : expLane ty p = (tyFmt ty).nanBits := by
  simp only [expLane, h]

theorem expLane_inf {ty : Ty} {p : Nat} {neg : Bool} (h : decodeF (tyFmt ty) p = .inf neg) :
    expLane ty p = if neg then 0 else (tyFmt ty).infBits := by
  simp only [expLane, h]

theorem expLane_fin {ty : Ty} {p m : Nat} {neg b : Bool} {e g : ℤ} {k : Nat} (h : decodeF (tyFmt ty) p = .fin neg m e)
    (hv : expVal neg m e = .fin b k g) : expLane ty p = pickOf (nearMags (tyFmt ty) 2 k g) (Config.expPick (tyCode ty) p) := by
  simp only [expLane, h, hv]

theorem expLane_large {ty : Ty} {p m : Nat} {neg b : Bool} {e : ℤ} (h : decodeF (tyFmt ty) p = .fin neg m e)
    (hv : expVal neg m e = .inf b) : expLane ty p = (tyFmt ty).infBits := by
  simp only [expLane, h, hv]

/-- An exponential is a number that is not negative, or the infinity. -/
theorem expVal_cases (neg : Bool) (m : Nat) (e : ℤ) : (∃ k g, expVal neg m e = .fin false k g) ∨ expVal neg m e = .inf false := by
  unfold expVal
  split_ifs
  · exact .inl ⟨_, _, rfl⟩
  · exact .inl ⟨_, _, rfl⟩
  · exact .inr rfl
  · exact .inl ⟨_, _, rfl⟩
  · exact .inl ⟨_, _, rfl⟩

theorem rcpLane_nan {ty : Ty} {p : Nat} (h : decodeF (tyFmt ty) p = .nan) : rcpLane ty p = (tyFmt ty).nanBits := by
  simp only [rcpLane, h]

theorem rcpLane_inf {ty : Ty} {p : Nat} {neg : Bool} (h : decodeF (tyFmt ty) p = .inf neg) :
    rcpLane ty p = signBits (tyFmt ty) neg := by
  simp only [rcpLane, h]

theorem rcpLane_zero {ty : Ty} {p : Nat} {neg : Bool} {e : ℤ} (h : decodeF (tyFmt ty) p = .fin neg 0 e) :
    rcpLane ty p = signBits (tyFmt ty) neg + (tyFmt ty).infBits := by
  simp only [rcpLane, h, if_pos]

theorem rcpLane_fin {ty : Ty} {p m : Nat} {neg : Bool} {e : ℤ} (h : decodeF (tyFmt ty) p = .fin neg m e) (hm : m ≠ 0) :
    rcpLane ty p = signBits (tyFmt ty) neg +
      pickOf (nearMags (tyFmt ty) 1 (divMag 1 m).1 ((divMag 1 m).2 - e)) (Config.rcpPick (tyCode ty) p) := by
  simp only [rcpLane, h, if_neg hm]

theorem mbits_tyFmt (ty : Ty) : 2 ≤ (tyFmt ty).mbits ∧ (tyFmt ty).mbits ≤ 60 := by cases ty <;> decide

/-- Settles O12: the lanes of each result are read off the list that makes it; a lane of VEXP or VRCP is a choice among magnitudes
near the exact result, of which the one next below it is always there. -/
theorem vectorArithmetic : Obligations.VectorArithmetic := by
  unfold Obligations.VectorArithmetic
  refine ⟨fun s t h vd va vb m ty => ?results, ?bounds⟩
  case results =>
    intro x w a b o on gives lanewise low val rnd sgn h2
    have arith {i : Instr} {k : PWord} {ok : Bool} {f : Nat → Nat → Nat → Nat}
        (e : exec i s = .next (vArith t h k ok vd va vb m ty f s)) (hok : ok = true) (g : Nat → Nat → Nat → Nat)
        (hfg : ∀ p q r : BitVec w, BitVec.ofNat w (f p.toNat q.toNat r.toNat) = BitVec.ofNat w (g p.toNat q.toNat r.toNat)) :
        lanewise i g := fun hb ha => vArith_gives h2 hok ha hb e g hfg
    refine ⟨fun hty => ?ints, fun hty => ?floats, fun hl => ?vrsum, fun hl => ?vrmax⟩
    case ints =>
      subst hty
      refine ⟨arith (f := fun p q _ => laneAdd .int32 p q) rfl rfl (fun p q _ => p + q) fun p q _ => ofNat_mod_two_pow 32 _,
        arith (f := fun p q _ => laneSub .int32 p q) rfl rfl (fun p q _ => p + (2 ^ 32 - q)) fun p q _ => laneSub_word p q,
        arith (f := fun p q _ => laneMul .int32 p q) rfl rfl (fun p q _ => p * q) fun p q _ => ofNat_mod_two_pow 32 _,
        arith (f := fun p q r => laneFma .int32 p q r) rfl rfl (fun p q r => p * q + r) fun p q r => ofNat_mod_two_pow 32 _,
        arith (f := fun p q _ => laneMax .int32 p q) rfl rfl (fun p q _ => if sgn p < sgn q then q else p) fun p q _ => congrArg _ (laneMax_int p q),
        arith (f := fun p q _ => laneMin .int32 p q) rfl rfl (fun p q _ => if sgn q < sgn p then q else p) fun p q _ => congrArg _ (laneMin_int p q),
        arith (f := fun p q _ => p &&& q) rfl rfl (fun p q _ => p &&& q) fun _ _ _ => rfl,
        arith (f := fun p q _ => p ||| q) rfl rfl (fun p q _ => p ||| q) fun _ _ _ => rfl,
        arith (f := fun p q _ => p ^^^ q) rfl rfl (fun p q _ => p ^^^ q) fun _ _ _ => rfl⟩
    case floats =>
      have hok : (decide (ty ≠ .int32)) = true := decide_eq_true hty
      refine ⟨arith (f := fun p q _ => laneAdd ty p q) rfl rfl (fun p q _ => rnd ((val p).add (val q)))
          fun p q _ => congrArg _ (laneAdd_float hty _ _),
        arith (f := fun p q _ => laneSub ty p q) rfl rfl (fun p q _ => rnd ((val p).add (val q).neg))
          fun p q _ => congrArg _ (laneSub_float hty _ _),
        arith (f := fun p q _ => laneMul ty p q) rfl rfl (fun p q _ => rnd ((val p).mul (val q)))
          fun p q _ => congrArg _ (laneMul_float hty _ _),
        arith (f := fun p q r => laneFma ty p q r) rfl rfl (fun p q r => rnd (((val p).mul (val q)).add (val r)))
          fun p q r => congrArg _ (laneFma_float hty _ _ _),
        fun hb ha => ?max, fun hb ha => ?min,
        fun hl => vWhole_gives (s := s) (f := fun mask v => (List.range (lanes ty)).map fun i =>
          if active mask i then expLane ty (lane ty v i) else 0) h2 hok hl rfl (fun l => if on l then expLane ty (a l) else 0) ?exp,
        fun hl => vWhole_gives (s := s) (f := fun mask v => (List.range (lanes ty)).map fun i =>
          if active mask i then rcpLane ty (lane ty v i) else 0) h2 hok hl rfl (fun l => if on l then rcpLane ty (a l) else 0) ?rcp⟩
      case max =>
        have hret := arith (f := fun p q _ => laneMax ty p q) (i := .vmax t h vd va vb m ty) rfl rfl (fun p q _ => laneMax ty p q)
          (fun _ _ _ => rfl) hb ha
        simp only [laneMax_float hty] at hret
        exact hret
      case min =>
        have hret := arith (f := fun p q _ => laneMin ty p q) (i := .vmin t h vd va vb m ty) rfl rfl (fun p q _ => laneMin ty p q)
          (fun _ _ _ => rfl) hb ha
        simp only [laneMin_float hty] at hret
        exact hret
      case exp =>
        simp only [map_active_eq, lane_eq]
        rw [lanes_eq]
      case rcp =>
        simp only [map_active_eq, lane_eq]
        rw [lanes_eq]
    case vrsum =>
      refine vWhole_gives (f := fun mask v => laneZero ty (rsum ty mask v)) h2 rfl hl rfl _ ?_
      rw [laneZero_eq, rsum_eq]
    case vrmax =>
      refine vWhole_gives (f := fun mask v => laneZero ty (rmax ty mask v)) h2 rfl hl rfl _ ?_
      have hf := filter_active_eq (s.tile t) h m ty
      rw [laneZero_eq]
      cases hlist : (List.range (512 / w)).filter on with
      | nil => rw [rmax_nil (hf.trans hlist)]; rfl
      | cons i l => 
        rw [rmax_cons (hf.trans hlist), funext (lane_eq ty (x.getV va))] 
        rfl
  case bounds =>
    intro ty neg p hty f minus pow mag ulp near
    obtain ⟨he, he8⟩ := ebits_tyFmt ty
    obtain ⟨hm2, hm60⟩ := mbits_tyFmt ty
    refine ⟨fun h => ⟨expLane_nan h, rcpLane_nan h⟩, fun h => ⟨expLane_inf h, rcpLane_inf h⟩, fun e h => rcpLane_zero h,
      fun m e h hm => ⟨_, rcpLane_fin h hm, near_reciprocal he he8 hm2 hm60 hm e _⟩,
      fun m e h => ⟨fun b k g hv => ⟨?_, ?_⟩, fun b hv => expLane_large h hv, fun hv => ?_⟩⟩
    · obtain ⟨k', g', hc⟩ | hc := expVal_cases neg m e
      · exact (FVal.fin.inj (hv.symm.trans hc)).1
      · exact FVal.noConfusion (hv.symm.trans hc)
    · rw [expLane_fin h hv]
      exact near_pickOf he he8 (by decide) k g _
    · obtain ⟨k', g', hc⟩ | hc := expVal_cases neg m e
      · exact FVal.noConfusion (hv.symm.trans hc)
      · exact FVal.noConfusion (hv.symm.trans hc)

end Sys2Proof.Machine
end

section
/-! The traps of tile and queue instructions (R127, R128, R130, R216, R228, R234). From them the obligation O17. -/
namespace Sys2Proof.Machine

open Sys2Proof.Safety

/-- The trap of an instruction whose slot raises an exception of no address. -/
theorem raise_takes_of_ready {i : Instr} {s : State} {t : TileId} {h : Thr} {len : Nat} {f : State → State} {c : BitVec 5}
    (rd : Ready s t h len) (g : VectorsGood (s.tile t) c) (e : exec i s = .next (issue t h len f s)) (hf : f s = s.raise t h c 0 0) :
    Takes i s t h c (s.th t h).pc 0 0 := by
  rw [issue_of_ready rd, hf] at e
  exact State.raise_takes e g

/-! ## The checks of TLD and TST (R130) -/

theorem State.pieceFault_form {s : State} {t : TileId} {base : DWord} {stride : Word} {rows : Nat} (st : List (DWord × Nat)) (write : Bool)
    (hb : 2 ^ 48 ≤ base.toNat) : s.pieceFault t base stride rows st write = some (cForm, base) := by
  simp only [State.pieceFault, if_pos hb]

theorem State.pieceFault_last {s : State} {t : TileId} {base : DWord} {stride : Word} {rows : Nat} (st : List (DWord × Nat)) (write : Bool)
    (hb : base.toNat < 2 ^ 48) (hl : 2 ^ 48 ≤ (rowAddr base stride (rows - 1)).toNat) :
    s.pieceFault t base stride rows st write = some (cForm, rowAddr base stride (rows - 1)) := by
  simp only [State.pieceFault, if_neg (Nat.not_le.2 hb), if_pos hl]

theorem State.pieceFault_unaligned {s : State} {t : TileId} {base : DWord} {stride : Word} {rows : Nat} (st : List (DWord × Nat)) (write : Bool)
    (hb : base.toNat < 2 ^ 48) (hl : (rowAddr base stride (rows - 1)).toNat < 2 ^ 48)
    (ha : ¬(base.toNat % 4 = 0 ∧ stride.toNat % 4 = 0)) : s.pieceFault t base stride rows st write = some (cAlign, base) := by
  have hal : (decide (base.toNat % 4 ≠ 0) || decide (stride.toNat % 4 ≠ 0)) = true := by
    rw [← Bool.decide_or, decide_eq_true_iff]
    exact Classical.not_and_iff_not_or_not.1 ha
  simp only [State.pieceFault, if_neg (Nat.not_le.2 hb), if_neg (Nat.not_le.2 hl), if_pos hal]

/-- A transfer that is well formed faults at the first stretch that the own scratchpad does not hold, if there is one. -/
theorem State.pieceFault_of_formed {s : State} {t : TileId} {base : DWord} {stride : Word} {rows : Nat} (st : List (DWord × Nat)) (write : Bool)
    (hb : base.toNat < 2 ^ 48) (hl : (rowAddr base stride (rows - 1)).toNat < 2 ^ 48) (ha : base.toNat % 4 = 0) (hs : stride.toNat % 4 = 0) :
    s.pieceFault t base stride rows st write =
      (st.find? fun p => (s.ownOff t p.1 p.2 write).isNone).map fun p => (cAccess, p.1) := by
  have hal : ¬(decide (base.toNat % 4 ≠ 0) || decide (stride.toNat % 4 ≠ 0)) = true := by simp [ha, hs]
  simp only [State.pieceFault, if_neg (Nat.not_le.2 hb), if_neg (Nat.not_le.2 hl), if_neg hal, ← List.head?_filter]
  cases st.filter fun p => (s.ownOff t p.1 p.2 write).isNone <;> rfl

/-- The piece of this slot (R131). -/
def pieceOf (s : State) (t : TileId) (h : Thr) (k an x : Reg) : List (DWord × Nat) :=
  let r := (s.tile t).reg k
  let y := s.th t h
  stretches (y.getA an) (y.getD x) r.len y.moved (min 256 (r.rows * r.len - y.moved))

theorem tld_takes {s : State} {t : TileId} {h : Thr} {k an x : Reg} {c : BitVec 5} {a : DWord} (rd : Ready s t h 2)
    (g : VectorsGood (s.tile t) c)
    (hf : s.pieceFault t ((s.th t h).getA an) ((s.th t h).getD x) ((s.tile t).reg k).rows (pieceOf s t h k an x) false = some (c, a)) :
    Takes (.tld t h k an x) s t h c (s.th t h).pc 0 (a.setWidth 48) := by
  have e : exec (.tld t h k an x) s = execTld t h k an x s := rfl
  rw [pieceOf] at hf
  simp only [execTld, issue_of_ready rd, TileReg.size, hf, bits_zero_eq_setWidth] at e
  exact State.raise_takes e g

theorem tst_takes {s : State} {t : TileId} {h : Thr} {k an x : Reg} {c : BitVec 5} {a : DWord} (rd : Ready s t h 2)
    (g : VectorsGood (s.tile t) c) (hc : c = cAccess → (s.th t h).moved = 0 → (s.tile t).tpnd k = false)
    (hf : ∀ l, s.pieceFault t ((s.th t h).getA an) ((s.th t h).getD x) ((s.tile t).reg k).rows (pieceOf s t h k an x ++ l) true =
      some (c, a)) : Takes (.tst t h k an x) s t h c (s.th t h).pc 0 (a.setWidth 48) := by
  have e : exec (.tst t h k an x) s = execTst t h k an x s := rfl
  have hnow : ¬(decide (c = cAccess) && decide ((s.th t h).moved = 0) && (s.tile t).tpnd k) = true := by
    simp only [Bool.and_eq_true, decide_eq_true_iff]
    rintro ⟨⟨h1, h2⟩, h3⟩
    rw [hc h1 h2] at h3
    exact Bool.noConfusion h3
  simp only [pieceOf] at hf
  simp only [execTst, issue_of_ready rd, TileReg.size, hf, if_neg hnow, bits_zero_eq_setWidth] at e
  exact State.raise_takes e g

/-! ## Checks of the tile and queue instructions (R127, R128, R228, R234) -/

theorem badEtype_low (w : Word) (n : Nat) : badEtype (bits w 0 16) n = true ↔
    w.extractLsb' 14 2 = 3 ∨ w.extractLsb' 14 2 = 2 ∧ n % 2 = 1 := by
  have he : etype (bits w 0 16) = w.extractLsb' 14 2 := by
    rw [etype, bits, bits, extractLsb'_extractLsb' w (by decide)]
  simp only [badEtype, he, Bool.or_eq_true, Bool.and_eq_true, decide_eq_true_iff]

theorem tileFrom_of_illegal {t : TileId} {h : Thr} {len : Nat} {d x : Reg} {ill : TileReg → TileReg → Bool} {f : TileReg → TileReg → TileReg}
    {s : State} (hill : ill ((s.tile t).reg d) ((s.tile t).reg x) = true) : tileFrom t h len d x ill f s = s.raise t h cOperand 0 0 :=
  if_pos hill

theorem tileOp_of_illegal {t : TileId} {h : Thr} {len : Nat} {ill : Tile → Bool} {f : Tile → Tile} {s : State}
    (hill : ill (s.tile t) = true) : tileOp t h len ill f s = s.raise t h cOperand 0 0 := if_pos hill

/-- Settles O17: each instruction's check is what its slot tests first. -/
theorem unitTraps : Obligations.UnitTraps := by
  unfold Obligations.UnitTraps
  refine ⟨fun s t h k d r vr an sh row ec => ?tiles, fun s t h vd dc dt q => ?queues⟩
  case tiles =>
    intro x tl src dst trap base last n piece both formed aligned outside
    refine ⟨fun h2 => ⟨fun g hb => ⟨?_, ?_⟩, fun g hb hl => ⟨?_, ?_⟩, fun g hf ha => ⟨?_, ?_⟩, fun g hf ha p => ⟨fun hp => ?_, fun hp hfree => ?_⟩⟩,
      fun g => ⟨fun h2 => ⟨fun hc => ?tcfg, fun hrow => ⟨?trdv, ?twrv⟩, fun hc => ?tcvt⟩,
        fun h1 => ⟨fun hn => ?tfree, fun hc => ?tmov, fun hc => ?ttrn⟩⟩⟩
    · exact tld_takes h2 g (State.pieceFault_form _ _ hb)
    · exact tst_takes h2 g (fun hc => absurd hc (by decide)) fun l => State.pieceFault_form _ _ hb
    · exact tld_takes h2 g (State.pieceFault_last _ _ hb hl)
    · exact tst_takes h2 g (fun hc => absurd hc (by decide)) fun l => State.pieceFault_last _ _ hb hl
    · exact tld_takes h2 g (State.pieceFault_unaligned _ _ hf.1 hf.2 ha)
    · exact tst_takes h2 g (fun hc => absurd hc (by decide)) fun l => State.pieceFault_unaligned _ _ hf.1 hf.2 ha
    · refine tld_takes h2 g ((State.pieceFault_of_formed _ _ hf.1 hf.2 ha.1 ha.2).trans ?_)
      exact congrArg _ hp
    · refine tst_takes h2 g (fun _ => hfree) fun l => (State.pieceFault_of_formed _ _ hf.1 hf.2 ha.1 ha.2).trans ?_
      rw [List.find?_append, show List.find? _ (pieceOf s t h k an r) = some p from hp]
      rfl
    case tcfg =>
      refine raise_takes_of_ready h2 g rfl (tileOp_of_illegal ?_)
      simp only [Bool.or_eq_true, decide_eq_true_iff]
      exact hc
    case trdv => exact raise_takes_of_ready h2 g rfl (if_pos hrow)
    case twrv => exact raise_takes_of_ready h2 g rfl (if_pos hrow)
    case tcvt =>
      refine raise_takes_of_ready h2 g rfl (tileFrom_of_illegal ?_)
      simpa [or_assoc] using hc
    case tfree => exact raise_takes_of_ready h1 g rfl (tileOp_of_illegal hn)
    case tmov =>
      refine raise_takes_of_ready h1 g rfl (tileFrom_of_illegal ?_)
      simpa using hc
    case ttrn =>
      refine raise_takes_of_ready h1 g rfl (tileFrom_of_illegal ?_)
      simpa [or_assoc] using hc
  case queues =>
    intro x k c etype trap h2 g
    refine ⟨fun hen => ?_, fun hc => ?qarm⟩
    · have hoff : (!k.en) = true := by rw [hen]; rfl
      exact ⟨raise_takes_of_ready h2 g rfl (if_pos hoff), raise_takes_of_ready h2 g rfl (if_pos hoff),
        raise_takes_of_ready h2 g rfl (if_pos hoff), raise_takes_of_ready h2 g rfl (if_pos hoff)⟩
    case qarm =>
      refine raise_takes_of_ready h2 g rfl (if_pos ?_)
      have hbad := badEtype_low (x.getD dt) (((x.getD dt).extractLsb' 16 2).toNat + 1)
      have hodd : (((x.getD dt).extractLsb' 16 2).toNat + 1) % 2 = 1 ↔ ((x.getD dt).extractLsb' 16 2).toNat % 2 = 0 := by omega
      rw [hodd] at hbad
      have hzero : x.getD dc = 0 ↔ c = 0 := (toNat_eq_zero_iff _).symm
      simp only [Bool.or_eq_true, decide_eq_true_iff, Bool.not_eq_true', or_assoc]
      exact hc.imp_right (Or.imp_right (Or.imp hzero.2 (Or.imp_right hbad.2)))

end Sys2Proof.Machine
end

section
/-! Sending (R215–R218, R239): what a packet and a commit change, and the send instructions. From them the obligation O20. -/
namespace Sys2Proof.Machine

open Sys2Proof.Safety

/-! ## A packet enters a network (R255) -/

@[simp] theorem State.tile_sendPkt (s : State) (src dst : Party) (net : BitVec 2) (body : Body) (hold after : List Nat) (t : TileId) :
    (s.sendPkt src dst net body hold after).tile t = s.tile t := rfl

theorem State.th_sendPkt (s : State) (src dst : Party) (net : BitVec 2) (body : Body) (hold after : List Nat) (t : TileId) (h : Thr) :
    (s.sendPkt src dst net body hold after).th t h = s.th t h := rfl

@[simp] theorem Tile.pm_send (tl : Tile) (c n : Nat) : (tl.pm c n).send = tl.send := by unfold Tile.pm; split <;> rfl

@[simp] theorem Tile.issued_send (tl : Tile) (h : Thr) : (tl.issued h).send = tl.send := (congrArg Tile.send (still_issued tl h) : _)

theorem State.th_finish_self (s : State) (t : TileId) (h : Thr) (f : Thread → Thread) :
    (s.finish t h f).th t h = (f (s.th t h)).slotEnd s.debug (s.th t h).st.ss := by
  simp [State.finish, State.th]

theorem State.th_finish_ne (s : State) (t : TileId) {h k : Thr} (hk : k ≠ h) (f : Thread → Thread) :
    (s.finish t h f).th t k = s.th t k := by
  simp [State.finish, State.th, Tile.th_modTh, hk]

theorem State.tile_finish_ne (s : State) {t q : TileId} (hq : q ≠ t) (h : Thr) (f : Thread → Thread) :
    (s.finish t h f).tile q = s.tile q := by
  simp [State.finish, State.tile_modTile, hq]

theorem State.send_finish (s : State) (t : TileId) (h : Thr) (f : Thread → Thread) :
    ((s.finish t h f).tile t).send = (s.tile t).send := by
  simp [State.finish, Tile.modTh]

/-- `u` is `s` with packets `ps` sent, and tile `t` changed in thread `h` and in what is no thread's. -/
structure Sends (s u : State) (t : TileId) (h : Thr) (ps : List Pkt) : Prop where
  frame : u = { s with tiles := u.tiles, net := s.net ++ ps, nextId := s.nextId + ps.length }
  tiles : ∀ q, q ≠ t → u.tile q = s.tile q
  threads : ∀ k, k ≠ h → u.th t k = s.th t k

theorem Sends.debug {s u : State} {t : TileId} {h : Thr} {ps : List Pkt} (w : Sends s u t h ps) : u.debug = s.debug := by
  rw [w.frame]
  rfl

theorem Sends.net {s u : State} {t : TileId} {h : Thr} {ps : List Pkt} (w : Sends s u t h ps) : u.net = s.net ++ ps :=
  congrArg State.net w.frame

/-- Its frame, with the packets left unsaid. -/
theorem Sends.frame_net {s u : State} {t : TileId} {h : Thr} {ps : List Pkt} (w : Sends s u t h ps) :
    u = { s with tiles := u.tiles, net := u.net, nextId := s.nextId + ps.length } := by
  rw [w.net]
  exact w.frame

/-- A change of tile `t` that leaves its other threads. -/
theorem Sends.modTile {s u : State} {t : TileId} {h : Thr} {ps : List Pkt} (w : Sends s u t h ps) {f : Tile → Tile}
    (hf : ∀ k, k ≠ h → (f (u.tile t)).th k = (u.tile t).th k) : Sends s (u.modTile t f) t h ps where
  frame := by
    conv_lhs => rw [w.frame]
    rfl
  tiles q hq := by rw [State.tile_modTile, if_neg hq, w.tiles q hq]
  threads k hk := by rw [State.th, State.tile_modTile_self, hf k hk]; exact w.threads k hk

theorem Sends.modSend {s u : State} {t : TileId} {h : Thr} {ps : List Pkt} (w : Sends s u t h ps) (f : SendSide → SendSide) :
    Sends s (u.modSend (.tile t) f) t h ps := w.modTile fun _ _ => rfl

theorem State.send_modSend (u : State) (t : TileId) (f : SendSide → SendSide) :
    ((u.modSend (.tile t) f).tile t).send = f (u.tile t).send := by
  simp only [State.modSend, State.tile_modTile_self]

theorem State.th_modSend (u : State) (t : TileId) (h : Thr) (f : SendSide → SendSide) :
    (u.modSend (.tile t) f).th t h = u.th t h := by
  simp only [State.th, State.modSend, State.tile_modTile_self]
  rfl

theorem Sends.sendPkt {s u : State} {t : TileId} {h : Thr} {ps : List Pkt} (w : Sends s u t h ps) (src dst : Party) (net : BitVec 2)
    (body : Body) (hold after : List Nat) : Sends s (u.sendPkt src dst net body hold after) t h
      (ps ++ [{ id := s.nextId + ps.length, src := src, dst := dst, net := net, body := body, hold := hold, after := after }]) where
  frame := by
    conv_lhs => rw [w.frame]
    simp [State.sendPkt, Nat.add_assoc]
  tiles := w.tiles
  threads := w.threads

theorem Sends.refl (s : State) (t : TileId) (h : Thr) : Sends s s t h [] where
  frame := by rw [List.append_nil]; rfl
  tiles _ _ := rfl
  threads _ _ := rfl

/-- The slot of a commit whose staging has left (R215). -/
theorem State.committed_sends {s w : State} {t : TileId} {h : Thr} {ps : List Pkt} (hw : Sends s w t h ps)
    (hth : w.th t h = s.th t h) : Sends s (w.committed t h) t h ps ∧
      (w.committed t h).th t h = (onward ((s.th t h).setStg { (s.th t h).stg with count := 0 }) 1).slotEnd s.debug (s.th t h).st.ss ∧
      ((w.committed t h).tile t).send = (w.tile t).send := by
  have hpm (k : Thr) : (w.modTile t fun tl => tl.pm 0x20 1).th t k = w.th t k := by
    rw [State.th, State.tile_modTile_self, Tile.th, Tile.pm_thr]
    rfl
  refine ⟨(hw.modTile fun k _ => ?_).modTile fun k hk => ?_, ?_, ?_⟩
  · rw [Tile.th, Tile.pm_thr]; rfl
  · rw [Tile.th_modTh, if_neg hk, Tile.issued_th]
  · rw [State.committed, State.th_finish_self, hpm, hth, Thread.advance_eq_onward]
    congr 1
    exact hw.debug
  · rw [State.committed, State.send_finish, State.tile_modTile_self, Tile.pm_send]

/-! ## A commit (R217, R224, R226) -/

/-- The body of a message or contribution of tile `t` under response tag `tag`. -/
def emittedBody (t : TileId) (m : Msg) (contrib : Bool) (tag : Nat) : Body :=
  if contrib then
    .rick { m with rtag := tag } [{ src := .tile t, tag := tag, covered := covered m.relScope (scopeNeeded (some t) (hTile m.handle)),
                                    needed := scopeNeeded (some t) (hTile m.handle) }] none
  else .msg { m with rtag := tag }

/-- A commit of a tile that has a free tag: one packet, and an entry of its tag. -/
theorem State.emit_eq {s : State} {t : TileId} {tag : Nat} (hf : (s.tile t).send.freeTag = some tag) (owner : Owner) (m : Msg)
    (contrib : Bool) (hold : List Nat) : s.emit (.tile t) owner m contrib hold =
      let mesh := contrib || decide (2 ≤ m.payload.length)
      (s.sendPkt (.tile t) (.tile (hTile m.handle)) (if mesh then 3 else 2) (emittedBody t m contrib tag) hold
        ((s.tile t).send.others (hQid m.handle) mesh)).modSend (.tile t) fun y =>
          { y with sent := y.sent ++ [{ tag := tag, owner := owner, handles := [m.handle], mesh := mesh, left := 1 }] } := by
  simp only [State.emit, State.sendSide, hf]
  rfl

/-- What a commit of tile `t` leaves: the packet, its tag's entry, and the thread's staging emptied. -/
theorem Sends.commit {s u : State} {t : TileId} {h : Thr} {tag : Nat} (w : Sends s u t h []) (hth : u.th t h = s.th t h)
    (hf : (u.tile t).send.freeTag = some tag) {owner : Owner} {m : Msg} {contrib : Bool} {hold : List Nat} {r : State}
    (hr : r = (u.emit (.tile t) owner m contrib hold).committed t h) :
    let mesh := contrib || decide (2 ≤ m.payload.length)
    ∃ p : Pkt, Sends s r t h [p] ∧ p.id = s.nextId ∧ p.src = .tile t ∧ p.dst = .tile (hTile m.handle) ∧ p.net = (if mesh then 3 else 2) ∧
      p.hold = hold ∧ p.body = emittedBody t m contrib tag ∧
      r.th t h = (onward ((s.th t h).setStg { (s.th t h).stg with count := 0 }) 1).slotEnd s.debug (s.th t h).st.ss ∧
      (r.tile t).send.cred = (u.tile t).send.cred ∧ ∃ e, (r.tile t).send.sent = (u.tile t).send.sent ++ [e] ∧ e.tag = tag ∧ e.left = 1 ∧
        e.handles = [m.handle] ∧ e.owner = owner := by
  intro mesh
  subst hr
  have e := State.emit_eq hf owner m contrib hold
  obtain ⟨p, hs, hp⟩ : ∃ p : Pkt, Sends s (u.emit (.tile t) owner m contrib hold) t h [p] ∧ p.id = s.nextId ∧ p.src = .tile t ∧
      p.dst = .tile (hTile m.handle) ∧ p.net = (if mesh then 3 else 2) ∧ p.hold = hold ∧ p.body = emittedBody t m contrib tag := by
    rw [e]
    exact ⟨_, (w.sendPkt _ _ _ _ _ _).modSend _, rfl, rfl, rfl, rfl, rfl, rfl⟩
  have hth' : (u.emit (.tile t) owner m contrib hold).th t h = s.th t h := by
    rw [e, ← hth]
    exact State.th_modSend _ _ _ _
  have hsent := State.send_modSend (u.sendPkt (.tile t) (.tile (hTile m.handle)) (if mesh then 3 else 2) (emittedBody t m contrib tag) hold
    ((u.tile t).send.others (hQid m.handle) mesh)) t fun y =>
      { y with sent := y.sent ++ [{ tag := tag, owner := owner, handles := [m.handle], mesh := mesh, left := 1 }] }
  obtain ⟨h1, h2, h3⟩ := State.committed_sends hs hth'
  obtain ⟨hid, hsrc, hdst, hnet, hhold, hbody⟩ := hp
  have hfin : (((u.emit (.tile t) owner m contrib hold).committed t h).tile t).send = { (u.tile t).send with sent := (u.tile t).send.sent ++
      [{ tag := tag, owner := owner, handles := [m.handle], mesh := mesh, left := 1 }] } := by rw [h3, e, hsent, State.tile_sendPkt]
  refine ⟨p, h1, hid, hsrc, hdst, hnet, hhold, hbody, h2, by rw [hfin], ?_⟩
  rw [hfin]
  exact ⟨_, rfl, rfl, rfl, rfl, rfl⟩

/-! ## QPUT, QCMT and QRICK (R215–R218) -/

theorem ringBytes_eq (n : Nat) : ringBytes n = (4 * (n + 1) + 7) / 8 * 8 := rfl

theorem count_eq_zero_iff (g : Staging) : g.count = 0 ↔ g.count.toNat = 0 := (toNat_eq_zero_iff _).symm

theorem badHandle_eq_false {hd : Word} (h : hd.extractLsb' 16 8 = 0) : badHandle hd = false := decide_eq_false (not_not.2 h)

theorem Staging.length_list (g : Staging) : g.list.length = g.count.toNat := by simp [Staging.list]

theorem SendSide.ready_of_find {x : SendSide} {hd : Word} {i : Nat} (hfind : x.find hd = some i) (hr : (x.entry i).refused = false) (m : Nat) :
    x.ready hd m = decide (m ≤ (x.entry i).bytes) := by
  simp only [SendSide.ready, hfind, hr, Bool.false_or]

theorem SendSide.credited_of_find {x : SendSide} {hd : Word} {i : Nat} (hfind : x.find hd = some i) (hr : (x.entry i).refused = false) :
    x.credited hd = true := by
  simp only [SendSide.credited, hfind, hr, Bool.not_false]

/-- The entry of a message that leaves with credit gives its bytes. -/
theorem SendSide.use_of_find {x : SendSide} {hd : Word} {i : Nat} (hfind : x.find hd = some i) (hr : (x.entry i).refused = false) (m : Nat) :
    x.use hd m = { x with cred := SMap.modify {} x.cred i (fun e => { e with bytes := e.bytes - m, lastUse := x.useCtr + 1 })
                          useCtr := x.useCtr + 1 } := by
  have hr' : (SMap.get {} x.cred i).refused = false := hr
  simp only [SendSide.use, hfind, SendSide.modEntry, SMap.modify, hr', Bool.false_eq_true, if_false]

/-- The check that a QCMT or QRICK makes first. -/
theorem commit_illegal {n : BitVec 3} {hd : Word} (h : n.toNat = 0 ∨ hd.extractLsb' 16 8 ≠ 0) : (decide (n = 0) || badHandle hd) = true := by
  rw [Bool.or_eq_true, decide_eq_true_iff, badHandle, decide_eq_true_iff]
  exact h.imp_left (toNat_eq_zero_iff n).1

theorem commit_legal {n : BitVec 3} {hd : Word} (hn : 1 ≤ n.toNat) (h : hd.extractLsb' 16 8 = 0) : (decide (n = 0) || badHandle hd) = false := by
  have hne : ¬n = 0 := fun e => by rw [e] at hn; exact absurd hn (by decide)
  rw [decide_eq_false hne, badHandle_eq_false h]
  rfl

section
variable {s : State} {t : TileId} {h : Thr} {dt dh : Reg}

theorem exec_qcmt_of_credit {tag : Nat} (rd : Ready s t h 1) (hn : 1 ≤ (s.th t h).stg.count.toNat)
    (hh : ((s.th t h).getD dh).extractLsb' 16 8 = 0)
    (hready : (s.tile t).send.ready ((s.th t h).getD dh) (ringBytes (s.th t h).stg.count.toNat) = true)
    (hf : (s.tile t).send.freeTag = some tag) :
    let x := s.th t h
    let hd := x.getD dh
    ∃ u, exec (.qcmt t h dt dh) s = .next u ∧
      u = ((s.modSend (.tile t) fun y => y.use hd (ringBytes x.stg.count.toNat)).emit (.tile t) (.thread h)
        (s.threadMsg t h 0 (bits (x.getD dt) 0 16) x.stg.list hd ((s.tile t).send.credited hd)) false x.hold).committed t h := by
  refine ⟨_, ?_, rfl⟩
  change execQcmt t h dt dh s = _
  simp only [execQcmt, issue_of_ready rd, State.qcmtSlot, commit_legal hn hh, State.sendSide, hready, hf, Option.isNone_some, Bool.not_true,
    Bool.false_eq_true, if_false]

theorem exec_qcmt_of_no_credit (rd : Ready s t h 1) (hn : 1 ≤ (s.th t h).stg.count.toNat)
    (hh : ((s.th t h).getD dh).extractLsb' 16 8 = 0)
    (hready : (s.tile t).send.ready ((s.th t h).getD dh) (ringBytes (s.th t h).stg.count.toNat) = false) :
    exec (.qcmt t h dt dh) s = .next ((s.askCredit (.tile t) ((s.th t h).getD dh) (ringBytes (s.th t h).stg.count.toNat)
      (s.tile t).func).block t h (.qcmt dt dh)) := by
  change execQcmt t h dt dh s = _
  simp only [execQcmt, issue_of_ready rd, State.qcmtSlot, commit_legal hn hh, State.sendSide, hready, Bool.not_false,
    Bool.false_eq_true, if_false, if_true]

theorem qrick_legal (hn : 1 ≤ (s.th t h).stg.count.toNat) (hh : ((s.th t h).getD dh).extractLsb' 16 8 = 0)
    (he : badEtype (bits ((s.th t h).getD dt) 0 16) (s.th t h).stg.count.toNat = false) :
    (decide ((s.th t h).stg.count = 0) || badEtype (bits ((s.th t h).getD dt) 0 16) (s.th t h).stg.count.toNat ||
      badHandle ((s.th t h).getD dh)) = false := by
  have hleg := commit_legal hn hh
  rw [Bool.or_eq_false_iff] at hleg
  rw [he, hleg.1, hleg.2]
  rfl

theorem exec_qrick_of_tag {tag : Nat} (rd : Ready s t h 1) (hn : 1 ≤ (s.th t h).stg.count.toNat)
    (hh : ((s.th t h).getD dh).extractLsb' 16 8 = 0)
    (he : badEtype (bits ((s.th t h).getD dt) 0 16) (s.th t h).stg.count.toNat = false) (hf : (s.tile t).send.freeTag = some tag) :
    let x := s.th t h
    ∃ u, exec (.qrick t h dt dh) s = .next u ∧ u = (s.emit (.tile t) (.thread h)
      (s.threadMsg t h 1 (bits (x.getD dt) 0 16) x.stg.list (x.getD dh) false) true x.hold).committed t h := by
  refine ⟨_, ?_, rfl⟩
  change execQrick t h dt dh s = _
  simp only [execQrick, issue_of_ready rd, State.qrickSlot, qrick_legal hn hh he, State.sendSide, hf, Option.isNone_some,
    Bool.false_eq_true, if_false]

theorem exec_qrick_of_no_tag (rd : Ready s t h 1) (hn : 1 ≤ (s.th t h).stg.count.toNat)
    (hh : ((s.th t h).getD dh).extractLsb' 16 8 = 0)
    (he : badEtype (bits ((s.th t h).getD dt) 0 16) (s.th t h).stg.count.toNat = false) (hf : (s.tile t).send.freeTag = none) :
    exec (.qrick t h dt dh) s = .next (s.block t h (.qrick dt dh)) := by
  change execQrick t h dt dh s = _
  simp only [execQrick, issue_of_ready rd, State.qrickSlot, qrick_legal hn hh he, State.sendSide, hf, Option.isNone_none,
    Bool.false_eq_true, if_false, if_true]

end

theorem qrick_illegal {s : State} {t : TileId} {h : Thr} {dt dh : Reg} (rd : Ready s t h 1) (g : VectorsGood (s.tile t) 4)
    (hbad : (s.th t h).stg.count.toNat = 0 ∨ ((s.th t h).getD dh).extractLsb' 16 8 ≠ 0) :
    Takes (.qrick t h dt dh) s t h 4 (s.th t h).pc 0 0 := by
  refine raise_takes_of_ready rd g rfl (if_pos ?_)
  have hill := commit_illegal hbad
  rw [Bool.or_eq_true] at hill ⊢
  exact hill.imp_left fun hz => by rw [hz]; rfl

theorem qcmt_illegal {s : State} {t : TileId} {h : Thr} {dt dh : Reg} (rd : Ready s t h 1) (g : VectorsGood (s.tile t) 4)
    (hbad : (s.th t h).stg.count.toNat = 0 ∨ ((s.th t h).getD dh).extractLsb' 16 8 ≠ 0) :
    Takes (.qcmt t h dt dh) s t h 4 (s.th t h).pc 0 0 :=
  raise_takes_of_ready rd g rfl (if_pos (commit_illegal hbad))

/-- A tag and words that a contribution may have. -/
theorem badEtype_eq_false {w : Word} {n : Nat} (h3 : ((w.setWidth 16 : BitVec 16).extractLsb' 14 2) ≠ 3)
    (h2 : ¬((w.setWidth 16 : BitVec 16).extractLsb' 14 2 = 2 ∧ n % 2 = 1)) : badEtype (bits w 0 16) n = false := by
  rw [← bits_zero_eq_setWidth] at h3 h2
  rw [Bool.eq_false_iff]
  intro hbad
  simp only [badEtype, Bool.or_eq_true, Bool.and_eq_true, decide_eq_true_iff] at hbad
  exact hbad.elim h3 h2

/-- A request for credit that is outstanding is not sent again (R218). -/
theorem State.askCredit_of_asked {s : State} {t : TileId} {hd : Word} {i m : Nat} {f : Option FuncNo}
    (hfind : (s.sendSide (.tile t)).find hd = some i) (hreq : ((s.sendSide (.tile t)).entry i).req = true) :
    s.askCredit (.tile t) hd m f = s := by
  simp only [State.askCredit, hfind, hreq, Bool.true_or, if_true]

theorem State.askCredit_sends {s : State} {t : TileId} (h : Thr) {hd : Word} {i : Nat}
    (hfind : (s.sendSide (.tile t)).find hd = some i) (hreq : ((s.sendSide (.tile t)).entry i).req = false)
    (href : ((s.sendSide (.tile t)).entry i).refused = false) (m : Nat) (f : Option FuncNo) : ∃ p : Pkt,
      Sends s (s.askCredit (.tile t) hd m f) t h [p] ∧ (s.askCredit (.tile t) hd m f).th t h = s.th t h ∧
      p.dst = .tile (hTile hd) ∧ p.body = .credReq hd m f := by
  have e : s.askCredit (.tile t) hd m f = (s.modSend (.tile t) fun y => y.modEntry i fun e => { e with req := true }).sendPkt (.tile t)
      (.tile (hTile hd)) 2 (.credReq hd m f) [] [] := by
    simp only [State.askCredit, hfind, hreq, href, Bool.or_self, Bool.false_eq_true, if_false]
    rfl
  rw [e]
  exact ⟨_, ((Sends.refl s t h).modSend _).sendPkt _ _ _ _ _ _, (State.th_sendPkt _ _ _ _ _ _ _ _ _).trans (State.th_modSend _ _ _ _), rfl, rfl⟩

/-! ## QMCST (R239) -/

/-- A tile of the group's box. -/
def InBox (g : DWord) (u : TileId) : Prop :=
  (g.extractLsb' 0 4).toNat ≤ u.toNat / 256 ∧ u.toNat / 256 ≤ (g.extractLsb' 4 4).toNat ∧
  (g.extractLsb' 8 4).toNat ≤ u.toNat / 16 % 16 ∧ u.toNat / 16 % 16 ≤ (g.extractLsb' 12 4).toNat ∧
  (g.extractLsb' 16 4).toNat ≤ u.toNat % 16 ∧ u.toNat % 16 ≤ (g.extractLsb' 20 4).toNat

theorem mem_groupMembers (g : DWord) (u : TileId) : u ∈ groupMembers g ↔ InBox g u := by
  have hu := u.isLt
  have hc : (u.extractLsb' 8 4).toNat = u.toNat / 256 := by rw [toNat_extractLsb']; omega
  have hr : (u.extractLsb' 4 4).toNat = u.toNat / 16 % 16 := toNat_extractLsb' u 4 4
  have hk : (u.extractLsb' 0 4).toNat = u.toNat % 16 := by rw [toNat_extractLsb']; omega
  have hmem : u ∈ (List.range 4096).map fun i => BitVec.ofNat 12 i :=
    List.mem_map.2 ⟨u.toNat, List.mem_range.2 hu, by simp⟩
  simp only [groupMembers, List.mem_filter, hmem, true_and, Bool.and_eq_true, decide_eq_true_iff, bits, BitVec.le_def, hc, hr, hk, and_assoc]
  rfl

/-- The packets of a multicast: one for each member, in the members' order. -/
theorem Sends.multicastFold {s : State} {t : TileId} {h : Thr} (f : TileId → Body) (after : TileId → List Nat) (hold : List Nat) (us : List TileId)
    {u : State} {ps : List Pkt} (w : Sends s u t h ps) : ∃ qs : List Pkt,
      Sends s (us.foldl (fun a v => a.sendPkt (.tile t) (.tile v) 2 (f v) hold (after v)) u) t h (ps ++ qs) ∧
      (us.foldl (fun a v => a.sendPkt (.tile t) (.tile v) 2 (f v) hold (after v)) u).tile t = u.tile t ∧
      List.Forall₂ (fun (p : Pkt) v => p.dst = .tile v ∧ p.net = 2 ∧ p.body = f v) qs us := by
  induction us generalizing u ps with
  | nil => exact ⟨[], by rw [List.append_nil]; exact w, rfl, .nil⟩
  | cons v r ih =>
    obtain ⟨qs, hq, htile, hf⟩ := ih (w.sendPkt (.tile t) (.tile v) 2 (f v) hold (after v))
    rw [← List.append_cons] at hq
    exact ⟨_, hq, htile, .cons ⟨rfl, rfl, rfl⟩ hf⟩

theorem exists_of_mem_left {α β : Type} {R : α → β → Prop} {l : List α} {r : List β} (h : List.Forall₂ R l r) {a : α} (ha : a ∈ l) :
    ∃ b ∈ r, R a b := by
  induction h with
  | nil => exact absurd ha List.not_mem_nil
  | cons hab _ ih =>
    obtain rfl | ha := List.mem_cons.1 ha
    · exact ⟨_, List.mem_cons_self, hab⟩
    · obtain ⟨b, hb, hr⟩ := ih ha
      exact ⟨b, List.mem_cons_of_mem _ hb, hr⟩

theorem exists_of_mem_right {α β : Type} {R : α → β → Prop} {l : List α} {r : List β} (h : List.Forall₂ R l r) {b : β} (hb : b ∈ r) :
    ∃ a ∈ l, R a b := exists_of_mem_left h.flip hb

/-- The entry of a multicast's tag (R217). -/
def multicastEntry (h : Thr) (rt : Nat) (g : DWord) : Sent :=
  { tag := rt, owner := .thread h, mesh := false, handles := (groupMembers g).map (memberHandle g), left := (groupMembers g).length }

/-- What a multicast leaves: its packets, and one entry for its tag unless it has no member. -/
theorem Sends.multicast {s : State} {t : TileId} {h : Thr} {rt : Nat} (hf : (s.tile t).send.freeTag = some rt) (tag : BitVec 16)
    (payload : List Word) (g : DWord) (hold : List Nat) : ∃ qs : List Pkt,
      Sends s (s.multicast t h tag payload g hold) t h qs ∧ (s.multicast t h tag payload g hold).th t h = s.th t h ∧
      List.Forall₂ (fun (p : Pkt) v => p.dst = .tile v ∧ p.net = 2 ∧
        p.body = .msg { s.threadMsg t h 0 tag payload (memberHandle g v) false with rtag := rt }) qs (groupMembers g) ∧
      (qs ≠ [] → ∃ e, ((s.multicast t h tag payload g hold).tile t).send.sent = (s.tile t).send.sent ++ [e] ∧ e.tag = rt ∧
        e.left = qs.length) := by
  have hside : (s.sendSide (.tile t)).freeTag = some rt := hf
  by_cases hus : groupMembers g = []
  · have e : s.multicast t h tag payload g hold = s := by simp only [State.multicast, hside, hus, if_true]
    rw [e, hus]
    exact ⟨[], Sends.refl s t h, rfl, .nil, fun hne => absurd rfl hne⟩
  · have e : s.multicast t h tag payload g hold = ((groupMembers g).foldl (fun a v => a.sendPkt (.tile t) (.tile v) 2
        (.msg { s.threadMsg t h 0 tag payload (memberHandle g v) false with rtag := rt }) hold
        ((s.sendSide (.tile t)).others (hQid (memberHandle g v)) false)) s).modSend (.tile t) fun y =>
          { y with sent := y.sent ++ [multicastEntry h rt g] } := by
      simp only [State.multicast, hside, if_neg hus, multicastEntry]
    obtain ⟨qs, hq, htile, hall⟩ := (Sends.refl s t h).multicastFold
      (fun v => .msg { s.threadMsg t h 0 tag payload (memberHandle g v) false with rtag := rt })
      (fun v => (s.sendSide (.tile t)).others (hQid (memberHandle g v)) false) hold (groupMembers g)
    rw [e]
    refine ⟨qs, hq.modSend _, ?_, hall, fun _ => ⟨multicastEntry h rt g, ?_, rfl, ?_⟩⟩
    · exact (State.th_modSend _ _ _ _).trans (congrArg (fun q => Tile.th q h) htile)
    · rw [State.send_modSend, htile]
    · rw [hall.length_eq, multicastEntry]

theorem exec_qmcst_of_tag {s : State} {t : TileId} {h : Thr} {dt dg : Reg} {tag : Nat} (rd : Ready s t h 1) (hc : (s.th t h).stg.count = 1)
    (hg : (SMap.get 0 (s.tile t).mgrp (((s.th t h).getD dg).extractLsb' 0 3).toNat).getLsbD 28 = true)
    (hf : (s.tile t).send.freeTag = some tag) :
    let x := s.th t h
    exec (.qmcst t h dt dg) s = .next ((s.multicast t h (bits (x.getD dt) 0 16) x.stg.list
      (SMap.get 0 (s.tile t).mgrp ((x.getD dg).extractLsb' 0 3).toNat) x.hold).committed t h) := by
  have hok : (decide ((s.th t h).stg.count ≠ 1) || !(bit (SMap.get 0 (s.tile t).mgrp (bits ((s.th t h).getD dg) 0 3).toNat) 28)) = false := by
    rw [hc, show bit (SMap.get 0 (s.tile t).mgrp (bits ((s.th t h).getD dg) 0 3).toNat) 28 = true from hg]
    rfl
  change execQmcst t h dt dg s = _
  simp only [execQmcst, issue_of_ready rd, State.qmcstSlot, hok, State.sendSide, hf, Option.isNone_some, Bool.false_eq_true, if_false]
  rfl

/-- Settles O20: a commit is a packet, a tag's entry and the end of the slot; the sections above say what each changes. -/
theorem sendInstructions : Obligations.SendInstructions := by
  unfold Obligations.SendInstructions
  refine ⟨fun s t h r dt dh tag i => ?sends, fun s t h dt dh i => ?blocks, fun s t h dt dg tag => ?multicasts⟩
  case sends =>
    intro x g n hd utag side words bytes sent h1
    refine ⟨fun hn => ?put, fun hn gd => raise_takes_of_ready h1 gd rfl (if_pos hn), fun hn hn4 hh hf hfind href hb => ?cmt,
      fun hn hn4 hh hf h3 h2 => ?rick, fun gd hbad => ⟨qcmt_illegal h1 gd hbad, qrick_illegal h1 gd hbad⟩⟩
    case put =>
      have e : exec (.qput t h r) s = execQput t h r s := rfl
      simp only [execQput, issue_of_ready h1] at e
      rw [if_neg (Nat.not_le.2 hn)] at e
      rw [← Thread.advance_eq_onward]
      exact State.finish_retires e
    case cmt =>
      have hready : side.ready hd (ringBytes n) = true := (SendSide.ready_of_find hfind href (ringBytes n)).trans (decide_eq_true hb)
      have huse := SendSide.use_of_find hfind href (ringBytes n)
      have husent : ((s.modSend (.tile t) fun y => y.use hd (ringBytes n)).tile t).send = side.use hd (ringBytes n) := State.send_modSend _ _ _
      have hfree : ((s.modSend (.tile t) fun y => y.use hd (ringBytes n)).tile t).send.freeTag = some tag := by
        rw [husent, huse]
        exact hf
      obtain ⟨u, e, hu⟩ := exec_qcmt_of_credit (dt := dt) h1 hn hh hready hf
      obtain ⟨p, hs, hid, hsrc, hdst, hnet, hhold, hbody, hth, hcred, hent⟩ := ((Sends.refl s t h).modSend fun y => y.use hd (ringBytes n)).commit
        (State.th_modSend _ _ _ _) hfree hu
      rw [husent, huse] at hcred hent
      have hlen : decide (2 ≤ n) = (false || decide (2 ≤ x.stg.list.length)) := by rw [Staging.length_list, Bool.false_or]
      refine ⟨u, _, p, e, hs.frame, hs.tiles, hs.threads, hth, hid, hsrc, hdst, ?_, hhold,
        ⟨hbody, rfl, SendSide.credited_of_find hfind href⟩, rfl, bits_zero_eq_setWidth _, rfl, rfl, rfl, rfl, rfl, hcred, hent⟩
      rw [hlen]
      exact hnet
    case rick =>
      obtain ⟨u, e, hu⟩ := exec_qrick_of_tag (dt := dt) h1 hn hh (badEtype_eq_false h3 h2) hf
      obtain ⟨p, hs, hid, hsrc, hdst, hnet, hhold, hbody, hth, hcred, hent⟩ := (Sends.refl s t h).commit rfl hf hu
      exact ⟨u, _, p, e, hs.frame, hs.tiles, hs.threads, hth, hid, hsrc, hdst, hnet, hhold,
        ⟨rfl, _, hbody, rfl, rfl⟩, rfl, bits_zero_eq_setWidth _, rfl, rfl, rfl, rfl, rfl, hcred, hent⟩
  case blocks =>
    intro x n hd side utag h1 hn hn4 hh
    refine ⟨fun hf h3 h2 => ?rick, fun hfind href hb => ?cmt⟩
    case rick => exact ⟨_, exec_qrick_of_no_tag h1 hn hh (badEtype_eq_false h3 h2) hf, State.block_onlyThread s t h _⟩
    case cmt =>
      have hready : side.ready hd (ringBytes n) = false := (SendSide.ready_of_find hfind href _).trans (decide_eq_false (Nat.not_le.2 hb))
      have e := exec_qcmt_of_no_credit (dt := dt) h1 hn hh hready
      cases hreq : (side.entry i).req
      case true =>
        rw [State.askCredit_of_asked hfind hreq] at e
        obtain ⟨⟨⟨hfr, htiles⟩, -, hthr⟩, hth⟩ := State.block_onlyThread s t h (.qcmt dt dh)
        exact ⟨_, e, hth, hthr, htiles, fun _ => rfl, fun hf => Bool.noConfusion hf⟩
      case false =>
        obtain ⟨p, hs, hth, hdst, hbody⟩ := State.askCredit_sends h hfind hreq href (ringBytes n) (s.tile t).func
        generalize s.askCredit (.tile t) hd (ringBytes n) (s.tile t).func = w at e hs hth
        obtain ⟨-, hblk⟩ := State.block_onlyThread w t h (.qcmt dt dh)
        have hs' : Sends s (w.block t h (.qcmt dt dh)) t h [p] := hs.modTile fun k hk => by
          rw [Tile.th_modTh, if_neg hk, Tile.spend_th]
        exact ⟨_, e, hblk.trans (by rw [hth]), hs'.threads, hs'.tiles, fun hf => Bool.noConfusion hf,
          fun _ => ⟨p, hs'.net, hdst, hbody⟩⟩
  case multicasts => 
    intro x g inBox h1 hc hg hf
    have hlist : x.stg.list = [x.stg.words.extractLsb' 0 32] := by rw [Staging.list, hc]; rfl
    have e := exec_qmcst_of_tag (dt := dt) h1 hc hg hf
    obtain ⟨qs, hs, hth, hall, hent⟩ := Sends.multicast (h := h) hf (bits (x.getD dt) 0 16) x.stg.list g x.hold
    obtain ⟨hs', hth', hsend⟩ := State.committed_sends hs hth
    refine ⟨_, qs, e, hs'.net, hth', hs'.tiles, hs'.threads, hs'.frame_net, fun v => ?members, fun p hp => ?packets,
      fun hne => ?entry⟩
    case members =>
      rw [show inBox v ↔ v ∈ groupMembers g from (mem_groupMembers g v).symm]
      constructor
      · intro hv
        obtain ⟨p, hp, hdst, -⟩ := exists_of_mem_right hall hv
        exact ⟨p, hp, hdst⟩
      · rintro ⟨p, hp, hdst⟩
        obtain ⟨v', hv', hdst', -⟩ := exists_of_mem_left hall hp
        rwa [← Party.tile.inj (hdst'.symm.trans hdst)]
    case packets =>
      obtain ⟨v, -, hdst, hnet, hbody⟩ := exists_of_mem_left hall hp
      exact ⟨_, v, hbody, hdst, rfl, hlist, bits_zero_eq_setWidth _, rfl, rfl, hnet, rfl⟩
    case entry =>
      rw [hsend]
      exact hent hne

end Sys2Proof.Machine
end

section
/-! The owner's queue instructions (R223, R228–R230, R234): what a read gives and frees. From them the obligation O21. -/
namespace Sys2Proof.Machine

open Sys2Proof.Safety

/-! ## What a read gives (R229) -/

theorem extractLsb'_leBits_getD {N : Nat} (l : List Byte) (hN : 8 * l.length ≤ N) (p : Nat) :
    (leBits N l).extractLsb' (8 * p) 8 = l.getD p 0 := by
  obtain hlt | hge := Nat.lt_or_ge p l.length
  · rw [extractLsb'_leBits l hlt hN, List.getD_eq_getElem l 0 hlt]
  · rw [leBits, leNat_eq_ofLanes, extractLsb'_ofLanes_beyond _ (by rw [List.length_map]; exact Nat.mul_le_mul_left 8 hge),
      List.getD_eq_getElem?_getD, List.getElem?_eq_none hge]
    rfl

/-- A word as its four bytes. -/
theorem laneOf_32_eq_append (v : VWord) (i : Nat) : laneOf 32 v i =
    v.extractLsb' (8 * (4 * i + 3)) 8 ++ v.extractLsb' (8 * (4 * i + 2)) 8 ++ v.extractLsb' (8 * (4 * i + 1)) 8 ++ v.extractLsb' (8 * (4 * i)) 8 := by
  have e0 : 8 * (4 * i) = 32 * i := by ring
  have e1 : 8 * (4 * i + 1) = 32 * i + 8 := by ring
  have e2 : 8 * (4 * i + 2) = 32 * i + 16 := by ring
  have e3 : 8 * (4 * i + 3) = 32 * i + 24 := by ring
  rw [e0, e1, e2, e3]
  refine BitVec.eq_of_getLsbD_eq fun b hb => ?_
  simp only [laneOf, BitVec.getLsbD_append, BitVec.getLsbD_extractLsb']
  split
  · next h => simp [h, hb]
  · split
    · next h h' => simp [h', hb, show 32 * i + 8 + (b - 8) = 32 * i + b by omega]
    · split
      · next h h' h'' => simp [h'', hb, show 32 * i + 16 + (b - 8 - 8) = 32 * i + b by omega]
      · next h h' h'' => simp [show b - 8 - 8 - 8 < 8 by omega, hb, show 32 * i + 24 + (b - 8 - 8 - 8) = 32 * i + b by omega]

/-- The bytes of the register that a read writes. -/
def readBytes (m : QMsg) (bs : List Byte) : List Byte := bs ++ List.replicate (20 - bs.length) 0 ++ bytesOf m.origin 4

theorem getD_readBytes (m : QMsg) {bs : List Byte} (hlen : bs.length ≤ 20) (p : Nat) : (readBytes m bs).getD p 0 =
    if p < bs.length then bs.getD p 0 else if 20 ≤ p ∧ p < 24 then m.origin.extractLsb' (8 * (p - 20)) 8 else 0 := by
  have hL : (bs ++ List.replicate (20 - bs.length) (0 : Byte)).length = 20 := by simp; omega
  rw [readBytes, bytesOf_eq_byteList]
  simp only [List.getD_eq_getElem?_getD]
  split
  case isTrue h => rw [List.getElem?_append_left (by omega), List.getElem?_append_left h]
  case isFalse h =>
    obtain hlt | hge := Nat.lt_or_ge p 20
    · rw [List.getElem?_append_left (by omega), List.getElem?_append_right (by omega), List.getElem?_replicate, if_pos (by omega), if_neg (by omega)]
      rfl
    · rw [List.getElem?_append_right (by omega), hL]
      split
      case isTrue hin => rw [byteList, List.getElem?_map, List.getElem?_range (by omega)]; rfl
      case isFalse hout => rw [List.getElem?_eq_none (by rw [length_byteList]; omega)]; rfl

theorem laneOf_readLanes (m : QMsg) {bs : List Byte} {n i : Nat} (hlen : bs.length = 4 * n) (hn : n ≤ 5) :
    laneOf 32 (readLanes m bs) i =
      if i < n then bs.getD (4 * i + 3) 0 ++ bs.getD (4 * i + 2) 0 ++ bs.getD (4 * i + 1) 0 ++ bs.getD (4 * i) 0
      else if i = 5 then m.origin.zeroExtend 32 else 0 := by
  have hle : bs.length ≤ 20 := by omega
  have hsize : 8 * (readBytes m bs).length ≤ 512 := by
    rw [readBytes, bytesOf_eq_byteList]
    simp
    omega
  have horigin : ∀ o : BitVec 4, o.extractLsb' (8 * 3) 8 ++ o.extractLsb' (8 * 2) 8 ++ o.extractLsb' (8 * 1) 8 ++ o.extractLsb' (8 * 0) 8 =
      (o.zeroExtend 32 : Word) := by decide
  have hbyte (p : Nat) := (extractLsb'_leBits_getD (readBytes m bs) hsize p).trans (getD_readBytes m hle p)
  have hword (p : Nat) (hp : p < bs.length) : (leBits 512 (readBytes m bs)).extractLsb' (8 * p) 8 = bs.getD p 0 := by rw [hbyte, if_pos hp]
  have hzero (p : Nat) (hp : ¬p < bs.length) (hq : ¬(20 ≤ p ∧ p < 24)) : (leBits 512 (readBytes m bs)).extractLsb' (8 * p) 8 = 0 := by
    rw [hbyte, if_neg hp, if_neg hq]
  have hfive (j : Nat) (hj : j < 4) (h5 : i = 5) (hi : ¬i < n) :
      (leBits 512 (readBytes m bs)).extractLsb' (8 * (4 * i + j)) 8 = m.origin.extractLsb' (8 * j) 8 := by
    rw [hbyte, if_neg (by omega), if_pos (by omega), show 4 * i + j - 20 = j by omega]
  rw [laneOf_32_eq_append, show readLanes m bs = leBits 512 (readBytes m bs) from rfl]
  by_cases hi : i < n
  · rw [if_pos hi, hword _ (by omega), hword _ (by omega), hword _ (by omega), hword _ (by omega)]
  · rw [if_neg hi]
    by_cases h5 : i = 5
    · have hfirst := hfive 0 (by omega) h5 hi
      rw [Nat.add_zero] at hfirst
      rw [if_pos h5, hfive 3 (by omega) h5 hi, hfive 2 (by omega) h5 hi, hfive 1 (by omega) h5 hi, hfirst]
      exact horigin m.origin
    · rw [if_neg h5, hzero _ (by omega) (by omega), hzero _ (by omega) (by omega), hzero _ (by omega) (by omega), hzero _ (by omega) (by omega)]
      rfl

/-! ## What a read frees (R223) -/

theorem Queue.oldest_of_seen {k : Queue} {m : QMsg} {rest : List QMsg} (hm : k.msgs = m :: rest) (hs : m.seen = true) :
    k.oldest = some m := by simp [Queue.oldest, hm, hs]

theorem Queue.oldest_of_unseen {k : Queue} (hm : ∀ o ∈ k.msgs.head?, o.seen = false) : k.oldest = none := by
  simpa [Queue.oldest, Option.filter_eq_none_iff] using hm

theorem Queue.oldest_isNone (k : Queue) : k.oldest.isNone = !(k.msgs.head?.any (fun o => o.seen)) := by
  cases hm : k.msgs.head? with
  | none => simp [Queue.oldest, hm]
  | some m => cases hs : m.seen <;> simp [Queue.oldest, hm, hs]

theorem Queue.free_of_unseen {k : Queue} {m : QMsg} {rest : List QMsg} (hm : k.msgs = m :: rest) (hs : m.seen = false) :
    k.free = k := by
  rw [Queue.free, Queue.oldest_of_unseen (by simp [hm, hs])]

theorem Queue.free_of_seen {k : Queue} {m : QMsg} {rest : List QMsg} (hm : k.msgs = m :: rest) (hs : m.seen = true) :
    k.free = { k with msgs := rest, used := k.used - m.skip - (m.size + 7) / 8 * 8,
                      rd := (if m.skip = 0 then k.rd + (m.size + 7) / 8 * 8 else (m.size + 7) / 8 * 8) % k.size } := by
  rw [Queue.free, Queue.oldest_of_seen hm hs]
  simp only [hm, List.tail_cons, ceilDiv]
  rfl

/-! ## The instructions (R228, R230, R234) -/

@[simp] theorem Thread.openPair_st (x : Thread) (dbg : Bool) (m : QMsg) : (x.openPair dbg m).st = x.st := by
  unfold Thread.openPair
  split
  · rfl
  · rfl

@[simp] theorem Tile.th_modQueue (tl : Tile) (q : QIx) (f : Queue → Queue) (h : Thr) : (tl.modQueue q f).th h = tl.th h := rfl

/-- The end of a read: Z, and C where the instruction has one, and the next instruction. -/
theorem Thread.zc_advance (x : Thread) {y : Thread} (hy : y.st = x.st) (z : Bool) (c : Option Bool) (len : Nat) :
    (y.zc z c).advance len = onward { y with st := { x.st with z := z, c := c.getD x.st.c } } len := by
  rw [Thread.advance_eq_onward, Thread.zc, hy]

theorem State.readMsg_retiresAs {i : Instr} {s : State} {t : TileId} {h : Thr} {vd : Reg} {q : QIx} {m : QMsg} {c : Option Bool}
    (hgood : firstBad ((s.tile t).errWords (((s.tile t).queue q).front m) m.size) = none)
    (e : exec i s = .next (s.readMsg t h vd q m c)) :
    RetiresAs i s t h (((s.tile t).fixWords 1 ((s.tile t).errWords (((s.tile t).queue q).front m) m.size)).modQueue q Queue.free)
      (onward { ((s.th t h).pendV vd (readLanes m ((s.tile t).lmem.bytes (((s.tile t).queue q).front m) m.size))).openPair s.debug m with
        st := { (s.th t h).st with z := false, c := c.getD (s.th t h).st.c } } 2) := by
  rw [State.readMsg, hgood] at e
  have hth : (((s.tile t).fixWords 1 ((s.tile t).errWords (((s.tile t).queue q).front m) m.size)).modQueue q Queue.free).th h = s.th t h :=
    congrArg (fun l => SMap.get ({} : Thread) l h.toNat) (Tile.thr_fixWords (s.tile t) 1 _)
  have key := State.finish_retiresAs (g := fun tl => (tl.fixWords 1 ((s.tile t).errWords (((s.tile t).queue q).front m) m.size)).modQueue q Queue.free)
    (f := fun x => (((x.pendV vd (readLanes m ((s.tile t).lmem.bytes (((s.tile t).queue q).front m) m.size))).openPair s.debug m).zc false c).advance 2)
    e (congrArg (fun y => y.st.ss) hth)
  rwa [hth, Thread.zc_advance (s.th t h) (by simp)] at key

section Instructions

variable {s : State} {t : TileId} {h : Thr}

theorem exec_qrd_of_ready (r : Ready s t h 2) (vd : Reg) {q : QIx} (hen : ((s.tile t).queue q).en = true)
    (hl : Landed (s.th t h) [vd]) : exec (.qrd t h vd q) s = .next
      (match ((s.tile t).queue q).oldest with
        | some m => s.readMsg t h vd q m none
        | none =>
          if ((s.tile t).queue q).closed then s.finish t h (fun x => ((x.pendV vd 0).zc true none).advance 2)
          else s.block t h (.qrd vd q)) := by
  change execQrd t h vd q s = _
  rw [execQrd, issue_of_ready r, State.qrdSlot, hen, Bool.not_true, if_neg Bool.false_ne_true, withV_of_landed hl] <;> rfl

theorem exec_qtry_of_ready (r : Ready s t h 2) (vd : Reg) {q : QIx} (hen : ((s.tile t).queue q).en = true)
    (hl : Landed (s.th t h) [vd]) : exec (.qtry t h vd q) s = .next
      (match ((s.tile t).queue q).oldest with
        | some m => s.readMsg t h vd q m (some ((s.tile t).queue q).closed)
        | none => s.finish t h (fun x => (x.zc true (some ((s.tile t).queue q).closed)).advance 2)) := by
  change execQtry t h vd q s = _
  rw [execQtry, issue_of_ready r]
  dsimp only
  rw [hen, Bool.not_true, if_neg Bool.false_ne_true, withV_of_landed hl] <;> rfl

theorem qread_retires (r : Ready s t h 2) {vd : Reg} {q : QIx} (hen : ((s.tile t).queue q).en = true) {m : QMsg} {rest : List QMsg}
    (hm : ((s.tile t).queue q).msgs = m :: rest) (hs : m.seen = true) (hl : Landed (s.th t h) [vd])
    (hgood : firstBad ((s.tile t).errWords (((s.tile t).queue q).front m) m.size) = none) (x : Thread)
    (hx : ((s.th t h).pendV vd (readLanes m ((s.tile t).lmem.bytes (((s.tile t).queue q).front m) m.size))).openPair s.debug m = x) :
    RetiresAs (.qrd t h vd q) s t h
      (((s.tile t).fixWords 1 ((s.tile t).errWords (((s.tile t).queue q).front m) m.size)).modQueue q Queue.free)
      (onward { x with st := { (s.th t h).st with z := false, c := (s.th t h).st.c } } 2) ∧
    RetiresAs (.qtry t h vd q) s t h
      (((s.tile t).fixWords 1 ((s.tile t).errWords (((s.tile t).queue q).front m) m.size)).modQueue q Queue.free)
      (onward { x with st := { (s.th t h).st with z := false, c := ((s.tile t).queue q).closed } } 2) := by
  subst hx
  refine ⟨State.readMsg_retiresAs (c := none) hgood ?_, State.readMsg_retiresAs (c := some _) hgood ?_⟩
  · rw [exec_qrd_of_ready r vd hen hl, Queue.oldest_of_seen hm hs]
  · rw [exec_qtry_of_ready r vd hen hl, Queue.oldest_of_seen hm hs]

theorem qdrop_retires (r : Ready s t h 2) {q : QIx} (hen : ((s.tile t).queue q).en = true) :
    RetiresAs (.qdrop t h q) s t h ((s.tile t).modQueue q Queue.free)
      (onward { s.th t h with st := { (s.th t h).st with
        z := !(((s.tile t).queue q).msgs.head?.any (fun o => o.seen)), c := (s.th t h).st.c } } 2) := by
  have e : exec (.qdrop t h q) s = execQdrop t h q s := rfl
  rw [execQdrop, issue_of_ready r] at e
  dsimp only at e
  rw [hen, Bool.not_true, if_neg Bool.false_ne_true] at e
  have key := State.finish_retiresAs (g := fun tl => tl.modQueue q Queue.free)
    (f := fun x => (x.zc ((s.tile t).queue q).oldest.isNone none).advance 2) e rfl
  rwa [Tile.th_modQueue, show (s.tile t).th h = s.th t h from rfl, Thread.zc_advance (s.th t h) rfl, Queue.oldest_isNone] at key

theorem qclose_retires (r : Ready s t h 2) {q : QIx} (hen : ((s.tile t).queue q).en = true) :
    RetiresAs (.qclose t h q) s t h ((s.tile t).modQueue q (fun j => { j with closed := true })) (onward (s.th t h) 2) := by
  have e : exec (.qclose t h q) s = execQclose t h q s := rfl
  rw [execQclose, issue_of_ready r, hen, Bool.not_true, if_neg Bool.false_ne_true] at e
  have key := State.finish_retiresAs (g := fun tl => tl.modQueue q (fun j => { j with closed := true }))
    (f := fun x => x.advance 2) e rfl
  rwa [Thread.advance_eq_onward] at key

/-- A rick that QARM arms (R234). -/
def armedRick (x : Thread) (dc dt : Reg) : Rick :=
  Rick.mk ((x.getD dt).setWidth 16) ((x.getD dt).extractLsb' 16 2) (x.getD dc).toNat 0
    (List.replicate (((x.getD dt).extractLsb' 16 2).toNat + 1) 0) true .thread

/-- The room that the message of a rick takes. -/
def armedRoom (x : Thread) (dt : Reg) : Nat := (4 * (((x.getD dt).extractLsb' 16 2).toNat + 2) + 7) / 8 * 8

/-- What QARM asks of its operands (R234). -/
structure ArmOperands (s : State) (t : TileId) (h : Thr) (dc dt : Reg) (q : QIx) : Prop where
  en : ((s.tile t).queue q).en = true
  mode : ((s.tile t).queue q).mode = true
  pos : 1 ≤ ((s.th t h).getD dc).toNat
  le : ((s.th t h).getD dc).toNat ≤ 65535
  etype : (((s.th t h).getD dt).setWidth 16 : BitVec 16).extractLsb' 14 2 ≠ 3
  even : ¬((((s.th t h).getD dt).setWidth 16 : BitVec 16).extractLsb' 14 2 = 2 ∧ (((s.th t h).getD dt).extractLsb' 16 2).toNat % 2 = 0)

/-- A rick with room `b` of the pool (R234). -/
def Queue.arm (r : Rick) (b : Nat) (k : Queue) : Queue := { k with rick := some r, granted := k.granted + b }

theorem exec_qarm_of_ready (r : Ready s t h 2) {dc dt : Reg} {q : QIx} (o : ArmOperands s t h dc dt q) :
    exec (.qarm t h dc dt q) s = .next
      (if ((s.tile t).queue q).rick.isSome || ((s.tile t).queue q).closed || decide (((s.tile t).queue q).pool < (armedRoom (s.th t h) dt : Int)) then
        s.finish t h (fun x => (x.zc true none).advance 2)
      else (s.modTile t (fun tl => tl.modQueue q (Queue.arm (armedRick (s.th t h) dc dt) (armedRoom (s.th t h) dt)))).finish t h
        (fun x => (x.zc false none).advance 2)) := by
  have hc : ¬(s.th t h).getD dc = 0#32 := fun hc => absurd o.pos (by simp [hc])
  have htag : badEtype (bits ((s.th t h).getD dt) 0 16) ((bits ((s.th t h).getD dt) 16 2 : BitVec 2).toNat + 1) = false :=
    badEtype_eq_false o.etype (fun hb => o.even ⟨hb.1, by have := hb.2; rw [bits] at this; omega⟩)
  have e : exec (.qarm t h dc dt q) s = execQarm t h dc dt q s := rfl
  rw [execQarm, issue_of_ready r] at e
  dsimp only at e
  rw [if_neg (by simp [o.en, o.mode, hc, htag, Nat.not_lt.2 o.le])] at e
  rw [e, armedRick, bits_zero_eq_setWidth] <;> rfl

theorem qarm_refused (r : Ready s t h 2) {dc dt : Reg} {q : QIx} (o : ArmOperands s t h dc dt q)
    (hbusy : ((s.tile t).queue q).rick ≠ none ∨ ((s.tile t).queue q).closed = true ∨
      ((s.tile t).queue q).pool < (armedRoom (s.th t h) dt : Int)) :
    Retires (.qarm t h dc dt q) s t h (onward { s.th t h with st := { (s.th t h).st with z := true, c := (s.th t h).st.c } } 2) := by
  have e := exec_qarm_of_ready r o
  rw [if_pos (by simpa [Option.isSome_iff_ne_none, or_assoc] using hbusy)] at e
  have key := State.finish_retires e
  rwa [Thread.zc_advance (s.th t h) rfl] at key

theorem qarm_arms (r : Ready s t h 2) {dc dt : Reg} {q : QIx} (o : ArmOperands s t h dc dt q)
    (hfree : ((s.tile t).queue q).rick = none) (hopen : ((s.tile t).queue q).closed = false)
    (hpool : (armedRoom (s.th t h) dt : Int) ≤ ((s.tile t).queue q).pool) :
    RetiresAs (.qarm t h dc dt q) s t h ((s.tile t).modQueue q (Queue.arm (armedRick (s.th t h) dc dt) (armedRoom (s.th t h) dt)))
      (onward { s.th t h with st := { (s.th t h).st with z := false, c := (s.th t h).st.c } } 2) := by
  have e := exec_qarm_of_ready r o
  rw [if_neg (by simpa [hfree, hopen] using hpool)] at e
  have key := State.finish_retiresAs (g := fun tl => tl.modQueue q (Queue.arm (armedRick (s.th t h) dc dt) (armedRoom (s.th t h) dt)))
    (f := fun x => (x.zc false none).advance 2) e rfl
  rwa [Tile.th_modQueue, show (s.tile t).th h = s.th t h from rfl, Thread.zc_advance (s.th t h) rfl] at key

end Instructions

/-- Settles O21, from the bytes that a read gives and one lemma per instruction. -/
theorem queueInstructions : Obligations.QueueInstructions := by
  unfold Obligations.QueueInstructions
  refine ⟨fun s t h vd dc dt q m rest => ?_, fun k m rest bs n => ⟨fun hlen hn i _ => laneOf_readLanes m hlen hn,
    Queue.free_of_unseen, fun hm hs => ?_⟩⟩
  · intro x tl k off ws flags taken got tag len room armed r hen
    refine ⟨fun hm hs hl hgood => qread_retires r hen hm hs hl hgood _ rfl, fun hunseen hl => ?_, qdrop_retires r hen,
      qclose_retires r hen, fun hmode h1 h2 h3 h4 => ?_⟩
    · have hrd := exec_qrd_of_ready r vd hen hl
      have htry := exec_qtry_of_ready r vd hen hl
      rw [Queue.oldest_of_unseen hunseen] at hrd htry
      refine ⟨fun hclosed => ?_, fun hopen => ?_, ?_⟩
      · rw [if_pos hclosed] at hrd
        have key := State.finish_retires hrd
        rwa [Thread.zc_advance (s.th t h) (by simp)] at key
      · rw [if_neg (by rw [hopen]; exact Bool.false_ne_true)] at hrd
        exact ⟨_, hrd, State.block_onlyThread s t h _⟩
      · have key := State.finish_retires htry
        rwa [Thread.zc_advance (s.th t h) rfl] at key
    · exact ⟨qarm_refused r ⟨hen, hmode, h1, h2, h3, h4⟩, qarm_arms r ⟨hen, hmode, h1, h2, h3, h4⟩⟩
  · rw [Queue.free_of_seen hm hs]
    exact ⟨rfl, rfl, rfl, rfl, rfl, rfl, rfl⟩

end Sys2Proof.Machine
end

section
/-! REL, ACQ and the copy-engine instructions (R302, R303, R329, R337–R341). From them the obligation O22. -/
namespace Sys2Proof.Machine

open Sys2Proof.Safety

/-- The end of the slot of an instruction that has changed nothing but its tile, and left its thread's single step. -/
theorem State.finish_retiresAs_of_onlyTile {i : Instr} {s v : State} {t : TileId} {h : Thr} {f : Thread → Thread}
    (e : exec i s = .next (v.finish t h f)) (o : OnlyTile s v t) (hss : (v.th t h).st.ss = (s.th t h).st.ss) :
    RetiresAs i s t h (v.tile t) (f (v.th t h)) := by
  refine ⟨_, e, OnlyTile.trans o (State.onlyTile_modTile _ _ _), ?_, fun k hk => ?_, ?_⟩
  · rw [← hss, ← debug_of_onlyTile o]
    simp [State.finish, State.th]
  · simp [State.finish, State.th, Tile.th_modTh, hk]
  · simp [State.finish]

theorem State.th_modTile_self (s : State) (t : TileId) (f : Tile → Tile) (h : Thr) :
    (s.modTile t f).th t h = (f (s.tile t)).th h := by rw [State.th, State.tile_modTile_self]

/-! ## What a clearing of the cache partition and a hazard leave (R340, R514) -/

theorem Tile.lmem_clearCache (tl : Tile) : tl.clearCache.lmem = tl.lmem := by
  simp only [Tile.clearCache, List.foldl_cons, List.foldl_nil, Tile.modTh]

theorem Tile.det_clearCache (tl : Tile) : tl.clearCache.eng.det = {} := by
  simp only [Tile.clearCache, List.foldl_cons, List.foldl_nil, Tile.modTh]

theorem Tile.csize_clearCache (tl : Tile) : tl.clearCache.csize = tl.csize := by
  simp only [Tile.clearCache, List.foldl_cons, List.foldl_nil, Tile.modTh]

theorem Tile.lines_clearCache (tl : Tile) : tl.clearCache.lines = [] := rfl

theorem Tile.fills_clearCache (tl : Tile) : tl.clearCache.fills = tl.fills.map (fun f => { f with dead := true }) := rfl

/-- A change of every thread of a list that changes nothing more when it is made twice. -/
theorem Tile.th_foldl_modTh {f : Thread → Thread} (hf : ∀ x, f (f x) = f x) (l : List Thr) (tl : Tile) (k : Thr) :
    (l.foldl (fun a h => a.modTh h f) tl).th k = if k ∈ l then f (tl.th k) else tl.th k := by
  induction l generalizing tl with
  | nil => simp
  | cons j l ih =>
    rw [List.foldl_cons, ih, Tile.th_modTh]
    by_cases hj : k = j <;> by_cases hk : k ∈ l <;> simp [hj, hk, hf]

theorem Tile.th_clearCache (tl : Tile) (k : Thr) : tl.clearCache.th k = { tl.th k with det := {} } := by
  unfold Tile.clearCache
  rw [Tile.th_foldl_modTh (f := fun x => { x with det := {} }) (fun x => rfl), if_pos ((by decide : ∀ k : Thr, k ∈ ([0, 1, 2, 3] : List Thr)) k)]
  rfl

@[simp] theorem Tile.st_clearCache (tl : Tile) (k : Thr) : (tl.clearCache.th k).st = (tl.th k).st := by rw [Tile.th_clearCache]

@[simp] theorem Tile.st_hazard (tl : Tile) (dbg : Bool) (kind : Nat) (h : Thr) (pc : PWord) (detail : BitVec 6) (w : BitVec 14)
    (k : Thr) : ((tl.hazard dbg kind h pc detail w).th k).st = (tl.th k).st := by
  unfold Tile.hazard
  split
  · rfl
  · dsimp only
    split
    · rw [Tile.th_modTh]
      split <;> rename_i hk
      · rw [hk]
        rfl
      · rfl
    · rfl

/-! ## REL and ACQ (R339, R340, R516) -/

theorem rel_retires {s : State} {t : TileId} {h : Thr} (r : Ready s t h 1) (scope : Scope) (ids : List Nat)
    (hids : ids = ((s.tile t).sbuf.filter (fun b => b.thr = h && relWaits t scope b)).map (fun b => b.id)) :
    Retires (.rel t h scope) s t h (onward
      { s.th t h with hold := (s.th t h).hold ++ ids.filter (fun i => !((s.th t h).hold.contains i)), relScope := some scope } 1) := by
  have e : exec (.rel t h scope) s = execRel t h scope s := rfl
  rw [execRel, issue_of_ready r] at e
  dsimp only at e
  rw [← hids] at e
  have key := State.finish_retires e
  rwa [Thread.advance_eq_onward] at key

/-- The state of an ACQ that has cleared the cache partition where its scope asks for it. -/
def State.acqCleared (s : State) (t : TileId) (scope : Scope) : State :=
  if scope = .thread ∨ scope = .tile then s else s.modTile t Tile.clearCache

theorem State.onlyTile_acqCleared (s : State) (t : TileId) (scope : Scope) : OnlyTile s (s.acqCleared t scope) t := by
  unfold State.acqCleared
  split
  · exact State.onlyTile_refl s t
  · exact State.onlyTile_modTile _ _ _

theorem State.tile_acqCleared (s : State) (t : TileId) (scope : Scope) :
    (s.acqCleared t scope).tile t = if scope = .thread ∨ scope = .tile then s.tile t else (s.tile t).clearCache := by
  unfold State.acqCleared
  split
  · rfl
  · simp

theorem State.st_acqCleared (s : State) (t : TileId) (h : Thr) (scope : Scope) :
    (((s.acqCleared t scope).tile t).th h).st = (s.th t h).st := by
  rw [State.tile_acqCleared]
  split
  · rfl
  · exact Tile.st_clearCache _ _

theorem exec_acq_of_ready {s : State} {t : TileId} {h : Thr} (r : Ready s t h 1) (scope : Scope) :
    exec (.acq t h scope) s = .next (State.finish
      (match (s.th t h).pair with
        | some p =>
          if p.covered && decide (scopeRank (some p.needed) ≤ scopeRank (some scope)) then s.acqCleared t scope
          else (s.acqCleared t scope).modTile t (fun tl => tl.hazard s.debug 4 h (s.th t h).pc
            (scopeEnc p.needed ++ scopeEnc scope) ((0#1) ++ b2v p.sender.isNone ++ p.sender.getD 0xFFF))
        | none => s.acqCleared t scope) t h (fun y => Thread.advance { y with pair := none } 1)) := by
  have e : exec (.acq t h scope) s = execAcq t h scope s := rfl
  rw [execAcq, issue_of_ready r] at e
  have hc : (if (decide (scope = .thread) || decide (scope = .tile)) = true then s else s.modTile t Tile.clearCache) =
      s.acqCleared t scope := by simp [State.acqCleared]
  dsimp only at e
  rw [hc] at e
  exact e

/-- An ACQ with no pair that it does not cover. -/
theorem acq_retires {s : State} {t : TileId} {h : Thr} (r : Ready s t h 1) (scope : Scope)
    (hp : ∀ p, (s.th t h).pair = some p → p.covered = true ∧ scopeRank (some p.needed) ≤ scopeRank (some scope)) :
    RetiresAs (.acq t h scope) s t h ((s.acqCleared t scope).tile t)
      (onward { ((s.acqCleared t scope).tile t).th h with pair := none } 1) := by
  have e : exec (.acq t h scope) s = .next ((s.acqCleared t scope).finish t h (fun y => Thread.advance { y with pair := none } 1)) := by
    rw [exec_acq_of_ready r]
    cases hpair : (s.th t h).pair with
    | none => rfl
    | some p =>
      obtain ⟨hcov, hle⟩ := hp p hpair
      simp [hcov, hle]
  have key := State.finish_retiresAs_of_onlyTile e (State.onlyTile_acqCleared s t scope)
    (congrArg Status.ss (State.st_acqCleared s t h scope))
  rwa [Thread.advance_eq_onward] at key

/-- An ACQ that closes a pair it does not cover reports it in debug mode. -/
theorem acq_reports {s : State} {t : TileId} {h : Thr} (r : Ready s t h 1) (scope : Scope) {p : Pair}
    (hpair : (s.th t h).pair = some p) (hp : p.covered = false ∨ scopeRank (some scope) < scopeRank (some p.needed)) (seen : Tile)
    (hseen : seen = ((s.acqCleared t scope).tile t).hazard s.debug 4 h (s.th t h).pc (scopeEnc p.needed ++ scopeEnc scope)
      ((0#1) ++ b2v p.sender.isNone ++ p.sender.getD 0xFFF)) :
    RetiresAs (.acq t h scope) s t h seen (onward { seen.th h with pair := none } 1) := by
  have e := exec_acq_of_ready r scope
  have hno : ¬(p.covered && decide (scopeRank (some p.needed) ≤ scopeRank (some scope))) = true := by
    simpa [imp_iff_not_or] using hp
  rw [hpair] at e
  dsimp only at e
  rw [if_neg hno] at e
  have key := State.finish_retiresAs_of_onlyTile e
    (OnlyTile.trans (State.onlyTile_acqCleared s t scope) (State.onlyTile_modTile _ _ _)) (by
      rw [State.th, State.tile_modTile_self, Tile.st_hazard, State.st_acqCleared])
  rwa [Thread.advance_eq_onward, State.th_modTile_self, State.tile_modTile_self, ← hseen] at key

/-! ## CEPUT, CERES and CEQRY (R302, R303, R315, R329) -/

theorem ownAccess_of_own {s : State} {t : TileId} (h : Thr) {a : DWord} {n al off : Nat} {write : Bool} (k : Nat → State → State)
    (hlt : a.toNat < 0x100000000) (hal : a.toNat % al = 0) (hres : s.resolveLocal t a.toNat n write = some (.own off)) :
    ownAccess t h a n al write k s = k off s := by
  have hva : (bits a 0 48 : VAddr).toNat = a.toNat := by
    rw [bits_zero_eq_setWidth, BitVec.toNat_setWidth, Nat.mod_eq_of_lt (by omega)]
  rw [ownAccess, hva, if_neg (fun hne => hne hal), if_neg (Nat.not_le.2 hlt), hres]

theorem exec_ceput_of_ready {s : State} {t : TileId} {h : Thr} (r : Ready s t h 1) {an : Reg} {off : Nat}
    (o : OwnRead s t ((s.th t h).getA an) 64 64 off) :
    exec (.ceput t h an) s = .next (if 8 ≤ (s.tile t).eng.qcnt then s.block t h (.ceput an)
      else (s.modTile t (fun tl => { tl with eng := tl.eng.put (leBits 512 ((s.tile t).lmem.bytes off 64)) (s.th t h).st.pl (s.th t h).hold })).finish t h
        (fun y => Thread.advance { y with relScope := none } 1)) := by
  obtain ⟨hlt, hal, hres, hin, herr⟩ := o
  have e : exec (.ceput t h an) s = execCeput t h an s := rfl
  rw [execCeput, issue_of_ready r, State.ceputSlot, if_neg (by omega), ownAccess_of_own h _ hlt hal hres] at e
  rw [e]
  split
  · rfl
  · rw [withRead_of_clean h _ _ hin herr] <;> rfl

theorem ceput_retires {s : State} {t : TileId} {h : Thr} (r : Ready s t h 1) {an : Reg} {off : Nat}
    (o : OwnRead s t ((s.th t h).getA an) 64 64 off) (hq : (s.tile t).eng.qcnt < 8) :
    RetiresAs (.ceput t h an) s t h
      { s.tile t with eng := (s.tile t).eng.put (leBits 512 ((s.tile t).lmem.bytes off 64)) (s.th t h).st.pl (s.th t h).hold } (onward { s.th t h with relScope := none } 1) := by
  have e := exec_ceput_of_ready r o
  rw [if_neg (Nat.not_le.2 hq)] at e
  have key := State.finish_retiresAs
    (g := fun tl => { tl with eng := tl.eng.put (leBits 512 ((s.tile t).lmem.bytes off 64)) (s.th t h).st.pl (s.th t h).hold })
    (f := fun y => Thread.advance { y with relScope := none } 1) e rfl
  rwa [Thread.advance_eq_onward] at key

theorem ceput_blocks {s : State} {t : TileId} {h : Thr} (r : Ready s t h 1) {an : Reg} {off : Nat}
    (o : OwnRead s t ((s.th t h).getA an) 64 64 off) (hq : 8 ≤ (s.tile t).eng.qcnt) :
    ∃ u, exec (.ceput t h an) s = .next u ∧ OnlyThread s u t h ∧ u.th t h = blockedIn (s.th t h) (.ceput an) := by
  have e := exec_ceput_of_ready r o
  rw [if_pos hq] at e
  exact ⟨_, e, State.block_onlyThread s t h _⟩

theorem exec_ceres_of_ready {s : State} {t : TileId} {h : Thr} (r : Ready s t h 1) (hpl : 2 ≤ (s.th t h).st.pl) :
    exec (.ceres t h) s = .next ((s.engResume t).2.finish t h
      (fun x => Thread.advance { x with st := { x.st with z := !(s.engResume t).1 } } 1)) := by
  have e : exec (.ceres t h) s = execCeres t h s := rfl
  rw [execCeres, issue_of_ready r, if_neg (ne_one_of_two_le hpl)] at e
  exact e

theorem ceres_takes {s : State} {t : TileId} {h : Thr} (r : Ready s t h 1) (gv : VectorsGood (s.tile t) 3)
    (hpl : (s.th t h).st.pl = 1) : Takes (.ceres t h) s t h 3 (s.th t h).pc 0 0 := by
  have e : exec (.ceres t h) s = execCeres t h s := rfl
  rw [execCeres, issue_of_ready r, if_pos hpl] at e
  exact State.raise_takes e gv

theorem ceres_of_not_halted {s : State} {t : TileId} {h : Thr} (r : Ready s t h 1) (hpl : 2 ≤ (s.th t h).st.pl)
    (hst : (s.tile t).eng.st ≠ .halted) :
    Retires (.ceres t h) s t h (onward { s.th t h with st := { (s.th t h).st with z := true } } 1) := by
  have e := exec_ceres_of_ready r hpl
  have hr : s.engResume t = (false, s) := by rw [State.engResume, if_pos hst]
  rw [hr] at e
  have key := State.finish_retires e
  rwa [Thread.advance_eq_onward] at key

theorem ceres_of_halted {s : State} {t : TileId} {h : Thr} (r : Ready s t h 1) (hpl : 2 ≤ (s.th t h).st.pl)
    (hst : (s.tile t).eng.st = .halted) (hidle : (s.tile t).eng.active = false) (hq : (s.tile t).eng.qcnt ≠ 0) :
    RetiresAs (.ceres t h) s t h { s.tile t with eng := { (s.tile t).eng with st := .running, part := false, cause := 0 } }
      (onward { s.th t h with st := { (s.th t h).st with z := false } } 1) := by
  have e := exec_ceres_of_ready r hpl
  have hr : s.engResume t = (true, s.modTile t (fun tl => { tl with eng := { tl.eng with st := .running, part := false, cause := 0 } })) := by
    rw [State.engResume, if_neg (not_not.2 hst), hidle, if_neg Bool.false_ne_true, if_neg hq]
    rfl
  rw [hr] at e
  have key := State.finish_retiresAs (g := fun tl => { tl with eng := { tl.eng with st := .running, part := false, cause := 0 } })
    (f := fun x => Thread.advance { x with st := { x.st with z := !true } } 1) e rfl
  rwa [Thread.advance_eq_onward] at key

theorem ceqry_retires {s : State} {t : TileId} {h : Thr} (r : Ready s t h 1) (d : Reg) :
    Retires (.ceqry t h d) s t h (onward ((s.th t h).setD d (s.tile t).eng.stat) 1) := by
  have e : exec (.ceqry t h d) s = execCeqry t h d s := rfl
  rw [execCeqry, issue_of_ready r] at e
  have key := State.finish_retires e
  rwa [Thread.advance_eq_onward] at key

/-- The fields of CE_STAT (R329). -/
theorem Engine.stat_fields (g : Engine) (hj : g.jobs = []) :
    g.stat.extractLsb' 0 2 = engStCode g.st ∧ g.stat.extractLsb' 2 4 = BitVec.ofNat 4 g.qcnt ∧ g.stat.getLsbD 6 = g.part ∧
      g.stat.extractLsb' 7 4 = g.cause ∧ g.stat.extractLsb' 11 21 = BitVec.ofNat 21 g.next := by
  have hs : g.stat = BitVec.ofNat 21 g.next ++ g.cause ++ b2v g.part ++ BitVec.ofNat 4 g.qcnt ++ engStCode g.st := by
    rw [Engine.stat, Engine.count, if_pos hj]
  have hb (p : Bool) : (b2v p).getLsbD 0 = p := by cases p <;> rfl
  rw [hs]
  refine ⟨?_, ?_, ?_, ?_, ?_⟩
  case refine_3 =>
    rw [BitVec.getLsbD_append, if_neg (by omega), BitVec.getLsbD_append, if_neg (by omega), BitVec.getLsbD_append, if_pos (by omega), hb]
  all_goals
    refine BitVec.eq_of_getLsbD_eq fun i hi => ?_
    simp only [BitVec.getLsbD_append, BitVec.getLsbD_extractLsb', hi, decide_true, Bool.true_and]
    grind

/-- Settles O22, from one lemma for each way that an instruction ends. -/
theorem orderAndCopyInstructions : Obligations.OrderAndCopyInstructions := by
  unfold Obligations.OrderAndCopyInstructions
  refine ⟨fun s t h scope => ?_, fun s t h an d off => ?_⟩
  · intro x tl inScope ids cleared r
    have hcl : (s.acqCleared t scope).tile t = cleared := State.tile_acqCleared s t scope
    refine ⟨rel_retires r scope ids ?_, fun hp => ?_, fun p hpair hp => ?_, Tile.lines_clearCache tl, ?_, ?_, fun k => ?_⟩
    · have hw (b : SBuf) : inScope b = relWaits t scope b := by
        simp only [inScope, relWaits, tileCob, bits]
        cases scope with
        | thread | tile | package | system => rfl
        | cob => cases b.dst <;> rfl
      simp [ids, hw, tl, BEq.beq]
    · exact hcl ▸ acq_retires r scope hp
    · exact acq_reports r scope hpair hp _ (by rw [hcl])
    · intro f hf
      rw [Tile.fills_clearCache] at hf
      obtain ⟨g, -, rfl⟩ := List.mem_map.1 hf
      rfl
    · exact Tile.lmem_clearCache tl
    · rw [Tile.th_clearCache]
  · intro x tl g desc code fld r hj
    refine ⟨fun o hq => ?_, ceput_blocks r, ceres_of_not_halted r, ceres_of_halted r, fun gv hpl => ?_, ?_⟩
    · have key := ceput_retires r o hq
      rw [Engine.put] at key
      exact key
    · exact ceres_takes r gv hpl
    · refine ⟨_, ?_, ceqry_retires r d⟩
      have hcode : engStCode g.st = code := by
        simp only [code]
        cases g.st <;> rfl
      obtain ⟨h0, h2, h6, h7, h11⟩ := Engine.stat_fields g hj
      exact ⟨h0.trans hcode, h2, h6, h7, h11⟩

end Sys2Proof.Machine
end

section
/-! Writes of registers: the blocks at their addresses, the check of the source and what a write that passes or fails it
does (R8, R9, R55, R365, R488). From them the obligation O53. -/
namespace Sys2Proof.Machine

open Sys2Proof.Safety

/-! ## Addresses of blocks (R55, R242, R327) -/

theorem csrBlk_paCt (t : TileId) {o : Nat} (ho : o < 0x40000) : csrBlk (paCt t o) = some (.ct t o) := by
  have ht := t.isLt
  have hn : BitVec.ofNat 12 ((paCt t o - 0x3F0000000000) / 0x40000) = t := by
    rw [show (paCt t o - 0x3F0000000000) / 0x40000 = t.toNat by unfold paCt; omega, BitVec.ofNat_toNat, BitVec.setWidth_eq]
  have hm : (paCt t o - 0x3F0000000000) % 0x40000 = o := by unfold paCt; omega
  have hlo : 0x3F0000000000 ≤ paCt t o := by unfold paCt; omega
  have hhi : paCt t o - 0x3F0000000000 < 0x40000000 := by unfold paCt; omega
  simp only [csrBlk, hn, hm, hhi, Nat.not_lt.2 hlo, if_true, if_false]

theorem csrBlk_paQt (t : TileId) {o : Nat} (ho : o < 0x10000) : csrBlk (paQt t o) = some (.qt t o) := by
  have ht := t.isLt
  have hn : BitVec.ofNat 12 ((paQt t o - 0x3F0000000000 - 0x100000000) / 0x10000) = t := by
    rw [show (paQt t o - 0x3F0000000000 - 0x100000000) / 0x10000 = t.toNat by unfold paQt; omega, BitVec.ofNat_toNat,
      BitVec.setWidth_eq]
  have hm : (paQt t o - 0x3F0000000000) % 0x10000 = o := by unfold paQt; omega
  have hlo : ¬paQt t o < 0x3F0000000000 := by unfold paQt; omega
  have h1 : ¬paQt t o - 0x3F0000000000 < 0x40000000 := by unfold paQt; omega
  have h2 : 0x100000000 ≤ paQt t o - 0x3F0000000000 ∧ paQt t o - 0x3F0000000000 < 0x110000000 := by unfold paQt; omega
  simp only [csrBlk, hn, hm, hlo, h1, h2.1, h2.2, decide_true, Bool.and_self, if_true, if_false]

theorem csrBlk_paCe (t : TileId) {o : Nat} (ho : o < 0x10000) : csrBlk (paCe t o) = some (.ce t o) := by
  have ht := t.isLt
  have hn : BitVec.ofNat 12 ((paCe t o - 0x3F0000000000 - 0x200000000) / 0x10000) = t := by
    rw [show (paCe t o - 0x3F0000000000 - 0x200000000) / 0x10000 = t.toNat by unfold paCe; omega, BitVec.ofNat_toNat,
      BitVec.setWidth_eq]
  have hm : (paCe t o - 0x3F0000000000) % 0x10000 = o := by unfold paCe; omega
  have hlo : ¬paCe t o < 0x3F0000000000 := by unfold paCe; omega
  have h1 : ¬paCe t o - 0x3F0000000000 < 0x40000000 := by unfold paCe; omega
  have h2 : 0x110000000 ≤ paCe t o - 0x3F0000000000 := by unfold paCe; omega
  have h3 : 0x200000000 ≤ paCe t o - 0x3F0000000000 ∧ paCe t o - 0x3F0000000000 < 0x210000000 := by unfold paCe; omega
  simp only [csrBlk, hn, hm, hlo, h1, Nat.not_lt.2 h2, h3.1, h3.2, decide_true, decide_false, Bool.and_self, Bool.and_false, Bool.false_eq_true,
    if_true, if_false]

theorem csrTile_paCt (t : TileId) {o : Nat} (ho : o < 0x40000) : csrTile (paCt t o) = some t := by
  have ht := t.isLt
  have hn : BitVec.ofNat 12 ((paCt t o - 0x3F0000000000) / 0x40000) = t := by
    rw [show (paCt t o - 0x3F0000000000) / 0x40000 = t.toNat by unfold paCt; omega, BitVec.ofNat_toNat, BitVec.setWidth_eq]
  rw [csrTile, if_neg (by unfold paCt; omega), if_pos (by unfold paCt; omega), hn]

/-! ## What an access to a half's register leaves (R485) -/

theorem State.touchHalf_eq (s : State) (pa : Nat) : ∃ c, s.touchHalf pa = { s with cobs := c } := by
  unfold State.touchHalf
  split
  · exact ⟨_, rfl⟩
  · exact ⟨s.cobs, rfl⟩

@[simp] theorem State.tile_touchHalf (s : State) (pa : Nat) (t : TileId) : (s.touchHalf pa).tile t = s.tile t := by
  obtain ⟨c, e⟩ := s.touchHalf_eq pa
  rw [e]
  rfl

@[simp] theorem State.th_touchHalf (s : State) (pa : Nat) (t : TileId) (h : Thr) : (s.touchHalf pa).th t h = s.th t h := by
  rw [State.th, State.tile_touchHalf, State.th]

@[simp] theorem State.debug_touchHalf (s : State) (pa : Nat) : (s.touchHalf pa).debug = s.debug := by
  obtain ⟨c, e⟩ := s.touchHalf_eq pa
  rw [e]
  rfl

@[simp] theorem State.net_touchHalf (s : State) (pa : Nat) : (s.touchHalf pa).net = s.net := by
  obtain ⟨c, e⟩ := s.touchHalf_eq pa
  rw [e]

@[simp] theorem State.srcLim_touchHalf (s : State) (pa : Nat) (src : Src) : (s.touchHalf pa).srcLim src = s.srcLim src := by
  cases src with
  | thread t h => rw [State.srcLim, State.th_touchHalf, State.srcLim]
  | _ => rfl

/-! ## Changes of one thread -/

theorem Tile.still_modTh (tl : Tile) (h : Thr) (f : Thread → Thread) : still (tl.modTh h f) = still tl := rfl

theorem State.modTh_onlyThread (s : State) (t : TileId) (h : Thr) (f : Thread → Thread) :
    OnlyThread s (s.modTh t h f) t h ∧ (s.modTh t h f).th t h = f (s.th t h) := by
  refine ⟨⟨State.onlyTile_modTile _ _ _, ?_, fun k hk => ?_⟩, ?_⟩
  · rw [State.modTh, State.tile_modTile_self, Tile.still_modTh]
  · rw [State.modTh, State.th_modTile_self, Tile.th_modTh, if_neg hk, State.th]
  · rw [State.modTh, State.th_modTile_self, Tile.th_modTh_self, State.th]

/-! ## The check of the source and the write (R9, R55) -/

section Writes

variable {s : State} {src : Src} {pa acc : Nat} {v : DWord} {ver : Option Bool}

theorem regWrite_of_dead (h : s.alive = false) : s.regWrite src pa acc v ver = s := by
  rw [State.regWrite, h]
  rfl

theorem regWrite_of_refused {b : Blk} (ha : s.alive = true) (hb : csrBlk pa = some b) (hm : s.srcMay src b (some v) = false) :
    s.regWrite src pa acc v ver = s.refusedWrite src := by
  rw [State.regWrite, ha, hb]
  simp only [Bool.not_true, Bool.false_eq_true, if_false, hm, Bool.not_false, if_true]

/-- A thread at U writes no register (R55). -/
theorem regWrite_of_user {u : TileId} {i : Thr} (ha : s.alive = true) (hpl : (s.th u i).st.pl = 1) :
    s.regWrite (.thread u i) pa acc v ver = s.refusedWrite (.thread u i) := by
  cases hb : csrBlk pa with
  | some b => exact regWrite_of_refused ha hb (by simp [State.srcMay, State.csrPerm, hpl])
  | none =>
    rw [State.regWrite, ha, hb]
    rfl

theorem regWrite_of_ready {b : Blk} (ha : s.alive = true) (hb : csrBlk pa = some b) (hm : s.srcMay src b (some v) = true)
    (hr : s.blkReady b = true) : s.regWrite src pa acc v ver = (s.touchHalf pa).doWrite src b acc v ver := by
  rw [State.regWrite, ha, hb]
  simp only [Bool.not_true, Bool.false_eq_true, if_false, hm, hr, if_true]

theorem regWrite_of_held {b : Blk} (ha : s.alive = true) (hb : csrBlk pa = some b) (hm : s.srcMay src b (some v) = true)
    (hr : s.blkReady b = false) : s.regWrite src pa acc v ver =
      s.holdAccess { src := src, write := true, pa := pa, width := acc, data := v } b := by
  rw [State.regWrite, ha, hb]
  simp only [Bool.not_true, Bool.false_eq_true, if_false, hm, hr]

/-- A source that may write the register blocks of tile `t`. -/
def SrcReaches (s : State) (src : Src) (t : TileId) : Prop :=
  match src with
  | .thread u h => (s.th u h).st.pl = 3 ∨
      (s.th u h).st.pl = 2 ∧ ∃ f, (s.tile u).func = some f ∧ (s.tile t).func = some f
  | _ => True

/-- The three blocks of a tile. -/
def Blk.ofTile (b : Blk) (t : TileId) : Prop := ∃ o, b = .ct t o ∨ b = .qt t o ∨ b = .ce t o

theorem superMay_ofTile {b : Blk} {t : TileId} (hb : b.ofTile t) (f : Option FuncNo) (w : Option DWord) :
    s.superMay f b w = true ↔ ∃ g, f = some g ∧ (s.tile t).func = some g := by
  obtain ⟨o, rfl | rfl | rfl⟩ := hb <;> cases f <;> simp [State.superMay]

theorem srcMay_ofTile {b : Blk} {t : TileId} (hb : b.ofTile t) (h : SrcReaches s src t) (w : Option DWord) :
    s.srcMay src b w = true := by
  cases src with
  | thread u k =>
    obtain hM | ⟨hS, hf⟩ := h
    · simp [State.srcMay, State.csrPerm, hM]
    · simp [State.srcMay, State.csrPerm, hS, (superMay_ofTile hb _ _).2 hf]
  | _ => rfl

theorem srcMay_ofTile_eq_false {b : Blk} {t u : TileId} {k : Thr} (hb : b.ofTile t) (hpl : (s.th u k).st.pl = 2)
    (h : ¬SrcReaches s (.thread u k) t) (w : Option DWord) : s.srcMay (.thread u k) b w = false := by
  have hno : ¬s.superMay (s.tile u).func b w = true := fun hs => h (.inr ⟨hpl, (superMay_ofTile hb _ _).1 hs⟩)
  simp [State.srcMay, State.csrPerm, hpl, hno]

theorem blkReady_ofTile {b : Blk} {t : TileId} (hb : b.ofTile t) : s.blkReady b = (s.tileOn t && (s.tile t).zeroed) := by
  obtain ⟨o, rfl | rfl | rfl⟩ := hb <;> rfl

/-- A write of another width, or at an offset that the block does not list, changes nothing (R9, R277). -/
theorem doWrite_of_width_ne {b : Blk} (h : b.width ≠ some acc) : s.doWrite src b acc v ver = s := by
  rw [State.doWrite, State.sizedWrite, if_neg h]

theorem doWrite_ct {t : TileId} {o : Nat} {r : CtReg} (h : ctReg o = some (r, acc)) :
    s.doWrite src (.ct t o) acc v ver = s.ctWrite (s.srcLim src) t r v := by
  simp only [State.doWrite, State.sizedWrite, Blk.width, State.blkWrite, h, Option.map_some, if_true]

theorem doWrite_qt {t : TileId} {o : Nat} {r : QtReg} (h : qtReg o = some (r, acc)) :
    s.doWrite src (.qt t o) acc v ver = s.qtWrite t r v := by
  simp only [State.doWrite, State.sizedWrite, Blk.width, State.blkWrite, h, Option.map_some, if_true]

theorem doWrite_ce {t : TileId} {o : Nat} {r : CeReg} (h : ceReg o = some (r, acc)) :
    s.doWrite src (.ce t o) acc v ver = s.ceWrite t r v := by
  simp only [State.doWrite, State.sizedWrite, Blk.width, State.blkWrite, h, Option.map_some, if_true]

end Writes

section TileBlocks

variable {s : State} {src : Src} {t : TileId} {acc : Nat} {ver : Option Bool}

theorem reaches_of_writer (w : TileWriter s src t) : SrcReaches s src t := w.2.2.2

theorem blkReady_of_writer (w : TileWriter s src t) {b : Blk} (hb : b.ofTile t) : s.blkReady b = true := by
  rw [blkReady_ofTile hb, w.2.1, w.2.2.1]
  rfl

theorem regWrite_ct (w : TileWriter s src t) {o : Nat} (ho : o < 0x40000) {r : CtReg} (hr : ctReg o = some (r, acc)) (v : DWord) :
    s.regWrite src (paCt t o) acc v ver = (s.touchHalf (paCt t o)).ctWrite (s.srcLim src) t r v := by
  have hb : (Blk.ct t o).ofTile t := ⟨o, .inl rfl⟩
  rw [regWrite_of_ready w.1 (csrBlk_paCt t ho) (srcMay_ofTile hb (reaches_of_writer w) _) (blkReady_of_writer w hb), doWrite_ct hr, State.srcLim_touchHalf]

theorem regWrite_qt (w : TileWriter s src t) {o : Nat} (ho : o < 0x10000) {r : QtReg} (hr : qtReg o = some (r, acc)) (v : DWord) :
    s.regWrite src (paQt t o) acc v ver = (s.touchHalf (paQt t o)).qtWrite t r v := by
  have hb : (Blk.qt t o).ofTile t := ⟨o, .inr (.inl rfl)⟩
  rw [regWrite_of_ready w.1 (csrBlk_paQt t ho) (srcMay_ofTile hb (reaches_of_writer w) _) (blkReady_of_writer w hb), doWrite_qt hr]

theorem regWrite_ce (w : TileWriter s src t) {o : Nat} (ho : o < 0x10000) {r : CeReg} (hr : ceReg o = some (r, acc)) (v : DWord) :
    s.regWrite src (paCe t o) acc v ver = (s.touchHalf (paCe t o)).ceWrite t r v := by
  have hb : (Blk.ce t o).ofTile t := ⟨o, .inr (.inr rfl)⟩
  rw [regWrite_of_ready w.1 (csrBlk_paCe t ho) (srcMay_ofTile hb (reaches_of_writer w) _) (blkReady_of_writer w hb), doWrite_ce hr]

end TileBlocks

/-! ## A refused write and a held one (R55, R365, R488) -/

/-- A refused write changes the writing thread alone, which is told by a Store Error (R365). -/
theorem refusedWrite_thread (s : State) (u : TileId) (i : Thr) :
    OnlyThread { s with free := s.free + 1 } (s.refusedWrite (.thread u i)) u i ∧
      (s.refusedWrite (.thread u i)).th u i = (s.th u i).storeError ⟨(s.th u i).pc, Config.free s.free 0 48, 2⟩ :=
  State.modTh_onlyThread { s with free := s.free + 1 } u i _

theorem State.modCob_eq (s : State) (c : CobNo) (f : Cob → Cob) : ∃ d, s.modCob c f = { s with cobs := d } := ⟨_, rfl⟩

/-- A wake of a half changes nothing but its Cob (R488, R489). -/
theorem State.wake_half_eq (s : State) (c : CobNo) (so : Bool) : ∃ d, s.wake (.half c so) = { s with cobs := d } := by
  have hset (u : State) (hu : ∃ d, u = { s with cobs := d }) (dm : Domain) (hd : dm ≠ .kiln1) (p : Power) :
      ∃ d, u.setDom dm p = { s with cobs := d } := by
    obtain ⟨d, rfl⟩ := hu
    cases dm with
    | half c so => cases so <;> exact ⟨_, rfl⟩
    | memif c => exact ⟨_, rfl⟩
    | kiln1 => exact absurd rfl hd
  have hup (u : State) (hu : ∃ d, u = { s with cobs := d }) (dm : Domain) (hd : dm ≠ .kiln1) :
      ∃ d, (match u.dom dm with
        | .off => u.setDom dm .goingOn
        | .goingOff _ => u.setDom dm (.goingOff true)
        | _ => u) = { s with cobs := d } := by
    cases u.dom dm with
    | off => exact hset u hu dm hd _
    | goingOff w => exact hset u hu dm hd _
    | _ => exact hu
  unfold State.wake
  dsimp only
  split
  · exact ⟨s.cobs, rfl⟩
  · split
    · exact ⟨_, rfl⟩
    · exact hup _ (hup _ ⟨_, rfl⟩ _ (by simp)) _ (by simp)

/-- An access that is held waits at the end of the list, and wakes its half. -/
theorem holdAccess_ofTile {b : Blk} {t : TileId} (hb : b.ofTile t) (s : State) (a : HeldAcc) :
    s.holdAccess a b = { s with side := (s.holdAccess a b).side, cobs := (s.holdAccess a b).cobs } ∧
      (s.holdAccess a b).side = { s.side with held := s.side.held ++ [a] } := by
  have hd : b.domain = some (.half (tileCob t) (tileSouth t)) := by obtain ⟨o, rfl | rfl | rfl⟩ := hb <;> rfl
  rw [State.holdAccess, hd]
  dsimp only
  split
  · exact ⟨rfl, rfl⟩
  · obtain ⟨d, e⟩ := State.wake_half_eq { s with side := { s.side with held := s.side.held ++ [a] } } (tileCob t) (tileSouth t)
    rw [e]
    exact ⟨rfl, rfl⟩

/-- Every register write is a `regWrite` of its source. -/
theorem userWrite {s : State} {u : TileId} {i : Thr} {x : Instr} {pa acc : Nat} {v : DWord} {ver : Option Bool}
    (hpl : (s.th u i).st.pl = 1) (e : exec x s = .next (s.regWrite (.thread u i) pa acc v ver)) :
    ((s.lands.coldrst = false ∨ s.lands.railHold = true) → exec x s = .next s) ∧
      (s.lands.coldrst = true → s.lands.railHold = false → ∃ y, exec x s = .next y ∧
        OnlyThread { s with free := s.free + 1 } y u i ∧
        y.th u i = (s.th u i).storeError ⟨(s.th u i).pc, Config.free s.free 0 48, 2⟩) := by
  refine ⟨fun hdead => ?_, fun h1 h2 => ?_⟩
  · rw [e, regWrite_of_dead (by simpa [State.alive] using fun h => hdead.resolve_left (by simp [h]))]
  · refine ⟨_, e, ?_⟩
    rw [regWrite_of_user (by simp [State.alive, h1, h2]) hpl]
    exact refusedWrite_thread s u i

/-- Settles O53: what one `regWrite` does, and that every instruction of the list is one. -/
theorem registerWrites : Obligations.RegisterWrites := by
  unfold Obligations.RegisterWrites
  refine ⟨fun s src t pa n v => ?_, fun s u i t h q c f vpn a dev w2 w e sl n pa k => ?_⟩
  · intro at_ s0 runs may ready k hat hrun
    have halive : s.alive = true := by simp [State.alive, hrun.1, hrun.2]
    have hpa : pa.toNat = paCe t 0x20 := by rw [hat, paCe]; omega
    have hof : (Blk.ce t 0x20).ofTile t := ⟨_, .inr (.inr rfl)⟩
    have hblk : csrBlk pa.toNat = some (.ce t 0x20) := by rw [hpa, csrBlk_paCe t (by omega)]
    have hreg : ceReg 0x20 = some (.fqh, 4) := rfl
    have e : exec k s = .next (s.regWrite src pa.toNat n.toNat (if n = 4 then (bits v 0 32 : Word).setWidth 64 else v) none) := rfl
    have hmay : may → ∀ w, s.srcMay src (.ce t 0x20) w = true := fun hm => srcMay_ofTile hof hm
    have hready (r : ready) : s.blkReady (.ce t 0x20) = true := by rw [blkReady_ofTile hof, r.1, r.2]; rfl
    refine ⟨fun y h hsrc hlow => ⟨_, e, ?_⟩, fun hm r hn => ?_, fun hm r hn => ⟨_, e, ?_⟩, fun hm hoff => ⟨_, e, ?_⟩⟩
    · subst hsrc
      have href : s.srcMay (.thread y h) (.ce t 0x20) (some (if n = 4 then (bits v 0 32 : Word).setWidth 64 else v)) = false := by
        obtain hU | ⟨hS, hno⟩ := hlow
        · simp [State.srcMay, State.csrPerm, hU]
        · exact srcMay_ofTile_eq_false hof hS hno _
      rw [regWrite_of_refused halive hblk href]
      exact refusedWrite_thread s y h
    · rw [e, regWrite_of_ready halive hblk (hmay hm _) (hready r), doWrite_of_width_ne]
      simp only [Blk.width, hreg, Option.map_some, ne_eq, Option.some.injEq]
      exact fun h4 => hn (BitVec.eq_of_toNat_eq h4.symm)
    · subst hn
      rw [regWrite_of_ready halive hblk (hmay hm _) (hready r), show ((4 : BitVec 8)).toNat = 4 from rfl, doWrite_ce hreg]
      refine ⟨State.onlyTile_modTile _ _ _, ?_⟩
      have hv : (bits ((bits v 0 32 : Word).setWidth 64) 0 32 : Word) = v.extractLsb' 0 32 := by
        rw [bits_zero_eq_setWidth, BitVec.setWidth_setWidth_of_le _ (by omega), BitVec.setWidth_eq]
        rfl
      simp only [State.ceWrite, State.modEng, if_true, hv, State.tile_modTile_self, State.tile_touchHalf]
    · rw [regWrite_of_held halive hblk (hmay hm _) (by rw [blkReady_ofTile hof, hoff]; rfl)]
      exact holdAccess_ofTile hof s _
  · intro src hpl x hx
    fin_cases hx <;> exact userWrite hpl rfl

end Sys2Proof.Machine
end

section
/-! Control of threads through the registers of a tile (R39–R41, R193, R194, R202, R375, R520, R521). From them the
obligation O26. -/
namespace Sys2Proof.Machine

open Sys2Proof.Safety

/-! ## A tile on which no thread waits, stops or halts -/

/-- No thread of the tile has a stop or halt due or waits for a load. -/
def Tile.Calm (tl : Tile) : Prop := ∀ k, (tl.th k).stopReq = false ∧ (tl.th k).haltReq = none ∧ (tl.th k).wait = none

theorem Tile.Calm.th {s : State} {t : TileId} (calm : (s.tile t).Calm) (k : Thr) :
    (s.th t k).stopReq = false ∧ (s.th t k).haltReq = none ∧ (s.th t k).wait = none := calm k

theorem Thread.settle_of_calm {x : Thread} (hs : x.stopReq = false) (hh : x.haltReq = none) : x.settle = x := by
  simp [Thread.settle, hs, hh]

/-- What a thread becomes at the end of its slot, for every thread of a tile with no stall. -/
theorem Tile.th_settle {tl : Tile} (hc : tl.causes = 0) (k : Thr) :
    tl.settle.th k = (tl.th k).settle := by
  have hfold (l : List Thr) (a : Tile) (hnd : l.Nodup) :
      (l.foldl (fun a h => a.modTh h Thread.settle) a).th k = if k ∈ l then (a.th k).settle else a.th k := by
    induction l generalizing a with
    | nil => simp
    | cons j l ih =>
      obtain ⟨hj, hl⟩ := List.nodup_cons.1 hnd
      rw [List.foldl_cons, ih _ hl, Tile.th_modTh]
      by_cases hk : k = j
      · simp [hk, hj]
      · simp [hk]
  rw [Tile.settle, if_neg (not_not.2 hc), hfold _ _ (by decide), if_pos ((by decide : ∀ k : Thr, k ∈ ([0, 1, 2, 3] : List Thr)) k)]

theorem Tile.still_settle (tl : Tile) : still tl.settle = still tl := by
  have hfold (l : List Thr) (a : Tile) : still (l.foldl (fun a h => a.modTh h Thread.settle) a) = still a := by
    induction l generalizing a with
    | nil => rfl
    | cons j l ih => rw [List.foldl_cons, ih, Tile.still_modTh]
  unfold Tile.settle
  split
  · rfl
  · exact hfold _ _

/-- A change of one thread, whose stop or halt is then taken. -/
theorem Tile.settle_modTh {tl : Tile} (hc : tl.causes = 0) (calm : tl.Calm) (h : Thr) (f : Thread → Thread) (k : Thr) :
    ((tl.modTh h f).settle).th k = if k = h then (f (tl.th h)).settle else tl.th k := by
  rw [Tile.th_settle (tl := tl.modTh h f) hc, Tile.th_modTh]
  split
  · rfl
  · exact Thread.settle_of_calm (calm k).1 (calm k).2.1

theorem Tile.modTh_congr {tl : Tile} {h : Thr} {f g : Thread → Thread} (e : f (tl.th h) = g (tl.th h)) :
    tl.modTh h f = tl.modTh h g := by
  rw [Tile.th] at e
  rw [Tile.modTh, Tile.modTh, SMap.modify, SMap.modify, e]

/-! ## Starts, stops, halts and steps of a tile's thread (R39–R41, R521) -/

/-- A thread as a write of its PC field leaves it when the write keeps PC and SLV (R58). -/
def Thread.rewritten (x : Thread) : Thread := if x.run = .stopped ∨ x.run = .halted then { x with moved := 0, part := [] } else x

theorem getLsbD_b2v (p : Bool) : (b2v p).getLsbD 0 = p := by cases p <;> rfl

theorem tctl_pc (x : Thread) (dbg : Bool) {j : Nat} (hj : j < 14) : (x.tctl dbg).getLsbD j = x.pc.getLsbD j := by
  rw [Thread.tctl, BitVec.getLsbD_append, if_pos hj]

theorem tctl_run (x : Thread) (dbg : Bool) : (x.tctl dbg).getLsbD 16 = decide (x.run ≠ .stopped) := by
  rw [Thread.tctl, BitVec.getLsbD_append, if_neg (by omega), BitVec.getLsbD_append, if_neg (by omega), BitVec.getLsbD_append, if_pos (by omega), getLsbD_b2v]

theorem tctl_slv (x : Thread) (dbg : Bool) : (x.tctl dbg).getLsbD 17 = x.slv := by
  rw [Thread.tctl, BitVec.getLsbD_append, if_neg (by omega), BitVec.getLsbD_append, if_neg (by omega), BitVec.getLsbD_append, if_neg (by omega),
    BitVec.getLsbD_append, if_pos (by omega), getLsbD_b2v]

theorem tctl_halt (x : Thread) (dbg : Bool) :
    (x.tctl dbg).getLsbD 18 = (dbg && (decide (x.run = .halted) || x.haltReq.isSome)) := by
  rw [Thread.tctl, BitVec.getLsbD_append, if_neg (by omega), BitVec.getLsbD_append, if_neg (by omega), BitVec.getLsbD_append, if_neg (by omega),
    BitVec.getLsbD_append, if_neg (by omega), BitVec.getLsbD_append, if_pos (by omega), getLsbD_b2v]

/-- The value that a write of one bit of CT_TCTL puts there (R58). -/
theorem tctl_fields (x : Thread) (dbg : Bool) (i : Nat) (b : Bool) (hi : i = 16 ∨ i = 18) (w : Word)
    (hw : w = bits ((setBit (x.tctl dbg) i b).setWidth 64) 0 32) :
    (bits w 0 14 : PWord) = x.pc ∧ bit w 17 = x.slv ∧ bit w 16 = (if i = 16 then b else decide (x.run ≠ .stopped)) ∧
      bit w 18 = (if i = 18 then b else dbg && (decide (x.run = .halted) || x.haltReq.isSome)) := by
  have hv : w = setBit (x.tctl dbg) i b := by
    rw [hw, bits_zero_eq_setWidth, BitVec.setWidth_setWidth_of_le _ (by omega), BitVec.setWidth_eq]
  have hbit (j : Nat) : w.getLsbD j = if j = i then b else (x.tctl dbg).getLsbD j := by
    rw [hv, getLsbD_setBit _ (by omega)]
  refine ⟨BitVec.eq_of_getLsbD_eq fun j hj => ?_, ?_, ?_, ?_⟩
  · rw [bits, BitVec.getLsbD_extractLsb', Nat.zero_add, hbit, if_neg (by omega), tctl_pc x dbg hj, decide_eq_true hj, Bool.true_and]
  · rw [bit, hbit, if_neg (by omega), tctl_slv]
  · rw [bit, hbit, tctl_run]
    simp only [eq_comm]
  · rw [bit, hbit, tctl_halt]
    simp only [eq_comm]

section Writes

variable {tl : Tile} {h : Thr} {w : Word}

/-- A write of CT_TCTL of the thread's own PC and SLV rewrites the thread, and then RUN and HALT act (R58). -/
theorem writeTctl_eq (dbg lim : Bool) (hpc : (bits w 0 14 : PWord) = (tl.th h).pc) (hslv : bit w 17 = (tl.th h).slv) :
    tl.writeTctl dbg lim h w =
      if bit w 16 = true then
        if dbg = true then
          if bit w 18 = true then ((tl.modTh h Thread.rewritten).start h).reqHalt h else ((tl.modTh h Thread.rewritten).start h).unhalt h
        else (tl.modTh h Thread.rewritten).start h
      else (tl.modTh h Thread.rewritten).reqStop h := by
  have ht : tl.modTh h (fun x =>
      let y := if x.run = .stopped || x.run = .halted then { x with pc := bits w 0 14, moved := 0, part := [] } else x
      { y with slv := if bit w 17 && lim then y.slv else bit w 17 }) = tl.modTh h Thread.rewritten := by
    refine Tile.modTh_congr ?_
    simp only [hpc, hslv, Thread.rewritten, Bool.or_eq_true, decide_eq_true_iff]
    split <;> simp
  rw [Tile.writeTctl]
  dsimp only at ht ⊢
  rw [ht]
  cases bit w 16 <;> cases dbg <;> simp

/-- What becomes of the thread that a write starts (R41). -/
def Thread.started (x : Thread) : Thread :=
  { x with run := .running, blk := none, st := { pl := if x.slv then 3 else 2 }, det := {}, stopReq := false, haltReq := none,
           stepping := false, owed := false }

theorem start_of_stopped (hz : tl.zeroed = true) (hf : tl.func ≠ none) (hr : (tl.th h).run = .stopped) :
    tl.start h = tl.modTh h Thread.started := by
  rw [Tile.start, if_pos (by simp [hz, hr, Option.isSome_iff_ne_none, hf])]
  rfl

theorem start_of_not_stopped (hr : (tl.th h).run ≠ .stopped) : tl.start h = tl := by
  rw [Tile.start, if_neg (by simp [hr])]

theorem reqStop_of_on (hr : (tl.th h).run = .running ∨ (tl.th h).run = .blocked) :
    tl.reqStop h = (tl.modTh h (fun x => { x with stopReq := true })).settle := by
  rw [Tile.reqStop]
  obtain hr | hr := hr <;> rw [hr]

theorem reqHalt_of_on (hr : (tl.th h).run = .running ∨ (tl.th h).run = .blocked) :
    tl.reqHalt h = (tl.modTh h (fun x => { x with haltReq := some (x.haltReq.getD 1) })).settle := by
  rw [Tile.reqHalt]
  obtain hr | hr := hr <;> rw [hr]

theorem reqHalt_of_off (hr : ¬((tl.th h).run = .running ∨ (tl.th h).run = .blocked)) : tl.reqHalt h = tl := by
  rw [Tile.reqHalt]
  cases e : (tl.th h).run <;> simp_all

end Writes

/-- A running or blocked thread is not rewritten. -/
theorem Thread.rewritten_of_on {x : Thread} (hr : x.run = .running ∨ x.run = .blocked) : x.rewritten = x := by
  rw [Thread.rewritten, if_neg]
  obtain hr | hr := hr <;> simp [hr]

@[simp] theorem Thread.rewritten_run (x : Thread) : x.rewritten.run = x.run := by
  unfold Thread.rewritten
  split <;> rfl

theorem Thread.rewritten_of_stopped {x : Thread} (hr : x.run = .stopped ∨ x.run = .halted) :
    x.rewritten = { x with moved := 0, part := [] } := if_pos hr

theorem Thread.settle_stopReq {x : Thread} (hw : x.wait = none) : { x with stopReq := true }.settle = x.stop := by
  simp [Thread.settle, hw, Thread.stop]

theorem Thread.settle_haltReq {x : Thread} (hw : x.wait = none) (hs : x.stopReq = false) (hh : x.haltReq = none)
    (hr : x.run = .running ∨ x.run = .blocked) : { x with haltReq := some (x.haltReq.getD 1) }.settle = x.halt 1 := by
  have h1 : ¬((1 : BitVec 3) = haltAfter) := by decide
  simp only [Thread.settle, hw, hs, hh, Option.isSome_none, Bool.false_eq_true, if_false, Option.getD_none, if_neg h1,
    Bool.or_eq_true, decide_eq_true_iff, if_pos hr]
  simp [Thread.halt, hw, hs]

theorem Thread.stop_of_calm {x : Thread} (hw : x.wait = none) (hs : x.stopReq = false) (hh : x.haltReq = none) : x.stop =
    { x with run := .stopped, blk := none, stgU := { x.stgU with count := 0 }, stgS := { x.stgS with count := 0 }
             stgM := { x.stgM with count := 0 }, walk := none, moved := 0, part := [], stepping := false, owed := false } := by
  rw [Thread.stop]
  simp only [← hw, ← hs, ← hh]

theorem Thread.halt_one {x : Thread} (hh : x.haltReq = none) : x.halt 1 =
    { x with run := .halted, blk := none, moved := 0, part := [], stepping := false, owed := false, dbgCause := 1 } := by
  rw [Thread.halt]
  simp only [← hh]
  rfl

/-! ## What a write through a register does (R485, R58, R375) -/

/-- A change of tile `t` that keeps every block of it and every thread but `h`. -/
def Tile.OnlyThr (tl tl' : Tile) (h : Thr) (y : Thread) : Prop :=
  still tl' = still tl ∧ tl'.th h = y ∧ ∀ k, k ≠ h → tl'.th k = tl.th k

theorem makes_of_onlyThr {i : Instr} {s s0 : State} {t : TileId} {h : Thr} {g : Tile → Tile} {y : Thread}
    (e : exec i s = .next (s0.modTile t g)) (o : (s0.tile t).OnlyThr (g (s0.tile t)) h y) :
    ∃ u, exec i s = .next u ∧ OnlyThread s0 u t h ∧ u.th t h = y := by
  obtain ⟨hstill, hth, hother⟩ := o
  refine ⟨_, e, ⟨State.onlyTile_modTile _ _ _, ?_, fun k hk => ?_⟩, ?_⟩
  · rw [State.tile_modTile_self, hstill]
  · rw [State.th_modTile_self, hother k hk, State.th]
  · rw [State.th_modTile_self, hth]

theorem Tile.onlyThr_modTh (tl : Tile) (h : Thr) (f : Thread → Thread) : tl.OnlyThr (tl.modTh h f) h (f (tl.th h)) :=
  ⟨rfl, Tile.th_modTh_self _ _ _, fun k hk => by rw [Tile.th_modTh, if_neg hk]⟩

theorem Tile.onlyThr_settle {tl : Tile} (hc : tl.causes = 0) (calm : tl.Calm) (h : Thr) (f : Thread → Thread) :
    tl.OnlyThr (tl.modTh h f).settle h (f (tl.th h)).settle := by
  refine ⟨?_, ?_, fun k hk => ?_⟩
  · rw [Tile.still_settle, Tile.still_modTh]
  · rw [Tile.settle_modTh hc calm, if_pos rfl]
  · rw [Tile.settle_modTh hc calm, if_neg hk]

/-- A change that does not change the thread at first. -/
theorem Tile.onlyThr_of_modTh {tl : Tile} {h : Thr} {f : Thread → Thread} (hf : f (tl.th h) = tl.th h) {g : Tile → Tile} {y : Thread}
    (hg : (tl.modTh h f).OnlyThr (g (tl.modTh h f)) h y) : tl.OnlyThr (g (tl.modTh h f)) h y := by
  obtain ⟨hstill, hth, hother⟩ := hg
  refine ⟨hstill, hth, fun k hk => ?_⟩
  rw [hother k hk, Tile.th_modTh, if_neg hk]

section Control

variable {s : State} {src : Src} {t : TileId} {h : Thr}

theorem ctReg_tctl (h : Thr) : ctReg (8 + 8 * h.toNat) = some (.tctl h, 4) := by
  revert h
  decide

theorem ctReg_irq (h : Thr) : ctReg (0x480 + 8 * h.toNat) = some (.irq h, 4) := by
  revert h
  decide

theorem ctReg_dbg (h : Thr) : ctReg (0x620 + 8 * h.toNat) = some (.dbg h, 4) := by
  revert h
  decide

theorem csrTile_touchHalf (s : State) (t : TileId) {o : Nat} (ho : o < 0x40000) : s.touchHalf (paCt t o) = s.touchHalf (paCt t 0) := by
  rw [State.touchHalf, State.touchHalf, csrTile_paCt t ho, csrTile_paCt t (by omega)]

/-- A write of one bit of CT_TCTL (R58). -/
theorem writeCtl_eq (w : TileWriter s src t) (g : Word → Word) : s.writeCtl src t h g =
    (s.touchHalf (paCt t 0)).modTile t (fun tl => tl.writeTctl s.debug (s.srcLim src) h
      (bits ((g ((s.th t h).tctl s.debug)).setWidth 64) 0 32)) := by
  have hh := h.isLt
  have ho : 8 + 8 * h.toNat < 0x40000 := by omega
  rw [State.writeCtl, regWrite_ct w ho (ctReg_tctl h), csrTile_touchHalf s t ho, State.ctWrite, State.debug_touchHalf]

variable (w : TileWriter s src t)
include w

/-- What a write of one bit of CT_TCTL makes of its tile. -/
theorem ctl_makes {i : Instr} {j : Nat} {b : Bool} {y : Thread} (hj : j = 16 ∨ j = 18)
    (e : exec i s = .next (s.writeCtl src t h (fun w => setBit w j b)))
    (hy : ∀ w : Word, bit w 16 = (if j = 16 then b else decide ((s.th t h).run ≠ .stopped)) →
      bit w 18 = (if j = 18 then b else s.debug && (decide ((s.th t h).run = .halted) || (s.th t h).haltReq.isSome)) →
      (s.tile t).OnlyThr (
        if bit w 16 = true then
          if s.debug = true then
            if bit w 18 = true then (((s.tile t).modTh h Thread.rewritten).start h).reqHalt h
            else (((s.tile t).modTh h Thread.rewritten).start h).unhalt h
          else ((s.tile t).modTh h Thread.rewritten).start h
        else ((s.tile t).modTh h Thread.rewritten).reqStop h) h y) :
    ∃ u, exec i s = .next u ∧ OnlyThread (s.touchHalf (paCt t 0)) u t h ∧ u.th t h = y := by
  obtain ⟨hpc, hslv, h16, h18⟩ := tctl_fields (s.th t h) s.debug j b hj _ rfl
  rw [writeCtl_eq w] at e
  refine makes_of_onlyThr e ?_
  rw [State.tile_touchHalf, writeTctl_eq _ _ hpc hslv]
  exact hy _ h16 h18

variable (calm : (s.tile t).Calm)
include calm

theorem threadStart_makes (hf : (s.tile t).func ≠ none) (hr : (s.th t h).run = .stopped) :
    ∃ u, exec (.threadStart src t h) s = .next u ∧ OnlyThread (s.touchHalf (paCt t 0)) u t h ∧ u.th t h =
      { s.th t h with run := .running, blk := none, st := { pl := if (s.th t h).slv then 3 else 2 }, det := {}, stepping := false,
                      owed := false, moved := 0, part := [] } := by
  obtain ⟨hs, hh, -⟩ := calm.th h
  refine ctl_makes w (.inl rfl) rfl fun v h16 h18 => ?_
  rw [if_pos rfl] at h16
  have h18 : bit v 18 = false := by simp [h18, hr, show (s.th t h).haltReq = none from hh]
  have hrun : (((s.tile t).modTh h Thread.rewritten).th h).run = .stopped := by
    rw [Tile.th_modTh_self, Thread.rewritten_run]
    exact hr
  have hy : (s.th t h).rewritten.started = { s.th t h with
      run := .running, blk := none, st := { pl := if (s.th t h).slv then 3 else 2 }, det := {}, stepping := false,
      owed := false, moved := 0, part := [] } := by
    rw [Thread.rewritten_of_stopped (.inl hr), Thread.started]
    simp only [← hs, ← hh]
  rw [if_pos h16, h18, start_of_stopped (tl := (s.tile t).modTh h Thread.rewritten) w.2.2.1 hf hrun, ← hy]
  have hone : (s.tile t).OnlyThr (((s.tile t).modTh h Thread.rewritten).modTh h Thread.started) h (s.th t h).rewritten.started := by
    refine ⟨by rw [Tile.still_modTh, Tile.still_modTh], ?_, fun k hk => ?_⟩
    · rw [Tile.th_modTh_self, Tile.th_modTh_self]
      rfl
    · rw [Tile.th_modTh, if_neg hk, Tile.th_modTh, if_neg hk]
  cases s.debug with
  | false => exact hone
  | true =>
    obtain ⟨hstill, hth, hother⟩ := hone
    rw [if_pos rfl, if_neg Bool.false_ne_true, Tile.unhalt]
    refine ⟨by rw [Tile.still_modTh, hstill], ?_, fun k hk => ?_⟩
    · rw [Tile.th_modTh_self, hth]
      simp [Thread.started]
    · rw [Tile.th_modTh, if_neg hk, hother k hk]

omit w in
theorem rewritten_onlyThr (hon : (s.th t h).run = .running ∨ (s.th t h).run = .blocked) :
    (s.tile t).modTh h Thread.rewritten = (s.tile t).modTh h id ∧ ((s.tile t).modTh h id).Calm ∧
      ((s.tile t).modTh h id).th h = s.th t h := by
  refine ⟨Tile.modTh_congr (Thread.rewritten_of_on hon), fun k => ?_, by rw [Tile.th_modTh_self]; rfl⟩
  have hk : ((s.tile t).modTh h id).th k = (s.tile t).th k := by
    rw [Tile.th_modTh]
    split
    · next e => rw [e]; rfl
    · rfl
  rw [hk]
  exact calm k

theorem threadStop_makes (hon : (s.th t h).run = .running ∨ (s.th t h).run = .blocked) (hc : (s.tile t).causes = 0) :
    ∃ u, exec (.threadStop src t h) s = .next u ∧ OnlyThread (s.touchHalf (paCt t 0)) u t h ∧ u.th t h =
      { s.th t h with run := .stopped, blk := none, stgU := { (s.th t h).stgU with count := 0 }
                      stgS := { (s.th t h).stgS with count := 0 }, stgM := { (s.th t h).stgM with count := 0 }
                      walk := none, moved := 0, part := [], stepping := false, owed := false } := by
  obtain ⟨hs, hh, hw⟩ := calm.th h
  obtain ⟨hid, hcalm, hth⟩ := rewritten_onlyThr calm hon
  refine ctl_makes w (.inl rfl) rfl fun v h16 _ => ?_
  rw [if_pos rfl] at h16
  rw [if_neg (by rw [h16]; exact Bool.false_ne_true), hid]
  have key := Tile.onlyThr_settle (tl := (s.tile t).modTh h id) hc hcalm h (fun x => { x with stopReq := true })
  rw [hth, Thread.settle_stopReq hw, Thread.stop_of_calm hw hs hh] at key
  rw [reqStop_of_on (tl := (s.tile t).modTh h id) (by rw [hth]; exact hon)]
  exact Tile.onlyThr_of_modTh (g := fun tl => (tl.modTh h (fun x => { x with stopReq := true })).settle) rfl key

omit w in
theorem reqHalt_onlyThr (hon : (s.th t h).run = .running ∨ (s.th t h).run = .blocked) (hc : (s.tile t).causes = 0) :
    (s.tile t).OnlyThr (((s.tile t).modTh h id).reqHalt h) h ((s.th t h).halt 1) := by
  obtain ⟨hs, hh, hw⟩ := calm.th h
  obtain ⟨-, hcalm, hth⟩ := rewritten_onlyThr calm hon
  have key := Tile.onlyThr_settle (tl := (s.tile t).modTh h id) hc hcalm h (fun x => { x with haltReq := some (x.haltReq.getD 1) })
  rw [hth, Thread.settle_haltReq hw hs hh hon] at key
  rw [reqHalt_of_on (tl := (s.tile t).modTh h id) (by rw [hth]; exact hon)]
  exact Tile.onlyThr_of_modTh (g := fun tl => (tl.modTh h (fun x => { x with haltReq := some (x.haltReq.getD 1) })).settle) rfl key

theorem threadHalt_makes (hon : (s.th t h).run = .running ∨ (s.th t h).run = .blocked) (hc : (s.tile t).causes = 0)
    (hdbg : s.debug = true) :
    ∃ u, exec (.threadHalt src t h) s = .next u ∧ OnlyThread (s.touchHalf (paCt t 0)) u t h ∧ u.th t h =
      { s.th t h with run := .halted, blk := none, moved := 0, part := [], stepping := false, owed := false, dbgCause := 1 } := by
  obtain ⟨hid, -, hth⟩ := rewritten_onlyThr calm hon
  have hns : (s.th t h).run ≠ .stopped := by obtain hr | hr := hon <;> simp [hr]
  refine ctl_makes w (.inr rfl) rfl fun v h16 h18 => ?_
  rw [if_neg (by omega), decide_eq_true hns] at h16
  rw [if_pos rfl] at h18
  rw [if_pos h16, if_pos hdbg, if_pos h18, hid, start_of_not_stopped (tl := (s.tile t).modTh h id) (by rw [hth]; exact hns),
    ← Thread.halt_one (calm.th h).2.1]
  exact reqHalt_onlyThr calm hon hc

omit calm in
theorem threadUnhalt_makes (hr : (s.th t h).run = .halted) (hdbg : s.debug = true) :
    ∃ u, exec (.threadUnhalt src t h) s = .next u ∧ OnlyThread (s.touchHalf (paCt t 0)) u t h ∧ u.th t h =
      { s.th t h with run := .running, moved := 0, part := [] } := by
  refine ctl_makes w (.inr rfl) rfl fun v h16 h18 => ?_
  rw [if_neg (by omega), decide_eq_true (by simp [hr])] at h16
  rw [if_pos rfl] at h18
  have hth : ((s.tile t).modTh h Thread.rewritten).th h = { s.th t h with moved := 0, part := [] } := by
    rw [Tile.th_modTh_self, ← Thread.rewritten_of_stopped (.inr hr)]
    rfl
  rw [if_pos h16, if_pos hdbg, h18, if_neg Bool.false_ne_true,
    start_of_not_stopped (tl := (s.tile t).modTh h Thread.rewritten) (by rw [hth]; simp [hr]), Tile.unhalt]
  refine ⟨by rw [Tile.still_modTh, Tile.still_modTh], ?_, fun k hk => ?_⟩
  · rw [Tile.th_modTh_self, hth, if_pos hr]
  · rw [Tile.th_modTh, if_neg hk, Tile.th_modTh, if_neg hk]

omit calm in
theorem step_makes (hr : (s.th t h).run = .halted) (hdbg : s.debug = true) :
    ∃ u, exec (.step src t h) s = .next u ∧ OnlyThread (s.touchHalf (paCt t 0)) u t h ∧ u.th t h =
      { s.th t h with run := .running, stepping := true } := by
  have hh := h.isLt
  have ho : 0x620 + 8 * h.toNat < 0x40000 := by omega
  have e : exec (.step src t h) s = .next (s.regWrite src (paCt t (0x620 + 8 * h.toNat)) 4 1 none) := rfl
  have h1 : (true && bit (1 : DWord) 0) = true := rfl
  rw [regWrite_ct w ho (ctReg_dbg h), csrTile_touchHalf s t ho, State.ctWrite, State.debug_touchHalf, hdbg] at e
  rw [if_pos h1] at e
  refine makes_of_onlyThr e ?_
  rw [State.tile_touchHalf, Tile.step, if_pos (show ((s.tile t).th h).run = .halted from hr)]
  exact Tile.onlyThr_modTh _ _ _

omit calm in
/-- A write of CT_IRQ that keeps every bit but SWS and SWM (R375). -/
theorem writePending_makes {i : Instr} (p q : Bool) (e : exec i s = .next (s.writePending src t h p q)) :
    ∃ u, exec i s = .next u ∧ OnlyThread (s.touchHalf (paCt t 0)) u t h ∧ u.th t h =
      { s.th t h with sws := p || (s.th t h).sws, swm := if s.srcLim src then (s.th t h).swm else q || (s.th t h).swm } := by
  have hh := h.isLt
  have ho : 0x480 + 8 * h.toNat < 0x40000 := by omega
  rw [State.writePending, regWrite_ct w ho (ctReg_irq h), csrTile_touchHalf s t ho, State.ctWrite] at e
  refine makes_of_onlyThr e ?_
  rw [State.tile_touchHalf]
  have hv : ∀ a b : Bool, let v : Word := bits ((0#61) ++ b2v a ++ b2v b ++ (0#1)) 0 32
      bit v 1 = b ∧ bit v 2 = a ∧ bit v 3 = false ∧ bit v 4 = false ∧ bit v 6 = false := by decide
  obtain ⟨h1, h2, h3, h4, h6⟩ := hv (q || (s.th t h).swm) (p || (s.th t h).sws)
  have key := Tile.onlyThr_modTh (s.tile t) h
    (fun x => x.writeIrq (s.srcLim src) (bits ((0#61) ++ b2v (q || (s.th t h).swm) ++ b2v (p || (s.th t h).sws) ++ (0#1)) 0 32))
  rw [Thread.writeIrq] at key
  simp only [h1, h2, h3, h4, h6, Bool.not_false, Bool.and_true] at key
  exact key

end Control

/-- A thread as a write of HALTALL leaves it (R520). -/
def Thread.haltOn (x : Thread) : Thread := if x.run = .running ∨ x.run = .blocked then x.halt 1 else x

theorem Thread.haltOn_haltOn (x : Thread) : x.haltOn.haltOn = x.haltOn := by
  unfold Thread.haltOn
  split
  · rw [if_neg (by simp [Thread.halt])]
  · rfl

theorem Tile.Calm.reqHalt {tl : Tile} (calm : tl.Calm) (hc : tl.causes = 0) (h : Thr) :
    still (tl.reqHalt h) = still tl ∧ (tl.reqHalt h).Calm ∧ ∀ k, (tl.reqHalt h).th k = if k = h then (tl.th k).haltOn else tl.th k := by
  obtain ⟨hs, hh, hw⟩ := calm h
  by_cases hon : (tl.th h).run = .running ∨ (tl.th h).run = .blocked
  · obtain ⟨hstill, hth, hother⟩ := Tile.onlyThr_settle hc calm h (fun x => { x with haltReq := some (x.haltReq.getD 1) })
    rw [Thread.settle_haltReq hw hs hh hon] at hth
    rw [reqHalt_of_on hon]
    refine ⟨hstill, fun k => ?_, fun k => ?_⟩
    · by_cases hk : k = h
      · subst hk
        rw [hth]
        exact ⟨hs, rfl, hw⟩
      · rw [hother k hk]
        exact calm k
    · by_cases hk : k = h
      · subst hk
        rw [hth, if_pos rfl, Thread.haltOn, if_pos hon]
      · rw [hother k hk, if_neg hk]
  · rw [reqHalt_of_off hon]
    refine ⟨rfl, calm, fun k => ?_⟩
    by_cases hk : k = h
    · rw [if_pos hk, Thread.haltOn, hk, if_neg hon]
    · rw [if_neg hk]

/-- A halt of each thread in turn (R520). -/
theorem Tile.Calm.eachThread_reqHalt {tl : Tile} (calm : tl.Calm) (hc : tl.causes = 0) (l : List Thr) :
    still (l.foldl Tile.reqHalt tl) = still tl ∧
      ∀ k, (l.foldl Tile.reqHalt tl).th k = if k ∈ l then (tl.th k).haltOn else tl.th k := by
  induction l generalizing tl with
  | nil => simp
  | cons j l ih =>
    obtain ⟨hstill, hcalm, hth⟩ := calm.reqHalt hc j
    have hcauses : (tl.reqHalt j).causes = 0 := (congrArg Tile.causes hstill).trans hc
    obtain ⟨hstill', hth'⟩ := ih hcalm hcauses
    refine ⟨hstill'.trans hstill, fun k => ?_⟩
    rw [List.foldl_cons, hth', hth]
    by_cases hk : k = j <;> by_cases hl : k ∈ l <;> simp [hk, hl, Thread.haltOn_haltOn]

section Lines

variable {s : State} {src : Src} {t : TileId} (w : TileWriter s src t)
include w

theorem haltall_makes (calm : (s.tile t).Calm) (hdbg : s.debug = true) (hc : (s.tile t).causes = 0) :
    ∃ u, exec (.haltall src t) s = .next u ∧ OnlyTile (s.touchHalf (paCt t 0)) u t ∧
      (∀ k, u.th t k = (s.th t k).haltOn) ∧ still (u.tile t) = still (s.tile t) := by
  have hreg : ctReg 0x600 = some (.hzctl, 4) := rfl
  have e : exec (.haltall src t) s = .next (s.regWrite src (paCt t 0x600) 4 ((0#59) ++ (1#1) ++ (s.tile t).hzHaltk) none) := rfl
  have hv : bit ((0#59) ++ (1#1) ++ (s.tile t).hzHaltk : DWord) 4 = true ∧
      (bits ((0#59) ++ (1#1) ++ (s.tile t).hzHaltk : DWord) 0 4 : BitVec 4) = (s.tile t).hzHaltk := by
    generalize (s.tile t).hzHaltk = k
    revert k
    decide
  rw [regWrite_ct w (by omega) hreg, csrTile_touchHalf s t (by omega), State.ctWrite, State.debug_touchHalf, hdbg, Bool.not_true,
    if_neg Bool.false_ne_true, hv.2] at e
  refine ⟨_, e, State.onlyTile_modTile _ _ _, ?_⟩
  rw [State.tile_modTile_self, State.tile_touchHalf, if_pos hv.1]
  have hcfg : ({ s.tile t with hzHaltk := (s.tile t).hzHaltk } : Tile) = s.tile t := rfl
  obtain ⟨hstill, hth⟩ := calm.eachThread_reqHalt hc [0, 1, 2, 3]
  refine ⟨fun k => ?_, ?_⟩
  · rw [State.th_modTile_self, State.tile_touchHalf, if_pos hv.1, Tile.eachThread, hth,
      if_pos ((by decide : ∀ k : Thr, k ∈ ([0, 1, 2, 3] : List Thr)) k), State.th]
  · rw [Tile.eachThread, hstill]

/-- A write that clears the cache partition and then changes the tile by `g`. -/
theorem csize_makes (v : BitVec 32) :
    ∃ u, exec (.csizeWrite src t v) s = .next u ∧ OnlyTile (s.touchHalf (paCt t 0)) u t ∧
      u.tile t = { (s.tile t).clearCache with csize := v.extractLsb' 0 2, pfd := v.extractLsb' 2 3 } := by
  have hreg : ctReg 0x200 = some (.lmcfg, 4) := rfl
  have e : exec (.csizeWrite src t v) s = .next (s.regWrite src (paCt t 0x200) 4 (v.setWidth 64) none) := rfl
  have h0 : (bits (v.setWidth 64) 0 2 : BitVec 2) = v.extractLsb' 0 2 :=
    BitVec.eq_of_getLsbD_eq fun i hi => by simp [bits, hi]; omega
  have h2 : (bits (v.setWidth 64) 2 3 : BitVec 3) = v.extractLsb' 2 3 :=
    BitVec.eq_of_getLsbD_eq fun i hi => by simp [bits, hi]; omega
  rw [regWrite_ct w (by omega) hreg, csrTile_touchHalf s t (by omega), State.ctWrite] at e
  refine ⟨_, e, State.onlyTile_modTile _ _ _, ?_⟩
  rw [State.tile_modTile_self, State.tile_touchHalf, h0, h2]

theorem inv_makes : ∃ u, exec (.inv src t) s = .next u ∧ OnlyTile (s.touchHalf (paCt t 0)) u t ∧
    u.tile t = (s.tile t).clearCache := by
  have hreg : ctReg 0x208 = some (.lmctl, 4) := rfl
  have e : exec (.inv src t) s = .next (s.regWrite src (paCt t 0x208) 4 1 none) := rfl
  have h1 : bit (1 : DWord) 0 = true := rfl
  rw [regWrite_ct w (by omega) hreg, csrTile_touchHalf s t (by omega), State.ctWrite, if_pos h1] at e
  refine ⟨_, e, State.onlyTile_modTile _ _ _, ?_⟩
  rw [State.tile_modTile_self, State.tile_touchHalf]

end Lines

/-- The cache partition of `c` is that of a tile that was cleared. -/
def Tile.ClearedFrom (tl c : Tile) : Prop :=
  c.lines = [] ∧ (∀ f ∈ c.fills, f.dead = true) ∧ c.fills.length = tl.fills.length ∧ c.lmem = tl.lmem ∧
    c.eng.det = {} ∧ ∀ k, c.th k = { tl.th k with det := {} }

theorem Tile.clearedFrom_clearCache (tl : Tile) : tl.ClearedFrom tl.clearCache := by
  refine ⟨Tile.lines_clearCache tl, fun f hf => ?_, by rw [Tile.fills_clearCache, List.length_map], Tile.lmem_clearCache tl,
    Tile.det_clearCache tl, Tile.th_clearCache tl⟩
  rw [Tile.fills_clearCache] at hf
  obtain ⟨g, -, rfl⟩ := List.mem_map.1 hf
  rfl

theorem Tile.ClearedFrom.config {tl c : Tile} (h : tl.ClearedFrom c) (n : BitVec 2) (p : BitVec 3) :
    tl.ClearedFrom { c with csize := n, pfd := p } := h

/-- Settles O26, from one lemma for each write. -/
theorem threadControl : Obligations.ThreadControl := by
  unfold Obligations.ThreadControl
  intro s src t h v x tl s0 makes calm on halted cleared w hcalm
  have hcalm : (s.tile t).Calm := hcalm
  refine ⟨threadStart_makes w hcalm, threadStop_makes w hcalm, threadHalt_makes w hcalm, fun hdbg hr =>
    ⟨threadUnhalt_makes w hr hdbg, step_makes w hr hdbg⟩, ?_, ?_, fun hdbg hc => ?_, ?_, ?_⟩
  · have key := writePending_makes w (i := .sws src t h) true false rfl
    simpa using key
  · have key := writePending_makes w (i := .swm src t h) false true rfl
    have hswm : (if s.srcLim src = true then (s.th t h).swm else true || (s.th t h).swm) = ((s.th t h).swm || !(s.srcLim src)) := by
      cases s.srcLim src <;> simp
    rw [hswm, Bool.false_or] at key
    exact key
  · obtain ⟨u, e, o, hth, hst⟩ := haltall_makes w hcalm hdbg hc
    refine ⟨u, e, o, fun k => ?_, hst⟩
    have hk : (s.th t k).halt 1 = halted (s.th t k) := Thread.halt_one (hcalm.th k).2.1
    rw [hth, Thread.haltOn, hk]
  · obtain ⟨u, e, o, htile⟩ := inv_makes w
    exact ⟨u, e, o, htile ▸ Tile.clearedFrom_clearCache _, by rw [htile, Tile.csize_clearCache]⟩
  · obtain ⟨u, e, o, htile⟩ := csize_makes w v
    exact ⟨u, e, o, htile ▸ (Tile.clearedFrom_clearCache _).config _ _, by rw [htile], by rw [htile]⟩

end Sys2Proof.Machine
end

section
/-! Events and registers of one queue: what they leave, credit (R218–R220, R552) and the queue registers (R209, R231, R238,
R244, R553). From them the obligations O29 and O30. -/
namespace Sys2Proof.Machine

open Sys2Proof.Safety

/-! ## Steps that touch one queue and the networks -/

/-- Between `s` and `u` nothing has changed but queue `q` of tile `t`, now `k`, the networks, which hold `net`, and the
numbering of packets, now at `n`; local memory and the tile's sending side are as they were. -/
structure QueueStep (s u : State) (t : TileId) (q : QIx) (k : Queue) (net : List Pkt) (n : Nat) : Prop where
  frame : u = { s with tiles := u.tiles, net := u.net, nextId := u.nextId }
  tiles : ∀ r, r ≠ t → u.tile r = s.tile r
  threads : ∀ h, u.th t h = s.th t h
  queues : ∀ r, r ≠ q → (u.tile t).queue r = (s.tile t).queue r
  queue : (u.tile t).queue q = k
  net : u.net = net
  num : u.nextId = n
  lmem : (u.tile t).lmem = (s.tile t).lmem
  send : (u.tile t).send = (s.tile t).send

section Steps

variable {s u : State} {t : TileId} {q : QIx} {k : Queue} {net : List Pkt} {n : Nat}

theorem QueueStep.refl (s : State) (t : TileId) (q : QIx) : QueueStep s s t q ((s.tile t).queue q) s.net s.nextId :=
  ⟨rfl, fun _ _ => rfl, fun _ => rfl, fun _ _ => rfl, rfl, rfl, rfl, rfl, rfl⟩

theorem QueueStep.onlyQueue (a : QueueStep s u t q k net n) : OnlyQueue s u t q := ⟨a.frame, a.tiles, a.threads, a.queues⟩

/-- A change of the tile that keeps its threads, its other queues, local memory and the sending side. -/
theorem QueueStep.modTile (a : QueueStep s u t q k net n) {g : Tile → Tile} {k' : Queue}
    (hth : ∀ tl h, (g tl).th h = tl.th h) (hqs : ∀ tl r, r ≠ q → (g tl).queue r = tl.queue r)
    (hq : ∀ tl, tl.queue q = k → (g tl).queue q = k') (hlm : ∀ tl, (g tl).lmem = tl.lmem) (hsend : ∀ tl, (g tl).send = tl.send) :
    QueueStep s (u.modTile t g) t q k' net n := by
  refine ⟨?_, fun r hr => ?_, fun h => ?_, fun r hr => ?_, ?_, a.net, a.num, ?_, ?_⟩
  · have hf := a.frame
    generalize u.tiles = ts, u.net = nt, u.nextId = i at hf
    subst hf
    rfl
  · rw [State.tile_modTile, if_neg hr, a.tiles r hr]
  · rw [State.th_modTile_self, hth]
    exact a.threads h
  · rw [State.tile_modTile_self, hqs _ _ hr, a.queues r hr]
  · rw [State.tile_modTile_self, hq _ a.queue]
  · rw [State.tile_modTile_self, hlm, a.lmem]
  · rw [State.tile_modTile_self, hsend, a.send]

theorem QueueStep.modQueue (a : QueueStep s u t q k net n) (f : Queue → Queue) :
    QueueStep s (u.modTile t (fun tl => tl.modQueue q f)) t q (f k) net n :=
  a.modTile (fun _ _ => rfl) (fun tl r hr => by rw [Tile.queue_modQueue, if_neg hr])
    (fun tl hk => by rw [Tile.queue_modQueue_self, hk]) (fun _ => rfl) (fun _ => rfl)

/-- A packet leaves. -/
theorem QueueStep.sendPkt (a : QueueStep s u t q k net n) (src dst : Party) (c : BitVec 2) (body : Body) :
    QueueStep s (u.sendPkt src dst c body [] []) t q k (net ++ [⟨n, src, dst, c, body, [], []⟩]) (n + 1) := by
  refine ⟨?_, a.tiles, a.threads, a.queues, a.queue, ?_, ?_, a.lmem, a.send⟩
  · have hf := a.frame
    generalize u.tiles = ts, u.net = nt, u.nextId = i at hf
    subst hf
    rfl
  · rw [State.sendPkt, a.net, a.num]
  · rw [State.sendPkt, a.num]

/-- One packet for each member of a list. -/
theorem QueueStep.foldl_sendPkt {α : Type} (a : QueueStep s u t q k net n) (l : List α) (src : Party) (dst : α → Party)
    (c : BitVec 2) (body : α → Body) :
    ∃ ps, ps.map (fun x => (x.src, x.dst, x.net, x.body)) = l.map (fun x => (src, dst x, c, body x)) ∧
      QueueStep s (l.foldl (fun v x => v.sendPkt src (dst x) c (body x) [] []) u) t q k (net ++ ps) (n + l.length) := by
  induction l generalizing u net n with
  | nil => exact ⟨[], rfl, by simpa using a⟩
  | cons x l ih =>
    obtain ⟨ps, hps, b⟩ := ih (a.sendPkt src (dst x) c (body x))
    refine ⟨⟨n, src, dst x, c, body x, [], []⟩ :: ps, by simp [hps], ?_⟩
    rw [List.append_assoc] at b
    rw [List.length_cons, Nat.add_comm l.length, ← Nat.add_assoc]
    exact b

theorem QueueStep.dropPkt (s : State) (t : TileId) (q : QIx) (id : Nat) :
    QueueStep s (s.dropPkt id) t q ((s.tile t).queue q) (s.net.filter (fun p => p.id ≠ id)) s.nextId :=
  ⟨rfl, fun _ _ => rfl, fun _ => rfl, fun _ _ => rfl, rfl, rfl, rfl, rfl, rfl⟩

end Steps

/-- What the statements say of an event that changes queue `q` alone. -/
def QueueEnds (i : Instr) (s s0 : State) (t : TileId) (q : QIx) (k : Queue) (net : List Pkt) : Prop :=
  ∃ u, exec i s = .next u ∧ OnlyQueue s0 u t q ∧ (u.tile t).queue q = k ∧ u.net = net ∧ (u.tile t).lmem = (s0.tile t).lmem ∧
    (u.tile t).send = (s0.tile t).send

theorem QueueStep.ends {i : Instr} {s s0 u : State} {t : TileId} {q : QIx} {k : Queue} {net : List Pkt} {n : Nat}
    (a : QueueStep s0 u t q k net n) (e : exec i s = .next u) : QueueEnds i s s0 t q k net :=
  ⟨u, e, a.onlyQueue, a.queue, a.net, a.lmem, a.send⟩

/-! ## Requests (R219, R552) -/

/-- Why a queue refuses a request of `x` for function `f` with handle `hd` (R225, R552). -/
def CreditRefused (s : State) (t : TileId) (hd : Word) (f : Option FuncNo) (x : Party) : Prop :=
  let k := (s.tile t).queue (hd.extractLsb' 0 4)
  k.en = false ∨ (match x with
    | .tile _ => f ≠ (s.tile t).func
    | _ => k.ext = false) ∨ hd.extractLsb' 24 8 ≠ k.epoch ∨ k.closed = true ∨ k.mode = true

theorem Queue.check_isSome (k : Queue) (r : Bool) (ep : Byte) : (k.check r ep 0).isSome = true ↔
    k.en = false ∨ r = false ∨ ep ≠ k.epoch ∨ k.closed = true ∨ k.mode = true := by
  unfold Queue.check
  cases hen : k.en <;> cases r <;> cases hc : k.closed <;> cases hm : k.mode <;> by_cases he : ep = k.epoch <;> simp [he]

theorem check_isSome (s : State) (t : TileId) (hd : Word) (f : Option FuncNo) (x : Party) :
    (((s.tile t).queue (hQix hd)).check (s.mayReach t (hQix hd) x f) (hEpoch hd) 0).isSome = true ↔ CreditRefused s t hd f x := by
  have hreach : s.mayReach t (hQix hd) x f = false ↔ (match x with
      | .tile _ => f ≠ (s.tile t).func
      | _ => ((s.tile t).queue (hd.extractLsb' 0 4)).ext = false) := by
    cases x <;> simp [State.mayReach, hQix, bits]
  rw [Queue.check_isSome, hreach]
  rfl

theorem check_isSome_of_eq {hd : Word} {q : QIx} (hq : q = hd.extractLsb' 0 4) (s : State) (t : TileId) (f : Option FuncNo) (x : Party) :
    (((s.tile t).queue q).check (s.mayReach t q x f) (hEpoch hd) 0).isSome = true ↔ CreditRefused s t hd f x := by
  subst hq
  exact check_isSome s t hd f x

section Requests

variable {s : State} {t : TileId} {hd : Word} {b : Nat} {f : Option FuncNo} {x : Party}

/-- The grant of a queue that has the bytes. -/
theorem grantFor_of_grain {k : Queue} (h : ((64 * 2 ^ k.grain.toNat : Nat) : Int) ≤ k.pool) :
    k.grantFor b = some (64 * 2 ^ k.grain.toNat) := by
  rw [Queue.grantFor]
  exact if_pos h

theorem grantFor_of_pool {k : Queue} (h : k.pool < ((64 * 2 ^ k.grain.toNat : Nat) : Int)) (hb : (b : Int) ≤ k.pool) :
    k.grantFor b = some (k.pool.toNat / 8 * 8) := by
  rw [Queue.grantFor]
  exact (if_neg (Int.not_le.2 h)).trans (if_pos hb)

theorem grantFor_of_short {k : Queue} (h : k.pool < ((64 * 2 ^ k.grain.toNat : Nat) : Int)) (hb : k.pool < (b : Int)) :
    k.grantFor b = none := by
  rw [Queue.grantFor]
  exact (if_neg (Int.not_le.2 h)).trans (if_neg (Int.not_le.2 hb))

theorem QueueStep.grantTo {u : State} {q : QIx} {k : Queue} {net : List Pkt} {n : Nat} (a : QueueStep s u t q k net n) (to_ : Party)
    (hd : Word) (m : Nat) : QueueStep s (u.grantTo t q to_ hd m) t q { k with granted := k.granted + m }
      (net ++ [⟨n, .tile t, to_, 1, .grant hd m false, [], []⟩]) (n + 1) :=
  (a.modQueue (fun k => { k with granted := k.granted + m })).sendPkt _ _ _ _

theorem exec_creditRequestArrival {id : Nat} {p : Pkt} (hp : s.packet id = some p) (hdst : p.dst = .tile t)
    (hbody : p.body = .credReq hd b f) (hfree : s.stuckBehind t p = false) (hon : s.tileOn t = true) :
    exec (.creditRequestArrival id) s = .next ((s.dropPkt id).arriveRequest t p.src hd b f) := by
  have e : exec (.creditRequestArrival id) s = execCreditRequestArrival id s := rfl
  rw [e, execCreditRequestArrival, hp]
  simp only [hdst, hbody, hfree, Bool.false_eq_true, if_false, atTile, hon, if_true]

theorem creditRefused_dropPkt (id : Nat) : CreditRefused (s.dropPkt id) t hd f x ↔ CreditRefused s t hd f x := Iff.rfl

theorem arriveRequest_of_refused (h : CreditRefused s t hd f x) : s.arriveRequest t x hd b f = s.refuse t x hd := by
  rw [State.arriveRequest]
  exact if_pos ((check_isSome s t hd f x).2 h)

theorem arriveRequest_of_good (h : ¬CreditRefused s t hd f x) : s.arriveRequest t x hd b f =
    match ((s.tile t).queue (hQix hd)).grantFor b with
    | some n => s.grantTo t (hQix hd) x hd n
    | none => s.modTile t (fun tl => tl.modQueue (hQix hd) (fun k => { k with held := k.held ++ [(x, b, hd, f)] })) := by
  rw [State.arriveRequest]
  exact if_neg fun hs => h ((check_isSome s t hd f x).1 hs)

/-- A request that arrives and is granted `m` bytes. -/
theorem creditRequest_granted {id : Nat} (e : exec (.creditRequestArrival id) s = .next ((s.dropPkt id).arriveRequest t x hd b f))
    (h : ¬CreditRefused s t hd f x) {m : Nat} (hm : ((s.tile t).queue (hd.extractLsb' 0 4)).grantFor b = some m) :
    QueueEnds (.creditRequestArrival id) s s t (hd.extractLsb' 0 4)
      { (s.tile t).queue (hd.extractLsb' 0 4) with granted := ((s.tile t).queue (hd.extractLsb' 0 4)).granted + m }
      (s.net.filter (fun p => p.id ≠ id) ++ [⟨s.nextId, .tile t, x, 1, .grant hd m false, [], []⟩]) := by
  have hm' : (((s.dropPkt id).tile t).queue (hQix hd)).grantFor b = some m := hm
  rw [arriveRequest_of_good (s := s.dropPkt id) h, hm'] at e
  exact ((QueueStep.dropPkt s t _ id).grantTo x hd m).ends e

theorem creditRequest_refused {id : Nat} (e : exec (.creditRequestArrival id) s = .next ((s.dropPkt id).arriveRequest t x hd b f))
    (h : CreditRefused s t hd f x) :
    QueueEnds (.creditRequestArrival id) s s t (hd.extractLsb' 0 4) ((s.tile t).queue (hd.extractLsb' 0 4))
      (s.net.filter (fun p => p.id ≠ id) ++ [⟨s.nextId, .tile t, x, 1, .grant hd 0 true, [], []⟩]) := by
  rw [arriveRequest_of_refused (s := s.dropPkt id) h] at e
  exact ((QueueStep.dropPkt s t _ id).sendPkt _ _ _ _).ends e

theorem creditRequest_held {id : Nat} (e : exec (.creditRequestArrival id) s = .next ((s.dropPkt id).arriveRequest t x hd b f))
    (h : ¬CreditRefused s t hd f x) (hm : ((s.tile t).queue (hd.extractLsb' 0 4)).grantFor b = none) :
    QueueEnds (.creditRequestArrival id) s s t (hd.extractLsb' 0 4)
      { (s.tile t).queue (hd.extractLsb' 0 4) with held := ((s.tile t).queue (hd.extractLsb' 0 4)).held ++ [(x, b, hd, f)] }
      (s.net.filter (fun p => p.id ≠ id)) := by
  have hm' : (((s.dropPkt id).tile t).queue (hQix hd)).grantFor b = none := hm
  rw [arriveRequest_of_good (s := s.dropPkt id) h, hm'] at e
  exact ((QueueStep.dropPkt s t _ id).modQueue _).ends e

/-! ## The first held request (R219) -/

variable {q : QIx} {rest : List (Party × Nat × Word × Option FuncNo)}

theorem exec_heldRequestGrant (hheld : ((s.tile t).queue q).held = (x, b, hd, f) :: rest) :
    exec (.heldRequestGrant t q) s = .next (match ((s.tile t).queue q).grantFor b with
      | none => s
      | some n =>
        if (((s.tile t).queue q).check (s.mayReach t q x f) (hEpoch hd) 0).isSome then
          (s.modTile t (fun tl => tl.modQueue q (fun k => { k with held := rest }))).refuse t x hd
        else (s.modTile t (fun tl => tl.modQueue q (fun k => { k with held := rest }))).grantTo t q x hd n) := by
  have e : exec (.heldRequestGrant t q) s = execHeldRequestGrant t q s := rfl
  rw [e, execHeldRequestGrant]
  dsimp only
  rw [hheld] <;> rfl

theorem held_granted (hq : q = hd.extractLsb' 0 4) (hheld : ((s.tile t).queue q).held = (x, b, hd, f) :: rest)
    (h : ¬CreditRefused s t hd f x) {m : Nat} (hm : ((s.tile t).queue q).grantFor b = some m) :
    QueueEnds (.heldRequestGrant t q) s s t q
      { (s.tile t).queue q with held := rest, granted := ((s.tile t).queue q).granted + m }
      (s.net ++ [⟨s.nextId, .tile t, x, 1, .grant hd m false, [], []⟩]) := by
  have e := exec_heldRequestGrant hheld
  rw [hm] at e
  dsimp only at e
  rw [if_neg (fun hs => h ((check_isSome_of_eq hq s t f x).1 hs))] at e
  exact (((QueueStep.refl s t q).modQueue _).grantTo x hd m).ends e

theorem held_refused (hq : q = hd.extractLsb' 0 4) (hheld : ((s.tile t).queue q).held = (x, b, hd, f) :: rest)
    (h : CreditRefused s t hd f x) {m : Nat} (hm : ((s.tile t).queue q).grantFor b = some m) :
    QueueEnds (.heldRequestGrant t q) s s t q { (s.tile t).queue q with held := rest }
      (s.net ++ [⟨s.nextId, .tile t, x, 1, .grant hd 0 true, [], []⟩]) := by
  have e := exec_heldRequestGrant hheld
  rw [hm] at e
  dsimp only at e
  rw [if_pos ((check_isSome_of_eq hq s t f x).2 h)] at e
  exact (((QueueStep.refl s t q).modQueue _).sendPkt _ _ _ _).ends e

theorem held_waits (hheld : ((s.tile t).queue q).held = (x, b, hd, f) :: rest) (hm : ((s.tile t).queue q).grantFor b = none) :
    exec (.heldRequestGrant t q) s = .next s := by
  rw [exec_heldRequestGrant hheld, hm]

end Requests

/-! ## Entries of the credit cache (R218, R220) -/

theorem SendSide.entry_modEntry (x : SendSide) (i j : Nat) (f : Cred → Cred) :
    (x.modEntry i f).entry j = if j = i then f (x.entry i) else x.entry j := by
  rw [SendSide.entry, SendSide.modEntry, SMap.get_modify]
  rfl

theorem handle_tile (e : Cred) : hTile e.handle = e.qid.extractLsb' 4 12 := by
  refine BitVec.eq_of_getLsbD_eq fun i hi => ?_
  rw [hTile, bits, BitVec.getLsbD_extractLsb', BitVec.getLsbD_extractLsb', Cred.handle, BitVec.getLsbD_append, if_pos (by omega)]

section Entries

variable {s : State} {t : TileId}

theorem send_modSend_tile (f : SendSide → SendSide) : ((s.modSend (.tile t) f).tile t).send = f (s.tile t).send := by
  rw [State.modSend, State.tile_modTile_self]

theorem net_creditBack (hd : Word) (n : Nat) : (s.creditBack (.tile t) hd n).net =
    if n = 0 then s.net else s.net ++ [⟨s.nextId, .tile t, .tile (hTile hd), 1, .credRet hd n, [], []⟩] := by
  unfold State.creditBack
  split <;> rfl

theorem tile_creditBack (hd : Word) (n : Nat) (r : TileId) : (s.creditBack (.tile t) hd n).tile r = s.tile r := by
  unfold State.creditBack
  split <;> rfl

/-- A valid entry that is returned is freed, and its bytes travel back (R220). -/
theorem returnEntry_of_valid {i : Nat} (hv : ((s.tile t).send.entry i).valid = true) :
    ((s.returnEntry (.tile t) i).tile t).send = (s.tile t).send.modEntry i (fun _ => {}) ∧
      (s.returnEntry (.tile t) i).net = if ((s.tile t).send.entry i).bytes = 0 then s.net else s.net ++
        [⟨s.nextId, .tile t, .tile (((s.tile t).send.entry i).qid.extractLsb' 4 12), 1,
          .credRet ((s.tile t).send.entry i).handle ((s.tile t).send.entry i).bytes, [], []⟩] := by
  have hv' : (!((s.sendSide (.tile t)).entry i).valid) = false := by rw [State.sendSide, hv]; rfl
  rw [State.returnEntry]
  simp only [hv', Bool.false_eq_true, if_false]
  refine ⟨?_, ?_⟩
  · rw [tile_creditBack, send_modSend_tile]
  · rw [net_creditBack, handle_tile]
    rfl

theorem returnEntry_of_invalid {i : Nat} (hv : ((s.tile t).send.entry i).valid = false) : s.returnEntry (.tile t) i = s := by
  have hv' : (!((s.sendSide (.tile t)).entry i).valid) = true := by rw [State.sendSide, hv]; rfl
  rw [State.returnEntry]
  exact if_pos hv'

theorem entry_returnEntry (i j : Nat) : ((s.returnEntry (.tile t) i).tile t).send.entry j =
    if j = i ∧ ((s.tile t).send.entry i).valid = true then {} else (s.tile t).send.entry j := by
  cases hv : ((s.tile t).send.entry i).valid with
  | true => rw [(returnEntry_of_valid hv).1, SendSide.entry_modEntry]; simp
  | false => rw [returnEntry_of_invalid hv]; simp

/-- A return only adds packets to the networks. -/
theorem net_returnEntry (i : Nat) : ∃ ps, (s.returnEntry (.tile t) i).net = s.net ++ ps := by
  cases hv : ((s.tile t).send.entry i).valid with
  | true =>
    rw [(returnEntry_of_valid hv).2]
    split
    · exact ⟨[], by simp⟩
    · exact ⟨_, rfl⟩
  | false => exact ⟨[], by rw [returnEntry_of_invalid hv]; simp⟩

/-- A return of every entry of a list (R220). -/
theorem foldl_returnEntry (l : List Nat) : ∃ ps, (l.foldl (fun a i => a.returnEntry (.tile t) i) s).net = s.net ++ ps ∧
    (∀ j, (((l.foldl (fun a i => a.returnEntry (.tile t) i) s).tile t).send.entry j).valid =
      (if j ∈ l then false else ((s.tile t).send.entry j).valid)) ∧
    ∀ i ∈ l, ((s.tile t).send.entry i).valid = true → ((s.tile t).send.entry i).bytes ≠ 0 → ∃ x ∈ ps,
      x.dst = .tile (((s.tile t).send.entry i).qid.extractLsb' 4 12) ∧ x.net = 1 ∧
      x.body = .credRet ((s.tile t).send.entry i).handle ((s.tile t).send.entry i).bytes := by
  induction l generalizing s with
  | nil => exact ⟨[], by simp, by simp, by simp⟩
  | cons a l ih =>
    obtain ⟨ps, hnet, hval, hret⟩ := ih (s := s.returnEntry (.tile t) a)
    obtain ⟨ps0, hnet0⟩ := net_returnEntry (s := s) (t := t) a
    refine ⟨ps0 ++ ps, by rw [List.foldl_cons, hnet, hnet0, List.append_assoc], fun j => ?_, fun i hi hv hb => ?_⟩
    · rw [List.foldl_cons, hval, entry_returnEntry]
      by_cases hj : j ∈ l
      · simp [hj]
      · cases hv : ((s.tile t).send.entry a).valid <;> by_cases hja : j = a <;> simp [hj, hja, hv]
    · obtain rfl | hne := eq_or_ne i a
      · have hps := (returnEntry_of_valid hv).2
        rw [if_neg hb, hnet0, List.append_cancel_left_eq] at hps
        exact ⟨_, List.mem_append_left _ (hps ▸ List.mem_singleton_self _), rfl, rfl, rfl⟩
      · have hsame := entry_returnEntry (s := s) (t := t) a i
        rw [if_neg (fun h => hne h.1)] at hsame
        obtain ⟨x, hx, hdst⟩ := hret i ((List.mem_cons.1 hi).resolve_left hne) (hsame ▸ hv) (hsame ▸ hb)
        exact ⟨x, List.mem_append_right _ hx, hsame ▸ hdst⟩

/-- A grant or refusal lands in its entry (R220, R552). -/
theorem grantArrival_lands {id : Nat} {p : Pkt} {hd : Word} {b : Nat} {no : Bool} (hp : s.packet id = some p) (hdst : p.dst = .tile t)
    (hbody : p.body = .grant hd b no) (hon : s.tileOn t = true) :
    exec (.grantArrival id) s = .next ((s.dropPkt id).landGrant (.tile t) hd b no) := by
  have e : exec (.grantArrival id) s = execGrantArrival id s := rfl
  rw [e, execGrantArrival, hp]
  simp only [hdst, hbody, partySender, atSender, atTile, hon, if_true]

theorem landGrant_of_found {hd : Word} {b i : Nat} {no : Bool} (hf : (s.tile t).send.find hd = some i) :
    (s.landGrant (.tile t) hd b no).net = s.net ∧ ((s.landGrant (.tile t) hd b no).tile t).send.entry i =
      { (s.tile t).send.entry i with req := false, refused := ((s.tile t).send.entry i).refused || no
                                     bytes := ((s.tile t).send.entry i).bytes + b, lastUse := (s.tile t).send.useCtr + 1 } := by
  have hf' : (s.sendSide (.tile t)).find hd = some i := hf
  rw [State.landGrant, hf']
  refine ⟨rfl, ?_⟩
  dsimp only
  rw [send_modSend_tile]
  simp only [SendSide.entry, SendSide.modEntry, SMap.get_modify_self]

theorem landGrant_of_lost {hd : Word} {b : Nat} (hf : (s.tile t).send.find hd = none) (no : Bool) :
    s.landGrant (.tile t) hd b no = s.creditBack (.tile t) hd b := by
  have hf' : (s.sendSide (.tile t)).find hd = none := hf
  rw [State.landGrant, hf']

theorem creditReturn_ends {id : Nat} {p : Pkt} {hd : Word} {b : Nat} (hp : s.packet id = some p) (hdst : p.dst = .tile t)
    (hbody : p.body = .credRet hd b) (hon : s.tileOn t = true) :
    QueueEnds (.creditReturnArrival id) s s t (hd.extractLsb' 0 4)
      (if ((s.tile t).queue (hd.extractLsb' 0 4)).epoch = hd.extractLsb' 24 8 then
        { (s.tile t).queue (hd.extractLsb' 0 4) with granted := ((s.tile t).queue (hd.extractLsb' 0 4)).granted - b }
        else (s.tile t).queue (hd.extractLsb' 0 4)) (s.net.filter (fun p => p.id ≠ id)) := by
  have e : exec (.creditReturnArrival id) s = execCreditReturnArrival id s := rfl
  rw [execCreditReturnArrival, hp] at e
  simp only [hdst, hbody, atTile, hon, if_true] at e
  exact ((QueueStep.dropPkt s t _ id).modQueue _).ends e

end Entries

/-- Settles O29, from the step lemmas of requests, grants and returns. -/
theorem creditEvents : Obligations.CreditEvents := by
  unfold Obligations.CreditEvents
  intro s src t id p hd b f who rest i e no q tl k g foreign refused cut answer does asks
  refine ⟨fun hp hdst hbody hfree hon => ?_, fun hheld => ?_, fun hp hdst hbody hon => ?_, creditReturn_ends, ?_, fun w => ?_⟩
  · have ex := exec_creditRequestArrival hp hdst hbody hfree hon
    exact ⟨creditRequest_refused ex, ⟨fun hn hg => creditRequest_granted ex hn (grantFor_of_grain hg),
      fun hn hg hb => creditRequest_granted ex hn (grantFor_of_pool hg hb)⟩,
      fun hn hg hb => creditRequest_held ex hn (grantFor_of_short hg hb)⟩
  · refine ⟨fun hr hcan => ?_, ⟨fun hn hg => held_granted rfl hheld hn (grantFor_of_grain hg),
      fun hn hg hb => held_granted rfl hheld hn (grantFor_of_pool hg hb)⟩,
      fun hg hb => held_waits hheld (grantFor_of_short hg hb)⟩
    by_cases hg : (g : Int) ≤ k.pool
    · exact held_refused rfl hheld hr (grantFor_of_grain hg)
    · exact held_refused rfl hheld hr (grantFor_of_pool (Int.not_le.1 hg) (hcan.resolve_left hg))
  · have ex := grantArrival_lands hp hdst hbody hon
    refine ⟨fun x hx => ?_, fun hn hb => ?_⟩
    · obtain ⟨hnet, hent⟩ := landGrant_of_found (s := s.dropPkt id) (no := no) (b := b) hx
      exact ⟨_, ex, hnet, hent⟩
    · rw [landGrant_of_lost (s := s.dropPkt id) hn] at ex
      refine ⟨_, ex, congrArg Tile.send (tile_creditBack _ _ _), ?_⟩
      rw [net_creditBack, if_neg hb]
      rfl
  · intro x hv hreq
    have ex : exec (.creditIdleReturn (.tile t) e) s = execCreditIdleReturn (.tile t) e s := rfl
    rw [execCreditIdleReturn, if_neg (by rw [State.sendSide]; exact Bool.eq_false_iff.1 hreq)] at ex
    refine ⟨_, ex, ?_, fun j hj => ?_, (returnEntry_of_valid hv).2⟩
    · rw [entry_returnEntry, if_pos ⟨rfl, hv⟩]
    · rw [entry_returnEntry, if_neg (fun h => hj h.1)]
  · have ex : exec (.flush src t) s = .next (s.regWrite src (paQt t 0x448) 4 1 none) := rfl
    have h1 : bit (1 : DWord) 0 = true := rfl
    rw [regWrite_qt w (by omega) (show qtReg 0x448 = some (.crfl, 4) from rfl), State.qtWrite, if_pos h1] at ex
    obtain ⟨ps, hnet, hval, hret⟩ := foldl_returnEntry (s := s.touchHalf (paQt t 0x448)) (t := t) (List.range 16)
    rw [State.tile_touchHalf] at hret
    refine ⟨_, ps, ex, ?_, fun j hj => ?_, fun hi hv hb => hret i (List.mem_range.2 hi) hv hb⟩
    · rw [hnet, State.net_touchHalf]
    · rw [hval, if_pos (List.mem_range.2 hj)]

/-! ## The queue registers (R209, R231, R238, R243, R244, R553) -/

theorem qtReg_qcfg (q : QIx) : qtReg (8 * q.toNat) = some (.qcfg q, 4) := by
  revert q
  decide

theorem qtReg_qctl (q : QIx) : qtReg (0x80 + 8 * q.toNat) = some (.qctl q, 4) := by
  revert q
  decide

theorem csrTile_paQt (t : TileId) {o : Nat} (ho : o < 0x10000) : csrTile (paQt t o) = some t := by
  have ht := t.isLt
  have hn : BitVec.ofNat 12 ((paQt t o - 0x3F0000000000 - 0x100000000) / 0x10000) = t := by
    rw [show (paQt t o - 0x3F0000000000 - 0x100000000) / 0x10000 = t.toNat by unfold paQt; omega, BitVec.ofNat_toNat,
      BitVec.setWidth_eq]
  have h2 : 0x100000000 ≤ paQt t o - 0x3F0000000000 ∧ paQt t o - 0x3F0000000000 < 0x110000000 := by unfold paQt; omega
  rw [csrTile, if_neg (by unfold paQt; omega), if_neg (by unfold paQt; omega), if_pos (by simpa using h2), hn]

theorem touchHalf_paQt (s : State) (t : TileId) {o o' : Nat} (ho : o < 0x10000) (ho' : o' < 0x10000) :
    s.touchHalf (paQt t o) = s.touchHalf (paQt t o') := by
  rw [State.touchHalf, State.touchHalf, csrTile_paQt t ho, csrTile_paQt t ho']

/-- The packets that turn away what waits at a queue (R231, R553). -/
def TurnedAway (t : TileId) (k : Queue) (ps : List Pkt) : Prop :=
  ps.map (fun x => (x.src, x.dst, x.net, x.body)) =
    k.waiting.map (fun x => (Party.tile t, x.2, (1 : BitVec 2), Body.resp x.1.rtag .stale)) ++
      k.held.map (fun x => (Party.tile t, x.1, (1 : BitVec 2), Body.grant x.2.2.1 0 true))

section Registers

variable {s u : State} {t : TileId} {q : QIx} {k : Queue} {net : List Pkt} {n : Nat}

/-- What waits at a queue is turned away, in order. -/
theorem QueueStep.turnAway (a : QueueStep s u t q k net n) (o : Queue) : ∃ ps m, TurnedAway t o ps ∧
    QueueStep s (o.held.foldl (fun a r => a.refuse t r.1 r.2.2.1)
      (o.waiting.foldl (fun a w => a.respond t w.2 w.1.rtag .stale) u)) t q k (net ++ ps) m := by
  obtain ⟨ps1, h1, b1⟩ := a.foldl_sendPkt o.waiting (.tile t) (fun w => w.2) 1 (fun w => .resp w.1.rtag .stale)
  obtain ⟨ps2, h2, b2⟩ := b1.foldl_sendPkt o.held (.tile t) (fun r => r.1) 1 (fun r => .grant r.2.2.1 0 true)
  rw [List.append_assoc] at b2
  exact ⟨ps1 ++ ps2, _, by rw [TurnedAway, List.map_append, h1, h2], b2⟩

/-- A queue in a new epoch, empty (R231). -/
def Queue.emptied (k : Queue) : Queue :=
  { k with epoch := k.epoch + 1, rd := 0, wr := 0, used := 0, msgs := [], closed := false, granted := 0, held := [], waiting := [],
           rick := none, last := if k.rick.isSome then k.rick else k.last }

theorem disarm_emptied (k : Queue) : { k.disarm with
    epoch := k.disarm.epoch + 1, rd := 0, wr := 0, used := 0, msgs := [], closed := false, granted := 0, held := [],
    waiting := [] } = k.emptied := by
  rw [Queue.emptied, Queue.disarm]
  cases hr : k.rick <;> simp [hr]

theorem reassignQueue_step (a : QueueStep s u t q k net n) : ∃ ps m, TurnedAway t k ps ∧
    QueueStep s (u.reassignQueue t q) t q k.emptied (net ++ ps) m := by
  have hk : (u.tile t).queue q = k := a.queue
  have b := (a.modTile (g := fun tl => Tile.modQueue
      { tl with inbuf := tl.inbuf.map (fun w => if w.what = .ring q then { w with what := .none } else w) } q (fun k =>
        let d := k.disarm
        { d with epoch := d.epoch + 1, rd := 0, wr := 0, used := 0, msgs := [], closed := false, granted := 0, held := [],
                 waiting := [] })) (k' := k.emptied)
    (fun _ _ => rfl) (fun tl r hr => by rw [Tile.queue_modQueue, if_neg hr]; rfl)
    (fun tl htl => by rw [Tile.queue_modQueue_self, ← disarm_emptied, ← htl]; rfl) (fun _ => rfl) (fun _ => rfl)).turnAway k
  rw [State.reassignQueue, hk]
  exact b

/-- A queue whose EN is cleared (R553). -/
def Queue.disabled (k : Queue) : Queue :=
  { k with en := false, held := [], waiting := [], granted := k.waiting.foldl (fun g w => g - w.1.ring) k.granted }

theorem disableQueue_step (a : QueueStep s u t q k net n) : ∃ ps m, TurnedAway t k ps ∧
    QueueStep s (u.disableQueue t q) t q k.disabled (net ++ ps) m := by
  have hk : (u.tile t).queue q = k := a.queue
  have b := (a.modQueue Queue.disabled).turnAway k
  rw [State.disableQueue, hk]
  exact b

/-- The fields of QT_QCFG that a write sets (R243). -/
def Queue.configured (k : Queue) (w : Word) : Queue :=
  { k with mode := w.getLsbD 1, ext := w.getLsbD 2, rsize := w.extractLsb' 4 4, rbase := w.extractLsb' 8 14
           grain := w.extractLsb' 22 3 }

theorem writeQcfg_configures (w : Word) : (fun k : Queue => { k with
      mode := bit (w ||| 1) 1, ext := bit (w ||| 1) 2, rsize := bits (w ||| 1) 4 4, rbase := bits (w ||| 1) 8 14
      grain := bits (w ||| 1) 22 3 }) = fun k => k.configured w := by
  have hone : ∀ j, j ≠ 0 → (1 : Word).getLsbD j = false := fun j hj => by simp [hj]
  have hbits (lo n : Nat) (hlo : lo ≠ 0) : (bits (w ||| 1) lo n : BitVec n) = w.extractLsb' lo n := by
    refine BitVec.eq_of_getLsbD_eq fun i hi => ?_
    rw [bits, BitVec.getLsbD_extractLsb', BitVec.getLsbD_extractLsb', BitVec.getLsbD_or, hone (lo + i) (by omega), Bool.or_false]
  have hbit (j : Nat) (hj : j ≠ 0) : bit (w ||| 1) j = w.getLsbD j := by
    rw [bit, BitVec.getLsbD_or, hone j hj, Bool.or_false]
  funext k
  rw [Queue.configured, hbit 1 (by omega), hbit 2 (by omega), hbits 4 4 (by omega), hbits 8 14 (by omega), hbits 22 3 (by omega)]

/-- A ring that its queue may have (R209). -/
def LegalRing (s : State) (t : TileId) (k : Queue) : Prop :=
  k.rsize.toNat ≤ 10 ∧ k.base % k.size = 0 ∧ k.base + k.size ≤ (s.tile t).limit

theorem writeQcfg_of_off (v : Word) (hen : ((s.tile t).queue q).en = false) (h0 : bit v 0 = true) (c : Queue → Queue)
    (hc : (fun k : Queue => { k with
      mode := bit v 1, ext := bit v 2, rsize := bits v 4 4, rbase := bits v 8 14, grain := bits v 22 3 }) = c) :
    s.writeQcfg t q v =
      if 10 < (c ((s.tile t).queue q)).rsize.toNat || (c ((s.tile t).queue q)).base % (c ((s.tile t).queue q)).size ≠ 0 ||
          (s.tile t).limit < (c ((s.tile t).queue q)).base + (c ((s.tile t).queue q)).size then
        (s.modTile t (fun tl => tl.modQueue q c)).modTile t (fun tl => tl.modQueue q (fun k => { k with cfgerr := true }))
      else ((s.modTile t (fun tl => tl.modQueue q c)).reassignQueue t q).modTile t
        (fun tl => tl.modQueue q (fun k => { k with en := true, cfgerr := false })) := by
  rw [State.writeQcfg, hen, if_neg Bool.false_ne_true, hc]
  simp only [h0, Bool.not_true, Bool.false_eq_true, if_false, State.tile_modTile_self, Tile.queue_modQueue_self]
  rfl

theorem queueEnable_eq (src : Src) (w : TileWriter s src t) (v : Word) (hen : ((s.tile t).queue q).en = false) (c : Queue)
    (hc : c = ((s.tile t).queue q).configured v) :
    exec (.queueEnable src t q v) s = .next (if 10 < c.rsize.toNat || c.base % c.size ≠ 0 || (s.tile t).limit < c.base + c.size then
        ((s.touchHalf (paQt t (8 * q.toNat))).modTile t (fun tl => tl.modQueue q (fun k => k.configured v))).modTile t
          (fun tl => tl.modQueue q (fun k => { k with cfgerr := true }))
      else (((s.touchHalf (paQt t (8 * q.toNat))).modTile t (fun tl => tl.modQueue q (fun k => k.configured v))).reassignQueue t q).modTile t
        (fun tl => tl.modQueue q (fun k => { k with en := true, cfgerr := false }))) := by
  have hq := q.isLt
  have h32 : (bits ((v ||| 1).setWidth 64) 0 32 : Word) = v ||| 1 := by
    rw [bits_zero_eq_setWidth, BitVec.setWidth_setWidth_of_le _ (by omega), BitVec.setWidth_eq]
  have h0 : bit (v ||| 1) 0 = true := by rw [bit, BitVec.getLsbD_or]; simp
  have ex : exec (.queueEnable src t q v) s = .next (s.regWrite src (paQt t (8 * q.toNat)) 4 ((v ||| 1).setWidth 64) none) := rfl
  rw [regWrite_qt w (by omega) (qtReg_qcfg q), State.qtWrite, h32,
    writeQcfg_of_off _ (by rw [State.tile_touchHalf]; exact hen) h0 _ (writeQcfg_configures v), State.tile_touchHalf, ← hc] at ex
  exact ex

end Registers

/-- Settles O30, from the step lemmas of a reassignment and a disable. -/
theorem queueRegisters : Obligations.QueueRegisters := by
  unfold Obligations.QueueRegisters
  intro s src t q w r s0 tl k base size legal set empty does turned hw
  have hq := q.isLt
  have htile : s0.tile t = tl := State.tile_touchHalf _ _ _
  have hnet : s0.net = s.net := State.net_touchHalf _ _
  have start : QueueStep s0 s0 t q k s.net s0.nextId := by
    have a := QueueStep.refl s0 t q
    rwa [htile, hnet] at a
  have ends {i : Instr} {u : State} {k' : Queue} {ps : List Pkt} {n : Nat} (a : QueueStep s0 u t q k' (s.net ++ ps) n)
      (e : exec i s = .next u) : does i k' ps := by
    have h := a.ends e
    rw [QueueEnds, htile] at h
    exact h
  have ends0 {i : Instr} {u : State} {k' : Queue} {n : Nat} (a : QueueStep s0 u t q k' s.net n) (e : exec i s = .next u) :
      does i k' [] := ends (by rwa [List.append_nil]) e
  refine ⟨fun hen hlegal => ?_, fun hen hlegal => ?_, fun hen => ?_, ?_, ?_, fun hmode hrick => ?_⟩
  · obtain ⟨h10, hal, hfit⟩ := hlegal
    have e := queueEnable_eq src hw w hen _ rfl
    rw [if_neg (by simpa using ⟨⟨h10, hal⟩, hfit⟩)] at e
    obtain ⟨ps, m, hps, a⟩ := reassignQueue_step (start.modQueue (fun k => k.configured w))
    exact ⟨ps, hps, ends (a.modQueue (fun k => { k with en := true, cfgerr := false })) e⟩
  · have e := queueEnable_eq src hw w hen _ rfl
    rw [if_pos (by
      by_contra hno
      have hring : LegalRing s t (k.configured w) := by
        rw [LegalRing]
        simpa [and_assoc] using hno
      exact hlegal hring)] at e
    exact ends0 ((start.modQueue _).modQueue _) e
  · have h32 : (bits ((setBit k.cfg 0 false).setWidth 64) 0 32 : Word) = setBit k.cfg 0 false := by
      rw [bits_zero_eq_setWidth, BitVec.setWidth_setWidth_of_le _ (by omega), BitVec.setWidth_eq]
    have h0 : bit (setBit k.cfg 0 false) 0 = false := by rw [bit, getLsbD_setBit _ (by omega), if_pos rfl]
    have ex : exec (.queueDisable src t q) s = .next (s.regWrite src (paQt t (8 * q.toNat)) 4 ((setBit k.cfg 0 false).setWidth 64) none) := rfl
    rw [regWrite_qt hw (by omega) (qtReg_qcfg q), State.qtWrite, h32, State.writeQcfg, State.tile_touchHalf, if_pos hen, h0,
      if_neg Bool.false_ne_true] at ex
    obtain ⟨ps, m, hps, a⟩ := disableQueue_step start
    exact ⟨ps, hps, ends a ex⟩
  · have ex : exec (.reassign src t q) s = .next (s.regWrite src (paQt t (0x80 + 8 * q.toNat)) 4 1 none) := rfl
    rw [regWrite_qt hw (by omega) (qtReg_qctl q), touchHalf_paQt s t (by omega) (o' := 8 * q.toNat) (by omega)] at ex
    obtain ⟨ps, m, hps, a⟩ := reassignQueue_step start
    exact ⟨ps, hps, ends a ex⟩
  · have ex : exec (.close src t q) s = .next (s.regWrite src (paQt t (0x80 + 8 * q.toNat)) 4 2 none) := rfl
    rw [regWrite_qt hw (by omega) (qtReg_qctl q), touchHalf_paQt s t (by omega) (o' := 8 * q.toNat) (by omega)] at ex
    exact ends0 (start.modQueue _) ex
  · have ex : exec (.disarm src t q) s = .next (s.regWrite src (paQt t (0x80 + 8 * q.toNat)) 4 4 none) := rfl
    rw [regWrite_qt hw (by omega) (qtReg_qctl q), touchHalf_paQt s t (by omega) (o' := 8 * q.toNat) (by omega)] at ex
    have a := ends0 (start.modQueue (fun k => if k.mode then k.disarm else k)) ex
    rw [hmode, if_pos rfl, Queue.disarm, hrick] at a
    exact a

end Sys2Proof.Machine
end

section
/-! Messages at their queue: the checks, the placement in the ring and the answer (R180, R221–R225, R368). -/
namespace Sys2Proof.Machine

open Sys2Proof.Safety

/-! ## Writes of local memory that meet no error (R176, R177) -/

theorem Tile.errWords_congr {a b : Tile} (h : a.lerr = b.lerr) (off n : Nat) : a.errWords off n = b.errWords off n := by
  rw [Tile.errWords, Tile.errWords, h]

theorem Tile.errWords_within {tl : Tile} {base size off n : Nat} (h : tl.errWords base size = []) (hlo : base ≤ off)
    (hhi : off + n ≤ base + size) : tl.errWords off n = [] := by
  have hdiv : base / 8 ≤ off / 8 := Nat.div_le_div_right hlo
  rw [Tile.errWords, List.filterMap_eq_nil_iff] at h ⊢
  intro p hp
  have := h p hp
  cases hd : p.2 with
  | none => rfl
  | some d =>
    rw [hd] at this
    simp only [ite_eq_right_iff, Bool.and_eq_true, decide_eq_true_iff, reduceCtorEq, imp_false, not_and, Nat.not_lt] at this ⊢
    intro hle
    have := this (by omega)
    omega

theorem Tile.lmWrite_of_clean {tl : Tile} {off : Nat} {bs : List (Option Byte)} (src : Nat) (h : tl.errWords off bs.length = []) :
    tl.lmWrite src off bs = { tl with lmem := tl.lmem.setMasked off bs } := by
  rw [Tile.lmWrite, h]
  rfl

theorem Tile.lerr_lmWrite_of_clean {tl : Tile} {off : Nat} {bs : List (Option Byte)} (src : Nat) (h : tl.errWords off bs.length = []) :
    (tl.lmWrite src off bs).lerr = tl.lerr := by rw [Tile.lmWrite_of_clean src h]

theorem State.ringWrite_of_clean {s : State} {t : TileId} {off : Nat} {bs : List Byte} (h : (s.tile t).errWords off bs.length = []) :
    s.ringWrite t off bs = s.modTile t (fun tl => tl.lmWrite 1 off (bs.map some)) := by
  rw [State.ringWrite, Tile.writeBad, List.length_map, h]
  rfl

/-! ## The bytes of a list of words -/

theorem length_wordBytes (ws : List Word) : (wordBytes ws).length = 4 * ws.length := by
  induction ws with
  | nil => rfl
  | cons w ws ih =>
    rw [wordBytes, List.flatMap_cons, List.length_append, ← wordBytes, ih, bytesOf_eq_byteList, length_byteList, List.length_cons]
    omega

theorem wordBytes_eq (ws : List Word) : wordBytes ws = ws.flatMap (byteList · 4) := by
  rw [wordBytes]
  congr
  funext w
  exact bytesOf_eq_byteList w 4

theorem getD_byteList {n : Nat} (x : BitVec n) {k i : Nat} (hi : i < k) : (byteList x k).getD i 0 = x.extractLsb' (8 * i) 8 := by
  rw [byteList, List.getD_eq_getElem?_getD, List.getElem?_map, List.getElem?_range hi]
  rfl

theorem getD_wordBytes (ws : List Word) {j : Nat} (hj : j < 4 * ws.length) :
    (wordBytes ws).getD j 0 = (ws.getD (j / 4) 0).extractLsb' (8 * (j % 4)) 8 := by
  induction ws generalizing j with
  | nil => exact absurd hj (Nat.not_lt_zero _)
  | cons w ws ih =>
    have hcons : wordBytes (w :: ws) = byteList w 4 ++ wordBytes ws := by
      rw [wordBytes, List.flatMap_cons, bytesOf_eq_byteList, wordBytes]
    rw [hcons, List.getD_eq_getElem?_getD]
    obtain hlt | hge := Nat.lt_or_ge j 4
    · rw [List.getElem?_append_left (by rw [length_byteList]; exact hlt), ← List.getD_eq_getElem?_getD, getD_byteList w hlt,
        Nat.div_eq_of_lt hlt, Nat.mod_eq_of_lt hlt, List.getD_cons_zero]
    · rw [List.length_cons] at hj
      rw [List.getElem?_append_right (by rw [length_byteList]; exact hge), length_byteList, ← List.getD_eq_getElem?_getD,
        ih (by omega), show j / 4 = (j - 4) / 4 + 1 by omega, show j % 4 = (j - 4) % 4 by omega, List.getD_cons_succ]

/-! ## What the queue hardware makes of the tile (R221, R223) -/

/-- Tile `tl` with message `m` placed in ring `q`. -/
def Tile.placing (tl : Tile) (q : QIx) (m : Msg) (need : Scope) (cov : Bool) : Tile :=
  let k := tl.queue q
  let t1 := if k.skip m.ring = 0 then tl
    else tl.lmWrite 1 (k.base + k.wr) ((bytesOf (0xC0000000#32 + BitVec.ofNat 32 (k.skip m.ring)) 4).map some)
  let off := k.base + (if k.skip m.ring = 0 then k.wr else 0)
  let t2 := if m.mesh then { t1 with inbuf := t1.inbuf ++ [{ off := off, bytes := wordBytes (m.header :: m.payload), what := .ring q }] }
    else t1.lmWrite 1 off ((wordBytes (m.header :: m.payload)).map some)
  let t3 := (t2.pm 0x21 1).modQueue q (fun k => k.placed m need cov)
  if m.kind = 2 then { t3 with pev := setBit t3.pev q.toNat true } else t3

@[simp] theorem Tile.lmem_pm (tl : Tile) (c n : Nat) : (tl.pm c n).lmem = tl.lmem := by unfold Tile.pm; split <;> rfl
@[simp] theorem Tile.q_pm (tl : Tile) (c n : Nat) : (tl.pm c n).q = tl.q := by unfold Tile.pm; split <;> rfl
@[simp] theorem Tile.inbuf_pm (tl : Tile) (c n : Nat) : (tl.pm c n).inbuf = tl.inbuf := by unfold Tile.pm; split <;> rfl
@[simp] theorem Tile.pev_pm (tl : Tile) (c n : Nat) : (tl.pm c n).pev = tl.pev := by unfold Tile.pm; split <;> rfl

/-- A ring that a message of one to four words fits: no error in it, and WR on a doubleword within it. -/
structure RingGood (tl : Tile) (q : QIx) (n : Nat) : Prop where
  lo : 1 ≤ n
  hi : n ≤ 4
  wr8 : (tl.queue q).wr % 8 = 0
  wr : (tl.queue q).wr < (tl.queue q).size
  clean : tl.errWords (tl.queue q).base (tl.queue q).size = []

theorem Queue.size_eq (k : Queue) : ∃ c, 1 ≤ c ∧ k.size = 64 * c := ⟨2 ^ k.rsize.toNat, Nat.one_le_two_pow, rfl⟩

section Placing

variable {tl : Tile} {q : QIx} {m : Msg} {need : Scope} {cov : Bool}

/-- Where the marker and the message go, in numbers: both within the ring, and apart. -/
theorem RingGood.spans (g : RingGood tl q m.payload.length) :
    4 * (m.payload.length + 1) ≤ m.ring ∧ m.ring ≤ 24 ∧ (tl.queue q).wr + 8 ≤ (tl.queue q).size ∧ 64 ≤ (tl.queue q).size ∧
      (if (tl.queue q).skip m.ring = 0 then (tl.queue q).wr else 0) + 4 * (m.payload.length + 1) ≤ (tl.queue q).size ∧
      ((tl.queue q).skip m.ring ≠ 0 → 24 < (tl.queue q).wr) := by
  obtain ⟨hlo, hhi, hwr8, hwr, -⟩ := g
  obtain ⟨c, hc, hsize⟩ := (tl.queue q).size_eq
  have hring : m.ring = (4 * (m.payload.length + 1) + 7) / 8 * 8 := rfl
  have hskip : (tl.queue q).skip m.ring = if (tl.queue q).size - (tl.queue q).wr < m.ring then (tl.queue q).size - (tl.queue q).wr else 0 := rfl
  rw [hskip]
  generalize (tl.queue q).wr = wr at *
  generalize (tl.queue q).size = size at *
  generalize m.ring = b at *
  generalize m.payload.length = n at *
  refine ⟨by omega, by omega, by omega, by omega, ?_, ?_⟩
  · split <;> split <;> omega
  · split <;> omega

/-- The tile once the skip marker has been written. -/
def Tile.marked (tl : Tile) (q : QIx) (m : Msg) : Tile :=
  let k := tl.queue q
  if k.skip m.ring = 0 then tl
  else tl.lmWrite 1 (k.base + k.wr) ((bytesOf (0xC0000000#32 + BitVec.ofNat 32 (k.skip m.ring)) 4).map some)

/-- The tile once the bytes of the message have been written, or queued in the inbound write buffer. -/
def Tile.written (tl : Tile) (q : QIx) (m : Msg) : Tile :=
  let k := tl.queue q
  let off := k.base + (if k.skip m.ring = 0 then k.wr else 0)
  if m.mesh then
    { tl.marked q m with inbuf := (tl.marked q m).inbuf ++ [{ off := off, bytes := wordBytes (m.header :: m.payload), what := .ring q }] }
  else (tl.marked q m).lmWrite 1 off ((wordBytes (m.header :: m.payload)).map some)

theorem Tile.placing_eq : tl.placing q m need cov =
    if m.kind = 2 then { ((tl.written q m).pm 0x21 1).modQueue q (fun k => k.placed m need cov) with
      pev := setBit ((tl.written q m).pm 0x21 1).pev q.toNat true }
    else ((tl.written q m).pm 0x21 1).modQueue q (fun k => k.placed m need cov) := rfl

theorem RingGood.marker_clean (g : RingGood tl q m.payload.length) :
    tl.errWords ((tl.queue q).base + (tl.queue q).wr) 4 = [] := by
  obtain ⟨-, -, hwr, -, -, -⟩ := g.spans (m := m)
  exact Tile.errWords_within g.clean (by omega) (by omega)

theorem RingGood.lerr_marked (g : RingGood tl q m.payload.length) : (tl.marked q m).lerr = tl.lerr := by
  rw [Tile.marked]
  split
  · rfl
  · refine Tile.lerr_lmWrite_of_clean 1 ?_
    rw [List.length_map, bytesOf_eq_byteList, length_byteList]
    exact g.marker_clean (m := m)

theorem length_msgBytes (m : Msg) : (wordBytes (m.header :: m.payload)).length = 4 * (m.payload.length + 1) := by
  rw [length_wordBytes, List.length_cons]

theorem RingGood.msg_clean (g : RingGood tl q m.payload.length) : (tl.marked q m).errWords
    ((tl.queue q).base + if (tl.queue q).skip m.ring = 0 then (tl.queue q).wr else 0) (wordBytes (m.header :: m.payload)).length = [] := by
  obtain ⟨-, -, -, -, hfit, -⟩ := g.spans (m := m)
  rw [Tile.errWords_congr g.lerr_marked, length_msgBytes]
  exact Tile.errWords_within g.clean (by omega) (by omega)

/-- The tile with the marker differs in local memory alone. -/
theorem RingGood.marked_eq (g : RingGood tl q m.payload.length) : ∃ lm, tl.marked q m = { tl with lmem := lm } := by
  rw [Tile.marked]
  split
  · exact ⟨tl.lmem, rfl⟩
  · refine ⟨_, Tile.lmWrite_of_clean 1 ?_⟩
    rw [List.length_map, bytesOf_eq_byteList, length_byteList]
    exact g.marker_clean (m := m)

/-- With the message's bytes, in local memory and the inbound buffer. -/
theorem RingGood.written_eq (g : RingGood tl q m.payload.length) : ∃ lm, tl.written q m = { tl with
    lmem := lm, inbuf := tl.inbuf ++ if m.mesh then
      [{ off := (tl.queue q).base + (if (tl.queue q).skip m.ring = 0 then (tl.queue q).wr else 0),
         bytes := wordBytes (m.header :: m.payload), what := .ring q }] else [] } := by
  obtain ⟨lm, hm⟩ := g.marked_eq
  rw [Tile.written]
  dsimp only
  split
  case isTrue hmesh => exact ⟨lm, by rw [hm]⟩
  case isFalse hmesh =>
    have hc := g.msg_clean
    rw [← List.length_map (f := some)] at hc
    exact ⟨_, by rw [Tile.lmWrite_of_clean 1 hc, hm, List.append_nil]⟩

/-- The bytes of local memory after the placement. -/
theorem RingGood.byte_written (g : RingGood tl q m.payload.length) (a : Nat) : (tl.written q m).lmem.byte a =
    let off := (tl.queue q).base + if (tl.queue q).skip m.ring = 0 then (tl.queue q).wr else 0
    let at_ := (tl.queue q).base + (tl.queue q).wr
    if m.mesh = false ∧ off ≤ a ∧ a < off + 4 * (m.payload.length + 1) then (wordBytes (m.header :: m.payload)).getD (a - off) 0
    else if (tl.queue q).skip m.ring ≠ 0 ∧ at_ ≤ a ∧ a < at_ + 4 then
      (byteList (0xC0000000#32 + BitVec.ofNat 32 ((tl.queue q).skip m.ring)) 4).getD (a - at_) 0
    else tl.lmem.byte a := by
  have hmark : (tl.marked q m).lmem.byte a = if (tl.queue q).skip m.ring ≠ 0 ∧ (tl.queue q).base + (tl.queue q).wr ≤ a ∧
      a < (tl.queue q).base + (tl.queue q).wr + 4 then
        (byteList (0xC0000000#32 + BitVec.ofNat 32 ((tl.queue q).skip m.ring)) 4).getD (a - ((tl.queue q).base + (tl.queue q).wr)) 0
      else tl.lmem.byte a := by
    rw [Tile.marked]
    split
    case isTrue h0 => simp [h0]
    case isFalse h0 =>
      rw [Tile.wrote_lmWrite, bytesOf_eq_byteList, length_byteList]
      simp [h0]
  dsimp only
  rw [← hmark, Tile.written]
  dsimp only
  split
  case isTrue hmesh => simp [hmesh]
  case isFalse hmesh =>
    rw [Tile.wrote_lmWrite, length_msgBytes]
    simp [hmesh]

/-! ## Facts about the placed message's tile -/

theorem RingGood.th_placing (g : RingGood tl q m.payload.length) (h : Thr) : (tl.placing q m need cov).th h = tl.th h := by
  obtain ⟨lm, hw⟩ := g.written_eq
  have hth : (((tl.written q m).pm 0x21 1).modQueue q (fun k => k.placed m need cov)).th h = tl.th h := by
    rw [Tile.th_modQueue, Tile.th, Tile.pm_thr, hw]
    rfl
  rw [Tile.placing_eq]
  split <;> exact hth

theorem RingGood.queue_placing (g : RingGood tl q m.payload.length) (r : QIx) : (tl.placing q m need cov).queue r =
    if r = q then (tl.queue q).placed m need cov else tl.queue r := by
  obtain ⟨lm, hw⟩ := g.written_eq
  have hq (r : QIx) : ((tl.written q m).pm 0x21 1).queue r = tl.queue r := by
    rw [Tile.queue, Tile.q_pm, hw]
    rfl
  have hmod : (((tl.written q m).pm 0x21 1).modQueue q (fun k => k.placed m need cov)).queue r =
      if r = q then (tl.queue q).placed m need cov else tl.queue r := by rw [Tile.queue_modQueue, hq, hq]
  rw [Tile.placing_eq]
  split <;> exact hmod

theorem RingGood.inbuf_placing (g : RingGood tl q m.payload.length) : (tl.placing q m need cov).inbuf =
    tl.inbuf ++ if m.mesh then
      [{ off := (tl.queue q).base + (if (tl.queue q).skip m.ring = 0 then (tl.queue q).wr else 0),
         bytes := wordBytes (m.header :: m.payload), what := .ring q }] else [] := by
  obtain ⟨lm, hw⟩ := g.written_eq
  have hin : ((tl.written q m).pm 0x21 1).inbuf = (tl.written q m).inbuf := Tile.inbuf_pm _ _ _
  rw [hw] at hin
  rw [Tile.placing_eq, hw]
  split <;> exact hin

theorem RingGood.pev_placing (g : RingGood tl q m.payload.length) : (tl.placing q m need cov).pev =
    if m.kind = 2 then setBit tl.pev q.toNat true else tl.pev := by
  obtain ⟨lm, hw⟩ := g.written_eq
  have hp : ((tl.written q m).pm 0x21 1).pev = tl.pev := by rw [Tile.pev_pm, hw]
  rw [Tile.placing_eq]
  split
  · dsimp only
    rw [hp]
  · exact hp

theorem Tile.lmem_placing : (tl.placing q m need cov).lmem = (tl.written q m).lmem := by
  rw [Tile.placing_eq]
  split <;> exact Tile.lmem_pm _ _ _

end Placing

/-- The placement is that change of the tile, and changes nothing outside it. -/
theorem placeMsg_eq {s : State} {t : TileId} {q : QIx} {m : Msg} (need : Scope) (cov : Bool)
    (g : RingGood (s.tile t) q m.payload.length) : OnlyTile s (s.placeMsg t q m need cov) t ∧
      (s.placeMsg t q m need cov).tile t = (s.tile t).placing q m need cov := by
  have h1 : ∃ u, (if ((s.tile t).queue q).skip m.ring = 0 then s
      else s.ringWrite t (((s.tile t).queue q).base + ((s.tile t).queue q).wr)
        (bytesOf (0xC0000000#32 + BitVec.ofNat 32 (((s.tile t).queue q).skip m.ring)) 4)) = u ∧
      OnlyTile s u t ∧ u.tile t = (s.tile t).marked q m := by
    rw [Tile.marked]
    split
    · exact ⟨s, rfl, State.onlyTile_refl s t, rfl⟩
    · rw [State.ringWrite_of_clean (by
        rw [bytesOf_eq_byteList, length_byteList]
        exact g.marker_clean (m := m))]
      exact ⟨_, rfl, State.onlyTile_modTile _ _ _, State.tile_modTile_self _ _ _⟩
  obtain ⟨u, hu, ho, ht⟩ := h1
  have h2 : ∃ v, (if m.mesh then u.modTile t (fun tl => { tl with inbuf := tl.inbuf ++
      [{ off := ((s.tile t).queue q).base + (if ((s.tile t).queue q).skip m.ring = 0 then ((s.tile t).queue q).wr else 0),
         bytes := wordBytes (m.header :: m.payload), what := .ring q }] })
      else u.ringWrite t (((s.tile t).queue q).base + (if ((s.tile t).queue q).skip m.ring = 0 then ((s.tile t).queue q).wr else 0))
        (wordBytes (m.header :: m.payload))) = v ∧ OnlyTile s v t ∧ v.tile t = (s.tile t).written q m := by
    rw [Tile.written]
    dsimp only
    split
    · exact ⟨_, rfl, OnlyTile.trans ho (State.onlyTile_modTile _ _ _), by rw [State.tile_modTile_self, ht]⟩
    · rw [State.ringWrite_of_clean (by
        rw [ht]
        exact g.msg_clean)]
      exact ⟨_, rfl, OnlyTile.trans ho (State.onlyTile_modTile _ _ _), by rw [State.tile_modTile_self, ht]⟩
  obtain ⟨v, hv, ho2, ht2⟩ := h2
  rw [State.placeMsg]
  dsimp only
  rw [hu, hv]
  exact ⟨OnlyTile.trans ho2 (State.onlyTile_modTile _ _ _), by
    rw [State.tile_modTile_self, ht2]
    exact Tile.placing_eq.symm⟩

end Sys2Proof.Machine
end

section
/-! Arrival of messages and responses (R211, R217, R222, R225, R227, R313, R331, R429). From them the obligation O27. -/
namespace Sys2Proof.Machine

open Sys2Proof.Safety

/-! ## The checks (R225, R368) -/

/-- What a queue finds wrong with message `m` of party `src`. -/
def State.verdict (s : State) (t : TileId) (src : Party) (m : Msg) : Option Resp :=
  if s.ownerFailed t then some .stale
  else match ((s.tile t).queue (hQix m.handle)).check (s.mayReach t (hQix m.handle) src m.func) (hEpoch m.handle) m.kind with
    | some r => some r
    | none => if !m.credited && ((s.tile t).queue (hQix m.handle)).pool < (m.ring : Int) then some .dropped else none

theorem State.arrive_eq (s : State) (t : TileId) (src : Party) (m : Msg) : s.arrive t src m =
    match s.verdict t src m with
    | some r => (s.modTile t (fun tl => tl.modQueue (hQix m.handle) (fun k => k.discard m))).respond t src m.rtag r
    | none =>
      if m.credited && (((s.tile t).queue (hQix m.handle)).waiting ≠ [] || !((s.tile t).queue (hQix m.handle)).fits m.ring) then
        s.modTile t (fun tl => tl.modQueue (hQix m.handle) (fun k => { k with waiting := k.waiting ++ [(m, src)] }))
      else (s.placeMsg t (hQix m.handle) m (msgNeed m t) (covered m.relScope (msgNeed m t))).respond t src m.rtag .accepted := rfl

/-- The queue is not there for the message: its owner has failed, or it is not enabled, or not for its source or epoch. -/
def MsgWrong (s : State) (t : TileId) (src : Party) (m : Msg) : Prop :=
  let k := (s.tile t).queue (m.handle.extractLsb' 0 4)
  s.ownerFailed t = true ∨ k.en = false ∨ (match src with
    | .tile _ => m.func ≠ (s.tile t).func
    | _ => k.ext = false) ∨ m.handle.extractLsb' 24 8 ≠ k.epoch

/-- The response with which a message is discarded. -/
def MsgBad (s : State) (t : TileId) (src : Party) (m : Msg) (r : Resp) : Prop :=
  let k := (s.tile t).queue (m.handle.extractLsb' 0 4)
  let mixed : Prop := ¬(m.kind = 1 ↔ k.mode = true)
  match r with
  | .stale => MsgWrong s t src m ∨ k.closed = false ∧ mixed
  | .closed => ¬MsgWrong s t src m ∧ k.closed = true
  | .dropped => ¬MsgWrong s t src m ∧ k.closed = false ∧ ¬mixed ∧ m.credited = false ∧
      k.pool < (((4 * (m.payload.length + 1) + 7) / 8 * 8 : Nat) : Int)
  | .accepted => False

theorem Queue.check_eq_some_iff (k : Queue) (reach : Bool) (ep : Byte) (kind : BitVec 2) (r : Resp) : k.check reach ep kind = some r ↔
    match r with
    | .stale => (k.en = false ∨ reach = false ∨ ep ≠ k.epoch) ∨ k.closed = false ∧ ¬(kind = 1 ↔ k.mode = true)
    | .closed => ¬(k.en = false ∨ reach = false ∨ ep ≠ k.epoch) ∧ k.closed = true
    | _ => False := by
  unfold Queue.check
  cases hen : k.en <;> cases reach <;> by_cases he : ep = k.epoch <;> cases hc : k.closed <;> by_cases hk : kind = 1 <;>
    cases hm : k.mode <;> cases r <;> simp [he, hk]

theorem mayReach_eq_false (s : State) (t : TileId) (q : QIx) (src : Party) (f : Option FuncNo) : s.mayReach t q src f = false ↔
    (match src with
      | .tile _ => f ≠ (s.tile t).func
      | _ => ((s.tile t).queue q).ext = false) := by
  cases src <;> simp [State.mayReach]

theorem verdict_eq_some_iff (s : State) (t : TileId) (src : Party) (m : Msg) (r : Resp) :
    s.verdict t src m = some r ↔ MsgBad s t src m r := by
  have hwrong : MsgWrong s t src m ↔ s.ownerFailed t = true ∨ ((s.tile t).queue (hQix m.handle)).en = false ∨
      s.mayReach t (hQix m.handle) src m.func = false ∨ hEpoch m.handle ≠ ((s.tile t).queue (hQix m.handle)).epoch := by
    rw [mayReach_eq_false]
    rfl
  have hring : (m.ring : Int) = (((4 * (m.payload.length + 1) + 7) / 8 * 8 : Nat) : Int) := rfl
  have hk : (s.tile t).queue (m.handle.extractLsb' 0 4) = (s.tile t).queue (hQix m.handle) := rfl
  have hc := Queue.check_eq_some_iff ((s.tile t).queue (hQix m.handle)) (s.mayReach t (hQix m.handle) src m.func) (hEpoch m.handle) m.kind
  rw [State.verdict]
  cases hf : s.ownerFailed t with
  | true => cases r <;> simp [MsgBad, hwrong, hf]
  | false =>
    cases hcheck : ((s.tile t).queue (hQix m.handle)).check (s.mayReach t (hQix m.handle) src m.func) (hEpoch m.handle) m.kind with
    | some x =>
      have hx := (hc x).1 hcheck
      cases x <;> cases r <;> simp [MsgBad, hwrong, hf, hk] at hx ⊢ <;> grind
    | none =>
      have hstale := (hc .stale).not.1 (by simp [hcheck])
      have hclosed := (hc .closed).not.1 (by simp [hcheck])
      rw [← hring.symm]
      cases r <;> simp [MsgBad, hwrong, hf, hk] at hstale hclosed ⊢ <;> grind

/-! ## Placement and the answer (R221, R222) -/

/-- Between `s` and `v` nothing has changed but the networks and what waits at queue `q` of tile `t`, now `w`. -/
structure OnlyWaiting (s v : State) (t : TileId) (q : QIx) (w : List (Msg × Party)) : Prop where
  only : OnlyQueue s v t q
  queue : (v.tile t).queue q = { (s.tile t).queue q with waiting := w }
  lmem : (v.tile t).lmem = (s.tile t).lmem
  inbuf : (v.tile t).inbuf = (s.tile t).inbuf
  pev : (v.tile t).pev = (s.tile t).pev
  lerr : (v.tile t).lerr = (s.tile t).lerr

theorem onlyQueue_trans {s v u : State} {t : TileId} {q : QIx} (a : OnlyQueue s v t q) (b : OnlyQueue v u t q) : OnlyQueue s u t q := by
  obtain ⟨hf, ht, hh, hq⟩ := a
  obtain ⟨hf', ht', hh', hq'⟩ := b
  refine ⟨?_, fun r hr => (ht' r hr).trans (ht r hr), fun k => (hh' k).trans (hh k), fun r hr => (hq' r hr).trans (hq r hr)⟩
  rw [hf] at hf'
  exact hf'

theorem onlyWaiting_dropPkt (s : State) (t : TileId) (q : QIx) (id : Nat) :
    OnlyWaiting s (s.dropPkt id) t q ((s.tile t).queue q).waiting :=
  ⟨(QueueStep.dropPkt s t q id).onlyQueue, rfl, rfl, rfl, rfl, rfl⟩

theorem onlyWaiting_modTile (s : State) (t : TileId) (q : QIx) (w : List (Msg × Party)) :
    OnlyWaiting s (s.modTile t (fun tl => tl.modQueue q (fun k => { k with waiting := w }))) t q w := by
  have a := (QueueStep.refl s t q).modQueue (fun k => { k with waiting := w })
  exact ⟨a.onlyQueue, a.queue, a.lmem, by rw [State.tile_modTile_self]; rfl, by rw [State.tile_modTile_self]; rfl,
    by rw [State.tile_modTile_self]; rfl⟩

/-- Message `m` stands in queue `q`, with `w` waiting behind it. -/
def MsgPlaced (s u : State) (t : TileId) (q : QIx) (m : Msg) (w : List (Msg × Party)) : Prop :=
  let tl := s.tile t
  let k := tl.queue q
  let n := m.payload.length
  let b := (4 * (n + 1) + 7) / 8 * 8
  let sk := if k.size - k.wr < b then k.size - k.wr else 0
  let need := scopeNeeded (if m.origin.extractLsb' 0 2 = 0 then some m.sender else none) t
  let off := k.base + if sk = 0 then k.wr else 0
  let mesh := decide (m.kind = 0 ∧ 2 ≤ n)
  let ws := (m.kind ++ BitVec.ofNat 2 (n - 1) ++ m.sender ++ m.tag) :: m.payload
  OnlyQueue s u t q ∧
    (u.tile t).queue q = { k with
      wr := if k.size - k.wr < b then b else (k.wr + b) % k.size
      used := k.used + sk + b, waiting := w, granted := if m.credited then k.granted - b else k.granted
      msgs := k.msgs ++ [⟨sk, 4 * (n + 1), m.origin, m.sender, m.relScope, need,
        decide (scopeRank (some need) ≤ scopeRank m.relScope), !mesh⟩] } ∧
    (u.tile t).inbuf = tl.inbuf ++ (if mesh then [⟨off, ws.flatMap (byteList · 4), .ring q⟩] else []) ∧
    (mesh = false → ∀ j, j < 4 * (n + 1) → (u.tile t).lmem.byte (off + j) = (ws.getD (j / 4) 0).extractLsb' (8 * (j % 4)) 8) ∧
    (sk ≠ 0 → ∀ j, j < 4 → (u.tile t).lmem.byte (k.base + k.wr + j) =
      (0xC0000000#32 + BitVec.ofNat 32 sk).extractLsb' (8 * j) 8) ∧
    (∀ a, ¬(sk ≠ 0 ∧ k.base + k.wr ≤ a ∧ a < k.base + k.wr + 4) →
      ¬(mesh = false ∧ off ≤ a ∧ a < off + 4 * (n + 1)) → (u.tile t).lmem.byte a = tl.lmem.byte a) ∧
    (u.tile t).pev = (if m.kind = 2 then setBit tl.pev q.toNat true else tl.pev)

theorem OnlyWaiting.ringGood {s v : State} {t : TileId} {q : QIx} {w : List (Msg × Party)} (a : OnlyWaiting s v t q w) {n : Nat}
    (g : RingGood (s.tile t) q n) : RingGood (v.tile t) q n := by
  obtain ⟨hlo, hhi, hwr8, hwr, hclean⟩ := g
  refine ⟨hlo, hhi, ?_, ?_, ?_⟩
  · rw [a.queue]
    exact hwr8
  · rw [a.queue]
    exact hwr
  · rw [a.queue, Tile.errWords_congr a.lerr]
    exact hclean

/-- The bytes of a placed message, its marker and all else. -/
theorem RingGood.placed_bytes {tl : Tile} {q : QIx} {m : Msg} (g : RingGood tl q m.payload.length) :
    let k := tl.queue q
    let off := k.base + if k.skip m.ring = 0 then k.wr else 0
    (m.mesh = false → ∀ j, j < 4 * (m.payload.length + 1) → (tl.written q m).lmem.byte (off + j) =
      ((m.header :: m.payload).getD (j / 4) 0).extractLsb' (8 * (j % 4)) 8) ∧
    (k.skip m.ring ≠ 0 → ∀ j, j < 4 → (tl.written q m).lmem.byte (k.base + k.wr + j) =
      (0xC0000000#32 + BitVec.ofNat 32 (k.skip m.ring)).extractLsb' (8 * j) 8) ∧
    (∀ a, ¬(k.skip m.ring ≠ 0 ∧ k.base + k.wr ≤ a ∧ a < k.base + k.wr + 4) →
      ¬(m.mesh = false ∧ off ≤ a ∧ a < off + 4 * (m.payload.length + 1)) → (tl.written q m).lmem.byte a = tl.lmem.byte a) := by
  obtain ⟨hb, hb24, hwr, hsize, hfit, hapart⟩ := g.spans (m := m)
  refine ⟨fun hmesh j hj => ?_, fun hsk j hj => ?_, fun a hmark hmsg => ?_⟩
  · rw [g.byte_written]
    dsimp only
    rw [if_pos ⟨hmesh, by omega, by omega⟩, Nat.add_sub_cancel_left, getD_wordBytes _ (by rw [List.length_cons]; exact hj)]
  · have := hapart hsk
    rw [g.byte_written]
    dsimp only
    rw [if_neg (by rw [if_neg hsk]; omega), if_pos ⟨hsk, by omega, by omega⟩, Nat.add_sub_cancel_left, getD_byteList _ hj]
  · rw [g.byte_written]
    dsimp only
    rw [if_neg hmsg, if_neg hmark]

/-- A message is placed and answered ACCEPTED. -/
theorem OnlyWaiting.placed {s v : State} {t : TileId} {q : QIx} {w : List (Msg × Party)} (a : OnlyWaiting s v t q w) {m : Msg}
    (g : RingGood (s.tile t) q m.payload.length) (src : Party) :
    MsgPlaced s ((v.placeMsg t q m (msgNeed m t) (covered m.relScope (msgNeed m t))).respond t src m.rtag .accepted) t q m w ∧
      ((v.placeMsg t q m (msgNeed m t) (covered m.relScope (msgNeed m t))).respond t src m.rtag .accepted).net =
        v.net ++ [⟨v.nextId, .tile t, src, 1, .resp m.rtag .accepted, [], []⟩] := by
  have gv := a.ringGood g
  obtain ⟨ho, ht⟩ := placeMsg_eq (msgNeed m t) (covered m.relScope (msgNeed m t)) gv
  obtain ⟨hbytes, hmarker, hrest⟩ := gv.placed_bytes
  have hmesh : m.mesh = decide (m.kind = 0 ∧ 2 ≤ m.payload.length) := by simp [Msg.mesh]
  have hlm : ((v.placeMsg t q m (msgNeed m t) (covered m.relScope (msgNeed m t))).tile t).lmem = ((v.tile t).written q m).lmem := by
    rw [ht, Tile.lmem_placing]
  have honly : OnlyQueue v ((v.placeMsg t q m (msgNeed m t) (covered m.relScope (msgNeed m t))).respond t src m.rtag .accepted) t q := by
    refine ⟨?_, fun r hr => ho.2 r hr, fun k => ?_, fun r hr => ?_⟩
    · have hf := ho.1
      rw [State.respond, State.sendPkt, hf]
    · rw [State.respond, State.th_sendPkt, State.th, ht, gv.th_placing, State.th]
    · rw [State.respond, State.tile_sendPkt, ht, gv.queue_placing, if_neg hr]
  have hnet : ((v.placeMsg t q m (msgNeed m t) (covered m.relScope (msgNeed m t))).respond t src m.rtag .accepted).net =
      v.net ++ [⟨v.nextId, .tile t, src, 1, .resp m.rtag .accepted, [], []⟩] := by
    have hf := ho.1
    rw [State.respond, State.sendPkt, hf]
  rw [hmesh, a.queue, ← hlm] at hbytes
  rw [a.queue, ← hlm] at hmarker
  rw [hmesh, a.queue, ← hlm, a.lmem] at hrest
  refine ⟨⟨onlyQueue_trans a.only honly, ?_, ?_, hbytes, hmarker, hrest, ?_⟩, hnet⟩
  · rw [State.respond, State.tile_sendPkt, ht, gv.queue_placing, if_pos rfl, a.queue, Queue.placed, hmesh]
    rfl
  · rw [State.respond, State.tile_sendPkt, ht, gv.inbuf_placing, a.queue, a.inbuf, hmesh, wordBytes_eq]
    rfl
  · rw [State.respond, State.tile_sendPkt, ht, gv.pev_placing, a.pev]

/-! ## Arrival and the first waiting message -/

section Arrival

variable {s : State} {t : TileId} {id : Nat} {p : Pkt} {m : Msg}

theorem admits_iff {tl : Tile} : tl.admits m = true ↔ (decide (m.kind = 0 ∧ 2 ≤ m.payload.length) = true → tl.inbuf.length < 16) := by
  have hmesh : m.mesh = decide (m.kind = 0 ∧ 2 ≤ m.payload.length) := by simp [Msg.mesh]
  rw [Tile.admits, ← hmesh]
  cases m.mesh <;> simp

theorem exec_messageArrival (hp : s.packet id = some p) (hdst : p.dst = .tile t) (hbody : p.body = .msg m)
    (hfree : s.stuckBehind t p = false) (hon : s.tileOn t = true) (hz : (s.tile t).zeroed = true) :
    exec (.messageArrival id) s = .next (if (s.tile t).admits m then (s.dropPkt id).arrive t p.src m else s) := by
  have e : exec (.messageArrival id) s = execMessageArrival id s := rfl
  rw [e, execMessageArrival, hp]
  simp only [hdst, hbody, hfree, Bool.false_eq_true, if_false, atTile, State.tileReady, hon, hz, Bool.and_self, if_true]

theorem discard_eq (k : Queue) (m : Msg) : k.discard m = { k with
    drop := satAdd k.drop 1
    granted := if m.credited = true ∧ m.handle.extractLsb' 24 8 = k.epoch then
      k.granted - ((4 * (m.payload.length + 1) + 7) / 8 * 8 : Nat) else k.granted } := by
  have hif : (m.credited && decide (hEpoch m.handle = k.epoch)) = true ↔ m.credited = true ∧ m.handle.extractLsb' 24 8 = k.epoch := by
    rw [Bool.and_eq_true, decide_eq_true_iff]
    rfl
  rw [Queue.discard]
  simp only [hif]
  rfl

/-- A message that a check refuses. -/
theorem arrive_discards {src : Party} {r : Resp} (hv : s.verdict t src m = some r) :
    let u := (s.dropPkt id).arrive t src m
    let q := m.handle.extractLsb' 0 4
    OnlyQueue s u t q ∧ (u.tile t).queue q = ((s.tile t).queue q).discard m ∧ (u.tile t).lmem = (s.tile t).lmem ∧
      (u.tile t).inbuf = (s.tile t).inbuf ∧
      u.net = s.net.filter (fun o => o.id ≠ id) ++ [⟨s.nextId, .tile t, src, 1, .resp m.rtag r, [], []⟩] := by
  have hv' : (s.dropPkt id).verdict t src m = some r := hv
  have a := ((QueueStep.dropPkt s t (hQix m.handle) id).modQueue (fun k => k.discard m)).sendPkt (.tile t) src 1 (.resp m.rtag r)
  have harr : (s.dropPkt id).arrive t src m =
      ((s.dropPkt id).modTile t (fun tl => tl.modQueue (hQix m.handle) (fun k => k.discard m))).respond t src m.rtag r := by
    rw [State.arrive_eq, hv'] <;> rfl
  rw [harr]
  refine ⟨a.onlyQueue, a.queue, a.lmem, ?_, a.net⟩
  rw [State.respond, State.tile_sendPkt, State.tile_modTile_self]
  rfl

/-- A message that passes them. -/
theorem arrive_of_good {src : Party} (hv : s.verdict t src m = none) : (s.dropPkt id).arrive t src m =
    if m.credited && (((s.tile t).queue (hQix m.handle)).waiting ≠ [] || !((s.tile t).queue (hQix m.handle)).fits m.ring) then
      (s.dropPkt id).modTile t (fun tl => tl.modQueue (hQix m.handle) (fun k => { k with waiting := k.waiting ++ [(m, src)] }))
    else ((s.dropPkt id).placeMsg t (hQix m.handle) m (msgNeed m t) (covered m.relScope (msgNeed m t))).respond t src m.rtag .accepted := by
  have hv' : (s.dropPkt id).verdict t src m = none := hv
  rw [State.arrive_eq, hv'] <;> rfl

theorem fits_iff (k : Queue) (b : Nat) : k.fits b = true ↔
    (if k.size - k.wr < b then k.size - k.wr else 0) + b ≤ k.size - k.used := by
  rw [Queue.fits, decide_eq_true_iff]
  rfl

theorem exec_waitingMessagePlaced {q : QIx} {src : Party} {rest : List (Msg × Party)}
    (hw : ((s.tile t).queue q).waiting = (m, src) :: rest) (hon : s.tileOn t = true) (hz : (s.tile t).zeroed = true)
    (hfit : ((s.tile t).queue q).fits m.ring = true) :
    exec (.waitingMessagePlaced t q) s = .next (if (s.tile t).admits m then
      ((s.modTile t (fun tl => tl.modQueue q (fun k => { k with waiting := rest }))).placeMsg t q m (msgNeed m t)
        (covered m.relScope (msgNeed m t))).respond t src m.rtag .accepted else s) := by
  have e : exec (.waitingMessagePlaced t q) s = execWaitingMessagePlaced t q s := rfl
  rw [e, execWaitingMessagePlaced]
  dsimp only
  rw [hw]
  dsimp only
  rw [State.tileReady, hon, hz, hfit]
  cases (s.tile t).admits m <;> rfl

end Arrival

/-! ## Responses (R217, R227) -/

theorem tile_freeAfter (s : State) (u : Sender) (tag : Nat) (r : TileId) : (s.freeAfter u tag).tile r = s.tile r := by
  unfold State.freeAfter
  split <;> rfl

theorem func_freeAfter (s : State) (u : Sender) (tag : Nat) (f : FuncNo) : (s.freeAfter u tag).func f = s.func f := by
  unfold State.freeAfter
  split <;> rfl

/-- What a response of tile `v` makes of the sending side (R217, R220). -/
def SendSide.takes (x : SendSide) (e : Sent) (v : TileId) (tag : Nat) (r : Resp) : SendSide :=
  let y := x.answered tag r
  if r = .stale || r = .closed then
    match e.handles.filter (fun h => hTile h = v) with
    | h :: _ => y.discard h
    | [] => y
  else y

theorem sent_discard (x : SendSide) (h : Word) : (x.discard h).sent = x.sent := by
  unfold SendSide.discard
  split <;> rfl

theorem sent_takes (x : SendSide) (e : Sent) (v : TileId) (tag : Nat) (r : Resp) : (x.takes e v tag r).sent = (x.answered tag r).sent := by
  unfold SendSide.takes
  dsimp only
  split
  · split
    · exact sent_discard _ _
    · rfl
  · rfl

/-- A sent message as one more response leaves it. -/
def Sent.after (e : Sent) (r : Resp) : Sent :=
  { e with left := e.left - 1, stale := e.stale || decide (r = .stale), closed := e.closed || decide (r = .closed) }

theorem mem_answered {x : SendSide} {e : Sent} {tag : Nat} (r : Resp) (he : e ∈ x.sent) (htag : e.tag = tag)
    (hone : ∀ z ∈ x.sent, z.left ≠ 0 ∧ (z.tag = tag → z = e)) (z : Sent) :
    z ∈ (x.answered tag r).sent ↔ z ∈ x.sent ∧ z.tag ≠ tag ∨ z = e.after r ∧ 1 < e.left := by
  rw [SendSide.answered, List.mem_filter, List.mem_map]
  constructor
  · rintro ⟨⟨y, hy, rfl⟩, hz⟩
    by_cases hyt : y.tag = tag
    · obtain rfl := (hone y hy).2 hyt
      rw [if_pos hyt] at hz ⊢
      refine .inr ⟨rfl, ?_⟩
      simp only [decide_eq_true_iff] at hz
      omega
    · rw [if_neg hyt]
      exact .inl ⟨hy, hyt⟩
  · rintro (⟨hz, hzt⟩ | ⟨rfl, hlt⟩)
    · exact ⟨⟨z, hz, if_neg hzt⟩, by simpa using (hone z hz).1⟩
    · refine ⟨⟨e, he, if_pos htag⟩, ?_⟩
      change decide (e.left - 1 ≠ 0) = true
      rw [decide_eq_true_iff]
      omega

theorem find_answered (x : SendSide) (tag : Nat) (r : Resp) (hd : Word) : (x.answered tag r).find hd = x.find hd := rfl

/-- What a response leaves of the sending side. -/
def Freed (x y : SendSide) (e : Sent) (v : TileId) (tag : Nat) (r : Resp) : Prop :=
  (∀ z, z ∈ y.sent ↔ z ∈ x.sent ∧ z.tag ≠ tag ∨ z = e.after r ∧ 1 < e.left) ∧
    (∀ hd, (e.handles.filter (fun k => k.extractLsb' 4 12 = v)).head? = some hd → (r = .stale ∨ r = .closed) →
      ∀ i, x.find hd = some i → y.entry i = {} ∧ ∀ j, j ≠ i → y.entry j = x.entry j) ∧
    ((r = .accepted ∨ r = .dropped ∨ ∀ k ∈ e.handles, k.extractLsb' 4 12 ≠ v) → y.cred = x.cred)

theorem freed_takes {x : SendSide} {e : Sent} {tag : Nat} (v : TileId) (r : Resp) (he : e ∈ x.sent) (htag : e.tag = tag)
    (hone : ∀ z ∈ x.sent, z.left ≠ 0 ∧ (z.tag = tag → z = e)) : Freed x (x.takes e v tag r) e v tag r := by
  refine ⟨fun z => ?_, fun hd hhd hr i hi => ?_, fun hsame => ?_⟩
  · rw [sent_takes, mem_answered r he htag hone]
  · have hfil : ∃ l, e.handles.filter (fun h => hTile h = v) = hd :: l := by
      cases hl : e.handles.filter (fun h => hTile h = v) with
      | nil =>
        have : e.handles.filter (fun k => k.extractLsb' 4 12 = v) = [] := hl
        rw [this] at hhd
        exact absurd hhd (by simp)
      | cons a l =>
        have : e.handles.filter (fun k => k.extractLsb' 4 12 = v) = a :: l := hl
        rw [this] at hhd
        exact ⟨l, by rw [Option.some.inj hhd]⟩
    obtain ⟨l, hl⟩ := hfil
    have ht : x.takes e v tag r = (x.answered tag r).modEntry i (fun _ => {}) := by
      rw [SendSide.takes, if_pos (by simpa using hr), hl]
      dsimp only
      rw [SendSide.discard, find_answered, hi]
    rw [ht]
    refine ⟨?_, fun j hj => ?_⟩
    · rw [SendSide.entry_modEntry, if_pos rfl]
    · rw [SendSide.entry_modEntry, if_neg hj]
      rfl
  · rw [SendSide.takes]
    split
    case isTrue hr =>
      have hnone : e.handles.filter (fun h => hTile h = v) = [] := by
        rw [List.filter_eq_nil_iff]
        intro k hk
        simp only [Bool.or_eq_true, decide_eq_true_iff] at hr
        obtain rfl | rfl | hno := hsame
        · simp at hr
        · simp at hr
        · exact fun hd => hno k hk (of_decide_eq_true hd)
      rw [hnone]
      rfl
    case isFalse hr => rfl

section Responses

variable {s : State} {t v : TileId} {id tag : Nat} {p : Pkt} {r : Resp} {e : Sent}

/-- The state when a response has reached the sending side, before its owner is told. -/
def State.responded (s : State) (t v : TileId) (id tag : Nat) (r : Resp) (e : Sent) : State :=
  ((s.dropPkt id).modSend (.tile t) (fun x => x.takes e v tag r)).freeAfter (.tile t) tag

theorem exec_responseArrival (hp : s.packet id = some p) (hbody : p.body = .resp tag r) (hdst : p.dst = .tile t)
    (hsrc : p.src = .tile v) (hon : s.tileOn t = true) (he : e ∈ (s.tile t).send.sent) (htag : e.tag = tag)
    (hone : ∀ z ∈ (s.tile t).send.sent, z.left ≠ 0 ∧ (z.tag = tag → z = e)) :
    exec (.responseArrival id) s = .next ((s.responded t v id tag r e).ownerAnswer (.tile t) e.owner r (e.fresh r)) := by
  have hhead : (((s.dropPkt id).sendSide (.tile t)).sent.filter (fun e => e.tag = tag)).head? = some e := by
    change ((s.tile t).send.sent.filter (fun e => e.tag = tag)).head? = some e
    cases hl : (s.tile t).send.sent.filter (fun e => e.tag = tag) with
    | nil =>
      have := List.filter_eq_nil_iff.1 hl e he
      simp [htag] at this
    | cons a l =>
      have ha : a ∈ (s.tile t).send.sent.filter (fun e => e.tag = tag) := hl ▸ List.mem_cons_self
      obtain ⟨hmem, hat⟩ := List.mem_filter.1 ha
      rw [List.head?_cons, (hone a hmem).2 (of_decide_eq_true hat)]
  have ex : exec (.responseArrival id) s = execResponseArrival id s := rfl
  rw [ex, execResponseArrival, hp]
  simp only [hbody, hsrc, hdst, partySender, atSender, atTile, hon, if_true]
  rw [State.takeResponse, hhead] <;> rfl

theorem tile_responded : (s.responded t v id tag r e).tile t = { s.tile t with send := (s.tile t).send.takes e v tag r } := by
  rw [State.responded, tile_freeAfter, State.modSend, State.tile_modTile_self]
  rfl

theorem func_responded (f : FuncNo) : (s.responded t v id tag r e).func f = s.func f := by
  rw [State.responded, func_freeAfter]
  rfl

theorem ownerAnswer_thread {h : Thr} (first : Bool) (halive : ∀ f, (s.tile t).func = some f → (s.func f).st ≠ .resetting) :
    s.ownerAnswer (.tile t) (.thread h) r first = s.modTile t (fun tl => tl.threadAnswer h r first) := by
  rw [State.ownerAnswer]
  cases hf : (s.tile t).func with
  | none => rfl
  | some f => exact if_neg (halive f hf)

@[simp] theorem send_threadAnswer (tl : Tile) (h : Thr) (r : Resp) (first : Bool) : (tl.threadAnswer h r first).send = tl.send := by
  cases r <;> rfl

/-- What a response makes of the thread that committed the message (R227). -/
def Thread.answered (x : Thread) (r : Resp) (first : Bool) : Thread :=
  match r with
  | .accepted => x
  | .stale => { x with cntStale := satAdd x.cntStale 1, sts := x.sts || (first && x.stex) }
  | .closed => { x with cntClosed := satAdd x.cntClosed 1 }
  | .dropped => { x with cntDropped := satAdd x.cntDropped 1 }

theorem th_threadAnswer (tl : Tile) (h k : Thr) (r : Resp) (first : Bool) :
    (tl.threadAnswer h r first).th k = if k = h then (tl.th h).answered r first else tl.th k := by
  cases r with
  | accepted =>
    rw [Tile.threadAnswer]
    split
    · next hk => rw [hk]; rfl
    · rfl
  | stale | closed | dropped =>
    rw [Tile.threadAnswer, Tile.th_modTh]
    rfl

end Responses

theorem stale_threadAnswer (tl : Tile) (h : Thr) {r : Resp} {e : Sent} : (tl.threadAnswer h r (e.fresh r)).stale =
    if r = .stale ∧ e.stale = false then setBit tl.stale h.toNat true else tl.stale := by
  cases r <;> cases hs : e.stale <;> simp [Tile.threadAnswer, Tile.modTh, Sent.fresh, hs]

theorem closedS_threadAnswer (tl : Tile) (h : Thr) {r : Resp} {e : Sent} : (tl.threadAnswer h r (e.fresh r)).closedS =
    if r = .closed ∧ e.closed = false then setBit tl.closedS h.toNat true else tl.closedS := by
  cases r <;> cases hs : e.closed <;> simp [Tile.threadAnswer, Tile.modTh, Sent.fresh, hs]

/-- The thread's new state as the statement writes it. -/
theorem answered_fresh (x : Thread) (r : Resp) (e : Sent) : x.answered r (e.fresh r) = match r with
    | .accepted => x
    | .stale => { x with cntStale := satAdd x.cntStale 1, sts := x.sts || (!e.stale && x.stex) }
    | .closed => { x with cntClosed := satAdd x.cntClosed 1 }
    | .dropped => { x with cntDropped := satAdd x.cntDropped 1 } := by
  cases r <;> simp [Thread.answered, Sent.fresh]

theorem ownerAnswer_engDone (s : State) (t : TileId) (r : Resp) (first : Bool) : ∃ u, s.ownerAnswer (.tile t) .engDone r first = u ∧
    u.tile t = { s.tile t with eng := { (s.tile t).eng with
      cqerr := if r = .accepted then (s.tile t).eng.cqerr else satAdd (s.tile t).eng.cqerr 1 } } := by
  refine ⟨_, rfl, ?_⟩
  rw [State.ownerAnswer]
  split
  · rfl
  · rw [State.modEng, State.tile_modTile_self]

theorem ownerAnswer_engFault (s : State) (t : TileId) (r : Resp) (first : Bool) : ∃ u, s.ownerAnswer (.tile t) .engFault r first = u ∧
    u.tile t = { s.tile t with eng := { (s.tile t).eng with
      fqerr := if r = .accepted then (s.tile t).eng.fqerr else satAdd (s.tile t).eng.fqerr 1 } } := by
  refine ⟨_, rfl, ?_⟩
  rw [State.ownerAnswer]
  split
  · rfl
  · rw [State.modEng, State.tile_modTile_self]

/-- The first half of O27: a message reaches its queue. -/
theorem messages (s : State) (t : TileId) (id : Nat) (p : Pkt) (m : Msg) (src : Party) (rest : List (Msg × Party)) (q : QIx)
    (hq : q = hQix m.handle) (hon : s.tileOn t = true) (hz : (s.tile t).zeroed = true) (g : RingGood (s.tile t) q m.payload.length) :
    (s.packet id = some p → p.dst = .tile t → p.body = .msg m → s.stuckBehind t p = false →
      ((s.tile t).admits m = false → exec (.messageArrival id) s = .next s) ∧
      ((s.tile t).admits m = true → ∀ r, MsgBad s t p.src m r → ∃ u, exec (.messageArrival id) s = .next u ∧ OnlyQueue s u t q ∧
        (u.tile t).queue q = ((s.tile t).queue q).discard m ∧ (u.tile t).lmem = (s.tile t).lmem ∧
        (u.tile t).inbuf = (s.tile t).inbuf ∧
        u.net = s.net.filter (fun o => o.id ≠ id) ++ [⟨s.nextId, .tile t, p.src, 1, .resp m.rtag r, [], []⟩]) ∧
      ((s.tile t).admits m = true → (∀ r, ¬MsgBad s t p.src m r) →
        (m.credited = false ∨ ((s.tile t).queue q).waiting = [] ∧ ((s.tile t).queue q).fits m.ring = true) → ∃ u,
        exec (.messageArrival id) s = .next u ∧ MsgPlaced s u t q m ((s.tile t).queue q).waiting ∧
        u.net = s.net.filter (fun o => o.id ≠ id) ++ [⟨s.nextId, .tile t, p.src, 1, .resp m.rtag .accepted, [], []⟩]) ∧
      ((s.tile t).admits m = true → (∀ r, ¬MsgBad s t p.src m r) → m.credited = true →
        (((s.tile t).queue q).waiting ≠ [] ∨ ¬((s.tile t).queue q).fits m.ring = true) → ∃ u,
        exec (.messageArrival id) s = .next u ∧ OnlyQueue s u t q ∧
        (u.tile t).queue q = { (s.tile t).queue q with waiting := ((s.tile t).queue q).waiting ++ [(m, p.src)] } ∧
        u.net = s.net.filter (fun o => o.id ≠ id))) ∧
    (((s.tile t).queue q).waiting = (m, src) :: rest → ((s.tile t).queue q).fits m.ring = true →
      ((s.tile t).admits m = false → exec (.waitingMessagePlaced t q) s = .next s) ∧
      ((s.tile t).admits m = true → ∃ u, exec (.waitingMessagePlaced t q) s = .next u ∧ MsgPlaced s u t q m rest ∧
        u.net = s.net ++ [⟨s.nextId, .tile t, src, 1, .resp m.rtag .accepted, [], []⟩])) := by
  subst hq
  have verdict_none (h : ∀ r, ¬MsgBad s t p.src m r) : s.verdict t p.src m = none :=
    Option.eq_none_iff_forall_ne_some.2 fun r hr => h r ((verdict_eq_some_iff _ _ _ _ _).1 hr)
  refine ⟨fun hp hdst hbody hfree => ?_, fun hw hfit => ?_⟩
  · have e := exec_messageArrival hp hdst hbody hfree hon hz
    refine ⟨fun ha => ?_, fun ha r hr => ?_, fun ha hgood hroom => ?_, fun ha hgood hcred hno => ?_⟩
    · rw [e, if_neg (Bool.eq_false_iff.1 ha)]
    · rw [if_pos ha] at e
      exact ⟨_, e, arrive_discards ((verdict_eq_some_iff _ _ _ _ _).2 hr)⟩
    · rw [if_pos ha, arrive_of_good (verdict_none hgood), if_neg (by
        obtain hc | ⟨hw, hf⟩ := hroom
        · simp [hc]
        · simp [hw, hf])] at e
      exact ⟨_, e, (onlyWaiting_dropPkt s t _ id).placed g p.src⟩
    · rw [if_pos ha, arrive_of_good (verdict_none hgood), if_pos (by simpa [hcred] using hno)] at e
      have a := (QueueStep.dropPkt s t (hQix m.handle) id).modQueue (fun k => { k with waiting := k.waiting ++ [(m, p.src)] })
      exact ⟨_, e, a.onlyQueue, a.queue, a.net⟩
  · have e := exec_waitingMessagePlaced hw hon hz hfit
    refine ⟨fun ha => ?_, fun ha => ?_⟩
    · rw [e, if_neg (Bool.eq_false_iff.1 ha)]
    · rw [if_pos ha] at e
      exact ⟨_, e, (onlyWaiting_modTile s t _ rest).placed g src⟩

/-- Settles O27, from the lemmas about messages and about responses. -/
theorem messagesAndResponses : Obligations.MessagesAndResponses := by
  unfold Obligations.MessagesAndResponses
  refine ⟨fun s t id p m src rest => ?_, fun s t v h id tag p r e => ?_⟩
  · intro q tl k n b foreign wrong mixed bad passes sk room need off mesh free ws reply placed hon hz hlo hhi hwr8 hwr hclean
    obtain ⟨harr, hwait⟩ := messages s t id p m src rest q rfl hon hz ⟨hlo, hhi, hwr8, hwr, hclean⟩
    have hadm : (s.tile t).admits m = true ↔ free := admits_iff
    have hfit : ((s.tile t).queue q).fits m.ring = true ↔ room := fits_iff _ _
    have hbad (r : Resp) : MsgBad s t p.src m r ↔ bad r := by
      cases r <;> exact Iff.rfl
    refine ⟨fun hp hdst hbody hfree => ?_, fun hw hroom => ?_⟩
    · obtain ⟨h1, h2, h3, h4⟩ := harr hp hdst hbody hfree
      refine ⟨fun hf => h1 (by simpa using mt hadm.1 hf), fun hf r hr => ?_, fun hf hpass hroom => ?_, fun hf hpass hc hno => ?_⟩
      · obtain ⟨u, e, ho, hqu, hrest⟩ := h2 (hadm.2 hf) r ((hbad r).2 hr)
        rw [discard_eq] at hqu
        exact ⟨u, e, ho, hqu, hrest⟩
      · exact h3 (hadm.2 hf) (fun r hr => hpass r ((hbad r).1 hr)) (hroom.imp_right fun ⟨hw, hr⟩ => ⟨hw, hfit.2 hr⟩)
      · exact h4 (hadm.2 hf) (fun r hr => hpass r ((hbad r).1 hr)) hc (hno.imp_right fun hr h => hr (hfit.1 h))
    · obtain ⟨h1, h2⟩ := hwait hw (hfit.2 hroom)
      exact ⟨fun hf => h1 (by simpa using mt hadm.1 hf), fun hf => h2 (hadm.2 hf)⟩
  · intro tl x alive y after freed hp hbody
    refine ⟨fun hdst hsrc hon he htag hleft hone => ?_, fun hdst => ?_⟩
    · have ex := exec_responseArrival hp hbody hdst hsrc hon he htag hone
      have hfreed := freed_takes v r he htag hone
      refine ⟨fun howner halive => ?_, fun howner => ?_, fun howner => ?_⟩
      · rw [howner, ownerAnswer_thread _ (by
          intro f hf
          rw [func_responded]
          exact halive f (by rwa [tile_responded] at hf))] at ex
        have htile : ((s.responded t v id tag r e).modTile t (fun tl => tl.threadAnswer h r (e.fresh r))).tile t =
            ({ s.tile t with send := (s.tile t).send.takes e v tag r } : Tile).threadAnswer h r (e.fresh r) := by
          rw [State.tile_modTile_self, tile_responded]
        refine ⟨_, ex, ?_, ?_, fun k hk => ?_, ?_, ?_⟩
        · change Freed tl.send (Tile.send _) e v tag r
          rw [htile, send_threadAnswer]
          exact hfreed
        · rw [State.th, htile, th_threadAnswer, if_pos rfl]
          exact answered_fresh x r e
        · rw [State.th, htile, th_threadAnswer, if_neg hk]
          rfl
        · rw [htile, stale_threadAnswer]
        · rw [htile, closedS_threadAnswer]
      · rw [howner] at ex
        obtain ⟨u, hu, htile⟩ := ownerAnswer_engDone (s.responded t v id tag r e) t r (e.fresh r)
        rw [hu] at ex
        rw [tile_responded] at htile
        refine ⟨u, ex, ?_, by rw [htile]⟩
        change Freed tl.send (Tile.send _) e v tag r
        rw [htile]
        exact hfreed
      · rw [howner] at ex
        obtain ⟨u, hu, htile⟩ := ownerAnswer_engFault (s.responded t v id tag r e) t r (e.fresh r)
        rw [hu] at ex
        rw [tile_responded] at htile
        refine ⟨u, ex, ?_, by rw [htile]⟩
        change Freed tl.send (Tile.send _) e v tag r
        rw [htile]
        exact hfreed
    · have ex : exec (.responseArrival id) s = execResponseArrival id s := rfl
      rw [execResponseArrival, hp] at ex
      simp only [hbody, hdst, partySender] at ex
      refine ⟨_, ex, ?_⟩
      cases r <;> rfl

end Sys2Proof.Machine
end

section
/-! COLDRST_N and the rails (R538, R539, R541, R546). From them the obligation O51. -/
namespace Sys2Proof.Machine

open Sys2Proof.Safety

theorem State.lost_eq (s : State) : s.lost = { State.reset with
    pending := s.pending, free := s.free, cxl := s.cxl, side := { dynAddr := s.side.dynAddr }
    ld := { flash0 := s.ld.flash0, flash1 := s.ld.flash1, present0 := s.ld.present0, present1 := s.ld.present1 }
    lands := { s.lands with svcflt := false } } := rfl

/-- THERMTRIP_N after the lands have settled, and nothing else of them (R541). -/
theorem Lands.settle_eq (x : Lands) : x.settle = { x with thermtrip := x.thermtrip && !(!x.coldrst && x.coresOff) } := by
  unfold Lands.settle
  cases hc : !x.coldrst && x.coresOff <;> simp

theorem Lands.settle_of_high {x : Lands} (h : x.coldrst = true) : x.settle = x := by
  rw [Lands.settle, h]
  rfl

/-- A rail of the part fails while COLDRST_N is high: the part is held as in reset (R541). -/
theorem State.railFault_of_part {s : State} {r : BitVec 5} (hc : s.lands.coldrst = true) (hr : r.toNat < 23) : s.railFault r =
    { State.reset with
      pending := s.pending, free := s.free, cxl := s.cxl, side := { dynAddr := s.side.dynAddr }
      ld := { flash0 := s.ld.flash0, flash1 := s.ld.flash1, present0 := s.ld.present0, present1 := s.ld.present1 }
      lands := { s.lands with railBad := setBit s.lands.railBad r.toNat true, railHold := true, svcflt := false } } := by
  have hm : (s.lands.coldrst && monitored r) = true := by rw [hc, monitored, decide_eq_true hr]; rfl
  simp only [State.railFault, hm, if_true, State.lost_eq]

/-- Otherwise the rail is only recorded. -/
theorem State.railFault_of_not_part {s : State} {r : BitVec 5} (h : ¬(s.lands.coldrst = true ∧ r.toNat < 23)) : s.railFault r =
    { s with lands := { s.lands with railBad := setBit s.lands.railBad r.toNat true } } := by
  have hm : (s.lands.coldrst && monitored r) = false := by simpa [monitored, imp_iff_not_or] using h
  simp only [State.railFault, hm, Bool.false_eq_true, if_false]

theorem exec_railFault {s : State} {r : BitVec 5} (hr : r.toNat ≤ 25) : exec (.railFault r) s = .next (s.railFault r) := by
  change execRailFault r s = _
  rw [execRailFault, if_neg (Nat.not_lt.2 hr)]

theorem exec_railOff {s : State} {r : BitVec 5} (hr : r.toNat ≤ 25) : exec (.railOff r) s = .next { s.railFault r with
    lands := { (s.railFault r).lands with railOff := setBit (s.railFault r).lands.railOff r.toNat true }.settle
    side := if r = 25 then { (s.railFault r).side with dynAddr := none, reply := [], head := none } else (s.railFault r).side } := by
  change execRailOff r s = _
  rw [execRailOff, if_neg (Nat.not_lt.2 hr)]

/-- Settles O51, from the two ways that a rail can fail and the settling of the lands. -/
theorem resetAndRails : Obligations.ResetAndRails := by
  unfold Obligations.ResetAndRails
  intro s r l lost cores bad off part pulled
  refine ⟨?_, fun hpart => ?_, fun hpart hr => ?_⟩
  · change execColdrstAssert s = _
    simp only [execColdrstAssert, State.lost_eq, Lands.settle_eq] <;> rfl
  · obtain ⟨hc, hr⟩ := hpart
    have h25 : ¬r = 25 := fun h => absurd hr (by rw [h]; decide)
    rw [exec_railFault (by omega), exec_railOff (by omega), State.railFault_of_part hc hr, Lands.settle_of_high, if_neg h25]
    · exact ⟨rfl, rfl⟩
    · exact hc
  · rw [exec_railFault hr, exec_railOff hr, State.railFault_of_not_part hpart, Lands.settle_eq]
    exact ⟨rfl, rfl⟩

end Sys2Proof.Machine
end

section
/-! Droop, temperature and scrub (R286, R495, R496, R499–R501). From them the obligation O50. -/
namespace Sys2Proof.Machine

open Sys2Proof.Safety

/-! ## Changes of every Cob, or of the first entries of a map -/

theorem State.foldl_modCob_eq (s : State) (g : Nat → Cob → Cob) (l : List Nat) :
    ∃ d, l.foldl (fun a i => a.modCob (BitVec.ofNat 4 i) (g i)) s = { s with cobs := d } := by
  induction l generalizing s with
  | nil => exact ⟨s.cobs, rfl⟩
  | cons i l ih =>
    obtain ⟨d, e⟩ := ih (s.modCob (BitVec.ofNat 4 i) (g i))
    exact ⟨d, by rw [List.foldl_cons, e]; rfl⟩

theorem State.cob_foldl_modCob (s : State) (g : Nat → Cob → Cob) (k : CobNo) {n : Nat} (hn : n ≤ 16) :
    ((List.range n).foldl (fun a i => a.modCob (BitVec.ofNat 4 i) (g i)) s).cob k =
      if k.toNat < n then g k.toNat (s.cob k) else s.cob k := by
  induction n with
  | zero => simp
  | succ n ih =>
    have hk : k = BitVec.ofNat 4 n ↔ k.toNat = n := by
      rw [← BitVec.toNat_inj, BitVec.toNat_ofNat, Nat.mod_eq_of_lt (by omega)]
    rw [List.range_succ, List.foldl_append, List.foldl_cons, List.foldl_nil, State.cob_modCob]
    by_cases h : k.toNat = n
    · rw [if_pos (hk.2 h), ← hk.2 h, ih (by omega), if_neg (by omega), if_pos (by omega), h]
    · rw [if_neg (fun e => h (hk.1 e)), ih (by omega)]
      by_cases hlt : k.toNat < n
      · rw [if_pos hlt, if_pos (by omega)]
      · rw [if_neg hlt, if_neg (by omega)]

theorem SMap.get_foldl_modify_range {α : Type} [DecidableEq α] (d : α) (m : SMap α) (g : Nat → α → α) (k n : Nat) :
    SMap.get d ((List.range n).foldl (fun a i => SMap.modify d a i (g i)) m) k = if k < n then g k (SMap.get d m k) else SMap.get d m k := by
  induction n with
  | zero => simp
  | succ n ih =>
    rw [List.range_succ, List.foldl_append, List.foldl_cons, List.foldl_nil, SMap.get_modify]
    by_cases h : k = n
    · subst h
      rw [if_pos rfl, ih, if_neg (by omega), if_pos (by omega)]
    · rw [if_neg h, ih]
      by_cases hlt : k < n
      · rw [if_pos hlt, if_pos (by omega)]
      · rw [if_neg hlt, if_neg (by omega)]

/-! ## Droop (R495, R496) -/

/-- A change of one Cob. -/
theorem modCob_only {i : Instr} {s : State} {c : CobNo} {f : Cob → Cob} {y : Cob} (e : exec i s = .next (s.modCob c f))
    (hy : f (s.cob c) = y) : ∃ u, exec i s = .next u ∧ u = { s with cobs := u.cobs } ∧ u.cob c = y ∧ ∀ j, j ≠ c → u.cob j = s.cob j :=
  ⟨_, e, rfl, by rw [State.cob_modCob_self, hy], fun j hj => by rw [State.cob_modCob, if_neg hj]⟩

theorem senses_of_on {s : State} {c : CobNo} (h1 : s.lands.coldrst = true) (h2 : s.lands.railHold = false)
    (hon : (s.cob c).memif = .on) : s.senses c = true := by simp [State.senses, State.alive, h1, h2, hon]

/-! ## Temperature (R499–R501) -/

theorem get_readTemps (m : SMap Temp) (n : Nat) (l : List Byte) (i : Nat) : SMap.get {} (readTemps m n l) i =
    if i < n ∧ i < l.length then (SMap.get {} m i).read (l.getD i 0) else SMap.get {} m i := by
  rw [readTemps, SMap.get_foldl_modify_range]
  simp only [Nat.lt_min]
  rfl

theorem tripHot_iff (p : Pw) : p.tripHot = true ↔ (∃ i, i < 20 ∧ 115 ≤ (SMap.get {} p.tdie i).cur.toNat) ∨
    ∃ i, i < 32 ∧ 105 ≤ (SMap.get {} p.tstk i).cur.toNat := by
  simp [Pw.tripHot, List.any_eq_true]

theorem State.cob_congr {a b : State} (h : a.cobs = b.cobs) (k : CobNo) : a.cob k = b.cob k := by rw [State.cob, h, State.cob]

theorem Cob.stepUp_eq (x : Cob) : x.stepUp = { x with droop := if x.droop = 0 then 0 else x.droop - 1 } := by
  unfold Cob.stepUp
  split
  · next h =>
    cases x
    simp_all
  · rfl

/-- The trip (R501, R541). -/
theorem trip_eq (s : State) : s.trip = { s with cobs := s.trip.cobs, pw := { s.pw with trip := true }, lands := { s.lands with thermtrip := true } } ∧
    ∀ k, s.trip.cob k = { s.cob k with therm := 3 } := by
  obtain ⟨d, e⟩ := s.foldl_modCob_eq (fun _ x => { x with therm := 3 }) (List.range 16)
  refine ⟨?_, fun k => ?_⟩
  · rw [State.trip, e]
  · have hk := k.isLt
    have h := s.cob_foldl_modCob (fun _ x => { x with therm := 3 }) k (Nat.le_refl 16)
    rw [if_pos hk] at h
    exact (State.cob_congr (by rw [State.trip]) k).trans h

/-- A period of 1 ms: what becomes of the thermal steps (R500). -/
def State.thermPeriod (s : State) : State :=
  (List.range 16).foldl (fun a i => a.modCob (BitVec.ofNat 4 i) (fun x => { x with therm := s.thermStep i x.therm })) s

theorem thermPeriod_eq (s : State) : (∃ d, s.thermPeriod = { s with cobs := d }) ∧
    ∀ k, s.thermPeriod.cob k = { s.cob k with therm := s.thermStep k.toNat (s.cob k).therm } := by
  refine ⟨s.foldl_modCob_eq _ _, fun k => ?_⟩
  have hk := k.isLt
  have h := s.cob_foldl_modCob (fun i x => { x with therm := s.thermStep i x.therm }) k (Nat.le_refl 16)
  rw [if_pos hk] at h
  exact h

/-- Settles O50, from the Cobs' changes and the trip. -/
theorem clocksAndHeat : Obligations.ClocksAndHeat := by
  unfold Obligations.ClocksAndHeat
  intro s c dies stk pa x alive only down die stack hot tripped shown thot heats cools slice
  have hlive (ha : alive) : s.alive = true := by simp [State.alive, ha.1, ha.2]
  refine ⟨fun ha hon => ⟨?_, fun hs => ?_, ?_⟩, fun ha => ?_, fun ha hph => ?_, fun ha hpa hsl => ?_⟩
  · have hs := senses_of_on ha.1 ha.2 hon
    refine modCob_only (f := fun x => { x.stepDown with sagging := true }) ?_ rfl
    change execSag c s = _
    rw [execSag, if_pos hs]
  · have hs' := senses_of_on ha.1 ha.2 hon
    refine modCob_only (f := Cob.stepDown) ?_ rfl
    change execSagPersist c s = _
    rw [execSagPersist, if_pos (by rw [hs', hs]; rfl)]
  · have hs := senses_of_on ha.1 ha.2 hon
    refine modCob_only (f := fun x => { x.stepUp with sagging := false }) ?_ ?_
    · change execCleanStepUp c s = _
      rw [execCleanStepUp, if_pos hs]
    · rw [Cob.stepUp_eq]
  · have e : exec (.temperatureRead dies stk) s = execTemperatureRead dies stk s := rfl
    rw [execTemperatureRead, if_pos (hlive ha), State.checkTrip] at e
    refine ⟨_, e, ?_⟩
    split
    case isTrue hhot =>
      obtain ⟨ht, hcob⟩ := trip_eq { s with pw := { s.pw with tdie := readTemps s.pw.tdie 20 dies, tstk := readTemps s.pw.tstk 32 stk } }
      have hpw := congrArg State.pw ht
      refine ⟨by rw [ht], fun i => ?_, fun i => ?_, fun _ => ⟨by rw [hpw], by rw [ht], hcob⟩, fun hno => absurd ?_ hno⟩
      · rw [hpw, get_readTemps]
        rfl
      · rw [hpw, get_readTemps]
        rfl
      · have := (tripHot_iff _).1 hhot
        simp only [hot, die, stack, hpw]
        exact this
    case isFalse hcool =>
      refine ⟨rfl, fun i => get_readTemps _ _ _ _, fun i => get_readTemps _ _ _ _, fun hh => absurd ((tripHot_iff _).2 hh) hcool,
        fun _ => ⟨rfl, rfl, rfl⟩⟩
  · have e : exec .thermalPeriod s = execThermalPeriod s := rfl
    rw [execThermalPeriod, if_pos (by simp [hlive ha, hph])] at e
    obtain ⟨⟨d, hd⟩, hcob⟩ := thermPeriod_eq s
    have hpw : s.thermPeriod.pw = s.pw := by rw [hd]
    have hlands : s.thermPeriod.lands = s.lands := by rw [hd]
    change exec .thermalPeriod s = .next s.thermPeriod.checkTrip at e
    rw [State.checkTrip, hpw] at e
    refine ⟨_, e, fun hh => ?_, fun hno => ?_⟩
    · rw [if_pos ((tripHot_iff _).2 hh)]
      obtain ⟨ht, htc⟩ := trip_eq s.thermPeriod
      refine ⟨by rw [ht], by rw [ht, ← hlands], fun k => ?_⟩
      rw [htc, hcob]
    · rw [if_neg (fun h => hno ((tripHot_iff _).1 h)), hcob]
      refine ⟨by rw [hd], fun hh => ?_, fun hc hh => ?_, fun hc hh => ?_⟩
      · rw [State.thermStep]
        dsimp only
        rw [if_pos (by simpa [or_assoc, heats, die, stack, thot] using hh)]
      · rw [State.thermStep]
        dsimp only
        rw [if_neg (by simpa [or_assoc, heats, die, stack, thot] using hh), if_pos (by simpa [and_assoc, cools, die, stack, thot] using hc)]
      · rw [State.thermStep]
        dsimp only
        rw [if_neg (by simpa [or_assoc, heats, die, stack, thot] using hh), if_neg (by simpa [and_assoc, cools, die, stack, thot] using hc)]
  · have hhb : ¬hbmEnd ≤ pa.toNat := Nat.not_le.2 hpa
    have hgo : ¬(!s.alive || decide (hbmEnd ≤ pa.toNat) || !(s.sliceOn pa.toNat)) = true := by simp [hlive ha, hhb, hsl]
    have ec : exec (.stackScrub pa .corrected) s = .next (if _ then s else s) := rfl
    rw [ite_self] at ec
    refine ⟨_, congrArg Host.Outcome.next (if_neg hgo), rfl, fun k => ?_, ec⟩
    change SMap.get false (SMap.set false s.hbmBad slice true) k = _
    exact SMap.get_set false _ _ _ _

end Sys2Proof.Machine
end

section
/-! Tamore Link output: what a packet that leaves puts on its port, and what only grows there (R433, R434, R436, R437). -/
namespace Sys2Proof.Machine

open Sys2Proof.Safety

/-! ## The bytes of a packet (R436) -/

/-- The bytes of a packet without the padding. -/
def TxPkt.plain (k : TxPkt) (dev : BitVec 16) : List Byte :=
  [k.type, k.func.setWidth 8] ++ byteList (BitVec.ofNat 16 k.len) 2 ++ byteList dev 2 ++ byteList k.dst 2 ++
    byteList k.tag 2 ++ [k.status, k.attr] ++ byteList k.addr 8 ++ List.replicate 4 0 ++ k.data

theorem length_plain (k : TxPkt) (dev : BitVec 16) : (k.plain dev).length = 24 + k.data.length := by
  simp [TxPkt.plain]
  omega

theorem leBytes_header (ty : Byte) (f : FuncNo) (n : Nat) :
    leBytes 4 (ty.toNat + 256 * f.toNat + 65536 * n) = [ty, f.setWidth 8] ++ byteList (BitVec.ofNat 16 n) 2 := by
  have h1 := ty.isLt
  have h2 := f.isLt
  rw [leBytes_eq]
  simp only [List.range, List.range.loop, List.map_cons, List.map_nil, byteList, List.cons_append, List.nil_append,
    List.cons.injEq, and_true]
  refine ⟨?_, ?_, ?_, ?_⟩ <;> apply BitVec.eq_of_toNat_eq <;>
    simp only [BitVec.toNat_ofNat, BitVec.toNat_setWidth, BitVec.extractLsb'_toNat, Nat.shiftRight_eq_div_pow] <;> omega

theorem bytes_eq_plain (k : TxPkt) (dev : BitVec 16) :
    k.bytes dev = k.plain dev ++ List.replicate ((8 - k.data.length % 8) % 8) 0 := by
  rw [TxPkt.bytes, leBytes_header, TxPkt.plain]
  simp only [bytesOf_eq_byteList]
  rfl

theorem length_bytes_pkt (k : TxPkt) (dev : BitVec 16) :
    (k.bytes dev).length = 24 + k.data.length + (8 - k.data.length % 8) % 8 := by
  rw [bytes_eq_plain, List.length_append, length_plain, List.length_replicate]

/-! ## Frames that begin (R434) -/

/-- Port `y` has begun every frame that `x` has, and more. -/
def Port.Grows (x y : Port) : Prop := x.wire <:+ y.wire

theorem Port.Grows.refl (x : Port) : x.Grows x := List.suffix_refl _

theorem Port.Grows.trans {x y z : Port} (h : x.Grows y) (k : y.Grows z) : x.Grows z := List.IsSuffix.trans h k

theorem Port.begin_grows (x : Port) (k : BitVec 2) (b : List Byte) : x.Grows (x.begin k b) := by
  rw [Port.begin]
  split
  · exact List.suffix_refl _
  · exact List.suffix_cons _ _

theorem Port.frames_grows (n : Nat) : ∀ (x : Port) (b : List Byte), x.Grows (x.frames n b) := by
  induction n with
  | zero => exact fun x _ => .refl x
  | succ n ih =>
    intro x b
    rw [Port.frames]
    split
    · exact .refl x
    · exact (x.begin_grows _ _).trans (ih _ _)

theorem Port.packet_grows (x : Port) (vc : Nat) (b : List Byte) : x.Grows (x.packet vc b) := by
  rw [Port.packet]
  split
  · have hsame (y : Port) (hy : y.wire = x.wire) : x.Grows (y.frames 18 b) := by
      rw [Port.Grows, ← hy]
      exact Port.frames_grows 18 y b
    exact hsame _ rfl
  · exact List.suffix_refl _

theorem Port.begin_of_room {x : Port} (h : x.buf.length < 2048) (k : BitVec 2) (b : List Byte) :
    ∃ fr : TxFrame, fr.kind = k ∧ fr.payload = b ∧ (x.begin k b).wire = fr :: x.wire ∧
      (x.begin k b).buf.length = x.buf.length + 1 := by
  rw [Port.begin, if_neg (by rw [replayFrames]; omega)]
  exact ⟨_, rfl, rfl, rfl, by simp⟩

/-- Data frames whose payloads hold the bytes `b` in order. -/
def Carries (new : List TxFrame) (b : List Byte) : Prop :=
  (∀ fr ∈ new, fr.kind = 0) ∧ new.length = (b.length + 239) / 240 ∧ b <+: new.flatMap (fun fr => fr.payload)

theorem Port.frames_of_room (n : Nat) : ∀ (x : Port) (b : List Byte), x.buf.length + n ≤ 2048 → b.length ≤ 240 * n →
    ∃ new, (x.frames n b).wire = new.reverse ++ x.wire ∧ Carries new b := by
  induction n with
  | zero =>
    intro x b _ hb
    obtain rfl : b = [] := List.length_eq_zero_iff.1 (by omega)
    exact ⟨[], rfl, by simp [Carries]⟩
  | succ n ih =>
    intro x b hx hb
    rw [Port.frames]
    split
    case isTrue he => exact ⟨[], rfl, by simp [Carries, he]⟩
    case isFalse he =>
      have hpos : 0 < b.length := List.length_pos_of_ne_nil he
      obtain ⟨fr, hk, hp, hw, hl⟩ := Port.begin_of_room (x := x) (by omega) 0 (framePad (b.take 240))
      obtain ⟨new, hnew, hkind, hlen, hpre⟩ := ih (x.begin 0 (framePad (b.take 240))) (b.drop 240) (by omega) (by simp; omega)
      refine ⟨fr :: new, by rw [hnew, hw]; simp, ?_, ?_, ?_⟩
      · simpa [hk] using hkind
      · simp only [List.length_cons, hlen, List.length_drop]
        omega
      · rw [List.flatMap_cons, hp, framePad]
        by_cases hlong : b.length ≤ 240
        · rw [List.take_of_length_le hlong, List.append_assoc]
          exact List.prefix_append _ _
        · rw [List.length_take, min_eq_left (by omega), Nat.sub_self, List.replicate_zero, List.append_nil]
          calc b = b.take 240 ++ b.drop 240 := (List.take_append_drop _ _).symm
            _ <+: _ := (List.prefix_append_right_inj _).2 hpre

theorem Port.packet_of_room {x : Port} {vc : Nat} {b : List Byte} (hq : SMap.get [] x.vcq vc = [])
    (hu : SMap.get 0 x.used vc + pktUnits b ≤ 512) (hbuf : x.buf.length ≤ 2000) (hb : b.length ≤ 4320) :
    ∃ new, (x.packet vc b).wire = new.reverse ++ x.wire ∧ Carries new b := by
  rw [Port.packet, hq, if_pos (by simp [vcUnits, hu])]
  exact Port.frames_of_room 18 { x with used := _ } b (show x.buf.length + 18 ≤ 2048 by omega) (by omega)

/-! ## A packet leaves (R436, R437) -/

/-- The ports keep what they have begun. -/
def PortsGrow (s u : State) : Prop := ∀ q, (s.port q).Grows (u.port q)

theorem PortsGrow.refl (s : State) : PortsGrow s s := fun _ => .refl _

theorem PortsGrow.trans {s u v : State} (h : PortsGrow s u) (k : PortsGrow u v) : PortsGrow s v := fun q => (h q).trans (k q)

theorem PortsGrow.modPort (s : State) (p : PortNo) {g : Port → Port} (hg : ∀ x : Port, x.Grows (g x)) : PortsGrow s (s.modPort p g) := by
  intro q
  rw [State.port_modPort]
  split
  case isTrue h => exact h ▸ hg _
  case isFalse => exact .refl _

theorem PortsGrow.modFunc (s : State) (f : FuncNo) (g : Func → Func) : PortsGrow s (s.modFunc f g) := fun _ => .refl _

theorem sendOn_grows (s : State) (p : PortNo) (k : TxPkt) : PortsGrow s (s.sendOn p k) :=
  .modPort s p (fun x => x.packet_grows _ _)

theorem ask_grows (s : State) (p : PortNo) (k : TxPkt) (w : OutFor) : PortsGrow s (s.ask p k w) :=
  (sendOn_grows s p _).trans (.modPort _ p (fun _ => List.suffix_refl _))

theorem ask_eq (s : State) (p : PortNo) (k : TxPkt) (w : OutFor) : ∃ d, s.ask p k w = { s with ports := d } := ⟨_, rfl⟩

theorem leaves_mono {s u v : State} {q : PortNo} {k : TxPkt} (h : Leaves s u q k) (g : PortsGrow u v) : Leaves s v q k := by
  obtain ⟨early, new, late, hw, hrest⟩ := h
  obtain ⟨more, hm⟩ := g q
  exact ⟨early, new, more ++ late, by rw [← hm, hw]; simp, hrest⟩

theorem leaves_sendOn {s : State} {q : PortNo} {k : TxPkt} {c units : Nat} (hr : PortRoom s q c units)
    (hc : pktVc k.type.toNat = c) (hu : pktUnits (k.bytes s.devid) ≤ units) (hlen : k.data.length ≤ 4000) :
    Leaves s (s.sendOn q k) q k := by
  obtain ⟨hq, hused, hbuf⟩ := hr
  obtain ⟨new, hw, hkind, hn, hpre⟩ := Port.packet_of_room (x := s.port q) (vc := c) (b := k.bytes s.devid) hq (by omega) hbuf
    (by rw [length_bytes_pkt]; omega)
  refine ⟨[], new, [], ?_, hkind, ?_, ?_⟩
  · rw [State.sendOn, State.port_modPort_self, hc, hw]
    simp
  · rw [hn, length_bytes_pkt]
    change _ = ((k.plain s.devid).length + 239) / 240
    rw [length_plain]
    omega
  · change List.take (k.plain s.devid).length _ = k.plain s.devid
    rw [bytes_eq_plain] at hpre
    exact (List.prefix_iff_eq_take.1 ((List.prefix_append _ _).trans hpre)).symm

theorem leaves_ask {s : State} {q : PortNo} {k : TxPkt} {w : OutFor} {c units : Nat} (hr : PortRoom s q c units)
    (hc : pktVc k.type.toNat = c) (hu : pktUnits (k.bytes s.devid) ≤ units) (hlen : k.data.length ≤ 4000) :
    Leaves s (s.ask q k w) q { k with tag := (s.port q).freeTag } := by
  refine leaves_mono (leaves_sendOn (k := { k with tag := (s.port q).freeTag }) hr hc ?_ hlen)
    (.modPort _ q (fun _ => List.suffix_refl _))
  rw [pktUnits, length_bytes_pkt] at hu ⊢
  exact hu

/-! ## Reading of commands (R442) -/

theorem fetch_spec (s : State) (f : FuncNo) : (∃ d, s.fetch f = { s with ports := d }) ∧ PortsGrow s (s.fetch f) := by
  unfold State.fetch
  dsimp only
  split
  · exact ⟨⟨s.ports, rfl⟩, .refl s⟩
  · split
    · exact ⟨⟨s.ports, rfl⟩, .refl s⟩
    · exact ⟨ask_eq _ _ _ _, ask_grows _ _ _ _⟩

theorem fetch_eq (s : State) (f : FuncNo) : ∃ d, s.fetch f = { s with ports := d } := (fetch_spec s f).1

@[simp] theorem func_fetch (s : State) (f g : FuncNo) : (s.fetch f).func g = s.func g := by
  obtain ⟨d, e⟩ := fetch_eq s f
  rw [e]
  rfl

@[simp] theorem tiles_fetch (s : State) (f : FuncNo) : (s.fetch f).tiles = s.tiles := by
  obtain ⟨d, e⟩ := fetch_eq s f
  rw [e]

end Sys2Proof.Machine
end

section
/-! Writes of the function blocks, and posts, completion entries and ring enables (R442–R446, R453–R457). From them the
obligation O41. -/
namespace Sys2Proof.Machine

open Sys2Proof.Safety

/-! ## The function blocks (R453, R454) -/

theorem csrBlk_paFn (f : FuncNo) {o : Nat} (ho : o < 0x1000) : csrBlk (paFn f o) = some (.fn f o) := by
  have hf := f.isLt
  have hn : BitVec.ofNat 5 ((paFn f o - 0x3F0000000000 - 0x600000000) / 0x1000) = f := by
    rw [show (paFn f o - 0x3F0000000000 - 0x600000000) / 0x1000 = f.toNat by unfold paFn; omega, BitVec.ofNat_toNat,
      BitVec.setWidth_eq]
  have hm : (paFn f o - 0x3F0000000000) % 0x1000 = o := by unfold paFn; omega
  have hlo : ¬paFn f o < 0x3F0000000000 := by unfold paFn; omega
  have h0 : ¬paFn f o - 0x3F0000000000 < 0x500010000 := by unfold paFn; omega
  have h1 : 0x600000000 ≤ paFn f o - 0x3F0000000000 := by unfold paFn; omega
  have h2 : paFn f o - 0x3F0000000000 < 0x600020000 := by unfold paFn; omega
  have hge (n : Nat) (hn : n ≤ 0x500010000) : ¬paFn f o - 0x3F0000000000 < n := by omega
  simp only [csrBlk, hn, hm, hlo, h1, h2, hge 0x40000000, hge 0x110000000, hge 0x210000000, hge 0x300100000, hge 0x400020000,
    hge 0x400140000, hge 0x500010000, Nat.reduceLeDiff, decide_true, decide_false, Bool.and_false, Bool.and_self,
    Bool.false_eq_true, if_true, if_false]

theorem touchHalf_paFn (s : State) (f : FuncNo) {o : Nat} (ho : o < 0x1000) : s.touchHalf (paFn f o) = s := by
  have hf := f.isLt
  have hlo : ¬paFn f o < 0x3F0000000000 := by unfold paFn; omega
  have hge (n : Nat) (hn : n ≤ 0x500010000) : ¬paFn f o - 0x3F0000000000 < n := by unfold paFn; omega
  rw [State.touchHalf, csrTile]
  simp only [hlo, hge 0x40000000, hge 0x110000000, hge 0x210000000, Nat.reduceLeDiff, decide_false, Bool.and_false,
    Bool.false_eq_true, if_false]

section FnWrites

variable {s : State} {src : Src} {f : FuncNo} {o acc : Nat} {v : DWord}

theorem doWrite_fn (hr : fnReg o = some acc) : s.doWrite src (.fn f o) acc v none =
    match s.fnWrite f o v with
    | some u => u
    | none => s.refusedPost src f := by
  simp only [State.doWrite, State.sizedWrite, Blk.width, State.blkWrite, hr, if_true]
  rfl

/-- A write of a function block that its source may make takes effect at once: the block lies in no switched domain. -/
theorem regWrite_fn (ha : s.alive = true) (ho : o < 0x1000) (hm : s.srcMay src (.fn f o) (some v) = true)
    (hr : fnReg o = some acc) : s.regWrite src (paFn f o) acc v none =
      match s.fnWrite f o v with
      | some u => u
      | none => s.refusedPost src f := by
  rw [regWrite_of_ready ha (csrBlk_paFn f ho) hm rfl, touchHalf_paFn s f ho, doWrite_fn hr]

end FnWrites

/-- A source that is no thread below M writes every function block. -/
theorem srcMay_fn_of_high {s : State} {src : Src} {f : FuncNo} {o : Nat} {v : DWord} (h : match src with
    | .thread t h => (s.th t h).st.pl = 3
    | _ => True) : s.srcMay src (.fn f o) (some v) = true := by
  cases src with
  | thread t k => simp [State.srcMay, State.csrPerm, show (s.th t k).st.pl = 3 from h]
  | _ => rfl

/-- FN_POST takes also the writes of the function's own threads at S (R454). -/
theorem srcMay_post {s : State} {src : Src} {f : FuncNo} {v : DWord} (h : match src with
    | .thread t h => (s.th t h).st.pl = 3 ∨ (s.th t h).st.pl = 2 ∧ (s.tile t).func = some f
    | _ => True) : s.srcMay src (.fn f 0x28) (some v) = true := by
  cases src with
  | thread t k =>
    obtain h | ⟨h, hf⟩ := (show _ ∨ _ from h)
    · simp [State.srcMay, State.csrPerm, h]
    · simp [State.srcMay, State.csrPerm, h, State.superMay, hf]
  | _ => rfl

/-! ## Completion entries (R442, R443) -/

theorem Comp.bytes_eq (c : Comp) (ph : Bool) : c.bytes ph =
    byteList (c.result ++ (0#8) ++ c.op ++ (0#7) ++ BitVec.ofBool ph ++ c.status ++ c.cid) 16 := by
  simp only [Comp.bytes, bytesOf_eq_byteList, byteList, List.range, List.range.loop, List.map_cons, List.map_nil,
    List.cons_append, List.nil_append, List.cons.injEq, and_true, b2v]
  refine ⟨?_, ?_, ?_, ?_, ?_, ?_, ?_, ?_, ?_, ?_, ?_, ?_, ?_, ?_, ?_, ?_⟩ <;> ext j hj <;>
    simp <;> grind

theorem length_compBytes (c : Comp) (ph : Bool) : (c.bytes ph).length = 16 := by rw [Comp.bytes_eq, length_byteList]

theorem full_iff (x : Func) : x.full = true ↔
    (x.qtail.toNat % ringEntries x.cqb + 1) % ringEntries x.cqb = x.qhead.toNat % ringEntries x.cqb := by
  rw [Func.full, decide_eq_true_eq, Nat.mod_add_mod]

/-- The packet of the completion entry that is written next. -/
def entryPkt (s : State) (f : FuncNo) (c : Comp) (p : PortNo) : TxPkt :=
  let x := s.func f
  { type := 0x10, func := f, dst := (s.port p).peer, tag := 0, status := 0, attr := 0, addr := ringHost x.cqb + BitVec.ofNat 64 (16 * (x.qtail.toNat % ringEntries x.cqb)), data := c.bytes x.phase, len := 16 }

theorem leaves_entryPkt {s : State} {f : FuncNo} {c : Comp} {p : PortNo} {w : OutFor} (hroom : PortRoom s p 1 1) :
    Leaves s (s.ask p (entryPkt s f c p) w) p { entryPkt s f c p with tag := (s.port p).freeTag } := by
  have hlen : (entryPkt s f c p).data.length = 16 := length_compBytes _ _
  refine leaves_ask hroom (show pktVc 0x10 = 1 from rfl) ?_ (by omega)
  rw [pktUnits, length_bytes_pkt, hlen]
  decide

/-- The first completion that waits leaves, and the completion ring takes it (R442, R444). -/
theorem writeEntry_eq {s : State} {f : FuncNo} {c : Comp} {rest : List Comp} {p : PortNo} {n q : Nat}
    (hen : bit (s.func f).cqb 5 = true) (hfull : (s.func f).full = false) (hc : (s.func f).comps = c :: rest)
    (hp : s.hostPort = some p) (hn : ringEntries (s.func f).cqb = n) (hq : ((s.func f).qtail.toNat % n + 1) % n = q) :
    s.writeEntry f = ((s.ask p (entryPkt s f c p) (.compWrite f)).modFunc f (fun _ =>
      { s.func f with comps := rest, qtail := BitVec.ofNat 16 q, phase := if q = 0 then !(s.func f).phase else (s.func f).phase })).fetch f := by
  have hstop : ¬(!(bit (s.func f).cqb 5) || (s.func f).full) = true := by simp [hen, hfull]
  have hnext : (s.func f).nextEntry = some (c, { s.func f with comps := rest }) := by rw [Func.nextEntry, hc]
  subst hn hq
  rw [State.writeEntry]
  dsimp only
  rw [if_neg hstop, hnext, hp]
  rfl

/-! ## Posts and ring enables (R446, R456) -/

theorem postEntry_of_room {s : State} {f : FuncNo} {w : DWord}
    (h : ((s.func f).comps.filter (fun k => k.post)).length < 16 ∨ bit (s.func f).cqb 5 = true ∧ (s.func f).full = false) :
    s.postEntry f w = some (s.modFunc f (fun x => { x with comps := x.comps ++
      [⟨w.extractLsb' 0 32, w.extractLsb' 32 8, 0, (w.extractLsb' 40 24).setWidth 64, true⟩] })) := by
  rw [State.postEntry, if_neg ?_]
  · rfl
  · obtain h | ⟨h, k⟩ := h
    · simp [h]
    · simp [h, k]

theorem postEntry_of_full {s : State} {f : FuncNo} {w : DWord}
    (hn : 16 ≤ ((s.func f).comps.filter (fun k => k.post)).length)
    (h : bit (s.func f).cqb 5 = false ∨ (s.func f).full = true) : s.postEntry f w = none := by
  rw [State.postEntry, if_pos ?_]
  obtain h | h := h <;> simp [hn, h]

theorem Thread.storeError_of_room {x : Thread} (h : x.se.length < 8) (r : SeRec) : x.storeError r = { x with se := x.se ++ [r] } := by
  rw [Thread.storeError, if_pos h]

theorem func_refusedPost (s : State) (src : Src) (f : FuncNo) :
    (s.refusedPost src f).func f = { s.func f with errPost := satAdd (s.func f).errPost 1 } := by
  have h (u : State) (hu : u.funcs = (s.postRefused f).funcs) : u.func f = { s.func f with errPost := satAdd (s.func f).errPost 1 } := by
    rw [State.func, hu]
    exact State.func_modFunc_self s f _
  cases src with
  | thread t k => exact h _ rfl
  | _ => exact h _ rfl

theorem setBit_5 (w : DWord) : setBit w 5 true = w ||| 0x20 := by
  ext i hi
  rw [← BitVec.getLsbD_eq_getElem, getLsbD_setBit w (by omega)]
  interval_cases i <;> simp

/-- Settles O41. -/
theorem ringsAndPosts : Obligations.RingsAndPosts := by
  unfold Obligations.RingsAndPosts
  intro s src f w c rest p cq x size n i q v set free enabled
  have hfull : x.full = true ↔ q = x.qhead.toNat % n := full_iff x
  have epost : exec (.post src f w) s = .next (s.regWrite src (paFn f 0x28) 8 w none) := rfl
  refine ⟨fun ha hsrc hroom => ?_, fun ha hsrc hn hno => ?_, fun hen hq hc hp hroom => ?_, fun hfree ha => ?_⟩
  · have hroom' : (x.comps.filter (fun k => k.post)).length < 16 ∨ bit x.cqb 5 = true ∧ x.full = false :=
      hroom.imp id (fun h => ⟨h.1, Bool.not_eq_true _ ▸ mt hfull.1 h.2⟩)
    refine ⟨_, epost, ?_⟩
    rw [regWrite_fn ha (by omega) (srcMay_post hsrc) rfl, show s.fnWrite f 0x28 w = s.postEntry f w from rfl, postEntry_of_room hroom']
    exact ⟨rfl, State.func_modFunc_self _ _ _⟩
  · refine ⟨_, epost, ?_⟩
    rw [regWrite_fn ha (by omega) (srcMay_post hsrc) rfl, show s.fnWrite f 0x28 w = s.postEntry f w from rfl,
      postEntry_of_full hn (hno.imp id hfull.2)]
    refine ⟨func_refusedPost s src f, fun t h ht hse => ⟨Config.free (s.postRefused f).free 0 48, ?_⟩⟩
    subst ht
    dsimp only
    rw [State.refusedPost, (refusedWrite_thread _ t h).2]
    exact Thread.storeError_of_room hse _
  · refine ⟨_, (s.port p).freeTag, rfl, ?_⟩
    have hnf : x.full = false := Bool.not_eq_true _ ▸ mt hfull.1 hq
    rw [writeEntry_eq (n := n) (q := q) hen hnf hc hp rfl rfl]
    refine ⟨by rw [func_fetch, State.func_modFunc_self], ?_⟩
    have hleaves := leaves_mono (leaves_entryPkt (f := f) (c := c) (w := .compWrite f) hroom)
      ((PortsGrow.modFunc _ f (fun _ => { x with comps := rest, qtail := BitVec.ofNat 16 q, phase := if q = 0 then !x.phase else x.phase })).trans (fetch_spec _ f).2)
    have hbytes := Comp.bytes_eq c x.phase
    rw [← hbytes]
    exact hleaves
  · have hst : ¬(x.st ≠ .idle && x.st ≠ .failed && x.st ≠ .absent) = true := by
      obtain h | h | h := hfree <;> simp [h]
    have hv : setBit w 5 true &&& 0xFFFFFFFFFFFFF03F = v := by rw [setBit_5]
    have hv5 : bit v 5 = true := by simp [bit, v]
    have hring : (s.writeRing f cq (setBit w 5 true)).func f = set ∧ (s.writeRing f cq (setBit w 5 true)).tiles = s.tiles := by
      rw [State.writeRing]
      dsimp only
      rw [if_neg hst, hv, func_fetch, tiles_fetch, State.func_modFunc_self]
      refine ⟨?_, rfl⟩
      simp only [set, hv5, Bool.and_true, if_true]
      cases cq <;> simp only [Bool.false_eq_true, if_true, if_false] <;> split <;> split <;> simp_all [bit, x]
    refine ⟨fun hact => ?_, fun hsrc => ?_⟩
    · have e : exec (.ringEnable .adapter f cq w) s =
          .next (if s.alive && s.activePorts ≠ [] then s.writeRing f cq (setBit w 5 true) else s) := rfl
      rw [if_pos (by simp [ha, hact])] at e
      exact ⟨_, e, hring⟩
    · have e : exec (.ringEnable (.src src) f cq w) s =
          .next (s.regWrite src (paFn f (if cq then 0x10 else 8)) 8 (setBit w 5 true) none) := rfl
      have hwr : s.regWrite src (paFn f (if cq then 0x10 else 8)) 8 (setBit w 5 true) none =
          s.writeRing f cq (setBit w 5 true) := by
        rw [regWrite_fn ha (by split <;> omega) (srcMay_fn_of_high hsrc) (by cases cq <;> rfl)]
        cases cq <;> rfl
      rw [hwr] at e
      exact ⟨_, e, hring⟩

end Sys2Proof.Machine
end

section
/-! The head of a function's ring, a wake, and the removal of translations (R319, R445, R447, R488). -/
namespace Sys2Proof.Machine

open Sys2Proof.Safety

/-! ## Maps over every entry -/

theorem SMap.get_map {α : Type} (d : α) (g : Nat → α → α) (k : Nat) (hd : g k d = d) (m : SMap α) :
    SMap.get d (m.map fun p => (p.1, g p.1 p.2)) k = g k (SMap.get d m k) := by
  induction m with
  | nil => exact hd.symm
  | cons p m ih =>
    rw [List.map_cons, SMap.get_cons, SMap.get_cons, ih]
    by_cases h : p.1 = k
    · rw [if_pos h, if_pos h, h]
    · rw [if_neg h, if_neg h]

theorem SMap.get_of_forall {α : Type} {d : α} {P : α → Prop} (hd : P d) (k : Nat) : ∀ (m : SMap α), (∀ p ∈ m, P p.2) →
    P (SMap.get d m k)
  | [], _ => hd
  | p :: m, h => by
    rw [SMap.get_cons]
    split
    · exact h p (List.mem_cons_self ..)
    · exact SMap.get_of_forall hd k m (fun q hq => h q (List.mem_cons_of_mem _ hq))

theorem SMap.get_mapVals_of {α : Type} [DecidableEq α] {d : α} {P : α → Prop} (hd : P d) {f : α → α} (hf : ∀ v, P (f v))
    (m : SMap α) (k : Nat) : P (SMap.get d (SMap.mapVals d m f) k) := by
  refine SMap.get_of_forall hd k _ (fun p hp => ?_)
  obtain ⟨v, _, rfl⟩ := List.mem_map.1 (List.mem_filter.1 hp).1
  exact hf _

/-! ## The head of a ring (R445, R447, R448) -/

/-- The function after the end of the command `c`, with `rest` behind it. -/
def Func.ended (x : Func) (c : Cmd) (rest : List Cmd) (st : Byte) (r : DWord) : Func :=
  { x with cmds := rest, comps := x.comps ++ [⟨c.words.getD 1 0, st, (c.words.getD 0 0).extractLsb' 0 8, r, false⟩] }

section Head

variable {s : State} {f : FuncNo} {c : Cmd} {rest : List Cmd}

theorem func_endCmd (hc : (s.func f).cmds = c :: rest) {st : Byte} (hst : st ≠ 3) (r : DWord) :
    (s.endCmd f st r).func f = (s.func f).ended c rest st r := by
  rw [State.endCmd, State.func_modFunc_self, hc]
  simp only [Func.finish, if_neg hst]
  rfl

theorem func_endCmd_format (hc : (s.func f).cmds = c :: rest) (r : DWord) :
    (s.endCmd f 3 r).func f = { (s.func f).ended c rest 3 r with errFormat := satAdd (s.func f).errFormat 1 } := by
  rw [State.endCmd, State.func_modFunc_self, hc]
  rfl

theorem endCmd_eq (s : State) (f : FuncNo) (st : Byte) (r : DWord) :
    s.endCmd f st r = { s with funcs := (s.endCmd f st r).funcs } := rfl

theorem owes_of_done {x : Func} (h : ∀ k ∈ x.comps, k.post = true ∨ k.op = 0x20) : x.owes = false := by
  rw [Func.owes, List.any_eq_false]
  intro k hk
  obtain h | h := h k hk <;> simp [h]

theorem skipUnknown_of_known (hc : (s.func f).cmds = c :: rest) (hk : (cmdMask c.op).isSome = true) (n : Nat) :
    s.skipUnknown f n = s := by
  cases n with
  | zero => rfl
  | succ n =>
    rw [State.skipUnknown, hc]
    simp [Option.isSome_iff_ne_none.1 hk]

variable {op : Byte} {body : Cmd → State → State}

theorem runHead_eq (hc : (s.func f).cmds = c :: rest) (hs : c.started = false) (ho : (s.func f).owes = false) (hop : c.op = op)
    (hk : (cmdMask op).isSome = true) :
    s.runHead f op body = if c.badFormat then s.endCmd f 3 0 else if !(accepts (s.func f).st op) then s.endCmd f 1 0 else body c s := by
  subst hop
  rw [State.runHead, skipUnknown_of_known hc hk, hc]
  simp only [hs, ho, ne_eq, not_true_eq_false, decide_false, Bool.or_self, Bool.false_eq_true, if_false]

end Head

/-! ## Wakes (R488) -/

theorem half_wake {s : State} {c : CobNo} {so : Bool} (ha : s.alive = true) (hk : s.pw.kiln0 = true) (hm : s.halfMode c so ≠ 1)
    (hoff : (s.cob c).half so = .off) : ((s.wake (.half c so)).cob c).half so = .goingOn := by
  have hgo : ¬(!s.alive || !s.pw.kiln0) = true := by simp [ha, hk]
  have hup (u : State) (hu : (u.cob c).half so = .off) : ((match u.dom (.half c so) with
      | .off => u.setDom (.half c so) .goingOn
      | .goingOff _ => u.setDom (.half c so) (.goingOff true)
      | _ => u).cob c).half so = .goingOn := by
    rw [State.dom, hu]
    cases so <;> simp [State.setDom, Cob.half]
  have hcalm (u : State) (g : Cob → Cob) (hg : ∀ x, (g x).half so = x.half so) (hu : (u.cob c).half so = .off) :
      ((u.modCob c g).cob c).half so = .off := by rw [State.cob_modCob_self, hg, hu]
  unfold State.wake
  dsimp only
  rw [if_neg hgo, if_neg hm]
  refine hup _ ?_
  have h0 := hcalm s (fun x => if so then { x with idleS := 0 } else { x with idleN := 0 }) (by intro x; cases so <;> rfl) hoff
  split
  · exact hcalm _ _ (fun x => rfl) h0
  · exact hcalm _ _ (fun x => rfl) h0
  · exact h0

theorem wakeTile_eq (s : State) (t : TileId) : ∃ d, s.wakeTile t = { s with cobs := d } := by
  rw [State.wakeTile]
  split
  · exact ⟨s.cobs, rfl⟩
  · exact State.wake_half_eq s _ _

/-! ## Removal of translations (R319) -/

/-- Tile `tl` without the translations that are removed; its walks install nothing. -/
def Tile.forget (f : FuncNo) (vpn : BitVec 36) (all : Bool) (tl : Tile) : Tile :=
  ([0, 1, 2, 3] : List Thr).foldl (fun a h => a.modTh h (fun x => { x with walk := none }))
    { tl with tlb := tl.tlb.filter (fun l => !(goneLeaf f vpn all l)) }

theorem Tile.modTh_default {g : Thread → Thread} (hg : g {} = {}) (h : Thr) : ({} : Tile).modTh h g = {} := by
  have hm : SMap.modify ({} : Thread) [] h.toNat g = [] := by
    rw [SMap.modify, SMap.get_nil, hg, SMap.set, if_pos rfl]
    rfl
  rw [Tile.modTh]
  dsimp only
  rw [hm]

theorem Tile.forget_default (f : FuncNo) (vpn : BitVec 36) (all : Bool) : ({} : Tile).forget f vpn all = {} := by
  have hstep (h : Thr) : ({} : Tile).modTh h (fun x => { x with walk := none }) = {} := Tile.modTh_default rfl h
  simp only [Tile.forget, List.filter_nil, List.foldl_cons, List.foldl_nil, hstep]

theorem tile_invCob (s : State) (c : CobNo) (f : FuncNo) (vpn : BitVec 36) (all : Bool) (t : TileId) :
    (s.invCob c f vpn all).tile t = if tileCob t = c then (s.tile t).forget f vpn all else s.tile t := by
  have h := SMap.get_map ({} : Tile) (fun k tl => if tileCob (BitVec.ofNat 12 k) = c then tl.forget f vpn all else tl) t.toNat
    (by rw [Tile.forget_default, ite_self]) s.tiles
  simp only [BitVec.ofNat_toNat, BitVec.setWidth_eq] at h
  rw [State.tile, State.tile, ← h]
  unfold State.invCob
  dsimp only [State.modCob]
  congr 1
  refine List.map_congr_left (fun p _ => ?_)
  split <;> rfl

@[simp] theorem Tile.tlb_forget (tl : Tile) (f : FuncNo) (vpn : BitVec 36) (all : Bool) :
    (tl.forget f vpn all).tlb = tl.tlb.filter (fun l => !(goneLeaf f vpn all l)) := by
  simp only [Tile.forget, List.foldl_cons, List.foldl_nil, Tile.modTh]

/-- A tile without its translations and walks: what their removal leaves. -/
def Tile.unmapped (tl : Tile) : Tile := { tl with tlb := [], thr := [] }

theorem Tile.unmapped_forget (tl : Tile) (f : FuncNo) (vpn : BitVec 36) (all : Bool) : (tl.forget f vpn all).unmapped = tl.unmapped := by
  simp only [Tile.forget, Tile.unmapped, List.foldl_cons, List.foldl_nil, Tile.modTh]

theorem Tile.th_forget (tl : Tile) (f : FuncNo) (vpn : BitVec 36) (all : Bool) (h : Thr) :
    (tl.forget f vpn all).th h = { tl.th h with walk := none } := by
  have h4 : h = 0 ∨ h = 1 ∨ h = 2 ∨ h = 3 := by revert h; decide
  simp only [Tile.forget, List.foldl_cons, List.foldl_nil, Tile.th_modTh]
  obtain rfl | rfl | rfl | rfl := h4 <;> rfl

/-- Tile `u` is `v` or `v` without translations. -/
def Tile.Forgets (u v : Tile) : Prop := u.unmapped = v.unmapped ∧ (∀ h, u.th h = v.th h ∨ u.th h = { v.th h with walk := none }) ∧ ∀ x ∈ u.tlb, x ∈ v.tlb

theorem Tile.Forgets.refl (u : Tile) : u.Forgets u := ⟨rfl, fun _ => .inl rfl, fun _ h => h⟩

theorem Tile.Forgets.trans {u v w : Tile} (h : u.Forgets v) (k : v.Forgets w) : u.Forgets w := by
  refine ⟨h.1.trans k.1, fun i => ?_, fun x hx => k.2.2 x (h.2.2 x hx)⟩
  obtain a | a := h.2.1 i <;> obtain b | b := k.2.1 i <;> simp [a, b]

theorem Tile.forget_forgets (tl : Tile) (f : FuncNo) (vpn : BitVec 36) (all : Bool) : (tl.forget f vpn all).Forgets tl :=
  ⟨tl.unmapped_forget f vpn all, fun h => .inr (tl.th_forget f vpn all h), by
    rw [Tile.tlb_forget]
    exact fun x hx => List.mem_of_mem_filter hx⟩

theorem invCob_forgets (s : State) (c : CobNo) (f : FuncNo) (vpn : BitVec 36) (all : Bool) (t : TileId) :
    ((s.invCob c f vpn all).tile t).Forgets (s.tile t) := by
  rw [tile_invCob]
  split
  · exact Tile.forget_forgets _ _ _ _
  · exact .refl _

theorem invCob_eq (s : State) (c : CobNo) (f : FuncNo) (vpn : BitVec 36) (all : Bool) :
    s.invCob c f vpn all = { s with cobs := (s.invCob c f vpn all).cobs, tiles := (s.invCob c f vpn all).tiles } := rfl

/-- Removal at a list of Cobs leaves no translation of the function there. -/
theorem foldl_invCob (f : FuncNo) (l : List Nat) : ∀ (s : State) (t : TileId),
    let u := l.foldl (fun a i => a.invCob (BitVec.ofNat 4 i) f 0 true) s
    u = { s with cobs := u.cobs, tiles := u.tiles } ∧ (u.tile t).Forgets (s.tile t) ∧
      ((∃ i ∈ l, tileCob t = BitVec.ofNat 4 i) → ∀ x ∈ (u.tile t).tlb, x.func ≠ f) := by
  induction l with
  | nil => exact fun s t => ⟨rfl, .refl _, by simp⟩
  | cons i l ih =>
    intro s t
    obtain ⟨he, hf, hg⟩ := ih (s.invCob (BitVec.ofNat 4 i) f 0 true) t
    refine ⟨he, hf.trans (invCob_forgets _ _ _ _ _ _), ?_⟩
    rintro ⟨j, hj, hcob⟩
    obtain rfl | hj := List.mem_cons.1 hj
    · intro x hx
      have hmem := hf.2.2 x hx
      rw [tile_invCob, if_pos hcob, Tile.tlb_forget, List.mem_filter] at hmem
      simpa [goneLeaf, gone] using hmem.2
    · exact hg ⟨j, hj, hcob⟩

theorem tile_invHusk (s : State) (f : FuncNo) (vpn : BitVec 36) (all : Bool) (t : TileId) : (s.invHusk f vpn all).tile t = s.tile t := rfl

theorem invAll_eq (s : State) (f : FuncNo) :
    ∃ a b c d, s.invAll f = { s with cobs := a, tiles := b, hengTlb := c, huskWalker := d } := by
  have h := (foldl_invCob f (List.range 16) s 0).1
  rw [State.invAll]
  generalize (List.range 16).foldl (fun a i => a.invCob (BitVec.ofNat 4 i) f 0 true) s = u at h
  rw [h]
  exact ⟨_, _, _, _, rfl⟩

theorem invAll_tile (s : State) (f : FuncNo) (t : TileId) :
    ((s.invAll f).tile t).Forgets (s.tile t) ∧ ∀ x ∈ ((s.invAll f).tile t).tlb, x.func ≠ f := by
  have h := foldl_invCob f (List.range 16) s t
  rw [State.invAll, tile_invHusk]
  generalize (List.range 16).foldl (fun a i => a.invCob (BitVec.ofNat 4 i) f 0 true) s = u at h
  obtain ⟨-, hf, hg⟩ := h
  exact ⟨hf, hg ⟨(tileCob t).toNat, List.mem_range.2 (tileCob t).isLt, by simp⟩⟩

end Sys2Proof.Machine
end

section
/-! The commands of a function's ring (R443, R445, R447–R449). From them the obligation O39. -/
namespace Sys2Proof.Machine

open Sys2Proof.Safety

/-! ## Starts of several threads (R447, R448) -/

/-- A thread that START starts. -/
def Thread.begun (x : Thread) : Thread := { x with slv := false }.started

theorem Tile.th_foldl_start (l : List Thr) : ∀ (tl : Tile), tl.zeroed = true → tl.func ≠ none → l.Nodup →
    (∀ h ∈ l, (tl.th h).run = .stopped) → ∀ k,
      (l.foldl (fun a h => (a.modTh h (fun x => { x with slv := false })).start h) tl).th k =
        if k ∈ l then (tl.th k).begun else tl.th k := by
  induction l with
  | nil => exact fun tl _ _ _ _ k => by simp
  | cons h l ih =>
    intro tl hz hf hd hr k
    obtain ⟨hnot, hd⟩ := List.nodup_cons.1 hd
    have hone : (tl.modTh h (fun x => { x with slv := false })).start h =
        (tl.modTh h (fun x => { x with slv := false })).modTh h Thread.started :=
      start_of_stopped hz hf (by rw [Tile.th_modTh_self]; exact hr h (List.mem_cons_self ..))
    have hth (j : Thr) : ((tl.modTh h (fun x => { x with slv := false })).modTh h Thread.started).th j =
        if j = h then (tl.th j).begun else tl.th j := by
      rw [Tile.th_modTh, Tile.th_modTh_self, Tile.th_modTh]
      split
      case isTrue e => rw [e]; rfl
      case isFalse => rfl
    rw [List.foldl_cons, hone, ih ((tl.modTh h (fun x => { x with slv := false })).modTh h Thread.started) hz hf hd ?_ k, hth]
    · by_cases hk : k = h
      · subst hk
        rw [if_neg hnot, if_pos rfl, if_pos (List.mem_cons_self ..)]
      · simp [hk]
    · intro j hj
      rw [hth, if_neg (by rintro rfl; exact hnot hj)]
      exact hr j (List.mem_cons_of_mem _ hj)

/-! ## Program words (R447) -/

theorem leNat_take_2 (b : List Byte) : (BitVec.ofNat 14 (leNat (b.take 2)) : PWord) = (b.getD 1 0 ++ b.getD 0 0).extractLsb' 0 14 := by
  have h (x y : Byte) : (BitVec.ofNat 14 (x.toNat + 256 * y.toNat) : PWord) = (y ++ x).extractLsb' 0 14 := by
    apply BitVec.eq_of_toNat_eq
    rw [BitVec.toNat_ofNat, BitVec.extractLsb'_toNat, toNat_append_eq, Nat.shiftRight_zero]
    congr 1
    omega
  match b with
  | [] => rfl
  | [x] => simpa [leNat] using h x 0
  | x :: y :: r => simpa [leNat] using h x y

theorem Tile.pmem_loadWords (n : Nat) : ∀ (tl : Tile) (a : Nat) (b : List Byte) (k : Nat),
    SMap.get 0 (tl.loadWords a n b).pmem k = if a ≤ k ∧ k < a + n then
      (b.getD (2 * (k - a) + 1) 0 ++ b.getD (2 * (k - a)) 0).extractLsb' 0 14 else SMap.get 0 tl.pmem k := by
  induction n with
  | zero => exact fun tl a b k => by rw [Tile.loadWords, if_neg (by omega)]
  | succ n ih =>
    intro tl a b k
    rw [Tile.loadWords, ih, SMap.get_set, leNat_take_2]
    by_cases hk : k = a
    · subst hk
      rw [if_neg (by omega), if_pos rfl, if_pos (by omega), Nat.sub_self]
    · by_cases hin : a + 1 ≤ k ∧ k < a + 1 + n
      · rw [if_pos hin, if_pos (by omega)]
        simp only [List.getD_eq_getElem?_getD, List.getElem?_drop]
        rw [show 2 + (2 * (k - (a + 1)) + 1) = 2 * (k - a) + 1 by omega, show 2 + 2 * (k - (a + 1)) = 2 * (k - a) by omega]
      · rw [if_neg hin, if_neg hk, if_neg (by omega)]

/-! ## A command engine's message (R214, R241) -/

theorem SendSide.freeTag_use (x : SendSide) (h : Word) (m : Nat) : (x.use h m).freeTag = x.freeTag := by
  rw [SendSide.use]
  split <;> rfl

theorem sendSide_modSend_cmd (s : State) (b : Bool) (g : SendSide → SendSide) :
    (s.modSend (.cmd b) g).sendSide (.cmd b) = g (s.sendSide (.cmd b)) := SMap.get_modify_self _ _ _ _

theorem emit_cmd {s : State} {b : Bool} {tag : Nat} (hf : (s.sendSide (.cmd b)).freeTag = some tag) (owner : Owner) (m : Msg)
    (hold : List Nat) : ∃ k hs, s.emit (.cmd b) owner m false hold = { s with net := s.net ++ [k], nextId := s.nextId + 1, husk := hs } ∧
      k.dst = .tile (hTile m.handle) ∧ k.body = .msg { m with rtag := tag } := by
  simp only [State.emit, hf]
  exact ⟨_, _, rfl, rfl, rfl⟩

/-! ## The commands (R447) -/

section Commands

variable {s : State} {f : FuncNo} {c : Cmd} {rest : List Cmd}

/-- A command completes and changes nothing else. -/
theorem ends_of {k : Instr} {st : Byte} {r : DWord} (e : exec k s = .next (s.endCmd f st r)) (hc : (s.func f).cmds = c :: rest)
    (hst : st ≠ 3) : ∃ u, exec k s = .next u ∧ u = { s with funcs := u.funcs } ∧ u.func f = (s.func f).ended c rest st r :=
  ⟨_, e, endCmd_eq s f st r, func_endCmd hc hst r⟩

theorem modHead_eq {x : Func} (hc : x.cmds = c :: rest) (g : Cmd → Cmd) : x.modHead g = { x with cmds := g c :: rest } := by
  rw [Func.modHead, hc]

theorem stopped_15_iff (tl : Tile) : tl.stopped 15 = true ↔ ∀ h, (tl.th h).run = .stopped := by
  have hb : ∀ h : Thr, bit (15 : BitVec 4) h.toNat = true := by decide
  rw [Tile.stopped, List.all_eq_true]
  refine ⟨fun h k => ?_, fun h k _ => by simp [h k]⟩
  have hk : k ∈ ([0, 1, 2, 3] : List Thr) := by revert k; decide
  have hx := h k hk
  rw [hb] at hx
  simpa using hx

/-- The request that PMEM sends for its words. -/
def pmemPkt (s : State) (f : FuncNo) (c : Cmd) (p : PortNo) : TxPkt :=
  { type := 0x20, func := f, dst := (s.port p).peer, tag := 0, status := 0, attr := 0, addr := c.arg64 2 + BitVec.ofNat 64 (2 * c.got), data := [], len := min 4096 (2 * ((c.word 6).toNat - c.got)) }

theorem leaves_pmemPkt {p : PortNo} {w : OutFor} (hroom : PortRoom s p 2 1) :
    Leaves s (s.ask p (pmemPkt s f c p) w) p { pmemPkt s f c p with tag := (s.port p).freeTag } := by
  have hlen : (pmemPkt s f c p).data.length = 0 := rfl
  refine leaves_ask hroom (show pktVc 0x20 = 2 from rfl) ?_ (by omega)
  rw [pktUnits, length_bytes_pkt, hlen]
  decide

/-- PMEM asks for its words (R447). -/
theorem pmemAsk_leaves {p : PortNo} (hc : (s.func f).cmds = c :: rest) (hp : s.hostPort = some p) (hroom : PortRoom s p 2 1) :
    (s.pmemAsk f c).func f = { s.func f with cmds := { c with started := true } :: rest } ∧ (s.pmemAsk f c).tiles = s.tiles ∧
      Leaves s (s.pmemAsk f c) p { pmemPkt s f c p with tag := (s.port p).freeTag } := by
  have e : s.pmemAsk f c = (s.ask p (pmemPkt s f c p) (.pmem f)).modFunc f (fun x => x.modHead (fun k => { k with started := true })) := by
    rw [State.pmemAsk, hp]
    rfl
  rw [e]
  refine ⟨?_, rfl, leaves_mono (leaves_pmemPkt hroom) (.modFunc _ _ _)⟩
  rw [State.func_modFunc_self]
  exact modHead_eq hc _

/-- PMEM's last words are written (R447). -/
theorem pmemWords_loads {b : List Byte} {t : TileId} (hc : (s.func f).cmds = c :: rest) (ht : bits (c.word 4) 0 12 = t)
    (hr : s.tileReady t = true) (hgot : c.got = 0) (hb : b.length = 2 * (c.word 6).toNat) :
    (s.pmemWords f c b).func f = (s.func f).ended c rest 0 0 ∧
      (s.pmemWords f c b).tile t = (s.tile t).loadWords (c.word 5).toNat (c.word 6).toNat b := by
  subst ht
  have hn : min (b.length / 2) ((c.word 6).toNat - c.got) = (c.word 6).toNat := by omega
  rw [State.pmemWords]
  dsimp only
  rw [if_neg (by simp [hr]), hn, hgot, Nat.zero_add, if_pos (le_refl _), Nat.add_zero]
  refine ⟨?_, ?_⟩
  · rw [func_endCmd (c := { c with got := (c.word 6).toNat, data := none }) (rest := rest) ?_ (by decide), State.func_modFunc_self]
    · rw [modHead_eq (by exact hc)]
      rfl
    · rw [State.func_modFunc_self]
      rw [modHead_eq (by exact hc)]
  · exact State.tile_modTile_self s _ (fun tl => tl.loadWords (c.word 5).toNat (c.word 6).toNat b)

end Commands

end Sys2Proof.Machine
end

section
/-! The ring of a function: the commands at its head, and the ends of a PMEM and of a QUIESCE (R443, R445, R447–R449). They
settle the obligation O39. -/
namespace Sys2Proof.Machine

open Sys2Proof.Safety

section Commands

variable {s : State} {f : FuncNo} {c : Cmd} {rest : List Cmd}

theorem accepts_iff (st : FnSt) (op : Byte) : accepts st op = true ↔ (match st with
    | .absent => False
    | .idle => op ≠ 0x30 ∧ op ≠ 0x50
    | .running => op ≠ 0x10 ∧ op ≠ 0x40
    | .quiescing => op = 1 ∨ op = 2 ∨ op = 0x60
    | .failed => op = 1 ∨ op = 2 ∨ op = 0x60
    | .resetting => op = 1 ∨ op = 2) := by
  cases st <;> simp [accepts, or_assoc]

/-- The command rows, with the code and the meaning of each. -/
def headRows (s : State) (f : FuncNo) : List (Instr × Byte × (Cmd → State → State)) :=
  [(.cmdNop f, 1, fun _ s => s.endCmd f 0 0), (.cmdStatus f, 2, fun _ s => s.endCmd f 0 (s.fnStat f)),
    (.pmem f, 0x10, fun c s => s.pmemCmd f c), (.tctl f, 0x11, fun c s => s.tctlCmd f c), (.start f, 0x12, fun c s => s.startCmd f c),
    (.copy f, 0x20, fun c s => s.copyCmd f c), (.msg f, 0x30, fun c s => s.msgCmd f c), (.setpt f, 0x40, fun c s => s.setptCmd f c),
    (.quiesce f, 0x50, fun c s => s.quiesceCmd f c)]

theorem exec_headRows (hc : (s.func f).cmds = c :: rest) (hs : c.started = false) :
    ∀ r ∈ headRows s f, exec r.1 s = .next (s.runHead f r.2.1 r.2.2) ∧ (cmdMask r.2.1).isSome = true := by
  have hp : exec (.pmem f) s = .next (s.runHead f 0x10 (fun c s => s.pmemCmd f c)) := by
    have hheld : s.pmemHeld f = none := by simp [State.pmemHeld, hc, hs]
    change execPmem f s = _
    rw [execPmem, hheld]
  simp only [headRows, List.forall_mem_cons, List.not_mem_nil, IsEmpty.forall_iff, implies_true, and_true]
  exact ⟨⟨rfl, rfl⟩, ⟨rfl, rfl⟩, ⟨hp, rfl⟩, ⟨rfl, rfl⟩, ⟨rfl, rfl⟩, ⟨rfl, rfl⟩, ⟨rfl, rfl⟩, ⟨rfl, rfl⟩, rfl, rfl⟩

/-- A command row with the command at the head: FORMAT, then STATE, then its meaning (R445, R447). -/
theorem exec_head (hc : (s.func f).cmds = c :: rest) (hs : c.started = false)
    (hno : ∀ k ∈ (s.func f).comps, k.post = true ∨ k.op = 0x20) {r : Instr × Byte × (Cmd → State → State)} (hr : r ∈ headRows s f)
    (hop : c.op = r.2.1) : exec r.1 s = .next (if c.badFormat then s.endCmd f 3 0
      else if !(accepts (s.func f).st r.2.1) then s.endCmd f 1 0 else r.2.2 c s) := by
  obtain ⟨e, hk⟩ := exec_headRows hc hs r hr
  rw [e, runHead_eq hc hs (owes_of_done hno) hop hk]

theorem exec_head_takes (hc : (s.func f).cmds = c :: rest) (hs : c.started = false)
    (hno : ∀ k ∈ (s.func f).comps, k.post = true ∨ k.op = 0x20) {r : Instr × Byte × (Cmd → State → State)} (hr : r ∈ headRows s f)
    (hop : c.op = r.2.1) (hb : c.badFormat = false) (ht : accepts (s.func f).st c.op = true) :
    exec r.1 s = .next (r.2.2 c s) := by
  rw [exec_head hc hs hno hr hop, if_neg (by simp [hb]), if_neg (by simp [← hop, ht])]

/-- A row of the statement's table is one of the model's. -/
theorem mem_headRows {k : Instr} {op : Byte} (h : (k, op) ∈ [(Instr.cmdNop f, (1 : Byte)), (.cmdStatus f, 2), (.pmem f, 0x10),
    (.tctl f, 0x11), (.start f, 0x12), (.copy f, 0x20), (.msg f, 0x30), (.setpt f, 0x40), (.quiesce f, 0x50)]) :
    ∃ b, (k, op, b) ∈ headRows s f := by
  have hmap : [(Instr.cmdNop f, (1 : Byte)), (.cmdStatus f, 2), (.pmem f, 0x10), (.tctl f, 0x11), (.start f, 0x12), (.copy f, 0x20),
      (.msg f, 0x30), (.setpt f, 0x40), (.quiesce f, 0x50)] = (headRows s f).map (fun r => (r.1, r.2.1)) := rfl
  rw [hmap] at h
  obtain ⟨⟨k', op', b⟩, hb, he⟩ := List.mem_map.1 h
  obtain ⟨rfl, rfl⟩ := Prod.mk.inj he
  exact ⟨b, hb⟩

/-- A command whose tile is off waits and wakes it (R488). -/
theorem waits_of {k : Instr} {t : TileId} (e : exec k s = .next (s.wakeTile t))
    (hnr : ¬(s.tileOn t = true ∧ (s.tile t).zeroed = true)) : ∃ u, exec k s = .next u ∧ u = { s with cobs := u.cobs } ∧
      (s.alive = true → s.pw.kiln0 = true → s.halfMode (tileCob t) (tileSouth t) ≠ 1 →
        (s.cob (tileCob t)).half (tileSouth t) = .off → (u.cob (tileCob t)).half (tileSouth t) = .goingOn) := by
  obtain ⟨d, hd⟩ := wakeTile_eq s t
  refine ⟨_, e, by rw [hd], fun ha hk hm hoff => ?_⟩
  have hon : s.tileOn t = false := by simp [State.tileOn, hoff]
  rw [State.wakeTile, if_neg (by simp [hon])]
  exact half_wake ha hk hm hoff

theorem tileReady_iff (t : TileId) : s.tileReady t = true ↔ s.tileOn t = true ∧ (s.tile t).zeroed = true := by
  simp [State.tileReady]

/-- A START of some stopped threads (R447, R448). -/
theorem startCmd_starts {t : TileId} {mask : BitVec 4} (hc : (s.func f).cmds = c :: rest) (ht : bits (c.word 2) 0 12 = t)
    (hm : bits (c.word 2) 16 4 = mask) (hf : (s.tile t).func = some f) (hr : s.tileReady t = true)
    (hsome : ∃ h : Thr, mask.getLsbD h.toNat = true ∧ (s.th t h).run = .stopped) :
    (s.startCmd f c).func f = { (s.func f).ended c rest 0 0 with st := .running } ∧ ∀ h, (s.startCmd f c).th t h =
      if mask.getLsbD h.toNat = true ∧ (s.th t h).run = .stopped then (s.th t h).begun else s.th t h := by
  subst ht hm
  have hall : ∀ h : Thr, h ∈ ([0, 1, 2, 3] : List Thr) := by decide
  have hmem (h : Thr) : h ∈ ([0, 1, 2, 3] : List Thr).filter (fun h => bit (bits (c.word 2) 16 4 : BitVec 4) h.toNat &&
      (s.th (bits (c.word 2) 0 12) h).run = .stopped) ↔
      (bits (c.word 2) 16 4 : BitVec 4).getLsbD h.toNat = true ∧ (s.th (bits (c.word 2) 0 12) h).run = .stopped := by
    rw [List.mem_filter, Bool.and_eq_true, decide_eq_true_eq]
    exact and_iff_right (hall h)
  have hnd : (([0, 1, 2, 3] : List Thr).filter (fun h => bit (bits (c.word 2) 16 4 : BitVec 4) h.toNat &&
      (s.th (bits (c.word 2) 0 12) h).run = .stopped)).Nodup := List.Nodup.filter _ (by decide)
  obtain ⟨h0, hh0⟩ := hsome
  have hmask : ¬(bits (c.word 2) 16 4 : BitVec 4) = 0 := by
    intro h
    rw [h] at hh0
    simp at hh0
  rw [State.startCmd]
  dsimp only
  rw [if_neg (by simp [hf]), if_neg hmask, if_neg (by simp [hr])]
  generalize ([0, 1, 2, 3] : List Thr).filter (fun h => bit (bits (c.word 2) 16 4 : BitVec 4) h.toNat &&
    (s.th (bits (c.word 2) 0 12) h).run = .stopped) = hs at hmem hnd
  have hne : ¬hs = [] := fun h => by simpa [h] using (hmem h0).2 hh0
  refine ⟨?_, fun h => ?_⟩
  · rw [func_endCmd (c := c) (rest := rest) (by rw [State.func_modFunc_self, if_neg hne]; exact hc) (by decide),
      State.func_modFunc_self, if_neg hne]
    rfl
  · have hth := Tile.th_foldl_start hs (s.tile (bits (c.word 2) 0 12)) ((tileReady_iff _).1 hr).2 (by simp [hf]) hnd
      (fun k hk => ((hmem k).1 hk).2) h
    simp only [hmem] at hth
    refine Eq.trans ?_ hth
    exact State.th_modTile_self s _ (fun tl => hs.foldl (fun a h => (a.modTh h (fun x => { x with slv := false })).start h) tl) h

/-- A COPY goes to the engine of the Husk with fewer jobs (R326, R440). -/
theorem copyCmd_jobs {a : BitVec 2} (hc : (s.func f).cmds = c :: rest) (ha : a = BitVec.ofNat 2 (2 * (f.toNat % 2)))
    (hroom : (s.eng (.husk a)).jobs.length < 8 ∨ (s.eng (.husk (a + 1))).jobs.length < 8) :
    let job : CopyJob := ⟨f, c.cid, c.arg64 2, c.arg64 4, c.word 6, bit (c.word 7) 0⟩
    let le := (s.eng (.husk a)).jobs.length ≤ (s.eng (.husk (a + 1))).jobs.length
    (s.copyCmd f c).func f = { s.func f with cmds := rest } ∧
      ((s.copyCmd f c).eng (.husk a)).jobs = (if le then (s.eng (.husk a)).jobs ++ [job] else (s.eng (.husk a)).jobs) ∧
      ((s.copyCmd f c).eng (.husk (a + 1))).jobs = if le then (s.eng (.husk (a + 1))).jobs else (s.eng (.husk (a + 1))).jobs ++ [job] := by
  intro job le
  have hne : (a + 1).toNat ≠ a.toNat := by
    have : ∀ a : BitVec 2, (a + 1).toNat ≠ a.toNat := by decide
    exact this a
  have heng (e i : BitVec 2) (g : Engine → Engine) : (s.modEng (.husk e) g).eng (.husk i) =
      if i.toNat = e.toNat then g (s.eng (.husk i)) else s.eng (.husk i) := by
    refine (SMap.get_modify _ _ _ _ _).trans ?_
    split
    case isTrue h => rw [← h]; rfl
    case isFalse => rfl
  have hput (e : BitVec 2) (he : s.copyEngine f = some e) : (s.copyCmd f c).func f = { s.func f with cmds := rest } ∧
      ∀ i : BitVec 2, ((s.copyCmd f c).eng (.husk i)).jobs =
        if i.toNat = e.toNat then (s.eng (.husk i)).jobs ++ [job] else (s.eng (.husk i)).jobs := by
    rw [State.copyCmd, he]
    refine ⟨?_, fun i => ?_⟩
    · rw [State.func_modFunc_self]
      change { s.func f with cmds := (s.func f).cmds.tail } = _
      rw [hc]
      rfl
    · change ((s.modEng (.husk e) (fun g => { g with jobs := g.jobs ++ [job], st := .running })).eng (.husk i)).jobs = _
      rw [heng]
      split <;> rfl
  have hce : s.copyEngine f = if le then some a else some (a + 1) := by
    rw [State.copyEngine, ← ha]
    by_cases hle : le
    · have hlt : (s.eng (.husk a)).jobs.length < 8 := by simp only [le] at hle; omega
      rw [if_pos (by rw [Bool.and_eq_true, decide_eq_true_eq, decide_eq_true_eq]; exact ⟨hle, hlt⟩), if_pos hle]
    · have hlt : (s.eng (.husk (a + 1))).jobs.length < 8 := by simp only [le] at hle; omega
      rw [if_neg (by rw [Bool.and_eq_true, decide_eq_true_eq, decide_eq_true_eq]; exact fun h => hle h.1), if_pos hlt, if_neg hle]
  by_cases hle : le
  · obtain ⟨h1, h2⟩ := hput a (by rw [hce, if_pos hle])
    refine ⟨h1, ?_, ?_⟩
    · rw [h2, if_pos rfl, if_pos hle]
    · rw [h2, if_neg hne, if_pos hle]
  · obtain ⟨h1, h2⟩ := hput (a + 1) (by rw [hce, if_neg hle])
    refine ⟨h1, ?_, ?_⟩
    · rw [h2, if_neg (Ne.symm hne), if_neg hle]
    · rw [h2, if_pos rfl, if_neg hle]

@[simp] theorem func_invAll (s : State) (f g : FuncNo) : (s.invAll f).func g = s.func g := by
  obtain ⟨_, _, _, _, e⟩ := invAll_eq s f
  rw [e]
  rfl

/-- SETPT sets the root of the page table and removes the function's translations (R319). -/
theorem setpt_sets (hc : (s.func f).cmds = c :: rest) (root : DWord) :
    (((s.modFunc f (fun x => { x with ptr := root })).invAll f).endCmd f 0 0).func f = { (s.func f).ended c rest 0 0 with ptr := root } ∧
      ∀ t, ∀ l ∈ ((((s.modFunc f (fun x => { x with ptr := root })).invAll f).endCmd f 0 0).tile t).tlb, l.func ≠ f := by
  have htlb (t : TileId) := (invAll_tile (s.modFunc f (fun x => { x with ptr := root })) f t).2
  have hset : ((s.modFunc f (fun x => { x with ptr := root })).invAll f).func f = { s.func f with ptr := root } := by
    rw [func_invAll, State.func_modFunc_self]
  generalize (s.modFunc f (fun x => { x with ptr := root })).invAll f = v at htlb hset
  refine ⟨?_, htlb⟩
  rw [func_endCmd (c := c) (rest := rest) (by rw [hset]; exact hc) (by decide), hset]
  rfl

theorem quiesceCmd_empty (hc : (s.func f).cmds = c :: rest) (hnone : s.tilesOf f = []) :
    (s.quiesceCmd f c).func f = { (s.func f).ended c rest 0 0 with st := .idle } := by
  rw [State.quiesceCmd, hnone]
  dsimp only [List.head?_nil]
  rw [func_endCmd (c := c) (rest := rest) (by rw [State.func_modFunc_self]; exact hc) (by decide), State.func_modFunc_self]
  rfl

theorem quiesceCmd_begins {t : TileId} (hc : (s.func f).cmds = c :: rest) (ht : (s.tilesOf f).head? = some t) :
    (s.quiesceCmd f c).func f = { s.func f with cmds := { c with started := true } :: rest, qreq := true, st := .quiescing } ∧
      (s.quiesceCmd f c).th t 0 = { s.th t 0 with sws := true } := by
  rw [State.quiesceCmd, ht]
  refine ⟨?_, (State.modTh_onlyThread _ t 0 _).2⟩
  change (s.modFunc f (fun x => { x with qreq := true, st := .quiescing }.modHead (fun _ => { c with started := true }))).func f = _
  rw [State.func_modFunc_self, Func.modHead]
  dsimp only
  rw [hc]

/-- A MSG with credit and a response tag leaves (R214, R241). -/
theorem msgCmd_sends {i tag : Nat} (hc : (s.func f).cmds = c :: rest) (hcopy : s.copying f = false)
    (hf : (s.tile (hTile (c.word 2))).func = some f) (hi : (s.sendSide (cmdSender f)).find (c.word 2) = some i)
    (href : ((s.sendSide (cmdSender f)).entry i).refused = false)
    (hb : ringBytes c.msgWords ≤ ((s.sendSide (cmdSender f)).entry i).bytes)
    (ht : (s.sendSide (cmdSender f)).freeTag = some tag) : ∃ k, (s.msgCmd f c).func f = { s.func f with cmds := { c with started := true } :: rest } ∧
      (s.msgCmd f c).net = s.net ++ [k] ∧ k.dst = .tile (hTile (c.word 2)) ∧
      k.body = .msg ⟨0, 0xFFF, BitVec.ofNat 4 (1 + 4 * (f.toNat % 2)), some f, bits (c.word 3) 0 16,
        (List.range c.msgWords).map (fun j => c.word (4 + j)), c.word 2, true, tag, some .package⟩ := by
  have hready : (s.sendSide (cmdSender f)).ready (c.word 2) (ringBytes c.msgWords) = true := by
    rw [SendSide.ready, hi]
    simp [hb]
  have hcred : (s.sendSide (cmdSender f)).credited (c.word 2) = true := by
    rw [SendSide.credited, hi]
    simp [href]
  have hfree : ((s.modSend (cmdSender f) (fun y => y.use (c.word 2) (ringBytes c.msgWords))).sendSide (cmdSender f)).freeTag = some tag := by
    rw [cmdSender, sendSide_modSend_cmd, SendSide.freeTag_use]
    exact ht
  obtain ⟨k, hs, he, hdst, hbody⟩ := emit_cmd hfree (.command f) ⟨0, 0xFFF, BitVec.ofNat 4 (1 + 4 * (f.toNat % 2)), some f, bits (c.word 3) 0 16,
    (List.range c.msgWords).map (fun j => c.word (4 + j)), c.word 2, true, 0, some .package⟩ []
  rw [State.msgCmd]
  dsimp only
  rw [if_neg (by simp [hcopy]), if_neg (by simp [hf]), if_neg (by simp [hready]), if_neg (by simp [ht]), hcred]
  refine ⟨k, ?_, ?_, hdst, hbody⟩
  · rw [State.func_modFunc_self]
    change Func.modHead (State.func (State.emit _ (.cmd _) _ _ _ _) f) _ = _
    rw [he]
    exact modHead_eq hc _
  · change (State.emit _ (.cmd _) _ _ _ _).net = _
    rw [he]
    rfl

/-- The last words of a PMEM are in program memory, 14 bits of each (R447). -/
theorem pmemLoads {k : Instr} {v : State} {b : List Byte} (e : exec k s = .next (v.pmemWords f c b))
    (hv : v.func f = s.func f) (htiles : v.tiles = s.tiles) (hc : (s.func f).cmds = c :: rest)
    (hr : v.tileReady (bits (c.word 4) 0 12) = true) (hgot : c.got = 0) (hb : b.length = 2 * (c.word 6).toNat) :
    ∃ u, exec k s = .next u ∧ u.func f = (s.func f).ended c rest 0 0 ∧
      ∀ a, a < 16384 → SMap.get 0 (u.tile (bits (c.word 4) 0 12)).pmem a =
        if (c.word 5).toNat ≤ a ∧ a < (c.word 5).toNat + (c.word 6).toNat then
          (b.getD (2 * (a - (c.word 5).toNat) + 1) 0 ++ b.getD (2 * (a - (c.word 5).toNat)) 0).extractLsb' 0 14
        else SMap.get 0 (s.tile (bits (c.word 4) 0 12)).pmem a := by
  obtain ⟨hfunc, htile⟩ := pmemWords_loads (s := v) (by rw [hv]; exact hc) rfl hr hgot hb
  refine ⟨_, e, by rw [hfunc, hv], fun a _ => ?_⟩
  rw [htile, Tile.pmem_loadWords, State.tile, State.tile, htiles]

theorem pmemWords_waits {v : State} {b : List Byte} (hr : v.tileReady (bits (c.word 4) 0 12) = false)
    (hc : (v.func f).cmds = c :: rest) : (v.pmemWords f c b).tiles = v.tiles ∧
      (v.pmemWords f c b).func f = { v.func f with cmds := { c with data := some b } :: rest } := by
  obtain ⟨d, hd⟩ := wakeTile_eq (v.modFunc f (fun x => x.modHead (fun _ => { c with data := some b }))) (bits (c.word 4) 0 12)
  rw [State.pmemWords]
  dsimp only
  rw [if_pos (by rw [hr]; rfl), hd]
  refine ⟨rfl, ?_⟩
  rw [← modHead_eq hc (fun _ => { c with data := some b })]
  exact State.func_modFunc_self v f (fun x => x.modHead (fun _ => { c with data := some b }))

end Commands

/-- Settles O39: each row is the meaning of the command at the head. -/
theorem ringCommands : Obligations.RingCommands := by
  unfold Obligations.RingCommands
  refine ⟨fun s f c rest p i tag => ?_, fun s f c rest p tag bytes => ?_⟩
  · intro x w op code takes ended ends begun t4 t2 h2 mask ready waits still4 root na nb job n b u0 ss hc hs hno
    have htakes : takes ↔ accepts x.st op = true := (accepts_iff x.st op).symm
    have hfinish (k : Instr) (st : Byte) (r : DWord) (hst : st ≠ 3) (e : exec k s = .next (s.endCmd f st r)) : ends k st r :=
      ends_of e hc hst
    refine ⟨fun e he hop hb => ?_, fun e he hop hb hno' => ?_, fun hb ht => ?_⟩
    · obtain ⟨body, hr⟩ := mem_headRows (s := s) he
      refine ⟨_, exec_head hc hs hno hr hop, ?_⟩
      rw [if_pos hb]
      exact func_endCmd_format hc 0
    · obtain ⟨body, hr⟩ := mem_headRows (s := s) he
      refine hfinish e.1 1 0 (by decide) ((exec_head hc hs hno hr hop).trans ?_)
      have hacc : ¬accepts x.st e.2 = true := by rw [← hop]; exact mt htakes.2 hno'
      dsimp only
      rw [if_neg (by simp [hb]), if_pos (by simpa using hacc)]
    · have run (k : Instr) (o : Byte) (body : Cmd → State → State) (hr : (k, o, body) ∈ headRows s f) (hop : op = o) :
          exec k s = .next (body c s) := exec_head_takes hc hs hno hr hop hb (htakes.1 ht)
      have hready (t : TileId) : s.tileReady t = true ↔ ready t := tileReady_iff t
      have epmem (hop : op = 0x10) : exec (.pmem f) s = .next (s.pmemCmd f c) := run (.pmem f) _ (fun c s => s.pmemCmd f c) (by simp [headRows]) hop
      have etctl (hop : op = 0x11) : exec (.tctl f) s = .next (s.tctlCmd f c) := run (.tctl f) _ (fun c s => s.tctlCmd f c) (by simp [headRows]) hop
      have estart (hop : op = 0x12) : exec (.start f) s = .next (s.startCmd f c) := run (.start f) _ (fun c s => s.startCmd f c) (by simp [headRows]) hop
      have esetpt (hop : op = 0x40) : exec (.setpt f) s = .next (s.setptCmd f c) := run (.setpt f) _ (fun c s => s.setptCmd f c) (by simp [headRows]) hop
      have equiesce (hop : op = 0x50) : exec (.quiesce f) s = .next (s.quiesceCmd f c) := run (.quiesce f) _ (fun c s => s.quiesceCmd f c) (by simp [headRows]) hop
      have hstill : (s.tile t4).stopped 15 = true ↔ still4 := stopped_15_iff _
      have hpmem : s.pmemCmd f c = if !((s.tile t4).stopped 15) then s.endCmd f 1 0
        else if (s.tile t4).func ≠ some f then s.endCmd f 4 0
        else if 16384 < (w 6).toNat || 16384 < (w 5).toNat + (w 6).toNat then s.endCmd f 2 0
        else if (w 6).toNat = 0 then s.endCmd f 0 0
        else if !(s.tileReady t4) then s.wakeTile t4
        else s.pmemAsk f c := rfl
      have hstart : ∃ u, s.startCmd f c = if (s.tile t2).func ≠ some f then s.endCmd f 4 0
        else if mask = 0 then s.endCmd f 0 0
        else if !(s.tileReady t2) then s.wakeTile t2
        else u := ⟨_, rfl⟩
      obtain ⟨started, hstart⟩ := hstart
      have hsetpt : s.setptCmd f c = if hbmEnd ≤ root.toNat then s.endCmd f 2 0
        else ((s.modFunc f (fun x => { x with ptr := root })).invAll f).endCmd f 0 0 := rfl
      have hrest (h : still4) : ¬(!((s.tile t4).stopped 15)) = true := by
        rw [hstill.2 h]
        exact Bool.false_ne_true
      have hoff (t : TileId) (h : ¬ready t) : (!(s.tileReady t)) = true := by
        rw [Bool.eq_false_of_not_eq_true (mt (hready t).1 h)]
        rfl
      have htctl : s.tctlCmd f c = if (s.th t2 h2).run ≠ .stopped then s.endCmd f 1 0
        else if (s.tile t2).func ≠ some f then s.endCmd f 4 0
        else if !(s.tileReady t2) then s.wakeTile t2
        else (s.modTh t2 h2 (fun x => { x with pc := bits (w 3) 0 14, slv := false, moved := 0, part := [] })).endCmd f 0 0 := rfl
      refine ⟨fun hop => ?_, fun hop => ?_, fun hop hns => ?_, fun hop hst hf => ?_, fun hop hst hf hlen => ?_, fun hop hst hf hlen => ?_,
        fun hop hrun => ?_, fun hop hrun hf hnr => ?_, fun hop hf => ?_, fun hop hf hm => ?_, fun hop hf hm hnr => ?_, fun hop hrun hf => ?_,
        fun hop hrun hf hr => ?_, fun hop hf hr hsome => ?_, fun hop hroom => ?_, fun hop hcopy hf hi href hb ht => ?_,
        fun hop hroot => ?_, fun hop hroot => ?_, fun hop hnone => ?_, fun t hop ht => ?_⟩
      · exact hfinish _ _ _ (by decide) (run (.cmdNop f) 1 (fun _ s => s.endCmd f 0 0) (by simp [headRows]) hop)
      · exact hfinish _ _ _ (by decide) (run (.cmdStatus f) 2 (fun _ s => s.endCmd f 0 (s.fnStat f)) (by simp [headRows]) hop)
      · refine hfinish _ _ _ (by decide) ((epmem hop).trans ?_)
        rw [hpmem, if_pos (by simpa [← hstill] using hns)]
      · refine hfinish _ _ _ (by decide) ((epmem hop).trans ?_)
        rw [hpmem, if_neg (hrest hst), if_pos hf]
      · refine hfinish _ _ _ (by decide) ((epmem hop).trans ?_)
        rw [hpmem, if_neg (hrest hst), if_neg (by simp [hf]), if_pos (by simp [hlen])]
      · have hlong : ¬(16384 < (w 6).toNat || 16384 < (w 5).toNat + (w 6).toNat) = true := by
          simp only [Bool.or_eq_true, decide_eq_true_eq]
          omega
        have e : exec (.pmem f) s = .next (if (w 6).toNat = 0 then s.endCmd f 0 0 else if !(s.tileReady t4) then s.wakeTile t4
            else s.pmemAsk f c) := by
          rw [epmem hop, hpmem, if_neg (hrest hst), if_neg (by simp [hf]), if_neg hlong]
        have hzero : (w 6).toNat = 0 ↔ w 6 = 0 := toNat_eq_zero_iff _
        refine ⟨fun h0 => ?_, fun h0 hnr => ?_, fun h0 hr hp hroom => ?_⟩
        · refine hfinish _ _ _ (by decide) (e.trans ?_)
          rw [if_pos (hzero.2 h0)]
        · refine waits_of (e.trans ?_) hnr
          rw [if_neg (mt hzero.1 h0), if_pos (hoff t4 hnr)]
        · rw [if_neg (mt hzero.1 h0), if_neg (by simp [(hready t4).2 hr])] at e
          exact ⟨_, _, e, pmemAsk_leaves hc hp hroom⟩
      · refine hfinish _ _ _ (by decide) ((etctl hop).trans ?_)
        rw [htctl, if_pos hrun]
      · refine waits_of ((etctl hop).trans ?_) hnr
        rw [htctl, if_neg (by simp [hrun]), if_neg (by simp [hf]), if_pos (hoff t2 hnr)]
      · refine hfinish _ _ _ (by decide) ((estart hop).trans ?_)
        rw [hstart, if_pos hf]
      · refine hfinish _ _ _ (by decide) ((estart hop).trans ?_)
        rw [hstart, if_neg (not_not.2 hf), if_pos hm]
      · refine waits_of ((estart hop).trans ?_) hnr
        rw [hstart, if_neg (not_not.2 hf), if_neg hm, if_pos (hoff t2 hnr)]
      · refine hfinish _ _ _ (by decide) ((etctl hop).trans ?_)
        rw [htctl, if_neg (by simp [hrun]), if_pos hf]
      · refine ⟨_, etctl hop, ?_⟩
        rw [htctl, if_neg (by simp [hrun]), if_neg (by simp [hf]), if_neg (by simp [(hready t2).2 hr])]
        exact ⟨func_endCmd (s := s.modTh t2 h2 _) hc (by decide) 0, (State.modTh_onlyThread s t2 h2 _).2⟩
      · exact ⟨_, estart hop, startCmd_starts hc rfl rfl hf ((hready t2).2 hr) hsome⟩
      · have hsucc : BitVec.ofNat 2 (2 * (f.toNat % 2) + 1) = BitVec.ofNat 2 (2 * (f.toNat % 2)) + 1 := by
          apply BitVec.eq_of_toNat_eq
          simp
        have h := copyCmd_jobs (s := s) hc rfl (by rw [← hsucc]; exact hroom)
        rw [← hsucc] at h
        exact ⟨_, run (.copy f) 0x20 (fun c s => s.copyCmd f c) (by simp [headRows]) hop, h⟩
      · obtain ⟨k, h⟩ := msgCmd_sends hc hcopy hf hi href hb ht
        exact ⟨_, k, run (.msg f) 0x30 (fun c s => s.msgCmd f c) (by simp [headRows]) hop, h⟩
      · refine ⟨_, esetpt hop, ?_⟩
        rw [hsetpt, if_neg (by rw [hbmEnd]; exact Nat.not_le.2 hroot)]
        exact setpt_sets hc root
      · refine hfinish _ _ _ (by decide) ((esetpt hop).trans ?_)
        rw [hsetpt, if_pos (by rw [hbmEnd]; exact hroot)]
      · exact ⟨_, equiesce hop, quiesceCmd_empty hc hnone⟩
      · exact ⟨_, equiesce hop, quiesceCmd_begins hc ht⟩
  · intro x w ended t n ready loads hc hst
    have hready : s.tileReady t = true ↔ ready := tileReady_iff t
    refine ⟨fun hq hop => ?_, fun hop hgot h1 hn hend hlen => ⟨fun hport hout => ?_, fun hdata hr => ?_⟩⟩
    · have hcop : c.op = 0x50 := hop
      have hquies : x.quiescing = some c := by
        rw [Func.quiescing, hc]
        simp [show x.st = .quiescing from hq, hcop, hst]
      refine ⟨fun hquiet => ?_, fun h2 => ?_⟩
      · have e : exec (.quiesceDone f) s = .next ((s.modFunc f (fun x => { x with st := .idle, qreq := false })).endCmd f 0 0) := by
          change execQuiesceDone f s = _
          rw [execQuiesceDone, hquies, if_pos hquiet] <;> rfl
        refine ⟨_, e, rfl, ?_⟩
        rw [func_endCmd (c := c) (rest := rest) (by rw [State.func_modFunc_self]; exact hc) (by decide), State.func_modFunc_self]
        rfl
      · have e : exec (.quiesceTimeout f) s = .next (s.endCmd f 5 0) := by
          change execQuiesceTimeout f s = _
          rw [execQuiesceTimeout, hquies]
          exact congrArg _ (if_neg h2)
        exact ⟨_, e, rfl, func_endCmd hc (by decide) 0⟩
    · have hcop : c.op = 0x10 := hop
      have hwait : (s.port p).waits tag true = some (.pmem f) := by
        rw [Port.waits, hout]
        simp [OutFor.wants]
      have e : exec (.rdc p tag 0 bytes) s = .next ((s.modPort p (fun x => x.done tag)).pmemWords f c bytes) := by
        change execRdc p tag 0 bytes s = _
        rw [execRdc, State.rdcAt, if_neg (not_not.2 hport), if_neg (by omega), hwait]
        dsimp only
        rw [if_pos rfl, State.readData, State.pmemData, show ((s.modPort p (fun x => x.done tag)).func f).cmds = c :: rest from hc]
        simp [hcop, hst]
      refine ⟨fun hr => pmemLoads e rfl rfl hc (hready.2 hr) hgot hlen, fun hnr => ⟨_, e, ?_⟩⟩
      exact pmemWords_waits (v := s.modPort p (fun x => x.done tag)) (Bool.eq_false_of_not_eq_true (mt hready.1 hnr)) hc
    · have hheld : s.pmemHeld f = some (c, bytes) := by
        have hcop : c.op = 0x10 := hop
        rw [State.pmemHeld, hc]
        simp [hcop, hst, hdata]
      have e : exec (.pmem f) s = .next (s.pmemWords f c bytes) := by
        change execPmem f s = _
        rw [execPmem, hheld]
      exact pmemLoads e rfl rfl hc (hready.2 hr) hgot hlen

end Sys2Proof.Machine
end

section
/-! A reset of a function whose tile map is not in canonical order (R367, R450). It refutes the obligation O40. -/
namespace Sys2Proof.Machine

open Sys2Proof.Safety

/-- Function 0 holds tiles 5 and 3, listed in that order; its reset has begun after a machine check whose record is 1. -/
def unsortedReset : State :=
  { tiles := [(5, { func := some 0 }), (3, { func := some 0 })],
    funcs := [(0, { rst := some ⟨.begun, none⟩, mcr := true, mcrec0 := 1 })] }

theorem unsortedReset_stops : ∃ u, exec (.resetStopThreads 0) unsortedReset = .next u ∧ (u.tile 5).mcrec0 = 0 :=
  ⟨_, rfl, rfl⟩

/-- Refutes O40: the first tile that the function lists is to hold its machine-check record after the threads have stopped.
The statement ranges over every state, also one whose tiles are not listed in ascending order. There the stops put the tiles
into order before the record is written, so that another tile is then the first and takes it. -/
theorem not_functionReset : ¬Obligations.FunctionReset := by
  unfold Obligations.FunctionReset
  intro h
  obtain ⟨-, hstop, -⟩ := h unsortedReset .jtag 0 ⟨[], false, 0, none⟩ [] none 5 0 0 0
  obtain ⟨u, hu, -, hmine⟩ := hstop rfl
  obtain ⟨-, -, -, -, -, -, -, -, -, -, -, -, -, hrec⟩ := hmine rfl
  obtain ⟨hrec0, -, -⟩ := hrec rfl rfl
  obtain ⟨v, hv, hzero⟩ := unsortedReset_stops
  obtain rfl : u = v := Host.Outcome.next.inj (hu.symm.trans hv)
  rw [hzero] at hrec0
  exact absurd hrec0 (by decide)

end Sys2Proof.Machine
end

section
/-! How a function fails: its tiles, its record and its event (R366–R369, R444, R452). From them the obligation O36. -/
namespace Sys2Proof.Machine

open Sys2Proof.Safety

/-! ## The tiles of a function -/

theorem mem_tilesOf {s : State} {f : FuncNo} {t : TileId} (h : (s.tile t).func = some f) : t ∈ s.tilesOf f := by
  have hkey : ∀ m : SMap Tile, (SMap.get {} m t.toNat).func = some f → ∃ p ∈ m, p.1 = t.toNat ∧ p.2.func = some f := by
    intro m
    induction m with
    | nil => exact fun h => nomatch h
    | cons p m ih =>
      intro h
      rw [SMap.get_cons] at h
      split at h
      case isTrue hk => exact ⟨p, List.mem_cons_self .., hk, h⟩
      case isFalse =>
        obtain ⟨q, hq, hk⟩ := ih h
        exact ⟨q, List.mem_cons_of_mem _ hq, hk⟩
  obtain ⟨p, hp, hk, hf⟩ := hkey s.tiles h
  refine List.mem_map.2 ⟨p, List.mem_filter.2 ⟨hp, by simp [hf]⟩, ?_⟩
  rw [hk, BitVec.ofNat_toNat, BitVec.setWidth_eq]

/-- A change of tile after tile: what one tile's change keeps and establishes. -/
theorem foldl_tile {F : State → TileId → State} {g : TileId → Tile → Tile}
    (hF : ∀ a r t, (F a r).tile t = if t = r then g r (a.tile t) else a.tile t) {t : TileId} {I Q : Tile → Prop}
    (hg : ∀ x, I x → I (g t x) ∧ Q (g t x)) (l : List TileId) : ∀ s : State, I (s.tile t) →
      I ((l.foldl F s).tile t) ∧ (t ∈ l ∨ Q (s.tile t) → Q ((l.foldl F s).tile t)) := by
  induction l with
  | nil => exact fun s h => ⟨h, fun k => k.resolve_left (by simp)⟩
  | cons r l ih =>
    intro s h
    have hFs := hF s r t
    by_cases hr : t = r
    · subst hr
      rw [if_pos rfl] at hFs
      obtain ⟨hI, hQ⟩ := hg _ h
      obtain ⟨hI', hQ'⟩ := ih (F s t) (hFs ▸ hI)
      exact ⟨hI', fun _ => hQ' (.inr (hFs ▸ hQ))⟩
    · rw [if_neg hr] at hFs
      obtain ⟨hI', hQ'⟩ := ih (F s r) (hFs ▸ h)
      refine ⟨hI', fun k => hQ' (k.imp (fun hm => (List.mem_cons.1 hm).resolve_left hr) (fun hq => hFs ▸ hq))⟩

/-! ## Events (R444) -/

theorem sendEvent_eq (s : State) (f : FuncNo) (code : Byte) : ∃ d, s.sendEvent f code = { s with ports := d } := by
  unfold State.sendEvent
  split
  · exact ⟨s.ports, rfl⟩
  · unfold State.replyOn
    split
    · exact ⟨_, rfl⟩
    · exact ⟨s.ports, rfl⟩

/-- A function whose event of a code falls due (R444). -/
def Func.due (x : Func) (code : Byte) (result : DWord) : Func :=
  if bit x.cqb 5 && !(x.events.any (fun e => e.1 = code)) then { x with events := x.events ++ [(code, result)] } else x

theorem event_eq (s : State) (f : FuncNo) (code : Byte) (r : DWord) :
    ∃ d, s.event f code r = { s.modFunc f (fun x => x.due code r) with ports := d } :=
  sendEvent_eq (s.modFunc f (fun x => x.due code r)) f code

theorem func_event (s : State) (f g : FuncNo) (code : Byte) (r : DWord) :
    (s.event f code r).func g = if g = f then (s.func g).due code r else s.func g := by
  obtain ⟨d, e⟩ := event_eq s f code r
  rw [e]
  change (s.modFunc f (fun x => x.due code r)).func g = _
  rw [State.func_modFunc]
  split
  case isTrue h => rw [h]
  case isFalse => rfl

@[simp] theorem Func.due_st (x : Func) (code : Byte) (r : DWord) : (x.due code r).st = x.st := by
  rw [Func.due]
  split <;> rfl

@[simp] theorem Func.due_mcrec0 (x : Func) (code : Byte) (r : DWord) : (x.due code r).mcrec0 = x.mcrec0 := by
  rw [Func.due]
  split <;> rfl

theorem Func.events_due {x : Func} (hq : bit x.cqb 5 = true) (he : x.events = []) (code : Byte) (r : DWord) :
    (x.due code r).events = [(code, r)] := by
  rw [Func.due, if_pos (by simp [hq, he]), he]
  rfl

/-! ## Failing a function (R368, R369) -/

/-- A tile of a function that fails: its threads stop but the one that `keep` names, its operations and engine work end. -/
def Tile.failed (keep : Option Thr) (tl : Tile) : Tile := (tl.stopThreads keep).quell

/-- The thread of a tile that handles a machine check. -/
def keptOn (hd : Option (TileId × Thr)) (t : TileId) : Option Thr :=
  match hd with
  | some (u, k) => if u = t then some k else none
  | none => none

theorem Tile.th_failed (keep : Option Thr) (tl : Tile) (k : Thr) :
    (tl.failed keep).th k = if keep = some k then tl.th k else (tl.th k).stop := by
  have hstep (a : Tile) (h : Thr) : (if keep = some h then a else a.modTh h Thread.stop).th k =
      if k = h ∧ keep ≠ some k then (a.th k).stop else a.th k := by
    split
    case isTrue hk => rw [if_neg (by rintro ⟨rfl, h⟩; exact h hk)]
    case isFalse hk =>
      rw [Tile.th_modTh]
      by_cases h' : k = h
      · subst h'
        rw [if_pos rfl, if_pos ⟨rfl, hk⟩]
      · rw [if_neg h', if_neg (fun h => h' h.1)]
  change (tl.stopThreads keep).th k = _
  have h4 : ∀ k : Thr, k = 0 ∨ k = 1 ∨ k = 2 ∨ k = 3 := by decide
  simp only [Tile.stopThreads, List.foldl_cons, List.foldl_nil, hstep]
  obtain rfl | rfl | rfl | rfl := h4 k <;> simp

/-- What a failing tile keeps. -/
def Tile.lasting (tl : Tile) : Tile := { tl with thr := [], mx := [], cord := false, eng := {}, ceflt := false, causes := 0, c7 := 0, spell := 0 }

theorem Tile.lasting_failed (keep : Option Thr) (tl : Tile) : (tl.failed keep).lasting = tl.lasting := by
  have hstep (a : Tile) (h : Thr) : (if keep = some h then a else a.modTh h Thread.stop).lasting = a.lasting := by
    split <;> rfl
  have hstop : (tl.stopThreads keep).lasting = tl.lasting := by
    simp only [Tile.stopThreads, List.foldl_cons, List.foldl_nil, hstep]
  rw [← hstop]
  rfl

/-- The tiles of a failing function, one after the other. -/
def failTile (hd : Option (TileId × Thr)) (a : State) (t : TileId) : State :=
  (a.modTile t (Tile.failed (keptOn hd t))).dropClaim t

theorem failFunc_eq (s : State) (f : FuncNo) (hd : Option (TileId × Thr)) (w : DWord) : s.failFunc f hd w =
    (((s.tilesOf f).foldl (failTile hd) s).modFunc f (fun x =>
      { x.endQuiesce 5 with st := .failed, mcrec0 := w, handler := hd })).event f 0x80 w := rfl

theorem tile_failTile (hd : Option (TileId × Thr)) (a : State) (r t : TileId) :
    (failTile hd a r).tile t = if t = r then (a.tile t).failed (keptOn hd r) else a.tile t := by
  change (a.modTile r (Tile.failed (keptOn hd r))).tile t = _
  rw [State.tile_modTile]
  split
  case isTrue h => rw [h]
  case isFalse => rfl

theorem foldl_failTile_eq (hd : Option (TileId × Thr)) (l : List TileId) : ∀ s, ∃ a b,
    l.foldl (failTile hd) s = { s with tiles := a, cobs := b } := by
  induction l with
  | nil => exact fun s => ⟨s.tiles, s.cobs, rfl⟩
  | cons t l ih =>
    intro s
    obtain ⟨a, b, e⟩ := ih (failTile hd s t)
    exact ⟨a, b, e⟩

theorem failFunc_frame (s : State) (f : FuncNo) (hd : Option (TileId × Thr)) (w : DWord) : ∃ a b c d,
    s.failFunc f hd w = { s with tiles := a, cobs := b, funcs := c, ports := d } := by
  obtain ⟨a, b, e⟩ := foldl_failTile_eq hd (s.tilesOf f) s
  rw [failFunc_eq, e]
  obtain ⟨d, e'⟩ := event_eq ({ s with tiles := a, cobs := b }.modFunc f (fun x =>
      { x.endQuiesce 5 with st := .failed, mcrec0 := w, handler := hd })) f 0x80 w
  rw [e']
  exact ⟨a, b, _, d, rfl⟩

theorem endQuiesce_fields (x : Func) (st : Byte) : (x.endQuiesce st).cqb = x.cqb ∧ (x.endQuiesce st).events = x.events := by
  unfold Func.endQuiesce
  split
  · split <;> exact ⟨rfl, rfl⟩
  · exact ⟨rfl, rfl⟩

/-- The function itself. -/
theorem func_failFunc (s : State) (f g : FuncNo) (hd : Option (TileId × Thr)) (w : DWord) : (s.failFunc f hd w).func g =
    if g = f then Func.due { (s.func f).endQuiesce 5 with st := .failed, mcrec0 := w, handler := hd } 0x80 w else s.func g := by
  obtain ⟨a, b, e⟩ := foldl_failTile_eq hd (s.tilesOf f) s
  rw [failFunc_eq, e, func_event, State.func_modFunc]
  split <;> rfl

/-- The tiles of the function, and the others. -/
theorem tile_failFunc (s : State) (f : FuncNo) (hd : Option (TileId × Thr)) (w : DWord) (t : TileId) :
    ((s.failFunc f hd w).tile t).lasting = (s.tile t).lasting ∧
      (∀ k, keptOn hd t = some k → (s.failFunc f hd w).th t k = s.th t k) ∧
      ((s.tile t).func = some f → ∀ k, keptOn hd t ≠ some k → ((s.failFunc f hd w).th t k).run = .stopped) := by
  have htile : (s.failFunc f hd w).tile t = ((s.tilesOf f).foldl (failTile hd) s).tile t := by
    rw [failFunc_eq]
    obtain ⟨d, e⟩ := event_eq (((s.tilesOf f).foldl (failTile hd) s).modFunc f (fun x =>
      { x.endQuiesce 5 with st := .failed, mcrec0 := w, handler := hd })) f 0x80 w
    rw [e]
    rfl
  obtain ⟨⟨hlast, hkeep⟩, hstop⟩ := foldl_tile (tile_failTile hd) (t := t)
    (I := fun x => x.lasting = (s.tile t).lasting ∧ ∀ k, keptOn hd t = some k → x.th k = (s.tile t).th k)
    (Q := fun x => ∀ k, keptOn hd t ≠ some k → (x.th k).run = .stopped) (fun x hx => by
      refine ⟨⟨(Tile.lasting_failed _ x).trans hx.1, fun k hk => ?_⟩, fun k hk => ?_⟩
      · rw [Tile.th_failed, if_pos hk]
        exact hx.2 k hk
      · rw [Tile.th_failed, if_neg hk]
        rfl) (s.tilesOf f) s ⟨rfl, fun _ _ => rfl⟩
  refine ⟨by rw [htile]; exact hlast, fun k hk => ?_, fun hf k hk => ?_⟩
  · rw [State.th, htile]
    exact hkeep k hk
  · rw [State.th, htile]
    exact hstop (.inl (mem_tilesOf hf)) k hk

end Sys2Proof.Machine
end

section
/-! Machine checks (R286, R366–R369, R377, R452): they settle the obligation O36. -/
namespace Sys2Proof.Machine

open Sys2Proof.Safety

section OneFunction

variable {s : State} {mc : McReport} {f : FuncNo} {part : Bool}

theorem owners_of_tile {t : TileId} (h5 : mc.src ≠ 5) (ht : mc.tile = some t) (hf : (s.tile t).func = some f) : s.mcOwners mc = [f] := by
  rw [State.mcOwners, if_neg h5, ht]
  dsimp only
  rw [hf]
  rfl

theorem owners_of_none (hs : mc.src = 3 ∨ mc.src = 4 ∨ mc.src = 6 ∨ mc.src = 7) (ht : mc.tile = none) (hf : mc.func = f) :
    s.mcOwners mc = [f] := by
  rw [State.mcOwners, ht]
  obtain h | h | h | h := hs <;> simp [h, hf]

/-- A report of one function (R366). -/
theorem exec_machineCheck (ha : s.alive = true) (h1 : 1 ≤ mc.src.toNat) (h7 : mc.src.toNat ≤ 7) (ho : s.mcOwners mc = [f]) :
    exec (.machineCheck mc) s = .next (s.mcFunc { mc with func := f } f false) := by
  have h0 : mc.src ≠ 0 := by
    intro h
    rw [h] at h1
    exact absurd h1 (by decide)
  have h8 : mc.src ≠ 8 := by
    intro h
    rw [h] at h7
    exact absurd h7 (by decide)
  have h9 : mc.src ≠ 9 := by
    intro h
    rw [h] at h7
    exact absurd h7 (by decide)
  have hgo : ¬(!s.alive || mc.src = 0 || 9 < mc.src.toNat) = true := by
    rw [ha, Bool.not_true, Bool.false_or, Bool.or_eq_true, decide_eq_true_eq, decide_eq_true_eq]
    exact fun h => h.elim h0 (by omega)
  change execMachineCheck mc s = _
  rw [execMachineCheck, ho, if_neg hgo, if_neg (by omega), List.foldl_cons, List.foldl_nil, State.machineCheck]
  dsimp only
  rw [if_neg h8, if_neg h9]

/-- A running function fails by the check that a thread of it meets (R367, R368). -/
theorem mcFunc_own {t : TileId} {h : Thr} {r : McReport} (hst : (s.func f).st = .running) (hf : (s.tile t).func = some f)
    (hr : r.reader = some (t, h)) : s.mcFunc r f part =
      ((s.modTile t (fun tl => tl.mcRecord r (mcWord r f part true h) (s.th t h).pc true)).failFunc f (some (t, h))
        (mcWord r f part true h)).modTile t (fun tl =>
          if tl.vectorBad true 0 then tl.mcOvf else (tl.enter h true 0 (s.th t h).pc (s.th t h).pc 0 0 true).spend) := by
  have hown : r.reader.filter (fun p => (s.tile p.1).func = some f) = some (t, h) := by
    rw [hr]
    simp [Option.filter, hf]
  obtain ⟨t0, rest, hts⟩ : ∃ t0 rest, s.tilesOf f = t0 :: rest := List.exists_cons_of_ne_nil (List.ne_nil_of_mem (mem_tilesOf hf))
  unfold State.mcFunc
  dsimp only
  rw [hst, hts, hown]
  rfl

/-- A running function fails by a check that no thread of it meets: its first tile is told (R367, R369). -/
theorem mcFunc_first {t : TileId} {rest : List TileId} {r : McReport} (hst : (s.func f).st = .running) (hts : s.tilesOf f = t :: rest)
    (hr : r.reader = none) : s.mcFunc r f part =
      ((s.modTile t (fun tl => tl.mcRecord r (mcWord r f part false 0) (s.th t 0).pc false)).failFunc f (some (t, 0))
        (mcWord r f part false 0)).modTh t 0 (fun x =>
          { x with mcp := true, run := if x.run = .halted then .halted else if x.run = .stopped then .running else x.run }) := by
  unfold State.mcFunc
  dsimp only
  rw [hst, hts, hr]
  rfl

theorem Tile.mcRecord_fresh {tl : Tile} (h : bit tl.mcrec0 22 = false) (r : McReport) (w : DWord) (pc : PWord) (sync : Bool) :
    tl.mcRecord r w pc sync =
      { tl with mcrec0 := w, mcrec1 := r.pa.setWidth 64, mcrec2 := mcVa r, mcrec3 := if sync then pc.setWidth 64 else 0 } := by
  rw [Tile.mcRecord, h]
  rfl

/-- The handling thread as it enters at M (R356). -/
theorem Tile.th_enterM (tl : Tile) (h : Thr) (pc : PWord) :
    (tl.enter h true 0 pc pc 0 0 true).th h =
      { tl.th h with st := { (tl.th h).st with pl := 3, ie := false, ss := false, rep := false }, pc := SMap.get 0 tl.pmem (tl.mvbase + 0).toNat, run := .running, blk := none, moved := 0, part := [], walk := none, wait := none, mxc := (0#4) ++ (0 : BitVec 4) ++ (0#2) ++ pc ++ (0#1) ++ (tl.th h).st.pl ++ (0 : BitVec 5), mxa := 0, mepc := pc, mestat := statusWord h (tl.th h).st } := by
  rw [Tile.enter, Tile.th_modTh_self]
  rfl

theorem keptOn_ne {t q : TileId} {h k : Thr} (hne : (q, k) ≠ (t, h)) : keptOn (some (t, h)) q ≠ some k := by
  intro e
  rw [keptOn] at e
  split at e
  case isTrue heq => exact hne (by rw [heq, Option.some.inj e])
  case isFalse => exact nomatch e

/-- The machine check that a thread's own load meets. -/
theorem mcFunc_sync {t : TileId} {h : Thr} {r : McReport} (hst : (s.func f).st = .running) (hf : (s.tile t).func = some f)
    (hr : r.reader = some (t, h)) (hvec : SMap.get false (s.tile t).pbad (s.tile t).mvbase.toNat = false)
    (hfree : bit (s.tile t).mcrec0 22 = false) :
    let u := s.mcFunc r f part
    let w := mcWord r f part true h
    u.func f = Func.due { (s.func f).endQuiesce 5 with st := .failed, mcrec0 := w, handler := some (t, h) } 0x80 w ∧
      (u.tile t).mcrec0 = w ∧ (u.tile t).mcrec1 = r.pa.setWidth 64 ∧ (u.tile t).mcrec2 = mcVa r ∧
      (u.tile t).mcrec3 = (s.th t h).pc.setWidth 64 ∧
      u.th t h = { s.th t h with st := { (s.th t h).st with pl := 3, ie := false, ss := false, rep := false }, pc := SMap.get 0 (s.tile t).pmem (s.tile t).mvbase.toNat, run := .running, blk := none, moved := 0, part := [], walk := none, wait := none, mxc := (0#4) ++ (0 : BitVec 4) ++ (0#2) ++ (s.th t h).pc ++ (0#1) ++ (s.th t h).st.pl ++ (0 : BitVec 5), mxa := 0, mepc := (s.th t h).pc, mestat := statusWord h (s.th t h).st } ∧
      (∀ q k, (s.tile q).func = some f → (q, k) ≠ (t, h) → (u.th q k).run = .stopped) ∧ u.hbm = s.hbm := by
  intro u w
  have hu := mcFunc_own (part := part) hst hf hr
  rw [show s.mcFunc r f part = u from rfl] at hu
  have hrec (q : TileId) : (s.modTile t (fun tl => tl.mcRecord r w (s.th t h).pc true)).tile q =
      if q = t then { s.tile t with mcrec0 := w, mcrec1 := r.pa.setWidth 64, mcrec2 := mcVa r, mcrec3 := (s.th t h).pc.setWidth 64 } else s.tile q := by
    rw [State.tile_modTile]
    split
    case isTrue => exact Tile.mcRecord_fresh hfree ..
    case isFalse => rfl
  have hth (q : TileId) (k : Thr) : (s.modTile t (fun tl => tl.mcRecord r w (s.th t h).pc true)).th q k = s.th q k := by
    rw [State.th, hrec]
    split
    case isTrue e => rw [e]; rfl
    case isFalse => rfl
  have hfunc := func_failFunc (s.modTile t (fun tl => tl.mcRecord r w (s.th t h).pc true)) f f (some (t, h)) w
  rw [if_pos rfl] at hfunc
  have htile := tile_failFunc (s.modTile t (fun tl => tl.mcRecord r w (s.th t h).pc true)) f (some (t, h)) w
  obtain ⟨_, _, _, _, hframe⟩ := failFunc_frame (s.modTile t (fun tl => tl.mcRecord r w (s.th t h).pc true)) f (some (t, h)) w
  have hhbm := congrArg State.hbm hframe
  generalize (s.modTile t (fun tl => tl.mcRecord r w (s.th t h).pc true)).failFunc f (some (t, h)) w = v at hu hfunc htile hhbm
  obtain ⟨hlast, hkeep, -⟩ := htile t
  rw [hrec, if_pos rfl] at hlast
  have hkept : v.th t h = s.th t h := (hkeep h (by simp [keptOn])).trans (hth t h)
  have hpbad := congrArg Tile.pbad hlast
  have hmv := congrArg Tile.mvbase hlast
  have hpmem := congrArg Tile.pmem hlast
  change (v.tile t).pbad = (s.tile t).pbad at hpbad
  change (v.tile t).mvbase = (s.tile t).mvbase at hmv
  change (v.tile t).pmem = (s.tile t).pmem at hpmem
  have hgood : ¬(v.tile t).vectorBad true 0 = true := by
    rw [Tile.vectorBad, hpbad, hmv]
    simpa using hvec
  have hut : u.tile t = ((v.tile t).enter h true 0 (s.th t h).pc (s.th t h).pc 0 0 true).spend := by
    rw [hu, State.tile_modTile_self, if_neg hgood]
  refine ⟨?_, ?_, ?_, ?_, ?_, ?_, fun q k hq hne => ?_, ?_⟩
  · rw [hu]
    exact hfunc
  · rw [hut]
    exact congrArg Tile.mcrec0 hlast
  · rw [hut]
    exact congrArg Tile.mcrec1 hlast
  · rw [hut]
    exact congrArg Tile.mcrec2 hlast
  · rw [hut]
    exact congrArg Tile.mcrec3 hlast
  · rw [State.th, hut, Tile.spend_th, Tile.th_enterM, show (v.tile t).th h = s.th t h from hkept, hpmem, hmv, show (s.tile t).mvbase + 0 = (s.tile t).mvbase from BitVec.add_zero _]
  · have hq' : ((s.modTile t (fun tl => tl.mcRecord r w (s.th t h).pc true)).tile q).func = some f := by
      rw [hrec]
      split
      case isTrue => exact hf
      case isFalse => exact hq
    have hrun := (htile q).2.2 hq' k (keptOn_ne hne)
    rw [hu, State.th, State.tile_modTile]
    split
    case isTrue e =>
      subst e
      rw [Tile.spend_th, Tile.enter, Tile.th_modTh, if_neg (fun e => hne (by rw [e]))]
      exact hrun
    case isFalse => exact hrun
  · rw [hu]
    exact hhbm

/-- A machine check that no thread of the function meets: the first thread of its first tile is told. -/
theorem mcFunc_told {t : TileId} {rest : List TileId} {r : McReport} (hst : (s.func f).st = .running)
    (hts : s.tilesOf f = t :: rest) (hr : r.reader = none) (hfree : bit (s.tile t).mcrec0 22 = false) :
    let u := s.mcFunc r f part
    let w := mcWord r f part false 0
    (u.func f).st = .failed ∧ (u.func f).mcrec0 = w ∧ (u.tile t).mcrec0 = w ∧ (u.tile t).mcrec1 = r.pa.setWidth 64 ∧
      (u.th t 0).mcp = true ∧ (u.th t 0).run = (if (s.th t 0).run = .stopped then .running else (s.th t 0).run) ∧
      (∀ q k, (s.tile q).func = some f → (q, k) ≠ (t, 0) → (u.th q k).run = .stopped) ∧ u.hbm = s.hbm := by
  intro u w
  have hu := mcFunc_first (part := part) hst hts hr
  rw [show s.mcFunc r f part = u from rfl] at hu
  have hrec (q : TileId) : (s.modTile t (fun tl => tl.mcRecord r w (s.th t 0).pc false)).tile q =
      if q = t then { s.tile t with mcrec0 := w, mcrec1 := r.pa.setWidth 64, mcrec2 := mcVa r, mcrec3 := 0 } else s.tile q := by
    rw [State.tile_modTile]
    split
    case isTrue => exact Tile.mcRecord_fresh hfree ..
    case isFalse => rfl
  have hth : (s.modTile t (fun tl => tl.mcRecord r w (s.th t 0).pc false)).th t 0 = s.th t 0 := by
    rw [State.th, hrec, if_pos rfl]
    rfl
  have hfunc := func_failFunc (s.modTile t (fun tl => tl.mcRecord r w (s.th t 0).pc false)) f f (some (t, 0)) w
  rw [if_pos rfl] at hfunc
  have htile := tile_failFunc (s.modTile t (fun tl => tl.mcRecord r w (s.th t 0).pc false)) f (some (t, 0)) w
  obtain ⟨_, _, _, _, hframe⟩ := failFunc_frame (s.modTile t (fun tl => tl.mcRecord r w (s.th t 0).pc false)) f (some (t, 0)) w
  have hhbm := congrArg State.hbm hframe
  generalize (s.modTile t (fun tl => tl.mcRecord r w (s.th t 0).pc false)).failFunc f (some (t, 0)) w = v at hu hfunc htile hhbm
  obtain ⟨hlast, hkeep, -⟩ := htile t
  rw [hrec, if_pos rfl] at hlast
  have hkept : v.th t 0 = s.th t 0 := (hkeep 0 (by simp [keptOn])).trans hth
  have htold := (State.modTh_onlyThread v t 0 (fun x =>
    { x with mcp := true, run := if x.run = .halted then .halted else if x.run = .stopped then .running else x.run })).2
  rw [← hu, hkept] at htold
  have hfu : u.func f = v.func f := by rw [hu]; rfl
  refine ⟨?_, ?_, ?_, ?_, ?_, ?_, fun q k hq hne => ?_, ?_⟩
  · rw [hfu, hfunc, Func.due_st]
  · rw [hfu, hfunc, Func.due_mcrec0]
  · rw [hu, State.modTh, State.tile_modTile_self]
    exact congrArg Tile.mcrec0 hlast
  · rw [hu, State.modTh, State.tile_modTile_self]
    exact congrArg Tile.mcrec1 hlast
  · rw [htold]
  · rw [htold]
    cases (s.th t 0).run <;> rfl
  · have hq' : ((s.modTile t (fun tl => tl.mcRecord r w (s.th t 0).pc false)).tile q).func = some f := by
      rw [hrec]
      split
      case isTrue e => rw [← e]; exact hq
      case isFalse => exact hq
    have hrun := (htile q).2.2 hq' k (keptOn_ne hne)
    rw [hu, State.th, State.modTh, State.tile_modTile]
    split
    case isTrue e =>
      subst e
      rw [Tile.th_modTh, if_neg (fun e => hne (by rw [e]))]
      exact hrun
    case isFalse => exact hrun
  · rw [hu]
    exact hhbm

end OneFunction

/-! ## The part leaves service (R452) -/

/-- Between `s` and `u` the functions alone may fail: the state of the part's service is as it was, and a function that has failed,
is absent or is being reset stays so. -/
structure Fails (s u : State) : Prop where
  unrec : u.unrec = s.unrec
  reason : u.reason = s.reason
  lands : u.lands = s.lands
  funcs : ∀ g, (u.func g).st = (s.func g).st ∨ (u.func g).st = .failed ∧ (s.func g).st ≠ .absent ∧ (s.func g).st ≠ .resetting

theorem Fails.refl (s : State) : Fails s s := ⟨rfl, rfl, rfl, fun _ => .inl rfl⟩

theorem Fails.trans {s u v : State} (h : Fails s u) (k : Fails u v) : Fails s v where
  unrec := k.unrec.trans h.unrec
  reason := k.reason.trans h.reason
  lands := k.lands.trans h.lands
  funcs g := by
    obtain hg | ⟨hg, h1, h2⟩ := k.funcs g
    · rw [hg]
      exact h.funcs g
    · obtain hs | ⟨-, h3, h4⟩ := h.funcs g
      · exact .inr ⟨hg, hs ▸ h1, hs ▸ h2⟩
      · exact .inr ⟨hg, h3, h4⟩

theorem Fails.of_frame {s u : State} (h : u.unrec = s.unrec ∧ u.reason = s.reason ∧ u.lands = s.lands) (hf : u.funcs = s.funcs) : Fails s u :=
  ⟨h.1, h.2.1, h.2.2, fun g => .inl (by rw [State.func, hf]; rfl)⟩

theorem fails_failFunc {s : State} {f : FuncNo} (h1 : (s.func f).st ≠ .absent) (h2 : (s.func f).st ≠ .resetting)
    (hd : Option (TileId × Thr)) (w : DWord) : Fails s (s.failFunc f hd w) := by
  obtain ⟨a, b, c, d, e⟩ := failFunc_frame s f hd w
  refine ⟨by rw [e], by rw [e], by rw [e], fun g => ?_⟩
  rw [func_failFunc]
  split
  case isTrue h => rw [h, Func.due_st]; exact .inr ⟨rfl, h1, h2⟩
  case isFalse => exact .inl rfl

theorem st_failFunc (s : State) (f : FuncNo) (hd : Option (TileId × Thr)) (w : DWord) : ((s.failFunc f hd w).func f).st = .failed := by
  rw [func_failFunc, if_pos rfl, Func.due_st]

/-- A machine check of one function touches no other, and fails it unless it is absent or being reset (R367–R369). -/
theorem fails_mcFunc (s : State) (r : McReport) (f : FuncNo) (part : Bool) : Fails s (s.mcFunc r f part) ∧
    ((s.func f).st ≠ .absent → (s.func f).st ≠ .resetting → ((s.mcFunc r f part).func f).st = .failed) := by
  have hfresh (h1 : (s.func f).st ≠ .absent) (h2 : (s.func f).st ≠ .resetting) (u : State) (hu : Fails s u)
      (hfu : (u.func f).st = (s.func f).st) (hd : Option (TileId × Thr)) (w : DWord) (v : State)
      (hv : Fails (u.failFunc f hd w) v) : Fails s v ∧ (v.func f).st = .failed := by
    refine ⟨(hu.trans (fails_failFunc (hfu ▸ h1) (hfu ▸ h2) hd w)).trans hv, ?_⟩
    obtain h | ⟨h, -⟩ := hv.funcs f
    · rw [h, st_failFunc]
    · exact h
  have hreset (r : McReport) (w : DWord) : Fails s (s.modFunc f (fun x => x.mcReset r w)) := by
    refine ⟨rfl, rfl, rfl, fun g => .inl ?_⟩
    rw [State.func_modFunc]
    split
    case isTrue h =>
      rw [h, Func.mcReset]
      split <;> rfl
    case isFalse => rfl
  have htile (u : State) (t : TileId) (g : Tile → Tile) : Fails u (u.modTile t g) := .of_frame ⟨rfl, rfl, rfl⟩ rfl
  have hactive (h1 : (s.func f).st ≠ .absent) (h2 : (s.func f).st ≠ .resetting) (h3 : (s.func f).st ≠ .failed) :
      Fails s (s.mcFunc r f part) ∧ ((s.mcFunc r f part).func f).st = .failed := by
    unfold State.mcFunc
    dsimp only
    split
    case h_1 h => exact absurd h h1
    case h_2 h => exact absurd h h3
    case h_3 h => exact absurd h h2
    case h_4 =>
      split
      · exact hfresh h1 h2 s (.refl s) rfl _ _ _ (.refl _)
      · split
        · exact hfresh h1 h2 _ (htile s _ _) rfl _ _ _ (htile _ _ _)
        · exact hfresh h1 h2 _ (htile s _ _) rfl _ _ _ (htile _ _ _)
  cases hst : (s.func f).st with
  | absent =>
    rw [State.mcFunc, hst]
    exact ⟨.refl s, fun h => absurd rfl h⟩
  | resetting =>
    refine ⟨?_, fun _ h => absurd rfl h⟩
    unfold State.mcFunc
    dsimp only
    rw [hst]
    dsimp only
    split
    · split
      · exact hreset _ _
      · exact (hreset _ _).trans (htile _ _ _)
    · exact hreset _ _
  | failed =>
    have hall : Fails s (s.mcFunc r f part) ∧ (s.mcFunc r f part).funcs = s.funcs := by
      unfold State.mcFunc
      dsimp only
      rw [hst]
      dsimp only
      split <;> exact ⟨.of_frame ⟨rfl, rfl, rfl⟩ rfl, rfl⟩
    refine ⟨hall.1, fun _ _ => ?_⟩
    rw [State.func, hall.2]
    exact hst
  | idle => exact (hactive (by simp [hst]) (by simp [hst]) (by simp [hst])).imp id (fun h _ _ => h)
  | running => exact (hactive (by simp [hst]) (by simp [hst]) (by simp [hst])).imp id (fun h _ _ => h)
  | quiescing => exact (hactive (by simp [hst]) (by simp [hst]) (by simp [hst])).imp id (fun h _ _ => h)

/-- A part-wide machine check met function by function (R452). -/
theorem fails_foldl_mcFunc (r : McReport) (part : Bool) (l : List FuncNo) : ∀ s : State,
    Fails s (l.foldl (fun a f => a.mcFunc r f part) s) ∧ ∀ g, (g ∈ l ∨ (s.func g).st = .failed) → (s.func g).st ≠ .absent →
      (s.func g).st ≠ .resetting → ((l.foldl (fun a f => a.mcFunc r f part) s).func g).st = .failed := by
  induction l with
  | nil => exact fun s => ⟨.refl s, fun g h _ _ => h.resolve_left (by simp)⟩
  | cons f l ih =>
    intro s
    obtain ⟨hf, hst⟩ := fails_mcFunc s r f part
    obtain ⟨hl, hstl⟩ := ih (s.mcFunc r f part)
    refine ⟨hf.trans hl, fun g hg h1 h2 => ?_⟩
    have hkeep : ((s.mcFunc r f part).func g).st = (s.func g).st ∨ ((s.mcFunc r f part).func g).st = .failed :=
      (hf.funcs g).imp id (fun h => h.1)
    have hstill : ((s.mcFunc r f part).func g).st ≠ .absent ∧ ((s.mcFunc r f part).func g).st ≠ .resetting := by
      obtain h | h := hkeep <;> rw [h]
      · exact ⟨h1, h2⟩
      · decide
    refine hstl g ?_ hstill.1 hstill.2
    obtain hg | hg := hg
    · obtain rfl | hg := List.mem_cons.1 hg
      · exact .inr (hst h1 h2)
      · exact .inl hg
    · refine .inr (hkeep.elim (fun h => h.trans hg) id)

theorem mem_defined {s : State} {g : FuncNo} (h : (s.func g).st ≠ .absent) : g ∈ s.defined := by
  refine List.mem_filter.2 ⟨List.mem_map.2 ⟨g.toNat, List.mem_range.2 g.isLt, ?_⟩, by simpa using h⟩
  rw [BitVec.ofNat_toNat, BitVec.setWidth_eq]

theorem fails_sendFault (s : State) (b : Byte) : Fails s (s.sendFault b) := by
  rw [State.sendFault]
  generalize s.activePorts = l
  induction l generalizing s with
  | nil => exact .refl s
  | cons p l ih =>
    exact Fails.trans (.of_frame (u := s.modPort p (fun x => x.control [0x04, b])) ⟨rfl, rfl, rfl⟩ rfl) (ih _)

theorem fails_event (s : State) (f : FuncNo) (code : Byte) (w : DWord) : Fails s (s.event f code w) := by
  obtain ⟨d, e⟩ := event_eq s f code w
  refine ⟨by rw [e]; rfl, by rw [e]; rfl, by rw [e]; rfl, fun g => .inl ?_⟩
  rw [func_event]
  split
  · exact Func.due_st _ _ _
  · rfl

theorem fails_foldl_event (code : Byte) (w : DWord) (l : List FuncNo) : ∀ s : State,
    Fails s (l.foldl (fun a f => a.event f code w) s) := by
  induction l with
  | nil => exact fun s => .refl s
  | cons f l ih => exact fun s => (fails_event s f code w).trans (ih _)

/-- The part leaves service by a part-wide machine check (R452). -/
theorem leaveService_fails {s : State} {reason : Byte} {r : McReport} (hu : s.unrec = false) :
    (s.leaveService reason (some r)).unrec = true ∧ (s.leaveService reason (some r)).reason = reason ∧
      (s.leaveService reason (some r)).lands.svcflt = true ∧
      ∀ g, (s.func g).st ≠ .absent → (s.func g).st ≠ .resetting → ((s.leaveService reason (some r)).func g).st = .failed := by
  rw [State.leaveService, hu]
  dsimp only
  rw [if_neg (by decide)]
  have h := fails_foldl_mcFunc r true s.defined { s with unrec := true, reason := reason, lands := { s.lands with svcflt := true }, pt := { s.pt with answer := none, line := [], lade := false } }
  generalize s.defined.foldl (fun (a : State) f => a.mcFunc r f true) _ = u at h ⊢
  obtain ⟨hf, hst⟩ := h
  have hv := (fails_sendFault u reason).trans (fails_foldl_event 0x82 0 s.defined _)
  generalize s.defined.foldl (fun (a : State) f => a.event f 0x82 0) (u.sendFault reason) = v at hv ⊢
  refine ⟨hv.unrec.trans hf.unrec, hv.reason.trans hf.reason, by rw [hv.lands, hf.lands], fun g h1 h2 => ?_⟩
  have hg := hst g (.inl (mem_defined h1)) h1 h2
  exact (hv.funcs g).elim (fun h => h.trans hg) (fun h => h.1)

/-! ## The statement -/

theorem mcWord_own (mc : McReport) (f : FuncNo) (t : TileId) (h : Thr) (ht : mc.tile = some t) :
    mcWord mc f false true h = (0#33) ++ h ++ f ++ (0#1) ++ (1#1) ++ (1#1) ++ (0#1) ++ t ++ mc.src := by
  rw [mcWord, ht, Option.isNone_some, Option.getD_some, show (0#32) ++ b2v false = 0#33 by decide]
  rfl

theorem mcWord_none (mc : McReport) (f : FuncNo) (ht : mc.tile = none) :
    mcWord mc f false false 0 = (0#32) ++ (1#1) ++ (0#2) ++ f ++ (0#1) ++ (1#1) ++ (0#2) ++ (0xFFF#12) ++ mc.src := by
  rw [mcWord, ht]
  apply BitVec.eq_of_toNat_eq
  simp only [toNat_append_eq, b2v, Option.isNone_none, Option.getD_none]
  simp
  omega

/-- Settles O36. -/
theorem machineChecks : Obligations.MachineChecks := by
  unfold Obligations.MachineChecks
  intro s mc t h f rest x tl w told ha
  refine ⟨fun h1 h7 h5 hvec ht hr hf hst hfree => ?_, fun hr hts hst hfree => ?_, fun h5 hq => ?_, fun h89 hu => ?_⟩
  · have e := exec_machineCheck ha h1 h7 (owners_of_tile h5 ht hf)
    have hw : mcWord { mc with func := f } f false true h = w := mcWord_own { mc with func := f } f t h ht
    obtain ⟨hfunc, h0, h1', h2, h3, hth, hstop, hhbm⟩ := mcFunc_sync (part := false) (r := { mc with func := f }) hst hf hr hvec hfree
    rw [hw] at hfunc h0
    refine ⟨_, e, by rw [hfunc, Func.due_st], by rw [hfunc, Func.due_mcrec0], fun hq he => ?_, h0, h1', fun va hva => ?_, h3,
      by rw [hth], by rw [hth], by rw [hth], by rw [hth], by rw [hth], by rw [hth]; rfl, hstop, hhbm⟩
    · obtain ⟨hq', he'⟩ := endQuiesce_fields (s.func f) 5
      rw [hfunc]
      exact Func.events_due (x := { (s.func f).endQuiesce 5 with st := .failed, mcrec0 := w, handler := some (t, h) })
        ((congrArg (fun v : DWord => bit v 5) hq').trans hq) (he'.trans he) 0x80 w
    · rw [h2, mcVa]
      dsimp only
      rw [hva]
      ext i hi
      rw [← BitVec.getLsbD_eq_getElem, getLsbD_setBit _ (by decide), ← BitVec.getLsbD_eq_getElem]
      simp only [BitVec.getLsbD_setWidth, BitVec.getLsbD_append]
      split <;> simp <;> grind
  · have hgo (ho : s.mcOwners mc = [f]) (h1 : 1 ≤ mc.src.toNat) (h7 : mc.src.toNat ≤ 7) (ht : mc.tile = none) :
        told ((0#32) ++ (1#1) ++ (0#2) ++ f ++ (0#1) ++ (1#1) ++ (0#2) ++ (0xFFF#12) ++ mc.src) := by
      have hw : mcWord { mc with func := f } f false false 0 = _ := mcWord_none { mc with func := f } f ht
      obtain ⟨hfst, hf0, ht0, ht1, hmcp, hrun, hstop, hhbm⟩ := mcFunc_told (part := false) (r := { mc with func := f }) hst hts hr hfree
      rw [hw] at hf0 ht0
      exact ⟨_, exec_machineCheck ha h1 h7 ho, hfst, hf0, ht0, ht1, hmcp, hrun, hstop, hhbm⟩
    refine ⟨fun hs ht hf => hgo (owners_of_none hs ht hf) ?_ ?_ ht, fun h5 ht hq => hgo ?_ ?_ ?_ ht⟩
    · obtain h | h | h | h := hs <;> rw [h] <;> decide
    · obtain h | h | h | h := hs <;> rw [h] <;> decide
    · rw [State.mcOwners, if_pos h5, hq]
    · rw [h5]; decide
    · rw [h5]; decide
  · change execMachineCheck mc s = _
    rw [execMachineCheck, State.mcOwners, if_pos h5, hq, h5]
    simp
  · have hsrc : exec (.machineCheck mc) s = .next (s.leaveService (if mc.src = 8 then 3 else 2) (some mc)) := by
      change execMachineCheck mc s = _
      rw [execMachineCheck, State.machineCheck]
      obtain h | h := h89 <;> simp [h, ha]
    exact ⟨_, hsrc, leaveService_fails hu⟩

end Sys2Proof.Machine
end

section
/-! Die links and the census (R271–R273, R371, R379). From them the obligation O37. -/
namespace Sys2Proof.Machine

open Sys2Proof.Safety

/-! ## Frames of a die link (R271, R272) -/

theorem noisy_eq (b : List Byte) : ∀ n : List Byte, noisy b n = (List.range b.length).map (fun i => b.getD i 0 ^^^ n.getD i 0) := by
  induction b with
  | nil => exact fun n => by cases n <;> rfl
  | cons x b ih =>
    intro n
    have hrest (k : List Byte) : (x ^^^ k.getD 0 0) :: (List.range b.length).map (fun i => b.getD i 0 ^^^ k.getD (i + 1) 0) =
        (List.range (x :: b).length).map (fun i => (x :: b).getD i 0 ^^^ k.getD i 0) := by
      rw [List.length_cons, List.range_succ_eq_map, List.map_cons, List.map_map]
      rfl
    rw [← hrest]
    cases n with
    | nil =>
      have hnil := ih []
      have hself : noisy b [] = b := by cases b <;> rfl
      rw [hself] at hnil
      rw [noisy]
      · exact congrArg₂ List.cons (by simp) hnil
      · intro _ _ _ _ _ h
        exact nomatch h
    | cons y n =>
      rw [noisy, ih n]
      rfl

section Links

variable {s : State} {l : DLink} {dir : Bool}

theorem isControl_eq (n : Nat) : isControl n = decide (32 ≤ n ∧ n < 48 ∨ n = 52 ∨ n = 53) := by
  simp [isControl, Bool.decide_or, Bool.decide_and, Bool.or_assoc]

theorem satAdd_zero {n : Nat} (x : BitVec n) : satAdd x 0 = x := by
  rw [satAdd, if_pos (by rw [Nat.add_zero]; exact x.isLt), Nat.add_zero, BitVec.ofNat_toNat, BitVec.setWidth_eq]

/-- A frame of a link that does not retrain (R271, R272). -/
theorem exec_dieLinkFrame (slots noise : List Byte) (carries : List Xid) (ha : s.alive = true) (hl : l.toNat < 54)
    (hr : (s.link l).retraining = false) : exec (.dieLinkFrame l dir slots carries noise) s = .next (s.modLink l (fun x =>
      let r := ((x.dir dir).send l.toNat slots ((carries.take 4).filter (fun k => (s.routeOf k).contains (l.toNat, dir)))).receive l.toNat noise
      { x.setDir dir r.1 with crcerr := satAdd x.crcerr (b2n r.2) })) := by
  change execDieLinkFrame l dir slots carries noise s = _
  rw [execDieLinkFrame, if_neg (by simp [ha, hr, isLink, hl])]

theorem link_makes {i : Instr} {g : DieLnk → DieLnk} {y : DieLnk} (e : exec i s = .next (s.modLink l g)) (hg : g (s.link l) = y) :
    ∃ u, exec i s = .next u ∧ u = { s with links := u.links } ∧ u.link l = y :=
  ⟨_, e, rfl, by rw [State.link_modLink, if_pos rfl, hg]⟩

theorem retryWindows_of_none (h : s.winHeld = []) : s.retryWindows = s := by
  rw [State.retryWindows, h]
  change { s with winHeld := [] } = s
  rw [← h]

theorem retryWindows_modLink (h : s.winHeld = []) (g : DieLnk → DieLnk) : (s.modLink l g).retryWindows = s.modLink l g :=
  retryWindows_of_none (s := s.modLink l g) h

/-- A link that cannot recover takes the part out of service (R273, R366, R452). -/
theorem linkLost_unrec (h : s.unrec = false) : s.linkLost.unrec = true ∧ s.linkLost.reason = 2 := by
  obtain ⟨h1, h2, -⟩ := leaveService_fails (reason := 2)
    (r := { src := 9, tile := none, func := 0, pa := 0, va := none, reader := none }) h
  exact ⟨h1, h2⟩

/-- A packet that has to cross a link that retrains is held (R273). -/
theorem packet_of_retraining {id : Nat} (hr : (s.link l).retraining = true) (h : ∀ p ∈ s.net, p.id = id → (l.toNat, dir) ∈ s.pktRoute p) :
    s.packet id = none := by
  rw [State.packet]
  split
  case h_1 p r hp =>
    obtain ⟨hmem, hid⟩ := List.mem_filter.1 (hp ▸ List.mem_cons_self .. : p ∈ s.net.filter (fun p => p.id = id))
    have hholds : s.linkHolds (p.id, false) (l.toNat, dir) = true := by
      rw [State.linkHolds]
      dsimp only
      rw [BitVec.ofNat_toNat, BitVec.setWidth_eq, hr]
      rfl
    have hheld : s.pktHeld p = true := by
      rw [State.pktHeld, State.fabricHolds, List.any_eq_true.2 ⟨_, h p hmem (by simpa using hid), hholds⟩]
      rfl
    rw [hheld]
    simp
  case h_2 => rfl

end Links

theorem census_makes {i : Instr} {s : State} {f : FuncNo} {g : Func → Func} {y : Func} (e : exec i s = .next (s.modFunc f g))
    (hg : g (s.func f) = y) : ∃ u, exec i s = .next u ∧ u.func f = y ∧ u.hbm = s.hbm ∧ u.tiles = s.tiles :=
  ⟨_, e, by rw [State.func_modFunc_self, hg], rfl, rfl⟩

/-- Settles O37. -/
theorem linksAndCensus : Obligations.LinksAndCensus := by
  unfold Obligations.LinksAndCensus
  intro s l dir slots noise carries f c t id x ctl next y put fresh y1 fr check wire got body good near link resumed g ts ring works
    act quiet census replied
  have hctl : isControl l.toNat = ctl := isControl_eq _
  have hdir : x.dir dir = y := rfl
  have hnext (q : BitVec 10) : nextSeq l.toNat q = next q := by
    rw [nextSeq, linkSeqs, hctl]
  have hreply (q : Bool) (a : Byte) (busy : Bool) (hb : busy = !q) :
      { g with cns := some (c.reply c.asked q a) } = replied busy a := by
    subst hb
    simp only [replied, Census.reply]
    split <;> simp_all
  have hengine {b : Bool} (h1 : ts.length ≤ c.asked) (h2 : c.asked < ts.length + 2) (hb : s.censusEngine f (c.asked - ts.length) = b)
      (hc : g.cns = some c) (hnr : g.st ≠ .resetting) : census (.censusProbe f) (replied b 0) := by
    refine census_makes (g := fun x => { x with cns := some (c.reply c.asked (!b) 0) }) ?_ (hreply (!b) 0 b (by simp))
    change execCensusProbe f s = _
    rw [execCensusProbe, hc]
    dsimp only
    rw [if_neg (by simp [show (s.func f).st ≠ .resetting from hnr, show s.tilesOf f = ts from rfl]; omega),
      List.getElem?_eq_none h1]
    dsimp only
    rw [show s.tilesOf f = ts from rfl, hb]
  refine ⟨fun ha hl hr => ⟨fun hle hroom => ?_, fun hw hask => ?_, fun hfail hn => ?_, fun hfail hn hu => ?_⟩,
    fun hr => ⟨fun hw => ?_, fun hu => ?_, ?_, fun hroute => ?_⟩, fun hen hno hfound hna hnr hsoon => ?_, fun hc hnr => ⟨fun ht => ?_, fun hi => ?_, fun hi => ?_, fun hact => ?_, fun hact hi hround => ?_, fun hact hi hround ht => ?_⟩⟩
  · intro i
    have hsend : y.send l.toNat slots fresh.carries = y1 := by
      rw [DieDir.send, linkBuffer, hctl, hnext]
      by_cases hlt : y.sent < y.buf.length
      · simp [y1, hlt]
      · have hcap : ¬(if ctl then 32 else 64) ≤ y.buf.length := Nat.not_le.2 (hroom.resolve_left hlt)
        simp only [y1, hlt, hcap, decide_false, Bool.or_self, Bool.false_eq_true, if_false]
        rfl
    have hsent : y1.sent = y.sent := by simp only [y1]; split <;> rfl
    have hfails : y1.fails = y.fails := by simp only [y1]; split <;> rfl
    have hrx : y1.rxSeq = y.rxSeq := by simp only [y1]; split <;> rfl
    have hfr : y1.buf[y1.sent]? = some fr := by
      rw [hsent]
      by_cases hlt : y.sent < y.buf.length
      · simp [y1, hlt, fr]
      · have hend : y.sent = y.buf.length := by omega
        simp [y1, fr, hend]
    have hwire : fr.wire (isControl l.toNat) = wire := by
      rw [DieFrame.wire, hctl]
      simp only [frameCheck, bytesOf_eq_byteList]
      rfl
    have hgot : noisy (fr.wire (isControl l.toNat)) noise = got := by rw [hwire, noisy_eq]
    have hgood : goodFrame (isControl l.toNat) got = true ↔ good := by
      have hlen : body.length = got.length - if ctl then 2 else 4 := by
        rw [List.length_take]
        exact min_eq_left (Nat.sub_le _ _)
      rw [goodFrame, hctl, decide_eq_true_eq, ← hlen]
      simp only [frameCheck, bytesOf_eq_byteList]
      rw [show List.take body.length got = body by rw [hlen]]
    have hmakes (d : DieDir) (b : Bool) (h : y1.receive l.toNat noise = (d, b)) :
        link i { put d with crcerr := satAdd x.crcerr (b2n b) } := by
      refine link_makes (exec_dieLinkFrame slots noise carries ha hl hr) ?_
      dsimp only
      rw [show ((s.link l).dir dir).send l.toNat slots fresh.carries = y1 from hsend, h]
      cases dir <;> rfl
    have hwhole (d : DieDir) : { put d with crcerr := satAdd x.crcerr (b2n false) } = put d := by
      rw [show b2n false = 0 from rfl, satAdd_zero]
      cases dir <;> rfl
    refine ⟨fun hbad => hmakes _ true ?_, fun hok hseq => ?_, fun hok hseq => ?_⟩
    · rw [DieDir.receive, hfr]
      dsimp only
      rw [hgot, if_pos (by simpa using mt hgood.1 hbad), hsent, hfails]
    · rw [← hwhole]
      refine hmakes _ false ?_
      rw [DieDir.receive, hfr]
      dsimp only
      rw [hgot, if_neg (by simpa using hgood.2 hok), hrx, if_pos hseq, hsent, hnext]
    · rw [← hwhole]
      refine hmakes _ false ?_
      rw [DieDir.receive, hfr]
      dsimp only
      rw [hgot, if_neg (by simpa using hgood.2 hok), hrx, if_neg hseq, hsent]
  · refine link_makes (g := fun x => { x.setDir dir (x.dir dir).again with replay := satAdd x.replay 1 }) ?_ ?_
    · change execDieLinkReplay l dir s = _
      rw [execDieLinkReplay, if_pos (by simp [show ((s.link l).dir dir).asked = true from hask, show (s.link l).retraining = false from hr]), retryWindows_modLink hw]
    · cases dir <;> rfl
  · have hbusy : ¬(((s.link l).up.fails < 16 && (s.link l).down.fails < 16) || (s.link l).retraining) = true := by
      rw [show (s.link l).retraining = false from hr]
      simpa [imp_iff_not_or] using hfail
    refine link_makes (g := fun x => { x with retraining := true, retrain := satAdd x.retrain 1, recent := s.pt.time :: near }) ?_ rfl
    change execDieLinkRetrain l s = _
    rw [execDieLinkRetrain]
    dsimp only
    rw [if_neg hbusy]
    exact congrArg _ (if_neg (Nat.not_le.2 hn))
  · have hbusy : ¬(((s.link l).up.fails < 16 && (s.link l).down.fails < 16) || (s.link l).retraining) = true := by
      rw [show (s.link l).retraining = false from hr]
      simpa [imp_iff_not_or] using hfail
    refine ⟨_, ?_, linkLost_unrec hu⟩
    change execDieLinkRetrain l s = _
    rw [execDieLinkRetrain]
    dsimp only
    rw [if_neg hbusy]
    exact congrArg _ (if_pos hn)
  · refine link_makes (g := fun x => { x with retraining := false, up := x.up.resume, down := x.down.resume }) ?_ rfl
    change execDieLinkRetrainEnd l true s = _
    rw [execDieLinkRetrainEnd, if_neg (by simp [show (s.link l).retraining = true from hr]), if_pos rfl, retryWindows_modLink hw]
  · refine ⟨_, ?_, linkLost_unrec (s := s.modLink l (fun x => { x with retraining := false })) hu⟩
    change execDieLinkRetrainEnd l false s = _
    rw [execDieLinkRetrainEnd, if_neg (by simp [show (s.link l).retraining = true from hr]), if_neg Bool.false_ne_true]
  · refine ⟨s, ?_, rfl, rfl⟩
    change execDieLinkFrame l dir slots carries noise s = _
    rw [execDieLinkFrame, if_pos (by simp [show (s.link l).retraining = true from hr])]
  · change execMessageArrival id s = _
    rw [execMessageArrival, packet_of_retraining hr hroute]
  · refine census_makes (g := fun x => { x with cns := some { round := false, acts := [], asked := 0, active := false }, cnsAt := some s.pt.time }) ?_ rfl
    change execCensusStart f s = _
    rw [execCensusStart]
    dsimp only
    have hgo (b : Bool) (hb : b = false) : ¬(!(s.func f).cnsEn || (s.func f).cns.isSome || (s.func f).cnsFound || b ||
        (s.func f).st = .absent || (s.func f).st = .resetting) = true := by
      simp [hb, show (s.func f).cnsEn = true from hen, show (s.func f).cns = none from hno,
        show (s.func f).cnsFound = false from hfound, show (s.func f).st ≠ .absent from hna, show (s.func f).st ≠ .resetting from hnr]
    cases hat : (s.func f).cnsAt with
    | none => exact congrArg _ (if_neg (hgo false rfl))
    | some a => exact congrArg _ (if_neg (hgo _ (decide_eq_false (Nat.not_lt.2 (hsoon a hat)))))
  · have hr : s.censusTile t = (quiet, act) := by
      simp only [State.censusTile, quiet, act]
      split
      case isTrue h => simp [h]
      case isFalse h => simp [h]
    have hlen := (List.getElem?_eq_some_iff.1 ht).1
    refine census_makes (g := fun x => { x with cns := some (c.reply c.asked quiet act) }) ?_ (hreply quiet act (!quiet) (by simp))
    change execCensusProbe f s = _
    rw [execCensusProbe, hc]
    dsimp only
    rw [if_neg (by simp [show (s.func f).st ≠ .resetting from hnr, show s.tilesOf f = ts from rfl]; omega), ht]
    dsimp only
    rw [hr]
  · refine hengine hi.ge (by omega) ?_ hc hnr
    rw [hi, Nat.sub_self, State.censusEngine]
    rfl
  · refine hengine (by omega) (by omega) ?_ hc hnr
    rw [hi, Nat.add_sub_cancel_left, State.censusEngine]
    rfl
  · refine census_makes (g := fun x => x.censusEnd false) ?_ ?_
    · change execCensusReport f s = _
      rw [execCensusReport, hc]
      dsimp only
      rw [if_neg (by exact hnr), if_pos hact]
    · simp [Func.censusEnd, g]
  · refine census_makes (g := fun x => { x with cns := some { c with round := true, asked := 0 } }) ?_ rfl
    change execCensusReport f s = _
    rw [execCensusReport, hc]
    dsimp only
    rw [if_neg (by exact hnr), if_neg (by simp [hact]), if_neg (by rw [show s.tilesOf f = ts from rfl]; omega), if_pos (by simp [hround])]
  · refine ⟨((s.modFunc f (fun x => x.censusEnd true)).modTh t 0 (fun x => { x with dlk := true })).event f 0x81 0, ?_, ?_⟩
    · change execCensusReport f s = _
      rw [execCensusReport, hc]
      dsimp only
      rw [if_neg (by exact hnr), if_neg (by simp [hact]), if_neg (by rw [show s.tilesOf f = ts from rfl]; omega), if_neg (by simp [hround])]
      obtain ⟨r, hts⟩ := List.head?_eq_some_iff.1 ht
      rw [show s.tilesOf f = t :: r from hts]
    · have hf : (((s.modFunc f (fun x => x.censusEnd true)).modTh t 0 (fun x => { x with dlk := true })).event f 0x81 0).func f =
          (g.censusEnd true).due 0x81 0 := by
        rw [func_event, if_pos rfl]
        exact congrArg (fun x : Func => x.due 0x81 0) (State.func_modFunc_self s f (fun x => x.censusEnd true))
      have hdue (y : Func) : (y.due 0x81 0).cns = y.cns ∧ (y.due 0x81 0).cnsFound = y.cnsFound ∧ (y.due 0x81 0).cnsRuns = y.cnsRuns := by
        rw [Func.due]
        split <;> exact ⟨rfl, rfl, rfl⟩
      obtain ⟨h1, h2, h3⟩ := hdue (g.censusEnd true)
      refine ⟨by rw [hf, h1]; rfl, by rw [hf, h2]; simp [Func.censusEnd], by rw [hf, h3]; rfl, ?_⟩
      obtain ⟨d, e⟩ := event_eq ((s.modFunc f (fun x => x.censusEnd true)).modTh t 0 (fun x => { x with dlk := true })) f 0x81 0
      rw [e]
      exact (State.modTh_onlyThread (s.modFunc f (fun x => x.censusEnd true)) t 0 _).2

end Sys2Proof.Machine
end

section
/-! The counters and events of the position timebase, and its inputs (R404–R415). From them the obligation O42. -/
namespace Sys2Proof.Machine

open Sys2Proof.Safety

/-! ## What actions leave (R415, R418) -/

/-- A timebase without its event table, slots, pins and actions. -/
def Pt.base (p : Pt) : Pt :=
  { p with level := 0, pulse := 0, pulseEnd := [], slow := 0, sentAt := [], sendBuf := [], slot := [], evt := [], actAt := 0, actN := 0 }

theorem base_timed (p : Pt) (a k : Nat) : (p.timed a k).base = p.base := by
  rw [Pt.timed]
  split <;> split <;> rfl

theorem base_action (p : Pt) (x : EvtEntry) (n : Word) (k : Nat) : (p.action x n k).base = p.base := by
  rw [← base_timed p x.act k, Pt.action]
  split
  · rfl
  · split
    · rfl
    · split
      · rfl
      · split
        · rfl
        · split <;> rfl

theorem base_actions (l : List (EvtEntry × Word)) : ∀ (p : Pt) (k : Nat), (p.actions l k).base = p.base := by
  induction l with
  | nil => exact fun p k => rfl
  | cons x l ih =>
    intro p k
    rw [Pt.actions, ih, base_action]

theorem base_store (l : List (Nat × EvtEntry × Word × EvtEntry)) : ∀ p : Pt, (p.store l).base = p.base := by
  induction l with
  | nil => exact fun p => rfl
  | cons x l ih =>
    intro p
    rw [Pt.store, ih]
    rfl

/-! ## Counters (R405, R410, R412) -/

theorem count_congr {p q : Pt} (h : p.base = q.base) (c : Nat) : p.count c = q.count c := by
  have hc := congrArg Pt.cnt h
  change p.cnt = q.cnt at hc
  rw [Pt.count, hc]
  rfl

theorem count_load (p : Pt) (c : Nat) (v : VAddr) (k : Nat) : (p.load c v).count k = if k = c then v else p.count k :=
  SMap.get_set 0 p.cnt c k v

/-- A timebase without its counters as well. -/
def Pt.rest (p : Pt) : Pt := { p.base with cnt := [] }

theorem rest_of_base {p q : Pt} (h : p.base = q.base) : p.rest = q.rest := by rw [Pt.rest, h, Pt.rest]

theorem rest_load (p : Pt) (c : Nat) (v : VAddr) : (p.load c v).rest = p.rest := rfl

theorem rest_updates (live : Bool) (l : List (Nat × Int)) : ∀ p : Pt, (p.updates live l).1.rest = p.rest := by
  induction l with
  | nil => exact fun p => rfl
  | cons x l ih =>
    intro p
    rw [Pt.updates]
    dsimp only
    rw [ih, rest_load, rest_of_base (base_store _ p)]

/-- A counter after the updates of one cycle, where at most one is its own. -/
theorem count_updates_of_ne (live : Bool) (c : Nat) (l : List (Nat × Int)) : ∀ p : Pt, (∀ x ∈ l, x.1 ≠ c) →
    (p.updates live l).1.count c = p.count c := by
  induction l with
  | nil => exact fun p _ => rfl
  | cons x l ih =>
    intro p h
    rw [Pt.updates]
    dsimp only
    rw [ih _ (fun y hy => h y (List.mem_cons_of_mem _ hy)), count_load, if_neg (fun e => h x (List.mem_cons_self ..) e.symm),
      count_congr (base_store _ p)]

theorem count_updates (live : Bool) (c : Nat) (d : Int) (pre post : List (Nat × Int)) : ∀ p : Pt, (∀ x ∈ pre, x.1 ≠ c) →
    (∀ x ∈ post, x.1 ≠ c) → (p.updates live (pre ++ (c, d) :: post)).1.count c = BitVec.ofInt 48 ((p.count c).toNat + d) := by
  induction pre with
  | nil =>
    intro p _ h
    rw [List.nil_append, Pt.updates]
    dsimp only
    rw [count_updates_of_ne live c post _ h, count_load, if_pos rfl]
  | cons x pre ih =>
    intro p h h'
    rw [List.cons_append, Pt.updates]
    dsimp only
    rw [ih _ (fun y hy => h y (List.mem_cons_of_mem _ hy)) h', count_load, if_neg (fun e => h x (List.mem_cons_self ..) e.symm),
      count_congr (base_store _ p)]

theorem counterSteps_eq (s : State) (us : List (Nat × Int)) :
    s.counterSteps us = { s with pt := (s.counterSteps us).pt } ∧ (s.counterSteps us).pt.rest = s.pt.rest ∧
      ∀ c, (s.counterSteps us).pt.count c = (s.pt.updates s.ptLive us).1.count c := by
  refine ⟨rfl, ?_, fun c => ?_⟩
  · rw [← rest_updates s.ptLive us s.pt]
    exact rest_of_base (base_actions _ _ _)
  · exact count_congr (base_actions _ _ _) c

theorem count_counterSteps_of_ne {s : State} {us : List (Nat × Int)} {c : Nat} (h : ∀ x ∈ us, x.1 ≠ c) :
    (s.counterSteps us).pt.count c = s.pt.count c := by
  rw [(counterSteps_eq s us).2.2, count_updates_of_ne _ _ _ _ h]

theorem count_counterSteps {s : State} {us pre post : List (Nat × Int)} {c : Nat} {d : Int} (hus : us = pre ++ (c, d) :: post)
    (h : ∀ x ∈ pre, x.1 ≠ c) (h' : ∀ x ∈ post, x.1 ≠ c) :
    (s.counterSteps us).pt.count c = BitVec.ofInt 48 ((s.pt.count c).toNat + d) := by
  rw [(counterSteps_eq s us).2.2, hus, count_updates _ _ _ _ _ _ h h']

/-! ## Gray code (R408) -/

theorem getLsbD_foldl_xor (x : Word) (j : Nat) (l : List Nat) : ∀ b : Word,
    (l.foldl (fun b k => b ^^^ x >>> k) b).getLsbD j = l.foldl (fun b k => b ^^ x.getLsbD (k + j)) (b.getLsbD j) := by
  induction l with
  | nil => exact fun b => rfl
  | cons k l ih =>
    intro b
    rw [List.foldl_cons, ih, List.foldl_cons, BitVec.getLsbD_xor, BitVec.getLsbD_ushiftRight]

theorem foldl_xor_init (g : Nat → Bool) (l : List Nat) : ∀ b : Bool, l.foldl (fun b k => b ^^ g k) b = (b ^^ l.foldl (fun b k => b ^^ g k) false) := by
  induction l with
  | nil => exact fun b => by simp
  | cons k l ih =>
    intro b
    rw [List.foldl_cons, ih, List.foldl_cons, ih (false ^^ g k)]
    simp

/-- Each bit of the value is the parity of the code's bits from it up (R408). -/
theorem grayToBin_step (x : Word) (j : Nat) : (grayToBin x).getLsbD j = ((grayToBin x).getLsbD (j + 1) != x.getLsbD j) := by
  have hbit (i : Nat) : (grayToBin x).getLsbD i = (List.range 32).foldl (fun b k => b ^^ x.getLsbD (k + i)) false := by
    rw [grayToBin, getLsbD_foldl_xor]
    simp
  have hmap (b : Bool) (l : List Nat) : (l.map Nat.succ).foldl (fun b k => b ^^ x.getLsbD (k + j)) b =
      l.foldl (fun b k => b ^^ x.getLsbD (k + (j + 1))) b := by
    rw [List.foldl_map]
    congr 1
    funext b k
    rw [show k.succ + j = k + (j + 1) by omega]
  have htop : x.getLsbD (31 + (j + 1)) = false := BitVec.getLsbD_of_ge x _ (by omega)
  have hlow : (List.range 32).foldl (fun b k => b ^^ x.getLsbD (k + j)) false =
      (x.getLsbD j ^^ (List.range 31).foldl (fun b k => b ^^ x.getLsbD (k + (j + 1))) false) := by
    rw [List.range_succ_eq_map, List.foldl_cons, hmap, foldl_xor_init]
    simp
  have hhigh : (List.range 32).foldl (fun b k => b ^^ x.getLsbD (k + (j + 1))) false =
      (List.range 31).foldl (fun b k => b ^^ x.getLsbD (k + (j + 1))) false := by
    rw [List.range_succ, List.foldl_append, List.foldl_cons, List.foldl_nil, htop, Bool.xor_false]
  rw [hbit, hbit, hlow, hhigh, Bool.xor_comm]

end Sys2Proof.Machine
end

section
/-! The inputs of the position timebase (R404–R409, R536). They settle the obligation O42. -/
namespace Sys2Proof.Machine

open Sys2Proof.Safety

/-! ## The samples of one cycle (R404, R405) -/

/-- The sampled input that counter `c` counts, of those of a list. -/
def Pt.input (p : Pt) (ins : List (BitVec 1 × QuadIn)) (c : Nat) : Option (BitVec 1 × QuadIn) :=
  (ins.filter (fun q => p.src c = q.1.toNat)).head?

/-- The input of counter `c` when it has changed both levels. -/
def Pt.clashes (p : Pt) (ins : List (BitVec 1 × QuadIn)) (c : Nat) : List (BitVec 1) :=
  match p.input ins c with
  | some (i, x) => if (p.quad c x).2.1 then [i] else []
  | none => []

/-- The step of counter `c`, unless it is 0. -/
def Pt.moves (p : Pt) (ins : List (BitVec 1 × QuadIn)) (c : Nat) : List (Nat × Int) :=
  match p.input ins c with
  | some (_, x) => if (p.quad c x).2.2 = 0 then [] else [(c, (p.quad c x).2.2)]
  | none => []

/-- Timebase `q` agrees with `p` in what the samples at counter `c` depend on. -/
def Pt.AgreesAt (p q : Pt) (c : Nat) : Prop := q.ccfg = p.ccfg ∧ bit q.qa c = bit p.qa c ∧ bit q.qb c = bit p.qb c

theorem Pt.AgreesAt.input {p q : Pt} {c : Nat} (h : p.AgreesAt q c) (ins : List (BitVec 1 × QuadIn)) : q.input ins c = p.input ins c := by
  have hs : q.src c = p.src c := by rw [Pt.src, Pt.ccfg_, h.1]; rfl
  rw [Pt.input, hs, Pt.input]

theorem Pt.AgreesAt.quad {p q : Pt} {c : Nat} (h : p.AgreesAt q c) (x : QuadIn) : (q.quad c x).2 = (p.quad c x).2 := by
  obtain ⟨hc, ha, hb⟩ := h
  have hcfg : q.ccfg_ c = p.ccfg_ c := by rw [Pt.ccfg_, hc]; rfl
  have hs : q.samples c = p.samples c := by rw [Pt.samples, hcfg]; rfl
  simp only [Pt.quad, hcfg, hs, ha, hb]

theorem Pt.AgreesAt.clashes {p q : Pt} {c : Nat} (h : p.AgreesAt q c) (ins : List (BitVec 1 × QuadIn)) : q.clashes ins c = p.clashes ins c := by
  simp only [Pt.clashes, h.input, h.quad]

theorem Pt.AgreesAt.moves {p q : Pt} {c : Nat} (h : p.AgreesAt q c) (ins : List (BitVec 1 × QuadIn)) : q.moves ins c = p.moves ins c := by
  simp only [Pt.moves, h.input, h.quad]

/-- The timebase after the samples at counter `c`. -/
def Pt.sampled (p : Pt) (ins : List (BitVec 1 × QuadIn)) (c : Nat) : Pt :=
  match p.input ins c with
  | some (_, x) => (p.quad c x).1
  | none => p

theorem sampleAt_eq (ins : List (BitVec 1 × QuadIn)) (r : Pt × List (BitVec 1) × List (Nat × Int)) (c : Nat) :
    Pt.sampleAt ins r c = (r.1.sampled ins c, r.2.1 ++ r.1.clashes ins c, r.2.2 ++ r.1.moves ins c) := by
  rw [Pt.sampleAt, Pt.clashes, Pt.moves, Pt.sampled, ← Pt.input]
  split
  case h_1 h => simp [h]
  case h_2 i x h =>
    rw [h]
    dsimp only
    split <;> split <;> simp

/-- What the samples at a counter leave of the timebase. -/
theorem quad_spec (p : Pt) {c : Nat} (hc : c < 2) (x : QuadIn) : (p.quad c x).1 = { p with qa := (p.quad c x).1.qa, qb := (p.quad c x).1.qb } ∧
    bit (p.quad c x).1.qa c = (if bit p.qa c ≠ x.a && decide (p.samples c ≤ x.na) then x.a else bit p.qa c) ∧
    bit (p.quad c x).1.qb c = (if bit p.qb c ≠ x.b && decide (p.samples c ≤ x.nb) then x.b else bit p.qb c) ∧
    ∀ k, k ≠ c → bit (p.quad c x).1.qa k = bit p.qa k ∧ bit (p.quad c x).1.qb k = bit p.qb k := by
  refine ⟨rfl, ?_, ?_, fun k hk => ⟨?_, ?_⟩⟩
  · exact (getLsbD_setBit _ hc _ _).trans (if_pos rfl)
  · exact (getLsbD_setBit _ hc _ _).trans (if_pos rfl)
  · exact (getLsbD_setBit _ hc _ _).trans (if_neg hk)
  · exact (getLsbD_setBit _ hc _ _).trans (if_neg hk)

theorem sampled_spec (p : Pt) (ins : List (BitVec 1 × QuadIn)) {c : Nat} (hc : c < 2) :
    (∃ a b, p.sampled ins c = { p with qa := a, qb := b }) ∧ ∀ k, k ≠ c → p.AgreesAt (p.sampled ins c) k := by
  unfold Pt.sampled
  split
  case h_1 i x _ =>
    obtain ⟨he, -, -, hk⟩ := quad_spec p hc x
    exact ⟨⟨_, _, he⟩, fun k h => ⟨rfl, hk k h⟩⟩
  case h_2 => exact ⟨⟨p.qa, p.qb, rfl⟩, fun k _ => ⟨rfl, rfl, rfl⟩⟩

/-- The levels that the samples at a counter leave there do not depend on the other counter. -/
theorem Pt.AgreesAt.sampled {p q : Pt} {c : Nat} (h : p.AgreesAt q c) (ins : List (BitVec 1 × QuadIn)) (hc : c < 2) :
    (p.sampled ins c).AgreesAt (q.sampled ins c) c := by
  have hs : q.samples c = p.samples c := by rw [Pt.samples, Pt.ccfg_, h.1]; rfl
  rw [Pt.sampled, Pt.sampled, h.input]
  cases p.input ins c with
  | none => exact h
  | some x =>
    obtain ⟨-, ha, hb, -⟩ := quad_spec p hc x.2
    obtain ⟨-, ha', hb', -⟩ := quad_spec q hc x.2
    refine ⟨h.1, ?_, ?_⟩
    · rw [ha, ha', h.2.1, hs]
    · rw [hb, hb', h.2.2, hs]

/-- Both counters sample in turn: each from the timebase as the cycle began. -/
theorem samples_spec (ins : List (BitVec 1 × QuadIn)) (p : Pt) :
    let r := Pt.sampleAt ins (Pt.sampleAt ins (p, [], []) 0) 1
    (∃ a b, r.1 = { p with qa := a, qb := b }) ∧ r.2.1 = p.clashes ins 0 ++ p.clashes ins 1 ∧ r.2.2 = p.moves ins 0 ++ p.moves ins 1 ∧
      ∀ c, c < 2 → (p.sampled ins c).AgreesAt r.1 c := by
  intro r
  obtain ⟨⟨a, b, he0⟩, hk0⟩ := sampled_spec p ins (c := 0) (by decide)
  obtain ⟨⟨a', b', he1⟩, hk1⟩ := sampled_spec (p.sampled ins 0) ins (c := 1) (by decide)
  have h1 : p.AgreesAt (p.sampled ins 0) 1 := hk0 1 (by decide)
  have hr : r = ((p.sampled ins 0).sampled ins 1, p.clashes ins 0 ++ p.clashes ins 1, p.moves ins 0 ++ p.moves ins 1) := by
    simp only [r, sampleAt_eq, List.nil_append, h1.clashes, h1.moves]
  rw [hr]
  refine ⟨?_, rfl, rfl, fun c hc => ?_⟩
  · rw [he1, he0]
    exact ⟨a', b', rfl⟩
  · obtain rfl | rfl : c = 0 ∨ c = 1 := by omega
    · exact hk1 0 (by decide)
    · exact h1.sampled ins (by decide)

/-! ## Errors of an input (R405, R428) -/

theorem nodup_eraseDups {α : Type} [DecidableEq α] (l : List α) : l.eraseDups.Nodup := by
  induction hn : l.length using Nat.strong_induction_on generalizing l with
  | _ n ih =>
    cases l with
    | nil => exact List.nodup_nil
    | cons a l =>
      rw [List.eraseDups_cons, List.nodup_cons, List.mem_eraseDups]
      refine ⟨by simp, ih _ ?_ _ rfl⟩
      have := List.length_filter_le (fun b => !b == a) l
      simp only [List.length_cons] at hn
      omega

theorem foldl_qerr (l : List (BitVec 1)) : ∀ p : Pt, l.Nodup →
    l.foldl Pt.qerr p = { p with qerr0 := if 0 ∈ l then satAdd p.qerr0 1 else p.qerr0, qerr1 := if 1 ∈ l then satAdd p.qerr1 1 else p.qerr1 } := by
  have h01 : ∀ i : BitVec 1, i = 0 ∨ i = 1 := by decide
  induction l with
  | nil => exact fun p _ => rfl
  | cons i l ih =>
    intro p h
    obtain ⟨hi, hl⟩ := List.nodup_cons.1 h
    rw [List.foldl_cons, ih _ hl]
    obtain rfl | rfl := h01 i
    · rw [Pt.qerr, if_pos rfl, if_neg hi, if_pos (List.mem_cons_self ..)]
      simp only [List.mem_cons, show ¬(1 : BitVec 1) = 0 by decide, false_or]
    · rw [Pt.qerr, if_neg (by decide), if_neg hi, if_pos (List.mem_cons_self ..)]
      simp only [List.mem_cons, show ¬(0 : BitVec 1) = 1 by decide, false_or]

/-! ## The inputs of one cycle -/

/-- The wired inputs that are sampled in one cycle (R404, R536). -/
def inputsOf (s : State) (i : BitVec 1) (x : QuadIn) (other : Option QuadIn) : List (BitVec 1 × QuadIn) :=
  ((i, x) :: (other.map (fun q => (1 - i, q))).toList).filter (fun q => s.wired q.1.toNat)

theorem input_iff (s : State) (i : BitVec 1) (x : QuadIn) (other : Option QuadIn) (c : Nat) (g : BitVec 1) (y : QuadIn) :
    s.pt.input (inputsOf s i x other) c = some (g, y) ↔
      s.wired g.toNat = true ∧ s.pt.src c = g.toNat ∧ (g = i ∧ y = x ∨ g ≠ i ∧ other = some y) := by
  have hflip : ∀ i g : BitVec 1, g ≠ i ↔ g = 1 - i := by decide
  have hne : ∀ i : BitVec 1, ¬i.toNat = (1 - i).toNat := by decide
  rw [Pt.input, inputsOf, List.filter_filter]
  by_cases hi : (decide (s.pt.src c = i.toNat) && s.wired i.toNat) = true
  · rw [List.filter_cons, if_pos hi, List.head?_cons]
    obtain ⟨hs, hw⟩ := Bool.and_eq_true_iff.1 hi
    rw [decide_eq_true_eq] at hs
    constructor
    · intro h
      obtain ⟨rfl, rfl⟩ := Prod.mk.inj (Option.some.inj h)
      exact ⟨hw, hs, .inl ⟨rfl, rfl⟩⟩
    · rintro ⟨-, hg, h⟩
      obtain ⟨rfl, rfl⟩ | ⟨h, -⟩ := h
      · rfl
      · exact absurd (BitVec.eq_of_toNat_eq (hg.symm.trans hs)) h
  · rw [List.filter_cons, if_neg hi]
    have hno : ¬(s.wired g.toNat = true ∧ s.pt.src c = g.toNat ∧ g = i ∧ y = x) := by
      rintro ⟨hw, hs, rfl, -⟩
      exact hi (by rw [hw, Bool.and_true, decide_eq_true_eq]; exact hs)
    cases other with
    | none =>
      refine ⟨fun h => (nomatch h), ?_⟩
      rintro ⟨hw, hs, h | ⟨-, h⟩⟩
      · exact absurd ⟨hw, hs, h⟩ hno
      · exact nomatch h
    | some z =>
      rw [Option.map_some, Option.toList_some]
      constructor
      · intro h
        obtain ⟨hmem, hok⟩ := List.mem_filter.1 (List.mem_of_mem_head? (Option.mem_def.2 h))
        obtain ⟨rfl, rfl⟩ := Prod.mk.inj (List.mem_singleton.1 hmem)
        obtain ⟨hs, hw⟩ := Bool.and_eq_true_iff.1 hok
        exact ⟨hw, of_decide_eq_true hs, .inr ⟨(hflip _ _).2 rfl, rfl⟩⟩
      · rintro ⟨hw, hs, h | ⟨hg, h⟩⟩
        · exact absurd ⟨hw, hs, h⟩ hno
        · obtain rfl := Option.some.inj h
          obtain rfl := (hflip _ _).1 hg
          rw [List.filter_cons, if_pos (by rw [hw, Bool.and_true, decide_eq_true_eq]; exact hs)]
          rfl

theorem mem_clashes {p : Pt} {ins : List (BitVec 1 × QuadIn)} {c : Nat} {g : BitVec 1} :
    g ∈ p.clashes ins c ↔ ∃ y, p.input ins c = some (g, y) ∧ (p.quad c y).2.1 = true := by
  rw [Pt.clashes]
  cases h : p.input ins c with
  | none => simp
  | some q =>
    obtain ⟨i, x⟩ := q
    dsimp only
    split
    case isTrue hx =>
      simp only [List.mem_singleton, Option.some.injEq, Prod.mk.injEq]
      exact ⟨fun e => ⟨x, ⟨e.symm, rfl⟩, hx⟩, fun ⟨_, e, _⟩ => e.1.symm⟩
    case isFalse hx =>
      simp only [List.not_mem_nil, Option.some.injEq, Prod.mk.injEq, false_iff]
      rintro ⟨y, ⟨-, rfl⟩, hy⟩
      exact hx hy

theorem moves_other {p : Pt} {ins : List (BitVec 1 × QuadIn)} {c k : Nat} (h : k ≠ c) : ∀ x ∈ p.moves ins k, x.1 ≠ c := by
  rw [Pt.moves]
  split
  · split
    · simp
    · simpa using h
  · simp

/-- The samples of one cycle: the levels that the filters accept, the errors of the inputs, and the steps (R404, R405). -/
theorem quadEdge_spec (s : State) (i : BitVec 1) (x : QuadIn) (other : Option QuadIn) :
    let ins := inputsOf s i x other
    ∃ u, exec (.quadEdge i x other) s = .next u ∧ u = { s with pt := u.pt } ∧
      (∀ c, c < 2 → (s.pt.sampled ins c).AgreesAt u.pt c) ∧
      u.pt.qerr0 = (if 0 ∈ s.pt.clashes ins 0 ++ s.pt.clashes ins 1 then satAdd s.pt.qerr0 1 else s.pt.qerr0) ∧
      u.pt.qerr1 = (if 1 ∈ s.pt.clashes ins 0 ++ s.pt.clashes ins 1 then satAdd s.pt.qerr1 1 else s.pt.qerr1) ∧
      ∀ c, c < 2 → u.pt.count c = match s.pt.input ins c with
        | some (_, y) => BitVec.ofInt 48 ((s.pt.count c).toNat + (s.pt.quad c y).2.2)
        | none => s.pt.count c := by
  intro ins
  obtain ⟨⟨a, b, he⟩, hclash, hmove, hagree⟩ := samples_spec ins s.pt
  have e : exec (.quadEdge i x other) s = .next
      (let r := Pt.sampleAt ins (Pt.sampleAt ins (s.pt, [], []) 0) 1
      State.counterSteps { s with pt := r.2.1.eraseDups.foldl Pt.qerr r.1 } r.2.2) := rfl
  generalize Pt.sampleAt ins (Pt.sampleAt ins (s.pt, [], []) 0) 1 = r at he hclash hmove hagree e
  dsimp only at e
  rw [hmove, hclash, foldl_qerr _ _ (nodup_eraseDups _)] at e
  simp only [List.mem_eraseDups] at e
  set q : Pt := { r.1 with qerr0 := _, qerr1 := _ } with hq
  obtain ⟨-, hrest, -⟩ := counterSteps_eq { s with pt := q } (s.pt.moves ins 0 ++ s.pt.moves ins 1)
  have hcount : ∀ c, q.count c = s.pt.count c := fun c => by rw [hq, he]; rfl
  refine ⟨_, e, rfl, fun c hc => ?_, ?_, ?_, fun c hc => ?_⟩
  · obtain ⟨h1, h2, h3⟩ := hagree c hc
    exact ⟨(congrArg Pt.ccfg hrest).trans h1, (congrArg (fun p : Pt => bit p.qa c) hrest).trans h2,
      (congrArg (fun p : Pt => bit p.qb c) hrest).trans h3⟩
  · exact (congrArg Pt.qerr0 hrest).trans (by rw [hq, he] <;> rfl)
  · exact (congrArg Pt.qerr1 hrest).trans (by rw [hq, he] <;> rfl)
  · have hsplit : ∃ pre post, s.pt.moves ins 0 ++ s.pt.moves ins 1 = pre ++ (s.pt.moves ins c ++ post) ∧ (∀ y ∈ pre, y.1 ≠ c) ∧ ∀ y ∈ post, y.1 ≠ c := by
      obtain rfl | rfl : c = 0 ∨ c = 1 := by omega
      · exact ⟨[], _, rfl, by simp, moves_other (by decide)⟩
      · exact ⟨_, [], by rw [List.append_nil], moves_other (by decide), by simp⟩
    obtain ⟨pre, post, hms, hpre, hpost⟩ := hsplit
    rw [hms, ← hcount]
    rw [Pt.moves]
    cases s.pt.input ins c with
    | none => exact count_counterSteps_of_ne (s := { s with pt := q }) (fun y hy => (List.mem_append.1 hy).elim (hpre y) (hpost y))
    | some z =>
      dsimp only
      by_cases h0 : (s.pt.quad c z.2).2.2 = 0
      · rw [if_pos h0, h0]
        refine (count_counterSteps_of_ne (s := { s with pt := q }) (fun y hy => (List.mem_append.1 hy).elim (hpre y) (hpost y))).trans ?_
        simp
      · rw [if_neg h0]
        exact count_counterSteps (s := { s with pt := q }) rfl hpre hpost

/-! ## Index edges (R407) -/

theorem index_other (p : Pt) {k c : Nat} (h : c ≠ k) : (p.index k).ccfg = p.ccfg ∧ (p.index k).count c = p.count c ∧
    SMap.get 0 (p.index k).zlat c = SMap.get 0 p.zlat c := by
  unfold Pt.index
  dsimp only
  split
  · exact ⟨rfl, rfl, rfl⟩
  · split
    · exact ⟨rfl, (count_load _ _ _ _).trans (if_neg h), SMap.get_set_ne 0 _ _ h⟩
    · exact ⟨rfl, rfl, SMap.get_set_ne 0 _ _ h⟩

theorem index_self (p : Pt) (c : Nat) :
    ((bits (p.ccfg_ c) 13 2 : BitVec 2) = 0 → p.index c = p) ∧
      ((bits (p.ccfg_ c) 13 2 : BitVec 2) ≠ 0 → SMap.get 0 (p.index c).zlat c = p.count c ∧
        (p.index c).count c = if (bits (p.ccfg_ c) 13 2 : BitVec 2) = 2 then 0 else p.count c) := by
  refine ⟨fun h => if_pos h, fun h => ?_⟩
  rw [Pt.index]
  dsimp only
  rw [if_neg h]
  split
  · exact ⟨SMap.get_set_self 0 _ _ _, (count_load _ _ _ _).trans (if_pos rfl)⟩
  · exact ⟨SMap.get_set_self 0 _ _ _, rfl⟩

/-- The counters of input `i` whose filter accepts `m` samples latch (R404, R407). -/
def Pt.indexed (p : Pt) (i : BitVec 1) (m : Nat) : Pt :=
  (([0, 1] : List Nat).filter (fun c => p.src c = i.toNat && decide (p.samples c ≤ m))).foldl (fun p c => p.index c) p

theorem foldl_index_other (c : Nat) (l : List Nat) : ∀ p : Pt, c ∉ l → (l.foldl (fun p k => p.index k) p).ccfg_ c = p.ccfg_ c ∧
    (l.foldl (fun p k => p.index k) p).count c = p.count c ∧
    SMap.get 0 (l.foldl (fun p k => p.index k) p).zlat c = SMap.get 0 p.zlat c := by
  induction l with
  | nil => exact fun p _ => ⟨rfl, rfl, rfl⟩
  | cons k l ih =>
    intro p h
    obtain ⟨hk, hl⟩ := not_or.1 (mt List.mem_cons.2 h)
    obtain ⟨h1, h2, h3⟩ := ih (p.index k) hl
    obtain ⟨g1, g2, g3⟩ := index_other p hk
    exact ⟨h1.trans (by rw [Pt.ccfg_, g1]; rfl), h2.trans g2, h3.trans g3⟩

theorem indexed_spec {p : Pt} {i : BitVec 1} {m c : Nat} (hc : c < 2) (hs : p.src c = i.toNat) :
    ((bits (p.ccfg_ c) 13 2 : BitVec 2) = 0 ∨ m < p.samples c → (p.indexed i m).count c = p.count c ∧
        SMap.get 0 (p.indexed i m).zlat c = SMap.get 0 p.zlat c) ∧
      ((bits (p.ccfg_ c) 13 2 : BitVec 2) ≠ 0 → p.samples c ≤ m → SMap.get 0 (p.indexed i m).zlat c = p.count c ∧
        (p.indexed i m).count c = if (bits (p.ccfg_ c) 13 2 : BitVec 2) = 2 then 0 else p.count c) := by
  have hnd : (([0, 1] : List Nat).filter (fun c => p.src c = i.toNat && decide (p.samples c ≤ m))).Nodup := List.Nodup.filter _ (by decide)
  have hmem : c ∈ ([0, 1] : List Nat).filter (fun c => p.src c = i.toNat && decide (p.samples c ≤ m)) ↔ p.samples c ≤ m := by
    have h01 : c ∈ ([0, 1] : List Nat) := by simp; omega
    simp [List.mem_filter, h01, hs]
  rw [Pt.indexed]
  generalize ([0, 1] : List Nat).filter (fun c => p.src c = i.toNat && decide (p.samples c ≤ m)) = l at hnd hmem
  have hself (h : p.samples c ≤ m) : (l.foldl (fun p k => p.index k) p).count c = (p.index c).count c ∧
      SMap.get 0 (l.foldl (fun p k => p.index k) p).zlat c = SMap.get 0 (p.index c).zlat c := by
    obtain ⟨pre, post, rfl⟩ := List.append_of_mem (hmem.2 h)
    obtain ⟨-, hpost, hdis⟩ := List.nodup_append.1 hnd
    have hpre : c ∉ pre := fun hp => hdis c hp c (List.mem_cons_self ..) rfl
    rw [List.foldl_append, List.foldl_cons]
    obtain ⟨g1, g2, g3⟩ := foldl_index_other c pre p hpre
    obtain ⟨-, h2, h3⟩ := foldl_index_other c post ((pre.foldl (fun p k => p.index k) p).index c) (List.nodup_cons.1 hpost).1
    rw [h2, h3]
    obtain ⟨hz, hn⟩ := index_self (pre.foldl (fun p k => p.index k) p) c
    obtain ⟨hz', hn'⟩ := index_self p c
    rw [g1] at hz hn
    by_cases hmode : (bits (p.ccfg_ c) 13 2 : BitVec 2) = 0
    · rw [hz hmode, hz' hmode]
      exact ⟨g2, g3⟩
    · obtain ⟨a, b⟩ := hn hmode
      obtain ⟨a', b'⟩ := hn' hmode
      rw [a, b, a', b', g2]
      exact ⟨rfl, rfl⟩
  refine ⟨fun h => ?_, fun hmode hm => ?_⟩
  · by_cases hm : p.samples c ≤ m
    · obtain ⟨a, b⟩ := hself hm
      rw [a, b, (index_self p c).1 (h.resolve_right (Nat.not_lt.2 hm))]
      exact ⟨rfl, rfl⟩
    · exact (foldl_index_other c l p (mt hmem.1 hm)).2
  · obtain ⟨a, b⟩ := hself hm
    rw [a, b]
    exact (index_self p c).2 hmode

/-! ## The word of an SSI frame (R408, R409) -/

/-- The timebase after a word of value `v` has been read. -/
def Pt.ssiRead (p : Pt) (v : Word) : Pt := { p with ssiBusy := false, ssiRef := some v }

theorem ssiUpdate_eq {s : State} {c : Nat} (raw : Word) (hw : s.wired 2 = true) (hon : s.pt.ssiOn = true) (hbusy : s.pt.ssiBusy = true)
    (hc : c < 2) (hsrc : s.pt.src c = 2) : ∃ pre post, (∀ x ∈ pre, x ≠ c) ∧ (∀ x ∈ post, x ≠ c) ∧
      exec (.ssiUpdate raw) s = .next (match s.pt.ssiRef with
        | none => { s with pt := s.pt.ssiRead (s.pt.ssiValue raw) }
        | some r => State.counterSteps { s with pt := s.pt.ssiRead (s.pt.ssiValue raw) }
            ((pre ++ c :: post).map (fun c => (c, ssiStep s.pt.nbits (s.pt.ssiValue raw) r)))) := by
  have hmem : c ∈ ([0, 1] : List Nat).filter (fun c => s.pt.src c = 2) := by
    have h01 : c ∈ ([0, 1] : List Nat) := by simp; omega
    simp [List.mem_filter, h01, hsrc]
  have hnd : (([0, 1] : List Nat).filter (fun c => s.pt.src c = 2)).Nodup := List.Nodup.filter _ (by decide)
  have hgo : ¬(!(s.wired 2) || !s.pt.ssiOn || !s.pt.ssiBusy) = true := by
    rw [hw, hon, hbusy]
    decide
  obtain ⟨pre, post, hcs⟩ := List.append_of_mem hmem
  rw [hcs] at hnd
  obtain ⟨-, hpost, hdis⟩ := List.nodup_append.1 hnd
  refine ⟨pre, post, fun x hx => hdis x hx c (List.mem_cons_self ..), fun x hx e => (List.nodup_cons.1 hpost).1 (e ▸ hx), ?_⟩
  change execSsiUpdate raw s = _
  rw [execSsiUpdate]
  dsimp only
  rw [if_neg hgo, hcs, if_neg (by simp)]
  rfl

/-- Settles O42. -/
theorem timebaseInputs : Obligations.TimebaseInputs := by
  unfold Obligations.TimebaseInputs
  intro s i j x other c m raw r p wired cfg from_ samples seen da db a b mult counts up step error only n ssi low v diff signed hc
  have hwired (g : Nat) : s.wired g = true ↔ wired g := by simp [State.wired, wired, and_assoc]
  have hseen (k : Nat) (g : BitVec 1) (y : QuadIn) : p.input (inputsOf s i x other) k = some (g, y) ↔ seen k g y := by
    rw [input_iff, hwired]
    rfl
  have hda (k : Nat) (y : QuadIn) : (bit p.qa k ≠ y.a && decide (p.samples k ≤ y.na)) = da k y := by
    simp only [da, Bool.decide_and]
    rfl
  have hdb (k : Nat) (y : QuadIn) : (bit p.qb k ≠ y.b && decide (p.samples k ≤ y.nb)) = db k y := by
    simp only [db, Bool.decide_and]
    rfl
  have hquad (k : Nat) (y : QuadIn) : (p.quad k y).2.1 = (da k y && db k y) := by rw [← hda, ← hdb]; rfl
  have hstep (y : QuadIn) : (p.quad c y).2.2 = step y := by
    have hlead (x y : Bool) : (!(y == x)) = (x != y) := by cases x <;> cases y <;> rfl
    have hq : (p.quad c y).2.2 = if da c y && db c y then 0 else quadCount (p.ccfg_ c) (da c y) (db c y) (a y) (b y) := by
      rw [← hda, ← hdb]
      simp only [a, b, ← hda, ← hdb]
      rfl
    rw [hq, quadCount]
    simp only [hlead, ite_self, step, up]
    by_cases hboth : (da c y && db c y) = true
    · simp [hboth]
    · simp only [hboth]
      rfl
  have hssi_on (h : ssi) : s.pt.ssiOn = true := by
    obtain ⟨-, h15, h8, h32⟩ := h
    have hn : s.pt.nbits = n := rfl
    rw [Pt.ssiOn, hn, decide_eq_true h8, decide_eq_true h32, show bit s.pt.ssicfg 15 = true from h15]
    rfl
  have hon (h : ssi) (hb : p.ssiBusy = false) : ¬(!(s.wired 2) || !s.pt.ssiOn || s.pt.ssiBusy) = true := by
    rw [hssi_on h, show s.pt.ssiBusy = false from hb, (hwired 2).2 h.1]
    decide
  refine ⟨?_, fun hw hsrc => ?_, fun hw => ?_, fun hssi => ⟨fun hbusy => ⟨?_, ?_⟩, fun hbusy hsrc => ⟨fun hnone => ?_, fun hsome => ?_⟩⟩,
    fun x j _ => grayToBin_step x j⟩
  · obtain ⟨u, e, honly, hagree, h0, h1, hcount⟩ := quadEdge_spec s i x other
    have herr (g : BitVec 1) : g ∈ p.clashes (inputsOf s i x other) 0 ++ p.clashes (inputsOf s i x other) 1 ↔ error g := by
      rw [List.mem_append, mem_clashes, mem_clashes]
      simp only [hseen, hquad, Bool.and_eq_true]
      constructor
      · rintro (⟨y, h⟩ | ⟨y, h⟩)
        · exact ⟨0, y, by decide, h⟩
        · exact ⟨1, y, by decide, h⟩
      · rintro ⟨k, y, hk, h⟩
        obtain rfl | rfl : k = 0 ∨ k = 1 := by omega
        · exact .inl ⟨y, h⟩
        · exact .inr ⟨y, h⟩
    refine ⟨u, e, honly, fun y hy => ?_, fun hno => ?_, fun h => by rw [h0, if_pos ((herr 0).2 h)], fun h => by rw [h0, if_neg (mt (herr 0).1 h)],
      fun h => by rw [h1, if_pos ((herr 1).2 h)], fun h => by rw [h1, if_neg (mt (herr 1).1 h)]⟩
    · have hin := (hseen c j y).2 hy
      obtain ⟨-, ha, hb⟩ := hagree c hc
      obtain ⟨-, hqa, hqb, -⟩ := quad_spec p hc y
      have hcnt := hcount c hc
      rw [hin] at hcnt
      have hs : p.sampled (inputsOf s i x other) c = (p.quad c y).1 := by rw [Pt.sampled, hin]
      rw [hs] at ha hb
      refine ⟨(ha.trans hqa).trans (by rw [hda] <;> rfl), (hb.trans hqb).trans (by rw [hdb] <;> rfl), ?_⟩
      rw [← hstep]
      exact hcnt
    · have hin : p.input (inputsOf s i x other) c = none := by
        cases h : p.input (inputsOf s i x other) c with
        | none => rfl
        | some q => exact absurd ((hseen c q.1 q.2).1 h) (hno q.1 q.2)
      obtain ⟨-, ha, hb⟩ := hagree c hc
      have hcnt := hcount c hc
      rw [hin] at hcnt
      have hs : p.sampled (inputsOf s i x other) c = p := by rw [Pt.sampled, hin]
      rw [hs] at ha hb
      exact ⟨ha, hb, hcnt⟩
  · have e : exec (.indexLatch i m) s = .next { s with pt := p.indexed i m } := by
      change execIndexLatch i m s = _
      rw [execIndexLatch, if_pos ((hwired _).2 hw)]
      rfl
    obtain ⟨hsame, hlatch⟩ := indexed_spec (p := p) (m := m) hc (show p.src c = i.toNat from hsrc)
    exact ⟨_, e, rfl, hsame, hlatch⟩
  · change execIndexLatch i m s = _
    rw [execIndexLatch, if_neg (mt (hwired _).1 hw)]
  · change execSsiFrame true s = _
    rw [execSsiFrame, if_neg (hon hssi hbusy), if_pos rfl]
  · change execSsiFrame false s = _
    rw [execSsiFrame, if_neg (hon hssi hbusy), if_neg Bool.false_ne_true]
  · obtain ⟨pre, post, -, -, e⟩ := ssiUpdate_eq raw ((hwired 2).2 hssi.1) (hssi_on hssi) hbusy hc hsrc
    rw [show s.pt.ssiRef = none from hnone] at e
    exact ⟨_, e, rfl, rfl, rfl, rfl⟩
  · obtain ⟨pre, post, hpre, hpost, e⟩ := ssiUpdate_eq raw ((hwired 2).2 hssi.1) (hssi_on hssi) hbusy hc hsrc
    rw [show s.pt.ssiRef = some r from hsome] at e
    obtain ⟨-, hrest, -⟩ := counterSteps_eq { s with pt := p.ssiRead v } ((pre ++ c :: post).map (fun c => (c, ssiStep p.nbits v r)))
    refine ⟨_, e, rfl, congrArg Pt.ssiRef hrest, congrArg Pt.ssiBusy hrest, ?_⟩
    exact count_counterSteps (s := { s with pt := p.ssiRead v }) (pre := pre.map (fun c => (c, ssiStep p.nbits v r)))
      (post := post.map (fun c => (c, ssiStep p.nbits v r))) (List.map_append ..) (by simpa using hpre) (by simpa using hpost)

end Sys2Proof.Machine
end

section
/-! The line answer port (R419–R424). It settles the obligation O44. -/
namespace Sys2Proof.Machine

open Sys2Proof.Safety

/-! ## Frames of the line (R419, R420) -/

/-- The two bytes of a CRC, the high one first. -/
theorem crc_split (b6 b7 : Byte) (c : BitVec 16) : b6 ++ b7 = c ↔ b6 = bits c 8 8 ∧ b7 = bits c 0 8 := by
  constructor
  · rintro rfl
    constructor <;> ext i hi <;> simp [bits] <;> grind
  · rintro ⟨rfl, rfl⟩
    ext i hi
    simp [bits]
    grind

theorem leBits_four (b2 b3 b4 b5 : Byte) : leBits 32 [b2, b3, b4, b5] = b5 ++ b4 ++ b3 ++ b2 := by
  apply BitVec.eq_of_toNat_eq
  simp only [leBits, leNat, BitVec.toNat_ofNat, toNat_append_eq]
  have := b2.isLt
  have := b3.isLt
  have := b4.isLt
  have := b5.isLt
  omega

theorem bits_item (b2 b3 b4 b5 : Byte) : (bits (b5 ++ b4 ++ b3 ++ b2 : Word) 0 8 : Byte) = b2 := by
  ext i hi
  simp [bits]
  grind

theorem answerFrame_eq (a op b2 b3 b4 b5 : Byte) (w : Word) : answerFrame a op [b2, b3, b4, b5] w =
    ([a, op, b2, b3, b4, b5] ++ byteList w 4) ++
      [(crc16 ([a, op, b2, b3, b4, b5] ++ byteList w 4)).extractLsb' 8 8, (crc16 ([a, op, b2, b3, b4, b5] ++ byteList w 4)).extractLsb' 0 8] := by
  rw [answerFrame]
  simp only [bytesOf_eq_byteList]
  rfl

section Frames

variable {s : State} {b0 b1 b2 b3 b4 b5 b6 b7 : Byte}

/-- A frame of eight bytes with a good CRC (R419, R422, R424). -/
theorem lineFrame_good (h14 : bit s.pt.lacfg 14 = true) (hl : s.pt.lade = false) (hc : b6 ++ b7 = crc16 [b0, b1, b2, b3, b4, b5])
    (ha : b0 = bits s.pt.lacfg 0 8) : s.lineFrame [b0, b1, b2, b3, b4, b5, b6, b7] =
      (let p := s.pt
      let item := [b2, b3, b4, b5]
      if b1 = 1 then
        let r := p.lookup s.ptLive (leBits 32 item)
        { s with pt := { r.2.2 with laQuery := satAdd p.laQuery 1, answer := some (answerFrame b0 r.1 item r.2.1) } }
      else if b1 = 2 then
        let run : Word := if bit p.cfg 5 && (s.func (bits p.cfg 0 5)).st = .running then 1 else 0
        { s with pt := { p with answer := some (answerFrame b0 0x83 item run) } }
      else
        { s with pt := { p with laReject := satAdd p.laReject 1, answer := some (answerFrame b0 0x8F item (b1.setWidth 32)) } }) := by
  obtain ⟨h6, h7⟩ := (crc_split b6 b7 _).1 hc
  have hstop : ¬(!(bit s.pt.lacfg 14) || s.pt.lade) = true := by rw [h14, hl]; decide
  rw [State.lineFrame]
  dsimp only
  rw [if_neg hstop, if_neg (by simp)]
  change (if b6 ≠ bits (crc16 [b0, b1, b2, b3, b4, b5]) 8 8 || b7 ≠ bits (crc16 [b0, b1, b2, b3, b4, b5]) 0 8 then _
    else if b0 ≠ bits s.pt.lacfg 0 8 then _ else _) = _
  rw [if_neg (by simp [← h6, ← h7]), if_neg (by simp [← ha])]
  rfl

theorem lineFrame_badCrc (h14 : bit s.pt.lacfg 14 = true) (hl : s.pt.lade = false) (hc : b6 ++ b7 ≠ crc16 [b0, b1, b2, b3, b4, b5]) :
    s.lineFrame [b0, b1, b2, b3, b4, b5, b6, b7] = { s with pt := { s.pt with laBadcrc := satAdd s.pt.laBadcrc 1 } } := by
  have hbad : ¬(b6 = bits (crc16 [b0, b1, b2, b3, b4, b5]) 8 8 ∧ b7 = bits (crc16 [b0, b1, b2, b3, b4, b5]) 0 8) :=
    mt (crc_split b6 b7 _).2 hc
  have hstop : ¬(!(bit s.pt.lacfg 14) || s.pt.lade) = true := by rw [h14, hl]; decide
  rw [State.lineFrame]
  dsimp only
  rw [if_neg hstop, if_neg (by simp)]
  change (if b6 ≠ bits (crc16 [b0, b1, b2, b3, b4, b5]) 8 8 || b7 ≠ bits (crc16 [b0, b1, b2, b3, b4, b5]) 0 8 then _ else _) = _
  rw [if_pos]
  rw [Bool.or_eq_true, decide_eq_true_eq, decide_eq_true_eq]
  exact not_and_or.1 hbad

/-- The reason that a query is not answered with its word (R422). -/
theorem lookup_no {p : Pt} {live : Bool} {item r : Word} (h : live = false ∧ r = 4 ∨ live = true ∧
    ((p.slotAt (bits item 0 8 : Byte).toNat).valid = false ∧ r = 1 ∨ (p.slotAt (bits item 0 8 : Byte).toNat).valid = true ∧
      ((p.slotAt (bits item 0 8 : Byte).toNat).item ≠ item ∧ r = 2 ∨
        (p.slotAt (bits item 0 8 : Byte).toNat).item = item ∧ (p.slotAt (bits item 0 8 : Byte).toNat).armed = false ∧ r = 3))) :
    p.lookup live item = (0x82, r, { p with laNrdy := satAdd p.laNrdy 1, laNrarm := if r = 3 then satAdd p.laNrarm 1 else p.laNrarm }) := by
  rw [Pt.lookup]
  dsimp only
  obtain ⟨hl, rfl⟩ | ⟨hl, ⟨hv, rfl⟩ | ⟨hv, ⟨hi, rfl⟩ | ⟨hi, ha, rfl⟩⟩⟩ := h
  · simp [hl]
  · simp [hl, hv]
  · simp [hl, hv, hi]
  · simp [hl, hv, hi, ha]

end Frames

/-- Settles O44. -/
theorem lineFrames : Obligations.LineFrames := by
  unfold Obligations.LineFrames
  intro s bytes b0 b1 b2 b3 b4 b5 b6 b7 frame p body good item slot answer not_ run
  have hans (op : Byte) (w : Word) : answerFrame b0 op [b2, b3, b4, b5] w = answer op w := answerFrame_eq ..
  have hidx : (bits item 0 8 : Byte) = b2 := bits_item b2 b3 b4 b5
  refine ⟨fun ha hu hpin h14 hl => ?_, fun hl => ?_⟩
  · have hwired : s.wired 5 = true := by
      rw [State.wired, ha, hu]
      simpa using hpin
    have hin (b : List Byte) : s.lineIn b = s.lineFrame b := if_pos hwired
    have hstop : (s.wired 5 && bit s.pt.lacfg 14 && !s.pt.lade) = true := by
      rw [hwired, show bit s.pt.lacfg 14 = true from h14, show s.pt.lade = false from hl]
      decide
    refine ⟨fun hg haddr => ?_, fun hb hc => ?_, ?_, fun hframe => ?_⟩
    · obtain ⟨rfl, hc⟩ := hg
      have hgood := lineFrame_good (s := s) h14 hl hc haddr
      dsimp only at hgood
      rw [leBits_four] at hgood
      refine ⟨fun h1 => ?_, fun h2 => ?_, fun h1 h2 => ?_⟩
      · rw [if_pos h1] at hgood
        have e : exec (.query (body ++ [b6, b7])) s = .next (s.lineIn (body ++ [b6, b7])) := rfl
        rw [hin, show s.lineFrame (body ++ [b6, b7]) = _ from hgood] at e
        have hno (r : Word) (h : p.lookup s.ptLive item = (0x82, r, { p with laNrdy := satAdd p.laNrdy 1, laNrarm := if r = 3 then satAdd p.laNrarm 1 else p.laNrarm })) :
            not_ r := by
          refine e.trans ?_
          rw [show s.pt.lookup s.ptLive (b5 ++ b4 ++ b3 ++ b2) = _ from h]
          dsimp only
          rw [hans]
        refine ⟨fun h => hno 4 (lookup_no (.inl ⟨h, rfl⟩)), fun h hv => hno 1 (lookup_no (.inr ⟨h, .inl ⟨by rw [hidx]; exact hv, rfl⟩⟩)),
          fun h hv hi => hno 2 (lookup_no (.inr ⟨h, .inr ⟨by rw [hidx]; exact hv, .inl ⟨by rw [hidx]; exact hi, rfl⟩⟩⟩)),
          fun h hv hi hna => hno 3 (lookup_no (.inr ⟨h, .inr ⟨by rw [hidx]; exact hv, .inr ⟨by rw [hidx]; exact hi, by rw [hidx]; exact hna, rfl⟩⟩⟩)),
          fun h hv hi harm => ?_⟩
        have hlook : p.lookup s.ptLive item = (0x81, slot.ans, { p.modSlot b2.toNat (fun x => { x with served := true }) with laAnswer := satAdd p.laAnswer 1 }) := by
          rw [Pt.lookup]
          dsimp only
          rw [hidx, show p.slotAt b2.toNat = slot from rfl]
          simp [h, hv, hi, harm]
        rw [show s.pt.lookup s.ptLive (b5 ++ b4 ++ b3 ++ b2) = _ from hlook] at e
        dsimp only at e
        rw [hans] at e
        refine ⟨_, e, ?_, rfl⟩
        exact SMap.get_modify_self (d := ({} : Slot)) (m := p.slot) (k := b2.toNat) (f := fun x => { x with served := true })
      · rw [if_neg (by rw [h2]; decide), if_pos h2] at hgood
        change Host.Outcome.next (s.lineIn (body ++ [b6, b7])) = _
        rw [hin, show s.lineFrame (body ++ [b6, b7]) = _ from hgood]
        rw [hans]
        rfl
      · rw [if_neg h1, if_neg h2] at hgood
        change Host.Outcome.next (s.lineIn (body ++ [b6, b7])) = _
        rw [hin, show s.lineFrame (body ++ [b6, b7]) = _ from hgood, hans]
    · subst hb
      change execBadFrame false _ s = _
      rw [execBadFrame, if_pos (by decide), hin]
      exact congrArg _ (lineFrame_badCrc h14 hl hc)
    · change execBadFrame true bytes s = _
      rw [execBadFrame, if_neg (by decide), if_pos hstop]
      rfl
    · change execAnswerStart s = _
      rw [execAnswerStart, show s.pt.answer = some frame from hframe]
      dsimp only
      rw [if_pos hstop]
  · change execLadeRelease s = _
    rw [execLadeRelease, if_pos (show s.pt.lade = true from hl)]

end Sys2Proof.Machine
end

section
/-! The event table and the registers of the position timebase (R410–R418, R421, R428). They settle the obligation O43. -/
namespace Sys2Proof.Machine

open Sys2Proof.Safety

/-! ## Lists with one element of interest -/

theorem filterMap_single {α β : Type} {f : α → Option β} {e : α} (l : List α) (hnd : l.Nodup) (he : e ∈ l)
    (h : ∀ k, k ≠ e → f k = none) : l.filterMap f = (f e).toList := by
  obtain ⟨pre, post, rfl⟩ := List.append_of_mem he
  have hnone (m : List α) (hm : e ∉ m) : m.filterMap f = [] := by
    rw [List.filterMap_eq_nil_iff]
    exact fun k hk => h k (fun hke => hm (hke ▸ hk))
  obtain ⟨-, hpost, hdis⟩ := List.nodup_append.1 hnd
  rw [List.filterMap_append, hnone pre (fun hp => hdis e hp e (List.mem_cons_self ..) rfl), List.nil_append]
  cases hf : f e with
  | none => rw [List.filterMap_cons_none hf, hnone post (List.nodup_cons.1 hpost).1]; rfl
  | some b => rw [List.filterMap_cons_some hf, hnone post (List.nodup_cons.1 hpost).1]; rfl

theorem mem_keys_of_get {α : Type} {d : α} {m : SMap α} {k : Nat} (h : SMap.get d m k ≠ d) : k ∈ m.map (fun q => q.1) := by
  induction m with
  | nil => exact absurd rfl h
  | cons p m ih =>
    rw [SMap.get_cons] at h
    split at h
    case isTrue hk => exact List.mem_map.2 ⟨p, List.mem_cons_self .., hk⟩
    case isFalse => exact List.mem_cons_of_mem _ (ih h)

/-- The keys of a table of one entry, with those of another map added. -/
theorem keys_union {α : Type} (e : Nat) (m : SMap α) :
    let l := (m.foldl (fun m q => SMap.set false m q.1 true) [(e, true)]).map (fun q => q.1)
    l.Nodup ∧ e ∈ l := by
  have hfold : ∀ (m : SMap α) (a : SMap Bool), SMap.wf false a = true → SMap.get false a e = true →
      SMap.wf false (m.foldl (fun m q => SMap.set false m q.1 true) a) = true ∧
        SMap.get false (m.foldl (fun m q => SMap.set false m q.1 true) a) e = true := by
    intro m
    induction m with
    | nil => exact fun a h k => ⟨h, k⟩
    | cons q m ih =>
      intro a h k
      refine ih _ (SMap.wf_set false a q.1 true h) ?_
      rw [SMap.get_set]
      split
      · rfl
      · exact k
  obtain ⟨hwf, hget⟩ := hfold m [(e, true)] rfl (by rw [SMap.get_cons, if_pos rfl])
  refine ⟨?_, mem_keys_of_get (d := false) (by rw [hget]; decide)⟩
  exact List.pairwise_map.2 (((SMap.wf_iff false _).1 hwf).1.imp (fun h => Nat.ne_of_lt h))

/-! ## The event table (R411–R413) -/

theorem setBit63_eq (x : DWord) (b : Bool) : setBit x 63 b = if b then x ||| 0x8000000000000000 else x &&& 0x7FFFFFFFFFFFFFFF := by
  cases b <;> rfl

theorem toNat_sub48 (a b : VAddr) : (((a - b : VAddr).toNat : Nat) : Int) = ((a.toNat : Int) - b.toNat) % (2 ^ 48 : Int) := by
  have ha := a.isLt
  have hb := b.isLt
  rw [BitVec.toNat_sub]
  omega

/-- Whether a step passes a one-shot entry, in the direction that it names (R412). -/
theorem pass_oneShot {x : EvtEntry} (hper : bit x.w0 51 = false) (o d : VAddr) : x.pass o.toNat d.toInt =
    if 0 < d.toInt ∧ x.w0.getLsbD 49 = true ∧ 1 ≤ (x.w0.extractLsb' 0 48 - o).toNat ∧ ((x.w0.extractLsb' 0 48 - o).toNat : Int) ≤ d.toInt ∨
      d.toInt < 0 ∧ x.w0.getLsbD 50 = true ∧ 1 ≤ (o - x.w0.extractLsb' 0 48).toNat ∧ ((o - x.w0.extractLsb' 0 48).toNat : Int) ≤ -d.toInt
    then some 1 else none := by
  have hup := toNat_sub48 (x.w0.extractLsb' 0 48) o
  have hdown := toNat_sub48 o (x.w0.extractLsb' 0 48)
  have h0 : bit x.dir 0 = x.w0.getLsbD 49 := by simp [bit, EvtEntry.dir, bits]
  have h1 : bit x.dir 1 = x.w0.getLsbD 50 := by simp [bit, EvtEntry.dir, bits]
  have hper' : x.per = false := hper
  have hpos : x.pos = (x.w0.extractLsb' 0 48).toNat := rfl
  rw [EvtEntry.pass, h0, h1, hpos, ← hup, ← hdown]
  simp only [hper', Bool.false_eq_true, if_false]
  generalize (x.w0.extractLsb' 0 48 - o).toNat = u
  generalize (o - x.w0.extractLsb' 0 48).toNat = v
  generalize d.toInt = k
  by_cases hup : 0 < k ∧ x.w0.getLsbD 49 = true
  · have hnot : ¬(k < 0 ∧ x.w0.getLsbD 50 = true ∧ 1 ≤ v ∧ (v : Int) ≤ -k) := fun h => by omega
    rw [if_pos (by rw [hup.2, decide_eq_true hup.1]; rfl)]
    by_cases hin : 1 ≤ u ∧ (u : Int) ≤ k
    · rw [if_pos (by rw [Bool.and_eq_true, decide_eq_true_eq, decide_eq_true_eq]; omega), if_pos (.inl ⟨hup.1, hup.2, hin⟩)]
    · rw [if_neg (by rw [Bool.and_eq_true, decide_eq_true_eq, decide_eq_true_eq]; omega),
        if_neg (fun h => h.elim (fun h => hin h.2.2) hnot)]
  · rw [if_neg (by rw [Bool.and_eq_true, decide_eq_true_eq]; exact fun h => hup h.symm)]
    by_cases hdn : k < 0 ∧ x.w0.getLsbD 50 = true
    · rw [if_pos (by rw [hdn.2, decide_eq_true hdn.1]; rfl)]
      by_cases hin : 1 ≤ v ∧ (v : Int) ≤ -k
      · rw [if_pos (by rw [Bool.and_eq_true, decide_eq_true_eq, decide_eq_true_eq]; omega), if_pos (.inr ⟨hdn.1, hdn.2, hin⟩)]
      · rw [if_neg (by rw [Bool.and_eq_true, decide_eq_true_eq, decide_eq_true_eq]; omega),
          if_neg (fun h => h.elim (fun h => hup ⟨h.1, h.2.1⟩) (fun h => hin h.2.2))]
    · rw [if_neg (by rw [Bool.and_eq_true, decide_eq_true_eq]; exact fun h => hdn h.symm),
        if_neg (fun h => h.elim (fun h => hup ⟨h.1, h.2.1⟩) (fun h => hdn ⟨h.1, h.2.1⟩))]

/-- Entry `x` as a one-shot firing leaves it (R413). -/
def EvtEntry.spent (x : EvtEntry) : EvtEntry := { x with seq := x.seq + 1, w0 := setBit x.w0 63 false }

/-- The table of one armed one-shot entry under one step (R412, R413). -/
theorem fired_single {p : Pt} {e : Nat} {x : EvtEntry} {c : Nat} {o d : VAddr} (hnew : p.wasAt ≠ p.time) (hevt : p.evt = [(e, x)])
    (hen : bit x.w0 63 = true) (hper : bit x.w0 51 = false) (hc : b2n (bit x.w0 48) = c) :
    p.fired c o.toNat d.toInt = match x.pass o.toNat d.toInt with
      | some _ => [(e, x, x.seq, x.spent)]
      | none => [] := by
  have hold (k : Nat) : p.oldWords k = none := if_neg hnew
  have hentry (k : Nat) : p.entry k = if e = k then x else {} := by
    rw [Pt.entry, hevt, SMap.get_cons, SMap.get_nil]
  have hper' : x.per = false := hper
  obtain ⟨hnd, hmem⟩ := keys_union e p.was
  rw [Pt.fired, hevt, List.map_cons, List.map_nil, filterMap_single _ hnd hmem]
  · have he : p.entry e = x := (hentry e).trans (if_pos rfl)
    have hon : (x.en && b2n (bit x.w0 48) = c) = true := by
      rw [EvtEntry.en, hen, hc]
      simp
    simp only [hold, Option.getD_none, he]
    rw [if_pos hon]
    cases x.pass o.toNat d.toInt with
    | none => rfl
    | some k =>
      simp only [EvtEntry.fire, hper', Bool.not_false, if_true]
      rfl
  · intro k hk
    simp only [hold, Option.getD_none, hentry k, if_neg (Ne.symm hk)]
    rfl

/-! ## One update (R412–R418) -/

theorem ofInt_add (o d : VAddr) : BitVec.ofInt 48 ((o.toNat : Int) + d.toInt) = o + d := by
  rw [BitVec.ofInt_add, BitVec.ofInt_toInt, BitVec.ofInt_natCast, BitVec.ofNat_toNat, BitVec.setWidth_eq]

section Update

variable {s : State} {c : BitVec 1} {d : VAddr} {e : Nat} {x : EvtEntry}

theorem exec_counterUpdate (hw : s.pt.src c.toNat ≠ 3 ∧ s.wired (s.pt.src c.toNat) = true) :
    exec (.counterUpdate c d) s = .next (s.counterSteps [(c.toNat, d.toInt)]) := by
  change execCounterUpdate c d s = _
  rw [execCounterUpdate, if_pos (by simp [hw])]
  rfl

theorem counterSteps_silent (hf : s.pt.fired c.toNat (s.pt.count c.toNat).toNat d.toInt = []) :
    s.counterSteps [(c.toNat, d.toInt)] = { s with pt := { s.pt.load c.toNat (s.pt.count c.toNat + d) with actAt := s.pt.time, actN := if s.pt.actAt = s.pt.time then s.pt.actN else 0 } } := by
  rw [State.counterSteps, Pt.updates]
  dsimp only
  rw [hf, ite_self, ofInt_add]
  rfl

theorem counterSteps_fires (hlive : s.ptLive = true) {y : EvtEntry} (hf : s.pt.fired c.toNat (s.pt.count c.toNat).toNat d.toInt = [(e, x, x.seq, y)]) :
    let ka := if s.pt.actAt = s.pt.time then s.pt.actN else 0
    s.counterSteps [(c.toNat, d.toInt)] = { s with pt := { (({ s.pt with evt := SMap.set {} s.pt.evt e y } : Pt).load c.toNat (s.pt.count c.toNat + d)).action x x.seq ka with actAt := s.pt.time, actN := ka + 1 } } := by
  intro ka
  rw [State.counterSteps, Pt.updates]
  dsimp only
  rw [hf, if_pos hlive, ofInt_add]
  rfl

end Update

/-! ## Actions (R415, R418) -/

theorem timed_eq (p : Pt) (a k : Nat) : ∃ b, p.timed a k = { p with slow := (p.timed a k).slow, sentAt := b } := by
  rw [Pt.timed]
  split <;> split <;> exact ⟨_, rfl⟩

theorem slow_timed (p : Pt) (a k : Nat) : (p.timed a k).slow =
    if a ≠ 5 ∧ 15 < k ∨ (a = 0 ∨ a = 4) ∧ 14 ≤ p.recentSends.length then satAdd p.slow 1 else p.slow := by
  have hcond : (a ≠ 5 && decide (15 < k) || (decide (a = 0) || decide (a = 4)) && decide (14 ≤ p.recentSends.length)) = true ↔
      (a ≠ 5 ∧ 15 < k ∨ (a = 0 ∨ a = 4) ∧ 14 ≤ p.recentSends.length) := by simp
  rw [Pt.timed]
  by_cases h : a ≠ 5 ∧ 15 < k ∨ (a = 0 ∨ a = 4) ∧ 14 ≤ p.recentSends.length
  · simp only [hcond, if_pos h]
    split <;> rfl
  · simp only [hcond, if_neg h]
    split <;> rfl

theorem action_fields (p : Pt) (x : EvtEntry) (n : Word) (k : Nat) :
    (p.action x n k).evt = p.evt ∧ (p.action x n k).slow = (p.timed x.act k).slow := by
  obtain ⟨b, hb⟩ := timed_eq p x.act k
  have hevt : (p.timed x.act k).evt = p.evt := by rw [hb]
  rw [← hevt, Pt.action]
  split
  · exact ⟨rfl, rfl⟩
  · split
    · exact ⟨rfl, rfl⟩
    · split
      · exact ⟨rfl, rfl⟩
      · split
        · exact ⟨rfl, rfl⟩
        · split <;> exact ⟨rfl, rfl⟩

/-- The timebase that the action of a fired entry meets: the entry has its new form and the counter has moved. -/
def Pt.struck (p : Pt) (e : Nat) (y : EvtEntry) (c : Nat) (v : VAddr) : Pt := ({ p with evt := SMap.set {} p.evt e y } : Pt).load c v

/-- The timebase after the action of a fired entry, which is the last of its cycle so far. -/
def Pt.acted (p : Pt) (e : Nat) (x : EvtEntry) (c : Nat) (v : VAddr) (ka : Nat) : Pt :=
  { (p.struck e x.spent c v).action x x.seq ka with actAt := p.time, actN := ka + 1 }

theorem acted_spec (p : Pt) (e : Nat) (x : EvtEntry) (c : Nat) (v : VAddr) (ka : Nat) :
    (p.acted e x c v ka).count c = v ∧ (p.acted e x c v ka).entry e = x.spent ∧ (p.acted e x c v ka).slow =
      if x.act ≠ 5 ∧ 15 < ka ∨ (x.act = 0 ∨ x.act = 4) ∧ 14 ≤ p.recentSends.length then satAdd p.slow 1 else p.slow := by
  obtain ⟨hevt, hslow⟩ := action_fields (p.struck e x.spent c v) x x.seq ka
  refine ⟨?_, ?_, ?_⟩
  · refine (count_congr (base_action (p.struck e x.spent c v) x x.seq ka) c).trans ?_
    exact (count_load _ _ _ _).trans (if_pos rfl)
  · refine (congrArg (fun m => SMap.get {} m e) hevt).trans ?_
    exact SMap.get_set_self {} p.evt e x.spent
  · exact hslow.trans (slow_timed _ _ _)

section Actions

variable {p : Pt} {x : EvtEntry} {ka : Nat}

theorem action_post (h : x.act = 0) (n : Word) : (p.action x n ka).level = p.level ∧ (p.action x n ka).sendBuf = p.sendBuf ++
    [⟨2, 0xFFF, 3, none, x.w1.extractLsb' 48 16, [x.w2.extractLsb' 32 32 + if x.w0.getLsbD 55 then n else 0], x.w2.extractLsb' 0 32, false, 0, none⟩] := by
  obtain ⟨b, hb⟩ := timed_eq p x.act ka
  rw [Pt.action, if_pos h, hb]
  exact ⟨rfl, rfl⟩

theorem action_pin (h : x.act = 1 ∨ x.act = 2 ∨ x.act = 3) (n : Word) :
    let pin := (x.w2.extractLsb' 0 3).toNat
    let q := p.action x n ka
    q.level = setBit p.level pin (decide (x.act ≠ 2)) ∧ q.pulse = setBit p.pulse pin (decide (x.act = 3)) ∧ q.sendBuf = p.sendBuf ∧
      (x.act = 3 → SMap.get 0 q.pulseEnd pin = p.time + BitVec.ofNat 64 (2 + ka + max (x.w2.extractLsb' 16 16).toNat 1 * 1024)) := by
  obtain ⟨b, hb⟩ := timed_eq p x.act ka
  intro pin q
  simp only [q, Pt.action]
  obtain h | h | h := h
  · rw [hb, h]
    exact ⟨rfl, rfl, rfl, fun h3 => absurd h3 (by decide)⟩
  · rw [hb, h]
    exact ⟨rfl, rfl, rfl, fun h3 => absurd h3 (by decide)⟩
  · rw [hb, h]
    exact ⟨rfl, rfl, rfl, fun _ => SMap.get_set_self 0 _ _ _⟩

theorem action_snap (h : x.act = 4) (n : Word) :
    let pick := (x.w2.extractLsb' 32 2).toNat
    let v : VAddr := if pick = 0 then p.count 0 else if pick = 1 then p.count 1
      else if pick = 2 then (p.ssiRef.getD 0).setWidth 48 else p.time.extractLsb' 0 48
    (p.action x n ka).level = p.level ∧ (p.action x n ka).sendBuf = p.sendBuf ++
      [⟨2, 0xFFF, 3, none, v.extractLsb' 32 16, [v.extractLsb' 0 32], x.w2.extractLsb' 0 32, false, 0, none⟩] := by
  obtain ⟨b, hb⟩ := timed_eq p x.act ka
  intro pick v
  rw [Pt.action, hb, h]
  exact ⟨rfl, rfl⟩

theorem action_arm (h : x.act = 5) (n : Word) :
    let i := ((x.w2.extractLsb' 0 8).toNat + n.toNat) % 256
    (p.action x n ka).slotAt i = { p.slotAt i with armed := true } := by
  obtain ⟨b, hb⟩ := timed_eq p x.act ka
  intro i
  rw [Pt.action, hb, h]
  exact SMap.get_modify_self (d := ({} : Slot)) (m := p.slot) (k := i) (f := fun x => { x with armed := true })

end Actions

/-! ## The time that a pulse has left (R415) -/

theorem elapse_pt (s : State) (n : Nat) : (s.elapse n).hbm = s.hbm ∧ ∃ v, (s.elapse n).pt = { s.pt with time := v } ∧
    (s.lands.coldrst = true → s.lands.railHold = false → v = s.pt.time + BitVec.ofNat 64 n) ∧ (n = 0 → v = s.pt.time) := by
  rw [State.elapse]
  split
  case isTrue h => exact ⟨rfl, s.pt.time, rfl, fun h1 h2 => absurd h (by simp [h1, h2]), fun _ => rfl⟩
  case isFalse h => exact ⟨rfl, _, rfl, fun _ _ => rfl, fun h0 => by rw [h0]; exact BitVec.add_zero _⟩

/-! ## An update under a table of one armed one-shot entry (R410–R415) -/

section Single

variable {s : State} {c : BitVec 1} {d : VAddr} {e : Nat} {x : EvtEntry}

theorem exec_counterUpdate_of_passed (hlive : s.ptLive = true)
    (hw : s.pt.src c.toNat ≠ 3 ∧ s.wired (s.pt.src c.toNat) = true) (hnew : s.pt.wasAt ≠ s.pt.time) (hevt : s.pt.evt = [(e, x)])
    (hen : bit x.w0 63 = true) (hper : bit x.w0 51 = false) (hc : b2n (bit x.w0 48) = c.toNat)
    (hp : x.pass (s.pt.count c.toNat).toNat d.toInt = some 1) :
    exec (.counterUpdate c d) s = .next { s with
      pt := s.pt.acted e x c.toNat (s.pt.count c.toNat + d) (if s.pt.actAt = s.pt.time then s.pt.actN else 0) } := by
  have hf := fired_single (o := s.pt.count c.toNat) (d := d) hnew hevt hen hper hc
  simp only [hp] at hf
  rw [exec_counterUpdate hw]
  exact congrArg _ (counterSteps_fires hlive hf)

theorem exec_counterUpdate_of_not_passed (hw : s.pt.src c.toNat ≠ 3 ∧ s.wired (s.pt.src c.toNat) = true)
    (hnew : s.pt.wasAt ≠ s.pt.time) (hevt : s.pt.evt = [(e, x)])
    (hen : bit x.w0 63 = true) (hper : bit x.w0 51 = false) (hc : b2n (bit x.w0 48) = c.toNat)
    (hp : x.pass (s.pt.count c.toNat).toNat d.toInt = none) :
    exec (.counterUpdate c d) s = .next { s with pt := { s.pt.load c.toNat (s.pt.count c.toNat + d) with
      actAt := s.pt.time, actN := if s.pt.actAt = s.pt.time then s.pt.actN else 0 } } := by
  have hf := fired_single (o := s.pt.count c.toNat) (d := d) hnew hevt hen hper hc
  simp only [hp] at hf
  rw [exec_counterUpdate hw]
  exact congrArg _ (counterSteps_silent hf)

end Single

theorem exec_pulseEnd {s : State} {j : BitVec 3} (h : bit s.pt.pulse j.toNat = true) :
    let left : Int := (SMap.get 0 s.pt.pulseEnd j.toNat - s.pt.time : DWord).toInt
    ∃ u, exec (.pulseEnd j) s = .next u ∧ u.pt.level = setBit s.pt.level j.toNat false ∧
      u.pt.pulse = setBit s.pt.pulse j.toNat false ∧ u.hbm = s.hbm ∧ (left ≤ 0 → u.pt.time = s.pt.time) ∧
      (0 < left → s.lands.coldrst = true → s.lands.railHold = false → u.pt.time = SMap.get 0 s.pt.pulseEnd j.toNat) := by
  intro left
  obtain ⟨hhbm, v, hpt, hv, hv0⟩ := elapse_pt s left.toNat
  refine ⟨{ s.elapse left.toNat with pt := (s.elapse left.toNat).pt.setPin j.toNat false }, ?_, ?_, ?_, hhbm, ?_, ?_⟩
  · change execPulseEnd j s = _
    rw [execPulseEnd, if_pos h]
  · exact (congrArg (fun q : Pt => (q.setPin j.toNat false).level) hpt).trans rfl
  · exact (congrArg (fun q : Pt => (q.setPin j.toNat false).pulse) hpt).trans rfl
  · intro hle
    refine (congrArg (fun q : Pt => (q.setPin j.toNat false).time) hpt).trans ?_
    exact hv0 (Int.toNat_of_nonpos hle)
  · intro hlt h1 h2
    refine (congrArg (fun q : Pt => (q.setPin j.toNat false).time) hpt).trans ((hv h1 h2).trans ?_)
    have hn : BitVec.ofNat 64 left.toNat = SMap.get 0 s.pt.pulseEnd j.toNat - s.pt.time := by
      rw [← BitVec.ofInt_natCast, Int.toNat_of_nonneg (Int.le_of_lt hlt)]
      exact BitVec.ofInt_toInt
    rw [hn, BitVec.add_comm, BitVec.sub_add_cancel]

end Sys2Proof.Machine
end

section
/-! Register writes of the position timebase (R402, R410, R411, R421, R428), and the proof of O43. -/
namespace Sys2Proof.Machine

open Sys2Proof.Safety

/-! ## The PT_ block -/

theorem csrBlk_paPt {o : Nat} (ho : o < 0x40000) : csrBlk (paPt o) = some (.pt o) := by
  have hn : paPt o - 0x3F0000000000 - 0x800000000 = o := by unfold paPt; omega
  have hlo : ¬paPt o < 0x3F0000000000 := by unfold paPt; omega
  have hge (n : Nat) (hn : n ≤ 0x800000000) : ¬paPt o - 0x3F0000000000 < n := by unfold paPt; omega
  have h1 : 0x800000000 ≤ paPt o - 0x3F0000000000 := by unfold paPt; omega
  have h2 : paPt o - 0x3F0000000000 < 0x800040000 := by unfold paPt; omega
  simp only [csrBlk, hn, hlo, h1, h2, hge 0x40000000, hge 0x110000000, hge 0x210000000, hge 0x300100000, hge 0x400020000,
    hge 0x400140000, hge 0x500010000, hge 0x600020000, hge 0x600021000, hge 0x700000100, Nat.reduceLeDiff, decide_true,
    decide_false, Bool.and_false, Bool.and_self, Bool.false_eq_true, if_true, if_false]

theorem touchHalf_paPt (s : State) {o : Nat} : s.touchHalf (paPt o) = s := by
  have hlo : ¬paPt o < 0x3F0000000000 := by unfold paPt; omega
  have hge (n : Nat) (hn : n ≤ 0x800000000) : ¬paPt o - 0x3F0000000000 < n := by unfold paPt; omega
  rw [State.touchHalf, csrTile]
  simp only [hlo, hge 0x40000000, hge 0x110000000, hge 0x210000000, Nat.reduceLeDiff, decide_false, Bool.and_false,
    Bool.false_eq_true, if_false]

/-- A thread at M may write the timebase, and so may one at S of its owner, but for PT_CFG (R402). -/
def TimebaseWriter (s : State) (src : Src) : Prop := match src with
  | .thread t h => (s.th t h).st.pl = 3 ∨ (s.th t h).st.pl = 2 ∧ s.pt.cfg.getLsbD 5 = true ∧
      (s.tile t).func = some (s.pt.cfg.extractLsb' 0 5)
  | _ => True

section PtWrites

variable {s : State} {src : Src} {o acc : Nat} {v : DWord} {r : PtReg}

theorem srcMay_pt (h : TimebaseWriter s src) (ho : o ≠ 0) : s.srcMay src (.pt o) (some v) = true := by
  cases src with
  | thread t k =>
    obtain h | ⟨h, hcfg, hf⟩ := (show _ ∨ _ from h)
    · simp [State.srcMay, State.csrPerm, h]
    · simp [State.srcMay, State.csrPerm, h, State.superMay, hf, bits, hcfg, ho]
  | _ => rfl

theorem regWrite_pt (ha : s.alive = true) (h : TimebaseWriter s src) (ho : o < 0x40000) (h0 : o ≠ 0)
    (hr : ptReg o = some (r, acc)) : s.regWrite src (paPt o) acc v none = s.ptWrite r v := by
  rw [regWrite_of_ready ha (csrBlk_paPt ho) (srcMay_pt h h0) rfl, touchHalf_paPt]
  simp only [State.doWrite, State.sizedWrite, Blk.width, State.blkWrite, hr, Option.map_some, if_true]

end PtWrites

/-! ## Offsets -/

theorem arr_of_mem {o base stride n i : Nat} (ho : o = base + stride * i) (hi : i < n) (hs : 0 < stride) :
    arr o base stride n = some i := by
  have hlt : stride * i < stride * n := Nat.mul_lt_mul_of_pos_left hi hs
  subst ho
  rw [arr, Nat.add_sub_cancel_left, Nat.mul_mod_right, Nat.mul_div_cancel_left i hs, if_pos (by simp [hlt])]

theorem arr_of_off {o base stride n : Nat} (h : o < base ∨ base + stride * n ≤ o ∨ (o - base) % stride ≠ 0) :
    arr o base stride n = none := by
  rw [arr, if_neg (by simp only [Bool.and_eq_true, decide_eq_true_eq]; omega)]

theorem ptReg_cnt (c : BitVec 1) : ptReg (0x10 + 8 * c.toNat) = some (.cnt c.toNat, 8) := by
  have := c.isLt
  interval_cases c.toNat <;> rfl

theorem ptReg_evt (e : BitVec 10) : ptReg (0x10000 + 32 * e.toNat) = some (.evt e.toNat 0, 8) := by
  have he := e.isLt
  have hne (n : Nat) (hn : n < 0x10000) : 0x10000 + 32 * e.toNat ≠ n := by omega
  rw [ptReg, arr_of_off (base := 0x10) (by omega), arr_of_off (base := 0x20) (by omega), arr_of_off (base := 0x30) (by omega),
    arr_of_mem (base := 0x10000) (i := 4 * e.toNat) (by omega) (by omega) (by omega)]
  simp only [hne 0, hne 8, hne 0x40, hne 0x48, hne 0x50, hne 0x58, hne 0x60, hne 0x68, hne 0x70, hne 0x78, hne 0x80,
    Nat.reduceLT, if_false]
  rw [show 4 * e.toNat / 4 = e.toNat by omega, show 4 * e.toNat % 4 = 0 by omega]

/-- An offset in the answer slots is none of the registers below them. -/
theorem ptReg_slots {o : Nat} (ho : 0x20000 ≤ o) : ptReg o = match arr o 0x20000 32 256 with
    | some i => some (.sitem i, 4)
    | none => match arr o 0x20008 32 256 with
      | some i => some (.sans i, 4)
      | none => match arr o 0x20010 32 256 with
        | some i => some (.sctl i, 4)
        | none => none := by
  have hne (n : Nat) (hn : n < 0x20000) : o ≠ n := by omega
  rw [ptReg, arr_of_off (base := 0x10) (by omega), arr_of_off (base := 0x20) (by omega), arr_of_off (base := 0x30) (by omega),
    arr_of_off (base := 0x10000) (by omega)]
  simp only [hne 0, hne 8, hne 0x40, hne 0x48, hne 0x50, hne 0x58, hne 0x60, hne 0x68, hne 0x70, hne 0x78, hne 0x80,
    Nat.reduceLT, if_false] <;> rfl

theorem ptReg_slotWord (i : BitVec 8) (ans : Bool) : ptReg (0x20000 + 32 * i.toNat + 8 * b2n ans) =
    some (if ans then .sans i.toNat else .sitem i.toNat, 4) := by
  have hi := i.isLt
  rw [ptReg_slots (by omega)]
  cases ans with
  | false => rw [arr_of_mem (base := 0x20000) (i := i.toNat) (by rw [show b2n false = 0 from rfl]; rfl) hi (by omega)]; rfl
  | true =>
    rw [arr_of_off (base := 0x20000) (.inr (.inr (by rw [show b2n true = 1 from rfl]; omega))),
      arr_of_mem (base := 0x20008) (i := i.toNat) (by rw [show b2n true = 1 from rfl]; omega) hi (by omega)]
    rfl

theorem ptReg_sctl (i : BitVec 8) : ptReg (0x20010 + 32 * i.toNat) = some (.sctl i.toNat, 4) := by
  have hi := i.isLt
  rw [ptReg_slots (by omega), arr_of_off (base := 0x20000) (.inr (.inr (by omega))),
    arr_of_off (base := 0x20008) (.inr (.inr (by omega))), arr_of_mem (base := 0x20010) (i := i.toNat) rfl hi (by omega)]

/-! ## Enables (R411) -/

/-- Entry `x` with a new word 0 whose EN is 0. -/
def EvtEntry.idle (x : EvtEntry) (w : DWord) : EvtEntry := { x with w0 := w &&& 0x00FFFFFFFFFFFFFF }

theorem write_enable (x : EvtEntry) (w : DWord) (hen : bit x.w0 63 = false) : x.write 0 (setBit w 63 true) =
    if (x.idle w).badEnable then { x.idle w with cfgerr := true }
    else { x.idle w with w0 := (x.idle w).w0 ||| 0x8000000000000000, seq := 0, cfgerr := false } := by
  have hv : bit (setBit w 63 true) 63 = true := by simp [bit, getLsbD_setBit w (show 63 < 64 by omega)]
  have hw : setBit (setBit w 63 true &&& 0x80FFFFFFFFFFFFFF) 63 false = w &&& 0x00FFFFFFFFFFFFFF := by
    rw [setBit63_eq, setBit63_eq]
    simp only [if_true, Bool.false_eq_true, if_false]
    rw [BitVec.and_assoc, BitVec.and_or_distrib_right]
    simp
  rw [EvtEntry.write, EvtEntry.en, hen]
  simp only [Bool.false_eq_true, if_false, if_true, hv, Bool.not_true, hw]
  rw [setBit63_eq]
  rfl

theorem badEnable_idle (x : EvtEntry) (w : DWord) : (x.idle w).badEnable = false ↔
    w.extractLsb' 49 2 ≠ (0#2) ∧ (w.extractLsb' 52 3).toNat < 6 ∧
      (w.getLsbD 51 = true → w.extractLsb' 49 2 ≠ (3#2) ∧ x.w1.extractLsb' 0 32 ≠ (0#32)) := by
  have hdir : (x.idle w).dir = w.extractLsb' 49 2 := by
    rw [EvtEntry.dir, bits, EvtEntry.idle, BitVec.extractLsb'_and]
    exact BitVec.and_allOnes
  have hact : (x.idle w).act = (w.extractLsb' 52 3).toNat := by
    rw [EvtEntry.act, bits, EvtEntry.idle, BitVec.extractLsb'_and]
    exact congrArg BitVec.toNat BitVec.and_allOnes
  have hper : (x.idle w).per = w.getLsbD 51 := by simp [EvtEntry.per, bit, EvtEntry.idle]
  have hperiod : (x.idle w).period = (x.w1.extractLsb' 0 32).toNat := rfl
  have hzero : (x.w1.extractLsb' 0 32).toNat = 0 ↔ x.w1.extractLsb' 0 32 = 0#32 := toNat_eq_zero_iff _
  rw [EvtEntry.badEnable, hdir, hact, hper, hperiod]
  simp only [Bool.or_eq_false_iff, Bool.and_eq_false_iff, decide_eq_false_iff_not, hzero, Nat.not_le]
  cases w.getLsbD 51 <;> simp [and_assoc]

theorem entry_writeEntry (p : Pt) (e : Nat) (f : EvtEntry → EvtEntry) : (p.writeEntry e f).entry e = f (p.entry e) :=
  SMap.get_modify_self ({} : EvtEntry) p.evt e f

/-! ## Answer slots (R421) -/

section Slots

variable (p : Pt) (i : Nat) (f : Slot → Slot)

theorem slotAt_modSlot : (p.modSlot i f).slotAt i = f (p.slotAt i) := SMap.get_modify_self _ _ _ _
theorem slotAt_modSlot_ne {j : Nat} (h : j ≠ i) : (p.modSlot i f).slotAt j = p.slotAt j := SMap.get_modify_ne _ _ _ h

theorem lateWrite_frame : (p.lateWrite i).evt = p.evt ∧ (p.lateWrite i).latewr = satAdd p.latewr 1 ∧
    (p.lateWrite i).slotAt i = { p.slotAt i with late := true } ∧ ∀ j, j ≠ i → (p.lateWrite i).slotAt j = p.slotAt j :=
  ⟨rfl, rfl, slotAt_modSlot p i (fun x => { x with late := true }), fun _ h => slotAt_modSlot_ne p i (fun x => { x with late := true }) h⟩

end Slots

/-- A write of an answer slot that is not armed, as the slot's word or its VALID. -/
theorem slotWord_of_idle {p : Pt} {i : Nat} (h : (p.slotAt i).armed = false) (ans : Bool) (w : Word) :
    p.slotWord i ans w = p.modSlot i (fun x => if ans then { x with ans := w } else { x with item := w }) := by
  rw [Pt.slotWord, if_neg (by rw [h]; decide)]

theorem slotCtl_valid_of_idle {p : Pt} {i : Nat} (h : (p.slotAt i).armed = false) :
    p.slotCtl i true false = p.modSlot i (fun x => { x with valid := true }) := by
  simp only [Pt.slotCtl, Bool.false_eq_true, if_false, Bool.not_true, h]

theorem slotWord_of_armed {p : Pt} {i : Nat} (h : (p.slotAt i).armed = true) (ans : Bool) (w : Word) :
    p.slotWord i ans w = p.lateWrite i := if_pos h

theorem slotCtl_valid_of_armed {p : Pt} {i : Nat} (h : (p.slotAt i).armed = true) : p.slotCtl i true false = p.lateWrite i := by
  simp only [Pt.slotCtl, Bool.false_eq_true, if_false, Bool.not_true, h, if_true]

theorem slotCtl_free (p : Pt) (i : Nat) : p.slotCtl i false true =
    p.modSlot i (fun x => { x with valid := false, armed := false, served := false, late := false }) := rfl

/-! ## The writes as instructions -/

section Writes

variable {s : State} {src : Src} (ha : s.alive = true) (hm : TimebaseWriter s src)
include ha hm

theorem exec_counterLoad (c : BitVec 1) (w : DWord) : exec (.counterLoad src c w) s = .next (s.ptWrite (.cnt c.toNat) w) :=
  congrArg Host.Outcome.next (regWrite_pt ha hm (by have := c.isLt; omega) (by omega) (ptReg_cnt c))

theorem exec_eventEntryEnable (e : BitVec 10) (w : DWord) : exec (.eventEntryEnable src e w) s =
    .next (s.ptWrite (.evt e.toNat 0) (setBit w 63 true)) :=
  congrArg Host.Outcome.next (regWrite_pt ha hm (by have := e.isLt; omega) (by omega) (ptReg_evt e))

theorem exec_pinWrite (v : Word) : exec (.pinWrite src v) s = .next (s.ptWrite .pin (v.setWidth 64)) :=
  congrArg Host.Outcome.next (regWrite_pt ha hm (by decide) (by decide) (show ptReg 0x58 = some (.pin, 4) from rfl))

theorem exec_slotWrite (i : BitVec 8) (ans : Bool) (v : Word) : exec (.slotWrite src i ans v) s =
    .next { s with pt := s.pt.slotWord i.toNat ans v } := by
  have hi := i.isLt
  have hb : b2n ans ≤ 1 := by cases ans <;> decide
  have h := regWrite_pt (v := v.setWidth 64) ha hm (by omega) (by omega) (ptReg_slotWord i ans)
  have hv : (bits (v.setWidth 64 : DWord) 0 32 : Word) = v := by
    rw [bits_zero_eq_setWidth]
    exact BitVec.setWidth_setWidth_of_le v (by decide)
  refine congrArg Host.Outcome.next (h.trans ?_)
  cases ans <;> simp only [if_true, Bool.false_eq_true, if_false, State.ptWrite, hv]

theorem exec_slotValid (i : BitVec 8) : exec (.slotValid src i) s = .next { s with pt := s.pt.slotCtl i.toNat true false } :=
  congrArg Host.Outcome.next (regWrite_pt ha hm (by have := i.isLt; omega) (by omega) (ptReg_sctl i))

theorem exec_slotFree (i : BitVec 8) : exec (.slotFree src i) s = .next { s with pt := s.pt.slotCtl i.toNat false true } :=
  congrArg Host.Outcome.next (regWrite_pt ha hm (by have := i.isLt; omega) (by omega) (ptReg_sctl i))

end Writes

/-! ## The obligation -/

/-- Settles O43: each action is that of a table with one armed one-shot entry, each register write that of the PT_ block. -/
theorem timebaseEventsAndRegisters : Obligations.TimebaseEventsAndRegisters := by
  unfold Obligations.TimebaseEventsAndRegisters
  refine ⟨?_, ?_⟩
  · intro s c d e x j m rest p o ahead behind passed act pin source wired ka crowd left event pick snap fired
    have hsrc : p.src c.toNat = source.toNat := rfl
    have hwired : wired ↔ s.pt.src c.toNat ≠ 3 ∧ s.wired (s.pt.src c.toNat) = true := by
      have h3 : source ≠ 3 ↔ source.toNat ≠ 3 := by
        rw [Ne, Ne, ← BitVec.toNat_inj]
        rfl
      change (source ≠ 3 ∧ _) ↔ source.toNat ≠ 3 ∧ s.wired source.toNat = true
      rw [h3]
      simp [State.wired, and_assoc]
    refine ⟨?_, ?_, exec_pulseEnd, ?_⟩
    · intro hno
      change execCounterUpdate c d s = _
      rw [execCounterUpdate, if_neg]
      intro h
      exact hno (hwired.2 (by simpa using h))
    · intro hw hlive hnew hevt hen hper hcx
      have hw := hwired.1 hw
      have hc : b2n (bit x.w0 48) = c.toNat := by
        change (x.w0.getLsbD 48 = true ↔ c = 1) at hcx
        change b2n (x.w0.getLsbD 48) = _
        have hc' : c = 0 ∨ c = 1 := BitVec.eq_zero_or_eq_one c
        obtain rfl | rfl := hc'
        · rw [Bool.eq_false_iff.2 (fun h => absurd (hcx.1 h) (by decide))]; rfl
        · rw [hcx.2 rfl]; rfl
      have hpass := pass_oneShot (x := x) hper o d
      have hfired (h : passed) (u : State) (hu : u = { s with pt := s.pt.acted e x c.toNat (o + d) ka }) :
          exec (.counterUpdate c d) s = .next u ∧ fired u := by
        subst hu
        refine ⟨exec_counterUpdate_of_passed hlive hw hnew hevt hen hper hc (hpass.trans (if_pos h)), rfl, ?_⟩
        exact acted_spec s.pt e x c.toNat (o + d) ka
      refine ⟨?_, ?_, ?_, ?_, ?_⟩
      · intro h ha
        obtain ⟨hex, hf⟩ := hfired h _ rfl
        obtain ⟨hl, hb⟩ := action_post (p := p.struck e x.spent c.toNat (o + d)) (ka := ka) ha x.seq
        exact ⟨_, hex, hf, hb, hl⟩
      · intro h ha
        obtain ⟨hex, hf⟩ := hfired h _ rfl
        obtain ⟨hl, hb⟩ := action_snap (p := p.struck e x.spent c.toNat (o + d)) (ka := ka) ha x.seq
        refine ⟨_, hex, hf, hl, hb.trans ?_⟩
        have hsnap : snap = (if pick = 0 then (p.struck e x.spent c.toNat (o + d)).count 0
            else if pick = 1 then (p.struck e x.spent c.toNat (o + d)).count 1
            else if pick = 2 then (p.ssiRef.getD 0).setWidth 48 else p.time.extractLsb' 0 48) := by
          have hcount (k : Nat) : (p.struck e x.spent c.toNat (o + d)).count k = if k = c.toNat then o + d else p.count k :=
            count_load _ _ _ _
          have hcl := c.isLt
          simp only [hcount, snap]
          by_cases h0 : pick = 0
          · simp [h0]
          · by_cases h1 : pick = 1
            · simp [h1]
            · rw [if_neg (by omega), if_neg (by omega), if_neg h0, if_neg h1]
        rw [hsnap]
        rfl
      · intro h ha
        obtain ⟨hex, hf⟩ := hfired h _ rfl
        obtain ⟨hl, hpu, hb, hend⟩ := action_pin (p := p.struck e x.spent c.toNat (o + d)) (ka := ka) ha x.seq
        exact ⟨_, hex, hf, hl, hpu, hb, hend⟩
      · intro h ha
        obtain ⟨hex, hf⟩ := hfired h _ rfl
        exact ⟨_, hex, hf, action_arm (p := p.struck e x.spent c.toNat (o + d)) (ka := ka) ha x.seq⟩
      · intro h
        refine ⟨_, exec_counterUpdate_of_not_passed hw hnew hevt hen hper hc (hpass.trans (if_neg h)), rfl, ?_⟩
        exact (count_load _ _ _ _).trans (if_pos rfl)
    · intro hs
      change execPositionEventSend s = _
      rw [execPositionEventSend, hs]
      rfl
  · intro s src c w e v i ans p may x w0 legal slot makes becomes hmay
    obtain ⟨ha, hm⟩ := hmay
    have hm : TimebaseWriter s src := hm
    have hslot (f : Slot → Slot) : (p.modSlot i.toNat f).slotAt i.toNat = f slot ∧ (p.modSlot i.toNat f).evt = p.evt ∧
        ∀ j, j ≠ i.toNat → (p.modSlot i.toNat f).slotAt j = p.slotAt j :=
      ⟨slotAt_modSlot p _ f, rfl, fun _ h => slotAt_modSlot_ne p _ f h⟩
    have hlate (k : Instr) (hk : exec k s = .next { s with pt := p.lateWrite i.toNat }) :
        becomes k { slot with late := true } ∧ makes k (fun q => q.latewr = satAdd p.latewr 1) := by
      obtain ⟨hevt, hcount, hself, hother⟩ := lateWrite_frame p i.toNat
      exact ⟨⟨_, hk, rfl, hself, hevt, hother⟩, ⟨_, hk, rfl, hcount⟩⟩
    refine ⟨⟨_, exec_counterLoad ha hm c w, rfl, rfl, ?_⟩, ?_, ?_, ⟨_, exec_pinWrite ha hm v, rfl, ?_⟩, ?_, ?_, ?_⟩
    · exact (count_load _ _ _ _).trans (if_pos rfl)
    · intro hen hl
      refine ⟨_, exec_eventEntryEnable ha hm e w, rfl, ?_⟩
      refine (entry_writeEntry _ _ _).trans ((write_enable x w hen).trans ?_)
      rw [if_neg (by rw [(badEnable_idle x w).2 hl]; decide)]
      rfl
    · intro hen hl
      refine ⟨_, exec_eventEntryEnable ha hm e w, rfl, ?_⟩
      refine (entry_writeEntry _ _ _).trans ((write_enable x w hen).trans ?_)
      rw [if_pos (Bool.not_eq_false _ ▸ fun h => hl ((badEnable_idle x w).1 h))]
      rfl
    · have hv : (bits (v.setWidth 64 : DWord) 0 8 : Byte) = v.extractLsb' 0 8 := by
        rw [bits_zero_eq_setWidth, BitVec.setWidth_setWidth_of_le v (by decide)]
        exact (bits_zero_eq_setWidth v).symm
      rw [← hv]
      rfl
    · intro hidle
      refine ⟨?_, ?_⟩
      · refine ⟨_, exec_slotWrite ha hm i ans v, rfl, ?_⟩
        change (s.pt.slotWord _ _ _).slotAt _ = _ ∧ _
        rw [slotWord_of_idle hidle]
        exact hslot _
      · refine ⟨_, exec_slotValid ha hm i, rfl, ?_⟩
        change (s.pt.slotCtl _ _ _).slotAt _ = _ ∧ _
        rw [slotCtl_valid_of_idle hidle]
        exact hslot _
    · intro harm k hk
      obtain rfl | rfl := List.mem_pair.1 hk
      · exact hlate _ ((exec_slotWrite ha hm i ans v).trans (by rw [slotWord_of_armed harm]))
      · exact hlate _ ((exec_slotValid ha hm i).trans (by rw [slotCtl_valid_of_armed harm]))
    · exact ⟨_, exec_slotFree ha hm i, rfl, hslot _⟩

end Sys2Proof.Machine
end

section
/-! Cold start (R178, R284, R469, R471, R476), and the proof of O45. -/
namespace Sys2Proof.Machine

open Sys2Proof.Safety

/-! ## Changes of every tile -/

theorem SMap.get_tabulate {α : Type} [DecidableEq α] (d : α) (g : Nat → α) (k : Nat) : ∀ n : Nat,
    SMap.get d ((List.range n).filterMap (fun i => if g i = d then none else some (i, g i))) k = if k < n then g k else d := by
  have hmem (l : List Nat) : SMap.get d (l.filterMap (fun i => if g i = d then none else some (i, g i))) k =
      if k ∈ l then g k else d := by
    induction l with
    | nil => rfl
    | cons i l ih =>
      rw [List.filterMap_cons]
      by_cases hi : g i = d
      · rw [if_pos hi, ih]
        by_cases hk : k = i
        · subst hk
          simp [hi]
        · simp [hk]
      · rw [if_neg hi]
        dsimp only
        rw [SMap.get_cons, ih]
        by_cases hk : i = k
        · simp [hk]
        · simp [hk, Ne.symm hk]
  intro n
  rw [hmem]
  simp only [List.mem_range]

theorem SMap.get_foldl_set_range {α : Type} [DecidableEq α] (d : α) (m : SMap α) (g : Nat → α) (k n : Nat) :
    SMap.get d ((List.range n).foldl (fun a i => SMap.set d a i (g i)) m) k = if k < n then g k else SMap.get d m k := by
  induction n with
  | zero => simp
  | succ n ih =>
    rw [List.range_succ, List.foldl_append, List.foldl_cons, List.foldl_nil, SMap.get_set, ih]
    by_cases h : k = n
    · simp [h]
    · rw [if_neg h]
      exact if_congr (by omega) rfl rfl

theorem State.tile_mapTiles (s : State) (f : TileId → Tile → Tile) (t : TileId) : (s.mapTiles f).tile t = f t (s.tile t) := by
  have ht : t.toNat < 4096 := t.isLt
  rw [State.tile, State.mapTiles]
  dsimp only
  generalize 4096 = n at ht
  rw [SMap.get_tabulate ({} : Tile) (fun i => f (BitVec.ofNat 12 i) (s.tile (BitVec.ofNat 12 i))), if_pos ht, BitVec.ofNat_toNat,
    BitVec.setWidth_eq]

theorem State.mapTiles_frame (s : State) (f : TileId → Tile → Tile) : s.mapTiles f = { s with tiles := (s.mapTiles f).tiles } := by
  rw [State.mapTiles]

/-! ## Leaving service before any function is defined -/

/-- The state changes in its ports alone. -/
def OnlyPorts (s u : State) : Prop := u = { s with ports := u.ports }

theorem sendFault_ports (s : State) (b : Byte) : OnlyPorts s (s.sendFault b) := by
  rw [State.sendFault]
  generalize s.activePorts = l
  induction l generalizing s with
  | nil => rfl
  | cons p l ih =>
    have h := ih (s.modPort p (fun x => x.control [0x04, b]))
    exact h.trans rfl

theorem defined_of_absent {s : State} (h : ∀ f, (s.func f).st = .absent) : s.defined = [] :=
  List.filter_eq_nil_iff.2 (fun f _ => by simp [h f])

/-- The part out of service, its ports still to be told (R452). -/
def State.outOfService (s : State) (reason : Byte) : State :=
  { s with
    unrec := true, reason := reason, lands := { s.lands with svcflt := true }
    pt := { s.pt with answer := none, line := [], lade := false } }

/-- With no function defined, leaving service sets UNREC, REASON and SVCFLT and tells the ports (R452). -/
theorem leaveService_of_undefined {s : State} (h : ∀ f, (s.func f).st = .absent) (hu : s.unrec = false) (reason : Byte)
    (r : Option McReport) : OnlyPorts (s.outOfService reason) (s.leaveService reason r) := by
  unfold State.leaveService
  dsimp only
  rw [hu, if_neg Bool.false_ne_true, defined_of_absent h]
  exact sendFault_ports (s.outOfService reason) reason

section

variable {s : State}

theorem starting_iff : s.starting = true ↔ (s.lands.coldrst = true ∧ s.lands.railHold = false) ∧ s.ld.phase.toNat < 4 := by
  simp [State.starting, State.alive]

theorem exec_coldStart (h : s.lands.coldrst = false) : ∃ u, exec .coldStart s = .next u ∧
    u = { s with lands := u.lands, ports := u.ports } ∧ u.lands.coldrst = true ∧ u.lands.railHold = false ∧
    ∀ p : PortNo, u.port p = { s.port p with st := 1 } := by
  have e : exec .coldStart s = execColdStart s := rfl
  rw [execColdStart, h] at e
  refine ⟨_, e, rfl, rfl, rfl, fun p => ?_⟩
  exact (SMap.get_foldl_set_range {} s.ports (fun i => { SMap.get {} s.ports i with st := 1 }) p.toNat 4).trans (if_pos p.isLt)

theorem derive_eq (l : Loader) (puf : List Byte) (dev : Bool) : let m := l.flash dev
    let pk := fitBytes 1312 (Config.mlDsaKey (Config.pufSeed puf (flashBytes m 0x7FF0028 (flashNat m 0x7FF0004 4))))
    l.derive puf dev = if (l.present dev && decide (flashNat m 0x7FF0000 4 = 0x504C4844) &&
      decide (1 ≤ flashNat m 0x7FF0004 4) && decide (flashNat m 0x7FF0004 4 ≤ 65464) &&
      decide (sha3_256 pk = flashBytes m 0x7FF0008 32)) = true then some pk else none := by
  intro m pk
  rw [Loader.derive]
  change (if (!(l.present dev) || decide (flashNat m 0x7FF0000 4 ≠ 0x504C4844) || decide (flashNat m 0x7FF0004 4 = 0) ||
    decide (65464 < flashNat m 0x7FF0004 4)) = true then none else if sha3_256 pk = flashBytes m 0x7FF0008 32 then some pk else none) = _
  generalize flashNat m 0x7FF0004 4 = n
  by_cases h : l.present dev = true ∧ flashNat m 0x7FF0000 4 = 0x504C4844 ∧ 1 ≤ n ∧ n ≤ 65464
  · obtain ⟨h1, h2, h3, h4⟩ := h
    rw [if_neg (by simp [h1, h2]; omega)]
    simp [h1, h2, h3, h4]
  · rw [if_pos ?_, if_neg ?_]
    · simp only [Bool.and_eq_true, decide_eq_true_eq]
      exact fun ⟨⟨⟨⟨h1, h2⟩, h3⟩, h4⟩, _⟩ => h ⟨h1, h2, h3, h4⟩
    · by_contra hc
      simp only [Bool.or_eq_true, Bool.not_eq_true', decide_eq_true_eq, not_or, Bool.not_eq_false, not_not] at hc
      obtain ⟨⟨⟨h1, h2⟩, h3⟩, h4⟩ := hc
      exact h ⟨h1, h2, by omega, by omega⟩

/-- What the failure of a phase does when no function is defined (R471). -/
theorem startFails_of_undefined (h : ∀ f, (s.func f).st = .absent) (hu : s.unrec = false) {reason : Byte} {r : Option McReport} {u : State}
    (e : u = State.leaveService { s with ld := { s.ld with phase := 6, meas := 0, okh := [], secs := [] } } reason r) :
    u.unrec = true ∧ u.reason = reason ∧ u.lands = { s.lands with svcflt := true } ∧
      u.ld = { s.ld with phase := 6, meas := 0, okh := [], secs := [] } ∧
      u.tiles = s.tiles ∧ u.cobs = s.cobs ∧ u.hbm = s.hbm ∧ u.plan = s.plan := by
  have hu := leaveService_of_undefined (s := { s with ld := { s.ld with phase := 6, meas := 0, okh := [], secs := [] } }) h hu reason r
  rw [← e] at hu
  rw [hu]
  exact ⟨rfl, rfl, rfl, rfl, rfl, rfl, rfl, rfl⟩

end

/-- Every Cob with its three domains on (R469). -/
def State.cobsOn (s : State) : State :=
  (List.range 16).foldl (fun a i => a.modCob (BitVec.ofNat 4 i) (fun x => { x with north := .on, south := .on, memif := .on })) s

theorem cob_cobsOn (s : State) (c : CobNo) : s.cobsOn.cob c = { s.cob c with north := .on, south := .on, memif := .on } :=
  (State.cob_foldl_modCob s (fun _ x => { x with north := .on, south := .on, memif := .on }) c (Nat.le_refl 16)).trans (if_pos c.isLt)

theorem cobsOn_frame (s : State) : s.cobsOn = { s with cobs := s.cobsOn.cobs } := by
  rw [State.cobsOn]
  generalize List.range 16 = l
  induction l generalizing s with
  | nil => rfl
  | cons i l ih => exact (ih _).trans rfl

theorem exec_fabricPhase {s : State} (h : s.starting = true) (hd : s.ld.fabricDone = false) : ∃ u, exec (.fabricPhase true) s = .next u ∧
    u = { s with tiles := u.tiles, cobs := u.cobs, pw := u.pw, ld := u.ld } ∧
    u.ld = { s.ld with fabricDone := true, phase := if s.ld.identityDone then 2 else s.ld.phase } ∧
    u.pw = { s.pw with kiln0 := true, kiln1 := .on, viaK1 := true } ∧
    (∀ c, u.cob c = { s.cob c with north := .on, south := .on, memif := .on }) ∧
    ∀ t, u.tile t = { s.tile t with zeroed := true, lmem := [], onAt := (s.cob (tileCob t)).cyc } := by
  have hf := cobsOn_frame s
  have hc := cob_cobsOn s
  have e : exec (.fabricPhase true) s = .next (State.mapTiles { s.cobsOn with
      pw := { s.cobsOn.pw with kiln0 := true, kiln1 := .on, viaK1 := true }
      ld := { s.cobsOn.ld with fabricDone := true, phase := if s.cobsOn.ld.identityDone then 2 else s.cobsOn.ld.phase } }
      (fun t tl => { tl with zeroed := true, lmem := [], onAt := (s.cobsOn.cob (tileCob t)).cyc })) := by
    change execFabricPhase true s = _
    rw [execFabricPhase, if_neg (by simp [h, hd]), if_neg (by decide)]
    rfl
  generalize s.cobsOn = w at hf hc e
  have hm := State.mapTiles_frame { w with
      pw := { w.pw with kiln0 := true, kiln1 := .on, viaK1 := true }
      ld := { w.ld with fabricDone := true, phase := if w.ld.identityDone then 2 else w.ld.phase } }
      (fun t tl => { tl with zeroed := true, lmem := [], onAt := (w.cob (tileCob t)).cyc })
  have ht := State.tile_mapTiles { w with
      pw := { w.pw with kiln0 := true, kiln1 := .on, viaK1 := true }
      ld := { w.ld with fabricDone := true, phase := if w.ld.identityDone then 2 else w.ld.phase } }
      (fun t tl => { tl with zeroed := true, lmem := [], onAt := (w.cob (tileCob t)).cyc })
  generalize State.mapTiles _ _ = u at e hm ht
  have hcobs : u.cobs = w.cobs := by rw [hm]
  refine ⟨u, e, ?_, ?_, ?_, fun c => ?_, fun t => ?_⟩
  · rw [hm, hf]
  · rw [hm, hf]
  · rw [hm, hf]
  · rw [State.cob, hcobs]
    exact hc c
  · rw [ht, hc, hf]
    rfl

/-- Settles O45: each phase of a cold start by the branch of its instruction. -/
theorem coldStart : Obligations.ColdStart := by
  unfold Obligations.ColdStart
  intro s sfdp0 sfdp1 puf l alive m pk good a b undefined failed
  have hfail {k : Instr} {reason : Byte} {r : Option McReport} (h : undefined) (hu : s.unrec = false)
      (e : exec k s = .next (State.leaveService { s with ld := { s.ld with phase := 6, meas := 0, okh := [], secs := [] } } reason r)) :
      failed k reason := ⟨_, e, startFails_of_undefined h hu rfl⟩
  refine ⟨exec_coldStart, ?_, ?_, ?_⟩
  · intro ha hp hd
    have hst := starting_iff.2 ⟨ha, hp⟩
    have e : exec (.identity sfdp0 sfdp1 puf) s = execIdentity sfdp0 sfdp1 puf s := rfl
    rw [execIdentity, if_neg (by simp [hst, show s.ld.identityDone = false from hd])] at e
    rw [e]
    dsimp only
    have h0 : Loader.derive { s.ld with present0 := sfdp0, present1 := sfdp1 } puf false = if a then some (pk false) else none :=
      derive_eq _ puf false
    have h1 : Loader.derive { s.ld with present0 := sfdp0, present1 := sfdp1 } puf true = if b then some (pk true) else none :=
      derive_eq _ puf true
    rw [h0, h1]
    generalize a = x
    generalize b = y
    cases x <;> cases y <;> rfl
  · intro ha hp hd
    have hst := starting_iff.2 ⟨ha, hp⟩
    refine ⟨exec_fabricPhase hst hd, fun hun hu => hfail (r := some { src := 9, tile := none, func := 0, pa := 0, va := none, reader := none }) hun hu ?_⟩
    change execFabricPhase false s = _
    rw [execFabricPhase, if_neg (by simp [hst, show s.ld.fabricDone = false from hd])]
    rfl
  · intro ha hp hf hd
    have hgo : ¬(!s.alive || !s.ld.fabricDone || s.ld.hbmDone || decide (4 < s.ld.phase.toNat)) = true := by
      simp [State.alive, ha.1, ha.2, show s.ld.fabricDone = true from hf, show s.ld.hbmDone = false from hd, show s.ld.phase.toNat ≤ 4 from hp]
    refine ⟨?_, fun hun hu => hfail (r := none) hun hu ?_⟩
    · change execHbmPhase true s = _
      rw [execHbmPhase, if_neg hgo]
      rfl
    · change execHbmPhase false s = _
      rw [execHbmPhase, if_neg hgo]
      rfl

end Sys2Proof.Machine
end

section
/-! The reading of an image (R462, R463, R467, R470, R471, R478), and the proof of O46. -/
namespace Sys2Proof.Machine

open Sys2Proof.Safety

/-! ## The result of the checks (R467, R483) -/

theorem errWord_code (r : Nat × Nat) : (errWord r).extractLsb' 0 8 = BitVec.ofNat 8 r.1 := by
  apply BitVec.eq_of_toNat_eq
  rw [errWord, BitVec.extractLsb'_toNat, BitVec.toNat_ofNat, BitVec.toNat_ofNat, Nat.shiftRight_zero]
  omega

theorem errWord_place {r : Nat × Nat} (h : r.1 < 2 ^ 32) : (errWord r).extractLsb' 32 32 = BitVec.ofNat 32 r.2 := by
  apply BitVec.eq_of_toNat_eq
  rw [errWord, BitVec.extractLsb'_toNat, BitVec.toNat_ofNat, BitVec.toNat_ofNat, Nat.shiftRight_eq_div_pow]
  omega

/-- What an image that passes every check has (R462–R465, R467). -/
structure Passes (m : SMap Byte) : Prop where
  vendor : sha3_256 (vendorPk m) = Config.vroot
  cert : certOk m = true
  count : 1 ≤ imgNsect m ∧ imgNsect m ≤ 64
  place : ∀ i, i < imgNsect m → badPlace m (imgEntries m) i (imgEntry m i) = false
  counts : badCounts (imgEntries m) = false
  signed : signedOk m = true
  digest : ∀ i, i < imgNsect m → badDigest m (imgEntry m i) = false

theorem length_imgEntries (m : SMap Byte) : (imgEntries m).length = imgNsect m := by simp [imgEntries]

theorem none_of_head {p : Nat → Bool} {n : Nat} (h : ((List.range n).filter p).head? = none) (i : Nat) (hi : i < n) : p i = false := by
  rw [List.head?_eq_none_iff, List.filter_eq_nil_iff] at h
  simpa using h i (List.mem_range.2 hi)

theorem of_ite_code {c : Prop} [Decidable c] {a r x : Nat × Nat} (h : (if c then a else r) = x) (hx : x.1 = 0) (ha : a.1 ≠ 0) :
    ¬c ∧ r = x := by
  by_cases hc : c
  · rw [if_pos hc] at h
    exact absurd (h ▸ hx) ha
  · rw [if_neg hc] at h
    exact ⟨hc, h⟩

theorem ite_code {c : Prop} [Decidable c] {a r : Nat × Nat} (ha : a.1 < 10) (hr : r.1 < 10) : (if c then a else r).1 < 10 := by
  by_cases hc : c
  · rwa [if_pos hc]
  · rwa [if_neg hc]

theorem verifyImage_passes {present answers : Bool} {m : SMap Byte} (h : (verifyImage present answers m).1 = 0) :
    Passes m ∧ verifyImage present answers m = (0, 0) := by
  generalize e : verifyImage present answers m = x at h
  unfold verifyImage at e
  dsimp only at e
  rw [length_imgEntries] at e
  obtain ⟨-, e⟩ := of_ite_code e h (by decide)
  obtain ⟨-, e⟩ := of_ite_code e h (by decide)
  obtain ⟨-, e⟩ := of_ite_code e h (by decide)
  obtain ⟨-, e⟩ := of_ite_code e h (by decide)
  obtain ⟨hv, e⟩ := of_ite_code e h (by decide)
  obtain ⟨hc, e⟩ := of_ite_code e h (by decide)
  obtain ⟨hn, e⟩ := of_ite_code e h (by decide)
  obtain ⟨-, e⟩ := of_ite_code e h (by decide)
  generalize hp : List.head? _ = o at e
  cases o with
  | some i => exact absurd ((congrArg Prod.fst e).trans h) (show (7 : Nat) ≠ 0 by decide)
  | none =>
    obtain ⟨hb, e⟩ := of_ite_code e h (by decide)
    obtain ⟨hs, e⟩ := of_ite_code e h (show (5 : Nat) ≠ 0 by decide)
    generalize hd : List.head? _ = o at e
    cases o with
    | some i => exact absurd ((congrArg Prod.fst e).trans h) (show (6 : Nat) ≠ 0 by decide)
    | none =>
      dsimp only at e
      generalize List.head? _ = o at e
      cases o with
      | some i => exact absurd ((congrArg Prod.fst e).trans h) (show (8 : Nat) ≠ 0 by decide)
      | none =>
        obtain ⟨-, e⟩ := of_ite_code e h (show (8 : Nat) ≠ 0 by decide)
        simp only [Bool.or_eq_true, decide_eq_true_eq] at hn
        exact ⟨⟨not_not.1 hv, by simpa using hc, by omega, none_of_head hp, by simpa using hb, by simpa using hs, none_of_head hd⟩,
          e.symm⟩

theorem verifyImage_code (present answers : Bool) (m : SMap Byte) : (verifyImage present answers m).1 < 10 := by
  unfold verifyImage
  dsimp only
  refine ite_code (by decide) (ite_code (by decide) (ite_code (by decide) (ite_code (by decide) (ite_code (by decide)
    (ite_code (by decide) (ite_code (by decide) (ite_code (by decide) ?_)))))))
  generalize List.head? _ = o
  cases o with
  | some i => exact (by decide : (7 : Nat) < 10)
  | none =>
    refine ite_code (by decide) (ite_code (show (5 : Nat) < 10 by decide) ?_)
    generalize List.head? _ = o
    cases o with
    | some i => exact (by decide : (6 : Nat) < 10)
    | none =>
      dsimp only
      generalize List.head? _ = o
      cases o with
      | some i => exact (by decide : (8 : Nat) < 10)
      | none => exact ite_code (show (8 : Nat) < 10 by decide) (by decide)

/-! ## The measurement (R478) -/

theorem leNat_append (a b : List Byte) : leNat (a ++ b) = leNat a + 256 ^ a.length * leNat b := by
  induction a with
  | nil => simp [leNat]
  | cons x a ih =>
    rw [List.cons_append, leNat, leNat, ih, List.length_cons, Nat.pow_succ]
    ring

theorem leNat_zeros (n : Nat) : leNat (List.replicate n (0 : Byte)) = 0 := by
  induction n with
  | zero => rfl
  | succ n ih => rw [List.replicate_succ, leNat, ih]; rfl

theorem length_fitBytes (n : Nat) (l : List Byte) : (fitBytes n l).length = n := by
  rw [fitBytes, List.length_take, List.length_append, List.length_replicate]
  omega

/-- Cutting or filling a byte string to `n` bytes keeps its number, modulo 256^n. -/
theorem leNat_fitBytes (n : Nat) (l : List Byte) : leNat (fitBytes n l) % 256 ^ n = leNat l % 256 ^ n := by
  have hsplit := leNat_append (fitBytes n l) ((l ++ List.replicate (n - l.length) 0).drop n)
  rw [length_fitBytes, fitBytes, List.take_append_drop, leNat_append, leNat_zeros, Nat.mul_zero, Nat.add_zero] at hsplit
  rw [hsplit, Nat.add_mul_mod_self_left, fitBytes]

theorem digest512_low (a b : List Byte) : (digest512 a b).extractLsb' 0 256 = leBits 256 a := by
  apply BitVec.eq_of_toNat_eq
  rw [digest512, leBits, BitVec.extractLsb'_toNat, BitVec.toNat_ofNat, BitVec.toNat_ofNat, Nat.shiftRight_zero, leNat_append,
    length_fitBytes, Nat.mod_mod_of_dvd _ (Nat.pow_dvd_pow 2 (show 256 ≤ 512 by decide)), show 2 ^ 256 = 256 ^ 32 by norm_num, Nat.add_mul_mod_self_left]
  exact leNat_fitBytes 32 a

/-! ## What the checks say of the section table (R463, R464) -/

theorem place_of_ok {m : SMap Byte} {l : List Section} {i : Nat} {e : Section} (h : badPlace m l i e = false) :
    e.offset % 4096 = 0 ∧ 1 ≤ e.length ∧ e.offset + e.length ≤ 0x7F00000 := by
  simp only [badPlace, Bool.or_eq_false_iff, decide_eq_false_iff_not, not_not, imgSlot] at h
  obtain ⟨⟨⟨⟨⟨h1, h2⟩, h3⟩, -⟩, -⟩, -⟩ := h
  exact ⟨h1, by omega, Nat.not_lt.1 (of_decide_eq_false h3)⟩

theorem countType_imgEntries (m : SMap Byte) (k : Nat) : countType (imgEntries m) k =
    ((List.range (imgNsect m)).filter (fun i => flashNat m (0x1400 + 64 * i) 4 = k)).length := by
  rw [countType, imgEntries, List.filter_map, List.length_map]
  rfl

theorem counts_of_ok {l : List Section} (h : badCounts l = false) : countType l 1 = 1 ∧ countType l 2 = 1 ∧ countType l 6 ≤ 1 ∧
    countType l 7 ≤ 1 ∧ countType l 8 ≤ 1 := by
  simp only [badCounts, Bool.or_eq_false_iff, decide_eq_false_iff_not, not_not, Nat.not_lt] at h
  obtain ⟨⟨⟨⟨⟨h1, h2⟩, h3⟩, h4⟩, h5⟩, -⟩ := h
  exact ⟨h1, h2, h3, h4, h5⟩

/-! ## The reading -/

/-- The loader with the result of a check kept for the device's slot. -/
def Loader.recorded (l : Loader) (dev : Bool) (w : DWord) : Loader :=
  if dev then { l with errb := w } else { l with erra := w }

/-- The loader with the image of a device's slot staged (R467, R470, R478). -/
def Loader.stagedFrom (l : Loader) (dev : Bool) : Loader :=
  let m := l.flash dev
  let k := l.recorded dev (errWord (0, 0))
  { k with phase := 4, slot := dev, secs := imgEntries m, staged := m, errb := if dev then k.errb else 0x0A
           meas := digest512 (sha3_256 (flashBytes m 0 (imgSigned m))) (((secsOf (imgEntries m) 6).map (fun e => e.digest)).headD [])
           okh := sha3_256 (ownerPk m) }

section Reading

variable {s : State} {dev answers : Bool} {r : Nat × Nat}
  (h : s.lands.coldrst = true ∧ s.lands.railHold = false ∧ s.ld.identityDone = true ∧ s.ld.fabricDone = true ∧
    s.ld.phase = if dev then 3 else 2)
  (hr : verifyImage (s.ld.present dev) answers (s.ld.flash dev) = r)

include h in
theorem readDue : ¬(!(s.starting && s.ld.identityDone && s.ld.fabricDone &&
    (if dev then decide (s.ld.phase = 3) else decide (s.ld.phase = 2)))) = true := by
  obtain ⟨h1, h2, h3, h4, h5⟩ := h
  cases dev <;> simp_all [State.starting, State.alive]

include h hr in
theorem exec_imageRead_of_fail (h0 : r.1 ≠ 0) : exec (.imageRead dev answers) s = .next (
    if dev then State.startFails { s with ld := s.ld.recorded dev (errWord r) } 4
    else { s with ld := { s.ld.recorded dev (errWord r) with phase := 3 } }) := by
  change execImageRead dev answers s = _
  rw [execImageRead]
  dsimp only
  rw [if_neg (readDue h), hr, if_neg h0]
  rfl

include h hr in
theorem exec_imageRead_of_pass (h0 : r = (0, 0)) : exec (.imageRead dev answers) s = .next { s with ld := s.ld.stagedFrom dev } := by
  change execImageRead dev answers s = _
  rw [execImageRead]
  dsimp only
  rw [if_neg (readDue h), hr, h0, if_pos rfl]
  rfl

end Reading

theorem startFails_frame {s : State} (h : ∀ f, (s.func f).st = .absent) (reason : Byte) : let u := s.startFails reason
    u.unrec = true ∧ (s.unrec = false → u.reason = reason) ∧
      u.ld = { s.ld with phase := 6, meas := 0, okh := [], secs := [] } ∧ u.tiles = s.tiles ∧ u.hbm = s.hbm ∧ u.plan = s.plan := by
  intro u
  cases hu : s.unrec with
  | false =>
    obtain ⟨h1, h2, -, h4, h5, -, h7, h8⟩ := startFails_of_undefined (u := u) h hu rfl
    exact ⟨h1, fun _ => h2, h4, h5, h7, h8⟩
  | true =>
    have e : u = { s with ld := { s.ld with phase := 6, meas := 0, okh := [], secs := [] } } := by
      change State.leaveService _ _ _ = _
      unfold State.leaveService
      dsimp only
      rw [hu, if_pos rfl]
    rw [e]
    exact ⟨hu, fun h => absurd h (by decide), rfl, rfl, rfl, rfl⟩

/-- What the loader shows of a slot that has failed with result `w`: after slot A it goes on, after slot B start-up has failed
(R471). -/
structure SlotFails (s u : State) (dev : Bool) (w : DWord) : Prop where
  word : (if dev then u.ld.errb else u.ld.erra) = w
  frame : u.ld.applied = s.ld.applied ∧ u.tiles = s.tiles ∧ u.hbm = s.hbm ∧ u.plan = s.plan ∧
    if dev then u.ld.phase = 6 ∧ u.ld.meas = 0 ∧ u.unrec = true ∧ (s.unrec = false → u.reason = 4)
    else u = { s with ld := { s.ld with phase := 3, erra := u.ld.erra } }
  phase : u.ld.phase = if dev then 6 else 3

theorem recorded_fails {s : State} (hun : ∀ f, (s.func f).st = .absent) (dev : Bool) (w : DWord) :
    SlotFails s (if dev then State.startFails { s with ld := s.ld.recorded dev w } 4
      else { s with ld := { s.ld.recorded dev w with phase := 3 } }) dev w := by
  cases dev with
  | false => exact ⟨rfl, ⟨rfl, rfl, rfl, rfl, rfl⟩, rfl⟩
  | true =>
    rw [if_pos rfl]
    obtain ⟨h1, h2, h3, h4, h5, h6⟩ := startFails_frame (s := { s with ld := s.ld.recorded true w }) hun 4
    generalize State.startFails _ _ = u at h1 h2 h3 h4 h5 h6
    have hld : u.ld.errb = w ∧ u.ld.applied = s.ld.applied ∧ u.ld.phase = 6 ∧ u.ld.meas = 0 := by
      rw [h3]
      exact ⟨rfl, rfl, rfl, rfl⟩
    obtain ⟨hw, ha, hp, hm⟩ := hld
    exact ⟨hw, ⟨ha, h4, h5, h6, hp, hm, h1, h2⟩, hp⟩

theorem code_ne_zero {n : Nat} (h0 : n ≠ 0) (h : n < 10) : BitVec.ofNat 8 n ≠ 0#8 := by
  intro e
  have := congrArg BitVec.toNat e
  rw [BitVec.toNat_ofNat, BitVec.toNat_ofNat] at this
  omega

theorem stagedFrom_fields (l : Loader) (dev : Bool) : let k := l.stagedFrom dev
    k.phase = 4 ∧ k.slot = dev ∧ k.staged = l.flash dev ∧ k.okh = sha3_256 (ownerPk (l.flash dev)) ∧
      k.meas.extractLsb' 0 256 = leBits 256 (sha3_256 (flashBytes (l.flash dev) 0 (imgSigned (l.flash dev)))) ∧
      (dev = false → k.errb = 0x0A) ∧ (if dev then k.errb else k.erra).extractLsb' 0 8 = 0#8 := by
  refine ⟨rfl, rfl, rfl, rfl, digest512_low _ _, ?_, ?_⟩
  · rintro rfl
    rfl
  · refine Eq.trans ?_ (errWord_code (0, 0))
    cases dev <;> rfl

/-- Settles O46: the checks of `verifyImage`, in their order, and the two ways on from its result. -/
theorem imageReading : Obligations.ImageReading := by
  unfold Obligations.ImageReading
  intro s dev answers l m n starts code place present vendor cert sigAt signed off len byType fails hst hun
  have hm : s.ld.flash dev = m := rfl
  have hp : s.ld.present dev = present := rfl
  have hcode := verifyImage_code present answers m
  have hbad (r : Nat × Nat) (hr : verifyImage present answers m = r) (h0 : r.1 ≠ 0) :
      fails (BitVec.ofNat 8 r.1) (BitVec.ofNat 32 r.2) ∧
        ∀ u, exec (.imageRead dev answers) s = .next u → code u ≠ 0 ∧ u.ld.phase = if dev then 6 else 3 := by
    rw [hr] at hcode
    have e := exec_imageRead_of_fail hst hr h0
    obtain ⟨hw, hframe, hph⟩ := recorded_fails hun dev (errWord r)
    generalize (if dev = true then State.startFails _ 4 else _ : State) = u at e hw hframe hph
    have hc : code u = BitVec.ofNat 8 r.1 := (congrArg _ hw).trans (errWord_code r)
    have hpl : place u = BitVec.ofNat 32 r.2 := (congrArg _ hw).trans (errWord_place (by omega))
    refine ⟨⟨u, e, hc, hpl, hframe⟩, fun v hv => ?_⟩
    obtain rfl := Host.Outcome.next.inj (e.symm.trans hv)
    exact ⟨fun h => code_ne_zero h0 hcode (hc.symm.trans h), hph⟩
  refine ⟨?_, ?_, ?_, ?_, ?_, ?_⟩
  · intro h
    exact (hbad (1, 0) (by rw [verifyImage, h]; rfl) (by decide)).1
  · intro h1 h2
    exact (hbad (9, 0) (by rw [verifyImage, h1, h2]; rfl) (by decide)).1
  · intro h1 h2 h3
    exact (hbad (2, 0) (by rw [verifyImage, h1, h2]; exact if_pos h3) (by decide)).1
  · intro h1 h2 h3 h4
    exact (hbad (2, 4) (by rw [verifyImage, h1, h2]; exact (if_neg (not_not.2 h3)).trans (if_pos h4)) (by decide)).1
  · intro h1 h2 h3 h4
    have hin (r rest : Nat × Nat) (h : verifyImage true true m = if flashNat m 0 4 ≠ 0x49525944 then (2, 0) else
        if flashNat m 4 2 ≠ 1 then (2, 4) else rest) (hr : rest = r) : verifyImage present answers m = r := by
      rw [h1, h2, h, if_neg (not_not.2 h3), if_neg (not_not.2 h4), hr]
    refine ⟨fun hv => ?_, fun hv hc => ?_, fun hv hc hn => ?_⟩
    · exact (hbad (3, 0x20) (hin _ _ rfl (if_pos hv)) (by decide)).1
    · exact (hbad (4, 0xA68) (hin _ _ rfl ((if_neg (not_not.2 hv)).trans (if_pos (show (!certOk m) = true by rw [Bool.not_eq_true', ← Bool.not_eq_true]; exact hc)))) (by decide)).1
    · exact (hbad (7, 6) (hin _ _ rfl ((if_neg (not_not.2 hv)).trans ((if_neg (show ¬(!certOk m) = true by rw [show certOk m = true from hc]; decide)).trans
        (if_pos (show (decide (imgNsect m = 0) || decide (64 < imgNsect m)) = true by
          rw [Bool.or_eq_true, decide_eq_true_eq, decide_eq_true_eq]; exact hn))))) (by decide)).1
  · by_cases h0 : (verifyImage present answers m).1 = 0
    · obtain ⟨⟨hvendor, hcert, hcount, hplace, hcounts, hsigned, hdigest⟩, hzero⟩ := verifyImage_passes h0
      have e := exec_imageRead_of_pass hst rfl hzero
      obtain ⟨c1, c2, c6, c7, c8⟩ := counts_of_ok hcounts
      rw [countType_imgEntries] at c1 c2 c6 c7 c8
      obtain ⟨f1, f2, f3, f4, f5, f6, f7⟩ := stagedFrom_fields s.ld dev
      rw [hm] at f3 f4 f5
      generalize s.ld.stagedFrom dev = k at e f1 f2 f3 f4 f5 f6 f7
      rw [vendorPk] at hvendor
      rw [certOk, vendorPk, sigBytes] at hcert
      rw [signedOk, ownerPk, imgSigned, imgSigOff, sigBytes] at hsigned
      rw [ownerPk] at f4
      rw [imgSigned] at f5
      have hn : imgNsect m = n := rfl
      rw [hn] at hcount hplace hsigned hdigest c1 c2 c6 c7 c8 f5
      refine ⟨_, e, fun h => absurd f7 h, fun _ => ⟨rfl, f1, f2, f3, f4, f5, f6, hcount.1, hcount.2, hvendor, hcert,
        hsigned, fun i hi => ?_, c1, c2, c6, c7, c8, fun i hi => ?_⟩⟩
      · have hd := hdigest i hi
        rw [badDigest, decide_eq_false_iff_not, not_not] at hd
        exact hd
      · have hoff : (imgEntry m i).offset = off i := rfl
        have hlen : (imgEntry m i).length = len i := rfl
        rw [← hoff, ← hlen]
        exact place_of_ok (hplace i hi)
    · obtain ⟨⟨u, hu, -⟩, hall⟩ := hbad _ rfl h0
      obtain ⟨hne, hph⟩ := hall u hu
      exact ⟨u, hu, fun _ => hph, fun h => absurd h hne⟩

end Sys2Proof.Machine
end

section
/-! Flash operations and attestation (R473, R474, R477, R478), and the proof of O48. -/
namespace Sys2Proof.Machine

open Sys2Proof.Safety

/-! ## The contents of a device (R460, R474) -/

theorem length_flashBytes (m : SMap Byte) (a n : Nat) : (flashBytes m a n).length = n := by
  induction n generalizing a with
  | zero => rfl
  | succ n ih => rw [flashBytes, List.length_cons, ih]

theorem getD_flashBytes (m : SMap Byte) (a n i : Nat) (h : i < n) : (flashBytes m a n).getD i 0 = SMap.get 0xFF m (a + i) := by
  induction n generalizing a i with
  | zero => omega
  | succ n ih =>
    rw [flashBytes]
    cases i with
    | zero => rfl
    | succ i => rw [List.getD_cons_succ, ih (a + 1) i (by omega), Nat.add_right_comm, Nat.add_assoc]

theorem get_flashProgram (m : SMap Byte) (a i : Nat) (l : List Byte) : SMap.get 0xFF (flashProgram m a l) i =
    if a ≤ i ∧ i < a + l.length then SMap.get 0xFF m i &&& l.getD (i - a) 0 else SMap.get 0xFF m i := by
  induction l generalizing m a with
  | nil => rw [flashProgram, if_neg (by rw [List.length_nil]; omega)]
  | cons b l ih =>
    rw [flashProgram, ih, SMap.get_modify, List.length_cons]
    by_cases hi : i = a
    · subst hi
      rw [if_neg (by omega), if_pos rfl, if_pos (by omega), Nat.sub_self]
      rfl
    · rw [if_neg hi]
      by_cases hin : a + 1 ≤ i ∧ i < a + 1 + l.length
      · rw [if_pos hin, if_pos (by omega), show i - a = i - (a + 1) + 1 by omega, List.getD_cons_succ]
      · rw [if_neg hin, if_neg (by omega)]

theorem SMap.get_filter {α : Type} (d : α) (p : Nat → Bool) (m : SMap α) (k : Nat) :
    SMap.get d (m.filter (fun c => p c.1)) k = if p k then SMap.get d m k else d := by
  induction m with
  | nil => simp [SMap.get_nil]
  | cons c m ih =>
    rw [List.filter_cons, SMap.get_cons]
    by_cases hc : c.1 = k
    · subst hc
      cases hp : p c.1 with
      | true => rw [if_pos rfl, SMap.get_cons]; simp
      | false => rw [if_neg Bool.false_ne_true, ih, hp]; simp
    · cases hp : p c.1 with
      | true => rw [if_pos rfl, SMap.get_cons, if_neg hc, ih, if_neg hc]
      | false => rw [if_neg Bool.false_ne_true, ih, if_neg hc]

theorem get_flashErase (m : SMap Byte) (a i : Nat) : SMap.get 0xFF (flashErase m a) i =
    if a ≤ i ∧ i < a + 65536 then 0xFF else SMap.get 0xFF m i := by
  refine (SMap.get_filter 0xFF (fun c => !(decide (a ≤ c) && decide (c < a + 65536))) m i).trans ?_
  by_cases h : a ≤ i ∧ i < a + 65536
  · rw [if_pos h, if_neg (by simp [h])]
  · rw [if_neg h, if_pos (by rw [Bool.not_eq_true', Bool.and_eq_false_iff, decide_eq_false_iff_not, decide_eq_false_iff_not]; omega)]

/-! ## The LD_ block -/

theorem csrBlk_paLd {o : Nat} (ho : o < 0x10000) : csrBlk (paLd o) = some (.ld o) := by
  have hn : paLd o - 0x3F0000000000 - 0x500000000 = o := by unfold paLd; omega
  have hlo : ¬paLd o < 0x3F0000000000 := by unfold paLd; omega
  have hge (n : Nat) (hn : n ≤ 0x500000000) : ¬paLd o - 0x3F0000000000 < n := by unfold paLd; omega
  have h1 : 0x500000000 ≤ paLd o - 0x3F0000000000 := by unfold paLd; omega
  have h2 : paLd o - 0x3F0000000000 < 0x500010000 := by unfold paLd; omega
  simp only [csrBlk, hn, hlo, h1, h2, hge 0x40000000, hge 0x110000000, hge 0x210000000, hge 0x300100000, hge 0x400020000,
    hge 0x400140000, Nat.reduceLeDiff, decide_true,
    decide_false, Bool.and_false, Bool.and_self, Bool.false_eq_true, if_true, if_false]

theorem touchHalf_paLd (s : State) {o : Nat} : s.touchHalf (paLd o) = s := by
  have hlo : ¬paLd o < 0x3F0000000000 := by unfold paLd; omega
  have hge (n : Nat) (hn : n ≤ 0x500000000) : ¬paLd o - 0x3F0000000000 < n := by unfold paLd; omega
  rw [State.touchHalf, csrTile]
  simp only [hlo, hge 0x40000000, hge 0x110000000, hge 0x210000000, Nat.reduceLeDiff, decide_false, Bool.and_false,
    Bool.false_eq_true, if_false]

/-- A thread at M may write the loader, and so may one at S of a function with MGMT (R482). -/
def LoaderWriter (s : State) (src : Src) : Prop := match src with
  | .thread t h => (s.th t h).st.pl = 3 ∨ (s.th t h).st.pl = 2 ∧ ∃ f, (s.tile t).func = some f ∧ (s.func f).mgmt = true
  | _ => True

section LdWrites

variable {s : State} {src : Src} {o acc : Nat} {v : DWord} {r : LdReg} {ver : Option Bool}

theorem srcMay_ld (h : LoaderWriter s src) : s.srcMay src (.ld o) (some v) = true := by
  cases src with
  | thread t k =>
    obtain h | ⟨h, f, hf, hm⟩ := (show _ ∨ _ from h)
    · simp [State.srcMay, State.csrPerm, h]
    · simp [State.srcMay, State.csrPerm, h, State.superMay, hf, hm]
  | _ => rfl

theorem regWrite_ld (ha : s.alive = true) (h : LoaderWriter s src) (ho : o < 0x10000) (hr : ldReg o = some (r, acc)) :
    s.regWrite src (paLd o) acc v ver = s.ldWrite r v ver := by
  rw [regWrite_of_ready ha (csrBlk_paLd ho) (srcMay_ld h) rfl, touchHalf_paLd]
  simp only [State.doWrite, State.sizedWrite, Blk.width, State.blkWrite, hr, Option.map_some, if_true]

end LdWrites

/-! ## Commands of LD_FCMD (R474) -/

/-- The low word of LD_FCMD. -/
def fcmdLow (op : BitVec 3) (dev : Bool) : Word := (0#28) ++ BitVec.ofBool dev ++ op

theorem fcmd_word (op : BitVec 3) (dev : Bool) (addr : Word) :
    op.setWidth 64 + (if dev then 8 else 0) + ((addr ++ (0#32)) : DWord) = addr ++ fcmdLow op dev := by
  have hlow : op.setWidth 64 + (if dev then 8 else 0) = (0#32) ++ fcmdLow op dev := by
    revert op
    cases dev <;> decide
  rw [hlow]
  apply BitVec.eq_of_toNat_eq
  have h1 := addr.isLt
  have h2 := (fcmdLow op dev).isLt
  rw [BitVec.toNat_add, toNat_append_eq, toNat_append_eq, toNat_append_eq, BitVec.toNat_zero]
  omega

theorem fcmd_fields (op : BitVec 3) (dev : Bool) (addr : Word) : let v : DWord := addr ++ fcmdLow op dev
    bits v 0 3 = op ∧ bit v 3 = dev ∧ bits v 32 32 = addr := by
  intro v
  have hlow : (fcmdLow op dev).toNat = b2n dev * 8 + op.toNat := by
    revert op
    cases dev <;> decide
  have hv : v.toNat = addr.toNat * 2 ^ 32 + (b2n dev * 8 + op.toNat) := by
    rw [← hlow]
    exact toNat_append_eq _ _
  have ho := op.isLt
  have hd : b2n dev ≤ 1 := by cases dev <;> decide
  refine ⟨BitVec.eq_of_toNat_eq ?_, ?_, BitVec.eq_of_toNat_eq ?_⟩
  · rw [bits, BitVec.extractLsb'_toNat, hv, Nat.shiftRight_zero]
    omega
  · rw [bit, BitVec.getLsbD, hv, Nat.testBit_eq_decide_div_mod_eq]
    cases dev <;> simp [b2n] <;> omega
  · rw [bits, BitVec.extractLsb'_toNat, hv, Nat.shiftRight_eq_div_pow]
    have := addr.isLt
    omega

/-- LD_FCMD names operation `op` (R474). -/
def Loader.naming (l : Loader) (op : BitVec 3) (dev : Bool) (addr : Word) : Loader := { l with fop := op, fdev := dev, faddr := addr }

section Command

variable {l : Loader} {op : BitVec 3} {dev : Bool} {addr : Word} {quick : Bool}

theorem flashCmd_of_busy (h : l.fbusy = true) : l.flashCmd (addr ++ fcmdLow op dev) quick = l := by
  rw [Loader.flashCmd]
  dsimp only
  rw [if_pos (by simp [h])]

/-- An operation that LD_FCMD names: refused with a status, or under way. -/
theorem flashCmd_of_idle (h : l.fbusy = false) (hop : op ≠ 0) {o : Option (BitVec 3)} (ho : l.flashRefuses op.toNat dev addr.toNat = o) :
    l.flashCmd (addr ++ fcmdLow op dev) quick = if h : o.isSome then { l.naming op dev addr with fstatus := o.get h }
      else { l.naming op dev addr with fbusy := true, fquick := quick } := by
  obtain ⟨h0, h3, h32⟩ := fcmd_fields op dev addr
  have hne : op.toNat ≠ 0 := fun h => hop ((toNat_eq_zero_iff op).1 h)
  rw [Loader.flashCmd]
  dsimp only
  rw [h0, h3, h32, if_neg (by simp [hne, h]), ho]
  cases o <;> rfl

end Command

/-- A write of LD_FCMD: `q` tells whether the device would answer a CHECK in time. -/
theorem writeFcmd_eq {s : State} {src : Src} (ha : s.alive = true) (h : LoaderWriter s src) (op : BitVec 3)
    (dev : Bool) (addr : Word) (ver : Option Bool) : ∃ n q, (∀ b, ver = some b → q = b) ∧
      s.writeFcmd src (op.setWidth 64) dev addr ver = { s with ld := s.ld.flashCmd (addr ++ fcmdLow op dev) q, free := n } := by
  have e := regWrite_ld (v := addr ++ fcmdLow op dev) (ver := ver) ha h (show 0x28 < 0x10000 by decide) (show ldReg 0x28 = some (.fcmd, 8) from rfl)
  rw [State.writeFcmd, fcmd_word, e]
  cases ver with
  | none => exact ⟨_, _, fun b h => absurd h (by simp), rfl⟩
  | some b => exact ⟨s.free, b, fun c h => Option.some.inj h, rfl⟩

section Refusals

variable {l : Loader} {op : Nat} {dev : Bool} {a : Nat} (hop : op < 4) (len : Nat) (hlen : (if op = 3 then 65536 else 4096) = len)
include hop hlen

theorem flashRefuses_unaligned (h : a % len ≠ 0) : l.flashRefuses op dev a = some 3 := by
  rw [Loader.flashRefuses]
  rw [hlen, if_neg (by omega), if_pos (by simp [h]; omega)]

theorem flashRefuses_beyond (h0 : a % len = 0) (h : 0x8000000 < a + len) : l.flashRefuses op dev a = some 2 := by
  rw [Loader.flashRefuses]
  rw [hlen, if_neg (by omega), if_neg (by simp [h0]), if_pos (by simp [h]; omega)]

theorem flashRefuses_protected (h0 : a % len = 0) (h1 : a + len ≤ 0x8000000) (hw : op = 2 ∨ op = 3) (h : 0x7F00000 < a + len) :
    l.flashRefuses op dev a = some 4 := by
  rw [Loader.flashRefuses]
  rw [hlen, if_neg (by omega), if_neg (by simp [h0]), if_neg (by simp; omega), if_pos (by simp [h, hw])]

theorem flashRefuses_absent (h0 : a % len = 0) (h1 : a + len ≤ 0x8000000) (hw : ¬(op = 2 ∨ op = 3) ∨ a + len ≤ 0x7F00000) :
    l.flashRefuses op dev a = if l.present dev then none else some 5 := by
  have hw : ¬((decide (op = 2) || decide (op = 3)) && decide (0x7F00000 < a + len)) = true := by
    simp only [Bool.and_eq_true, Bool.or_eq_true, decide_eq_true_eq]
    omega
  rw [Loader.flashRefuses]
  rw [hlen, if_neg (by omega), if_neg (by simp [h0]), if_neg (by simp; omega), if_neg hw]
  cases l.present dev <;> rfl

end Refusals

theorem flashRefuses_check (l : Loader) (dev : Bool) (a : Nat) : l.flashRefuses 4 dev a = if l.present dev then none else some 5 := by
  rw [Loader.flashRefuses]
  cases l.present dev <;> rfl

/-! ## The end of an operation, and reports -/

theorem bytes_getD_fwin (m : Memory) {a i : Nat} (h : a ≤ i ∧ i < a + 4096) : (m.bytes 0 4096).getD (i - a) 0 = m.byte (i - a) := by
  rw [Memory.getD_bytes _ _ _ _ (by omega), Nat.zero_add]

/-- The report without its digests, counts and signature (R478). -/
theorem report_parts (l : Loader) {sig : List Byte} (hs : sig.length = 2420) : (l.report sig).length = 2612 ∧
    (l.report sig).take 112 = leBytes 4 0x54415944 ++ leBytes 2 1 ++ leBytes 1 (b2n l.slot) ++
      leBytes 1 (b2n l.debug + 2 * b2n (decide ((bits (if l.slot then l.erra else l.errb) 0 8 : Byte) ≠ 0) &&
        decide ((bits (if l.slot then l.erra else l.errb) 0 8 : Byte) ≠ 0x0A))) ++ bytesOf l.version 4 ++ leBytes 4 0 ++ bytesOf l.nonce 32 ++ bytesOf l.meas 64 ∧
    (l.report sig).drop 192 = sig := by
  have hfit : fitBytes sigBytes sig = sig := by
    rw [fitBytes, show sigBytes = 2420 from rfl, hs, Nat.sub_self, List.replicate_zero, List.append_nil, ← hs, List.take_length]
  have hle (n v : Nat) : (leBytes n v).length = n := by simp [leBytes_eq]
  have hb {k : Nat} (x : BitVec k) (n : Nat) : (bytesOf x n).length = n := hle _ _
  rw [Loader.report, hfit]
  refine ⟨?_, ?_, ?_⟩
  · simp only [List.length_append, hle, hb, length_fitBytes, hs]
  · rw [List.take_append_of_le_length, List.take_append_of_le_length, List.take_append_of_le_length, List.take_append_of_le_length,
      List.take_append_of_le_length, List.take_of_length_le] <;> simp only [List.length_append, hle, hb, length_fitBytes] <;> decide
  · refine List.drop_left' ?_
    simp only [List.length_append, hle, hb, length_fitBytes]

/-- The first fields of the report, as the bytes of R478. -/
theorem report_head (l : Loader) (c : Byte) : leBytes 4 0x54415944 ++ leBytes 2 1 ++ leBytes 1 (b2n l.slot) ++
      leBytes 1 (b2n l.debug + 2 * b2n (decide (c ≠ 0) && decide (c ≠ 0x0A))) ++ bytesOf l.version 4 ++ leBytes 4 0 ++
      bytesOf l.nonce 32 ++ bytesOf l.meas 64 =
    byteList (0x54415944 : Word) 4 ++ byteList (1 : BitVec 16) 2 ++
      [if l.slot then 1 else 0, (if l.debug then 1 else 0) + (if c = 0 ∨ c = 0x0A then 0 else 2)] ++ byteList l.version 4 ++
      byteList (0 : Word) 4 ++ byteList l.nonce 32 ++ byteList l.meas 64 := by
  have hslot : leBytes 1 (b2n l.slot) = [if l.slot then 1 else 0] := by cases l.slot <;> rfl
  have hflags : leBytes 1 (b2n l.debug + 2 * b2n (decide (c ≠ 0) && decide (c ≠ 0x0A))) =
      [(if l.debug then 1 else 0) + (if c = 0 ∨ c = 0x0A then 0 else 2)] := by
    by_cases hc : c = 0 ∨ c = 0x0A
    · rw [if_pos hc, show (decide (c ≠ 0) && decide (c ≠ 0x0A)) = false by simpa [imp_iff_not_or, or_comm] using hc]
      cases l.debug <;> rfl
    · rw [if_neg hc, show (decide (c ≠ 0) && decide (c ≠ 0x0A)) = true by simpa [not_or] using hc]
      cases l.debug <;> rfl
  have hmagic : leBytes 4 0x54415944 = byteList (0x54415944 : Word) 4 := by decide
  have hver : leBytes 2 1 = byteList (1 : BitVec 16) 2 := by decide
  have hzero : leBytes 4 0 = byteList (0 : Word) 4 := by decide
  rw [hslot, hflags, hmagic, hver, hzero, bytesOf_eq_byteList, bytesOf_eq_byteList, bytesOf_eq_byteList]
  simp only [List.append_assoc, List.cons_append, List.nil_append]

theorem attest_go (l : Loader) : l.attest true = { l with abusy := true } := by
  rw [Loader.attest]
  cases h : l.abusy with
  | true =>
    rw [if_pos (by simp)]
    exact congrArg (fun b : Bool => ({ l with abusy := b } : Loader)) h
  | false => rfl

/-- The end of each operation (R474). -/
theorem flashDone_fields {l : Loader} (h : l.fbusy = true) :
    let k := l.flashDone false
    let was := l.flash l.fdev
    k.fbusy = false ∧ k.fstatus = 0 ∧
      (l.fop = 1 → k = { l with fbusy := false, fstatus := 0, fwin := k.fwin } ∧
        ∀ i, i < 4096 → k.fwin.byte i = SMap.get 0xFF was (l.faddr.toNat + i)) ∧
      (l.fop = 2 → k.flash (!l.fdev) = l.flash (!l.fdev) ∧ k.fwin = l.fwin ∧ k.chk = l.chk ∧
        k.flash l.fdev = flashProgram was l.faddr.toNat (l.fwin.bytes 0 4096)) ∧
      (l.fop = 3 → k.flash (!l.fdev) = l.flash (!l.fdev) ∧ k.fwin = l.fwin ∧ k.chk = l.chk ∧
        k.flash l.fdev = flashErase was l.faddr.toNat) ∧
      (l.fop = 4 → k = { l with fbusy := false, fstatus := 0, chk := k.chk }) := by
  intro k was
  have hset (x : Loader) (d : Bool) (m : SMap Byte) : (x.setFlash d m).flash (!d) = x.flash (!d) ∧ (x.setFlash d m).fwin = x.fwin ∧
      (x.setFlash d m).chk = x.chk ∧ (x.setFlash d m).flash d = m ∧ (x.setFlash d m).fbusy = x.fbusy ∧ (x.setFlash d m).fstatus = x.fstatus := by
    cases d <;> exact ⟨rfl, rfl, rfl, rfl, rfl, rfl⟩
  have hk : k = if l.fop = 1 then { l with fbusy := false, fstatus := 0, fwin := Memory.setBytes [] 0 (flashBytes was l.faddr.toNat 4096) }
      else if l.fop = 2 then ({ l with fbusy := false, fstatus := 0 } : Loader).setFlash l.fdev (flashProgram was l.faddr.toNat (l.fwin.bytes 0 4096))
      else if l.fop = 3 then ({ l with fbusy := false, fstatus := 0 } : Loader).setFlash l.fdev (flashErase was l.faddr.toNat)
      else { l with fbusy := false, fstatus := 0, chk := errWord (verifyImage (l.present l.fdev) l.fquick was) } :=
    if_neg (by rw [h]; decide)
  by_cases h1 : l.fop = 1
  · have hk := hk.trans (if_pos h1)
    have hw (i : Nat) (hi : i < 4096) : Memory.byte (Memory.setBytes [] 0 (flashBytes was l.faddr.toNat 4096)) i =
        SMap.get 0xFF was (l.faddr.toNat + i) := by
      rw [Memory.byte_setBytes, length_flashBytes, if_pos (by omega), Nat.sub_zero, getD_flashBytes _ _ _ _ hi]
    generalize Memory.setBytes [] 0 (flashBytes was l.faddr.toNat 4096) = w at hk hw
    rw [hk]
    refine ⟨rfl, rfl, fun _ => ⟨rfl, hw⟩, ?_, ?_, ?_⟩
    all_goals intro h2; rw [h1] at h2; exact absurd h2 (by decide)
  · have hk := hk.trans (if_neg h1)
    by_cases h2 : l.fop = 2
    · have hk := hk.trans (if_pos h2)
      obtain ⟨s1, s2, s3, s4, s5, s6⟩ := hset { l with fbusy := false, fstatus := 0 } l.fdev (flashProgram was l.faddr.toNat (l.fwin.bytes 0 4096))
      rw [← hk] at s1 s2 s3 s4 s5 s6
      refine ⟨s5, s6, fun h => absurd h h1, fun _ => ⟨s1, s2, s3, s4⟩, ?_, ?_⟩
      all_goals intro h; rw [h2] at h; exact absurd h (by decide)
    · have hk := hk.trans (if_neg h2)
      by_cases h3 : l.fop = 3
      · have hk := hk.trans (if_pos h3)
        obtain ⟨s1, s2, s3, s4, s5, s6⟩ := hset { l with fbusy := false, fstatus := 0 } l.fdev (flashErase was l.faddr.toNat)
        rw [← hk] at s1 s2 s3 s4 s5 s6
        refine ⟨s5, s6, fun h => absurd h h1, fun h => absurd h h2, fun _ => ⟨s1, s2, s3, s4⟩, fun h => ?_⟩
        rw [h3] at h
        exact absurd h (by decide)
      · have hk := hk.trans (if_neg h3)
        generalize errWord _ = w at hk
        rw [hk]
        exact ⟨rfl, rfl, fun h => absurd h h1, fun h => absurd h h2, fun h => absurd h h3, fun _ => rfl⟩

/-- Settles O48: a command by the row of R474 that refuses it, its end by its operation. -/
theorem loaderOperations : Obligations.LoaderOperations := by
  unfold Obligations.LoaderOperations
  intro s src dev addr answers sig l may here a named ends starts device f0 was rep
  have hmay (h : may) : s.alive = true ∧ LoaderWriter s src := ⟨by simp [State.alive, h.1, h.2.1], h.2.2⟩
  have hcmd (h : may) (k : Instr) (op : BitVec 3) (ver : Option Bool)
      (hk : exec k s = .next (s.writeFcmd src (op.setWidth 64) dev addr ver)) :
      ∃ q, (∀ b, ver = some b → q = b) ∧ ends k (s.ld.flashCmd (addr ++ fcmdLow op dev) q) := by
    obtain ⟨ha, hm⟩ := hmay h
    obtain ⟨n, q, hq, e⟩ := writeFcmd_eq ha hm op dev addr ver
    exact ⟨q, hq, n, hk.trans (congrArg _ e)⟩
  have hread : exec (.flashRead src dev addr) s = .next (s.writeFcmd src ((1 : BitVec 3).setWidth 64) dev addr none) := rfl
  have hprog : exec (.flashProgram src dev addr) s = .next (s.writeFcmd src ((2 : BitVec 3).setWidth 64) dev addr none) := rfl
  have herase : exec (.flashErase src dev addr) s = .next (s.writeFcmd src ((3 : BitVec 3).setWidth 64) dev addr none) := rfl
  have hcheck : exec (.flashCheck src dev addr answers) s =
      .next (s.writeFcmd src ((4 : BitVec 3).setWidth 64) dev addr (some answers)) := rfl
  have hpres : s.ld.present dev = here := rfl
  refine ⟨?_, ?_, ?_, ?_, ?_, ?_⟩
  · intro h hb k hk
    have hbusy (op : BitVec 3) (ver : Option Bool)
        (hk : exec k s = .next (s.writeFcmd src (op.setWidth 64) dev addr ver)) : ends k l := by
      obtain ⟨q, -, e⟩ := hcmd h k op ver hk
      rwa [flashCmd_of_busy hb] at e
    simp only [List.mem_cons, List.not_mem_nil, or_false] at hk
    obtain rfl | rfl | rfl | rfl := hk
    · exact hbusy 1 none hread
    · exact hbusy 2 none hprog
    · exact hbusy 3 none herase
    · exact hbusy 4 (some answers) hcheck
  · intro h hb
    have hrefused (k : Instr) (op : BitVec 3) (hop : op ≠ 0) (ver : Option Bool)
        (hk : exec k s = .next (s.writeFcmd src (op.setWidth 64) dev addr ver)) (st : BitVec 3)
        (hst : s.ld.flashRefuses op.toNat dev addr.toNat = some st) : ends k { named op with fstatus := st } := by
      obtain ⟨q, -, e⟩ := hcmd h k op ver hk
      rw [flashCmd_of_idle hb hop hst] at e
      exact e
    have hstart (k : Instr) (op : BitVec 3) (hop : op ≠ 0) (ver : Option Bool)
        (hk : exec k s = .next (s.writeFcmd src (op.setWidth 64) dev addr ver))
        (hst : s.ld.flashRefuses op.toNat dev addr.toNat = none) :
        ∃ q, (∀ b, ver = some b → q = b) ∧ ends k { named op with fbusy := true, fquick := q } := by
      obtain ⟨q, hq, e⟩ := hcmd h k op ver hk
      rw [flashCmd_of_idle hb hop hst] at e
      exact ⟨q, hq, e⟩
    refine ⟨?_, fun hh => ?_, fun hh => ?_⟩
    · have hrow (k : Instr) (op : BitVec 3) (hop : op ≠ 0) (hlt : op.toNat < 4) (len : Nat)
          (hlen : (if op.toNat = 3 then 65536 else 4096) = len)
          (hk : exec k s = .next (s.writeFcmd src (op.setWidth 64) dev addr none)) :
          (a % len ≠ 0 → ends k { named op with fstatus := 3 }) ∧
          (a % len = 0 → 0x8000000 < a + len → ends k { named op with fstatus := 2 }) ∧
          (a % len = 0 → a + len ≤ 0x8000000 → op ≠ 1 → 0x7F00000 < a + len → ends k { named op with fstatus := 4 }) ∧
          (a % len = 0 → a + len ≤ 0x8000000 → (op = 1 ∨ a + len ≤ 0x7F00000) →
            (here = false → ends k { named op with fstatus := 5 }) ∧ (here = true → starts k op)) := by
        have hne := mt (toNat_eq_zero_iff op).1 hop
        have hwrite (h : op ≠ 1) : op.toNat = 2 ∨ op.toNat = 3 := by
          have h1 : op.toNat ≠ 1 := fun k => h (BitVec.eq_of_toNat_eq k)
          omega
        refine ⟨fun h1 => ?_, fun h1 h2 => ?_, fun h1 h2 h3 h4 => ?_, fun h1 h2 h3 => ⟨fun h4 => ?_, fun h4 => ?_⟩⟩
        · exact hrefused k op hop none hk 3 (flashRefuses_unaligned hlt len hlen h1)
        · exact hrefused k op hop none hk 2 (flashRefuses_beyond hlt len hlen h1 h2)
        · exact hrefused k op hop none hk 4 (flashRefuses_protected hlt len hlen h1 h2 (hwrite h3) h4)
        · refine hrefused k op hop none hk 5 ((flashRefuses_absent hlt len hlen h1 h2 ?_).trans (by rw [hpres, h4]; rfl))
          exact h3.imp_left (fun h => by rw [h]; decide)
        · obtain ⟨q, -, e⟩ := hstart k op hop none hk ((flashRefuses_absent hlt len hlen h1 h2
            (h3.imp_left (fun h => by rw [h]; decide))).trans (by rw [hpres, h4]; rfl))
          exact ⟨q, e⟩
      intro e he
      simp only [List.mem_cons, List.not_mem_nil, or_false] at he
      obtain rfl | rfl | rfl := he
      · exact hrow _ 1 (by decide) (by decide) 4096 rfl hread
      · exact hrow _ 2 (by decide) (by decide) 4096 rfl hprog
      · exact hrow _ 3 (by decide) (by decide) 65536 rfl herase
    · exact hrefused _ 4 (by decide) _ hcheck 5 ((flashRefuses_check _ _ _).trans (by rw [hpres, hh]; rfl))
    · obtain ⟨q, hq, e⟩ := hstart _ 4 (by decide) _ hcheck ((flashRefuses_check _ _ _).trans (by rw [hpres, hh]; rfl))
      rwa [hq answers rfl] at e
  · intro hb
    refine ⟨⟨s.free, ?_⟩, { s with ld := s.ld.flashDone false }, rfl, rfl, ?_⟩
    · change Host.Outcome.next { s with ld := s.ld.flashDone true } = _
      rw [Loader.flashDone, if_neg (by rw [show s.ld.fbusy = true from hb]; decide)]
      rfl
    · have hdev : s.ld.flash s.ld.fdev = was := rfl
      obtain ⟨f1, f2, f3, f4, f5, f6⟩ := flashDone_fields hb
      rw [hdev] at f3 f4 f5
      refine ⟨f1, f2, f3, fun h => ?_, fun h => ?_, f6⟩
      · obtain ⟨g1, g2, g3, g4⟩ := f4 h
        refine ⟨g1, g2, g3, fun i => (congrArg (fun m => SMap.get 0xFF m i) g4).trans ?_⟩
        rw [get_flashProgram, Memory.length_bytes]
        by_cases hi : f0 ≤ i ∧ i < f0 + 4096
        · rw [if_pos hi, if_pos hi, bytes_getD_fwin _ hi]
        · rw [if_neg hi, if_neg hi]
      · obtain ⟨g1, g2, g3, g4⟩ := f5 h
        exact ⟨g1, g2, g3, fun i => (congrArg (fun m => SMap.get 0xFF m i) g4).trans (get_flashErase _ _ _)⟩
  · intro h
    obtain ⟨ha, hm⟩ := hmay h
    have e := regWrite_ld (v := 1) (ver := none) ha hm (by decide) (show ldReg 0x30 = some (.acmd, 4) from rfl)
    refine ⟨s.free + 1, congrArg Host.Outcome.next (e.trans ?_)⟩
    rw [← attest_go]
    rfl
  · intro h1 h2
    refine ⟨s.free, ?_⟩
    change Host.Outcome.next { s with ld := s.ld.signed sig } = _
    rw [Loader.signed, if_neg (by rw [show s.ld.abusy = true from h1]; decide), if_pos (by rw [show s.ld.idv = false from h2]; decide)]
  · intro h1 h2 h3
    obtain ⟨hlen, htake, hdrop⟩ := report_parts s.ld h3
    refine ⟨{ s with ld := { s.ld with abusy := false, aresult := 0, arep := s.ld.report sig, aseq := s.ld.aseq + 1 } }, ?_, rfl, hlen,
      htake.trans ?_, hdrop⟩
    · change Host.Outcome.next { s with ld := s.ld.signed sig } = _
      rw [Loader.signed, if_neg (by rw [show s.ld.abusy = true from h1]; decide), if_neg (by rw [show s.ld.idv = true from h2]; decide)]
    · exact report_head s.ld _

end Sys2Proof.Machine
end

section
/-! The application of a verified image (R470, R474). -/
namespace Sys2Proof.Machine

open Sys2Proof.Safety

/-! ## What the sections leave of the loader -/

section Loader

variable {s : State} {t : TileId} {q : QIx}

theorem ld_reassignQueue : (s.reassignQueue t q).ld = s.ld := by
  obtain ⟨_, _, -, h⟩ := reassignQueue_step (QueueStep.refl s t q)
  rw [h.frame]

theorem ld_disableQueue : (s.disableQueue t q).ld = s.ld := by
  obtain ⟨_, _, -, h⟩ := disableQueue_step (QueueStep.refl s t q)
  rw [h.frame]

theorem ld_writeQcfg (v : Word) : (s.writeQcfg t q v).ld = s.ld := by
  rw [State.writeQcfg]
  dsimp only
  split
  · split
    · rfl
    · exact ld_disableQueue
  · split
    · rfl
    · split
      · rfl
      · exact ld_reassignQueue

theorem ld_ctWrite (lim : Bool) (r : CtReg) (v : DWord) : (s.ctWrite lim t r v).ld = s.ld := by
  cases r <;> simp only [State.ctWrite, apply_ite State.ld, State.modTile_ld, State.modTh_ld, ite_self]

theorem ld_ptWrite (r : PtReg) (v : DWord) : (s.ptWrite r v).ld = s.ld := by
  cases r <;> simp only [State.ptWrite, apply_ite State.ld, ite_self]

/-- A SETTINGS record changes no register of the loader. -/
theorem ld_imageWrite {pa : Nat} {v : DWord} (h : (imgReg pa).isSome = true) : (s.imageWrite pa v).ld = s.ld := by
  rw [imgReg] at h
  rw [State.imageWrite]
  generalize csrBlk pa = x at h
  cases x with
  | none => rfl
  | some b =>
    cases b with
    | ct t o =>
      dsimp only
      cases ctReg o with
      | none => rfl
      | some p =>
        obtain ⟨r, w⟩ := p
        cases r with
        | id => rfl
        | tctl h => rfl
        | _ => exact ld_ctWrite _ _ _
    | qt t o =>
      change (Blk.img (.qt t o)).isSome = true at h
      rw [Blk.img] at h
      dsimp only
      cases hr : qtReg o with
      | none => rfl
      | some p =>
        obtain ⟨r, w⟩ := p
        rw [hr] at h
        cases r with
        | qcfg q => exact ld_writeQcfg _
        | sctl h => rfl
        | mgrp g => rfl
        | _ => cases h
    | ce t o =>
      change (Blk.img (.ce t o)).isSome = true at h
      rw [Blk.img] at h
      dsimp only
      cases hr : ceReg o with
      | none => rfl
      | some p =>
        obtain ⟨r, w⟩ := p
        rw [hr] at h
        cases r with
        | fqh => rfl
        | _ => cases h
    | fn f o =>
      dsimp only
      split <;> rfl
    | pt o =>
      dsimp only
      cases ptReg o with
      | none => rfl
      | some p =>
        obtain ⟨r, w⟩ := p
        cases r with
        | evt e w => rfl
        | _ => exact ld_ptWrite _ _
    | cd c o =>
      dsimp only
      split <;> rfl
    | pw o =>
      dsimp only
      split <;> rfl
    | _ => rfl

/-- A fold of changes keeps what each of them keeps. -/
theorem foldl_keeps {α β γ : Type} (p : α → γ) (f : α → β → α) (l : List β) (hf : ∀ a, ∀ b ∈ l, p (f a b) = p a) :
    ∀ a, p (l.foldl f a) = p a := by
  induction l with
  | nil => exact fun _ => rfl
  | cons b l ih =>
    intro a
    rw [List.foldl_cons, ih (fun a c hc => hf a c (List.mem_cons_of_mem _ hc)), hf a b (List.mem_cons_self ..)]

theorem imgReg_settings {m : SMap Byte} {e : Section} {r : Nat × DWord} (h : r ∈ (settings m e).getD []) :
    (imgReg r.1).isSome = true := by
  rw [settings] at h
  split at h
  · cases h
  · obtain ⟨x, hx, hxr⟩ := List.mem_filterMap.1 (show r ∈ List.filterMap id _ from h)
    obtain ⟨i, -, hi⟩ := List.mem_map.1 hx
    rw [show x = some r from hxr, settingAt] at hi
    split at hi
    · cases hi
    · next hreg =>
      split at hi
      · cases hi
      · cases hi
        rw [hreg]
        rfl

theorem ld_imageWrites (m : SMap Byte) (e : Section) : (s.imageWrites ((settings m e).getD [])).ld = s.ld :=
  foldl_keeps State.ld _ _ (fun _ _ hr => ld_imageWrite (imgReg_settings hr)) s

theorem ld_applyHbm (m : SMap Byte) (e : Section) : (s.applyHbm m e).ld = s.ld := by
  rw [State.applyHbm]
  refine foldl_keeps State.ld _ _ (fun _ _ _ => ?_) s
  rfl

theorem ld_applyProgram (m : SMap Byte) (e : Section) : (s.applyProgram m e).ld = s.ld := by
  rw [State.applyProgram]
  refine foldl_keeps State.ld _ _ (fun a r _ => ?_) s
  rw [State.mapTiles_frame]

end Loader

/-! ## The sections (R464, R470, R491) -/

/-- FUNCTIONS gives function `i` its definition and its MGMT. -/
def State.defineFn (m : SMap Byte) (a : Nat) (k : State) (i : Nat) : State :=
  State.modFunc { k with plan := { k.plan with defs := setBit k.plan.defs i (fnDef m a i) } } (BitVec.ofNat 5 i) (fun x =>
    { x with mgmt := fnMgmt m a i })

/-- FUNCTIONS gives each tile its owner. -/
def State.ownTiles (s : State) (m : SMap Byte) (a : Nat) : State :=
  s.mapTiles (fun t tl => { tl with func := if fnOwner m a t.toNat = 0xFF then none else some (BitVec.ofNat 5 (fnOwner m a t.toNat)) })

theorem ownTiles_frame (s : State) (m : SMap Byte) (a : Nat) : s.ownTiles m a = { s with tiles := (s.ownTiles m a).tiles } := by
  rw [State.ownTiles]
  exact State.mapTiles_frame s _

theorem tile_ownTiles (s : State) (m : SMap Byte) (a : Nat) (t : TileId) : (s.ownTiles m a).tile t =
    { s.tile t with func := if fnOwner m a t.toNat = 0xFF then none else some (BitVec.ofNat 5 (fnOwner m a t.toNat)) } := by
  rw [State.ownTiles, State.tile_mapTiles]

theorem applyFunctions_eq (s : State) (m : SMap Byte) (a : Nat) :
    s.applyFunctions m a = (List.range 32).foldl (State.defineFn m a) (s.ownTiles m a) := by
  rw [State.applyFunctions]
  rfl

theorem foldl_defineFn (m : SMap Byte) (a : Nat) (s : State) {n : Nat} (hn : n ≤ 32) :
    let u := (List.range n).foldl (State.defineFn m a) s
    u = { s with funcs := u.funcs, plan := { s.plan with defs := u.plan.defs } } ∧
      (∀ f : FuncNo, u.func f = if f.toNat < n then { s.func f with mgmt := fnMgmt m a f.toNat } else s.func f) ∧
      ∀ f : FuncNo, f.toNat < n → u.plan.defs.getLsbD f.toNat = fnDef m a f.toNat := by
  induction n with
  | zero => exact ⟨rfl, fun _ => rfl, fun _ h => absurd h (Nat.not_lt_zero _)⟩
  | succ n ih =>
    obtain ⟨hframe, hfunc, hdefs⟩ := ih (by omega)
    rw [List.range_succ, List.foldl_append, List.foldl_cons, List.foldl_nil]
    generalize (List.range n).foldl (State.defineFn m a) s = u at hframe hfunc hdefs
    have hix (f : FuncNo) : f = BitVec.ofNat 5 n ↔ f.toNat = n := by
      rw [← BitVec.toNat_inj, BitVec.toNat_ofNat, Nat.mod_eq_of_lt (by omega)]
    refine ⟨?_, fun f => ?_, fun f hf => ?_⟩
    · rw [State.defineFn, hframe]
      rfl
    · rw [State.defineFn, State.func_modFunc]
      by_cases h : f.toNat = n
      · rw [if_pos ((hix f).2 h), if_pos (by omega), ← (hix f).2 h, h]
        exact congrArg (fun x : Func => { x with mgmt := fnMgmt m a n }) ((hfunc f).trans (if_neg (by omega)))
      · rw [if_neg (fun k => h ((hix f).1 k))]
        exact (hfunc f).trans (if_congr (by omega) rfl rfl)
    · refine (getLsbD_setBit _ (by omega) _ _).trans ?_
      by_cases h : f.toNat = n
      · simp [h]
      · rw [if_neg h]
        exact hdefs f (by omega)

theorem applyCxl_keeps (s : State) (m : SMap Byte) (e : Option Section) (r : CxlReport) : let u := s.applyCxl m e r
    u = { s with plan := u.plan, ld := { s.ld with woff := u.ld.woff, ldown := u.ld.ldown } } ∧
      u.plan = { s.plan with cxlUse := u.plan.cxlUse, cxlWin := u.plan.cxlWin, cxlEn := u.plan.cxlEn, cxlDown := u.plan.cxlDown } ∧
      (e = none → u.plan.cxlEn = 0 ∧ u.plan.cxlWin = []) := by
  cases e with
  | none => exact ⟨rfl, rfl, fun _ => ⟨rfl, rfl⟩⟩
  | some e => exact ⟨rfl, rfl, fun h => absurd h (by simp)⟩

theorem secsOf_nil {l : List Section} {k : Nat} (h : l.filter (fun e => e.type = k) = []) : secsOf l k = [] := h

/-- The state after PLAN and PINMUX (R470). -/
def State.planned (s : State) : State :=
  let m := s.ld.staged
  let s0 := { s with
    ld := { s.ld with applied := true, slotv := true, debug := flashNat m 0xC 1 % 2 = 1
                      version := BitVec.ofNat 32 (flashNat m 8 4) }
    plan := { s.plan.apply m (secAt s.ld.secs 1) with pinmux := [] } }
  match secsOf s.ld.secs 7 with
  | e :: _ => { s0 with plan := s0.plan.applyMux m e.offset }
  | [] => s0

/-- The state after the sections before CXL (R470). -/
def State.sectioned (s : State) : State :=
  let m := s.ld.staged
  let l := s.ld.secs
  let s2 := s.planned.applyFunctions m (secAt l 2)
  let s3 := (secsOf l 4).foldl (fun a e => a.applyHbm m e) s2
  let s4 := ((secsOf l 3).foldl (fun a e => a.imageWrites ((settings m e).getD [])) s3)
  (secsOf l 5 ++ secsOf l 6).foldl (fun (a : State) e => a.applyProgram m e)
    { s4 with plan := { s4.plan with restore := restoreRecords m l }
              pt := { s4.pt with evt := s4.pt.evt.map (fun (q : Nat × EvtEntry) => (q.1, q.2.imageEnd)) } }

theorem applyImage_eq (s : State) (r : CxlReport) : s.applyImage r = s.sectioned.applyCxl s.ld.staged (secsOf s.ld.secs 8).head? r := by
  rw [State.applyImage]
  rfl

theorem planned_frame (s : State) : s.planned = { s with ld := s.planned.ld, plan := s.planned.plan } ∧
    s.planned.ld = { s.ld with applied := true, slotv := true, debug := flashNat s.ld.staged 0xC 1 % 2 = 1, version := BitVec.ofNat 32 (flashNat s.ld.staged 8 4) } ∧
    s.planned.plan.thot = BitVec.ofNat 8 (flashNat s.ld.staged (secAt s.ld.secs 1 + 8) 1) ∧
    ∀ c : CobNo, SMap.get 0 s.planned.plan.budget c.toNat = flashNat s.ld.staged (secAt s.ld.secs 1 + 0x90 + 2 * c.toNat) 2 := by
  have hb (k : Nat) : SMap.get 0 (s.plan.apply s.ld.staged (secAt s.ld.secs 1)).budget k =
      if k < 16 then flashNat s.ld.staged (secAt s.ld.secs 1 + 0x90 + 2 * k) 2 else 0 :=
    SMap.get_foldl_set_range (0 : Nat) [] (fun c => flashNat s.ld.staged (secAt s.ld.secs 1 + 0x90 + 2 * c) 2) k 16
  rw [State.planned]
  cases secsOf s.ld.secs 7 with
  | nil => exact ⟨rfl, rfl, rfl, fun c => (hb c.toNat).trans (if_pos c.isLt)⟩
  | cons e l => exact ⟨rfl, rfl, rfl, fun c => (hb c.toNat).trans (if_pos c.isLt)⟩

theorem sectioned_ld (s : State) : s.sectioned.ld = s.planned.ld := by
  rw [State.sectioned]
  dsimp only
  rw [foldl_keeps State.ld (fun (a : State) e => a.applyProgram s.ld.staged e) _ (fun _ _ _ => ld_applyProgram _ _)]
  dsimp only
  rw [foldl_keeps State.ld (fun (a : State) e => a.imageWrites ((settings s.ld.staged e).getD [])) _ (fun _ _ _ => ld_imageWrites _ _),
    foldl_keeps State.ld (fun (a : State) e => a.applyHbm s.ld.staged e) _ (fun _ _ _ => ld_applyHbm _ _), applyFunctions_eq]
  obtain ⟨h, -⟩ := foldl_defineFn s.ld.staged (secAt s.ld.secs 2) (s.planned.ownTiles s.ld.staged (secAt s.ld.secs 2)) (Nat.le_refl 32)
  rw [h, ownTiles_frame]

/-- HBMDATA changes HBM alone (R464). -/
theorem foldl_applyHbm (m : SMap Byte) (l : List Section) (s : State) :
    l.foldl (fun a e => a.applyHbm m e) s = { s with hbm := (l.foldl (fun a e => a.applyHbm m e) s).hbm } := by
  have hone (s : State) (e : Section) : s.applyHbm m e = { s with hbm := (s.applyHbm m e).hbm } := by
    rw [State.applyHbm]
    generalize (hbmRecords m (e.length / 16 + 1) e.offset e.length).getD [] = rs
    induction rs generalizing s with
    | nil => rfl
    | cons r rs ih => exact (ih _).trans rfl
  induction l generalizing s with
  | nil => rfl
  | cons e l ih =>
    rw [List.foldl_cons, ih]
    generalize (List.foldl (fun (a : State) e => a.applyHbm m e) (s.applyHbm m e) l).hbm = h
    rw [hone]

/-- Without SETTINGS and programs, the image gives nothing but owners, MGMT, definitions and HBM data (R470). -/
theorem sectioned_plain {s : State} (h3 : secsOf s.ld.secs 3 = []) (h5 : secsOf s.ld.secs 5 = []) (h6 : secsOf s.ld.secs 6 = []) :
    let fo := secAt s.ld.secs 2
    let u := s.sectioned
    (∀ t, u.tile t = { s.tile t with func := if fnOwner s.ld.staged fo t.toNat = 0xFF then none else some (BitVec.ofNat 5 (fnOwner s.ld.staged fo t.toNat)) }) ∧
      (∀ f, u.func f = { s.func f with mgmt := fnMgmt s.ld.staged fo f.toNat }) ∧
      (∀ f : FuncNo, u.plan.defs.getLsbD f.toNat = fnDef s.ld.staged fo f.toNat) ∧
      u.pt = { s.pt with evt := u.pt.evt } ∧ u.plan.thot = s.planned.plan.thot ∧ u.plan.budget = s.planned.plan.budget ∧
      (secsOf s.ld.secs 4 = [] → u.hbm = s.hbm) := by
  intro fo u
  obtain ⟨hplan, -, -, -⟩ := planned_frame s
  obtain ⟨hdef, hfunc, hdefs⟩ := foldl_defineFn s.ld.staged fo (s.planned.ownTiles s.ld.staged fo) (Nat.le_refl 32)
  have htile (t : TileId) := tile_ownTiles s.planned s.ld.staged fo t
  have hown := ownTiles_frame s.planned s.ld.staged fo
  rw [← applyFunctions_eq] at hdef hfunc hdefs
  have hhbm := foldl_applyHbm s.ld.staged (secsOf s.ld.secs 4) (s.planned.applyFunctions s.ld.staged fo)
  have hu : u = { (secsOf s.ld.secs 4).foldl (fun a e => a.applyHbm s.ld.staged e) (s.planned.applyFunctions s.ld.staged fo) with
      plan := { ((secsOf s.ld.secs 4).foldl (fun a e => a.applyHbm s.ld.staged e) (s.planned.applyFunctions s.ld.staged fo)).plan with
        restore := restoreRecords s.ld.staged s.ld.secs }
      pt := { ((secsOf s.ld.secs 4).foldl (fun a e => a.applyHbm s.ld.staged e) (s.planned.applyFunctions s.ld.staged fo)).pt with
        evt := ((secsOf s.ld.secs 4).foldl (fun a e => a.applyHbm s.ld.staged e) (s.planned.applyFunctions s.ld.staged fo)).pt.evt.map
          (fun (q : Nat × EvtEntry) => (q.1, q.2.imageEnd)) } } := by
    change s.sectioned = _
    rw [State.sectioned]
    dsimp only
    rw [h3, h5, h6]
    rfl
  have hnone (h4 : secsOf s.ld.secs 4 = []) : ((secsOf s.ld.secs 4).foldl (fun a e => a.applyHbm s.ld.staged e) (s.planned.applyFunctions s.ld.staged fo)).hbm =
      (s.planned.applyFunctions s.ld.staged fo).hbm := by rw [h4, List.foldl_nil]
  generalize (secsOf s.ld.secs 4).foldl (fun a e => a.applyHbm s.ld.staged e) (s.planned.applyFunctions s.ld.staged fo) = w at hhbm hu hnone
  generalize s.planned.applyFunctions s.ld.staged fo = v at hdef hfunc hdefs hhbm hnone
  generalize s.planned.ownTiles s.ld.staged fo = o at hdef hfunc htile hown
  generalize s.planned = p at hplan hown htile
  have hts : w.tiles = o.tiles := by rw [hhbm, hdef]
  have hfs : w.funcs = v.funcs := by rw [hhbm]
  have hpl : w.plan = { p.plan with defs := v.plan.defs } := by rw [hhbm, hdef, hown]
  have hpt : w.pt = s.pt := by rw [hhbm, hdef, hown, hplan]
  have hpf : p.tiles = s.tiles ∧ o.funcs = s.funcs ∧ v.hbm = s.hbm := by
    rw [hdef, hown, hplan]
    exact ⟨rfl, rfl, rfl⟩
  obtain ⟨hpt', hof, hvh⟩ := hpf
  rw [hu]
  refine ⟨fun t => ?_, fun f => ?_, fun f => ?_, ?_, ?_, ?_, fun h4 => ?_⟩
  · change SMap.get {} w.tiles t.toNat = _
    rw [hts]
    refine (htile t).trans ?_
    rw [State.tile, hpt', State.tile]
  · change SMap.get {} w.funcs f.toNat = _
    rw [hfs]
    refine (hfunc f).trans ((if_pos f.isLt).trans ?_)
    rw [State.func, hof, State.func]
  · change w.plan.defs.getLsbD f.toNat = _
    rw [hpl]
    exact hdefs f f.isLt
  · dsimp only
    rw [hpt]
  · dsimp only
    rw [hpl]
  · dsimp only
    rw [hpl]
  · exact (hnone h4).trans hvh

/-- The application of the staged image (R470). -/
theorem imageApplication (s : State) (r : CxlReport) :
    let l := s.ld
    let m := l.staged
    let of_ (k : Nat) : List Section := l.secs.filter (fun e => e.type = k)
    let fo := ((of_ 2).map (fun e => e.offset)).headD 0
    let po := ((of_ 1).map (fun e => e.offset)).headD 0
    let plain : Prop := of_ 3 = [] ∧ of_ 5 = [] ∧ of_ 6 = []
    let owner (t : TileId) : Nat := flashNat m (fo + t.toNat) 1
    let entry (f : FuncNo) : Nat := flashNat m (fo + 4096 + 8 * f.toNat) 1
    s.lands.coldrst = true → s.lands.railHold = false → l.phase = 4 → l.hbmDone = true → l.applied = false →
      ∃ u, exec (.imageApply r) s = .next u ∧
        u.ld.applied = true ∧ u.ld.slotv = true ∧ u.ld.phase = 4 ∧ u.ld.flash0 = l.flash0 ∧ u.ld.flash1 = l.flash1 ∧
        u.ld.debug = decide (flashNat m 0xC 1 % 2 = 1) ∧ u.ld.version = BitVec.ofNat 32 (flashNat m 8 4) ∧
        (of_ 4 = [] → plain → u.hbm = s.hbm) ∧
        (plain →
          (∀ t, u.tile t = { s.tile t with func := if owner t = 0xFF then none else some (BitVec.ofNat 5 (owner t)) }) ∧
          (∀ f, u.func f = { s.func f with mgmt := decide (entry f / 2 % 2 = 1) }) ∧
          (∀ f : FuncNo, u.plan.defs.getLsbD f.toNat = decide (entry f % 2 = 1)) ∧
          u.pt = { s.pt with evt := u.pt.evt } ∧ u.plan.thot = BitVec.ofNat 8 (flashNat m (po + 8) 1) ∧
          ∀ c : CobNo, SMap.get 0 u.plan.budget c.toNat = flashNat m (po + 0x90 + 2 * c.toNat) 2) ∧
        (of_ 8 = [] → u.plan.cxlEn = 0 ∧ u.plan.cxlWin = []) := by
  intro l m of_ fo po plain owner entry h1 h2 h3 h4 h5
  obtain ⟨hframe, hplan, hnone⟩ := applyCxl_keeps s.sectioned m (secsOf l.secs 8).head? r
  have hld := sectioned_ld s
  obtain ⟨-, hpld, hthot, hbudget⟩ := planned_frame s
  have hsec (hp : plain) := sectioned_plain (s := s) hp.1 hp.2.1 hp.2.2
  have e : exec (.imageApply r) s = .next (s.sectioned.applyCxl m (secsOf l.secs 8).head? r) := by
    change execImageApply r s = _
    rw [execImageApply, if_pos (by simp [State.alive, h1, h2, show s.ld.phase = 4 from h3, show s.ld.hbmDone = true from h4,
      show s.ld.applied = false from h5]), applyImage_eq]
  generalize State.applyCxl _ _ _ _ = u at e hframe hplan hnone
  generalize s.sectioned = w at hframe hplan hld hsec
  have hul : u.ld = { s.ld with applied := true, slotv := true, debug := flashNat m 0xC 1 % 2 = 1, version := BitVec.ofNat 32 (flashNat m 8 4), woff := u.ld.woff, ldown := u.ld.ldown } := by
    rw [hframe, hld, hpld]
  have hrest : u.hbm = w.hbm ∧ u.tiles = w.tiles ∧ u.funcs = w.funcs ∧ u.pt = w.pt := by
    rw [hframe]
    exact ⟨rfl, rfl, rfl, rfl⟩
  obtain ⟨hh, ht, hf, hp⟩ := hrest
  have hpl : u.plan.defs = w.plan.defs ∧ u.plan.thot = w.plan.thot ∧ u.plan.budget = w.plan.budget := by
    rw [hplan]
    exact ⟨rfl, rfl, rfl⟩
  obtain ⟨hd, hth, hb⟩ := hpl
  refine ⟨u, e, ?_, ?_, ?_, ?_, ?_, ?_, ?_, fun h k => ?_, fun h => ?_, fun h => hnone ?_⟩
  · rw [hul]
  · rw [hul]
  · rw [hul]; exact h3
  · rw [hul]
  · rw [hul]
  · rw [hul]
  · rw [hul]
  · obtain ⟨-, -, -, -, -, -, k7⟩ := hsec k
    exact hh.trans (k7 h)
  · obtain ⟨k1, k2, k3, k4, k5, k6, -⟩ := hsec h
    refine ⟨fun t => ?_, fun f => ?_, fun f => ?_, ?_, ?_, fun c => ?_⟩
    · rw [State.tile, ht]
      exact k1 t
    · rw [State.func, hf]
      exact k2 f
    · rw [hd]
      exact k3 f
    · rw [hp]
      exact k4
    · rw [hth, k5]
      exact hthot
    · rw [hb, k6]
      exact hbudget c
  · rw [show secsOf l.secs 8 = [] from h]
    rfl

end Sys2Proof.Machine
end

section
/-! The release of the threads (R41, R448, R466, R470, R485), and the proof of O47. -/
namespace Sys2Proof.Machine

open Sys2Proof.Safety

/-! ## Changes of every thread, every queue, every function -/

/-- A change of each thread in turn, under a condition on the tile that the changes keep. -/
theorem th_eachThread {tl : Tile} {f : Tile → Thr → Tile} {g : Thr → Thread → Thread} (c : Tile → Prop) (h0 : c tl)
    (hc : ∀ a h, c a → c (f a h)) (hf : ∀ a h k, c a → (f a h).th k = if k = h then g h (a.th h) else a.th k) (k : Thr) :
    (tl.eachThread f).th k = g k (tl.th k) := by
  have hl (l : List Thr) : l.Nodup → ∀ a, c a → (l.foldl f a).th k = if k ∈ l then g k (a.th k) else a.th k := by
    induction l with
    | nil => exact fun _ _ _ => rfl
    | cons h l ih =>
      intro hnd a ha
      obtain ⟨hnot, hnd⟩ := List.nodup_cons.1 hnd
      rw [List.foldl_cons, ih hnd _ (hc a h ha), hf a h k ha]
      by_cases hk : k = h
      · subst hk
        simp [hnot]
      · simp [hk]
  have hall : k ∈ ([0, 1, 2, 3] : List Thr) := (by decide : ∀ k : Thr, k ∈ ([0, 1, 2, 3] : List Thr)) k
  exact (hl [0, 1, 2, 3] (by decide) tl h0).trans (if_pos hall)

/-- Changes of threads leave the rest of the tile. -/
theorem eachThread_frame {f : Tile → Thr → Tile} (hf : ∀ a h, f a h = { a with thr := (f a h).thr }) (tl : Tile) :
    tl.eachThread f = { tl with thr := (tl.eachThread f).thr } := by
  have hl (l : List Thr) : ∀ a : Tile, l.foldl f a = { a with thr := (l.foldl f a).thr } := by
    induction l with
    | nil => exact fun _ => rfl
    | cons h l ih =>
      intro a
      rw [List.foldl_cons, ih]
      generalize (l.foldl f (f a h)).thr = x
      rw [hf]
  exact hl _ tl

/-- A change of the queues that `p` does not name. -/
theorem foldl_modQueue (tl : Tile) (p : Nat → Bool) (g : Queue → Queue) {n : Nat} (hn : n ≤ 16) :
    let u := (List.range n).foldl (fun a i => if p i then a else a.modQueue (BitVec.ofNat 4 i) g) tl
    u = { tl with q := u.q } ∧ ∀ q : QIx, u.queue q = if q.toNat < n ∧ p q.toNat = false then g (tl.queue q) else tl.queue q := by
  induction n with
  | zero => exact ⟨rfl, fun _ => rfl⟩
  | succ n ih =>
    obtain ⟨hframe, hq⟩ := ih (by omega)
    rw [List.range_succ, List.foldl_append, List.foldl_cons, List.foldl_nil]
    generalize (List.range n).foldl (fun a i => if p i then a else a.modQueue (BitVec.ofNat 4 i) g) tl = u at hframe hq
    have hix (q : QIx) : q = BitVec.ofNat 4 n ↔ q.toNat = n := by
      rw [← BitVec.toNat_inj, BitVec.toNat_ofNat, Nat.mod_eq_of_lt (by omega)]
    cases hp : p n with
    | true =>
      refine ⟨hframe, fun q => (hq q).trans (if_congr ⟨fun h => ⟨by omega, h.2⟩, fun h => ⟨?_, h.2⟩⟩ rfl rfl)⟩
      have : q.toNat ≠ n := by
        rintro hn
        rw [hn, hp] at h
        exact absurd h.2 (by decide)
      omega
    | false =>
      refine ⟨by rw [hframe]; rfl, fun q => ?_⟩
      refine (Tile.queue_modQueue _ _ _ _).trans ?_
      by_cases h : q.toNat = n
      · rw [if_pos ((hix q).2 h), if_pos ⟨by omega, h ▸ hp⟩, ← (hix q).2 h, hq, if_neg (by omega)]
      · rw [if_neg (fun k => h ((hix q).1 k)), hq]
        exact if_congr ⟨fun k => ⟨by omega, k.2⟩, fun k => ⟨by omega, k.2⟩⟩ rfl rfl

/-- A change of every function that may look at the plan. -/
theorem foldl_modFunc (s : State) (g : Plan → Nat → Func → Func) {n : Nat} (hn : n ≤ 32) :
    let u := (List.range n).foldl (fun a i => a.modFunc (BitVec.ofNat 5 i) (g a.plan i)) s
    u = { s with funcs := u.funcs } ∧
      ∀ f : FuncNo, u.func f = if f.toNat < n then g s.plan f.toNat (s.func f) else s.func f := by
  induction n with
  | zero => exact ⟨rfl, fun _ => rfl⟩
  | succ n ih =>
    obtain ⟨hframe, hq⟩ := ih (by omega)
    rw [List.range_succ, List.foldl_append, List.foldl_cons, List.foldl_nil]
    generalize (List.range n).foldl (fun a i => a.modFunc (BitVec.ofNat 5 i) (g a.plan i)) s = u at hframe hq
    have hix (f : FuncNo) : f = BitVec.ofNat 5 n ↔ f.toNat = n := by
      rw [← BitVec.toNat_inj, BitVec.toNat_ofNat, Nat.mod_eq_of_lt (by omega)]
    have hplan : u.plan = s.plan := by rw [hframe]
    refine ⟨by rw [hframe]; rfl, fun f => ?_⟩
    refine (State.func_modFunc _ _ _ _).trans ?_
    by_cases h : f.toNat = n
    · rw [if_pos ((hix f).2 h), if_pos (by omega), ← (hix f).2 h, hq, if_neg (by omega), hplan, h]
    · rw [if_neg (fun k => h ((hix f).1 k)), hq]
      exact if_congr (by omega) rfl rfl

theorem mem_tilesOf_mapTiles {s : State} {g : TileId → Tile → Tile} {f : FuncNo} {t : TileId} :
    t ∈ (s.mapTiles g).tilesOf f ↔ (g t (s.tile t)).func = some f := by
  constructor
  · intro h
    obtain ⟨p, hp, rfl⟩ := List.mem_map.1 h
    obtain ⟨hmem, hfunc⟩ := List.mem_filter.1 hp
    rw [State.mapTiles] at hmem
    generalize 4096 = n at hmem
    obtain ⟨i, hi, he⟩ := List.mem_filterMap.1 hmem
    dsimp only at he
    split at he
    · cases he
    · cases he
      simpa using hfunc
  · intro h
    refine mem_tilesOf ?_
    rw [State.tile_mapTiles]
    exact h

/-! ## Defaults (R466) -/

/-- A thread with the image fields that the image gives no value at their defaults. -/
def Thread.defaulted (x : Thread) (ctl ex : Bool) : Thread :=
  let y := if ctl then x else { x with pc := 0, slv := false, run := .stopped }
  if ex then y else { y with stex := false }

section Defaults

variable (tl : Tile) (t : TileId) (ct qt ce : Nat → Bool) (rs : List ProgRec)

/-- The image fields of a tile beside those of its threads and queues, at their defaults where the image gives no value. -/
def Tile.bare : Tile :=
  let based := rs.any (fun r => inBox r.box t)
  { tl with
    pmem := tl.pmem.filter (fun p => givesWord rs t p.1 || ct (0x20000 + 4 * p.1))
    mvbase := if based then tl.mvbase else 0
    svbase := if based then tl.svbase else 0
    csize := if ct 0x200 then tl.csize else 0
    pfd := if ct 0x200 then tl.pfd else 0
    place := if ct 0x220 then tl.place else 0
    pbb := if ct 0x228 then tl.pbb else ({} : Tile).defaults.pbb
    memb := tl.memb.filter (fun p => ct (0x300 + 8 * p.1))
    quietWin := if ct 0x4E0 then tl.quietWin else ({} : Tile).defaults.quietWin
    hzHaltk := if ct 0x600 then tl.hzHaltk else 0
    mgrp := tl.mgrp.filter (fun p => qt (0x400 + 8 * p.1))
    eng := { tl.eng with fqh := if ce 0x20 then tl.eng.fqh else 0 } }

/-- The threads of a tile at their defaults. -/
def Tile.bareThreads : Tile :=
  tl.eachThread (fun a h => a.modTh h (fun x => x.defaulted (ct (8 + 8 * h.toNat)) (qt (0x320 + 8 * h.toNat))))

theorem takeDefaults_eq : tl.takeDefaults t ct qt ce rs = (List.range 16).foldl (fun a i =>
    if qt (8 * i) then a else a.modQueue (BitVec.ofNat 4 i) Queue.unset) ((tl.bare t ct qt ce rs).bareThreads ct qt) := by
  rw [Tile.takeDefaults]
  rfl

theorem th_bareThreads (h : Thr) : (tl.bareThreads ct qt).th h =
    (tl.th h).defaulted (ct (8 + 8 * h.toNat)) (qt (0x320 + 8 * h.toNat)) :=
  th_eachThread (g := fun h x => x.defaulted (ct (8 + 8 * h.toNat)) (qt (0x320 + 8 * h.toNat))) (fun _ => True) trivial
    (fun _ _ _ => trivial) (fun _ _ _ _ => Tile.th_modTh _ _ _ _) h

theorem bareThreads_frame : tl.bareThreads ct qt = { tl with thr := (tl.bareThreads ct qt).thr } :=
  eachThread_frame (fun _ _ => rfl) tl

theorem takeDefaults_spec : let u := tl.takeDefaults t ct qt ce rs
    u = { tl.bare t ct qt ce rs with thr := u.thr, q := u.q } ∧
    (∀ h, u.th h = (tl.th h).defaulted (ct (8 + 8 * h.toNat)) (qt (0x320 + 8 * h.toNat))) ∧
    ∀ q : QIx, u.queue q = if qt (8 * q.toNat) then tl.queue q else (tl.queue q).unset := by
  intro u
  obtain ⟨hframe, hq⟩ := foldl_modQueue ((tl.bare t ct qt ce rs).bareThreads ct qt) (fun i => qt (8 * i)) Queue.unset (Nat.le_refl 16)
  have hth := th_bareThreads (tl.bare t ct qt ce rs) ct qt
  have hb := bareThreads_frame (tl.bare t ct qt ce rs) ct qt
  rw [← takeDefaults_eq] at hframe hq
  generalize (tl.bare t ct qt ce rs).bareThreads ct qt = b at hframe hq hth hb
  have hbq : b.q = tl.q := by
    rw [hb]
    rfl
  have hut : u.thr = b.thr := by
    change (tl.takeDefaults t ct qt ce rs).thr = _
    rw [hframe]
  refine ⟨?_, fun h => ?_, fun q => (hq q).trans ?_⟩
  · rw [hut]
    exact hframe.trans (congrArg (fun x : Tile => { x with q := u.q }) hb)
  · rw [Tile.th, hut]
    exact hth h
  · rw [Tile.queue, hbq, ← Tile.queue]
    cases qt (8 * q.toNat) with
    | true => simp
    | false => simp [q.isLt]

end Defaults

/-! ## The whole part at its defaults -/

/-- Whether the SETTINGS of the staged image name a register. -/
def State.named (s : State) (pa : Nat) : Bool := s.ld.named.contains pa

/-- A tile with its defaults (R466). -/
def State.defaultsOf (s : State) (t : TileId) (tl : Tile) : Tile :=
  tl.takeDefaults t (fun o => s.named (0x3F0000000000 + t.toNat * 0x40000 + o))
    (fun o => s.named (0x3F0100000000 + t.toNat * 0x10000 + o)) (fun o => s.named (0x3F0200000000 + t.toNat * 0x10000 + o)) s.ld.programs

/-- A function with its defaults (R466). -/
def State.defaultsFn (s : State) (p : Plan) (i : Nat) (x : Func) : Func :=
  { x with
    cnsEn := if s.named (0x3F0700000000 + 8 * i) then x.cnsEn else bit p.defs i
    ptr := if s.named (0x3F0600000000 + 0x1000 * i + 0x18) then x.ptr else 0 }

theorem takeDefaults_state (s : State) : let u := s.takeDefaults
    u = { s with tiles := u.tiles, funcs := u.funcs, pt := s.pt.takeDefaults (fun o => s.named (0x3F0800000000 + o)) } ∧
    (∀ t, u.tile t = s.defaultsOf t (s.tile t)) ∧
    ∀ f : FuncNo, u.func f = s.defaultsFn s.plan f.toNat (s.func f) := by
  intro u
  have e : s.takeDefaults = (List.range 32).foldl (fun k i => k.modFunc (BitVec.ofNat 5 i) (s.defaultsFn k.plan i))
      { s.mapTiles s.defaultsOf with pt := (s.mapTiles s.defaultsOf).pt.takeDefaults (fun o => s.named (0x3F0800000000 + o)) } := by
    rw [State.takeDefaults]
    rfl
  have hframe := State.mapTiles_frame s s.defaultsOf
  have htile := State.tile_mapTiles s s.defaultsOf
  generalize s.mapTiles s.defaultsOf = w at e hframe htile
  obtain ⟨hf, hfun⟩ := foldl_modFunc { w with pt := w.pt.takeDefaults (fun o => s.named (0x3F0800000000 + o)) } s.defaultsFn (Nat.le_refl 32)
  rw [← e] at hf hfun
  have hw : u = { w with pt := w.pt.takeDefaults (fun o => s.named (0x3F0800000000 + o)), funcs := u.funcs } := hf
  have ht : u.tiles = w.tiles := by rw [hw]
  refine ⟨?_, fun t => ?_, fun f => ?_⟩
  · rw [ht]
    refine hw.trans ?_
    rw [hframe]
  · rw [State.tile, ht]
    exact htile t
  · refine (hfun f).trans ((if_pos f.isLt).trans ?_)
    rw [hframe]
    rfl

/-! ## The release of the threads (R41, R470) -/

/-- A thread whose held RUN takes effect. -/
def Thread.releasedIn (x : Thread) (tl : Tile) (run : Bool) : Thread :=
  if run = true ∧ tl.zeroed = true ∧ tl.func.isSome = true ∧ x.run = .stopped then x.started else x

theorem start_frame (tl : Tile) (h : Thr) : tl.start h = { tl with thr := (tl.start h).thr } := by
  rw [Tile.start]
  split <;> rfl

theorem th_start (tl : Tile) (h k : Thr) : (tl.start h).th k =
    if k = h then (tl.th h).releasedIn tl true else tl.th k := by
  rw [Tile.start, Thread.releasedIn]
  by_cases hc : tl.zeroed = true ∧ tl.func.isSome = true ∧ (tl.th h).run = .stopped
  · rw [if_pos (by simp [hc.1, hc.2.1, hc.2.2]), if_pos (show true = true ∧ _ from ⟨rfl, hc⟩), Tile.th_modTh]
    rfl
  · rw [if_neg (by simpa [and_assoc] using hc), if_neg (show ¬(true = true ∧ _) from fun h => hc h.2)]
    split
    · next hk => rw [hk]
    · rfl

/-- Every held RUN of a tile takes effect. -/
def Tile.startRuns (tl : Tile) (r : Thr → Bool) : Tile := tl.eachThread (fun a h => if r h then a.start h else a)

theorem startRuns_frame (tl : Tile) (r : Thr → Bool) : tl.startRuns r = { tl with thr := (tl.startRuns r).thr } := by
  refine eachThread_frame (fun a h => ?_) tl
  cases r h with
  | true => exact start_frame a h
  | false => rfl

theorem th_startRuns (tl : Tile) (r : Thr → Bool) (h : Thr) : (tl.startRuns r).th h = (tl.th h).releasedIn tl (r h) := by
  refine th_eachThread (g := fun h x => x.releasedIn tl (r h)) (fun a => a.zeroed = tl.zeroed ∧ a.func = tl.func) ⟨rfl, rfl⟩
    (fun a h ha => ?_) (fun a h k ha => ?_) h
  · cases r h with
    | true =>
      rw [if_pos rfl, start_frame]
      exact ha
    | false => exact ha
  · cases r h with
    | true =>
      rw [if_pos rfl, th_start]
      refine if_congr Iff.rfl ?_ rfl
      rw [Thread.releasedIn, Thread.releasedIn, ha.1, ha.2]
    | false =>
      rw [if_neg Bool.false_ne_true]
      split
      · next hk =>
        rw [hk, Thread.releasedIn, if_neg (fun h => absurd h.1 Bool.false_ne_true)]
      · rfl

/-! ## Halves in mode 1 (R485) -/

/-- A half in mode 1 begins to switch off (R485). -/
def State.idleHalf (s : State) (c : CobNo) (so : Bool) : State :=
  if s.halfMode c so = 1 then s.setDom (.half c so) (.goingOff false) else s

theorem releaseHalves_eq (s : State) : s.releaseHalves = (List.range 16).foldl (fun a i =>
    (a.idleHalf (BitVec.ofNat 4 i) false).idleHalf (BitVec.ofNat 4 i) true) s := by
  rw [State.releaseHalves]
  rfl

/-- Cob `c` with its halves in mode 1 switching off. -/
def State.idledCob (s : State) (c : CobNo) : Cob :=
  { s.cob c with
    north := if s.halfMode c false = 1 then .goingOff false else (s.cob c).north
    south := if s.halfMode c true = 1 then .goingOff false else (s.cob c).south }

theorem idleHalf_frame (s : State) (c : CobNo) (so : Bool) : s.idleHalf c so = { s with cobs := (s.idleHalf c so).cobs } := by
  rw [State.idleHalf]
  split
  · cases so <;> rfl
  · rfl

theorem cob_idleHalves (s : State) (c k : CobNo) : ((s.idleHalf c false).idleHalf c true).cob k =
    if k = c then s.idledCob c else s.cob k := by
  have hmode : (s.idleHalf c false).halfMode c true = s.halfMode c true := by
    rw [idleHalf_frame]
    rfl
  rw [State.idleHalf, hmode, State.idleHalf, State.idledCob]
  by_cases hn : s.halfMode c false = 1
  · by_cases hs : s.halfMode c true = 1
    · simp only [hn, hs, if_true, State.setDom, State.cob_modCob]
      split <;> rfl
    · simp only [hn, hs, if_true, if_false, State.setDom, State.cob_modCob]
  · by_cases hs : s.halfMode c true = 1
    · simp only [hn, hs, if_true, if_false, State.setDom, State.cob_modCob]
    · simp only [hn, hs, if_false]
      split
      · next hk => rw [hk]
      · rfl

theorem foldl_idleHalf (s : State) {n : Nat} (hn : n ≤ 16) :
    let u := (List.range n).foldl (fun a i => (a.idleHalf (BitVec.ofNat 4 i) false).idleHalf (BitVec.ofNat 4 i) true) s
    u = { s with cobs := u.cobs } ∧ ∀ c : CobNo, u.cob c = if c.toNat < n then s.idledCob c else s.cob c := by
  induction n with
  | zero => exact ⟨rfl, fun _ => rfl⟩
  | succ n ih =>
    obtain ⟨hframe, hq⟩ := ih (by omega)
    rw [List.range_succ, List.foldl_append, List.foldl_cons, List.foldl_nil]
    generalize (List.range n).foldl (fun (a : State) i => (a.idleHalf (BitVec.ofNat 4 i) false).idleHalf (BitVec.ofNat 4 i) true) s = u at hframe hq
    have hix (c : CobNo) : c = BitVec.ofNat 4 n ↔ c.toNat = n := by
      rw [← BitVec.toNat_inj, BitVec.toNat_ofNat, Nat.mod_eq_of_lt (by omega)]
    refine ⟨?_, fun c => ?_⟩
    · rw [idleHalf_frame]
      generalize (State.idleHalf (State.idleHalf u _ _) _ _).cobs = x
      rw [idleHalf_frame, hframe]
    · rw [cob_idleHalves]
      by_cases h : c.toNat = n
      · have hc : u.cob c = s.cob c := (hq c).trans (if_neg (by omega))
        have hm (so : Bool) : u.halfMode c so = s.halfMode c so := by
          rw [hframe]
          rfl
        rw [if_pos ((hix c).2 h), if_pos (by omega), ← (hix c).2 h, State.idledCob, State.idledCob, hc, hm, hm]
      · rw [if_neg (fun k => h ((hix c).1 k)), hq]
        exact if_congr (by omega) rfl rfl

/-! ## The release as a whole (R470) -/

theorem defaulted_fields (x : Thread) {c e : Bool} {p q : Prop} (hp : p ↔ c = true) (hq : q ↔ e = true) : let y := x.defaulted c e
    (p → y.pc = x.pc ∧ y.slv = x.slv ∧ y.run = x.run) ∧ (¬p → y.pc = 0 ∧ y.slv = false ∧ y.run = .stopped) ∧
    (q → y.stex = x.stex) ∧ (¬q → y.stex = false) ∧ y = { x with pc := y.pc, slv := y.slv, run := y.run, stex := y.stex } := by
  rw [hp, hq]
  cases c <;> cases e <;> simp [Thread.defaulted]

/-- A field that has its default where the image gives it no value. -/
theorem given_field {α : Type} {p : Prop} {b : Bool} (h : p ↔ b = true) {x a d : α} (e : x = if b then a else d) :
    (p → x = a) ∧ (¬p → x = d) := by
  rw [h]
  cases b with
  | true => exact ⟨fun _ => e, fun k => absurd rfl k⟩
  | false => exact ⟨fun k => absurd k Bool.false_ne_true, fun _ => e⟩

/-- The part with its defaults and its held RUNs in effect. -/
theorem startHeld_state (s : State) : let w := s.takeDefaults.startHeld
    w = { s with tiles := w.tiles, funcs := w.funcs, pt := s.pt.takeDefaults (fun o => s.named (0x3F0800000000 + o)) } ∧
    (∀ t, w.tile t = (s.defaultsOf t (s.tile t)).startRuns (s.runs t)) ∧
    (∀ f : FuncNo, w.func f = s.defaultsFn s.plan f.toNat (s.func f)) ∧
    ∀ f t, t ∈ w.tilesOf f ↔ (w.tile t).func = some f := by
  intro w
  obtain ⟨hd, htile, hfunc⟩ := takeDefaults_state s
  have hw : w = s.takeDefaults.mapTiles (fun t tl => tl.startRuns (s.takeDefaults.runs t)) := rfl
  generalize s.takeDefaults = d at hd htile hfunc hw
  have hruns (t : TileId) : d.runs t = s.runs t := by
    funext h
    rw [State.runs, hd, State.runs]
  have hwf := hw.trans (State.mapTiles_frame d (fun t tl => tl.startRuns (d.runs t)))
  rw [← hw] at hwf
  refine ⟨hwf.trans ?_, fun t => ?_, fun f => ?_, fun f t => ?_⟩
  · generalize w.tiles = ts at hwf
    have hwfn : w.funcs = d.funcs := by rw [hwf]
    rw [hwfn, hd]
  · rw [hw, State.tile_mapTiles, htile, hruns]
  · have hwfn : w.funcs = d.funcs := by rw [hwf]
    rw [State.func, hwfn]
    exact hfunc f
  · rw [hw, mem_tilesOf_mapTiles, State.tile_mapTiles]

theorem releaseState_spec {w : State} {f : FuncNo} (hmem : ∀ t, t ∈ w.tilesOf f ↔ (w.tile t).func = some f) :
    (w.plan.defs.getLsbD f.toNat = false → w.releaseState f = .absent) ∧
    (w.plan.defs.getLsbD f.toNat = true →
      (w.releaseState f = .running ↔ ∃ t h, (w.tile t).func = some f ∧ (w.th t h).run ≠ .stopped) ∧
      (w.releaseState f ≠ .running → w.releaseState f = .idle)) := by
  have hany : ((w.tilesOf f).any (fun t => !((w.tile t).stopped 15)) = true) ↔ ∃ t h, (w.tile t).func = some f ∧ (w.th t h).run ≠ .stopped := by
    rw [List.any_eq_true]
    refine exists_congr fun t => ?_
    rw [hmem, ← exists_and_left.symm]
    refine and_congr_right fun _ => ?_
    rw [Tile.stopped, Bool.not_eq_true', List.all_eq_false]
    constructor
    · rintro ⟨h, -, hn⟩
      refine ⟨h, fun hs => hn ?_⟩
      rw [Bool.or_eq_true]
      exact .inr (by simpa [State.th] using hs)
    · rintro ⟨h, hn⟩
      refine ⟨h, (by decide : ∀ k : Thr, k ∈ ([0, 1, 2, 3] : List Thr)) h, fun hs => hn ?_⟩
      rw [Bool.or_eq_true] at hs
      obtain hs | hs := hs
      · exact absurd hs ((by decide : ∀ k : Thr, ¬(!(bit (15 : BitVec 4) k.toNat)) = true) h)
      · simpa [State.th] using hs
  rw [State.releaseState]
  refine ⟨fun h => if_pos (by rw [bit, h]; decide), fun h => ?_⟩
  rw [if_neg (by rw [bit, h]; decide), ← hany]
  cases (w.tilesOf f).any (fun t => !((w.tile t).stopped 15)) <;> decide

theorem exec_release {s : State} (h1 : s.lands.coldrst = true) (h2 : s.lands.railHold = false) (h3 : s.ld.phase = 4)
    (h4 : s.ld.applied = true) (h5 : s.unrec = false) : ∃ u, exec .release s = .next u ∧
    let w := s.takeDefaults.startHeld
    u = { w with cobs := u.cobs, funcs := u.funcs, ld := { s.ld with phase := 5, staged := [] } } ∧
    (∀ f : FuncNo, u.func f = { w.func f with st := w.releaseState f }) ∧ ∀ c : CobNo, u.cob c = s.idledCob c := by
  obtain ⟨hw, -, -, -⟩ := startHeld_state s
  have e : exec .release s = .next (State.releaseHalves
      { allFuncs.foldl (fun a f => a.modFunc f (fun x => { x with st := s.takeDefaults.startHeld.releaseState f })) s.takeDefaults.startHeld with
        ld := { (allFuncs.foldl (fun a f => a.modFunc f (fun x => { x with st := s.takeDefaults.startHeld.releaseState f })) s.takeDefaults.startHeld).ld with
          phase := 5, staged := [] } }) := by
    change execRelease s = _
    rw [execRelease, if_neg (by simp [State.alive, h1, h2, h3, h4, h5])]
  generalize s.takeDefaults.startHeld = w at hw e
  obtain ⟨hv, hfunc⟩ := foldl_modFunc w (fun _ i x => { x with st := w.releaseState (BitVec.ofNat 5 i) }) (Nat.le_refl 32)
  rw [allFuncs, List.foldl_map] at e
  generalize (List.range 32).foldl (fun (a : State) i => a.modFunc (BitVec.ofNat 5 i) (fun x => { x with st := w.releaseState (BitVec.ofNat 5 i) })) w = v at e hv hfunc
  rw [releaseHalves_eq] at e
  obtain ⟨hu, hcob⟩ := foldl_idleHalf { v with ld := { v.ld with phase := 5, staged := [] } } (Nat.le_refl 16)
  generalize (List.range 16).foldl _ _ = u at e hu hcob
  refine ⟨u, e, ?_, fun f => ?_, fun c => ?_⟩
  · have huf : u.funcs = v.funcs := by rw [hu]
    refine hu.trans ?_
    rw [huf, hv]
    rw [hw]
  · have huf : u.funcs = v.funcs := by rw [hu]
    rw [State.func, huf]
    refine (hfunc f).trans ((if_pos f.isLt).trans ?_)
    rw [BitVec.ofNat_toNat, BitVec.setWidth_eq]
  · refine (hcob c).trans ((if_pos c.isLt).trans ?_)
    rw [hv, hw]
    rfl

/-- Settles O47: the sections change what they name alone, and the release sets every other image field to its default
before the held RUNs take effect. -/
theorem imageApplicationAndRelease : Obligations.ImageApplicationAndRelease := by
  unfold Obligations.ImageApplicationAndRelease
  refine ⟨imageApplication, ?_⟩
  intro s l c given ct qt ce pt held h1 h2 h3 h4 h5
  obtain ⟨u, e, hu, hfunc, hcob⟩ := exec_release h1 h2 h3 h4 h5
  obtain ⟨hw, htile, hwfn, hmem⟩ := startHeld_state s
  generalize s.takeDefaults.startHeld = w at hu hfunc hw htile hwfn hmem
  have hgiven (pa : Nat) : given pa ↔ s.named pa = true := (List.contains_iff_mem).symm
  have hut (t : TileId) : u.tile t = w.tile t := by
    rw [State.tile, hu]
    rfl
  have huth (t : TileId) (h : Thr) : u.th t h = ((s.defaultsOf t (s.tile t)).th h).releasedIn (s.defaultsOf t (s.tile t)) (s.runs t h) := by
    rw [State.th, hut, htile]
    exact th_startRuns _ _ _
  have hfields (t : TileId) := takeDefaults_spec (s.tile t) t (fun o => s.named (0x3F0000000000 + t.toNat * 0x40000 + o))
    (fun o => s.named (0x3F0100000000 + t.toNat * 0x10000 + o)) (fun o => s.named (0x3F0200000000 + t.toNat * 0x10000 + o)) s.ld.programs
  have hupt : u.pt = s.pt.takeDefaults (fun o => s.named (0x3F0800000000 + o)) := by rw [hu, hw]
  refine ⟨u, e, ?_, by rw [hu], fun t h => ?_, fun t => ?_, fun h => ?_, fun h => ?_, fun h => ?_, fun h => ?_, fun f => ?_, fun i => hcob i⟩
  · have hts : w.tiles = u.tiles := by rw [hu]
    have hwp : w.pt = u.pt := by rw [hu]
    have hf : w = { s with tiles := u.tiles, funcs := w.funcs, pt := u.pt } := by rw [← hts, ← hwp, hw]
    have hul : u.ld = { s.ld with phase := 5, staged := [] } := by rw [hu]
    rw [hul]
    refine hu.trans ?_
    generalize w.funcs = fs at hf
    rw [hf]
  · obtain ⟨hframe, hth, -⟩ := hfields t
    have hx : (s.defaultsOf t (s.tile t)).th h = _ := hth h
    have hz : (s.defaultsOf t (s.tile t)).zeroed = (s.tile t).zeroed ∧ (s.defaultsOf t (s.tile t)).func = (s.tile t).func := by
      rw [State.defaultsOf, hframe]
      exact ⟨rfl, rfl⟩
    refine ⟨(s.defaultsOf t (s.tile t)).th h, ?_, (huth t h).trans ?_⟩
    · rw [hx]
      exact defaulted_fields (s.th t h) (hgiven _) (hgiven _)
    · rw [Thread.releasedIn, hz.1, hz.2]
      rfl
  · obtain ⟨hframe, -, hq⟩ := hfields t
    have hd : (u.tile t) = { s.defaultsOf t (s.tile t) with thr := (u.tile t).thr } := by
      rw [hut, htile]
      exact startRuns_frame _ _
    have hb : (u.tile t) = { Tile.bare (s.tile t) t (fun o => s.named (0x3F0000000000 + t.toNat * 0x40000 + o))
        (fun o => s.named (0x3F0100000000 + t.toNat * 0x10000 + o)) (fun o => s.named (0x3F0200000000 + t.toNat * 0x10000 + o)) s.ld.programs with
        thr := (u.tile t).thr, q := (s.defaultsOf t (s.tile t)).q } :=
      hd.trans (congrArg (fun x : Tile => { x with thr := (u.tile t).thr }) hframe)
    have hqueue (q : QIx) : (u.tile t).queue q = if s.named (qt t (8 * q.toNat)) then (s.tile t).queue q else ((s.tile t).queue q).unset := by
      rw [hd]
      exact hq q
    generalize (s.defaultsOf t (s.tile t)).q = qs at hb
    generalize (u.tile t) = v at hb hqueue
    generalize v.thr = ths at hb
    have g0 := given_field (hgiven (ct t 0x200)) (show v.csize = if s.named (ct t 0x200) then (s.tile t).csize else 0 by rw [hb]; rfl)
    have g1 := given_field (hgiven (ct t 0x200)) (show v.pfd = if s.named (ct t 0x200) then (s.tile t).pfd else 0 by rw [hb]; rfl)
    have g2 := given_field (hgiven (ct t 0x220)) (show v.place = if s.named (ct t 0x220) then (s.tile t).place else 0 by rw [hb]; rfl)
    have g3 := given_field (hgiven (ct t 0x228)) (show v.pbb = if s.named (ct t 0x228) then (s.tile t).pbb else 0x40000000 by rw [hb]; rfl)
    have g4 := given_field (hgiven (ct t 0x4E0)) (show v.quietWin = if s.named (ct t 0x4E0) then (s.tile t).quietWin else 16 by rw [hb]; rfl)
    have g5 := given_field (hgiven (ct t 0x600)) (show v.hzHaltk = if s.named (ct t 0x600) then (s.tile t).hzHaltk else 0 by rw [hb]; rfl)
    have g6 := given_field (hgiven (ce t 0x20)) (show v.eng = if s.named (ce t 0x20) then (s.tile t).eng else { (s.tile t).eng with fqh := 0 } by
      rw [hb]
      change { (s.tile t).eng with fqh := if s.named (ce t 0x20) then (s.tile t).eng.fqh else 0 } = _
      cases s.named (ce t 0x20) <;> rfl)
    have hrest : v.lmem = (s.tile t).lmem ∧ v.func = (s.tile t).func := by
      rw [hb]
      exact ⟨rfl, rfl⟩
    exact ⟨fun h => ⟨g0.1 h, g1.1 h⟩, fun h => ⟨g0.2 h, g1.2 h⟩, g2.1, g2.2, g3.1, g3.2, g4.1, g4.2, g5.1, g5.2, g6.1, g6.2,
      fun q => given_field (hgiven (qt t (8 * q.toNat))) (hqueue q), hrest⟩
  · rw [hupt]
    exact (given_field (hgiven (pt 0)) rfl).1 h
  · rw [hupt]
    exact (given_field (hgiven (pt 0)) rfl).2 h
  · rw [hupt]
    exact (given_field (hgiven (pt 0x70)) rfl).1 h
  · rw [hupt]
    exact (given_field (hgiven (pt 0x70)) rfl).2 h
  · have hcns : (u.func f).cnsEn = if s.named (0x3F0700000000 + 8 * f.toNat) then (s.func f).cnsEn else s.plan.defs.getLsbD f.toNat := by
      rw [hfunc, hwfn]
      rfl
    have hst : (u.func f).st = w.releaseState f := by rw [hfunc]
    have hplan : w.plan = s.plan := by rw [hw]
    have hwf (t : TileId) : (w.tile t).func = (s.tile t).func := by
      obtain ⟨hframe, -, -⟩ := hfields t
      rw [htile, startRuns_frame, State.defaultsOf, hframe]
      rfl
    obtain ⟨k1, k2⟩ := given_field (hgiven _) hcns
    obtain ⟨r1, r2⟩ := releaseState_spec (hmem f)
    rw [hplan] at r1 r2
    refine ⟨k2, k1, fun h => hst.trans (r1 h), fun h => ?_⟩
    obtain ⟨r3, r4⟩ := r2 h
    rw [hst]
    refine ⟨r3.trans (exists_congr fun t => exists_congr fun h => ?_), r4⟩
    rw [hwf, State.th, State.th, hut]

end Sys2Proof.Machine
end

section
/-! Collier operations (R278, R288–R293, R387–R391), and the proof of O33. -/
namespace Sys2Proof.Machine

open Sys2Proof.Safety

/-! ## Elements of memory -/

theorem leNat_leBytes (n v : Nat) : leNat (leBytes n v) = v % 256 ^ n := by
  induction n generalizing v with
  | zero => rw [leBytes, leNat, pow_zero, Nat.mod_one]
  | succ n ih =>
    rw [leBytes, leNat, ih, BitVec.toNat_ofNat]
    show v % 256 + 256 * (v / 256 % 256 ^ n) = v % 256 ^ (n + 1)
    rw [pow_succ', Nat.mod_mul (a := 256) (b := 256 ^ n)]

theorem length_leBytes (n v : Nat) : (leBytes n v).length = n := by simp [leBytes_eq]

/-- An element of `n` bytes at an address. -/
def elemAt (m : Memory) (a n : Nat) : Nat := leNat (m.bytes a n)

theorem leNat_bytes_congr {m m' : Memory} (n : Nat) : ∀ a, (∀ i, i < n → m.byte (a + i) = m'.byte (a + i)) → elemAt m a n = elemAt m' a n := by
  intro a h
  rw [elemAt, elemAt]
  congr 1
  apply List.ext_getElem
  · simp
  · intro i h1 h2
    have hi : i < n := by simpa using h1
    rw [← List.getD_eq_getElem _ 0, ← List.getD_eq_getElem _ 0, Memory.getD_bytes _ _ _ _ hi, Memory.getD_bytes _ _ _ _ hi, h i hi]

theorem elemAt_setBytes_of_disjoint (m : Memory) {a b n : Nat} (l : List Byte) (h : b + n ≤ a ∨ a + l.length ≤ b) :
    elemAt (m.setBytes a l) b n = elemAt m b n :=
  leNat_bytes_congr n b (fun i hi => by rw [Memory.byte_setBytes, if_neg (by omega)])

theorem elemAt_setBytes_self (m : Memory) (a n v : Nat) : elemAt (m.setBytes a (leBytes n v)) a n = v % 256 ^ n := by
  rw [← leNat_leBytes, elemAt]
  congr 1
  apply List.ext_getElem
  · simp [length_leBytes]
  · intro i h1 h2
    have hi : i < n := by simpa using h1
    rw [← List.getD_eq_getElem _ 0, ← List.getD_eq_getElem _ 0, Memory.getD_bytes _ _ _ _ hi, Memory.byte_setBytes, length_leBytes,
      if_pos (by omega), Nat.add_sub_cancel_left]

/-! ## The masked elements of a block (R288) -/

/-- An addition of elements gives an element. -/
theorem addElem_lt (k : AddKind) (e x : Nat) : addElem k e x < 256 ^ k.bytes := by
  cases k with
  | i32 => exact Nat.mod_lt _ (by decide)
  | f32 => exact (f32add _ _).isLt
  | xs => exact Nat.mod_lt _ (by decide)

section Elems

variable {k : AddKind} {f : FuncNo} {ck : Bool} {pa : Nat} (v : Nat → Nat)

theorem elems_disjoint {j i : Nat} (h : j ≠ i) :
    pa + j * k.bytes + k.bytes ≤ pa + i * k.bytes ∨ pa + i * k.bytes + k.bytes ≤ pa + j * k.bytes := by
  rcases Nat.lt_or_gt_of_ne h with h | h
  · have := Nat.mul_le_mul_right k.bytes (Nat.succ_le_of_lt h)
    rw [Nat.succ_mul] at this
    omega
  · have := Nat.mul_le_mul_right k.bytes (Nat.succ_le_of_lt h)
    rw [Nat.succ_mul] at this
    omega

theorem hbm_addElems_one {i x : Nat} (s : State) : (s.addElems k f ck pa [(i, x)]).hbm =
    s.hbm.setBytes (pa + i * k.bytes) (leBytes k.bytes (addElem k (elemAt s.hbm (pa + i * k.bytes) k.bytes) x)) := by
  cases k <;> rfl

theorem addElems_one_frame {i x : Nat} (s : State) : s.addElems k f ck pa [(i, x)] =
    { s with hbm := (s.addElems k f ck pa [(i, x)]).hbm, slices := (s.addElems k f ck pa [(i, x)]).slices } := by
  cases k <;> rfl

theorem acc_addElems_one {i x : Nat} (hk : k = .xs) (s : State) :
    SMap.get {} ((s.addElems k f ck pa [(i, x)]).slice (sliceOf pa)).acc (accIx f ck) =
      (SMap.get {} (s.slice (sliceOf pa)).acc (accIx f ck)).add (elemAt s.hbm (pa + i * k.bytes) k.bytes) x := by
  subst hk
  rw [State.addElems, if_pos rfl]
  simp only [State.addElems]
  rw [State.slice, State.modSlice, SMap.get_modify_self, SMap.get_modify_self]
  rfl

/-- An ADD.XS also adds each element to the accumulator of its function and selector (R293). -/
theorem addElems_spec (l : List Nat) (hnd : l.Nodup) : ∀ s : State,
    let u := s.addElems k f ck pa (l.map (fun i => (i, v i)))
    u = { s with hbm := u.hbm, slices := u.slices } ∧
    (∀ a, (∀ i ∈ l, a < pa + i * k.bytes ∨ pa + i * k.bytes + k.bytes ≤ a) → u.hbm.byte a = s.hbm.byte a) ∧
    (∀ j, elemAt u.hbm (pa + j * k.bytes) k.bytes = if j ∈ l then addElem k (elemAt s.hbm (pa + j * k.bytes) k.bytes) (v j)
      else elemAt s.hbm (pa + j * k.bytes) k.bytes) ∧
    (k = .xs → SMap.get {} (u.slice (sliceOf pa)).acc (accIx f ck) =
      l.foldl (fun z j => z.add (elemAt s.hbm (pa + j * k.bytes) k.bytes) (v j)) (SMap.get {} (s.slice (sliceOf pa)).acc (accIx f ck))) := by
  induction l with
  | nil => exact fun s => ⟨rfl, fun _ _ => rfl, fun _ => rfl, fun _ => rfl⟩
  | cons i l ih =>
    intro s
    obtain ⟨hnot, hnd⟩ := List.nodup_cons.1 hnd
    have hn : 0 < k.bytes := by cases k <;> decide
    let s2 := s.addElems k f ck pa [(i, v i)]
    have hm : s2.hbm = s.hbm.setBytes (pa + i * k.bytes) (leBytes k.bytes (addElem k (elemAt s.hbm (pa + i * k.bytes) k.bytes) (v i))) :=
      hbm_addElems_one s
    obtain ⟨hframe, hbyte, helem, hacc⟩ := ih hnd s2
    have hcons : s.addElems k f ck pa ((i :: l).map (fun i => (i, v i))) = s2.addElems k f ck pa (l.map (fun i => (i, v i))) := rfl
    have hother : ∀ j, j ≠ i → elemAt s2.hbm (pa + j * k.bytes) k.bytes = elemAt s.hbm (pa + j * k.bytes) k.bytes := fun j hj => by
      rw [hm, elemAt_setBytes_of_disjoint _ _ (by rw [length_leBytes]; exact elems_disjoint hj)]
    rw [hcons]
    refine ⟨?_, fun a ha => ?_, fun j => ?_, fun hk => ?_⟩
    · exact hframe.trans (congrArg (fun z : State => { z with
        hbm := (s2.addElems k f ck pa (l.map (fun i => (i, v i)))).hbm
        slices := (s2.addElems k f ck pa (l.map (fun i => (i, v i)))).slices }) (addElems_one_frame s))
    · rw [hbyte a (fun j hj => ha j (List.mem_cons_of_mem _ hj)), hm, Memory.byte_setBytes, length_leBytes,
        if_neg (by have := ha i List.mem_cons_self; omega)]
    · rw [helem j]
      by_cases hji : j = i
      · subst hji
        rw [if_neg hnot, if_pos List.mem_cons_self, hm, elemAt_setBytes_self, Nat.mod_eq_of_lt (addElem_lt k _ _)]
      · rw [hother j hji]
        simp only [List.mem_cons, hji, false_or]
    · rw [hacc hk, List.foldl_cons, acc_addElems_one hk s]
      exact List.foldl_ext _ _ _ (fun z j hj => by rw [hother j (fun e => hnot (e ▸ hj))])

end Elems

/-! ## One collier addition (R286, R288, R290) -/

theorem hbm_hold (s : State) (pa : Nat) : (s.hold pa).hbm = s.hbm := by
  unfold State.hold
  dsimp only
  split <;> rfl

theorem acc_hold (s : State) (pa i : Nat) : ((s.hold pa).slice i).acc = (s.slice i).acc := by
  have h : ∀ l, ((s.modSlice (sliceOf pa) (fun x => { x with held := l })).slice i).acc = (s.slice i).acc := fun l => by
    rw [State.slice, State.modSlice, SMap.get_modify]
    split
    · next e => rw [← e]; rfl
    · rfl
  unfold State.hold
  dsimp only
  split
  · rw [← h ((pa / 64 :: (s.slice (sliceOf pa)).held.filter (fun b => b ≠ pa / 64)).take 32)]
    rfl
  · exact h _

/-- The elements of a block that a mask names. -/
def maskedIx (k : AddKind) (mask : Nat) : List Nat := (List.range (64 / k.bytes)).filter (fun i => mask / 2 ^ i % 2 = 1)
/-- Element `i` of an operand. -/
def operand (k : AddKind) (x : BitVec 512) (i : Nat) : Nat := x.toNat / 2 ^ (8 * k.bytes * i) % 2 ^ (8 * k.bytes)

theorem mem_maskedIx {k : AddKind} {mask j : Nat} (hj : j < 64 / k.bytes) : j ∈ maskedIx k mask ↔ mask.testBit j = true := by
  rw [maskedIx, List.mem_filter, List.mem_range, Nat.testBit_eq_decide_div_mod_eq]
  exact and_iff_right hj

section CollierOp

variable {s : State} {k : AddKind} {who : Option TileId} {f : FuncNo} {ck : Bool} {pa mask : Nat} {x : BitVec 512}

theorem collierOp_of_good (hpa : pa < hbmEnd) (hon : s.sliceOn pa = true) (hbad : s.badBurst (pa / 64 * 64) 64 = none) :
    s.collierOp k who f ck pa mask x [] =
      (s.hold (pa / 64 * 64)).addElems k f ck (pa / 64 * 64) ((maskedIx k mask).map (fun i => (i, operand k x i))) := by
  rw [State.collierOp, if_neg (Nat.not_le.2 hpa), hon]
  simp only [Bool.not_true, Bool.false_eq_true, if_false]
  rw [show s.withEccs [(pa / 64 * 64, 64)] [] = s from rfl, State.collierAdd, hbad]
  rfl

/-- Its effect on memory, and for ADD.XS on the accumulator. -/
theorem collierOp_adds (hpa : pa < hbmEnd) (hon : s.sliceOn pa = true) (hbad : s.badBurst (pa / 64 * 64) 64 = none) :
    ∃ u, s.collierOp k who f ck pa mask x [] = u ∧
      (∀ a, (a < pa / 64 * 64 ∨ pa / 64 * 64 + 64 ≤ a) → u.hbm.byte a = s.hbm.byte a) ∧
      (∀ j, j < 64 / k.bytes → elemAt u.hbm (pa / 64 * 64 + j * k.bytes) k.bytes =
        if mask.testBit j then addElem k (elemAt s.hbm (pa / 64 * 64 + j * k.bytes) k.bytes) (operand k x j)
        else elemAt s.hbm (pa / 64 * 64 + j * k.bytes) k.bytes) ∧
      (k = .xs → SMap.get {} (u.slice (sliceOf (pa / 64 * 64))).acc (accIx f ck) =
        (maskedIx k mask).foldl (fun z j => z.add (elemAt s.hbm (pa / 64 * 64 + j * k.bytes) k.bytes) (operand k x j))
          (SMap.get {} (s.slice (sliceOf (pa / 64 * 64))).acc (accIx f ck))) := by
  obtain ⟨-, hbyte, helem, hacc⟩ := addElems_spec (k := k) (f := f) (ck := ck) (pa := pa / 64 * 64) (operand k x)
    (maskedIx k mask) (List.nodup_range.filter _) (s.hold (pa / 64 * 64))
  rw [hbm_hold] at hbyte
  simp only [hbm_hold] at helem hacc
  rw [acc_hold] at hacc
  refine ⟨_, collierOp_of_good hpa hon hbad, fun a ha => hbyte a (fun i hi => ?_), fun j hj => ?_, hacc⟩
  · have hi : i < 64 / k.bytes := List.mem_range.1 (List.mem_filter.1 hi).1
    have : i * k.bytes + k.bytes ≤ 64 := by cases k <;> simp only [AddKind.bytes] at hi ⊢ <;> omega
    omega
  · rw [helem j]
    simp only [mem_maskedIx hj]

end CollierOp

/-! ## The accumulator (R289, R293) -/

theorem satAdd_add {n : Nat} (x : BitVec n) (a b : Nat) : satAdd (satAdd x a) b = satAdd x (a + b) := by
  unfold satAdd
  by_cases h : x.toNat + a < 2 ^ n
  · rw [if_pos h, BitVec.toNat_ofNat, Nat.mod_eq_of_lt h, Nat.add_assoc]
  · rw [if_neg h, BitVec.toNat_allOnes, if_neg (c := x.toNat + (a + b) < 2 ^ n) (by omega)]
    split
    · next h' =>
      have hb : b = 0 := by omega
      subst hb
      apply BitVec.eq_of_toNat_eq
      rw [BitVec.toNat_ofNat, BitVec.toNat_allOnes, Nat.add_zero, Nat.mod_eq_of_lt]
      omega
    · rfl

theorem Accum.foldl_add (e x : Nat → Nat) (l : List Nat) : ∀ z : Accum, z.recv < mersenne →
    l.foldl (fun z j => z.add (e j) (x j)) z =
      { z with recv := (z.recv + (l.map (fun j => residue (BitVec.ofNat 64 (x j)).toInt)).sum) % mersenne,
               nelem := satAdd z.nelem l.length, ovf := z.ovf || l.any (fun j => xsOverflow (e j) (x j)) } := by
  induction l with
  | nil =>
    intro z hz
    rw [List.foldl_nil, List.map_nil, List.sum_nil, Nat.add_zero, Nat.mod_eq_of_lt hz, List.length_nil, satAdd_zero, List.any_nil,
      Bool.or_false]
  | cons j l ih =>
    intro z hz
    rw [List.foldl_cons, ih _ (Nat.mod_lt _ (by decide)), List.map_cons, List.sum_cons, List.length_cons, List.any_cons]
    simp only [Accum.add, satAdd_add, Bool.or_assoc, Nat.mod_add_mod, Nat.add_assoc, Nat.add_comm l.length]


/-! ## Words and doublewords of memory -/

/-- The word at an address, and the doubleword. -/
def wordAt (m : Memory) (a : Nat) : Word := m.byte (a + 3) ++ m.byte (a + 2) ++ m.byte (a + 1) ++ m.byte a
def dwordAt (m : Memory) (a : Nat) : DWord := wordAt m (a + 4) ++ wordAt m a

theorem toNat_wordAt (m : Memory) (a : Nat) : (wordAt m a).toNat =
    (((m.byte (a + 3)).toNat * 2 ^ 8 + (m.byte (a + 2)).toNat) * 2 ^ 8 + (m.byte (a + 1)).toNat) * 2 ^ 8 + (m.byte a).toNat := by
  unfold wordAt
  rw [toNat_append_eq, toNat_append_eq, toNat_append_eq]

theorem wordAt_eq (m : Memory) (a : Nat) : wordAt m a = BitVec.ofNat 32 (elemAt m a 4) := (leBits_4 m a).symm

theorem dwordAt_eq (m : Memory) (a : Nat) : dwordAt m a = BitVec.ofNat 64 (elemAt m a 8) := by
  apply BitVec.eq_of_toNat_eq
  rw [dwordAt, toNat_append_eq, toNat_wordAt, toNat_wordAt]
  simp only [elemAt, Memory.bytes, leNat, BitVec.toNat_ofNat, Nat.add_assoc, Nat.reduceAdd]
  omega

theorem operand_eq (k : AddKind) (x : BitVec 512) (i : Nat) :
    BitVec.ofNat (8 * k.bytes) (operand k x i) = laneOf (8 * k.bytes) x i := by
  apply BitVec.eq_of_toNat_eq
  rw [BitVec.toNat_ofNat, laneOf, BitVec.extractLsb'_toNat, operand, Nat.mod_mod, Nat.shiftRight_eq_div_pow]

theorem addElem_i32 (e x : Nat) : BitVec.ofNat 32 (addElem .i32 e x) = BitVec.ofNat 32 e + BitVec.ofNat 32 x := by
  rw [addElem, ← BitVec.ofNat_add]
  exact BitVec.eq_of_toNat_eq (by simp)

theorem addElem_xs (e x : Nat) : BitVec.ofNat 64 (addElem .xs e x) = BitVec.ofNat 64 e + BitVec.ofNat 64 x := by
  rw [addElem, ← BitVec.ofNat_add]
  exact BitVec.eq_of_toNat_eq (by simp)

theorem addElem_f32 (e x : Nat) : BitVec.ofNat 32 (addElem .f32 e x) = f32add (BitVec.ofNat 32 e) (BitVec.ofNat 32 x) := by
  rw [addElem, BitVec.ofNat_toNat, BitVec.setWidth_eq]

theorem xsOverflow_eq (e x : Nat) : xsOverflow e x =
    !decide (-(2 ^ 63 : Int) ≤ (BitVec.ofNat 64 e).toInt + (BitVec.ofNat 64 x).toInt ∧
      (BitVec.ofNat 64 e).toInt + (BitVec.ofNat 64 x).toInt < 2 ^ 63) := by
  rw [xsOverflow, Bool.eq_iff_iff]
  simp only [Bool.or_eq_true, decide_eq_true_eq, Bool.not_eq_true', decide_eq_false_iff_not]
  omega

theorem sliceOf_block (pa : Nat) : sliceOf (pa / 64 * 64) = sliceOf pa := by
  rw [sliceOf, sliceOf, show pa / 64 * 64 / 4096 = pa / 4096 by omega, show pa / 64 * 64 / 2 ^ 22 = pa / 2 ^ 22 by omega]

/-! ## The sweep (R387, R390, R391) -/

theorem csrBlk_paWinv (c : CobNo) {o : Nat} (ho : o < 0x10000) : csrBlk (paWinv c o) = some (.winv c o) := by
  have hc := c.isLt
  have hn : BitVec.ofNat 4 ((paWinv c o - 0x3F0000000000 - 0x300000000) / 0x10000) = c := by
    rw [show (paWinv c o - 0x3F0000000000 - 0x300000000) / 0x10000 = c.toNat by unfold paWinv; omega, BitVec.ofNat_toNat,
      BitVec.setWidth_eq]
  have hm : (paWinv c o - 0x3F0000000000) % 0x10000 = o := by unfold paWinv; omega
  have hlo : ¬paWinv c o < 0x3F0000000000 := by unfold paWinv; omega
  have hge (n : Nat) (hn : n ≤ 0x300000000) : ¬paWinv c o - 0x3F0000000000 < n := by unfold paWinv; omega
  have h1 : 0x300000000 ≤ paWinv c o - 0x3F0000000000 := by unfold paWinv; omega
  have h2 : paWinv c o - 0x3F0000000000 < 0x300100000 := by unfold paWinv; omega
  simp only [csrBlk, hn, hm, hlo, h1, h2, hge 0x40000000, hge 0x110000000, hge 0x210000000, Nat.reduceLeDiff, decide_true,
    decide_false, Bool.and_false, Bool.and_self, Bool.false_eq_true, if_true, if_false]

theorem touchHalf_paWinv (s : State) (c : CobNo) (o : Nat) : s.touchHalf (paWinv c o) = s := by
  have hlo : ¬paWinv c o < 0x3F0000000000 := by unfold paWinv; omega
  have hge (n : Nat) (hn : n ≤ 0x300000000) : ¬paWinv c o - 0x3F0000000000 < n := by unfold paWinv; omega
  rw [State.touchHalf, csrTile]
  simp only [hlo, hge 0x40000000, hge 0x110000000, hge 0x210000000, Nat.reduceLeDiff, decide_false, Bool.and_false,
    Bool.false_eq_true, if_false]

/-- The write that a source makes to a Cob's translation block whose memory interface is on. -/
theorem regWrite_winv {s : State} {src : Src} {c : CobNo} {o : Nat} {v : DWord} (ha : s.alive = true)
    (hon : (s.cob c).memif = .on) (hmay : s.srcMay src (.winv c o) (some v) = true) (ho : o < 0x10000)
    (hr : winvReg o = some 8) : s.regWrite src (paWinv c o) 8 v none = s.winvWrite c o v := by
  have hready : s.blkReady (.winv c o) = true := by
    rw [State.blkReady, Bool.and_eq_true_iff]
    exact ⟨decide_eq_true hon, rfl⟩
  rw [regWrite_of_ready ha (csrBlk_paWinv c ho) hmay hready, touchHalf_paWinv]
  simp only [State.doWrite, State.sizedWrite, Blk.width, State.blkWrite, hr, if_true]

/-- The value that starts a sweep. -/
theorem ckcmd_fields (ck : Bool) (f : FuncNo) :
    bits ((0#57) ++ (1#1) ++ b2v ck ++ f : DWord) 0 5 = f ∧ bits ((0#57) ++ (1#1) ++ b2v ck ++ f : DWord) 0 6 = BitVec.ofBool ck ++ f ∧
    bit ((0#57) ++ (1#1) ++ b2v ck ++ f : DWord) 6 = true := by
  cases ck <;> refine ⟨?_, ?_, ?_⟩ <;> decide +revert


theorem selector_fields (ck : Bool) (f : FuncNo) : bits (BitVec.ofBool ck ++ f) 0 5 = f ∧ bit (BitVec.ofBool ck ++ f) 5 = ck := by
  cases ck <;> refine ⟨?_, ?_⟩ <;> decide +revert

/-! ## Claims and records (R292, R293) -/

theorem Accum.record_eq (z : Accum) : z.record =
    [BitVec.ofNat 64 (z.recv + (if z.recv = z.claim then 2 ^ 61 else 0) + if z.ovf then 2 ^ 62 else 0), BitVec.ofNat 64 z.claim,
      z.nclaim ++ z.nelem, 0] := by
  have hb (b : Bool) (n : Nat) : b2n b * n = if b then n else 0 := by cases b <;> simp [b2n]
  rw [Accum.record, hb, hb]
  simp only [decide_eq_true_eq]

section Claims

variable {s : State} {f : FuncNo} {ck : Bool} {pa : BitVec 46} {claim : BitVec 64}

theorem exec_ckadd_of_on (hpa : pa.toNat < hbmEnd) (hon : s.sliceOn pa.toNat = true) :
    exec (.ckadd f ck pa claim) s = .next (s.ckAdd f ck pa.toNat claim) := by
  change execCkadd f ck pa claim s = _
  rw [execCkadd, if_neg (Nat.not_le.2 hpa), hon]
  rfl

theorem exec_ckrd_of_on (hpa : pa.toNat < hbmEnd) (hon : s.sliceOn pa.toNat = true) : exec (.ckrd f ck pa) s =
    .next { (s.takeRecord (sliceOf pa.toNat) (accIx f ck)).2 with
      ckRecord := (SMap.get {} (s.slice (sliceOf pa.toNat)).acc (accIx f ck)).record } := by
  change execCkrd f ck pa s = _
  rw [execCkrd, if_neg (Nat.not_le.2 hpa), hon]
  rfl

end Claims

theorem State.slice_takeRecord (s : State) (i a j : Nat) (b : Nat) : SMap.get {} ((s.takeRecord i a).2.slice j).acc b =
    if j = i ∧ b = a then {} else SMap.get {} (s.slice j).acc b := by
  rw [State.takeRecord, State.slice, State.modSlice, SMap.get_modify]
  by_cases hj : j = i
  · subst hj
    rw [if_pos rfl, SMap.get_set]
    simp only [true_and]
    rfl
  · rw [if_neg hj, if_neg (fun h => hj h.1)]
    rfl

/-- The accumulators after one CKRD at each collier of a list. -/
theorem slice_foldl_takeRecord {ix : Nat → Nat} {a : Nat} (l : List Nat) : ∀ (s : State) {j : Nat}, j ∈ l →
    SMap.get {} ((l.foldl (fun b k => (b.takeRecord (ix k) a).2) s).slice (ix j)).acc a = {} := by
  have hkeep (l : List Nat) : ∀ (s : State) (i : Nat), SMap.get {} (s.slice i).acc a = {} →
      SMap.get {} ((l.foldl (fun b k => (b.takeRecord (ix k) a).2) s).slice i).acc a = {} := by
    induction l with
    | nil => exact fun _ _ h => h
    | cons k l ih => exact fun s i h => ih _ i (by rw [State.slice_takeRecord, h, ite_self])
  induction l with
  | nil => exact fun _ _ h => absurd h List.not_mem_nil
  | cons k l ih =>
    intro s j hj
    obtain rfl | hj := List.mem_cons.1 hj
    · exact hkeep l _ _ (by rw [State.slice_takeRecord, if_pos ⟨rfl, rfl⟩])
    · exact ih _ hj

theorem hbm_foldl_takeRecord {ix : Nat → Nat} {a : Nat} (l : List Nat) : ∀ s : State,
    (l.foldl (fun b k => (b.takeRecord (ix k) a).2) s).hbm = s.hbm := by
  induction l with
  | nil => exact fun _ => rfl
  | cons k l ih => exact fun s => ih _

theorem flagSum_lt (f : Nat → Bool) (n : Nat) : ((List.range n).map (fun k => if f k then 2 ^ k else 0)).sum < 2 ^ n := by
  induction n with
  | zero => exact Nat.one_pos
  | succ n ih =>
    rw [List.range_succ, List.map_append, List.sum_append, List.map_singleton, List.sum_singleton, pow_succ]
    split <;> omega

/-- Bit `j` of the sum of the powers of two at the flags that are set is flag `j`. -/
theorem testBit_flagSum (f : Nat → Bool) {n j : Nat} (hj : j < n) :
    (((List.range n).map (fun k => if f k then 2 ^ k else 0)).sum).testBit j = f j := by
  induction n with
  | zero => exact absurd hj (Nat.not_lt_zero j)
  | succ n ih =>
    rw [List.range_succ, List.map_append, List.sum_append, List.map_singleton, List.sum_singleton]
    have hlt := flagSum_lt f n
    by_cases hjn : j = n
    · subst hjn
      by_cases hf : f j = true
      · rw [if_pos hf, Nat.add_comm, Nat.testBit_two_pow_add_eq, Nat.testBit_lt_two_pow hlt, hf]
        rfl
      · rw [if_neg hf, Nat.add_zero, Nat.testBit_lt_two_pow hlt, Bool.eq_false_iff.2 hf]
    · have hjn : j < n := by omega
      split
      · rw [Nat.add_comm, Nat.testBit_two_pow_add_gt hjn, ih hjn]
      · rw [Nat.add_zero, ih hjn]

theorem slice_modCob (s : State) (c : CobNo) (g : Cob → Cob) (i : Nat) : (s.modCob c g).slice i = s.slice i := rfl
theorem hbm_modCob (s : State) (c : CobNo) (g : Cob → Cob) : (s.modCob c g).hbm = s.hbm := rfl

/-- The two maps and the sums of a sweep's records. -/
def Cob.swept (x : Cob) (recs : List Accum) : Cob :=
  { x with
    ckBusy := false
    ckRecv := BitVec.ofNat 64 ((recs.map (fun r => r.recv)).sum % mersenne)
    ckClaim := BitVec.ofNat 64 ((recs.map (fun r => r.claim)).sum % mersenne)
    ckNelem := BitVec.ofNat 64 (recs.map (fun r => r.nelem.toNat)).sum
    ckNclm := BitVec.ofNat 64 (recs.map (fun r => r.nclaim.toNat)).sum
    ckMiss := BitVec.ofNat 64 (((List.range 64).map (fun k => if decide ((nth recs k {}).recv ≠ (nth recs k {}).claim) then 2 ^ k else 0)).sum)
    ckOvf := BitVec.ofNat 64 (((List.range 64).map (fun k => if (nth recs k {}).ovf then 2 ^ k else 0)).sum) }

theorem endSweep_of_busy {s : State} {c : CobNo} {a : Nat} {recs : List Accum} (hb : (s.cob c).ckBusy = true)
    (ha : accIx (bits (s.cob c).ckcmd 0 5) (bit (s.cob c).ckcmd 5) = a)
    (hr : (List.range 64).map (fun k => SMap.get {} (s.slice (sweepSlice c k)).acc a) = recs) :
    s.endSweep c = ((List.range 64).foldl (fun b k => (b.takeRecord (sweepSlice c k) a).2) s).modCob c (fun y => y.swept recs) := by
  subst ha hr
  rw [State.endSweep, hb]
  rfl

theorem Cob.swept_fields (x : Cob) (recs : List Accum) : (x.swept recs).ckBusy = false ∧
    (x.swept recs).ckRecv = BitVec.ofNat 64 ((recs.map (fun r => r.recv)).sum % mersenne) ∧
    (x.swept recs).ckClaim = BitVec.ofNat 64 ((recs.map (fun r => r.claim)).sum % mersenne) ∧
    (x.swept recs).ckNelem = BitVec.ofNat 64 (recs.map (fun r => r.nelem.toNat)).sum ∧
    (x.swept recs).ckNclm = BitVec.ofNat 64 (recs.map (fun r => r.nclaim.toNat)).sum ∧ ∀ k, k < 64 →
      (x.swept recs).ckMiss.getLsbD k = decide ((recs.getD k {}).recv ≠ (recs.getD k {}).claim) ∧
      (x.swept recs).ckOvf.getLsbD k = (recs.getD k {}).ovf := by
  have hflag (g : Accum → Bool) (k : Nat) (hk : k < 64) : (BitVec.ofNat 64 (((List.range 64).map (fun k =>
      if g (nth recs k {}) then 2 ^ k else 0)).sum)).getLsbD k = g (recs.getD k {}) := by
    rw [BitVec.getLsbD_ofNat, decide_eq_true hk, Bool.true_and, testBit_flagSum (fun k => g (nth recs k {})) hk]
    rfl
  exact ⟨rfl, rfl, rfl, rfl, rfl, fun k hk => ⟨hflag (fun r => decide (r.recv ≠ r.claim)) k hk, hflag (fun r => r.ovf) k hk⟩⟩

/-- Settles O33: each addition through its effect on the elements of the block, and the sweep through one CKRD at each
collier. -/
theorem collierOperations : Obligations.CollierOperations := by
  unfold Obligations.CollierOperations
  intro s src who f ck pa m16 m8 x claim c
  extract_lets b word dword outside i a old on sum fits p recs
  have hword (m : Memory) (q : Nat) : word m q = BitVec.ofNat 32 (elemAt m q 4) := wordAt_eq m q
  have hdword (m : Memory) (q : Nat) : dword m q = BitVec.ofNat 64 (elemAt m q 8) := dwordAt_eq m q
  have hacc : accIx f ck = a := rfl
  have hi : i = sliceOf pa.toNat := sliceOf_block _
  refine ⟨fun hpa hon hbad => ⟨?_, ?_, ?_⟩, fun hpa hon => ⟨?_, ?_⟩, fun ha hon hsrc hb => ?_, fun hb hcmd => ?_⟩
  · obtain ⟨u, hu, hout, helem, -⟩ :=
      collierOp_adds (k := .i32) (who := who) (f := f) (ck := false) (mask := m16.toNat) (x := x) hpa hon hbad
    refine ⟨u, congrArg _ hu, hout, fun k hk => ?_⟩
    have he : elemAt u.hbm (b + 4 * k) 4 = if m16.getLsbD k then _ else elemAt s.hbm (b + 4 * k) 4 :=
      Nat.mul_comm 4 k ▸ helem k hk
    rw [hword, hword, he, ← show BitVec.ofNat 32 (operand .i32 x k) = laneOf 32 x k from operand_eq .i32 x k]
    split
    · exact addElem_i32 _ _
    · exact (BitVec.add_zero _).symm
  · obtain ⟨u, hu, hout, helem, -⟩ :=
      collierOp_adds (k := .f32) (who := who) (f := f) (ck := false) (mask := m16.toNat) (x := x) hpa hon hbad
    refine ⟨u, congrArg _ hu, hout, fun k hk => ?_⟩
    have he : elemAt u.hbm (b + 4 * k) 4 = if m16.getLsbD k then _ else elemAt s.hbm (b + 4 * k) 4 :=
      Nat.mul_comm 4 k ▸ helem k hk
    rw [hword, hword, he, ← show BitVec.ofNat 32 (operand .f32 x k) = laneOf 32 x k from operand_eq .f32 x k]
    split
    · exact addElem_f32 _ _
    · rfl
  · obtain ⟨u, hu, hout, helem, hfold⟩ :=
      collierOp_adds (k := .xs) (who := who) (f := f) (ck := ck) (mask := m8.toNat) (x := x) hpa hon hbad
    refine ⟨u, congrArg _ hu, hout, fun k hk => ?_, fun hrecv => ?_⟩
    · have he : elemAt u.hbm (b + 8 * k) 8 = if m8.getLsbD k then _ else elemAt s.hbm (b + 8 * k) 8 :=
        Nat.mul_comm 8 k ▸ helem k hk
      rw [hdword, hdword, he, ← show BitVec.ofNat 64 (operand .xs x k) = laneOf 64 x k from operand_eq .xs x k]
      split
      · exact addElem_xs _ _
      · exact (BitVec.add_zero _).symm
    · have hlane (j : Nat) : BitVec.ofNat 64 (operand .xs x j) = laneOf 64 x j := operand_eq .xs x j
      have hon8 : maskedIx .xs m8.toNat = on := List.filter_congr (fun j _ => by
        rw [BitVec.getLsbD, Nat.testBit_eq_decide_div_mod_eq])
      have hflag (j : Nat) : xsOverflow (elemAt s.hbm (b + j * 8) 8) (operand .xs x j) = !(fits j) := by
        rw [xsOverflow_eq, hlane, Nat.mul_comm j 8, ← hdword]
      have hsum := Accum.foldl_add (fun j => elemAt s.hbm (b + j * 8) 8) (operand .xs x) on old hrecv
      simp only [hlane, hflag] at hsum
      rw [← hon8] at hsum
      refine (hfold rfl).trans (hsum.trans ?_)
      rw [hon8]
      rfl
  · refine ⟨_, exec_ckadd_of_on hpa hon, rfl, ?_⟩
    rw [show old = SMap.get {} (s.slice (sliceOf pa.toNat)).acc a from by rw [← hi], State.ckAdd, hi, State.slice, State.modSlice,
      SMap.get_modify_self, hacc, SMap.get_modify_self]
    rfl
  · refine ⟨_, exec_ckrd_of_on hpa hon, ?_, rfl, ?_⟩
    · rw [hi]
      exact (State.slice_takeRecord s (sliceOf pa.toNat) a (sliceOf pa.toNat) a).trans (if_pos ⟨rfl, rfl⟩)
    · rw [← Accum.record_eq old, show old = SMap.get {} (s.slice (sliceOf pa.toNat)).acc a from by rw [← hi]]
      rfl
  · obtain ⟨h1, h2, h3⟩ := ckcmd_fields ck f
    have hmay : s.srcMay src (.winv c 0x100) (some ((0#57) ++ (1#1) ++ b2v ck ++ f)) = true := by
      generalize (0#57) ++ (1#1) ++ b2v ck ++ f = v at h1
      cases src with
      | thread t h =>
        obtain hp | ⟨hp, hf⟩ := (show _ ∨ _ from hsrc)
        · simp [State.srcMay, State.csrPerm, hp]
        · simp [State.srcMay, State.csrPerm, hp, State.superMay, hf, h1]
      | _ => rfl
    have e : exec (.sweep src c f ck) s = .next (s.writeCkcmd c ((0#57) ++ (1#1) ++ b2v ck ++ f)) :=
      congrArg Host.Outcome.next (regWrite_winv ha hon hmay (by decide) (by decide))
    refine ⟨_, e, rfl, ?_, ?_⟩
    · rw [State.writeCkcmd, State.cob_modCob_self, if_neg (by rw [hb]; decide)]
      exact h3
    · rw [State.writeCkcmd, State.cob_modCob_self, if_neg (by rw [hb]; decide)]
      exact h2
  · obtain ⟨hf, hck⟩ := selector_fields ck f
    rw [← hcmd] at hf hck
    have hend : s.endSweep c = _ := endSweep_of_busy hb (a := a) (recs := recs) (by rw [hf, hck, hacc]) rfl
    clear_value recs
    have hcob : (s.endSweep c).cob c = Cob.swept (((List.range 64).foldl (fun b k => (b.takeRecord (sweepSlice c k) a).2) s).cob c) recs := by
      rw [hend, State.cob_modCob_self]
    have hslice (k : Nat) (hk : k < 64) : SMap.get {} ((s.endSweep c).slice (sweepSlice c k)).acc a = {} := by
      rw [hend, slice_modCob]
      exact slice_foldl_takeRecord _ s (List.mem_range.2 hk)
    have hhbm : (s.endSweep c).hbm = s.hbm := by
      rw [hend, hbm_modCob, hbm_foldl_takeRecord]
    refine ⟨s.endSweep c, rfl, hhbm, ?_⟩
    rw [hcob]
    generalize ((List.range 64).foldl (fun b k => (b.takeRecord (sweepSlice c k) a).2) s).cob c = y
    obtain ⟨e1, e2, e3, e4, e5, e6⟩ := Cob.swept_fields y recs
    exact ⟨e1, e2, e3, e4, e5, fun k hk => ⟨hslice k hk, e6 k hk⟩⟩

end Sys2Proof.Machine
end

section
/-! Requests at memories and registers (R178, R180, R184–R187, R285–R287, R338, R550), and the proof of O34. -/
namespace Sys2Proof.Machine

open Sys2Proof.Safety

/-! ## What restarting an idle count leaves (R485) -/

theorem State.cob_touchHalf (s : State) (pa : Nat) (c : CobNo) :
    ∃ n m, (s.touchHalf pa).cob c = { s.cob c with idleN := n, idleS := m } := by
  unfold State.touchHalf
  split
  · next t _ =>
    by_cases hc : c = tileCob t
    · subst hc
      rw [State.cob_modCob_self]
      split
      · exact ⟨_, 0, rfl⟩
      · exact ⟨0, _, rfl⟩
    · rw [State.cob_modCob, if_neg hc]
      exact ⟨_, _, rfl⟩
  · exact ⟨_, _, rfl⟩

@[simp] theorem State.dom_touchHalf (s : State) (pa : Nat) (d : Domain) : (s.touchHalf pa).dom d = s.dom d := by
  cases d with
  | half c so =>
    obtain ⟨n, m, e⟩ := s.cob_touchHalf pa c
    rw [State.dom, e]
    rfl
  | memif c =>
    obtain ⟨n, m, e⟩ := s.cob_touchHalf pa c
    rw [State.dom, e]
    rfl
  | kiln1 =>
    obtain ⟨c, e⟩ := s.touchHalf_eq pa
    rw [e]
    rfl

@[simp] theorem State.blkReady_touchHalf (s : State) (pa : Nat) (b : Blk) : (s.touchHalf pa).blkReady b = s.blkReady b := by
  simp only [State.blkReady, State.dom_touchHalf, State.tile_touchHalf]

@[simp] theorem State.superMay_touchHalf (s : State) (pa : Nat) (f : Option FuncNo) (b : Blk) (w : Option DWord) :
    (s.touchHalf pa).superMay f b w = s.superMay f b w := by
  cases b with
  | winv c o =>
    obtain ⟨n, m, e⟩ := s.cob_touchHalf pa c
    simp only [State.superMay, e]
  | _ =>
    obtain ⟨c, e⟩ := s.touchHalf_eq pa
    rw [e]
    rfl

/-! ## Registers lie at multiples of eight bytes and are at most eight bytes wide (R9, R277) -/

theorem ne_of_unaligned {o c : Nat} (h : o % 8 ≠ 0) (hc : c % 8 = 0) : ¬o = c := fun e => h (e ▸ hc)

theorem arr_of_unaligned {o base stride n : Nat} (h : o % 8 ≠ 0) (hb : base % 8 = 0) (hs : stride % 8 = 0) :
    arr o base stride n = none := by
  rw [arr, if_neg]
  intro hc
  simp only [Bool.and_eq_true, decide_eq_true_eq] at hc
  obtain ⟨⟨h1, -⟩, h2⟩ := hc
  have h8 : 8 ∣ stride := Nat.dvd_of_mod_eq_zero hs
  have := h8.trans (Nat.dvd_of_mod_eq_zero h2)
  omega

section Unaligned

variable {o : Nat} (h : o % 8 ≠ 0)
include h

theorem ctReg_of_unaligned {p : CtReg × Nat} (hr : ctReg o = some p) : o % 4 = 0 ∧ p.2 = 4 := by
  simp only [ctReg, ne_of_unaligned h, arr_of_unaligned h, if_false, Nat.reduceMod, Nat.zero_mod] at hr
  split at hr
  · next i hi =>
    cases hr
    rw [arr] at hi
    split at hi
    · next hc =>
      simp only [Bool.and_eq_true, decide_eq_true_eq] at hc
      omega
    · cases hi
  · cases hr

theorem qtReg_of_unaligned : qtReg o = none := by
  simp only [qtReg, ne_of_unaligned h, arr_of_unaligned h, if_false, Nat.reduceMod, Nat.zero_mod]

theorem ceReg_of_unaligned : ceReg o = none := by
  simp only [ceReg, ne_of_unaligned h, arr_of_unaligned h, if_false, Nat.reduceMod, Nat.zero_mod]

theorem ptReg_of_unaligned : ptReg o = none := by
  simp only [ptReg, ne_of_unaligned h, arr_of_unaligned h, if_false, Nat.reduceMod, Nat.zero_mod]

theorem ldReg_of_unaligned : ldReg o = none := by
  simp only [ldReg, ne_of_unaligned h, arr_of_unaligned h, if_false, Nat.reduceMod, Nat.zero_mod]

theorem pwReg_of_unaligned : pwReg o = none := by
  simp only [pwReg, ne_of_unaligned h, arr_of_unaligned h, if_false, Nat.reduceMod, Nat.zero_mod]

end Unaligned

/-- The offset of a block. -/
def Blk.off (b : Blk) : Nat :=
  match b with
  | .ct _ o => o
  | .qt _ o => o
  | .ce _ o => o
  | .winv _ o => o
  | .win o => o
  | .hce _ o => o
  | .fn _ o => o
  | .part o => o
  | .cns _ o => o
  | .pt o => o
  | .ld o => o
  | .cd _ o => o
  | .pw o => o

/-- Whatever register a row gives is at most eight bytes wide. -/
def Narrow {ρ : Type} (x : Option (ρ × Nat)) : Prop := ∀ p, x = some p → p.2 ≤ 8

section Widths

variable {ρ : Type}

theorem narrow_none : Narrow (none : Option (ρ × Nat)) := fun _ h => nomatch h

theorem narrow_some {r : ρ} {w : Nat} (hw : w ≤ 8) : Narrow (some (r, w)) := fun _ h => Option.some.inj h ▸ hw

theorem narrow_ite {c : Prop} [Decidable c] {r : ρ} {w : Nat} {y : Option (ρ × Nat)} (hw : w ≤ 8) (hy : Narrow y) :
    Narrow (if c then some (r, w) else y) := by
  split
  · exact narrow_some hw
  · exact hy

theorem narrow_row {x : Option Nat} {g : Nat → ρ} {w : Nat} {y : Option (ρ × Nat)} (hw : w ≤ 8) (hy : Narrow y) :
    Narrow (match x with | some i => some (g i, w) | none => y) := by
  cases x
  · exact hy
  · exact narrow_some hw

variable (o : Nat)

theorem narrow_ctReg : Narrow (ctReg o) := by
  unfold ctReg
  iterate 16 refine narrow_ite (by decide) ?_
  iterate 15 refine narrow_row (by decide) ?_
  exact narrow_none

theorem narrow_qtReg : Narrow (qtReg o) := by
  unfold qtReg
  iterate 2 refine narrow_ite (by decide) ?_
  iterate 12 refine narrow_row (by decide) ?_
  exact narrow_none

theorem narrow_ceReg : Narrow (ceReg o) := by
  unfold ceReg
  iterate 7 refine narrow_ite (by decide) ?_
  refine narrow_row (by decide) narrow_none

theorem narrow_hceReg : Narrow (hceReg o) := by
  intro p h
  unfold hceReg at h
  split at h
  · next e => cases h; exact narrow_ceReg o _ e
  · next e => cases h; exact narrow_ceReg o _ e
  · next e => cases h; exact narrow_ceReg o _ e
  · cases h

theorem narrow_ptReg : Narrow (ptReg o) := by
  unfold ptReg
  iterate 11 refine narrow_ite (by decide) ?_
  iterate 7 refine narrow_row (by decide) ?_
  exact narrow_none

theorem narrow_ldReg : Narrow (ldReg o) := by
  unfold ldReg
  iterate 7 refine narrow_ite (by decide) ?_
  iterate 5 refine narrow_row (by decide) ?_
  exact narrow_none

theorem narrow_pwReg : Narrow (pwReg o) := by
  unfold pwReg
  iterate 2 refine narrow_ite (by decide) ?_
  iterate 6 refine narrow_row (by decide) ?_
  exact narrow_none

end Widths

/-- A register lies within one doubleword. -/
theorem off_add_width {b : Blk} {n : Nat} (hw : b.width = some n) : b.off % 8 + n ≤ 8 := by
  have hmap {ρ : Type} {x : Option (ρ × Nat)} {o : Nat} (hx : x.map (fun p => p.2) = some n) (hle : ∀ p, x = some p → p.2 ≤ 8)
      (hal : o % 8 ≠ 0 → x = none) : o % 8 + n ≤ 8 := by
    obtain ⟨p, hp, rfl⟩ := Option.map_eq_some_iff.1 hx
    have := hle p hp
    by_cases h : o % 8 = 0
    · omega
    · exact absurd (hal h) (by simp [hp])
  have hplain {x : Option Nat} {o : Nat} (hx : x = some n) (hle : ∀ k, x = some k → k ≤ 8) (hal : o % 8 ≠ 0 → x = none) :
      o % 8 + n ≤ 8 := by
    have := hle n hx
    by_cases h : o % 8 = 0
    · omega
    · exact absurd (hal h) (by simp [hx])
  cases b with
  | ct t o =>
    obtain ⟨p, hp, rfl⟩ := Option.map_eq_some_iff.1 hw
    have h8 := narrow_ctReg o p hp
    by_cases h : o % 8 = 0
    · exact (show o % 8 + p.2 ≤ 8 by omega)
    · obtain ⟨h4, hp4⟩ := ctReg_of_unaligned h hp
      exact (show o % 8 + p.2 ≤ 8 by omega)
  | qt t o => exact hmap hw (narrow_qtReg o) (fun h => qtReg_of_unaligned h)
  | ce t o => exact hmap hw (narrow_ceReg o) (fun h => ceReg_of_unaligned h)
  | hce e o => exact hmap hw (narrow_hceReg o) (fun h => by rw [hceReg, ceReg_of_unaligned (o := o) h])
  | pt o => exact hmap hw (narrow_ptReg o) (fun h => ptReg_of_unaligned h)
  | ld o => exact hmap hw (narrow_ldReg o) (fun h => ldReg_of_unaligned h)
  | pw o => exact hmap hw (narrow_pwReg o) (fun h => pwReg_of_unaligned h)
  | winv c o =>
    refine hplain (o := o) hw (fun k hk => ?_) (fun h => ?_)
    · change winvReg o = some k at hk
      rw [winvReg] at hk
      split at hk <;> cases hk
      decide
    · change winvReg o = none
      simp only [winvReg, ne_of_unaligned h, arr_of_unaligned h, Nat.reduceMod, Nat.zero_mod, decide_false, Option.isSome_none,
        Bool.or_self, Bool.false_eq_true, if_false]
  | win o =>
    refine hplain (o := o) hw (fun k hk => ?_) (fun h => ?_)
    · obtain ⟨-, -, rfl⟩ := Option.map_eq_some_iff.1 hk
      decide
    · change (winReg o).map _ = none
      rw [winReg, if_pos h]
      rfl
  | fn f o =>
    refine hplain (o := o) hw (fun k hk => ?_) (fun h => ?_)
    · change fnReg o = some k at hk
      rw [fnReg] at hk
      split at hk
      · cases hk; decide
      · split at hk <;> cases hk
        decide
    · change fnReg o = none
      simp only [fnReg, ne_of_unaligned h, h, Nat.reduceMod, decide_false, Bool.false_and, Bool.false_eq_true, if_false]
  | part o =>
    refine hplain (o := o) hw (fun k hk => ?_) (fun h => ?_)
    · change partReg o = some k at hk
      rw [partReg] at hk
      split at hk <;> cases hk
      decide
    · change partReg o = none
      simp only [partReg, h, decide_false, Bool.false_and, Bool.false_eq_true, if_false]
  | cns f o =>
    refine hplain (o := o) hw (fun k hk => ?_) (fun h => ?_)
    · change (if o = 0 then some 8 else none) = some k at hk
      split at hk <;> cases hk
      decide
    · exact if_neg (ne_of_unaligned h rfl)
  | cd c o =>
    refine hplain (o := o) hw (fun k hk => ?_) (fun h => ?_)
    · change cdReg o = some k at hk
      rw [cdReg] at hk
      split at hk <;> cases hk
      decide
    · change cdReg o = none
      simp only [cdReg, ne_of_unaligned h, arr_of_unaligned h, Nat.reduceMod, Nat.zero_mod, decide_false, Option.isSome_none,
        Bool.or_self, Bool.false_eq_true, if_false]

/-- Whatever block a row gives, its offset is congruent to the address. -/
def OffLike (pa : Nat) (x : Option Blk) : Prop := ∀ b, x = some b → b.off % 8 = pa % 8

theorem offLike_row {pa lo n hi : Nat} {b : Blk} {y : Option Blk} (hb : lo ≤ n → b.off % 8 = pa % 8) (hy : OffLike pa y) :
    OffLike pa (if decide (lo ≤ n) && decide (n < hi) then some b else y) := by
  split
  · next hc => exact fun _ h => Option.some.inj h ▸ hb (of_decide_eq_true (Bool.and_eq_true_iff.1 hc).1)
  · exact hy

theorem offLike_ite {pa : Nat} {c : Prop} [Decidable c] {b : Blk} {y : Option Blk} (hb : b.off % 8 = pa % 8) (hy : OffLike pa y) :
    OffLike pa (if c then some b else y) := by
  split
  · exact fun _ h => Option.some.inj h ▸ hb
  · exact hy

theorem offLike_none {pa : Nat} {c : Prop} [Decidable c] {y : Option Blk} (hy : ¬c → OffLike pa y) :
    OffLike pa (if c then none else y) := by
  split
  · exact fun _ h => nomatch h
  · next hc => exact hy hc

theorem off_csrBlk {pa : Nat} : OffLike pa (csrBlk pa) := by
  unfold csrBlk
  extract_lets n
  have hn : n = pa - 0x3F0000000000 := rfl
  clear_value n
  refine offLike_none fun hlo => offLike_ite (by rw [Blk.off]; omega) ?_
  iterate 12 refine offLike_row (fun hc => by rw [Blk.off]; omega) ?_
  exact fun _ h => nomatch h

/-- The doublewords of a register are one. -/
theorem one_dword {pa n : Nat} {b : Blk} (hb : csrBlk pa = some b) (hw : b.width = some n) (hn : 1 ≤ n) :
    (pa + n - 1) / 8 - pa / 8 + 1 = 1 := by
  have := off_csrBlk b hb
  have := off_add_width hw
  omega

/-! ## A request at a slice (R281, R285–R287) -/

theorem hbm_touchHeld (n : Nat) : ∀ (s : State) (pa : Nat), (s.touchHeld pa n).hbm = s.hbm := by
  induction n with
  | zero => exact fun _ _ => rfl
  | succ n ih =>
    intro s pa
    rw [State.touchHeld, ih]
    split
    · exact hbm_hold s pa
    · rfl

theorem hbm_touchReads (l : List (Nat × Nat)) : ∀ s : State, (s.touchReads l).hbm = s.hbm := by
  induction l with
  | nil => exact fun _ => rfl
  | cons p l ih => exact fun s => (ih _).trans (hbm_touchHeld _ _ _)

theorem reqs_answer {s : State} {id : Nat} {a : Option (List Byte)} : ∀ q ∈ (s.answer id a).reqs, q.id = id → q.ans = some a := by
  intro q hq hid
  obtain ⟨r, hr, rfl⟩ := List.mem_map.1 hq
  split at hid
  · next h => rw [if_pos h]
  · next h => exact absurd hid h

theorem reqs_dropReq {s : State} {id : Nat} : ∀ q ∈ (s.dropReq id).reqs, q.id ≠ id := by
  intro q hq
  exact of_decide_eq_true (List.mem_filter.1 hq).2

theorem sbuf_ackStore {s : State} {t : TileId} {id : Nat} :
    ∀ q ∈ ((s.ackStore t id).tile t).sbuf, q.id = id → q.done = true := by
  intro q hq hid
  rw [State.ackStore, State.tile_modTile_self] at hq
  obtain ⟨r, hr, rfl⟩ := List.mem_map.1 hq
  split at hid
  · next h => rw [if_pos h]
  · next h => exact absurd hid h

theorem sbuf_refuseStore {s : State} {t : TileId} {id : Nat} {d : BitVec 4} :
    ∀ q ∈ ((s.refuseStore t id d).tile t).sbuf, q.id = id → q.refused = some d := by
  intro q hq hid
  rw [State.refuseStore, State.tile_modTile_self] at hq
  obtain ⟨r, hr, rfl⟩ := List.mem_map.1 hq
  split at hid
  · next h => rw [if_pos h]
  · next h => exact absurd hid h

section Arrived

variable {s : State} {id pa o : Nat} {r : Req} {w : TileId} {hd : Option (BitVec 14)}

theorem id_of_reqArrives (h : s.reqArrives id = some r) : r.id = id := by
  unfold State.reqArrives at h
  split at h
  · cases h
  · next q hq =>
    split at h
    · cases h
    · cases h
      rw [State.reqOf] at hq
      exact of_decide_eq_true (List.mem_filter.1 (List.mem_of_mem_head? hq)).2

theorem exec_sliceRequest_of_on (h : s.reqArrives id = some r) (hd : r.dst = .hbm pa) (hon : s.sliceOn pa = true) :
    exec (.sliceRequest id []) s = .next (if r.write then s.sliceWrite r pa [] else s.sliceRead r pa []) := by
  change execSliceRequest id [] s = _
  simp only [execSliceRequest, h, hd, hon, Bool.not_true, Bool.false_eq_true, if_false]

theorem sliceRead_of_good (hbad : s.badBurst pa r.n = none) :
    s.sliceRead r pa [] = (s.touchReads [(pa, r.n)]).answer r.id (some (s.hbm.bytes pa r.n)) := by
  unfold State.sliceRead
  rw [show s.withEccs [(pa, r.n)] [] = s from rfl]
  simp only [hbad]

theorem sliceWrite_of_good (hbad : s.writeBurst pa r.n = none) :
    s.sliceWrite r pa [] = (((s.hbmWrite pa r.data).touchReads [(pa, r.n)]).ackStore r.tile r.id).dropReq r.id := by
  unfold State.sliceWrite
  rw [show s.withEccs ((partBursts pa r.n).map (fun b => (b * 32, 32))) [] = s from rfl]
  simp only [hbad]

/-! ## A request at another tile's scratchpad (R184–R187) -/

theorem remoteAt_eq (f : Option FuncNo) (pid : Byte) (n : Nat) : s.remoteAt w f pid hd o n =
    if (s.tile w).func = f ∧ (s.tile w).place.extractLsb' 8 8 = pid then (s.tile w).placeAt hd o n else none := by
  simp only [State.remoteAt, Bool.and_eq_true, decide_eq_true_eq]
  rfl

/-- A load with no error in its words reads local memory as it is. -/
theorem remoteLoad_of_clean {off : Nat} (h : (s.tile w).errWords off r.n = []) :
    s.remoteLoad w r off .none = (s.modTile w (fun tl => tl)).answer r.id (some ((s.tile w).lmem.bytes off r.n)) := by
  unfold State.remoteLoad
  simp only [if_true, h]
  rfl

theorem exec_remoteAccessArrival_of_ready (h : s.reqArrives id = some r) (hd' : r.dst = .remote w o hd) (hon : s.tileOn w = true)
    (hz : (s.tile w).zeroed = true) :
    exec (.remoteAccessArrival id .none) s = .next (match s.remoteAt w r.func r.pid hd o r.n with
      | none => if r.write then (s.refuseStore r.tile id 1).dropReq id else s.answer id none
      | some off =>
        if !r.write then s.remoteLoad w r off .none
        else if 16 ≤ (s.tile w).inbuf.length then s
        else (s.modTile w (fun tl =>
          { tl with inbuf := tl.inbuf ++ [{ off := off, bytes := r.data, what := .store r.tile r.id }] })).dropReq id) := by
  change execRemoteAccessArrival id .none s = _
  simp only [execRemoteAccessArrival, h, hd', State.tileReady, hon, hz, Bool.and_self, Bool.not_true, Bool.false_eq_true, if_false] <;>
    rfl

/-! ## A request at a register (R9, R55, R550) -/

section Register

variable {b : Blk} (h : s.reqArrives id = some r) (hdst : r.dst = .csr pa) (hb : csrBlk pa = some b) (hr : s.blkReady b = true)
include h hdst hb hr

theorem exec_csrAccessComplete_of_ready : exec (.csrAccessComplete id) s = .next (
    if r.write then
      (if ((s.touchHalf pa).csrStore r pa).1 then ((s.touchHalf pa).csrStore r pa).2.ackStore r.tile id
        else ((s.touchHalf pa).csrStore r pa).2.refuseStore r.tile id 2).dropReq id
    else if (s.touchHalf pa).csrMayLoad r.pl r.func pa r.n ≠ .ok then (s.touchHalf pa).answer id none
    else ((s.touchHalf pa).csrLoad r pa (r.n / r.esz) []).2.answer id (some ((s.touchHalf pa).csrLoad r pa (r.n / r.esz) []).1)) := by
  change execCsrAccessComplete id s = _
  simp only [execCsrAccessComplete, h, hdst, hb, State.blkReady_touchHalf, hr, Bool.not_true, Bool.false_eq_true, if_false]

end Register

theorem csrPerm_ok_iff (s : State) (pl : BitVec 2) (f : Option FuncNo) (b : Blk) (v : Option DWord) :
    s.csrPerm pl f b v = .ok ↔ pl = 3 ∨ pl ≠ 1 ∧ s.superMay f b v = true := by
  rw [State.csrPerm]
  by_cases h3 : pl = 3
  · rw [if_pos h3]
    exact iff_of_true rfl (Or.inl h3)
  by_cases h1 : pl = 1
  · rw [if_neg h3, if_pos h1]
    exact iff_of_false (fun h => nomatch h) (fun h => h.elim h3 (fun k => k.1 h1))
  rw [if_neg h3, if_neg h1]
  by_cases hm : s.superMay f b v = true
  · rw [if_pos hm]
    exact iff_of_true rfl (Or.inr ⟨h1, hm⟩)
  · rw [if_neg hm]
    exact iff_of_false (fun h => nomatch h) (fun h => h.elim h3 (fun k => hm k.2))

@[simp] theorem State.csrPerm_touchHalf (s : State) (q : Nat) (pl : BitVec 2) (f : Option FuncNo) (b : Blk) (v : Option DWord) :
    (s.touchHalf q).csrPerm pl f b v = s.csrPerm pl f b v := by
  rw [State.csrPerm, State.superMay_touchHalf, State.csrPerm]

section OneElement

variable {b : Blk} (hb : csrBlk pa = some b) (hw : b.width = some r.esz)
include hb hw

theorem csrMayLoad_one (he : 1 ≤ r.esz) (pl : BitVec 2) (f : Option FuncNo) : s.csrMayLoad pl f pa r.esz = s.csrPerm pl f b none := by
  have hp : s.csrPerm pl f b none = .ok ∨ s.csrPerm pl f b none ≠ .ok := Decidable.em _
  rw [State.csrMayLoad, one_dword hb hw he, show List.range 1 = [0] from rfl, List.map_singleton, if_pos rfl, hb]
  rcases hp with hp | hp
  · rw [List.filter_cons_of_neg (by simp [hp]), List.filter_nil]
    exact hp.symm
  · rw [List.filter_cons_of_pos (by simp [hp])]
    rfl

theorem csrLoad_one : s.csrLoad r pa 1 [] = (byteList (s.blkRead b).1 r.esz, (s.blkRead b).2) := by
  simp only [State.csrLoad, hb, State.sizedRead, hw, if_true, List.nil_append, bytesOf_eq_byteList]

omit hw in
theorem csrStore_refused (he : r.n / r.esz = 1) (hp : s.csrPerm r.pl r.func b (some (leBits 64 (r.data.take r.esz))) ≠ .ok) :
    s.csrStore r pa = (false, s) := by
  simp only [State.csrStore, he, State.csrElems, hb, hp, ne_eq, not_false_eq_true, if_true]

theorem csrStore_one {u : State} (he : r.n / r.esz = 1)
    (hp : s.csrPerm r.pl r.func b (some (leBits 64 (r.data.take r.esz))) = .ok)
    (hu : s.blkWrite (decide (r.pl = 2)) b (leBits 64 (r.data.take r.esz)) none = some u) : s.csrStore r pa = (true, u) := by
  simp only [State.csrStore, he, State.csrElems, hb, hp, State.sizedWrite, hw, hu, ne_eq, not_true_eq_false, if_true, if_false]

end OneElement

end Arrived

/-! ## The inbound write buffer (R180, R223) -/

theorem revealFirst_eq (l : List QMsg) : revealFirst l = l.takeWhile (fun m => m.seen) ++
    match l.dropWhile (fun m => m.seen) with
    | m :: l => { m with seen := true } :: l
    | [] => [] := by
  induction l with
  | nil => rfl
  | cons m l ih =>
    rw [revealFirst]
    by_cases h : m.seen = true
    · rw [if_pos h, ih, List.takeWhile_cons_of_pos h, List.dropWhile_cons_of_pos h]
      rfl
    · rw [if_neg h, List.takeWhile_cons_of_neg h, List.dropWhile_cons_of_neg h]
      rfl

/-- The head of the inbound write buffer lands. -/
def State.landed (s : State) (t : TileId) (e : InWrite) (rest : List InWrite) : State :=
  (s.modTile t (fun tl => { tl with inbuf := rest })).modTile t (fun tl => tl.lmWrite 1 e.off (e.bytes.map some))

theorem drainInbound_of_good {s : State} {t : TileId} {e : InWrite} {rest : List InWrite} (hin : (s.tile t).inbuf = e :: rest)
    (hbad : (s.tile t).writeBad e.off (e.bytes.map some) = none) :
    s.drainInbound t .none = match e.what with
      | .store u id => (s.landed t e rest).ackStore u id
      | .ring q => (s.landed t e rest).modTile t (fun tl => tl.modQueue q Queue.reveal)
      | .none => s.landed t e rest := by
  have hbad' : ((s.modTile t (fun tl => { tl with inbuf := rest })).tile t).writeBad e.off (e.bytes.map some) = none := by
    rw [State.tile_modTile_self]
    exact hbad
  unfold State.drainInbound
  simp only [hin, ne_eq, not_true_eq_false, decide_false, Bool.and_false, Bool.false_eq_true, if_false, hbad']
  rfl

theorem Tile.inbuf_fixWords (tl : Tile) (src : Nat) (ws : List (Nat × Bool)) : (tl.fixWords src ws).inbuf = tl.inbuf := by
  unfold Tile.fixWords
  induction ws generalizing tl with
  | nil => rfl
  | cons p r ih =>
    rw [List.foldl_cons, ih]
    split
    · rfl
    · rw [Tile.corrected, Tile.errRecord]
      split <;> rfl

theorem Tile.queue_fixWords (tl : Tile) (src : Nat) (ws : List (Nat × Bool)) (q : QIx) : (tl.fixWords src ws).queue q = tl.queue q := by
  unfold Tile.fixWords
  induction ws generalizing tl with
  | nil => rfl
  | cons p r ih =>
    rw [List.foldl_cons, ih]
    split
    · rfl
    · rw [Tile.corrected, Tile.errRecord]
      split <;> rfl

section Landed

variable (s : State) (t : TileId) (e : InWrite) (rest : List InWrite)

theorem inbuf_landed : ((s.landed t e rest).tile t).inbuf = rest := by
  rw [State.landed, State.tile_modTile_self, State.tile_modTile_self]
  exact Tile.inbuf_fixWords _ _ _

theorem queue_landed (q : QIx) : ((s.landed t e rest).tile t).queue q = (s.tile t).queue q := by
  rw [State.landed, State.tile_modTile_self, State.tile_modTile_self]
  exact Tile.queue_fixWords _ _ _ _

theorem wrote_landed : Wrote (s.tile t) ((s.landed t e rest).tile t) e.off e.bytes := by
  rw [State.landed, State.tile_modTile_self, State.tile_modTile_self]
  exact Tile.wrote_lmWrite { s.tile t with inbuf := rest } 1 e.off e.bytes

end Landed

/-- An acknowledge changes no tile but in its store buffer. -/
theorem State.tile_ackStore (s : State) (u : TileId) (id : Nat) (t : TileId) :
    ∃ b, (s.ackStore u id).tile t = { s.tile t with sbuf := b } := by
  rw [State.ackStore, State.tile_modTile]
  split
  · next h => exact ⟨_, by rw [h]; rfl⟩
  · exact ⟨(s.tile t).sbuf, rfl⟩

theorem State.tile_modQueue (s : State) (t : TileId) (q : QIx) (f : Queue → Queue) :
    ((s.modTile t (fun tl => tl.modQueue q f)).tile t).inbuf = (s.tile t).inbuf ∧
    ((s.modTile t (fun tl => tl.modQueue q f)).tile t).lmem = (s.tile t).lmem ∧
    ((s.modTile t (fun tl => tl.modQueue q f)).tile t).queue q = f ((s.tile t).queue q) := by
  rw [State.tile_modTile_self, Tile.queue_modQueue_self]
  exact ⟨rfl, rfl, rfl⟩

/-- What follows a write that has landed: a store is acknowledged, a ring's message becomes visible. -/
theorem lands {z : State} {t : TileId} {tl : Tile} {rest : List InWrite} {off : Nat} {bs : List Byte} (hin : (z.tile t).inbuf = rest)
    (hw : Wrote tl (z.tile t) off bs) (what : InFor) :
    let u := match what with
      | .store v j => z.ackStore v j
      | .ring j => z.modTile t (fun tl => tl.modQueue j Queue.reveal)
      | .none => z
    (u.tile t).inbuf = rest ∧ Wrote tl (u.tile t) off bs ∧
      (∀ w k, what = .store w k → ∀ q ∈ (u.tile w).sbuf, q.id = k → q.done = true) ∧
      (∀ q, what = .ring q → ((u.tile t).queue q).msgs = revealFirst ((z.tile t).queue q).msgs) := by
  cases what with
  | store v j =>
    obtain ⟨b, hb⟩ := z.tile_ackStore v j t
    refine ⟨(congrArg Tile.inbuf hb).trans hin, fun i => ?_, fun w k h => ?_, fun _ h => nomatch h⟩
    · exact (congrArg (fun tl : Tile => tl.lmem.byte i) hb).trans (hw i)
    · cases h
      exact sbuf_ackStore
  | ring j =>
    obtain ⟨h1, h2, h3⟩ := z.tile_modQueue t j Queue.reveal
    refine ⟨h1.trans hin, fun i => ?_, fun _ _ h => (nomatch h), fun q h => ?_⟩
    · exact (congrArg (fun m : Memory => m.byte i) h2).trans (hw i)
    · cases h
      exact congrArg Queue.msgs h3
  | none => exact ⟨hin, hw, fun _ _ h => (nomatch h), fun _ h => nomatch h⟩

/-- Settles O34: each request through what its target does with it. -/
theorem memoryAnswers : Obligations.MemoryAnswers := by
  unfold Obligations.MemoryAnswers
  intro s s1 t w id o off pa r hd e rest b k q
  extract_lets s0 tw answered spent acked mayReach denied val perm
  refine ⟨fun harr => ?_, fun hon hz hin hbad => ?_, fun hon hz => ?_⟩
  · have hid := id_of_reqArrives harr
    refine ⟨fun hdst hon => ⟨fun hwr hbad => ?_, fun hwr hbad => ?_⟩, fun hdst hon hz => ?_, fun hdst hb hr hn he => ?_⟩
    · refine ⟨_, exec_sliceRequest_of_on harr hdst hon, ?_⟩
      rw [hwr, if_neg (by decide), sliceRead_of_good hbad, hid]
      exact ⟨reqs_answer, hbm_touchReads _ _⟩
    · refine ⟨_, exec_sliceRequest_of_on harr hdst hon, ?_⟩
      rw [hwr, if_pos rfl, sliceWrite_of_good hbad, hid]
      refine ⟨reqs_dropReq, sbuf_ackStore, fun a => ?_⟩
      change ((s.hbmWrite pa r.data).touchReads [(pa, r.n)]).hbm.byte a = _
      rw [hbm_touchReads]
      exact Memory.byte_setBytes _ _ _ _
    · have e0 := exec_remoteAccessArrival_of_ready harr hdst hon hz
      have hreach (h : mayReach) : s.remoteAt w r.func r.pid hd o r.n = some off := by
        rw [remoteAt_eq, if_pos ⟨h.1, h.2.1⟩]
        exact h.2.2
      have hdeny (h : denied) : s.remoteAt w r.func r.pid hd o r.n = none := by
        rw [remoteAt_eq]
        rcases h with h | h
        · exact if_neg h
        · rw [show (s.tile w).placeAt hd o r.n = none from h, ite_self]
      refine ⟨fun h hwr hclean => ?_, fun h hwr hroom => ?_, fun h hwr => ?_, fun h hwr => ?_⟩
      · rw [hreach h, hwr] at e0
        refine ⟨_, e0, ?_⟩
        dsimp only
        rw [if_pos (by decide), remoteLoad_of_clean hclean, hid]
        refine ⟨reqs_answer, ?_⟩
        exact congrArg Tile.lmem (State.tile_modTile_self s w (fun tl => tl))
      · rw [hreach h, hwr] at e0
        refine ⟨_, e0, ?_⟩
        dsimp only
        rw [if_neg (by decide), if_neg (Nat.not_le.2 hroom), hid]
        have htile := State.tile_modTile_self s w (fun tl => { tl with inbuf := tl.inbuf ++ [⟨off, r.data, .store r.tile id⟩] })
        exact ⟨reqs_dropReq, (congrArg Tile.inbuf htile :), (congrArg Tile.lmem htile :)⟩
      · rw [hdeny h, hwr] at e0
        exact ⟨_, e0, reqs_answer⟩
      · rw [hdeny h, hwr] at e0
        refine ⟨_, e0, reqs_dropReq, sbuf_refuseStore, ?_⟩
        change ((s.refuseStore r.tile id 1).tile w).inbuf = _
        rw [State.refuseStore, State.tile_modTile]
        split
        · next hw =>
          subst hw
          rfl
        · rfl
    · have hdiv : r.n / r.esz = 1 := by rw [hn, Nat.div_self he]
      have e0 := exec_csrAccessComplete_of_ready harr hdst hb hr
      have hperm : s0.csrPerm r.pl r.func b (if r.write then some val else none) = .ok ↔ perm := by
        rw [State.csrPerm_touchHalf]
        exact csrPerm_ok_iff _ _ _ _ _
      refine ⟨fun hwr hp hw => ?_, fun hwr hp hw hs1 => ?_, fun hwr hp => ?_⟩
      · have hp : s0.csrPerm r.pl r.func b none = .ok := by
          have := hperm.2 hp
          rwa [hwr] at this
        rw [hn, csrMayLoad_one hb hw he, if_neg (not_not_intro hp), Nat.div_self he, csrLoad_one hb hw, hwr] at e0
        exact ⟨_, e0, rfl⟩
      · have hp : s0.csrPerm r.pl r.func b (some val) = .ok := by
          have := hperm.2 hp
          rwa [hwr] at this
        rw [e0, csrStore_one hb hw hdiv hp hs1, hwr]
        rfl
      · have hp : s0.csrPerm r.pl r.func b (some val) ≠ .ok := by
          have := mt hperm.1 hp
          rwa [hwr] at this
        rw [e0, csrStore_refused hb hdiv hp, hwr]
        rfl
  · have e0 : exec (.inboundWrite t .none) s = .next (s.drainInbound t .none) := by
      change execInboundWrite t .none s = _
      rw [execInboundWrite, State.tileReady, hon, hz]
      rfl
    rw [drainInbound_of_good hin hbad] at e0
    refine ⟨_, e0, ?_⟩
    obtain ⟨h1, h2, h3, h4⟩ := lands (inbuf_landed s t e rest) (wrote_landed s t e rest) e.what
    refine ⟨h1, h2, h3 w k, fun hq => (h4 q hq).trans ?_⟩
    rw [queue_landed]
    exact revealFirst_eq _
  · refine ⟨s.modTile t (fun tl => { tl with zeroed := true, lmem := [], lerr := [] }), ?_, State.onlyTile_modTile _ _ _, ?_⟩
    · change execLmemZeroDone t s = _
      rw [execLmemZeroDone, hon, hz]
      rfl
    · rw [State.tile_modTile_self]

end Sys2Proof.Machine
end

section
/-! Removal of translations and CXL (R300, R319, R332). -/
namespace Sys2Proof.Machine

open Sys2Proof.Safety

/-! ## Removal by CE_WINV (R319, R332) -/

/-- Removal from every set of a cache removes from the cache. -/
theorem flatMap_filter_sets {α : Type} (p : α → Bool) (m : SMap (List α)) :
    ((m.map (fun x => (x.1, x.2.filter p))).filter (fun x => x.2 ≠ [])).flatMap (fun x => x.2) = (m.flatMap (fun x => x.2)).filter p := by
  induction m with
  | nil => rfl
  | cons x m ih =>
    rw [List.map_cons, List.flatMap_cons, List.filter_append, ← ih]
    by_cases h : x.2.filter p = []
    · rw [List.filter_cons_of_neg (by simp [h]), h, List.nil_append]
    · rw [List.filter_cons_of_pos (by simp [h]), List.flatMap_cons]

/-- A Cob with a removal under way. -/
def Cob.removing (x : Cob) (f : FuncNo) (vpn : BitVec 36) (all : Bool) (w : BitVec 42) (l : List Nat) : Cob :=
  { x with
    winv := w
    tlb := (x.tlb.map (fun p => (p.1, p.2.filter (fun l => !(goneLeaf f vpn all l))))).filter (fun p => p.2 ≠ [])
    walker := x.walker.filter (fun l => !(goneNode f vpn all l))
    winvBusy := true
    winvWait := x.winvWait ++ l }

section Removal

variable {s : State} {c : CobNo} {v : DWord} {f : FuncNo} {vpn : BitVec 36} {all : Bool}

theorem cob_inv (s : State) (c d : CobNo) (f : FuncNo) (vpn : BitVec 36) (all : Bool) :
    ((s.invCob c f vpn all).invHusk f vpn all).cob d = (s.modCob c (fun x =>
      { x with tlb := (x.tlb.map (fun p => (p.1, p.2.filter (fun l => !(goneLeaf f vpn all l))))).filter (fun p => p.2 ≠ [])
               walker := x.walker.filter (fun l => !(goneNode f vpn all l)) })).cob d := rfl

/-- What a write of CE_WINV with BUSY 1 leaves. -/
theorem writeWinv_of_busy (hb : bit v 42 = true) (hf : bits v 36 5 = f) (hv : bits v 0 36 = vpn) (ha : bit v 41 = all) :
    ∃ u, s.writeWinv c v = u ∧ u.hbm = s.hbm ∧
      u.cob c = (s.cob c).removing f vpn all (bits v 0 42) (s.workOn c) ∧ (∀ d, d ≠ c → u.cob d = s.cob d) ∧
      u.hengTlb = (s.hengTlb.map (fun p => (p.1, p.2.filter (fun l => !(goneLeaf f vpn all l))))).filter (fun p => p.2 ≠ []) ∧
      u.huskWalker = (s.huskWalker.map (fun p => (p.1, p.2.filter (fun l => !(goneNode f vpn all l))))).filter (fun p => p.2 ≠ []) ∧
      ∀ t, u.tile t = if tileCob t = c then (s.tile t).forget f vpn all else s.tile t := by
  refine ⟨_, rfl, ?_⟩
  rw [State.writeWinv, hb]
  simp only [Bool.not_true, Bool.false_eq_true, if_false, hf, hv, ha]
  refine ⟨rfl, ?_, fun d hd => ?_, rfl, rfl, fun t => ?_⟩
  · rw [State.cob_modCob_self]
    rw [cob_inv, State.cob_modCob_self, State.cob_modCob_self]
    rfl
  · rw [State.cob_modCob, if_neg hd]
    rw [cob_inv, State.cob_modCob, if_neg hd, State.cob_modCob, if_neg hd]
  · exact tile_invCob _ _ _ _ _ _

end Removal

/-- The value that starts a removal. -/
theorem winv_fields (all : Bool) (f : FuncNo) (vpn : BitVec 36) :
    let v : DWord := (0#21) ++ (1#1) ++ b2v all ++ f ++ vpn
    bit v 42 = true ∧ bits v 36 5 = f ∧ bits v 0 36 = vpn ∧ bit v 41 = all ∧ bits v 0 42 = BitVec.ofBool all ++ f ++ vpn := by
  intro v
  have hv : v.toNat = ((2 ^ 1 + (b2v all).toNat) * 2 ^ 5 + f.toNat) * 2 ^ 36 + vpn.toNat := by
    simp only [v, toNat_append_eq]
    rfl
  have hb : (b2v all).toNat = b2n all := by cases all <;> rfl
  have hb1 : b2n all ≤ 1 := by cases all <;> decide
  have hf := f.isLt
  have hp := vpn.isLt
  have hbit (i : Nat) : bit v i = decide (v.toNat / 2 ^ i % 2 = 1) := Nat.testBit_eq_decide_div_mod_eq
  have hbits (lo w : Nat) : (bits v lo w).toNat = v.toNat / 2 ^ lo % 2 ^ w := by
    rw [bits, BitVec.extractLsb'_toNat, Nat.shiftRight_eq_div_pow]
  refine ⟨?_, ?_, ?_, ?_, ?_⟩
  · rw [hbit, decide_eq_true_eq]
    omega
  · apply BitVec.eq_of_toNat_eq
    rw [hbits]
    omega
  · apply BitVec.eq_of_toNat_eq
    rw [hbits]
    omega
  · rw [hbit, show v.toNat / 2 ^ 41 % 2 = b2n all by omega]
    cases all <;> rfl
  · apply BitVec.eq_of_toNat_eq
    have hr : (BitVec.ofBool all ++ f ++ vpn).toNat = (b2n all * 2 ^ 5 + f.toNat) * 2 ^ 36 + vpn.toNat := by
      rw [toNat_append_eq, toNat_append_eq]
      cases all <;> rfl
    rw [hbits, hr]
    omega

/-! ## CXL (R300) -/

theorem endWinv_of_done {s : State} {c : CobNo} (h : ∀ i ∈ (s.cob c).winvWait, i ∉ s.workOn c) :
    s.endWinv c = s.modCob c (fun x => { x with winvBusy := false, winvWait := [] }) := by
  rw [State.endWinv, if_neg]
  rw [List.any_eq_true]
  rintro ⟨i, hi, hc⟩
  exact h i hi (List.contains_iff_mem.1 hc)

theorem eng_modEng_self (s : State) (e : Eng) (f : Engine → Engine) : (s.modEng e f).eng e = f (s.eng e) := by
  cases e with
  | tile t => exact congrArg Tile.eng (State.tile_modTile_self s t _)
  | husk i => exact SMap.get_modify_self _ _ _ _

theorem exec_cxlCompletion_of_waiting {s : State} {e : Eng} {ch : Chunk} {rest : List Chunk} (hin : (s.eng e).inflight = ch :: rest)
    (hc : ch.cxl = true) : exec (.cxlCompletion e true) s = .next (s.modEng e (fun g =>
      { g with inflight := g.inflight.map (fun k => if k.id = ch.id then { k with cxl := false } else k) })) := by
  change execCxlCompletion e true s = _
  rw [execCxlCompletion, hin, List.filter_cons_of_pos hc]
  rfl

/-- No chunk waits for a device. -/
theorem exec_cxlLinkDown_of_idle {s : State} {l : BitVec 3} (h : ∀ g k, k ∈ (s.eng g).inflight → k.cxl = false) :
    exec (.cxlLinkDown l) s = .next { s with
      plan := { s.plan with cxlDown := setBit s.plan.cxlDown l.toNat true }
      ld := { s.ld with ldown := setBit s.ld.ldown l.toNat true } } := by
  change execCxlLinkDown l s = _
  rw [execCxlLinkDown]
  have hit : s.busyEngines.flatMap (fun e => ((s.eng e).inflight.filter (fun c => s.onLink l.toNat c)).map (fun c => (e, c))) = [] := by
    rw [List.flatMap_eq_nil_iff]
    intro e _
    rw [List.map_eq_nil_iff, List.filter_eq_nil_iff]
    intro k hk
    rw [State.onLink, h e k hk]
    exact Bool.false_ne_true
  dsimp only
  rw [hit]
  rfl

/-- A removal written by a source that may make it. -/
theorem exec_winv_of_on {s : State} {src : Src} {c : CobNo} {f : FuncNo} {vpn : BitVec 36} {all : Bool} (ha : s.alive = true)
    (hon : (s.cob c).memif = .on) (hsrc : match src with
      | .thread u h => (s.th u h).st.pl = 3 ∨ (s.th u h).st.pl = 2 ∧ (s.tile u).func = some f
      | _ => True) :
    exec (.winv src c vpn f all) s = .next (s.writeWinv c ((0#21) ++ (1#1) ++ b2v all ++ f ++ vpn)) := by
  obtain ⟨-, hf, -, -, -⟩ := winv_fields all f vpn
  have hmay : s.srcMay src (.winv c 0) (some ((0#21) ++ (1#1) ++ b2v all ++ f ++ vpn)) = true := by
    generalize (0#21) ++ (1#1) ++ b2v all ++ f ++ vpn = v at hf
    cases src with
    | thread t h =>
      obtain hp | ⟨hp, hf'⟩ := (show _ ∨ _ from hsrc)
      · simp [State.srcMay, State.csrPerm, hp]
      · simp [State.srcMay, State.csrPerm, hp, State.superMay, hf', hf]
    | _ => rfl
  exact congrArg Host.Outcome.next (regWrite_winv ha hon hmay (by decide) (by decide))

end Sys2Proof.Machine
end

section
/-! Inbound windows (R325, R333), and the proof of O35. -/
namespace Sys2Proof.Machine

open Sys2Proof.Safety

/-! ## Where a window's address lies -/

theorem pa_of_walkFrom {s : State} {f : FuncNo} {va : Nat} (n : Nat) : ∀ (table : Nat) (acc : List NonLeaf) {l : Leaf} {rd : List NonLeaf},
    s.walkFrom f va n table acc = .leaf l rd → l.pa % 4096 = 0 := by
  induction n with
  | zero => exact fun _ _ _ _ h => nomatch h
  | succ n ih =>
    intro table acc l rd h
    rw [State.walkFrom] at h
    dsimp only at h
    repeat' split at h
    all_goals first | exact ih _ _ h | (cases h; exact Nat.mul_mod_left _ _) | cases h

/-- An address of a window keeps its place within a block. -/
theorem windowAt_at {s : State} {f : FuncNo} {va pa : Nat} (h : s.windowAt f va = .at pa) : pa < hbmEnd ∧ pa % 64 = va % 64 := by
  unfold State.windowAt at h
  split at h
  · cases h
  · split at h
    · next l rd hw =>
      split at h
      · next hc =>
        cases h
        refine ⟨of_decide_eq_true (Bool.and_eq_true_iff.1 hc).2, ?_⟩
        have hpa := pa_of_walkFrom 4 _ _ hw
        have hpow : 64 ∣ 2 ^ pageBits l.lvl := by
          rw [pageBits]
          split_ifs <;> decide
        rw [Leaf.addr, Nat.add_mod, Nat.mod_mod_of_dvd _ hpow]
        omega
      · cases h
    · cases h
    · cases h
    · cases h

/-! ## The checks of a window request (R325, R368, R452) -/

section Checks

variable (s : State) (rq : WinReq)

/-- No window takes the request. -/
@[reducible] def State.WinShut : Prop :=
  s.unrec = true ∨ bit (s.iwinOf rq.func rq.win).1 0 = false ∨ (s.func rq.func).st = .failed ∨ (s.func rq.func).st = .resetting ∨
    (s.func rq.func).st = .absent

/-- The window is not for the requester. -/
@[reducible] def State.WinStranger : Prop :=
  rq.srcId &&& bits (s.iwinOf rq.func rq.win).2.2 16 16 ≠ bits (s.iwinOf rq.func rq.win).2.2 0 16 &&& bits (s.iwinOf rq.func rq.win).2.2 16 16

/-- Bytes of the window. -/
def State.winLimit : Nat := min (bits (s.iwinOf rq.func rq.win).2.1 0 29 : BitVec 29).toNat 0x10000000 * 4096

/-- Bytes of an element of a request. -/
def winElem (k : WinKind) : Nat := match k with
  | .acc a => (atypeKind a).bytes
  | _ => 1

end Checks

section Check

variable {s : State} {rq : WinReq}

theorem windowCheck_of_shut (h : s.WinShut rq) : s.windowCheck rq = some 4 := by
  unfold State.windowCheck
  refine if_pos ?_
  simp only [Bool.or_eq_true, Bool.not_eq_true', decide_eq_true_eq]
  rcases h with h | h | h | h | h <;> simp only [h, true_or, or_true]

theorem windowCheck_of_open (h : ¬s.WinShut rq) : s.windowCheck rq =
    if s.WinStranger rq then some 4 else if kindMatches rq.kind (s.iwinOf rq.func rq.win).1 = false then some 4
    else if s.winLimit rq = 0 ∨ s.winLimit rq < rq.offset.toNat + rq.bytes.length then some 2
    else if s.windowFirst rq % winElem rq.kind ≠ 0 ∨ rq.bytes.length % winElem rq.kind ≠ 0 ∨
      (s.windowRuns rq).any (fun p => s.windowAt rq.func p.1 = .fault) = true then some 5
    else none := by
  have hshut : ¬(s.unrec || !(bit (s.iwinOf rq.func rq.win).1 0) || (s.func rq.func).st = .failed || (s.func rq.func).st = .resetting ||
      (s.func rq.func).st = .absent) = true := by
    simp only [Bool.or_eq_true, Bool.not_eq_true', decide_eq_true_eq, or_assoc]
    exact h
  unfold State.windowCheck
  refine (if_neg hshut).trans ?_
  simp only [Bool.or_eq_true, Bool.not_eq_true', decide_eq_true_eq, or_assoc]
  rfl

theorem windowCheck_of_within (hshut : ¬s.WinShut rq) (hstr : ¬s.WinStranger rq)
    (hk : kindMatches rq.kind (s.iwinOf rq.func rq.win).1 = true) (hlim : s.winLimit rq ≠ 0)
    (hle : rq.offset.toNat + rq.bytes.length ≤ s.winLimit rq) : s.windowCheck rq =
      if s.windowFirst rq % winElem rq.kind ≠ 0 ∨ rq.bytes.length % winElem rq.kind ≠ 0 ∨
        (s.windowRuns rq).any (fun p => s.windowAt rq.func p.1 = .fault) = true then some 5
      else none := by
  rw [windowCheck_of_open hshut, if_neg hstr, if_neg (by rw [hk]; decide), if_neg (by omega)]

theorem windowRuns_of_block (h1 : 1 ≤ rq.bytes.length) (h64 : s.windowFirst rq % 64 + rq.bytes.length ≤ 64) :
    s.windowRuns rq = [(s.windowFirst rq, rq.bytes.length)] := by
  rw [State.windowRuns]
  split
  · rfl
  · have hnil (k a : Nat) : blockRuns k a (rq.bytes.length - rq.bytes.length) = [] := by
      rw [Nat.sub_self]
      cases k with
      | zero => rfl
      | succ n => rw [blockRuns, if_pos rfl]
    rw [blockRuns, if_neg (by omega), Nat.min_eq_left (by omega)]
    exact congrArg _ (hnil _ _)

/-- A request that passes every check. -/
structure State.WinPasses (s : State) (rq : WinReq) (pa : Nat) : Prop where
  check : s.windowCheck rq = none
  runs : s.windowRuns rq = [(s.windowFirst rq, rq.bytes.length)]
  found : s.windowAt rq.func (s.windowFirst rq) = .at pa

variable {pa : Nat}

theorem winPasses_of (hshut : ¬s.WinShut rq) (hstr : ¬s.WinStranger rq) (hk : kindMatches rq.kind (s.iwinOf rq.func rq.win).1 = true)
    (hlim : s.winLimit rq ≠ 0) (hle : rq.offset.toNat + rq.bytes.length ≤ s.winLimit rq) (hva : s.windowFirst rq % winElem rq.kind = 0)
    (hn : rq.bytes.length % winElem rq.kind = 0) (h1 : 1 ≤ rq.bytes.length) (h64 : s.windowFirst rq % 64 + rq.bytes.length ≤ 64)
    (hat : s.windowAt rq.func (s.windowFirst rq) = .at pa) : s.WinPasses rq pa := by
  have hruns := windowRuns_of_block h1 h64
  refine ⟨?_, hruns, hat⟩
  rw [windowCheck_of_within hshut hstr hk hlim hle, if_neg]
  rintro (h | h | h)
  · exact h hva
  · exact h hn
  · rw [hruns, List.any_cons, List.any_nil, hat] at h
    simp only [reduceCtorEq, decide_false, Bool.or_self, Bool.false_eq_true] at h

/-- The interface of its slice is off: the request waits for it. -/
theorem serveWindow_of_off (h : s.WinPasses rq pa) (hheld : s.winHeld = []) (hblk : s.windowBlocked none rq = false)
    (hoff : s.sliceOn pa = false) :
    s.serveWindow none rq = { s.wakeSlice pa with winHeld := (s.wakeSlice pa).winHeld ++ [(none, rq)] } := by
  have hs : s.windowSleeps rq = [pa] := by
    rw [State.windowSleeps, h.runs, List.filterMap_cons, h.found]
    simp only [hoff, Bool.false_eq_true, if_false, List.filterMap_nil]
  rw [State.serveWindow, h.check, hheld, hs]
  simp only [List.any_nil, hblk, Bool.or_self, Bool.false_eq_true, if_false]
  rfl

theorem serveWindow_of_on (h : s.WinPasses rq pa) (hheld : s.winHeld = []) (hblk : s.windowBlocked none rq = false)
    (hon : s.sliceOn pa = true) (hecc : rq.ecc = []) {u : State}
    (hland : s.landBlock rq.func rq.kind (bit (s.iwinOf rq.func rq.win).1 4) pa rq.bytes = .inr u) :
    s.serveWindow none rq = { u with winAns := 0 } := by
  have hs : s.windowSleeps rq = [] := by
    rw [State.windowSleeps, h.runs, List.filterMap_cons, h.found]
    simp only [hon, if_true, List.filterMap_nil]
  have hw : s.windowLand rq = (0, u) := by
    have hb : (rq.bytes.drop (s.windowFirst rq - s.windowFirst rq)).take rq.bytes.length = rq.bytes := by
      rw [Nat.sub_self, List.drop_zero, List.take_length]
    have hecc0 (z : State) (l : List (Nat × Nat)) : z.withEccs l [] = z := rfl
    rw [State.windowLand, h.runs, State.landBlocks]
    simp only [hecc, hecc0, h.found, hb, hland, State.landBlocks]
    rfl
  rw [State.serveWindow, h.check, hheld, hs]
  simp only [List.any_nil, hblk, Bool.or_self, Bool.false_eq_true, if_false, hw]
  rfl

end Check

theorem wakeSlice_eq (s : State) (pa : Nat) : ∃ d, s.wakeSlice pa = { s with cobs := d } := by
  have hdom (z : State) (c : CobNo) (p : Power) : z.setDom (.memif c) p = z.modCob c (fun x => { x with memif := p }) := rfl
  rw [State.wakeSlice, State.wake]
  split
  · exact ⟨s.cobs, rfl⟩
  · split
    · exact ⟨s.cobs, rfl⟩
    · dsimp only
      rw [hdom, hdom]
      split
      · exact ⟨_, rfl⟩
      · exact ⟨_, rfl⟩
      · exact ⟨s.cobs, rfl⟩

/-! ## Accumulation through a window (R288, R325) -/

/-- The elements that a request of bytes at an address names. -/
def namedIx (k : AddKind) (pa n : Nat) : List Nat := (List.range (n / k.bytes)).map (fun i => pa % 64 / k.bytes + i)

/-- The operand of element `j`. -/
def givenElem (k : AddKind) (pa : Nat) (b : List Byte) (j : Nat) : Nat := leNat ((b.drop (k.bytes * j - pa % 64)).take k.bytes)

theorem bytes_dvd_64 (k : AddKind) : k.bytes ∣ 64 := by cases k <;> decide

section Accumulate

variable {s : State} {k : AddKind} {f : FuncNo} {ck : Bool} {pa : Nat} {b : List Byte}

theorem nodup_namedIx (k : AddKind) (pa n : Nat) : (namedIx k pa n).Nodup :=
  List.nodup_range.map (fun _ _ h => Nat.add_left_cancel h)

theorem mem_namedIx {n j : Nat} (hpa : pa % 64 % k.bytes = 0) (hn : n % k.bytes = 0) :
    j ∈ namedIx k pa n ↔ pa % 64 ≤ k.bytes * j ∧ k.bytes * j < pa % 64 + n := by
  obtain ⟨q, hq⟩ := Nat.dvd_of_mod_eq_zero hpa
  obtain ⟨m, hm⟩ := Nat.dvd_of_mod_eq_zero hn
  have h0 : 0 < k.bytes := by cases k <;> decide
  rw [namedIx, hq, hm, Nat.mul_div_cancel_left _ h0, Nat.mul_div_cancel_left _ h0, ← Nat.mul_add]
  rw [Nat.mul_le_mul_left_iff h0, Nat.mul_lt_mul_left h0, List.mem_map]
  constructor
  · rintro ⟨i, hi, rfl⟩
    have := List.mem_range.1 hi
    omega
  · rintro ⟨h1, h2⟩
    exact ⟨j - q, List.mem_range.2 (by omega), by omega⟩

theorem acc_ops_eq (hpa : pa % 64 % k.bytes = 0) : (List.range (b.length / k.bytes)).map (fun i =>
      (pa % 64 / k.bytes + i, leNat ((b.drop (i * k.bytes)).take k.bytes))) =
    (namedIx k pa b.length).map (fun j => (j, givenElem k pa b j)) := by
  obtain ⟨q, hq⟩ := Nat.dvd_of_mod_eq_zero hpa
  have h0 : 0 < k.bytes := by cases k <;> decide
  rw [namedIx, List.map_map]
  refine List.map_congr_left (fun i _ => ?_)
  simp only [Function.comp_apply, givenElem, hq, Nat.mul_div_cancel_left _ h0, Nat.mul_add, Nat.add_sub_cancel_left, Nat.mul_comm i]

/-- What an accumulate that lands does to memory, and one of XS64 to its accumulator. -/
theorem landBlock_acc {a : BitVec 2} (hk : atypeKind a = k) (hpa : pa % 64 % k.bytes = 0) (hn : b.length % k.bytes = 0)
    (h64 : pa % 64 + b.length ≤ 64) (hbad : s.badBurst (pa / 64 * 64) 64 = none) :
    ∃ u, s.landBlock f (.acc a) ck pa b = .inr u ∧
      (∀ x, (x < pa / 64 * 64 ∨ pa / 64 * 64 + 64 ≤ x) → u.hbm.byte x = s.hbm.byte x) ∧
      (∀ j, elemAt u.hbm (pa / 64 * 64 + k.bytes * j) k.bytes =
        if pa % 64 ≤ k.bytes * j ∧ k.bytes * j < pa % 64 + b.length
        then addElem k (elemAt s.hbm (pa / 64 * 64 + k.bytes * j) k.bytes) (givenElem k pa b j)
        else elemAt s.hbm (pa / 64 * 64 + k.bytes * j) k.bytes) ∧
      (k = .xs → SMap.get {} (u.slice (sliceOf pa)).acc (accIx f ck) =
        (namedIx k pa b.length).foldl (fun z j => z.add (elemAt s.hbm (pa / 64 * 64 + j * k.bytes) k.bytes) (givenElem k pa b j))
          (SMap.get {} (s.slice (sliceOf pa)).acc (accIx f ck))) := by
  obtain ⟨-, hbyte, helem, hacc⟩ := addElems_spec (k := k) (f := f) (ck := ck) (pa := pa / 64 * 64) (givenElem k pa b)
    (namedIx k pa b.length) (nodup_namedIx k pa b.length) (s.hold (pa / 64 * 64))
  rw [hbm_hold] at hbyte
  simp only [hbm_hold] at helem hacc
  rw [acc_hold, sliceOf_block] at hacc
  refine ⟨_, ?_, fun x hx => hbyte x (fun i hi => ?_), fun j => ?_, hacc⟩
  · unfold State.landBlock State.collierAdd
    simp only [hk, hbad, acc_ops_eq hpa]
  · obtain ⟨h1, h2⟩ := (mem_namedIx hpa hn).1 hi
    have h3 : k.bytes * i + k.bytes ≤ 64 := by
      obtain ⟨q, hq⟩ := bytes_dvd_64 k
      have h4 : k.bytes * i < k.bytes * q := by omega
      have := Nat.mul_le_mul_left k.bytes (Nat.succ_le_of_lt (Nat.lt_of_mul_lt_mul_left h4))
      rw [Nat.mul_succ] at this
      omega
    rw [Nat.mul_comm i]
    omega
  · rw [Nat.mul_comm k.bytes j, helem j]
    simp only [mem_namedIx hpa hn, Nat.mul_comm k.bytes j]

end Accumulate

/-! ## The statement -/

/-- The request's kind is that of its window. -/
theorem kindMatches_iff (k : WinKind) (w : DWord) : kindMatches k w = true ↔ match k with
    | .write => w.getLsbD 1 = false
    | .acc a => w.getLsbD 1 = true ∧ a = w.extractLsb' 2 2 ∧ a ≠ 3
    | .claim => w.getLsbD 1 = true ∧ w.extractLsb' 2 2 = (2 : BitVec 2) := by
  cases k with
  | write => simp only [kindMatches, bit, Bool.not_eq_true']
  | acc a =>
    simp only [kindMatches, Bool.and_eq_true, decide_eq_true_eq, and_assoc]
    rfl
  | claim =>
    simp only [kindMatches, Bool.and_eq_true, decide_eq_true_eq]
    rfl

theorem winElem_eq (k : WinKind) : winElem k = match k with
    | .acc a => if a = 2 then 8 else 4
    | _ => 1 := by
  cases k with
  | acc a =>
    rw [winElem]
    revert a
    decide
  | _ => rfl

theorem keep_eq (f : FuncNo) (vpn : BitVec 36) (all : Bool) (g : FuncNo) (lvl covers : Nat) :
    gone f vpn all g lvl covers = decide (g = f ∧ (all = true ∨ vpn.toNat / 2 ^ (9 * (4 - lvl)) = covers)) := by
  rw [gone, Bool.eq_iff_iff]
  simp only [Bool.and_eq_true, Bool.or_eq_true, decide_eq_true_eq]

/-- The elements named in a block of XS64, as a part of the eight. -/
theorem namedIx_xs {pa n : Nat} (hpa : pa % 64 % 8 = 0) (hn : n % 8 = 0) (h64 : pa % 64 + n ≤ 64) :
    (List.range 8).filter (fun k => decide (pa % 64 ≤ 8 * k ∧ 8 * k < pa % 64 + n)) = namedIx .xs pa n := by
  have hall : ∀ q < 9, ∀ m < 9, q + m ≤ 8 → (List.range 8).filter (fun k => decide (q ≤ k ∧ k < q + m)) =
      (List.range m).map (fun i => q + i) := by decide
  rw [namedIx, show AddKind.bytes .xs = 8 from rfl, ← hall (pa % 64 / 8) (by omega) (n / 8) (by omega) (by omega)]
  refine List.filter_congr (fun k _ => ?_)
  rw [decide_eq_decide]
  omega

theorem acc_ckAdd (s : State) (f : FuncNo) (ck : Bool) (pa : Nat) (claim : DWord) :
    SMap.get {} ((s.ckAdd f ck pa claim).slice (sliceOf pa)).acc (accIx f ck) =
      { SMap.get {} (s.slice (sliceOf pa)).acc (accIx f ck) with
        claim := ((SMap.get {} (s.slice (sliceOf pa)).acc (accIx f ck)).claim + claim.toNat % mersenne) % mersenne
        nclaim := satAdd (SMap.get {} (s.slice (sliceOf pa)).acc (accIx f ck)).nclaim 1 } := by
  rw [State.ckAdd, State.slice, State.modSlice, SMap.get_modify_self, SMap.get_modify_self]
  rfl

theorem elem_of_acc {kd : WinKind} {el : Nat} {a : BitVec 2} {k : AddKind} (hel : winElem kd = el) (hk : kd = .acc a)
    (ha : atypeKind a = k) : el = k.bytes := by
  rw [← hel, hk, ← ha, winElem]

/-- Settles O35: removal through the caches it filters, a window request through its checks and the block that lands. -/
theorem windowsAndRemoval : Obligations.WindowsAndRemoval := by
  unfold Obligations.WindowsAndRemoval
  intro s src c d vpn f all rq pa e ch rest l
  extract_lets w n va st mask shut stranger matched limit within el passes answers b at_ given named i a old p lands goes keep keepN
  have hel : winElem rq.kind = el := winElem_eq rq.kind
  have hmatch : kindMatches rq.kind w.1 = true ↔ matched := kindMatches_iff _ _
  have hans {x : Byte} (h : s.windowCheck rq = some x) : answers x := by
    change Host.Outcome.next (s.serveWindow none rq) = _
    rw [State.serveWindow, h]
    rfl
  have hpass (h : passes) : s.WinPasses rq pa ∧ va % 64 = pa % 64 ∧ pa < hbmEnd := by
    obtain ⟨⟨h1, h2, h3, h4, h5⟩, h6, h7, h8, h9, h10⟩ := h
    obtain ⟨g1, g2⟩ := windowAt_at h10
    rw [← hel] at h6 h7
    exact ⟨winPasses_of h1 h2 (hmatch.2 h3) h4 h5 h6 h7 h8 h9 h10, g2.symm, g1⟩
  refine ⟨fun ha hon hsrc => ?_, fun h => ?_, fun h => hans (windowCheck_of_shut h), fun h h1 => hans ?_, fun h h1 h2 => hans ?_,
    fun h h1 h2 h3 => hans ?_, fun h hne => hans ?_, fun h h1 h2 h3 => hans ?_, fun h hheld hblk => ⟨fun hoff => ?_, fun hon hecc => ?_⟩,
    fun hin hc hne => ?_, fun h => exec_cxlLinkDown_of_idle h⟩
  · obtain ⟨hb, hf, hv, hall, h42⟩ := winv_fields all f vpn
    obtain ⟨u, hu, hhbm, hcob, hother, hheng, hhusk, htile⟩ := writeWinv_of_busy (s := s) (c := c) hb hf hv hall
    have hleaf : (fun l => !(goneLeaf f vpn all l)) = keep := funext fun l => congrArg _ (keep_eq f vpn all _ _ _)
    have hnode : (fun l => !(goneNode f vpn all l)) = keepN := funext fun l => congrArg _ (keep_eq f vpn all _ _ _)
    rw [hleaf] at hheng
    rw [hnode] at hhusk
    have htlb : (u.cob c).tlb = ((s.cob c).tlb.map (fun p => (p.1, p.2.filter keep))).filter (fun p => p.2 ≠ []) := by
      rw [hcob, ← hleaf]
      rfl
    refine ⟨u, (exec_winv_of_on ha hon hsrc).trans (congrArg _ hu), hhbm, by rw [hcob]; rfl, by rw [hcob]; exact h42, by rw [hcob]; rfl,
      by rw [htlb, flatMap_filter_sets], ?_, by rw [hheng, flatMap_filter_sets], by rw [hhusk, flatMap_filter_sets], hother d,
      fun t => ⟨fun ht => ?_, fun ht => (htile t).trans (if_neg ht)⟩⟩
    · rw [hcob, ← hnode]
      rfl
    · have e1 : u.tile t = (s.tile t).forget f vpn all := (htile t).trans (if_pos ht)
      refine ⟨?_, fun h => ?_⟩
      · rw [e1, Tile.tlb_forget, hleaf]
      · rw [State.th, e1, Tile.th_forget]
        rfl
  · exact ⟨_, congrArg Host.Outcome.next (endWinv_of_done h), rfl, congrArg Cob.winvBusy (State.cob_modCob_self s c _)⟩
  · rw [windowCheck_of_open h]
    exact if_pos h1
  · rw [windowCheck_of_open h, if_neg (show ¬s.WinStranger rq from h1)]
    exact if_pos (Bool.eq_false_iff.2 (mt hmatch.1 h2))
  · rw [windowCheck_of_open h, if_neg (show ¬s.WinStranger rq from h1), if_neg (by rw [hmatch.2 h2]; decide)]
    exact if_pos h3
  · obtain ⟨h1, h2, h3, h4, h5⟩ := h
    rw [windowCheck_of_within h1 h2 (hmatch.2 h3) h4 h5, hel]
    exact if_pos (hne.imp_right Or.inl)
  · obtain ⟨g1, g2, g3, g4, g5⟩ := h
    rw [windowCheck_of_within g1 g2 (hmatch.2 g3) g4 g5, windowRuns_of_block h1 h2]
    refine if_pos (Or.inr (Or.inr ?_))
    rw [List.any_cons, show s.windowAt rq.func (s.windowFirst rq) = .fault from h3]
    rfl
  · obtain ⟨hp, -, -⟩ := hpass h
    obtain ⟨z, hz⟩ := wakeSlice_eq s pa
    refine ⟨_, congrArg Host.Outcome.next (serveWindow_of_off hp hheld hblk hoff), ?_⟩
    rw [hz]
    exact ⟨by rw [hheld]; rfl, rfl, rfl, rfl⟩
  · obtain ⟨hp, hmod, hend⟩ := hpass h
    obtain ⟨-, h6, h7, h8, h9, -⟩ := h
    rw [hmod] at h9
    have hpa : pa % 64 % el = 0 := by
      rw [← hmod]
      obtain ⟨k, hk⟩ : el ∣ 64 := by
        rw [← hel]
        cases hk : rq.kind with
        | acc a => exact bytes_dvd_64 _
        | _ => exact ⟨64, rfl⟩
      rw [Nat.mod_mod_of_dvd _ ⟨k, hk⟩]
      exact h6
    have hserve {u : State} (hl : s.landBlock rq.func rq.kind (bit w.1 4) pa rq.bytes = .inr u) :
        exec (.inboundWindowRequest rq) s = .next { u with winAns := 0 } :=
      congrArg Host.Outcome.next (serveWindow_of_on hp hheld hblk hon hecc hl)
    have hadd (hbad : s.badBurst b 64 = none) {a : BitVec 2} {k : AddKind} (hk : rq.kind = .acc a) (ha : atypeKind a = k) :=
      landBlock_acc (s := s) (f := rq.func) (ck := bit w.1 4) (b := rq.bytes) ha (elem_of_acc hel hk ha ▸ hpa) (elem_of_acc hel hk ha ▸ h7) h9 hbad
    refine ⟨fun hk hwb => ?_, fun hk h8 => ?_, fun hbad => ⟨fun hk => ?_, fun hk => ?_, fun hk => ?_⟩⟩
    · have hl : s.landBlock rq.func rq.kind (bit w.1 4) pa rq.bytes = .inr ((s.hbmWrite pa rq.bytes).touchReads [(pa, n)]) := by
        rw [hk]
        simp only [State.landBlock, show s.writeBurst pa rq.bytes.length = none from hwb]
        rfl
      have hbyte (x : Nat) : ((s.hbmWrite pa rq.bytes).touchReads [(pa, n)]).hbm.byte x =
          if pa ≤ x ∧ x < pa + n then rq.bytes.getD (x - pa) 0 else s.hbm.byte x := by
        rw [hbm_touchReads]
        exact Memory.byte_setBytes _ _ _ _
      refine ⟨_, hserve hl, rfl, fun x hx => (hbyte x).trans (if_neg ?_), hbyte⟩
      omega
    · have hl : s.landBlock rq.func rq.kind (bit w.1 4) pa rq.bytes = .inr (s.ckAdd rq.func (bit w.1 4) pa (leBits 64 rq.bytes)) := by
        rw [hk]
        rfl
      refine ⟨_, hserve hl, rfl, fun _ _ => rfl, rfl, ?_⟩
      exact acc_ckAdd s rq.func (bit w.1 4) pa (leBits 64 rq.bytes)
    · obtain ⟨u, hl, hout, helem, -⟩ := hadd hbad hk (show atypeKind 0 = .i32 from rfl)
      refine ⟨_, hserve (hk ▸ hl), rfl, hout, fun j _ => ?_⟩
      have he : at_ 4 u.hbm j = BitVec.ofNat 32 (if named 4 j = true then _ else elemAt s.hbm (b + 4 * j) 4) :=
        congrArg (BitVec.ofNat 32) ((helem j).trans (if_congr decide_eq_true_iff.symm rfl rfl))
      refine he.trans ?_
      split
      · exact addElem_i32 _ _
      · exact (BitVec.add_zero _).symm
    · obtain ⟨u, hl, hout, helem, -⟩ := hadd hbad hk (show atypeKind 1 = .f32 from rfl)
      refine ⟨_, hserve (hk ▸ hl), rfl, hout, fun j _ => ?_⟩
      have he : at_ 4 u.hbm j = BitVec.ofNat 32 (if named 4 j = true then _ else elemAt s.hbm (b + 4 * j) 4) :=
        congrArg (BitVec.ofNat 32) ((helem j).trans (if_congr decide_eq_true_iff.symm rfl rfl))
      refine he.trans ?_
      split
      · exact addElem_f32 _ _
      · rfl
    · obtain ⟨u, hl, hout, helem, hacc⟩ := hadd hbad hk (show atypeKind 2 = .xs from rfl)
      have h8 : el = 8 := by rw [← hel, hk]; rfl
      rw [h8] at hpa h7
      refine ⟨_, hserve (hk ▸ hl), rfl, hout, fun j _ => ?_, fun hrecv => ?_⟩
      · have he : at_ 8 u.hbm j = BitVec.ofNat 64 (if named 8 j = true then _ else elemAt s.hbm (b + 8 * j) 8) :=
          congrArg (BitVec.ofNat 64) ((helem j).trans (if_congr decide_eq_true_iff.symm rfl rfl))
        refine he.trans ?_
        split
        · exact addElem_xs _ _
        · exact (BitVec.add_zero _).symm
      · have hsum := (hacc rfl).trans (Accum.foldl_add _ (givenElem .xs pa rq.bytes) _ old hrecv)
        have hix : (List.range 8).filter (fun k => named 8 k) = namedIx .xs pa n := namedIx_xs hpa h7 h9
        refine ⟨(congrArg Accum.nelem hsum).trans ?_, (congrArg Accum.recv hsum).trans ?_⟩
        · rw [namedIx, List.length_map, List.length_range]
          rfl
        · rw [hix]
          rfl
  · refine ⟨_, exec_cxlCompletion_of_waiting hin hc, ?_, ?_⟩
    · rw [eng_modEng_self]
      dsimp only
      rw [hin, List.map_cons, if_pos rfl]
      refine congrArg _ (Eq.trans (List.map_congr_left (fun k hk => ?_)) (List.map_id rest))
      exact if_neg (hne k hk)
    · cases e <;> rfl

end Sys2Proof.Machine
end

section
/-! What a tile's copy engine does between chunks: the ends of descriptors, halts, pauses (R309–R315). -/
namespace Sys2Proof.Machine

open Sys2Proof.Safety

/-! ## Changes of one engine -/

/-- Of state `s` only the engine of tile `t` has changed, to `e`. -/
structure EngineOnly (s u : State) (t : TileId) (e : Engine) : Prop where
  only : OnlyTile s u t
  tile : u.tile t = { s.tile t with eng := e }

section EngineOnly

variable {s u : State} {t : TileId} {e : Engine}

theorem EngineOnly.refl (s : State) (t : TileId) : EngineOnly s s t (s.tile t).eng := ⟨State.onlyTile_refl _ _, rfl⟩

theorem EngineOnly.eng (h : EngineOnly s u t e) : u.eng (.tile t) = e := congrArg Tile.eng h.tile

theorem EngineOnly.mod (h : EngineOnly s u t e) (g : Engine → Engine) : EngineOnly s (u.modEng (.tile t) g) t (g e) := by
  refine ⟨OnlyTile.trans h.only (State.onlyTile_modTile _ _ _), ?_⟩
  rw [State.modEng]
  dsimp only
  rw [State.tile_modTile_self, h.tile]

/-- The engine ends the descriptor with a completion message. -/
theorem EngineOnly.ends (h : EngineOnly s u t e) (hj : e.jobs = []) (hs : e.xfer.sends = true) (st : Byte) (n : Nat) :
    EngineOnly s (u.endDesc (.tile t) st n) t { e with ending := true, out := e.out ++ [e.xfer.completion st n] } := by
  have hdone : u.copyDone (.tile t) st n = u := by
    rw [State.copyDone, h.eng, hj]
  rw [State.endDesc, h.eng, hdone]
  rw [if_pos hs]
  exact h.mod _

/-- An engine at rest, or one that neither finishes its descriptor nor waits to halt or to pause, goes on as it is. -/
theorem engSettle_of_going (he : u.eng (.tile t) = e) (hgo : e.st ≠ .running ∨ e.halting = none ∧
    ¬(e.active = true ∧ e.ending = false ∧ e.inflight = [] ∧ e.xfer.chunks ≤ e.next) ∧
    (e.ending = true → ∃ m ∈ e.out, m.fault = false) ∧ e.pausing = false) : u.engSettle (.tile t) = u := by
  rw [State.engSettle, he]
  dsimp only
  rcases hgo with h | ⟨h1, h2, h3, h4⟩
  · rw [if_pos h]
  · by_cases hrun : e.st = .running
    · have hno : ¬(e.active && !e.ending && decide (e.inflight = []) && decide (e.xfer.chunks ≤ e.next)) = true := by
        simp only [Bool.and_eq_true, Bool.not_eq_true', decide_eq_true_eq, and_assoc]
        exact h2
      have hmsg : ¬(decide (e.st = .running) && e.ending && e.out.all (fun m => m.fault)) = true := by
        simp only [Bool.and_eq_true, List.all_eq_true]
        rintro ⟨⟨-, k⟩, hall⟩
        obtain ⟨m, hm, hf⟩ := h3 k
        exact absurd (hall m hm) (by rw [hf]; decide)
      rw [if_neg (not_not_intro hrun), h1]
      dsimp only
      rw [if_neg hno, he, if_neg hmsg, he, h4]
      rfl
    · rw [if_pos hrun]

/-- An engine whose last message has left takes the next descriptor. -/
theorem EngineOnly.pops (h : EngineOnly s u t e) (hrun : e.st = .running) (hh : e.halting = none) (hend : e.ending = true)
    (hout : ∀ m ∈ e.out, m.fault = true) (hp : e.pausing = false) :
    EngineOnly s (u.engSettle (.tile t)) t { e.pop with st := if e.pop.count = 0 then .idle else .running } := by
  have hno : ¬(e.active && !e.ending && decide (e.inflight = []) && decide (e.xfer.chunks ≤ e.next)) = true := by
    rw [hend]
    simp only [Bool.not_true, Bool.and_false, Bool.false_and, Bool.false_eq_true, not_false_eq_true]
  have hmsg : (decide (e.st = .running) && e.ending && e.out.all (fun m => m.fault)) = true := by
    simp only [Bool.and_eq_true, List.all_eq_true, decide_eq_true_eq]
    exact ⟨⟨hrun, hend⟩, hout⟩
  have hm := h.mod (fun g => let p := g.pop; { p with st := if p.count = 0 then .idle else .running })
  rw [State.engSettle, h.eng]
  dsimp only
  rw [if_neg (not_not_intro hrun), hh]
  dsimp only
  rw [if_neg hno, h.eng, if_pos hmsg, hm.eng, if_neg]
  · exact hm
  · simp only [Engine.pop, hp, Bool.false_and, Bool.false_eq_true, not_false_eq_true]

/-- An engine whose last chunk is finished ends its descriptor with a completion message. -/
theorem EngineOnly.finishes (h : EngineOnly s u t e) (hrun : e.st = .running) (hh : e.halting = none) (hact : e.active = true)
    (hend : e.ending = false) (hin : e.inflight = []) (hle : e.xfer.chunks ≤ e.next) (hj : e.jobs = []) (hs : e.xfer.sends = true)
    (hp : e.pausing = false) : EngineOnly s (u.engSettle (.tile t)) t
      { e with ending := true, out := e.out ++ [e.xfer.completion stDone e.xfer.len] } := by
  have h1 := h.ends hj hs stDone e.xfer.len
  have hall : (e.out ++ [e.xfer.completion stDone e.xfer.len]).all (fun m => m.fault) = false := by
    rw [List.all_append, List.all_cons]
    simp only [Xfer.completion, Bool.false_and, Bool.and_false]
  rw [State.engSettle, h.eng]
  dsimp only
  rw [if_neg (not_not_intro hrun), hh]
  simp only [hact, hend, hin, hle, Bool.not_false, Bool.and_self, decide_true, if_true, h1.eng, hall, Bool.and_false, Bool.false_eq_true,
    if_false, hp, Bool.false_and]
  simp only [hact, hin, hp, hh] at h1
  exact h1

/-- An engine with nothing in flight and nothing to end pauses. -/
theorem EngineOnly.pauses (h : EngineOnly s u t e) (hrun : e.st = .running) (hh : e.halting = none) (hlt : e.next < e.xfer.chunks)
    (hend : e.ending = false) (hin : e.inflight = []) (hp : e.pausing = true) :
    EngineOnly s (u.engSettle (.tile t)) t { e with st := .paused, pausing := false, active := false } := by
  have h1 := h.mod (fun g => { g with st := .paused, pausing := false, active := false })
  have e1 : u.engSettle (.tile t) = u.modEng (.tile t) (fun g => { g with st := .paused, pausing := false, active := false }) := by
    rw [State.engSettle, h.eng]
    dsimp only
    rw [if_neg (not_not_intro hrun), hh]
    simp only [hend, hin, hp, hrun, hh, h.eng, Nat.not_le.2 hlt, Bool.not_false, Bool.and_false, Bool.false_and, decide_false, decide_true,
      Bool.false_eq_true, if_false, ne_eq, reduceCtorEq, not_false_eq_true, Bool.and_self, Option.isNone_none, if_true]
  rw [e1]
  exact h1

/-- The fault message of an engine of tile `t` that halts at chunk `k` (R313). -/
def Engine.faultMsg (e : Engine) (t : TileId) (k : Nat) (cause : BitVec 4) (va : VAddr) (side part : Bool) : EngMsg :=
  { fault := true, handle := e.fqh, tag := cause.setWidth 16,
    payload := [(0#4) ++ e.xfer.lv ++ b2v side ++ b2v part ++ (0#3) ++ (0#1) ++ cause ++ (0#4) ++ t,
                bits va 0 32, (0#16) ++ (bits va 32 16 : BitVec 16), BitVec.ofNat 32 k] }

/-- The engine halted at chunk `k` (R313, R314). -/
def Engine.halted (e : Engine) (t : TileId) (k : Nat) (cause : BitVec 4) (va : VAddr) (side part : Bool) : Engine :=
  { e with st := .halted, next := k, cause := cause, fva := va, part := part, halting := none, pausing := false,
           out := e.out ++ [e.faultMsg t k cause va side part] }

/-- An engine with nothing in flight halts where it was to halt. -/
theorem EngineOnly.halts {k : Nat} {c : BitVec 4} {va : VAddr} {sd p : Bool} (h : EngineOnly s u t e) (hrun : e.st = .running)
    (hh : e.halting = some (k, c, va, sd, p)) (hin : e.inflight = []) :
    OnlyTile s (u.engSettle (.tile t)) t ∧
      (u.engSettle (.tile t)).tile t = { s.tile t with ceflt := true, eng := e.halted t k c va sd p } := by
  have hset : u.engSettle (.tile t) = u.haltAt (.tile t) k c va sd p := by
    have heng : (u.haltAt (.tile t) k c va sd p).eng (.tile t) = e.halted t k c va sd p := by
      rw [State.haltAt, h.eng, eng_modEng_self]
      refine congrArg (fun g : Engine => { g with
        st := .halted
        next := k
        cause := c
        fva := va
        part := p
        halting := none
        pausing := false
        out := g.out ++ [e.faultMsg t k c va sd p] }) ?_
      exact (congrArg Tile.eng (State.tile_modTile_self u t _)).trans h.eng
    rw [State.engSettle, h.eng]
    dsimp only
    rw [if_neg (not_not_intro hrun), hh]
    dsimp only
    have hst : (e.halted t k c va sd p).st = .halted := rfl
    have hpause : (e.halted t k c va sd p).pausing = false := rfl
    simp only [hin, if_true, heng, hst, hpause, reduceCtorEq, decide_false, Bool.false_and, Bool.false_eq_true, if_false]
  rw [hset, State.haltAt, h.eng]
  refine ⟨OnlyTile.trans (OnlyTile.trans h.only (State.onlyTile_modTile _ _ _)) (State.onlyTile_modTile _ _ _), ?_⟩
  rw [State.modEng]
  dsimp only
  rw [State.tile_modTile_self, State.tile_modTile_self, h.tile]
  rfl

end EngineOnly

/-! ## The head descriptor -/

section Head

variable {s : State} {t : TileId} {f : FuncNo}

/-- The end of a descriptor that sends no message sets CEDONE, and the engine takes the next. -/
theorem endDesc_silent {u : State} {e : Engine} (h : EngineOnly s u t e) (hj : e.jobs = []) (hq : e.xfer.ncq = true) (st : Byte) (n : Nat)
    (hrun : e.st = .running) (hh : e.halting = none) (hout : ∀ m ∈ e.out, m.fault = true) (hp : e.pausing = false) :
    let w := (u.endDesc (.tile t) st n).engSettle (.tile t)
    (w.tile t).cedone = true ∧
      (w.tile t).eng = { e.pop with st := if e.pop.count = 0 then .idle else .running } := by
  have hdone : u.copyDone (.tile t) st n = u := by
    rw [State.copyDone, h.eng, hj]
  have hsend : e.xfer.sends = false := by rw [Xfer.sends, hq]; rfl
  have hm := h.mod (fun g => { g with ending := true, cqerr := if !e.xfer.ncq then satAdd g.cqerr 1 else g.cqerr })
  have he : (u.endDesc (.tile t) st n) = (u.modEng (.tile t) (fun g =>
      { g with ending := true, cqerr := if !e.xfer.ncq then satAdd g.cqerr 1 else g.cqerr })).setDone (.tile t) := by
    rw [State.endDesc, h.eng, hdone, if_neg (by rw [hsend]; decide)]
  rw [he]
  generalize hu1 : u.modEng (.tile t) (fun g => { g with ending := true, cqerr := if !e.xfer.ncq then satAdd g.cqerr 1 else g.cqerr }) = u1 at hm
  have hd : (u1.setDone (.tile t)).tile t = { u1.tile t with cedone := true } := State.tile_modTile_self _ _ _
  have h2 : EngineOnly (u1.setDone (.tile t)) (u1.setDone (.tile t)) t
      { e with ending := true, cqerr := if !e.xfer.ncq then satAdd e.cqerr 1 else e.cqerr } :=
    ⟨State.onlyTile_refl _ _, by rw [hd, hm.tile]⟩
  obtain ⟨-, htile⟩ := h2.pops hrun hh rfl hout hp
  dsimp only
  rw [htile, hd, hq]
  exact ⟨rfl, rfl⟩

end Head

end Sys2Proof.Machine
end

section
/-! A tile engine's descriptors and chunks (R307, R309, R310, R313), and the proof of O31. -/
namespace Sys2Proof.Machine

open Sys2Proof.Safety

/-! ## The start of a descriptor (R307) -/

section Start

variable {s : State} {t : TileId} {f : FuncNo}

theorem validate_of_badFormat {x : Xfer} (h : x.badFormat = true) : s.validate (.tile t) f x = some 3 := if_pos h

theorem badFormat_of {x : Xfer} (h : x.junk = true ∨ 4 ≤ x.mode ∨ x.mode = 1 ∧ x.atype = 3 ∨ 2 ^ 48 ≤ x.src ∨ 2 ^ 48 ≤ x.dst) :
    x.badFormat = true := by
  have hacc : x.mode = 1 ∧ x.atype = 3 ↔ (x.acc && decide (x.atype = 3)) = true := by
    rw [Bool.and_eq_true, Xfer.acc, decide_eq_true_eq, decide_eq_true_eq]
  unfold Xfer.badFormat
  simp only [Bool.or_eq_true, decide_eq_true_eq]
  rw [hacc] at h
  tauto

theorem validate_of_empty {x : Xfer} (h : x.badFormat = false) (h0 : x.len = 0) : s.validate (.tile t) f x = some 0 := by
  unfold State.validate
  exact (if_neg (by rw [h]; decide)).trans (if_pos h0)

theorem exec_descriptorStart_of_ready (hon : s.tileOn t = true) (hz : (s.tile t).zeroed = true) (hf : (s.tile t).func = some f)
    (hsl : s.checkSleeps (.tile t) f (s.tile t).eng.xfer = none) : exec (.descriptorStart (.tile t)) s = .next (s.descStart (.tile t)) := by
  change execDescriptorStart (.tile t) s = _
  have hr : s.engOn (.tile t) = true := by rw [State.engOn, State.tileReady, hon, hz]; rfl
  rw [execDescriptorStart, hr, show s.engFunc (.tile t) = some f from hf, Option.bind_some,
    show (s.eng (.tile t)).xfer = (s.tile t).eng.xfer from rfl, hsl]
  rfl

theorem descStart_of_free {g : Engine} (hg : (s.tile t).eng = g) (hf : (s.tile t).func = some f) (hj : g.jobs = []) (hrun : g.st = .running)
    (hact : g.active = false) (hend : g.ending = false) (hq : g.qcnt ≠ 0) (hin : g.inflight = []) (hout : ∀ m ∈ g.out, m.fault = true)
    (hhold : SMap.get [] g.hold 0 = []) : s.descStart (.tile t) = match s.validate (.tile t) f g.xfer with
      | none => (s.modEng (.tile t) (fun g => { g with active := true })).engSettle (.tile t)
      | some st => ((s.modEng (.tile t) (fun g => { g with active := true })).endDesc (.tile t) st 0).engSettle (.tile t) := by
  subst hg
  have hcount : (s.tile t).eng.count ≠ 0 := by rw [Engine.count, if_pos hj]; exact hq
  have hnone : (s.tile t).eng.out.any (fun m => !m.fault) = false := by
    rw [List.any_eq_false]
    intro m hm
    rw [hout m hm]
    decide
  rw [State.descStart, show s.engFunc (.tile t) = some f from hf]
  dsimp only
  rw [show s.eng (.tile t) = (s.tile t).eng from rfl]
  refine (if_neg ?_).trans ?_
  · simp only [hrun, hact, hend, hcount, hin, hnone, hhold, ne_eq, not_true_eq_false, decide_false, Bool.or_self, Bool.false_eq_true,
      not_false_eq_true]
  · rfl

end Start

/-! ## The start of a chunk (R309, R313) -/

theorem withEccs_nil (s : State) (l : SliceEcc) : s.withEccs [] l = s := by
  unfold State.withEccs
  induction l with
  | nil => rfl
  | cons p l ih => rw [List.foldl_cons]; exact ih

section Chunk

variable {s : State} {t : TileId} {f : FuncNo} {x : Xfer}

theorem cutPages_one {a b n : Nat} (k : Nat) (hn : 1 ≤ n) (ha : a % 4096 + n ≤ 4096) (hb : b % 4096 + n ≤ 4096) :
    cutPages (k + 1) a b n = [(a, b, n)] := by
  have hnil (k a b : Nat) : cutPages k a b 0 = [] := by
    cases k with
    | zero => rfl
    | succ k => rw [cutPages, if_pos rfl]
  have hm : min n (min (4096 - a % 4096) (4096 - b % 4096)) = n := by omega
  rw [cutPages, if_neg (by omega), hm]
  dsimp only
  rw [Nat.sub_self, hnil]

theorem rowAt_zero {a : Nat} (ha : a < 2 ^ 64) : rowAt a 0 0 0 = a := by
  rw [rowAt]
  simp only [zero_mul, add_zero, Nat.cast_zero]
  omega

/-- The one run of a plain copy of one chunk within a page on each side. -/
theorem runs_one {ix : Nat → Nat} (hrow : x.row = 0) (h1 : 1 ≤ x.len) (h4 : x.len ≤ 4096) (hs : x.src < 2 ^ 64) (hd : x.dst < 2 ^ 64)
    (hmode : x.mode = 0) (hsp : x.src % 4096 + x.len ≤ 4096) (hdp : x.dst % 4096 + x.len ≤ 4096) :
    x.runs 0 ix = [(x.src, x.dst, x.len)] := by
  have hr : x.rowLen = x.len := if_pos hrow
  have hstride (b : Bool) : x.stride b = 0 := if_pos hrow
  have hp : min (4096 * 0 + 4096) x.len = x.len := by omega
  have hone : ceilDiv x.len x.len = 1 := by
    rw [ceilDiv, show x.len + x.len - 1 = x.len - 1 + x.len by omega, Nat.add_div_right _ (by omega), Nat.div_eq_of_lt (by omega)]
  simp only [Xfer.runs, hr, hstride, hp, hmode, hone, Nat.mul_zero, Nat.zero_div, Nat.sub_zero, List.range_one, List.map_singleton,
    List.flatMap_singleton, Nat.zero_mul, Nat.zero_add, Nat.one_mul, Nat.sub_self, Nat.max_self, Nat.min_self]
  rw [if_neg (by decide), if_neg (by decide), rowAt_zero hs, rowAt_zero hd, cutPages_one 3 h1 hsp hdp]

/-- The start of a chunk with no list: step 2 decides. -/
theorem exec_chunkStart_of_plain {ecc : SliceEcc} {g : Engine} (hon : s.tileOn t = true) (hz : (s.tile t).zeroed = true)
    (hf : (s.tile t).func = some f) (hg : (s.tile t).eng = g) (hrun : g.st = .running) (hact : g.active = true) (hend : g.ending = false)
    (hp : g.pausing = false) (hh : g.halting = none) (hin : g.inflight = []) (hn : g.next = 0) (hk : 1 ≤ g.xfer.chunks)
    (hlist : g.xfer.listPart 0 = none) {a b n : Nat} (hruns : ∀ ix, g.xfer.runs 0 ix = [(a, b, n)]) :
    exec (.chunkStart (.tile t) ecc) s = .next (
      match s.step2 (.tile t) f g.xfer ecc 0 [(a, b, n)] [] with
      | (.fault c va side, u) => u.chunkFault (.tile t) 0 c va side
      | (.bad pa, u) => (u.hbmFail 3 (pa / 32) f (some t) none none).chunkBroken (.tile t) 0 none
      | (.off pa, _) => s.wakeSlice pa
      | (.ok ps, u) => s.chunkGo u (.tile t) f g.xfer 0 [] [(a, b, n)] ps ecc) := by
  subst hg
  have hr : s.engOn (.tile t) = true := by rw [State.engOn, State.tileReady, hon, hz]; rfl
  have hl : s.chunkList (.tile t) (s.tile t).eng.xfer 0 = (.bytes [], s) := by rw [State.chunkList, hlist]
  have hgo : ¬((!(s.engOn (.tile t)) || (s.tile t).eng.st ≠ .running || !(s.tile t).eng.active || (s.tile t).eng.ending || (s.tile t).eng.pausing ||
      (s.tile t).eng.halting.isSome || 8 ≤ (s.tile t).eng.inflight.length || (s.tile t).eng.xfer.chunks ≤ 0) = true) := by
    simp only [hr, hrun, hact, hend, hp, hh, hin, List.length_nil, Bool.not_true, ne_eq, not_true_eq_false, decide_false, Option.isSome_none,
      Bool.or_false, Nat.not_le.2 hk, Nat.reduceLeDiff, Bool.false_eq_true, not_false_eq_true]
  change execChunkStart (.tile t) ecc s = _
  rw [execChunkStart, show s.engFunc (.tile t) = some f from hf]
  dsimp only
  rw [show s.eng (.tile t) = (s.tile t).eng from rfl, hn, hin, show (0 : Nat) + ([] : List Chunk).length = 0 from rfl, ← hin, if_neg hgo, hl]
  simp only [hruns, Nat.mul_zero]
  generalize s.step2 (.tile t) f (s.tile t).eng.xfer ecc 0 [(a, b, n)] [] = r
  obtain ⟨l, u⟩ := r
  cases l <;> rfl

section Plain

variable {o n : Nat} {ecc : SliceEcc} (hx : x.mode = 0) (hhs : x.hostSrc = false) (hhd : x.hostDst = false)
include hx

theorem listPart_of_plain (hck : x.ck = false) : x.listPart 0 = none := by
  have hix : x.indexed = false := by rw [Xfer.indexed, hx]; rfl
  rw [Xfer.listPart, hix, hck]
  rfl

theorem strays_of_plain (dst : Bool) (va off : Nat) : s.strays (.tile t) x dst va off = false := by
  rw [State.strays, hx]
  cases dst <;> rfl

/-- A source outside every window (R313, cause 7). -/
theorem engAddr_of_outside {a : Nat} (ha : a < 0x100000000) (hres : s.resolveLocal t a n false = none) :
    s.engAddr (.tile t) f a n false x 0 ecc = (.fault 7, s) := by
  rw [State.engAddr]
  simp only [if_pos ha, strays_of_plain hx, Bool.false_eq_true, if_false, hres]

/-- A source in the own scratchpad. -/
theorem engAddr_of_own {a : Nat} (ha : a < 0x100000000) (hres : s.resolveLocal t a n false = some (.own o)) :
    s.engAddr (.tile t) f a n false x 0 ecc = (.to (.own o), s) := by
  rw [State.engAddr]
  simp only [if_pos ha, strays_of_plain hx, Bool.false_eq_true, if_false, hres, Bool.false_and]

/-- A destination in HBM whose leaf the tile's cache holds. -/
theorem engAddr_of_leaf {b : Nat} {l : Leaf} (hb : 0x100000000 ≤ b) (hlt : b + n ≤ 2 ^ 48)
    (htlb : tlbFind (s.tile t).tlb f b = some (l, (s.tile t).tlb)) (hl : l.refuses true x.user = none) (hpa : l.addr b < hbmEnd) :
    s.engAddr (.tile t) f b n true x 0 ecc = (.to (.hbm (l.addr b)), s.modTile t (fun tl => { tl with tlb := (s.tile t).tlb })) := by
  have hreads : s.entryReads (.tile t) f b = [] := by
    rw [State.entryReads, htlb]
    rfl
  have hacc : x.acc = false := by rw [Xfer.acc, hx]; rfl
  have hlook : s.engLook (.tile t) f b = (.leaf l, s.modTile t (fun tl => { tl with tlb := (s.tile t).tlb })) := by
    rw [State.engLook, State.lookup, htlb]
  rw [State.engAddr]
  simp only [if_neg (Nat.not_lt.2 hb), hreads, withEccs_nil, strays_of_plain hx, Bool.false_eq_true, if_false, if_neg (Nat.not_lt.2 hlt),
    hlook, hl, State.engPhys, if_pos hpa]

theorem step2_of_outside (hhs : x.hostSrc = false) {a b : Nat} (ha : a < 0x100000000) (hres : s.resolveLocal t a n false = none) :
    s.step2 (.tile t) f x ecc 0 [(a, b, n)] [] = (.fault 7 a false, s) := by
  rw [State.step2, hhs]
  simp only [Bool.false_eq_true, if_false, engAddr_of_outside hx ha hres]

theorem step2_of_own (hhs : x.hostSrc = false) (hhd : x.hostDst = false) {a b : Nat} {l : Leaf} (ha : a < 0x100000000)
    (hres : s.resolveLocal t a n false = some (.own o)) (hb : 0x100000000 ≤ b) (hlt : b + n ≤ 2 ^ 48)
    (htlb : tlbFind (s.tile t).tlb f b = some (l, (s.tile t).tlb)) (hl : l.refuses true x.user = none) (hpa : l.addr b < hbmEnd) :
    s.step2 (.tile t) f x ecc 0 [(a, b, n)] [] =
      (.ok [⟨.own o, .hbm (l.addr b), BitVec.ofNat 48 b, n, none⟩], s.modTile t (fun tl => { tl with tlb := (s.tile t).tlb })) := by
  rw [State.step2, hhs, hhd]
  simp only [Bool.false_eq_true, if_false, engAddr_of_own hx ha hres, engAddr_of_leaf hx hb hlt htlb hl hpa, State.step2, List.nil_append]

/-- A chunk of one piece from the own scratchpad to HBM is in flight. -/
theorem chunkGo_of_own {u : State} {a b pa : Nat} {dva : VAddr} (hck : x.ck = false) :
    s.chunkGo u (.tile t) f x 0 [] [(a, b, n)] [⟨.own o, .hbm pa, dva, n, none⟩] ecc =
      State.modEng { u with nextId := u.nextId + 1 } (.tile t) (fun g => { g with
        inflight := g.inflight ++ [⟨u.nextId, 0, f, none, [⟨.own o, .hbm pa, dva, n, none⟩], none, false, false⟩]
        det := (u.eng (.tile t)).det }) := by
  have hacc : x.acc = false := by rw [Xfer.acc, hx]; rfl
  unfold State.chunkGo
  simp only [List.map_singleton, List.zip_cons_cons, List.zip_nil_right, Detector.chunk, State.fetchAhead, hacc, hck, Bool.false_eq_true,
    if_false]
  rfl

end Plain

/-- A chunk that fails while no other is in flight halts the engine. -/
theorem chunkFault_halts {s u : State} {t : TileId} {g : Engine} (h : EngineOnly s u t g) (hrun : g.st = .running) (hin : g.inflight = [])
    (k : Nat) (c : BitVec 4) (va : Nat) (side : Bool) :
    OnlyTile s (u.chunkFault (.tile t) k c va side) t ∧
      (u.chunkFault (.tile t) k c va side).tile t = { s.tile t with
        ceflt := true
        eng := Engine.halted { g with halting := some (k, c, BitVec.ofNat 48 va, side, false) } t k c (BitVec.ofNat 48 va) side false } :=
  (h.mod (fun g => { g with halting := some (k, c, BitVec.ofNat 48 va, side, false) })).halts hrun rfl hin

end Chunk

/-! ## The end of a chunk (R309) -/

section Finish

variable {s : State} {t : TileId} {c : Chunk} {rest : List Chunk} {o pa n : Nat} {dva : VAddr}

theorem exec_chunkFinish_of_own (hon : s.tileOn t = true) (hz : (s.tile t).zeroed = true) (hin : (s.tile t).eng.inflight = c :: rest)
    (hcxl : c.cxl = false) (hwait : s.chunkWaits c.id = false) (hheld : s.chunkHeld (.tile t) c = false)
    (hp : c.pieces = [⟨.own o, .hbm pa, dva, n, none⟩]) (hsl : s.sliceOn pa = true) :
    exec (.chunkFinish (.tile t) []) s = .next (match s.movePieces (.tile t) c [] c.pieces 4096 with
      | .inl u => u.chunkBroken (.tile t) c.no (some c.id)
      | .inr u => u.chunkDone (.tile t) c) := by
  have hr : s.engOn (.tile t) = true := by rw [State.engOn, State.tileReady, hon, hz]; rfl
  have hinside : c.pieces.filter Piece.inside = c.pieces := by rw [hp]; rfl
  have hasleep : c.pieces.flatMap (fun p => s.pieceSleeps p) = [] := by
    rw [hp, List.flatMap_singleton, State.pieceSleeps]
    simp only [Option.isSome_none, Bool.false_eq_true, if_false, hsl, if_true, List.nil_append]
  have hrefused : c.pieces.any (fun p => s.pieceRefused (.tile t) p) = false := by rw [hp]; rfl
  have hfwd : c.pieces.any (fun p => p.fromHost && !p.inside) = false := by rw [hp]; rfl
  change execChunkFinish (.tile t) [] s = _
  rw [execChunkFinish, show s.eng (.tile t) = (s.tile t).eng from rfl, hin]
  simp only [hr, hcxl, hwait, hheld, hrefused, hinside, hasleep, hfwd, Bool.not_true, Bool.or_self, Bool.and_false, Bool.false_eq_true, if_false, ne_eq,
    not_true_eq_false] <;>
    rfl

theorem movePieces_of_own (hp : c.pieces = [⟨.own o, .hbm pa, dva, n, none⟩]) (hacc : c.acc = none) (h4 : n ≤ 4096)
    (hclean : (s.tile t).errWords o n = []) (hbad : s.writeBurst pa n = none) :
    s.movePieces (.tile t) c [] c.pieces 4096 =
      .inr (((s.modTile t (fun tl => tl)).hbmWrite pa ((s.tile t).lmem.bytes o n)).touchReads [(pa, n)]) := by
  have hn : min n 4096 = n := Nat.min_eq_left h4
  have hread : s.readPiece (.tile t) c.func ⟨.own o, .hbm pa, dva, n, none⟩ [] =
      .inr ((s.tile t).lmem.bytes o n, s.modTile t (fun tl => tl)) := by
    unfold State.readPiece State.pieceAt
    simp only [hclean]
    rfl
  have hwrite : (s.modTile t (fun tl => tl)).writePiece (.tile t) c ⟨.own o, .hbm pa, dva, n, none⟩ ((s.tile t).lmem.bytes o n) [] =
      .inr (((s.modTile t (fun tl => tl)).hbmWrite pa ((s.tile t).lmem.bytes o n)).touchReads [(pa, n)]) := by
    unfold State.writePiece
    simp only [hacc]
    rw [Memory.length_bytes, show (s.modTile t (fun tl => tl)).withEccs ((partBursts pa n).map (fun u => (u * 32, 32))) [] = s.modTile t (fun tl => tl) from rfl,
      show (s.modTile t (fun tl => tl)).writeBurst pa n = none from hbad]
  rw [hp]
  simp only [State.movePieces, hn, show s.pieceRefused (.tile t) ⟨.own o, .hbm pa, dva, n, none⟩ = false from rfl, hread, hwrite, Nat.reduceEqDiff,
    Bool.false_eq_true, if_false]

/-- The bytes that stand in HBM then. -/
theorem byte_moved (s : State) (t : TileId) (o pa n a : Nat) :
    (((s.modTile t (fun tl => tl)).hbmWrite pa ((s.tile t).lmem.bytes o n)).touchReads [(pa, n)]).hbm.byte a =
      if pa ≤ a ∧ a < pa + n then (s.tile t).lmem.byte (o + (a - pa)) else s.hbm.byte a := by
  rw [hbm_touchReads]
  refine (Memory.byte_setBytes _ _ _ _).trans ?_
  rw [Memory.length_bytes]
  split
  · next h => rw [Memory.getD_bytes _ _ _ _ (by omega)]
  · rfl

theorem eng_hbmWrite (s : State) (pa : Nat) (b : List Byte) (t : TileId) : (s.hbmWrite pa b).tile t = s.tile t := rfl

theorem tile_touchHeld (n : Nat) : ∀ (s : State) (pa : Nat) (t : TileId), (s.touchHeld pa n).tile t = s.tile t := by
  induction n with
  | zero => exact fun _ _ _ => rfl
  | succ n ih =>
    intro s pa t
    rw [State.touchHeld, ih]
    split
    · rw [State.hold]
      split <;> rfl
    · rfl

theorem tile_touchReads (l : List (Nat × Nat)) : ∀ (s : State) (t : TileId), (s.touchReads l).tile t = s.tile t := by
  induction l with
  | nil => exact fun _ _ => rfl
  | cons p l ih => exact fun s t => (ih _ t).trans (tile_touchHeld _ _ _ _)

/-- The engine after its oldest chunk, with no other in flight. -/
def Engine.stepped (e : Engine) : Engine := { e with inflight := [], next := e.next + 1 }

/-- What the finish of the one chunk in flight leaves before the engine settles. -/
theorem chunkDone_eq {u : State} {e : Engine} (he : (u.tile t).eng = e) (hin : e.inflight = [c]) (hno : c.no = e.next) (hact : e.active = true)
    (hclaim : c.claim = none) : ∃ w : State, u.chunkDone (.tile t) c = w.engSettle (.tile t) ∧ w.hbm = u.hbm ∧ (w.tile t).eng = e.stepped := by
  have heng (tl : Tile) (k n : Nat) : (tl.pm k n).eng = tl.eng := by
    rw [Tile.pm]
    split <;> rfl
  have hfilter : e.inflight.filter (fun k => k.id ≠ c.id) = [] := by
    rw [hin, List.filter_cons_of_neg (by simp), List.filter_nil]
  refine ⟨(u.modEng (.tile t) (fun g => { g with
    inflight := g.inflight.filter (fun k => k.id ≠ c.id)
    next := if g.active && c.no = g.next then c.no + 1 else g.next })).modTile t (fun tl => (tl.pm 0x18 c.transfers).pm 0x19 1), ?_, rfl, ?_⟩
  · rw [State.chunkDone, hclaim]
    rfl
  rw [State.tile_modTile_self, heng, heng]
  refine (congrArg Tile.eng (State.tile_modTile_self u t _)).trans ?_
  have hnext : (if e.active && c.no = e.next then c.no + 1 else e.next) = e.next + 1 := by
    rw [hact, hno]
    simp only [decide_true, Bool.and_self, if_true]
  simp only [he, hfilter, hnext]
  rfl

end Finish

/-- A descriptor that ends with a completion message. -/
theorem sends_of {x : Xfer} (h : x.ncq = false) (hh : x.cqh.extractLsb' 16 8 = 0) : x.sends = true := by
  rw [Xfer.sends, h, badHandle]
  simp only [Bool.not_false, Bool.true_and, Bool.not_eq_true', decide_eq_false_iff_not, not_not]
  exact hh

/-- The first word of the fault message of a chunk that fails in step 2 at its source, cause 7. -/
theorem faultWord_eq (lv : BitVec 2) (t : TileId) :
    ((0#4) ++ lv ++ b2v false ++ b2v false ++ (0#3) ++ (0#1) ++ (7#4) ++ (0#4) ++ t : Word) = (0#4) ++ lv ++ (0#6) ++ (7#4) ++ (0#4) ++ t := by
  apply BitVec.eq_of_toNat_eq
  simp only [toNat_append_eq]
  rw [show (b2v false).toNat = 0 from rfl]
  simp only [BitVec.toNat_ofNat, Nat.zero_mod, Nat.add_zero, Nat.zero_mul]
  omega

/-- An engine that had neither a halt nor a pause to come has none after a halt. -/
theorem halting_cleared {e : Engine} (hh : e.halting = none) (hp : e.pausing = false) (st : EngSt) (k : Nat) (c : BitVec 4) (va : VAddr) (p : Bool)
    (out : List EngMsg) :
    { e with st := st, next := k, cause := c, fva := va, part := p, halting := none, pausing := false, out := out } =
      { e with st := st, next := k, cause := c, fva := va, part := p, out := out } := by
  cases e
  cases hh
  cases hp
  rfl

/-- Settles O31: each event through its engine, which the end of the event settles. -/
theorem descriptorEvents : Obligations.DescriptorEvents := by
  unfold Obligations.DescriptorEvents
  intro s t f code o l c pa n dva ecc
  extract_lets tl g x makes message speaks wrote
  intro hon hz hf hj hrun hh hp hend
  have hg : (s.tile t).eng = g := rfl
  have hxj : g.xfer = xferOf (SMap.get 0 g.qd 0) := by rw [Engine.xfer, hj]
  have hmakes {i : Instr} {u : State} {e : Engine} (he : exec i s = .next u) (h : EngineOnly s u t e) : makes i { tl with eng := e } :=
    ⟨u, he, h.only, congrArg still h.tile, fun k => (congrArg (fun y : Tile => y.th k) h.tile :)⟩
  have hchunks : (x.len + 4095) / 4096 = x.chunks := rfl
  have hmsg (st : Byte) (b : Nat) : message st b = x.completion st b := rfl
  refine ⟨fun hact hq hsl hin hout hhold => ?_, fun hact hin hn hmode hck hrow h1 h4 hsrc => ⟨fun hsp hdp hd hd48 hres htlb hl hpa => ?_,
    fun hsp hdp hd48 hres => ?_⟩, fun hact hin hno hacc hclaim hcxl h1 h4 hpc hwait hheld hsl hclean hbad => ?_⟩
  · have e0 : exec (.descriptorStart (.tile t)) s = .next (s.descStart (.tile t)) := exec_descriptorStart_of_ready hon hz hf hsl
    rw [descStart_of_free hg hf hj hrun hact hend hq hin hout hhold] at e0
    have h0 : EngineOnly s (s.modEng (.tile t) (fun g => { g with active := true })) t { g with active := true } :=
      (EngineOnly.refl s t).mod _
    refine ⟨fun hv hnext => ?_, fun hv hsp => ?_, fun hv hsp => ?_, fun h => ?_, fun h h0 => ?_⟩
    · rw [show s.validate (.tile t) f g.xfer = none from hv] at e0
      refine hmakes (e0.trans (congrArg _ (engSettle_of_going h0.eng (.inr ⟨hh, fun k => ?_, fun k => ?_, hp⟩)))) h0
      · exact absurd hnext (Nat.not_lt.2 k.2.2.2)
      · exact absurd (hend.symm.trans k) (by decide)
    · rw [show s.validate (.tile t) f g.xfer = some code from hv] at e0
      have h1 := h0.ends hj (sends_of hsp.1 hsp.2) code 0
      refine hmakes (e0.trans (congrArg _ (engSettle_of_going h1.eng (.inr ⟨hh, fun k => ?_, fun _ => ?_, hp⟩)))) h1
      · exact nomatch (show true = false from k.2.1)
      · exact ⟨_, List.mem_append_right _ (List.mem_singleton_self _), rfl⟩
    · rw [show s.validate (.tile t) f g.xfer = some code from hv] at e0
      obtain ⟨h1, h2⟩ := endDesc_silent h0 hj hsp code 0 hrun hh hout hp
      have hcount : (Engine.pop { g with active := true }).count = g.qcnt - 1 := by
        rw [Engine.count, if_pos]
        · rfl
        · exact (congrArg List.tail hj).trans rfl
      rw [hcount] at h2
      refine ⟨_, e0, h1, (congrArg Engine.active h2).trans rfl, (congrArg Engine.qcnt h2).trans rfl, (congrArg Engine.st h2).trans ?_⟩
      exact if_congr (by omega) rfl rfl
    · exact validate_of_badFormat (badFormat_of h)
    · exact validate_of_empty h h0
  · have hlist : g.xfer.listPart 0 = none := listPart_of_plain hmode hck
    have hk : 1 ≤ g.xfer.chunks := by
      change 1 ≤ (x.len + 4095) / 4096
      omega
    have hruns (ix : Nat → Nat) : g.xfer.runs 0 ix = [(x.src, x.dst, x.len)] := 
      runs_one (x := x) hrow h1 h4 (by omega) (by omega) hmode hsp hdp
    have hhs : g.xfer.hostSrc = false := by rw [hxj]; rfl
    have hhd : g.xfer.hostDst = false := by rw [hxj]; rfl
    have e0 := exec_chunkStart_of_plain (ecc := ecc) hon hz hf hg hrun hact hend hp hh hin hn hk hlist hruns
    rw [step2_of_own hmode hhs hhd hsrc hres hd hd48 htlb hl hpa] at e0
    dsimp only at e0
    rw [chunkGo_of_own hmode hck] at e0
    refine ⟨_, e0, OnlyTile.trans (State.onlyTile_modTile { s with nextId := s.nextId + 1 } t (fun tl => { tl with tlb := (s.tile t).tlb }))
      (State.onlyTile_modTile _ _ _), ?_⟩
    have htile (F : Engine → Engine) (n : Nat) :
        (State.modEng { s.modTile t (fun tl => { tl with tlb := (s.tile t).tlb }) with nextId := n } (.tile t) F).tile t =
          { s.tile t with eng := F g } :=
      (State.tile_modTile_self _ _ _).trans (congrArg (fun y : Tile => { y with eng := F y.eng })
        (State.tile_modTile_self s t (fun tl => { tl with tlb := (s.tile t).tlb })))
    have hdet : ((s.modTile t (fun tl => { tl with tlb := (s.tile t).tlb })).eng (.tile t)).det = g.det :=
      congrArg (fun y : Tile => y.eng.det) (State.tile_modTile_self s t _)
    rw [htile, hdet]
    dsimp only
    rw [hin]
    rfl
  · have hlist : g.xfer.listPart 0 = none := listPart_of_plain hmode hck
    have hk : 1 ≤ g.xfer.chunks := by
      change 1 ≤ (x.len + 4095) / 4096
      omega
    have hruns (ix : Nat → Nat) : g.xfer.runs 0 ix = [(x.src, x.dst, x.len)] :=
      runs_one (x := x) hrow h1 h4 (by omega) (by omega) hmode hsp hdp
    have hhs : g.xfer.hostSrc = false := by rw [hxj]; rfl
    have e0 := exec_chunkStart_of_plain (ecc := ecc) hon hz hf hg hrun hact hend hp hh hin hn hk hlist hruns
    rw [step2_of_outside hmode hhs hsrc hres] at e0
    obtain ⟨ho, htile⟩ := chunkFault_halts (EngineOnly.refl s t) hrun hin 0 7 x.src false
    refine ⟨_, e0, ho, (congrArg Tile.ceflt htile).trans rfl, (congrArg Tile.eng htile).trans ?_⟩
    have hva : (BitVec.ofNat 48 x.src).toNat = x.src := by
      rw [BitVec.toNat_ofNat, Nat.mod_eq_of_lt (by omega)]
    have hlow : (bits (BitVec.ofNat 48 x.src) 0 32 : BitVec 32) = BitVec.ofNat 32 x.src := by
      apply BitVec.eq_of_toNat_eq
      rw [bits, BitVec.extractLsb'_toNat, hva, BitVec.toNat_ofNat, Nat.shiftRight_zero]
    have hhigh : (bits (BitVec.ofNat 48 x.src) 32 16 : BitVec 16) = 0 := by
      apply BitVec.eq_of_toNat_eq
      rw [bits, BitVec.extractLsb'_toNat, hva, Nat.shiftRight_eq_div_pow, Nat.div_eq_of_lt hsrc]
      rfl
    have hm : Engine.faultMsg { g with halting := some (0, 7, BitVec.ofNat 48 x.src, false, false) } t 0 7 (BitVec.ofNat 48 x.src) false false =
        ⟨true, g.fqh, 7, [(0#4) ++ x.lv ++ (0#6) ++ (7#4) ++ (0#4) ++ t, BitVec.ofNat 32 x.src, 0, 0]⟩ := by
      rw [Engine.faultMsg, hlow, hhigh]
      exact congrArg (fun w => (⟨true, g.fqh, 7, [w, BitVec.ofNat 32 x.src, 0, 0]⟩ : EngMsg)) (faultWord_eq x.lv t)
    rw [Engine.halted, hm]
    exact halting_cleared hh hp _ _ _ _ _ _
  · have e0 := exec_chunkFinish_of_own hon hz hin hcxl hwait hheld hpc hsl
    rw [movePieces_of_own hpc hacc h4 hclean hbad] at e0
    have htile : ((((s.modTile t (fun tl => tl)).hbmWrite pa ((s.tile t).lmem.bytes o n)).touchReads [(pa, n)]).tile t).eng = g := by
      rw [tile_touchReads, eng_hbmWrite, State.tile_modTile_self]
    obtain ⟨w, hw, hhbm, heng⟩ := chunkDone_eq htile hin hno hact hclaim
    dsimp only at e0
    rw [hw] at e0
    have hwrote (a : Nat) : w.hbm.byte a = if pa ≤ a ∧ a < pa + n then tl.lmem.byte (o + (a - pa)) else s.hbm.byte a := by
      rw [hhbm]
      exact byte_moved s t o pa n a
    have hw0 : EngineOnly w w t g.stepped := ⟨State.onlyTile_refl _ _, by rw [← heng]⟩
    refine ⟨fun hnext => ⟨w, e0.trans (congrArg _ (engSettle_of_going heng (.inr ⟨hh, fun k => ?_, fun k => ?_, hp⟩))), hwrote, heng⟩,
      fun hnext hsp => ?_⟩
    · exact absurd hnext (Nat.not_lt.2 k.2.2.2)
    · exact absurd (hend.symm.trans k) (by decide)
    · have h1 := hw0.finishes hrun hh hact hend rfl (show x.chunks ≤ g.next + 1 from hnext ▸ le_refl _) hj (sends_of hsp.1 hsp.2) hp
      refine ⟨_, e0, fun a => ?_, (congrArg Tile.eng h1.tile).trans rfl⟩
      exact (congrArg (fun z : State => z.hbm.byte a) h1.only.1).trans (hwrote a)

end Sys2Proof.Machine
end

section
/-! A tile engine's messages, late errors and commands (R303, R310, R312–R315), and the proof of O32. -/
namespace Sys2Proof.Machine

open Sys2Proof.Safety

/-! ## A message leaves (R217, R310) -/

/-- The settling of an engine that ends its descriptor, or does not run, leaves the messages that wait. -/
theorem engSettle_keeps_out {u : State} {t : TileId} (hh : (u.tile t).eng.halting = none)
    (he : (u.tile t).eng.ending = true ∨ (u.tile t).eng.st ≠ .running) :
    ∃ e, EngineOnly u (u.engSettle (.tile t)) t e ∧ e.out = (u.tile t).eng.out := by
  have hid : EngineOnly u u t (u.tile t).eng := EngineOnly.refl u t
  have heng : u.eng (.tile t) = (u.tile t).eng := rfl
  rw [State.engSettle, heng]
  dsimp only
  by_cases hrun : (u.tile t).eng.st = .running
  · have hend : (u.tile t).eng.ending = true := he.resolve_right (not_not_intro hrun)
    rw [if_neg (not_not_intro hrun), hh]
    dsimp only
    have hno : ¬((u.tile t).eng.active && !(u.tile t).eng.ending && decide ((u.tile t).eng.inflight = []) &&
        decide ((u.tile t).eng.xfer.chunks ≤ (u.tile t).eng.next)) = true := by
      rw [hend]
      simp only [Bool.not_true, Bool.and_false, Bool.false_and, Bool.false_eq_true, not_false_eq_true]
    rw [if_neg hno, heng]
    have hpause {z : State} {e : Engine} (hz : EngineOnly u z t e) (c : Bool) : ∃ e', EngineOnly u
        (if c then z.modEng (.tile t) (fun g => { g with st := .paused, pausing := false, active := false }) else z) t e' ∧ e'.out = e.out := by
      cases c
      · exact ⟨e, hz, rfl⟩
      · exact ⟨_, hz.mod (fun g => { g with st := .paused, pausing := false, active := false }), rfl⟩
    by_cases hm : (decide ((u.tile t).eng.st = .running) && (u.tile t).eng.ending && (u.tile t).eng.out.all (fun m => m.fault)) = true
    · rw [if_pos hm]
      exact hpause (hid.mod (fun g => let p := g.pop; { p with st := if p.count = 0 then .idle else .running })) _
    · rw [if_neg hm]
      exact hpause hid _
  · rw [if_pos hrun]
    exact ⟨_, hid, rfl⟩

section Send

variable {s : State} {t : TileId} {m : EngMsg} {rest : List EngMsg} {i tag : Nat}

theorem exec_completionMessageSend_of_ready (hon : s.tileOn t = true) (hz : (s.tile t).zeroed = true)
    (hout : (s.tile t).eng.out = m :: rest) (hh : m.handle.extractLsb' 16 8 = 0) (hfind : (s.tile t).send.find m.handle = some i)
    (hr : ((s.tile t).send.entry i).refused = false) (hroom : ringBytes m.payload.length ≤ ((s.tile t).send.entry i).bytes)
    (hf : (s.tile t).send.freeTag = some tag) : exec (.completionMessageSend (.tile t)) s = .next
      (((s.modSend (.tile t) (fun y => y.use m.handle (ringBytes m.payload.length))).emit (.tile t) (if m.fault then .engFault else .engDone)
        ⟨0, t, 0, (s.tile t).func, m.tag, m.payload, m.handle, true, 0, if m.fault then none else some .system⟩ false []).engMsgGone
          (.tile t) m) := by
  have hon' : s.engOn (.tile t) = true := by rw [State.engOn, State.tileReady, hon, hz]; rfl
  have hbad : badHandle m.handle = false := by
    rw [badHandle, decide_eq_false_iff_not, not_not]
    exact hh
  have hside : s.sendSide (.tile t) = (s.tile t).send := rfl
  have hready : (s.tile t).send.ready m.handle (ringBytes m.payload.length) = true := by
    simp only [SendSide.ready, hfind, hroom, decide_true, Bool.or_true]
  have hcred : (s.tile t).send.credited m.handle = true := by
    simp only [SendSide.credited, hfind, hr, Bool.not_false]
  change execCompletionMessageSend (.tile t) s = _
  unfold execCompletionMessageSend
  simp only [show s.eng (.tile t) = (s.tile t).eng from rfl, hout, hon', hbad, hside, hready, hf, hcred, Bool.not_true, Bool.false_eq_true, if_false, Option.isNone_some]

/-- The message at the head has left: it waits no more, and a completion message sets CEDONE. -/
theorem engMsgGone_fields {u : State} (hout : (u.tile t).eng.out = m :: rest) (hh : (u.tile t).eng.halting = none)
    (he : (u.tile t).eng.ending = true ∨ (u.tile t).eng.st ≠ .running) :
    (u.engMsgGone (.tile t) m).net = u.net ∧ ((u.engMsgGone (.tile t) m).tile t).send = (u.tile t).send ∧
      ((u.engMsgGone (.tile t) m).tile t).eng.out = rest ∧
      ((u.engMsgGone (.tile t) m).tile t).cedone = ((u.tile t).cedone || !m.fault) := by
  have h1 := (EngineOnly.refl u t).mod (fun g => { g with out := g.out.tail })
  have hdone {z : State} : (z.setDone (.tile t)).net = z.net ∧ (z.setDone (.tile t)).tile t = { z.tile t with cedone := true } :=
    ⟨rfl, State.tile_modTile_self _ _ _⟩
  have key {z : State} (hnet : z.net = u.net) {d : Bool} (hz : z.tile t = { u.tile t with
      cedone := d, eng := { (u.tile t).eng with out := (u.tile t).eng.out.tail } }) : (z.engSettle (.tile t)).net = u.net ∧
      ((z.engSettle (.tile t)).tile t).send = (u.tile t).send ∧ ((z.engSettle (.tile t)).tile t).eng.out = rest ∧
      ((z.engSettle (.tile t)).tile t).cedone = d := by
    obtain ⟨e, hs, ho⟩ := engSettle_keeps_out (u := z) (t := t) (by rw [hz]; exact hh) (by rw [hz]; exact he)
    refine ⟨(congrArg State.net hs.only.1).trans hnet, ?_, ?_, ?_⟩
    · rw [hs.tile, hz]
    · rw [hs.tile]
      exact ho.trans (by rw [hz, hout]; rfl)
    · rw [hs.tile, hz]
  rw [State.engMsgGone]
  cases m.fault
  · rw [if_neg (by decide), Bool.not_false, Bool.or_true]
    refine key (d := true) ?_ ?_
    · rfl
    · rw [hdone.2, h1.tile]
  · rw [if_pos rfl, Bool.not_true, Bool.or_false]
    refine key (d := (u.tile t).cedone) ?_ ?_
    · rfl
    · exact h1.tile

end Send

/-- A commit of a tile with a free tag: a packet of the data mesh, and nothing of the tile but its tags changes. -/
theorem emit_fields {u : State} {t : TileId} {tag : Nat} (hf : (u.tile t).send.freeTag = some tag) (owner : Owner) (k : Msg)
    (h2 : 2 ≤ k.payload.length) : ∃ p : Pkt, (u.emit (.tile t) owner k false []).net = u.net ++ [p] ∧ p.src = .tile t ∧
      p.dst = .tile (hTile k.handle) ∧ p.net = 3 ∧ p.body = .msg { k with rtag := tag } ∧
      ∃ y, (u.emit (.tile t) owner k false []).tile t = { u.tile t with send := y } ∧ y.cred = (u.tile t).send.cred := by
  have hmesh : (false || decide (2 ≤ k.payload.length)) = true := by rw [decide_eq_true h2]; rfl
  rw [State.emit_eq hf, hmesh]
  refine ⟨_, rfl, rfl, rfl, rfl, rfl, _, State.tile_modTile_self _ t _, rfl⟩

/-! ## A late error (R314) -/

section Late

variable {s : State} {t r : TileId} {o : Nat} {c : Chunk} {p : Piece} {va : VAddr} {hd : Option (BitVec 14)} {ecc : SliceEcc}

/-- Another tile refuses a write of the one chunk in flight: the engine halts. -/
theorem exec_lateError_refused (hon : s.tileOn t = true) (hz : (s.tile t).zeroed = true) (hin : (s.tile t).eng.inflight = [c])
    (hp : c.pieces = [p]) (hdst : p.dst = .remote r o hd)
    (href : s.remoteAt r (s.tile t).func ((s.tile t).place.extractLsb' 8 8) hd o p.n = none) (hlo : p.dva.toNat ≤ va.toNat)
    (hhi : va.toNat < p.dva.toNat + p.n) :
    exec (.lateError (.tile t) 8 va true 0 ecc) s = .next (s.engLate (.tile t) c.id 8 va true) := by
  have hon' : s.engOn (.tile t) = true := by rw [State.engOn, State.tileReady, hon, hz]; rfl
  have hpiece : s.pieceAt (.tile t) (.remote r o hd) p.n = none := by
    rw [State.pieceAt, show s.remoteAt r (s.tile t).func (bits (s.tile t).place 8 8) hd o p.n = none from href]
    rfl
  have hhit : c.pieces.any (fun q => s.refusedAt (.tile t) va true q) = true := by
    rw [hp, List.any_cons, State.refusedAt]
    simp only [hdst, hpiece, hlo, hhi, if_true, Option.isNone_none, decide_true, Bool.and_self, Bool.true_or]
  have hmove (l : List Piece) : s.movePieces (.tile t) c ecc l 0 = .inr s := by
    cases l <;> simp only [State.movePieces, if_true]
  change execLateError (.tile t) 8 va true 0 ecc s = _
  unfold execLateError
  simp only [show s.eng (.tile t) = (s.tile t).eng from rfl, hin, if_true, List.filter_cons, hhit, List.filter_nil, List.head?_cons, hon',
    Bool.not_true, ne_eq, not_true_eq_false, decide_false, Bool.false_and, Bool.or_self, Bool.false_eq_true, if_false, hmove]

theorem engLate_halts {g : Engine} (hg : (s.tile t).eng = g) (hrun : g.st = .running) (hact : g.active = true) (hin : g.inflight = [c])
    (hh : g.halting = none) (cause : BitVec 4) (side : Bool) :
    OnlyTile s (s.engLate (.tile t) c.id cause va side) t ∧
      (s.engLate (.tile t) c.id cause va side).tile t = { s.tile t with
        ceflt := true
        eng := Engine.halted { g with inflight := [], halting := some (c.no, cause, va, side, true) } t c.no cause va side true } := by
  subst hg
  have hhead : ((s.tile t).eng.inflight.filter (fun k => k.id = c.id)).head? = some c := by
    rw [hin, List.filter_cons_of_pos (by simp)]
    rfl
  have hrest : (s.tile t).eng.inflight.filter (fun k => k.id ≠ c.id) = [] := by
    rw [hin, List.filter_cons_of_neg (by simp), List.filter_nil]
  have h1 := (EngineOnly.refl s t).mod (fun g => { g with
    inflight := g.inflight.filter (fun k => k.id ≠ c.id)
    halting := if false || !g.active then g.halting else some (c.no, cause, va, side, true) })
  have e : s.engLate (.tile t) c.id cause va side = (s.modEng (.tile t) (fun g => { g with
      inflight := g.inflight.filter (fun k => k.id ≠ c.id)
      halting := if false || !g.active then g.halting else some (c.no, cause, va, side, true) })).engSettle (.tile t) := by
    unfold State.engLate
    simp only [show s.eng (.tile t) = (s.tile t).eng from rfl, hhead, hh]
  simp only [hrest, hact, Bool.not_true, Bool.or_self, Bool.false_eq_true, if_false] at h1
  rw [e]
  have hact' : (s.tile t).eng = { (s.tile t).eng with active := true } := congrArg (fun b => { (s.tile t).eng with active := b }) hact
  rw [hact']
  exact h1.halts hrun rfl rfl

end Late

/-! ## Commands (R303, R312, R315) -/

section Commands

variable {s : State} {src : Src} {t : TileId}

theorem writeCeCtl_eq (w : TileWriter s src t) (v : DWord) :
    s.writeCeCtl src t v = (s.touchHalf (paCe t 8)).ceWrite t .ctl v :=
  regWrite_ce w (by decide) (show ceReg 8 = some (.ctl, 4) from rfl) v

variable {z : State} {g : Engine} (hg : (z.tile t).eng = g)
include hg

theorem pause_of_idle (h : g.st = .idle) : EngineOnly z (z.ceWrite t .ctl 1) t { g with st := .paused } := by
  subst hg
  have e : z.ceWrite t .ctl 1 = z.engPause t := rfl
  rw [e, State.engPause, h]
  exact (EngineOnly.refl z t).mod _

theorem pause_of_running (h : g.st = .running) (hin : g.inflight = []) (hh : g.halting = none) (hp : g.pausing = false) (hend : g.ending = false)
    (hlt : g.next < g.xfer.chunks) : EngineOnly z (z.ceWrite t .ctl 1) t { g with st := .paused, active := false } := by
  subst hg
  have e : z.ceWrite t .ctl 1 = z.engPause t := rfl
  have h1 := ((EngineOnly.refl z t).mod (fun g => { g with pausing := true })).pauses h hh hlt hend hin rfl
  rw [e, State.engPause, h]
  have hclear : { (z.tile t).eng with st := .paused, active := false } = { (z.tile t).eng with st := .paused, active := false, pausing := false } :=
    congrArg (fun b => { (z.tile t).eng with st := .paused, active := false, pausing := b }) hp
  rw [hclear]
  exact h1

theorem go_of_paused (h : g.st = .paused) : EngineOnly z (z.ceWrite t .ctl 2) t
    (if g.qcnt = 0 then { g with st := .idle } else { g with st := .running, active := false }) := by
  subst hg
  have e : z.ceWrite t .ctl 2 = z.engGo t := rfl
  rw [e, State.engGo, h]
  exact (EngineOnly.refl z t).mod _

theorem resume_of_halted (h : g.st = .halted) (hact : g.active = true) (hpart : ¬(g.xfer.mode = 1 ∧ g.part = true)) (hh : g.halting = none)
    (hp : g.pausing = false) (hend : g.ending = false) (hlt : g.next < g.xfer.chunks) :
    EngineOnly z (z.ceWrite t .ctl 4) t { g with st := .running, part := false, cause := 0 } := by
  subst hg
  have e : z.ceWrite t .ctl 4 = (z.engResume t).2 := rfl
  have h1 := (EngineOnly.refl z t).mod (fun g => { g with st := .running, part := false, cause := 0 })
  have hno : ((z.tile t).eng.xfer.acc && (z.tile t).eng.part) = false := by
    rw [Bool.eq_false_iff]
    exact fun k => hpart ⟨of_decide_eq_true (Bool.and_eq_true_iff.1 k).1, (Bool.and_eq_true_iff.1 k).2⟩
  have hset := engSettle_of_going h1.eng (.inr ⟨hh, fun k => absurd hlt (Nat.not_lt.2 k.2.2.2), fun k => absurd (hend.symm.trans k) (by decide), hp⟩)
  have e2 : (z.engResume t).2 = (z.modEng (.tile t) (fun g => { g with st := .running, part := false, cause := 0 })).engSettle (.tile t) := by
    unfold State.engResume
    simp only [h, hact, hno, ne_eq, not_true_eq_false, if_true, if_false, Bool.false_eq_true]
  rw [e, e2, hset]
  exact h1

theorem abort_of_halted (h : g.st = .halted) (hact : g.active = true) (hj : g.jobs = []) (hs : g.xfer.sends = true) :
    ∃ e, EngineOnly z (z.ceWrite t .ctl 8) t e ∧ e = { Engine.pop { g with out := g.out ++ [g.xfer.completion stFault g.finished] } with
      st := .halted, part := false, cause := 0 } := by
  subst hg
  have e : z.ceWrite t .ctl 8 = z.engAbort t := rfl
  have h1 := ((EngineOnly.refl z t).ends hj hs stFault (z.tile t).eng.finished).mod (fun e => { e.pop with st := e.st, part := false, cause := 0 })
  have e2 : z.engAbort t = (z.endDesc (.tile t) stFault (z.tile t).eng.finished).modEng (.tile t)
      (fun e => { e.pop with st := e.st, part := false, cause := 0 }) := by
    unfold State.engAbort
    simp only [h, hact, decide_true, Bool.and_self, Bool.true_or, Bool.not_true, Bool.false_eq_true, if_false]
  refine ⟨_, ?_, rfl⟩
  rw [e, e2, ← h]
  exact h1

end Commands

/-- Settles O32: a message through its credit and its tag, a late error and a command through what the engine settles to. -/
theorem engineControl : Obligations.EngineControl := by
  unfold Obligations.EngineControl
  intro s src t r m rest i tag o c p va hd ecc
  extract_lets s0 tl g x makes n more
  intro hon hz hj
  refine ⟨fun hout hbad hfind href hroom hf hh he h2 => ?_, fun hrun hact hin hh hp hdst hrem hlo hhi => ?_, fun w => ?_⟩
  · have e0 := exec_completionMessageSend_of_ready hon hz hout hbad hfind href hroom hf
    let z := s.modSend (.tile t) (fun y => y.use m.handle (ringBytes m.payload.length))
    have hz1 : z.tile t = { tl with send := tl.send.use m.handle (ringBytes m.payload.length) } := State.tile_modTile_self _ _ _
    have huse := SendSide.use_of_find hfind href (ringBytes m.payload.length)
    have hzf : (z.tile t).send.freeTag = some tag := by
      rw [hz1, huse]
      exact hf
    obtain ⟨k, hnet, hsrc, hdst, h3, hbody, y, htile, hcred⟩ := emit_fields hzf (if m.fault then .engFault else .engDone)
      ⟨0, t, 0, tl.func, m.tag, m.payload, m.handle, true, 0, if m.fault then none else some .system⟩ h2
    obtain ⟨f1, f2, f3, f4⟩ := engMsgGone_fields (m := m) (rest := rest) (t := t)
      (by rw [htile, hz1]; exact hout) (by rw [htile, hz1]; exact hh) (by rw [htile, hz1]; exact he)
    refine ⟨_, k, e0, f1.trans hnet, hsrc, hdst, h3, hbody, ?_, f3, f4.trans (by rw [htile, hz1])⟩
    refine (congrArg (fun x : SendSide => x.entry i) f2).trans ?_
    rw [htile, SendSide.entry, hcred, hz1, huse]
    exact SMap.get_modify_self ({} : Cred) tl.send.cred i
      (fun e => { e with bytes := e.bytes - ringBytes m.payload.length, lastUse := tl.send.useCtr + 1 })
  · have e0 := exec_lateError_refused (ecc := ecc) hon hz hin hp hdst hrem hlo hhi
    obtain ⟨ho, htile⟩ := engLate_halts (va := va) rfl hrun hact hin hh 8 true
    refine ⟨_, e0, congrArg Tile.ceflt htile, congrArg (fun y : Tile => y.eng.st) htile, congrArg (fun y : Tile => y.eng.next) htile,
      congrArg (fun y : Tile => y.eng.cause) htile, congrArg (fun y : Tile => y.eng.fva) htile, congrArg (fun y : Tile => y.eng.part) htile,
      congrArg (fun y : Tile => y.eng.inflight) htile, (congrArg State.hbm ho.1 :)⟩
  · have hg : (s0.tile t).eng = g := by rw [State.tile_touchHalf]
    have hmakes {k : Instr} {v : DWord} {e : Engine} (hk : exec k s = .next (s.writeCeCtl src t v))
        (h : EngineOnly s0 (s0.ceWrite t .ctl v) t e) : makes k e := by
      obtain ⟨h1, h2⟩ := h
      rw [State.tile_touchHalf] at h2
      exact ⟨_, hk.trans (congrArg _ (writeCeCtl_eq w v)), h1, congrArg still h2, fun k => (congrArg (fun y : Tile => y.th k) h2 :)⟩
    refine ⟨fun h => hmakes rfl (pause_of_idle hg h), fun h hin hm => ?_, fun h hq => ?_, fun h hq => ?_, fun h hact hpart hm => ?_,
      fun h hact hq hb => ?_⟩
    · obtain ⟨h1, h2, h3, h4⟩ := hm
      exact hmakes rfl (pause_of_running hg h hin h1 h2 h3 h4)
    · have h1 := go_of_paused hg h
      rw [if_pos hq] at h1
      exact hmakes rfl h1
    · have h1 := go_of_paused hg h
      rw [if_neg hq] at h1
      exact hmakes rfl h1
    · obtain ⟨h1, h2, h3, h4⟩ := hm
      exact hmakes rfl (resume_of_halted hg h hact hpart h1 h2 h3 h4)
    · obtain ⟨e, h1, he⟩ := abort_of_halted hg h hact hj (sends_of hq hb)
      have heng : ((s0.ceWrite t .ctl 8).tile t).eng = e := congrArg Tile.eng h1.tile
      subst he
      refine ⟨_, congrArg Host.Outcome.next (writeCeCtl_eq w 8), ?_⟩
      rw [heng]
      exact ⟨rfl, rfl, rfl, rfl, rfl, rfl, rfl⟩

end Sys2Proof.Machine
end

section
/-! O52: an access of JTAG or of the management sideband at a register that is ready is a `makeAccess`; at `CE_FQH` that is
a read of the handle, masked while the image has not given it, or a write of it. -/
namespace Sys2Proof.Machine

open Sys2Proof.Safety

/-! ## Bytes of a transfer -/

theorem leBits_byteList {w n : Nat} (k : Nat) (x : BitVec n) : leBits w (byteList x k) = (x.setWidth (8 * k)).setWidth w := by
  apply BitVec.eq_of_toNat_eq
  rw [leBits, ← bytesOf_eq_byteList, bytesOf, leNat_leBytes, BitVec.toNat_ofNat, BitVec.toNat_setWidth, BitVec.toNat_setWidth,
    pow_mul, show (2 : Nat) ^ 8 = 256 from rfl]

theorem bytesOf_zero (n k : Nat) : bytesOf (0#n) k = List.replicate k 0 := by
  rw [bytesOf, leBytes_eq, List.eq_replicate_iff]
  refine ⟨by simp, fun b hb => ?_⟩
  obtain ⟨i, -, rfl⟩ := List.mem_map.1 hb
  simp

theorem b2v_eq (b : Bool) : b2v b = BitVec.ofBool b := by cases b <;> rfl

/-- The address, the width and the data behind a command byte. -/
theorem sbTarget_ask (w : BitVec 48) (n : Byte) (l : List Byte) :
    sbTarget (byteList w 6 ++ [n] ++ l) = ((w.extractLsb' 0 46).toNat, n.toNat) := by
  have h6 : (byteList w 6).length = 6 := length_byteList w 6
  rw [sbTarget, List.append_assoc, List.take_left' h6, leBits_byteList, nth, List.getD_append_right _ _ _ _ h6.le, h6]
  rfl

/-- What follows the address and the width is the data. -/
theorem drop_ask (w : BitVec 48) (n : Byte) (l : List Byte) : (byteList w 6 ++ [n] ++ l).drop 7 = l :=
  List.drop_left' (by simp)

theorem low_low (y : BitVec 65) : (y.extractLsb' 0 64).extractLsb' 0 32 = y.extractLsb' 0 32 := by
  apply BitVec.eq_of_getLsbD_eq
  intro i hi
  simp [hi]

/-! ## The port -/

theorem sbAnswers_iff (s : State) (x : SbXfer) : s.sbAnswers x = true ↔ s.lands.railOff.getLsbD 25 = false ∧
    (s.side.dynAddr = none ∧ x.i3c = false ∧ x.addr = 0x4A ∨ x.i3c = true ∧ s.side.dynAddr = some x.addr) := by
  rw [State.sbAnswers, State.standby, Bool.and_eq_true, Bool.not_eq_true', bit]
  refine and_congr_right fun _ => ?_
  cases s.side.dynAddr with
  | none => simp
  | some a => simp only [Bool.and_eq_true, decide_eq_true_eq, reduceCtorEq, false_and, false_or, Option.some.injEq, @eq_comm _ a]

/-- A write under I3C, or under SMBus with its PEC behind it, is read as sent. -/
theorem sbWritten_of_sent {x : SbXfer} {l : List Byte}
    (h : x.bytes = if x.i3c then l else l ++ [pec ((x.addr ++ (0#1) : Byte) :: l)]) : sbWritten x = some l := by
  unfold sbWritten
  cases hi : x.i3c with
  | true => rw [if_pos rfl, h, hi, if_pos rfl]
  | false =>
    rw [hi, if_neg Bool.false_ne_true] at h
    rw [if_neg Bool.false_ne_true]
    dsimp only
    rw [h, List.dropLast_concat, if_pos (List.getLast?_concat)]

/-- What is read from a write under SMBus was sent with its PEC. -/
theorem sbWritten_of_unsent {x : SbXfer} (hi : x.i3c = false)
    (h : ∀ b, ¬x.bytes = b ++ [pec ((x.addr ++ (0#1) : Byte) :: b)]) : sbWritten x = none := by
  unfold sbWritten
  rw [hi, if_neg (by simp)]
  refine if_neg fun hl => h x.bytes.dropLast ?_
  exact (List.dropLast_append_getLast? _ hl).symm

section
variable {s u : State} {x : SbXfer} {w : BitVec 48} {n : Byte}

/-- A CSR write that is well formed. -/
theorem execCsrWrite_of {l : List Byte} (hu : { s with lands := s.lands.restore x.rails } = u)
    (h : sbWritten x = some (0x02 :: (byteList w 6 ++ [n] ++ l))) (hl : l.length = n.toNat) (ha : u.sbAnswers x = true) :
    exec (.csrWrite x) s = .next (if n.toNat = 4 ∨ n.toNat = 8 then
      u.regWrite .mgmt (w.extractLsb' 0 46).toNat n.toNat (leBits 64 l) none else u) := by
  have hlen : (byteList w 6 ++ [n] ++ l).length = 7 + n.toNat := by simp [hl]; omega
  have ht := sbTarget_ask w n l
  have hd := drop_ask w n l
  change execCsrWrite x s = _
  rw [execCsrWrite, h, hu]
  generalize byteList w 6 ++ [n] ++ l = b at hlen ht hd
  change Host.Outcome.next (if _ then u else u.regWrite .mgmt (sbTarget b).1 (sbTarget b).2 (leBits 64 (b.drop 7)) none) = _
  rw [ht, hd, ha, hlen]
  by_cases hn : n.toNat = 4 ∨ n.toNat = 8
  · rw [if_pos hn, if_neg (by obtain h | h := hn <;> simp [h])]
  · obtain ⟨h4, h8⟩ := not_or.1 hn
    rw [if_neg hn, if_pos (by simp [h4, h8])]

/-- A CSR read that is well formed. -/
theorem execCsrRead_of (hu : { s with lands := s.lands.restore x.rails } = u) (h : x.bytes = 0x01 :: (byteList w 6 ++ [n]))
    (ha : u.sbAnswers x = true) : exec (.csrRead x) s =
      .next (State.mgmtRead { u with side := { u.side with head := sbHead x } } (w.extractLsb' 0 46).toNat n.toNat) := by
  have hlen : (byteList w 6 ++ [n]).length = 7 := by simp
  have ht := sbTarget_ask w n []
  rw [List.append_nil] at ht
  change execCsrRead x s = _
  rw [execCsrRead, h, hu]
  generalize byteList w 6 ++ [n] = b at hlen ht
  change Host.Outcome.next (if (!(u.sbAnswers x) || decide (b.length ≠ 7)) = true then u else
    State.mgmtRead { u with side := { u.side with head := sbHead x } } (sbTarget b).1 (sbTarget b).2) = _
  rw [ht, ha, hlen]
  rfl

end

/-- A transfer to another address only tells the rails. -/
theorem sideband_unanswered {s u : State} {x : SbXfer} (hu : { s with lands := s.lands.restore x.rails } = u)
    (ha : u.sbAnswers x = false) : ∀ k ∈ [Instr.csrRead x, .csrWrite x, .sidebandStatus x], exec k s = .next u := by
  have hr : execCsrRead x s = .next u := by
    rw [execCsrRead, hu]
    dsimp only
    split
    · rw [ha, Bool.not_false, Bool.true_or, if_pos rfl]
    · rfl
  have hw : execCsrWrite x s = .next u := by
    rw [execCsrWrite, hu]
    dsimp only
    split
    · rw [ha, Bool.not_false, Bool.true_or, Bool.true_or, if_pos rfl]
    · rfl
  have hs : execSidebandStatus x s = .next u := by
    rw [execSidebandStatus, hu]
    dsimp only
    rw [ha, Bool.false_and, if_neg Bool.false_ne_true]
  intro k hk
  simp only [List.mem_cons, List.not_mem_nil, or_false] at hk
  obtain rfl | rfl | rfl := hk
  · exact hr
  · exact hw
  · exact hs

/-! ## One access of `CE_FQH` -/

/-- The state with the register's half counted busy, whatever the sideband holds. -/
theorem touchHalf_side (s : State) (pa : Nat) (d : Side) :
    State.touchHalf { s with side := d } pa = { s.touchHalf pa with side := d } := by
  unfold State.touchHalf
  split <;> rfl

theorem fqh_read (s : State) (t : TileId) : s.sizedRead (.ce t 0x20) 4 = ((s.tile t).eng.fqh.setWidth 64, s) := rfl

/-- While the image has not given `CE_FQH` a value it reads 0. -/
theorem fqh_unapplied (l : Loader) (t : TileId) (v : Word) :
    v.setWidth 64 &&& ~~~(l.unapplied (paCe t 0x20)) =
      (if l.phase = 5 ∨ l.applied = true ∧ paCe t 0x20 ∈ l.named then v else 0).setWidth 64 := by
  have hb : csrBlk (paCe t 0x20) = some (.ce t 0x20) := csrBlk_paCe t (by omega)
  rw [Loader.unapplied, Loader.gives, hb]
  simp only [Bool.or_false, Bool.or_eq_true, decide_eq_true_eq, Bool.and_eq_true, List.contains_iff_mem]
  split
  · exact BitVec.and_allOnes
  · change v.setWidth 64 &&& ~~~(0xFFFFFFFF#64) = 0
    rw [show ~~~(0xFFFFFFFF#64) = BitVec.allOnes 32 ++ 0#32 by decide]
    apply BitVec.eq_of_getLsbD_eq
    intro i hi
    rw [BitVec.getLsbD_and, BitVec.getLsbD_append]
    by_cases h : i < 32
    · simp [h]
    · simp [BitVec.getLsbD_of_ge v i (by omega)]

theorem fqh_block (t : TileId) : csrBlk (paCe t 0x20) = some (.ce t 0x20) := csrBlk_paCe t (by omega)

theorem fqh_ofTile (t : TileId) : (Blk.ce t 0x20).ofTile t := ⟨_, .inr (.inr rfl)⟩

theorem fqh_ready {s : State} {t : TileId} (h : s.tileOn t = true ∧ (s.tile t).zeroed = true) : s.blkReady (.ce t 0x20) = true := by
  rw [blkReady_ofTile (fqh_ofTile t), h.1, h.2]
  rfl

theorem fqh_off {s : State} {t : TileId} (h : s.tileOn t = false) : s.blkReady (.ce t 0x20) = false := by
  rw [blkReady_ofTile (fqh_ofTile t), h]
  rfl

/-- The value that a read of `CE_FQH` returns. -/
def fqhSeen (s : State) (t : TileId) : Word :=
  if s.ld.phase = 5 ∨ s.ld.applied = true ∧ paCe t 0x20 ∈ s.ld.named then (s.tile t).eng.fqh else 0

/-- The state after a write of `CE_FQH`. -/
def State.fqhSet (s : State) (t : TileId) (v : Word) : State := s.modEng (.tile t) (fun g => { g with fqh := v })

theorem fqhSet_onlyTile (s : State) (t : TileId) (v : Word) : OnlyTile s (s.fqhSet t v) t :=
  State.onlyTile_modTile s t _

theorem tile_fqhSet (s : State) (t : TileId) (v : Word) :
    (s.fqhSet t v).tile t = { s.tile t with eng := { (s.tile t).eng with fqh := v } } :=
  State.tile_modTile_self s t _

theorem fqh_width {t : TileId} : (Blk.ce t 0x20).width ≠ some (8 : Byte).toNat := by
  change some 4 ≠ some 8
  decide

theorem fqh_doWrite (s : State) (src : Src) (t : TileId) (d : DWord) (ver : Option Bool) :
    s.doWrite src (.ce t 0x20) 4 d ver = s.fqhSet t (d.extractLsb' 0 32) :=
  (doWrite_ce (o := 0x20) (r := .fqh) rfl).trans rfl

theorem fqhSeen_touchHalf (s : State) (pa : Nat) (t : TileId) : fqhSeen (s.touchHalf pa) t = fqhSeen s t := by
  rw [fqhSeen, State.tile_touchHalf, fqhSeen]
  obtain ⟨c, e⟩ := s.touchHalf_eq pa
  rw [e]

/-- What a read of `CE_FQH` returns, the image's bits masked. -/
theorem fqh_masked (s : State) (t : TileId) :
    ((s.tile t).eng.fqh.setWidth 64 &&& ~~~(s.ld.unapplied (paCe t 0x20)) : DWord) = (fqhSeen s t).setWidth 64 :=
  fqh_unapplied s.ld t (s.tile t).eng.fqh

section
variable (s : State) (t : TileId) (d : DWord)

/-- A read by JTAG. -/
theorem makeAccess_jtag_read : s.makeAccess ⟨.jtag, false, paCe t 0x20, 4, d⟩ =
    { s.touchHalf (paCe t 0x20) with
      side := { (s.touchHalf (paCe t 0x20)).side with data := (fqhSeen s t).setWidth 64, done := true } } := by
  rw [State.makeAccess, fqh_block]
  dsimp only
  rw [if_neg Bool.false_ne_true, if_pos rfl, fqh_read, fqh_masked, fqhSeen_touchHalf]

/-- A write by JTAG. -/
theorem makeAccess_jtag_write : s.makeAccess ⟨.jtag, true, paCe t 0x20, 4, d⟩ =
    { (s.touchHalf (paCe t 0x20)).fqhSet t (d.extractLsb' 0 32) with
      side := { (s.touchHalf (paCe t 0x20)).side with done := true } } := by
  rw [State.makeAccess, fqh_block]
  dsimp only
  rw [if_pos rfl, if_pos rfl, fqh_doWrite]
  rfl

/-- A write by the sideband. -/
theorem makeAccess_mgmt_write : s.makeAccess ⟨.mgmt, true, paCe t 0x20, 4, d⟩ =
    (s.touchHalf (paCe t 0x20)).fqhSet t (d.extractLsb' 0 32) := by
  rw [State.makeAccess, fqh_block]
  dsimp only
  rw [if_pos rfl, if_neg (by decide), fqh_doWrite]

/-- A read by the sideband. -/
theorem makeAccess_mgmt_read : s.makeAccess ⟨.mgmt, false, paCe t 0x20, 4, d⟩ =
    { s.touchHalf (paCe t 0x20) with
      side := { (s.touchHalf (paCe t 0x20)).side with reply := 0 :: byteList (fqhSeen s t) 4 } } := by
  rw [State.makeAccess, fqh_block]
  dsimp only
  rw [if_neg Bool.false_ne_true, if_neg (by decide), fqh_read, fqh_masked, fqhSeen_touchHalf, bytesOf_eq_byteList,
    byteList_setWidth _ (by omega)]

/-- A read of another width. -/
theorem makeAccess_mgmt_wide : s.makeAccess ⟨.mgmt, false, paCe t 0x20, 8, d⟩ =
    { s.touchHalf (paCe t 0x20) with
      side := { (s.touchHalf (paCe t 0x20)).side with reply := 0 :: List.replicate 8 0 } } := by
  rw [State.makeAccess, fqh_block]
  dsimp only
  rw [if_neg Bool.false_ne_true, if_neg (by decide), State.sizedRead, if_neg (show (Blk.ce t 0x20).width ≠ some 8 from fqh_width),
    show ((0, s.touchHalf (paCe t 0x20)) : DWord × State).1 = 0 from rfl, show (0 : DWord) = 0#64 from rfl, BitVec.zero_and,
    bytesOf_zero]

/-- A read of `LD_STAT` by the sideband, which no image masks. -/
theorem makeAccess_mgmt_stat : s.makeAccess ⟨.mgmt, false, paLd 0, 8, d⟩ =
    { s with side := { s.side with reply := 0 :: byteList (s.ld.read .stat) 8 } } := by
  have hb : csrBlk (paLd 0) = some (.ld 0) := csrBlk_paLd (by omega)
  have hun : s.ld.unapplied (paLd 0) = 0 := by
    rw [Loader.unapplied, hb]
    exact ite_self _
  rw [State.makeAccess, hb]
  dsimp only
  rw [if_neg Bool.false_ne_true, if_neg (by decide), touchHalf_paLd, hun, bytesOf_eq_byteList]
  change { s with side := { s.side with reply := (0 : Byte) :: byteList (s.ld.read .stat &&& ~~~(0 : DWord)) 8 } } = _
  rw [show ~~~(0 : DWord) = BitVec.allOnes 64 from rfl, BitVec.and_allOnes]

end

/-! ## The accesses -/

/-- A JTAG access at a register that is ready. -/
theorem jtagAccess_of_ready {s : State} {b : Blk} (w : Bool) (ha : s.alive = true) (hb : csrBlk s.side.pa = some b)
    (hr : s.blkReady b = true) :
    s.jtagAccess w = s.makeAccess ⟨.jtag, w, s.side.pa, s.side.width, s.side.data⟩ := by
  rw [State.jtagAccess, ha, hb]
  dsimp only
  rw [if_neg (by simp), if_pos hr]

/-- A JTAG access at a register that is off before the release. -/
theorem jtagAccess_of_off {s : State} {b : Blk} (w : Bool) (ha : s.alive = true) (hb : csrBlk s.side.pa = some b)
    (hr : s.blkReady b = false) (hp : s.ld.phase ≠ 5) : s.jtagAccess w = { s with
      side := { s.side with held := s.side.held ++ [⟨.jtag, w, s.side.pa, s.side.width, s.side.data⟩] } } := by
  rw [State.jtagAccess, ha, hb]
  dsimp only
  rw [if_neg (by simp), if_neg (by simp [hr]), State.holdAccess, if_pos hp]

/-- A held access that is ready is made when it is the oldest. -/
theorem heldAccess_of_ready {s : State} {a : HeldAcc} {l : List HeldAcc} {b : Blk} (ha : s.alive = true)
    (hh : s.side.held = a :: l) (hb : csrBlk a.pa = some b) (hr : s.blkReady b = true) :
    exec .heldAccessRelease s = .next (State.makeAccess { s with side := { s.side with held := l } } a) := by
  have hacc : s.accReady a = true := by rw [State.accReady, hb]; exact hr
  change execHeldAccessRelease s = _
  rw [execHeldAccessRelease, hh, takeReady, if_pos hacc]
  exact congrArg _ (if_pos ha)

/-- CSRADDR with WRITE 0. -/
theorem csraddr_reads (s : State) {x : BitVec 48} (h : x.getLsbD 47 = false) : exec (.csraddr x) s =
    .next (State.jtagAccess { s with side := { s.side with ir := 0x10, addr := x, done := false } } false) :=
  congrArg Host.Outcome.next (if_neg fun hw => Bool.false_ne_true (h.symm.trans hw))

/-- CSRDATA behind an address with WRITE 1. -/
theorem csrdata_writes {s : State} (y : BitVec 65) (h : s.side.addr.getLsbD 47 = true) : exec (.csrdata y) s =
    .next (State.jtagAccess
      { s with side := { s.side with ir := 0x11, data := y.extractLsb' 0 64, done := false } } true) :=
  congrArg Host.Outcome.next (if_pos h)

section
variable {s : State} {pa n : Nat}

theorem mgmtRead_of_dead (h : s.alive = false) : s.mgmtRead pa n = s.mgmtRefuses 1 (if n = 4 then 4 else 8) := by
  rw [State.mgmtRead, h]
  rfl

theorem mgmtRead_of_width (h : s.alive = true) (h4 : n ≠ 4) (h8 : n ≠ 8) : s.mgmtRead pa n = s.mgmtRefuses 3 8 := by
  rw [State.mgmtRead, h, if_neg (by simp), if_pos (by simp [h4, h8])]

theorem mgmtRead_of_ready {b : Blk} (h : s.alive = true) (hn : n = 4 ∨ n = 8) (hb : csrBlk pa = some b)
    (hr : s.blkReady b = true) : s.mgmtRead pa n = s.makeAccess ⟨.mgmt, false, pa, n, 0⟩ := by
  rw [State.mgmtRead, h, if_neg (by simp), if_neg (by obtain h | h := hn <;> simp [h]), hb]
  exact if_pos hr

theorem mgmtRead_of_off {b : Blk} (h : s.alive = true) (hn : n = 4 ∨ n = 8) (hb : csrBlk pa = some b)
    (hr : s.blkReady b = false) (hp : s.ld.phase ≠ 5) : s.mgmtRead pa n = s.mgmtRefuses 2 n := by
  rw [State.mgmtRead, h, if_neg (by simp), if_neg (by obtain h | h := hn <;> simp [h]), hb]
  dsimp only
  rw [if_neg (by simp [hr]), if_pos hp]

end

/-! ## The obligation -/

/-- Settles O52: each access is one `makeAccess`, is held, or is refused. -/
theorem serviceAccess : Obligations.ServiceAccess := by
  unfold Obligations.ServiceAccess
  refine ⟨fun s t x y l rest d => ?_, fun s t x w n v a => ?_⟩
  · intro e alive pa s0 ready fqh stored named acc
    have hpa : pa = paCe t 0x20 := by simp only [pa, paCe]; omega
    have hblk : csrBlk pa = some (.ce t 0x20) := by rw [hpa]; exact fqh_block t
    have hseen (e' : Side) : fqhSeen { s with side := e' } t = fqh := by rw [fqhSeen, ← hpa]; rfl
    have halive (h : alive) (e' : Side) : State.alive { s with side := e' } = true := by simp [State.alive, h.1, h.2]
    have hready (h : ready) (e' : Side) : State.blkReady { s with side := e' } (.ce t 0x20) = true := fqh_ready h
    have hoff (h : s.tileOn t = false) (e' : Side) : State.blkReady { s with side := e' } (.ce t 0x20) = false := fqh_off h
    have hbits {a : BitVec 48} {b : Bool} {e' : Side} (h : named a b) (ha : e'.addr = a) : e'.pa = pa ∧ e'.width = 4 := by
      obtain ⟨h1, h2, -⟩ := h
      refine ⟨by rw [Side.pa, ha]; exact h1, ?_⟩
      rw [Side.width, ha, bit, h2]
      rfl
    have hmade (e' : Side) (h : alive) (hr : ready) (w : Bool) (hw : e'.pa = pa ∧ e'.width = 4) :
        State.jtagAccess { s with side := e' } w = State.makeAccess { s with side := e' } ⟨.jtag, w, pa, 4, e'.data⟩ := by
      rw [jtagAccess_of_ready (b := .ce t 0x20) w (halive h e') (by rw [← hblk]; exact congrArg csrBlk hw.1) (hready hr e'),
        hw.1, hw.2]
    have hheld (e' : Side) (h : alive) (ho : s.tileOn t = false) (hp : s.ld.phase ≠ 5) (w : Bool)
        (hw : e'.pa = pa ∧ e'.width = 4) : State.jtagAccess { s with side := e' } w =
          { s with side := { e' with held := e'.held ++ [⟨.jtag, w, pa, 4, e'.data⟩] } } := by
      rw [jtagAccess_of_off (b := .ce t 0x20) w (halive h e') (by rw [← hblk]; exact congrArg csrBlk hw.1) (hoff ho e') hp,
        hw.1, hw.2]
    have hread (e' : Side) (v : DWord) : State.makeAccess { s with side := e' } ⟨.jtag, false, pa, 4, v⟩ =
        { s0 with side := { e' with data := fqh.setWidth 64, done := true } } := by
      rw [hpa, makeAccess_jtag_read, hseen, ← hpa, touchHalf_side]
    have hwrite (e' : Side) (v : DWord) : State.makeAccess { s with side := e' } ⟨.jtag, true, pa, 4, v⟩ =
        { s0.fqhSet t (v.extractLsb' 0 32) with side := { e' with done := true } } := by
      rw [hpa, makeAccess_jtag_write, ← hpa, touchHalf_side]
      rfl
    have hwriteMgmt (e' : Side) (v : DWord) : State.makeAccess { s with side := e' } ⟨.mgmt, true, pa, 4, v⟩ =
        { s0.fqhSet t (v.extractLsb' 0 32) with side := e' } := by
      rw [hpa, makeAccess_mgmt_write, ← hpa, touchHalf_side]
      rfl
    have hstored (e' : Side) (v : Word) : stored { s0.fqhSet t v with side := e' } v := by
      refine ⟨fqhSet_onlyTile { s0 with side := e' } t v, ?_⟩
      rw [← State.tile_touchHalf s pa t]
      exact tile_fqhSet s0 t v
    refine ⟨fun hl hn => ⟨fun hr => ?_, fun ho hp => ?_⟩, fun hn => ?_, fun hl hn => ⟨fun hr => ?_, fun ho hp => ?_⟩,
      fun hn => ?_, fun hl hr => ⟨fun hh => ?_, fun hh => ?_, fun hh => ?_⟩, rfl, rfl, rfl, rfl⟩
    · rw [csraddr_reads s hn.2.2, hmade _ hl hr _ (hbits hn rfl), hread]
    · rw [csraddr_reads s hn.2.2, hheld _ hl ho hp _ (hbits hn rfl)]
    · exact congrArg Host.Outcome.next (if_pos hn.2.2)
    · refine ⟨_, (csrdata_writes y hn.2.2).trans ?_, hstored _ _, rfl⟩
      rw [hmade { e with ir := 0x11, data := y.extractLsb' 0 64, done := false } hl hr true (hbits hn rfl), hwrite, ← low_low y]
    · rw [csrdata_writes y hn.2.2,
        hheld { e with ir := 0x11, data := y.extractLsb' 0 64, done := false } hl ho hp true (hbits hn rfl)]
    · exact congrArg Host.Outcome.next (if_neg fun hw => Bool.false_ne_true (hn.2.2.symm.trans hw))
    · refine ⟨_, (heldAccess_of_ready (halive hl e) hh hblk (hready hr e)).trans ?_, hstored _ _, rfl⟩
      rw [hwrite]
    · refine ⟨_, (heldAccess_of_ready (halive hl e) hh hblk (hready hr e)).trans ?_, hstored _ _, rfl⟩
      rw [hwriteMgmt]
    · refine (heldAccess_of_ready (halive hl e) hh hblk (hready hr e)).trans ?_
      rw [hread]
  · intro e r pa r0 on mine head ask reads sends writes runs answers zeros fqh ready l
    have hu : { s with lands := s.lands.restore x.rails } = r := rfl
    have hans : r.sbAnswers x = true ↔ mine := sbAnswers_iff r x
    have halive : r.alive = true ↔ runs := by simp [State.alive, runs, r]
    let q : State := { r with side := { e with head := head } }
    have hpa (h : fqh) : pa = paCe t 0x20 := by rw [h, paCe]; omega
    have hq : q.touchHalf pa = { r0 with side := q.side } := touchHalf_side r pa _
    have hseen (h : fqh) : fqhSeen q t = if l.phase = 5 ∨ l.applied = true ∧ pa ∈ l.named then (s.tile t).eng.fqh else 0 := by
      rw [fqhSeen, ← hpa h]
      rfl
    have hrd (h : reads) : exec (.csrRead x) s = .next (q.mgmtRead pa n.toNat) :=
      execCsrRead_of hu h.2 (hans.2 h.1)
    have hwr (h : writes) : exec (.csrWrite x) s = .next (if n.toNat = 4 ∨ n.toNat = 8 then
        r.regWrite .mgmt pa n.toNat (leBits 64 (byteList v n.toNat)) none else r) :=
      execCsrWrite_of hu (sbWritten_of_sent h.2) (length_byteList v _) (hans.2 h.1)
    have hno (h : ¬mine) : r.sbAnswers x = false := Bool.eq_false_iff.2 (mt hans.1 h)
    have hdead (h : ¬runs) : r.alive = false := Bool.eq_false_iff.2 (mt halive.1 h)
    have hblk (h : fqh) : csrBlk pa = some (.ce t 0x20) := by rw [hpa h]; exact fqh_block t
    have hstatus : r.statusByte = (0#4) ++ BitVec.ofBool (decide (runs ∧ l.phase = 5)) ++ BitVec.ofBool s.unrec ++
        BitVec.ofBool s.pw.trip ++ BitVec.ofBool (decide (r.lands.railBad = 0 ∧ r.lands.railOff = 0)) := by
      have hp : (r.alive && decide (r.ld.phase = 5)) = decide (runs ∧ l.phase = 5) := by
        rw [Bool.eq_iff_iff, Bool.and_eq_true, decide_eq_true_eq, decide_eq_true_eq]
        exact and_congr_left fun _ => halive
      rw [State.statusByte, hp, ← Bool.decide_and, b2v_eq, b2v_eq, b2v_eq, b2v_eq]
    have hword : (leBits 64 (byteList v 4) : DWord) = (v.extractLsb' 0 32).setWidth 64 := by
      rw [leBits_byteList]
      congr 1
    have hdata : (leBits 64 (byteList v 4) : DWord).extractLsb' 0 32 = v.extractLsb' 0 32 := by
      rw [hword]
      apply BitVec.eq_of_getLsbD_eq
      intro i hi
      simp [hi, show i < 64 by omega]
    have h4 : (4 : Byte).toNat = 4 := rfl
    have h8 : (8 : Byte).toNat = 8 := rfl
    have hn4 (h : n ≠ 4) : n.toNat ≠ 4 := fun e => h (BitVec.eq_of_toNat_eq e)
    have hn8 (h : n ≠ 8) : n.toNat ≠ 8 := fun e => h (BitVec.eq_of_toNat_eq e)
    refine ⟨fun hm hb => ?_, fun hm k hk => ?_, fun hi hs => ?_, ?_, fun h hl => ?_, fun h hl => ?_, fun h hl h4 h8 => ?_,
      fun h h4 h8 => ?_, fun h hl hp h8 => ?_, fun hl hp hr => ⟨fun h hn => ?_, fun h hn => ?_, fun h hn => ?_, fun h hn => ?_⟩,
      fun hl hp ho hph hn => ⟨fun h => ?_, fun h => ?_⟩⟩
    · refine (congrArg Host.Outcome.next (if_pos (by simp [hu, hans.2 hm, hb]))).trans ?_
      rw [hu, hstatus]
      rfl
    · exact sideband_unanswered hu (hno hm) k hk
    · change execCsrWrite x s = _
      rw [execCsrWrite, sbWritten_of_unsent hi fun b hb => hs b (by simpa [sends, hi] using hb)]
      rfl
    · change execDynamicAddress a s = _
      rw [execDynamicAddress, State.standby, bit]
      cases s.lands.railOff.getLsbD 25 <;> rfl
    · refine (hrd h).trans ?_
      rw [mgmtRead_of_dead (s := q) (hdead hl)]
      by_cases hn : n = 4
      · subst hn; rfl
      · rw [if_neg (hn4 hn), if_neg hn]; rfl
    · rw [hwr h, regWrite_of_dead (hdead hl), ite_self]
    · refine (hrd h).trans ?_
      rw [mgmtRead_of_width (s := q) (halive.2 hl) (hn4 h4) (hn8 h8)]
      rfl
    · rw [hwr h, if_neg (not_or.2 ⟨hn4 h4, hn8 h8⟩)]
    · subst h8
      refine (hrd h).trans ?_
      have hp' : pa = paLd 0 := by rw [hp, paLd]
      have hb : csrBlk pa = some (.ld 0) := by rw [hp']; exact csrBlk_paLd (by omega)
      rw [mgmtRead_of_ready (s := q) (halive.2 hl) (.inr h8) hb rfl, h8, hp', makeAccess_mgmt_stat, Loader.read, b2v_eq, b2v_eq,
        b2v_eq, b2v_eq, b2v_eq]
    · subst hn
      refine (hrd h).trans ?_
      rw [mgmtRead_of_ready (s := q) (halive.2 hl) (.inl h4) (hblk hp) (fqh_ready hr), h4, hpa hp,
        makeAccess_mgmt_read, ← hpa hp, hq, hseen hp]
    · subst hn
      refine (hrd h).trans ?_
      rw [mgmtRead_of_ready (s := q) (halive.2 hl) (.inr h8) (hblk hp) (fqh_ready hr), h8, hpa hp,
        makeAccess_mgmt_wide, ← hpa hp, hq]
    · subst hn
      rw [hwr h, if_pos (.inr rfl), regWrite_of_ready (halive.2 hl) (hblk hp) rfl (fqh_ready hr), doWrite_of_width_ne fqh_width]
    · subst hn
      rw [hwr h, if_pos (.inl rfl), regWrite_of_ready (halive.2 hl) (hblk hp) rfl (fqh_ready hr), h4, fqh_doWrite, hdata]
      refine ⟨_, rfl, fqhSet_onlyTile _ t _, ?_⟩
      rw [tile_fqhSet, State.tile_touchHalf]
      rfl
    · subst hn
      refine (hrd h).trans ?_
      rw [mgmtRead_of_off (s := q) (halive.2 hl) (.inl h4) (hblk hp) (fqh_off ho) hph]
      rfl
    · subst hn
      rw [hwr h, if_pos (.inl rfl), regWrite_of_held (halive.2 hl) (hblk hp) rfl (fqh_off ho), h4, hword, State.holdAccess,
        if_pos hph]

end Sys2Proof.Machine
end

section
/-! O49: what each domain event changes of its Cob and of the tiles of its half, and the events of Kiln 1. -/
namespace Sys2Proof.Machine

open Sys2Proof.Safety

/-! ## One Cob -/

/-- The state with Cob `c` now `y`, the other Cobs as they were. -/
def OnlyCob (s u : State) (c : CobNo) (y : Cob) : Prop :=
  u = { s with cobs := u.cobs } ∧ u.cob c = y ∧ ∀ k, k ≠ c → u.cob k = s.cob k

theorem OnlyCob.refl (s : State) (c : CobNo) : OnlyCob s s c (s.cob c) := ⟨rfl, rfl, fun _ _ => rfl⟩

theorem OnlyCob.modCob {s u : State} {c : CobNo} {y : Cob} (h : OnlyCob s u c y) (f : Cob → Cob) :
    OnlyCob s (u.modCob c f) c (f y) := by
  obtain ⟨hu, hc, hk⟩ := h
  refine ⟨?_, by rw [State.cob_modCob_self, hc], fun k hne => by rw [State.cob_modCob, if_neg hne, hk k hne]⟩
  rw [hu]
  rfl

/-- The power of a half put to `p`. -/
def Cob.putHalf (y : Cob) (so : Bool) (p : Power) : Cob := if so then { y with south := p } else { y with north := p }

theorem half_putHalf (y : Cob) (so : Bool) (p : Power) : (y.putHalf so p).half so = p := by cases so <;> rfl

theorem OnlyCob.setHalf {s u : State} {c : CobNo} {y : Cob} (h : OnlyCob s u c y) (so : Bool) (p : Power) :
    OnlyCob s (u.setDom (.half c so) p) c (y.putHalf so p) := by cases so <;> exact h.modCob _

/-- What a wake makes of a domain's power. -/
def Power.awake : Power → Power
  | .off => .goingOn
  | .goingOff _ => .goingOff true
  | p => p

/-- One domain woken. -/
def State.up (s : State) (d : Domain) : State :=
  match s.dom d with
  | .off => s.setDom d .goingOn
  | .goingOff _ => s.setDom d (.goingOff true)
  | _ => s

theorem OnlyCob.upMemif {s u : State} {c : CobNo} {y : Cob} (h : OnlyCob s u c y) :
    OnlyCob s (u.up (.memif c)) c { y with memif := y.memif.awake } := by
  have hd : u.dom (.memif c) = y.memif := by rw [State.dom, h.2.1]
  obtain ⟨n, so, m, _⟩ := y
  rw [State.up, hd]
  cases m with
  | on => exact h
  | off => exact h.modCob _
  | goingOff w => exact h.modCob _
  | goingOn => exact h

theorem OnlyCob.upHalf {s u : State} {c : CobNo} {y : Cob} (h : OnlyCob s u c y) (so : Bool) :
    OnlyCob s (u.up (.half c so)) c (y.putHalf so (y.half so).awake) := by
  have hd : u.dom (.half c so) = y.half so := by rw [State.dom, h.2.1]
  have hsame : y.putHalf so (y.half so) = y := by cases so <;> rfl
  rw [State.up, hd]
  cases hp : y.half so with
  | on => rw [hp] at hsame; rw [show Power.on.awake = .on from rfl, hsame]; exact h
  | off => exact h.setHalf so _
  | goingOff w => exact h.setHalf so _
  | goingOn => rw [hp] at hsame; rw [show Power.goingOn.awake = .goingOn from rfl, hsame]; exact h

/-- The idle count of a half begun again. -/
def Cob.unidle (y : Cob) (so : Bool) : Cob := if so then { y with idleS := 0 } else { y with idleN := 0 }

section
variable {s : State} {c : CobNo} {so : Bool} (ha : s.alive = true) (hk : s.pw.kiln0 = true)
include ha hk

theorem wake_memif : s.wake (.memif c) = s.up (.memif c) := by
  rw [State.wake, if_neg (by simp [ha, hk])]
  rfl

theorem wake_half_asleep (hm : s.halfMode c so = 1) : s.wake (.half c so) = s.modCob c (fun x => x.unidle so) := by
  rw [State.wake, if_neg (by simp [ha, hk])]
  exact if_pos hm

theorem wake_half_up (hm : s.halfMode c so ≠ 1) :
    s.wake (.half c so) = ((s.modCob c (fun x => x.unidle so)).up (.memif c)).up (.half c so) := by
  rw [State.wake, if_neg (by simp [ha, hk])]
  exact if_neg hm

end

/-! ## The tiles of a half -/

theorem mem_halfTiles {c : CobNo} {so : Bool} {t : TileId} : t ∈ halfTiles c so ↔ tileCob t = c ∧ tileSouth t = so := by
  have hcob : (tileCob t).toNat = t.toNat / 256 % 16 := by
    rw [tileCob, bits, BitVec.extractLsb'_toNat, Nat.shiftRight_eq_div_pow]
  have hso : tileSouth t = decide (t.toNat / 128 % 2 = 1) := by
    rw [tileSouth, bit, BitVec.getLsbD, Nat.testBit_eq_decide_div_mod_eq]
  have ht := t.isLt
  have hc := c.isLt
  rw [halfTiles, List.mem_map, ← BitVec.toNat_inj, hcob, hso]
  constructor
  · rintro ⟨i, hi, rfl⟩
    have hi' := List.mem_range.1 hi
    cases so <;> simp <;> omega
  · rintro ⟨h1, h2⟩
    refine ⟨t.toNat % 128, List.mem_range.2 (Nat.mod_lt _ (by decide)), BitVec.eq_of_toNat_eq ?_⟩
    cases so <;> simp at h2 ⊢ <;> omega

/-- Within a half the low 8 bits of a tile ID tell it. -/
theorem eq_of_low {c : CobNo} {so : Bool} {t r : TileId} (ht : t ∈ halfTiles c so) (hr : r ∈ halfTiles c so)
    (h : r.toNat % 256 = t.toNat % 256) : r = t := by
  obtain ⟨i, hi, rfl⟩ := List.mem_map.1 ht
  obtain ⟨j, hj, rfl⟩ := List.mem_map.1 hr
  have hi' := List.mem_range.1 hi
  have hj' := List.mem_range.1 hj
  have hc := c.isLt
  simp only [BitVec.toNat_ofNat] at h
  rw [show j = i by cases so <;> simp at h <;> omega]

section
variable {F : State → TileId → State}

/-- A change of tiles one after the other changes tiles alone. -/
theorem foldl_tiles_frame (hF : ∀ a r, F a r = { a with tiles := (F a r).tiles }) (l : List TileId) :
    ∀ s : State, l.foldl F s = { s with tiles := (l.foldl F s).tiles } := by
  induction l with
  | nil => exact fun _ => rfl
  | cons r l ih =>
    intro s
    rw [List.foldl_cons, ih (F s r), hF s r]

theorem foldl_tile_ne {t : TileId} (hF : ∀ a r, t ≠ r → (F a r).tile t = a.tile t) (l : List TileId) (ht : t ∉ l) :
    ∀ s : State, (l.foldl F s).tile t = s.tile t := by
  induction l with
  | nil => exact fun _ => rfl
  | cons r l ih =>
    obtain ⟨hne, hl⟩ := not_or.1 (mt List.mem_cons.2 ht)
    exact fun s => (ih hl (F s r)).trans (hF s r hne)

/-- What each change keeps, under a condition on the rest of the state, and what the tile's own change establishes. -/
theorem foldl_tile_of {C : State → Prop} {I Q : Tile → Prop} {t : TileId} (hC : ∀ a r, C a → C (F a r))
    (hne : ∀ a r, t ≠ r → (F a r).tile t = a.tile t)
    (heq : ∀ a, C a → I (a.tile t) → I ((F a t).tile t) ∧ Q ((F a t).tile t)) (l : List TileId) :
    ∀ s : State, C s → I (s.tile t) → I ((l.foldl F s).tile t) ∧ (t ∈ l ∨ Q (s.tile t) → Q ((l.foldl F s).tile t)) := by
  induction l with
  | nil => exact fun s _ h => ⟨h, fun k => k.resolve_left (by simp)⟩
  | cons r l ih =>
    intro s hs h
    rw [List.foldl_cons]
    by_cases hr : t = r
    · subst hr
      obtain ⟨hI, hQ⟩ := heq s hs h
      obtain ⟨h1, h2⟩ := ih (F s t) (hC s t hs) hI
      exact ⟨h1, fun _ => h2 (.inr hQ)⟩
    · obtain ⟨h1, h2⟩ := ih (F s r) (hC s r hs) (by rw [hne s r hr]; exact h)
      refine ⟨h1, fun k => h2 (k.imp (fun m => (List.mem_cons.1 m).resolve_left hr) fun q => ?_)⟩
      rw [hne s r hr]
      exact q

end

/-- What a tile without power keeps: the image's owner and vector bases. -/
def Tile.kept (tl : Tile) : Tile := { func := tl.func, mvbase := tl.mvbase, svbase := tl.svbase }

theorem loseHalf_eq (s : State) (c : CobNo) (so : Bool) :
    s.loseHalf c so = (halfTiles c so).foldl (fun a r => a.modTile r Tile.kept) s := rfl

theorem tile_modTile_of_ne {a : State} {t r : TileId} (g : Tile → Tile) (h : t ≠ r) : (a.modTile r g).tile t = a.tile t := by
  rw [State.tile_modTile, if_neg h]

theorem tile_loseHalf (s : State) (c : CobNo) (so : Bool) (t : TileId) : (s.loseHalf c so).tile t =
    if tileCob t = c ∧ tileSouth t = so then (s.tile t).kept else s.tile t := by
  have hne (a : State) (r : TileId) (h : t ≠ r) : (a.modTile r Tile.kept).tile t = a.tile t := tile_modTile_of_ne _ h
  rw [loseHalf_eq]
  by_cases h : tileCob t = c ∧ tileSouth t = so
  · rw [if_pos h]
    have hone (a : State) (_ : True) (hI : (a.tile t).kept = (s.tile t).kept) :
        ((a.modTile t Tile.kept).tile t).kept = (s.tile t).kept ∧ (a.modTile t Tile.kept).tile t = (s.tile t).kept := by
      rw [State.tile_modTile_self]
      exact ⟨hI, hI⟩
    exact (foldl_tile_of (C := fun _ => True) (I := fun x => x.kept = (s.tile t).kept) (Q := fun x => x = (s.tile t).kept)
      (fun _ _ _ => trivial) hne hone (halfTiles c so) s trivial rfl).2 (.inl (mem_halfTiles.2 h))
  · rw [if_neg h]
    exact foldl_tile_ne hne _ (fun hm => h (mem_halfTiles.1 hm)) s

theorem loseHalf_frame (s : State) (c : CobNo) (so : Bool) : s.loseHalf c so = { s with tiles := (s.loseHalf c so).tiles } :=
  foldl_tiles_frame (fun _ _ => rfl) _ s

/-! ## What the power manager records -/

/-- The epochs and ACT of one tile recorded. -/
def Cob.record (x : Cob) (t : TileId) (tl : Tile) : Cob :=
  { x with
    acts := SMap.set 0 x.acts (t.toNat % 256) tl.quietAct
    epochs := (List.range 16).foldl (fun m q =>
      SMap.set 0 m (t.toNat % 256 * 16 + q) (tl.queue (BitVec.ofNat 4 q)).epoch) x.epochs }

/-- A run of keys from `b` on set one after the other. -/
theorem SMap.get_foldl_set_from {α : Type} [DecidableEq α] (d : α) (m : SMap α) (g : Nat → α) (b k n : Nat) :
    SMap.get d ((List.range n).foldl (fun a i => SMap.set d a (b + i) (g i)) m) k =
      if b ≤ k ∧ k < b + n then g (k - b) else SMap.get d m k := by
  induction n with
  | zero => rw [if_neg (by omega)]; rfl
  | succ n ih =>
    rw [List.range_succ, List.foldl_append, List.foldl_cons, List.foldl_nil, SMap.get_set, ih]
    by_cases h : k = b + n
    · subst h
      rw [if_pos rfl, if_pos (by omega), Nat.add_sub_cancel_left]
    · rw [if_neg h]
      by_cases hk : b ≤ k ∧ k < b + n
      · rw [if_pos hk, if_pos (by omega)]
      · rw [if_neg hk, if_neg (by omega)]

theorem acts_record (x : Cob) (r : TileId) (tl : Tile) (i : Nat) :
    SMap.get 0 (x.record r tl).acts i = if i = r.toNat % 256 then tl.quietAct else SMap.get 0 x.acts i := SMap.get_set _ _ _ _ _

theorem epochs_record (x : Cob) (r : TileId) (tl : Tile) (i : Nat) (q : QIx) :
    SMap.get 0 (x.record r tl).epochs (i * 16 + q.toNat) =
      if i = r.toNat % 256 then (tl.queue q).epoch else SMap.get 0 x.epochs (i * 16 + q.toNat) := by
  have hq := q.isLt
  refine (SMap.get_foldl_set_from 0 x.epochs (fun j => (tl.queue (BitVec.ofNat 4 j)).epoch) _ _ 16).trans ?_
  by_cases h : i = r.toNat % 256
  · subst h
    rw [if_pos rfl, if_pos (by omega), Nat.add_sub_cancel_left, BitVec.ofNat_toNat, BitVec.setWidth_eq]
  · rw [if_neg h, if_neg (by omega)]

/-- Recording tile after tile within one Cob. -/
theorem foldl_modCob_same (s : State) (c : CobNo) (g : TileId → Cob → Cob) (l : List TileId) : ∀ u y, OnlyCob s u c y →
    OnlyCob s (l.foldl (fun a t => a.modCob c (g t)) u) c (l.foldl (fun x t => g t x) y) := by
  induction l with
  | nil => exact fun _ _ h => h
  | cons t l ih => exact fun u y h => ih _ _ (h.modCob (g t))

/-- What one step of a fold establishes and no step spoils. -/
theorem foldl_establishes {α β : Type} {P : β → Prop} {g : β → α → β} {t : α} (hset : ∀ x, P (g x t)) {l : List α}
    (hkeep : ∀ r ∈ l, ∀ x, P x → P (g x r)) (ht : t ∈ l) : ∀ x, P (l.foldl g x) := by
  have hall (l' : List α) : l' ⊆ l → ∀ x, P x → P (l'.foldl g x) := by
    induction l' with
    | nil => exact fun _ _ h => h
    | cons r l' ih =>
      intro hsub x h
      exact ih (fun a ha => hsub (List.mem_cons_of_mem _ ha)) _ (hkeep r (hsub List.mem_cons_self) x h)
  obtain ⟨a, b, rfl⟩ := List.append_of_mem ht
  intro x
  rw [List.foldl_append, List.foldl_cons]
  exact hall b (fun i hi => by simp [hi]) _ (hset _)

/-- The recorded half: its Cob alone changes, in what it records, and each tile's epochs and ACT stand there. -/
theorem recordHalf_spec (s : State) (c : CobNo) (so : Bool) :
    ∃ y, OnlyCob s (s.recordHalf c so) c y ∧ y = { s.cob c with epochs := y.epochs, acts := y.acts } ∧
      ∀ t, tileCob t = c → tileSouth t = so → SMap.get 0 y.acts (t.toNat % 256) = (s.tile t).quietAct ∧
        ∀ q : QIx, SMap.get 0 y.epochs (t.toNat % 256 * 16 + q.toNat) = ((s.tile t).queue q).epoch := by
  refine ⟨(halfTiles c so).foldl (fun x t => x.record t (s.tile t)) (s.cob c),
    foldl_modCob_same s c (fun t x => x.record t (s.tile t)) _ s _ (OnlyCob.refl s c), ?_, fun t h1 h2 => ?_⟩
  · generalize s.cob c = x
    have h (l : List TileId) : ∀ x : Cob, ∃ e a, l.foldl (fun x t => x.record t (s.tile t)) x = { x with epochs := e, acts := a } := by
      induction l with
      | nil => exact fun x => ⟨x.epochs, x.acts, rfl⟩
      | cons t l ih =>
        intro x
        obtain ⟨e, a, h⟩ := ih (x.record t (s.tile t))
        exact ⟨e, a, h⟩
    obtain ⟨e, a, h⟩ := h (halfTiles c so) x
    rw [h]
  · have ht : t ∈ halfTiles c so := mem_halfTiles.2 ⟨h1, h2⟩
    have hP (r : TileId) (hr : r.toNat % 256 = t.toNat % 256 → r = t) (x : Cob)
        (h : r.toNat % 256 ≠ t.toNat % 256 → SMap.get 0 x.acts (t.toNat % 256) = (s.tile t).quietAct ∧
          ∀ q : QIx, SMap.get 0 x.epochs (t.toNat % 256 * 16 + q.toNat) = ((s.tile t).queue q).epoch) :
        SMap.get 0 (x.record r (s.tile r)).acts (t.toNat % 256) = (s.tile t).quietAct ∧
          ∀ q : QIx, SMap.get 0 (x.record r (s.tile r)).epochs (t.toNat % 256 * 16 + q.toNat) = ((s.tile t).queue q).epoch := by
      by_cases hl : r.toNat % 256 = t.toNat % 256
      · obtain rfl := hr hl
        exact ⟨by rw [acts_record, if_pos rfl], fun q => by rw [epochs_record, if_pos rfl]⟩
      · obtain ⟨ha, he⟩ := h hl
        exact ⟨by rw [acts_record, if_neg (Ne.symm hl), ha], fun q => by rw [epochs_record, if_neg (Ne.symm hl), he]⟩
    exact foldl_establishes (g := fun x r => Cob.record x r (s.tile r)) (P := fun x : Cob => SMap.get 0 x.acts (t.toNat % 256) = (s.tile t).quietAct ∧
        ∀ q : QIx, SMap.get 0 x.epochs (t.toNat % 256 * 16 + q.toNat) = ((s.tile t).queue q).epoch)
      (fun x => hP t (fun _ => rfl) x fun h => absurd rfl h) (fun r hr x h => hP r (eq_of_low ht hr) x fun _ => h) ht _

/-! ## A half that comes back -/

/-- What a tile is after its power is back, its queues' epochs aside. -/
structure Restored (s : State) (t : TileId) (tl x : Tile) : Prop where
  onAt : x.onAt = (s.cob (tileCob t)).cyc
  lmem : x.lmem = tl.lmem
  pmem : x.pmem = tl.pmem
  func : x.func = tl.func
  quietWin : x.quietWin = 16
  zeroed : x.zeroed = tl.zeroed
  th : ∀ h, (x.th h).run = (tl.th h).run ∧ (x.th h).pc = SMap.get 0 s.plan.imgPc (t.toNat * 4 + h.toNat) ∧
    (x.th h).slv = SMap.get false s.plan.imgSlv (t.toNat * 4 + h.toNat)

/-- What `Tile.powered` makes of a thread. -/
def Thread.back (x : Thread) (s : State) (t : TileId) (n : Nat) (h : Thr) : Thread :=
  { x.powered n (t.toNat * 1000 + 100 * (h.toNat + 1)) with
    pc := SMap.get 0 s.plan.imgPc (t.toNat * 4 + h.toNat), slv := SMap.get false s.plan.imgSlv (t.toNat * 4 + h.toNat) }

/-- The tile of `Tile.powered` before its threads are set. -/
def Tile.renewed (tl : Tile) (s : State) (t : TileId) (n : Nat) : Tile :=
  let b := t.toNat * 1000
  let fr (i w : Nat) : BitVec w := Config.free n (b + i) w
  Tile.defaults
    { tl with onAt := (s.cob (tileCob t)).cyc, shared := fr 1 7424, plru := fr 2 896
              treg := (List.range 8).foldl (fun m k => SMap.set {} m k { bytes := fr (10 + k) 16384 }) []
              eng := { tl.eng with qd := (List.range 8).foldl (fun m k => SMap.set 0 m k (fr (20 + k) 512)) [] } }

theorem powered_eq (tl : Tile) (s : State) (t : TileId) (n : Nat) :
    tl.powered s t n = (tl.renewed s t n).eachThread (fun a h => a.modTh h (fun x => x.back s t n h)) := rfl

theorem th_renewed (tl : Tile) (s : State) (t : TileId) (n : Nat) (h : Thr) : (tl.renewed s t n).th h = tl.th h := by
  have hthr : (tl.renewed s t n).thr = tl.thr := rfl
  rw [Tile.th, hthr, Tile.th]

theorem th_powered (tl : Tile) (s : State) (t : TileId) (n : Nat) (h : Thr) : (tl.powered s t n).th h = (tl.th h).back s t n h := by
  rw [powered_eq]
  refine (th_eachThread (g := fun h x => x.back s t n h) (fun _ => True) trivial (fun _ _ _ => trivial)
    (fun a k j _ => Tile.th_modTh a k j _) h).trans ?_
  rw [th_renewed]

theorem powered_frame (tl : Tile) (s : State) (t : TileId) (n : Nat) :
    tl.powered s t n = { tl.renewed s t n with thr := (tl.powered s t n).thr } := by
  rw [powered_eq]
  exact eachThread_frame (fun _ _ => rfl) _

/-- A powered tile is restored, whatever its power cycle had begun to restore. -/
theorem restored_powered {s a : State} {t : TileId} {tl x : Tile} (n : Nat) (hc : a.cobs = s.cobs) (hp : a.plan = s.plan)
    (hl : x.lmem = tl.lmem) (hm : x.pmem = tl.pmem) (hf : x.func = tl.func) (hz : x.zeroed = tl.zeroed)
    (hr : ∀ h, (x.th h).run = (tl.th h).run) : Restored s t tl (x.powered a t n) := by
  have hb := powered_frame x a t n
  have ho : (a.cob (tileCob t)).cyc = (s.cob (tileCob t)).cyc := by rw [State.cob, hc, State.cob]
  constructor
  · rw [hb]; exact ho
  · rw [hb]; exact hl
  · rw [hb]; exact hm
  · rw [hb]; exact hf
  · rw [hb]; rfl
  · rw [hb]; exact hz
  · intro h
    rw [th_powered, ← hp]
    exact ⟨hr h, rfl, rfl⟩

theorem queue_powered (tl : Tile) (s : State) (t : TileId) (n : Nat) (q : QIx) : (tl.powered s t n).queue q = tl.queue q := by
  have hq : (tl.powered s t n).q = tl.q := (congrArg Tile.q (powered_frame tl s t n) :)
  rw [Tile.queue, hq, Tile.queue]

/-- A queue that the image enables, in the epoch above the recorded one. -/
def Queue.renew (k : Queue) (e : BitVec 8) : Queue := if k.en then { k with epoch := e + 1 } else k

/-- The queues of a tile below `n`, those that are enabled in the epoch above the recorded one. -/
def Tile.renewTo (tl : Tile) (e : QIx → BitVec 8) (n : Nat) : Tile :=
  (List.range n).foldl (fun a i =>
    let q : QIx := BitVec.ofNat 4 i
    if (a.queue q).en then a.modQueue q (fun k => { k with epoch := e q + 1 }) else a) tl

theorem renewTo_spec (tl : Tile) (e : QIx → BitVec 8) {n : Nat} (hn : n ≤ 16) :
    tl.renewTo e n = { tl with q := (tl.renewTo e n).q } ∧
      ∀ q : QIx, (tl.renewTo e n).queue q = if q.toNat < n then (tl.queue q).renew (e q) else tl.queue q := by
  induction n with
  | zero => exact ⟨rfl, fun _ => rfl⟩
  | succ n ih =>
    obtain ⟨hframe, hq⟩ := ih (by omega)
    have hk (q : QIx) : q = BitVec.ofNat 4 n ↔ q.toNat = n := by
      rw [← BitVec.toNat_inj, BitVec.toNat_ofNat, Nat.mod_eq_of_lt (by omega)]
    have hlast : ((tl.renewTo e n).queue (BitVec.ofNat 4 n)) = tl.queue (BitVec.ofNat 4 n) := by
      rw [hq, if_neg (by rw [(hk _).1 rfl]; omega)]
    have hstep : tl.renewTo e (n + 1) = if (tl.queue (BitVec.ofNat 4 n)).en then
        (tl.renewTo e n).modQueue (BitVec.ofNat 4 n) (fun k => { k with epoch := e (BitVec.ofNat 4 n) + 1 })
        else tl.renewTo e n := by
      rw [← hlast, Tile.renewTo, List.range_succ, List.foldl_append]
      rfl
    refine ⟨?_, fun q => ?_⟩
    · rw [hstep]
      split
      · rw [hframe]; rfl
      · exact hframe
    · rw [hstep]
      by_cases hqn : q.toNat = n
      · obtain rfl := (hk q).2 hqn
        rw [if_pos (show _ < n + 1 by omega), Queue.renew]
        split
        · rw [Tile.queue_modQueue_self, hlast]
        · exact hlast
      · have hlt : q.toNat < n + 1 ↔ q.toNat < n := by omega
        rw [if_congr hlt rfl rfl, ← hq q]
        split
        · rw [Tile.queue_modQueue, if_neg (mt (hk q).1 hqn)]
        · rfl

theorem foldl_congr_mem {α β : Type} {f g : β → α → β} {l : List α} (h : ∀ a ∈ l, ∀ b, f b a = g b a) (b : β) :
    l.foldl f b = l.foldl g b := List.foldl_ext f g b fun x a ha => h a ha x

theorem tile_restoreEpochs (s : State) (r t : TileId) : (s.restoreEpochs r).tile t = if t = r then
    (s.tile r).renewTo (fun q => SMap.get 0 (s.cob (tileCob r)).epochs (r.toNat % 256 * 16 + q.toNat)) 16 else s.tile t := by
  have h : s.restoreEpochs r = s.modTile r (fun tl =>
      tl.renewTo (fun q => SMap.get 0 (s.cob (tileCob r)).epochs (r.toNat % 256 * 16 + q.toNat)) 16) := by
    refine congrArg (s.modTile r) (funext fun tl => ?_)
    rw [Tile.renewTo]
    refine foldl_congr_mem (fun i hi a => ?_) tl
    have hi' : (BitVec.ofNat 4 i).toNat = i := Nat.mod_eq_of_lt (List.mem_range.1 hi)
    simp only [hi']
  rw [h, State.tile_modTile]

theorem restored_renewTo {s : State} {t : TileId} {tl x : Tile} {e : QIx → BitVec 8} (h : Restored s t tl x) :
    Restored s t tl (x.renewTo e 16) := by
  obtain ⟨h1, h2, h3, h4, h5, h6, h7⟩ := h
  obtain ⟨m, hb⟩ : ∃ m, x.renewTo e 16 = { x with q := m } := ⟨_, (renewTo_spec x e (Nat.le_refl 16)).1⟩
  rw [hb]
  exact ⟨h1, h2, h3, h4, h5, h6, h7⟩

theorem renew_renew (k : Queue) (e : BitVec 8) : (k.renew e).renew e = k.renew e := by
  unfold Queue.renew
  cases h : k.en <;> simp [h]

/-- One tile powered. -/
def State.powerTile (n : Nat) (a : State) (t : TileId) : State := a.modTile t (fun tl => tl.powered a t n)

theorem tile_powerTile_ne {n : Nat} (a : State) (r : TileId) {t : TileId} (h : t ≠ r) : (a.powerTile n r).tile t = a.tile t :=
  tile_modTile_of_ne _ h

theorem tile_powerTile (n : Nat) (a : State) (t : TileId) : (a.powerTile n t).tile t = (a.tile t).powered a t n :=
  State.tile_modTile_self _ _ _

theorem modTile_frame (a : State) (t : TileId) (f : Tile → Tile) : a.modTile t f = { a with tiles := (a.modTile t f).tiles } := rfl

theorem restoreEpochs_frame (a : State) (t : TileId) : a.restoreEpochs t = { a with tiles := (a.restoreEpochs t).tiles } := by
  rw [State.restoreEpochs]
  exact modTile_frame a t _

theorem tile_restoreEpochs_ne (a : State) (r : TileId) {t : TileId} (h : t ≠ r) : (a.restoreEpochs r).tile t = a.tile t := by
  rw [tile_restoreEpochs, if_neg h]

/-- The first fold of a restored half: its tiles powered. -/
def State.powerHalf (s : State) (c : CobNo) (so : Bool) : State :=
  (halfTiles c so).foldl (State.powerTile s.free) { s with free := s.free + 1 }

theorem powerHalf_frame (s : State) (c : CobNo) (so : Bool) :
    s.powerHalf c so = { s with free := s.free + 1, tiles := (s.powerHalf c so).tiles } :=
  foldl_tiles_frame (fun _ _ => rfl) _ _

theorem restoreHalf_eq {s : State} (h : s.plan.restore = []) (c : CobNo) (so : Bool) :
    s.restoreHalf c so = (halfTiles c so).foldl (fun a t => a.restoreEpochs t) (s.powerHalf c so) := by
  have hp : (s.powerHalf c so).plan.restore = [] := by rw [powerHalf_frame]; exact h
  have hrun : { (s.powerHalf c so).plan with imgRun := s.plan.imgRun } = (s.powerHalf c so).plan := by
    rw [powerHalf_frame]
  unfold State.restoreHalf
  extract_lets n ts run s1 mine s2
  have hs1 : s1 = s.powerHalf c so := rfl
  clear_value s1
  subst hs1
  have hmine : mine = [] := by
    change List.filter _ (s.powerHalf c so).plan.restore = []
    rw [hp, List.filter_nil]
  clear_value mine
  subst hmine
  have hs2 : s2 = s.powerHalf c so := List.foldl_nil
  clear_value s2
  subst hs2
  have hu (u : State) (r : SMap Bool) (h : { u.plan with imgRun := r } = u.plan) :
      { u with plan := { u.plan with imgRun := r } } = u :=
    congrArg (fun p : Plan => { u with plan := p }) h
  rw [hu _ _ hrun]

/-- What a powered tile keeps. -/
structure Kept (tl x : Tile) : Prop where
  lmem : x.lmem = tl.lmem
  pmem : x.pmem = tl.pmem
  func : x.func = tl.func
  zeroed : x.zeroed = tl.zeroed
  run : ∀ h, (x.th h).run = (tl.th h).run
  queue : ∀ q, x.queue q = tl.queue q

theorem powerTile_restores {s a : State} {t : TileId} {tl : Tile} (hC : a.cobs = s.cobs ∧ a.plan = s.plan)
    (hI : Kept tl (a.tile t)) : Kept tl ((a.powerTile s.free t).tile t) ∧ Restored s t tl ((a.powerTile s.free t).tile t) := by
  have hR : Restored s t tl ((a.tile t).powered a t s.free) :=
    restored_powered s.free hC.1 hC.2 hI.lmem hI.pmem hI.func hI.zeroed hI.run
  rw [tile_powerTile]
  exact ⟨⟨hR.lmem, hR.pmem, hR.func, hR.zeroed, fun h => (hR.th h).1, fun q => (queue_powered _ _ _ _ q).trans (hI.queue q)⟩, hR⟩

theorem tile_powerHalf (s : State) {c : CobNo} {so : Bool} {t : TileId} (ht : t ∈ halfTiles c so) :
    Kept (s.tile t) ((s.powerHalf c so).tile t) ∧ Restored s t (s.tile t) ((s.powerHalf c so).tile t) := by
  have hkeep (a : State) (r : TileId) (hC : a.cobs = s.cobs ∧ a.plan = s.plan) :
      (a.powerTile s.free r).cobs = s.cobs ∧ (a.powerTile s.free r).plan = s.plan := hC
  obtain ⟨hK, hR⟩ := foldl_tile_of (F := State.powerTile s.free) (t := t) hkeep (fun a r => tile_powerTile_ne a r)
    (fun a hC hI => powerTile_restores hC hI) (halfTiles c so) { s with free := s.free + 1 } ⟨rfl, rfl⟩
    (⟨rfl, rfl, rfl, rfl, fun _ => rfl, fun _ => rfl⟩ : Kept (s.tile t) (s.tile t))
  exact ⟨hK, hR (.inl ht)⟩

/-- A half that has come back: its tiles restored, their enabled queues in newer epochs. -/
theorem restoreHalf_spec {s : State} (h : s.plan.restore = []) (c : CobNo) (so : Bool) :
    s.restoreHalf c so = { s with free := s.free + 1, tiles := (s.restoreHalf c so).tiles } ∧
      ∀ t, (¬(tileCob t = c ∧ tileSouth t = so) → (s.restoreHalf c so).tile t = s.tile t) ∧
        (tileCob t = c ∧ tileSouth t = so → Restored s t (s.tile t) ((s.restoreHalf c so).tile t) ∧
          ∀ q : QIx, ((s.restoreHalf c so).tile t).queue q =
            ((s.tile t).queue q).renew (SMap.get 0 (s.cob c).epochs (t.toNat % 256 * 16 + q.toNat))) := by
  have he : s.restoreHalf c so = (halfTiles c so).foldl State.restoreEpochs (s.powerHalf c so) := restoreHalf_eq h c so
  rw [he]
  have hpow := powerHalf_frame s c so
  refine ⟨?_, fun t => ⟨fun hno => ?_, fun hin => ?_⟩⟩
  · have hf := foldl_tiles_frame (F := State.restoreEpochs) restoreEpochs_frame (halfTiles c so) (s.powerHalf c so)
    generalize (halfTiles c so).foldl State.restoreEpochs (s.powerHalf c so) = u at hf
    rw [hf, hpow]
  · have hnot : t ∉ halfTiles c so := fun hm => hno (mem_halfTiles.1 hm)
    have h1 := foldl_tile_ne (t := t) (fun a r => tile_restoreEpochs_ne a r) _ hnot (s.powerHalf c so)
    exact h1.trans (foldl_tile_ne (fun a r => tile_powerTile_ne a r) _ hnot { s with free := s.free + 1 })
  · have hmem : t ∈ halfTiles c so := mem_halfTiles.2 hin
    obtain ⟨hK, hR⟩ := tile_powerHalf s hmem
    let e (q : QIx) : BitVec 8 := SMap.get 0 (s.cob c).epochs (t.toNat % 256 * 16 + q.toNat)
    have hone (a : State) (hC : a.cobs = s.cobs) : (a.restoreEpochs t).tile t = (a.tile t).renewTo e 16 := by
      rw [tile_restoreEpochs, if_pos rfl, State.cob, hC, hin.1]
      rfl
    obtain ⟨h1, h2⟩ := foldl_tile_of (F := State.restoreEpochs) (t := t) (C := fun a => a.cobs = s.cobs)
      (I := fun x => Restored s t (s.tile t) x ∧ ∀ q, (x.queue q).renew (e q) = ((s.tile t).queue q).renew (e q))
      (Q := fun x => ∀ q, x.queue q = ((s.tile t).queue q).renew (e q))
      (fun a r hC => by rw [restoreEpochs_frame]; exact hC) (fun a r => tile_restoreEpochs_ne a r)
      (fun a hC ⟨hR, hq⟩ => by
        have hnew (q : QIx) : ((a.tile t).renewTo e 16).queue q = ((s.tile t).queue q).renew (e q) := by
          rw [(renewTo_spec _ e (Nat.le_refl 16)).2 q, if_pos q.isLt, hq q]
        rw [hone a hC]
        exact ⟨⟨restored_renewTo hR, fun q => by rw [hnew q, renew_renew]⟩, hnew⟩)
      (halfTiles c so) (s.powerHalf c so) (by rw [hpow]) ⟨hR, fun q => by rw [hK.queue q]⟩
    exact ⟨h1.1, h2 (.inl hmem)⟩

end Sys2Proof.Machine
end

section
/-! O49: the obligation on power domains and Kiln 1. -/
namespace Sys2Proof.Machine

open Sys2Proof.Safety

/-- The colliers of a Cob hold no block once they have written back. -/
theorem held_writeBack (s : State) (c : CobNo) (i : Nat) :
    ((s.writeBack c).slice i).held = if i % 32 / 2 = c.toNat then [] else (s.slice i).held := by
  have hl (l : List Nat) : ∀ m : SMap Slice, (SMap.get {} (l.foldl (fun m i =>
        if sliceCob i = c.toNat then SMap.modify {} m i (fun x => { x with held := [] }) else m) m) i).held =
      if i ∈ l ∧ sliceCob i = c.toNat then [] else (SMap.get {} m i).held := by
    induction l with
    | nil => exact fun m => by simp
    | cons j l ih =>
      intro m
      rw [List.foldl_cons, ih]
      by_cases hi : i ∈ l ∧ sliceCob i = c.toNat
      · rw [if_pos hi, if_pos ⟨List.mem_cons_of_mem _ hi.1, hi.2⟩]
      · rw [if_neg hi]
        by_cases hj : sliceCob j = c.toNat
        · rw [if_pos hj, SMap.get_modify]
          by_cases hij : i = j
          · subst hij
            rw [if_pos rfl, if_pos ⟨List.mem_cons_self, hj⟩]
          · rw [if_neg hij, if_neg fun h => hi ⟨(List.mem_cons.1 h.1).resolve_left hij, h.2⟩]
        · have hno : ¬(i ∈ j :: l ∧ sliceCob i = c.toNat) := fun ⟨h1, h2⟩ =>
            hi ⟨(List.mem_cons.1 h1).resolve_left (by rintro rfl; exact hj h2), h2⟩
          rw [if_neg hj, if_neg hno]
  refine (hl (s.slices.map (fun p => p.1)) s.slices).trans ?_
  change _ = if sliceCob i = c.toNat then [] else (SMap.get {} s.slices i).held
  by_cases hc : sliceCob i = c.toNat
  · rw [if_pos hc]
    by_cases hm : i ∈ s.slices.map (fun p => p.1)
    · rw [if_pos ⟨hm, hc⟩]
    · rw [if_neg fun h => hm h.1, not_not.1 (mt mem_keys_of_get hm)]
  · rw [if_neg hc, if_neg fun h => hc h.2]

theorem inKilns_kiln1 (s : State) (p : Power) : State.inKilns { s with pw := { s.pw with kiln1 := p } } = s.inKilns := rfl

theorem switchOffEnd_eq {s : State} {d : Domain} {w : Bool} (h : s.dom d = .goingOff w)
    (hk : ¬(d = .kiln1 ∧ s.pw.routeHold.isSome = true)) :
    exec (.switchOffSequenceEnd d) s = .next ((s.lose d).setDom d (if w then .goingOn else .off)) := by
  change execSwitchOffSequenceEnd d s = _
  rw [execSwitchOffSequenceEnd, h]
  exact congrArg _ (if_neg (by simpa using hk))

section
variable {s : State} (ha : s.alive = true) (hk : s.pw.kiln0 = true)
include ha hk

theorem domainOn_half {c : CobNo} {so : Bool} (h : (s.cob c).half so = .goingOn) (hm : (s.cob c).memif = .on) :
    exec (.domainOn (.half c so)) s = .next ((s.restoreHalf c so).setDom (.half c so) .on) := by
  have hd : s.dom (.half c so) = .goingOn := h
  exact congrArg Host.Outcome.next ((if_neg (by simp [hd, ha, hk])).trans (if_pos hm))

theorem domainOn_memif {c : CobNo} (h : (s.cob c).memif = .goingOn) :
    exec (.domainOn (.memif c)) s = .next ((s.setDom (.memif c) .on).retryWindows) := by
  have hd : s.dom (.memif c) = .goingOn := h
  exact congrArg Host.Outcome.next (if_neg (by simp [hd, ha, hk]))

theorem domainOn_kiln1 (h : s.pw.kiln1 = .goingOn) :
    exec (.domainOn .kiln1) s = .next { s with pw := { s.pw with kiln1 := .on, routeHold := some s.inKilns } } := by
  have hd : s.dom .kiln1 = .goingOn := h
  exact congrArg Host.Outcome.next (if_neg (by simp [hd, ha, hk]))

end

theorem domainOn_dark {s : State} (hk : s.pw.kiln0 = false) (d : Domain) :
    exec (.domainOn d) s = .next s ∧ exec (.domainWake d) s = .next s := by
  refine ⟨congrArg Host.Outcome.next (if_pos (by simp [hk])), ?_⟩
  have hw : s.wake d = s := if_pos (by simp [hk])
  change execDomainWake d s = _
  rw [execDomainWake, hw, ite_self]

theorem domainWake_eq {s : State} {d : Domain} (ha : s.alive = true) (hp : s.ld.phase = 5) :
    exec (.domainWake d) s = .next (s.wake d) :=
  congrArg Host.Outcome.next (if_pos (by simp [ha, hp]))

theorem halfMayOff_iff {s : State} {c : CobNo} {so : Bool} : s.halfMayOff c so = true ↔ s.halfMode c so = 2 ∧
    (s.cob c).half so = .on ∧ s.ld.phase = 5 ∧ s.halfIdle c so = true ∧
      (SMap.get 0 s.plan.dwin c.toNat).toNat * 65536 ≤ (if so then (s.cob c).idleS else (s.cob c).idleN) := by
  simp only [State.halfMayOff, Bool.and_eq_true, decide_eq_true_eq, and_assoc]

theorem setHalf_frame (s : State) (c : CobNo) (so : Bool) (p : Power) :
    (s.setDom (.half c so) p) = { s with cobs := (s.setDom (.half c so) p).cobs } ∧
      (s.setDom (.half c so) p).cob c = (s.cob c).putHalf so p ∧ ∀ t, (s.setDom (.half c so) p).tile t = s.tile t := by
  obtain ⟨hu, hc, -⟩ := (OnlyCob.refl s c).setHalf so p
  exact ⟨hu, hc, fun t => by cases so <;> rfl⟩

theorem setMemif_unpowered (s : State) (c : CobNo) (p : Power) (u : State) (hu : (s.lose (.memif c)).setDom (.memif c) p = u) :
    u = { s with cobs := u.cobs, free := u.free } ∧ u.cob c = { (s.cob c).unpowered s.free with memif := p } ∧
      ∀ k, k ≠ c → u.cob k = s.cob k := by
  subst hu
  obtain ⟨-, hc, hk⟩ := ((OnlyCob.refl { s with free := s.free + 1 } c).modCob (fun x => x.unpowered s.free)).modCob
    (fun x => { x with memif := p })
  exact ⟨rfl, hc, hk⟩

/-- Settles O49: each event changes its domain, and what the domain loses or gets back. -/
theorem powerDomains : Obligations.PowerDomains := by
  unfold Obligations.PowerDomains
  refine ⟨fun s c so w => ?_, fun s w windows loads l => ?_⟩
  · intro x alive released wakes mode ix mine at_ put onlyCob window awake
    have hmode : s.halfMode c so = mode := rfl
    have hhalf : x.half so = at_ x := by cases so <;> rfl
    have hawake (p : Power) : p.awake = awake p := by cases p <;> rfl
    have hal (h : alive) : s.alive = true := by simp [State.alive, h.1, h.2]
    refine ⟨fun hr hm hon hi hw => ?_, fun h => ?_, fun hr hm => ?_, fun h => ?_, fun hw hm => ?_, fun hw hm => ?_, fun hw => ?_,
      fun h => ?_, fun h => ?_, fun ha hk h => ?_, fun hk => domainOn_dark hk, fun ha hk h hm hp => ?_⟩
    · obtain ⟨y, hy, hyx, hrec⟩ := recordHalf_spec s c so
      obtain ⟨e, a, rfl⟩ : ∃ e a, y = { x with epochs := e, acts := a } := ⟨_, _, hyx⟩
      obtain ⟨hu, hc, hk⟩ := hy.setHalf so (.goingOff false)
      have hmay : (s.alive && s.halfMayOff c so) = true := by
        rw [hal hr.1, Bool.true_and]
        exact halfMayOff_iff.2 ⟨hm, hhalf.trans hon, hr.2, hi, hw⟩
      refine ⟨_, congrArg Host.Outcome.next (if_pos hmay), ⟨hu, ?_, hk⟩, fun t ht => ?_⟩
      · rw [hc]
        cases so <;> rfl
      · rw [hc]
        cases so <;> exact hrec t ht.1 ht.2
    · refine congrArg Host.Outcome.next (if_neg fun hmay => ?_)
      obtain ⟨h1, -, -, h2, h3⟩ := halfMayOff_iff.1 (Bool.and_eq_true_iff.1 hmay).2
      obtain h | h | h := h
      · exact h h1
      · exact Bool.false_ne_true (h.symm.trans h2)
      · exact absurd h3 (Nat.not_le.2 h)
    · refine ⟨_, congrArg Host.Outcome.next (if_pos (by simp [hal hr.1, hm])), rfl, State.cob_modCob_self _ _ _, fun i => ?_⟩
      exact held_writeBack s c i
    · refine congrArg Host.Outcome.next (if_neg ?_)
      obtain h | h := h <;> simp [State.memifMayOff, x] at h ⊢ <;> simp [h]
    · refine ⟨_, domainWake_eq (hal hw.1.1) hw.1.2, ?_⟩
      rw [wake_half_asleep (hal hw.1.1) hw.2 hm]
      exact (OnlyCob.refl s c).modCob _
    · refine ⟨_, domainWake_eq (hal hw.1.1) hw.1.2, ?_⟩
      rw [wake_half_up (hal hw.1.1) hw.2 hm]
      have h := (((OnlyCob.refl s c).modCob (fun x => x.unidle so)).upMemif).upHalf so
      simp only [hawake] at h
      cases so <;> exact h
    · refine ⟨_, domainWake_eq (hal hw.1.1) hw.1.2, ?_⟩
      rw [wake_memif (hal hw.1.1) hw.2]
      have h := (OnlyCob.refl s c).upMemif
      rw [hawake] at h
      exact h
    · have hl := loseHalf_frame s c so
      have ht := tile_loseHalf s c so
      obtain ⟨hu, hc, hut⟩ := setHalf_frame (s.loseHalf c so) c so (if w then .goingOn else .off)
      refine ⟨(s.loseHalf c so).setDom (.half c so) (if w then .goingOn else .off), switchOffEnd_eq (hhalf.trans h) (by simp), ?_⟩
      generalize s.loseHalf c so = r at hl ht hu hc hut ⊢
      generalize r.setDom (.half c so) (if w then .goingOn else .off) = u at hu hc hut ⊢
      refine ⟨?_, ?_, fun t => (hut t).trans (ht t)⟩
      · rw [hu, hl]
      · rw [hc, hl]
        rfl
    · refine ⟨_, switchOffEnd_eq h (by simp), ?_⟩
      obtain ⟨hu, hc, hk⟩ := setMemif_unpowered s c (if w then .goingOn else .off) _ rfl
      generalize (s.lose (.memif c)).setDom (.memif c) (if w then .goingOn else .off) = u at hu hc hk ⊢
      rw [hc]
      exact ⟨hu, rfl, rfl, rfl, rfl, rfl, rfl, rfl, hk⟩
    · refine ⟨s.setDom (.memif c) .on, (OnlyCob.refl s c).modCob _, domainOn_memif (hal ha) hk h, fun hw => ?_⟩
      exact retryWindows_of_none hw
    · obtain ⟨hr, ht⟩ := restoreHalf_spec hp c so
      obtain ⟨hu, hc, hut⟩ := setHalf_frame (s.restoreHalf c so) c so .on
      refine ⟨_, domainOn_half (hal ha) hk (hhalf.trans h) hm, ?_⟩
      generalize s.restoreHalf c so = r at hr ht hu hc hut ⊢
      generalize r.setDom (.half c so) .on = u at hu hc hut ⊢
      refine ⟨?_, ?_, fun t => ⟨fun hno => ?_, fun hin => ?_⟩⟩
      · rw [hu, hr]
      · rw [hc, hr]
        rfl
      · rw [hut t, (ht t).1 hno]
      · obtain ⟨hR, hq⟩ := (ht t).2 hin
        have hth (h : Thr) : u.th t h = (r.tile t).th h := by rw [State.th, hut t]
        obtain ⟨ho, h1, h2, h3, h4, h5, h6⟩ := hR
        rw [hin.1] at ho
        simp only [hth, hut t]
        exact ⟨ho, h1, h2, h3, h4, h5, h6, hq⟩
  · intro p alive ends low high emptied
    have hal (h : alive) : s.alive = true := by simp [State.alive, h.1, h.2]
    have hlow : (windows.length = 16 ∧ windows.all s.lowWindow = true) ↔ low := by
      simp only [low, State.lowWindow, List.all_eq_true, Bool.and_eq_true, decide_eq_true_eq]
    have hhigh : (loads.any (fun x => decide (s.plan.k1on.toNat < x.toNat))) = true ↔ high := by
      simp only [high, List.any_eq_true, decide_eq_true_eq]
    have hemp : s.inKilns.any (fun k => l.contains k) = true ↔ ¬emptied := by
      simp only [emptied, List.any_eq_true, List.contains_iff_mem, not_forall, not_not, exists_prop]
    refine ⟨fun ha h5 hm h1 hh hl => ?_, fun h => ?_, fun ha hh h1 => ?_, fun ha hh h1 => ?_, fun hh => ?_, fun hr he => ?_,
      fun hr he hw => ?_, fun hk hr => ?_, fun hk hr => ?_, fun ha h0 h1 => domainOn_kiln1 (hal ha) h0 h1, ?_⟩
    · refine congrArg Host.Outcome.next (if_pos ?_)
      obtain ⟨hn, hall⟩ := hlow.2 hl
      rw [hal ha, hm, h5, hn, hall, show s.pw.kiln1 = .on from h1, show s.pw.routeHold = none from hh]
      rfl
    · refine congrArg Host.Outcome.next (if_neg fun hc => ?_)
      simp only [Bool.and_eq_true, decide_eq_true_eq] at hc
      obtain ⟨⟨⟨⟨⟨⟨-, hm⟩, -⟩, -⟩, -⟩, hn⟩, hall⟩ := hc
      obtain h | h := h
      · exact Bool.false_ne_true (h.symm.trans hm)
      · exact h (hlow.1 ⟨hn, hall⟩)
    · change execKiln1SwitchOn loads s = _
      rw [execKiln1SwitchOn, hal ha, hhigh.2 hh, h1]
      rfl
    · change execKiln1SwitchOn loads s = _
      rw [execKiln1SwitchOn, hal ha, hhigh.2 hh, h1]
      rfl
    · exact congrArg Host.Outcome.next (if_pos (by rw [Bool.eq_false_iff.2 (mt hhigh.1 hh), Bool.not_false, Bool.or_true]))
    · change execKilnRouteChange s = _
      rw [execKilnRouteChange, hr]
      exact congrArg Host.Outcome.next (if_pos (hemp.2 he))
    · change execKilnRouteChange s = _
      rw [execKilnRouteChange, hr]
      refine congrArg Host.Outcome.next ((if_neg (mt hemp.1 (not_not.2 he))).trans ?_)
      exact retryWindows_of_none hw
    · change execSwitchOffSequenceEnd .kiln1 s = _
      have hd : s.dom .kiln1 = .goingOff w := hk
      rw [execSwitchOffSequenceEnd, hd]
      exact congrArg Host.Outcome.next (if_pos (by simp [p] at hr; simp [hr]))
    · exact switchOffEnd_eq hk (by simp [p] at hr; simp [hr])
    · exact congrArg Host.Outcome.next (ite_eq_right_iff.2 fun _ => ite_self _)

end Sys2Proof.Machine
end

section
/-! Ports of Tamore Link as functions of one port: NAKs, retrains and what a received frame does to its port (R433–R435). -/
namespace Sys2Proof.Machine

open Sys2Proof.Safety

/-! ## One port replaced -/

theorem SMap.erase_insert {α : Type} (m : SMap α) (k : Nat) (v : α) : SMap.erase (SMap.insert m k v) k = SMap.erase m k := by
  induction m with
  | nil => simp [SMap.insert, SMap.erase]
  | cons p m ih =>
    obtain ⟨j, w⟩ := p
    rw [SMap.insert]
    split
    · simp [SMap.erase]
    · simp only [SMap.erase, ih]

theorem SMap.erase_erase {α : Type} (m : SMap α) (k : Nat) : SMap.erase (SMap.erase m k) k = SMap.erase m k := by
  rw [SMap.erase_eq_filter, SMap.erase_eq_filter, List.filter_filter]
  simp

/-- A value set twice is the second value set. -/
theorem SMap.set_set {α : Type} [DecidableEq α] (d : α) (m : SMap α) (k : Nat) (v w : α) :
    SMap.set d (SMap.set d m k v) k w = SMap.set d m k w := by
  have he : SMap.erase (SMap.set d m k v) k = SMap.erase m k := by
    unfold SMap.set
    split
    · exact SMap.erase_erase m k
    · rw [SMap.erase_insert, SMap.erase_erase]
  rw [SMap.set, he, SMap.set]

/-- The state with port `p` replaced by `w`. -/
def State.putPort (s : State) (p : PortNo) (w : Port) : State := s.modPort p (fun _ => w)

theorem modPort_eq_putPort (s : State) (p : PortNo) (f : Port → Port) : s.modPort p f = s.putPort p (f (s.port p)) := rfl

theorem port_putPort (s : State) (p : PortNo) (w : Port) : (s.putPort p w).port p = w := State.port_modPort_self _ _ _

theorem modPort_putPort (s : State) (p : PortNo) (w : Port) (f : Port → Port) : (s.putPort p w).modPort p f = s.putPort p (f w) := by
  have h : (s.putPort p w).modPort p f = (s.putPort p w).putPort p (f w) := by rw [modPort_eq_putPort, port_putPort]
  rw [h]
  exact congrArg (fun m => { s with ports := m }) (SMap.set_set _ _ _ _ _)

/-! ## Retrains and NAKs (R434, R435) -/

/-- Retrains within the last second. -/
def Port.near (x : Port) (now : DWord) : List DWord := x.recent.filter (fun r => decide ((now - r).toNat < 3600000000))

/-- The port in retrain. -/
def Port.goesDown (w : Port) (now : DWord) : Port :=
  { w with st := 3, retrain := satAdd w.retrain 1, nakCnt := 0, ownNakCnt := 0, recent := now :: w.near now }

section
variable {s : State} {p : PortNo} {w : Port}

theorem portRetrain_of_idle (h : w.st = 0 ∨ w.st = 3) : (s.putPort p w).portRetrain p = s.putPort p w := by
  refine if_pos ?_
  rw [port_putPort]
  simpa using h

theorem live_not_idle {x : BitVec 2} (h : x = 1 ∨ x = 2) : ¬(x = 0 ∨ x = 3) := by revert x; decide

theorem portRetrain_of_live (h : w.st = 1 ∨ w.st = 2) : (s.putPort p w).portRetrain p =
    if 2 ≤ (w.near s.pt.time).length then (s.putPort p (w.goesDown s.pt.time)).portDown p
    else s.putPort p (w.goesDown s.pt.time) := by
  refine (if_neg ?_).trans ?_
  · rw [port_putPort]
    simpa using live_not_idle h
  · rw [modPort_putPort, port_putPort]
    rfl

theorem portRetrain_of_few (h : w.st = 1 ∨ w.st = 2) (hn : (w.near s.pt.time).length < 2) :
    (s.putPort p w).portRetrain p = s.putPort p (w.goesDown s.pt.time) := by
  rw [portRetrain_of_live h, if_neg (by omega)]

/-- A port with nothing outstanding goes down alone. -/
theorem portDown_of_none (h : w.out = []) :
    (s.putPort p w).portDown p = s.putPort p { w with st := 0, txq := [], vcq := [] } := by
  rw [State.portDown, port_putPort, h, List.foldl_nil, modPort_putPort, ← h]

/-- The NAK of the port's own that leaves. -/
def Port.naked (w : Port) : Port :=
  { w.control [0x01, bits w.rxSeq 0 8, (0#4) ++ (bits w.rxSeq 8 4 : BitVec 4)] with
    ownNakSeq := w.rxSeq, ownNakCnt := nakNext w.ownNakCnt w.ownNakSeq w.rxSeq }

theorem sendNak_eq : (s.putPort p w).sendNak p =
    if 16 ≤ nakNext w.ownNakCnt w.ownNakSeq w.rxSeq then (s.putPort p w.naked).portRetrain p else s.putPort p w.naked := by
  rw [State.sendNak, port_putPort, modPort_putPort]
  rfl

theorem nakNext_eq (n : Nat) (a b : BitVec 12) : nakNext n a b = if n ≠ 0 ∧ a = b then n + 1 else 1 := by
  rw [nakNext]
  exact if_congr (by simp) rfl rfl

theorem begin_room (h : w.buf.length < 2048) (k : BitVec 2) (b : List Byte) : w.begin k b =
    { w with txSeq := w.txSeq + 1, buf := w.buf ++ [⟨k, w.txSeq, w.ack, b, w.credits⟩],
             wire := ⟨k, w.txSeq, w.ack, b, w.credits⟩ :: w.wire, back := [] } := by
  rw [Port.begin, if_neg (by rw [replayFrames]; omega)]

theorem nakAt_eq (h : w.st = 1 ∨ w.st = 2) (sq : BitVec 12) : (s.putPort p w).nakAt p sq =
    if 16 ≤ nakNext w.nakCnt w.nakSeq sq then
      (s.putPort p { w.replayFrom sq with nakSeq := sq, nakCnt := nakNext w.nakCnt w.nakSeq sq }).portRetrain p
    else s.putPort p { w.replayFrom sq with nakSeq := sq, nakCnt := nakNext w.nakCnt w.nakSeq sq } := by
  refine (if_neg ?_).trans ?_
  · rw [port_putPort]
    simpa using live_not_idle h
  · rw [modPort_putPort, port_putPort]

end

/-- The frames from a named one on. -/
theorem dropWhile_seq {pre post : List TxFrame} {fr : TxFrame} (h : ∀ k ∈ pre, k.seq ≠ fr.seq) :
    (pre ++ fr :: post).dropWhile (fun f => decide (f.seq ≠ fr.seq)) = fr :: post := by
  induction pre with
  | nil => simp
  | cons k pre ih =>
    rw [List.cons_append, List.dropWhile_cons_of_pos (by simpa using h k List.mem_cons_self)]
    exact ih fun j hj => h j (List.mem_cons_of_mem _ hj)

/-! ## What sending changes of a port -/

/-- `y` is `x` but for what sending changes. -/
def Port.Sends (x y : Port) : Prop :=
  y = { x with txSeq := y.txSeq, buf := y.buf, wire := y.wire, back := y.back, txq := y.txq, used := y.used, vcq := y.vcq }

theorem Port.Sends.refl (x : Port) : x.Sends x := rfl

theorem Port.Sends.trans {x y z : Port} (h : x.Sends y) (k : y.Sends z) : x.Sends z := by
  rw [Port.Sends] at h k
  rw [Port.Sends, k, h]

theorem Port.sends_begin (x : Port) (k : BitVec 2) (b : List Byte) : x.Sends (x.begin k b) := by
  rw [Port.begin]
  split <;> exact rfl

/-- Changes of a port, one after the other. -/
theorem Port.sends_foldl {α : Type} {F : Port → α → Port} (h : ∀ (x : Port) a, x.Sends (F x a)) (l : List α) : ∀ x : Port, x.Sends (l.foldl F x) := by
  induction l with
  | nil => exact .refl
  | cons a l ih => exact fun x => (h x a).trans (ih _)

theorem Port.sends_frames (n : Nat) : ∀ (x : Port) (b : List Byte), x.Sends (x.frames n b) := by
  induction n with
  | zero => exact fun x _ => .refl x
  | succ n ih =>
    intro x b
    rw [Port.frames]
    split
    · exact .refl x
    · exact (x.sends_begin _ _).trans (ih _ _)

theorem Port.sends_packet (x : Port) (v : Nat) (b : List Byte) : x.Sends (x.packet v b) := by
  have h (u : SMap Nat) : x.Sends { x with used := u } := rfl
  have hf := (h (SMap.modify 0 x.used v (fun n => n + pktUnits b))).trans (Port.sends_frames 18 _ b)
  rw [Port.packet]
  split
  · exact hf
  · exact rfl

theorem Port.sends_credit (x : Port) (v n : Nat) : x.Sends (x.credit v n) :=
  Port.Sends.trans (y := { x with used := _, vcq := _ }) rfl (Port.sends_foldl (fun x b => x.sends_packet v b) _ _)

theorem Port.sends_acked (x : Port) (a : BitVec 12) : x.Sends (x.acked a) := by
  rw [Port.acked]
  split
  · have h (b : List TxFrame) : x.Sends { x with buf := b, txq := [] } := rfl
    exact (h _).trans (Port.sends_foldl (fun x (f : BitVec 2 × List Byte) => x.sends_begin f.1 f.2) _ _)
  · exact .refl x

/-- The credit of a frame given to a port. -/
def Port.credited (x : Port) (back : Nat → Nat) (n : Nat) : Port :=
  (List.range n).foldl (fun (a : Port) v => if back v = 0 then a else a.credit v (back v)) x

theorem Port.sends_credited (x : Port) (back : Nat → Nat) (n : Nat) : x.Sends (x.credited back n) :=
  Port.sends_foldl (fun x v => by split; exacts [.refl x, x.sends_credit v _]) _ x

theorem heed_eq (x : Port) (f : TxFrame) :
    x.heed f = (match f.ack with
      | some a => x.acked a
      | none => x).credited (fun v => f.credit.getD v 0) 4 := rfl

theorem heed_none {f : TxFrame} (x : Port) (h : f.ack = none) : x.heed f = x.credited (fun v => f.credit.getD v 0) 4 := by
  rw [heed_eq, h]

theorem heed_some {f : TxFrame} {a : BitVec 12} (x : Port) (h : f.ack = some a) :
    x.heed f = (x.acked a).credited (fun v => f.credit.getD v 0) 4 := by
  rw [heed_eq, h]

theorem Port.sends_heed (x : Port) (f : TxFrame) : x.Sends (x.heed f) := by
  cases h : f.ack with
  | none => rw [heed_none x h]; exact x.sends_credited _ 4
  | some a => rw [heed_some x h]; exact (x.sends_acked a).trans (Port.sends_credited _ _ 4)

/-! ## Credit returned -/

/-- Credit of channels in which nothing waits only lowers what is used. -/
theorem credited_of_empty (x : Port) {back : Nat → Nat} {n : Nat} (h : ∀ v, v < n → SMap.get [] x.vcq v = [] ∨ back v = 0) :
    x.credited back n = { x with used := (x.credited back n).used, vcq := (x.credited back n).vcq } ∧
      (∀ v, SMap.get [] (x.credited back n).vcq v = SMap.get [] x.vcq v ∨ SMap.get [] (x.credited back n).vcq v = []) ∧
      ∀ v, SMap.get 0 (x.credited back n).used v = if v < n then SMap.get 0 x.used v - back v else SMap.get 0 x.used v := by
  induction n with
  | zero => exact ⟨rfl, fun _ => .inl rfl, fun v => (if_neg (by omega)).symm⟩
  | succ n ih =>
    obtain ⟨hf, hq, hu⟩ := ih fun v hv => h v (by omega)
    have hstep : x.credited back (n + 1) =
        if back n = 0 then x.credited back n else (x.credited back n).credit n (back n) := by
      rw [Port.credited, List.range_succ, List.foldl_append]
      rfl
    have hsplit (v : Nat) : (if v < n + 1 then SMap.get 0 x.used v - back v else SMap.get 0 x.used v) =
        if v = n then SMap.get 0 x.used n - back n else if v < n then SMap.get 0 x.used v - back v else SMap.get 0 x.used v := by
      by_cases hv : v = n
      · subst hv
        rw [if_pos (by omega), if_pos rfl]
      · rw [if_neg hv]
        exact if_congr (by omega) rfl rfl
    have hun : SMap.get 0 (x.credited back n).used n = SMap.get 0 x.used n := by rw [hu, if_neg (by omega)]
    rw [hstep]
    by_cases hb : back n = 0
    · rw [if_pos hb]
      refine ⟨hf, hq, fun v => ?_⟩
      rw [hsplit, hu]
      by_cases hv : v = n
      · subst hv
        rw [if_neg (by omega), if_pos rfl, hb, Nat.sub_zero]
      · rw [if_neg hv]
    · have hnil : SMap.get [] (x.credited back n).vcq n = [] := by
        obtain hx | hx := h n (by omega)
        · exact (hq n).elim (fun e => e.trans hx) id
        · exact absurd hx hb
      rw [if_neg hb, Port.credit, hnil, List.foldl_nil]
      refine ⟨?_, fun v => ?_, fun v => ?_⟩
      · rw [hf]
      · change SMap.get [] (SMap.set [] (x.credited back n).vcq n []) v = _ ∨ SMap.get [] (SMap.set [] (x.credited back n).vcq n []) v = _
        rw [SMap.get_set]
        split
        · exact .inr rfl
        · exact hq v
      · change SMap.get 0 (SMap.modify 0 (x.credited back n).used n (fun m => m - back n)) v = _
        rw [hsplit, SMap.get_modify]
        by_cases hv : v = n
        · rw [if_pos hv, if_pos hv, hun]
        · rw [if_neg hv, if_neg hv, hu]

/-- Credit of one channel alone. -/
theorem credited_one (x : Port) {back : Nat → Nat} {vc : Nat} (hvc : vc < 4) (h : ∀ v, v ≠ vc → v < 4 → back v = 0)
    (hb : back vc ≠ 0) : x.credited back 4 = x.credit vc (back vc) := by
  interval_cases vc <;> simp [Port.credited, List.range_succ, h, hb]

end Sys2Proof.Machine
end

section
/-! O38, frames: how a received frame is read, and what each kind of frame does (R433–R437). -/
namespace Sys2Proof.Machine

open Sys2Proof.Safety

/-! ## Reading a frame (R433) -/

/-- The header word of a frame. -/
def frameHdr (b : List Byte) : Word := leBits 32 (b.take 4)

/-- The credit that a frame returns. -/
def frameBack (b : List Byte) (v : Nat) : Nat := leNat ((b.drop (244 + 2 * v)).take 2)

/-- A received frame as it is read. -/
def frameOf (b : List Byte) : TxFrame :=
  ⟨(frameHdr b).extractLsb' 30 2, (frameHdr b).extractLsb' 18 12,
    if (frameHdr b).getLsbD 5 then some ((frameHdr b).extractLsb' 6 12) else none, (b.drop 4).take 240,
    (List.range 4).map (frameBack b)⟩

/-- A frame that arrives intact. -/
def FrameGood (fec : Bool) (b : List Byte) : Prop :=
  fec = true ∧ b.length = 256 ∧ (leBits 32 (b.drop 252) : Word) = crc32 (b.take 252) ∧ (frameHdr b).extractLsb' 30 2 ≠ 3

/-- The frame, when it arrives intact. -/
def frameIn (fec : Bool) (b : List Byte) : Option TxFrame := if fec then rxFrame b else none

theorem frameIn_good {fec : Bool} {b : List Byte} (h : FrameGood fec b) : frameIn fec b = some (frameOf b) := by
  obtain ⟨hf, hl, hc, hk⟩ := h
  rw [frameIn, if_pos hf, rxFrame]
  refine (if_neg ?_).trans rfl
  simp only [hl, ← hc, bits, Bool.or_eq_true, decide_eq_true_eq, ne_eq, not_true_eq_false, false_or]
  exact fun e => hk (of_decide_eq_true e)

theorem frameIn_bad {fec : Bool} {b : List Byte} (h : ¬FrameGood fec b) : frameIn fec b = none := by
  rw [frameIn]
  split
  case isFalse => rfl
  case isTrue hf =>
    rw [rxFrame]
    refine if_pos ?_
    by_contra hc
    simp only [Bool.or_eq_true, decide_eq_true_eq, not_or, not_not, bits] at hc
    exact h ⟨hf, hc.1.1, hc.1.2.symm, fun e => hc.2 (decide_eq_true e)⟩

/-- What an accepted frame makes of its port. -/
def Port.took (x : Port) (f : TxFrame) : Port := { x.heed f with rxSeq := x.rxSeq + 1, rxAny := true }

section
variable {s : State} {p : PortNo} {fec : Bool} {b : List Byte} {ecc : SliceEcc} (ha : s.alive = true)
include ha

theorem tlFrame_eq : exec (.tlFrame p fec b ecc) s = .next (match frameIn fec b with
    | none => (s.putPort p { s.port p with crcerr := satAdd (s.port p).crcerr 1 }).sendNak p
    | some f =>
      if f.kind = 2 then s.putPort p ((s.port p).heed f)
      else if f.seq ≠ (s.port p).rxSeq then s.sendNak p
      else (if f.kind = 1 then (s.putPort p ((s.port p).took f)).controlIn p f.payload
        else if (s.port p).st = 2 then (s.putPort p ((s.port p).took f)).payloadIn p f.payload ecc
        else s.putPort p ((s.port p).took f)).modPort p Port.idleFrame) :=
  congrArg Host.Outcome.next (if_neg (by simp [ha]))

theorem tlFrame_bad (h : ¬FrameGood fec b) : exec (.tlFrame p fec b ecc) s =
    .next ((s.putPort p { s.port p with crcerr := satAdd (s.port p).crcerr 1 }).sendNak p) := by
  rw [tlFrame_eq ha, frameIn_bad h]

theorem tlFrame_idle (h : FrameGood fec b) (hk : (frameOf b).kind = 2) : exec (.tlFrame p fec b ecc) s =
    .next (s.putPort p ((s.port p).heed (frameOf b))) := by
  rw [tlFrame_eq ha, frameIn_good h]
  exact congrArg _ (if_pos hk)

theorem tlFrame_late (h : FrameGood fec b) (hk : (frameOf b).kind ≠ 2) (hs : (frameOf b).seq ≠ (s.port p).rxSeq) :
    exec (.tlFrame p fec b ecc) s = .next (s.sendNak p) := by
  rw [tlFrame_eq ha, frameIn_good h]
  exact congrArg _ ((if_neg hk).trans (if_pos hs))

theorem tlFrame_next (h : FrameGood fec b) (hk : (frameOf b).kind ≠ 2) (hs : (frameOf b).seq = (s.port p).rxSeq) :
    exec (.tlFrame p fec b ecc) s = .next (State.modPort (if (frameOf b).kind = 1 then
        (s.putPort p ((s.port p).took (frameOf b))).controlIn p (frameOf b).payload
      else if (s.port p).st = 2 then (s.putPort p ((s.port p).took (frameOf b))).payloadIn p (frameOf b).payload ecc
      else s.putPort p ((s.port p).took (frameOf b))) p Port.idleFrame) := by
  rw [tlFrame_eq ha, frameIn_good h]
  exact congrArg _ ((if_neg hk).trans (if_neg (not_not.2 hs)))

end

/-! ## The packets of a frame (R436, R437) -/

/-- The bytes of the first packet of a payload. -/
def packetLen (b : List Byte) : Nat := 24 + ((leBits 16 ((b.drop 2).take 2) : BitVec 16).toNat + 7) / 8 * 8

theorem leNat_lt (l : List Byte) : leNat l < 256 ^ l.length := by
  induction l with
  | nil => simp [leNat]
  | cons b l ih =>
    have hb := b.isLt
    rw [leNat, List.length_cons, pow_succ]
    omega

theorem leNat_two (b : List Byte) : (leBits 16 (b.take 2) : BitVec 16).toNat = leNat (b.take 2) := by
  have h : leNat (b.take 2) < 256 ^ (b.take 2).length := leNat_lt _
  have hl : (b.take 2).length ≤ 2 := by simp
  rw [leBits, BitVec.toNat_ofNat, Nat.mod_eq_of_lt]
  calc leNat (b.take 2) < 256 ^ (b.take 2).length := h
    _ ≤ 256 ^ 2 := Nat.pow_le_pow_right (by decide) hl

/-- Padding alone. -/
theorem scanPackets_pad {n : Nat} {b : List Byte} (h : b.headD 0 = 0) : scanPackets (n + 1) b = ([], []) := by
  rw [scanPackets]
  refine if_pos ?_
  cases b with
  | nil => rfl
  | cons a b =>
    have ha : a = 0 := h
    simp [nth, ha]

/-- One packet, and padding behind it. -/
theorem scanPackets_one {n : Nat} {b : List Byte} (h0 : b.getD 0 0 ≠ 0) (hl : packetLen b ≤ b.length)
    (hpad : (b.drop (packetLen b)).headD 0 = 0) :
    scanPackets (n + 2) b = ([((rxPacket b).1, (rxPacket b).2, (packetLen b + 63) / 64)], []) := by
  have htot : 24 + (leNat ((b.drop 2).take 2) + 7) / 8 * 8 = packetLen b := by rw [packetLen, leNat_two]
  have h24 : 24 ≤ packetLen b := by rw [packetLen]; omega
  have hne : b ≠ [] := by rintro rfl; exact h0 rfl
  rw [scanPackets]
  dsimp only
  rw [htot, if_neg (by simp [hne, nth]; simpa using h0), if_neg (by simp; omega), scanPackets_pad hpad]
  rw [pktUnits, ceilDiv, List.length_take, min_eq_left hl, show packetLen b + 64 - 1 = packetLen b + 63 by omega]

/-- What one packet adds to the credit that the port returns. -/
def Port.returns (x : Port) (vc n : Nat) : Port := { x with back := SMap.modify 0 x.back vc (fun k => k + n) }

section
variable {s : State} {p : PortNo} {w : Port} {b : List Byte} {ecc : SliceEcc} (hw : w.rxBuf = [])
include hw

theorem payloadIn_pad (h : b.headD 0 = 0) : (s.putPort p w).payloadIn p b ecc = s.putPort p { w with rxBuf := [] } := by
  rw [State.payloadIn, port_putPort, hw, List.nil_append, scanPackets_pad h]
  exact modPort_putPort s p w _

theorem payloadIn_one (h0 : b.getD 0 0 ≠ 0) (hl : packetLen b ≤ b.length) (hpad : (b.drop (packetLen b)).headD 0 = 0) :
    (s.putPort p w).payloadIn p b ecc =
      ((s.putPort p { w with rxBuf := [] }).packetIn p (rxPacket b).1 (rxPacket b).2 ecc).modPort p
        (fun x => x.returns (pktVc (b.getD 0 0).toNat) ((packetLen b + 63) / 64)) := by
  rw [State.payloadIn, port_putPort, hw, List.nil_append, scanPackets_one h0 hl hpad]
  dsimp only
  rw [modPort_putPort]
  rfl

end

/-- Two changes of one port in a row. -/
theorem modPort_modPort (v : State) (p : PortNo) (f g : Port → Port) :
    (v.modPort p f).modPort p g = v.modPort p (fun x => g (f x)) := by
  rw [modPort_eq_putPort v p f, modPort_putPort]
  rfl

/-! ## What a packet does (R437) -/

/-- A packet's request of an inbound window. -/
def packetRq (b : List Byte) (ecc : SliceEcc) (kd : WinKind) : WinReq :=
  { srcId := (rxPacket b).2, func := (rxPacket b).1.func, win := bits (rxPacket b).1.attr 0 6, kind := kd,
    offset := (rxPacket b).1.addr, bytes := (rxPacket b).1.data, tag := (rxPacket b).1.tag, ecc := ecc }

section
variable (s : State) (p : PortNo) (k : TxPkt) (src : BitVec 16) (ecc : SliceEcc)

/-- A packet of a type that arrives, and not too long. -/
def PacketKnown (k : TxPkt) : Prop :=
  (1 ≤ k.type.toNat ∧ k.type.toNat ≤ 6 ∨ 0x10 ≤ k.type.toNat ∧ k.type.toNat ≤ 0x13 ∨ k.type.toNat = 0x20 ∨ k.type.toNat = 0x21) ∧
    k.len ≤ 4096

theorem packet_unknown_iff : (!((decide (1 ≤ k.type.toNat) && decide (k.type.toNat ≤ 6)) ||
    (decide (0x10 ≤ k.type.toNat) && decide (k.type.toNat ≤ 0x13)) || decide (k.type.toNat = 0x20) ||
    decide (k.type.toNat = 0x21)) || decide (4096 < k.len)) = true ↔ ¬PacketKnown k := by
  simp only [PacketKnown, Bool.or_eq_true, Bool.not_eq_true', Bool.or_eq_false_iff, Bool.and_eq_false_iff, decide_eq_false_iff_not,
    decide_eq_true_eq]
  omega

theorem packetIn_unknown (h : ¬PacketKnown k) : s.packetIn p k src ecc = s.badPackets 1 := by
  refine if_pos ((packet_unknown_iff k).2 h)

theorem packetIn_known (h : PacketKnown k) : s.packetIn p k src ecc =
    let rq (kd : WinKind) : WinReq :=
      { srcId := src, func := k.func, win := bits k.attr 0 6, kind := kd, offset := k.addr, bytes := k.data, tag := k.tag,
        ecc := ecc }
    if k.type.toNat = 1 then s.doorbellAt p k.func (leBits 16 (k.data.take 2)) (leBits 16 ((k.data.drop 2).take 2))
    else if k.type.toNat = 4 then s.cfgWrite p k.func k.addr (leBits 64 (k.data.take 8))
    else if k.type.toNat = 5 then s.cfgRead p k.func k.addr
    else if k.type.toNat = 0x10 then s.inbound p (rq .write)
    else if k.type.toNat = 0x11 then s.inbound p (rq (.acc (bits k.attr 6 2)))
    else if k.type.toNat = 0x12 then s.inbound p (rq .claim)
    else if k.type.toNat = 0x13 then s.rspAt p k.tag k.status
    else if k.type.toNat = 0x21 then s.rdcAt p k.tag k.status k.data
    else s := by
  exact if_neg fun hc => (packet_unknown_iff k).1 hc h

end

end Sys2Proof.Machine
end

section
/-! O38, packets: what a packet that is answered leaves on its port, and what an inbound window request that lands changes
(R325, R436–R438, R454). -/
namespace Sys2Proof.Machine

open Sys2Proof.Safety

/-! ## What a landing changes -/

/-- `u` is `s` but for HBM, its slices, and what a machine check changes. -/
def LandsOnly (s u : State) : Prop :=
  u = { s with hbm := u.hbm, hbmBad := u.hbmBad, slices := u.slices, tiles := u.tiles, cobs := u.cobs, funcs := u.funcs,
               ports := u.ports }

theorem LandsOnly.refl (s : State) : LandsOnly s s := rfl

theorem LandsOnly.trans {s u v : State} (h : LandsOnly s u) (k : LandsOnly u v) : LandsOnly s v := by
  rw [LandsOnly] at h k
  rw [LandsOnly, k, h]

theorem landsOnly_foldl {α : Type} {F : State → α → State} (h : ∀ a x, LandsOnly a (F a x)) (l : List α) :
    ∀ s : State, LandsOnly s (l.foldl F s) := by
  induction l with
  | nil => exact .refl
  | cons x l ih => exact fun s => (h s x).trans (ih _)

theorem landsOnly_modTile (s : State) (t : TileId) (f : Tile → Tile) : LandsOnly s (s.modTile t f) := rfl

theorem landsOnly_modFunc (s : State) (n : FuncNo) (f : Func → Func) : LandsOnly s (s.modFunc n f) := rfl

theorem landsOnly_failFunc (s : State) (f : FuncNo) (hd : Option (TileId × Thr)) (w : DWord) : LandsOnly s (s.failFunc f hd w) := by
  obtain ⟨a, b, c, d, e⟩ := failFunc_frame s f hd w
  rw [LandsOnly, e]

theorem landsOnly_mcFunc (s : State) (r : McReport) (f : FuncNo) (part : Bool) : LandsOnly s (s.mcFunc r f part) := by
  unfold State.mcFunc
  dsimp only
  split
  · exact .refl s
  · split
    · exact landsOnly_modTile _ _ _
    · exact landsOnly_modTile _ _ _
    · exact .refl s
  · split
    · split
      · exact landsOnly_modFunc _ _ _
      · exact (landsOnly_modFunc _ _ _).trans (landsOnly_modTile _ _ _)
    · exact landsOnly_modFunc _ _ _
  · split
    · exact landsOnly_failFunc _ _ _ _
    · have h (t : TileId) (g : Tile → Tile) (hd : Option (TileId × Thr)) (w : DWord) :=
        (landsOnly_modTile s t g).trans (landsOnly_failFunc _ f hd w)
      split
      · exact (h _ _ _ _).trans (landsOnly_modTile _ _ _)
      · exact (h _ _ _ _).trans (landsOnly_modTile _ _ _)

theorem landsOnly_hbmFail (s : State) {src : Byte} (h8 : src ≠ 8) (h9 : src ≠ 9) (burst : Nat) (f : FuncNo) (t : Option TileId)
    (va : Option VAddr) (reader : Option (TileId × Thr)) : LandsOnly s (s.hbmFail src burst f t va reader) := by
  rw [State.hbmFail, State.machineCheck, if_neg h8, if_neg h9]
  exact landsOnly_mcFunc _ _ _ _

theorem landsOnly_hold (s : State) (pa : Nat) : LandsOnly s (s.hold pa) := by
  unfold State.hold
  dsimp only
  split <;> exact rfl

theorem landsOnly_touchHeld (n : Nat) : ∀ (s : State) (pa : Nat), LandsOnly s (s.touchHeld pa n) := by
  induction n with
  | zero => exact fun s _ => .refl s
  | succ n ih =>
    intro s pa
    rw [State.touchHeld]
    refine LandsOnly.trans ?_ (ih _ _)
    split
    · exact landsOnly_hold s pa
    · exact .refl s

theorem landsOnly_touchReads (s : State) (l : List (Nat × Nat)) : LandsOnly s (s.touchReads l) :=
  landsOnly_foldl (fun _ _ => landsOnly_touchHeld _ _ _) l s

theorem landsOnly_withEcc (s : State) (pa : Nat) (e : Ecc) : LandsOnly s (s.withEcc pa e) := by
  unfold State.withEcc
  split
  · exact .refl s
  · cases e <;> exact rfl

theorem landsOnly_withEccs (s : State) (reads : List (Nat × Nat)) (l : SliceEcc) : LandsOnly s (s.withEccs reads l) := by
  refine landsOnly_foldl (fun a q => ?_) l s
  dsimp only
  split
  · exact landsOnly_withEcc _ _ _
  · exact .refl a

theorem landsOnly_addElems (k : AddKind) (f : FuncNo) (cksel : Bool) (pa : Nat) (l : List (Nat × Nat)) :
    ∀ s : State, LandsOnly s (s.addElems k f cksel pa l) := by
  induction l with
  | nil => exact .refl
  | cons p l ih =>
    intro s
    rw [State.addElems]
    refine LandsOnly.trans ?_ (ih _)
    split <;> exact rfl

theorem landsOnly_collierAdd {s u : State} {k : AddKind} {f : FuncNo} {cksel : Bool} {pa : Nat} {ops : List (Nat × Nat)}
    (h : s.collierAdd k f cksel pa ops = .inr u) : LandsOnly s u := by
  unfold State.collierAdd at h
  dsimp only at h
  split at h
  · cases h
  · obtain rfl := Sum.inr.inj h
    exact (landsOnly_hold s _).trans (landsOnly_addElems _ _ _ _ _ _)

theorem landsOnly_landBlock (s : State) (f : FuncNo) (k : WinKind) (cksel : Bool) (pa : Nat) (b : List Byte) :
    LandsOnly s ((s.landBlock f k cksel pa b).elim id id) := by
  cases k with
  | write =>
    unfold State.landBlock
    dsimp only
    split
    · exact landsOnly_hbmFail s (src := 4) (by decide) (by decide) _ _ _ _ _
    · exact LandsOnly.trans (u := s.hbmWrite pa b) rfl (landsOnly_touchReads _ _)
  | acc a =>
    unfold State.landBlock
    dsimp only
    split
    · exact landsOnly_hbmFail s (src := 4) (by decide) (by decide) _ _ _ _ _
    case h_2 h => exact landsOnly_collierAdd h
  | claim => exact rfl

theorem landsOnly_landBlocks (rq : WinReq) (cksel : Bool) (va0 : Nat) (l : List (Nat × Nat)) :
    ∀ s : State, LandsOnly s (s.landBlocks rq cksel va0 l).2 := by
  induction l with
  | nil => exact .refl
  | cons p l ih =>
    intro s
    obtain ⟨va, n⟩ := p
    have h0 := landsOnly_withEccs s (s.walkReads [] rq.func va) rq.ecc
    unfold State.landBlocks
    dsimp only
    split
    case h_1 pa _ =>
      have h1 := h0.trans (landsOnly_withEccs _ (blockReads rq.kind pa n) rq.ecc)
      have hb := landsOnly_landBlock (State.withEccs (s.withEccs (s.walkReads [] rq.func va) rq.ecc) (blockReads rq.kind pa n) rq.ecc)
        rq.func rq.kind cksel pa ((rq.bytes.drop (va - va0)).take n)
      split
      case h_1 t ht => rw [ht] at hb; exact h1.trans hb
      case h_2 t ht => rw [ht] at hb; exact (h1.trans hb).trans (ih t)
    case h_2 => exact h0.trans (landsOnly_hbmFail _ (src := 3) (by decide) (by decide) _ _ _ _ _)
    case h_3 => exact h0

theorem landsOnly_windowLand (s : State) (rq : WinReq) : LandsOnly s (s.windowLand rq).2 := landsOnly_landBlocks _ _ _ _ s

/-! ## The answer of an inbound window (R325, R438) -/

/-- The answer of a request that came on a port: kept as any, and sent. -/
def State.answerOn (v : State) (rq : WinReq) : State :=
  match v.portFor rq.srcId with
  | none => v
  | some q => v.sendOn q ⟨0x13, rq.func, rq.srcId, rq.tag, v.winAns, 0, 0, [], 0⟩

theorem windowReply_none (s : State) (rq : WinReq) (st : Byte) : s.windowReply none rq st = { s with winAns := st } := rfl

theorem windowReply_some (s : State) (p : PortNo) (rq : WinReq) (st : Byte) :
    s.windowReply (some p) rq st = State.answerOn { s with winAns := st } rq := rfl

theorem wakes_winHeld (l : List Nat) : ∀ s : State, (l.foldl (fun a pa => a.wakeSlice pa) s).winHeld = s.winHeld ∧
    (l.foldl (fun a pa => a.wakeSlice pa) s).hbm = s.hbm := by
  induction l with
  | nil => exact fun _ => ⟨rfl, rfl⟩
  | cons pa l ih =>
    intro s
    obtain ⟨d, e⟩ := wakeSlice_eq s pa
    rw [List.foldl_cons, (ih _).1, (ih _).2, e]
    exact ⟨rfl, rfl⟩

/-- A request on a port is answered there as one of no port is, or held as that one is. -/
theorem serveWindow_port {s : State} {p : PortNo} {rq : WinReq} (hb : s.windowBlocked (some p) rq = s.windowBlocked none rq) :
    ((s.serveWindow none rq).winHeld = s.winHeld ∧ s.serveWindow (some p) rq = (s.serveWindow none rq).answerOn rq) ∨
      ((s.serveWindow none rq).winHeld ≠ s.winHeld ∧ (s.serveWindow (some p) rq).hbm = s.hbm ∧
        (s.serveWindow (some p) rq).winHeld = s.winHeld ++ [(some p, rq)]) := by
  unfold State.serveWindow
  dsimp only
  rw [hb]
  split
  · exact .inl ⟨rfl, rfl⟩
  · split
    · exact .inr ⟨by simp, rfl, rfl⟩
    · split
      · refine .inl ⟨?_, rfl⟩
        have h := landsOnly_windowLand s rq
        rw [LandsOnly] at h
        exact (congrArg State.winHeld h :)
      case h_2 l _ _ =>
        obtain ⟨h1, h2⟩ := wakes_winHeld (s.windowSleeps rq) s
        refine .inr ⟨?_, h2, ?_⟩
        · change _ ++ _ ≠ _
          rw [h1]
          simp
        · change _ ++ _ = _
          rw [h1]

/-! ## Sending on a port that has room -/

/-- Port `q` can send up to four units on channel `c` at once. -/
def Port.Ready (x : Port) (c units : Nat) : Prop :=
  SMap.get [] x.vcq c = [] ∧ SMap.get 0 x.used c + units ≤ 512 ∧ x.buf.length ≤ 2030

theorem ready_of_room {s : State} {q : PortNo} {c units : Nat} (h : PortRoom s q c units) : (s.port q).Ready c units := by
  obtain ⟨h1, h2, h3⟩ := h
  exact ⟨h1, h2, by omega⟩

theorem leaves_of_ready {s : State} {q : PortNo} {k : TxPkt} {c units : Nat} (hr : (s.port q).Ready c units)
    (hc : pktVc k.type.toNat = c) (hu : pktUnits (k.bytes s.devid) ≤ units) (hlen : k.data.length ≤ 4000) :
    Leaves s (s.sendOn q k) q k := by
  obtain ⟨hq, hused, hbuf⟩ := hr
  obtain ⟨new, hw, hkind, hn, hpre⟩ := Port.frames_of_room 18
    { s.port q with used := SMap.modify 0 (s.port q).used c (fun n => n + pktUnits (k.bytes s.devid)) } (k.bytes s.devid)
    (show (s.port q).buf.length + 18 ≤ 2048 by omega) (by rw [length_bytes_pkt]; omega)
  have hp : (s.sendOn q k).port q = Port.frames
      { s.port q with used := SMap.modify 0 (s.port q).used c (fun n => n + pktUnits (k.bytes s.devid)) } 18 (k.bytes s.devid) := by
    rw [State.sendOn, State.port_modPort_self, hc, Port.packet, hq]
    have hle : SMap.get 0 (s.port q).used c + pktUnits (k.bytes s.devid) ≤ 512 := by omega
    exact if_pos (by simp [vcUnits, hle])
  refine ⟨[], new, [], ?_, hkind, ?_, ?_⟩
  · rw [hp, hw]
    simp
  · rw [hn, length_bytes_pkt]
    change _ = ((k.plain s.devid).length + 239) / 240
    rw [length_plain]
    omega
  · change List.take (k.plain s.devid).length _ = k.plain s.devid
    rw [bytes_eq_plain] at hpre
    exact (List.prefix_iff_eq_take.1 ((List.prefix_append _ _).trans hpre)).symm

/-- What leaves after the ports have only grown has left. -/
theorem leaves_after {s u v : State} {q : PortNo} {k : TxPkt} (g : PortsGrow s u) (hd : u.devid = s.devid) (h : Leaves u v q k) :
    Leaves s v q k := by
  obtain ⟨early, new, late, hw, hkind, hn, hb⟩ := h
  obtain ⟨more, hm⟩ := g q
  rw [hd] at hn hb
  exact ⟨early ++ more, new, late, by rw [hw, ← hm]; simp, hkind, hn, hb⟩

/-! ## What a port keeps -/

/-- Where packets go depends on nothing that sending changes. -/
theorem portFor_congr {s u : State} (h : ∀ q, (u.port q).st = (s.port q).st ∧ (u.port q).assigned = (s.port q).assigned ∧
    (u.port q).peer = (s.port q).peer) (dst : BitVec 16) : u.portFor dst = s.portFor dst := by
  have hst (q : PortNo) : (u.port q).st = (s.port q).st := (h q).1
  have has (q : PortNo) : (u.port q).assigned = (s.port q).assigned := (h q).2.1
  have hpe (q : PortNo) : (u.port q).peer = (s.port q).peer := (h q).2.2
  simp only [State.portFor, State.activePorts, hst, has, hpe]

theorem frames_vcq (n : Nat) : ∀ (x : Port) (b : List Byte), (x.frames n b).vcq = x.vcq := by
  have hb (x : Port) (k : BitVec 2) (c : List Byte) : (x.begin k c).vcq = x.vcq := by
    rw [Port.begin]
    split <;> exact rfl
  induction n with
  | zero => exact fun _ _ => rfl
  | succ n ih =>
    intro x b
    rw [Port.frames]
    split
    · rfl
    · rw [ih, hb]

theorem packet_vcq {x : Port} {vc : Nat} {b : List Byte} (hq : SMap.get [] x.vcq vc = [])
    (hu : SMap.get 0 x.used vc + pktUnits b ≤ 512) : (x.packet vc b).vcq = x.vcq := by
  rw [Port.packet, hq, if_pos (by simp [vcUnits, hu]), frames_vcq]

theorem begin_buf (x : Port) (k : BitVec 2) (b : List Byte) : (x.begin k b).buf.length ≤ x.buf.length + 1 ∧ (x.begin k b).used = x.used := by
  rw [Port.begin]
  split
  · exact ⟨Nat.le_succ _, rfl⟩
  · exact ⟨by simp, rfl⟩

/-- A packet of one frame on another channel takes one place of the replay buffer at most. -/
theorem packet_ready {x : Port} {c v units : Nat} {b : List Byte} (hv : v ≠ c) (hb : b.length ≤ 240) (h : x.Ready c units)
    (hbuf : x.buf.length ≤ 2029) : (x.packet v b).Ready c units := by
  obtain ⟨h1, h2, -⟩ := h
  rw [Port.packet]
  split
  · have hfr (y : Port) : (y.frames 18 b).buf.length ≤ y.buf.length + 1 ∧ (y.frames 18 b).used = y.used := by
      rw [Port.frames]
      split
      · exact ⟨Nat.le_succ _, rfl⟩
      · rw [List.drop_of_length_le hb, Port.frames, if_pos rfl]
        exact begin_buf y 0 _
    have hu (m : SMap Nat) : (Port.frames { x with used := m } 18 b).vcq = x.vcq := frames_vcq 18 _ b
    obtain ⟨hbl, hus⟩ := hfr { x with used := SMap.modify 0 x.used v (fun n => n + pktUnits b) }
    refine ⟨by rw [hu]; exact h1, ?_, ?_⟩
    · rw [hus]
      have hg : SMap.get 0 (SMap.modify 0 x.used v (fun n => n + pktUnits b)) c = SMap.get 0 x.used c :=
        SMap.get_modify_ne _ _ _ hv.symm
      exact (congrArg (· + units) hg).trans_le h2
    · exact hbl.trans (Nat.succ_le_succ hbuf)
  · exact ⟨by rw [SMap.get_modify_ne _ _ _ hv.symm]; exact h1, h2, by exact hbuf.trans (by omega)⟩

theorem Port.Sends.keeps {x y : Port} (h : x.Sends y) : y.st = x.st ∧ y.assigned = x.assigned ∧ y.peer = x.peer ∧
    y.crcerr = x.crcerr ∧ y.replay = x.replay ∧ y.retrain = x.retrain := by
  rw [Port.Sends] at h
  rw [h]
  exact ⟨rfl, rfl, rfl, rfl, rfl, rfl⟩

/-- What a read request leaves of the ports. -/
theorem ask_ports (s : State) (p : PortNo) {k : TxPkt} (w : OutFor) (ht : k.type = 0x20) (hd : k.data = []) (q : PortNo) :
    (((s.ask p k w).port q).st = (s.port q).st ∧ ((s.ask p k w).port q).assigned = (s.port q).assigned ∧
      ((s.ask p k w).port q).peer = (s.port q).peer) ∧
    ∀ units, (s.port q).Ready 0 units → (s.port q).buf.length ≤ 2029 → ((s.ask p k w).port q).Ready 0 units := by
  by_cases hq : q = p
  · subst hq
    generalize hb : ({ k with tag := (s.port q).freeTag } : TxPkt).bytes s.devid = b
    have hlen : b.length ≤ 240 := by
      rw [← hb, length_bytes_pkt]
      simp [hd]
    have hp : (s.ask q k w).port q =
        { (s.port q).packet (pktVc k.type.toNat) b with out := (s.port q).out ++ [((s.port q).freeTag, w)] } := by
      have ho : ((s.port q).packet (pktVc k.type.toNat) b).out = (s.port q).out := by
        have h := (s.port q).sends_packet (pktVc k.type.toNat) b
        rw [Port.Sends] at h
        rw [h]
      rw [State.ask, State.port_modPort_self, State.sendOn, State.port_modPort_self, hb]
      exact congrArg (fun l => { (s.port q).packet (pktVc k.type.toNat) b with out := l ++ [((s.port q).freeTag, w)] }) ho
    obtain ⟨h1, h2, h3, -⟩ := ((s.port q).sends_packet (pktVc k.type.toNat) b).keeps
    rw [hp]
    refine ⟨⟨h1, h2, h3⟩, fun units hr hbuf => ?_⟩
    exact packet_ready (by rw [ht]; decide) hlen hr hbuf
  · have hp : (s.ask p k w).port q = s.port q := by
      rw [State.ask, State.port_modPort, if_neg hq, State.sendOn, State.port_modPort, if_neg hq]
    rw [hp]
    exact ⟨⟨rfl, rfl, rfl⟩, fun _ h _ => h⟩

/-- What reading commands leaves of the ports. -/
theorem fetch_ports (s : State) (f : FuncNo) (q : PortNo) :
    (((s.fetch f).port q).st = (s.port q).st ∧ ((s.fetch f).port q).assigned = (s.port q).assigned ∧
      ((s.fetch f).port q).peer = (s.port q).peer) ∧
    ∀ units, (s.port q).Ready 0 units → (s.port q).buf.length ≤ 2029 → ((s.fetch f).port q).Ready 0 units := by
  unfold State.fetch
  dsimp only
  split
  · exact ⟨⟨rfl, rfl, rfl⟩, fun _ h _ => h⟩
  · split
    · exact ⟨⟨rfl, rfl, rfl⟩, fun _ h _ => h⟩
    · exact ask_ports s _ _ rfl rfl q

/-! ## Replies (R437, R438, R454) -/

/-- The port of the packet's sender. -/
theorem replyOn_eq {s : State} {p q : PortNo} (h : s.portFor (s.port p).peer = some q) (k : TxPkt) :
    s.replyOn p k = s.sendOn q { k with dst := (s.port p).peer } := by
  rw [State.replyOn, h]

/-- The acknowledgement of a CFGWR or CFGRD. -/
def cfgAckPkt (s : State) (p : PortNo) (f : FuncNo) (st : Byte) (b : List Byte) (tg : BitVec 16) : TxPkt :=
  ⟨6, f, (s.port p).peer, tg, st, 0, 0, b, b.length⟩

/-- An acknowledgement leaves on the port that the adapter's ID chooses. -/
theorem cfgAck_leaves {s : State} {p q : PortNo} {f : FuncNo} {st : Byte} {b : List Byte} (hq : s.portFor (s.port p).peer = some q)
    (hr : (s.port q).Ready 0 2) (hb : b.length ≤ 64) : ∃ tg, Leaves s (s.cfgAck p f st b) q (cfgAckPkt s p f st b tg) ∧
      ∃ d, s.cfgAck p f st b = { s with free := s.free + 1, ports := d } ∧
        ∀ n, (s.port n).Sends ((s.cfgAck p f st b).port n) := by
  have he : s.cfgAck p f st b =
      State.sendOn { s with free := s.free + 1 } q (cfgAckPkt s p f st b (Config.free s.free 0 16)) :=
    replyOn_eq (s := { s with free := s.free + 1 }) hq _
  refine ⟨Config.free s.free 0 16, ?_, ?_⟩
  · rw [he]
    refine leaves_of_ready (s := { s with free := s.free + 1 }) hr rfl ?_ (by show b.length ≤ 4000; omega)
    rw [pktUnits, length_bytes_pkt, ceilDiv]
    change (24 + b.length + (8 - b.length % 8) % 8 + 64 - 1) / 64 ≤ 2
    omega
  · rw [he]
    refine ⟨_, rfl, fun n => ?_⟩
    rw [State.sendOn, State.port_modPort]
    split
    case isTrue h => subst h; exact Port.sends_packet _ _ _
    case isFalse => exact .refl _

/-- An acknowledgement after a change that keeps where packets go. -/
theorem cfgAck_of {s u : State} {p q : PortNo} {f : FuncNo} {i : Instr} {st : Byte} {b : List Byte} {y : Func}
    (e : exec i s = .next (u.cfgAck p f st b)) (hq : s.portFor (s.port p).peer = some q)
    (hk : ∀ n, (u.port n).st = (s.port n).st ∧ (u.port n).assigned = (s.port n).assigned ∧ (u.port n).peer = (s.port n).peer)
    (hg : PortsGrow s u) (hd : u.devid = s.devid) (hr : (u.port q).Ready 0 2) (hb : b.length ≤ 64) (hf : u.func f = y)
    (ht : u.tiles = s.tiles) (hm : u.hbm = s.hbm) :
    ∃ v tg, exec i s = .next v ∧ Leaves s v q (cfgAckPkt s p f st b tg) ∧ v.func f = y ∧ v.tiles = s.tiles ∧ v.hbm = s.hbm := by
  have hpeer : (u.port p).peer = (s.port p).peer := (hk p).2.2
  obtain ⟨tg, hl, d, hv, -⟩ := cfgAck_leaves (f := f) (st := st) (b := b)
    (show u.portFor (u.port p).peer = some q by rw [hpeer, portFor_congr hk, hq]) hr hb
  refine ⟨_, tg, e, ?_, ?_, ?_, ?_⟩
  · have h := leaves_after hg hd hl
    rw [cfgAckPkt, hpeer] at h
    exact h
  · rw [hv]; exact hf
  · rw [hv]; exact ht
  · rw [hv]; exact hm

/-- A doorbell's answer leaves, and its function's indices stand. -/
theorem doorbell_acts {s : State} {p q : PortNo} {f : FuncNo} (tail head : BitVec 16) (hst : (s.port p).st = 2)
    (hf : (s.func f).st ≠ .absent) (hq : s.portFor (s.port p).peer = some q) (hr : (s.port q).Ready 0 2) :
    ∃ u, exec (.doorbell p f tail head) s = .next u ∧
      u.func f = { s.func f with
        ctail := BitVec.ofNat 16 (tail.toNat % ringEntries (s.func f).crb)
        qhead := BitVec.ofNat 16 (head.toNat % ringEntries (s.func f).cqb) } ∧
      Leaves s u q ⟨2, f, (s.port p).peer, 0, 0, 0, 0,
        byteList ((s.func f).chead ++ (0#12) ++ BitVec.ofBool s.unrec ++ fnCode (s.func f).st) 4, 4⟩ := by
  let y : Func := { s.func f with
    ctail := BitVec.ofNat 16 (tail.toNat % ringEntries (s.func f).crb)
    qhead := BitVec.ofNat 16 (head.toNat % ringEntries (s.func f).cqb) }
  let u : State := s.modFunc f (fun _ => y)
  have hfu : u.func f = y := State.func_modFunc_self s f _
  let k : TxPkt := ⟨2, f, (s.port p).peer, 0, 0, 0, 0,
    byteList ((s.func f).chead ++ (0#12) ++ BitVec.ofBool s.unrec ++ fnCode (s.func f).st) 4, 4⟩
  have he : exec (.doorbell p f tail head) s = .next ((u.sendOn q k).fetch f) := by
    have hsend : u.replyOn p ⟨2, f, 0, 0, 0, 0, 0, bytesOf ((u.func f).chead ++ (0#12) ++ b2v u.unrec ++ fnCode (u.func f).st) 4, 4⟩ =
        u.sendOn q k := by
      rw [replyOn_eq (s := u) hq, hfu, bytesOf_eq_byteList, b2v_eq]
      rfl
    change execDoorbell p f tail head s = _
    rw [execDoorbell, State.doorbellAt, if_neg (not_not.2 hst), if_neg hf]
    exact congrArg (fun v : State => Host.Outcome.next (v.fetch f)) hsend
  refine ⟨_, he, ?_, ?_⟩
  · rw [func_fetch]
    exact hfu
  · refine leaves_mono (leaves_of_ready (s := u) (k := k) hr rfl ?_ ?_) (fetch_spec _ f).2
    · rw [pktUnits, length_bytes_pkt, ceilDiv]
      simp [k]
    · simp [k]

end Sys2Proof.Machine
end

section
/-! O38: the obligation on Tamore Link, frames and packets. -/
namespace Sys2Proof.Machine

open Sys2Proof.Safety

/-! ## NAKs and retrains of a port as it stands -/

section
variable {s : State} {p : PortNo}

theorem sendNak_self : s.sendNak p =
    if 16 ≤ nakNext (s.port p).ownNakCnt (s.port p).ownNakSeq (s.port p).rxSeq then
      (s.putPort p (s.port p).naked).portRetrain p else s.putPort p (s.port p).naked := rfl

theorem portRetrain_self (h : (s.port p).st = 1 ∨ (s.port p).st = 2) : s.portRetrain p =
    if 2 ≤ ((s.port p).near s.pt.time).length then (s.putPort p ((s.port p).goesDown s.pt.time)).portDown p
    else s.putPort p ((s.port p).goesDown s.pt.time) :=
  if_neg (by simpa using live_not_idle h)

theorem nakAt_self (h : (s.port p).st = 1 ∨ (s.port p).st = 2) (sq : BitVec 12) : s.nakAt p sq =
    if 16 ≤ nakNext (s.port p).nakCnt (s.port p).nakSeq sq then
      (s.putPort p { (s.port p).replayFrom sq with
        nakSeq := sq, nakCnt := nakNext (s.port p).nakCnt (s.port p).nakSeq sq }).portRetrain p
    else s.putPort p { (s.port p).replayFrom sq with
      nakSeq := sq, nakCnt := nakNext (s.port p).nakCnt (s.port p).nakSeq sq } :=
  if_neg (by simpa using live_not_idle h)

/-- A port with nothing outstanding goes down alone. -/
theorem portDown_self (h : (s.port p).out = []) :
    s.portDown p = s.putPort p { s.port p with st := 0, txq := [], vcq := [] } := by
  rw [State.portDown, h, List.foldl_nil, modPort_eq_putPort]
  exact congrArg (fun l => s.putPort p { s.port p with st := 0, out := l, txq := [], vcq := [] }) h.symm

/-! ## Control frames -/

theorem controlIn_nak {b : List Byte} (h : b.getD 0 0 = 1) :
    s.controlIn p b = s.nakAt p ((leBits 16 ((b.drop 1).take 2) : BitVec 16).extractLsb' 0 12) := by
  have h' : nth b 0 0 = 1 := h
  rw [State.controlIn, h']
  rfl

theorem controlIn_assign {b : List Byte} (h : b.getD 0 0 = 2) :
    s.controlIn p b = s.assignAt p (leBits 16 ((b.drop 1).take 2)) (leBits 16 ((b.drop 3).take 2)) := by
  have h' : nth b 0 0 = 2 := h
  rw [State.controlIn, h']
  rfl

theorem controlIn_retrain {b : List Byte} (h : b.getD 0 0 = 3) : s.controlIn p b = s.portRetrain p := by
  have h' : nth b 0 0 = 3 := h
  rw [State.controlIn, h']
  rfl

theorem controlIn_other {b : List Byte} (h1 : b.getD 0 0 ≠ 1) (h2 : b.getD 0 0 ≠ 2) (h3 : b.getD 0 0 ≠ 3) : s.controlIn p b = s := by
  unfold State.controlIn
  dsimp only
  split
  case h_1 h => exact absurd h h1
  case h_2 h => exact absurd h h2
  case h_3 h => exact absurd h h3
  case h_4 => rfl

end

/-! ## Idle frames -/

theorem heed_credit (b : List Byte) (x : Port) :
    x.credited (fun v => (frameOf b).credit.getD v 0) 4 = x.credited (frameBack b) 4 := by
  refine foldl_congr_mem (fun v hv a => ?_) x
  have h : (frameOf b).credit.getD v 0 = frameBack b v := by
    have hlt := List.mem_range.1 hv
    change ((List.range 4).map (frameBack b)).getD v 0 = _
    rw [List.getD_eq_getElem _ _ (by simpa using hlt), List.getElem_map, List.getElem_range]
  exact congrArg (fun n => if n = 0 then a else a.credit v n) h

/-- Credit that lets the one packet that waits for it leave. -/
theorem credit_waiting {x : Port} {vc n : Nat} {b : List Byte} (hq : SMap.get [] x.vcq vc = [b])
    (hroom : SMap.get 0 x.used vc - n + (b.length + 63) / 64 ≤ 512) (hbuf : x.buf.length ≤ 2000) (hb : b.length ≤ 4320) :
    ∃ new, (x.credit vc n).wire = new.reverse ++ x.wire ∧ Carries new b ∧ SMap.get [] (x.credit vc n).vcq vc = [] := by
  let y : Port := { x with used := SMap.modify 0 x.used vc (fun m => m - n), vcq := SMap.set [] x.vcq vc [] }
  have hy : x.credit vc n = y.packet vc b := by rw [Port.credit, hq]; rfl
  have hnil : SMap.get [] y.vcq vc = [] := SMap.get_set_self ([] : List (List Byte)) x.vcq vc []
  have hu : SMap.get 0 y.used vc + pktUnits b ≤ 512 := by
    have hget : SMap.get 0 y.used vc = SMap.get 0 x.used vc - n := SMap.get_modify_self 0 x.used vc (fun m => m - n)
    rw [hget, pktUnits, ceilDiv]
    omega
  obtain ⟨new, hw, hc⟩ := Port.packet_of_room hnil hu hbuf hb
  rw [hy]
  exact ⟨new, hw, hc, by rw [packet_vcq hnil hu]; exact hnil⟩

/-- With nothing waiting for the replay buffer an acknowledgement only shortens it. -/
theorem acked_quiet {x : Port} (hq : x.txq = []) (a : BitVec 12) : ∃ l, x.acked a = { x with buf := l } := by
  have h (l : List TxFrame) : Port.flush { x with buf := l } = { x with buf := l } := by
    rw [Port.flush, hq, List.foldl_nil, ← hq]
  rw [Port.acked]
  split
  · exact ⟨_, h _⟩
  · exact ⟨x.buf, rfl⟩

theorem acked_at {x : Port} (hq : x.txq = []) {pre post : List TxFrame} {fr : TxFrame} (hb : x.buf = pre ++ fr :: post)
    (hp : ∀ k ∈ pre, k.seq ≠ fr.seq) : x.acked fr.seq = { x with buf := post } := by
  have hd := dropWhile_seq (post := post) hp
  rw [Port.acked, if_pos (by simp [hb]), hb, hd, List.tail_cons, Port.flush, hq, List.foldl_nil, ← hq]

theorem func_badPackets (s : State) :
    (s.badPackets 1).func 0 = { s.func 0 with errFormat := satAdd (s.func 0).errFormat 1 } := State.func_modFunc_self s 0 _

/-! ## Packets by type -/

section
variable (s : State) (p : PortNo) {k : TxPkt} (src : BitVec 16) (ecc : SliceEcc) (hl : k.len ≤ 4096)
include hl

theorem packetIn_doorbell (h : k.type.toNat = 1) : s.packetIn p k src ecc =
    s.doorbellAt p k.func (leBits 16 (k.data.take 2)) (leBits 16 ((k.data.drop 2).take 2)) := by
  rw [packetIn_known _ _ _ _ _ ⟨by omega, hl⟩, h]
  rfl

theorem packetIn_cfgwr (h : k.type.toNat = 4) :
    s.packetIn p k src ecc = s.cfgWrite p k.func k.addr (leBits 64 (k.data.take 8)) := by
  rw [packetIn_known _ _ _ _ _ ⟨by omega, hl⟩, h]
  rfl

theorem packetIn_cfgrd (h : k.type.toNat = 5) : s.packetIn p k src ecc = s.cfgRead p k.func k.addr := by
  rw [packetIn_known _ _ _ _ _ ⟨by omega, hl⟩, h]
  rfl

/-- The window request of a WR, ACC or CLM packet. -/
theorem packetIn_window {kd : WinKind} (h : k.type.toNat = 0x10 ∧ kd = .write ∨ k.type.toNat = 0x11 ∧ kd = .acc (bits k.attr 6 2) ∨
    k.type.toNat = 0x12 ∧ kd = .claim) : s.packetIn p k src ecc =
      s.inbound p ⟨src, k.func, bits k.attr 0 6, kd, k.addr, k.data, k.tag, ecc⟩ := by
  rw [packetIn_known _ _ _ _ _ ⟨by omega, hl⟩]
  obtain ⟨h, rfl⟩ | ⟨h, rfl⟩ | ⟨h, rfl⟩ := h <;> rw [h] <;> rfl

theorem packetIn_rsp (h : k.type.toNat = 0x13) : s.packetIn p k src ecc = s.rspAt p k.tag k.status := by
  rw [packetIn_known _ _ _ _ _ ⟨by omega, hl⟩, h]
  rfl

theorem packetIn_rdc (h : k.type.toNat = 0x21) : s.packetIn p k src ecc = s.rdcAt p k.tag k.status k.data := by
  rw [packetIn_known _ _ _ _ _ ⟨by omega, hl⟩, h]
  rfl

end

/-! ## CFGWR and CFGRD (R454, R456) -/

/-- The ring register that a CFGWR writes, and what its rise clears. -/
def Func.ringSet (x : Func) (cq : Bool) (v : DWord) : Func :=
  let rise := !(bit (if cq then x.cqb else x.crb) 5) && bit v 5
  if cq then
    let y := { x with cqb := v, events := if bit v 5 then x.events else [] }
    if rise then { y with qhead := 0, qtail := 0, phase := true } else y
  else
    let y := { x with crb := v }
    if rise then { y with chead := 0, ctail := 0 } else y

theorem ring_bit5 (w : DWord) : bit (w &&& 0xFFFFFFFFFFFFF03F) 5 = w.getLsbD 5 := by
  rw [bit, BitVec.getLsbD_and]
  exact Bool.and_true _

theorem ringSet_cmd (x : Func) (w : DWord) : x.ringSet false (w &&& 0xFFFFFFFFFFFFF03F) =
    if x.crb.getLsbD 5 = false ∧ w.getLsbD 5 = true then { x with crb := w &&& 0xFFFFFFFFFFFFF03F, chead := 0, ctail := 0 }
    else { x with crb := w &&& 0xFFFFFFFFFFFFF03F } := by
  rw [Func.ringSet, ring_bit5, if_neg Bool.false_ne_true]
  exact if_congr (by rw [bit]; simp) rfl rfl

theorem ringSet_done (x : Func) {w : DWord} (h1 : x.cqb.getLsbD 5 = false) (h2 : w.getLsbD 5 = true) :
    x.ringSet true (w &&& 0xFFFFFFFFFFFFF03F) =
      { x with cqb := w &&& 0xFFFFFFFFFFFFF03F, qhead := 0, qtail := 0, phase := true } := by
  rw [Func.ringSet, ring_bit5, h2, if_pos rfl, if_pos rfl]
  refine if_pos ?_
  rw [if_pos rfl, bit, h1]
  rfl

theorem writeRing_eq {s : State} {f : FuncNo} (h : (s.func f).st = .idle ∨ (s.func f).st = .failed ∨ (s.func f).st = .absent)
    (cq : Bool) (w : DWord) :
    s.writeRing f cq w = (s.modFunc f (fun _ => (s.func f).ringSet cq (w &&& 0xFFFFFFFFFFFFF03F))).fetch f := by
  refine (if_neg ?_).trans rfl
  obtain h | h | h := h <;> simp [h]

section
variable {s : State} {p q : PortNo} {f : FuncNo} (hst : (s.port p).st = 2)
include hst

theorem cfgwr_eq (off w : DWord) : exec (.cfgwr p f off w) s = .next (if off ≠ 8 ∧ off ≠ 0x10 then s.cfgAck p f 4 []
    else if (s.func f).st ≠ .idle ∧ (s.func f).st ≠ .failed ∧ (s.func f).st ≠ .absent then s.cfgAck p f 1 []
    else (s.writeRing f (off = 0x10) w).cfgAck p f 0 []) := by
  refine congrArg Host.Outcome.next ((if_neg (not_not.2 hst)).trans ?_)
  simp only [Bool.and_eq_true, decide_eq_true_eq, and_assoc]

theorem cfgrd_bad {off : DWord} (h : off.toNat = 8) : exec (.cfgrd p f off) s = .next (s.cfgAck p f 4 []) := by
  refine congrArg Host.Outcome.next ((if_neg (not_not.2 hst)).trans ?_)
  rw [h]
  rfl

theorem cfgrd_fn {off : DWord} (h : off.toNat = 0 ∨ off.toNat = 0x20) :
    exec (.cfgrd p f off) s = .next ((s.fnRead f off.toNat).2.cfgAck p f 0 (bytesOf (s.fnRead f off.toNat).1 8)) := by
  refine congrArg Host.Outcome.next ((if_neg (not_not.2 hst)).trans ?_)
  obtain h | h := h <;> rw [h] <;> rfl

theorem cfgrd_part {off : DWord} {o : Nat} (h : off.toNat = 0x20000 + o) (ho : o % 8 = 0) (hle : o ≤ 0x20) :
    exec (.cfgrd p f off) s = .next ((s.partRead o).2.cfgAck p f 0 (bytesOf (s.partRead o).1 8)) := by
  refine congrArg Host.Outcome.next ((if_neg (not_not.2 hst)).trans ?_)
  have hsub : off.toNat - 0x20000 = o := by omega
  have hreg : (partReg o).isSome = true := by rw [partReg, if_pos (by simp [ho, hle])]; rfl
  dsimp only
  rw [hsub, hreg, if_neg (by simp; omega), if_neg (by omega)]

end

/-- A port with its link counters cleared. -/
def Port.recount (x : Port) : Port := { x with retrain := 0, replay := 0, crcerr := 0 }

/-- The part register of a port. -/
def Port.lnk (x : Port) : DWord := x.peer ++ x.crcerr ++ x.replay ++ x.retrain ++ (0#6) ++ x.st

theorem partRead_link (s : State) (n : PortNo) :
    s.partRead (8 + 8 * n.toNat) = ((s.port n).lnk, s.modPort n Port.recount) := by
  have hn : BitVec.ofNat 2 ((8 + 8 * n.toNat) / 8 - 1) = n := by
    rw [show (8 + 8 * n.toNat) / 8 - 1 = n.toNat by omega, BitVec.ofNat_toNat, BitVec.setWidth_eq]
  rw [State.partRead, if_neg (by omega), hn]
  rfl

theorem link_offset (n : PortNo) : (0x20008 + 8 * n.setWidth 64 : DWord).toNat = 0x20000 + (8 + 8 * n.toNat) := by
  revert n
  decide

theorem port_recount (s : State) (n q : PortNo) : (s.modPort n Port.recount).port q = if q = n then (s.port n).recount else s.port q :=
  State.port_modPort s n q _

/-- A read of a port's part register counts anew. -/
theorem cfgrd_link {s : State} {p q : PortNo} {f : FuncNo} (hst : (s.port p).st = 2) (hq : s.portFor (s.port p).peer = some q)
    (hr : (s.port q).Ready 0 2) (n : PortNo) :
    (∃ v tg, exec (.cfgrd p f (0x20008 + 8 * n.setWidth 64)) s = .next v ∧
      Leaves s v q (cfgAckPkt s p f 0 (byteList (s.port n).lnk 8) tg) ∧ v.func f = s.func f ∧ v.tiles = s.tiles ∧ v.hbm = s.hbm) ∧
    ∃ u, exec (.cfgrd p f (0x20008 + 8 * n.setWidth 64)) s = .next u ∧ (u.port n).crcerr = 0 ∧ (u.port n).replay = 0 ∧
      (u.port n).retrain = 0 := by
  have hk (m : PortNo) : ((s.modPort n Port.recount).port m).st = (s.port m).st ∧
      ((s.modPort n Port.recount).port m).assigned = (s.port m).assigned ∧
      ((s.modPort n Port.recount).port m).peer = (s.port m).peer := by
    rw [port_recount]
    split
    case isTrue h => subst h; exact ⟨rfl, rfl, rfl⟩
    case isFalse => exact ⟨rfl, rfl, rfl⟩
  have hr' : ((s.modPort n Port.recount).port q).Ready 0 2 := by
    rw [port_recount]
    split
    case isTrue h => subst h; exact hr
    case isFalse => exact hr
  have he : exec (.cfgrd p f (0x20008 + 8 * n.setWidth 64)) s =
      .next ((s.modPort n Port.recount).cfgAck p f 0 (byteList (s.port n).lnk 8)) := by
    have hn := n.isLt
    rw [cfgrd_part hst (link_offset n) (by omega) (by omega), partRead_link, bytesOf_eq_byteList]
  have hpeer : ((s.modPort n Port.recount).port p).peer = (s.port p).peer := (hk p).2.2
  obtain ⟨-, -, d, -, hsend⟩ := cfgAck_leaves (f := f) (st := 0) (b := byteList (s.port n).lnk 8)
    (show (s.modPort n Port.recount).portFor ((s.modPort n Port.recount).port p).peer = some q by
      rw [hpeer, portFor_congr hk, hq]) hr' (by simp)
  refine ⟨cfgAck_of he hq hk (.modPort s n fun _ => List.suffix_refl _) rfl hr' (by simp) rfl rfl rfl, _, he, ?_⟩
  obtain ⟨-, -, -, h1, h2, h3⟩ := (hsend n).keeps
  rw [h1, h2, h3, port_recount, if_pos rfl]
  exact ⟨rfl, rfl, rfl⟩

/-- One command of 64 bytes joins those of its ring. -/
theorem func_ringData {s : State} {f : FuncNo} {b : List Byte} (hu : s.unrec = false) (hc : (s.func f).crb.getLsbD 5 = true)
    (hx : (s.func f).st ≠ .absent) (hb : b.length = 64) : (s.ringData f 0 b).func f =
      { s.func f with
        cmds := (s.func f).cmds ++ [⟨toWords 16 b, false, 0, none⟩]
        chead := BitVec.ofNat 16 (((s.func f).chead.toNat + 1) % ringEntries (s.func f).crb) } := by
  have hif : ¬((0 : Byte) ≠ 0 || s.unrec || !(bit (s.func f).crb 5) || (s.func f).st = .absent) = true := by
    simp [hu, bit, hc, hx]
  rw [State.ringData]
  refine (congrArg (fun v : State => v.func f) (if_neg hif)).trans ?_
  rw [func_fetch, State.func_modFunc_self, hb]
  rfl

/-! ## Inbound windows and answers (R325, R437) -/

theorem inbound_exec {s : State} (p : PortNo) {rq : WinReq} : (rq.kind = .write → exec (.wr p rq) s = .next (s.inbound p rq)) ∧
    (∀ a, rq.kind = .acc a → exec (.acc p rq) s = .next (s.inbound p rq)) ∧
    (rq.kind = .claim → exec (.clm p rq) s = .next (s.inbound p rq)) := by
  refine ⟨fun h => ?_, fun a h => ?_, fun h => ?_⟩
  · change execWr p rq s = _
    rw [execWr, h]
  · change execAcc p rq s = _
    rw [execAcc, h]
  · change execClm p rq s = _
    rw [execClm, h]

section
variable {s : State} {p : PortNo} {tag : BitVec 16} {r : OutFor} (hst : (s.port p).st = 2) (ho : (s.port p).out = [(tag, r)])
include hst ho

theorem done_only : (s.port p).done tag = { s.port p with out := [] } := by
  rw [Port.done, ho]
  simp

theorem waits_only {read : Bool} (h : r.wants read = true) : (s.port p).waits tag read = some r := by
  rw [Port.waits, ho]
  simp [h]

theorem rspAt_only (h : r.wants false = true) : s.rspAt p tag 0 = s.putPort p { s.port p with out := [] } := by
  refine (if_neg (not_not.2 hst)).trans ?_
  rw [waits_only hst ho h]
  dsimp only
  rw [if_pos rfl, modPort_eq_putPort, done_only hst ho]

theorem rdcAt_only {b : List Byte} (hb : b.length ≤ 4096) (h : r.wants true = true) :
    s.rdcAt p tag 0 b = (s.putPort p { s.port p with out := [] }).readData r b := by
  refine (if_neg (not_not.2 hst)).trans ((if_neg (by omega)).trans ?_)
  rw [waits_only hst ho h]
  dsimp only
  rw [if_pos rfl, modPort_eq_putPort, done_only hst ho]

end

/-- Settles O38: a frame is read once, and each kind of frame and packet is one change of its port or one command. -/
theorem tamoreLink : Obligations.TamoreLink := by
  unfold Obligations.TamoreLink
  refine ⟨fun s p fec bytes b ecc fr pre post dev peer vc => ?_, ?_⟩
  · intro x near ackOf due makes zeros hdr body back kind seq ack intact i again naked goesDown refuses idle z here acts half ty
      total data func attr addr rq class_ one off
    have hmk {j : Instr} {w : Port} (e : exec j s = .next (s.putPort p w)) : makes j w :=
      ⟨_, e, rfl, port_putPort s p w⟩
    have hnaked (w : Port) (hb : w.buf.length < 2048) : w.naked = naked w := by
      rw [Port.naked, Port.control, begin_room hb, nakNext_eq]
      rfl
    have hagain (w : Port) : nakNext w.ownNakCnt w.ownNakSeq w.rxSeq = again w := nakNext_eq _ _ _
    have hdown (w : Port) (h1 : w.retrain = x.retrain) (h2 : w.recent = x.recent) : w.goesDown s.pt.time = goesDown w := by
      rw [Port.goesDown, Port.near, h1, h2]
    have hrefuse (w : Port) (e : exec i s = .next (if 16 ≤ nakNext w.ownNakCnt w.ownNakSeq w.rxSeq then
          (s.putPort p w.naked).portRetrain p else s.putPort p w.naked)) (hw : w.buf = x.buf) (hst : w.st = x.st)
        (h1 : w.retrain = x.retrain) (h2 : w.recent = x.recent) (hag : again w = again x) : refuses w := by
      intro hb
      rw [hagain, hnaked w (by rw [hw]; exact hb), hag] at e
      refine ⟨fun h => ?_, fun h hl hn => ?_⟩
      · by_cases hc : 16 ≤ again x
        · rw [if_pos hc, portRetrain_of_idle] at e
          · exact hmk e
          · obtain h | h := h
            · omega
            · change w.st = 0 ∨ w.st = 3
              rw [hst]
              exact h
        · rw [if_neg hc] at e
          exact hmk e
      · rw [if_pos h, portRetrain_of_few] at e
        · rw [hdown (naked w) h1 h2] at e
          exact hmk e
        · change w.st = 1 ∨ w.st = 2
          rw [hst]
          exact hl
        · change (w.recent.filter _).length < 2
          rw [h2]
          exact hn
    have hkind1 (h : kind = 1) : (frameOf bytes).kind ≠ 2 := by
      change kind ≠ 2
      rw [h]
      decide
    have hkind0 (h : kind = 0) : (frameOf bytes).kind ≠ 2 := by
      change kind ≠ 2
      rw [h]
      decide
    have hkind0' (h : kind = 0) : ¬(frameOf bytes).kind = 1 := by
      change ¬kind = 1
      rw [h]
      decide
    have hctl (ha : s.alive = true) (hg : intact) (hk : kind = 1) (hs : seq = x.rxSeq) :
        exec i s = .next (((here z).controlIn p body).modPort p Port.idleFrame) := by
      have e := tlFrame_next (ecc := ecc) ha hg (hkind1 hk) hs
      rw [if_pos (show (frameOf bytes).kind = 1 from hk)] at e
      exact e
    have hdat (ha : s.alive = true) (hg : intact) (hk : kind = 0) (hs : seq = x.rxSeq) (hst : x.st = 2) :
        exec i s = .next (((here z).payloadIn p body ecc).modPort p Port.idleFrame) := by
      have e := tlFrame_next (ecc := ecc) ha hg (hkind0 hk) hs
      rw [if_neg (hkind0' hk), if_pos hst] at e
      exact e
    have hzrx (h : x.rxBuf = []) : z.rxBuf = [] := by
      have hh := Port.sends_heed x (frameOf bytes)
      have hr : (x.heed (frameOf bytes)).rxBuf = x.rxBuf := by
        rw [Port.Sends] at hh
        rw [hh]
      exact hr.trans h
    refine ⟨fun ha => ⟨fun hno => ?_, fun hg hk hs => ?_, fun hg hk hq hv => ?_, fun hg hk hac h4 hpos hoth hone hroom hlen hbuf => ?_,
      fun hg hs => ⟨fun hk => ⟨fun ht => ?_, fun ht => ?_, fun ht => ?_, fun h1 h2 h3 => ?_⟩, fun hk hst => ?_,
        fun hk hst hrx ht => ?_, fun hk hst hrx htot hpad => ?_⟩⟩, ?_, ?_, ?_, ?_, ?_, ?_⟩
    · refine hrefuse { x with crcerr := satAdd x.crcerr 1 } ?_ rfl rfl rfl rfl rfl
      rw [tlFrame_bad ha hno, sendNak_eq]
    · refine hrefuse x ?_ rfl rfl rfl rfl rfl
      rw [tlFrame_late ha hg hk hs, sendNak_self]
    · have hac (y : Port) (h1 : y.vcq = x.vcq) := credited_of_empty y (back := back) (n := 4) (by rw [h1]; exact hv)
      refine ⟨_, tlFrame_idle (p := p) (ecc := ecc) ha hg hk, rfl, ?_⟩
      rw [port_putPort]
      cases hack : ack with
      | none =>
        have hh : (s.port p).heed (frameOf bytes) = x.credited back 4 := (heed_none x hack).trans (heed_credit bytes x)
        obtain ⟨hf, -, hu⟩ := hac x rfl
        rw [hh]
        exact ⟨fun v h => (hu v).trans (if_pos h), fun _ => hf, fun h => nomatch h⟩
      | some a =>
        obtain ⟨l, hl⟩ := acked_quiet hq a
        have hh : (s.port p).heed (frameOf bytes) = Port.credited { x with buf := l } back 4 :=
          (heed_some x hack).trans (by rw [hl]; exact heed_credit bytes _)
        obtain ⟨hf, -, hu⟩ := hac { x with buf := l } rfl
        rw [hh]
        refine ⟨fun v h => (hu v).trans (if_pos h), fun h => absurd h (Option.some_ne_none a), fun h hb hp => ?_⟩
        obtain rfl : a = fr.seq := Option.some.inj h
        obtain rfl : l = post := congrArg Port.buf (hl.symm.trans (acked_at hq hb hp))
        exact hf
    · have hh : (s.port p).heed (frameOf bytes) = x.credit vc (back vc) :=
        (heed_none x hac).trans ((heed_credit bytes x).trans (credited_one x h4 hoth (Nat.pos_iff_ne_zero.1 hpos)))
      obtain ⟨new, hw, ⟨hk0, hnl, hpre⟩, hvq⟩ := credit_waiting hone (n := back vc) hroom hbuf hlen
      refine ⟨_, new, tlFrame_idle (p := p) (ecc := ecc) ha hg hk, ?_, hk0, hnl, (List.prefix_iff_eq_take.1 hpre).symm, ?_⟩
      · rw [port_putPort, hh, hw]
      · rw [port_putPort, hh, hvq]
    · refine ⟨_, rfl, ?_⟩
      rw [hctl ha hg hk hs, controlIn_nak ht]
      rfl
    · refine ⟨_, rfl, ?_⟩
      rw [hctl ha hg hk hs, controlIn_assign ht]
      rfl
    · refine ⟨_, rfl, ?_⟩
      rw [hctl ha hg hk hs, controlIn_retrain ht]
      rfl
    · have e := hctl ha hg hk hs
      rw [controlIn_other h1 h2 h3] at e
      exact hmk (e.trans (congrArg _ (modPort_putPort s p z Port.idleFrame)))
    · have e := tlFrame_next (ecc := ecc) ha hg (hkind0 hk) hs
      rw [if_neg (hkind0' hk), if_neg hst, modPort_putPort] at e
      exact hmk e
    · have e := hdat ha hg hk hs hst
      have hz0 : body.headD 0 = 0 := by
        have h0 : body.getD 0 0 = 0 := BitVec.eq_of_toNat_eq ht
        cases hb : body with
        | nil => rfl
        | cons a l => rw [hb] at h0; exact h0
      have hp : (here z).payloadIn p body ecc = _ := payloadIn_pad (hzrx hrx) hz0
      rw [hp, modPort_putPort] at e
      exact hmk e
    · have hlen : body.length = 240 := by
        obtain ⟨-, hl, -⟩ := hg
        simp [body, hl]
      have hty0 (n : Nat) (hn : n ≠ 0) (ht : ty = n) : body.getD 0 0 ≠ 0 := by
        intro h
        rw [show ty = 0 from congrArg BitVec.toNat h] at ht
        exact hn ht.symm
      have he (h0 : body.getD 0 0 ≠ 0) : exec i s = .next (((here { z with rxBuf := [] }).packetIn p (rxPacket body).1
          (rxPacket body).2 ecc).modPort p (fun k => idle (k.returns class_ ((total + 63) / 64)))) := by
        have e := hdat ha hg hk hs hst
        have hp : (here z).payloadIn p body ecc = _ :=
          payloadIn_one (hzrx hrx) h0 (show total ≤ body.length by rw [hlen]; exact htot) hpad
        rw [hp, modPort_modPort] at e
        exact e
      have hlong : (rxPacket body).1.len ≤ 4096 := by
        have hn : (rxPacket body).1.len = (half 2).toNat := (leNat_two (body.drop 2)).symm
        have : 24 + ((half 2).toNat + 7) / 8 * 8 ≤ 240 := htot
        omega
      have hone (j : Instr) (h0 : body.getD 0 0 ≠ 0) (hj : exec j (here { z with rxBuf := [] }) =
          .next ((here { z with rxBuf := [] }).packetIn p (rxPacket body).1 (rxPacket body).2 ecc)) : one j := ⟨_, hj, he h0⟩
      have hd : (rxPacket body).1.data = data :=
        congrArg (fun n => (body.drop 24).take n) (leNat_two (body.drop 2)).symm
      have hwin (j : Instr) (kd : WinKind) (h0 : body.getD 0 0 ≠ 0)
          (h : ty = 0x10 ∧ kd = .write ∨ ty = 0x11 ∧ kd = .acc (attr.extractLsb' 6 2) ∨ ty = 0x12 ∧ kd = .claim)
          (hj : exec j (here { z with rxBuf := [] }) = .next ((here { z with rxBuf := [] }).inbound p (rq kd))) : one j := by
        refine hone j h0 (hj.trans (congrArg Host.Outcome.next ?_))
        rw [packetIn_window (here { z with rxBuf := [] }) p (rxPacket body).2 ecc hlong h, hd]
        rfl
      refine ⟨fun ht => hone _ (hty0 1 (by decide) ht) ?_, fun ht => hone _ (hty0 4 (by decide) ht) ?_,
        fun ht => hone _ (hty0 5 (by decide) ht) ?_, fun ht => hwin _ .write (hty0 16 (by decide) ht) (.inl ⟨ht, rfl⟩) rfl,
        fun ht => hwin _ _ (hty0 17 (by decide) ht) (.inr (.inl ⟨ht, rfl⟩)) rfl,
        fun ht => hwin _ .claim (hty0 18 (by decide) ht) (.inr (.inr ⟨ht, rfl⟩)) rfl,
        fun ht => hone _ (hty0 19 (by decide) ht) ?_, fun ht => hone _ (hty0 33 (by decide) ht) ?_, fun h7 hr h20 h21 => ?_⟩
      · rw [packetIn_doorbell _ p _ ecc hlong ht, hd]
        rfl
      · rw [packetIn_cfgwr _ p _ ecc hlong ht, hd]
        rfl
      · rw [packetIn_cfgrd _ p _ ecc hlong ht]
        rfl
      · rw [packetIn_rsp _ p _ ecc hlong ht]
        rfl
      · rw [packetIn_rdc _ p _ ecc hlong ht, hd]
        rfl
      · have h0 : body.getD 0 0 ≠ 0 := fun h => by
          rw [show ty = 0 from congrArg BitVec.toNat h] at h7
          omega
        have hun : ¬PacketKnown (rxPacket body).1 := by
          have : (rxPacket body).1.type.toNat = ty := rfl
          rw [PacketKnown, this]
          omega
        refine ⟨_, he h0, ?_⟩
        rw [packetIn_unknown _ _ _ _ _ hun]
        exact func_badPackets (here { z with rxBuf := [] })
    · intro hl hb hp
      have hoff : x.replayFrom fr.seq = off := by
        rw [Port.replayFrom, hb, dropWhile_seq hp, ← hb]
        rfl
      have hnak (n : Nat) (h : nakNext x.nakCnt x.nakSeq fr.seq = n) : exec (.nak p fr.seq) s = .next (if 16 ≤ n then
          (s.putPort p { off with nakSeq := fr.seq, nakCnt := n }).portRetrain p
          else s.putPort p { off with nakSeq := fr.seq, nakCnt := n }) := by
        have hn := nakAt_self (s := s) hl fr.seq
        rw [show (s.port p).replayFrom fr.seq = off from hoff,
          show nakNext (s.port p).nakCnt (s.port p).nakSeq fr.seq = n from h] at hn
        exact congrArg _ hn
      have hsame (n : Nat) (hs : x.nakSeq = fr.seq) : { off with nakSeq := fr.seq, nakCnt := n } = { off with nakCnt := n } := by
        rw [← hs]
      have hnext (h0 : 1 ≤ x.nakCnt) (hs : x.nakSeq = fr.seq) : nakNext x.nakCnt x.nakSeq fr.seq = x.nakCnt + 1 := by
        rw [nakNext_eq, if_pos ⟨Nat.pos_iff_ne_zero.1 h0, hs⟩]
      refine ⟨fun h => hmk ?_, fun hs h1 h2 => hmk ?_, fun hs h1 h2 => hmk ?_⟩
      · have h1 : nakNext x.nakCnt x.nakSeq fr.seq = 1 := by
          rw [nakNext_eq, if_neg fun ⟨h1, h2⟩ => h.elim h1 fun h => h h2]
        rw [hnak 1 h1, if_neg (by decide)]
      · rw [hnak _ (hnext h1 hs), if_neg (Nat.not_le.2 (Nat.succ_lt_succ h2)), hsame _ hs]
      · have h15 : 1 ≤ x.nakCnt := by rw [h1]; decide
        rw [hnak _ (hnext h15 hs), h1, if_pos (by decide), hsame _ hs, portRetrain_of_few (w := { off with nakCnt := 15 + 1 }) hl h2]
        rfl
    · intro h1 h0 hf
      have hass : s.assignAt p dev peer = if (s.devv && decide (s.devid ≠ dev)) = true then
          s.putPort p { x with peer := peer, retrain := satAdd x.retrain 1 }
          else State.putPort { s with devid := dev, devv := true } p { x with st := 2, assigned := true, peer := peer } :=
        if_neg (by simpa [and_assoc] using ⟨h1, h0, hf⟩)
      refine ⟨fun h => ?_, fun hv hd => ?_⟩
      · refine ⟨_, congrArg Host.Outcome.next (hass.trans (if_neg ?_)), rfl, port_putPort _ _ _⟩
        obtain h | h := h <;> simp [h]
      · exact hmk (congrArg Host.Outcome.next (hass.trans (if_pos (by simp [hv, hd]))))
    · exact fun hl hn => hmk (congrArg Host.Outcome.next ((portRetrain_self hl).trans (if_neg (by exact Nat.not_le.2 hn))))
    · intro hl hn ho
      refine hmk (congrArg Host.Outcome.next ((portRetrain_self hl).trans ((if_pos hn).trans ?_)))
      exact portDown_of_none (w := x.goesDown s.pt.time) ho
    · intro h3
      refine hmk (congrArg Host.Outcome.next ((if_neg (not_not.2 h3)).trans ?_))
      rfl
    · intro h3 ho
      exact hmk (congrArg Host.Outcome.next ((if_neg (not_not.2 h3)).trans (portDown_self ho)))
  · intro s v p q n f tail head tag off w rq bytes e id o x ring peer ack cfg m answered only hst
    refine ⟨fun hq hroom => ?_, fun hlen => ?_, fun hlong hk => ?_, fun ho => ?_, fun hlen ho => ?_, fun hlen ho hun hcr hx => ?_⟩
    · have hready := ready_of_room hroom
      have hbuf : (s.port q).buf.length ≤ 2029 := hroom.2.2.trans (by decide)
      have hself (i : Instr) (st : Byte) (b : List Byte) (hb : b.length ≤ 64) (he : exec i s = .next (s.cfgAck p f st b)) :
          cfg i st b x :=
        cfgAck_of he hq (fun _ => ⟨rfl, rfl, rfl⟩) (.refl s) rfl hready hb rfl rfl rfl
      have hring (i : Instr) (cq : Bool) (h : x.st = .idle ∨ x.st = .failed ∨ x.st = .absent)
          (he : exec i s = .next ((s.writeRing f cq w).cfgAck p f 0 [])) : cfg i 0 [] (x.ringSet cq m) := by
        obtain ⟨d, hd⟩ := fetch_eq (s.modFunc f (fun _ => x.ringSet cq m)) f
        have hp := fetch_ports (s.modFunc f (fun _ => x.ringSet cq m)) f
        rw [writeRing_eq h] at he
        refine cfgAck_of he hq (fun n => (hp n).1) (fetch_spec (s.modFunc f (fun _ => x.ringSet cq m)) f).2 ?_ ((hp q).2 2 hready hbuf) (by simp) ?_ ?_ ?_
        · rw [hd]; rfl
        · rw [func_fetch, State.func_modFunc_self]
        · rw [hd]; rfl
        · rw [hd]; rfl
      have hbusy (h : x.st = .running ∨ x.st = .quiescing ∨ x.st = .resetting) :
          (s.func f).st ≠ .idle ∧ (s.func f).st ≠ .failed ∧ (s.func f).st ≠ .absent := by
        change x.st ≠ _ ∧ x.st ≠ _ ∧ x.st ≠ _
        obtain h | h | h := h <;> rw [h] <;> decide
      have hidle (h : x.st = .idle ∨ x.st = .failed ∨ x.st = .absent) :
          ¬((s.func f).st ≠ .idle ∧ (s.func f).st ≠ .failed ∧ (s.func f).st ≠ .absent) := by
        rintro ⟨h1, h2, h3⟩
        obtain h | h | h := h
        · exact h1 h
        · exact h2 h
        · exact h3 h
      refine ⟨fun hx => ?_, fun h8 h10 => ?_, fun h => ⟨?_, ?_⟩, fun h => ⟨?_, fun h1 h2 => ?_⟩, ?_, ?_, ?_, ?_, ?_⟩
      · exact doorbell_acts tail head hst hx hq hready
      · refine hself _ 4 [] (by simp) ((cfgwr_eq hst off w).trans ?_)
        rw [if_pos ⟨h8, h10⟩]
      · refine hself _ 1 [] (by simp) ((cfgwr_eq hst 8 w).trans ?_)
        rw [if_neg (by simp), if_pos (hbusy h)]
      · refine hself _ 1 [] (by simp) ((cfgwr_eq hst 0x10 w).trans ?_)
        rw [if_neg (by simp), if_pos (hbusy h)]
      · have hr := hring (.cfgwr p f 8 w) false h ((cfgwr_eq hst 8 w).trans (by rw [if_neg (by simp), if_neg (hidle h)]; rfl))
        rw [ringSet_cmd] at hr
        exact hr
      · have hr := hring (.cfgwr p f 0x10 w) true h ((cfgwr_eq hst 0x10 w).trans (by rw [if_neg (by simp), if_neg (hidle h)]; rfl))
        rw [ringSet_done x h1 h2] at hr
        exact hr
      · refine hself _ 0 (byteList (s.fnStat f) 8) (by simp) ((cfgrd_fn hst (.inl rfl)).trans ?_)
        rw [bytesOf_eq_byteList]
        rfl
      · refine hself _ 0 (byteList (x.qtail ++ x.qhead ++ x.ctail ++ x.chead) 8) (by simp) ((cfgrd_fn hst (.inr rfl)).trans ?_)
        rw [bytesOf_eq_byteList]
        rfl
      · exact hself _ 4 [] (by simp) (cfgrd_bad hst rfl)
      · refine hself _ 0 (byteList ((0#31) ++ BitVec.ofBool s.devv ++ s.devid ++ s.reason ++ (0#7) ++ BitVec.ofBool s.unrec) 8)
          (by simp) ((cfgrd_part (o := 0) hst rfl rfl (by decide)).trans ?_)
        rw [bytesOf_eq_byteList, ← b2v_eq, ← b2v_eq]
        rfl
      · exact cfgrd_link hst hq hready n
    · have hin (i : Instr) (he : exec i s = .next (s.inbound p rq)) : answered i := by
        have he' : exec i s = .next (s.serveWindow (some p) rq) := by
          rw [he, State.inbound, if_neg (not_not.2 hst), if_neg (by omega)]
        intro hv hb
        obtain rfl : s.serveWindow none rq = v := Host.Outcome.next.inj hv
        obtain ⟨hw, hs⟩ | ⟨hw, hm, hh⟩ := serveWindow_port hb
        · refine ⟨fun _ hp hr => ⟨_, he', ?_⟩, fun h => absurd hw h⟩
          have hans : (s.serveWindow none rq).answerOn rq = State.sendOn (s.serveWindow none rq) q
              ⟨0x13, rq.func, rq.srcId, rq.tag, (s.serveWindow none rq).winAns, 0, 0, [], 0⟩ := by
            rw [State.answerOn, hp]
          rw [hs, hans]
          exact ⟨rfl, rfl, rfl, leaves_of_ready (ready_of_room hr) rfl (by rw [pktUnits, length_bytes_pkt, ceilDiv]; simp) (by simp)⟩
        · exact ⟨fun h => absurd h hw, fun _ => ⟨_, he', hm, hh⟩⟩
      obtain ⟨h1, h2, h3⟩ := inbound_exec (s := s) p (rq := rq)
      exact ⟨fun h => hin _ (h1 h), fun a h => hin _ (h2 a h), fun h => hin _ (h3 h)⟩
    · refine ⟨_, ((inbound_exec (s := s) p).1 hk).trans (congrArg Host.Outcome.next ?_), ?_, func_badPackets s⟩
      · rw [State.inbound, if_neg (not_not.2 hst), if_pos hlong]
      · rfl
    · exact ⟨_, congrArg Host.Outcome.next (rspAt_only hst ho rfl), rfl, by rw [port_putPort]⟩
    · refine ⟨_, congrArg Host.Outcome.next (rdcAt_only hst ho hlen rfl), ?_, fun a => ?_⟩
      · exact congrArg Port.out (port_putPort s p { s.port p with out := [] })
      · have he := eng_modEng_self (s.putPort p { s.port p with out := [] }) (.husk e)
          (fun g => { g with hostBytes := g.hostBytes.setBytes o bytes })
        exact (congrArg (fun g : Engine => g.hostBytes.byte a) he).trans (Memory.byte_setBytes _ _ _ _)
    · refine ⟨_, congrArg Host.Outcome.next (rdcAt_only hst ho (by omega) rfl), ?_⟩
      have hring := func_ringData (s := s.putPort p { s.port p with out := [] }) hun hcr hx hlen
      exact ⟨(congrArg Func.cmds hring :), (congrArg Func.chead hring :)⟩

end Sys2Proof.Machine
end

section
/-! O25, what arrives for a thread: a tile that settles once a stall ends, the reply of a load, and a vector result (R30, R31, R99,
R107, R263). -/
namespace Sys2Proof.Machine

open Sys2Proof.Safety

/-! ## A stall that ends -/

/-- No stop and no halt waits for the thread. -/
def Thread.Quiet (x : Thread) : Prop := x.stopReq = false ∧ x.haltReq = none

theorem Thread.Quiet.settle {x : Thread} (q : x.Quiet) : x.settle = x := Thread.settle_of_calm q.1 q.2

theorem Thread.Quiet.slotEnd {x : Thread} (q : x.Quiet) (dbg ss : Bool) : (x.slotEnd dbg ss).Quiet := by
  obtain ⟨hs, hh⟩ := q
  unfold Thread.slotEnd
  split_ifs
  · exact ⟨hs, hh⟩
  · exact ⟨hs, rfl⟩
  · exact ⟨hs, rfl⟩
  · exact ⟨hs, rfl⟩
  · exact ⟨hs, hh⟩

theorem Thread.wait_slotEnd (x : Thread) (dbg ss : Bool) : (x.slotEnd dbg ss).wait = x.wait := by
  unfold Thread.slotEnd
  split_ifs
  all_goals rfl

theorem onward_quiet {x : Thread} (q : x.Quiet) (len : Nat) : (onward x len).Quiet := by
  unfold onward
  split_ifs
  all_goals exact q

theorem onward_wait (x : Thread) (len : Nat) : (onward x len).wait = x.wait := by
  unfold onward
  split_ifs
  all_goals rfl

theorem Tile.settle_frame (tl : Tile) : tl.settle = { tl with thr := tl.settle.thr } := by
  unfold Tile.settle
  split_ifs
  · rfl
  · exact eachThread_frame (f := fun a h => a.modTh h Thread.settle) (fun _ _ => rfl) tl

theorem Tile.th_settle_of_quiet {tl : Tile} {h : Thr} (q : (tl.th h).Quiet) : tl.settle.th h = tl.th h := by
  by_cases hc : tl.causes = 0
  · rw [Tile.th_settle hc, q.settle]
  · rw [Tile.settle, if_pos hc]

theorem Tile.stallOff_frame (tl : Tile) (k : Nat) :
    tl.stallOff k = { tl with causes := setBit tl.causes k false, thr := (tl.stallOff k).thr } :=
  Tile.settle_frame _

theorem Tile.causes_stallOff (tl : Tile) (k : Nat) : (tl.stallOff k).causes = setBit tl.causes k false := by
  rw [Tile.stallOff_frame]

theorem Tile.th_stallOff {tl : Tile} {h : Thr} (q : (tl.th h).Quiet) (k : Nat) : (tl.stallOff k).th h = tl.th h :=
  Tile.th_settle_of_quiet (tl := { tl with causes := setBit tl.causes k false }) q

/-- A tile whose late load is over changes only its stall causes and its threads. -/
theorem Tile.endWait_frame (tl : Tile) (h : Thr) :
    tl.endWait h = { tl with causes := (tl.endWait h).causes, thr := (tl.endWait h).thr } := by
  unfold Tile.endWait
  split_ifs
  · rfl
  · rw [Tile.stallOff_frame]
  · rw [Tile.settle_frame]

theorem Tile.th_endWait {tl : Tile} {h : Thr} (q : (tl.th h).Quiet) : (tl.endWait h).th h = tl.th h := by
  unfold Tile.endWait
  split_ifs
  · rfl
  · exact Tile.th_stallOff q 0
  · exact Tile.th_settle_of_quiet q

theorem Tile.causes_endWait {tl : Tile} {h : Thr} (hw : (tl.th h).wait = none) :
    (tl.endWait h).causes = if tl.causes.getLsbD 0 ∧ tl.slotOwner = h then setBit tl.causes 0 false else tl.causes := by
  rw [Tile.endWait, hw, if_neg (by simp)]
  by_cases hb : tl.causes.getLsbD 0 ∧ tl.slotOwner = h
  · rw [if_pos hb, if_pos (by simpa [bit] using hb), Tile.causes_stallOff]
  · rw [if_neg hb, if_neg (by simpa [bit] using hb), Tile.settle_frame]

theorem setBit_zero_false (c : BitVec 8) : setBit c 0 false = c &&& 0xFE := rfl

theorem setBit_one_false (c : BitVec 8) : setBit c 1 false = c &&& 0xFD := rfl

/-! ## The handler of an event or of a refusal -/

theorem State.th_enter {s : State} {t : TileId} {h : Thr} {toM : Bool} {c : BitVec 5} (g : VectorsGood (s.tile t) c)
    (ret : PWord) (d : BitVec 4) (va : VAddr) :
    (s.enter t h toM c ret (s.th t h).pc d va true).th t h =
      (entered (s.tile t) h toM c ret d va).slotEnd s.debug (s.th t h).st.ss := by
  have hb : (s.tile t).vectorBad toM c = false := g toM
  rw [State.enter, State.enterThen, if_neg (by rw [hb]; decide), State.th, State.tile_modTile_self, Tile.th_modTh, if_pos rfl,
    show (s.th t h).pc = ((s.tile t).th h).pc from rfl, Tile.enter_th]

theorem Thread.Quiet.entered {tl : Tile} {h : Thr} (q : (tl.th h).Quiet) (toM : Bool) (c : BitVec 5) (ret : PWord) (d : BitVec 4)
    (va : VAddr) : (entered tl h toM c ret d va).Quiet := by
  cases toM
  all_goals exact q

/-! ## The reply of a load (R30, R99, R103) -/

theorem any_filter_ne (l : List Req) (id k : Nat) :
    (l.filter fun q => q.id ≠ id).any (fun q => q.id == k) = (l.any (fun q => q.id == k) && !(k == id)) := by
  rw [Bool.eq_iff_iff]
  simp only [List.any_filter, List.any_eq_true, Bool.and_eq_true, decide_eq_true_eq, beq_iff_eq, Bool.not_eq_true', beq_eq_false_iff_ne,
    ne_eq]
  constructor
  · rintro ⟨q, hq, hne, rfl⟩
    exact ⟨⟨q, hq, rfl⟩, hne⟩
  · rintro ⟨⟨q, hq, rfl⟩, hne⟩
    exact ⟨q, hq, hne, rfl⟩

section Load

variable {s : State} {t : TileId} {h : Thr} {d : LoadDest} {va : VAddr} {g : Target} {n id : Nat} {rq : Req}

/-- A load whose reply has come reads it. -/
theorem dataArrives_of_reply (hw : (s.th t h).wait = some ⟨d, va, g, n, .req id⟩) (hrq : s.reqOf id = some rq)
    (hans : rq.ans.isSome = true) (hnext : s.replyNext t id = true) : s.dataArrives t h = (s.replyIn id).dataTaken t h := by
  rw [State.dataArrives, hw]
  refine if_pos ?_
  rw [hrq, hnext]
  simpa using hans

/-- The thread goes on with the bytes of its load, and the tile leaves stall cause 0. -/
theorem delivered {b : List Byte} {y : Thread} (ready : s.tileReady t = true) (quiet : (s.th t h).Quiet)
    (hw : (s.th t h).wait = some ⟨d, va, g, n, .req id⟩) (hrq : s.reqOf id = some rq) (hans : rq.ans = some (some b))
    (hnext : s.replyNext t id = true) (f : Thread → Thread)
    (hd : ∀ a : State, a.deliver t h d b = a.land t h f) (hy : f (s.th t h) = onward { y with wait := none } 2) (hq : y.Quiet) :
    ∃ u, exec (.loadDataArrival t h) s = .next u ∧
      u.th t h = (onward { y with wait := none } 2).slotEnd s.debug (s.th t h).st.ss ∧
      (u.tile t).causes = (if (s.tile t).causes.getLsbD 0 ∧ (s.tile t).slotOwner = h then (s.tile t).causes &&& 0xFE
        else (s.tile t).causes) ∧
      (∀ k, u.reqs.any (fun q => q.id == k) = (s.reqs.any (fun q => q.id == k) && !(k == id))) ∧
      u.hbm = s.hbm ∧ (u.tile t).lmem = (s.tile t).lmem := by
  have htile : ((s.replyIn id).deliver t h d b).tile t =
      (s.tile t).modTh h fun x => (f x).slotEnd s.debug (s.th t h).st.ss := by
    rw [hd]
    exact State.tile_modTile_self _ _ _
  have hth : (((s.replyIn id).deliver t h d b).th t h) = (onward { y with wait := none } 2).slotEnd s.debug (s.th t h).st.ss := by
    rw [← hy, State.th, htile, Tile.th_modTh, if_pos rfl]
    rfl
  have hnone : (((s.replyIn id).deliver t h d b).th t h).wait = none := by
    rw [hth, Thread.wait_slotEnd, onward_wait]
  have e : exec (.loadDataArrival t h) s =
      .next ((((s.replyIn id).deliver t h d b).dropReq id).modTile t fun tl => tl.endWait h) := by
    refine congrArg Host.Outcome.next ((if_pos ready).trans ?_)
    rw [dataArrives_of_reply hw hrq (by rw [hans]; rfl) hnext, State.dataTaken, show ((s.replyIn id).th t h).wait = _ from hw]
    dsimp only
    rw [show (s.replyIn id).reqOf id = some rq from hrq]
    dsimp only
    rw [hans]
    refine if_neg ?_
    rw [hnone]
    decide
  have hquiet : (((s.replyIn id).deliver t h d b).th t h).Quiet := by
    rw [hth]
    exact (onward_quiet (x := { y with wait := none }) hq 2).slotEnd _ _
  refine ⟨_, e, ?_, ?_, fun k => ?_, ?_, ?_⟩
  · rw [State.th, State.tile_modTile_self]
    exact (Tile.th_endWait hquiet).trans hth
  · rw [State.tile_modTile_self]
    refine (Tile.causes_endWait (tl := ((s.replyIn id).deliver t h d b).tile t) hnone).trans ?_
    rw [htile, Tile.modTh_causes, Tile.modTh_slotOwner, setBit_zero_false]
  · rw [hd]
    exact any_filter_ne s.reqs id k
  · rw [hd]
    rfl
  · rw [State.tile_modTile_self, Tile.endWait_frame]
    exact (congrArg Tile.lmem htile :)

/-- A refused load takes an Access Violation. -/
theorem load_refused (ready : s.tileReady t = true) (quiet : (s.th t h).Quiet)
    (hw : (s.th t h).wait = some ⟨d, va, g, n, .req id⟩) (hrq : s.reqOf id = some rq) (hans : rq.ans = some none)
    (hnext : s.replyNext t id = true) (good : VectorsGood (s.tile t) 8) : ∃ u, exec (.loadDataArrival t h) s = .next u ∧
      u.th t h = (entered (s.tile t) h (decide ((s.th t h).st.pl ≠ 1)) 8 (s.th t h).pc 0 va).slotEnd s.debug (s.th t h).st.ss := by
  have hth := State.th_enter (s := (s.replyIn id).dropReq id) (t := t) (h := h) (toM := decide ((s.th t h).st.pl ≠ 1)) (c := 8) good
    (s.th t h).pc 0 va
  have e : exec (.loadDataArrival t h) s =
      .next ((((s.replyIn id).dropReq id).enter t h (decide ((s.th t h).st.pl ≠ 1)) cAccess (s.th t h).pc (s.th t h).pc 0 va true).modTile t
        fun tl => tl.endWait h) := by
    refine congrArg Host.Outcome.next ((if_pos ready).trans ?_)
    rw [dataArrives_of_reply hw hrq (by rw [hans]; rfl) hnext, State.dataTaken, show ((s.replyIn id).th t h).wait = _ from hw]
    dsimp only
    rw [show (s.replyIn id).reqOf id = some rq from hrq]
    dsimp only
    rw [hans]
    rfl
  refine ⟨_, e, ?_⟩
  rw [State.th, State.tile_modTile_self]
  refine (Tile.th_endWait ?_).trans hth
  refine Eq.mpr (congrArg Thread.Quiet hth) ?_
  exact (Thread.Quiet.entered (tl := s.tile t) quiet _ _ _ _ _).slotEnd _ _

end Load

/-! ## A vector result (R107) -/

theorem landV_append {vd : Reg} {v : VWord} {pre post : List (Reg × VWord)} (hpre : ∀ p ∈ pre, p.1 ≠ vd) :
    landV vd (pre ++ (vd, v) :: post) = some (v, pre ++ post) := by
  induction pre with
  | nil => exact if_pos rfl
  | cons p pre ih =>
    refine (if_neg (hpre p List.mem_cons_self)).trans ?_
    exact congrArg (Option.map fun q => (q.1, p :: q.2)) (ih fun q hq => hpre q (List.mem_cons_of_mem _ hq))

theorem vectorResult_lands {s : State} {t : TileId} {h : Thr} {vd : Reg} {v : VWord} {pre post : List (Reg × VWord)}
    (quiet : (s.th t h).Quiet) (hv : (s.th t h).vpend = pre ++ (vd, v) :: post) (hpre : ∀ p ∈ pre, p.1 ≠ vd) :
    ∃ u, exec (.vectorResult t h vd) s = .next u ∧ OnlyTile s u t ∧
      u.th t h = Thread.setV { s.th t h with vpend := pre ++ post } vd v := by
  have e : exec (.vectorResult t h vd) s = .next ((s.modTh t h fun x => Thread.setV { x with vpend := pre ++ post } vd v).modTile t
      fun tl => if bit tl.causes 6 && tl.c6 = (h, vd) && !((tl.th h).vBusy vd) then tl.stallOff 6 else tl) := by
    refine congrArg Host.Outcome.next ?_
    rw [hv, landV_append hpre]
  refine ⟨_, e, OnlyTile.trans (State.onlyTile_modTile _ _ _) (State.onlyTile_modTile _ _ _), ?_⟩
  have hth : ((s.modTh t h fun x => Thread.setV { x with vpend := pre ++ post } vd v).tile t).th h =
      Thread.setV { s.th t h with vpend := pre ++ post } vd v := by
    rw [State.modTh, State.tile_modTile_self, Tile.th_modTh, if_pos rfl]
    rfl
  rw [State.th, State.tile_modTile_self]
  split_ifs
  · refine (Tile.th_stallOff ?_ 6).trans hth
    rw [hth]
    exact quiet
  · exact hth

end Sys2Proof.Machine
end

section
/-! O25, what returns to a tile: acknowledgements and refusals of stores, sector fills and walks (R102, R191, R317, R318, R338,
R339, R365). From them the obligation O25. -/
namespace Sys2Proof.Machine

open Sys2Proof.Safety

/-! ## Stores (R102, R338, R339, R365) -/

/-- A list of held-back stores without one of them. -/
def without (id : Nat) (l : List Nat) : List Nat := l.filter fun i => i ≠ id

/-- The tile with entry `id` gone from its store buffer, before its threads are released. -/
def Tile.unbuffered (tl : Tile) (id : Nat) : Tile :=
  { tl with sbuf := (tl.sbuf.filter fun b => b.id ≠ id).map fun b => { b with hold := without id b.hold }
            eng := { tl.eng with hold := SMap.mapVals [] tl.eng.hold (without id) } }

def Tile.unheld (tl : Tile) (id : Nat) : Tile :=
  (tl.unbuffered id).eachThread fun a h => a.modTh h fun x => { x with hold := without id x.hold }

theorem State.tile_unhold (s : State) (t : TileId) (id : Nat) : (s.unhold t id).tile t = (s.tile t).unheld id :=
  State.tile_modTile_self s t fun tl => tl.unheld id

theorem Tile.unheld_frame (tl : Tile) (id : Nat) : tl.unheld id = { tl.unbuffered id with thr := (tl.unheld id).thr } :=
  eachThread_frame (fun _ _ => rfl) _

theorem Tile.th_unheld (tl : Tile) (id : Nat) (k : Thr) :
    (tl.unheld id).th k = { tl.th k with hold := without id (tl.th k).hold } :=
  th_eachThread (g := fun _ x => { x with hold := without id x.hold }) (fun _ => True) trivial (fun _ _ _ => trivial)
    (fun a h k _ => by rw [Tile.th_modTh]) k

/-- What no settling of a thread changes. -/
theorem Thread.settle_keeps (x : Thread) : x.settle.hold = x.hold ∧ x.settle.se = x.se ∧ x.settle.seovf = x.seovf := by
  unfold Thread.settle
  split
  · exact ⟨rfl, rfl, rfl⟩
  split
  · exact ⟨rfl, rfl, rfl⟩
  split
  · split_ifs
    all_goals exact ⟨rfl, rfl, rfl⟩
  · exact ⟨rfl, rfl, rfl⟩

theorem Tile.th_settle_keeps (tl : Tile) (k : Thr) : (tl.settle.th k).hold = (tl.th k).hold ∧
    (tl.settle.th k).se = (tl.th k).se ∧ (tl.settle.th k).seovf = (tl.th k).seovf := by
  by_cases hc : tl.causes = 0
  · rw [Tile.th_settle hc]
    exact Thread.settle_keeps _
  · rw [Tile.settle, if_pos hc]
    exact ⟨rfl, rfl, rfl⟩

theorem Tile.drained_spec (tl : Tile) : tl.drained.sbuf = tl.sbuf ∧ tl.drained.causes.getLsbD 2 = false ∧
    ∀ k, (tl.drained.th k).hold = (tl.th k).hold ∧ (tl.drained.th k).se = (tl.th k).se ∧
      (tl.drained.th k).seovf = (tl.th k).seovf := by
  unfold Tile.drained
  split_ifs with hb
  · refine ⟨?_, ?_, fun k => Tile.th_settle_keeps { tl with causes := setBit tl.causes 2 false } k⟩
    · rw [Tile.stallOff_frame]
    · rw [Tile.causes_stallOff, getLsbD_setBit _ (by decide), if_pos rfl]
  · exact ⟨rfl, Bool.eq_false_iff.2 hb, fun _ => ⟨rfl, rfl, rfl⟩⟩

/-- The entry of an answered store is gone, and so is each release's wait for it. -/
theorem unheld_emptied {s v u : State} {t : TileId} {id : Nat} (hu : u.tile t = ((v.tile t).unheld id).drained)
    (hs : (v.tile t).sbuf = (s.tile t).sbuf) (hh : ∀ k, (v.th t k).hold = (s.th t k).hold) :
    (∀ p, p ∈ (u.tile t).sbuf ↔ ∃ q ∈ (s.tile t).sbuf, q.id ≠ id ∧ p = { q with hold := q.hold.filter fun k => k ≠ id }) ∧
    (u.tile t).causes.getLsbD 2 = false ∧ (∀ k, (u.th t k).hold = (s.th t k).hold.filter fun i => i ≠ id) ∧
    ∀ k, (u.th t k).se = (v.th t k).se ∧ (u.th t k).seovf = (v.th t k).seovf := by
  obtain ⟨hsbuf, hcause, hth⟩ := ((v.tile t).unheld id).drained_spec
  refine ⟨fun p => ?_, by rw [hu]; exact hcause, fun k => ?_, fun k => ?_⟩
  · rw [hu, hsbuf, Tile.unheld_frame]
    refine List.mem_map.trans ⟨?_, ?_⟩
    · rintro ⟨q, hq, rfl⟩
      obtain ⟨hmem, hne⟩ := List.mem_filter.1 hq
      exact ⟨q, hs ▸ hmem, of_decide_eq_true hne, rfl⟩
    · rintro ⟨q, hq, hne, rfl⟩
      exact ⟨q, List.mem_filter.2 ⟨hs ▸ hq, decide_eq_true hne⟩, rfl⟩
  · rw [State.th, hu, (hth k).1, Tile.th_unheld, ← hh k]
    rfl
  · rw [State.th, hu, (hth k).2.1, (hth k).2.2, Tile.th_unheld]
    exact ⟨rfl, rfl⟩

section Stores

variable {s : State} {t : TileId} {i : BitVec 3} {e : SBuf}

theorem storeAck_empties (he : (s.tile t).sbuf[i.toNat]? = some e) (hnext : s.replyNext t e.id = true) (hdone : e.done = true)
    (href : e.refused = none) : ∃ u, exec (.storeAck t i) s = .next u ∧
      (∀ p, p ∈ (u.tile t).sbuf ↔ ∃ q ∈ (s.tile t).sbuf, q.id ≠ e.id ∧ p = { q with hold := q.hold.filter fun k => k ≠ e.id }) ∧
      (u.tile t).causes.getLsbD 2 = false ∧ (∀ k, (u.th t k).hold = (s.th t k).hold.filter fun j => j ≠ e.id) ∧ u.hbm = s.hbm := by
  have ex : exec (.storeAck t i) s =
      .next ((((s.replyIn e.id).unhold t e.id).dropReq e.id).modTile t Tile.drained) := by
    refine congrArg Host.Outcome.next ?_
    rw [he]
    refine if_pos ?_
    rw [hdone, href, hnext]
    rfl
  refine ⟨_, ex, ?_⟩
  obtain ⟨hsbuf, hcause, hhold, -⟩ := unheld_emptied (s := s) (v := s.replyIn e.id) (id := e.id)
    ((State.tile_modTile_self _ _ _).trans (congrArg Tile.drained (State.tile_unhold (s.replyIn e.id) t e.id))) rfl fun _ => rfl
  exact ⟨hsbuf, hcause, hhold, rfl⟩

theorem storeError_spec (x : Thread) (r : SeRec) :
    (x.storeError r).hold = x.hold ∧ (x.storeError r).se = (if x.se.length < 8 then x.se ++ [r] else x.se) ∧
      (x.storeError r).seovf = (x.seovf || decide (8 ≤ x.se.length)) := by
  unfold Thread.storeError
  split_ifs with h8
  · exact ⟨rfl, rfl, by rw [decide_eq_false (by omega), Bool.or_false]⟩
  · exact ⟨rfl, rfl, by rw [decide_eq_true (by omega), Bool.or_true]⟩

theorem storeRefusal_empties {d : BitVec 4} (he : (s.tile t).sbuf[i.toNat]? = some e) (hnext : s.replyNext t e.id = true)
    (href : e.refused = some d) : ∃ u, exec (.storeRefusal t i) s = .next u ∧
      ((∀ p, p ∈ (u.tile t).sbuf ↔ ∃ q ∈ (s.tile t).sbuf, q.id ≠ e.id ∧ p = { q with hold := q.hold.filter fun k => k ≠ e.id }) ∧
        (u.tile t).causes.getLsbD 2 = false ∧ (∀ k, (u.th t k).hold = (s.th t k).hold.filter fun j => j ≠ e.id) ∧
        u.hbm = s.hbm) ∧
      (u.th t e.thr).se = (if (s.th t e.thr).se.length < 8 then (s.th t e.thr).se ++ [⟨e.pc, e.va, d⟩] else (s.th t e.thr).se) ∧
      (u.th t e.thr).seovf = ((s.th t e.thr).seovf || decide (8 ≤ (s.th t e.thr).se.length)) := by
  have ex : exec (.storeRefusal t i) s = .next (((((s.replyIn e.id).modTh t e.thr fun x =>
      x.storeError { pc := e.pc, va := e.va, detail := d }).unhold t e.id).dropReq e.id).modTile t Tile.drained) := by
    refine congrArg Host.Outcome.next ?_
    rw [he]
    dsimp only
    rw [href]
    refine if_neg ?_
    rw [hnext]
    decide
  generalize hv : (s.replyIn e.id).modTh t e.thr (fun x => x.storeError { pc := e.pc, va := e.va, detail := d }) = v at ex
  have htile : v.tile t = (s.tile t).modTh e.thr fun x => x.storeError { pc := e.pc, va := e.va, detail := d } := by
    rw [← hv]
    exact State.tile_modTile_self _ _ _
  have hth (k : Thr) : v.th t k =
      if k = e.thr then (s.th t e.thr).storeError { pc := e.pc, va := e.va, detail := d } else s.th t k := by
    rw [State.th, htile, Tile.th_modTh]
    rfl
  have hhold (k : Thr) : (v.th t k).hold = (s.th t k).hold := by
    rw [hth]
    split_ifs with hk
    · rw [hk, (storeError_spec _ _).1]
    · rfl
  obtain ⟨hsbuf, hcause, hholds, hse⟩ := unheld_emptied (s := s) (v := v) (id := e.id)
    ((State.tile_modTile_self _ _ _).trans (congrArg Tile.drained (State.tile_unhold v t e.id))) (by rw [htile]; rfl) hhold
  refine ⟨_, ex, ⟨hsbuf, hcause, hholds, ?_⟩, (hse _).1.trans ?_, (hse _).2.trans ?_⟩
  · rw [← hv]
    rfl
  · rw [hth, if_pos rfl, (storeError_spec _ _).2.1]
  · rw [hth, if_pos rfl, (storeError_spec _ _).2.2]

end Stores

/-! ## Sector fills (R191) -/

theorem Tile.fixWords_frame (src : Nat) (ws : List (Nat × Bool)) : ∀ tl : Tile, tl.fixWords src ws =
    { tl with lerr := (tl.fixWords src ws).lerr, lmcec := (tl.fixWords src ws).lmcec, lmce := (tl.fixWords src ws).lmce,
              lmerr := (tl.fixWords src ws).lmerr } := by
  unfold Tile.fixWords
  induction ws with
  | nil => exact fun _ => rfl
  | cons p ws ih =>
    intro tl
    rw [List.foldl_cons, ih]
    generalize List.foldl (fun (a : Tile) p => if p.2 = true then a else a.corrected src p.1) _ ws = r
    split_ifs
    · rfl
    · rw [Tile.corrected, Tile.errRecord]
      split_ifs
      all_goals rfl

theorem Tile.lmWrite_frame (tl : Tile) (src off : Nat) (bs : List (Option Byte)) : tl.lmWrite src off bs =
    { tl with lerr := (tl.lmWrite src off bs).lerr, lmcec := (tl.lmWrite src off bs).lmcec, lmce := (tl.lmWrite src off bs).lmce,
              lmerr := (tl.lmWrite src off bs).lmerr, lmem := (tl.lmWrite src off bs).lmem } := by
  unfold Tile.lmWrite
  dsimp only
  rw [Tile.fixWords_frame]

theorem sectorFill_fills {s : State} {t : TileId} {f : Fill} {rq : Req} {b : List Byte}
    (hf : ((s.tile t).fills.filter (fun k => k.id = f.id)).head? = some f) (hrq : s.reqOf f.id = some rq)
    (hnext : s.replyNext t f.id = true) (hans : rq.ans = some (some b)) (hdead : f.dead = false)
    (htag : ((s.tile t).line f.line).tag.toNat = f.va.toNat / 256)
    (hwait : ∀ k w, (s.th t k).wait = some w → w.on ≠ .fill f.id) :
    ∃ u, exec (.sectorFill t f.id) s = .next u ∧ OnlyTile { s with reqs := u.reqs, replies := u.replies } u t ∧
      Wrote (s.tile t) (u.tile t) ((s.tile t).limit + f.line * 256 + f.sector.toNat * 64) b ∧
      ((u.tile t).line f.line).tag = ((s.tile t).line f.line).tag ∧
      ((u.tile t).line f.line).valid.getLsbD f.sector.toNat = true ∧
      (u.tile t).fills = (s.tile t).fills.filter (fun k => k.id ≠ f.id) := by
  have hthr : ((s.tile t).fillLine f b).thr = (s.tile t).thr := by
    unfold Tile.fillLine
    dsimp only
    split_ifs
    · rfl
    · exact Tile.thr_lmWrite _ _ _ _
  have hid (l : List Thr) : ∀ a : State, (∀ k, a.th t k = s.th t k) → l.foldl (fun a h => a.handOver t f b h) a = a := by
    intro a ha
    induction l with
    | nil => rfl
    | cons k l ih =>
      have hk : a.handOver t f b k = a := by
        rw [State.handOver, ha k]
        cases hw : (s.th t k).wait with
        | none => rfl
        | some w => exact if_neg (hwait k w hw)
      rw [List.foldl_cons, hk, ih]
  have e : exec (.sectorFill t f.id) s =
      .next (((s.replyIn f.id).dropReq f.id).modTile t fun tl => (tl.fillLine f b).pm 9 1) := by
    refine congrArg Host.Outcome.next ?_
    rw [hf, hrq]
    dsimp only
    rw [hans]
    refine (if_neg (by rw [hnext]; decide)).trans (hid _ _ fun k => ?_)
    rw [State.th, State.tile_modTile_self, Tile.th, Tile.pm_thr]
    exact congrArg (fun m => SMap.get _ m k.toNat) hthr
  have hfill : (s.tile t).fillLine f b =
      let t2 := ({ s.tile t with fills := (s.tile t).fills.filter fun k => k.id ≠ f.id } : Tile).lmWrite 2
        ((s.tile t).limit + f.line * 256 + f.sector.toNat * 64) (b.map some)
      { t2 with lines := SMap.modify {} t2.lines f.line fun l => { l with valid := setBit l.valid f.sector.toNat true } } := by
    refine if_neg ?_
    rw [hdead, Bool.false_or, decide_eq_true_eq]
    exact not_not.2 htag
  have htile : (((s.replyIn f.id).dropReq f.id).modTile t fun tl => (tl.fillLine f b).pm 9 1).tile t = ((s.tile t).fillLine f b).pm 9 1 :=
    State.tile_modTile_self _ _ _
  have hline : (((s.tile t).fillLine f b).line f.line) =
      { (s.tile t).line f.line with valid := setBit ((s.tile t).line f.line).valid f.sector.toNat true } := by
    rw [hfill, Tile.line, SMap.get_modify_self, Tile.lmWrite_frame]
    rfl
  have hlines : (((s.tile t).fillLine f b).pm 9 1).line f.line = ((s.tile t).fillLine f b).line f.line :=
    congrArg (fun m => SMap.get _ m f.line) (congrArg Tile.lines (still_pm ((s.tile t).fillLine f b) 9 1) :)
  refine ⟨_, e, State.onlyTile_modTile _ _ _, ?_, ?_, ?_, ?_⟩
  · rw [htile]
    intro k
    rw [show (((s.tile t).fillLine f b).pm 9 1).lmem = ((s.tile t).fillLine f b).lmem from
      (congrArg Tile.lmem (still_pm ((s.tile t).fillLine f b) 9 1) :), hfill]
    exact Tile.wrote_lmWrite _ _ _ _ k
  · rw [htile, hlines, hline]
  · rw [htile, hlines, hline, getLsbD_setBit _ f.sector.isLt, if_pos rfl]
  · rw [htile, show (((s.tile t).fillLine f b).pm 9 1).fills = ((s.tile t).fillLine f b).fills from
      (congrArg Tile.fills (still_pm ((s.tile t).fillLine f b) 9 1) :), hfill, Tile.lmWrite_frame]

/-! ## Walks (R317, R318) -/

/-- `u` is `s` but for its slices and the errors of its bursts. -/
def SliceOnly (s u : State) : Prop := u = { s with hbmBad := u.hbmBad, slices := u.slices }

theorem SliceOnly.trans {s u v : State} (h : SliceOnly s u) (k : SliceOnly u v) : SliceOnly s v := by
  rw [SliceOnly] at h k
  rw [SliceOnly, k, h]

theorem sliceOnly_foldl {α : Type} {F : State → α → State} (h : ∀ a x, SliceOnly a (F a x)) (l : List α) :
    ∀ s : State, SliceOnly s (l.foldl F s) := by
  induction l with
  | nil => exact fun _ => rfl
  | cons x l ih => exact fun s => (h s x).trans (ih _)

theorem sliceOnly_hold (s : State) (pa : Nat) : SliceOnly s (s.hold pa) := by
  unfold State.hold
  dsimp only
  split
  all_goals rfl

theorem sliceOnly_touchHeld (n : Nat) : ∀ (s : State) (pa : Nat), SliceOnly s (s.touchHeld pa n) := by
  induction n with
  | zero => exact fun _ _ => rfl
  | succ n ih =>
    intro s pa
    refine SliceOnly.trans ?_ (ih _ _)
    split_ifs
    · exact sliceOnly_hold s pa
    · rfl

theorem sliceOnly_withEccs (s : State) (reads : List (Nat × Nat)) (l : SliceEcc) : SliceOnly s (s.withEccs reads l) := by
  refine sliceOnly_foldl (fun a q => ?_) l s
  dsimp only
  split_ifs
  · unfold State.withEcc
    split_ifs
    · rfl
    · split
      all_goals rfl
  · rfl

/-- A translation changes no tile but the cache of its own, and one that ends in a fault not even that. -/
theorem lookup_spec (s : State) (t : TileId) (f : FuncNo) (va : Nat) :
    (∃ k, (s.lookup t f va).2.tile t = { s.tile t with tlb := k }) ∧ (s.lookup t f va).2.ld = s.ld ∧
      ∀ c, (s.lookup t f va).1 = .fault c → SliceOnly s (s.lookup t f va).2 := by
  have hread (l : List (Nat × Nat)) : SliceOnly s (s.touchReads l) := sliceOnly_foldl (fun _ _ => sliceOnly_touchHeld _ _ _) l s
  have htile (l : List (Nat × Nat)) : (s.touchReads l).tile t = s.tile t := tile_touchReads l s t
  rw [State.lookup]
  split
  · exact ⟨⟨_, State.tile_modTile_self _ _ _⟩, rfl, fun _ h => absurd h (by simp)⟩
  · dsimp only
    split
    · exact ⟨⟨_, State.tile_modTile_self _ _ _⟩, rfl, fun _ h => absurd h (by simp)⟩
    · generalize s.walkReads (s.cob (tileCob t)).walker f va = l
      have hl := hread l
      have ht := htile l
      generalize s.touchReads l = v at hl ht ⊢
      have hld : v.ld = s.ld := by rw [SliceOnly] at hl; rw [hl]
      split
      · exact ⟨⟨(s.tile t).tlb, ht⟩, hld, fun _ _ => hl⟩
      · exact ⟨⟨(s.tile t).tlb, ht⟩, hld, fun _ h => absurd h (by simp)⟩
      · exact ⟨⟨_, rfl⟩, rfl, fun _ h => absurd h (by simp)⟩
      · next l _ _ =>
        exact ⟨⟨_, (State.tile_modTile_self _ _ _).trans
          (congrArg (fun tl : Tile => { tl with tlb := tlbInstall tl.tlb 64 l }) ht)⟩, hld, fun _ h => absurd h (by simp)⟩

/-- The walk of thread `h` is over, and with it the stall that it held. -/
def Tile.walked (tl : Tile) (h : Thr) (own : Bool) : Tile :=
  let u := tl.modTh h fun x => { x with walk := none }
  if own then u.stallOff 1 else u

theorem Tile.walked_frame (tl : Tile) (h : Thr) (own : Bool) : tl.walked h own =
    { tl with causes := if own then tl.causes &&& 0xFD else tl.causes, thr := (tl.walked h own).thr } := by
  unfold Tile.walked
  dsimp only
  split_ifs with ho
  · rw [Tile.stallOff_frame, setBit_one_false]
    rfl
  · rfl

theorem Tile.th_walked {tl : Tile} {h : Thr} (q : (tl.th h).Quiet) (own : Bool) :
    (tl.walked h own).th h = { tl.th h with walk := none } := by
  have hth : (tl.modTh h fun x => { x with walk := none }).th h = { tl.th h with walk := none } :=
    (Tile.th_modTh _ _ _ _).trans (if_pos rfl)
  unfold Tile.walked
  dsimp only
  split_ifs
  · refine (Tile.th_stallOff ?_ 1).trans hth
    rw [hth]
    exact q
  · exact hth

/-- The state with the walk of thread `h` over. -/
def State.walkOver (s : State) (t : TileId) (h : Thr) (own : Bool) : State :=
  (s.modTh t h (fun x => { x with walk := none })).modTile t (fun tl => if own then tl.stallOff 1 else tl)

theorem State.tile_walkOver (s : State) (t : TileId) (h : Thr) (own : Bool) : (s.walkOver t h own).tile t = (s.tile t).walked h own := by
  rw [State.walkOver, State.tile_modTile_self, State.modTh, State.tile_modTile_self]
  rfl

/-- The events that are due to a thread rest on the thread and on the cycles that its tile has counted. -/
theorem asyncDue_congr {s u : State} {t : TileId} {h : Thr} {k : Option VAddr} (hth : u.th t h = { s.th t h with walk := k })
    (hcyc : u.cyc t = s.cyc t) : u.asyncDue t h = s.asyncDue t h := by
  rw [State.asyncDue, State.asyncDue, hth, hcyc]
  rfl

section Walk

variable {s : State} {t : TileId} {h : Thr} {va : VAddr} {fn : FuncNo} {ecc : SliceEcc}

theorem walk_leaf {l : Leaf} (hwalk : (s.th t h).walk = some va) (hfn : (s.tile t).func = some fn) (quiet : (s.th t h).Quiet)
    (hl : ((s.withEccs (s.entryReads (.tile t) fn va.toNat) ecc).lookup t fn va.toNat).1 = .leaf l) :
    ∃ u, exec (.translationWalk t h ecc) s = .next u ∧ u.th t h = { s.th t h with walk := none } ∧
      (u.tile t).tlb = (((s.withEccs (s.entryReads (.tile t) fn va.toNat) ecc).lookup t fn va.toNat).2.tile t).tlb ∧
      (u.tile t).causes = if (s.tile t).causes.getLsbD 1 && decide ((s.tile t).slotOwner = h) then (s.tile t).causes &&& 0xFD
        else (s.tile t).causes := by
  have hmet := sliceOnly_withEccs s (s.entryReads (.tile t) fn va.toNat) ecc
  have e : exec (.translationWalk t h ecc) s =
      .next (((s.withEccs (s.entryReads (.tile t) fn va.toNat) ecc).lookup t fn va.toNat).2.walkOver t h
        ((s.tile t).causes.getLsbD 1 && decide ((s.tile t).slotOwner = h))) := by
    refine congrArg Host.Outcome.next ?_
    rw [hwalk]
    dsimp only
    rw [hfn, Option.getD_some, hl]
    rfl
  generalize s.withEccs (s.entryReads (.tile t) fn va.toNat) ecc = m at hmet hl e ⊢
  obtain ⟨⟨k, hk⟩, -, -⟩ := lookup_spec m t fn va.toNat
  have hm : m.tile t = s.tile t := by rw [SliceOnly] at hmet; rw [hmet]; rfl
  rw [hm] at hk
  generalize (m.lookup t fn va.toNat).2 = v at e hk ⊢
  refine ⟨_, e, ?_, ?_, ?_⟩
  · rw [State.th, State.tile_walkOver, hk]
    exact Tile.th_walked (tl := { s.tile t with tlb := k }) quiet _
  · rw [State.tile_walkOver, Tile.walked_frame]
  · rw [State.tile_walkOver, hk, Tile.walked_frame]

/-- A walk that ends in a fault: the fault is taken, unless an event is due to the thread. -/
theorem walk_fault {c : BitVec 4} (hwalk : (s.th t h).walk = some va) (hfn : (s.tile t).func = some fn) (quiet : (s.th t h).Quiet)
    (hl : ((s.withEccs (s.entryReads (.tile t) fn va.toNat) ecc).lookup t fn va.toNat).1 = .fault c)
    (hcauses : (s.tile t).causes &&& 0xFD = 0) (good : VectorsGood (s.tile t) 7) :
    ((s.th t h).run = .running → s.asyncDue t h = none → ∃ u, exec (.translationWalk t h ecc) s = .next u ∧
      u.th t h = (entered (s.tile t) h (decide ((s.th t h).st.pl ≠ 1)) 7 (s.th t h).pc c va).slotEnd s.debug (s.th t h).st.ss) ∧
    ((s.asyncDue t h).isSome = true → ∃ u, exec (.translationWalk t h ecc) s = .next u ∧
      u.th t h = { s.th t h with walk := none }) := by
  have hmet := sliceOnly_withEccs s (s.entryReads (.tile t) fn va.toNat) ecc
  generalize hown : ((s.tile t).causes.getLsbD 1 && decide ((s.tile t).slotOwner = h)) = own
  have e : exec (.translationWalk t h ecc) s =
      .next (let u := ((s.withEccs (s.entryReads (.tile t) fn va.toNat) ecc).lookup t fn va.toNat).2.walkOver t h own
        if (u.th t h).run ≠ .running || (u.asyncDue t h).isSome then u else u.raise t h cFault c va) := by
    rw [← hown]
    refine congrArg Host.Outcome.next ?_
    rw [hwalk]
    dsimp only
    rw [hfn, Option.getD_some, hl]
    exact if_neg (not_not.2 ((setBit_one_false _).trans hcauses))
  generalize s.withEccs (s.entryReads (.tile t) fn va.toNat) ecc = m at hmet hl e
  have honly : SliceOnly s (m.lookup t fn va.toNat).2 := hmet.trans ((lookup_spec m t fn va.toNat).2.2 c hl)
  generalize (m.lookup t fn va.toNat).2 = v at e honly
  rw [SliceOnly] at honly
  have htile : (v.walkOver t h own).tile t = (s.tile t).walked h own := by rw [State.tile_walkOver, honly]; rfl
  have hth : (v.walkOver t h own).th t h = { s.th t h with walk := none } := by
    rw [State.th, htile]
    exact Tile.th_walked quiet own
  have hcyc : (v.walkOver t h own).cyc t = s.cyc t := by
    rw [State.cyc, htile, Tile.walked_frame, honly]
    rfl
  have hdebug : (v.walkOver t h own).debug = s.debug := by rw [honly]; rfl
  have hdue := asyncDue_congr hth hcyc
  generalize v.walkOver t h own = u at e htile hth hdue hdebug
  refine ⟨fun hrun hnone => ⟨_, e.trans (congrArg Host.Outcome.next (if_neg ?_)), ?_⟩, fun hsome =>
    ⟨_, e.trans (congrArg Host.Outcome.next (if_pos ?_)), hth⟩⟩
  · rw [hth, hdue, hnone]
    simpa using hrun
  · have gu : VectorsGood ((u.modTile t fun tl => tl.issued h).tile t) 7 := by
      rw [State.tile_modTile_self, htile, Tile.walked_frame]
      simpa [VectorsGood, vectorOf] using good
    have hx : (u.modTile t fun tl => tl.issued h).th t h = { s.th t h with walk := none } := by
      rw [State.th, State.tile_modTile_self, Tile.issued_th]
      exact hth
    have r := State.th_enter (toM := decide ((u.th t h).st.pl ≠ 1)) (h := h) gu (u.th t h).pc c va
    rw [hx, show ({ s.th t h with walk := none } : Thread).pc = (u.th t h).pc by rw [hth]] at r
    refine r.trans ?_
    rw [show (u.modTile t fun tl => tl.issued h).debug = s.debug from hdebug, State.tile_modTile_self, entered_issued, htile, hth]
    refine congrArg (Thread.slotEnd _ _) ?_
    unfold entered
    rw [show ((s.tile t).walked h own).th h = { s.th t h with walk := none } from Tile.th_walked quiet own, Tile.walked_frame]
    rfl
  · rw [hdue, hsome, Bool.or_true]

end Walk

/-- Settles O25, from what each arrival leaves of its tile and thread. -/
theorem arrivalsAtATile : Obligations.ArrivalsAtATile := by
  unfold Obligations.ArrivalsAtATile
  refine ⟨?_, ?_⟩
  · intro s t h r vd va g id rq b v pre post x tl free0 awaits got hon hzero hstop hhalt
    have ready : s.tileReady t = true := by
      rw [State.tileReady, hon]
      exact hzero
    have quiet : (s.th t h).Quiet := ⟨hstop, hhalt⟩
    refine ⟨fun hnext hrq => ⟨fun hans hw => ?_, fun hans hw => ?_, fun hans hw good => ?_⟩, fun hv hpre => ?_⟩
    · exact delivered ready quiet hw hrq hans hnext _ (fun _ => rfl) (Thread.advance_eq_onward _ _) quiet
    · exact delivered ready quiet hw hrq hans hnext _ (fun _ => rfl) (Thread.advance_eq_onward _ _) quiet
    · exact load_refused ready quiet hw hrq hans hnext good
    · exact vectorResult_lands quiet hv hpre
  · intro s t h i e d f rq b va fn l c ecc tl x y gone emptied own
    refine ⟨fun he hnext hdone href => storeAck_empties he hnext hdone href,
      fun he hnext href => storeRefusal_empties he hnext href,
      fun hf hrq hnext hans _ hdead htag hwait => sectorFill_fills hf hrq hnext hans hdead htag hwait,
      fun hwalk hfn hstop hhalt => ⟨fun hl => walk_leaf hwalk hfn ⟨hstop, hhalt⟩ hl,
        fun hl _ hcauses good => walk_fault hwalk hfn ⟨hstop, hhalt⟩ hl hcauses good⟩⟩

end Sys2Proof.Machine
end

section
/-! O15, the ranking of experts: the order of scores is a linear preorder, and inserting each expert in turn sorts them (R168,
R169). -/
namespace Sys2Proof.Machine

open Sys2Proof.Safety

/-! ## The order of scores -/

/-- Where a value lies among the infinities. -/
def FVal.band : FVal → ℤ
  | .inf true => -1
  | .inf false => 1
  | _ => 0

/-- A finite value as a rational number. -/
def FVal.rat : FVal → ℚ
  | .fin s m e => (if s then -(m : ℚ) else m) * 2 ^ e
  | _ => 0

/-- What the order of scores compares: the value, then the sign of zero. -/
def FVal.key (x : FVal) : ℤ ×ₗ (ℚ ×ₗ Bool) := toLex (x.band, toLex (x.rat, !x.signBit))

theorem scaled_rat_signed (s : Bool) (m : Nat) {e lo : ℤ} (h : lo ≤ e) :
    ((scaled s m e lo : ℤ) : ℚ) * 2 ^ lo = FVal.rat (.fin s m e) := by
  have hm := scaled_rat m h
  cases s with
  | false => exact hm
  | true =>
    rw [show scaled true m e lo = -scaled false m e lo from rfl, Int.cast_neg, neg_mul, hm]
    exact (neg_mul _ _).symm

theorem scaled_lt_iff (s t : Bool) (m n : Nat) (e g : ℤ) :
    scaled s m e (min e g) < scaled t n g (min e g) ↔ FVal.rat (.fin s m e) < FVal.rat (.fin t n g) := by
  rw [← scaled_rat_signed s m (min_le_left e g), ← scaled_rat_signed t n (min_le_right e g),
    mul_lt_mul_iff_left₀ (two_zpow_pos _), Int.cast_lt]

theorem scaled_eq_iff (s t : Bool) (m n : Nat) (e g : ℤ) :
    scaled s m e (min e g) = scaled t n g (min e g) ↔ FVal.rat (.fin s m e) = FVal.rat (.fin t n g) := by
  rw [← scaled_rat_signed s m (min_le_left e g), ← scaled_rat_signed t n (min_le_right e g),
    mul_left_inj' (two_zpow_pos _).ne', Int.cast_inj]

theorem bool_lt_iff (a b : Bool) : a < b ↔ a = false ∧ b = true := by
  cases a <;> cases b <;> decide

theorem FVal.below_iff {x y : FVal} (hx : x.isNan = false) (hy : y.isNan = false) : x.below y = true ↔ x.key < y.key := by
  have hlex : x.key < y.key ↔ x.band < y.band ∨ x.band = y.band ∧ (x.rat < y.rat ∨ x.rat = y.rat ∧ x.signBit = true ∧
      y.signBit = false) := by
    rw [FVal.key, FVal.key, Prod.Lex.toLex_lt_toLex, Prod.Lex.toLex_lt_toLex, bool_lt_iff, Bool.not_eq_false', Bool.not_eq_true']
  rw [hlex, FVal.below, Bool.or_eq_true, Bool.and_eq_true, Bool.and_eq_true, Bool.not_eq_true']
  match x, y with
  | .nan, _ => exact absurd hx (by decide)
  | _, .nan => exact absurd hy (by decide)
  | .inf s, .inf t => revert s t; decide
  | .inf s, .fin t n g => cases s <;> simp [FVal.lt, FVal.feq, FVal.band]
  | .fin s m e, .inf t => cases t <;> simp [FVal.lt, FVal.feq, FVal.band]
  | .fin s m e, .fin t n g =>
    rw [show FVal.lt (.fin s m e) (.fin t n g) = decide (scaled s m e (min e g) < scaled t n g (min e g)) from rfl,
      show FVal.feq (.fin s m e) (.fin t n g) = decide (scaled s m e (min e g) = scaled t n g (min e g)) from rfl,
      decide_eq_true_eq, decide_eq_true_eq, scaled_lt_iff, scaled_eq_iff]
    simp [FVal.band, and_assoc]

/-! ## Sorting by insertion -/

/-- Expert `a` comes before expert `b`: the higher score first, the lower index among equals (R169). -/
def Ahead (a b : Expert) : Prop := b.score.key < a.score.key ∨ a.score.key = b.score.key ∧ a.ix < b.ix

theorem Ahead.trans {a b c : Expert} (h : Ahead a b) (k : Ahead b c) : Ahead a c := by
  rcases h with h | ⟨h, hi⟩ <;> rcases k with k | ⟨k, ki⟩
  · exact .inl (k.trans h)
  · exact .inl (k ▸ h)
  · exact .inl (h ▸ k)
  · exact .inr ⟨h.trans k, hi.trans ki⟩

theorem Ahead.asymm {a b : Expert} (h : Ahead a b) : ¬ Ahead b a := by
  rintro k
  rcases h.trans k with h | ⟨-, h⟩
  · exact lt_irrefl _ h
  · exact lt_irrefl _ h

theorem rankInsert_perm (e : Expert) (l : List Expert) : (rankInsert e l).Perm (e :: l) := by
  induction l with
  | nil => exact .refl _
  | cons x l ih =>
    rw [rankInsert]
    split_ifs
    · exact .refl _
    · exact (ih.cons x).trans (.swap _ _ _)

theorem rankInsert_sorted {e : Expert} {l : List Expert} (he : e.score.isNan = false) (hl : ∀ x ∈ l, x.score.isNan = false)
    (hix : ∀ x ∈ l, x.ix < e.ix) (hs : l.Pairwise Ahead) : (rankInsert e l).Pairwise Ahead := by
  induction l with
  | nil => exact List.pairwise_singleton _ _
  | cons x l ih =>
    obtain ⟨hx, hs'⟩ := List.pairwise_cons.1 hs
    have hxe := FVal.below_iff (hl x List.mem_cons_self) he
    rw [rankInsert]
    split_ifs with hb
    · have hex : Ahead e x := .inl (hxe.1 hb)
      refine List.pairwise_cons.2 ⟨fun y hy => ?_, hs⟩
      rcases List.mem_cons.1 hy with rfl | hy
      · exact hex
      · exact hex.trans (hx y hy)
    · have hkey : e.score.key ≤ x.score.key := not_lt.1 fun k => hb (hxe.2 k)
      have hxe' : Ahead x e := by
        rcases hkey.lt_or_eq with k | k
        · exact .inl k
        · exact .inr ⟨k.symm, hix x List.mem_cons_self⟩
      refine List.pairwise_cons.2 ⟨fun y hy => ?_, ih (fun y hy => hl y (List.mem_cons_of_mem _ hy))
        (fun y hy => hix y (List.mem_cons_of_mem _ hy)) hs'⟩
      rcases List.mem_cons.1 ((rankInsert_perm e l).mem_iff.1 hy) with rfl | hy
      · exact hxe'
      · exact hx y hy

/-- Experts put into a list one by one, by rising index, stand in rank order. -/
theorem foldl_rankInsert (score : Nat → FVal) (l : List Nat) (hn : ∀ e ∈ l, (score e).isNan = false) (hs : l.Pairwise (· < ·)) :
    (l.foldl (fun a e => rankInsert ⟨e, score e⟩ a) []).Pairwise Ahead ∧
      (l.foldl (fun a e => rankInsert ⟨e, score e⟩ a) []).Perm (l.map fun e => ⟨e, score e⟩) := by
  induction l using List.reverseRecOn with
  | nil => exact ⟨.nil, .refl _⟩
  | append_singleton l e ih =>
    obtain ⟨hsl, -, hlt⟩ := List.pairwise_append.1 hs
    obtain ⟨hsorted, hperm⟩ := ih (fun x hx => hn x (List.mem_append_left _ hx)) hsl
    rw [List.foldl_append, List.foldl_cons, List.foldl_nil, List.map_append]
    generalize l.foldl (fun a e => rankInsert ⟨e, score e⟩ a) [] = r at hsorted hperm
    have hmem {x : Expert} (hx : x ∈ r) : ∃ i ∈ l, x = ⟨i, score i⟩ := by
      obtain ⟨i, hi, rfl⟩ := List.mem_map.1 (hperm.mem_iff.1 hx)
      exact ⟨i, hi, rfl⟩
    refine ⟨rankInsert_sorted (hn e (by simp)) (fun x hx => ?_) (fun x hx => ?_) hsorted, ?_⟩
    · obtain ⟨i, hi, rfl⟩ := hmem hx
      exact hn i (List.mem_append_left _ hi)
    · obtain ⟨i, hi, rfl⟩ := hmem hx
      exact hlt i hi e (by simp)
    · exact (rankInsert_perm _ _).trans ((hperm.cons _).trans (List.perm_append_comm (l₁ := [_])))

/-! ## The rank of an expert -/

/-- In a list in rank order, as many experts come before one as its position says. -/
theorem countP_ahead {l : List Expert} (hs : l.Pairwise Ahead) {p : Expert → Expert → Bool} (hp : ∀ a ∈ l, ∀ b ∈ l, p a b = true ↔ Ahead a b) {r : Nat}
    (hr : r < l.length) : l.countP (fun g => p g l[r]) = r := by
  have hsplit : l = l.take r ++ l[r] :: l.drop (r + 1) := by rw [List.getElem_cons_drop, List.take_append_drop]
  have hpair := List.pairwise_append.1 (hsplit ▸ hs)
  obtain ⟨-, hdrop, htake⟩ := hpair
  have hbefore : (l.take r).countP (fun g => p g l[r]) = r := by
    rw [List.countP_eq_length.2 fun g hg => ?_, List.length_take, Nat.min_eq_left hr.le]
    exact (hp g (List.mem_of_mem_take hg) _ (List.getElem_mem hr)).2 (htake g hg _ List.mem_cons_self)
  have hafter : (l[r] :: l.drop (r + 1)).countP (fun g => p g l[r]) = 0 := by
    refine List.countP_eq_zero.2 fun g hg hpg => ?_
    have hgl : g ∈ l := hsplit ▸ List.mem_append_right _ hg
    have hag := (hp g hgl _ (List.getElem_mem hr)).1 hpg
    rcases List.mem_cons.1 hg with rfl | hg
    · exact hag.asymm hag
    · exact hag.asymm ((List.pairwise_cons.1 hdrop).1 g hg)
  refine (congrArg (List.countP fun g => p g l[r]) hsplit).trans ?_
  rw [List.countP_append, hbefore, hafter, Nat.add_zero]

end Sys2Proof.Machine
end

section
/-! O15, the chosen experts, their gates, and the messages that leave for them (R170–R172). -/
namespace Sys2Proof.Machine

open Sys2Proof.Safety

/-! ## The chosen experts -/

/-- Expert `e` comes before expert `g` (R169). -/
def first (sc : Nat → FVal) (e g : Nat) : Bool := (sc g).below (sc e) || (!(sc e).below (sc g) && decide (e < g))

/-- How many eligible experts come before `e`. -/
def pos (num : Nat) (sc : Nat → FVal) (elig : Nat → Bool) (e : Nat) : Nat :=
  ((List.range num).filter fun g => elig g && first sc g e).length

/-- The expert of rank `r`. -/
def pick (num : Nat) (sc : Nat → FVal) (elig : Nat → Bool) (r : Nat) : Nat :=
  ((List.range num).filter fun e => elig e && decide (pos num sc elig e = r)).headD 0

theorem headD_filter_of_unique {l : List Nat} {p : Nat → Bool} {i : Nat} (hi : i ∈ l) (hp : p i = true)
    (huniq : ∀ j ∈ l, p j = true → j = i) : (l.filter p).headD 0 = i := by
  have hmem : i ∈ l.filter p := List.mem_filter.2 ⟨hi, hp⟩
  cases hf : l.filter p with
  | nil => rw [hf] at hmem; exact absurd hmem List.not_mem_nil
  | cons j r =>
    obtain ⟨hj, hpj⟩ := List.mem_filter.1 (hf ▸ List.mem_cons_self : j ∈ l.filter p)
    exact huniq j hj hpj

theorem first_iff {sc : Nat → FVal} {e g : Nat} (he : (sc e).isNan = false) (hg : (sc g).isNan = false) :
    first sc e g = true ↔ Ahead ⟨e, sc e⟩ ⟨g, sc g⟩ := by
  have hge := FVal.below_iff hg he
  have heg := FVal.below_iff he hg
  rw [first, Bool.or_eq_true, Bool.and_eq_true, Bool.not_eq_true', decide_eq_true_eq, ← Bool.not_eq_true, hge, heg]
  constructor
  · rintro (h | ⟨h, hlt⟩)
    · exact .inl h
    · rcases (not_lt.1 h).lt_or_eq with k | k
      · exact .inl k
      · exact .inr ⟨k.symm, hlt⟩
  · rintro (h | ⟨h, hlt⟩)
    · exact .inl h
    · exact .inr ⟨not_lt.2 h.symm.le, hlt⟩

/-- The ranked experts are the picks of the ranks in turn. -/
theorem ranked_eq_picks {num : Nat} {sc : Nat → FVal} {elig : Nat → Bool} (hn : ∀ e, elig e = true → (sc e).isNan = false) :
    ((List.range num).filter elig).foldl (fun l e => rankInsert ⟨e, sc e⟩ l) [] =
      (List.range ((List.range num).filter elig).length).map fun r => ⟨pick num sc elig r, sc (pick num sc elig r)⟩ := by
  classical
  have hnan : ∀ e ∈ (List.range num).filter elig, (sc e).isNan = false := fun e he => hn e (List.mem_filter.1 he).2
  obtain ⟨hsorted, hperm⟩ := foldl_rankInsert sc ((List.range num).filter elig) hnan (List.pairwise_lt_range.filter _)
  generalize ((List.range num).filter elig).foldl (fun l e => rankInsert ⟨e, sc e⟩ l) [] = l at hsorted hperm
  have hmem {x : Expert} : x ∈ l ↔ ∃ i ∈ (List.range num).filter elig, ⟨i, sc i⟩ = x := hperm.mem_iff.trans List.mem_map
  let ahead (a b : Expert) : Bool := decide (Ahead a b)
  have hpos {i : Nat} (hi : i ∈ (List.range num).filter elig) : pos num sc elig i = l.countP fun g => ahead g ⟨i, sc i⟩ := by
    rw [hperm.countP_eq, List.countP_map, pos, List.countP_eq_length_filter, List.filter_filter]
    refine congrArg List.length (List.filter_congr fun g hg => ?_)
    rw [Bool.and_comm]
    cases hge : elig g with
    | false => rw [Bool.and_false, Bool.and_false]
    | true =>
      rw [Bool.and_true, Bool.and_true, Bool.eq_iff_iff, first_iff (hn g hge) (hnan i hi)]
      exact (decide_eq_true_iff (p := Ahead ⟨g, sc g⟩ ⟨i, sc i⟩)).symm
  have hrank {r : Nat} (hr : r < l.length) : l.countP (fun g => ahead g l[r]) = r :=
    countP_ahead hsorted (fun _ _ _ _ => decide_eq_true_iff) hr
  refine List.ext_getElem (by rw [hperm.length_eq, List.length_map, List.length_map, List.length_range]) fun r hr _ => ?_
  obtain ⟨i, hi, hx⟩ := hmem.1 (List.getElem_mem hr)
  have hir : pos num sc elig i = r := by rw [hpos hi, hx, hrank hr]
  have hpick : pick num sc elig r = i := by
    refine headD_filter_of_unique (List.mem_filter.1 hi).1 ?_ fun j hj hp => ?_
    · rw [(List.mem_filter.1 hi).2, hir, decide_eq_true rfl]
      rfl
    · obtain ⟨hje, hjr⟩ := Bool.and_eq_true_iff.1 hp
      have hjm : j ∈ (List.range num).filter elig := List.mem_filter.2 ⟨hj, hje⟩
      obtain ⟨k, hk, hkx⟩ := List.getElem_of_mem (hmem.2 ⟨j, hjm, rfl⟩)
      have hkr : k = r := by
        rw [← hrank hk, hkx, ← hpos hjm]
        exact of_decide_eq_true hjr
      subst hkr
      exact congrArg Expert.ix (hkx.symm.trans hx.symm)
  rw [List.getElem_map, List.getElem_range, hpick, hx]

/-! ## The gates (R170) -/

/-- The FP32 term of the chosen score `r`. -/
def gateTerm (f : Nat → FVal) (r : Nat) : Nat :=
  if (f r).feq (f 0) then 0x3F800000
  else expLane .fp32 (encodeF fmtF32 ((decodeF fmtF32 (encodeF fmtF32 (f r))).add (decodeF fmtF32 (encodeF fmtF32 (f 0))).neg))

/-- The sum of the terms, rounded after each. -/
def gateSum (f : Nat → FVal) (n : Nat) : Nat :=
  (List.range (n - 1)).foldl (fun a r => encodeF fmtF32 ((decodeF fmtF32 a).add (decodeF fmtF32 (gateTerm f (r + 1))))) (gateTerm f 0)

theorem gates_eq (f : Nat → FVal) (n : Nat) : gates ((List.range n).map f) =
    (List.range n).map fun r => encodeF fmtF32 ((decodeF fmtF32 (gateTerm f r)).div (decodeF fmtF32 (gateSum f n))) := by
  cases n with
  | zero => rfl
  | succ n =>
    have hterms : gateTerms ((List.range (n + 1)).map f) = (List.range (n + 1)).map (gateTerm f) := by
      rw [gateTerms, List.map_map, show ((List.range (n + 1)).map f).headD .nan = f 0 by rw [List.range_succ_eq_map]; rfl]
      rfl
    have hcons : (List.range (n + 1)).map (gateTerm f) = gateTerm f 0 :: (List.range n).map fun r => gateTerm f (r + 1) := by
      rw [List.range_succ_eq_map, List.map_cons, List.map_map]
      rfl
    have hsum : ((List.range n).map fun r => gateTerm f (r + 1)).foldl (laneAdd .fp32) (gateTerm f 0) = gateSum f (n + 1) := by
      rw [List.foldl_map]
      rfl
    rw [gates, hterms, hcons]
    dsimp only
    rw [hsum, ← hcons, List.map_map]
    rfl

/-! ## The messages (R171, R172) -/

/-- The response tags that no earlier message holds. -/
def SendSide.freeList (x : SendSide) : List Nat := (List.range 64).filter fun i => x.sent.all fun e => decide (e.tag ≠ i)

theorem SendSide.freeTag_eq (x : SendSide) : x.freeTag = x.freeList.head? := by
  unfold SendSide.freeTag SendSide.freeList
  refine congrArg List.head? (List.filter_congr fun i _ => ?_)
  rw [List.not_any_eq_all_not]
  refine List.all_congr rfl fun e => ?_
  exact decide_not.symm

/-- The lowest free tag once taken, the others are left. -/
theorem SendSide.freeList_sent {x y : SendSide} {e : Sent} {tag : Nat} {r : List Nat} (hx : x.freeList = tag :: r) (he : e.tag = tag)
    (hy : y.sent = x.sent ++ [e]) : y.freeList = r := by
  have hfil : y.freeList = x.freeList.filter fun i => decide (tag ≠ i) := by
    unfold SendSide.freeList
    rw [List.filter_filter, hy, ← he]
    refine List.filter_congr fun i _ => ?_
    rw [List.all_append, List.all_cons, List.all_nil, Bool.and_true, Bool.and_comm]
  have hnodup : x.freeList.Nodup := List.nodup_range.filter _
  rw [hx] at hnodup hfil
  obtain ⟨hnot, -⟩ := List.nodup_cons.1 hnodup
  rw [hfil, List.filter_cons_of_neg (by simp), List.filter_eq_self.2]
  intro i hi
  refine decide_eq_true ?_
  rintro rfl
  exact hnot hi

/-- As many tags are free as the rule of free tags counts, or more. -/
theorem SendSide.length_freeList (x : SendSide) : 64 ≤ x.freeList.length + x.sent.length := by
  have hsub : List.range 64 ⊆ x.freeList ++ x.sent.map fun e => e.tag := by
    intro i hi
    by_cases hfree : (x.sent.all fun e => decide (e.tag ≠ i)) = true
    · exact List.mem_append_left _ (List.mem_filter.2 ⟨hi, hfree⟩)
    · rw [List.all_eq_true] at hfree
      push Not at hfree
      obtain ⟨e, he, hne⟩ := hfree
      exact List.mem_append_right _ (List.mem_map.2 ⟨e, he, by simpa using hne⟩)
  have h := (List.subperm_of_subset List.nodup_range hsub).length_le
  rwa [List.length_range, List.length_append, List.length_map] at h

theorem SendSide.entry_use (x : SendSide) (hd : Word) (i : Nat) : ∃ k, (x.use hd 16).entry i = { x.entry i with
    bytes := if (x.entry i).refused then (x.entry i).bytes else (x.entry i).bytes - (if x.find hd = some i then 16 else 0), lastUse := k } := by
  cases hf : x.find hd with
  | none =>
    refine ⟨(x.entry i).lastUse, ?_⟩
    have hu : x.use hd 16 = x := by rw [SendSide.use, hf]
    rw [hu, if_neg (show (none : Option Nat) ≠ some i from nofun), Nat.sub_zero, ite_self]
  | some j =>
    have hu : x.use hd 16 = { x.modEntry j (fun e => { e with bytes := if e.refused then e.bytes else e.bytes - 16, lastUse := x.useCtr + 1 })
        with useCtr := x.useCtr + 1 } := by
      rw [SendSide.use, hf]
    have he : (x.use hd 16).entry i = if i = j then { x.entry j with
        bytes := if (x.entry j).refused then (x.entry j).bytes else (x.entry j).bytes - 16, lastUse := x.useCtr + 1 } else x.entry i := by
      rw [hu]
      exact SMap.get_modify ({} : Cred) x.cred j i fun e =>
        { e with bytes := if e.refused then e.bytes else e.bytes - 16, lastUse := x.useCtr + 1 }
    rw [he]
    by_cases hj : i = j
    · subst hj
      exact ⟨x.useCtr + 1, by rw [if_pos rfl, if_pos rfl]⟩
    · exact ⟨(x.entry i).lastUse, by rw [if_neg hj, if_neg (fun h => hj (Option.some.inj h).symm), Nat.sub_zero, ite_self]⟩

end Sys2Proof.Machine
end

section
/-! O15, VROUTE as a whole: the dispatch of its messages one after the other (R171–R173). From it the obligation O15. -/
namespace Sys2Proof.Machine

open Sys2Proof.Safety

/-! ## Dispatch in rank order (R172) -/

theorem Sends.trans {s u v : State} {t : TileId} {h : Thr} {ps qs : List Pkt} (w : Sends s u t h ps) (z : Sends u v t h qs) :
    Sends s v t h (ps ++ qs) where
  frame := by
    conv_lhs => rw [z.frame, w.frame]
    simp [Nat.add_assoc]
  tiles q hq := (z.tiles q hq).trans (w.tiles q hq)
  threads k hk := (z.threads k hk).trans (w.threads k hk)

/-- The message of a dispatch `d` under response tag `rt`. -/
def dispatchMsg (s : State) (t : TileId) (h : Thr) (tag : BitVec 16) (d : Word × List Word) (rt : Nat) : Msg :=
  { s.threadMsg t h 0 tag d.2 d.1 ((s.tile t).send.credited d.1) with rtag := rt }

/-- Its packet, `r` packets later. -/
def dispatchPkt (s : State) (t : TileId) (h : Thr) (tag : BitVec 16) (d : Word × List Word) (r rt : Nat) : Pkt :=
  { id := s.nextId + r, src := .tile t, dst := .tile (hTile d.1), net := 3, body := .msg (dispatchMsg s t h tag d rt),
    hold := (s.th t h).hold, after := (s.tile t).send.others (hQid d.1) true }

/-- How many of the first `n` dispatches use credit entry `i`. -/
def useCount (x : SendSide) (d : Nat → Word × List Word) (n i : Nat) : Nat :=
  ((List.range n).filter fun r => decide (x.find (d r).1 = some i)).length

/-- The state after one dispatch. -/
def State.dispatched (s : State) (t : TileId) (h : Thr) (tag : BitVec 16) (d : Word × List Word) : State :=
  ((s.modSend (.tile t) (fun y => y.use d.1 16)).emit (.tile t) (.thread h)
    (s.threadMsg t h 0 tag d.2 d.1 ((s.tile t).send.credited d.1)) false (s.th t h).hold).modTile t fun tl => tl.pm 0x20 1

/-- The answer that a dispatch awaits. -/
def dispatchSent (h : Thr) (hd : Word) (rt : Nat) : Sent := { tag := rt, owner := .thread h, handles := [hd], mesh := true, left := 1 }

theorem dispatched_sends {s : State} {t : TileId} {h : Thr} {tag : BitVec 16} {d : Word × List Word} {rt : Nat} {rest : List Nat}
    (hfree : (s.tile t).send.freeList = rt :: rest) (hd : 2 ≤ d.2.length) :
    Sends s (s.dispatched t h tag d) t h [dispatchPkt s t h tag d 0 rt] ∧ (s.dispatched t h tag d).th t h = s.th t h ∧
      ((s.dispatched t h tag d).tile t).send = { (s.tile t).send.use d.1 16 with sent := (s.tile t).send.sent ++ [dispatchSent h d.1 rt] } ∧
      still ((s.dispatched t h tag d).tile t) = { still (s.tile t) with send := ((s.dispatched t h tag d).tile t).send } := by
  have hsent : ((s.tile t).send.use d.1 16).sent = (s.tile t).send.sent := by
    unfold SendSide.use
    split <;> rfl
  generalize hv : s.modSend (.tile t) (fun y => y.use d.1 16) = v
  have hvt : v.tile t = { s.tile t with send := (s.tile t).send.use d.1 16 } := by
    rw [← hv]
    exact State.tile_modTile_self _ _ _
  have hvs : Sends s v t h [] := hv ▸ (Sends.refl s t h).modSend _
  have hvth : v.th t h = s.th t h := by rw [State.th, hvt]; rfl
  have htag : (v.tile t).send.freeTag = some rt := by
    rw [hvt, SendSide.freeTag_eq, SendSide.freeList, hsent, ← SendSide.freeList, hfree]
    rfl
  have hothers : (v.tile t).send.others (hQid d.1) true = (s.tile t).send.others (hQid d.1) true := by
    rw [hvt, SendSide.others, hsent, SendSide.others]
  have e := State.emit_eq htag (.thread h) (s.threadMsg t h 0 tag d.2 d.1 ((s.tile t).send.credited d.1)) false (s.th t h).hold
  rw [show (false || decide (2 ≤ (s.threadMsg t h 0 tag d.2 d.1 ((s.tile t).send.credited d.1)).payload.length)) = true from
    decide_eq_true hd] at e
  dsimp only at e
  rw [if_pos rfl, show (s.threadMsg t h 0 tag d.2 d.1 ((s.tile t).send.credited d.1)).handle = d.1 from rfl, hothers] at e
  have hw := (hvs.sendPkt (.tile t) (.tile (hTile d.1)) 3 (emittedBody t
    (s.threadMsg t h 0 tag d.2 d.1 ((s.tile t).send.credited d.1)) false rt) (s.th t h).hold ((s.tile t).send.others (hQid d.1) true)).modSend
      fun y => { y with sent := y.sent ++ [dispatchSent h d.1 rt] }
  rw [State.dispatched, hv, e]
  have hpm (tl : Tile) : (tl.pm 0x20 1).thr = tl.thr := Tile.pm_thr _ _ _
  have htile : ((((v.sendPkt (.tile t) (.tile (hTile d.1)) 3 (emittedBody t (s.threadMsg t h 0 tag d.2 d.1 ((s.tile t).send.credited d.1))
      false rt) (s.th t h).hold ((s.tile t).send.others (hQid d.1) true)).modSend (.tile t) fun y =>
        { y with sent := y.sent ++ [dispatchSent h d.1 rt] }).modTile t fun tl => tl.pm 0x20 1).tile t) =
      ({ s.tile t with send := { (s.tile t).send.use d.1 16 with sent := (s.tile t).send.sent ++ [dispatchSent h d.1 rt] } } : Tile).pm 0x20 1 := by
    rw [State.tile_modTile_self, State.modSend, State.tile_modTile_self, State.tile_sendPkt, hvt, hsent]
  refine ⟨hw.modTile fun k _ => by rw [Tile.th, hpm]; rfl, ?_, ?_, ?_⟩
  · exact (congrArg (fun tl : Tile => tl.th h) htile).trans (by rw [Tile.th, hpm]; rfl)
  · exact (congrArg Tile.send htile).trans (Tile.pm_send _ _ _)
  · refine (congrArg still htile).trans ((still_pm _ _ _).trans ?_)
    refine Eq.trans ?_ (congrArg (fun x => { still (s.tile t) with send := x }) (congrArg Tile.send htile).symm)
    rw [Tile.pm_send]
    rfl

theorem find_congr {x y : SendSide} (h : ∀ i, ∃ b k, y.entry i = { x.entry i with bytes := b, lastUse := k }) (hd : Word) :
    y.find hd = x.find hd := by
  unfold SendSide.find
  refine congrArg List.head? (List.filter_congr fun i _ => ?_)
  obtain ⟨b, k, e⟩ := h i
  rw [e]

theorem credited_congr {x y : SendSide} (h : ∀ i, ∃ b k, y.entry i = { x.entry i with bytes := b, lastUse := k }) (hd : Word) :
    y.credited hd = x.credited hd := by
  rw [SendSide.credited, SendSide.credited, find_congr h]
  cases x.find hd with
  | none => rfl
  | some i =>
    obtain ⟨b, k, e⟩ := h i
    exact (congrArg (fun c : Cred => !c.refused) e :)

theorem others_sent {x y : SendSide} {h : Thr} {hd : Word} {rt : Nat} (hy : y.sent = x.sent ++ [dispatchSent h hd rt]) (q : BitVec 16) :
    y.others q true = x.others q true := by
  rw [SendSide.others, SendSide.others, hy, List.filter_append]
  exact congrArg (List.map _) (List.append_nil _)

theorem useCount_succ (x : SendSide) (d : Nat → Word × List Word) (n i : Nat) :
    useCount x d (n + 1) i = (if x.find (d 0).1 = some i then 1 else 0) + useCount x (fun r => d (r + 1)) n i := by
  unfold useCount
  rw [List.range_succ_eq_map, List.filter_cons, List.filter_map]
  by_cases hi : x.find (d 0).1 = some i
  · rw [if_pos (decide_eq_true hi), if_pos hi, List.length_cons, List.length_map, Nat.add_comm]
    rfl
  · rw [if_neg (by simpa using hi), if_neg hi, List.length_map, Nat.zero_add]
    rfl

theorem State.dispatchAll_cons (s : State) (t : TileId) (h : Thr) (tag : BitVec 16) (d : Word × List Word) (l : List (Word × List Word)) :
    s.dispatchAll t h tag (d :: l) = (s.dispatched t h tag d).dispatchAll t h tag l := rfl

/-- What the dispatches of a list leave: a packet and an answer awaited for each, and the credit that they use. -/
theorem dispatchAll_spec (t : TileId) (h : Thr) (tag : BitVec 16) (n : Nat) : ∀ (s : State) (d : Nat → Word × List Word),
    n ≤ (s.tile t).send.freeList.length → (∀ r, 2 ≤ (d r).2.length) →
      let u := s.dispatchAll t h tag ((List.range n).map d)
      let rt r := (s.tile t).send.freeList.getD r 0
      Sends s u t h ((List.range n).map fun r => dispatchPkt s t h tag (d r) r (rt r)) ∧ u.th t h = s.th t h ∧
        still (u.tile t) = { still (s.tile t) with send := (u.tile t).send } ∧
        (u.tile t).send.sent = (s.tile t).send.sent ++ (List.range n).map (fun r => dispatchSent h (d r).1 (rt r)) ∧
        ∀ i, ∃ k, (u.tile t).send.entry i = { (s.tile t).send.entry i with
          bytes := if ((s.tile t).send.entry i).refused then ((s.tile t).send.entry i).bytes
            else ((s.tile t).send.entry i).bytes - 16 * useCount (s.tile t).send d n i, lastUse := k } := by
  induction n with
  | zero =>
    intro s d _ _
    refine ⟨Sends.refl s t h, rfl, rfl, (List.append_nil _).symm, fun i => ⟨((s.tile t).send.entry i).lastUse, ?_⟩⟩
    rw [show useCount (s.tile t).send d 0 i = 0 from rfl, Nat.mul_zero, Nat.sub_zero, ite_self]
    rfl
  | succ n ih =>
    intro s d hlen hpay
    cases hfree : (s.tile t).send.freeList with
    | nil => rw [hfree] at hlen; exact absurd hlen (Nat.not_succ_le_zero n)
    | cons rt0 rest =>
      obtain ⟨hs1, hth1, hsend1, hstill1⟩ := dispatched_sends (h := h) (tag := tag) hfree (hpay 0)
      have hlist : (List.range (n + 1)).map d = d 0 :: (List.range n).map fun r => d (r + 1) := by
        rw [List.range_succ_eq_map, List.map_cons, List.map_map]
        rfl
      intro u rt
      have hu : u = (s.dispatched t h tag (d 0)).dispatchAll t h tag ((List.range n).map fun r => d (r + 1)) :=
        congrArg (s.dispatchAll t h tag) hlist
      clear_value u
      generalize s.dispatched t h tag (d 0) = v at hs1 hth1 hsend1 hstill1 hu
      have hsent1 : (v.tile t).send.sent = (s.tile t).send.sent ++ [dispatchSent h (d 0).1 rt0] := by rw [hsend1]
      have hentry (i : Nat) : ∃ k, (v.tile t).send.entry i = { (s.tile t).send.entry i with
          bytes := if ((s.tile t).send.entry i).refused then ((s.tile t).send.entry i).bytes
            else ((s.tile t).send.entry i).bytes - (if (s.tile t).send.find (d 0).1 = some i then 16 else 0), lastUse := k } := by
        rw [hsend1]
        exact (s.tile t).send.entry_use (d 0).1 i
      have hany (i : Nat) : ∃ b k, (v.tile t).send.entry i = { (s.tile t).send.entry i with bytes := b, lastUse := k } := by
        obtain ⟨k, e⟩ := hentry i
        exact ⟨_, k, e⟩
      have hrest : (v.tile t).send.freeList = rest := SendSide.freeList_sent hfree rfl hsent1
      have hrt (r : Nat) : (v.tile t).send.freeList.getD r 0 = rt (r + 1) := by
        rw [hrest]
        exact List.getD_cons_succ.symm
      have hrt0 : rt 0 = rt0 := rfl
      have hcount (i : Nat) : useCount (v.tile t).send (fun r => d (r + 1)) n i = useCount (s.tile t).send (fun r => d (r + 1)) n i := by
        unfold useCount
        simp only [find_congr hany]
      have hpkt (r : Nat) : dispatchPkt v t h tag (d (r + 1)) r ((v.tile t).send.freeList.getD r 0) =
          dispatchPkt s t h tag (d (r + 1)) (r + 1) (rt (r + 1)) := by
        have hid : v.nextId = s.nextId + 1 := congrArg State.nextId hs1.frame
        have hfunc : (v.tile t).func = (s.tile t).func := (congrArg Tile.func hstill1 :)
        rw [dispatchPkt, dispatchPkt, dispatchMsg, dispatchMsg, State.threadMsg, State.threadMsg, hth1, hrt, hid, hfunc, credited_congr hany,
          others_sent hsent1, Nat.add_assoc, Nat.add_comm 1 r]
      obtain ⟨hs2, hth2, hstill2, hsent2, hentry2⟩ := ih v (fun r => d (r + 1)) (by
        rw [hrest]
        rw [hfree] at hlen
        exact Nat.le_of_succ_le_succ hlen) fun r => hpay (r + 1)
      rw [← hu] at hs2 hth2 hstill2 hsent2 hentry2
      have hmap {α : Type} (f : Nat → α) : (List.range (n + 1)).map f = [f 0] ++ (List.range n).map fun r => f (r + 1) := by
        rw [List.range_succ_eq_map, List.map_cons, List.map_map]
        rfl
      refine ⟨?_, hth2.trans hth1, ?_, ?_, fun i => ?_⟩
      · rw [hmap, hrt0, ← show (List.range n).map (fun r => dispatchPkt v t h tag (d (r + 1)) r ((v.tile t).send.freeList.getD r 0)) =
          (List.range n).map (fun r => dispatchPkt s t h tag (d (r + 1)) (r + 1) (rt (r + 1))) from List.map_congr_left fun r _ => hpkt r]
        exact hs1.trans hs2
      · rw [hstill2, hstill1]
      · rw [hsent2, hsent1, hmap, hrt0, List.append_assoc]
        simp only [hrt]
      · obtain ⟨k1, e1⟩ := hentry i
        obtain ⟨k2, e2⟩ := hentry2 i
        refine ⟨k2, ?_⟩
        rw [e2, e1, hcount, useCount_succ]
        dsimp only
        cases hr : ((s.tile t).send.entry i).refused with
        | true => simp
        | false =>
          by_cases hi : (s.tile t).send.find (d 0).1 = some i
          · simp only [hi, if_true, Bool.false_eq_true, if_false, Nat.sub_sub, Nat.mul_add, Nat.mul_one]
          · simp only [hi, Bool.false_eq_true, if_false, Nat.sub_zero, Nat.zero_add]

end Sys2Proof.Machine
end

section
/-! O15, what VROUTE reads and what it does with it (R168–R173). From it the obligation O15. -/
namespace Sys2Proof.Machine

open Sys2Proof.Safety

/-! ## The expert table and the scores (R168) -/

theorem toWords_bytes (m : Memory) (n : Nat) : ∀ a, toWords n (m.bytes a (4 * n)) = (List.range n).map fun i => leBits 32 (m.bytes (a + 4 * i) 4) := by
  induction n with
  | zero => exact fun _ => rfl
  | succ n ih =>
    intro a
    have hlen : (m.bytes a 4).length = 4 := Memory.length_bytes _ _ _
    rw [show 4 * (n + 1) = 4 + 4 * n by omega, Memory.bytes_add, toWords, List.take_left' hlen, List.drop_left' hlen, ih, List.range_succ_eq_map,
      List.map_cons, List.map_map]
    refine congrArg₂ _ rfl (List.map_congr_left fun i _ => ?_)
    rw [Function.comp_apply, Nat.succ_eq_add_one, show a + 4 + 4 * i = a + 4 * (i + 1) by omega]

/-- Word `i` of the expert table at `off`. -/
def tableWord (tl : Tile) (off i : Nat) : Word :=
  tl.lmem.byte (off + 4 * i + 3) ++ tl.lmem.byte (off + 4 * i + 2) ++ tl.lmem.byte (off + 4 * i + 1) ++ tl.lmem.byte (off + 4 * i)

theorem toWords_table (tl : Tile) (off n : Nat) : toWords n (tl.lmem.bytes off (4 * n)) = (List.range n).map (tableWord tl off) := by
  rw [toWords_bytes]
  exact List.map_congr_left fun i _ => leBits_4 _ _

theorem nth_map_range {α : Type} (f : Nat → α) {n i : Nat} (hi : i < n) (d : α) : nth ((List.range n).map f) i d = f i := by
  rw [nth, List.getD_eq_getElem _ _ (by rw [List.length_map, List.length_range]; exact hi), List.getElem_map, List.getElem_range]

theorem drop_one_range {α : Type} (f : Nat → α) (n : Nat) : ((List.range (n + 1)).map f).drop 1 = (List.range n).map fun i => f (1 + i) := by
  rw [List.range_succ_eq_map, List.map_cons, List.drop_one, List.tail_cons, List.map_map]
  exact List.map_congr_left fun i _ => congrArg f (Nat.add_comm i 1)

/-- What VROUTE asks of its instruction: the scores, the table, and how many experts it wants. -/
structure Route where
  num : Nat
  sc : Nat → FVal
  word : Nat → Word
  want : Nat

namespace Route

variable (R : Route)

/-- The expert is not disabled and its score is a number. -/
def elig (e : Nat) : Bool := !(R.word (1 + e)).getLsbD 23 && !(R.sc e).isNan

def at_ (r : Nat) : Nat := pick R.num R.sc R.elig r

/-- How many experts are chosen. -/
def n : Nat := min R.want ((List.range R.num).filter R.elig).length

def score (r : Nat) : FVal := R.sc (R.at_ r)

def handle (r : Nat) : Word :=
  ((R.word (1 + R.at_ r)).extractLsb' 24 8 ++ (0#8) ++ (R.word (1 + R.at_ r)).extractLsb' 0 16 : BitVec 32)

def gate (r : Nat) : Nat :=
  encodeF fmtF32 ((decodeF fmtF32 (gateTerm R.score r)).div (decodeF fmtF32 (gateSum R.score R.n)))

/-- The dispatch of rank `r`. -/
def dispatch (dt : Word) (r : Nat) : Word × List Word :=
  (R.handle r, [dt, BitVec.ofNat 32 (R.gate r), BitVec.ofNat 32 (R.at_ r + 2 ^ 8 * r + 2 ^ 11 * (R.want - 1))])

variable {R}

theorem at_lt (hnum : 0 < R.num) (r : Nat) : R.at_ r < R.num := by
  unfold at_ pick
  cases hf : (List.range R.num).filter fun e => R.elig e && decide (pos R.num R.sc R.elig e = r) with
  | nil => exact hnum
  | cons j l => exact List.mem_range.1 (List.mem_filter.1 (hf ▸ List.mem_cons_self : j ∈ _)).1

/-- The experts that the model ranks and takes. -/
theorem chosen_eq {ty : Ty} {scores : List Nat} {entries : List Word} (hlen : scores.length = R.num)
    (hsc : ∀ e, e < R.num → decodeF (tyFmt ty) (nth scores e 0) = R.sc e) (hen : ∀ e, e < R.num → nth entries e 0 = R.word (1 + e)) :
    (ranked ty scores entries).take R.want = (List.range R.n).map fun r => ⟨R.at_ r, R.score r⟩ := by
  have hfil : (List.range scores.length).filter (fun e => !(bit (nth entries e 0) 23) && !(decodeF (tyFmt ty) (nth scores e 0)).isNan) =
      (List.range R.num).filter R.elig := by
    rw [hlen]
    refine List.filter_congr fun e he => ?_
    rw [hsc e (List.mem_range.1 he), hen e (List.mem_range.1 he)]
    rfl
  have hranked : ranked ty scores entries = ((List.range R.num).filter R.elig).foldl (fun l e => rankInsert ⟨e, R.sc e⟩ l) [] := by
    rw [ranked, hfil]
    refine foldl_congr_mem (fun e he l => ?_) []
    rw [hsc e (List.mem_range.1 (List.mem_filter.1 he).1)]
  rw [hranked, ranked_eq_picks fun e he => by
    obtain ⟨-, h⟩ := Bool.and_eq_true_iff.1 he
    rwa [Bool.not_eq_true'] at h, ← List.map_take, List.take_range]
  rfl

theorem dispatches_eq (dt : Word) {entries : List Word} (hnum : 0 < R.num) (hen : ∀ e, e < R.num → nth entries e 0 = R.word (1 + e)) :
    dispatches dt R.want entries ((List.range R.n).map fun r => ⟨R.at_ r, R.score r⟩) = (List.range R.n).map (R.dispatch dt) := by
  unfold dispatches
  rw [List.length_map, List.length_range, List.map_map, List.map_map]
  refine List.map_congr_left fun r hr => ?_
  have hr' := List.mem_range.1 hr
  have hix : ((List.range R.n).map (Expert.ix ∘ fun r => (⟨R.at_ r, R.score r⟩ : Expert))).getD r 0 = R.at_ r :=
    nth_map_range _ hr' 0
  have hgate : nth (gates ((List.range R.n).map (Expert.score ∘ fun r => (⟨R.at_ r, R.score r⟩ : Expert)))) r 0 = R.gate r := by
    rw [show (Expert.score ∘ fun r => (⟨R.at_ r, R.score r⟩ : Expert)) = R.score from rfl, gates_eq, nth_map_range _ hr']
    rfl
  dsimp only
  rw [show ((List.range R.n).map ((fun x => x.ix) ∘ fun r => (⟨R.at_ r, R.score r⟩ : Expert))).getD r 0 = R.at_ r from hix,
    show nth (gates ((List.range R.n).map ((fun e => e.score) ∘ fun r => (⟨R.at_ r, R.score r⟩ : Expert)))) r 0 = R.gate r from hgate,
    hen _ (at_lt hnum r)]
  rfl

end Route

/-- With credit for the messages of every handle, nothing is missing. -/
theorem needs_ready {x : SendSide} {d : Nat → Word × List Word} {n : Nat}
    (h : ∀ r, r < n → x.ready (d r).1 (16 * ((List.range n).filter fun k => decide ((d k).1 = (d r).1)).length) = true) :
    (needs ((List.range n).map d)).filter (fun p => !(x.ready p.1 p.2)) = [] := by
  refine List.filter_eq_nil_iff.2 fun p hp => ?_
  obtain ⟨z, hz, rfl⟩ := List.mem_map.1 hp
  rw [List.mem_eraseDups, List.map_map] at hz
  obtain ⟨r, hr, rfl⟩ := List.mem_map.1 hz
  have hcount : (((List.range n).map d).filter fun e => decide (e.1 = (d r).1)).length =
      ((List.range n).filter fun k => decide ((d k).1 = (d r).1)).length := by
    rw [List.filter_map, List.length_map]
    rfl
  rw [Function.comp_apply, hcount, h r (List.mem_range.1 hr)]
  decide

section Exec

variable {s : State} {t : TileId} {h : Thr} {dt va an : Reg} {k : BitVec 3} {ty : Ty} {off : Nat}

/-- The route of a VROUTE whose expert table stands at `off`. -/
def routing (s : State) (t : TileId) (h : Thr) (dt va : Reg) (k : BitVec 3) (ty : Ty) (off : Nat) : Route where
  num := ((((s.th t h).getD dt).extractLsb' 22 2).toNat + 1) * (512 / tyWidth ty)
  sc e := decodeF (tyFmt ty) (laneOf (tyWidth ty) ((s.th t h).getV (va + BitVec.ofNat 3 (e / (512 / tyWidth ty)))) (e % (512 / tyWidth ty))).toNat
  word := tableWord (s.tile t) off
  want := k.toNat + 1

theorem routing_num_pos : 0 < (routing s t h dt va k ty off).num := by
  refine Nat.mul_pos (Nat.succ_pos _) ?_
  cases ty <;> decide

/-- VROUTE with its table, its credit and its tags sends its messages and goes on. -/
theorem exec_vroute (rd : Ready s t h 2) (hty : ty ≠ .int32) (hva : va.toNat + (((s.th t h).getD dt).extractLsb' 22 2).toNat ≤ 7)
    (landed : Landed (s.th t h) ((List.range ((((s.th t h).getD dt).extractLsb' 22 2).toNat + 1)).map fun i => va + BitVec.ofNat 3 i))
    (own : OwnRead s t ((s.th t h).getA an) (4 + 4 * (routing s t h dt va k ty off).num) 4 off)
    (credit : let R := routing s t h dt va k ty off
      ∀ r, r < R.n → (s.tile t).send.ready (R.handle r) (16 * ((List.range R.n).filter fun j => decide (R.handle j = R.handle r)).length) = true)
    (tags : (routing s t h dt va k ty off).n + (s.tile t).send.sent.length ≤ 64) :
    let R := routing s t h dt va k ty off
    exec (.vroute t h dt va an k ty) s = .next ((s.dispatchAll t h ((R.word 0).extractLsb' 0 16)
      ((List.range R.n).map (R.dispatch ((s.th t h).getD dt)))).finish t h fun y =>
        ({ y with st := { y.st with z := decide (R.n = 0), c := decide (R.n < k.toNat + 1) } }).advance 2) := by
  intro R
  obtain ⟨hlt, hal, hres, hin, herr⟩ := own
  have hlanes : lanes ty = 512 / tyWidth ty := by cases ty <;> rfl
  have hnum : ((bits ((s.th t h).getD dt) 22 2).toNat + 1) * lanes ty = R.num := by rw [hlanes]; rfl
  have hws : toWords (R.num + 1) ((s.tile t).lmem.bytes off (4 + 4 * R.num)) = (List.range (R.num + 1)).map R.word := by
    rw [show 4 + 4 * R.num = 4 * (R.num + 1) by omega]
    exact toWords_table _ _ _
  have hen (e : Nat) (he : e < R.num) : nth (((List.range (R.num + 1)).map R.word).drop 1) e 0 = R.word (1 + e) := by
    rw [drop_one_range, nth_map_range _ he]
  generalize hscores : ((List.range R.num).map fun e =>
    lane ty ((s.th t h).getV (va + BitVec.ofNat 3 (e / lanes ty))) (e % lanes ty)) = scores
  have hsc (e : Nat) (he : e < R.num) : decodeF (tyFmt ty) (nth scores e 0) = R.sc e := by
    rw [← hscores, nth_map_range _ he, lane_eq, hlanes]
    rfl
  have hchosen := Route.chosen_eq (R := R) (ty := ty) (scores := scores) (by rw [← hscores, List.length_map, List.length_range]) hsc hen
  have hds := Route.dispatches_eq (R := R) ((s.th t h).getD dt) routing_num_pos hen
  have hmissing := needs_ready (x := (s.tile t).send) (d := R.dispatch ((s.th t h).getD dt)) (n := R.n) credit
  have hempty : ((List.range R.n).map fun r => (⟨R.at_ r, R.score r⟩ : Expert)).isEmpty = decide (R.n = 0) := by
    rw [Bool.eq_iff_iff, List.isEmpty_iff, decide_eq_true_eq, List.map_eq_nil_iff, List.range_eq_nil]
  change execVroute t h dt va an k ty s = _
  refine congrArg Host.Outcome.next ((issue_of_ready rd _).trans ?_)
  rw [checked, if_pos (decide_eq_true hty), State.vrouteSlot]
  refine (if_neg (Nat.not_lt.2 hva)).trans ((withV_of_landed landed _).trans ?_)
  refine (if_neg (Nat.not_le.2 (hlt.trans (by decide)))).trans ?_
  rw [hnum, ownAccess_of_own h _ hlt hal hres, withRead_of_clean h _ _ hin herr]
  dsimp only
  rw [hws, nth_map_range _ (Nat.succ_pos _), hscores]
  rw [show k.toNat + 1 = R.want from rfl, hchosen, hds, show s.sendSide (.tile t) = (s.tile t).send from rfl, hmissing, hempty, List.length_map, List.length_range,
    List.length_map, List.length_range]
  refine if_neg ?_
  rw [decide_eq_false (not_not.2 rfl), Bool.false_or, 
    decide_eq_false (show ¬ (s.tile t).send.freeTags < R.n from Nat.not_lt.2 (Nat.le_sub_of_add_le tags))]
  decide

end Exec

/-- The messages of the other network to a queue, for one that leaves through the data mesh (R226). -/
theorem others_mesh (x : SendSide) (q : BitVec 16) : x.others q true =
    (x.sent.filter fun e => !e.mesh && e.handles.any fun z => decide (z.extractLsb' 0 16 = q)).map fun e => e.tag := by
  refine congrArg (List.map _) (List.filter_congr fun e _ => ?_)
  cases e.mesh <;> rfl

/-- Settles O15: the ranking is an insertion sort, and the messages leave one by one. -/
theorem expertRouting : Obligations.ExpertRouting := by
  unfold Obligations.ExpertRouting
  intro s t h dt va an k ty off x tl nv w num word sc elig first pos pick n val f32 term total gate handle side count tag msg pkt
    rd hty hva landed own credit tags
  have e := exec_vroute rd hty hva landed own credit tags
  dsimp only at e
  generalize hR : routing s t h dt va k ty off = R at e
  have hlen : R.n ≤ (s.tile t).send.freeList.length := by
    have := (s.tile t).send.length_freeList
    have htags : R.n + (s.tile t).send.sent.length ≤ 64 := hR ▸ tags
    omega
  obtain ⟨hs, hth, hstill, hsent, hentry⟩ := dispatchAll_spec t h ((R.word 0).extractLsb' 0 16) R.n s (R.dispatch ((s.th t h).getD dt)) hlen
    fun _ => Nat.le_succ 2
  generalize s.dispatchAll t h ((R.word 0).extractLsb' 0 16) ((List.range R.n).map (R.dispatch ((s.th t h).getD dt))) = v at e hs hth hstill hsent hentry
  have hfin := hs.modTile (f := fun tl => (tl.issued h).modTh h fun y =>
    (({ y with st := { y.st with z := decide (R.n = 0), c := decide (R.n < k.toNat + 1) } } : Thread).advance 2).slotEnd v.debug (v.th t h).st.ss)
    fun j hj => by rw [Tile.th_modTh, if_neg hj, Tile.issued_th]
  have hsend := State.send_finish v t h fun y =>
    ({ y with st := { y.st with z := decide (R.n = 0), c := decide (R.n < k.toNat + 1) } } : Thread).advance 2
  subst hR
  have hpkts : (List.range (routing s t h dt va k ty off).n).map (fun r => dispatchPkt s t h (((routing s t h dt va k ty off).word 0).extractLsb' 0 16)
      ((routing s t h dt va k ty off).dispatch ((s.th t h).getD dt) r) r ((s.tile t).send.freeList.getD r 0)) =
      (List.range n).map pkt := by
    refine List.map_congr_left fun r _ => ?_
    rw [dispatchPkt, others_mesh]
    rfl
  have hnet : v.net = s.net ++ (List.range n).map pkt := hs.net.trans (congrArg (s.net ++ ·) hpkts)
  refine ⟨_, e, ?_, hnet, fun r hr => (State.tile_finish_ne v hr h _).trans (hs.tiles r hr),
    fun j hj => (State.th_finish_ne v t hj _).trans (hs.threads j hj), ?_, ?_, ?_, fun i hi => ?_⟩
  · have := hfin.frame_net
    rwa [List.length_map, List.length_range] at this
  · rw [State.th_finish_self, hth, Thread.advance_eq_onward, hs.debug]
    rfl
  · refine Eq.trans ?_ (congrArg (fun x => { still (s.tile t) with send := x }) hsend.symm)
    rw [← hstill, State.finish, State.tile_modTile_self, Tile.still_modTh, still_issued]
  · exact (congrArg SendSide.sent hsend).trans hsent
  · intro c g
    obtain ⟨l, hl⟩ := hentry i
    have hg : g = (v.tile t).send.entry i := congrArg (fun x => SendSide.entry x i) hsend
    rw [hg, hl]
    exact ⟨rfl, rfl, rfl, rfl, rfl, rfl⟩

end Sys2Proof.Machine
end

section
/-! O18, tile loads and stores: the stretches of a piece, the bytes of a register, and the slots of TLD and TST (R129–R131). From
them the obligation O18. -/
namespace Sys2Proof.Machine

open Sys2Proof.Safety

/-! ## The bytes of a tile register -/

theorem leNat_div_mod (l : List Byte) : ∀ j, j < l.length → leNat l / 2 ^ (8 * j) % 2 ^ 8 = (l.getD j 0).toNat := by
  induction l with
  | nil => exact fun j hj => absurd hj (Nat.not_lt_zero j)
  | cons b l ih =>
    intro j hj
    cases j with
    | zero =>
      rw [leNat, List.getD_cons_zero, Nat.mul_zero, Nat.pow_zero, Nat.div_one]
      have := b.isLt
      omega
    | succ j =>
      rw [leNat, List.getD_cons_succ, ← ih j (Nat.lt_of_succ_lt_succ hj), show 8 * (j + 1) = 8 + 8 * j by ring, Nat.pow_add, ← Nat.div_div_eq_div_mul]
      have hb : (b.toNat + 256 * leNat l) / 2 ^ 8 = leNat l := by
        have := b.isLt
        omega
      rw [hb]

/-- The first `n` bytes of a list, written into a register from byte `o`. -/
theorem tileBytes_put_list (r : TileReg) (o : Nat) {n : Nat} {l : List Byte} (hl : n ≤ l.length) {i : Nat} (hi : i < 2048) :
    tileBytes (r.put o n (leNat (l.take n))) i 1 = if o ≤ i ∧ i < o + n then (l.getD (i - o) 0).setWidth 8 else tileBytes r i 1 := by
  rw [tileBytes_put _ _ _ _ hi]
  refine ite_congr rfl (fun h => ?_) fun _ => rfl
  have hlen : (l.take n).length = n := by rw [List.length_take, Nat.min_eq_left hl]
  have hj : i - o < n := by omega
  refine BitVec.eq_of_toNat_eq ?_
  have hpow : 2 ^ (8 * n) = 2 ^ (8 * (i - o)) * 2 ^ (8 * (n - (i - o))) := by rw [← Nat.pow_add]; congr 1; omega
  rw [BitVec.toNat_setWidth, Nat.mod_eq_of_lt (l.getD (i - o) 0).isLt, toNat_extractLsb', BitVec.toNat_ofNat, hpow, Nat.mod_mul_right_div_self,
    Nat.mod_mod_of_dvd _ (Nat.pow_dvd_pow 2 (by omega)), leNat_div_mod _ _ (by rw [hlen]; exact hj)]
  rw [List.getD_eq_getElem _ _ (by rw [hlen]; exact hj), List.getD_eq_getElem _ _ (by omega), List.getElem_take]

theorem leBytes_get (r : TileReg) (m n : Nat) :
    leBytes n (r.get m n) = (List.range n).map fun i => r.bytes.extractLsb' (8 * (m + i)) 8 := by
  rw [leBytes_eq]
  refine List.map_congr_left fun i hi => BitVec.eq_of_toNat_eq ?_
  have hi' := List.mem_range.1 hi
  have hpow : 2 ^ (8 * n) = 2 ^ (8 * i) * 2 ^ (8 * (n - i)) := by rw [← Nat.pow_add]; congr 1; omega
  rw [TileReg.get, BitVec.toNat_ofNat, toNat_extractLsb', show 256 ^ i = 2 ^ (8 * i) by rw [Nat.pow_mul], hpow, Nat.mod_mul_right_div_self,
    Nat.mod_mod_of_dvd _ (Nat.pow_dvd_pow 2 (by omega)), Nat.div_div_eq_div_mul, ← Nat.pow_add, Nat.mul_add]

/-- Tile register `q` with `cnt` rows from row `r0` taken from a list of bytes (R131). -/
def TileReg.loaded (q : TileReg) (r0 cnt : Nat) (buf : List Byte) : TileReg :=
  if cnt = 0 then q else { q.put (r0 * q.len) (cnt * q.len) (leNat (buf.take (cnt * q.len))) with tuse := true }

theorem loaded_spec (q : TileReg) (r0 : Nat) {cnt : Nat} {buf : List Byte} (hcnt : cnt * q.len ≤ buf.length) :
    (q.loaded r0 cnt buf).rows = q.rows ∧ (q.loaded r0 cnt buf).len = q.len ∧
      (q.loaded r0 cnt buf).tuse = (q.tuse || decide (cnt ≠ 0)) ∧
      ∀ i, i < 2048 → tileBytes (q.loaded r0 cnt buf) i 1 =
        if r0 * q.len ≤ i ∧ i < (r0 + cnt) * q.len then (buf.getD (i - r0 * q.len) 0).setWidth 8 else tileBytes q i 1 := by
  unfold TileReg.loaded
  split_ifs with h0
  · refine ⟨rfl, rfl, by rw [h0, decide_eq_false (not_not.2 rfl), Bool.or_false], fun i _ => (if_neg ?_).symm⟩
    rw [h0, Nat.add_zero]
    omega
  · refine ⟨rfl, rfl, by rw [decide_eq_true h0, Bool.or_true], fun i hi => ?_⟩
    rw [Nat.add_mul]
    exact tileBytes_put_list q (r0 * q.len) hcnt hi

/-! ## Stretches (R131) -/

theorem sum_filter_pos (l : List (DWord × Nat)) :
    ((l.filter fun p => decide (0 < p.2)).map fun p => p.2).sum = (l.map fun p => p.2).sum := by
  induction l with
  | nil => rfl
  | cons p l ih =>
    rw [List.filter_cons, List.map_cons, List.sum_cons, ← ih]
    split_ifs with hp
    · rfl
    · rw [decide_eq_true_eq] at hp
      omega

/-- Intervals cut at the multiples of `w` have no more bytes than the whole. -/
theorem sum_cuts {w : Nat} (hw : 0 < w) (m n k : Nat) : ((List.range k).map fun i =>
    min (m + n) ((m / w + i + 1) * w) - max m ((m / w + i) * w)).sum = min (m + n) (max m ((m / w + k) * w)) - m := by
  induction k with
  | zero =>
    have := Nat.div_mul_le_self m w
    simp only [List.range_zero, List.map_nil, List.sum_nil, Nat.add_zero]
    omega
  | succ k ih =>
    rw [List.range_succ, List.map_append, List.sum_append, ih]
    have hstep : (m / w + (k + 1)) * w = (m / w + k) * w + w := by ring
    have hlt : m < (m / w + k) * w + w := by
      have h1 := Nat.lt_div_mul_add hw (a := m)
      have h2 : m / w * w ≤ (m / w + k) * w := Nat.mul_le_mul_right w (Nat.le_add_right _ _)
      omega
    simp only [List.map_cons, List.map_nil, List.sum_cons, List.sum_nil, hstep, show m / w + k + 1 = m / w + (k + 1) by omega]
    generalize (m / w + k) * w = a at *
    omega

theorem sum_stretches {len : Nat} (hlen : 0 < len) (base : DWord) (stride : Word) (m n : Nat) :
    ((stretches base stride len m n).map fun p => p.2).sum ≤ n := by
  rw [stretches, sum_filter_pos, List.map_map, Function.comp_def]
  dsimp only
  rw [sum_cuts hlen]
  omega

theorem sum_pieceCuts {len : Nat} (hlen : 0 < len) (base : DWord) (stride : Word) {lo hi : Nat} (h : lo ≤ hi) :
    ((pieceCuts base stride len lo hi).map fun p => p.2).sum ≤ hi - lo := by
  have hflat (f : Nat → List (DWord × Nat)) (g : Nat → Nat) (l : List Nat) (hf : ∀ i, ((f i).map fun p => p.2).sum ≤ g i) :
      ((l.flatMap f).map fun p => p.2).sum ≤ (l.map g).sum := by
    induction l with
    | nil => exact Nat.le_refl _
    | cons i l ih =>
      rw [List.flatMap_cons, List.map_append, List.sum_append, List.map_cons, List.sum_cons]
      exact Nat.add_le_add (hf i) ih
  refine (hflat _ _ _ fun i => sum_stretches hlen _ _ _ _).trans ?_
  have hsum := sum_cuts (w := 256) (by decide) lo (hi - lo) (hi / 256 + 1 - lo / 256)
  rw [Nat.add_sub_cancel' h] at hsum
  rw [hsum]
  omega

/-- No bytes make no stretch. -/
theorem stretches_zero (base : DWord) (stride : Word) (len m : Nat) : stretches base stride len m 0 = [] := by
  refine List.filter_eq_nil_iff.2 fun p hp => ?_
  obtain ⟨i, -, rfl⟩ := List.mem_map.1 hp
  dsimp only
  rw [decide_eq_true_eq]
  omega

/-- The stretches of a whole tile are its rows. -/
theorem stretches_rows {len : Nat} (hlen : 0 < len) (base : DWord) (stride : Word) (rows : Nat) :
    stretches base stride len 0 (rows * len) = (List.range rows).map fun i => (rowAddr base stride i, len) := by
  have hrow (i : Nat) : (rowAddr base stride (0 / len + i) + BitVec.ofNat 64 (max 0 ((0 / len + i) * len) - (0 / len + i) * len),
      min (0 + rows * len) ((0 / len + i + 1) * len) - max 0 ((0 / len + i) * len)) =
      (rowAddr base stride i, min (rows * len) (i * len + len) - i * len) := by
    rw [Nat.zero_div, Nat.zero_add, Nat.zero_add, Nat.zero_max, Nat.sub_self, BitVec.add_zero, Nat.add_mul, Nat.one_mul]
  have hbelow : (List.range rows).map (fun i => (rowAddr base stride i, min (rows * len) (i * len + len) - i * len)) =
      (List.range rows).map fun i => (rowAddr base stride i, len) := by
    refine List.map_congr_left fun i hi => ?_
    have h : i * len + len ≤ rows * len := by
      rw [← Nat.succ_mul]
      exact Nat.mul_le_mul_right len (List.mem_range.1 hi)
    rw [Nat.min_eq_right h, Nat.add_sub_cancel_left]
  have habove (i : Nat) (hi : rows ≤ i) : min (rows * len) (i * len + len) - i * len = 0 := by
    have := Nat.mul_le_mul_right len hi
    omega
  rw [stretches, Nat.mul_div_cancel rows hlen]
  dsimp only
  simp only [hrow]
  rw [List.range_succ, List.range_succ, List.map_append, List.map_append, List.filter_append, List.filter_append, hbelow]
  simp only [List.map_cons, List.map_nil, habove rows (Nat.le_refl rows), habove (rows + 1) (Nat.le_succ rows), Nat.lt_irrefl, decide_false,
    Bool.false_eq_true, not_false_eq_true, List.filter_cons_of_neg, List.filter_nil, List.append_nil]
  refine List.filter_eq_self.2 fun p hp => ?_
  obtain ⟨i, -, rfl⟩ := List.mem_map.1 hp
  exact decide_eq_true hlen

theorem pieceCuts_one {base : DWord} {stride : Word} {len n : Nat} (hn : n ≤ 256) :
    pieceCuts base stride len 0 n = stretches base stride len 0 n := by
  rw [pieceCuts, Nat.zero_div, Nat.sub_zero]
  rcases Nat.lt_or_eq_of_le hn with h | rfl
  · rw [Nat.div_eq_of_lt h]
    simp [Nat.min_eq_left hn]
  · simp [List.range_succ, stretches_zero]

/-! ## The bytes that a list of stretches writes -/

theorem mem_withBytes (l : List (DWord × Nat)) : ∀ b : List Byte, (l.map fun p => p.2).sum ≤ b.length →
    ∀ p ∈ withBytes l b, (p.1, p.2.length) ∈ l := by
  induction l with
  | nil => exact fun _ _ p hp => absurd hp List.not_mem_nil
  | cons q l ih =>
    intro b hb p hp
    rw [List.map_cons, List.sum_cons] at hb
    rcases List.mem_cons.1 hp with rfl | hp
    · rw [List.length_take, Nat.min_eq_left (by omega)]
      exact List.mem_cons_self
    · exact List.mem_cons_of_mem _ (ih _ (by rw [List.length_drop]; omega) p hp)

/-- What a byte holds once a list of bytes has been written at addresses, in turn. -/
def lastAt (l : List (Nat × Byte)) (old : Byte) (b : Nat) : Byte :=
  (((l.filter fun p => decide (p.1 = b)).getLast?).map fun p => p.2).getD old

theorem lastAt_append (l m : List (Nat × Byte)) (old : Byte) (b : Nat) : lastAt (l ++ m) old b = lastAt m (lastAt l old b) b := by
  unfold lastAt
  rw [List.filter_append, List.getLast?_append]
  cases (m.filter fun p => decide (p.1 = b)).getLast? <;> rfl

theorem lastAt_run (off n : Nat) (g : Nat → Byte) (old : Byte) (b : Nat) :
    lastAt ((List.range n).map fun j => (off + j, g j)) old b = if off ≤ b ∧ b < off + n then g (b - off) else old := by
  induction n with
  | zero => exact (if_neg (by omega)).symm
  | succ n ih =>
    rw [List.range_succ, List.map_append, lastAt_append, ih]
    by_cases hb : off + n = b
    · rw [if_pos (show off ≤ b ∧ b < off + (n + 1) by omega)]
      subst hb
      simp [lastAt]
    · rw [show ((List.map (fun j => (off + j, g j)) [n])) = [(off + n, g n)] from rfl, lastAt, List.filter_cons_of_neg (by simpa using hb)]
      refine if_congr ?_ rfl rfl
      omega

/-- The writes that stretches of bytes stand for, in the own scratchpad. -/
def storesOf (s : State) (t : TileId) (out : List (DWord × List Byte)) : List (Nat × Byte) :=
  out.flatMap fun p => (List.range p.2.length).map fun i => ((s.ownOff t p.1 p.2.length true).getD 0 + i, p.2.getD i 0)

/-- Where an address lies in the own scratchpad does not rest on what the memory holds. -/
theorem ownOff_congr {s u : State} {t : TileId} {m : Memory} (h : u.tile t = { s.tile t with lmem := m }) (a : DWord) (n : Nat) (w : Bool) :
    u.ownOff t a n w = s.ownOff t a n w := by
  rw [State.ownOff, State.ownOff, State.resolveLocal, State.resolveLocal, h]
  rfl

theorem errWords_of_nil {tl : Tile} (h : tl.lerr = []) (off n : Nat) : tl.errWords off n = [] := by
  rw [Tile.errWords, h]
  rfl

theorem writeBad_of_nil {tl : Tile} (h : tl.lerr = []) (off : Nat) (bs : List (Option Byte)) : tl.writeBad off bs = none := by
  rw [Tile.writeBad, errWords_of_nil h]
  rfl

/-- Stretches that the own scratchpad holds, written into a memory without errors, change its bytes and nothing else. -/
theorem storeCuts_spec {t : TileId} (out : List (DWord × List Byte)) : ∀ s : State, (s.tile t).lerr = [] →
    (∀ p ∈ out, (s.ownOff t p.1 p.2.length true).isSome = true) →
    OnlyTile s (s.storeCuts t out) t ∧ ∃ m, (s.storeCuts t out).tile t = { s.tile t with lmem := m } ∧
      ∀ b, m.byte b = lastAt (storesOf s t out) ((s.tile t).lmem.byte b) b := by
  induction out with
  | nil => exact fun s _ _ => ⟨State.onlyTile_refl s t, (s.tile t).lmem, rfl, fun _ => rfl⟩
  | cons p out ih =>
    intro s hlerr hown
    obtain ⟨off, hoff⟩ := Option.isSome_iff_exists.1 (hown p List.mem_cons_self)
    have hstep : s.storeCuts t (p :: out) = (s.modTile t fun tl => tl.lmWrite 0 off (p.2.map some)).storeCuts t out := by
      rw [State.storeCuts, hoff]
      dsimp only
      rw [writeBad_of_nil hlerr]
      rfl
    have hlm : (s.modTile t fun tl => tl.lmWrite 0 off (p.2.map some)).tile t =
        { s.tile t with lmem := (s.tile t).lmem.setMasked off (p.2.map some) } :=
      (State.tile_modTile_self _ _ _).trans (Tile.lmWrite_of_clean 0 (errWords_of_nil hlerr _ _))
    have honly : OnlyTile s (s.modTile t fun tl => tl.lmWrite 0 off (p.2.map some)) t := State.onlyTile_modTile _ _ _
    generalize s.modTile t (fun tl => tl.lmWrite 0 off (p.2.map some)) = v at hstep hlm honly
    obtain ⟨ho, m, hm, hbyte⟩ := ih v (by rw [hlm]; exact hlerr) fun q hq => by
      rw [ownOff_congr hlm]
      exact hown q (List.mem_cons_of_mem _ hq)
    rw [hstep]
    refine ⟨OnlyTile.trans honly ho, m, by rw [hm, hlm], fun b => ?_⟩
    have hstores : storesOf v t out = storesOf s t out := by
      unfold storesOf
      simp only [ownOff_congr hlm]
    have hfirst : storesOf s t (p :: out) = ((List.range p.2.length).map fun i => (off + i, p.2.getD i 0)) ++ storesOf s t out := by
      rw [storesOf, List.flatMap_cons, hoff]
      rfl
    have hw := Tile.wrote_lmWrite (s.tile t) 0 off p.2 b
    rw [Tile.lmem_lmWrite] at hw
    rw [hbyte, hstores, hfirst, lastAt_append, lastAt_run, hlm]
    exact congrArg (fun y => lastAt _ y b) hw

end Sys2Proof.Machine
end

section
/-! O18, the slots of TLD and TST (R129–R131). From them the obligation O18. -/
namespace Sys2Proof.Machine

open Sys2Proof.Safety

section Slots

variable {s : State} {t : TileId} {h : Thr} {k an r : Reg} {n : Nat} {st : List (DWord × Nat)}

/-- The bytes of a slot of TLD behind those that earlier slots have kept. -/
def tldBuf (s : State) (t : TileId) (h : Thr) (st : List (DWord × Nat)) : List Byte :=
  (s.th t h).part ++ st.flatMap fun p => (s.tile t).lmem.bytes ((s.ownOff t p.1 p.2 false).getD 0) p.2

/-- A slot of TLD that meets no error of local memory. -/
theorem tld_slot (rd : Ready s t h 2) (hn : min 256 (((s.tile t).reg k).size - (s.th t h).moved) = n)
    (hst : stretches ((s.th t h).getA an) ((s.th t h).getD r) ((s.tile t).reg k).len (s.th t h).moved n = st)
    (hf : s.pieceFault t ((s.th t h).getA an) ((s.th t h).getD r) ((s.tile t).reg k).rows st false = none)
    (hin : (s.tile t).inbuf.length < 16)
    (hclean : ∀ p ∈ st, (s.tile t).errWords ((s.ownOff t p.1 p.2 false).getD 0) p.2 = []) :
    let q := (s.tile t).reg k
    let buf := tldBuf s t h st
    let cnt := buf.length / q.len
    RetiresAs (.tld t h k an r) s t h
      (if cnt = 0 then s.tile t else (s.tile t).modReg k fun _ => q.loaded (((s.th t h).moved - (s.th t h).part.length) / q.len) cnt buf)
      ((s.th t h).pieceEnd ((s.th t h).moved + n) q.size (buf.drop (cnt * q.len))) := by
  intro q buf cnt
  have hws : (st.map fun p => ((s.ownOff t p.1 p.2 false).getD 0, p.2)).flatMap (fun p => (s.tile t).errWords p.1 p.2) = [] := by
    rw [List.flatMap_map, List.flatMap_eq_nil_iff]
    exact hclean
  generalize hv : (if cnt = 0 then s else s.modTile t fun tl => tl.modReg k fun g =>
    { g.put (((s.th t h).moved - (s.th t h).part.length) / q.len * q.len) (cnt * q.len) (leNat (buf.take (cnt * q.len))) with tuse := true }) = v
  have e : exec (.tld t h k an r) s = .next (v.finish t h fun y =>
      y.pieceEnd ((s.th t h).moved + n) q.size (buf.drop (cnt * q.len))) := by
    change execTld t h k an r s = _
    refine congrArg Host.Outcome.next ((issue_of_ready rd _).trans ?_)
    dsimp only
    rw [hn, hst, hf]
    dsimp only
    rw [hws, withPort_of_room h _ hin]
    refine (if_neg (by decide)).trans ?_
    rw [show firstBad [] = none from rfl]
    dsimp only
    rw [List.flatMap_map, ← hv]
    rfl
  have htile : v.tile t = if cnt = 0 then s.tile t else (s.tile t).modReg k fun _ =>
      q.loaded (((s.th t h).moved - (s.th t h).part.length) / q.len) cnt buf := by
    rw [← hv]
    split_ifs with h0
    · rfl
    · rw [State.tile_modTile_self, TileReg.loaded, if_neg h0]
      rfl
  have honly : OnlyTile s v t := by
    rw [← hv]
    split_ifs
    · exact State.onlyTile_refl s t
    · exact State.onlyTile_modTile _ _ _
  have hthr : (v.tile t).thr = (s.tile t).thr := by
    rw [htile]
    split_ifs <;> rfl
  have hth : v.th t h = s.th t h := congrArg (fun m => SMap.get _ m h.toNat) hthr
  have key := State.finish_retiresAs_of_onlyTile e honly (by rw [hth])
  rwa [hth, htile] at key

/-- The bytes of a slot of TST behind those that earlier slots have kept. -/
def tstBuf (s : State) (t : TileId) (h : Thr) (k : Reg) (n : Nat) : List Byte :=
  (s.th t h).part ++ (List.range n).map fun i => ((s.tile t).reg k).bytes.extractLsb' (8 * ((s.th t h).moved + i)) 8

/-- A slot of TST into a memory without errors. -/
theorem tst_slot (rd : Ready s t h 2) (hn : min 256 (((s.tile t).reg k).size - (s.th t h).moved) = n) (hlen : 0 < ((s.tile t).reg k).len)
    (hst : stretches ((s.th t h).getA an) ((s.th t h).getD r) ((s.tile t).reg k).len (s.th t h).moved n = st) {cuts : List (DWord × Nat)}
    (hcuts : let q := (s.tile t).reg k
      let row0 := ((s.th t h).moved - (s.th t h).part.length) / q.len
      pieceCuts ((s.th t h).getA an) ((s.th t h).getD r) q.len (row0 * q.len) ((row0 + (tstBuf s t h k n).length / q.len) * q.len) = cuts)
    (hf : s.pieceFault t ((s.th t h).getA an) ((s.th t h).getD r) ((s.tile t).reg k).rows (st ++ cuts) true = none)
    (hin : (s.tile t).inbuf.length < 16) (hlerr : (s.tile t).lerr = []) (hpend : (s.th t h).moved = 0 → (s.tile t).tpnd k = false) :
    let q := (s.tile t).reg k
    let buf := tstBuf s t h k n
    ∃ m, RetiresAs (.tst t h k an r) s t h { s.tile t with lmem := m }
        ((s.th t h).pieceEnd ((s.th t h).moved + n) q.size (buf.drop (buf.length / q.len * q.len))) ∧
      ∀ b, m.byte b = lastAt (storesOf s t (withBytes cuts buf)) ((s.tile t).lmem.byte b) b := by
  intro q buf
  have hsum : (cuts.map fun p => p.2).sum ≤ buf.length := by
    rw [← hcuts]
    refine (sum_pieceCuts hlen _ _ (Nat.mul_le_mul_right _ (Nat.le_add_right _ _))).trans ?_
    rw [Nat.add_mul, Nat.add_sub_cancel_left]
    exact Nat.div_mul_le_self _ _
  have hheld : ∀ p ∈ st ++ cuts, (s.ownOff t p.1 p.2 true).isSome = true := by
    have hbad : (st ++ cuts).filter (fun p => (s.ownOff t p.1 p.2 true).isNone) = [] := by
      rw [State.pieceFault] at hf
      split_ifs at hf
      revert hf
      cases (st ++ cuts).filter fun p => (s.ownOff t p.1 p.2 true).isNone with
      | nil => exact fun _ => rfl
      | cons p l => exact nofun
    intro p hp
    have := List.filter_eq_nil_iff.1 hbad p hp
    rwa [Bool.not_eq_true, Option.isNone_eq_false_iff] at this
  have hown : ∀ p ∈ withBytes cuts buf, (s.ownOff t p.1 p.2.length true).isSome = true := fun p hp =>
    hheld _ (List.mem_append_right _ (mem_withBytes cuts buf hsum p hp))
  obtain ⟨honly, m, htile, hbyte⟩ := storeCuts_spec (withBytes cuts buf) s hlerr hown
  have hnobad (f : DWord × List Byte → Option Nat) (hnone : ∀ p, f p = none) : (withBytes cuts (tstBuf s t h k n)).filterMap f = [] :=
    List.filterMap_eq_nil_iff.2 fun p _ => hnone p
  generalize hv : s.storeCuts t (withBytes cuts buf) = v at honly htile
  have e : exec (.tst t h k an r) s = .next (v.finish t h fun y =>
      y.pieceEnd ((s.th t h).moved + n) q.size (buf.drop (buf.length / q.len * q.len))) := by
    change execTst t h k an r s = _
    refine congrArg Host.Outcome.next ((issue_of_ready rd _).trans ?_)
    dsimp only
    rw [hn, leBytes_get, ← tstBuf, hcuts, hst, hf]
    dsimp only
    have hgood (p : DWord × List Byte) : (match s.ownOff t p.1 p.2.length true with
        | some off => (s.tile t).writeBad off (p.2.map some)
        | none => none) = none := by
      cases s.ownOff t p.1 p.2.length true with
      | none => rfl
      | some off => exact writeBad_of_nil hlerr _ _
    by_cases h0 : (s.th t h).moved = 0
    · refine (if_pos h0).trans ?_
      rw [withT_of_free (hpend h0), withPort_of_room h _ hin, hnobad, hv]
      exact hgood
    · refine (if_neg h0).trans ?_
      rw [withPort_of_room h _ hin, hnobad, hv]
      exact hgood
  have hth : v.th t h = s.th t h := by rw [State.th, htile]; rfl
  have key := State.finish_retiresAs_of_onlyTile e honly (by rw [hth])
  rw [hth, htile] at key
  exact ⟨m, key, hbyte⟩

end Slots

/-! ## Whole slots and whole tiles -/

theorem flatMap_range_run {α : Type} (f : Nat → α) (len rows : Nat) :
    (List.range rows).flatMap (fun r => (List.range len).map fun i => f (r * len + i)) = (List.range (rows * len)).map f := by
  induction rows with
  | zero => rw [Nat.zero_mul]; rfl
  | succ rows ih =>
    rw [List.range_succ, List.flatMap_append, ih, Nat.succ_mul, List.range_add, List.map_append, List.flatMap_cons, List.flatMap_nil,
      List.append_nil, List.map_map]
    rfl

theorem Memory.bytes_eq_map (m : Memory) (n : Nat) : ∀ a, m.bytes a n = (List.range n).map fun i => m.byte (a + i) := by
  induction n with
  | zero => exact fun _ => rfl
  | succ n ih =>
    intro a
    rw [Memory.bytes_add, ih, List.range_succ, List.map_append]
    rfl

/-- The bytes of rows that lie back to back. -/
theorem bytes_rows (m : Memory) (off len rows : Nat) :
    (List.range rows).flatMap (fun i => m.bytes (off + i * len) len) = m.bytes off (rows * len) := by
  rw [Memory.bytes_eq_map, ← flatMap_range_run]
  simp only [Memory.bytes_eq_map, Nat.add_assoc]

theorem withBytes_rows (g : Nat → DWord) (len : Nat) (rows : Nat) : ∀ (k : Nat) (b : List Byte),
    withBytes ((List.range rows).map fun i => (g (k + i), len)) b =
      (List.range rows).map fun i => (g (k + i), (b.drop (i * len)).take len) := by
  induction rows with
  | zero => exact fun _ _ => rfl
  | succ rows ih =>
    intro k b
    have hsucc {α : Type} (f : Nat → α) : (List.range (rows + 1)).map f = f 0 :: (List.range rows).map fun i => f (i + 1) := by
      rw [List.range_succ_eq_map, List.map_cons, List.map_map]
      rfl
    rw [hsucc, hsucc, withBytes, Nat.zero_mul, List.drop_zero]
    refine congrArg₂ _ rfl ?_
    have h := ih (k + 1) (b.drop len)
    simp only [Nat.add_assoc, Nat.add_comm 1, List.drop_drop] at h
    simpa only [Nat.add_comm len, ← Nat.succ_mul, Nat.succ_eq_add_one] using h

section Whole

variable {s : State} {t : TileId} {h : Thr} {k an r : Reg} {off : Nat}

/-- Rows that lie back to back in the own scratchpad, from `off`. -/
def RowsAt (s : State) (t : TileId) (base : DWord) (stride : Word) (q : TileReg) (off : Nat) (write : Bool) : Prop :=
  ∀ i, i < q.rows → s.ownOff t (rowAddr base stride i) q.len write = some (off + i * q.len)

theorem storesOf_rows {base : DWord} {stride : Word} {q : TileReg} (fit : RowsAt s t base stride q off true) {b : List Byte}
    (hb : b.length = q.rows * q.len) :
    storesOf s t (withBytes ((List.range q.rows).map fun i => (rowAddr base stride i, q.len)) b) =
      (List.range (q.rows * q.len)).map fun j => (off + j, b.getD j 0) := by
  have h := withBytes_rows (rowAddr base stride) q.len q.rows 0 b
  simp only [Nat.zero_add] at h
  rw [h, storesOf, List.flatMap_map, ← flatMap_range_run]
  refine List.flatMap_congr fun i hi => ?_
  have hi' := List.mem_range.1 hi
  have hle : i * q.len + q.len ≤ q.rows * q.len := by
    rw [← Nat.succ_mul]
    exact Nat.mul_le_mul_right _ hi'
  have hlen : ((b.drop (i * q.len)).take q.len).length = q.len := by
    rw [List.length_take, List.length_drop, hb]
    omega
  dsimp only
  rw [hlen, fit i hi', Option.getD_some]
  refine List.map_congr_left fun j hj => ?_
  have hj' := List.mem_range.1 hj
  rw [Nat.add_assoc, List.getD_eq_getElem?_getD, List.getElem?_take_of_lt hj', List.getElem?_drop, ← List.getD_eq_getElem?_getD]

theorem pieceFault_rows {base : DWord} {stride : Word} {q : TileReg} {write : Bool} (fit : RowsAt s t base stride q off write)
    {st : List (DWord × Nat)} (hst : ∀ p ∈ st, ∃ i, i < q.rows ∧ p = (rowAddr base stride i, q.len)) (hb : base.toNat < 2 ^ 48)
    (hl : (rowAddr base stride (q.rows - 1)).toNat < 2 ^ 48) (hba : base.toNat % 4 = 0) (hsa : stride.toNat % 4 = 0) :
    s.pieceFault t base stride q.rows st write = none := by
  rw [State.pieceFault_of_formed st write hb hl hba hsa, List.find?_eq_none.2 fun p hp => ?_]
  · rfl
  · obtain ⟨i, hi, rfl⟩ := hst p hp
    rw [fit i hi]
    exact Bool.false_ne_true

theorem mem_rows {g : Nat → DWord} {len rows : Nat} {p : DWord × Nat} (hp : p ∈ (List.range rows).map fun i => (g i, len)) :
    ∃ i, i < rows ∧ p = (g i, len) := by
  obtain ⟨i, hi, rfl⟩ := List.mem_map.1 hp
  exact ⟨i, List.mem_range.1 hi, rfl⟩

end Whole

/-- Settles O18, from the slot of a TLD and of a TST. -/
theorem tileMemory : Obligations.TileMemory := by
  unfold Obligations.TileMemory
  intro s t h k an r off x tl q base n fit piece local_ moved row0
  refine ⟨fun rd hin hlerr hmv hn => ⟨?_, ?_⟩, ?_⟩
  · intro hf new buf cnt
    have hpiece : min 256 (q.size - x.moved) = 256 := Nat.min_eq_left (Nat.le_sub_of_add_le (by omega : 256 + x.moved ≤ n))
    obtain ⟨u, he, honly, hth, hothers, hstill⟩ := tld_slot rd hpiece rfl hf hin fun p _ => errWords_of_nil hlerr _ _
    obtain ⟨hrows, hlen, htuse, hbytes⟩ := loaded_spec q row0 (cnt := cnt) (buf := buf) (Nat.div_mul_le_self _ _)
    refine ⟨u, q.loaded row0 cnt buf, ⟨he, honly, fun j hj => (hothers j hj).trans ?_, hth.trans ?_⟩, hrows, hlen, htuse, hbytes, hstill⟩
    · split_ifs <;> rfl
    · exact congrArg (Thread.slotEnd _ _) (if_neg (Nat.not_le.2 hmv))
  · intro new buf cnt rows hf hpend
    have hpiece : min 256 (q.size - x.moved) = 256 := Nat.min_eq_left (Nat.le_sub_of_add_le (by omega : 256 + x.moved ≤ n))
    have hpos : 0 < q.len := by
      refine Nat.pos_of_ne_zero fun h0 => ?_
      have h1 : n = 0 := by rw [show n = q.rows * q.len from rfl, h0, Nat.mul_zero]
      omega
    obtain ⟨m, ⟨u, he, honly, hth, hothers, hstill⟩, hbyte⟩ := tst_slot rd hpiece hpos rfl rfl hf hin hlerr hpend
    have hm : (u.tile t).lmem = m := (congrArg Tile.lmem hstill :)
    refine ⟨u, ⟨he, honly, hothers, hth.trans ?_⟩, ?_, ?_⟩
    · exact congrArg (Thread.slotEnd _ _) (if_neg (Nat.not_le.2 hmv))
    · rw [hm]
      exact hstill
    · intro written b
      rw [hm]
      exact hbyte b
  · intro rd hmv hpart hrows hlen hn hlast hbase hba hsa hin
    have hpos : 0 < q.len := Nat.lt_of_lt_of_le (by decide) hlen
    have hpiece : min 256 (q.size - x.moved) = n := by
      rw [hmv, Nat.sub_zero]
      exact Nat.min_eq_right hn
    have hst : stretches base (x.getD r) q.len x.moved n = (List.range q.rows).map fun i => (rowAddr base (x.getD r) i, q.len) := by
      rw [hmv]
      exact stretches_rows hpos _ _ _
    have hcnt (buf : List Byte) (hb : buf.length = n) : buf.length / q.len = q.rows := by
      rw [hb]
      exact Nat.mul_div_cancel _ hpos
    have hend (buf : List Byte) : x.pieceEnd (x.moved + n) q.size buf = onward x 2 := by
      have hx : { x with moved := 0, part := [] } = x := by rw [← hmv, ← hpart]
      refine (if_pos (Nat.le_add_left n x.moved)).trans ?_
      rw [hx, Thread.advance_eq_onward]
    refine ⟨fun hfit _ hclean => ?_, fun hfit hpend hlerr => ?_⟩
    · have hbuf : tldBuf s t h ((List.range q.rows).map fun i => (rowAddr base (x.getD r) i, q.len)) = tl.lmem.bytes off n := by
        rw [tldBuf, show (s.th t h).part = [] from hpart, List.nil_append, List.flatMap_map, ← bytes_rows]
        refine List.flatMap_congr fun i hi => ?_
        rw [show s.ownOff t (rowAddr base (x.getD r) i) q.len false = _ from hfit i (List.mem_range.1 hi)]
        rfl
      have key := tld_slot rd hpiece hst (pieceFault_rows hfit (fun p hp => mem_rows hp) hbase hlast hba hsa) hin fun p hp => by
        obtain ⟨i, hi, rfl⟩ := mem_rows hp
        rw [show s.ownOff t (rowAddr base (x.getD r) i) q.len false = _ from hfit i hi]
        exact hclean i hi
      have hlenb : (tl.lmem.bytes off n).length = n := Memory.length_bytes _ _ _
      dsimp only at key
      rw [hbuf, hcnt _ hlenb, if_neg (Nat.pos_iff_ne_zero.1 hrows), hend] at key
      obtain ⟨h1, h2, h3, h4⟩ := loaded_spec q ((x.moved - x.part.length) / q.len) (cnt := q.rows) (buf := tl.lmem.bytes off n)
        (by rw [hlenb])
      have hzero : (x.moved - x.part.length) / q.len = 0 := by rw [hmv, Nat.zero_sub, Nat.zero_div]
      refine ⟨_, h1, h2, h3.trans ?_, fun i hi => (h4 i hi).trans ?_, key⟩
      · rw [decide_eq_true (Nat.pos_iff_ne_zero.1 hrows), Bool.or_true]
      · rw [hzero, Nat.zero_mul, Nat.zero_add, Nat.sub_zero]
        by_cases hi' : i < n
        · rw [if_pos hi', if_pos ⟨Nat.zero_le i, hi'⟩, Memory.getD_bytes _ _ _ _ hi']
        · rw [if_neg hi', if_neg fun h => hi' h.2]
    · have hlenb : (tstBuf s t h k n).length = n := by
        rw [tstBuf, show (s.th t h).part = [] from hpart, List.nil_append, List.length_map, List.length_range]
      have hzero : ((s.th t h).moved - (s.th t h).part.length) / ((s.tile t).reg k).len = 0 := by
        rw [show (s.th t h).moved = 0 from hmv, Nat.zero_sub, Nat.zero_div]
      have hcuts : pieceCuts base (x.getD r) q.len (((s.th t h).moved - (s.th t h).part.length) / q.len * q.len)
          ((((s.th t h).moved - (s.th t h).part.length) / q.len + (tstBuf s t h k n).length / q.len) * q.len) =
            (List.range q.rows).map fun i => (rowAddr base (x.getD r) i, q.len) := by
        rw [hzero, hcnt _ hlenb, Nat.zero_mul, Nat.zero_add, pieceCuts_one hn]
        exact stretches_rows hpos _ _ _
      obtain ⟨m, ⟨u, he, honly, hth, hothers, hstill⟩, hbyte⟩ := tst_slot rd hpiece hpos hst hcuts
        (pieceFault_rows hfit (fun p hp => (List.mem_append.1 hp).elim mem_rows mem_rows) hbase hlast hba hsa) hin hlerr fun _ => hpend
      have hm : (u.tile t).lmem = m := (congrArg Tile.lmem hstill :)
      refine ⟨u, he, honly, hth.trans (congrArg (Thread.slotEnd _ _) (hend _)), hothers, ?_, fun b => ?_⟩
      · rw [hm]
        exact hstill
      · rw [hm, hbyte, storesOf_rows hfit hlenb, lastAt_run]
        by_cases hb : off ≤ b ∧ b < off + n
        · rw [if_pos hb]
          refine Eq.trans ?_ (if_pos hb).symm
          rw [tstBuf, show (s.th t h).part = [] from hpart, List.nil_append, ← nth, nth_map_range _ (by omega), show (s.th t h).moved = 0 from hmv,
            Nat.zero_add]
        · rw [if_neg hb]
          exact (if_neg hb).symm

end Sys2Proof.Machine
end

section
/-! O19, matrix operations: issue, start, the grant of cords, and commit (R129, R133–R142, R493, R494). From them the obligation
O19. -/
namespace Sys2Proof.Machine

open Sys2Proof.Safety

/-! ## Issue (R133–R137) -/

section Issue

variable {s : State} {t : TileId} {h : Thr} {len : Nat} {i : Instr} {o : MxOp}

/-- An operation with legal shapes enters the unit, and one without takes an Illegal Operand. -/
theorem mxIssue_enters (e : exec i s = .next (s.mxIssue t h len o)) :
    ((s.tile t).mxOk o = true → (s.tile t).mx.length < 2 → RetiresAs i s t h
      (({ s.tile t with mx := (s.tile t).mx ++ [o] } : Tile).modReg o.c fun q => { q with tuse := true }) (onward (s.th t h) len)) ∧
    ((s.tile t).mxOk o = false → VectorsGood (s.tile t) 4 → Takes i s t h 4 (s.th t h).pc 0 0) := by
  refine ⟨fun hok hroom => ?_, fun hbad good => ?_⟩
  · have e' : exec i s = .next ((s.modTile t fun tl =>
        { tl with mx := tl.mx ++ [o] }.modReg o.c fun r => { r with tuse := true }).complete t h len) := by
      rw [e, State.mxIssue]
      refine congrArg Host.Outcome.next ((if_neg ?_).trans (if_neg (Nat.not_le.2 hroom)))
      rw [hok]
      decide
    exact State.complete_retiresAs e' rfl
  · refine State.raise_takes ?_ good
    rw [e, State.mxIssue]
    refine congrArg Host.Outcome.next (if_pos ?_)
    rw [hbad]
    rfl

end Issue

/-! ## Cords (R493, R494) -/

theorem countP_insert {α : Type} (p : Nat × α → Bool) (m : SMap α) (k : Nat) (v : α) :
    (SMap.insert m k v).countP p = ((k, v) :: m).countP p := by
  induction m with
  | nil => rfl
  | cons q m ih =>
    obtain ⟨j, w⟩ := q
    rw [SMap.insert]
    split_ifs
    · rfl
    · rw [List.countP_cons, ih, List.countP_cons, List.countP_cons, List.countP_cons]
      omega

theorem heldBy_eq (s : State) (c : CobNo) (f : FuncNo) : s.heldBy c f = s.tiles.countP fun p =>
    decide (p.2.func = some f) && (decide (tileCob (BitVec.ofNat 12 p.1) = c) && (s.tile (BitVec.ofNat 12 p.1)).cord) := by
  rw [State.heldBy, State.tilesOf, ← List.countP_eq_length_filter, List.countP_map, List.countP_filter]
  refine List.countP_congr fun p _ => ?_
  rw [Bool.and_comm]
  rfl

/-- A tile that had no cord changes: no function holds fewer cords, and the same if it still has none. -/
theorem heldBy_modTile {s : State} {t : TileId} {g : Tile → Tile} (hcord : (s.tile t).cord = false) (c : CobNo) (f : FuncNo) :
    s.heldBy c f ≤ (s.modTile t g).heldBy c f ∧ ((g (s.tile t)).cord = false → (s.modTile t g).heldBy c f = s.heldBy c f) := by
  rw [heldBy_eq, heldBy_eq]
  generalize hp : (fun p : Nat × Tile => decide (p.2.func = some f) && (decide (tileCob (BitVec.ofNat 12 p.1) = c) &&
    (s.tile (BitVec.ofNat 12 p.1)).cord)) = p
  generalize hq : (fun p : Nat × Tile => decide (p.2.func = some f) && (decide (tileCob (BitVec.ofNat 12 p.1) = c) &&
    ((s.modTile t g).tile (BitVec.ofNat 12 p.1)).cord)) = q
  have hpq (x : Nat × Tile) : p x = true → q x = true := by
    rw [← hp, ← hq]
    dsimp only
    rw [State.tile_modTile]
    split_ifs with hx
    · rw [hx, hcord, Bool.and_false, Bool.and_false]
      exact fun h => absurd h (by decide)
    · exact id
  have herase : (SMap.erase s.tiles t.toNat).countP p = s.tiles.countP p := by
    rw [SMap.erase_eq_filter, List.countP_filter]
    refine List.countP_congr fun x _ => ?_
    rw [Bool.and_eq_true, decide_eq_true_eq]
    refine ⟨fun h => h.1, fun h => ⟨h, fun hx => ?_⟩⟩
    rw [← hp] at h
    dsimp only at h
    rw [hx, BitVec.ofNat_toNat, BitVec.setWidth_eq, hcord, Bool.and_false, Bool.and_false] at h
    exact Bool.false_ne_true h
  have hset : (s.modTile t g).tiles = SMap.set {} s.tiles t.toNat (g (s.tile t)) := rfl
  refine ⟨?_, fun hg => ?_⟩
  · rw [← herase, hset, SMap.set]
    refine (List.countP_mono_left fun x _ => hpq x).trans ?_
    split_ifs
    · exact Nat.le_refl _
    · rw [countP_insert, List.countP_cons]
      exact Nat.le_add_right _ _
  · have heq : q = p := by
      rw [← hp, ← hq]
      funext x
      rw [State.tile_modTile]
      split_ifs with hx
      · rw [hx, hcord, hg]
      · rfl
    rw [heq, ← herase, hset, SMap.set]
    split_ifs
    · rfl
    · rw [countP_insert, List.countP_cons, if_neg, Nat.add_zero]
      rw [← hp]
      dsimp only
      rw [BitVec.ofNat_toNat, BitVec.setWidth_eq, hcord, Bool.and_false, Bool.and_false]
      exact Bool.false_ne_true

/-- A claim that could not be granted cannot be granted once no function holds fewer cords. -/
theorem canGrant_mono {s u : State} {r : TileId} (hfunc : (u.tile r).func = (s.tile r).func) (hplan : u.plan = s.plan)
    (hheld : ∀ c f, s.heldBy c f ≤ u.heldBy c f) (h : s.canGrant r = false) : u.canGrant r = false := by
  have hres (c : CobNo) (f : FuncNo) : u.resOf c f = s.resOf c f := by rw [State.resOf, State.resOf, hplan]
  have hfold (g : FuncNo → Int) : (allFuncs.map g).foldl (· + ·) 0 = (allFuncs.map g).sum := List.sum_eq_foldl.symm
  have hpool (c : CobNo) : u.poolFree c ≤ s.poolFree c := by
    rw [State.poolFree, State.poolFree, hplan, hfold, hfold]
    refine Int.sub_le_sub_left ?_ _
    refine List.sum_le_sum fun f _ => ?_
    rw [hres]
    exact Int.ofNat_le.2 (max_le_max (Nat.le_refl _) (hheld c f))
  unfold State.canGrant at h ⊢
  rw [hfunc]
  cases hf : (s.tile r).func with
  | none =>
    rw [hf] at h
    exact decide_eq_false fun hlt => of_decide_eq_false h (lt_of_lt_of_le hlt (hpool _))
  | some f =>
    rw [hf] at h
    obtain ⟨h1, h2⟩ := Bool.or_eq_false_iff.1 h
    refine Bool.or_eq_false_iff.2 ⟨decide_eq_false fun hlt => ?_, decide_eq_false fun hlt => of_decide_eq_false h2 (lt_of_lt_of_le hlt (hpool _))⟩
    rw [hres] at hlt
    exact of_decide_eq_false h1 (lt_of_le_of_lt (hheld _ f) hlt)

theorem canGrant_congr {s u : State} {r : TileId} (hfunc : (u.tile r).func = (s.tile r).func) (hplan : u.plan = s.plan)
    (hheld : ∀ c f, u.heldBy c f = s.heldBy c f) : u.canGrant r = s.canGrant r := by
  cases h : s.canGrant r with
  | false => exact canGrant_mono hfunc hplan (fun c f => (hheld c f).ge) h
  | true =>
    by_contra hu
    rw [Bool.not_eq_true] at hu
    rw [canGrant_mono hfunc.symm hplan.symm (fun c f => (hheld c f).le) hu] at h
    exact Bool.false_ne_true h

theorem grantPass_append (l m : List TileId) : ∀ s : State, s.grantPass (l ++ m) = (s.grantPass l).grantPass m := by
  induction l with
  | nil => exact fun _ => rfl
  | cons r l ih => exact fun s => ih _

/-- A pass over claims none of which can be granted does nothing. -/
theorem grantPass_skip {s : State} {l : List TileId} (h : ∀ r ∈ l, s.canGrant r = false) : s.grantPass l = s := by
  induction l with
  | nil => rfl
  | cons r l ih =>
    rw [State.grantPass, if_neg (by rw [h r List.mem_cons_self]; exact Bool.false_ne_true)]
    exact ih fun r hr => h r (List.mem_cons_of_mem _ hr)

theorem insertClaim_split (x : Nat × TileId) (l : List (Nat × TileId)) :
    ∃ a b, l = a ++ b ∧ insertClaim x l = a ++ x :: b := by
  induction l with
  | nil => exact ⟨[], [], rfl, rfl⟩
  | cons y l ih =>
    rw [insertClaim]
    split_ifs
    · obtain ⟨a, b, hl, hi⟩ := ih
      exact ⟨y :: a, b, by rw [hl]; rfl, by rw [hi]; rfl⟩
    · exact ⟨[], y :: l, rfl, rfl⟩

/-- Among claims in their order, a claim goes behind the earlier ones. -/
theorem insertClaim_sorted (x : Nat × TileId) {l : List (Nat × TileId)}
    (h : l.Pairwise fun y z => y.1 < z.1 ∨ y.1 = z.1 ∧ y.2.toNat < z.2.toNat) :
    insertClaim x l = l.filter (fun y => decide (y.1 < x.1 ∨ y.1 = x.1 ∧ y.2.toNat < x.2.toNat)) ++
      x :: l.filter fun y => !decide (y.1 < x.1 ∨ y.1 = x.1 ∧ y.2.toNat < x.2.toNat) := by
  induction l with
  | nil => rfl
  | cons y l ih =>
    obtain ⟨hy, hl⟩ := List.pairwise_cons.1 h
    have hcond : (decide (y.1 < x.1) || (decide (y.1 = x.1) && decide (y.2.toNat < x.2.toNat))) =
        decide (y.1 < x.1 ∨ y.1 = x.1 ∧ y.2.toNat < x.2.toNat) := by rw [Bool.decide_or, Bool.decide_and]
    rw [insertClaim, hcond, List.filter_cons, List.filter_cons]
    by_cases hx : y.1 < x.1 ∨ y.1 = x.1 ∧ y.2.toNat < x.2.toNat
    · rw [decide_eq_true hx, if_pos rfl, if_pos rfl, ih hl]
      rfl
    · rw [decide_eq_false hx, if_neg Bool.false_ne_true, if_neg Bool.false_ne_true, if_pos (show (!false) = true from rfl)]
      have hlate : ∀ z ∈ l, ¬ (z.1 < x.1 ∨ z.1 = x.1 ∧ z.2.toNat < x.2.toNat) := by
        intro z hz
        have := hy z hz
        omega
      rw [List.filter_eq_nil_iff.2 fun z hz => by rw [decide_eq_true_eq]; exact hlate z hz,
        List.filter_eq_self.2 fun z hz => by rw [decide_eq_false (hlate z hz)]; rfl]
      rfl

/-! ## Start, grant and commit (R138–R142) -/

theorem seedRun_pmc (tl : Tile) (m : SMap DWord) (h : Thr) (n : Nat) : ∀ a, Tile.seedRun { tl with pmc := m } h a n = tl.seedRun h a n := by
  induction n with
  | zero => exact fun _ => rfl
  | succ n ih =>
    intro a
    rw [Tile.seedRun, Tile.seedRun, ih]
    rfl

theorem mxResult_pmc (tl : Tile) (m : SMap DWord) (o : MxOp) : Tile.mxResult { tl with pmc := m } o = tl.mxResult o := by
  have hidx (ks i s : Nat) : Tile.maskIdx { tl with pmc := m } o ks i s = tl.maskIdx o ks i s := by
    unfold Tile.maskIdx
    cases o.mask with
    | none => rfl
    | tile r => rfl
    | seed a => exact seedRun_pmc tl m o.thr 2 _
  have helem (i j : Nat) : Tile.mxElem { tl with pmc := m } o i j = tl.mxElem o i j := by
    unfold Tile.mxElem
    simp only [hidx]
    rfl
  unfold Tile.mxResult
  simp only [helem]
  rfl

theorem mxResult_pm (tl : Tile) (c n : Nat) (o : MxOp) : (tl.pm c n).mxResult o = tl.mxResult o := by
  unfold Tile.pm
  split_ifs
  · rfl
  · exact mxResult_pmc tl _ o

theorem mxStart_of_head {tl : Tile} {o : MxOp} {rest : List MxOp} (h : tl.mx = o :: rest) :
    tl.mxStart = { tl with mx := { o with result := some (tl.mxResult o) } :: rest } := by
  rw [Tile.mxStart, h]

/-- The head operation of tile `t` has started on its cord, and no other tile has changed. -/
def MxStaged (s u : State) (t : TileId) (o : MxOp) (rest : List MxOp) : Prop :=
  (u.tile t).mx = { o with result := some ((s.tile t).mxResult o) } :: rest ∧ (u.tile t).cord = true ∧
    (∀ k, (u.tile t).reg k = (s.tile t).reg k) ∧ ∀ r, r ≠ t → u.tile r = s.tile r

theorem Tile.causes_stallOff_getLsbD (tl : Tile) : (if bit tl.causes 3 then tl.stallOff 3 else tl).causes.getLsbD 3 = false := by
  split_ifs with hb
  · rw [Tile.causes_stallOff, getLsbD_setBit _ (by decide), if_pos rfl]
  · exact Bool.eq_false_iff.2 hb

theorem grantCord_staged {s : State} {t : TileId} {o : MxOp} {rest : List MxOp} (hmx : (s.tile t).mx = o :: rest) :
    MxStaged s (s.grantCord t) t o rest ∧
      ((s.grantCord t).cob (tileCob t)).claims = (s.cob (tileCob t)).claims.filter (fun y => y.2 ≠ t) ∧
      ((s.grantCord t).tile t).causes.getLsbD 3 = false := by
  have htile : (s.grantCord t).tile t =
      let t1 : Tile := { (s.tile t).mxStart with cord := true }
      if bit t1.causes 3 then t1.stallOff 3 else t1 := State.tile_modTile_self _ _ _
  have hframe : (s.grantCord t).tile t = { (s.tile t).mxStart with
      cord := true, causes := ((s.grantCord t).tile t).causes, thr := ((s.grantCord t).tile t).thr } := by
    rw [htile]
    dsimp only
    split_ifs
    · rw [Tile.stallOff_frame]
    · rfl
  refine ⟨⟨?_, ?_, fun k => ?_, fun r hr => ?_⟩, ?_, ?_⟩
  · rw [hframe, mxStart_of_head hmx]
  · rw [hframe]
  · rw [hframe, mxStart_of_head hmx]
    rfl
  · exact (State.tile_modTile _ _ _ _).trans (if_neg hr)
  · exact congrArg Cob.claims (State.cob_modCob_self s (tileCob t) fun c => { c with claims := c.claims.filter fun u => u.2 ≠ t })
  · rw [htile]
    exact Tile.causes_stallOff_getLsbD _

section Start

variable {s : State} {t : TileId} {o : MxOp} {rest : List MxOp}

theorem matrixStart_cord (hmx : (s.tile t).mx = o :: rest) (hres : o.result = none) (hnew : ∀ y ∈ (s.cob (tileCob t)).claims, y.2 ≠ t)
    (hcord : (s.tile t).cord = true) : ∃ u, exec (.matrixStart t) s = .next u ∧ MxStaged s u t o rest ∧
      (u.cob (tileCob t)).claims = (s.cob (tileCob t)).claims := by
  have hidle : (o.result.isSome || (s.cob (tileCob t)).claims.any fun u => decide (u.2 = t)) = false := by
    rw [hres, Option.isSome_none, Bool.false_or, List.any_eq_false]
    exact fun y hy h => hnew y hy (of_decide_eq_true h)
  have e : exec (.matrixStart t) s = .next (s.modTile t fun tl => tl.mxStart.touch) := by
    change execMatrixStart t s = _
    refine congrArg Host.Outcome.next ?_
    rw [hmx]
    dsimp only
    rw [hidle]
    exact (if_neg Bool.false_ne_true).trans (if_pos hcord)
  have htouch (tl : Tile) : tl.touch = { tl with quietCnt := tl.touch.quietCnt, quietAct := tl.touch.quietAct } := by
    unfold Tile.touch
    split_ifs
    · rfl
    · rfl
  refine ⟨_, e, ⟨?_, ?_, fun k => ?_, fun r hr => (State.tile_modTile _ _ _ _).trans (if_neg hr)⟩, rfl⟩
  · rw [State.tile_modTile_self, htouch, mxStart_of_head hmx]
  · rw [State.tile_modTile_self, htouch, mxStart_of_head hmx]
    exact hcord
  · rw [State.tile_modTile_self, htouch, mxStart_of_head hmx]
    rfl

/-- The state once the tile's claim stands among those that wait. -/
def State.claimed (s : State) (t : TileId) : State :=
  (s.modTile t (fun tl => tl.pm 0x12 1)).modCob (tileCob t) fun x => { x with claims := insertClaim (x.cyc, t) x.claims }

theorem claimed_spec (s : State) (t : TileId) :
    (s.claimed t).tile t = (s.tile t).pm 0x12 1 ∧ (∀ r, r ≠ t → (s.claimed t).tile r = s.tile r) ∧
      (s.claimed t).cob (tileCob t) = { s.cob (tileCob t) with
        claims := insertClaim ((s.cob (tileCob t)).cyc, t) (s.cob (tileCob t)).claims } :=
  ⟨State.tile_modTile_self s t fun tl => tl.pm 0x12 1, fun r hr => (State.tile_modTile s t r fun tl => tl.pm 0x12 1).trans (if_neg hr),
    State.cob_modCob_self s (tileCob t) fun x => { x with claims := insertClaim (x.cyc, t) x.claims }⟩

theorem pm_keeps (tl : Tile) (c n : Nat) : (tl.pm c n).mx = tl.mx ∧ (tl.pm c n).cord = tl.cord ∧ (tl.pm c n).func = tl.func ∧
    (tl.pm c n).treg = tl.treg ∧ (tl.pm c n).causes = tl.causes :=
  have h := still_pm tl c n
  ⟨(congrArg Tile.mx h :), (congrArg Tile.cord h :), (congrArg Tile.func h :), (congrArg Tile.treg h :), (congrArg Tile.causes h :)⟩

/-- A claim among others that cannot be granted: it is granted when it can be, and else waits. -/
theorem grantPass_claimed (hcord : (s.tile t).cord = false) (hnew : ∀ y ∈ (s.cob (tileCob t)).claims, y.2 ≠ t)
    (hold : ∀ y ∈ (s.cob (tileCob t)).claims, s.canGrant y.2 = false) :
    (s.claimed t).grantPass (((s.claimed t).cob (tileCob t)).claims.map fun u => u.2) =
      if s.canGrant t then (s.claimed t).grantCord t else s.claimed t := by
  obtain ⟨htile, hother, hcob⟩ := claimed_spec s t
  have hpm := pm_keeps (s.tile t) 0x12 1
  have hcord1 : ((s.claimed t).tile t).cord = false := by rw [htile, hpm.2.1, hcord]
  have hheld (c : CobNo) (f : FuncNo) : (s.claimed t).heldBy c f = s.heldBy c f :=
    (heldBy_modTile (g := fun tl => tl.pm 0x12 1) hcord c f).2 (hpm.2.1.trans hcord)
  have hgrant (r : TileId) : (s.claimed t).canGrant r = s.canGrant r := by
    refine canGrant_congr ?_ rfl hheld
    by_cases hr : r = t
    · rw [hr, htile, hpm.2.2.1]
    · rw [hother r hr]
  obtain ⟨a, b, hab, hins⟩ := insertClaim_split ((s.cob (tileCob t)).cyc, t) (s.cob (tileCob t)).claims
  have hmap : ((s.claimed t).cob (tileCob t)).claims.map (fun u => u.2) = a.map (fun u => u.2) ++ t :: b.map fun u => u.2 := by
    rw [hcob]
    dsimp only
    rw [hins, List.map_append, List.map_cons]
  have hrefused (l : List (Nat × TileId)) (hl : ∀ y ∈ l, y ∈ (s.cob (tileCob t)).claims) : ∀ r ∈ l.map (fun u => u.2), r ≠ t ∧ s.canGrant r = false := by
    intro r hr
    obtain ⟨y, hy, rfl⟩ := List.mem_map.1 hr
    exact ⟨hnew y (hl y hy), hold y (hl y hy)⟩
  have ha := hrefused a fun y hy => hab ▸ List.mem_append_left b hy
  have hb := hrefused b fun y hy => hab ▸ List.mem_append_right a hy
  rw [hmap, grantPass_append, grantPass_skip fun r hr => (hgrant r).trans (ha r hr).2, State.grantPass, hgrant]
  split_ifs with ht
  · refine grantPass_skip fun r hr => ?_
    obtain ⟨hrt, hrg⟩ := hb r hr
    refine canGrant_mono (s := s.claimed t) ?_ rfl (fun c f => ?_) ((hgrant r).trans hrg)
    · exact congrArg Tile.func ((State.tile_modTile _ _ _ _).trans (if_neg hrt))
    · exact (heldBy_modTile (s := (s.claimed t).dropClaim t) hcord1 c f).1
  · exact grantPass_skip fun r hr => (hgrant r).trans (hb r hr).2

theorem exec_matrixStart (hmx : (s.tile t).mx = o :: rest) (hres : o.result = none) (hnew : ∀ y ∈ (s.cob (tileCob t)).claims, y.2 ≠ t)
    (hcord : (s.tile t).cord = false) : exec (.matrixStart t) s = .next (
      let s2 := (s.claimed t).grantPass (((s.claimed t).cob (tileCob t)).claims.map fun u => u.2)
      if (s2.tile t).cord then s2
      else (s2.modCob (tileCob t) fun x => { x with refuse := satAdd x.refuse 1 }).modTile t fun tl =>
        ({ tl with causes := setBit tl.causes 3 true, slotOwner := if tl.causes = 0 then o.thr else tl.slotOwner } : Tile).hazard
          s.debug 3 o.thr o.pc 0 0) := by
  have hidle : (o.result.isSome || (s.cob (tileCob t)).claims.any fun u => decide (u.2 = t)) = false := by
    rw [hres, Option.isSome_none, Bool.false_or, List.any_eq_false]
    exact fun y hy h => hnew y hy (of_decide_eq_true h)
  change execMatrixStart t s = _
  refine congrArg Host.Outcome.next ?_
  rw [hmx]
  dsimp only
  rw [hidle]
  exact (if_neg Bool.false_ne_true).trans (if_neg (by rw [hcord]; exact Bool.false_ne_true))

theorem filter_insertClaim {l : List (Nat × TileId)} (n : Nat) (h : ∀ y ∈ l, y.2 ≠ t) :
    (insertClaim (n, t) l).filter (fun y => decide (y.2 ≠ t)) = l := by
  obtain ⟨a, b, rfl, hins⟩ := insertClaim_split (n, t) l
  rw [hins, List.filter_append, List.filter_cons_of_neg (by simp), ← List.filter_append]
  exact List.filter_eq_self.2 fun y hy => decide_eq_true (h y hy)

theorem matrixStart_granted (hmx : (s.tile t).mx = o :: rest) (hres : o.result = none) (hnew : ∀ y ∈ (s.cob (tileCob t)).claims, y.2 ≠ t)
    (hcord : (s.tile t).cord = false) (hold : ∀ y ∈ (s.cob (tileCob t)).claims, s.canGrant y.2 = false) (hgrant : s.canGrant t = true) :
    ∃ u, exec (.matrixStart t) s = .next u ∧ MxStaged s u t o rest ∧ (u.cob (tileCob t)).claims = (s.cob (tileCob t)).claims := by
  have e := exec_matrixStart hmx hres hnew hcord
  dsimp only at e
  obtain ⟨htile, hother, hcob⟩ := claimed_spec s t
  have hpm := pm_keeps (s.tile t) 0x12 1
  obtain ⟨⟨hmx', hcord', hreg, htiles⟩, hclaims, -⟩ := grantCord_staged (s := s.claimed t) (t := t) (o := o) (rest := rest)
    (by rw [htile, hpm.1, hmx])
  rw [grantPass_claimed hcord hnew hold, if_pos hgrant, if_pos hcord'] at e
  refine ⟨_, e, ⟨hmx'.trans ?_, hcord', fun k => (hreg k).trans ?_, fun r hr => (htiles r hr).trans (hother r hr)⟩, hclaims.trans ?_⟩
  · rw [htile, mxResult_pm]
  · rw [htile, Tile.reg, hpm.2.2.2.1]
    rfl
  · rw [hcob]
    exact filter_insertClaim _ hnew

theorem Tile.hazard_keeps (tl : Tile) (dbg : Bool) (kind : Nat) (h : Thr) (pc : PWord) (d : BitVec 6) (w : BitVec 14) :
    (tl.hazard dbg kind h pc d w).causes = tl.causes ∧ (tl.hazard dbg kind h pc d w).mx = tl.mx ∧
      (tl.hazard dbg kind h pc d w).cord = tl.cord := by
  unfold Tile.hazard
  dsimp only
  split_ifs
  all_goals exact ⟨rfl, rfl, rfl⟩

theorem matrixStart_refused (hmx : (s.tile t).mx = o :: rest) (hres : o.result = none) (hnew : ∀ y ∈ (s.cob (tileCob t)).claims, y.2 ≠ t)
    (hcord : (s.tile t).cord = false) (hold : ∀ y ∈ (s.cob (tileCob t)).claims, s.canGrant y.2 = false) (hgrant : s.canGrant t = false) :
    ∃ u, exec (.matrixStart t) s = .next u ∧
      (u.cob (tileCob t)).claims = insertClaim ((s.cob (tileCob t)).cyc, t) (s.cob (tileCob t)).claims ∧
      (u.tile t).causes = (s.tile t).causes ||| 8#8 ∧ (u.tile t).mx = (s.tile t).mx ∧ (u.tile t).cord = false ∧
      (u.cob (tileCob t)).refuse = satAdd (s.cob (tileCob t)).refuse 1 ∧ ∀ r, r ≠ t → u.tile r = s.tile r := by
  have e := exec_matrixStart hmx hres hnew hcord
  dsimp only at e
  obtain ⟨htile, hother, hcob⟩ := claimed_spec s t
  have hpm := pm_keeps (s.tile t) 0x12 1
  rw [grantPass_claimed hcord hnew hold, hgrant, if_neg Bool.false_ne_true, htile, hpm.2.1, hcord, if_neg Bool.false_ne_true] at e
  generalize s.claimed t = v at e htile hother hcob
  have hcob' (g : Tile → Tile) : ((v.modCob (tileCob t) fun x => { x with refuse := satAdd x.refuse 1 }).modTile t g).cob (tileCob t) =
      { v.cob (tileCob t) with refuse := satAdd (v.cob (tileCob t)).refuse 1 } :=
    State.cob_modCob_self v (tileCob t) fun x => { x with refuse := satAdd x.refuse 1 }
  have htile' (g : Tile → Tile) : ((v.modCob (tileCob t) fun x => { x with refuse := satAdd x.refuse 1 }).modTile t g).tile t =
      g ((s.tile t).pm 0x12 1) := by
    rw [← htile]
    exact State.tile_modTile_self _ _ _
  refine ⟨_, e, ?_, ?_, ?_, ?_, ?_, fun r hr => ((State.tile_modTile _ _ _ _).trans (if_neg hr)).trans (hother r hr)⟩
  · rw [hcob', hcob]
  · rw [htile', (Tile.hazard_keeps _ _ _ _ _ _ _).1]
    exact congrArg (fun c => setBit c 3 true) hpm.2.2.2.2
  · rw [htile', (Tile.hazard_keeps _ _ _ _ _ _ _).2.1]
    exact hpm.1
  · rw [htile', (Tile.hazard_keeps _ _ _ _ _ _ _).2.2]
    exact hpm.2.1.trans hcord
  · rw [hcob', hcob]

end Start

/-- A commit of the head operation (R138, R141). -/
theorem matrixCommit_writes {s : State} {t : TileId} {o : MxOp} {rest : List MxOp} {v : BitVec 16384} (hmx : (s.tile t).mx = o :: rest)
    (hres : o.result = some v) (hsize : ((s.tile t).reg o.c).rows * ((s.tile t).reg o.c).len ≤ 2048) :
    ∃ u, exec (.matrixCommit t) s = .next u ∧ (u.tile t).mx = rest ∧ (u.tile t).cord = !rest.isEmpty ∧
      (∀ k, k ≠ o.c → (u.tile t).reg k = (s.tile t).reg k) ∧ ((u.tile t).reg o.c).rows = ((s.tile t).reg o.c).rows ∧
      ((u.tile t).reg o.c).len = ((s.tile t).reg o.c).len ∧ ((u.tile t).reg o.c).tuse = ((s.tile t).reg o.c).tuse ∧
      (∀ i, i < 2048 → tileBytes ((u.tile t).reg o.c) i 1 =
        if i < ((s.tile t).reg o.c).rows * ((s.tile t).reg o.c).len then (v.extractLsb' (8 * i) 8).setWidth 8
        else tileBytes ((s.tile t).reg o.c) i 1) ∧ ∀ r, r ≠ t → u.tile r = s.tile r := by
  generalize ht1 : ({ ((s.tile t).pm 0x10 1).modReg o.c (fun x => x.put 0 x.size v.toNat) with mx := rest, cord := !rest.isEmpty } : Tile) = t1
  have e : exec (.matrixCommit t) s = .next (s.modTile t fun tl =>
      let t1 : Tile := { (tl.pm 0x10 1).modReg o.c (fun x => x.put 0 x.size v.toNat) with mx := rest, cord := !rest.isEmpty }
      let t2 := if bit t1.causes 5 then t1.stallOff 5 else t1
      if bit t2.causes 4 && !(t2.tpnd t2.c4) then t2.stallOff 4 else t2) := by
    change execMatrixCommit t s = _
    refine congrArg Host.Outcome.next ?_
    rw [hmx]
    dsimp only
    rw [hres]
  generalize hu : s.modTile t _ = u at e
  have htile : u.tile t = let t2 := if bit t1.causes 5 then t1.stallOff 5 else t1
      if bit t2.causes 4 && !(t2.tpnd t2.c4) then t2.stallOff 4 else t2 := by
    rw [← hu, State.tile_modTile_self, ← ht1]
  have hif (tl : Tile) (p : Bool) (k : Nat) : ∃ c m, (if p then tl.stallOff k else tl) = { tl with causes := c, thr := m } := by
    cases p with
    | false => exact ⟨tl.causes, tl.thr, rfl⟩
    | true => exact ⟨_, _, Tile.stallOff_frame tl k⟩
  have hframe : ∃ c m, u.tile t = { t1 with causes := c, thr := m } := by
    obtain ⟨c1, m1, h1⟩ := hif t1 (bit t1.causes 5) 5
    dsimp only at htile
    rw [h1] at htile
    obtain ⟨c2, m2, h2⟩ := hif { t1 with causes := c1, thr := m1 } (bit ({ t1 with causes := c1, thr := m1 } : Tile).causes 4 &&
      !(({ t1 with causes := c1, thr := m1 } : Tile).tpnd ({ t1 with causes := c1, thr := m1 } : Tile).c4)) 4
    exact ⟨c2, m2, htile.trans h2⟩
  obtain ⟨c, m, hframe⟩ := hframe
  have hpm := (pm_keeps (s.tile t) 0x10 1).2.2.2.1
  have hreg (k : Reg) : (u.tile t).reg k = if k = o.c then ((s.tile t).reg o.c).put 0 ((s.tile t).reg o.c).size v.toNat else (s.tile t).reg k := by
    rw [hframe, ← ht1]
    refine (SMap.get_modify ({} : TileReg) ((s.tile t).pm 0x10 1).treg o.c.toNat k.toNat fun x => x.put 0 x.size v.toNat).trans ?_
    rw [hpm]
    exact if_congr BitVec.toNat_inj rfl rfl
  refine ⟨u, e, by rw [hframe, ← ht1], by rw [hframe, ← ht1], fun k hk => (hreg k).trans (if_neg hk), ?_, ?_, ?_, fun i hi => ?_, fun r hr => ?_⟩
  · rw [hreg, if_pos rfl]; rfl
  · rw [hreg, if_pos rfl]; rfl
  · rw [hreg, if_pos rfl]; rfl
  · rw [hreg, if_pos rfl, tileBytes_put _ _ _ _ hi]
    by_cases h : i < ((s.tile t).reg o.c).rows * ((s.tile t).reg o.c).len
    · rw [if_pos h, if_pos ⟨Nat.zero_le i, by rw [Nat.zero_add]; exact h⟩, Nat.sub_zero]
      refine BitVec.eq_of_getLsbD_eq fun b hb => ?_
      rw [BitVec.getLsbD_extractLsb', BitVec.getLsbD_setWidth, BitVec.getLsbD_extractLsb', BitVec.getLsbD_ofNat, BitVec.testBit_toNat]
      have hlt : 8 * i + b < 8 * ((s.tile t).reg o.c).size := by
        rw [TileReg.size]
        omega
      rw [decide_eq_true hlt, Bool.true_and, decide_eq_true hb, Bool.true_and, Bool.true_and]
    · rw [if_neg h, if_neg fun hc => h (by rw [← Nat.zero_add (_ * _)]; exact hc.2)]
  · rw [← hu]
    exact (State.tile_modTile _ _ _ _).trans (if_neg hr)

/-- Settles O19: a claim that is granted leaves no other claim that could not be granted one that can. -/
theorem matrixOperations : Obligations.MatrixOperations := by
  unfold Obligations.MatrixOperations
  refine ⟨?_, ?_⟩
  · intro s t h c a b tm sp mt sa x tl scaled op mask enters
    have hop (acc : Bool) (m : MaskSrc) : s.mxOp t h c a b sp mt acc m = op acc m := by cases mt <;> rfl
    have hunused (hdense : sp = .dense → tm = 0) : (!(decide (sp = .dense) && decide (tm ≠ 0))) = true := by
      rw [Bool.not_eq_true', Bool.and_eq_false_imp, decide_eq_true_eq]
      exact fun hsp => decide_eq_false (not_not.2 (hdense hsp))
    refine ⟨fun rd hdense => ⟨?_, ?_⟩, fun rd hsp hsa => ?_⟩
    · refine mxIssue_enters ?_
      rw [← hop]
      exact congrArg Host.Outcome.next ((issue_of_ready rd _).trans (if_pos (hunused hdense)))
    · refine mxIssue_enters ?_
      rw [← hop]
      exact congrArg Host.Outcome.next ((issue_of_ready rd _).trans (if_pos (hunused hdense)))
    · refine mxIssue_enters ?_
      rw [← hop]
      refine congrArg Host.Outcome.next ((issue_of_ready rd _).trans (if_pos ?_))
      rw [decide_eq_true hsp, decide_eq_true hsa]
      rfl
  · intro s t o rest tl c claims now earlier staged hmx
    refine ⟨fun hres hnew => ⟨fun hcord => matrixStart_cord hmx hres hnew hcord, fun hcord hold =>
      ⟨fun hgrant => matrixStart_granted hmx hres hnew hcord hold hgrant, fun hgrant => ?_⟩⟩, fun hhead => ?_,
      fun v hres hsize => matrixCommit_writes hmx hres hsize⟩
    · obtain ⟨u, he, hclaims, hrest⟩ := matrixStart_refused hmx hres hnew hcord hold hgrant
      exact ⟨u, he, fun hs => hclaims.trans (insertClaim_sorted (now, t) hs), hrest⟩
    · obtain ⟨hstaged, hclaims, hcause⟩ := grantCord_staged hmx
      refine ⟨s.grantCord t, ?_, hstaged, hclaims, hcause⟩
      change execCordGrant t s = _
      refine congrArg Host.Outcome.next ?_
      obtain ⟨y, hy, hyt⟩ := Option.map_eq_some_iff.1 hhead
      rw [show ((s.cob (tileCob t)).claims.filter fun u => s.canGrant u.2).head? = some y from hy]
      exact if_pos hyt

end Sys2Proof.Machine
end

section
/-! O58 and O59, the layer that both rest on: the predicate `Sound` that a tile, a state and an outcome keep, and its rules for
the operations that write local memory, the memories of the part and the tile registers (R124, R127, R178, R281). -/
namespace Sys2Proof.Machine

open Sys2Proof.Safety

/-! ## What is kept -/

/-- The shape of a tile register that R124 and R127 allow. -/
def TileReg.Legal (q : TileReg) : Prop := 1 ≤ q.rows ∧ 4 ≤ q.len ∧ q.len % 4 = 0 ∧ q.rows * q.len ≤ 2048

/-- A tile keeps what is asked of it: its local memory in canonical form when `M` asks it, its registers in legal shapes when `R`
asks it. -/
def Tile.Sound (M R : Prop) (tl : Tile) : Prop :=
  (M → Memory.wf tl.lmem = true) ∧ (R → ∀ k, TileReg.Legal (SMap.get {} tl.treg k))

/-- The part keeps what is asked of it, in its memories and in every tile. -/
def State.Sound (M R : Prop) (s : State) : Prop := (M → MemoriesWf s) ∧ ∀ t, (s.tile t).Sound M R

/-- The outcome's state, if it has one, keeps what is asked of it. -/
def EndsSound (M R : Prop) : Host.Outcome State Fault Refusal → Prop
  | .next u => u.Sound M R
  | _ => True

/-! ## Tile registers -/

theorem TileReg.legal_default : TileReg.Legal {} := ⟨by decide, by decide, by decide, by decide⟩

theorem TileReg.Legal.same {q r : TileReg} (h : q.Legal) (hr : r.rows = q.rows) (hl : r.len = q.len) : r.Legal := by
  rwa [Legal, hr, hl]

theorem TileReg.Legal.put {q : TileReg} (h : q.Legal) {o n v : ℕ} : (q.put o n v).Legal := h

theorem TileReg.Legal.fill {q : TileReg} {w : ℕ} {f : ℕ → ℕ → ℕ} (h : q.Legal) : (q.fill w f).Legal := h

section
variable {M R : Prop} {s u : State} {tl v : Tile} {t : TileId}

/-! ## Tiles -/

theorem Tile.sound_default : Tile.Sound M R {} := ⟨fun _ => rfl, fun _ _ => TileReg.legal_default⟩

theorem Tile.Sound.same (h : tl.Sound M R) (hl : v.lmem = tl.lmem) (hr : v.treg = tl.treg) : v.Sound M R := by
  rwa [Tile.Sound, hl, hr]

theorem Tile.Sound.ite {c : Prop} [Decidable c] (h : tl.Sound M R) (k : v.Sound M R) : (if c then tl else v).Sound M R := by
  split_ifs
  · exact h
  · exact k

theorem Tile.Sound.foldl {α : Type} {f : Tile → α → Tile} {l : List α} (h : tl.Sound M R)
    (hf : ∀ tl a, tl.Sound M R → (f tl a).Sound M R) : (l.foldl f tl).Sound M R :=
  List.foldlRecOn l f h fun tl h a _ => hf tl a h

theorem Tile.Sound.modReg {f : TileReg → TileReg} {k : Reg} (h : tl.Sound M R) (hf : ∀ q, q.Legal → (f q).Legal) :
    (tl.modReg k f).Sound M R := by
  refine ⟨h.1, fun hr j => ?_⟩
  rw [Tile.modReg, SMap.get_modify]
  split_ifs
  · exact hf _ (h.2 hr _)
  · exact h.2 hr j

theorem Tile.Sound.lmWrite {src off : ℕ} {bs : List (Option Byte)} (h : tl.Sound M R) : (tl.lmWrite src off bs).Sound M R := by
  refine ⟨fun hm => Tile.wf_lmWrite tl src off bs (h.1 hm), ?_⟩
  rw [Tile.lmWrite_frame]
  exact h.2

/-- A change of the tiles that a map lists, one by one. -/
theorem sound_map {f : ℕ × Tile → ℕ × Tile} (hkey : ∀ p, (f p).1 = p.1) (hf : ∀ p, p.2.Sound M R → (f p).2.Sound M R) {k : ℕ}
    (l : SMap Tile) (h : (SMap.get {} l k).Sound M R) : (SMap.get {} (l.map f) k).Sound M R := by
  induction l with
  | nil => exact h
  | cons p l ih =>
    obtain ⟨j, v⟩ := p
    have hmap : SMap.get {} (((j, v) :: l).map f) k = if (f (j, v)).1 = k then (f (j, v)).2 else SMap.get {} (l.map f) k := rfl
    rw [hmap, hkey]
    rw [SMap.get_cons] at h
    split_ifs at h ⊢ with hjk
    · exact hf (j, v) h
    · exact ih h

/-! ## The part -/

theorem State.Sound.same (h : s.Sound M R) (ht : u.tiles = s.tiles) (hb : u.hbm = s.hbm) (hc : u.cxl = s.cxl) : u.Sound M R := by
  rw [State.Sound, MemoriesWf, hb, hc]
  refine ⟨h.1, fun t => ?_⟩
  rw [State.tile, ht]
  exact h.2 t

theorem State.Sound.ite {c : Prop} [Decidable c] (h : s.Sound M R) (k : u.Sound M R) : (if c then s else u).Sound M R := by
  split_ifs
  · exact h
  · exact k

theorem State.Sound.foldl {α : Type} {f : State → α → State} {l : List α} (h : s.Sound M R)
    (hf : ∀ s a, s.Sound M R → (f s a).Sound M R) : (l.foldl f s).Sound M R :=
  List.foldlRecOn l f h fun s h a _ => hf s a h

theorem State.Sound.modTile {f : Tile → Tile} (h : s.Sound M R) (hf : ∀ tl, tl.Sound M R → (f tl).Sound M R) :
    (s.modTile t f).Sound M R := by
  refine ⟨h.1, fun k => ?_⟩
  rw [State.tile_modTile]
  split_ifs
  · exact hf _ (h.2 t)
  · exact h.2 k

theorem State.Sound.setHbm {a : ℕ} {b : List Byte} (hs : s.Sound M R) : State.Sound M R { s with hbm := s.hbm.setBytes a b } :=
  ⟨fun hm => ⟨Memory.wf_setBytes _ _ _ (hs.1 hm).1, (hs.1 hm).2⟩, hs.2⟩

theorem State.Sound.setCxl {a : ℕ} {b : List Byte} (hs : s.Sound M R) : State.Sound M R { s with cxl := s.cxl.setBytes a b } :=
  ⟨fun hm => ⟨(hs.1 hm).1, Memory.wf_setBytes _ _ _ (hs.1 hm).2⟩, hs.2⟩

theorem State.Sound.hbmWrite {pa : ℕ} {b : List Byte} (h : s.Sound M R) : (s.hbmWrite pa b).Sound M R :=
  h.setHbm.same rfl rfl rfl

/-! ## Outcomes, and results of two kinds -/

theorem EndsSound.next (h : u.Sound M R) : EndsSound M R (.next u) := h

theorem bothSound_inl {α β : Type} {P : α → Prop} {Q : β → Prop} {a : α} (h : P a) :
    (∀ u, (.inl a : α ⊕ β) = .inl u → P u) ∧ ∀ u, (.inl a : α ⊕ β) = .inr u → Q u :=
  ⟨fun _ e => Sum.inl.inj e ▸ h, fun _ e => nomatch e⟩

theorem bothSound_inr {α β : Type} {P : α → Prop} {Q : β → Prop} {b : β} (h : Q b) :
    (∀ u, (.inr b : α ⊕ β) = .inl u → P u) ∧ ∀ u, (.inr b : α ⊕ β) = .inr u → Q u :=
  ⟨fun _ e => (nomatch e), fun _ e => Sum.inr.inj e ▸ h⟩

end

end Sys2Proof.Machine
end

section
/-! O58 and O59: what time, traps and exceptions, and the scalar instructions keep of the memories and the tile registers
(R24–R33, R97–R104, R355–R369). -/
namespace Sys2Proof.Machine

open Sys2Proof.Safety

section
variable {M R : Prop} {s : State} {tl : Tile}

/-! ## Time -/

theorem Tile.Sound.modTh {h : Thr} {f : Thread → Thread} (htl : tl.Sound M R) : (tl.modTh h f).Sound M R := htl.same rfl rfl

theorem Tile.Sound.settle (htl : tl.Sound M R) : tl.settle.Sound M R := .ite htl (htl.foldl (fun _ _ h1 => h1.modTh))

theorem Tile.Sound.stallOff {k : ℕ} (htl : tl.Sound M R) : (tl.stallOff k).Sound M R := by
  unfold Tile.stallOff
  refine .settle ?_
  exact htl.same rfl rfl

theorem Tile.Sound.pm {code n : ℕ} (htl : tl.Sound M R) : (tl.pm code n).Sound M R := .ite htl (htl.same rfl rfl)

theorem Tile.Sound.pass {cyc n : ℕ} (htl : tl.Sound M R) : (tl.pass cyc n).Sound M R := by
  unfold Tile.pass
  extract_lets _ _ m low t1 t2 t3 t4
  have h1 : t1.Sound M R := .ite htl (htl.same rfl rfl)
  have h2 : t2.Sound M R := by
    refine .ite (.ite (.stallOff ?_) ?_) h1
    · exact h1.same rfl rfl
    · exact h1.same rfl rfl
  have h3 : t3.Sound M R := by
    refine .ite h2 (.ite (.stallOff ?_) ?_)
    · exact h2.same rfl rfl
    · exact h2.same rfl rfl
  have h4 : t4.Sound M R := .ite (h3.same rfl rfl) (.ite h3 (h3.same rfl rfl))
  refine .pm (.pm ?_)
  exact h4.same rfl rfl

theorem Tile.Sound.elapse {cyc n : ℕ} (htl : tl.Sound M R) : (tl.elapse cyc n).Sound M R := .ite htl.pass htl.pass.pass

theorem State.Sound.elapse {n : ℕ} (hs : s.Sound M R) : (s.elapse n).Sound M R := by
  rw [State.elapse]
  split
  · exact hs
  · refine ⟨hs.1, fun t => sound_map (fun p => ?_) (fun p hp => ?_) _ (hs.2 t)⟩
    · dsimp only
      split <;> rfl
    · dsimp only
      split
      · exact hp.elapse
      · exact hp

theorem State.Sound.toSlot {t : TileId} {h : Thr} (hs : s.Sound M R) : (s.toSlot t h).Sound M R := .ite hs hs.elapse

theorem Tile.Sound.stallOn {h : Thr} {k : ℕ} (htl : tl.Sound M R) : (tl.stallOn h k).Sound M R := htl.same rfl rfl

theorem Tile.Sound.stallFor {h : Thr} {k n : ℕ} (htl : tl.Sound M R) : Tile.Sound M R { tl.stallOn h k with c7 := n } :=
  htl.same rfl rfl

theorem Tile.Sound.mcOvf (htl : tl.Sound M R) : tl.mcOvf.Sound M R := htl.same rfl rfl

/-! ## Machine checks, exceptions and issue -/

theorem State.Sound.modFunc {f : FuncNo} {g : Func → Func} (hs : s.Sound M R) : (s.modFunc f g).Sound M R := hs.same rfl rfl rfl

theorem Tile.Sound.mcRecord {r : McReport} {w0 : DWord} {pc : PWord} {sync : Bool} (htl : tl.Sound M R) :
    (tl.mcRecord r w0 pc sync).Sound M R :=
  .ite htl.mcOvf (htl.same rfl rfl)

theorem State.Sound.modCob {c : CobNo} {f : Cob → Cob} (hs : s.Sound M R) : (s.modCob c f).Sound M R := hs.same rfl rfl rfl

theorem State.Sound.dropClaim {t : TileId} (hs : s.Sound M R) : (s.dropClaim t).Sound M R := hs.modCob

theorem Tile.Sound.abandon (htl : tl.Sound M R) : tl.abandon.Sound M R := htl.same rfl rfl

theorem Tile.Sound.quell (htl : tl.Sound M R) : tl.quell.Sound M R := htl.same rfl rfl

theorem Tile.Sound.stopThreads {keep : Option Thr} (htl : tl.Sound M R) : (tl.stopThreads keep).Sound M R :=
  htl.foldl fun _ _ h1 => .ite h1 h1.modTh

theorem State.Sound.modPort {p : PortNo} {f : Port → Port} (hs : s.Sound M R) : (s.modPort p f).Sound M R := hs.same rfl rfl rfl

theorem State.Sound.sendOn {p : PortNo} {k : TxPkt} (hs : s.Sound M R) : (s.sendOn p k).Sound M R := hs.modPort

theorem State.Sound.replyOn {p : PortNo} {k : TxPkt} (hs : s.Sound M R) : (s.replyOn p k).Sound M R := by
  unfold State.replyOn
  split
  · exact hs.sendOn
  · exact hs

theorem State.Sound.sendEvent {f : FuncNo} {code : Byte} (hs : s.Sound M R) : (s.sendEvent f code).Sound M R := by
  unfold State.sendEvent
  split
  · exact hs
  · exact hs.replyOn

theorem State.Sound.event {f : FuncNo} {code : Byte} {result : DWord} (hs : s.Sound M R) : (s.event f code result).Sound M R :=
  hs.modFunc.sendEvent

theorem State.Sound.failFunc {f : FuncNo} {h : Option (TileId × Thr)} {rec0 : DWord} (hs : s.Sound M R) :
    (s.failFunc f h rec0).Sound M R :=
  (hs.foldl (fun _ _ h1 => (h1.modTile (fun _ h2 => h2.stopThreads.quell)).dropClaim)).modFunc.event

theorem Tile.Sound.spend (htl : tl.Sound M R) : tl.spend.Sound M R := htl.same rfl rfl

theorem Tile.Sound.enter {h : Thr} {toM : Bool} {cause : BitVec 5} {ret ipc : PWord} {detail : BitVec 4} {va : VAddr}
    {save : Bool} (htl : tl.Sound M R) : (tl.enter h toM cause ret ipc detail va save).Sound M R :=
  htl.modTh

theorem State.Sound.modTh {t : TileId} {h : Thr} {f : Thread → Thread} (hs : s.Sound M R) : (s.modTh t h f).Sound M R :=
  hs.modTile fun _ h1 => h1.modTh

theorem State.Sound.mcFunc {r : McReport} {f : FuncNo} {part : Bool} (hs : s.Sound M R) : (s.mcFunc r f part).Sound M R := by
  unfold State.mcFunc
  dsimp only
  split
  · exact hs
  · split
    · exact hs.modTile fun _ h => h.mcOvf
    · exact hs.modTile fun _ h => h.mcOvf
    · exact hs
  · split
    · exact .ite hs.modFunc (hs.modFunc.modTile fun _ h => h.mcRecord)
    · exact hs.modFunc
  · split
    · exact hs.failFunc
    · refine .ite (.modTile ?_ fun _ h => .ite h.mcOvf h.enter.spend) (.modTh ?_)
      · exact (hs.modTile fun _ h => h.mcRecord).failFunc
      · exact (hs.modTile fun _ h => h.mcRecord).failFunc

theorem State.Sound.sendFault {reason : Byte} (hs : s.Sound M R) : (s.sendFault reason).Sound M R :=
  hs.foldl fun _ _ h1 => h1.modPort

theorem State.Sound.leaveService {reason : Byte} {r : Option McReport} (hs : s.Sound M R) :
    (s.leaveService reason r).Sound M R := by
  unfold State.leaveService
  dsimp only
  split
  · split
    · exact hs.foldl fun _ _ h1 => h1.mcFunc
    · exact hs
  · refine .foldl ?_ fun _ _ h1 => h1.event
    refine .sendFault ?_
    refine .foldl ?_ ?_
    · exact hs.same rfl rfl rfl
    · intro _ _ h1
      split
      · exact h1.mcFunc
      · exact .ite h1 h1.failFunc

theorem State.Sound.machineCheck {r : McReport} (hs : s.Sound M R) : (s.machineCheck r).Sound M R :=
  .ite hs.leaveService (.ite hs.leaveService hs.mcFunc)

theorem State.Sound.parity {t : TileId} {h : Thr} (hs : s.Sound M R) : (s.parity t h).Sound M R := hs.machineCheck

theorem State.Sound.issue {t : TileId} {h : Thr} {len : ℕ} {body : State → State} (hs : s.Sound M R)
    (hbody : ∀ s, State.Sound M R s → State.Sound M R (body s)) : (Machine.issue t h len body s).Sound M R := by
  unfold Machine.issue
  dsimp only
  split
  · exact hs
  · exact hs.toSlot.modTile fun _ h1 => h1.stallOn
  · exact hs.toSlot.parity
  · exact hbody _ hs.toSlot

theorem Tile.Sound.touch (htl : tl.Sound M R) : tl.touch.Sound M R := .ite htl (htl.same rfl rfl)

theorem Tile.Sound.issued {h : Thr} (htl : tl.Sound M R) : (tl.issued h).Sound M R := htl.pm.pm.touch.spend

theorem State.Sound.finish {t : TileId} {h : Thr} {f : Thread → Thread} (hs : s.Sound M R) : (s.finish t h f).Sound M R :=
  hs.modTile fun _ h1 => h1.issued.modTh

theorem State.Sound.scalarOp {t : TileId} {h : Thr} {len : ℕ} {f : Thread → Thread} (hs : s.Sound M R) :
    (Machine.scalarOp t h len f s).Sound M R :=
  hs.issue fun _ h1 => h1.finish

theorem State.Sound.execNop {t : TileId} {h : Thr} (hs : s.Sound M R) : EndsSound M R (Machine.execNop t h s) := .next hs.scalarOp

theorem State.Sound.execStop {t : TileId} {h : Thr} (hs : s.Sound M R) : EndsSound M R (Machine.execStop t h s) :=
  .next (hs.issue (fun _ h1 => h1.finish))

theorem State.Sound.enterThen {t : TileId} {h : Thr} {toM : Bool} {cause : BitVec 5} {ret ipc : PWord} {detail : BitVec 4}
    {va : VAddr} {save : Bool} {g : Thread → Thread} (hs : s.Sound M R) :
    (s.enterThen t h toM cause ret ipc detail va save g).Sound M R :=
  .ite hs.parity (hs.modTile (fun _ h1 => h1.enter.modTh))

theorem State.Sound.enter {t : TileId} {h : Thr} {toM : Bool} {cause : BitVec 5} {ret ipc : PWord} {detail : BitVec 4}
    {va : VAddr} {save : Bool} (hs : s.Sound M R) : (s.enter t h toM cause ret ipc detail va save).Sound M R :=
  hs.enterThen

theorem State.Sound.execLift {t : TileId} {h : Thr} (hs : s.Sound M R) : EndsSound M R (Machine.execLift t h s) :=
  .next (hs.issue (fun _ h1 => (h1.modTile (fun _ h2 => h2.issued)).enter))

theorem State.Sound.raise {t : TileId} {h : Thr} {cause : BitVec 5} {detail : BitVec 4} {va : VAddr} (hs : s.Sound M R) :
    (s.raise t h cause detail va).Sound M R :=
  (hs.modTile (fun _ h1 => h1.issued)).enter

theorem State.Sound.execBrkpt {t : TileId} {h : Thr} (hs : s.Sound M R) : EndsSound M R (Machine.execBrkpt t h s) :=
  .next (hs.issue (fun _ h1 => .ite (h1.modTile (fun _ h2 => h2.issued.modTh)) h1.raise))

theorem State.Sound.illegalReturn {t : TileId} {h : Thr} {savedPl : BitVec 2} {rtnm : Bool} (hs : s.Sound M R) :
    (s.illegalReturn t h savedPl rtnm).Sound M R :=
  (hs.modTile (fun _ h1 => h1.issued)).enter

theorem State.Sound.execRtns {t : TileId} {h : Thr} (hs : s.Sound M R) : EndsSound M R (Machine.execRtns t h s) :=
  .next (hs.issue (fun _ h1 => .ite h1.raise (.ite h1.illegalReturn h1.finish)))

theorem State.Sound.execRtnm {t : TileId} {h : Thr} (hs : s.Sound M R) : EndsSound M R (Machine.execRtnm t h s) :=
  .next (hs.issue (fun _ h1 => .ite h1.raise (.ite h1.finish (.ite h1.illegalReturn h1.finish))))

theorem Tile.Sound.hazard {dbg : Bool} {kind : ℕ} {h : Thr} {pc : PWord} {detail : BitVec 6} {word : BitVec 14}
    (htl : tl.Sound M R) : (tl.hazard dbg kind h pc detail word).Sound M R := by
  unfold Tile.hazard
  dsimp only
  split
  · exact htl
  · split
    · refine .modTh ?_
      exact htl.same rfl rfl
    · exact htl.same rfl rfl

theorem Tile.Sound.spellOn {h : Thr} {k : BitVec 3} {n : ℕ} (htl : tl.Sound M R) : (tl.spellOn h k n).Sound M R :=
  .ite htl (htl.same rfl rfl)

theorem State.Sound.reserved {t : TileId} {h : Thr} {w : PWord} (hs : s.Sound M R) : (s.reserved t h w).Sound M R := by
  unfold State.reserved
  split
  · exact hs.modTile fun _ htl => htl.hazard.modTh
  · extract_lets n fr s1 c pl s2
    have h1 : s1.Sound M R := by
      refine .modTile ?_ fun tl htl => .modTh ?_
      · exact hs.same rfl rfl rfl
      · have hi : (tl.issued h).Sound M R := htl.issued
        exact hi.same rfl rfl
    have h2 : s2.Sound M R := .ite h1.enter h1
    exact .ite (h2.modTile fun _ htl => htl.spellOn) h2

theorem State.Sound.checked {t : TileId} {h : Thr} {ok : Bool} {w : PWord} {k : State → State} (hs : s.Sound M R)
    (hk : ∀ s, State.Sound M R s → State.Sound M R (k s)) : (Machine.checked t h ok w k s).Sound M R :=
  .ite (hk _ hs) hs.reserved

/-! ## Scalar instructions -/

theorem State.Sound.execMfs {t : TileId} {h : Thr} {d : Reg} {ix : BitVec 8} (hs : s.Sound M R) :
    EndsSound M R (Machine.execMfs t h d ix s) :=
  .next (hs.issue (fun _ h1 => h1.checked (fun _ h2 => .ite h2.raise h2.finish)))

theorem State.Sound.execMts {t : TileId} {h : Thr} {x : Reg} {ix : BitVec 8} (hs : s.Sound M R) :
    EndsSound M R (Machine.execMts t h x ix s) := by
  unfold Machine.execMts
  refine .next ?_
  exact hs.issue fun _ h1 => h1.checked fun _ h2 => .ite h2.raise (.finish (.ite (h2.modTile (fun _ h3 => h3.hazard)) h2))

theorem State.Sound.execAdd {t : TileId} {h : Thr} {d x : Reg} (hs : s.Sound M R) : EndsSound M R (Machine.execAdd t h d x s) :=
  .next hs.scalarOp

theorem State.Sound.execSub {t : TileId} {h : Thr} {d x : Reg} (hs : s.Sound M R) : EndsSound M R (Machine.execSub t h d x s) :=
  .next hs.scalarOp

theorem State.Sound.execAnd {t : TileId} {h : Thr} {d x : Reg} (hs : s.Sound M R) : EndsSound M R (Machine.execAnd t h d x s) :=
  .next hs.scalarOp

theorem State.Sound.execOr {t : TileId} {h : Thr} {d x : Reg} (hs : s.Sound M R) : EndsSound M R (Machine.execOr t h d x s) :=
  .next hs.scalarOp

theorem State.Sound.execXor {t : TileId} {h : Thr} {d x : Reg} (hs : s.Sound M R) : EndsSound M R (Machine.execXor t h d x s) :=
  .next hs.scalarOp

theorem State.Sound.execShl {t : TileId} {h : Thr} {d x : Reg} (hs : s.Sound M R) : EndsSound M R (Machine.execShl t h d x s) :=
  .next hs.scalarOp

theorem State.Sound.execShr {t : TileId} {h : Thr} {d x : Reg} (hs : s.Sound M R) : EndsSound M R (Machine.execShr t h d x s) :=
  .next hs.scalarOp

theorem State.Sound.execSar {t : TileId} {h : Thr} {d x : Reg} (hs : s.Sound M R) : EndsSound M R (Machine.execSar t h d x s) :=
  .next hs.scalarOp

theorem State.Sound.execMul {t : TileId} {h : Thr} {d x : Reg} (hs : s.Sound M R) : EndsSound M R (Machine.execMul t h d x s) :=
  .next hs.scalarOp

theorem State.Sound.execCmp {t : TileId} {h : Thr} {d x : Reg} (hs : s.Sound M R) : EndsSound M R (Machine.execCmp t h d x s) :=
  .next hs.scalarOp

theorem State.Sound.execMov {t : TileId} {h : Thr} {d x : Reg} (hs : s.Sound M R) : EndsSound M R (Machine.execMov t h d x s) :=
  .next hs.scalarOp

theorem State.Sound.execAddi {t : TileId} {h : Thr} {d x : Reg} {imm : BitVec 14} (hs : s.Sound M R) :
    EndsSound M R (Machine.execAddi t h d x imm s) :=
  .next hs.scalarOp

theorem State.Sound.execAndi {t : TileId} {h : Thr} {d x : Reg} {imm : BitVec 14} (hs : s.Sound M R) :
    EndsSound M R (Machine.execAndi t h d x imm s) :=
  .next hs.scalarOp

theorem State.Sound.execCmpi {t : TileId} {h : Thr} {x : Reg} {imm : BitVec 14} (hs : s.Sound M R) :
    EndsSound M R (Machine.execCmpi t h x imm s) :=
  .next hs.scalarOp

theorem State.Sound.execLdi {t : TileId} {h : Thr} {d : Reg} {imm : BitVec 32} (hs : s.Sound M R) :
    EndsSound M R (Machine.execLdi t h d imm s) :=
  .next hs.scalarOp

theorem State.Sound.execMova {t : TileId} {h : Thr} {ad x : Reg} (hs : s.Sound M R) :
    EndsSound M R (Machine.execMova t h ad x s) :=
  .next hs.scalarOp

theorem State.Sound.execAdda {t : TileId} {h : Thr} {ad x : Reg} (hs : s.Sound M R) :
    EndsSound M R (Machine.execAdda t h ad x s) :=
  .next hs.scalarOp

theorem State.Sound.execLai {t : TileId} {h : Thr} {ad : Reg} {imm : BitVec 28} (hs : s.Sound M R) :
    EndsSound M R (Machine.execLai t h ad imm s) :=
  .next hs.scalarOp

theorem State.Sound.execLah {t : TileId} {h : Thr} {ad : Reg} {imm : BitVec 20} (hs : s.Sound M R) :
    EndsSound M R (Machine.execLah t h ad imm s) :=
  .next hs.scalarOp

end

end Sys2Proof.Machine
end

section
/-! O58 and O59: what memory accesses, control, strings and seed bits keep. -/
namespace Sys2Proof.Machine

open Sys2Proof.Safety

section
variable {M R : Prop} {s : State} {tl : Tile}

/-! ## Where an access goes, and local memory -/

theorem Tile.Sound.startWalk {h : Thr} {va : VAddr} (htl : tl.Sound M R) : (tl.startWalk h va).Sound M R := htl.pm.stallOn.modTh

theorem Tile.Sound.tlbTouch {va : ℕ} (htl : tl.Sound M R) : (tl.tlbTouch va).Sound M R := by
  unfold Tile.tlbTouch
  split
  · exact htl.same rfl rfl
  · exact htl

theorem State.Sound.withTarget {t : TileId} {h : Thr} {a : DWord} {n al : ℕ} {write : Bool} {k : Target → State → State}
    (hs : s.Sound M R) (hk : ∀ a s, State.Sound M R s → State.Sound M R (k a s)) :
    (Machine.withTarget t h a n al write k s).Sound M R := by
  unfold Machine.withTarget
  split
  · exact hs.raise
  · exact hs.modTile fun _ h1 => h1.startWalk
  · exact hk _ _ (.ite hs (hs.modTile (fun _ h1 => h1.tlbTouch)))

theorem State.Sound.tileMc {src : Byte} {t : TileId} {reader : Option (TileId × Thr)} {pa : ℕ} {va : Option VAddr}
    (hs : s.Sound M R) : (s.tileMc src t reader pa va).Sound M R := by
  unfold State.tileMc
  split
  · exact hs
  · exact hs.machineCheck

theorem Tile.Sound.errRecord {src word : ℕ} {ue : Bool} (htl : tl.Sound M R) : (tl.errRecord src word ue).Sound M R :=
  .ite htl (htl.same rfl rfl)

theorem State.Sound.lmFail {t : TileId} {src word : ℕ} {reader : Option (TileId × Thr)} {va : Option VAddr} (hs : s.Sound M R) :
    (s.lmFail t src word reader va).Sound M R :=
  (hs.modTile (fun _ h1 => h1.errRecord)).tileMc

theorem Tile.Sound.corrected {src word : ℕ} (htl : tl.Sound M R) : (tl.corrected src word).Sound M R := by
  unfold Tile.corrected
  refine .errRecord ?_
  exact htl.same rfl rfl

theorem Tile.Sound.fixWords {src : ℕ} {ws : List (ℕ × Bool)} (htl : tl.Sound M R) : (tl.fixWords src ws).Sound M R :=
  htl.foldl fun _ _ h1 => .ite h1 h1.corrected

theorem State.Sound.reply {id : ℕ} (hs : s.Sound M R) : (s.reply id).Sound M R := hs.same rfl rfl rfl

theorem State.Sound.ackStore {t : TileId} {id : ℕ} (hs : s.Sound M R) : (s.ackStore t id).Sound M R :=
  hs.reply.modTile fun _ h1 => h1.same rfl rfl

theorem Tile.Sound.modQueue {q : QIx} {f : Queue → Queue} (htl : tl.Sound M R) : (tl.modQueue q f).Sound M R := htl.same rfl rfl

theorem State.Sound.drainInbound {t : TileId} {ecc : Ecc} (hs : s.Sound M R) : (s.drainInbound t ecc).Sound M R := by
  unfold State.drainInbound
  dsimp only
  split
  · exact hs
  · split
    · refine .lmFail ?_
      exact hs.modTile fun _ h1 => .ite (h1.same rfl rfl) (h1.same rfl rfl)
    · split
      · refine .ackStore ?_
        refine .modTile ?_ fun _ h1 => h1.lmWrite
        exact hs.modTile fun _ h1 => .ite (h1.same rfl rfl) (h1.same rfl rfl)
      · refine .modTile ?_ fun _ h1 => h1.modQueue
        refine .modTile ?_ fun _ h1 => h1.lmWrite
        exact hs.modTile fun _ h1 => .ite (h1.same rfl rfl) (h1.same rfl rfl)
      · refine .modTile ?_ fun _ h1 => h1.lmWrite
        exact hs.modTile fun _ h1 => .ite (h1.same rfl rfl) (h1.same rfl rfl)

theorem State.Sound.withPort {t : TileId} {h : Thr} {k : State → State} (hs : s.Sound M R)
    (hk : ∀ s, State.Sound M R s → State.Sound M R (k s)) : (Machine.withPort t h k s).Sound M R :=
  .ite (hs.drainInbound.modTile (fun _ h1 => h1.same rfl rfl)) (hk _ hs)

theorem State.Sound.withRead {t : TileId} {h : Thr} {va : VAddr} {off n : ℕ} {k : State → State} (hs : s.Sound M R)
    (hk : ∀ s, State.Sound M R s → State.Sound M R (k s)) : (Machine.withRead t h va off n k s).Sound M R := by
  unfold Machine.withRead
  refine hs.withPort fun s hs => ?_
  extract_lets ws
  split
  · exact hs.modTile fun _ h => h.fixWords.stallFor
  · split
    · exact hs.lmFail
    · exact hk _ hs

theorem State.Sound.land {t : TileId} {h : Thr} {f : Thread → Thread} (hs : s.Sound M R) : (s.land t h f).Sound M R := hs.modTh

theorem State.Sound.withWrite {t : TileId} {h : Thr} {va : VAddr} {off : ℕ} {bs : List (Option Byte)} {k : State → State}
    (hs : s.Sound M R) (hk : ∀ s, State.Sound M R s → State.Sound M R (k s)) :
    (Machine.withWrite t h va off bs k s).Sound M R := by
  unfold Machine.withWrite
  refine hs.withPort fun _ h1 => ?_
  split
  · exact (hk _ h1).lmFail
  · exact hk _ (h1.modTile (fun _ h2 => h2.lmWrite))

theorem Tile.Sound.dropSector {i va word : ℕ} (htl : tl.Sound M R) : (tl.dropSector i va word).Sound M R :=
  .same (tl := tl.errRecord 2 word true) htl.errRecord rfl rfl

theorem Tile.Sound.touchLine {i : ℕ} (htl : tl.Sound M R) : (tl.touchLine i).Sound M R := htl.same rfl rfl

theorem State.Sound.withCache {t : TileId} {h : Thr} {va : ℕ} {bytes : List Byte} {k : State → State} (hs : s.Sound M R)
    (hk : ∀ s, State.Sound M R s → State.Sound M R (k s)) : (Machine.withCache t h va bytes k s).Sound M R := by
  unfold Machine.withCache
  extract_lets tl missed bs
  have hmissed {s : State} (hs : s.Sound M R) : (missed s).Sound M R := hs.modTile fun _ htl => htl.same rfl rfl
  split
  · exact hk _ (hmissed hs)
  · refine hs.withPort fun s hs => ?_
    split
    · exact hs.modTile fun _ h => h.fixWords.stallFor
    · split
      · exact hk _ (hmissed (hs.modTile fun _ h => h.dropSector))
      · exact hk _ (hs.modTile fun _ h => h.touchLine.lmWrite)

/-! ## Stores, loads and the cache partition -/

theorem State.Sound.request {t : TileId} {h : Thr} {write fill : Bool} {g : Target} {va : VAddr} {n esz : ℕ} {data : List Byte}
    (hs : s.Sound M R) : (s.request t h write fill g va n esz data).Sound M R :=
  hs.same rfl rfl rfl

theorem State.Sound.bufferStore {t : TileId} {h : Thr} {va : VAddr} {g : Target} {esz : ℕ} {bytes : List Byte} (hs : s.Sound M R)
    : (s.bufferStore t h va g esz bytes).Sound M R := by
  unfold State.bufferStore
  dsimp only
  refine .request ?_
  refine hs.modTile fun _ h1 => ?_
  refine .modTh ?_
  exact h1.same rfl rfl

theorem State.Sound.storeAt {t : TileId} {h : Thr} {va : VAddr} {g : Target} {esz : ℕ} {bytes : List Byte} {k : State → State}
    (hs : s.Sound M R) (hk : ∀ s, State.Sound M R s → State.Sound M R (k s)) :
    (Machine.storeAt t h va g esz bytes k s).Sound M R := by
  unfold Machine.storeAt
  split
  · exact hs.withWrite hk
  · exact .ite (hs.modTile (fun _ h1 => h1.stallOn)) (hs.withCache (fun _ h1 => hk _ h1.bufferStore))
  · exact .ite (hs.modTile (fun _ h1 => h1.stallOn)) (hk _ hs.bufferStore)

theorem State.Sound.deliver {t : TileId} {h : Thr} {dest : LoadDest} {b : List Byte} (hs : s.Sound M R) :
    (s.deliver t h dest b).Sound M R := by
  unfold State.deliver
  dsimp only
  split
  · exact hs.land
  · exact hs.land
  · exact hs.storeAt fun _ h1 => h1.land
  · exact hs.land

theorem State.Sound.waitOn {t : TileId} {h : Thr} {dest : LoadDest} {va : VAddr} {g : Target} {n : ℕ} {on : WaitFor}
    (hs : s.Sound M R) : (s.waitOn t h dest va g n on).Sound M R :=
  hs.modTh

theorem Tile.Sound.allocLine {va : ℕ} (htl : tl.Sound M R) : (tl.allocLine va).2.Sound M R := htl.same rfl rfl

theorem Tile.Sound.lineFor {va : ℕ} (htl : tl.Sound M R) : (tl.lineFor va).2.Sound M R := by
  unfold Tile.lineFor
  dsimp only
  split
  · exact htl.touchLine
  · exact htl.allocLine.touchLine

theorem State.Sound.startFill {t : TileId} {h : Thr} {va pa : ℕ} (hs : s.Sound M R) : (s.startFill t h va pa).Sound M R := by
  unfold State.startFill
  dsimp only
  refine .request ?_
  refine hs.modTile fun tl' h1 => ?_
  exact .same (tl := (tl'.lineFor va).2) h1.lineFor rfl rfl

theorem State.Sound.loadHbm {t : TileId} {h : Thr} {va : VAddr} {pa n esz : ℕ} {es : List (Option (List Byte))} {dest : LoadDest}
    (hs : s.Sound M R) : (s.loadHbm t h va pa n esz es dest).Sound M R := by
  unfold State.loadHbm
  extract_lets tl miss
  have hmiss {s : State} (hs : s.Sound M R) : (miss s).Sound M R := by
    unfold miss
    split
    · exact hs.waitOn
    · exact .ite hs.waitOn hs.startFill.waitOn
  split
  · exact hs.request.waitOn
  · split
    · exact hmiss hs
    · refine hs.withPort fun s hs => ?_
      split
      · exact hs.modTile fun _ h => h.fixWords.stallFor
      · split
        · exact hmiss (hs.modTile fun _ h => h.dropSector)
        · exact (hs.modTile fun _ h => h.touchLine.pm).deliver

theorem State.Sound.loadFrom {t : TileId} {h : Thr} {va : VAddr} {g : Target} {n esz : ℕ} {dest : LoadDest} (hs : s.Sound M R) :
    (s.loadFrom t h va g n esz dest).Sound M R := by
  unfold State.loadFrom
  split
  · exact hs.withRead fun _ h1 => h1.deliver
  · split
    · exact hs.deliver
    · exact hs.waitOn
    · split
      · exact .ite hs.loadHbm hs.waitOn
      · exact hs.waitOn
    · split
      · exact hs.loadHbm
      · exact hs.request.waitOn

theorem State.Sound.prefetchOne {t : TileId} {h : Thr} {a : ℕ} {x : ℤ} (hs : s.Sound M R) :
    (s.prefetchOne t h a x).Sound M R := by
  unfold State.prefetchOne
  dsimp only
  split
  · exact hs.modTile fun _ h1 => h1.pm
  · split
    · exact hs.modTile fun _ h1 => h1.pm
    · exact .ite (hs.modTile (fun _ h1 => h1.pm)) ((hs.modTile (fun _ h1 => h1.pm)).startFill)

theorem State.Sound.detect {t : TileId} {h : Thr} {a : VAddr} (hs : s.Sound M R) : (s.detect t h a).Sound M R :=
  .ite hs (.ite hs.modTh (hs.modTh.foldl (fun _ _ h1 => h1.prefetchOne)))

theorem State.Sound.loadAt {t : TileId} {h : Thr} {va : VAddr} {g : Target} {n esz : ℕ} {dest : LoadDest} (hs : s.Sound M R) :
    (s.loadAt t h va g n esz dest).Sound M R := by
  unfold State.loadAt
  dsimp only
  split
  · exact hs.loadFrom
  · split
    · exact (hs.loadFrom.modTile (fun _ h1 => h1.issued)).detect
    · exact hs.loadFrom.modTile fun _ h1 => h1.issued

theorem State.Sound.scalarLoad {t : TileId} {h : Thr} {an : Reg} {dsp : BitVec 14} {n : ℕ} {dest : LoadDest} (hs : s.Sound M R) :
    (Machine.scalarLoad t h an dsp n dest s).Sound M R :=
  hs.issue fun _ h1 => h1.withTarget fun _ _ h2 => h2.loadAt

theorem State.Sound.execLd {t : TileId} {h : Thr} {r an : Reg} {dsp : BitVec 14} (hs : s.Sound M R) :
    EndsSound M R (Machine.execLd t h r an dsp s) :=
  .next hs.scalarLoad

theorem State.Sound.complete {t : TileId} {h : Thr} {len : ℕ} (hs : s.Sound M R) : (s.complete t h len).Sound M R := hs.finish

theorem State.Sound.scalarStore {t : TileId} {h : Thr} {an : Reg} {dsp : BitVec 14} {n : ℕ} {v : Thread → DWord}
    (hs : s.Sound M R) : (Machine.scalarStore t h an dsp n v s).Sound M R :=
  hs.issue fun _ h1 => h1.withTarget fun _ _ h2 => h2.storeAt fun _ h3 => h3.complete

theorem State.Sound.execSt {t : TileId} {h : Thr} {r an : Reg} {dsp : BitVec 14} (hs : s.Sound M R) :
    EndsSound M R (Machine.execSt t h r an dsp s) :=
  .next hs.scalarStore

theorem State.Sound.execLda {t : TileId} {h : Thr} {r an : Reg} {dsp : BitVec 14} (hs : s.Sound M R) :
    EndsSound M R (Machine.execLda t h r an dsp s) :=
  .next hs.scalarLoad

theorem State.Sound.execSta {t : TileId} {h : Thr} {r an : Reg} {dsp : BitVec 14} (hs : s.Sound M R) :
    EndsSound M R (Machine.execSta t h r an dsp s) :=
  .next hs.scalarStore

theorem Tile.Sound.zeroLine {va : ℕ} (htl : tl.Sound M R) : (tl.zeroLine va).Sound M R := by
  unfold Tile.zeroLine
  split
  · exact htl
  · extract_lets r t1
    have h1 : t1.Sound M R := htl.lineFor.lmWrite
    clear_value t1
    exact h1.same rfl rfl

theorem State.Sound.execZline {t : TileId} {h : Thr} {an : Reg} {dsp : BitVec 14} (hs : s.Sound M R) :
    EndsSound M R (Machine.execZline t h an dsp s) := by
  unfold Machine.execZline
  refine .next (hs.issue fun s hs => hs.withTarget fun _ s hs => ?_)
  split
  · exact hs.storeAt fun _ h => h.complete
  · extract_lets go
    have hgo {s : State} (hs : s.Sound M R) : (go s).Sound M R := (hs.modTile fun _ h => h.zeroLine).bufferStore.complete
    exact .ite (hs.modTile fun _ h => h.stallOn) (.ite (hgo hs) (hs.withPort fun _ h => hgo h))
  · exact hs.raise

/-! ## Control and string instructions -/

theorem State.Sound.execBr {t : TileId} {h : Thr} {cond : BrCond} {po : BitVec 14} (hs : s.Sound M R) :
    EndsSound M R (Machine.execBr t h cond po s) :=
  .next (hs.issue (fun _ h1 => h1.finish))

theorem State.Sound.execCall {t : TileId} {h : Thr} {d : Reg} {po : BitVec 14} (hs : s.Sound M R) :
    EndsSound M R (Machine.execCall t h d po s) :=
  .next (hs.issue (fun _ h1 => h1.finish))

theorem State.Sound.execJr {t : TileId} {h : Thr} {x : Reg} (hs : s.Sound M R) : EndsSound M R (Machine.execJr t h x s) :=
  .next (hs.issue (fun _ h1 => h1.finish))

theorem State.Sound.execRep {t : TileId} {h : Thr} {dc : Reg} {po : BitVec 14} (hs : s.Sound M R) :
    EndsSound M R (Machine.execRep t h dc po s) :=
  .next (hs.issue (fun _ h1 => .ite h1.raise h1.finish))

theorem State.Sound.stringSlot {t : TileId} {h : Thr} {dc : Reg} {ill : Bool} {n : ℕ} {ptrs : List DWord}
    {empty : Thread → Thread} {run : State → State} (hs : s.Sound M R) (hrun : ∀ s, State.Sound M R s → State.Sound M R (run s)) :
    (Machine.stringSlot t h dc ill n ptrs empty run s).Sound M R := by
  unfold Machine.stringSlot
  split
  · exact hs.finish
  · split
    · exact hs.raise
    · exact hrun _ hs

theorem State.Sound.withTargets {t : TileId} {h : Thr} {ps pd : DWord} {n : ℕ} {k : Target → Target → State → State}
    (hs : s.Sound M R) (hk : ∀ a b s, State.Sound M R s → State.Sound M R (k a b s)) :
    (Machine.withTargets t h ps pd n k s).Sound M R := by
  unfold Machine.withTargets
  split
  · extract_lets touch
    have ht {a : DWord} {s : State} (hs : s.Sound M R) : (touch a s).Sound M R := .ite hs (hs.modTile fun _ h => h.tlbTouch)
    exact hk _ _ _ (ht (ht hs))
  · exact hs.raise
  · exact hs.modTile fun _ h => h.startWalk

theorem State.Sound.execSmov {t : TileId} {h : Thr} {ad x : Reg} {mode : Bool} {sz : ESize} {dc : Reg} (hs : s.Sound M R) :
    EndsSound M R (Machine.execSmov t h ad x mode sz dc s) := by
  unfold Machine.execSmov
  refine .next ?_
  exact hs.issue fun _ h1 => h1.checked fun _ h2 => h2.stringSlot fun _ h3 => h3.withTargets fun _ _ _ h4 => h4.loadAt

theorem State.Sound.execSscn {t : TileId} {h : Thr} {ad dv : Reg} {mode : Bool} {sz : ESize} {dc : Reg} (hs : s.Sound M R) :
    EndsSound M R (Machine.execSscn t h ad dv mode sz dc s) :=
  .next (hs.issue (fun _ h1 => h1.stringSlot (fun _ h2 => h2.withTarget (fun _ _ h3 => h3.loadAt))))

theorem State.Sound.execSfil {t : TileId} {h : Thr} {ad dv : Reg} {mode : Bool} {sz : ESize} {dc : Reg} (hs : s.Sound M R) :
    EndsSound M R (Machine.execSfil t h ad dv mode sz dc s) := by
  unfold Machine.execSfil
  refine .next ?_
  refine hs.issue fun _ h1 => ?_
  exact h1.checked fun _ h2 => h2.stringSlot fun _ h3 => h3.withTarget fun _ _ h4 => h4.storeAt fun _ h5 => h5.finish

/-! ## Seed bits -/

theorem State.Sound.seedOp {t : TileId} {h : Thr} {len : ℕ} {f : Tile → Tile} (hs : s.Sound M R)
    (hf : ∀ tl, Tile.Sound M R tl → Tile.Sound M R (f tl)) : (Machine.seedOp t h len f s).Sound M R :=
  hs.issue fun _ h1 => (h1.modTile hf).complete

theorem Tile.Sound.clearSticky {o : ℕ} (htl : tl.Sound M R) : (tl.clearSticky o).Sound M R := by
  unfold Tile.clearSticky
  refine .ite (htl.same rfl rfl) ?_
  refine .ite (htl.same rfl rfl) ?_
  exact .ite (htl.same rfl rfl) (.ite (htl.same rfl rfl) (.ite (htl.same rfl rfl) (.ite (htl.same rfl rfl) htl)))

theorem Tile.Sound.setSeed {h : Thr} {a : Seed} {v : Bool} (htl : tl.Sound M R) : (tl.setSeed h a v).Sound M R :=
  .ite htl.modTh (.ite (htl.same rfl rfl) (.ite htl htl.clearSticky))

theorem State.Sound.execBput {t : TileId} {h : Thr} {v : Bool} {a : Seed} (hs : s.Sound M R) :
    EndsSound M R (Machine.execBput t h v a s) :=
  .next (hs.seedOp (fun _ h1 => h1.setSeed))

theorem State.Sound.execBmov {t : TileId} {h : Thr} {dst : Seed} {n : Bool} {src : Seed} (hs : s.Sound M R) :
    EndsSound M R (Machine.execBmov t h dst n src s) :=
  .next (hs.seedOp (fun _ h1 => h1.setSeed))

theorem State.Sound.execBand {t : TileId} {h : Thr} {dst : Seed} {n : Bool} {src : Seed} (hs : s.Sound M R) :
    EndsSound M R (Machine.execBand t h dst n src s) :=
  .next (hs.seedOp (fun _ h1 => h1.setSeed))

theorem State.Sound.execBor {t : TileId} {h : Thr} {dst : Seed} {n : Bool} {src : Seed} (hs : s.Sound M R) :
    EndsSound M R (Machine.execBor t h dst n src s) :=
  .next (hs.seedOp (fun _ h1 => h1.setSeed))

theorem State.Sound.execBxor {t : TileId} {h : Thr} {dst : Seed} {n : Bool} {src : Seed} (hs : s.Sound M R) :
    EndsSound M R (Machine.execBxor t h dst n src s) :=
  .next (hs.seedOp (fun _ h1 => h1.setSeed))

theorem State.Sound.block {t : TileId} {h : Thr} {b : BlockOp} (hs : s.Sound M R) : (s.block t h b).Sound M R :=
  hs.modTile fun _ h1 => h1.spend.modTh

theorem State.Sound.bwaitSlot {t : TileId} {h : Thr} {v : Bool} {a : Seed} (hs : s.Sound M R) : (s.bwaitSlot t h v a).Sound M R :=
  .ite hs.complete hs.block

theorem State.Sound.execBwait {t : TileId} {h : Thr} {v : Bool} {a : Seed} (hs : s.Sound M R) :
    EndsSound M R (Machine.execBwait t h v a s) :=
  .next (hs.issue (fun _ h1 => h1.bwaitSlot))

theorem State.Sound.skipOp {t : TileId} {h : Thr} {f : Thread → Thread} {take : Bool} (hs : s.Sound M R) :
    (s.skipOp t h f take).Sound M R :=
  .ite hs.finish (.ite hs.parity hs.finish)

theorem State.Sound.execBskp {t : TileId} {h : Thr} {v : Bool} {a : Seed} (hs : s.Sound M R) :
    EndsSound M R (Machine.execBskp t h v a s) :=
  .next (hs.issue (fun _ h1 => h1.skipOp))

theorem State.Sound.execBrd {t : TileId} {h : Thr} {d : Reg} {sa : Seed} (hs : s.Sound M R) :
    EndsSound M R (Machine.execBrd t h d sa s) :=
  .next (hs.issue (fun _ h1 => h1.checked (fun _ h2 => h2.finish)))

theorem Tile.Sound.setSeedRun {h : Thr} {a : Seed} {v n : ℕ} (htl : tl.Sound M R) : (tl.setSeedRun h a v n).Sound M R := by
  induction n generalizing tl a v with
  | zero => exact htl
  | succ n ih => exact ih htl.setSeed

theorem State.Sound.execBwr {t : TileId} {h : Thr} {x : Reg} {sa : Seed} (hs : s.Sound M R) :
    EndsSound M R (Machine.execBwr t h x sa s) :=
  .next (hs.issue (fun _ h1 => h1.checked (fun _ h2 => (h2.modTile (fun _ h3 => h3.setSeedRun)).complete)))

end

end Sys2Proof.Machine
end

section
/-! O58 and O59: what the vector instructions, VROUTE, and the tile and matrix instructions keep. -/
namespace Sys2Proof.Machine

open Sys2Proof.Safety

section
variable {M R : Prop} {s : State} {tl : Tile}

/-! ## Vector memory, lane movement and exact sums -/

theorem State.Sound.withV {t : TileId} {h : Thr} {rs : List Reg} {k : State → State} (hs : s.Sound M R)
    (hk : ∀ s, State.Sound M R s → State.Sound M R (k s)) : (Machine.withV t h rs k s).Sound M R := by
  unfold Machine.withV
  dsimp only
  split
  · exact hs.modTile fun _ h1 => h1.same rfl rfl
  · exact hk _ hs

theorem State.Sound.ownAccess {t : TileId} {h : Thr} {a : DWord} {n al : ℕ} {write : Bool} {k : ℕ → State → State}
    (hs : s.Sound M R) (hk : ∀ a s, State.Sound M R s → State.Sound M R (k a s)) :
    (Machine.ownAccess t h a n al write k s).Sound M R := by
  unfold Machine.ownAccess
  dsimp only
  split
  · exact hs.raise
  · split
    · exact hs.raise
    · split
      · exact hk _ _ hs
      · exact hs.raise

theorem State.Sound.vecAccess {t : TileId} {h : Thr} {r an : Reg} {m : Mask} {ty : Ty} {dsp : BitVec 14} {write : Bool}
    {k : ℕ → ℕ → State → State} (hs : s.Sound M R) (hk : ∀ a b s, State.Sound M R s → State.Sound M R (k a b s)) :
    (Machine.vecAccess t h r an m ty dsp write k s).Sound M R := by
  unfold Machine.vecAccess
  exact hs.issue fun _ h1 => h1.withV fun _ h2 => .ite h2.raise (.ite h2.complete (h2.ownAccess (fun _ _ h3 => hk _ _ _ h3)))

theorem State.Sound.execVld {t : TileId} {h : Thr} {vd an : Reg} {m : Mask} {ty : Ty} {dsp : BitVec 14} (hs : s.Sound M R) :
    EndsSound M R (Machine.execVld t h vd an m ty dsp s) :=
  .next (hs.vecAccess (fun _ _ _ h1 => h1.withRead (fun _ h2 => h2.finish)))

theorem State.Sound.execVst {t : TileId} {h : Thr} {vs an : Reg} {m : Mask} {ty : Ty} {dsp : BitVec 14} (hs : s.Sound M R) :
    EndsSound M R (Machine.execVst t h vs an m ty dsp s) :=
  .next (hs.vecAccess (fun _ _ _ h1 => h1.withWrite (fun _ h2 => h2.complete)))

theorem State.Sound.vecOp {t : TileId} {h : Thr} {len : ℕ} {vd : Reg} {reads : List Reg} {f : Tile → Thread → VWord}
    (hs : s.Sound M R) : (Machine.vecOp t h len vd reads f s).Sound M R :=
  hs.withV fun _ h1 => h1.finish

theorem State.Sound.execVbc {t : TileId} {h : Thr} {vd x : Reg} {m : Mask} {ty : Ty} (hs : s.Sound M R) :
    EndsSound M R (Machine.execVbc t h vd x m ty s) :=
  .next (hs.issue (fun _ h1 => h1.vecOp))

theorem State.Sound.execVext {t : TileId} {h : Thr} {d va : Reg} {ln : BitVec 5} {ty : Ty} (hs : s.Sound M R) :
    EndsSound M R (Machine.execVext t h d va ln ty s) :=
  .next (hs.issue (fun _ h1 => h1.checked (fun _ h2 => h2.withV (fun _ h3 => h3.finish))))

theorem State.Sound.execVperm {t : TileId} {h : Thr} {vd va vb : Reg} {m : Mask} {ty : Ty} (hs : s.Sound M R) :
    EndsSound M R (Machine.execVperm t h vd va vb m ty s) :=
  .next (hs.issue (fun _ h1 => h1.vecOp))

theorem State.Sound.execVsel {t : TileId} {h : Thr} {vd va vb : Reg} {m : Mask} {ty : Ty} (hs : s.Sound M R) :
    EndsSound M R (Machine.execVsel t h vd va vb m ty s) :=
  .next (hs.issue (fun _ h1 => h1.checked (fun _ h2 => h2.vecOp)))

theorem State.Sound.execVcmp {t : TileId} {h : Thr} {cond : VCond} {va vb : Reg} {m : Mask} {ty : Ty} (hs : s.Sound M R) :
    EndsSound M R (Machine.execVcmp t h cond va vb m ty s) := by
  unfold Machine.execVcmp
  refine .next ?_
  exact hs.issue fun _ h1 => h1.checked fun _ h2 => h2.withV fun _ h3 => (h3.modTile (fun _ h4 => h4.setSeedRun)).complete

theorem State.Sound.execVcvt {t : TileId} {h : Thr} {vd va : Reg} {se de : Elem} (hs : s.Sound M R) :
    EndsSound M R (Machine.execVcvt t h vd va se de s) :=
  .next (hs.issue (fun _ h1 => h1.vecOp))

theorem State.Sound.execVxs {t : TileId} {h : Thr} {vd va dk ac : Reg} {m : Mask5} {ty : Ty} (hs : s.Sound M R) :
    EndsSound M R (Machine.execVxs t h vd va dk ac m ty s) :=
  .next (hs.issue (fun _ h1 => h1.checked (fun _ h2 => h2.withV (fun _ h3 => h3.finish))))

theorem State.Sound.execVxck {t : TileId} {h : Thr} {va ac : Reg} {m : Mask5} (hs : s.Sound M R) :
    EndsSound M R (Machine.execVxck t h va ac m s) :=
  .next (hs.issue (fun _ h1 => h1.withV (fun _ h2 => h2.finish)))

/-! ## Sending, and VROUTE -/

theorem State.Sound.sendPkt {src dst : Party} {net : BitVec 2} {body : Body} {hold after : List ℕ} (hs : s.Sound M R) :
    (s.sendPkt src dst net body hold after).Sound M R :=
  hs.same rfl rfl rfl

theorem State.Sound.modSend {p : Sender} {f : SendSide → SendSide} (hs : s.Sound M R) : (s.modSend p f).Sound M R := by
  unfold State.modSend
  split
  · exact hs.modTile fun _ h1 => h1.same rfl rfl
  · exact hs.same rfl rfl rfl
  · exact hs.same rfl rfl rfl

theorem State.Sound.creditBack {u : Sender} {h : Word} {n : ℕ} (hs : s.Sound M R) : (s.creditBack u h n).Sound M R :=
  .ite hs hs.sendPkt

theorem State.Sound.returnEntry {u : Sender} {i : ℕ} (hs : s.Sound M R) : (s.returnEntry u i).Sound M R :=
  .ite hs hs.modSend.creditBack

theorem State.Sound.askCredit {u : Sender} {h : Word} {m : ℕ} {f : Option FuncNo} (hs : s.Sound M R) :
    (s.askCredit u h m f).Sound M R := by
  unfold State.askCredit
  dsimp only
  split
  · exact .ite hs hs.modSend.sendPkt
  · split
    · exact hs
    · exact hs.returnEntry.modSend.sendPkt

theorem State.Sound.emit {u : Sender} {owner : Owner} {m : Msg} {contrib : Bool} {hold : List ℕ} (hs : s.Sound M R) :
    (s.emit u owner m contrib hold).Sound M R := by
  unfold State.emit
  dsimp only
  split
  · exact hs
  · exact hs.sendPkt.modSend

theorem State.Sound.dispatchAll {t : TileId} {h : Thr} {tag : BitVec 16} {l : List (Word × List Word)} (hs : s.Sound M R) :
    (s.dispatchAll t h tag l).Sound M R := by
  induction l generalizing s with
  | nil => exact hs
  | cons d l ih =>
    refine ih (.modTile ?_ fun _ h => h.pm)
    exact hs.modSend.emit

theorem State.Sound.vrouteSlot {t : TileId} {h : Thr} {dt va an : Reg} {k : BitVec 3} {ty : Ty} (hs : s.Sound M R) :
    (s.vrouteSlot t h dt va an k ty).Sound M R := by
  unfold State.vrouteSlot
  refine .ite hs.raise ?_
  refine hs.withV fun _ h1 => ?_
  refine .ite h1.raise ?_
  refine h1.ownAccess fun _ _ h2 => ?_
  exact h2.withRead fun _ h3 => .ite ((h3.foldl (fun _ _ h4 => h4.askCredit)).block) h3.dispatchAll.finish

theorem State.Sound.execVroute {t : TileId} {h : Thr} {dt va an : Reg} {k : BitVec 3} {ty : Ty} (hs : s.Sound M R) :
    EndsSound M R (Machine.execVroute t h dt va an k ty s) :=
  .next (hs.issue (fun _ h1 => h1.checked (fun _ h2 => h2.vrouteSlot)))

/-! ## Vector arithmetic -/

theorem State.Sound.vArith {t : TileId} {h : Thr} {w : PWord} {ok : Bool} {vd va vb : Reg} {m : Mask} {ty : Ty}
    {f : ℕ → ℕ → ℕ → ℕ} (hs : s.Sound M R) : (Machine.vArith t h w ok vd va vb m ty f s).Sound M R :=
  hs.issue fun _ h1 => h1.checked fun _ h2 => h2.vecOp

theorem State.Sound.execVadd {t : TileId} {h : Thr} {vd va vb : Reg} {m : Mask} {ty : Ty} (hs : s.Sound M R) :
    EndsSound M R (Machine.execVadd t h vd va vb m ty s) :=
  .next hs.vArith

theorem State.Sound.execVsub {t : TileId} {h : Thr} {vd va vb : Reg} {m : Mask} {ty : Ty} (hs : s.Sound M R) :
    EndsSound M R (Machine.execVsub t h vd va vb m ty s) :=
  .next hs.vArith

theorem State.Sound.execVmul {t : TileId} {h : Thr} {vd va vb : Reg} {m : Mask} {ty : Ty} (hs : s.Sound M R) :
    EndsSound M R (Machine.execVmul t h vd va vb m ty s) :=
  .next hs.vArith

theorem State.Sound.execVfma {t : TileId} {h : Thr} {vd va vb : Reg} {m : Mask} {ty : Ty} (hs : s.Sound M R) :
    EndsSound M R (Machine.execVfma t h vd va vb m ty s) :=
  .next hs.vArith

theorem State.Sound.execVmax {t : TileId} {h : Thr} {vd va vb : Reg} {m : Mask} {ty : Ty} (hs : s.Sound M R) :
    EndsSound M R (Machine.execVmax t h vd va vb m ty s) :=
  .next hs.vArith

theorem State.Sound.execVmin {t : TileId} {h : Thr} {vd va vb : Reg} {m : Mask} {ty : Ty} (hs : s.Sound M R) :
    EndsSound M R (Machine.execVmin t h vd va vb m ty s) :=
  .next hs.vArith

theorem State.Sound.execVand {t : TileId} {h : Thr} {vd va vb : Reg} {m : Mask} {ty : Ty} (hs : s.Sound M R) :
    EndsSound M R (Machine.execVand t h vd va vb m ty s) :=
  .next hs.vArith

theorem State.Sound.execVor {t : TileId} {h : Thr} {vd va vb : Reg} {m : Mask} {ty : Ty} (hs : s.Sound M R) :
    EndsSound M R (Machine.execVor t h vd va vb m ty s) :=
  .next hs.vArith

theorem State.Sound.execVxor {t : TileId} {h : Thr} {vd va vb : Reg} {m : Mask} {ty : Ty} (hs : s.Sound M R) :
    EndsSound M R (Machine.execVxor t h vd va vb m ty s) :=
  .next hs.vArith

theorem State.Sound.vWhole {t : TileId} {h : Thr} {w : PWord} {ok : Bool} {vd va : Reg} {m : Mask} {ty : Ty}
    {f : ℕ → VWord → List ℕ} (hs : s.Sound M R) : (Machine.vWhole t h w ok vd va m ty f s).Sound M R :=
  hs.issue fun _ h1 => h1.checked fun _ h2 => h2.vecOp

theorem State.Sound.execVrsum {t : TileId} {h : Thr} {vd va : Reg} {m : Mask} {ty : Ty} (hs : s.Sound M R) :
    EndsSound M R (Machine.execVrsum t h vd va m ty s) :=
  .next hs.vWhole

theorem State.Sound.execVrmax {t : TileId} {h : Thr} {vd va : Reg} {m : Mask} {ty : Ty} (hs : s.Sound M R) :
    EndsSound M R (Machine.execVrmax t h vd va m ty s) :=
  .next hs.vWhole

theorem State.Sound.execVexp {t : TileId} {h : Thr} {vd va : Reg} {m : Mask} {ty : Ty} (hs : s.Sound M R) :
    EndsSound M R (Machine.execVexp t h vd va m ty s) :=
  .next hs.vWhole

theorem State.Sound.execVrcp {t : TileId} {h : Thr} {vd va : Reg} {m : Mask} {ty : Ty} (hs : s.Sound M R) :
    EndsSound M R (Machine.execVrcp t h vd va m ty s) :=
  .next hs.vWhole

/-! ## Tile and matrix instructions -/

theorem State.Sound.tileOp {t : TileId} {h : Thr} {len : ℕ} {ill : Tile → Bool} {f : Tile → Tile} (hs : s.Sound M R)
    (hf : ∀ tl, Tile.Sound M R tl → Tile.Sound M R (f tl)) : (Machine.tileOp t h len ill f s).Sound M R :=
  .ite hs.raise ((hs.modTile hf).complete)

theorem Tile.Sound.unbind {k : Reg} (htl : tl.Sound M R) : (tl.unbind k).Sound M R := htl.same rfl rfl

theorem State.Sound.execTcfg {t : TileId} {h : Thr} {k : Reg} {sh : BitVec 14} (hs : s.Sound M R) :
    EndsSound M R (Machine.execTcfg t h k sh s) := by
  refine hs.issue fun s hs => ?_
  dsimp only
  unfold Machine.tileOp
  split
  · exact hs.raise
  · next hok =>
      simp only [Bool.or_eq_true, decide_eq_true_eq, not_or, Nat.not_lt] at hok
      refine .complete (hs.modTile fun tl htl => htl.unbind.modReg fun q _ => ?_)
      exact ⟨Nat.le_add_left .., Nat.le_mul_of_pos_right 4 (Nat.succ_pos _), Nat.mul_mod_right 4 _, hok.1⟩

theorem State.Sound.execTld {t : TileId} {h : Thr} {k an x : Reg} (hs : s.Sound M R) :
    EndsSound M R (Machine.execTld t h k an x s) := by
  unfold Machine.execTld
  refine .next (hs.issue fun s hs => ?_)
  extract_lets x r n st
  split
  · exact hs.raise
  · refine hs.withPort fun s hs => ?_
    split
    · exact hs.modTile fun _ h => h.fixWords.stallFor
    · split
      · exact hs.lmFail
      · refine .finish (.ite hs (hs.modTile fun _ htl => htl.modReg fun q hq => ?_))
        exact hq.same rfl rfl

theorem State.Sound.storeCuts {t : TileId} {l : List (DWord × List Byte)} (hs : s.Sound M R) : (s.storeCuts t l).Sound M R := by
  induction l generalizing s with
  | nil => exact hs
  | cons p l ih =>
    refine ih ?_
    split
    · exact .ite hs (hs.modTile fun _ h => h.lmWrite)
    · exact hs

theorem State.Sound.withT {t : TileId} {h : Thr} {k : Reg} {report : Bool} {f : State → State} (hs : s.Sound M R)
    (hf : ∀ s, State.Sound M R s → State.Sound M R (f s)) : (Machine.withT t h k report f s).Sound M R := by
  unfold Machine.withT
  dsimp only
  split
  · refine hs.modTile fun _ h1 => ?_
    refine .hazard ?_
    exact h1.same rfl rfl
  · exact hf _ hs

theorem State.Sound.execTst {t : TileId} {h : Thr} {k an x : Reg} (hs : s.Sound M R) :
    EndsSound M R (Machine.execTst t h k an x s) := by
  unfold Machine.execTst
  dsimp only
  refine .next ?_
  refine hs.issue fun _ h1 => ?_
  split
  · split
    · refine h1.withT fun _ h2 => ?_
      split
      · exact h2.storeCuts.finish.lmFail
      · exact h2.storeCuts.finish
    · exact h1.raise
  · split
    · refine h1.withT fun _ h2 => ?_
      refine h2.withPort fun _ h3 => ?_
      split
      · exact h3.storeCuts.finish.lmFail
      · exact h3.storeCuts.finish
    · refine h1.withPort fun _ h2 => ?_
      split
      · exact h2.storeCuts.finish.lmFail
      · exact h2.storeCuts.finish

theorem State.Sound.execTzero {t : TileId} {h : Thr} {k : Reg} (hs : s.Sound M R) :
    EndsSound M R (Machine.execTzero t h k s) := by
  unfold Machine.execTzero
  dsimp only
  refine .next ?_
  refine hs.issue fun _ h1 => ?_
  refine h1.tileOp fun _ h2 => ?_
  refine h2.modReg fun q' h3 => ?_
  exact .same (q := q'.put 0 q'.size 0) h3.put rfl rfl

theorem State.Sound.execTfree {t : TileId} {h : Thr} {k : Reg} (hs : s.Sound M R) : EndsSound M R (Machine.execTfree t h k s) :=
  .next (hs.issue (fun _ h1 => h1.tileOp (fun _ h2 => h2.unbind.modReg (fun _ h3 => h3.same rfl rfl))))

theorem State.Sound.tileFrom {t : TileId} {h : Thr} {len : ℕ} {d x : Reg} {ill : TileReg → TileReg → Bool}
    {f : TileReg → TileReg → TileReg} (hs : s.Sound M R) (hf : ∀ q a, TileReg.Legal q → TileReg.Legal (f q a)) :
    (Machine.tileFrom t h len d x ill f s).Sound M R := by
  unfold Machine.tileFrom
  dsimp only
  split
  · exact hs.raise
  · refine hs.withT fun _ h1 => ?_
    refine .complete ?_
    refine h1.modTile fun tl h2 => ?_
    refine h2.modReg fun q' h3 => ?_
    exact .same (q := f q' (tl.reg x)) (hf _ _ h3) rfl rfl

theorem State.Sound.execTmov {t : TileId} {h : Thr} {d x : Reg} (hs : s.Sound M R) : EndsSound M R (Machine.execTmov t h d x s) :=
  .next (hs.issue (fun _ h1 => h1.tileFrom (fun _ _ h2 => h2.put)))

theorem State.Sound.execTrdv {t : TileId} {h : Thr} {vd k : Reg} {row : BitVec 6} (hs : s.Sound M R) :
    EndsSound M R (Machine.execTrdv t h vd k row s) :=
  .next (hs.issue (fun _ h1 => .ite h1.raise (h1.withT (fun _ h2 => h2.withV (fun _ h3 => h3.finish)))))

theorem State.Sound.execTwrv {t : TileId} {h : Thr} {k vs : Reg} {row : BitVec 6} (hs : s.Sound M R) :
    EndsSound M R (Machine.execTwrv t h k vs row s) := by
  unfold Machine.execTwrv
  dsimp only
  refine .next ?_
  refine hs.issue fun _ h1 => ?_
  split
  · exact h1.raise
  · refine h1.withV fun _ h2 => ?_
    refine .complete ?_
    refine h2.modTile fun tl h3 => ?_
    refine h3.modReg fun q' h4 => ?_
    exact .same (q := q'.put (row.toNat * q'.len) (min q'.len 64) (BitVec.toNat ((tl.th h).getV vs))) h4.put rfl rfl

theorem State.Sound.execTtrn {t : TileId} {h : Thr} {d x : Reg} (hs : s.Sound M R) : EndsSound M R (Machine.execTtrn t h d x s) :=
  .next (hs.issue (fun _ h1 => h1.tileFrom (fun _ _ h2 => h2.fill)))

theorem State.Sound.execTcvt {t : TileId} {h : Thr} {d x : Reg} {ec : Elem} (hs : s.Sound M R) :
    EndsSound M R (Machine.execTcvt t h d x ec s) :=
  .next (hs.issue (fun _ h1 => h1.tileFrom (fun _ _ h2 => h2.fill)))

theorem State.Sound.execTskip {t : TileId} {h : Thr} {dk : Reg} {v : Bool} {a : Seed} (hs : s.Sound M R) :
    EndsSound M R (Machine.execTskip t h dk v a s) :=
  .next (hs.issue (fun _ h1 => h1.skipOp))

theorem State.Sound.execMscl {t : TileId} {h : Thr} {k : Reg} {role : Bool} (hs : s.Sound M R) :
    EndsSound M R (Machine.execMscl t h k role s) :=
  .next (hs.issue (fun _ h1 => h1.tileOp (fun _ h2 => .ite (h2.same rfl rfl) (h2.same rfl rfl))))

theorem State.Sound.mxIssue {t : TileId} {h : Thr} {len : ℕ} {o : MxOp} (hs : s.Sound M R) : (s.mxIssue t h len o).Sound M R := by
  unfold State.mxIssue
  dsimp only
  split
  · exact hs.raise
  · split
    · exact hs.modTile fun _ h1 => h1.stallOn
    · refine .complete ?_
      refine hs.modTile fun _ h1 => ?_
      refine .modReg ?_ ?_
      · exact h1.same rfl rfl
      · intro _ h2
        exact h2.same rfl rfl

theorem State.Sound.execMma {t : TileId} {h : Thr} {c a b : Reg} {sp : Sp} {tm : Reg} {mt : Mt} (hs : s.Sound M R) :
    EndsSound M R (Machine.execMma t h c a b sp tm mt s) :=
  .next (hs.issue (fun _ h1 => h1.checked (fun _ h2 => h2.mxIssue)))

theorem State.Sound.execMmaz {t : TileId} {h : Thr} {c a b : Reg} {sp : Sp} {tm : Reg} {mt : Mt} (hs : s.Sound M R) :
    EndsSound M R (Machine.execMmaz t h c a b sp tm mt s) :=
  .next (hs.issue (fun _ h1 => h1.checked (fun _ h2 => h2.mxIssue)))

theorem State.Sound.execMmas {t : TileId} {h : Thr} {c a b : Reg} {sp : Sp} {mt : Mt} {sa : Seed} (hs : s.Sound M R) :
    EndsSound M R (Machine.execMmas t h c a b sp mt sa s) :=
  .next (hs.issue (fun _ h1 => h1.checked (fun _ h2 => h2.mxIssue)))

theorem State.Sound.execMwait {t : TileId} {h : Thr} {k : Reg} (hs : s.Sound M R) : EndsSound M R (Machine.execMwait t h k s) :=
  .next (hs.issue (fun _ h1 => h1.withT (fun _ h2 => h2.complete)))

end

end Sys2Proof.Machine
end

section
/-! O58 and O59: what the queue and copy instructions, arrivals at a tile, translation and the matrix unit keep. -/
namespace Sys2Proof.Machine

open Sys2Proof.Safety

section
variable {M R : Prop} {s : State} {tl : Tile}

/-! ## Queue instructions -/

theorem State.Sound.execQput {t : TileId} {h : Thr} {x : Reg} (hs : s.Sound M R) : EndsSound M R (Machine.execQput t h x s) :=
  .next (hs.issue (fun _ h1 => .ite h1.raise h1.finish))

theorem State.Sound.committed {t : TileId} {h : Thr} (hs : s.Sound M R) : (s.committed t h).Sound M R :=
  (hs.modTile (fun _ h1 => h1.pm)).finish

theorem State.Sound.qcmtSlot {t : TileId} {h : Thr} {dt dh : Reg} (hs : s.Sound M R) : (s.qcmtSlot t h dt dh).Sound M R :=
  .ite hs.raise (.ite hs.askCredit.block (.ite hs.block hs.modSend.emit.committed))

theorem State.Sound.execQcmt {t : TileId} {h : Thr} {dt dh : Reg} (hs : s.Sound M R) :
    EndsSound M R (Machine.execQcmt t h dt dh s) :=
  .next (hs.issue (fun _ h1 => h1.qcmtSlot))

theorem State.Sound.multicast {t : TileId} {h : Thr} {tag : BitVec 16} {payload : List Word} {g : DWord} {hold : List ℕ}
    (hs : s.Sound M R) : (s.multicast t h tag payload g hold).Sound M R := by
  unfold State.multicast
  dsimp only
  split
  · exact hs
  · exact .ite hs ((hs.foldl (fun _ _ h1 => h1.sendPkt)).modSend)

theorem State.Sound.qmcstSlot {t : TileId} {h : Thr} {dt dg : Reg} (hs : s.Sound M R) : (s.qmcstSlot t h dt dg).Sound M R :=
  .ite hs.raise (.ite hs.block hs.multicast.committed)

theorem State.Sound.execQmcst {t : TileId} {h : Thr} {dt dg : Reg} (hs : s.Sound M R) :
    EndsSound M R (Machine.execQmcst t h dt dg s) :=
  .next (hs.issue (fun _ h1 => h1.qmcstSlot))

theorem State.Sound.qrickSlot {t : TileId} {h : Thr} {dt dh : Reg} (hs : s.Sound M R) : (s.qrickSlot t h dt dh).Sound M R :=
  .ite hs.raise (.ite hs.block hs.emit.committed)

theorem State.Sound.execQrick {t : TileId} {h : Thr} {dt dh : Reg} (hs : s.Sound M R) :
    EndsSound M R (Machine.execQrick t h dt dh s) :=
  .next (hs.issue (fun _ h1 => h1.qrickSlot))

theorem State.Sound.readMsg {t : TileId} {h : Thr} {vd : Reg} {q : QIx} {m : QMsg} {c : Option Bool} (hs : s.Sound M R) :
    (s.readMsg t h vd q m c).Sound M R := by
  unfold State.readMsg
  dsimp only
  split
  · exact hs.lmFail
  · exact (hs.modTile (fun _ h1 => h1.fixWords.modQueue)).finish

theorem State.Sound.qrdSlot {t : TileId} {h : Thr} {vd : Reg} {q : QIx} (hs : s.Sound M R) : (s.qrdSlot t h vd q).Sound M R := by
  unfold State.qrdSlot
  dsimp only
  split
  · exact hs.raise
  · refine hs.withV fun _ h1 => ?_
    split
    · exact h1.readMsg
    · exact .ite h1.finish h1.block

theorem State.Sound.execQrd {t : TileId} {h : Thr} {vd : Reg} {q : QIx} (hs : s.Sound M R) :
    EndsSound M R (Machine.execQrd t h vd q s) :=
  .next (hs.issue (fun _ h1 => h1.qrdSlot))

theorem State.Sound.execQtry {t : TileId} {h : Thr} {vd : Reg} {q : QIx} (hs : s.Sound M R) :
    EndsSound M R (Machine.execQtry t h vd q s) := by
  unfold Machine.execQtry
  dsimp only
  refine .next ?_
  refine hs.issue fun _ h1 => ?_
  split
  · exact h1.raise
  · refine h1.withV fun _ h2 => ?_
    split
    · exact h2.readMsg
    · exact h2.finish

theorem State.Sound.execQdrop {t : TileId} {h : Thr} {q : QIx} (hs : s.Sound M R) : EndsSound M R (Machine.execQdrop t h q s) :=
  .next (hs.issue (fun _ h1 => .ite h1.raise ((h1.modTile (fun _ h2 => h2.modQueue)).finish)))

theorem State.Sound.execQclose {t : TileId} {h : Thr} {q : QIx} (hs : s.Sound M R) : EndsSound M R (Machine.execQclose t h q s) :=
  .next (hs.issue (fun _ h1 => .ite h1.raise ((h1.modTile (fun _ h2 => h2.modQueue)).complete)))

theorem State.Sound.execQarm {t : TileId} {h : Thr} {dc dt : Reg} {q : QIx} (hs : s.Sound M R) :
    EndsSound M R (Machine.execQarm t h dc dt q s) :=
  .next (hs.issue (fun _ h1 => .ite h1.raise (.ite h1.finish ((h1.modTile (fun _ h2 => h2.modQueue)).finish))))

/-! ## Order and copy instructions -/

theorem State.Sound.execRel {t : TileId} {h : Thr} {scope : Scope} (hs : s.Sound M R) :
    EndsSound M R (Machine.execRel t h scope s) :=
  .next (hs.issue (fun _ h1 => h1.finish))

theorem Tile.Sound.clearCache (htl : tl.Sound M R) : tl.clearCache.Sound M R := by
  unfold Tile.clearCache
  dsimp only
  refine .foldl ?_ fun _ _ h1 => h1.modTh
  exact htl.same rfl rfl

theorem State.Sound.execAcq {t : TileId} {h : Thr} {scope : Scope} (hs : s.Sound M R) :
    EndsSound M R (Machine.execAcq t h scope s) := by
  unfold Machine.execAcq
  refine .next (hs.issue fun s hs => ?_)
  extract_lets e s1 s2
  have h1 : s1.Sound M R := .ite hs (hs.modTile fun _ h => h.clearCache)
  have h2 : s2.Sound M R := by
    unfold s2
    split
    · exact .ite h1 (h1.modTile fun _ h => h.hazard)
    · exact h1
  exact h2.finish

theorem State.Sound.modEng {e : Eng} {f : Engine → Engine} (hs : s.Sound M R) : (s.modEng e f).Sound M R := by
  unfold State.modEng
  split
  · exact hs.modTile fun _ h1 => h1.same rfl rfl
  · exact hs.same rfl rfl rfl

theorem State.Sound.ceputSlot {t : TileId} {h : Thr} {an : Reg} (hs : s.Sound M R) : (s.ceputSlot t h an).Sound M R :=
  .ite hs.raise (hs.ownAccess (fun _ _ h1 => .ite h1.block (h1.withRead (fun _ h2 => h2.modEng.finish))))

theorem State.Sound.execCeput {t : TileId} {h : Thr} {an : Reg} (hs : s.Sound M R) : EndsSound M R (Machine.execCeput t h an s) :=
  .next (hs.issue (fun _ h1 => h1.ceputSlot))

theorem State.Sound.copyDone {e : Eng} {status : Byte} {n : ℕ} (hs : s.Sound M R) : (s.copyDone e status n).Sound M R := by
  unfold State.copyDone
  split
  · exact hs.modFunc
  · exact hs

theorem State.Sound.setDone {e : Eng} (hs : s.Sound M R) : (s.setDone e).Sound M R := by
  unfold State.setDone
  split
  · exact hs.modTile fun _ h1 => h1.same rfl rfl
  · exact hs

theorem State.Sound.endDesc {e : Eng} {status : Byte} {n : ℕ} (hs : s.Sound M R) : (s.endDesc e status n).Sound M R :=
  .ite hs.copyDone.modEng hs.copyDone.modEng.setDone

theorem State.Sound.haltAt {e : Eng} {k : ℕ} {cause : BitVec 4} {va : VAddr} {side part : Bool} (hs : s.Sound M R) :
    (s.haltAt e k cause va side part).Sound M R := by
  unfold State.haltAt
  dsimp only
  split
  · exact hs.modEng.endDesc
  · refine .modEng ?_
    exact hs.modTile fun _ h1 => h1.same rfl rfl

theorem State.Sound.engSettle {e : Eng} (hs : s.Sound M R) : (s.engSettle e).Sound M R := by
  unfold State.engSettle
  extract_lets g s1 g1 s2 g2
  have h1 : s1.Sound M R := by
    unfold s1
    split
    · exact .ite hs.haltAt hs
    · exact .ite hs.endDesc hs
  have h2 : s2.Sound M R := .ite h1.modEng h1
  exact .ite hs (.ite h2.modEng h2)

theorem State.Sound.engResume {t : TileId} (hs : s.Sound M R) : (s.engResume t).2.Sound M R := by
  unfold State.engResume
  dsimp only
  split
  · exact hs
  · split
    · split
      · exact hs
      · exact hs.modEng.engSettle
    · split
      · exact hs.modEng
      · exact hs.modEng

theorem State.Sound.execCeres {t : TileId} {h : Thr} (hs : s.Sound M R) : EndsSound M R (Machine.execCeres t h s) :=
  .next (hs.issue (fun _ h1 => .ite h1.raise h1.engResume.finish))

theorem State.Sound.execCeqry {t : TileId} {h : Thr} {d : Reg} (hs : s.Sound M R) : EndsSound M R (Machine.execCeqry t h d s) :=
  .next (hs.issue (fun _ h1 => h1.finish))

theorem State.Sound.execReservedEncoding {t : TileId} {h : Thr} {w : BitVec 14} (hs : s.Sound M R) :
    EndsSound M R (Machine.execReservedEncoding t h w s) :=
  .next (hs.issue (fun _ h1 => h1.reserved))

/-! ## Events of a thread, and what returns to a tile -/

theorem State.Sound.takeEvent {t : TileId} {h : Thr} {cause : BitVec 5} (hs : s.Sound M R) : (s.takeEvent t h cause).Sound M R :=
  hs.enterThen

theorem State.Sound.execAsyncEventTaken {t : TileId} {h : Thr} (hs : s.Sound M R) :
    EndsSound M R (Machine.execAsyncEventTaken t h s) := by
  unfold Machine.execAsyncEventTaken
  dsimp only
  refine .next ?_
  split
  · exact hs
  · split
    · exact hs.toSlot.takeEvent
    · exact hs

theorem State.Sound.execTimer {t : TileId} {h : Thr} (hs : s.Sound M R) : EndsSound M R (Machine.execTimer t h s) :=
  .next (.ite hs hs.elapse)

theorem State.Sound.perform {t : TileId} {h : Thr} {b : BlockOp} (hs : s.Sound M R) : (s.perform t h b).Sound M R := by
  unfold State.perform
  split
  · exact hs.qrdSlot
  · exact hs.bwaitSlot
  · exact hs.qcmtSlot
  · exact hs.qrickSlot
  · exact hs.qmcstSlot
  · exact hs.ceputSlot
  · exact hs.vrouteSlot

theorem State.Sound.execBlockedWake {t : TileId} {h : Thr} (hs : s.Sound M R) :
    EndsSound M R (Machine.execBlockedWake t h s) := by
  unfold Machine.execBlockedWake
  dsimp only
  refine .next ?_
  split
  · exact .ite hs hs.toSlot.modTh.perform
  · exact hs

theorem Tile.Sound.endWait {h : Thr} (htl : tl.Sound M R) : (tl.endWait h).Sound M R := .ite htl (.ite htl.stallOff htl.settle)

theorem State.Sound.dropReq {id : ℕ} (hs : s.Sound M R) : (s.dropReq id).Sound M R := hs.same rfl rfl rfl

theorem State.Sound.dataTaken {t : TileId} {h : Thr} (hs : s.Sound M R) : (s.dataTaken t h).Sound M R := by
  unfold State.dataTaken
  dsimp only
  split
  · exact hs
  · split
    · exact hs
    · exact hs.loadFrom.modTile fun _ h1 => h1.endWait
    · split
      · exact hs
      · split
        · exact hs
        · exact hs.dropReq.enter.modTile fun _ h1 => h1.endWait
        · exact .ite hs.deliver (hs.deliver.dropReq.modTile (fun _ h1 => h1.endWait))

theorem State.Sound.replyIn {id : ℕ} (hs : s.Sound M R) : (s.replyIn id).Sound M R := hs.same rfl rfl rfl

theorem State.Sound.dataArrives {t : TileId} {h : Thr} (hs : s.Sound M R) : (s.dataArrives t h).Sound M R := by
  unfold State.dataArrives
  split
  · split
    · exact .ite hs.replyIn.dataTaken hs
    · exact hs.dataTaken
  · exact hs

theorem State.Sound.execLoadDataArrival {t : TileId} {h : Thr} (hs : s.Sound M R) :
    EndsSound M R (Machine.execLoadDataArrival t h s) :=
  .next (.ite hs.dataArrives hs)

theorem State.Sound.execVectorResult {t : TileId} {h : Thr} {vd : Reg} (hs : s.Sound M R) :
    EndsSound M R (Machine.execVectorResult t h vd s) := by
  unfold Machine.execVectorResult
  refine .next ?_
  split
  · exact hs
  · exact hs.modTh.modTile fun _ h1 => .ite h1.stallOff h1

theorem Tile.Sound.eachThread {f : Tile → Thr → Tile} (htl : tl.Sound M R)
    (hf : ∀ tl a, Tile.Sound M R tl → Tile.Sound M R (f tl a)) : (tl.eachThread f).Sound M R :=
  htl.foldl hf

theorem State.Sound.unhold {t : TileId} {id : ℕ} (hs : s.Sound M R) : (s.unhold t id).Sound M R := by
  unfold State.unhold
  extract_lets drop s1
  have h1 : s1.Sound M R := hs.modTile fun _ htl => .eachThread (htl.same rfl rfl) fun _ _ h => h.modTh
  exact h1.same rfl rfl rfl

theorem Tile.Sound.drained (htl : tl.Sound M R) : tl.drained.Sound M R := .ite htl.stallOff htl

theorem State.Sound.execStoreAck {t : TileId} {i : BitVec 3} (hs : s.Sound M R) : EndsSound M R (Machine.execStoreAck t i s) := by
  unfold Machine.execStoreAck
  refine .next ?_
  split
  · exact hs
  · exact .ite (hs.replyIn.unhold.dropReq.modTile (fun _ h1 => h1.drained)) hs

theorem State.Sound.execStoreRefusal {t : TileId} {i : BitVec 3} (hs : s.Sound M R) :
    EndsSound M R (Machine.execStoreRefusal t i s) := by
  unfold Machine.execStoreRefusal
  refine .next ?_
  split
  · exact hs
  · split
    · exact hs
    · exact .ite hs (hs.replyIn.modTh.unhold.dropReq.modTile (fun _ h1 => h1.drained))

theorem Tile.Sound.fillLine {f : Fill} {b : List Byte} (htl : tl.Sound M R) : (tl.fillLine f b).Sound M R := by
  unfold Tile.fillLine
  extract_lets t1 t2
  have h1 : t1.Sound M R := htl.same rfl rfl
  have h2 : t2.Sound M R := h1.lmWrite
  exact .ite h1 (h2.same rfl rfl)

theorem State.Sound.answer {id : ℕ} {a : Option (List Byte)} (hs : s.Sound M R) : (s.answer id a).Sound M R := hs.same rfl rfl rfl

theorem State.Sound.handOver {t : TileId} {f : Fill} {b : List Byte} {h : Thr} (hs : s.Sound M R) :
    (s.handOver t f b h).Sound M R := by
  unfold State.handOver
  dsimp only
  split
  · exact .ite hs.request.answer.replyIn.modTh.dataTaken hs
  · exact hs

theorem State.Sound.execSectorFill {t : TileId} {id : ℕ} (hs : s.Sound M R) : EndsSound M R (Machine.execSectorFill t id s) := by
  unfold Machine.execSectorFill
  dsimp only
  refine .next ?_
  split
  · split
    · exact .ite hs ((hs.replyIn.dropReq.modTile (fun _ h1 => h1.fillLine.pm)).foldl (fun _ _ h1 => h1.handOver))
    · exact hs
  · exact hs

/-! ## Slices held, translation and power domains -/

theorem State.Sound.cobPut {c : CobNo} {l : Leaf} (hs : s.Sound M R) : (s.cobPut c l).Sound M R := hs.modCob

theorem State.Sound.modSlice {i : ℕ} {f : Slice → Slice} (hs : s.Sound M R) : (s.modSlice i f).Sound M R := hs.same rfl rfl rfl

theorem State.Sound.hold {pa : ℕ} (hs : s.Sound M R) : (s.hold pa).Sound M R := by
  unfold State.hold
  dsimp only
  split
  · exact hs.same rfl rfl rfl
  · exact hs.modSlice

theorem State.Sound.touchHeld {pa n : ℕ} (hs : s.Sound M R) : (s.touchHeld pa n).Sound M R := by
  induction n generalizing s pa with
  | zero => exact hs
  | succ n ih => exact ih (.ite hs.hold hs)

theorem State.Sound.touchReads {l : List (ℕ × ℕ)} (hs : s.Sound M R) : (s.touchReads l).Sound M R :=
  hs.foldl fun _ _ h1 => h1.touchHeld

theorem State.Sound.lookup {t : TileId} {f : FuncNo} {va : ℕ} (hs : s.Sound M R) : (s.lookup t f va).2.Sound M R := by
  unfold State.lookup
  dsimp only
  split
  · exact hs.modTile fun _ h1 => h1.same rfl rfl
  · split
    · exact hs.cobPut.modTile fun _ h1 => h1.same rfl rfl
    · split
      · exact hs.touchReads
      · exact hs.touchReads
      · exact hs
      · exact hs.touchReads.modCob.cobPut.modTile fun _ h1 => h1.same rfl rfl

theorem State.Sound.withEcc {pa : ℕ} {ecc : Ecc} (hs : s.Sound M R) : (s.withEcc pa ecc).Sound M R := by
  unfold State.withEcc
  split
  · exact hs
  · split
    · exact hs
    · exact hs.modSlice
    · exact hs.same rfl rfl rfl

theorem State.Sound.withEccs {reads : List (ℕ × ℕ)} {l : SliceEcc} (hs : s.Sound M R) : (s.withEccs reads l).Sound M R :=
  hs.foldl fun _ _ h1 => .ite h1.withEcc h1

theorem State.Sound.setDom {d : Domain} {p : Power} (hs : s.Sound M R) : (s.setDom d p).Sound M R := by
  unfold State.setDom
  dsimp only
  split
  · exact hs.modCob
  · exact hs.modCob
  · exact hs.modCob
  · exact hs.same rfl rfl rfl

theorem State.Sound.wake {d : Domain} (hs : s.Sound M R) : (s.wake d).Sound M R := by
  unfold State.wake
  extract_lets up
  have hup {s : State} {d : Domain} (hs : s.Sound M R) : (up s d).Sound M R := by
    unfold up
    split
    · exact hs.setDom
    · exact hs.setDom
    · exact hs
  refine .ite hs ?_
  split
  · exact .ite hs.modCob (hup (hup hs.modCob))
  · exact hup hs
  · exact hs

theorem State.Sound.wakeSlice {pa : ℕ} (hs : s.Sound M R) : (s.wakeSlice pa).Sound M R := .ite hs hs.wake

theorem State.Sound.execTranslationWalk {t : TileId} {h : Thr} {ecc : SliceEcc} (hs : s.Sound M R) :
    EndsSound M R (Machine.execTranslationWalk t h ecc s) := by
  unfold Machine.execTranslationWalk
  refine .next ?_
  extract_lets own done f
  have hd {s : State} (hs : s.Sound M R) : (done s).Sound M R := hs.modTh.modTile fun _ h => .ite h.stallOff h
  split
  · exact .ite (hd hs) hs
  · extract_lets r u
    have hr : r.2.Sound M R := hs.withEccs.lookup
    split
    · exact hs.wakeSlice
    · exact hd hr
    · exact .ite hs (.ite (hd hr) (hd hr).raise)
    · exact (hd hr).machineCheck

/-! ## The matrix unit -/

theorem Tile.Sound.mxStart (htl : tl.Sound M R) : tl.mxStart.Sound M R := by
  unfold Tile.mxStart
  split
  · exact htl.same rfl rfl
  · exact htl

theorem State.Sound.grantCord {u : TileId} (hs : s.Sound M R) : (s.grantCord u).Sound M R := by
  unfold State.grantCord
  dsimp only
  refine hs.dropClaim.modTile fun tl' h1 => ?_
  split
  · refine .stallOff ?_
    exact .same (tl := tl'.mxStart) h1.mxStart rfl rfl
  · exact .same (tl := tl'.mxStart) h1.mxStart rfl rfl

theorem State.Sound.grantPass {l : List TileId} (hs : s.Sound M R) : (s.grantPass l).Sound M R := by
  induction l generalizing s with
  | nil => exact hs
  | cons u l ih => exact ih (.ite hs.grantCord hs)

theorem State.Sound.execMatrixStart {t : TileId} (hs : s.Sound M R) : EndsSound M R (Machine.execMatrixStart t s) := by
  unfold Machine.execMatrixStart
  dsimp only
  refine .next ?_
  split
  · exact hs
  · split
    · exact hs
    · split
      · exact hs.modTile fun _ h1 => h1.mxStart.touch
      · split
        · exact (hs.modTile (fun _ h1 => h1.pm)).modCob.grantPass
        · refine (hs.modTile (fun _ h1 => h1.pm)).modCob.grantPass.modCob.modTile fun _ h1 => ?_
          refine .hazard ?_
          exact h1.same rfl rfl

theorem State.Sound.execMatrixCommit {t : TileId} (hs : s.Sound M R) : EndsSound M R (Machine.execMatrixCommit t s) := by
  unfold Machine.execMatrixCommit
  refine .next ?_
  split
  · split
    · refine hs.modTile fun tl htl => ?_
      extract_lets _ t1 t2
      have h1 : t1.Sound M R := (htl.pm.modReg fun _ h => h.put).same rfl rfl
      have h2 : t2.Sound M R := .ite h1.stallOff h1
      exact .ite h2.stallOff h2
    · exact hs
  · exact hs

theorem State.Sound.execCordGrant {t : TileId} (hs : s.Sound M R) : EndsSound M R (Machine.execCordGrant t s) := by
  unfold Machine.execCordGrant
  refine .next ?_
  split
  · exact .ite hs.grantCord hs
  · exact hs

end

end Sys2Proof.Machine
end

section
/-! O58 and O59: what register writes, thread control, messages, ricks and credit keep. -/
namespace Sys2Proof.Machine

open Sys2Proof.Safety

section
variable {M R : Prop} {s : State} {tl : Tile}

/-! ## Writes of the registers of a tile -/

theorem State.Sound.refusedWrite {src : Src} (hs : s.Sound M R) : (s.refusedWrite src).Sound M R := by
  unfold State.refusedWrite
  split
  · refine .modTh ?_
    exact hs.same rfl rfl rfl
  · exact hs

theorem Tile.Sound.reqStop {h : Thr} (htl : tl.Sound M R) : (tl.reqStop h).Sound M R := by
  unfold Tile.reqStop
  split
  · exact htl
  · exact htl.modTh
  · exact htl.modTh.settle

theorem Tile.Sound.start {h : Thr} (htl : tl.Sound M R) : (tl.start h).Sound M R := .ite htl.modTh htl

theorem Tile.Sound.reqHalt {h : Thr} (htl : tl.Sound M R) : (tl.reqHalt h).Sound M R := by
  unfold Tile.reqHalt
  split
  · exact htl
  · exact htl
  · exact htl.modTh.settle

theorem Tile.Sound.unhalt {h : Thr} (htl : tl.Sound M R) : (tl.unhalt h).Sound M R := htl.modTh

theorem Tile.Sound.writeTctl {dbg lim : Bool} {h : Thr} {v : Word} (htl : tl.Sound M R) : (tl.writeTctl dbg lim h v).Sound M R :=
  .ite htl.modTh.reqStop (.ite htl.modTh.start (.ite htl.modTh.start.reqHalt htl.modTh.start.unhalt))

theorem Tile.Sound.step {h : Thr} (htl : tl.Sound M R) : (tl.step h).Sound M R := .ite htl.modTh htl

theorem State.Sound.ctWrite {lim : Bool} {t : TileId} {r : CtReg} {v : DWord} (hs : s.Sound M R) :
    (s.ctWrite lim t r v).Sound M R := by
  unfold State.ctWrite
  dsimp only
  split
  · exact hs.modTile fun _ h1 => h1.writeTctl
  · exact hs.modTile fun _ h1 => h1.same rfl rfl
  · refine hs.modTile fun tl' h1 => ?_
    exact .same (tl := tl'.clearCache) h1.clearCache rfl rfl
  · exact .ite (hs.modTile (fun _ h1 => h1.clearCache)) hs
  · exact .ite (hs.modTile (fun _ h1 => h1.same rfl rfl)) hs
  · exact hs.modTile fun _ h1 => h1.same rfl rfl
  · exact hs.modTile fun _ h1 => h1.same rfl rfl
  · exact hs.modTile fun _ h1 => h1.same rfl rfl
  · exact hs.modTh
  · exact hs.modTh
  · exact .ite (hs.modTile (fun _ h1 => h1.same rfl rfl)) hs
  · exact hs.modTile fun _ h1 => h1.same rfl rfl
  · split
    · exact hs
    · refine hs.modTile fun _ h1 => ?_
      split
      · refine .eachThread ?_ fun _ _ h2 => h2.reqHalt
        exact h1.same rfl rfl
      · exact h1.same rfl rfl
  · exact .ite (hs.modTile (fun _ h1 => h1.same rfl rfl)) hs
  · exact .ite (hs.modTile (fun _ h1 => h1.step)) hs
  · exact hs.modTile fun _ h1 => h1.same rfl rfl
  · exact hs.modTile fun _ h1 => h1.same rfl rfl
  · exact hs.modTile fun _ h1 => h1.same rfl rfl
  · exact hs.modTile fun _ h1 => h1.setSeedRun
  · exact hs.modTile fun _ h1 => h1.same rfl rfl
  · exact hs

theorem State.Sound.respond {t : TileId} {to_ : Party} {tag : ℕ} {r : Resp} (hs : s.Sound M R) :
    (s.respond t to_ tag r).Sound M R :=
  hs.sendPkt

theorem State.Sound.refuse {t : TileId} {to_ : Party} {h : Word} (hs : s.Sound M R) : (s.refuse t to_ h).Sound M R := hs.sendPkt

theorem State.Sound.disableQueue {t : TileId} {q : QIx} (hs : s.Sound M R) : (s.disableQueue t q).Sound M R :=
  ((hs.modTile (fun _ h1 => h1.modQueue)).foldl (fun _ _ h1 => h1.respond)).foldl fun _ _ h1 => h1.refuse

theorem State.Sound.reassignQueue {t : TileId} {q : QIx} (hs : s.Sound M R) : (s.reassignQueue t q).Sound M R := by
  unfold State.reassignQueue
  dsimp only
  refine .foldl ?_ fun _ _ h1 => h1.refuse
  refine .foldl ?_ fun _ _ h1 => h1.respond
  refine hs.modTile fun _ h1 => ?_
  refine .modQueue ?_
  exact h1.same rfl rfl

theorem State.Sound.writeQcfg {t : TileId} {q : QIx} {v : Word} (hs : s.Sound M R) : (s.writeQcfg t q v).Sound M R := by
  unfold State.writeQcfg
  extract_lets k s1 k1
  have h1 : s1.Sound M R := hs.modTile fun _ h => h.modQueue
  refine .ite (.ite hs hs.disableQueue) (.ite h1 (.ite ?_ ?_))
  · exact h1.modTile fun _ h => h.modQueue
  · exact h1.reassignQueue.modTile fun _ h => h.modQueue

theorem State.Sound.qtWrite {t : TileId} {r : QtReg} {v : DWord} (hs : s.Sound M R) : (s.qtWrite t r v).Sound M R := by
  unfold State.qtWrite
  split
  · exact hs.writeQcfg
  · extract_lets s1 s2
    have h1 : s1.Sound M R := .ite hs.reassignQueue hs
    have h2 : s2.Sound M R := .ite (h1.modTile fun _ h => h.modQueue) h1
    exact .ite (h2.modTile fun _ h => h.modQueue) h2
  · exact hs.modTh
  · exact hs.modTh
  · exact hs.modTh
  · exact hs.modTile fun _ h => h.same rfl rfl
  · exact .ite (hs.foldl fun _ _ h => h.returnEntry) hs
  · exact hs

theorem State.Sound.engPause {t : TileId} (hs : s.Sound M R) : (s.engPause t).Sound M R := by
  unfold State.engPause
  split
  · exact hs.modEng
  · exact hs.modEng.engSettle
  · exact hs

theorem State.Sound.engGo {t : TileId} (hs : s.Sound M R) : (s.engGo t).Sound M R := by
  unfold State.engGo
  split
  · exact hs.engResume
  · exact hs.modEng
  · exact hs

theorem State.Sound.engAbort {t : TileId} (hs : s.Sound M R) : (s.engAbort t).Sound M R := .ite hs hs.endDesc.modEng

theorem State.Sound.ceWrite {t : TileId} {r : CeReg} {v : DWord} (hs : s.Sound M R) : (s.ceWrite t r v).Sound M R := by
  unfold State.ceWrite
  dsimp only
  split
  · exact .ite hs.engPause (.ite hs.engGo (.ite hs.engResume (.ite hs.engAbort hs)))
  · exact .ite hs.modEng hs
  · exact .ite hs.modEng hs
  · exact hs.modEng
  · exact .ite hs.modEng hs
  · exact hs

/-! ## Writes of the registers of the part -/

theorem State.Sound.invHusk {f : FuncNo} {vpn : BitVec 36} {all : Bool} (hs : s.Sound M R) : (s.invHusk f vpn all).Sound M R :=
  hs.same rfl rfl rfl

theorem State.Sound.invCob {c : CobNo} {f : FuncNo} {vpn : BitVec 36} {all : Bool} (hs : s.Sound M R) :
    (s.invCob c f vpn all).Sound M R := by
  rw [State.invCob]
  refine ⟨hs.1, fun t => sound_map (fun p => ?_) (fun p hp => ?_) _ (hs.2 t)⟩
  · dsimp only
    split <;> rfl
  · dsimp only
    split
    · refine .foldl ?_ fun _ _ h => h.modTh
      exact hp.same rfl rfl
    · exact hp

theorem State.Sound.writeWinv {c : CobNo} {v : DWord} (hs : s.Sound M R) : (s.writeWinv c v).Sound M R :=
  .ite hs.modCob hs.modCob.invCob.invHusk.modCob

theorem State.Sound.writeCkcmd {c : CobNo} {v : DWord} (hs : s.Sound M R) : (s.writeCkcmd c v).Sound M R := hs.modCob

theorem State.Sound.winvWrite {c : CobNo} {o : ℕ} {v : DWord} (hs : s.Sound M R) : (s.winvWrite c o v).Sound M R :=
  .ite hs.writeWinv (.ite hs.writeCkcmd hs)

theorem State.Sound.winWrite {r : Bool × ℕ} {v : DWord} (hs : s.Sound M R) : (s.winWrite r v).Sound M R :=
  .ite (hs.same rfl rfl rfl) (hs.same rfl rfl rfl)

theorem State.Sound.ask {p : PortNo} {k : TxPkt} {w : OutFor} (hs : s.Sound M R) : (s.ask p k w).Sound M R := hs.sendOn.modPort

theorem State.Sound.fetch {f : FuncNo} (hs : s.Sound M R) : (s.fetch f).Sound M R := by
  unfold State.fetch
  dsimp only
  split
  · exact hs
  · split
    · exact hs
    · exact hs.ask

theorem State.Sound.writeRing {f : FuncNo} {cq : Bool} {w : DWord} (hs : s.Sound M R) : (s.writeRing f cq w).Sound M R :=
  .ite hs hs.modFunc.fetch

theorem State.Sound.postEntry {f : FuncNo} {w : DWord} (hs : s.Sound M R) : ∀ u, s.postEntry f w = some u → u.Sound M R := by
  unfold State.postEntry
  dsimp only
  split
  · rintro u ⟨⟩
  · rintro u ⟨⟩
    exact hs.modFunc

theorem State.Sound.closeWindows {f : FuncNo} (hs : s.Sound M R) : (s.closeWindows f).Sound M R := hs.same rfl rfl rfl

theorem State.Sound.resetBegin {f : FuncNo} {cid : Option Word} (hs : s.Sound M R) : (s.resetBegin f cid).Sound M R := by
  unfold State.resetBegin
  dsimp only
  refine .closeWindows ?_
  exact hs.same rfl rfl rfl

theorem State.Sound.fnWrite {f : FuncNo} {o : ℕ} {v : DWord} (hs : s.Sound M R) :
    ∀ u, s.fnWrite f o v = some u → u.Sound M R := by
  unfold State.fnWrite
  split
  · rintro u ⟨⟩
    exact hs.writeRing
  · split
    · rintro u ⟨⟩
      exact hs.writeRing
    · split
      · rintro u ⟨⟩
        exact hs.modFunc
      · split
        · exact hs.postEntry
        · split
          · rintro u ⟨⟩
            exact .ite hs.resetBegin hs
          · rintro u ⟨⟩
            exact hs

theorem State.Sound.cnsWrite {f : FuncNo} {v : DWord} (hs : s.Sound M R) : (s.cnsWrite f v).Sound M R := hs.modFunc

theorem State.Sound.ptWrite {r : PtReg} {v : DWord} (hs : s.Sound M R) : (s.ptWrite r v).Sound M R := by
  unfold State.ptWrite
  dsimp only
  split
  · exact .ite (hs.same rfl rfl rfl) (hs.same rfl rfl rfl)
  · exact hs.same rfl rfl rfl
  · exact hs.same rfl rfl rfl
  · exact hs.same rfl rfl rfl
  · exact hs.same rfl rfl rfl
  · exact hs.same rfl rfl rfl
  · exact hs.same rfl rfl rfl
  · exact hs.same rfl rfl rfl
  · exact hs.same rfl rfl rfl
  · exact hs.same rfl rfl rfl
  · exact hs.same rfl rfl rfl
  · exact hs

theorem State.Sound.ldWrite {r : LdReg} {v : DWord} {ver : Option Bool} (hs : s.Sound M R) : (s.ldWrite r v ver).Sound M R := by
  unfold State.ldWrite
  split
  · exact hs.same rfl rfl rfl
  · exact hs.same rfl rfl rfl

theorem State.Sound.blkWrite {lim : Bool} {b : Blk} {v : DWord} {ver : Option Bool} (hs : s.Sound M R) :
    ∀ u, s.blkWrite lim b v ver = some u → u.Sound M R := by
  have hkeep : ∀ u, some s = some u → u.Sound M R := fun u e => Option.some.inj e ▸ hs
  unfold State.blkWrite
  split
  · split
    · exact fun u e => Option.some.inj e ▸ hs.ctWrite
    · exact hkeep
  · split
    · exact fun u e => Option.some.inj e ▸ hs.qtWrite
    · exact hkeep
  · split
    · exact fun u e => Option.some.inj e ▸ hs.ceWrite
    · exact hkeep
  · exact fun u e => Option.some.inj e ▸ hs.winvWrite
  · split
    · exact fun u e => Option.some.inj e ▸ hs.winWrite
    · exact hkeep
  · exact hkeep
  · exact hs.fnWrite
  · exact hkeep
  · exact fun u e => Option.some.inj e ▸ hs.cnsWrite
  · split
    · exact fun u e => Option.some.inj e ▸ hs.ptWrite
    · exact hkeep
  · split
    · exact fun u e => Option.some.inj e ▸ hs.ldWrite
    · exact hkeep
  · exact hkeep
  · exact hkeep

theorem State.Sound.sizedWrite {lim : Bool} {b : Blk} {acc : ℕ} {v : DWord} {ver : Option Bool} (hs : s.Sound M R) :
    ∀ u, s.sizedWrite lim b acc v ver = some u → u.Sound M R := by
  unfold State.sizedWrite
  split
  · exact hs.blkWrite
  · exact fun u e => Option.some.inj e ▸ hs

theorem State.Sound.postRefused {f : FuncNo} (hs : s.Sound M R) : (s.postRefused f).Sound M R := hs.modFunc

theorem State.Sound.refusedPost {src : Src} {f : FuncNo} (hs : s.Sound M R) : (s.refusedPost src f).Sound M R :=
  hs.postRefused.refusedWrite

theorem State.Sound.doWrite {src : Src} {b : Blk} {acc : ℕ} {v : DWord} {ver : Option Bool} (hs : s.Sound M R) :
    (s.doWrite src b acc v ver).Sound M R := by
  unfold State.doWrite
  split
  · next e => exact hs.sizedWrite _ e
  · exact hs.refusedPost

theorem State.Sound.touchHalf {pa : ℕ} (hs : s.Sound M R) : (s.touchHalf pa).Sound M R := by
  unfold State.touchHalf
  split
  · exact hs.modCob
  · exact hs

theorem State.Sound.holdAccess {a : HeldAcc} {b : Blk} (hs : s.Sound M R) : (s.holdAccess a b).Sound M R := by
  unfold State.holdAccess
  dsimp only
  split
  · exact hs.same rfl rfl rfl
  · split
    · refine .wake ?_
      exact hs.same rfl rfl rfl
    · exact hs.same rfl rfl rfl

theorem State.Sound.regWrite {src : Src} {pa acc : ℕ} {v : DWord} {ver : Option Bool} (hs : s.Sound M R) :
    (s.regWrite src pa acc v ver).Sound M R := by
  unfold State.regWrite
  split
  · exact hs
  · split
    · exact hs.refusedWrite
    · exact .ite hs.refusedWrite (.ite hs.touchHalf.doWrite hs.holdAccess)

theorem State.Sound.writeCtl {src : Src} {t : TileId} {h : Thr} {g : Word → Word} (hs : s.Sound M R) :
    (s.writeCtl src t h g).Sound M R :=
  hs.regWrite

/-! ## Thread control -/

theorem State.Sound.execThreadStart {src : Src} {t : TileId} {h : Thr} (hs : s.Sound M R) :
    EndsSound M R (Machine.execThreadStart src t h s) :=
  .next hs.writeCtl

theorem State.Sound.execThreadStop {src : Src} {t : TileId} {h : Thr} (hs : s.Sound M R) :
    EndsSound M R (Machine.execThreadStop src t h s) :=
  .next hs.writeCtl

theorem State.Sound.execThreadHalt {src : Src} {t : TileId} {h : Thr} (hs : s.Sound M R) :
    EndsSound M R (Machine.execThreadHalt src t h s) :=
  .next hs.writeCtl

theorem State.Sound.execThreadUnhalt {src : Src} {t : TileId} {h : Thr} (hs : s.Sound M R) :
    EndsSound M R (Machine.execThreadUnhalt src t h s) :=
  .next hs.writeCtl

theorem State.Sound.writePending {src : Src} {t : TileId} {h : Thr} {sws swm : Bool} (hs : s.Sound M R) :
    (s.writePending src t h sws swm).Sound M R :=
  hs.regWrite

theorem State.Sound.execSws {src : Src} {t : TileId} {h : Thr} (hs : s.Sound M R) : EndsSound M R (Machine.execSws src t h s) :=
  .next hs.writePending

theorem State.Sound.execSwm {src : Src} {t : TileId} {h : Thr} (hs : s.Sound M R) : EndsSound M R (Machine.execSwm src t h s) :=
  .next hs.writePending

theorem State.Sound.execStep {src : Src} {t : TileId} {h : Thr} (hs : s.Sound M R) : EndsSound M R (Machine.execStep src t h s) :=
  .next hs.regWrite

theorem State.Sound.execHaltall {src : Src} {t : TileId} (hs : s.Sound M R) : EndsSound M R (Machine.execHaltall src t s) :=
  .next hs.regWrite

theorem State.Sound.execInv {src : Src} {t : TileId} (hs : s.Sound M R) : EndsSound M R (Machine.execInv src t s) :=
  .next hs.regWrite

theorem State.Sound.execCsizeWrite {src : Src} {t : TileId} {v : BitVec 32} (hs : s.Sound M R) :
    EndsSound M R (Machine.execCsizeWrite src t v s) :=
  .next hs.regWrite

/-! ## Messages and ricks -/

theorem State.Sound.atTile {t : TileId} {ready : State → TileId → Bool} {k : State → State} (hs : s.Sound M R)
    (hk : ∀ s, State.Sound M R s → State.Sound M R (k s)) : (Machine.atTile t ready k s).Sound M R :=
  .ite (hk _ hs) hs.wake

theorem State.Sound.ringWrite {t : TileId} {off : ℕ} {bs : List Byte} (hs : s.Sound M R) : (s.ringWrite t off bs).Sound M R := by
  unfold State.ringWrite
  split
  · exact hs.lmFail
  · exact hs.modTile fun _ h1 => h1.lmWrite

theorem State.Sound.placeMsg {t : TileId} {q : QIx} {m : Msg} {need : Scope} {cov : Bool} (hs : s.Sound M R) :
    (s.placeMsg t q m need cov).Sound M R := by
  unfold State.placeMsg
  dsimp only
  refine .modTile ?_ ?_
  · exact .ite (.modTile (.ite hs hs.ringWrite) (fun _ h1 => h1.same rfl rfl)) (.ringWrite (.ite hs hs.ringWrite))
  · intro s' h1
    exact .ite (.same (tl := s'.pm 33 1) h1.pm rfl rfl) h1.pm.modQueue

theorem State.Sound.arrive {t : TileId} {src : Party} {m : Msg} (hs : s.Sound M R) : (s.arrive t src m).Sound M R := by
  unfold State.arrive
  dsimp only
  split
  · exact (hs.modTile (fun _ h1 => h1.modQueue)).respond
  · exact .ite (hs.modTile (fun _ h1 => h1.modQueue)) hs.placeMsg.respond

theorem State.Sound.dropPkt {id : ℕ} (hs : s.Sound M R) : (s.dropPkt id).Sound M R := hs.same rfl rfl rfl

theorem State.Sound.execMessageArrival {id : ℕ} (hs : s.Sound M R) : EndsSound M R (Machine.execMessageArrival id s) := by
  unfold Machine.execMessageArrival
  refine .next ?_
  split
  · split
    · exact .ite hs (hs.atTile (fun _ h1 => .ite h1.dropPkt.arrive h1))
    · exact hs
  · exact hs

theorem State.Sound.execWaitingMessagePlaced {t : TileId} {q : QIx} (hs : s.Sound M R) :
    EndsSound M R (Machine.execWaitingMessagePlaced t q s) := by
  unfold Machine.execWaitingMessagePlaced
  dsimp only
  refine .next ?_
  split
  · exact hs
  · exact .ite hs ((hs.modTile (fun _ h1 => h1.modQueue)).placeMsg.respond)

theorem State.Sound.arriveRick {t : TileId} {m : Msg} {who : List Contrib} (hs : s.Sound M R) :
    (s.arriveRick t m who).Sound M R := by
  unfold State.arriveRick
  extract_lets q k answer bad
  have ha {s : State} {r : Resp} (hs : s.Sound M R) : (answer s r).Sound M R := hs.foldl fun _ _ h => h.respond
  split
  · exact ha (hs.modTile fun _ h => h.modQueue)
  · exact hs
  · extract_lets n s1
    have h1 : s1.Sound M R := ha (hs.modTile fun _ h => h.modQueue)
    exact .ite (h1.modTile fun _ h => h.modQueue).placeMsg h1

theorem State.Sound.drainAll {t : TileId} (hs : s.Sound M R) : (s.drainAll t).Sound M R := hs.foldl fun _ _ h1 => h1.drainInbound

theorem State.Sound.execRickContributionArrival {id : ℕ} (hs : s.Sound M R) :
    EndsSound M R (Machine.execRickContributionArrival id s) := by
  unfold Machine.execRickContributionArrival
  refine .next ?_
  split
  · split
    · exact .ite hs (hs.atTile (fun _ h1 => h1.drainAll.dropPkt.arriveRick))
    · exact hs
  · exact hs

theorem State.Sound.execRouterCombine {r : TileId} {id other : ℕ} (hs : s.Sound M R) :
    EndsSound M R (Machine.execRouterCombine r id other s) := by
  unfold Machine.execRouterCombine
  dsimp only
  refine .next ?_
  split
  · split
    · exact hs
    · refine .modTile ?_ fun _ h1 => h1.pm
      exact hs.same rfl rfl rfl
  · exact hs

theorem State.Sound.execRickHoldExpiry {r : TileId} {id : ℕ} (hs : s.Sound M R) :
    EndsSound M R (Machine.execRickHoldExpiry r id s) := by
  unfold Machine.execRickHoldExpiry
  refine .next ?_
  split
  · exact hs.same rfl rfl rfl
  · exact hs

/-! ## Credit, and responses -/

theorem State.Sound.grantTo {t : TileId} {q : QIx} {to_ : Party} {h : Word} {n : ℕ} (hs : s.Sound M R) :
    (s.grantTo t q to_ h n).Sound M R :=
  (hs.modTile (fun _ h1 => h1.modQueue)).sendPkt

theorem State.Sound.arriveRequest {t : TileId} {src : Party} {h : Word} {m : ℕ} {f : Option FuncNo} (hs : s.Sound M R) :
    (s.arriveRequest t src h m f).Sound M R := by
  unfold State.arriveRequest
  dsimp only
  split
  · exact hs.refuse
  · split
    · exact hs.grantTo
    · exact hs.modTile fun _ h1 => h1.modQueue

theorem State.Sound.execCreditRequestArrival {id : ℕ} (hs : s.Sound M R) :
    EndsSound M R (Machine.execCreditRequestArrival id s) := by
  unfold Machine.execCreditRequestArrival
  refine .next ?_
  split
  · split
    · exact .ite hs (hs.atTile (fun _ h1 => h1.dropPkt.arriveRequest))
    · exact hs
  · exact hs

theorem State.Sound.execHeldRequestGrant {t : TileId} {q : QIx} (hs : s.Sound M R) :
    EndsSound M R (Machine.execHeldRequestGrant t q s) := by
  unfold Machine.execHeldRequestGrant
  dsimp only
  refine .next ?_
  split
  · exact hs
  · split
    · exact hs
    · exact .ite ((hs.modTile (fun _ h1 => h1.modQueue)).refuse) ((hs.modTile (fun _ h1 => h1.modQueue)).grantTo)

theorem State.Sound.atSender {u : Sender} {k : State → State} (hs : s.Sound M R)
    (hk : ∀ s, State.Sound M R s → State.Sound M R (k s)) : (Machine.atSender u k s).Sound M R := by
  unfold Machine.atSender
  split
  · exact hs.atTile hk
  · exact hk _ hs

theorem State.Sound.landGrant {u : Sender} {h : Word} {n : ℕ} {refused : Bool} (hs : s.Sound M R) :
    (s.landGrant u h n refused).Sound M R := by
  unfold State.landGrant
  dsimp only
  split
  · exact hs.modSend
  · exact hs.creditBack

theorem State.Sound.execGrantArrival {id : ℕ} (hs : s.Sound M R) : EndsSound M R (Machine.execGrantArrival id s) := by
  unfold Machine.execGrantArrival
  refine .next ?_
  split
  · split
    · exact hs.atSender fun _ h1 => h1.dropPkt.landGrant
    · exact hs
  · exact hs

theorem State.Sound.execCreditReturnArrival {id : ℕ} (hs : s.Sound M R) :
    EndsSound M R (Machine.execCreditReturnArrival id s) := by
  unfold Machine.execCreditReturnArrival
  refine .next ?_
  split
  · split
    · exact hs.atTile fun _ h1 => h1.dropPkt.modTile fun _ h2 => h2.modQueue
    · exact hs
  · exact hs

theorem State.Sound.execCreditIdleReturn {u : Sender} {e : BitVec 4} (hs : s.Sound M R) :
    EndsSound M R (Machine.execCreditIdleReturn u e s) :=
  .next (.ite hs hs.returnEntry)

theorem State.Sound.execFlush {src : Src} {t : TileId} (hs : s.Sound M R) : EndsSound M R (Machine.execFlush src t s) :=
  .next hs.regWrite

theorem Tile.Sound.threadAnswer {h : Thr} {r : Resp} {first : Bool} (htl : tl.Sound M R) :
    (tl.threadAnswer h r first).Sound M R := by
  unfold Tile.threadAnswer
  split
  · exact htl
  · refine .modTh ?_
    exact htl.same rfl rfl
  · refine .modTh ?_
    exact htl.same rfl rfl
  · exact htl.modTh

theorem State.Sound.endCmd {f : FuncNo} {status : Byte} {result : DWord} (hs : s.Sound M R) :
    (s.endCmd f status result).Sound M R :=
  hs.modFunc

theorem State.Sound.msgDone {f : FuncNo} {r : Resp} (hs : s.Sound M R) : (s.msgDone f r).Sound M R := by
  unfold State.msgDone
  split
  · exact hs
  · split
    · exact hs
    · split
      · exact hs.endCmd
      · exact hs.endCmd
      · exact hs.endCmd
      · exact hs.endCmd

theorem State.Sound.ownerAnswer {u : Sender} {o : Owner} {r : Resp} {first : Bool} (hs : s.Sound M R) :
    (s.ownerAnswer u o r first).Sound M R := by
  unfold State.ownerAnswer
  split
  · split
    · exact .ite hs (hs.modTile (fun _ h1 => h1.threadAnswer))
    · exact hs.modTile fun _ h1 => h1.threadAnswer
  · exact .ite hs hs.modEng
  · exact .ite hs hs.modEng
  · exact hs.msgDone
  · exact hs

theorem State.Sound.freeAfter {u : Sender} {tag : ℕ} (hs : s.Sound M R) : (s.freeAfter u tag).Sound M R :=
  .ite hs (hs.same rfl rfl rfl)

theorem State.Sound.takeResponse {u : Sender} {src : TileId} {tag : ℕ} {r : Resp} (hs : s.Sound M R) :
    (s.takeResponse u src tag r).Sound M R := by
  unfold State.takeResponse
  dsimp only
  split
  · exact hs
  · exact hs.modSend.freeAfter.ownerAnswer

theorem State.Sound.execResponseArrival {id : ℕ} (hs : s.Sound M R) : EndsSound M R (Machine.execResponseArrival id s) := by
  unfold Machine.execResponseArrival
  dsimp only
  refine .next ?_
  split
  · split
    · exact hs.atSender fun _ h1 => h1.dropPkt.takeResponse
    · exact hs.same rfl rfl rfl
    · exact hs
  · exact hs

/-! ## Queue registers -/

theorem State.Sound.execQueueEnable {src : Src} {t : TileId} {q : QIx} {w : BitVec 32} (hs : s.Sound M R) :
    EndsSound M R (Machine.execQueueEnable src t q w s) :=
  .next hs.regWrite

theorem State.Sound.execQueueDisable {src : Src} {t : TileId} {q : QIx} (hs : s.Sound M R) :
    EndsSound M R (Machine.execQueueDisable src t q s) :=
  .next hs.regWrite

theorem State.Sound.execReassign {src : Src} {t : TileId} {q : QIx} (hs : s.Sound M R) :
    EndsSound M R (Machine.execReassign src t q s) :=
  .next hs.regWrite

theorem State.Sound.execClose {src : Src} {t : TileId} {q : QIx} (hs : s.Sound M R) :
    EndsSound M R (Machine.execClose src t q s) :=
  .next hs.regWrite

theorem State.Sound.execDisarm {src : Src} {t : TileId} {q : QIx} (hs : s.Sound M R) :
    EndsSound M R (Machine.execDisarm src t q s) :=
  .next hs.regWrite

end

end Sys2Proof.Machine
end

section
/-! O58 and O59: what copy engines, colliers, inbound windows and the slices keep. -/
namespace Sys2Proof.Machine

open Sys2Proof.Safety

section
variable {M R : Prop} {s : State} {tl : Tile}

/-! ## Descriptors -/

theorem State.Sound.huskLookup {e : BitVec 2} {f : FuncNo} {va : ℕ} (hs : s.Sound M R) : (s.huskLookup e f va).2.Sound M R := by
  unfold State.huskLookup
  dsimp only
  split
  · exact hs.same rfl rfl rfl
  · split
    · exact hs.touchReads
    · exact hs.touchReads
    · exact hs
    · exact .same (s := s.touchReads (s.walkReads (SMap.get [] s.huskWalker (e.toNat / 2)) f va)) hs.touchReads rfl rfl rfl

theorem State.Sound.engLook {e : Eng} {f : FuncNo} {va : ℕ} (hs : s.Sound M R) : (s.engLook e f va).2.Sound M R := by
  unfold State.engLook
  split
  · exact hs.lookup
  · exact hs.huskLookup

theorem State.Sound.descStart {e : Eng} (hs : s.Sound M R) : (s.descStart e).Sound M R := by
  unfold State.descStart
  dsimp only
  split
  · exact hs
  · split
    · exact hs
    · split
      · exact hs.modEng.engSettle
      · exact hs.modEng.endDesc.engSettle

theorem State.Sound.execDescriptorStart {e : Eng} (hs : s.Sound M R) : EndsSound M R (Machine.execDescriptorStart e s) := by
  unfold Machine.execDescriptorStart
  refine .next ?_
  split
  · exact hs
  · split
    · exact hs.wakeSlice
    · exact hs.descStart

theorem State.Sound.chunkList {e : Eng} {x : Xfer} {k : ℕ} (hs : s.Sound M R) : (s.chunkList e x k).2.Sound M R := by
  unfold State.chunkList
  split
  · exact hs
  · split
    · split
      · exact hs.modTile fun _ h1 => h1.fixWords
      · exact hs
    · exact hs
    · exact hs
    · exact hs

theorem State.Sound.chunkFault {e : Eng} {k : ℕ} {cause : BitVec 4} {va : ℕ} {side : Bool} (hs : s.Sound M R) :
    (s.chunkFault e k cause va side).Sound M R :=
  hs.modEng.engSettle

theorem State.Sound.engAddr {e : Eng} {f : FuncNo} {va n : ℕ} {dst : Bool} {x : Xfer} {off : ℕ} {ecc : SliceEcc}
    (hs : s.Sound M R) : (s.engAddr e f va n dst x off ecc).2.Sound M R := by
  unfold State.engAddr
  dsimp only
  split
  · split
    · exact hs
    · split
      · exact hs
      · split
        · exact hs
        · exact hs
        · exact hs
  · split
    · exact hs
    · split
      · exact hs.withEccs
      · split
        · exact hs.withEccs.engLook
        · exact hs.withEccs.engLook
        · exact hs.withEccs.engLook
        · split
          · exact hs.withEccs.engLook
          · exact hs.withEccs.engLook

theorem State.Sound.engAddrUnless {e : Eng} {f : FuncNo} {a n off o : ℕ} {c w : Bool} {x : Xfer} {ecc : SliceEcc}
    (hs : s.Sound M R) : (if c then (.to (.host o), s) else s.engAddr e f a n w x off ecc : Step2 × State).2.Sound M R := by
  split
  · exact hs
  · exact hs.engAddr

theorem State.Sound.step2 {e : Eng} {f : FuncNo} {x : Xfer} {ecc : SliceEcc} {off : ℕ} {l : List (ℕ × ℕ × ℕ)} {acc : List Piece}
    (hs : s.Sound M R) : (s.step2 e f x ecc off l acc).2.Sound M R := by
  induction l generalizing s off acc with
  | nil => exact hs
  | cons p l ih =>
    rw [State.step2]
    dsimp only
    split
    · exact hs.engAddrUnless
    · exact hs.engAddrUnless
    · exact hs.engAddrUnless
    · split
      · exact hs.engAddrUnless.engAddrUnless
      · exact hs.engAddrUnless.engAddrUnless
      · exact hs.engAddrUnless.engAddrUnless
      · exact ih hs.engAddrUnless.engAddrUnless

/-! ## Chunks -/

theorem State.Sound.chunkBroken {e : Eng} {no : ℕ} {id : Option ℕ} (hs : s.Sound M R) : (s.chunkBroken e no id).Sound M R :=
  hs.modEng.engSettle

theorem State.Sound.hbmFail {src : Byte} {burst : ℕ} {f : FuncNo} {t : Option TileId} {va : Option VAddr}
    {reader : Option (TileId × Thr)} (hs : s.Sound M R) : (s.hbmFail src burst f t va reader).Sound M R :=
  hs.machineCheck

theorem State.Sound.fetchAhead {e : Eng} {f : FuncNo} {ecc : SliceEcc} {l : List (Bool × Piece)} (hs : s.Sound M R) :
    (s.fetchAhead e f ecc l).2.Sound M R := by
  induction l generalizing s with
  | nil => exact hs
  | cons p l ih =>
    rw [State.fetchAhead]
    split
    · dsimp only
      split
      · exact ih hs.withEccs.touchReads
      · exact ih hs
    · exact ih hs

theorem State.Sound.askHost {i : BitVec 2} {c : Chunk} {o n : ℕ} (hs : s.Sound M R) : (s.askHost i c o n).1.Sound M R := by
  unfold State.askHost
  dsimp only
  split
  · exact hs
  · exact hs.ask

theorem State.Sound.readPiece {e : Eng} {f : FuncNo} {p : Piece} {ecc : SliceEcc} (hs : s.Sound M R) :
    (∀ u, s.readPiece e f p ecc = .inl u → u.Sound M R) ∧ ∀ q, s.readPiece e f p ecc = .inr q → q.2.Sound M R := by
  have h0 : (match p.src, p.got with
      | .hbm pa, none => s.withEccs [(pa, p.n)] ecc
      | _, _ => s : State).Sound M R := by
    split
    · exact hs.withEccs
    · exact hs
  unfold State.readPiece
  dsimp only
  split
  · split
    · exact bothSound_inr h0
    · split
      · exact bothSound_inl h0.hbmFail
      · exact bothSound_inr h0.touchReads
  · exact bothSound_inr h0
  · exact bothSound_inr h0
  · exact bothSound_inr h0
  · split
    · exact bothSound_inr h0
    · split
      · exact bothSound_inl h0.lmFail
      · exact bothSound_inr (h0.modTile fun _ h => h.fixWords)

theorem State.Sound.sendPiece {e : Eng} {c : Chunk} {ecc : SliceEcc} {p : Piece} (hs : s.Sound M R) :
    (s.sendPiece e c ecc p).1.Sound M R := by
  unfold State.sendPiece
  extract_lets f
  split
  · exact hs
  · split
    · split
      · exact hs.askHost
      · exact hs
    · split
      · extract_lets w
        split
        · exact hs
        · split
          · next t et => exact hs.readPiece.1 _ et
          · next er => exact (hs.readPiece.2 _ er).ask
      · split
        · exact hs
        · split
          · next t et => exact hs.readPiece.1 _ et
          · next er => exact (hs.readPiece.2 _ er).ask
      · exact hs

theorem State.Sound.sendChunk {e : Eng} {c : Chunk} {ecc : SliceEcc} {l : List Piece} (hs : s.Sound M R) :
    (s.sendChunk e c ecc l).1.Sound M R := by
  induction l generalizing s with
  | nil => exact hs
  | cons p l ih =>
    rw [State.sendChunk]
    split
    · exact ih hs.sendPiece
    · exact hs.sendPiece

theorem State.Sound.sendClaim {e : Eng} {c : Chunk} (hs : s.Sound M R) : (s.sendClaim e c).Sound M R := by
  unfold State.sendClaim
  dsimp only
  split
  · split
    · exact hs
    · exact hs.ask
  · exact hs

theorem State.Sound.engLate {e : Eng} {id : ℕ} {cause : BitVec 4} {va : VAddr} {side : Bool} (hs : s.Sound M R) :
    (s.engLate e id cause va side).Sound M R := by
  unfold State.engLate
  dsimp only
  split
  · exact hs
  · exact hs.modEng.engSettle

theorem State.Sound.chunkSent {e : Eng} {c : Chunk} {a : SendEnd} (hs : s.Sound M R) : (s.chunkSent e c a).Sound M R := by
  unfold State.chunkSent
  split
  · exact hs.sendClaim
  · exact hs.engLate
  · exact hs.chunkBroken

theorem State.Sound.chunkGo {s0 : State} {e : Eng} {f : FuncNo} {x : Xfer} {k : ℕ} {b : List Byte} {runs : List (ℕ × ℕ × ℕ)}
    {ps : List Piece} {ecc : SliceEcc} (hs0 : s0.Sound M R) (hs : s.Sound M R) :
    (s0.chunkGo s e f x k b runs ps ecc).Sound M R := by
  unfold State.chunkGo
  extract_lets d q c out asleep _ s1 r
  have h1 : s1.Sound M R := by
    refine .modEng ?_
    have hq : q.2.Sound M R := hs.fetchAhead
    exact hq.same rfl rfl rfl
  have hr : r.1.Sound M R := h1.sendChunk
  exact .ite (hs0.foldl fun _ _ h => h.wake) (.ite hs0 hr.chunkSent)

theorem State.Sound.execChunkStart {e : Eng} {ecc : SliceEcc} (hs : s.Sound M R) :
    EndsSound M R (Machine.execChunkStart e ecc s) := by
  unfold Machine.execChunkStart
  dsimp only
  refine .next ?_
  split
  · exact hs
  · split
    · exact hs
    · split
      · exact hs.chunkList.chunkFault
      · split
        · exact hs.chunkList.lmFail
        · exact hs.chunkList
      · split
        · exact hs.chunkList.step2.chunkFault
        · exact hs.chunkList.step2.hbmFail.chunkBroken
        · exact hs.wakeSlice
        · exact hs.chunkGo hs.chunkList.step2

theorem State.Sound.chunkForward {e : Eng} {c : Chunk} {ecc : SliceEcc} (hs : s.Sound M R) : (s.chunkForward e c ecc).Sound M R :=
  hs.modEng.sendChunk.chunkSent

theorem State.Sound.addElems {k : AddKind} {f : FuncNo} {cksel : Bool} {pa : ℕ} {l : List (ℕ × ℕ)} (hs : s.Sound M R) :
    (s.addElems k f cksel pa l).Sound M R := by
  induction l generalizing s with
  | nil => exact hs
  | cons p l ih =>
    exact ih (.ite hs.setHbm.modSlice hs.setHbm)

theorem State.Sound.collierAdd {k : AddKind} {f : FuncNo} {cksel : Bool} {pa : ℕ} {ops : List (ℕ × ℕ)} (hs : s.Sound M R) :
    ∀ u, s.collierAdd k f cksel pa ops = .inr u → u.Sound M R := by
  unfold State.collierAdd
  dsimp only
  split
  · rintro u ⟨⟩
  · rintro u ⟨⟩
    exact hs.hold.addElems

theorem State.Sound.accRun {e : Eng} {f : FuncNo} {k : AddKind} {cksel : Bool} {ecc : SliceEcc} {pa : ℕ} {b : List Byte} {n : ℕ}
    (hs : s.Sound M R) :
    (∀ u, s.accRun e f k cksel ecc pa b n = .inl u → u.Sound M R) ∧
    ∀ u, s.accRun e f k cksel ecc pa b n = .inr u → u.Sound M R := by
  induction n generalizing s pa b with
  | zero => exact bothSound_inr hs
  | succ n ih =>
    rw [State.accRun]
    dsimp only
    split
    · exact bothSound_inr hs
    · split
      · exact bothSound_inl hs.withEccs.hbmFail
      · next s1 e => exact ih (hs.withEccs.collierAdd _ e)

theorem State.Sound.writePiece {e : Eng} {c : Chunk} {p : Piece} {b : List Byte} {ecc : SliceEcc} (hs : s.Sound M R) :
    (∀ u, s.writePiece e c p b ecc = .inl u → u.Sound M R) ∧ ∀ u, s.writePiece e c p b ecc = .inr u → u.Sound M R := by
  unfold State.writePiece
  split
  · split
    · exact hs.accRun
    · dsimp only
      split
      · exact bothSound_inl hs.withEccs.hbmFail
      · exact bothSound_inr hs.withEccs.hbmWrite.touchReads
  · exact bothSound_inr hs.setCxl
  · exact bothSound_inr hs
  · exact bothSound_inr hs
  · split
    · exact bothSound_inr hs
    · dsimp only
      split
      · exact bothSound_inl hs.drainAll.lmFail
      · exact bothSound_inr (hs.drainAll.modTile fun _ h => h.lmWrite)

theorem State.Sound.movePieces {e : Eng} {c : Chunk} {ecc : SliceEcc} {l : List Piece} {n : ℕ} (hs : s.Sound M R) :
    (∀ u, s.movePieces e c ecc l n = .inl u → u.Sound M R) ∧ ∀ u, s.movePieces e c ecc l n = .inr u → u.Sound M R := by
  induction l generalizing s n with
  | nil => exact bothSound_inr hs
  | cons p l ih =>
    rw [State.movePieces]
    dsimp only
    split
    · exact bothSound_inr hs
    · split
      · exact ih hs
      · split
        · next t et => exact bothSound_inl (hs.readPiece.1 _ et)
        · next b s1 er =>
            have h1 : s1.Sound M R := hs.readPiece.2 _ er
            split
            · next t et => exact bothSound_inl (h1.writePiece.1 _ et)
            · next s2 ew => exact ih (h1.writePiece.2 _ ew)

theorem State.Sound.ckAdd {f : FuncNo} {cksel : Bool} {pa : ℕ} {claim : DWord} (hs : s.Sound M R) :
    (s.ckAdd f cksel pa claim).Sound M R :=
  hs.modSlice

theorem State.Sound.chunkDone {e : Eng} {c : Chunk} (hs : s.Sound M R) : (s.chunkDone e c).Sound M R := by
  unfold State.chunkDone
  dsimp only
  refine .engSettle ?_
  split
  · refine .modTile ?_ fun _ h1 => h1.pm.pm
    refine .modEng ?_
    split
    · exact hs.ckAdd
    · exact hs
  · refine .modEng ?_
    split
    · exact hs.ckAdd
    · exact hs

theorem State.Sound.execChunkFinish {e : Eng} {ecc : SliceEcc} (hs : s.Sound M R) :
    EndsSound M R (Machine.execChunkFinish e ecc s) := by
  unfold Machine.execChunkFinish
  dsimp only
  refine .next ?_
  split
  · exact hs
  · split
    · exact hs
    · split
      · exact hs.foldl fun _ _ h1 => h1.wake
      · split
        · exact hs.chunkForward
        · split
          · next x => exact (hs.movePieces.1 _ x).chunkBroken
          · next x => exact (hs.movePieces.2 _ x).chunkDone

theorem State.Sound.engMsgGone {e : Eng} {m : EngMsg} (hs : s.Sound M R) : (s.engMsgGone e m).Sound M R :=
  .engSettle (.ite hs.modEng hs.modEng.setDone)

theorem State.Sound.execCompletionMessageSend {e : Eng} (hs : s.Sound M R) :
    EndsSound M R (Machine.execCompletionMessageSend e s) := by
  unfold Machine.execCompletionMessageSend
  dsimp only
  refine .next ?_
  split
  · exact .ite hs (.ite hs.modEng.engMsgGone (.ite hs.askCredit (.ite hs hs.modSend.emit.engMsgGone)))
  · exact hs

theorem State.Sound.execLateError {e : Eng} {cause : BitVec 4} {va : BitVec 48} {side : Bool} {moved : ℕ} {ecc : SliceEcc}
    (hs : s.Sound M R) : EndsSound M R (Machine.execLateError e cause va side moved ecc s) := by
  unfold Machine.execLateError
  dsimp only
  refine .next ?_
  split
  · exact hs
  · split
    · exact hs
    · split
      · next x => exact (hs.movePieces.1 _ x).chunkBroken
      · next x => exact (hs.movePieces.2 _ x).engLate

/-! ## Engine control and sweeps -/

theorem State.Sound.writeCeCtl {src : Src} {t : TileId} {v : DWord} (hs : s.Sound M R) : (s.writeCeCtl src t v).Sound M R :=
  hs.regWrite

theorem State.Sound.execPause {src : Src} {t : TileId} (hs : s.Sound M R) : EndsSound M R (Machine.execPause src t s) :=
  .next hs.writeCeCtl

theorem State.Sound.execGo {src : Src} {t : TileId} (hs : s.Sound M R) : EndsSound M R (Machine.execGo src t s) :=
  .next hs.writeCeCtl

theorem State.Sound.execResume {src : Src} {t : TileId} (hs : s.Sound M R) : EndsSound M R (Machine.execResume src t s) :=
  .next hs.writeCeCtl

theorem State.Sound.execAbort {src : Src} {t : TileId} (hs : s.Sound M R) : EndsSound M R (Machine.execAbort src t s) :=
  .next hs.writeCeCtl

theorem State.Sound.execWinv {src : Src} {c : CobNo} {vpn : BitVec 36} {f : FuncNo} {all : Bool} (hs : s.Sound M R) :
    EndsSound M R (Machine.execWinv src c vpn f all s) :=
  .next hs.regWrite

theorem State.Sound.endWinv {c : CobNo} (hs : s.Sound M R) : (s.endWinv c).Sound M R := .ite hs hs.modCob

theorem State.Sound.execWinvDone {c : CobNo} (hs : s.Sound M R) : EndsSound M R (Machine.execWinvDone c s) := .next hs.endWinv

theorem State.Sound.execSweep {src : Src} {c : CobNo} {f : FuncNo} {cksel : Bool} (hs : s.Sound M R) :
    EndsSound M R (Machine.execSweep src c f cksel s) :=
  .next hs.regWrite

theorem State.Sound.takeRecord {i a : ℕ} (hs : s.Sound M R) : (s.takeRecord i a).2.Sound M R := hs.modSlice

theorem State.Sound.endSweep {c : CobNo} (hs : s.Sound M R) : (s.endSweep c).Sound M R :=
  .ite hs ((hs.foldl (fun _ _ h1 => h1.takeRecord)).modCob)

theorem State.Sound.execSweepDone {c : CobNo} (hs : s.Sound M R) : EndsSound M R (Machine.execSweepDone c s) := .next hs.endSweep

/-! ## Inbound windows -/

theorem State.Sound.windowReply {port : Option PortNo} {rq : WinReq} {status : Byte} (hs : s.Sound M R) :
    (s.windowReply port rq status).Sound M R := by
  unfold State.windowReply
  dsimp only
  split
  · exact hs.same rfl rfl rfl
  · split
    · exact hs.same rfl rfl rfl
    · refine .sendOn ?_
      exact hs.same rfl rfl rfl

theorem State.Sound.landBlock {f : FuncNo} {k : WinKind} {cksel : Bool} {pa : ℕ} {b : List Byte} (hs : s.Sound M R) :
    (∀ u, s.landBlock f k cksel pa b = .inl u → u.Sound M R) ∧ ∀ u, s.landBlock f k cksel pa b = .inr u → u.Sound M R := by
  unfold State.landBlock
  split
  · split
    · exact bothSound_inl hs.hbmFail
    · exact bothSound_inr hs.hbmWrite.touchReads
  · dsimp only
    split
    · exact bothSound_inl hs.hbmFail
    · next s1 e1 => exact bothSound_inr (hs.collierAdd _ e1)
  · exact bothSound_inr hs.ckAdd

theorem State.Sound.landBlocks {rq : WinReq} {cksel : Bool} {va0 : ℕ} {l : List (ℕ × ℕ)} (hs : s.Sound M R) :
    (s.landBlocks rq cksel va0 l).2.Sound M R := by
  induction l generalizing s with
  | nil => exact hs
  | cons p l ih =>
    rw [State.landBlocks]
    dsimp only
    split
    · split
      · next t e => exact hs.withEccs.withEccs.landBlock.1 _ e
      · next t e => exact ih (hs.withEccs.withEccs.landBlock.2 _ e)
    · exact hs.withEccs.hbmFail
    · exact hs.withEccs

theorem State.Sound.windowLand {rq : WinReq} (hs : s.Sound M R) : (s.windowLand rq).2.Sound M R := hs.landBlocks

theorem State.Sound.serveWindow {port : Option PortNo} {rq : WinReq} (hs : s.Sound M R) : (s.serveWindow port rq).Sound M R := by
  unfold State.serveWindow
  split
  · exact hs.windowReply
  · split
    · exact hs.same rfl rfl rfl
    · split
      · exact hs.windowLand.windowReply
      · have hw : ((s.windowSleeps rq).foldl (fun a pa => a.wakeSlice pa) s).Sound M R := hs.foldl fun _ _ h => h.wakeSlice
        exact hw.same rfl rfl rfl

theorem State.Sound.execInboundWindowRequest {rq : WinReq} (hs : s.Sound M R) :
    EndsSound M R (Machine.execInboundWindowRequest rq s) :=
  .next hs.serveWindow

theorem State.Sound.execInboundWrite {t : TileId} {ecc : Ecc} (hs : s.Sound M R) :
    EndsSound M R (Machine.execInboundWrite t ecc s) :=
  .next (.ite hs.drainInbound hs)

/-! ## Memories answer -/

theorem State.Sound.refuseStore {t : TileId} {id : ℕ} {detail : BitVec 4} (hs : s.Sound M R) :
    (s.refuseStore t id detail).Sound M R :=
  hs.reply.modTile fun _ h1 => h1.same rfl rfl

theorem State.Sound.remoteLoad {u : TileId} {r : Req} {off : ℕ} {ecc : Ecc} (hs : s.Sound M R) :
    (s.remoteLoad u r off ecc).Sound M R := by
  unfold State.remoteLoad
  dsimp only
  split
  · refine .lmFail ?_
    refine .dropReq ?_
    exact .ite hs (hs.modTile (fun _ h1 => h1.same rfl rfl))
  · refine .answer ?_
    refine .modTile ?_ fun _ h1 => h1.fixWords
    exact .ite hs (hs.modTile (fun _ h1 => h1.same rfl rfl))

theorem State.Sound.execRemoteAccessArrival {id : ℕ} {ecc : Ecc} (hs : s.Sound M R) :
    EndsSound M R (Machine.execRemoteAccessArrival id ecc s) := by
  unfold Machine.execRemoteAccessArrival
  refine .next ?_
  split
  · exact hs
  · split
    · split
      · exact hs.wake
      · split
        · exact .ite hs.refuseStore.dropReq hs.answer
        · split
          · exact hs.remoteLoad
          · split
            · exact hs
            · refine .dropReq ?_
              exact hs.modTile fun _ h1 => h1.same rfl rfl
    · exact hs

theorem State.Sound.execLmemZeroDone {t : TileId} (hs : s.Sound M R) : EndsSound M R (Machine.execLmemZeroDone t s) := by
  unfold Machine.execLmemZeroDone
  refine .next (.ite (hs.modTile fun _ htl => ?_) hs)
  exact ⟨fun _ => rfl, htl.2⟩

theorem State.Sound.sliceWrite {r : Req} {pa : ℕ} {ecc : SliceEcc} (hs : s.Sound M R) : (s.sliceWrite r pa ecc).Sound M R := by
  unfold State.sliceWrite
  dsimp only
  split
  · exact hs.withEccs.ackStore.dropReq.hbmFail
  · exact hs.withEccs.hbmWrite.touchReads.ackStore.dropReq

theorem State.Sound.sliceRead {r : Req} {pa : ℕ} {ecc : SliceEcc} (hs : s.Sound M R) : (s.sliceRead r pa ecc).Sound M R := by
  unfold State.sliceRead
  dsimp only
  split
  · refine .hbmFail ?_
    exact hs.withEccs.dropReq.modTile fun _ h1 => h1.same rfl rfl
  · exact hs.withEccs.touchReads.answer

theorem State.Sound.execSliceRequest {id : ℕ} {ecc : SliceEcc} (hs : s.Sound M R) :
    EndsSound M R (Machine.execSliceRequest id ecc s) := by
  unfold Machine.execSliceRequest
  refine .next ?_
  split
  · exact hs
  · split
    · exact .ite hs.wakeSlice (.ite hs.sliceWrite hs.sliceRead)
    · exact hs

theorem State.Sound.collierOp {k : AddKind} {src : Option TileId} {f : FuncNo} {cksel : Bool} {pa mask : ℕ} {x : BitVec 512}
    {ecc : SliceEcc} (hs : s.Sound M R) : (s.collierOp k src f cksel pa mask x ecc).Sound M R := by
  unfold State.collierOp
  dsimp only
  split
  · exact hs
  · split
    · exact hs.wakeSlice
    · split
      · exact hs.withEccs.hbmFail
      · next x' => exact hs.withEccs.collierAdd _ x'

theorem State.Sound.execAddI32 {src : Option TileId} {f : FuncNo} {pa : BitVec 46} {mask : BitVec 16} {x : BitVec 512}
    {ecc : SliceEcc} (hs : s.Sound M R) : EndsSound M R (Machine.execAddI32 src f pa mask x ecc s) :=
  .next hs.collierOp

theorem State.Sound.execAddF32 {src : Option TileId} {f : FuncNo} {pa : BitVec 46} {mask : BitVec 16} {x : BitVec 512}
    {ecc : SliceEcc} (hs : s.Sound M R) : EndsSound M R (Machine.execAddF32 src f pa mask x ecc s) :=
  .next hs.collierOp

theorem State.Sound.execAddXs {src : Option TileId} {f : FuncNo} {cksel : Bool} {pa : BitVec 46} {mask : BitVec 8}
    {x : BitVec 512} {ecc : SliceEcc} (hs : s.Sound M R) : EndsSound M R (Machine.execAddXs src f cksel pa mask x ecc s) :=
  .next hs.collierOp

theorem State.Sound.execCkadd {f : FuncNo} {cksel : Bool} {pa : BitVec 46} {claim : BitVec 64} (hs : s.Sound M R) :
    EndsSound M R (Machine.execCkadd f cksel pa claim s) :=
  .next (.ite hs (.ite hs.wakeSlice hs.ckAdd))

theorem State.Sound.execCkrd {f : FuncNo} {cksel : Bool} {pa : BitVec 46} (hs : s.Sound M R) :
    EndsSound M R (Machine.execCkrd f cksel pa s) := by
  unfold Machine.execCkrd
  refine .next ?_
  exact .ite hs (.ite hs.wakeSlice (.same (s := (s.takeRecord (sliceOf pa.toNat) (accIx f cksel)).2) hs.takeRecord rfl rfl rfl))

end

end Sys2Proof.Machine
end

section
/-! O58 and O59: what CXL, register accesses, die links, the census and Tamore Link keep. -/
namespace Sys2Proof.Machine

open Sys2Proof.Safety

section
variable {M R : Prop} {s : State} {tl : Tile}

/-! ## CXL -/

theorem State.Sound.cxlFail {e : Eng} {c : Chunk} (hs : s.Sound M R) : (s.cxlFail e c).Sound M R := hs.machineCheck.chunkBroken

theorem State.Sound.execCxlCompletion {e : Eng} {ok : Bool} (hs : s.Sound M R) :
    EndsSound M R (Machine.execCxlCompletion e ok s) := by
  unfold Machine.execCxlCompletion
  refine .next ?_
  split
  · exact hs
  · exact .ite hs.modEng hs.cxlFail

theorem State.Sound.execCxlLinkDown {l : BitVec 3} (hs : s.Sound M R) : EndsSound M R (Machine.execCxlLinkDown l s) := by
  unfold Machine.execCxlLinkDown
  dsimp only
  refine .next ?_
  refine .foldl ?_ fun _ _ h1 => h1.cxlFail
  exact hs.same rfl rfl rfl

/-! ## Register accesses -/

theorem State.Sound.csrElems {r : Req} {pa n : ℕ} {l : List Byte} (hs : s.Sound M R) :
    ∀ u, s.csrElems r pa n l = .inr u → u.Sound M R := by
  induction n generalizing s pa l with
  | zero => exact fun u e => Sum.inr.inj e ▸ hs
  | succ n ih =>
    rw [State.csrElems]
    split
    · rintro u ⟨⟩
    · split
      · rintro u ⟨⟩
      · split
        · next v e => exact ih (hs.sizedWrite _ e)
        · rintro u ⟨⟩

theorem State.Sound.csrStore {r : Req} {pa : ℕ} (hs : s.Sound M R) : (s.csrStore r pa).2.Sound M R := by
  unfold State.csrStore
  split
  · next e => exact hs.csrElems _ e
  · exact hs.postRefused
  · exact hs

theorem State.Sound.ctRead {t : TileId} {r : CtReg} (hs : s.Sound M R) : (s.ctRead t r).2.Sound M R := by
  unfold State.ctRead
  dsimp only
  split
  · exact hs
  · exact hs
  · exact hs
  · exact hs
  · exact hs
  · exact hs
  · exact hs.modTile fun _ h1 => h1.same rfl rfl
  · exact hs
  · exact hs
  · exact hs
  · exact hs.modTile fun _ h1 => h1.same rfl rfl
  · exact hs
  · exact hs
  · exact hs
  · exact hs
  · exact hs
  · exact hs
  · exact hs
  · exact hs
  · exact hs
  · exact hs
  · exact hs
  · exact hs
  · exact hs
  · split
    · exact hs.modTile fun _ h1 => h1.same rfl rfl
    · exact hs
  · exact hs
  · exact hs
  · exact hs
  · exact hs
  · exact hs
  · exact hs

theorem State.Sound.qtRead {t : TileId} {r : QtReg} (hs : s.Sound M R) : (s.qtRead t r).2.Sound M R := by
  unfold State.qtRead
  dsimp only
  split
  · exact hs
  · exact hs
  · exact hs
  · exact hs.modTile fun _ h1 => h1.modQueue
  · exact hs
  · exact hs.modTh
  · exact hs
  · exact hs
  · exact hs
  · exact hs
  · exact hs
  · exact hs
  · exact hs

theorem State.Sound.ceRead {t : TileId} {r : CeReg} (hs : s.Sound M R) : (s.ceRead t r).2.Sound M R := by
  unfold State.ceRead
  dsimp only
  split
  · exact hs
  · exact hs
  · exact hs
  · exact hs
  · exact hs
  · exact hs.modEng
  · exact hs
  · exact hs

theorem State.Sound.hceRead {e : BitVec 2} {r : CeReg} (hs : s.Sound M R) : (s.hceRead e r).2.Sound M R := by
  unfold State.hceRead
  dsimp only
  split
  · exact hs
  · exact hs.modEng
  · exact hs
  · exact hs

theorem State.Sound.fnRead {f : FuncNo} {o : ℕ} (hs : s.Sound M R) : (s.fnRead f o).2.Sound M R := by
  unfold State.fnRead
  dsimp only
  split
  · exact hs
  · split
    · exact hs
    · split
      · exact hs
      · split
        · exact hs
        · split
          · exact hs
          · split
            · exact hs.modFunc
            · exact hs

theorem State.Sound.partRead {o : ℕ} (hs : s.Sound M R) : (s.partRead o).2.Sound M R := by
  unfold State.partRead
  dsimp only
  split
  · exact hs
  · exact hs.modPort

theorem State.Sound.cnsRead {f : FuncNo} (hs : s.Sound M R) : (s.cnsRead f).2.Sound M R := hs.modFunc

theorem State.Sound.ptRead {r : PtReg} (hs : s.Sound M R) : (s.ptRead r).2.Sound M R := by
  unfold State.ptRead
  dsimp only
  split
  · exact hs
  · exact hs
  · exact hs
  · exact hs
  · exact hs
  · exact hs
  · exact hs
  · exact hs
  · exact hs
  · exact hs.same rfl rfl rfl
  · exact hs.same rfl rfl rfl
  · exact hs
  · exact hs.same rfl rfl rfl
  · exact hs.same rfl rfl rfl
  · exact hs
  · exact hs
  · exact hs
  · exact hs

theorem State.Sound.cdRead {c : CobNo} {o : ℕ} (hs : s.Sound M R) : (s.cdRead c o).2.Sound M R := by
  unfold State.cdRead
  dsimp only
  split
  · exact hs
  · split
    · exact hs
    · split
      · exact hs.modCob
      · exact hs

theorem State.Sound.modLink {l : DLink} {f : DieLnk → DieLnk} (hs : s.Sound M R) : (s.modLink l f).Sound M R :=
  hs.same rfl rfl rfl

theorem State.Sound.pwRead {r : PwReg} (hs : s.Sound M R) : (s.pwRead r).2.Sound M R := by
  unfold State.pwRead
  dsimp only
  split
  · exact hs
  · exact hs
  · exact hs.modCob
  · exact hs.same rfl rfl rfl
  · exact hs.same rfl rfl rfl
  · exact hs.same rfl rfl rfl
  · exact hs.modLink
  · exact hs.modSlice

theorem State.Sound.blkRead {b : Blk} (hs : s.Sound M R) : (s.blkRead b).2.Sound M R := by
  unfold State.blkRead
  split
  · split
    · exact hs.ctRead
    · exact hs
  · split
    · exact hs.qtRead
    · exact hs
  · split
    · exact hs.ceRead
    · exact hs
  · exact hs
  · split
    · exact hs
    · exact hs
  · split
    · exact hs.hceRead
    · exact hs
  · exact hs.fnRead
  · exact hs.partRead
  · exact hs.cnsRead
  · split
    · exact hs.ptRead
    · exact hs
  · split
    · exact hs
    · exact hs
  · exact hs.cdRead
  · split
    · exact hs.pwRead
    · exact hs

theorem State.Sound.sizedRead {b : Blk} {acc : ℕ} (hs : s.Sound M R) : (s.sizedRead b acc).2.Sound M R := by
  unfold State.sizedRead
  split
  · exact hs.blkRead
  · exact hs

theorem State.Sound.csrLoad {r : Req} {pa n : ℕ} {l : List Byte} (hs : s.Sound M R) : (s.csrLoad r pa n l).2.Sound M R := by
  induction n generalizing s pa l with
  | zero => exact hs
  | succ n ih =>
    refine ih ?_
    split
    · exact hs
    · exact hs.sizedRead

theorem State.Sound.execCsrAccessComplete {id : ℕ} (hs : s.Sound M R) : EndsSound M R (Machine.execCsrAccessComplete id s) := by
  unfold Machine.execCsrAccessComplete
  dsimp only
  refine .next ?_
  split
  · exact hs
  · split
    · split
      · split
        · split
          · exact hs.touchHalf.wake
          · exact hs.touchHalf
        · refine .ite ?_ ?_
          · exact .dropReq (.ite hs.touchHalf.csrStore.ackStore hs.touchHalf.csrStore.refuseStore)
          · exact .ite hs.touchHalf.answer hs.touchHalf.csrLoad.answer
      · split
        · split
          · exact hs.touchHalf.wake
          · exact hs.touchHalf
        · refine .ite ?_ ?_
          · exact .dropReq (.ite hs.touchHalf.csrStore.ackStore hs.touchHalf.csrStore.refuseStore)
          · exact .ite hs.touchHalf.answer hs.touchHalf.csrLoad.answer
    · exact hs

/-! ## Die links, machine checks and the census -/

theorem State.Sound.execDieLinkFrame {l : DLink} {up : Bool} {slots : List (BitVec 8)} {carries : List (ℕ × Bool)}
    {noise : List (BitVec 8)} (hs : s.Sound M R) : EndsSound M R (Machine.execDieLinkFrame l up slots carries noise s) :=
  .next (.ite hs hs.modLink)

theorem State.Sound.retryWindows (hs : s.Sound M R) : s.retryWindows.Sound M R := by
  unfold State.retryWindows
  refine .foldl ?_ fun _ _ h1 => h1.serveWindow
  exact hs.same rfl rfl rfl

theorem State.Sound.execDieLinkReplay {l : DLink} {up : Bool} (hs : s.Sound M R) :
    EndsSound M R (Machine.execDieLinkReplay l up s) :=
  .next (.ite hs.modLink.retryWindows hs)

theorem State.Sound.linkLost (hs : s.Sound M R) : s.linkLost.Sound M R := hs.machineCheck

theorem State.Sound.execDieLinkRetrain {l : DLink} (hs : s.Sound M R) : EndsSound M R (Machine.execDieLinkRetrain l s) :=
  .next (.ite hs (.ite hs.linkLost hs.modLink))

theorem State.Sound.execDieLinkRetrainEnd {l : DLink} {ok : Bool} (hs : s.Sound M R) :
    EndsSound M R (Machine.execDieLinkRetrainEnd l ok s) :=
  .next (.ite hs (.ite hs.modLink.retryWindows hs.modLink.linkLost))

theorem State.Sound.execMachineCheck {mc : McReport} (hs : s.Sound M R) : EndsSound M R (Machine.execMachineCheck mc s) :=
  .next (.ite hs (.ite hs.machineCheck (hs.foldl (fun _ _ h1 => h1.machineCheck))))

theorem State.Sound.execCensusStart {f : FuncNo} (hs : s.Sound M R) : EndsSound M R (Machine.execCensusStart f s) :=
  .next (.ite hs hs.modFunc)

theorem State.Sound.execCensusProbe {f : FuncNo} (hs : s.Sound M R) : EndsSound M R (Machine.execCensusProbe f s) := by
  unfold Machine.execCensusProbe
  dsimp only
  refine .next ?_
  split
  · exact hs
  · exact .ite hs hs.modFunc

theorem State.Sound.execCensusReport {f : FuncNo} (hs : s.Sound M R) : EndsSound M R (Machine.execCensusReport f s) := by
  unfold Machine.execCensusReport
  dsimp only
  refine .next ?_
  split
  · exact hs
  · split
    · exact hs
    · split
      · exact hs.modFunc
      · split
        · exact hs
        · split
          · exact hs.modFunc
          · refine .event ?_
            split
            · exact hs.modFunc.modTh
            · exact hs.modFunc

/-! ## Tamore Link -/

theorem State.Sound.wakeTile {t : TileId} (hs : s.Sound M R) : (s.wakeTile t).Sound M R := .ite hs hs.wake

theorem Tile.Sound.loadWords {a n : ℕ} {b : List Byte} (htl : tl.Sound M R) : (tl.loadWords a n b).Sound M R := by
  induction n generalizing tl a b with
  | zero => exact htl
  | succ n ih =>
    refine ih ?_
    exact htl.same rfl rfl

theorem State.Sound.pmemAsk {f : FuncNo} {c : Cmd} (hs : s.Sound M R) : (s.pmemAsk f c).Sound M R := by
  unfold State.pmemAsk
  dsimp only
  split
  · exact hs
  · exact hs.ask.modFunc

theorem State.Sound.pmemWords {f : FuncNo} {c : Cmd} {b : List Byte} (hs : s.Sound M R) : (s.pmemWords f c b).Sound M R := by
  unfold State.pmemWords
  refine .ite hs.modFunc.wakeTile ?_
  exact .ite ((hs.modTile (fun _ h1 => h1.loadWords)).modFunc.endCmd) ((hs.modTile (fun _ h1 => h1.loadWords)).modFunc.pmemAsk)

theorem State.Sound.pmemData {f : FuncNo} {status : Byte} {b : List Byte} (hs : s.Sound M R) :
    (s.pmemData f status b).Sound M R := by
  unfold State.pmemData
  split
  · exact hs
  · exact .ite hs (.ite hs.endCmd hs.pmemWords)

theorem State.Sound.outFails {w : OutFor} {status : Byte} (hs : s.Sound M R) : (s.outFails w status).Sound M R := by
  unfold State.outFails
  split
  · exact hs.engLate
  · refine .engLate ?_
    exact hs.same rfl rfl rfl
  · refine .engLate ?_
    exact hs.same rfl rfl rfl
  · exact hs.pmemData
  · exact hs

theorem State.Sound.portDown {p : PortNo} (hs : s.Sound M R) : (s.portDown p).Sound M R :=
  hs.modPort.foldl fun _ _ h1 => h1.outFails

theorem State.Sound.portRetrain {p : PortNo} (hs : s.Sound M R) : (s.portRetrain p).Sound M R :=
  .ite hs (.ite hs.modPort.portDown hs.modPort)

theorem State.Sound.sendNak {p : PortNo} (hs : s.Sound M R) : (s.sendNak p).Sound M R := .ite hs.modPort.portRetrain hs.modPort

theorem State.Sound.nakAt {p : PortNo} {sq : BitVec 12} (hs : s.Sound M R) : (s.nakAt p sq).Sound M R :=
  .ite hs (.ite hs.modPort.portRetrain hs.modPort)

theorem State.Sound.assignAt {p : PortNo} {dev peer : BitVec 16} (hs : s.Sound M R) : (s.assignAt p dev peer).Sound M R := by
  unfold State.assignAt
  split
  · exact hs
  · split
    · exact hs.modPort
    · refine .modPort ?_
      exact hs.same rfl rfl rfl

theorem State.Sound.controlIn {p : PortNo} {b : List Byte} (hs : s.Sound M R) : (s.controlIn p b).Sound M R := by
  unfold State.controlIn
  dsimp only
  split
  · exact hs.nakAt
  · exact hs.assignAt
  · exact hs.portRetrain
  · exact hs

theorem State.Sound.badPackets {n : ℕ} (hs : s.Sound M R) : (s.badPackets n).Sound M R := .ite hs hs.modFunc

theorem State.Sound.doorbellAt {p : PortNo} {f : FuncNo} {tail head : BitVec 16} (hs : s.Sound M R) :
    (s.doorbellAt p f tail head).Sound M R :=
  .ite hs (.fetch (.replyOn (.ite hs hs.modFunc)))

theorem State.Sound.cfgAck {p : PortNo} {f : FuncNo} {status : Byte} {b : List Byte} (hs : s.Sound M R) :
    (s.cfgAck p f status b).Sound M R := by
  unfold State.cfgAck
  refine .replyOn ?_
  exact hs.same rfl rfl rfl

theorem State.Sound.cfgWrite {p : PortNo} {f : FuncNo} {off w : BitVec 64} (hs : s.Sound M R) :
    (s.cfgWrite p f off w).Sound M R :=
  .ite hs (.ite hs.cfgAck (.ite hs.cfgAck hs.writeRing.cfgAck))

theorem State.Sound.cfgRead {p : PortNo} {f : FuncNo} {off : BitVec 64} (hs : s.Sound M R) : (s.cfgRead p f off).Sound M R := by
  unfold State.cfgRead
  dsimp only
  split
  · exact hs
  · split
    · exact hs.cfgAck
    · refine .cfgAck ?_
      split
      · exact hs.fnRead
      · exact hs.partRead

theorem State.Sound.inbound {p : PortNo} {rq : WinReq} (hs : s.Sound M R) : (s.inbound p rq).Sound M R :=
  .ite hs (.ite hs.badPackets hs.serveWindow)

theorem State.Sound.rspAt {p : PortNo} {tag : BitVec 16} {status : Byte} (hs : s.Sound M R) :
    (s.rspAt p tag status).Sound M R := by
  unfold State.rspAt
  dsimp only
  split
  · exact hs
  · split
    · exact hs
    · exact .ite hs.modPort hs.modPort.outFails

theorem State.Sound.ringData {f : FuncNo} {status : Byte} {b : List Byte} (hs : s.Sound M R) :
    (s.ringData f status b).Sound M R :=
  .ite hs hs.modFunc.fetch

theorem State.Sound.readData {w : OutFor} {b : List Byte} (hs : s.Sound M R) : (s.readData w b).Sound M R := by
  unfold State.readData
  split
  · exact hs.modEng
  · exact hs.ringData
  · exact hs.pmemData
  · exact hs

theorem State.Sound.rdcAt {p : PortNo} {tag : BitVec 16} {status : Byte} {b : List Byte} (hs : s.Sound M R) :
    (s.rdcAt p tag status b).Sound M R := by
  unfold State.rdcAt
  dsimp only
  split
  · exact hs
  · split
    · exact hs.badPackets
    · split
      · exact hs
      · exact .ite hs.modPort.readData hs.modPort.outFails

theorem State.Sound.packetIn {p : PortNo} {k : TxPkt} {src : BitVec 16} {ecc : SliceEcc} (hs : s.Sound M R) :
    (s.packetIn p k src ecc).Sound M R := by
  unfold State.packetIn
  refine .ite hs.badPackets ?_
  refine .ite hs.doorbellAt ?_
  refine .ite hs.cfgWrite ?_
  exact .ite hs.cfgRead (.ite hs.inbound (.ite hs.inbound (.ite hs.inbound (.ite hs.rspAt (.ite hs.rdcAt hs)))))

theorem State.Sound.payloadIn {p : PortNo} {b : List Byte} {ecc : SliceEcc} (hs : s.Sound M R) :
    (s.payloadIn p b ecc).Sound M R :=
  hs.modPort.foldl fun _ _ h1 => h1.packetIn.modPort

theorem State.Sound.execTlFrame {p : PortNo} {fec : Bool} {bytes : List (BitVec 8)} {ecc : SliceEcc} (hs : s.Sound M R) :
    EndsSound M R (Machine.execTlFrame p fec bytes ecc s) := by
  unfold Machine.execTlFrame
  dsimp only
  refine .next ?_
  split
  · exact hs
  · split
    · exact hs.modPort.sendNak
    · exact .ite hs.modPort (.ite hs.sendNak (.modPort (.ite hs.modPort.controlIn (.ite hs.modPort.payloadIn hs.modPort))))

theorem State.Sound.execNak {p : PortNo} {sq : BitVec 12} (hs : s.Sound M R) : EndsSound M R (Machine.execNak p sq s) :=
  .next hs.nakAt

theorem State.Sound.execAssign {p : PortNo} {dev peer : BitVec 16} (hs : s.Sound M R) :
    EndsSound M R (Machine.execAssign p dev peer s) :=
  .next hs.assignAt

theorem State.Sound.execRetrain {p : PortNo} (hs : s.Sound M R) : EndsSound M R (Machine.execRetrain p s) := .next hs.portRetrain

theorem State.Sound.execTlRetrainEnd {p : PortNo} {ok : Bool} (hs : s.Sound M R) :
    EndsSound M R (Machine.execTlRetrainEnd p ok s) :=
  .next (.ite hs (.ite hs.modPort hs.portDown))

theorem State.Sound.execDoorbell {p : PortNo} {f : FuncNo} {tail head : BitVec 16} (hs : s.Sound M R) :
    EndsSound M R (Machine.execDoorbell p f tail head s) :=
  .next hs.doorbellAt

theorem State.Sound.execCfgwr {p : PortNo} {f : FuncNo} {off w : BitVec 64} (hs : s.Sound M R) :
    EndsSound M R (Machine.execCfgwr p f off w s) :=
  .next hs.cfgWrite

theorem State.Sound.execCfgrd {p : PortNo} {f : FuncNo} {off : BitVec 64} (hs : s.Sound M R) :
    EndsSound M R (Machine.execCfgrd p f off s) :=
  .next hs.cfgRead

theorem State.Sound.execWr {p : PortNo} {rq : WinReq} (hs : s.Sound M R) : EndsSound M R (Machine.execWr p rq s) := by
  unfold Machine.execWr
  refine .next ?_
  split
  · exact hs.inbound
  · exact hs

theorem State.Sound.execAcc {p : PortNo} {rq : WinReq} (hs : s.Sound M R) : EndsSound M R (Machine.execAcc p rq s) := by
  unfold Machine.execAcc
  refine .next ?_
  split
  · exact hs.inbound
  · exact hs

theorem State.Sound.execClm {p : PortNo} {rq : WinReq} (hs : s.Sound M R) : EndsSound M R (Machine.execClm p rq s) := by
  unfold Machine.execClm
  refine .next ?_
  split
  · exact hs.inbound
  · exact hs

theorem State.Sound.execRsp {p : PortNo} {tag : BitVec 16} {status : BitVec 8} (hs : s.Sound M R) :
    EndsSound M R (Machine.execRsp p tag status s) :=
  .next hs.rspAt

theorem State.Sound.execRdc {p : PortNo} {tag : BitVec 16} {status : BitVec 8} {bytes : List (BitVec 8)} (hs : s.Sound M R) :
    EndsSound M R (Machine.execRdc p tag status bytes s) :=
  .next hs.rdcAt

end

end Sys2Proof.Machine
end

section
/-! O58 and O59: what ring commands, function resets, the timebase and the line answer port keep. -/
namespace Sys2Proof.Machine

open Sys2Proof.Safety

section
variable {M R : Prop} {s : State} {tl : Tile}

/-! ## Ring commands -/

theorem State.Sound.skipUnknown {f : FuncNo} {n : ℕ} (hs : s.Sound M R) : (s.skipUnknown f n).Sound M R := by
  induction n generalizing s with
  | zero => exact hs
  | succ n ih =>
    rw [State.skipUnknown]
    split
    · exact .ite (ih hs.endCmd) hs
    · exact hs

theorem State.Sound.runHead {f : FuncNo} {op : Byte} {body : Cmd → State → State} (hs : s.Sound M R)
    (hbody : ∀ a s, State.Sound M R s → State.Sound M R (body a s)) : (s.runHead f op body).Sound M R := by
  unfold State.runHead
  dsimp only
  split
  · exact hs.skipUnknown
  · exact .ite hs.skipUnknown (.ite hs.skipUnknown.endCmd (.ite hs.skipUnknown.endCmd (hbody _ _ hs.skipUnknown)))

theorem State.Sound.execCmdNop {f : FuncNo} (hs : s.Sound M R) : EndsSound M R (Machine.execCmdNop f s) :=
  .next (hs.runHead (fun _ _ h1 => h1.endCmd))

theorem State.Sound.execCmdStatus {f : FuncNo} (hs : s.Sound M R) : EndsSound M R (Machine.execCmdStatus f s) :=
  .next (hs.runHead (fun _ _ h1 => h1.endCmd))

theorem State.Sound.pmemCmd {f : FuncNo} {c : Cmd} (hs : s.Sound M R) : (s.pmemCmd f c).Sound M R :=
  .ite hs.endCmd (.ite hs.endCmd (.ite hs.endCmd (.ite hs.endCmd (.ite hs.wakeTile hs.pmemAsk))))

theorem State.Sound.execPmem {f : FuncNo} (hs : s.Sound M R) : EndsSound M R (Machine.execPmem f s) := by
  unfold Machine.execPmem
  refine .next ?_
  split
  · exact hs.pmemWords
  · exact hs.runHead fun _ _ h1 => h1.pmemCmd

theorem State.Sound.tctlCmd {f : FuncNo} {c : Cmd} (hs : s.Sound M R) : (s.tctlCmd f c).Sound M R :=
  .ite hs.endCmd (.ite hs.endCmd (.ite hs.wakeTile hs.modTh.endCmd))

theorem State.Sound.execTctl {f : FuncNo} (hs : s.Sound M R) : EndsSound M R (Machine.execTctl f s) :=
  .next (hs.runHead (fun _ _ h1 => h1.tctlCmd))

theorem State.Sound.startCmd {f : FuncNo} {c : Cmd} (hs : s.Sound M R) : (s.startCmd f c).Sound M R := by
  unfold State.startCmd
  refine .ite hs.endCmd ?_
  exact .ite hs.endCmd (.ite hs.wakeTile ((hs.modTile (fun _ h1 => h1.foldl (fun _ _ h2 => h2.modTh.start))).modFunc.endCmd))

theorem State.Sound.execStart {f : FuncNo} (hs : s.Sound M R) : EndsSound M R (Machine.execStart f s) :=
  .next (hs.runHead (fun _ _ h1 => h1.startCmd))

theorem State.Sound.copyCmd {f : FuncNo} {c : Cmd} (hs : s.Sound M R) : (s.copyCmd f c).Sound M R := by
  unfold State.copyCmd
  dsimp only
  split
  · exact hs
  · exact hs.modEng.modFunc

theorem State.Sound.execCopy {f : FuncNo} (hs : s.Sound M R) : EndsSound M R (Machine.execCopy f s) :=
  .next (hs.runHead (fun _ _ h1 => h1.copyCmd))

theorem State.Sound.msgCmd {f : FuncNo} {c : Cmd} (hs : s.Sound M R) : (s.msgCmd f c).Sound M R :=
  .ite hs (.ite hs.endCmd (.ite hs.askCredit (.ite hs hs.modSend.emit.modFunc)))

theorem State.Sound.execMsg {f : FuncNo} (hs : s.Sound M R) : EndsSound M R (Machine.execMsg f s) :=
  .next (hs.runHead (fun _ _ h1 => h1.msgCmd))

theorem State.Sound.invAll {f : FuncNo} (hs : s.Sound M R) : (s.invAll f).Sound M R :=
  (hs.foldl (fun _ _ h1 => h1.invCob)).invHusk

theorem State.Sound.setptCmd {f : FuncNo} {c : Cmd} (hs : s.Sound M R) : (s.setptCmd f c).Sound M R :=
  .ite hs.endCmd hs.modFunc.invAll.endCmd

theorem State.Sound.execSetpt {f : FuncNo} (hs : s.Sound M R) : EndsSound M R (Machine.execSetpt f s) :=
  .next (hs.runHead (fun _ _ h1 => h1.setptCmd))

theorem State.Sound.quiesceCmd {f : FuncNo} {c : Cmd} (hs : s.Sound M R) : (s.quiesceCmd f c).Sound M R := by
  unfold State.quiesceCmd
  split
  · exact hs.modFunc.endCmd
  · exact hs.modFunc.modTh

theorem State.Sound.execQuiesce {f : FuncNo} (hs : s.Sound M R) : EndsSound M R (Machine.execQuiesce f s) :=
  .next (hs.runHead (fun _ _ h1 => h1.quiesceCmd))

theorem State.Sound.execQuiesceDone {f : FuncNo} (hs : s.Sound M R) : EndsSound M R (Machine.execQuiesceDone f s) := by
  unfold Machine.execQuiesceDone
  refine .next ?_
  split
  · exact hs
  · exact .ite hs.modFunc.endCmd hs

theorem State.Sound.execQuiesceTimeout {f : FuncNo} (hs : s.Sound M R) : EndsSound M R (Machine.execQuiesceTimeout f s) := by
  unfold Machine.execQuiesceTimeout
  refine .next ?_
  split
  · exact hs
  · exact .ite hs hs.endCmd

/-! ## Function resets -/

theorem State.Sound.execReset {f : FuncNo} (hs : s.Sound M R) : EndsSound M R (Machine.execReset f s) := by
  unfold Machine.execReset
  refine .next ?_
  split
  · exact .ite hs.modFunc.resetBegin (hs.runHead (fun _ _ h1 => h1))
  · exact hs.runHead fun _ _ h1 => h1

theorem State.Sound.execFnCtlReset {src : Src} {f : FuncNo} (hs : s.Sound M R) : EndsSound M R (Machine.execFnCtlReset src f s) :=
  .next hs.regWrite

theorem State.Sound.resetStage {f : FuncNo} {st : ResetStage} (hs : s.Sound M R) : (s.resetStage f st).Sound M R := hs.modFunc

theorem State.Sound.lateRecord {f : FuncNo} (hs : s.Sound M R) : (s.lateRecord f).Sound M R := by
  unfold State.lateRecord
  dsimp only
  split
  · exact .ite (hs.modTile (fun _ h1 => h1.same rfl rfl)) hs
  · exact hs

theorem State.Sound.dropHeld {t : TileId} (hs : s.Sound M R) : (s.dropHeld t).Sound M R := by
  unfold State.dropHeld
  dsimp only
  refine .modTile ?_ ?_
  · exact hs.same rfl rfl rfl
  · intro _ h1
    exact h1.same rfl rfl

theorem Tile.Sound.wipe (htl : tl.Sound M R) : tl.wipe.Sound M R :=
  .same (tl := tl.eachThread fun a h => a.modTh h Thread.wipe) (htl.eachThread (fun _ _ h1 => h1.modTh)) rfl rfl

theorem State.Sound.execResetStopThreads {f : FuncNo} (hs : s.Sound M R) : EndsSound M R (Machine.execResetStopThreads f s) := by
  unfold Machine.execResetStopThreads
  exact .next (.ite ((hs.foldl (fun _ _ h1 => (h1.dropHeld.modTile (fun _ h2 => h2.wipe)).dropClaim)).lateRecord.resetStage) hs)

theorem State.Sound.drainEnd {f : FuncNo} (hs : s.Sound M R) : (s.drainEnd f).Sound M R := by
  unfold State.drainEnd
  dsimp only
  refine .modFunc ?_
  refine .foldl ?_ ?_
  · exact hs.same rfl rfl rfl
  · intro _ _ h1
    exact h1.modTile fun _ h2 => h2.same rfl rfl

theorem State.Sound.execResetDrainEnd {f : FuncNo} (hs : s.Sound M R) : EndsSound M R (Machine.execResetDrainEnd f s) :=
  .next (.ite hs.drainEnd.resetStage hs)

theorem State.Sound.resetClearAll {f : FuncNo} (hs : s.Sound M R) : (s.resetClearAll f).Sound M R := by
  unfold State.resetClearAll
  extract_lets s1 clear s2 s3
  have h1 : s1.Sound M R := hs.foldl fun a t ha => by
    refine .ite ha (.modTile (ha.foldl fun _ _ h => h.reassignQueue) fun tl htl => .eachThread (.clearCache ?_) fun _ _ h => h.modTh)
    exact htl.same rfl rfl
  clear_value s1
  have h2 : s2.Sound M R := h1.same rfl rfl rfl
  have h3 : s3.Sound M R := h2.invAll.modFunc
  clear_value s3
  exact .ite (h3.same rfl rfl rfl) h3

theorem State.Sound.execResetClear {f : FuncNo} (hs : s.Sound M R) : EndsSound M R (Machine.execResetClear f s) :=
  .next (.ite hs.resetClearAll.resetStage hs)

theorem State.Sound.resetFinish {f : FuncNo} {cid : Option Word} (hs : s.Sound M R) : (s.resetFinish f cid).Sound M R := by
  unfold State.resetFinish
  dsimp only
  split
  · refine .event ?_
    split
    · exact hs.modFunc.modFunc
    · exact hs.modFunc.event
  · split
    · exact hs.modFunc.modFunc
    · exact hs.modFunc.event

theorem State.Sound.execResetEnd {f : FuncNo} (hs : s.Sound M R) : EndsSound M R (Machine.execResetEnd f s) := by
  unfold Machine.execResetEnd
  refine .next ?_
  split
  · exact .ite hs.resetFinish hs
  · exact hs

/-! ## Posts -/

theorem State.Sound.execPost {src : Src} {f : FuncNo} {w : BitVec 64} (hs : s.Sound M R) :
    EndsSound M R (Machine.execPost src f w s) :=
  .next hs.regWrite

theorem State.Sound.writeEntry {f : FuncNo} (hs : s.Sound M R) : (s.writeEntry f).Sound M R := by
  unfold State.writeEntry
  dsimp only
  split
  · exact hs
  · split
    · exact hs.ask.modFunc.fetch
    · exact hs

theorem State.Sound.execCompletionEntryWrite {f : FuncNo} (hs : s.Sound M R) :
    EndsSound M R (Machine.execCompletionEntryWrite f s) :=
  .next hs.writeEntry

theorem State.Sound.execRingEnable {src : RegSrc} {f : FuncNo} {cq : Bool} {w : BitVec 64} (hs : s.Sound M R) :
    EndsSound M R (Machine.execRingEnable src f cq w s) := by
  unfold Machine.execRingEnable
  dsimp only
  refine .next ?_
  split
  · exact hs.regWrite
  · exact .ite hs.writeRing hs

/-! ## The timebase -/

theorem State.Sound.counterSteps {us : List (ℕ × ℤ)} (hs : s.Sound M R) : (s.counterSteps us).Sound M R := hs.same rfl rfl rfl

theorem State.Sound.execQuadEdge {i : BitVec 1} {x : QuadIn} {other : Option QuadIn} (hs : s.Sound M R) :
    EndsSound M R (Machine.execQuadEdge i x other s) := by
  unfold Machine.execQuadEdge
  dsimp only
  refine .next ?_
  refine .counterSteps ?_
  exact hs.same rfl rfl rfl

theorem State.Sound.execIndexLatch {i : BitVec 1} {n : ℕ} (hs : s.Sound M R) : EndsSound M R (Machine.execIndexLatch i n s) :=
  .next (.ite (hs.same rfl rfl rfl) hs)

theorem State.Sound.execSsiFrame {sdat : Bool} (hs : s.Sound M R) : EndsSound M R (Machine.execSsiFrame sdat s) :=
  .next (.ite hs (.ite (hs.same rfl rfl rfl) (hs.same rfl rfl rfl)))

theorem State.Sound.execSsiUpdate {raw : BitVec 32} (hs : s.Sound M R) : EndsSound M R (Machine.execSsiUpdate raw s) := by
  unfold Machine.execSsiUpdate
  dsimp only
  refine .next ?_
  split
  · exact hs
  · split
    · exact hs.same rfl rfl rfl
    · refine .counterSteps ?_
      exact hs.same rfl rfl rfl

theorem State.Sound.execCounterUpdate {c : BitVec 1} {d : BitVec 48} (hs : s.Sound M R) :
    EndsSound M R (Machine.execCounterUpdate c d s) :=
  .next (.ite hs.counterSteps hs)

theorem State.Sound.execPulseEnd {j : BitVec 3} (hs : s.Sound M R) : EndsSound M R (Machine.execPulseEnd j s) := by
  unfold Machine.execPulseEnd
  refine .next ?_
  exact .ite (.same (s := s.elapse (BitVec.toInt (SMap.get 0 s.pt.pulseEnd j.toNat - s.pt.time)).toNat) hs.elapse rfl rfl rfl) hs

theorem State.Sound.execPositionEventSend (hs : s.Sound M R) : EndsSound M R (Machine.execPositionEventSend s) := by
  unfold Machine.execPositionEventSend
  dsimp only
  refine .next ?_
  split
  · exact hs
  · refine .sendPkt ?_
    exact hs.same rfl rfl rfl

theorem State.Sound.execCounterLoad {src : Src} {c : BitVec 1} {w : BitVec 64} (hs : s.Sound M R) :
    EndsSound M R (Machine.execCounterLoad src c w s) :=
  .next hs.regWrite

theorem State.Sound.execEventEntryEnable {src : Src} {e : BitVec 10} {w : BitVec 64} (hs : s.Sound M R) :
    EndsSound M R (Machine.execEventEntryEnable src e w s) :=
  .next hs.regWrite

theorem State.Sound.execPinWrite {src : Src} {w : BitVec 32} (hs : s.Sound M R) : EndsSound M R (Machine.execPinWrite src w s) :=
  .next hs.regWrite

theorem State.Sound.execSlotWrite {src : Src} {i : BitVec 8} {ans : Bool} {w : BitVec 32} (hs : s.Sound M R) :
    EndsSound M R (Machine.execSlotWrite src i ans w s) :=
  .next hs.regWrite

theorem State.Sound.execSlotValid {src : Src} {i : BitVec 8} (hs : s.Sound M R) : EndsSound M R (Machine.execSlotValid src i s) :=
  .next hs.regWrite

theorem State.Sound.execSlotFree {src : Src} {i : BitVec 8} (hs : s.Sound M R) : EndsSound M R (Machine.execSlotFree src i s) :=
  .next hs.regWrite

/-! ## The line answer port -/

theorem State.Sound.lineFrame {b : List Byte} (hs : s.Sound M R) : (s.lineFrame b).Sound M R := by
  unfold State.lineFrame
  refine .ite hs ?_
  refine .ite (hs.same rfl rfl rfl) ?_
  exact .ite (hs.same rfl rfl rfl) (.ite hs (.ite (hs.same rfl rfl rfl) (.ite (hs.same rfl rfl rfl) (hs.same rfl rfl rfl))))

theorem State.Sound.lineIn {b : List Byte} (hs : s.Sound M R) : (s.lineIn b).Sound M R := .ite hs.lineFrame hs

theorem State.Sound.execQuery {bytes : List (BitVec 8)} (hs : s.Sound M R) : EndsSound M R (Machine.execQuery bytes s) :=
  .next hs.lineIn

theorem State.Sound.execPing {bytes : List (BitVec 8)} (hs : s.Sound M R) : EndsSound M R (Machine.execPing bytes s) :=
  .next hs.lineIn

theorem State.Sound.execOtherOp {bytes : List (BitVec 8)} (hs : s.Sound M R) : EndsSound M R (Machine.execOtherOp bytes s) :=
  .next hs.lineIn

theorem State.Sound.execBadFrame {framing : Bool} {bytes : List (BitVec 8)} (hs : s.Sound M R) :
    EndsSound M R (Machine.execBadFrame framing bytes s) :=
  .next (.ite hs.lineIn (.ite (hs.same rfl rfl rfl) hs))

theorem State.Sound.execAnswerStart (hs : s.Sound M R) : EndsSound M R (Machine.execAnswerStart s) := by
  unfold Machine.execAnswerStart
  dsimp only
  refine .next ?_
  split
  · exact hs
  · exact .ite (hs.same rfl rfl rfl) hs

end

end Sys2Proof.Machine
end

section
/-! O58 and O59: what start-up, images, the loader, power, clocks, reset and service access keep. -/
namespace Sys2Proof.Machine

open Sys2Proof.Safety

section
variable {M R : Prop} {s : State} {tl : Tile}

/-! ## Cold start -/

theorem State.Sound.execColdStart (hs : s.Sound M R) : EndsSound M R (Machine.execColdStart s) :=
  .next (.ite hs (hs.same rfl rfl rfl))

theorem State.Sound.execIdentity {sfdp0 sfdp1 : Bool} {puf : List (BitVec 8)} (hs : s.Sound M R) :
    EndsSound M R (Machine.execIdentity sfdp0 sfdp1 puf s) :=
  .next (.ite hs (hs.same rfl rfl rfl))

theorem State.Sound.mapTiles {f : TileId → Tile → Tile} (hs : s.Sound M R)
    (hf : ∀ t tl, Tile.Sound M R tl → Tile.Sound M R (f t tl)) : (s.mapTiles f).Sound M R := by
  refine ⟨fun hm => ?_, fun t => ?_⟩
  · rw [State.mapTiles_frame]
    generalize (s.mapTiles f).tiles = ts
    exact hs.1 hm
  · rw [State.tile_mapTiles]
    exact hf t _ (hs.2 t)

theorem State.Sound.execFabricPhase {ok : Bool} (hs : s.Sound M R) : EndsSound M R (Machine.execFabricPhase ok s) := by
  unfold Machine.execFabricPhase
  refine .next (.ite hs (.ite (.linkLost ?_) ?_))
  · exact hs.same rfl rfl rfl
  · extract_lets s1
    have h1 : s1.Sound M R := hs.foldl fun _ _ h => h.modCob
    clear_value s1
    refine .mapTiles ?_ fun _ _ htl => ?_
    · exact h1.same rfl rfl rfl
    · exact ⟨fun _ => rfl, htl.2⟩

theorem State.Sound.startFails {reason : Byte} (hs : s.Sound M R) : (s.startFails reason).Sound M R := by
  unfold State.startFails
  dsimp only
  refine .leaveService ?_
  exact hs.same rfl rfl rfl

theorem State.Sound.execHbmPhase {ok : Bool} (hs : s.Sound M R) : EndsSound M R (Machine.execHbmPhase ok s) :=
  .next (.ite hs (.ite (hs.same rfl rfl rfl) hs.startFails))

/-! ## Images -/

theorem State.Sound.execImageRead {dev answers : Bool} (hs : s.Sound M R) :
    EndsSound M R (Machine.execImageRead dev answers s) := by
  unfold Machine.execImageRead
  dsimp only
  refine .next ?_
  split
  · split
    · exact hs
    · split
      · exact hs.same rfl rfl rfl
      · refine .startFails ?_
        exact hs.same rfl rfl rfl
  · exact .ite hs (.ite (hs.same rfl rfl rfl) (hs.same rfl rfl rfl))

theorem State.Sound.applyFunctions {m : SMap Byte} {a : ℕ} (hs : s.Sound M R) : (s.applyFunctions m a).Sound M R := by
  unfold State.applyFunctions
  dsimp only
  refine .foldl ?_ ?_
  · exact hs.mapTiles fun _ _ h1 => h1.same rfl rfl
  · intro _ _ h1
    refine .modFunc ?_
    exact h1.same rfl rfl rfl

theorem State.Sound.applyHbm {m : SMap Byte} {e : Section} (hs : s.Sound M R) : (s.applyHbm m e).Sound M R :=
  hs.foldl fun _ _ h => h.setHbm

theorem State.Sound.imageTctl {t : TileId} {h : Thr} {v : DWord} (hs : s.Sound M R) : (s.imageTctl t h v).Sound M R := by
  unfold State.imageTctl
  dsimp only
  refine .modTh ?_
  exact hs.same rfl rfl rfl

theorem State.Sound.imageWrite {pa : ℕ} {v : DWord} (hs : s.Sound M R) : (s.imageWrite pa v).Sound M R := by
  unfold State.imageWrite
  dsimp only
  split
  · split
    · exact hs.modTile fun _ h1 => h1.same rfl rfl
    · exact hs.imageTctl
    · exact hs.ctWrite
    · exact hs
  · split
    · exact (hs.modTile (fun _ h1 => h1.modQueue)).writeQcfg.modTile fun _ h1 => h1.modQueue
    · exact hs.qtWrite
    · exact hs
  · split
    · exact hs.ceWrite
    · exact hs
  · exact .ite hs.modFunc hs.modFunc
  · exact hs.modFunc
  · split
    · exact hs.same rfl rfl rfl
    · exact hs.ptWrite
    · exact hs
  · exact .ite (hs.same rfl rfl rfl) (hs.same rfl rfl rfl)
  · exact .ite (hs.same rfl rfl rfl) (hs.same rfl rfl rfl)
  · exact hs

theorem State.Sound.imageWrites {l : List (ℕ × DWord)} (hs : s.Sound M R) : (s.imageWrites l).Sound M R :=
  hs.foldl fun _ _ h1 => h1.imageWrite

theorem Tile.Sound.program {m : SMap Byte} {r : ProgRec} (htl : tl.Sound M R) : (tl.program m r).Sound M R :=
  .same (tl := tl.loadWords r.start r.count (flashBytes m r.words (2 * r.count))) htl.loadWords rfl rfl

theorem State.Sound.applyProgram {m : SMap Byte} {e : Section} (hs : s.Sound M R) : (s.applyProgram m e).Sound M R :=
  hs.foldl fun _ _ h1 => h1.mapTiles fun _ _ h2 => .ite h2.program h2

theorem State.Sound.applyCxl {m : SMap Byte} {e : Option Section} {r : CxlReport} (hs : s.Sound M R) :
    (s.applyCxl m e r).Sound M R := by
  unfold State.applyCxl
  dsimp only
  split
  · exact hs.same rfl rfl rfl
  · exact hs.same rfl rfl rfl

theorem State.Sound.applyImage {r : CxlReport} (hs : s.Sound M R) : (s.applyImage r).Sound M R := by
  unfold State.applyImage
  extract_lets m l _ _ s0 s1 s2 s3 s4 _ _ s5
  have h0 : s0.Sound M R := hs.same rfl rfl rfl
  have h1 : s1.Sound M R := by
    unfold s1
    split
    · exact h0.same rfl rfl rfl
    · exact h0
  have h4 : s4.Sound M R := (h1.applyFunctions.foldl fun _ _ h => h.applyHbm).foldl fun _ _ h => h.imageWrites
  clear_value s4
  have h5 : s5.Sound M R := by
    refine .foldl ?_ fun _ _ h => h.applyProgram
    exact h4.same rfl rfl rfl
  exact h5.applyCxl

theorem State.Sound.execImageApply {cxl : CxlReport} (hs : s.Sound M R) : EndsSound M R (Machine.execImageApply cxl s) :=
  .next (.ite hs.applyImage hs)

theorem State.Sound.startHeld (hs : s.Sound M R) : s.startHeld.Sound M R :=
  hs.mapTiles fun _ _ h1 => h1.eachThread fun _ _ h2 => .ite h2.start h2

theorem Tile.Sound.defaults (htl : tl.Sound M R) : tl.defaults.Sound M R := htl.same rfl rfl

theorem Tile.Sound.takeDefaults {t : TileId} {ct qt ce : ℕ → Bool} {rs : List ProgRec} (htl : tl.Sound M R) :
    (tl.takeDefaults t ct qt ce rs).Sound M R := by
  unfold Tile.takeDefaults
  dsimp only
  refine .foldl ?_ fun _ _ h1 => .ite h1 h1.modQueue
  refine .eachThread ?_ fun _ _ h1 => h1.modTh
  exact htl.same rfl rfl

theorem State.Sound.takeDefaults (hs : s.Sound M R) : s.takeDefaults.Sound M R := by
  unfold State.takeDefaults
  extract_lets l rs s1 s2
  have h1 : s1.Sound M R := hs.mapTiles fun _ _ htl => htl.takeDefaults
  clear_value s1
  have h2 : s2.Sound M R := h1.same rfl rfl rfl
  clear_value s2
  exact h2.foldl fun _ _ h => h.modFunc

theorem State.Sound.releaseHalves (hs : s.Sound M R) : s.releaseHalves.Sound M R :=
  hs.foldl fun _ _ h1 => .ite (.setDom (.ite h1.setDom h1)) (.ite h1.setDom h1)

theorem State.Sound.execRelease (hs : s.Sound M R) : EndsSound M R (Machine.execRelease s) := by
  unfold Machine.execRelease
  refine .next (.ite hs ?_)
  extract_lets s1 s2
  have h2 : s2.Sound M R := hs.takeDefaults.startHeld.foldl fun _ _ h => h.modFunc
  clear_value s2
  refine .releaseHalves ?_
  exact h2.same rfl rfl rfl

/-! ## Held accesses, flash and attestation -/

theorem State.Sound.makeAccess {a : HeldAcc} (hs : s.Sound M R) : (s.makeAccess a).Sound M R := by
  unfold State.makeAccess
  split
  · exact hs
  · next b _ =>
      have ht : (s.touchHalf a.pa).Sound M R := hs.touchHalf
      generalize s.touchHalf a.pa = s at ht
      have hw : (s.doWrite a.src b a.width a.data none).Sound M R := ht.doWrite
      have hr : (s.sizedRead b a.width).2.Sound M R := ht.sizedRead
      exact .ite (.ite (hw.same rfl rfl rfl) hw) (.ite (hr.same rfl rfl rfl) (hr.same rfl rfl rfl))

theorem State.Sound.execHeldAccessRelease (hs : s.Sound M R) : EndsSound M R (Machine.execHeldAccessRelease s) := by
  unfold Machine.execHeldAccessRelease
  dsimp only
  refine .next ?_
  split
  · split
    · refine .makeAccess ?_
      exact hs.same rfl rfl rfl
    · exact hs
  · exact hs

theorem State.Sound.writeFcmd {src : Src} {op : DWord} {dev : Bool} {addr : Word} {v : Option Bool} (hs : s.Sound M R) :
    (s.writeFcmd src op dev addr v).Sound M R :=
  hs.regWrite

theorem State.Sound.execFlashRead {src : Src} {dev : Bool} {addr : BitVec 32} (hs : s.Sound M R) :
    EndsSound M R (Machine.execFlashRead src dev addr s) :=
  .next hs.writeFcmd

theorem State.Sound.execFlashProgram {src : Src} {dev : Bool} {addr : BitVec 32} (hs : s.Sound M R) :
    EndsSound M R (Machine.execFlashProgram src dev addr s) :=
  .next hs.writeFcmd

theorem State.Sound.execFlashErase {src : Src} {dev : Bool} {addr : BitVec 32} (hs : s.Sound M R) :
    EndsSound M R (Machine.execFlashErase src dev addr s) :=
  .next hs.writeFcmd

theorem State.Sound.execFlashCheck {src : Src} {dev : Bool} {addr : BitVec 32} {answers : Bool} (hs : s.Sound M R) :
    EndsSound M R (Machine.execFlashCheck src dev addr answers s) :=
  .next hs.writeFcmd

theorem State.Sound.execFlashOpDone {timeout : Bool} (hs : s.Sound M R) : EndsSound M R (Machine.execFlashOpDone timeout s) :=
  .next (hs.same rfl rfl rfl)

theorem State.Sound.execAttestationRequest {src : Src} (hs : s.Sound M R) :
    EndsSound M R (Machine.execAttestationRequest src s) :=
  .next hs.regWrite

theorem State.Sound.execReportSigned {sig : List (BitVec 8)} (hs : s.Sound M R) :
    EndsSound M R (Machine.execReportSigned sig s) :=
  .next (hs.same rfl rfl rfl)

/-! ## Power domains -/

theorem State.Sound.recordHalf {c : CobNo} {so : Bool} (hs : s.Sound M R) : (s.recordHalf c so).Sound M R :=
  hs.foldl fun _ _ h1 => h1.modCob

theorem State.Sound.execHalfSwitchOff {c : CobNo} {south : Bool} (hs : s.Sound M R) :
    EndsSound M R (Machine.execHalfSwitchOff c south s) :=
  .next (.ite hs.recordHalf.setDom hs)

theorem State.Sound.writeBack {c : CobNo} (hs : s.Sound M R) : (s.writeBack c).Sound M R := hs.same rfl rfl rfl

theorem State.Sound.execMemifSwitchOff {c : CobNo} (hs : s.Sound M R) : EndsSound M R (Machine.execMemifSwitchOff c s) :=
  .next (.ite hs.writeBack.setDom hs)

theorem State.Sound.execDomainWake {d : Domain} (hs : s.Sound M R) : EndsSound M R (Machine.execDomainWake d s) :=
  .next (.ite hs.wake hs)

theorem Tile.Sound.powered {t : TileId} {n : ℕ} (htl : tl.Sound M R) : (tl.powered s t n).Sound M R := by
  unfold Tile.powered
  refine .eachThread (.defaults ⟨htl.1, fun _ => ?_⟩) fun _ _ h => h.modTh
  refine List.foldlRecOn (motive := fun m => ∀ k, TileReg.Legal (SMap.get {} m k)) _ _ ?_ ?_
  · exact fun _ => TileReg.legal_default
  · intro m hm j _ k
    rw [SMap.get_set]
    split_ifs
    · exact TileReg.legal_default.same rfl rfl
    · exact hm k

theorem State.Sound.restoreEpochs {t : TileId} (hs : s.Sound M R) : (s.restoreEpochs t).Sound M R :=
  hs.modTile fun _ h1 => h1.foldl fun _ _ h2 => .ite h2.modQueue h2

theorem State.Sound.restoreHalf {c : CobNo} {so : Bool} (hs : s.Sound M R) : (s.restoreHalf c so).Sound M R := by
  unfold State.restoreHalf
  extract_lets n ts run s1 mine s2
  have h1 : s1.Sound M R := by
    refine .foldl ?_ fun _ _ h => h.modTile fun _ htl => htl.powered
    exact hs.same rfl rfl rfl
  have h2 : s2.Sound M R := h1.imageWrites
  refine .foldl ?_ fun _ _ h => h.restoreEpochs
  exact h2.same rfl rfl rfl

theorem State.Sound.holdRoutes (hs : s.Sound M R) : s.holdRoutes.Sound M R := hs.same rfl rfl rfl

theorem State.Sound.execDomainOn {d : Domain} (hs : s.Sound M R) : EndsSound M R (Machine.execDomainOn d s) := by
  unfold Machine.execDomainOn
  dsimp only
  refine .next ?_
  split
  · exact hs
  · split
    · exact .ite hs.restoreHalf.setDom hs
    · exact hs.setDom.retryWindows
    · refine .holdRoutes ?_
      exact hs.same rfl rfl rfl

theorem State.Sound.execKiln1SwitchOff {windows : List (List (BitVec 8 × BitVec 8))} (hs : s.Sound M R) :
    EndsSound M R (Machine.execKiln1SwitchOff windows s) := by
  unfold Machine.execKiln1SwitchOff
  dsimp only
  refine .next ?_
  split
  · refine .holdRoutes ?_
    exact hs.same rfl rfl rfl
  · exact hs

theorem State.Sound.execKiln1SwitchOn {loads : List (BitVec 8)} (hs : s.Sound M R) :
    EndsSound M R (Machine.execKiln1SwitchOn loads s) := by
  unfold Machine.execKiln1SwitchOn
  dsimp only
  refine .next ?_
  split
  · exact hs
  · split
    · exact hs.same rfl rfl rfl
    · exact hs.same rfl rfl rfl
    · exact hs

theorem State.Sound.execKilnRouteChange (hs : s.Sound M R) : EndsSound M R (Machine.execKilnRouteChange s) := by
  unfold Machine.execKilnRouteChange
  dsimp only
  refine .next ?_
  split
  · exact hs
  · split
    · exact hs
    · refine .retryWindows ?_
      exact hs.same rfl rfl rfl

/-! ## Droop and heat -/

theorem State.Sound.execSag {c : CobNo} (hs : s.Sound M R) : EndsSound M R (Machine.execSag c s) := .next (.ite hs.modCob hs)

theorem State.Sound.execSagPersist {c : CobNo} (hs : s.Sound M R) : EndsSound M R (Machine.execSagPersist c s) :=
  .next (.ite hs.modCob hs)

theorem State.Sound.execCleanStepUp {c : CobNo} (hs : s.Sound M R) : EndsSound M R (Machine.execCleanStepUp c s) :=
  .next (.ite hs.modCob hs)

theorem State.Sound.trip (hs : s.Sound M R) : s.trip.Sound M R := by
  unfold State.trip
  extract_lets s1
  have h1 : s1.Sound M R := hs.foldl fun _ _ h => h.modCob
  clear_value s1
  exact h1.same rfl rfl rfl

theorem State.Sound.checkTrip (hs : s.Sound M R) : s.checkTrip.Sound M R := .ite hs.trip hs

theorem State.Sound.execTemperatureRead {dies stk : List (BitVec 8)} (hs : s.Sound M R) :
    EndsSound M R (Machine.execTemperatureRead dies stk s) := by
  unfold Machine.execTemperatureRead
  dsimp only
  refine .next ?_
  split
  · refine .checkTrip ?_
    exact hs.same rfl rfl rfl
  · exact hs

theorem State.Sound.execThermalPeriod (hs : s.Sound M R) : EndsSound M R (Machine.execThermalPeriod s) :=
  .next (.ite ((hs.foldl (fun _ _ h1 => h1.modCob)).checkTrip) hs)

/-! ## Reset and rails -/

theorem State.Sound.lost (hs : s.Sound M R) : s.lost.Sound M R := ⟨fun hm => ⟨rfl, (hs.1 hm).2⟩, fun _ => Tile.sound_default⟩

theorem State.Sound.execColdrstAssert (hs : s.Sound M R) : EndsSound M R (Machine.execColdrstAssert s) :=
  .next (.same (s := s.lost) hs.lost rfl rfl rfl)

theorem State.Sound.railFault {rail : BitVec 5} (hs : s.Sound M R) : (s.railFault rail).Sound M R := by
  unfold State.railFault
  extract_lets _ s1 t _
  have h1 : s1.Sound M R := hs.same rfl rfl rfl
  have ht : t.Sound M R := h1.lost
  clear_value t
  exact .ite (ht.same rfl rfl rfl) h1

theorem State.Sound.execRailFault {rail : BitVec 5} (hs : s.Sound M R) : EndsSound M R (Machine.execRailFault rail s) :=
  .next (.ite hs hs.railFault)

/-! ## Service access -/

theorem State.Sound.jtagAccess {write : Bool} (hs : s.Sound M R) : (s.jtagAccess write).Sound M R := by
  unfold State.jtagAccess
  dsimp only
  split
  · exact hs
  · split
    · exact hs.same rfl rfl rfl
    · exact .ite hs.makeAccess hs.holdAccess

theorem State.Sound.execCsraddr {x : BitVec 48} (hs : s.Sound M R) : EndsSound M R (Machine.execCsraddr x s) := by
  unfold Machine.execCsraddr
  dsimp only
  refine .next ?_
  split
  · exact hs.same rfl rfl rfl
  · refine .jtagAccess ?_
    exact hs.same rfl rfl rfl

theorem State.Sound.execCsrdata {x : BitVec 65} (hs : s.Sound M R) : EndsSound M R (Machine.execCsrdata x s) := by
  unfold Machine.execCsrdata
  dsimp only
  refine .next ?_
  split
  · refine .jtagAccess ?_
    exact hs.same rfl rfl rfl
  · exact hs.same rfl rfl rfl

theorem State.Sound.execIdcode (hs : s.Sound M R) : EndsSound M R (Machine.execIdcode s) := .next (hs.same rfl rfl rfl)

theorem State.Sound.execBypass (hs : s.Sound M R) : EndsSound M R (Machine.execBypass s) := .next (hs.same rfl rfl rfl)

theorem State.Sound.execSamplePreload {l : List Bool} (hs : s.Sound M R) : EndsSound M R (Machine.execSamplePreload l s) :=
  .next (hs.same rfl rfl rfl)

theorem State.Sound.execExtest (hs : s.Sound M R) : EndsSound M R (Machine.execExtest s) := .next (hs.same rfl rfl rfl)

theorem State.Sound.mgmtRefuses {status : Byte} {n : ℕ} (hs : s.Sound M R) : (s.mgmtRefuses status n).Sound M R :=
  hs.same rfl rfl rfl

theorem State.Sound.mgmtRead {pa n : ℕ} (hs : s.Sound M R) : (s.mgmtRead pa n).Sound M R := by
  unfold State.mgmtRead
  dsimp only
  split
  · exact hs.mgmtRefuses
  · split
    · exact hs.mgmtRefuses
    · split
      · exact hs.mgmtRefuses
      · exact .ite hs.makeAccess (.ite hs.mgmtRefuses hs.holdAccess)

theorem State.Sound.execCsrRead {x : SbXfer} (hs : s.Sound M R) : EndsSound M R (Machine.execCsrRead x s) := by
  unfold Machine.execCsrRead
  dsimp only
  refine .next ?_
  split
  · split
    · exact hs.same rfl rfl rfl
    · refine .mgmtRead ?_
      exact hs.same rfl rfl rfl
  · exact hs.same rfl rfl rfl

theorem State.Sound.execCsrWrite {x : SbXfer} (hs : s.Sound M R) : EndsSound M R (Machine.execCsrWrite x s) := by
  unfold Machine.execCsrWrite
  dsimp only
  refine .next ?_
  split
  · split
    · exact hs.same rfl rfl rfl
    · refine .regWrite ?_
      exact hs.same rfl rfl rfl
  · exact hs.same rfl rfl rfl

theorem State.Sound.execSidebandStatus {x : SbXfer} (hs : s.Sound M R) : EndsSound M R (Machine.execSidebandStatus x s) :=
  .next (.ite (hs.same rfl rfl rfl) (hs.same rfl rfl rfl))

theorem State.Sound.execDynamicAddress {a : BitVec 7} (hs : s.Sound M R) : EndsSound M R (Machine.execDynamicAddress a s) :=
  .next (.ite (hs.same rfl rfl rfl) hs)

theorem State.Sound.execRegisterWrite {src : Src} {pa : BitVec 46} {width : BitVec 8} {x : BitVec 64} (hs : s.Sound M R) :
    EndsSound M R (Machine.execRegisterWrite src pa width x s) :=
  .next hs.regWrite

theorem State.Sound.execLadeRelease (hs : s.Sound M R) : EndsSound M R (Machine.execLadeRelease s) :=
  .next (.ite (hs.same rfl rfl rfl) hs)

/-! ## Domains and rails that go off -/

theorem State.Sound.loseHalf {c : CobNo} {so : Bool} (hs : s.Sound M R) : (s.loseHalf c so).Sound M R :=
  hs.foldl fun _ _ h => h.modTile fun _ _ => Tile.sound_default.same rfl rfl

theorem State.Sound.lose {d : Domain} (hs : s.Sound M R) : (s.lose d).Sound M R := by
  unfold State.lose
  split
  · exact hs.loseHalf
  · refine .modCob ?_
    exact hs.same rfl rfl rfl
  · exact hs

theorem State.Sound.execSwitchOffSequenceEnd {d : Domain} (hs : s.Sound M R) :
    EndsSound M R (Machine.execSwitchOffSequenceEnd d s) := by
  unfold Machine.execSwitchOffSequenceEnd
  refine .next ?_
  split
  · exact .ite hs hs.lose.setDom
  · exact hs

theorem State.Sound.execRailOff {rail : BitVec 5} (hs : s.Sound M R) : EndsSound M R (Machine.execRailOff rail s) :=
  .next (.ite hs (.same (s := s.railFault rail) hs.railFault rfl rfl rfl))

theorem State.Sound.execStackScrub {pa : BitVec 46} {ecc : Ecc} (hs : s.Sound M R) :
    EndsSound M R (Machine.execStackScrub pa ecc s) := by
  unfold Machine.execStackScrub
  dsimp only
  refine .next ?_
  split
  · exact hs
  · split
    · exact hs.same rfl rfl rfl
    · exact hs

end

end Sys2Proof.Machine
end

section
/-! The command that a step performs, and the settling of O58 and O59: canonical byte memories, and
legal shapes of tile registers (R124, R127). -/
namespace Sys2Proof.Machine

open Sys2Proof.Safety

section
variable {M R : Prop} {s : State} {tl : Tile}

/-! ## The command at the front -/

theorem State.Sound.exec {i : Instr} (hs : s.Sound M R) : EndsSound M R (Machine.exec i s) := by
  cases i with
  | nop => exact hs.execNop
  | stop => exact hs.execStop
  | lift => exact hs.execLift
  | brkpt => exact hs.execBrkpt
  | rtns => exact hs.execRtns
  | rtnm => exact hs.execRtnm
  | mfs => exact hs.execMfs
  | mts => exact hs.execMts
  | add => exact hs.execAdd
  | sub => exact hs.execSub
  | and_ => exact hs.execAnd
  | or_ => exact hs.execOr
  | xor => exact hs.execXor
  | shl => exact hs.execShl
  | shr => exact hs.execShr
  | sar => exact hs.execSar
  | mul => exact hs.execMul
  | cmp => exact hs.execCmp
  | mov => exact hs.execMov
  | addi => exact hs.execAddi
  | andi => exact hs.execAndi
  | cmpi => exact hs.execCmpi
  | ldi => exact hs.execLdi
  | mova => exact hs.execMova
  | adda => exact hs.execAdda
  | lai => exact hs.execLai
  | lah => exact hs.execLah
  | ld => exact hs.execLd
  | st => exact hs.execSt
  | lda => exact hs.execLda
  | sta => exact hs.execSta
  | zline => exact hs.execZline
  | br => exact hs.execBr
  | call => exact hs.execCall
  | jr => exact hs.execJr
  | rep => exact hs.execRep
  | smov => exact hs.execSmov
  | sscn => exact hs.execSscn
  | sfil => exact hs.execSfil
  | bput => exact hs.execBput
  | bmov => exact hs.execBmov
  | band => exact hs.execBand
  | bor => exact hs.execBor
  | bxor => exact hs.execBxor
  | bwait => exact hs.execBwait
  | bskp => exact hs.execBskp
  | brd => exact hs.execBrd
  | bwr => exact hs.execBwr
  | vld => exact hs.execVld
  | vst => exact hs.execVst
  | vbc => exact hs.execVbc
  | vext => exact hs.execVext
  | vperm => exact hs.execVperm
  | vsel => exact hs.execVsel
  | vcmp => exact hs.execVcmp
  | vcvt => exact hs.execVcvt
  | vxs => exact hs.execVxs
  | vxck => exact hs.execVxck
  | vroute => exact hs.execVroute
  | vadd => exact hs.execVadd
  | vsub => exact hs.execVsub
  | vmul => exact hs.execVmul
  | vfma => exact hs.execVfma
  | vmax => exact hs.execVmax
  | vmin => exact hs.execVmin
  | vand => exact hs.execVand
  | vor => exact hs.execVor
  | vxor => exact hs.execVxor
  | vrsum => exact hs.execVrsum
  | vrmax => exact hs.execVrmax
  | vexp => exact hs.execVexp
  | vrcp => exact hs.execVrcp
  | tcfg => exact hs.execTcfg
  | tld => exact hs.execTld
  | tst => exact hs.execTst
  | tzero => exact hs.execTzero
  | tfree => exact hs.execTfree
  | tmov => exact hs.execTmov
  | trdv => exact hs.execTrdv
  | twrv => exact hs.execTwrv
  | ttrn => exact hs.execTtrn
  | tcvt => exact hs.execTcvt
  | tskip => exact hs.execTskip
  | mscl => exact hs.execMscl
  | mma => exact hs.execMma
  | mmaz => exact hs.execMmaz
  | mmas => exact hs.execMmas
  | mwait => exact hs.execMwait
  | qput => exact hs.execQput
  | qcmt => exact hs.execQcmt
  | qmcst => exact hs.execQmcst
  | qrick => exact hs.execQrick
  | qrd => exact hs.execQrd
  | qtry => exact hs.execQtry
  | qdrop => exact hs.execQdrop
  | qclose => exact hs.execQclose
  | qarm => exact hs.execQarm
  | rel => exact hs.execRel
  | acq => exact hs.execAcq
  | ceput => exact hs.execCeput
  | ceres => exact hs.execCeres
  | ceqry => exact hs.execCeqry
  | reservedEncoding => exact hs.execReservedEncoding
  | asyncEventTaken => exact hs.execAsyncEventTaken
  | timer => exact hs.execTimer
  | blockedWake => exact hs.execBlockedWake
  | loadDataArrival => exact hs.execLoadDataArrival
  | vectorResult => exact hs.execVectorResult
  | storeAck => exact hs.execStoreAck
  | storeRefusal => exact hs.execStoreRefusal
  | sectorFill => exact hs.execSectorFill
  | translationWalk => exact hs.execTranslationWalk
  | matrixStart => exact hs.execMatrixStart
  | matrixCommit => exact hs.execMatrixCommit
  | cordGrant => exact hs.execCordGrant
  | threadStart => exact hs.execThreadStart
  | threadStop => exact hs.execThreadStop
  | threadHalt => exact hs.execThreadHalt
  | threadUnhalt => exact hs.execThreadUnhalt
  | sws => exact hs.execSws
  | swm => exact hs.execSwm
  | step => exact hs.execStep
  | haltall => exact hs.execHaltall
  | inv => exact hs.execInv
  | csizeWrite => exact hs.execCsizeWrite
  | messageArrival => exact hs.execMessageArrival
  | waitingMessagePlaced => exact hs.execWaitingMessagePlaced
  | rickContributionArrival => exact hs.execRickContributionArrival
  | routerCombine => exact hs.execRouterCombine
  | rickHoldExpiry => exact hs.execRickHoldExpiry
  | creditRequestArrival => exact hs.execCreditRequestArrival
  | heldRequestGrant => exact hs.execHeldRequestGrant
  | grantArrival => exact hs.execGrantArrival
  | creditReturnArrival => exact hs.execCreditReturnArrival
  | creditIdleReturn => exact hs.execCreditIdleReturn
  | flush => exact hs.execFlush
  | responseArrival => exact hs.execResponseArrival
  | queueEnable => exact hs.execQueueEnable
  | queueDisable => exact hs.execQueueDisable
  | reassign => exact hs.execReassign
  | close => exact hs.execClose
  | disarm => exact hs.execDisarm
  | descriptorStart => exact hs.execDescriptorStart
  | chunkStart => exact hs.execChunkStart
  | chunkFinish => exact hs.execChunkFinish
  | completionMessageSend => exact hs.execCompletionMessageSend
  | lateError => exact hs.execLateError
  | pause => exact hs.execPause
  | go => exact hs.execGo
  | resume => exact hs.execResume
  | abort => exact hs.execAbort
  | winv => exact hs.execWinv
  | winvDone => exact hs.execWinvDone
  | sweep => exact hs.execSweep
  | sweepDone => exact hs.execSweepDone
  | inboundWindowRequest => exact hs.execInboundWindowRequest
  | inboundWrite => exact hs.execInboundWrite
  | remoteAccessArrival => exact hs.execRemoteAccessArrival
  | lmemZeroDone => exact hs.execLmemZeroDone
  | sliceRequest => exact hs.execSliceRequest
  | addI32 => exact hs.execAddI32
  | addF32 => exact hs.execAddF32
  | addXs => exact hs.execAddXs
  | ckadd => exact hs.execCkadd
  | ckrd => exact hs.execCkrd
  | cxlCompletion => exact hs.execCxlCompletion
  | cxlLinkDown => exact hs.execCxlLinkDown
  | csrAccessComplete => exact hs.execCsrAccessComplete
  | dieLinkFrame => exact hs.execDieLinkFrame
  | dieLinkReplay => exact hs.execDieLinkReplay
  | dieLinkRetrain => exact hs.execDieLinkRetrain
  | dieLinkRetrainEnd => exact hs.execDieLinkRetrainEnd
  | machineCheck => exact hs.execMachineCheck
  | censusStart => exact hs.execCensusStart
  | censusProbe => exact hs.execCensusProbe
  | censusReport => exact hs.execCensusReport
  | tlFrame => exact hs.execTlFrame
  | nak => exact hs.execNak
  | assign => exact hs.execAssign
  | retrain => exact hs.execRetrain
  | tlRetrainEnd => exact hs.execTlRetrainEnd
  | doorbell => exact hs.execDoorbell
  | cfgwr => exact hs.execCfgwr
  | cfgrd => exact hs.execCfgrd
  | wr => exact hs.execWr
  | acc => exact hs.execAcc
  | clm => exact hs.execClm
  | rsp => exact hs.execRsp
  | rdc => exact hs.execRdc
  | cmdNop => exact hs.execCmdNop
  | cmdStatus => exact hs.execCmdStatus
  | pmem => exact hs.execPmem
  | tctl => exact hs.execTctl
  | start => exact hs.execStart
  | copy => exact hs.execCopy
  | msg => exact hs.execMsg
  | setpt => exact hs.execSetpt
  | quiesce => exact hs.execQuiesce
  | quiesceDone => exact hs.execQuiesceDone
  | quiesceTimeout => exact hs.execQuiesceTimeout
  | reset => exact hs.execReset
  | fnCtlReset => exact hs.execFnCtlReset
  | resetStopThreads => exact hs.execResetStopThreads
  | resetDrainEnd => exact hs.execResetDrainEnd
  | resetClear => exact hs.execResetClear
  | resetEnd => exact hs.execResetEnd
  | post => exact hs.execPost
  | completionEntryWrite => exact hs.execCompletionEntryWrite
  | ringEnable => exact hs.execRingEnable
  | quadEdge => exact hs.execQuadEdge
  | indexLatch => exact hs.execIndexLatch
  | ssiFrame => exact hs.execSsiFrame
  | ssiUpdate => exact hs.execSsiUpdate
  | counterUpdate => exact hs.execCounterUpdate
  | pulseEnd => exact hs.execPulseEnd
  | positionEventSend => exact hs.execPositionEventSend
  | counterLoad => exact hs.execCounterLoad
  | eventEntryEnable => exact hs.execEventEntryEnable
  | pinWrite => exact hs.execPinWrite
  | slotWrite => exact hs.execSlotWrite
  | slotValid => exact hs.execSlotValid
  | slotFree => exact hs.execSlotFree
  | query => exact hs.execQuery
  | ping => exact hs.execPing
  | otherOp => exact hs.execOtherOp
  | badFrame => exact hs.execBadFrame
  | answerStart => exact hs.execAnswerStart
  | coldStart => exact hs.execColdStart
  | identity => exact hs.execIdentity
  | fabricPhase => exact hs.execFabricPhase
  | hbmPhase => exact hs.execHbmPhase
  | imageRead => exact hs.execImageRead
  | imageApply => exact hs.execImageApply
  | release => exact hs.execRelease
  | heldAccessRelease => exact hs.execHeldAccessRelease
  | flashRead => exact hs.execFlashRead
  | flashProgram => exact hs.execFlashProgram
  | flashErase => exact hs.execFlashErase
  | flashCheck => exact hs.execFlashCheck
  | flashOpDone => exact hs.execFlashOpDone
  | attestationRequest => exact hs.execAttestationRequest
  | reportSigned => exact hs.execReportSigned
  | halfSwitchOff => exact hs.execHalfSwitchOff
  | memifSwitchOff => exact hs.execMemifSwitchOff
  | domainWake => exact hs.execDomainWake
  | domainOn => exact hs.execDomainOn
  | kiln1SwitchOff => exact hs.execKiln1SwitchOff
  | kiln1SwitchOn => exact hs.execKiln1SwitchOn
  | kilnRouteChange => exact hs.execKilnRouteChange
  | sag => exact hs.execSag
  | sagPersist => exact hs.execSagPersist
  | cleanStepUp => exact hs.execCleanStepUp
  | temperatureRead => exact hs.execTemperatureRead
  | thermalPeriod => exact hs.execThermalPeriod
  | coldrstAssert => exact hs.execColdrstAssert
  | railFault => exact hs.execRailFault
  | csraddr => exact hs.execCsraddr
  | csrdata => exact hs.execCsrdata
  | idcode => exact hs.execIdcode
  | bypass => exact hs.execBypass
  | samplePreload => exact hs.execSamplePreload
  | extest => exact hs.execExtest
  | csrRead => exact hs.execCsrRead
  | csrWrite => exact hs.execCsrWrite
  | sidebandStatus => exact hs.execSidebandStatus
  | dynamicAddress => exact hs.execDynamicAddress
  | registerWrite => exact hs.execRegisterWrite
  | ladeRelease => exact hs.execLadeRelease
  | switchOffSequenceEnd => exact hs.execSwitchOffSequenceEnd
  | railOff => exact hs.execRailOff
  | stackScrub => exact hs.execStackScrub

theorem State.Sound.step (hs : s.Sound M R) : EndsSound M R (Machine.step s) := by
  unfold Machine.step
  split
  · exact .next hs.elapse
  · refine State.Sound.exec ?_
    exact hs.same rfl rfl rfl

end

/-- Settles O58: the command at the front of the queue keeps every byte memory canonical (`State.Sound.step`). -/
theorem memoriesStayCanonical : Obligations.MemoriesStayCanonical := by
  unfold Obligations.MemoriesStayCanonical
  intro s u hmem hlmem hu
  have hs : s.Sound True False := ⟨fun _ => hmem, fun t => ⟨fun _ => hlmem t, False.elim⟩⟩
  have h := hs.step
  rw [hu] at h
  exact ⟨h.1 trivial, fun t => (h.2 t).1 trivial⟩

/-- Settles O59: the command at the front of the queue keeps every tile register in a legal shape (`State.Sound.step`); only TCFG
gives a register another shape, and it checks it. -/
theorem tileShapesStayLegal : Obligations.TileShapesStayLegal := by
  unfold Obligations.TileShapesStayLegal
  intro legal s u hl hu
  have hs : s.Sound False True := ⟨False.elim, fun t => ⟨False.elim, fun _ k => hl t k⟩⟩
  have h := hs.step
  rw [hu] at h
  exact fun t k => (h.2 t).2 trivial k

end Sys2Proof.Machine
end
